-- ==== Sys2Proof/Word.lean ====
section
/-! DEFINITION. The word types of the model (R8, R9): bytes, 16, 32 and 64-bit words, and the 512-bit vector. Everything the spec numbers as bits is one of these; exact arithmetic (R13) is on `Int` and `Nat`. -/

namespace Sys2Proof

/-- One byte of memory or of a frame. -/
abbrev Byte := BitVec 8
/-- A register of R9: 32 bits. -/
abbrev W32 := BitVec 32
/-- A general register of a thread, a descriptor word, a virtual or device physical address in flight. -/
abbrev W64 := BitVec 64
/-- A vector register of a thread (R237): 64 bytes. -/
abbrev W512 := BitVec 512

end Sys2Proof
end

