-- ==== Sys2Proof/Machine/Arith.lean ====
section
/-! DEFINITION. Exact integer helpers of the spec: R13, R14 and R43 (rounding), R47 to R49 (the S24 scale format), little-endian bytes (R8) and bit fields. Every value is an exact `Int` or `Nat`. -/

namespace Sys2Proof.Machine

/-- `floor_div(a, b)` of R14, b > 0. -/
def floorDiv (a b : Int) : Int := Int.fdiv a b

/-- `a mod b` of R13, in 0 to b - 1 for b > 0. -/
def modInt (a b : Int) : Int := Int.fmod a b

/-- `x >> n` of R13: toward minus infinity. -/
def shrInt (x : Int) (n : Nat) : Int := Int.fdiv x (2 ^ n)

/-- `x << n` of R13. -/
def shlInt (x : Int) (n : Nat) : Int := x * (2 ^ n)

/-- `rnd_away(x, n)` of R14: x / 2^n to nearest, ties away from zero. -/
def rndAway (x : Int) (n : Nat) : Int :=
  if n = 0 then x
  else if 0 ≤ x then shrInt (x + 2 ^ (n - 1)) n
  else -(shrInt (-x + 2 ^ (n - 1)) n)

/-- `rnd_div(a, b)` of R43: a / b to nearest, ties away from zero, b > 0. -/
def rndDiv (a b : Int) : Int :=
  if 0 ≤ a then floorDiv (2 * a + b) (2 * b) else -(floorDiv (-2 * a + b) (2 * b))

/-- `sat(x, lo, hi)` of R14. -/
def sat (x lo hi : Int) : Int := min (max x lo) hi

/-- `bitlen(x)` of R49, 0 for 0. -/
def bitlen (n : Nat) : Nat := if n = 0 then 0 else n.log2 + 1

/-- `ceil(a / b)` on naturals. -/
def ceilDiv (a b : Nat) : Nat := (a + b - 1) / b

/-- Rounds up to a multiple of `b`. -/
def roundUp (a b : Nat) : Nat := ceilDiv a b * b

/-- `a << n` for n ≥ 0, `a >> -n` (exact shift of a natural) otherwise. -/
def shlBy (a : Nat) (n : Int) : Nat := if 0 ≤ n then a * 2 ^ n.toNat else a

/-- An S24 scale (R47): significand 0 to 65,535 and exponent -128 to 127; value m × 2^(e − 15). -/
structure S24 where
  m : Nat
  e : Int
  deriving DecidableEq, Repr

/-- A scale of exactly 1.0 (R76, 0x00_8000). -/
def S24.one : S24 := ⟨32768, 0⟩

/-- Reads the 24-bit field of an S24 slot; bits [31:24] are ignored (R47). -/
def S24.ofSlot (w : Nat) : S24 :=
  let e := w / 65536 % 256
  ⟨w % 65536, if e < 128 then (e : Int) else (e : Int) - 256⟩

/-- The 4-byte slot value of a scale: bits [31:24] are 0 (R47). -/
def S24.toSlot (s : S24) : Nat := s.m % 65536 + 65536 * (modInt s.e 256).toNat

/-- R59: the scale's value is at most 2^15. -/
def S24.withinLimit (s : S24) : Bool :=
  s.m = 0 || decide (if 0 ≤ s.e - 30 then (s.m : Int) * 2 ^ (s.e - 30).toNat ≤ 1
    else (s.m : Int) ≤ 2 ^ (30 - s.e).toNat)

/-- `mul_s24(x, m, e, sh)` of R49. -/
def mulS24 (x : Int) (s : S24) (sh : Int) : Int :=
  let n := 15 - s.e + sh
  if n ≤ 0 then x * s.m * 2 ^ (-n).toNat else rndAway (x * s.m) n.toNat

/-- `s24_from_ratio(num, den)` of R49. -/
def s24FromRatio (num den : Nat) : S24 :=
  if num = 0 then ⟨0, 0⟩
  else
    let e0 : Int := (bitlen num : Int) - (bitlen den : Int)
    let below : Bool :=
      if 0 ≤ e0 then decide (num < den * 2 ^ e0.toNat) else decide (num * 2 ^ (-e0).toNat < den)
    let e1 := if below then e0 - 1 else e0
    let m0 : Int :=
      if e1 ≤ 15 then rndDiv ((num * 2 ^ (15 - e1).toNat : Nat) : Int) den
      else rndDiv num ((den * 2 ^ (e1 - 15).toNat : Nat) : Int)
    let m1 := if m0 = 65536 then 32768 else m0
    let e2 := if m0 = 65536 then e1 + 1 else e1
    if e2 > 127 then ⟨65535, 127⟩
    else if e2 < -128 then ⟨(rndDiv ((num * 2 ^ 143 : Nat) : Int) den).toNat, -128⟩
    else ⟨m1.toNat, e2⟩

/-- The signed value of the low `n` bits of a natural (R13's iN). -/
def sext (n : Nat) (v : Nat) : Int :=
  let u := v % 2 ^ n
  if u < 2 ^ (n - 1) then (u : Int) else (u : Int) - 2 ^ n

/-- The `n`-bit two's-complement code of an integer. -/
def wrapN (n : Nat) (x : Int) : Nat := (modInt x (2 ^ n)).toNat

/-- Bits [hi:lo] of a natural (R8). -/
def bits (v hi lo : Nat) : Nat := v / 2 ^ lo % 2 ^ (hi + 1 - lo)

/-- Bit `i` of a natural. -/
def bitAt (v i : Nat) : Bool := v / 2 ^ i % 2 = 1

/-- Bits [hi:lo] of `v` replaced by `x`. -/
def setBits (v hi lo x : Nat) : Nat :=
  v - bits v hi lo * 2 ^ lo + x % 2 ^ (hi + 1 - lo) * 2 ^ lo

/-- 1 for true, 0 for false. -/
def b2n (b : Bool) : Nat := if b then 1 else 0

/-- Reads bytes as a little-endian natural (R8). -/
def leNat : List Byte → Nat
  | [] => 0
  | b :: r => b.toNat + 256 * leNat r

/-- The `n` little-endian bytes of a natural (R8). -/
def leBytes : Nat → Nat → List Byte
  | 0, _ => []
  | n + 1, v => BitVec.ofNat 8 v :: leBytes n (v / 256)

/-- `n` bytes of a list from offset `o`, zero beyond its end. -/
def sliceBytes (l : List Byte) (o n : Nat) : List Byte :=
  let t := (l.drop o).take n
  t ++ List.replicate (n - t.length) 0

/-- The little-endian value of `n` bytes of a list at offset `o`. -/
def leAt (l : List Byte) (o n : Nat) : Nat := leNat (sliceBytes l o n)

/-- Big-endian value of a byte list (network fields). -/
def beNat (l : List Byte) : Nat := leNat l.reverse

/-- The `n` big-endian bytes of a natural. -/
def beBytes (n v : Nat) : List Byte := (leBytes n v).reverse

/-- Overwrites `l` with `b` from offset `o` (the list keeps its length; bytes past its end are dropped). -/
def patchBytes (l : List Byte) (o : Nat) (b : List Byte) : List Byte :=
  (l.take o ++ b ++ l.drop (o + b.length)).take l.length

/-- Sum of a list of integers. -/
def sumInt (l : List Int) : Int := l.foldl (· + ·) 0

/-- The integers 0 to n − 1 mapped. -/
def tabulate {α : Type} (n : Nat) (f : Nat → α) : List α := (List.range n).map f

/-- Element `i` of an integer list, 0 beyond its end. -/
def atInt (l : List Int) (i : Nat) : Int := l.getD i 0

end Sys2Proof.Machine
end

