-- ==== Sys2Proof/Machine/RansMath.lean ====
section
/-! DEFINITION. The rANS coder as exact integer functions: table banks (R215, R216), steps (R209 to R211), symbols and escapes (R213), chunks (R212, R219, R224) and CRC-32 (R220). -/

namespace Sys2Proof.Machine

/-- One bank of a rANS table slot (R215): identity, shape and the frequency entries, class by class. -/
structure CtBank where
  valid : Bool
  k : Nat
  a : Nat
  h : Nat
  tset : Nat
  modelId : Nat
  modelHash : Nat
  freq : List Nat
  deriving DecidableEq, Repr

/-- A bank at cluster wake: not valid, every field 0 (R215). -/
def CtBank.blank : CtBank := ⟨false, 0, 0, 0, 0, 0, 0, []⟩

/-- `start[c]` and `freq[c]` of every index of class c (R209): pairs in index order. -/
def ctStarts : List Nat → Nat → List (Nat × Nat)
  | [], _ => []
  | f :: r, s => (s, f) :: ctStarts r (s + f)

def CtBank.cls (b : CtBank) (c : Nat) : List (Nat × Nat) :=
  ctStarts ((b.freq.drop (c * (b.a + 1))).take (b.a + 1)) 0

/-- R216: each frequency of a class is at least 1 and they sum to 65,536. -/
def ctClassOk (f : List Nat) : Bool := f.all (fun x => decide (1 ≤ x)) && decide (f.foldl (· + ·) 0 = 65536)

/-- The least lane state L = 2^23 (R209). -/
def ransL : Nat := 2 ^ 23

/-- `bit(b)` of R213: a bypass bit as a step. -/
def ransBit (b : Nat) : Nat × Nat := (b * 32768, 32768)

/-- The bits of m from bit q down to bit 0 (R213). -/
def ransBits (m : Nat) : Nat → List (Nat × Nat)
  | 0 => [ransBit (m % 2)]
  | q + 1 => ransBit (m / 2 ^ (q + 1) % 2) :: ransBits m q

/-- `steps(s, c)` of R213 in decoding order; the second component says it is an escape. -/
def ransSteps (b : CtBank) (s : Int) (c : Nat) : List (Nat × Nat) × Bool :=
  let t := b.cls c
  let k := s + b.h
  if 0 ≤ k ∧ k < b.a then ([t.getD k.toNat (0, 65536)], false)
  else
    let above := decide (s > (b.a : Int) - 1 - b.h)
    let e : Int := if above then s - ((b.a : Int) - b.h) else -(b.h : Int) - 1 - s
    let m := e.toNat + 1
    let n := bitlen m - 1
    (t.getD b.a (0, 65536) :: ransBit (b2n (!above)) :: (List.replicate n (ransBit 0) ++ ransBits m n), true)

/-- The renormalisation of `enc_put`: bytes leave to the front of the stream (R210). A state below 2^31 emits at most two
bytes at frequency 1, so a fuel of 4 is never used up. -/
def encRenorm (freq : Nat) : Nat → Nat → List Byte → Nat × List Byte
  | 0, x, out => (x, out)
  | n + 1, x, out =>
    if freq * 32768 ≤ x then encRenorm freq n (x / 256) (BitVec.ofNat 8 x :: out) else (x, out)

/-- `enc_put` of R210. -/
def encPut (x : Nat) (sf : Nat × Nat) (out : List Byte) : Nat × List Byte :=
  let r := encRenorm sf.2 4 x out
  (r.1 / sf.2 * 65536 + r.1 % sf.2 + sf.1, r.2)

/-- Encodes one chunk: symbols with classes are visited last to first (R212). `l` is the symbol list reversed, paired with the
index of each symbol. Answers the lane states, the stream and the escapes. -/
def encChunkGo (b : CtBank) (lanes : Nat) : List (Nat × Int × Nat) → List Nat × List Byte × Nat → List Nat × List Byte × Nat
  | [], st => st
  | (i, s, c) :: r, (xs, out, esc) =>
    let ss := ransSteps b s c
    let j := i % lanes
    let e := ss.1.reverse.foldl (fun (p : Nat × List Byte) q => encPut p.1 q p.2) (xs.getD j ransL, out)
    encChunkGo b lanes r (xs.set j e.1, e.2, esc + b2n ss.2)

/-- Index pairs of a list from `i`. -/
def enumFrom {α : Type} : Nat → List α → List (Nat × α)
  | _, [] => []
  | i, a :: r => (i, a) :: enumFrom (i + 1) r

/-- The bytes of one chunk (R219), padded to a multiple of 8, and its escapes. -/
def encChunk (b : CtBank) (lanesLog2 first : Nat) (last : Bool) (syms : List (Int × Nat)) : List Byte × Nat :=
  let n := 2 ^ lanesLog2
  let r := encChunkGo b n (enumFrom 0 syms).reverse (List.replicate n ransL, [], 0)
  let body := leBytes 4 r.2.1.length ++ leBytes 4 syms.length ++ leBytes 1 lanesLog2 ++ leBytes 1 (b2n last) ++ leBytes 2 0
    ++ leBytes 4 first ++ r.1.flatMap (leBytes 4) ++ r.2.1
  (body ++ List.replicate (roundUp body.length 8 - body.length) 0, r.2.2)

/-- A decoder's state: lane states, the bytes not yet read, and whether it failed. -/
structure DecSt where
  xs : List Nat
  rest : List Byte
  ok : Bool
  deriving DecidableEq, Repr

/-- `renorm(j)` of R211 on one lane state. -/
def decRenorm : Nat → Nat → List Byte → Nat × List Byte × Bool
  | 0, x, l => (x, l, true)
  | n + 1, x, l =>
    if x < ransL then
      match l with
      | [] => (x, [], false)
      | b :: r => decRenorm n (x * 256 + b.toNat) r
    else (x, l, true)

/-- Stores a lane's new state after its renormalisation. -/
def decStore (d : DecSt) (j x : Nat) : DecSt :=
  let r := decRenorm 4 x d.rest
  ⟨d.xs.set j r.1, r.2.1, d.ok && r.2.2⟩

/-- The index with start ≤ t < start + freq (R211). -/
def decFind (t : Nat) : List (Nat × Nat) → Nat → Nat × Nat × Nat
  | [], k => (k, 0, 65536)
  | (s, f) :: r, k => if s ≤ t ∧ t < s + f then (k, s, f) else decFind t r (k + 1)

/-- `dec_step(j, c)` of R211. -/
def decStep (b : CtBank) (d : DecSt) (j c : Nat) : Nat × DecSt :=
  let x := d.xs.getD j 0
  let t := x % 65536
  let f := decFind t (b.cls c) 0
  (f.1, decStore d j (f.2.2 * (x / 65536) + t - f.2.1))

/-- `dec_bit(j)` of R211. -/
def decBit (d : DecSt) (j : Nat) : Nat × DecSt :=
  let x := d.xs.getD j 0
  let t := x % 65536
  let b := t / 32768
  (b, decStore d j (32768 * (x / 65536) + t - b * 32768))

/-- Counts the zeros of an escape; more than 15 fails the chunk (R224). -/
def decZeros (j : Nat) : Nat → Nat → DecSt → Nat × DecSt
  | 0, n, d => (n, { d with ok := false })
  | fuel + 1, n, d =>
    let r := decBit d j
    if !d.ok then (n, d) else if r.1 = 1 then (n, r.2) else decZeros j fuel (n + 1) r.2

/-- Reads `n` value bits after the leading one (R224). -/
def decValue (j : Nat) : Nat → Nat → DecSt → Nat × DecSt
  | 0, m, d => (m, d)
  | n + 1, m, d => let r := decBit d j; decValue j n (2 * m + r.1) r.2

/-- Decodes one symbol of class c on lane j; the third component says it was an escape. -/
def decSymbol (b : CtBank) (wide : Bool) (d : DecSt) (j c : Nat) : Int × DecSt × Bool :=
  let r := decStep b d j c
  if r.1 < b.a then ((r.1 : Int) - b.h, r.2, false)
  else
    let sg := decBit r.2 j
    let z := decZeros j 16 0 sg.2
    let v := decValue j z.1 1 z.2
    let e : Int := (v.1 : Int) - 1
    let s : Int := if sg.1 = 0 then (b.a : Int) - b.h + e else -(b.h : Int) - 1 - e
    let lim : Int := if wide then 32768 else 128
    (s, { v.2 with ok := v.2.ok && decide (-lim ≤ s ∧ s < lim) }, true)

/-- Decodes the symbols of a chunk in order (R212, R224). -/
def decSymbols (b : CtBank) (wide : Bool) (lanes : Nat) : List (Nat × Nat) → DecSt → Nat → List Int × DecSt × Nat
  | [], d, esc => ([], d, esc)
  | (i, c) :: r, d, esc =>
    if d.ok then
      let s := decSymbol b wide d (i % lanes) c
      let t := decSymbols b wide lanes r s.2.1 (esc + b2n s.2.2)
      (s.1 :: t.1, t.2)
    else ([], d, esc)

/-- `decode_chunk` of R224 on the chunk's bytes; none when the chunk fails. -/
def decChunk (b : CtBank) (wide : Bool) (ch : List Byte) (c0 chunkSyms tensor chunkCount : Nat) (classes : List Nat) :
    Option (List Int × Nat) :=
  let sb := leAt ch 0 4
  let s := leAt ch 4 4
  let lg := leAt ch 8 1
  let last := bitAt (leAt ch 9 1) 0
  let first := leAt ch 12 4
  let n := 2 ^ lg
  if first ≠ c0 * chunkSyms ∨ 5 < lg then none
  else if s ≠ min chunkSyms (tensor - first) then none
  else if last ≠ decide (c0 + 1 = chunkCount) then none
  else
    let xs := tabulate n (fun j => leAt ch (16 + 4 * j) 4)
    if xs.any (fun x => decide (x < ransL ∨ 2 ^ 31 ≤ x)) then none
    else
      let r := decSymbols b wide n (enumFrom 0 classes) ⟨xs, sliceBytes ch (16 + 4 * n) sb, true⟩ 0
      if r.2.1.ok && r.2.1.rest.isEmpty && r.2.1.xs.all (fun x => decide (x = ransL)) then some (r.1, r.2.2) else none

/-- One bit of CRC-32 with the reflected polynomial 0xEDB8_8320 (RFC 1952). -/
def crcBit (c : Nat) : Nat := if c % 2 = 1 then Nat.xor (c / 2) 0xEDB88320 else c / 2

/-- One byte of CRC-32. -/
def crcByte (c : Nat) (b : Byte) : Nat :=
  crcBit (crcBit (crcBit (crcBit (crcBit (crcBit (crcBit (crcBit (Nat.xor c b.toNat))))))))

/-- CRC-32 with the gzip polynomial and conventions (R220). -/
def crc32 (l : List Byte) : Nat := Nat.xor (l.foldl crcByte 0xFFFFFFFF) 0xFFFFFFFF

/-- Adler-32 of the zlib format. -/
def adler32 (l : List Byte) : Nat :=
  let r := l.foldl (fun (p : Nat × Nat) b => let a := (p.1 + b.toNat) % 65521; (a, (p.2 + a) % 65521)) (1, 0)
  r.2 * 65536 + r.1

end Sys2Proof.Machine
end

