-- ==== Sys2Proof/Machine/SfMath.lean ====
section
/-! DEFINITION. The evaluation machine of the special-function cores (R174 to R178), micro-program images and their rules (R180, R181, R199), integer normalisation (R187, R188), soft maximum (R191, R192) and the entropy-model table builder (R193, R194), as exact functions. -/

namespace Sys2Proof.Machine

/-- A micro-program, as read from its image (R180): identity, steps, segment shape, coefficients and endpoints. -/
structure SfProg where
  progId : Nat
  contract : Nat
  segLog2 : Nat
  deg : Nat
  cfrac : Nat
  nseg : Nat
  steps : List Nat
  coeff : List Int
  endp : List Int
  deriving DecidableEq, Repr

/-- The empty program of a bank that holds none. -/
def SfProg.none : SfProg := ⟨0, 0, 0, 0, 0, 0, [], [], []⟩

/-- The event counts an evaluation raises: SF_SEAM_CLAMP, SF_CLAMPS, SF_FLUSH (R176 to R178). -/
structure SfCount where
  seam : Nat
  clamp : Nat
  flush : Nat
  deriving DecidableEq, Repr

def SfCount.zero : SfCount := ⟨0, 0, 0⟩

def SfCount.add (a b : SfCount) : SfCount := ⟨a.seam + b.seam, a.clamp + b.clamp, a.flush + b.flush⟩

/-- The state of R174: X, S, E and Y (unset at first). -/
structure SfEval where
  x : Int
  s : Bool
  e : Int
  y : Option Int
  cnt : SfCount
  deriving DecidableEq, Repr

/-- Horner's rule of R176 from degree `j` down to 0. -/
def sfHorner (p : SfProg) (k : Nat) (t : Int) : Nat → Int → Int
  | 0, acc => acc
  | j + 1, acc => sfHorner p k t j (rndAway (acc * t) p.segLog2 + atInt p.coeff (k * (p.deg + 1) + j))

/-- POLY of R176 with the monotonic seam guard; the second component says that the guard clamped. -/
def sfPoly (p : SfProg) (x : Int) : Int × Bool :=
  if x < 0 then (atInt p.endp 0, false)
  else
    let k := (shrInt x p.segLog2).toNat
    if p.nseg ≤ k then (atInt p.endp p.nseg, false)
    else
      let t := modInt x (2 ^ p.segLog2)
      if t = 0 then (atInt p.endp k, false)
      else
        let h := sfHorner p k t p.deg (atInt p.coeff (k * (p.deg + 1) + p.deg))
        let y := rndAway h (p.cfrac - 15)
        let lo := min (atInt p.endp k) (atInt p.endp (k + 1))
        let hi := max (atInt p.endp k) (atInt p.endp (k + 1))
        (sat y lo hi, decide (y < lo ∨ hi < y))

/-- One step of R175 (END is read by `sfRun`). -/
def sfStep (p : SfProg) (st : SfEval) (w : Nat) : SfEval :=
  let y := st.y.getD 0
  match bits w 31 28 with
  | 1 => { st with s := decide (st.x < 0), x := if st.x < 0 then -st.x else st.x }
  | 2 => { st with x := st.x - shlInt (sext 28 w) 4 }
  | 3 => { st with x := rndAway (st.x * bits w 15 0) (bits w 21 16) }
  | 4 => { st with e := shrInt st.x (bits w 5 0), x := modInt st.x (2 ^ bits w 5 0) }
  | 5 => if (if st.x < 0 then -st.x else st.x) < 2 ^ bits w 5 0 then { st with y := some (atInt p.endp 0) } else st
  | 6 => match st.y with
    | some _ => st
    | none => { st with y := some (sfPoly p st.x).1, cnt := { st.cnt with seam := st.cnt.seam + b2n (sfPoly p st.x).2 } }
  | 7 =>
    let r := if 0 ≤ st.e then rndAway y (min st.e 63).toNat else shlInt y (min (-st.e) 16).toNat
    { st with y := some r, cnt := { st.cnt with flush := st.cnt.flush + b2n (decide (0 ≤ st.e ∧ y ≠ 0 ∧ r = 0)) } }
  | 8 => { st with y := some (if st.s then -y else y) }
  | 9 => { st with y := some (if st.s then (bits w 16 0 : Int) - y else y) }
  | _ => st

/-- Runs the steps to END, whose output is Y clamped to Q0.15 (R175, R177). -/
def sfRun (p : SfProg) : List Nat → SfEval → Int × SfCount
  | [], st => (sat (st.y.getD 0) (-32768) 32767, st.cnt)
  | w :: r, st =>
    if bits w 31 28 = 0 then
      let y := st.y.getD 0
      let o := sat y (-32768) 32767
      (o, { st.cnt with clamp := st.cnt.clamp + b2n (decide (o ≠ y)) })
    else sfRun p r (sfStep p st w)

/-- `sf(x)` for x with f fractional bits (R174). -/
def sfEval (p : SfProg) (x : Int) (f : Nat) : Int × SfCount :=
  sfRun p p.steps ⟨shlInt x (24 - f), false, 0, none, SfCount.zero⟩

/-- The size of an image (R181): header and steps, coefficients, padded endpoints. -/
def sfExtent (nseg deg : Nat) : Nat := 128 + 4 * nseg * (deg + 1) + ceilDiv (2 * (nseg + 1)) 64 * 64

/-- The header rules of R180 and R181 found at staging: each field in its range and the extent within 8 KiB. -/
def sfHeaderOk (h : List Byte) : Bool :=
  let nseg := leAt h 8 2
  let deg := leAt h 5 1
  decide (1 ≤ leAt h 0 2) && decide (leAt h 2 1 = 1) && decide (1 ≤ leAt h 3 1 ∧ leAt h 3 1 ≤ 16)
    && decide (8 ≤ leAt h 4 1 ∧ leAt h 4 1 ≤ 30) && decide (1 ≤ deg ∧ deg ≤ 4)
    && decide (15 ≤ leAt h 6 1 ∧ leAt h 6 1 ≤ 30) && decide (1 ≤ nseg ∧ nseg ≤ 256)
    && decide (sfExtent nseg deg ≤ 8192)

/-- Reads a program from its image (R180). -/
def sfParse (b : List Byte) : SfProg :=
  let nseg := leAt b 8 2
  let deg := leAt b 5 1
  let nc := nseg * (deg + 1)
  { progId := leAt b 0 2, contract := leAt b 2 1, segLog2 := leAt b 4 1, deg := deg, cfrac := leAt b 6 1, nseg := nseg,
    steps := tabulate (leAt b 3 1) (fun i => leAt b (64 + 4 * i) 4),
    coeff := tabulate nc (fun i => sext 32 (leAt b (128 + 4 * i) 4)),
    endp := tabulate (nseg + 1) (fun i => sext 16 (leAt b (128 + 4 * nc + 2 * i) 2)) }

/-- The operand bits a step defines (R175). -/
def sfOperandOk (w : Nat) : Bool :=
  let o := bits w 27 0
  match bits w 31 28 with
  | 0 => o = 0
  | 1 => o = 0
  | 2 => true
  | 3 => decide (o < 2 ^ 22)
  | 4 => decide (o < 2 ^ 6)
  | 5 => decide (o ≤ 40)
  | 6 => o = 0
  | 7 => o = 0
  | 8 => o = 0
  | 9 => decide (o < 2 ^ 17)
  | _ => false

/-- The rules on STEPS of R181, checked at step 2 of R184. -/
def sfStepsOk (steps : List Nat) : Bool :=
  let ops := steps.map (fun w => bits w 31 28)
  let before := ops.takeWhile (fun o => !(o == 6))
  let after := (ops.dropWhile (fun o => !(o == 6))).drop 1
  decide ((ops.filter (fun o => o == 6)).length = 1) && decide ((ops.filter (fun o => o == 0)).length = 1)
    && decide (ops.getLast? = some 0) && decide ((ops.filter (fun o => o == 1)).length ≤ 1)
    && before.all (fun o => decide (1 ≤ o ∧ o ≤ 5)) && after.all (fun o => o == 0 || decide (7 ≤ o ∧ o ≤ 9))
    && steps.all sfOperandOk

/-- `isqrt(y)` of R188 (the largest s with s² ≤ y), found bit by bit below bit `i`. -/
def isqrtGo (y : Nat) : Nat → Nat → Nat
  | 0, s => s
  | i + 1, s => isqrtGo y i (if (s + 2 ^ i) * (s + 2 ^ i) ≤ y then s + 2 ^ i else s)

/-- A statistics record (R187). -/
structure NormRec where
  s1 : Int
  s2 : Nat
  n : Nat
  deriving DecidableEq, Repr

/-- NORM_STATS of one row segment: exact sums (R187). -/
def normStats (d : List Int) : NormRec := ⟨sumInt d, (sumInt (d.map (fun x => x * x))).toNat, d.length⟩

/-- The 32 bytes of a statistics record (R187). -/
def normRecBytes (r : NormRec) : List Byte :=
  leBytes 8 (wrapN 64 r.s1) ++ leBytes 10 r.s2 ++ leBytes 2 0 ++ leBytes 4 r.n ++ leBytes 8 0

/-- Reads a statistics record (R187). -/
def normRecOf (b : List Byte) : NormRec := ⟨sext 64 (leAt b 0 8), leAt b 8 10, leAt b 20 4⟩

/-- The combined record of a row (R188). -/
def normSum (l : List NormRec) : NormRec :=
  l.foldl (fun a r => ⟨a.s1 + r.s1, a.s2 + r.s2, a.n + r.n⟩) ⟨0, 0, 0⟩

/-- The zh values of R188 in Q15; the second component says W = 0. -/
def normZh (r : NormRec) (rms : Bool) (eps : Nat) (d : List Int) : List Int × Bool :=
  let a : Int := if rms then 0 else r.s1
  let dd : Int := if rms then (r.n : Int) * r.s2 else (r.n : Int) * r.s2 - r.s1 * r.s1
  let w : Int := shlInt dd 16 + (r.n : Int) * r.n * eps
  if w = 0 then (d.map (fun _ => 0), true)
  else
    let s := isqrtGo (floorDiv (2 ^ 126) w).toNat 64 0
    let rc : Int := ((s + 1) / 2 : Nat)
    (d.map (fun x => rndAway (((r.n : Int) * x - a) * rc) 39), false)

/-- `wt(dd)` of R191 with the factors (ma, ea) and (mb, eb); the second component is I (the base-2 exponent). -/
def smWeight (exp2n : SfProg) (a b : S24) (dd : Int) : Int × Int × SfCount :=
  let n := 6 - a.e - b.e
  let t := if 0 < n then rndAway (dd * a.m * b.m) n.toNat else dd * a.m * b.m * 2 ^ (-n).toNat
  let i := shrInt (-t) 24
  let fr := modInt (-t) (2 ^ 24)
  let e := sfEval exp2n fr 24
  (if i ≤ 63 then rndAway (shlInt e.1 31) i.toNat else 0, i, e.2)

/-- One row of SOFTMAX (R191, R192): the codes, the flushed weights with the seam clamps, and whether no element lives. DESIGN CHOICE (log 39): the weight of a live
element counts its clamps once, though the procedure evaluates it twice. -/
def softmaxRow (exp2n : SfProg) (a b : S24) (q : Int) (d : List (Int × Bool)) : List Int × SfCount × Bool :=
  let live := d.filter (fun p => p.2)
  match live with
  | [] => (d.map (fun _ => 0), SfCount.zero, true)
  | (d0, _) :: r =>
    let m := r.foldl (fun x p => max x p.1) d0
    let ws := d.map (fun p => if p.2 then some (smWeight exp2n a b (p.1 - m)) else none)
    let s := sumInt (ws.map (fun w => match w with | some t => t.1 | none => 0))
    let cnt := ws.foldl (fun (c : SfCount) w => match w with
      | some t => SfCount.add (SfCount.add c t.2.2) ⟨0, 0, b2n (decide (t.1 = 0))⟩
      | none => c) SfCount.zero
    (ws.map (fun w => match w with | some t => rndDiv (t.1 * q) s | none => 0), cnt, false)

/-- The edge C(k2) of R193, with its counts. -/
def tbEdge (f : SfProg) (inv : S24) (k2 : Int) : Int × SfCount :=
  let x := mulS24 k2 inv (-23)
  let c := sat x (-(2 ^ 31)) (2 ^ 31 - 1)
  let r := sfEval f c 24
  (r.1, SfCount.add r.2 ⟨0, b2n (decide (c ≠ x)), 0⟩)

/-- The index of the first greatest element. -/
def argMaxGo : List Int → Nat → Nat → Int → Nat
  | [], _, best, _ => best
  | x :: r, i, best, v => if v < x then argMaxGo r (i + 1) i x else argMaxGo r (i + 1) best v

def argMax (l : List Int) : Nat := match l with | [] => 0 | x :: r => argMaxGo r 1 0 x

/-- Adds `d` at index `i`. -/
def addAt (l : List Int) (i : Nat) (d : Int) : List Int := l.set i (atInt l i + d)

/-- Takes one from the first greatest, `n` times (R193). -/
def tbShrink : Nat → List Int → List Int
  | 0, l => l
  | n + 1, l => tbShrink n (addAt l (argMax l) (-1))

/-- `build_class(INV)` of R193: the A + 1 frequencies, the counts, and the negative masses set to 0. DESIGN CHOICE (log 39): an edge between two bins counts its
clamps for each of them. -/
def tbClass (f : SfProg) (inv : S24) (a h : Nat) : List Int × SfCount × Nat :=
  let edge := fun (i : Nat) => tbEdge f inv (2 * ((i : Int) - h) - 1)
  let es := tabulate (a + 1) edge
  let diffs := tabulate a (fun i => (es.getD (i + 1) (0, SfCount.zero)).1 - (es.getD i (0, SfCount.zero)).1)
  let neg := (diffs.filter (fun x => decide (x < 0))).length
  let raw := diffs.map (fun x => max x 0) ++
    [(es.getD 0 (0, SfCount.zero)).1 + 32768 - (es.getD a (0, SfCount.zero)).1]
  let b : Int := 65536 - ((a : Int) + 1)
  let fq := raw.map (fun r => 1 + rndDiv (r * b) 32768)
  let diff := 65536 - sumInt fq
  let cnt := es.foldl (fun c e => SfCount.add c e.2) SfCount.zero
  -- every interior edge is evaluated twice by the procedure, as the upper edge of i and the lower edge of i + 1,
  -- and the two outer edges once more by the escape
  (if 0 ≤ diff then addAt fq (argMax fq) diff else tbShrink (-diff).toNat fq, SfCount.add cnt cnt, neg)

/-- TB_INDEX of one code: how many boundaries lie at or below it (R194). -/
def tbIndex (bnd : List Int) (code : Int) : Nat := (bnd.filter (fun b => decide (b ≤ code))).length

/-- R194: the boundaries do not decrease. -/
def tbSorted : List Int → Bool
  | a :: b :: r => decide (a ≤ b) && tbSorted (b :: r)
  | _ => true

end Sys2Proof.Machine
end

