-- ==== Sys2Proof/Machine/SfRom.lean ====
section
/-! DEFINITION. The published programs of table set 1 (R198) and their integers (R200 to R203), as the on-die ROM of every cluster holds them (R199). -/

namespace Sys2Proof.Machine

/-- Coefficients of tanh from segment 0 (R200). -/
def tanhCoeff0 : List Int :=
  [0, 268435456, -265998, -5190048, 262979410, 252333317, -16131791, -2986413, 496194519, 211110488, -24991334, -327680, 681985996, 160144785, -25717064, 1341784, 817755498, 112736004, -21498928, 1845048, 910837622, 75273293, -15880910, 1665532, 971895538, 48508070, -10871086, 1261768, 1010794290, 30551202, -7100265, 871508]

/-- Coefficients of tanh from segment 8 (R200). -/
def tanhCoeff1 : List Int :=
  [1035116731, 18965188, -4505459, 571087, 1050147543, 11667525, -2808876, 362840, 1059369035, 7138299, -1732388, 226325, 1065001268, 4352492, -1061470, 139615, 1068431904, 2648395, -647791, 85551, 1070518059, 1609466, -394383, 52216, 1071785355, 977342, -239741, 31785, 1072554741, 593216, -145614, 19327]

/-- Coefficients of tanh from segment 16 (R200). -/
def tanhCoeff2 : List Int :=
  [1073021665, 359960, -88405, 11747, 1073304964, 218386, -53635, 7120, 1073476836, 132478, -32542, 4322, 1073581094, 80360, -19749, 2628, 1073644333, 48746, -11980, 1596, 1073682691, 29567, -7271, 970, 1073709056, 0, 0, 0, 1073709056, 0, 0, 0]

/-- Coefficients of tanh from segment 24 (R200). -/
def tanhCoeff3 : List Int :=
  [1073709056, 0, 0, 0, 1073709056, 0, 0, 0, 1073709056, 0, 0, 0, 1073709056, 0, 0, 0, 1073709056, 0, 0, 0, 1073709056, 0, 0, 0, 1073709056, 0, 0, 0, 1073709056, 0, 0, 0]

/-- Endpoints of tanh (R200). -/
def tanhEndp : List Int :=
  [0, 8025, 15143, 20813, 24956, 27797, 29660, 30847, 31589, 32048, 32329, 32501, 32606, 32670, 32708, 32732, 32746, 32755, 32760, 32763, 32765, 32766, 32767, 32767, 32767, 32767, 32767, 32767, 32767, 32767, 32767, 32767, 32767]

/-- The published program tanh (R198, R200). -/
def tanhProg : SfProg :=
  ⟨1, 1, 22, 3, 30, 32, [0x10000000, 0x60000000, 0x80000000, 0x00000000],
    tanhCoeff0 ++ tanhCoeff1 ++ tanhCoeff2 ++ tanhCoeff3, tanhEndp⟩

/-- Coefficients of logistic from segment 0 (R201). -/
def logisticCoeff0 : List Int :=
  [536870912, 67108864, -4319, -343035, 603632422, 66071121, -1040980, -301944, 668360619, 63083328, -1951531, -229841, 729262575, 58490742, -2642316, -142829, 784968172, 52777622, -3069113, -57311, 834619369, 46467462, -3237495, 14575, 877863911, 40036198, -3189621, 66866, 914777355, 33857556, -2985191, 98943]

/-- Coefficients of logistic from segment 8 (R201). -/
def logisticCoeff1 : List Int :=
  [945748663, 28184003, -2685341, 113790, 971361115, 23154691, -2341877, 115796, 992289725, 18818325, -1993222, 109448, 1009224273, 15160227, -1664257, 98435, 1022818681, 12127017, -1368782, 85466, 1033662382, 9645851, -1112474, 72299, 1042268058, 7637801, -895785, 59995, 1049070069, 6026215, -716099, 49093]

/-- Coefficients of logistic from segment 16 (R201). -/
def logisticCoeff2 : List Int :=
  [1054429279, 4741297, -569154, 39698, 1058641120, 3722084, -450357, 31837, 1061944685, 2916883, -355143, 25385, 1064531811, 2282753, -279219, 20087, 1066555431, 1784575, -219126, 15876, 1068136756, 1393951, -171655, 12494, 1069371546, 1088124, -134303, 9814, 1070335181, 848960, -104966, 7691]

/-- Coefficients of logistic from segment 24 (R201). -/
def logisticCoeff3 : List Int :=
  [1071086866, 662100, -81999, 6036, 1071673003, 516211, -63970, 4699, 1072129943, 402368, -49899, 3667, 1072486079, 313570, -38938, 2880, 1072763591, 244335, -30369, 2258, 1072979814, 190369, -23632, 1733, 1073148284, 148305, -18439, 1366, 1073279517, 115527, -14356, 1058]

/-- Endpoints of logistic (R201). -/
def logisticEndp : List Int :=
  [16384, 18421, 20397, 22255, 23955, 25471, 26790, 27917, 28862, 29644, 30282, 30799, 31214, 31545, 31807, 32015, 32179, 32307, 32408, 32487, 32549, 32597, 32635, 32664, 32687, 32705, 32719, 32730, 32738, 32745, 32750, 32754, 32757]

/-- The published program logistic (R198, R201). -/
def logisticProg : SfProg :=
  ⟨2, 1, 22, 3, 30, 32, [0x10000000, 0x60000000, 0x90008000, 0x00000000],
    logisticCoeff0 ++ logisticCoeff1 ++ logisticCoeff2 ++ logisticCoeff3, logisticEndp⟩

/-- Coefficients of exp2n from segment 0 (R202). -/
def exp2nCoeff0 : List Int :=
  [536870912, -93032641, 8041837, -427285, 451452826, -78230815, 6762345, -359295, 379625062, -65784008, 5686431, -302131, 319225355, -55317538, 4781700, -254060]

/-- Endpoints of exp2n (R202). -/
def exp2nEndp : List Int :=
  [16384, 13777, 11585, 9742, 8192]

/-- The published program exp2n (R198, R202). -/
def exp2nProg : SfProg :=
  ⟨16, 1, 22, 3, 30, 4, [0x60000000, 0x00000000],
    exp2nCoeff0, exp2nEndp⟩

/-- Coefficients of gaussCdf from segment 0 (R203). -/
def gaussCdfCoeff0 : List Int :=
  [536870912, 107090254, -20608, -1084536, 642856023, 103795432, -3309240, -890044, 742452170, 94506818, -5998435, -557996, 830402557, 80835959, -7672008, -179474, 903387034, 64953523, -8193910, 154596, 960301243, 49029490, -7705415, 382819, 1002008137, 34767117, -6532632, 486012, 1030728634, 23159888, -5056597, 482132]

/-- Coefficients of gaussCdf from segment 8 (R203). -/
def gaussCdfCoeff1 : List Int :=
  [1049314057, 14493090, -3600705, 409456, 1060615897, 8520047, -2370263, 308566, 1067074247, 4705219, -1447235, 210095, 1070542327, 2441036, -821576, 130594, 1072292381, 1189665, -434412, 74609, 1073122243, 544670, -214208, 39335, 1073492040, 234258, -98628, 19215, 1073646885, 94647, -42425, 8710]

/-- Endpoints of gaussCdf (R203). -/
def gaussCdfEndp : List Int :=
  [16384, 19618, 22658, 25342, 27569, 29306, 30579, 31455, 32023, 32367, 32565, 32670, 32724, 32749, 32760, 32765, 32767]

/-- The published program gaussCdf (R198, R203). -/
def gaussCdfProg : SfProg :=
  ⟨17, 1, 22, 3, 30, 16, [0x10000000, 0x60000000, 0x90008000, 0x00000000],
    gaussCdfCoeff0 ++ gaussCdfCoeff1, gaussCdfEndp⟩

/-- The ROM image of a published identifier (R199): none when table set 1 publishes no program under it. -/
def romProg (id : Nat) : Option SfProg :=
  if id = 1 then some tanhProg else if id = 2 then some logisticProg
  else if id = 0x10 then some exp2nProg else if id = 0x11 then some gaussCdfProg else none

end Sys2Proof.Machine
end

