-- ==== Sys2Proof/Machine/Types/Cluster.lean ====
section
/-! DEFINITION. The state of one cluster (R22): tags, issue queues and running tensor, SF and coder instructions (R287 to R289, R129), weight registers (R103, R113), function and rANS slots (R182, R215), thread cores and flocks (R232 to R238, R253), barges (R301), locks and the pool (R309 to R313), and the cluster translation cache (R347). Plain data throughout. -/

namespace Sys2Proof.Machine

/-- A tag that is allocated or complete (R264); `uid` names the allocation, `record` is the completion record (R289, R323) once
the tag is complete; `cmd` the command whose flock pushed it (R468). A tag not listed is free. -/
structure Tag where
  uid : Nat
  cmd : Nat
  done : Bool
  record : List Byte
  deriving DecidableEq, Repr

/-- A dependency bound at push to an allocation (R276), with the status it completed with. -/
structure Dep where
  uid : Nat
  status : Option Nat
  deriving DecidableEq, Repr

/-- A lock: on the cluster's controller or on the die's (R309). `at_` is the key of the cluster, or the die, that holds it. -/
structure LockId where
  die : Bool
  at_ : Nat
  n : Nat
  deriving DecidableEq, Repr

/-- Where an instruction stands: queued (a pre-empted one with its cursor, R129), staged (R291), running, draining (its passes have all
run, its last output tile waits for the EPE, R115), finished and waiting for its commit, or stopped by a fault (R128, R544). -/
inductive Stage where
  | queued | staged | running | draining | finished | faulted
  deriving DecidableEq, Repr

/-- One set of weight registers of a target, with its side and foot registers: the instruction its tile belongs to (0 when none), the pass it is for
(2^32 × output tile + pass), the 64-byte beats written so far (R113), its bytes (R77), and the weights whose parity bit does not match: a load writes every
parity bit with its byte (R105). -/
structure WTile where
  uid : Nat
  k : Nat
  beats : Nat
  bytes : List Byte
  upset : List Nat
  deriving DecidableEq, Repr

/-- Registers at wake: zeros, of no instruction. -/
def WTile.none : WTile := ⟨0, 0, 0, [], []⟩

/-- Active and shadow weight registers of one array target (R103, R114). `passEnded`: the last vector of the old pass has entered stage M. -/
structure Engine where
  active : WTile
  shadow : WTile
  passEnded : Bool
  deriving DecidableEq, Repr

def Engine.reset : Engine := ⟨WTile.none, WTile.none, true⟩

/-- The progress of one member of an array instruction (R110, R123): its target, its next output tile, the passes run in that
tile, the accumulator store and the group partials of R108 (row by row, column by column), and whether it
has run all its tiles. In a gang, a member that has run every pass of its tile waits for the others (R123). -/
structure Member where
  target : Nat
  tile : Nat
  pass : Nat
  acc : List Int
  part : List Int
  done : Bool
  deriving DecidableEq, Repr

/-- A finished output tile waiting for the EPE (R132): member, tile, accumulators. -/
structure DoneTile where
  uid : Nat
  member : Nat
  tile : Nat
  acc : List Int
  deriving DecidableEq, Repr

/-- The run of an instruction: phase (R94), wide input (R96), units finished (the cursor of R129, R167, R170, R205), members,
tiles written by the EPE, counts of both runs (R91), AUX values (R290), gang decision (R122), parity retry (R127; `rerun` is 64 × (tile + 1) + target of the tile being run again, else 0), the dynamic
row buffer (R134: row, column, v, saturated), chunks of a coder record, and the status gathered so far under R18. -/
structure Run where
  wide : Bool
  wideIn : Bool
  units : Nat
  members : List Member
  written : Nat
  satN : Nat
  ufN : Nat
  satW : Nat
  ufW : Nat
  aux0 : Nat
  aux1 : Nat
  gang : Bool
  retried : Bool
  rerun : Nat
  rowBuf : List (Nat × Nat × Int × Bool)
  chunks : List (List Byte)
  status : Nat
  deriving DecidableEq, Repr

def Run.start : Run := ⟨false, false, 0, [], 0, 0, 0, 0, 0, 0, 0, false, false, 0, [], [], 0⟩

/-- A captured table epoch (R183, R186): function slot or rANS slot, and the epoch. -/
structure Capture where
  rans : Bool
  slot : Nat
  epoch : Nat
  deriving DecidableEq, Repr

/-- A tensor, SF or coder instruction in the issue machinery (R273, R287, R288). -/
structure Entry where
  uid : Nat
  tag : Nat
  w0 : W64
  w1 : W64
  w2 : W64
  w3 : W64
  cmd : Nat
  prio : Nat
  fast : Bool
  deps : List Dep
  depsDone : Bool
  stage : Stage
  args : List Byte
  captured : List Capture
  issued : Bool
  run : Run
  waits : List Nat
  resumed : Bool
  depFailed : Bool
  pinned : List (Nat × Nat)
  holds : List (LockId × Nat)
  tIssue : Nat
  deriving DecidableEq, Repr

/-- One function slot (R182 to R185): epoch, the program of each bank, their validity and users, the waiting and bad flags, and
the virtual address of the last loaded image. -/
structure SfSlot where
  epoch : Nat
  bank0 : SfProg
  bank1 : SfProg
  valid0 : Bool
  valid1 : Bool
  users0 : Nat
  users1 : Nat
  waiting : Bool
  bad : Bool
  loading : Bool
  source : Nat
  deriving DecidableEq, Repr

/-- A slot from 2 to 9 at cluster wake. -/
def SfSlot.blank : SfSlot := ⟨0, SfProg.none, SfProg.none, false, false, 0, 0, false, false, false, 0⟩

/-- Slots 0 and 1 hold TANH and LOGISTIC at cluster wake (R182, R196). -/
def SfSlot.atWake (s : Nat) : SfSlot :=
  if s = 0 then { SfSlot.blank with bank0 := tanhProg, valid0 := true }
  else if s = 1 then { SfSlot.blank with bank0 := logisticProg, valid0 := true }
  else SfSlot.blank

/-- One rANS table slot (R215 to R217). -/
structure CtSlot where
  epoch : Nat
  bank0 : CtBank
  bank1 : CtBank
  users0 : Nat
  users1 : Nat
  waiting : Bool
  bad : Bool
  loading : Bool
  source : Nat
  deriving DecidableEq, Repr

def CtSlot.atWake : CtSlot := ⟨0, CtBank.blank, CtBank.blank, 0, 0, false, false, false, 0⟩

/-- The registers of one thread (R237): g1 to g63, v0 to v31, p7 to p1 and FSTAT; unlisted registers hold 0. -/
structure Thread where
  g : List (Nat × W64)
  v : List (Nat × W512)
  p : BitVec 8
  fstat : BitVec 5
  deriving DecidableEq, Repr

/-- Every register 0 but p0, which reads 1 (R237, R238). -/
def Thread.zero : Thread := ⟨[], [], 1, 0⟩

/-- The states of TH_STATUS (R272). -/
inductive FlockSt where
  | idle | run | wait | faulted | saving | restoring
  deriving DecidableEq, Repr

/-- A join-stack entry (R253). -/
structure Join where
  pc : Nat
  mask : Nat
  isJoin : Bool
  deriving DecidableEq, Repr

/-- What a waiting flock waits for (R243, R262, R264, R311): the opcode and low bits of the instruction it stands on, the thread
that waits, and the address, value or lock the wait names. -/
structure FlockWait where
  op : Nat
  w : BitVec 24
  thread : Nat
  a : Nat
  b : Nat
  since : Nat
  deriving DecidableEq, Repr

/-- One flock of a thread core (R232, R253, R266), with the command that started it (R238), its determinism mode, queue and
priority (R239), and a pre-emption request not yet taken (R267). -/
structure Flock where
  st : FlockSt
  pc : Nat
  active : Nat
  live : Nat
  done : Nat
  stack : List Join
  threads : List (Nat × Thread)
  cmd : Nat
  num : Nat
  fast : Bool
  queue : Nat
  prio : Nat
  wait : Option FlockWait
  preempt : Bool
  deriving DecidableEq, Repr

def Flock.idle : Flock := ⟨.idle, 0, 0, 0, 0, [], [], 0, 0, false, 0, 0, none, false⟩

/-- One thread core: its flocks, its data and instruction caches (R258: line DPA and its 64 bytes), whether the vector engine's clock is gated
(R236), when it last took a thread-vector, and for each shared pipe (vector, memory, issue), the flock that lost it last (R233). -/
structure ThCore where
  f0 : Flock
  f1 : Flock
  dcache : List (Nat × List Byte)
  icache : List (Nat × List Byte)
  vecGated : Bool
  vecReq : Bool
  vecIdle : Nat
  lost : List (Nat × Nat)
  deriving DecidableEq, Repr

/-- At cluster wake no vector engine's clock is charged (R490), so each is gated. -/
def ThCore.atWake : ThCore := ⟨Flock.idle, Flock.idle, [], [], true, false, 0, []⟩

/-- A round of a cluster barrier (R243): the count named by the first arrival, and the flocks that have arrived
(core × 2 + flock). -/
structure Barrier where
  count : Nat
  arrived : List Nat
  deriving DecidableEq, Repr

/-- The states of R301. -/
inductive BargeSt where
  | queued | binding | active | draining | parkedFault | parkedPreempt
  deriving DecidableEq, Repr

/-- A read request of a barge in flight (R305): element, source virtual address and DPA, destination virtual address and DPA, length. -/
structure BargeReq where
  elem : Nat
  va : Nat
  src : Nat
  dst : Nat
  dstDpa : Nat
  len : Nat
  deriving DecidableEq, Repr

/-- What a barge has met at an element (R300, R320, R321): a page without translation or permission (cause and level of R355), a page table that reads
uncorrectable, an access that meets R28, a malformed entry, a read or a write that failed at a DPA. -/
inductive BargeStop where
  | page (cause level : Nat)
  | table
  | bounds
  | entry
  | readFailed (dpa : Nat)
  | writeFailed (dpa : Nat)
  deriving DecidableEq, Repr

/-- A stop of a barge: what it met, at which virtual address, by which kind of access, and when. -/
structure BargeHit where
  what : BargeStop
  va : Nat
  access : Nat
  since : Nat
  deriving DecidableEq, Repr

/-- A barge (R297 to R302, R323). `list` are the bytes of a GATHER's entry list as staging read them, `hit` is what it has met, until it is resumed. -/
structure Barge where
  uid : Nat
  tag : Nat
  desc : List Byte
  cmd : Nat
  prio : Nat
  deps : List Dep
  depsDone : Bool
  st : BargeSt
  staged : Bool
  src : Option (LockId × Nat)
  dst : Option (LockId × Nat)
  elem : Nat
  off : Nat
  bytes : Nat
  out : List BargeReq
  cancel : Option Nat
  halted : Bool
  retried : Bool
  spared : Bool
  depFailed : Bool
  resumed : Bool
  indet : Bool
  zc : Bool
  cause : Nat
  faultVa : Nat
  faultDst : Bool
  preempt : Bool
  started : Bool
  tIssue : Nat
  waits : List Nat
  list : List Byte
  hit : Option BargeHit
  deriving DecidableEq, Repr

/-- Who waits for a lock block: a flock's thread, an instruction or a barge. -/
inductive Waiter where
  | flock (core f t : Nat)
  | instr (uid : Nat)
  | barge (uid : Nat)
  deriving DecidableEq, Repr

/-- A waiter with its cluster, command, priority and the time its wait began (R313, R316). -/
structure LockWait where
  who : Waiter
  cl : Nat
  cmd : Nat
  prio : Nat
  since : Nat
  slot : Nat
  handle : Nat
  deriving DecidableEq, Repr

/-- A block of a lock that is not FREE (R311): its sequence number in the order of taking, its ring index or pool offset, whether
it is FILLED, the command that took it, the slots that have taken and released it, the holder command of each taking slot, and
its instruction holds (R312), the commands in flight on REPLAYABLE queues that keep it from being freed, and (R546) the command whose
replay is to be given it again: 0 none, key + 1 while it waits to be given, key + 1 + 2^60 from then to its commit. -/
structure LockBlk where
  seq : Nat
  idx : Nat
  filled : Bool
  producer : Nat
  taken : Nat
  released : Nat
  holders : List (Nat × Nat)
  holds : Nat
  keep : List Nat
  again : Nat
  deriving DecidableEq, Repr

/-- The dynamic state of a lock (R310, R311, R317): its configuration is held in its registers (R328). -/
structure Lock where
  blks : List LockBlk
  seq : Nat
  nextIdx : Nat
  drain : Nat
  prodWait : List LockWait
  consWait : List LockWait
  producer : Nat
  lastTaker : List (Nat × Nat)
  deriving DecidableEq, Repr

def Lock.reset : Lock := ⟨[], 0, 0, 0, [], [], 0, []⟩

/-- An entry of a translation cache (R347): page base, log2 of its size, page DPA, permissions, pins, and whether it may be used
once only (R353). -/
structure Tlb where
  va : Nat
  lg : Nat
  dpa : Nat
  r : Bool
  w : Bool
  x : Bool
  pins : Nat
  once : Bool
  deriving DecidableEq, Repr

/-- One physical cluster. `tlb` and `dcache` lists have the most recently used entry first. -/
structure Cluster where
  wakeAt : Nat
  lastUid : Nat
  tags : List (Nat × Tag)
  entries : List Entry
  doneTiles : List DoneTile
  engines : List (Nat × Engine)
  split : Nat
  splitReq : Nat
  splitPending : Nat
  gated : Nat
  gateReq : Nat
  lastWeight : Nat
  engIdle : List (Nat × Nat)
  sf : List (Nat × SfSlot)
  ct : List (Nat × CtSlot)
  cores : List (Nat × ThCore)
  barriers : List (Nat × Barrier)
  barges : List Barge
  wrr : List Nat
  locks : List (Nat × Lock)
  tlb : List Tlb
  idleSince : Nat
  preempting : List Nat
  deriving DecidableEq, Repr

/-- A cluster at wake: every block at its reset value (R333), all array, MVE and EPE clocks gated (R138). -/
def Cluster.reset : Cluster :=
  ⟨0, 0, [], [], [], [], 0, 0, 0, 0x3F, 0, 7, [], [], [], [], [], [], [], [], [], 0, []⟩

end Sys2Proof.Machine
end

