-- ==== Sys2Proof/Machine/Types/Link.lean ====
section
/-! DEFINITION. The state of the link dies (R414 to R456): ports, MACsec associations, fault injection, the classifier's banks and flows, egress flows, queue pairs, memory windows, and the PTP servo. Plain data. -/

namespace Sys2Proof.Machine

/-- A secure association (R417, R418): its vault slot, the SCI of its channel, the next PN, the PN at which PN_ALERT is set, and whether it
counts PNs of 64 bits. -/
structure Sa where
  key : Nat
  pn : Nat
  alert : Nat
  xpn : Bool
  deriving DecidableEq, Repr

/-- A frame as it comes out of a port's FEC decoder (R422): from the destination address to the end of the payload, in clear; what MACsec makes of it (0
not protected, 1 valid, 2 fails its validation or replay window), whether its ICRC is right, whether it exceeds the exception path's rate, and its
device time stamp (R41). -/
structure RxFrame where
  bytes : List Byte
  macsec : Nat
  icrcOk : Bool
  excess : Bool
  time : Nat
  deriving DecidableEq, Repr

/-- A datagram the device sends through a sub-port: addresses, ports, DSCP and VLAN tag (0x1000 for none) of its headers, its payload from the RTP
header, the BTH or the PTP message on, the packet number of its MACsec protection (0 none), and the bit that fault injection flipped, plus 1. The
bits of its Ethernet, IPv4 and UDP headers that these fields do not give are those of their standards. -/
structure TxPkt where
  port : Nat
  sub : Nat
  vlan : Nat
  dscp : Nat
  src : Nat
  dst : Nat
  srcUdp : Nat
  dstUdp : Nat
  body : List Byte
  pn : Nat
  flip : Nat
  deriving DecidableEq, Repr

/-- A frame held by REORDER (R452): received or to be sent, the later frames it still waits for, and since when. -/
structure HeldFrame where
  rx : Option RxFrame
  tx : Option TxPkt
  sub : Nat
  left : Nat
  since : Nat
  deriving DecidableEq, Repr

/-- A port, 0 to 23: secure associations by key (16 × (4 × sub-port + AN) for transmit, + 1 + channel for receive), the transmit association in
use of each sub-port plus 1, the LFSRs and held frames of the two directions (0 transmit, 1 receive). -/
structure Port where
  sas : List (Nat × Sa)
  txAn : List (Nat × Nat)
  lfsr : List (Nat × Nat)
  held : List (Nat × HeldFrame)
  deriving DecidableEq, Repr

def Port.reset : Port := ⟨[], [], [], []⟩

/-- The open block of a flow (R427 to R431): the lock and block, the DPA of its first byte, its header's fields, the rows written, the bytes
of records appended, the slots placed, whether the ring had no block for it (R433), and the entry it follows. -/
structure OpenBlk where
  lock : LockId
  blk : Nat
  base : Nat
  isOver : Bool
  entry : List Byte
  rtpTs : Nat
  firstSeq : Nat
  lowSeq : Nat
  lastSeq : Nat
  timeFirst : Nat
  timeLast : Nat
  packets : Nat
  row0 : Nat
  rows : Nat
  wrote : List Nat
  legs : Nat
  flags : Nat
  bytes : Nat
  deriving DecidableEq, Repr

/-- The state of an ingress flow (R423, R432, R436, R456): BLOCK_SEQ of the next block, counters, highest number, the numbers seen among the
last 4,096, the open block, the GEN of the entry it follows, when a packet last came, the base number of an AUDIO_30 flow, and the RTP time stamp last
committed with the number of its bands that are committed. Numbers are counted without wrapping, from 2^32 above the first. -/
structure Flow where
  seq : Nat
  packets : Nat
  lost : Nat
  dup : Nat
  late : Nat
  overrun : Nat
  malformed : Nat
  started : Bool
  high : Nat
  seen : List Nat
  cur : Option OpenBlk
  gen : Nat
  lastAt : Nat
  audio : Option Nat
  doneTs : Option Nat
  doneBand : Nat
  deriving DecidableEq, Repr

def Flow.reset : Flow := ⟨0, 0, 0, 0, 0, 0, 0, false, 0, [], none, 0, 0, none, none, 0⟩

/-- A packet on its way to its flow's HOME (R435): flow, the entry of the bank it was classified under, that bank, its leg, IPv4 payload from the
RTP header on, and its time stamp. -/
structure Packet where
  flow : Nat
  bank : Nat
  entry : List Byte
  leg : Nat
  rtp : List Byte
  time : Nat
  deriving DecidableEq, Repr

/-- An operation of the classifier that is running (R434): 1 COPY, 2 LOAD. -/
structure ClsOp where
  op : Nat
  first : Nat
  count : Nat
  src : Nat
  deriving DecidableEq, Repr

/-- The classifier: banks by entry index, the epoch, the epoch each of the eight slices has adopted, packets in flight, the operation
running, and ingress flows. -/
structure Classifier where
  bank0 : List (Nat × List Byte)
  bank1 : List (Nat × List Byte)
  epoch : Nat
  adopted : List Nat
  flight : List Packet
  running : Option ClsOp
  flows : List (Nat × Flow)
  deriving DecidableEq, Repr

def Classifier.reset : Classifier := ⟨[], [], 0, List.replicate 8 0, [], none, []⟩

/-- An egress flow (R437 to R439): its entry, the next sequence number, the last blocks sent with their first numbers, latest first, and EG_STALE. -/
structure Egress where
  entry : List Byte
  next : Nat
  started : Bool
  hist : List (Nat × Nat)
  stale : Nat
  deriving DecidableEq, Repr

def Egress.reset : Egress := ⟨List.replicate 64 0, 0, false, [], 0⟩

/-- A message of a send window in progress (R443): block, first and last PSN. -/
structure SendMsg where
  blk : Nat
  first : Nat
  last : Nat
  deriving DecidableEq, Repr

/-- A queue pair (R441 to R445): its entry, next PSN to send and expected, messages not yet acknowledged, retries used, the block
that an inbound message fills with the bytes so far, the target of an inbound WRITE, and the rate step (0 is full rate). -/
structure Qp where
  entry : List Byte
  sndPsn : Nat
  rcvPsn : Nat
  msgs : List SendMsg
  retries : Nat
  rnr : Nat
  recv : Option (Nat × Nat)
  write : Option (Nat × Nat × Nat)
  sentAt : Nat
  rate : Nat
  nakSent : Bool
  msn : Nat
  deriving DecidableEq, Repr

def Qp.reset : Qp := ⟨List.replicate 64 0, 0, 0, [], 0, 0, none, none, 0, 0, false, 0⟩

/-- A RoCE packet received and not yet handled: link die, sub-port (4 × port + s), IPv4 source, IPv4 payload from BTH on, and the ECN mark. -/
structure RocePkt where
  ld : Nat
  port : Nat
  src : Nat
  bth : List Byte
  ecn : Bool
  deriving DecidableEq, Repr

/-- A master heard of (IEEE 1588): its rank, the side it is reached through, and when its last two Announce messages came. -/
structure PtpForeign where
  rank : List Byte
  viaB : Bool
  seen : List Nat
  deriving DecidableEq, Repr

/-- The PTP servo (R420): state code of R456, whether a master is chosen and through which sub-port (0 A, 1 B), its identity and its rank, Syncs in a row
within or beyond the limit, the two-step Sync that waits (sequence number, time of receipt, correction in ns), the Delay_Req that waits (sequence number, time
sent), the delay measured, times, the last Sync's origin and receipt, when the rate was last corrected, and the masters heard of. -/
structure Ptp where
  st : Nat
  master : Option (List Byte)
  viaB : Bool
  rank : List Byte
  good : Nat
  bad : Nat
  syncRx : Option (Nat × Nat × Int)
  delayTx : Option (Nat × Nat)
  delay : Int
  announceAt : Nat
  holdAt : Nat
  seqOut : Nat
  last : Option (Int × Int)
  slewAt : Nat
  foreign : List (List Byte × PtpForeign)
  deriving DecidableEq, Repr

def Ptp.reset : Ptp := ⟨0, none, false, [], 0, 0, none, none, 0, 0, 0, 0, none, 0, []⟩

/-- The link dies: ports by number, the classifier, egress flows (1024 × link die + index), queue pairs by global number, memory windows, RoCE packets and
PTP messages received and not yet handled, frames given to the exception path, Bentin frames received on queue pairs, frames a member keeps for
its bridge (R451), and the datagrams sent. -/
structure Links where
  ports : List (Nat × Port)
  cls : Classifier
  egress : List (Nat × Egress)
  qps : List (Nat × Qp)
  windows : List (Nat × List Byte)
  roce : List RocePkt
  ptpIn : List (Nat × Nat × List Byte)
  exceptions : List (Nat × List Byte)
  ptp : Ptp
  bentin : List (Nat × List Byte)
  kept : List (List Byte)
  out : List TxPkt
  deriving DecidableEq, Repr

def Links.reset : Links := ⟨[], Classifier.reset, [], [], [], [], [], [], Ptp.reset, [], [], []⟩

end Sys2Proof.Machine
end

