-- ==== Sys2Proof/Syntax/Barge.lean ====
section
/-! DEFINITION. The operand of a barge's read response (R305, R318, R321). -/

namespace Sys2Proof

/-- What the memory answered: at once; after a retry of the read or the write on the same unit; a write that failed its retry too
(R321). -/
inductive Answer where
  | ok | retried | writeFailed
  deriving DecidableEq, Repr

end Sys2Proof
end

