-- ==== Sys2Proof/Syntax/Boot.lean ====
section
/-! DEFINITION. The operands of the start-up and Bentin rows: what a start-up meets (R516 to R521), and where a Bentin frame comes from (R447). -/

namespace Sys2Proof

/-- A unit that fails a test of start-up: KIND, DIE, UNIT and TEST of BOOT_FAIL (R540). -/
structure BootFault where
  kind : Fin 16
  die : Fin 16
  unit : Fin 256
  test : Fin 256
  deriving DecidableEq, Repr

/-- What a start-up finds: whether the ROM, SRAM and PUF of the AOC of LD0 and of the standby pass (R516, R528), the role straps and FLASH_WP
(R572), whether the MRAM's factory areas pass their CRC (R516), the units that fail a test, the rows that fail the march test (stack, row), the sub-ports that train
within 5 s, and the time it takes in ns. -/
structure BootEnv where
  aocOk : Bool
  standbyOk : Bool
  straps : Fin 4
  mramOk : Bool
  faults : List BootFault
  rows : List (Fin 32 × Fin 50331648)
  up : List (Fin 24 × Fin 4)
  ns : Nat
  deriving DecidableEq, Repr

/-- Where a Bentin frame comes from (R447): a datagram from UDP source n to the management port, or the first whole message that queue pair g has
received. -/
inductive BFrom where
  | udp (n : Fin 65536) (frame : List Byte)
  | qp (g : Fin 16384)
  deriving DecidableEq, Repr

end Sys2Proof
end

