-- ==== Sys2Proof/Syntax/Thread.lean ====
section
/-! DEFINITION. The operands of the thread-core rows (R232, R240). -/

namespace Sys2Proof

/-- A flock: compute die, physical cluster, thread core, flock. -/
structure FlockAt where
  die : Fin 16
  cluster : Fin 168
  core : Fin 112
  flock : Fin 2
  deriving DecidableEq, Repr

/-- One thread instruction as its flock meets it: the flock, bits [23:0] of its word (bits [31:24] are the row's opcode), whether an
uncorrectable register-file error shows in what it reads (R265), and whether the other flock wants the same shared pipe in this
cycle (R233). -/
structure ThOp where
  at_ : FlockAt
  word : BitVec 24
  upset : Bool
  contested : Bool
  deriving DecidableEq, Repr

end Sys2Proof
end

