-- ==== Sys2Proof/Syntax.lean ====
section
/-! DEFINITION. The commands: one constructor for each row of the opcode table, in its order, with the row's operands. A cluster `k` is 168 × die + physical cluster; `v` is the word of a register write; what the environment decides (a sample, a parity error, an answer) is an operand. -/

namespace Sys2Proof

/-- A command of the block. -/
inductive Instr where
  /-- TOWPATH_COMMAND (R25). A towpath command from the AOC reaches its target domain's switch within 8 always-on cycles. -/
  | towpathCommand (dom : Fin 3688)
  /-- WEIR_SLOT (R492). Each always-on cycle the weir governor grants queued rising and falling current steps in request order, within the per-slot budget. -/
  | weirSlot
  /-- DOMAIN_READY (R490). A granted domain or clock reaches its ready time after its ramp, lock and clearing and comes ON. -/
  | domainReady (dom : Fin 3688)
  /-- ENGINE_CLOCK_GATE (R119). An array engine, MVE or EPE idle for 4,096 arithmetic cycles has its clock gated. -/
  | engineClockGate (k : Fin 2688) (e : Fin 12)
  /-- VECTOR_CLOCK_GATE (R236). A thread-core vector engine without a thread-vector for 4,096 core cycles has its clock gated. -/
  | vectorClockGate (k : Fin 2688) (core : Fin 112)
  /-- ENGINE_CLOCK_READY (R119). A restarted engine clock runs 16 arithmetic cycles (32 core cycles for a vector engine) after its weir grant. -/
  | engineClockReady (k : Fin 2688) (e : Fin 124)
  /-- TISSUE (R262). Pushes one tensor, SF or coder descriptor per executing thread, allocating a tag and checking W0 to W3. -/
  | tissue (a : ThOp)
  /-- BISSUE (R262). Pushes one barge descriptor per executing thread to the cluster's barge engine, allocating a tag. -/
  | bissue (a : ThOp)
  /-- PUSH_UNBLOCK (R262). A push blocked by an empty tag pool or full queue proceeds once a tag or queue entry frees. -/
  | pushUnblock (l : FlockAt)
  /-- INSTRUCTION_STAGE (R291). An instruction at the head of its queue has its argument block and tables read and checked and its operands staged. -/
  | instructionStage (k : Fin 2688) (q : Fin 15)
  /-- DEPENDENCY_COMPLETE (R276). The last dependency of a queued instruction completes; it proceeds, or is cancelled with DEP_FAILED under DEP_POISON. -/
  | dependencyComplete (k : Fin 2688) (tag : Fin 4096)
  /-- TENSOR_ISSUE (R116). An instruction issues on its target once every issue completeness condition holds, capturing epochs and placing holds. -/
  | tensorIssue (k : Fin 2688) (q : Fin 15)
  /-- SYNC (R277). Occupies its queue entries and completes in queue order once its dependencies are complete. -/
  | sync (k : Fin 2688) (q : Fin 15)
  /-- MATMUL (R110). Runs a matrix product over output tiles and weight-tile passes on an array, half, multi-array or MVE target. -/
  | matmul (k : Fin 2688) (t : Fin 64) (parity : Bool)
  /-- CONV (R143). Runs a convolution as per-tap matrix products with padding, skipping and optional space-to-channel or channel-to-space. -/
  | conv (k : Fin 2688) (t : Fin 64) (parity : Bool)
  /-- POOL (R160). Computes MAX or AVG pooling over windows in the window unit of a whole-array target. -/
  | pool (k : Fin 2688) (array : Fin 4)
  /-- CROP (R163). Samples an OH by OW grid from each box of a box list, bilinear or nearest. -/
  | crop (k : Fin 2688) (array : Fin 4)
  /-- EPILOGUE (R274). Sums 1 to 4 ACC64 addend tensors exactly and applies the epilogue on the MVE target. -/
  | epilogue (k : Fin 2688)
  /-- WEIGHT_TILE_LOAD (R113). The weight path loads a tile into a target's shadow registers in 64-byte beats, shared round-robin. -/
  | weightTileLoad (k : Fin 2688)
  /-- WEIGHT_SWAP (R114). A target copies its shadow weights to active in the earliest cycle both the old pass and the new tile load have ended. -/
  | weightSwap (k : Fin 2688) (t : Fin 64)
  /-- OUTPUT_TILE_EPILOGUE (R132). The EPE serves a finished tile's accumulators in finishing order, applying the epilogue and forming counts. -/
  | outputTileEpilogue (k : Fin 2688) (parity : Bool)
  /-- NARROW_RUN_END (R92). At the end of a narrow run the instruction decides from its counts and budgets whether to widen and run in W8A16. -/
  | narrowRunEnd (k : Fin 2688) (q : Fin 15)
  /-- INSTRUCTION_COMMIT (R95). The instruction writes its flag word, releases its output blocks and holds, and completes its tag with a record. -/
  | instructionCommit (k : Fin 2688) (q : Fin 15)
  /-- FEEDER_TRANSLATION_FAULT (R128). A feeder's demand access fails translation or permission; the instruction stops with its cursor at the first unfinished tile. -/
  | feederTranslationFault (k : Fin 2688) (q : Fin 15)
  /-- TARGET_PREEMPT_STOP (R129). A pre-empted target finishes its output tile (or row block) and stops, saving phase, cursor and counts. -/
  | targetPreemptStop (k : Fin 2688) (q : Fin 15)
  /-- TC_SPLIT_CTRL_WRITE (R124). Requests split or whole mode per array, setting SPLIT_PENDING and blocking issue on that array. -/
  | tcSplitCtrlWrite (k : Fin 2688) (v : BitVec 32)
  /-- SPLIT_MODE_CHANGE (R124). Once every in-flight instruction on the array has completed, the split mode changes and SPLIT_PENDING clears. -/
  | splitModeChange (k : Fin 2688) (array : Fin 4)
  /-- TC_QTALLY_CLEAR (R100). Writing 1 clears the quantisation tallies. -/
  | tcQtallyClear (k : Fin 2688)
  /-- TC_TALLY_CLEAR (R138). Writing 1 clears the tensor-core stall and pipeline counters. -/
  | tcTallyClear (k : Fin 2688)
  /-- TC_SW_CLEAR (R169). Writing 1 clears the sliding-window tallies. -/
  | tcSwClear (k : Fin 2688)
  /-- TC_ISSUE_CLEAR (R294). Writing 1 clears the descriptor-refused and dependency-cancelled counters. -/
  | tcIssueClear (k : Fin 2688)
  /-- SF_EVAL (R170). Evaluates a function program over elements, then the epilogue from the bias step. -/
  | sfEval (k : Fin 2688) (n : Fin 2) (parity : Bool)
  /-- NORM_STATS (R187). Writes exact sum and sum-of-squares statistics records for each row segment. -/
  | normStats (k : Fin 2688) (n : Fin 2)
  /-- NORM_APPLY (R188). Combines statistics records and normalises each element of a row, then continues the epilogue. -/
  | normApply (k : Fin 2688) (n : Fin 2) (parity : Bool)
  /-- SOFTMAX (R191). Computes a soft maximum of each row with masking and writes codes and a row record. -/
  | softmax (k : Fin 2688) (n : Fin 2)
  /-- TB_BUILD (R193). Builds 64 frequency arrays from a class list using a distribution function slot. -/
  | tbBuild (k : Fin 2688) (n : Fin 2) (parity : Bool)
  /-- TB_INDEX (R194). Assigns each element a class by counting boundaries at or below its code. -/
  | tbIndex (k : Fin 2688) (n : Fin 2)
  /-- TLOAD (R184). Loads a micro-program image into a slot's inactive bank after waiting for its users to drain. -/
  | tload (k : Fin 2688) (n : Fin 2)
  /-- TLOAD_FLIP (R184). Once the inactive bank's users drain, the TLOAD validates and writes the image and flips the slot's epoch. -/
  | tloadFlip (k : Fin 2688) (n : Fin 2)
  /-- SLOT_PARITY_REWRITE (R185). After a table parity error sets SLOT_BAD, firmware rewrites the bank from ROM or the last image or source. -/
  | slotParityRewrite (k : Fin 2688) (rans : Bool) (slot : Fin 16)
  /-- SF_TALLY_CLEAR (R196). Writing 1 clears the special-function event counters. -/
  | sfTallyClear (k : Fin 2688)
  /-- SF_WAIT_CLEAR (R196). Writing 1 clears the special-function wait counters. -/
  | sfWaitClear (k : Fin 2688)
  /-- CT_LOAD (R216). Loads frequency tables into a rANS slot's inactive bank after its users drain, validating sums. -/
  | ctLoad (k : Fin 2688) (n : Fin 4)
  /-- CT_LOAD_FLIP (R216). Once the inactive bank's users drain, CT_LOAD validates, writes starts and flips the slot's epoch. -/
  | ctLoadFlip (k : Fin 2688) (n : Fin 4)
  /-- RANS_ENC (R212). Codes symbols into chunks and writes a chunk record, header last. -/
  | ransEnc (k : Fin 2688) (n : Fin 5) (parity : Bool)
  /-- RANS_DEC (R224). Checks a record and decodes its chunks into symbols and a chunk status bitmap. -/
  | ransDec (k : Fin 2688) (n : Fin 5) (parity : Bool)
  /-- CC_TALLY_CLEAR (R231). Writing 1 clears the coder counters. -/
  | ccTallyClear (k : Fin 2688)
  /-- CC_WAIT_CLEAR (R231). Writing 1 clears the coder wait counters. -/
  | ccWaitClear (k : Fin 2688)
  /-- NOP (R243). Does nothing. -/
  | nop (a : ThOp)
  /-- EXIT (R243). Executing threads leave the live and active masks; the flock ends when LIVE is 0. -/
  | exit (a : ThOp)
  /-- BRA (R254). Executing threads branch to the target, dividing the flock if some do not. -/
  | bra (a : ThOp)
  /-- CALL (R243). Writes the return address to g63 and branches as BRA. -/
  | call (a : ThOp)
  /-- JR (R243). Executing threads jump to a common register target. -/
  | jr (a : ThOp)
  /-- JPUSH (R243). Pushes a join entry holding the target and active mask. -/
  | jpush (a : ThOp)
  /-- JOIN (R255). Ends the current path and pops the join stack. -/
  | join (a : ThOp)
  /-- BAR (R243). Arrives at a core or cluster barrier and waits. -/
  | bar (a : ThOp)
  /-- BARRIER_COMPLETE (R243). A barrier round completes when its count of flocks has arrived, releasing them. -/
  | barrierComplete (k : Fin 2688) (core : Fin 112) (ofCore : Bool) (n : Fin 32)
  /-- MFS (R239). Reads a special register. -/
  | mfs (a : ThOp)
  /-- MTS (R239). Writes a special register (FSTAT only). -/
  | mts (a : ThOp)
  /-- TRAP (R265). Raises TRAP with a code. -/
  | trap (a : ThOp)
  /-- WAITV (R243). Waits until a word in memory compares with a value. -/
  | waitv (a : ThOp)
  /-- WAITV_POLL (R243). Every 64 core cycles a waiting WAITV reads its word again and ends the wait if the comparison holds. -/
  | waitvPoll (l : FlockAt)
  /-- ADD (R244). Integer add. -/
  | add (a : ThOp)
  /-- SUB (R244). Integer subtract. -/
  | sub (a : ThOp)
  /-- MUL (R244). Low 64 bits of a product. -/
  | mul (a : ThOp)
  /-- MULH (R244). High 64 bits of a 128-bit product. -/
  | mulh (a : ThOp)
  /-- AND (R244). Bitwise and. -/
  | and (a : ThOp)
  /-- OR (R244). Bitwise or. -/
  | or (a : ThOp)
  /-- XOR (R244). Bitwise exclusive or. -/
  | xor (a : ThOp)
  /-- SHL (R244). Shift left by register. -/
  | shl (a : ThOp)
  /-- SHR (R244). Shift right by register, logical or arithmetic. -/
  | shr (a : ThOp)
  /-- MIN (R244). Signed or unsigned minimum. -/
  | min (a : ThOp)
  /-- MAX (R244). Signed or unsigned maximum. -/
  | max (a : ThOp)
  /-- DIV (R245). Quotient rounded toward zero. -/
  | div (a : ThOp)
  /-- REM (R245). Remainder of DIV. -/
  | rem (a : ThOp)
  /-- CLZ (R244). Counts leading zero bits. -/
  | clz (a : ThOp)
  /-- POPC (R244). Counts one bits. -/
  | popc (a : ThOp)
  /-- SHFL (R244). Reads a register of another thread of the flock. -/
  | shfl (a : ThOp)
  /-- ADDI (R244). Add immediate. -/
  | addi (a : ThOp)
  /-- ANDI (R244). And immediate. -/
  | andi (a : ThOp)
  /-- ORI (R244). Or immediate. -/
  | ori (a : ThOp)
  /-- XORI (R244). Exclusive or immediate. -/
  | xori (a : ThOp)
  /-- SHLI (R244). Shift left by immediate. -/
  | shli (a : ThOp)
  /-- SHRI (R244). Logical shift right by immediate. -/
  | shri (a : ThOp)
  /-- SARI (R244). Arithmetic shift right by immediate. -/
  | sari (a : ThOp)
  /-- MOVI (R244). Loads a sign-extended 14-bit immediate. -/
  | movi (a : ThOp)
  /-- MOVH (R244). Shifts a register left 14 and appends an immediate. -/
  | movh (a : ThOp)
  /-- CMPEQ (R246). Sets a predicate on equality. -/
  | cmpeq (a : ThOp)
  /-- CMPNE (R246). Sets a predicate on inequality. -/
  | cmpne (a : ThOp)
  /-- CMPLT (R246). Sets a predicate on less than. -/
  | cmplt (a : ThOp)
  /-- CMPLE (R246). Sets a predicate on less or equal. -/
  | cmple (a : ThOp)
  /-- CMPEQI (R246). Sets a predicate on equality with an immediate. -/
  | cmpeqi (a : ThOp)
  /-- CMPLTI (R246). Sets a predicate on signed less than an immediate. -/
  | cmplti (a : ThOp)
  /-- PLOG (R246). Predicate logic. -/
  | plog (a : ThOp)
  /-- VOTE (R246). OR or AND of a predicate over executing threads. -/
  | vote (a : ThOp)
  /-- BALLOT (R246). Mask of executing threads with a predicate set. -/
  | ballot (a : ThOp)
  /-- FADD (R247). FP32 add. -/
  | fadd (a : ThOp)
  /-- FSUB (R247). FP32 subtract. -/
  | fsub (a : ThOp)
  /-- FMUL (R247). FP32 multiply. -/
  | fmul (a : ThOp)
  /-- FFMA (R247). FP32 fused multiply-add. -/
  | ffma (a : ThOp)
  /-- FMIN (R247). FP32 minimum. -/
  | fmin (a : ThOp)
  /-- FMAX (R247). FP32 maximum. -/
  | fmax (a : ThOp)
  /-- FDIV (R247). FP32 divide. -/
  | fdiv (a : ThOp)
  /-- FSQRT (R247). FP32 square root. -/
  | fsqrt (a : ThOp)
  /-- FCVT (R247). Converts between i32, FP32 and BF16. -/
  | fcvt (a : ThOp)
  /-- FCMPLT (R247). FP32 less-than compare into a predicate. -/
  | fcmplt (a : ThOp)
  /-- FCMPEQ (R247). FP32 equality compare into a predicate. -/
  | fcmpeq (a : ThOp)
  /-- VADD (R249). Vector integer add. -/
  | vadd (a : ThOp)
  /-- VSUB (R249). Vector integer subtract. -/
  | vsub (a : ThOp)
  /-- VMUL (R249). Vector integer multiply, low half. -/
  | vmul (a : ThOp)
  /-- VMIN (R249). Vector signed minimum. -/
  | vmin (a : ThOp)
  /-- VMAX (R249). Vector signed maximum. -/
  | vmax (a : ThOp)
  /-- VAND (R249). Vector bitwise and. -/
  | vand (a : ThOp)
  /-- VOR (R249). Vector bitwise or. -/
  | vor (a : ThOp)
  /-- VXOR (R249). Vector bitwise exclusive or. -/
  | vxor (a : ThOp)
  /-- VSHL (R249). Vector shift left. -/
  | vshl (a : ThOp)
  /-- VSAR (R249). Vector arithmetic shift right. -/
  | vsar (a : ThOp)
  /-- VSPLAT (R249). Broadcasts a register to every element. -/
  | vsplat (a : ThOp)
  /-- VEXT (R249). Extracts one element to a register. -/
  | vext (a : ThOp)
  /-- VINS (R249). Inserts a register into one element. -/
  | vins (a : ThOp)
  /-- VRED (R249). Sums the elements of a vector. -/
  | vred (a : ThOp)
  /-- VPERM (R249). Byte permutation. -/
  | vperm (a : ThOp)
  /-- VFADD (R250). Vector float add. -/
  | vfadd (a : ThOp)
  /-- VFSUB (R250). Vector float subtract. -/
  | vfsub (a : ThOp)
  /-- VFMUL (R250). Vector float multiply. -/
  | vfmul (a : ThOp)
  /-- VFFMA (R250). Vector float fused multiply-add. -/
  | vffma (a : ThOp)
  /-- VFMIN (R250). Vector float minimum. -/
  | vfmin (a : ThOp)
  /-- VFMAX (R250). Vector float maximum. -/
  | vfmax (a : ThOp)
  /-- VFCVT (R250). Vector conversion between i32, FP32 and BF16. -/
  | vfcvt (a : ThOp)
  /-- VFRED (R250). Pairwise-tree sum of 16 FP32 lanes. -/
  | vfred (a : ThOp)
  /-- LD (R251). Loads a zero-extended scalar. -/
  | ld (a : ThOp)
  /-- LDS (R251). Loads a sign-extended scalar. -/
  | lds (a : ThOp)
  /-- ST (R251). Stores a scalar. -/
  | st (a : ThOp)
  /-- VLD (R251). Loads 64 bytes into a vector. -/
  | vld (a : ThOp)
  /-- VST (R251). Stores 64 bytes from a vector. -/
  | vst (a : ThOp)
  /-- VLDG (R251). Gathers vector lanes from offsets. -/
  | vldg (a : ThOp)
  /-- VSTS (R251). Scatters vector lanes to offsets. -/
  | vsts (a : ThOp)
  /-- PREF (R251). Fills a data-cache line without faulting. -/
  | pref (a : ThOp)
  /-- LKGET (R311). Takes the next filled block as consumer or a free block as producer, waiting if none. -/
  | lkget (a : ThOp)
  /-- LKPUT (R311). Releases a consumed block or commits a produced block. -/
  | lkput (a : ThOp)
  /-- AADD (R251). Atomic add. -/
  | aadd (a : ThOp)
  /-- AMIN (R251). Atomic signed minimum. -/
  | amin (a : ThOp)
  /-- AMAX (R251). Atomic signed maximum. -/
  | amax (a : ThOp)
  /-- AAND (R251). Atomic and. -/
  | aand (a : ThOp)
  /-- AOR (R251). Atomic or. -/
  | aor (a : ThOp)
  /-- AXCHG (R251). Atomic exchange. -/
  | axchg (a : ThOp)
  /-- ACAS (R251). Atomic compare and swap. -/
  | acas (a : ThOp)
  /-- AFADD (R261). Atomic FP32 add, FAST queues only. -/
  | afadd (a : ThOp)
  /-- FENCE (R259). Orders accesses at a scope with acquire, release or both. -/
  | fence (a : ThOp)
  /-- TWAIT (R264). Waits until a tag completes and returns its status. -/
  | twait (a : ThOp)
  /-- TPOLL (R264). Returns a tag's status if complete, otherwise 0x100. -/
  | tpoll (a : ThOp)
  /-- TCREC (R289). Waits for a tag and returns its 64-byte completion record. -/
  | tcrec (a : ThOp)
  /-- TFREE (R264). Returns a completed tag to the pool. -/
  | tfree (a : ThOp)
  /-- TCANCEL (R293). Requests cancellation of a tag's instruction or barge. -/
  | tcancel (a : ThOp)
  /-- FLOCK_PREEMPT_STOP (R267). A pre-empted flock stops at an instruction boundary, abandoning waits, and its context is saved. -/
  | flockPreemptStop (l : FlockAt)
  /-- TH_TALLY_CLEAR (R272). Writing 1 clears the thread-core counters. -/
  | thTallyClear (k : Fin 2688) (core : Fin 112)
  /-- STRIDED (R298). A barge that moves an array of up to four dimensions of rows. -/
  | strided (k : Fin 2688) (uid : Nat)
  /-- GATHER (R299). A barge that packs source rectangles named by an entry list into the destination. -/
  | gather (k : Fin 2688) (uid : Nat)
  /-- BARGE_BIND (R301). A queued barge whose dependencies are complete binds its source and destination lock blocks and becomes ACTIVE. -/
  | bargeBind (k : Fin 2688) (uid : Nat)
  /-- BARGE_REQUEST_GRANT (R304). Each fabric cycle request slots are granted to channels by weighted round robin and the chosen barge issues. -/
  | bargeRequestGrant (k : Fin 2688)
  /-- READ_RESPONSE (R305). Read data of an outstanding request arrives and is written to the destination, or dropped after a cancel. -/
  | readResponse (k : Fin 2688) (uid : Nat) (n : Nat) (ans : Answer)
  /-- BARGE_COMPLETE (R301). A draining barge receives its last response, commits or releases its blocks and completes its tag. -/
  | bargeComplete (k : Fin 2688) (uid : Nat)
  /-- LOCK_PRODUCER_GRANT (R313). A waiting producer is granted a block from its floor or the pool once one frees. -/
  | lockProducerGrant (onDie : Bool) (at_ : Fin 2688) (n : Fin 1024)
  /-- LOCK_CONSUMER_GRANT (R311). A waiting consumer slot receives its next FILLED block once it is committed in order. -/
  | lockConsumerGrant (onDie : Bool) (at_ : Fin 2688) (n : Fin 1024) (slot : Fin 8)
  /-- WAITDET_EVALUATE (R316). Every 10 µs the wait detector evaluates the wait-for graph and aborts a command on a persistent cycle. -/
  | waitdetEvaluate
  /-- LK_CFG_WRITE (R329). Writes a lock's configuration, refused with CFG_ERR in the listed cases. -/
  | lkCfgWrite (d : Fin 16) (i : Fin 11776) (v : BitVec 32)
  /-- CS_POOL_CFG_WRITE (R329). Writes pool base, block size or count, ignored while a pool lock is enabled or when invalid. -/
  | csPoolCfgWrite (d : Fin 16) (p : Fin 168) (v : BitVec 32)
  /-- LK_CTRL_REARM (R317). Writing a REARM bit takes that consumer slot out of DRAIN. -/
  | lkCtrlRearm (d : Fin 16) (i : Fin 11776) (v : BitVec 32)
  /-- BE_TALLY_CLEAR (R326). Writing 1 clears the barge-engine counters. -/
  | beTallyClear (d : Fin 16) (p : Fin 168)
  /-- SCRUB_READ (R339). The logic die patrols each row once per scrub period, correcting and counting errors. -/
  | scrubRead (n : Fin 32) (row : Fin 50331648)
  /-- PATROL_ROW_SPARE (R339). A row reaching ROW_CE_LIMIT is copied to a spare row and remapped within 2 µs, then requests are released. -/
  | patrolRowSpare (n : Fin 32) (row : Fin 50331648)
  /-- STACK_TEMP_SAMPLE (R341). Every 1 ms the stack's hottest DRAM die is read and the refresh interval and alert set. -/
  | stackTempSample (n : Fin 32) (temp : Fin 256)
  /-- REFRESH_INTERVAL_CHANGE (R341). At the next refresh boundary after a threshold crossing the refresh interval changes. -/
  | refreshIntervalChange (n : Fin 32)
  /-- STK_TALLY_CLEAR (R356). Writing 1 clears the stack counters. -/
  | stkTallyClear (n : Fin 32)
  /-- CS_TALLY_CLEAR (R357). Writing 1 clears the cluster-store ECC counters. -/
  | csTallyClear (d : Fin 16) (p : Fin 168)
  /-- MEM_SPAN_MODE_WRITE (R338). Writes CLOSED or MODE of a span, refused with ERR unless drained or for spans 46, 47 or value 3. -/
  | memSpanModeWrite (g : Fin 48) (v : BitVec 32)
  /-- SPAN_DRAINED (R338). DRAINED sets once every access to a closed span has been performed. -/
  | spanDrained (g : Fin 48)
  /-- PAGE_WALK (R346). A translation miss walks the page table and fills caches or ends in a fault outcome. -/
  | pageWalk (d : Fin 16) (n : Nat)
  /-- FAULT_BACKLOG_POST (R350). A stopped unit holding back its record posts it when a queue place frees. -/
  | faultBacklogPost (d : Fin 16)
  /-- FAULT_RESUME (R351). DMMU_FAULT_ACTION RESUME retries the unit's access from its recorded position and pops the record. -/
  | faultResume (d : Fin 16)
  /-- FAULT_KILL (R351). DMMU_FAULT_ACTION KILL ends the unit's work with the fault's status and pops the record. -/
  | faultKill (d : Fin 16)
  /-- DMMU_ROOT_WRITE (R353). Writes the page-table root or translation enable, ignored with ERR if ROOT changes while EN is 1. -/
  | dmmuRootWrite (high : Bool) (v : BitVec 32)
  /-- DMMU_INVALIDATE (R349). GO starts invalidation of a range in every cluster and die cache; a GO while BUSY sets ERR. -/
  | dmmuInvalidate
  /-- DMMU_INVALIDATE_DONE (R349). DONE sets once every overlapping entry is dropped and every earlier walk has finished. -/
  | dmmuInvalidateDone
  /-- DMMU_TALLY_CLEAR (R355). Writing 1 clears the walker counters. -/
  | dmmuTallyClear (d : Fin 16)
  /-- BV_JOB_FETCH (R365). A pipeline fetches the next job entry while CONS differs from PROD, or flags RING_ERR. -/
  | bvJobFetch (d : Fin 16) (n : Fin 8)
  /-- OPEN_ENC (R368). Opens an encode stream with its context region. -/
  | openEnc (d : Fin 16) (n : Fin 8)
  /-- OPEN_DEC (R369). Opens a decode stream with its context and DPB region. -/
  | openDec (d : Fin 16) (n : Fin 8)
  /-- ENC_PIC (R377). Encodes one picture under rate control, keys and refresh. -/
  | encPic (d : Fin 16) (n : Fin 8)
  /-- DEC_AU (R385). Decodes one access or temporal unit into a picture with damage handling. -/
  | decAu (d : Fin 16) (n : Fin 8)
  /-- CLOSE (R383). Ends a stream, flushing or cancelling lookahead pictures. -/
  | close (d : Fin 16) (n : Fin 8)
  /-- BV_BAND (R373). At a band boundary the pipeline takes the highest-priority ready band and codes it. -/
  | bvBand (d : Fin 16) (n : Fin 8)
  /-- BV_WATCHDOG_EXPIRY (R389). A picture's budget runs out and the rest of the picture is concealed. -/
  | bvWatchdogExpiry (d : Fin 16) (n : Fin 8) (blk : Nat)
  /-- BV_COMPLETION_WRITE (R366). A finished job's completion record is written and CPL_PROD advanced, or held while the ring is full. -/
  | bvCompletionWrite (d : Fin 16) (n : Fin 8)
  /-- BV_CPL_CONS_WRITE (R366). Software advances the completion consumer count, freeing room for held records. -/
  | bvCplConsWrite (d : Fin 16) (n : Fin 8) (v : BitVec 32)
  /-- BV_KEY_REQ (R382). Requests a splice key for the earliest unplaced picture of a stream. -/
  | bvKeyReq (d : Fin 16) (n : Fin 8) (stream : Fin 16)
  /-- BV_PREEMPT (R392). Setting PREEMPT stops the pipeline at band boundaries after bands in flight complete. -/
  | bvPreempt (d : Fin 16) (n : Fin 8)
  /-- BV_RESUME (R392). Clearing PREEMPT resumes each stopped job. -/
  | bvResume (d : Fin 16) (n : Fin 8)
  /-- BV_RING_CFG_WRITE (R365). Enabling fetch (or clearing it) on the job ring; an out-of-range SIZE sets RING_ERR. -/
  | bvRingCfgWrite (d : Fin 16) (n : Fin 8) (v : BitVec 32)
  /-- BV_GROUP_CTRL_WRITE (R359). Changes pipeline grouping, refused with ERR while a member is enabled or has a stream open. -/
  | bvGroupCtrlWrite (d : Fin 16) (v : BitVec 32)
  /-- BV_TALLY_CLEAR (R395). Writing 1 clears the pipeline counters. -/
  | bvTallyClear (d : Fin 16) (n : Fin 8)
  /-- SL_JOB_FETCH (R403). A sluice engine fetches its next job from its ring. -/
  | slJobFetch (d : Fin 16) (n : Fin 2)
  /-- COMPRESS (R399). Compresses an input stream to raw DEFLATE, zlib or gzip. -/
  | compress (d : Fin 16) (n : Fin 2)
  /-- DECOMPRESS (R402). Decodes a complete DEFLATE, zlib or gzip stream into the output buffer. -/
  | decompress (d : Fin 16) (n : Fin 2)
  /-- SL_COMPLETION_WRITE (R406). A finished sluice job writes its completion record. -/
  | slCompletionWrite (d : Fin 16) (n : Fin 2)
  /-- SL_PREEMPT (R408). Setting PREEMPT asks the engine to stop at the next checkpoint. -/
  | slPreempt (d : Fin 16) (n : Fin 2)
  /-- SL_CHECKPOINT_STOP (R408). At a checkpoint the engine saves the job's state and sets STOPPED. -/
  | slCheckpointStop (d : Fin 16) (n : Fin 2)
  /-- SL_RESUME (R408). Clearing PREEMPT resumes the job from its checkpoint. -/
  | slResume (d : Fin 16) (n : Fin 2)
  /-- SL_CANCEL (R409). Ends the current sluice job with CANCELLED. -/
  | slCancel (d : Fin 16) (n : Fin 2)
  /-- SL_TALLY_CLEAR (R413). Writing 1 clears the sluice counters. -/
  | slTallyClear (d : Fin 16) (n : Fin 2)
  /-- FRAME_RECEIVE (R422). A frame passes FEC, MAC and MACsec and is sent to RoCE, PTP, the exception path or the classifier. -/
  | frameReceive (p : Fin 24) (sub : Fin 4) (corr : Nat) (uncorr : Nat) (fcsOk : Bool) (overRate : Bool) (f : Machine.RxFrame)
  /-- FI_REORDER_RELEASE (R452). A held frame is released after DEPTH later frames or 100 µs. -/
  | fiReorderRelease (p : Fin 24) (dir : Fin 2)
  /-- PACKET_PLACE (R432). At HOME a packet is merged by sequence number and placed into its flow's block, committing blocks as events occur. -/
  | packetPlace (i : Nat)
  /-- FLOW_TIMEOUT (R429). No packet for a flow for TIMEOUT_US commits its open block with TIMEOUT. -/
  | flowTimeout (e : Fin 65536)
  /-- CLS_COPY (R434). Copies the active classifier bank into the inactive bank. -/
  | clsCopy
  /-- CLS_LOAD (R434). Reads, checks and writes entries into the inactive bank. -/
  | clsLoad
  /-- CLS_OP_DONE (R434). A COPY or LOAD finishes and BUSY clears. -/
  | clsOpDone
  /-- CLS_FLIP (R434). Advances the classifier epoch, making the inactive bank active. -/
  | clsFlip
  /-- CLS_FLIP_ADOPT (R435). A slice adopts the flip; when the last has, FLIP_PENDING clears. -/
  | clsFlipAdopt (h : Fin 8)
  /-- EGRESS_SEND (R438). An egress flow sends a FILLED block as packets at its SEND_TIME, releasing it after the last packet. -/
  | egressSend (ld : Fin 4) (i : Fin 1024)
  /-- EGRESS_ENTRY_WRITE (R437). Writes an egress flow entry, ignored with ERR if it changes an active entry other than to KIND 0. -/
  | egressEntryWrite (ld : Fin 4) (i : Fin 1024) (off : Fin 64) (b : List Byte)
  /-- QP_ENTRY_WRITE (R444). Writes queue-pair fields, ignored with CFG_ERR unless in RESET. -/
  | qpEntryWrite (g : Fin 16384) (off : Fin 64) (b : List Byte)
  /-- QP_TO_RTS (R445). Writing STATE RTS checks the entry and starts the queue pair, or leaves RESET with CFG_ERR. -/
  | qpToRts (g : Fin 16384)
  /-- QP_TO_ERROR (R445). Writing STATE ERROR puts the queue pair in ERROR. -/
  | qpToError (g : Fin 16384)
  /-- QP_TO_RESET (R445). Writing STATE RESET abandons messages in progress and resets the queue pair. -/
  | qpToReset (g : Fin 16384)
  /-- MEMORY_WINDOW_WRITE (R446). Writes a RoCE memory window entry to all link dies, ignored if the range is invalid. -/
  | memoryWindowWrite (w : Fin 8192) (off : Fin 16) (b : List Byte)
  /-- ROCE_INBOUND_SEND (R442). An inbound SEND is placed in the receive ring, or answered with an RNR or invalid-request NAK. -/
  | roceInboundSend (ld : Fin 4)
  /-- ROCE_INBOUND_WRITE (R442). An inbound RDMA WRITE is checked against its window and written. -/
  | roceInboundWrite (ld : Fin 4)
  /-- ROCE_INBOUND_READ (R442). An inbound RDMA READ is checked against its window and answered. -/
  | roceInboundRead (ld : Fin 4)
  /-- ROCE_INBOUND_ATOMIC (R441). An inbound atomic draws a NAK invalid request. -/
  | roceInboundAtomic (ld : Fin 4)
  /-- ROCE_SEND_MESSAGE (R443). A FILLED send-window block becomes one SEND or RDMA WRITE message. -/
  | roceSendMessage (g : Fin 16384)
  /-- ROCE_ACK (R443). An acknowledgement of a message's last packet releases its block. -/
  | roceAck (ld : Fin 4)
  /-- ROCE_NAK (R441). A NAK triggers go-back-N retransmission, RNR retry or ERROR. -/
  | roceNak (ld : Fin 4)
  /-- ROCE_CNP (R441). A CNP reduces the queue pair's send rate. -/
  | roceCnp (ld : Fin 4)
  /-- ROCE_ACK_TIMEOUT (R444). An acknowledgement timeout retries or, when exhausted, puts the queue pair in ERROR. -/
  | roceAckTimeout (g : Fin 16384)
  /-- SA_KEY_WRITE (R418). Writes a secure association key into the key vault through a write-only register. -/
  | saKeyWrite (p : Fin 24) (sub : Fin 4) (chan : Fin 16) (an : Fin 4) (key : List Byte) (xpn : Bool) (pn : Nat) (alert : Nat) (use : Bool)
  /-- LNK_PORT_CTRL_WRITE (R415). Writes port mode, enables and MACsec mode, refused with CFG_ERR on a mode change while enabled. -/
  | lnkPortCtrlWrite (p : Fin 24) (v : BitVec 32)
  /-- LINK_UP (R415). Link training completes and the sub-port comes up. -/
  | linkUp (p : Fin 24) (sub : Fin 4)
  /-- LINK_DOWN (R415). A sub-port loses its link. -/
  | linkDown (p : Fin 24) (sub : Fin 4)
  /-- LNK_TALLY_CLEAR (R455). Writing 1 clears the port counters. -/
  | lnkTallyClear (p : Fin 24)
  /-- PTP_SYNC (R420). A Sync from the chosen master updates the offset and servo state. -/
  | ptpSync
  /-- PTP_ANNOUNCE (R420). An Announce message feeds the best-master choice. -/
  | ptpAnnounce
  /-- PTP_ANNOUNCE_TIMEOUT (R420). The announce receipt timeout moves the servo to HOLDOVER. -/
  | ptpAnnounceTimeout
  /-- PTP_HOLDOVER_EXPIRY (R420). After HOLDOVER_S seconds the servo moves to FREERUN. -/
  | ptpHoldoverExpiry
  /-- PTP_DELAY_REQ (R420). At each delay-request interval the device sends a Delay_Req. -/
  | ptpDelayReq
  /-- PTP_DELAY_RESP (R420). A Delay_Resp completes a delay measurement. -/
  | ptpDelayResp
  /-- PPS_OUT_EDGE (R421). At each whole second of device time the claimed PPS pin pulses high for 1 ms. -/
  | ppsOutEdge
  /-- IDENTIFY (R448). Replies with part, contract and group identity. -/
  | identify (f : BFrom)
  /-- SESSION_OPEN (R448). Binds a session to the source of the frame. -/
  | sessionOpen (f : BFrom)
  /-- REG_READ (R448). Reads up to 64 DPAs and replies with their values. -/
  | regRead (f : BFrom)
  /-- REG_WRITE (R448). Writes up to 64 DPA and value pairs in order, stopping at BOUNDS. -/
  | regWrite (f : BFrom)
  /-- QUEUE_SUBMIT (R478). Appends command entries to a queue's ring and advances PROD. -/
  | queueSubmit (f : BFrom)
  /-- QUEUE_CANCEL (R478). Cancels one command by CTAG or the whole queue. -/
  | queueCancel (f : BFrom)
  /-- QUEUE_PREEMPT (R470). Pre-empts every running command of a queue. -/
  | queuePreempt (f : BFrom)
  /-- QUEUE_RESUME (R470). Resumes a queue's commands parked by request. -/
  | queueResume (f : BFrom)
  /-- MAILBOX_SEND (R481). Bentin send of a 16-byte payload to a mailbox, answered on drain or timeout. -/
  | mailboxSend (f : BFrom)
  /-- ENVELOPE_SET (R499). Requests a power envelope, refused above MAX. -/
  | envelopeSet (f : BFrom)
  /-- LOG_READ (R555). Returns event-log entries from a sequence number. -/
  | logRead (f : BFrom)
  /-- DUMP_READ (R559). Returns crash dump bytes while in pen state with a valid dump. -/
  | dumpRead (f : BFrom)
  /-- FW_UPDATE_BEGIN (R537). Opens an update of a signed object into a flash slot or the tamper-clear buffer. -/
  | fwUpdateBegin (f : BFrom) (wp : Bool)
  /-- FW_UPDATE_DATA (R537). Writes data of an open update at an offset. -/
  | fwUpdateData (f : BFrom) (wp : Bool)
  /-- FW_UPDATE_COMMIT (R537). Verifies the updated object, erasing the slot on failure or raising CNT_TAMPER_CLEAR for a tamper clear. -/
  | fwUpdateCommit (f : BFrom) (wp : Bool)
  /-- FW_UPDATE_ABORT (R537). Abandons an open update and erases its slot. -/
  | fwUpdateAbort (f : BFrom) (wp : Bool)
  /-- ATTEST (R538). Returns a signed attestation report over a nonce. -/
  | attest (f : BFrom)
  /-- BENTIN_RELAY (R451). The bridge forwards a request to a member, or a member's frame to its session. -/
  | bentinRelay (f : BFrom)
  /-- QUEUE_FETCH (R458). A drover fetches the next command entry of an enabled queue. -/
  | queueFetch (q : Fin 4096)
  /-- RUN (R461). A command that starts its flocks on the clusters of its mask. -/
  | run (q : Fin 4096)
  /-- MARKER (R460). Completes once every earlier command of its queue has completed. -/
  | marker (q : Fin 4096)
  /-- COMMAND_ARM (R464). A head command with room, a free CTAG and its trigger becomes ARMED and is checked. -/
  | commandArm (q : Fin 4096)
  /-- DRV_DISPATCH (R465). Arbitration reserves slots for the highest-priority ARMED command and requests cluster wakes. -/
  | drvDispatch (d : Fin 16)
  /-- COMMAND_START (R464). Once every cluster of the mask is on and reserved, all flocks start in one fabric cycle. -/
  | commandStart (ctag : Fin 4096)
  /-- COMMAND_COMPLETE (R469). Once every flock has ended and every pushed tag completed, the final record is written. -/
  | commandComplete (ctag : Fin 4096)
  /-- COMMAND_PARK (R472). Once every unit has stopped, the context is saved, slots freed and a PREEMPTED record written. -/
  | commandPark (ctag : Fin 4096)
  /-- COMMAND_RESUME (R470). A parked command with free slots restores its context and runs again. -/
  | commandResume (ctag : Fin 4096)
  /-- CLUSTER_IDLE_SLEEP (R466). A cluster with no slot for IDLE_HOLD_US goes to sleep unless pinned or otherwise kept. -/
  | clusterIdleSleep (d : Fin 16) (l : Fin 160)
  /-- Q_CTRL_CANCEL (R474). Cancels every uncompleted command of the queue and clears TRIG_PENDING. -/
  | qCtrlCancel (q : Fin 4096)
  /-- Q_CTRL_RESUME (R470). Resumes the queue's commands parked by request. -/
  | qCtrlResume (q : Fin 4096)
  /-- Q_CTRL_PREEMPT (R470). Pre-empts every running command of the queue. -/
  | qCtrlPreempt (q : Fin 4096)
  /-- DRV_CANCEL (R474). Cancels one command by CTAG. -/
  | drvCancel (d : Fin 16) (ctag : Fin 4096)
  /-- Q_CFG_WRITE (R459). Writes queue configuration, refused with CFG_ERR for locked fields while enabled. -/
  | qCfgWrite (q : Fin 4096) (v : BitVec 32)
  /-- Q_TRIG_WRITE (R462). Writes the trigger lock, refused with CFG_ERR for a lock outside the die. -/
  | qTrigWrite (q : Fin 4096) (v : BitVec 32)
  /-- DRV_TALLY_CLEAR (R485). Writing 1 clears the drover counters. -/
  | drvTallyClear (d : Fin 16)
  /-- MB_SEND_WIN (R481). A 64-byte write to the send window stores a payload and fires the doorbell. -/
  | mbSendWin (m : Fin 64) (core : Fin 8) (data : List Byte)
  /-- MB_ACK (R481). Drains the mailbox, clearing FULL and setting the outcome DRAINED. -/
  | mbAck (m : Fin 64)
  /-- MB_TIMEOUT (R481). TIMEOUT_US after a send without a drain the outcome becomes TIMEOUT. -/
  | mbTimeout (m : Fin 64)
  /-- RES_CLAIM (R484). Claims a shared resource for a feature, refused with BUSY if another holds it. -/
  | resClaim (r : Fin 5) (f : Fin 256)
  /-- RES_RELEASE (R484). Releases a shared resource held by the named feature. -/
  | resRelease (r : Fin 5) (f : Fin 256)
  /-- HOT_PLUG (R488). Supply blades make and the input capacitance charges at no more than 10 A. -/
  | hotPlug (vin : Fin 65536)
  /-- INPUT_OK_SET (R488). After the input stays at 40.0 V for 10 ms INPUT_OK sets and start-up begins. -/
  | inputOkSet
  /-- UV_WARN_CHANGE (R487). The input enters or leaves the warning band, holding or releasing rising steps. -/
  | uvWarnChange (vin : Fin 65536)
  /-- INPUT_UNDERVOLTAGE (R505). Input below 38.0 V for 2 µs causes an emergency shutdown without the clamp. -/
  | inputUndervoltage (vin : Fin 65536)
  /-- INPUT_OVERVOLTAGE (R505). Input above 50.0 V for 1 µs causes an emergency shutdown. -/
  | inputOvervoltage (vin : Fin 65536)
  /-- INPUT_OVERCURRENT (R505). Input current above 420 A for 5 µs causes an emergency shutdown. -/
  | inputOvercurrent (iin : Fin 65536)
  /-- REF25_LOSS (R511). Loss of the 25 MHz reference switches to the internal oscillator and causes an emergency shutdown. -/
  | ref25Loss
  /-- REF156_LOSS (R511). Loss of the link reference takes every link down. -/
  | ref156Loss
  /-- PLL_LOCK_LOSS (R510). A PLL losing lock while its domain is on causes an emergency shutdown. -/
  | pllLockLoss (d : Fin 20)
  /-- INPUT_POWER_SAMPLE (R501). Every slot the input monitor updates power averages and adjusts the envelope throttle level. -/
  | inputPowerSample (vin : Fin 65536) (iin : Fin 65536)
  /-- DIE_TEMP_SAMPLE (R503). Every 10 µs a die reads its hottest sensor and adjusts its thermal level. -/
  | dieTempSample (d : Fin 16) (temp : Fin 256)
  /-- PWR_DOM_ON (R496). Requests a domain ON, waking dependencies and requesting a rising step. -/
  | pwrDomOn (dom : Fin 105)
  /-- PWR_DOM_OFF (R497). Requests a domain OFF, refused under the listed conditions. -/
  | pwrDomOff (dom : Fin 105)
  /-- PWR_DOM_RETAIN (R498). Puts a stack into self-refresh RETAIN, refused for non-stacks. -/
  | pwrDomRetain (dom : Fin 105)
  /-- PWR_ENV_WRITE (R499). Requests an envelope, refused above MAX or out of range. -/
  | pwrEnvWrite (v : BitVec 32)
  /-- PWR_CTRL_PEN (R513). Enters pen state in an orderly way, turning domains off through the weir. -/
  | pwrCtrlPen
  /-- PWR_PPEAK_READ (R513). Reading the peak power register returns it and clears it. -/
  | pwrPpeakRead
  /-- WEIR_TALLY_CLEAR (R513). Writing 1 clears the weir grant and held-slot counters. -/
  | weirTallyClear
  /-- START_UP (R516). Runs the start-up steps from standby through self-test to READY or pen state. -/
  | startUp (env : BootEnv)
  /-- STARTUP_STEP_TIMEOUT (R516). A start-up step exceeding its limit has failed. -/
  | startupStepTimeout (n : Fin 8)
  /-- BOOT_CTRL_WRITE (R540). Writing the key starts a new start-up at step 2. -/
  | bootCtrlWrite (v : BitVec 32)
  /-- TAMPER_ALARM (R533). A tamper condition raises an alarm of its input's class A, B or C. -/
  | tamperAlarm (alarms : Fin 32) (raw : Fin 32)
  /-- AOC_TAKEOVER (R536). The standby AOC takes over when the AOC fails or its heartbeat stops for 64 cycles. -/
  | aocTakeover
  /-- HANG_WATCHDOG_EXPIRY (R543). An instruction or barge with no progress for WATCHDOG_MS is stopped with INTERNAL. -/
  | hangWatchdogExpiry (k : Fin 2688) (tag : Fin 4096)
  /-- COMMAND_RECOVERY (R545). A recoverable fault in a replayable command stops it, cancels tags, rewinds locks and replays it. -/
  | commandRecovery
  /-- CLUSTER_SPARE (R548). Fences a failing cluster, wakes a spare, copies configuration, remaps leaves and runs stage entries. -/
  | clusterSpare (d : Fin 16) (l : Fin 160)
  /-- FATAL_ERROR (R558). Stops all dispatch, writes the crash dump and enters pen state with reason FATAL. -/
  | fatalError (cause : Fin 256) (survives : Bool)
  /-- TALLY_EXPORT (R561). Every PERIOD_MS the firmware exports selected tallies into the export ring. -/
  | tallyExport
  /-- RESET_ASSERT (R573). RESET_N low for 10 µs halts units, turns domains off and clears claims. -/
  | resetAssert
  /-- RESET_RELEASE (R573). Release of RESET_N starts start-up at step 2 once domains are off. -/
  | resetRelease
  /-- WAKE_PIN (R572). WAKE_N low for 1 µs sets SVC_EVENT.WAKE and logs an INFO entry. -/
  | wakePin
  /-- PPS_IN_EDGE (R575). A PPS_IN rising edge latches device time and sets the event. -/
  | ppsInEdge
  /-- SYNC_IN_EDGE (R575). A SYNC_IN rising edge latches device time and sets the event. -/
  | syncInEdge
  /-- GPIO_EDGE (R579). A GPIO contact changing level sets its edge event bit. -/
  | gpioEdge (i : Fin 8) (level : Bool)
  /-- TIMER_FIRE (R575). A held timer fires at or after CMP, pulsing SYNC_IO or setting an event, then advances or disarms. -/
  | timerFire (t : Fin 2)
  /-- SMBUS_WRITE_WORD (R576). Sets the SMBus register pointer. -/
  | smbusWriteWord (p : Fin 65536) (pecOk : Bool)
  /-- SMBUS_BLOCK_READ (R576). Returns the register at the pointer and advances it by 4. -/
  | smbusBlockRead
  /-- BYPASS (R577). JTAG bypass instruction. -/
  | bypass
  /-- IDCODE (R577). JTAG instruction that returns the IDCODE. -/
  | idcode
  /-- SAMPLE_PRELOAD (R577). JTAG sample and preload of the boundary register. -/
  | samplePreload (data : Nat)
  /-- EXTEST (R577). JTAG external test over the service-connector boundary register, under DEBUG only. -/
  | extest (data : Nat)
  /-- DPA_READ (R577). JTAG read of a DPA under DEBUG. -/
  | dpaRead (a : Fin 70368744177664)
  /-- DPA_WRITE (R577). JTAG write of a DPA under DEBUG. -/
  | dpaWrite (a : Fin 70368744177664) (v : BitVec 32)
  /-- REGISTER_WRITE (R10). A write to a register without a row of its own stores, ignores or acts per its access code and field rules. -/
  | registerWrite (a : Fin 70368744177664) (v : BitVec 32)
  /-- PTP_FOLLOW_UP (R420). A Follow_Up message from a two-step master supplies the precise origin time of its Sync and updates the offset and servo state. -/
  | ptpFollowUp
  /-- ROCE_RATE_RECOVERY (R441). A queue pair whose send rate was reduced on a CNP restores it by one step. -/
  | roceRateRecovery (g : Fin 16384)
  /-- BENTIN_OTHER_OPCODE (R448). A Bentin REQUEST with an opcode that the table does not list draws a REPLY with ILLEGAL_DESCRIPTOR. -/
  | bentinOtherOpcode (f : BFrom)
  /-- LINK_DIE_TEMP_SAMPLE (R504). A link die's temperature is read into PWR_LD, and a reading of 110 °C causes a thermal-trip emergency shutdown. -/
  | linkDieTempSample (n : Fin 4) (temp : Fin 256)
  /-- STANDBY_AOC_FAILURE (R536). The standby AOC fails, so that with both AOCs failed the module stays in standby, drives ALERT_N and answers nothing. -/
  | standbyAocFailure
  /-- REF156_RESTORE (R511). The 156.25 MHz link reference returns, REF156_OK sets and the links can train again. -/
  | ref156Restore
  /-- REF25_RESTORE (R574). The 25 MHz system reference becomes present with 1 ms of valid periods, REF25_OK sets and a start-up waiting at step 2 may proceed. -/
  | ref25Restore
  deriving DecidableEq, Repr

end Sys2Proof
end

