-- ==== Sys2Proof/Config.lean ====
section
/-! DEFINITION. The free values: what the spec leaves open and the machine nevertheless has (each is named in the assumption log). They have no body: nothing in Lean can evaluate them, and a statement about them holds whatever they are. The first argument is always a number the state counts up, so that each use is a fresh value. -/

namespace Sys2Proof.Config

/-- A byte whose content the spec calls undefined (R338, R268, R303): a fresh number, and the DPA. -/
opaque freeByte : Nat → Nat → BitVec 8

/-- A natural the spec leaves open: a choice among several that are allowed (an allocated tag of R262, the data-cache line replaced
under R258), or a reading the spec does not fix. -/
opaque freeNat : Nat → Nat

/-- Whether the float units detect tininess before rounding (R248 follows IEEE 754, which leaves this to the implementation). -/
opaque tinyBefore : Bool

/-- Whether a fused multiply-add of zero, infinity and a quiet NaN sets the invalid flag (IEEE 754 leaves this to the implementation). -/
opaque fmaNanInvalid : Bool

/-- The DRAM bank of a row of a stack (R339, R340): the layout is internal to stepping A1 (R344). -/
opaque rowBank : Nat → Nat → Nat

/-- The DRAM die of a row of a stack (R339), as above. -/
opaque rowDie : Nat → Nat → Nat

/-! ### The video coders (R362 to R390) and the match finder (R399)

The spec does not restate HEVC, AV1 or RFC 1951's encoders: what a conforming decoder reads from a bitstream, and which bits the encoders of
stepping A1 choose, are functions of their inputs (R374, R400) that it leaves open. -/

/-- What parsing an access unit or temporal unit against a decoder's state yields (R385 to R390). A picture is named by what the standard
names it by: its PicOrderCntVal (HEVC, modulo 2^32) or its slot (AV1). -/
structure DecHead where
  /-- the sequence's parameters: width, height, bit depth, chroma format (0 monochrome, 1 4:2:0, 2 4:2:2, 3 4:4:4), buffers needed; its profile (HEVC
  general_profile_idc, AV1 seq_profile), whether the constraint flags of Main 4:2:2 10 are set, its level (HEVC general_level_idc, AV1 seq_level_idx) -/
  width : Nat
  height : Nat
  depth : Nat
  chroma : Nat
  buffers : Nat
  profile : Nat
  main42210 : Bool
  level : Nat
  /-- size of a CTB or superblock -/
  blk : Nat
  /-- a tool that the tables of R362 and R363 do not list: range extension, screen content, multilayer, large-scale tile -/
  unlisted : Bool
  /-- wavefront parsing; the count of tiles -/
  wpp : Bool
  tiles : Nat
  /-- an IRAP picture, a shown key frame -/
  irap : Bool
  /-- the standard decodes and outputs this picture -/
  shown : Bool
  picType : Nat
  order : Nat
  /-- 0, or the modulus of order hints -/
  orderMod : Nat
  /-- the names the reference picture set keeps (HEVC); the names the picture reads; its RefPicList0[0] or LAST_FRAME -/
  rps : List Nat
  refs : List Nat
  first : Option Nat
  /-- the names it is stored under -/
  stores : List Nat
  /-- recovery_poc_cnt and exact_match_flag of a recovery point SEI; the payload of a metadata OBU of type 25 (R381) -/
  recovery : Option (Nat × Bool)
  private_ : Option (List (BitVec 8))
  grain : Bool
  consumed : Nat
  /-- the decoder's state afterwards -/
  next : Nat
  deriving DecidableEq, Repr, Inhabited

/-- Whether a sequence has more than 8 bits, and whether it is 4:2:2. -/
def DecHead.bit10 (hd : DecHead) : Bool := 8 < hd.depth
def DecHead.c422 (hd : DecHead) : Bool := hd.chroma = 2

/-- A frame of a temporal unit that is stored and not shown: the names it is stored under, its planes, the blocks (raster index) that could not be decoded, its
first reference. -/
structure DecFrame where
  names : List Nat
  planes : List (List Nat)
  lost : List Nat
  first : Option Nat
  deriving DecidableEq, Repr, Inhabited

/-- A decoded picture: planes for reference and for output (with film grain), the blocks that could not be decoded, whether a picture hash did not match, and the
unit's frames that are not shown. -/
structure DecPic where
  planes : List (List Nat)
  output : List (List Nat)
  lost : List Nat
  hashBad : Bool
  hidden : List DecFrame
  deriving DecidableEq, Repr, Inhabited

/-- What the coder of a picture is told, and nothing else but the sources and its own state (R374): the fields of OPEN_ENC (bytes 16 to 55) and its HASH_SEI, the
group size, the picture's place, and what R361 to R363 and R378 to R382 fix of its form. -/
structure EncPic where
  fields : List (BitVec 8)
  hash : Bool
  group : Nat
  key : Bool
  level : Nat
  order : Nat
  /-- an IDR_N_LP picture after VPS, SPS and PPS; a sequence header and a shown KEY_FRAME that refreshes all slots (R382) -/
  headers : Bool
  /-- pictures a picture may refer to -/
  refs : Nat
  /-- entropy_coding_sync_enabled_flag; uniformly spaced tile columns (R361) -/
  wpp : Bool
  tileCols : Nat
  /-- bands of a dependent slice segment or of a tile row, 0 for one slice or tile row per picture (R362, R363) -/
  sliceBands : Nat
  /-- TMVP and use_ref_frame_mvs; loop restoration -/
  tmvp : Bool
  restoration : Bool
  /-- the blocks (columns or bands) coded intra, and how far the refreshed region reads (R380): luma samples of its own picture, and of the reference -/
  intraLo : Nat
  intraHi : Nat
  ownLimit : Nat
  refLimit : Nat
  /-- the cycle's marker (R381): recovery_poc_cnt of a recovery point SEI with exact_match_flag 1, the payload of a metadata OBU of type 25 -/
  recovery : Option Nat
  metadata : List (BitVec 8)
  /-- motion search (R379): candidates, the pyramid levels searched with their ranges in integer steps, coarsest first, fractions of a sample -/
  candidates : Nat
  search : List (Nat × Nat)
  fraction : Nat
  deriving DecidableEq, Repr, Inhabited

/-- A coded band: its bits, its bytes, and the reconstructed samples of its planes. -/
structure EncBand where
  bits : Nat
  bytes : List (BitVec 8)
  recon : List (List Nat)
  deriving DecidableEq, Repr, Inhabited

/-- Parsing: decoder state, whether AV1, data. -/
opaque decHead : Nat → Bool → List (BitVec 8) → DecHead
/-- Decoding: state, whether AV1, data, the reference pictures by name. -/
opaque decPic : Nat → Bool → List (BitVec 8) → List (Nat × List (List Nat)) → DecPic
/-- Output samples of a format that cannot hold a decoded picture as it is: OUT_FMT, picture. -/
opaque decFit : Nat → List (List Nat) → List (List Nat)
/-- The bits of bands b to last (R377): coder state, picture, source so far, what lookahead shows of later bands and pictures, b, the quantiser. -/
opaque encEst : Nat → EncPic → List (List Nat) → List (List Nat) → Nat → Int → Nat
/-- One coded band: coder state, picture, source so far, what lookahead shows, the quantiser and MINIMAL of the bands up to it. -/
opaque encBand : Nat → EncPic → List (List Nat) → List (List Nat) → List (Int × Bool) → EncBand
/-- The coder state after a picture. -/
opaque encNext : Nat → EncPic → List (List Nat) → List (List Nat) → List (Int × Bool) → Nat
/-- The coding order and hierarchy level of the pictures of a mini-GOP (R378): the fields of OPEN_ENC, its size. -/
opaque encGop : List (BitVec 8) → Nat → List (Nat × Nat)
/-- The 64 KiB page of its stream's context region that a band works in (R364): coder state, ORDER, band. -/
opaque ctxPage : Nat → Nat → Nat → Nat
/-- The matches that the hash chains of R399 find: chain depth, lazy matching, what stands before the block in the window, the block. A pair (length, distance), or
(byte, 0) for a literal. -/
opaque slMatches : Nat → Bool → List (BitVec 8) → List (BitVec 8) → List (Nat × Nat)
/-- The codes built from a block's symbol counts (R399): counts of the literal and length symbols and of the distance symbols; the bits that describe the codes, and
their code lengths. -/
opaque slCodes : List Nat → List Nat → List Bool × List Nat × List Nat

/-! ### Links and security -/

/-- Whether a temporal unit holds a key frame (AV1), which R438 asks of its parsing. -/
opaque av1Key : List (BitVec 8) → Bool

/-- The room of packet i of a temporal unit: the AV1 RTP payload specification leaves the sizes of packets to the sender (R438). -/
opaque av1Room : List (BitVec 8) → Nat → Nat

/-- The device's PTP port identity on a sub-port, and the IPv4 address it sends PTP messages from (R420): the spec gives neither. -/
opaque ptpIdentity : Nat → BitVec 80
opaque ptpAddress : Nat → BitVec 32

/-! ### Flash, identity and signatures (R522 to R538)

The spec does not give the contents of the flash as the factory left them, the keys of Heluri, or the identity of a module; SHA-384, ECDSA, HSS and
the report's signatures are functions of standards it cites. -/

/-- A byte of the flash that nothing has written or erased. -/
opaque flashByte : Nat → BitVec 8
/-- SHA-384 of a byte string, big-endian. -/
opaque sha384 : List (BitVec 8) → BitVec 384
/-- Whether an ECDSA P-384 signature of 96 bytes verifies: public key, digest, signature. -/
opaque ecdsaOk : List (BitVec 8) → BitVec 384 → List (BitVec 8) → Bool
/-- Whether an HSS signature verifies: public key, message, signature. -/
opaque hssOk : List (BitVec 8) → List (BitVec 8) → List (BitVec 8) → Bool
/-- The vendor keys 0 to 3 held in AOC ROM (R523): ECDSA and HSS. -/
opaque vendorEcdsa : Nat → List (BitVec 8)
opaque vendorHss : Nat → List (BitVec 8)
/-- DEVICE_ID (R529). -/
opaque deviceId : BitVec 384
/-- The public keys and signatures of an attestation report (R538): AK_PUB of a STAGE1 digest, the AK certificate, DIK_PUB of an AOC, and the
signature of a report's bytes 0 to 655. -/
opaque akPub : BitVec 384 → BitVec 776
opaque akCert : BitVec 384 → Nat → BitVec 768
opaque dikPub : Nat → BitVec 776
opaque attestSig : BitVec 384 → List (BitVec 8) → BitVec 768

end Sys2Proof.Config
end

