-- ==== Sys2Proof/Machine/RegTable.lean ====
section
/-! DEFINITION. The register tables of the spec (R9, R10): for every block, the offset of each register and the bits, access code and reset value of each field that is not reserved. Names are the spec's. Reserved bits and offsets read 0 (R11). -/

namespace Sys2Proof.Machine

/-- The access codes of R10. -/
inductive Acc where
  | ro | rw | wo | w1c | w1s | rc
  deriving DecidableEq, Repr

/-- A field of a register: its bits, its access code, its reset value. -/
structure Fld where
  hi : Nat
  lo : Nat
  acc : Acc
  rst : Nat
  deriving DecidableEq, Repr

/-- A register of a block, `cnt` instances `stride` bytes apart. -/
structure RegRow where
  off : Nat
  cnt : Nat
  stride : Nat
  flds : List Fld
  deriving DecidableEq, Repr

/-- The kinds of register block. -/
inductive RB where
  | tc
  | sf
  | cc
  | th
  | be
  | lk
  | lock
  | aoc
  | span
  | dmmu
  | fq
  | stk
  | cs
  | bv
  | bvg
  | sl
  | lnk
  | ld0
  | drv
  | q
  | mb
  | res
  | pwr
  | boot
  | rcv
  | svc
  | tmr
  deriving DecidableEq, Repr

/-- Offset of TC_SAT_ELEMS (COUNT [31:0]). -/
def R.TC_SAT_ELEMS : Nat := 0x400
/-- Offset of TC_UF_ELEMS (COUNT [31:0]). -/
def R.TC_UF_ELEMS : Nat := 0x404
/-- Offset of TC_WIDEN_COUNT (COUNT [31:0]). -/
def R.TC_WIDEN_COUNT : Nat := 0x408
/-- Offset of TC_WIDEN_SKIPPED (COUNT [31:0]). -/
def R.TC_WIDEN_SKIPPED : Nat := 0x40C
/-- Offset of TC_DEGEN_ROWS (COUNT [31:0]). -/
def R.TC_DEGEN_ROWS : Nat := 0x410
/-- Offset of TC_OUTLIER_TERMS (COUNT [31:0]). -/
def R.TC_OUTLIER_TERMS : Nat := 0x414
/-- Offset of TC_QTALLY_CLEAR (CLEAR [0:0]). -/
def R.TC_QTALLY_CLEAR : Nat := 0x418
/-- Offset of TC_STATUS (EPE_BUSY [25:25], MVE_BUSY [24:24], GATED [23:20], SPLIT_PENDING [19:16], HALF_BUSY [15:8], SPLIT [7:4], BUSY [3:0]). -/
def R.TC_STATUS : Nat := 0x0
/-- Offset of TC_SPLIT_CTRL (SPLIT [3:0]). -/
def R.TC_SPLIT_CTRL : Nat := 0x4
/-- Offset of TC_FAULT_STATUS (VALID [31:31], OVERFLOW [30:30], CODE [23:16], HALF [12:11], ENGINE [10:8], CAUSE [7:0]). -/
def R.TC_FAULT_STATUS : Nat := 0x10
/-- Offset of TC_FAULT_TAG (TAG [11:0]). -/
def R.TC_FAULT_TAG : Nat := 0x14
/-- Offset of TC_FAULT_POS (OUT_TILE [31:16], PASS [15:0]). -/
def R.TC_FAULT_POS : Nat := 0x18
/-- Offset of TC_FAULT_VADDR_LO (VADDR [31:0]). -/
def R.TC_FAULT_VADDR_LO : Nat := 0x1C
/-- Offset of TC_FAULT_VADDR_HI (VADDR [15:0]). -/
def R.TC_FAULT_VADDR_HI : Nat := 0x20
/-- Offset of TC_WAIT_PREEMPT (COUNT [31:0]). -/
def R.TC_WAIT_PREEMPT : Nat := 0x100
/-- Offset of TC_WAIT_WEIR (COUNT [31:0]). -/
def R.TC_WAIT_WEIR : Nat := 0x104
/-- Offset of TC_WAIT_SYNC (COUNT [31:0]). -/
def R.TC_WAIT_SYNC : Nat := 0x108
/-- Offset of TC_WAIT_MEMORY (COUNT [31:0]). -/
def R.TC_WAIT_MEMORY : Nat := 0x10C
/-- Offset of TC_WAIT_TRANSLATION (COUNT [31:0]). -/
def R.TC_WAIT_TRANSLATION : Nat := 0x110
/-- Offset of TC_WAIT_WEIGHTS (COUNT [31:0]). -/
def R.TC_WAIT_WEIGHTS : Nat := 0x114
/-- Offset of TC_WAIT_SCALES (COUNT [31:0]). -/
def R.TC_WAIT_SCALES : Nat := 0x118
/-- Offset of TC_WAIT_ACT (COUNT [31:0]). -/
def R.TC_WAIT_ACT : Nat := 0x11C
/-- Offset of TC_WAIT_LOCK_SPACE (COUNT [31:0]). -/
def R.TC_WAIT_LOCK_SPACE : Nat := 0x120
/-- Offset of TC_WLOAD_GAP (COUNT [31:0]). -/
def R.TC_WLOAD_GAP : Nat := 0x140
/-- Offset of TC_SWAPS (COUNT [31:0]). -/
def R.TC_SWAPS : Nat := 0x144
/-- Offset of TC_GANG_ISSUES (COUNT [31:0]). -/
def R.TC_GANG_ISSUES : Nat := 0x148
/-- Offset of TC_PARITY_RETRIES (COUNT [31:0]). -/
def R.TC_PARITY_RETRIES : Nat := 0x14C
/-- Offset of TC_TALLY_CLEAR (CLEAR [0:0]). -/
def R.TC_TALLY_CLEAR : Nat := 0x150
/-- Offset of TC_TAP_SKIP (COUNT [31:0]). -/
def R.TC_TAP_SKIP : Nat := 0x500
/-- Offset of TC_EMPTY_OUT (COUNT [31:0]). -/
def R.TC_EMPTY_OUT : Nat := 0x504
/-- Offset of TC_POOL_VOID (COUNT [31:0]). -/
def R.TC_POOL_VOID : Nat := 0x508
/-- Offset of TC_CROP_BOXES (COUNT [31:0]). -/
def R.TC_CROP_BOXES : Nat := 0x50C
/-- Offset of TC_CROP_INVALID (COUNT [31:0]). -/
def R.TC_CROP_INVALID : Nat := 0x510
/-- Offset of TC_SW_CLEAR (CLEAR [0:0]). -/
def R.TC_SW_CLEAR : Nat := 0x514
/-- Offset of TC_QSTAT (HEAD_OP [23:16], HEAD_WAITING [8:8], DEPTH [4:0]). -/
def R.TC_QSTAT : Nat := 0x600
/-- Offset of TC_TAG_POOL (COMPLETE [28:16], FREE [12:0]). -/
def R.TC_TAG_POOL : Nat := 0x640
/-- Offset of TC_DESC_REFUSED (COUNT [31:0]). -/
def R.TC_DESC_REFUSED : Nat := 0x644
/-- Offset of TC_DEP_CANCELLED (COUNT [31:0]). -/
def R.TC_DEP_CANCELLED : Nat := 0x648
/-- Offset of TC_ISSUE_CLEAR (CLEAR [0:0]). -/
def R.TC_ISSUE_CLEAR : Nat := 0x64C

/-- Registers of the block: tensor core (R100, R138, R169, R294), part 0. -/
def rows_tc0 : List RegRow := [
  ⟨R.TC_SAT_ELEMS, 1, 4, [⟨31, 0, .ro, 0⟩]⟩,
  ⟨R.TC_UF_ELEMS, 1, 4, [⟨31, 0, .ro, 0⟩]⟩,
  ⟨R.TC_WIDEN_COUNT, 1, 4, [⟨31, 0, .ro, 0⟩]⟩,
  ⟨R.TC_WIDEN_SKIPPED, 1, 4, [⟨31, 0, .ro, 0⟩]⟩,
  ⟨R.TC_DEGEN_ROWS, 1, 4, [⟨31, 0, .ro, 0⟩]⟩,
  ⟨R.TC_OUTLIER_TERMS, 1, 4, [⟨31, 0, .ro, 0⟩]⟩,
  ⟨R.TC_QTALLY_CLEAR, 1, 4, [⟨0, 0, .wo, 0⟩]⟩,
  ⟨R.TC_STATUS, 1, 4, [⟨25, 25, .ro, 0⟩, ⟨24, 24, .ro, 0⟩, ⟨23, 20, .ro, 15⟩, ⟨19, 16, .ro, 0⟩, ⟨15, 8, .ro, 0⟩, ⟨7, 4, .ro, 0⟩, ⟨3, 0, .ro, 0⟩]⟩,
  ⟨R.TC_SPLIT_CTRL, 1, 4, [⟨3, 0, .rw, 0⟩]⟩,
  ⟨R.TC_FAULT_STATUS, 1, 4, [⟨31, 31, .w1c, 0⟩, ⟨30, 30, .w1c, 0⟩, ⟨23, 16, .ro, 0⟩, ⟨12, 11, .ro, 0⟩, ⟨10, 8, .ro, 0⟩, ⟨7, 0, .ro, 0⟩]⟩,
  ⟨R.TC_FAULT_TAG, 1, 4, [⟨11, 0, .ro, 0⟩]⟩,
  ⟨R.TC_FAULT_POS, 1, 4, [⟨31, 16, .ro, 0⟩, ⟨15, 0, .ro, 0⟩]⟩,
  ⟨R.TC_FAULT_VADDR_LO, 1, 4, [⟨31, 0, .ro, 0⟩]⟩,
  ⟨R.TC_FAULT_VADDR_HI, 1, 4, [⟨15, 0, .ro, 0⟩]⟩,
  ⟨R.TC_WAIT_PREEMPT, 1, 4, [⟨31, 0, .ro, 0⟩]⟩,
  ⟨R.TC_WAIT_WEIR, 1, 4, [⟨31, 0, .ro, 0⟩]⟩,
  ⟨R.TC_WAIT_SYNC, 1, 4, [⟨31, 0, .ro, 0⟩]⟩,
  ⟨R.TC_WAIT_MEMORY, 1, 4, [⟨31, 0, .ro, 0⟩]⟩,
  ⟨R.TC_WAIT_TRANSLATION, 1, 4, [⟨31, 0, .ro, 0⟩]⟩,
  ⟨R.TC_WAIT_WEIGHTS, 1, 4, [⟨31, 0, .ro, 0⟩]⟩]

/-- Registers of the block: tensor core (R100, R138, R169, R294), part 1. -/
def rows_tc1 : List RegRow := [
  ⟨R.TC_WAIT_SCALES, 1, 4, [⟨31, 0, .ro, 0⟩]⟩,
  ⟨R.TC_WAIT_ACT, 1, 4, [⟨31, 0, .ro, 0⟩]⟩,
  ⟨R.TC_WAIT_LOCK_SPACE, 1, 4, [⟨31, 0, .ro, 0⟩]⟩,
  ⟨R.TC_WLOAD_GAP, 1, 4, [⟨31, 0, .ro, 0⟩]⟩,
  ⟨R.TC_SWAPS, 1, 4, [⟨31, 0, .ro, 0⟩]⟩,
  ⟨R.TC_GANG_ISSUES, 1, 4, [⟨31, 0, .ro, 0⟩]⟩,
  ⟨R.TC_PARITY_RETRIES, 1, 4, [⟨31, 0, .ro, 0⟩]⟩,
  ⟨R.TC_TALLY_CLEAR, 1, 4, [⟨0, 0, .wo, 0⟩]⟩,
  ⟨R.TC_TAP_SKIP, 1, 4, [⟨31, 0, .ro, 0⟩]⟩,
  ⟨R.TC_EMPTY_OUT, 1, 4, [⟨31, 0, .ro, 0⟩]⟩,
  ⟨R.TC_POOL_VOID, 1, 4, [⟨31, 0, .ro, 0⟩]⟩,
  ⟨R.TC_CROP_BOXES, 1, 4, [⟨31, 0, .ro, 0⟩]⟩,
  ⟨R.TC_CROP_INVALID, 1, 4, [⟨31, 0, .ro, 0⟩]⟩,
  ⟨R.TC_SW_CLEAR, 1, 4, [⟨0, 0, .wo, 0⟩]⟩,
  ⟨R.TC_QSTAT, 15, 4, [⟨23, 16, .ro, 0⟩, ⟨8, 8, .ro, 0⟩, ⟨4, 0, .ro, 0⟩]⟩,
  ⟨R.TC_TAG_POOL, 1, 4, [⟨28, 16, .ro, 0⟩, ⟨12, 0, .ro, 4096⟩]⟩,
  ⟨R.TC_DESC_REFUSED, 1, 4, [⟨31, 0, .ro, 0⟩]⟩,
  ⟨R.TC_DEP_CANCELLED, 1, 4, [⟨31, 0, .ro, 0⟩]⟩,
  ⟨R.TC_ISSUE_CLEAR, 1, 4, [⟨0, 0, .wo, 0⟩]⟩]

/-- The block: tensor core (R100, R138, R169, R294). -/
def rows_tc : List RegRow := rows_tc0 ++ rows_tc1

/-- Offset of SF_STATUS (LOADING [11:2], BUSY [1:0]). -/
def R.SF_STATUS : Nat := 0x0
/-- Offset of SF_SLOT_EPOCH (PROG_ID [31:16], EPOCH [15:0]). -/
def R.SF_SLOT_EPOCH : Nat := 0x100
/-- Offset of SF_SLOT_USERS (USERS1 [31:16], USERS0 [15:0]). -/
def R.SF_SLOT_USERS : Nat := 0x104
/-- Offset of SF_SLOT_STATE (BANK1_VALID [3:3], BANK0_VALID [2:2], SLOT_WAITING [1:1], SLOT_BAD [0:0]). -/
def R.SF_SLOT_STATE : Nat := 0x108
/-- Offset of SF_SEAM_CLAMP (COUNT [31:0]). -/
def R.SF_SEAM_CLAMP : Nat := 0x200
/-- Offset of SF_CLAMPS (COUNT [31:0]). -/
def R.SF_CLAMPS : Nat := 0x204
/-- Offset of SF_FLUSH (COUNT [31:0]). -/
def R.SF_FLUSH : Nat := 0x208
/-- Offset of SF_NORM_DEGENERATE (COUNT [31:0]). -/
def R.SF_NORM_DEGENERATE : Nat := 0x20C
/-- Offset of SF_ALLMASKED (COUNT [31:0]). -/
def R.SF_ALLMASKED : Nat := 0x210
/-- Offset of SF_TB_NEGMASS (COUNT [31:0]). -/
def R.SF_TB_NEGMASS : Nat := 0x214
/-- Offset of SF_LOAD_WAIT (COUNT [31:0]). -/
def R.SF_LOAD_WAIT : Nat := 0x218
/-- Offset of SF_TALLY_CLEAR (CLEAR [0:0]). -/
def R.SF_TALLY_CLEAR : Nat := 0x21C
/-- Offset of SF_WAIT_PREEMPT (COUNT [31:0]). -/
def R.SF_WAIT_PREEMPT : Nat := 0x300
/-- Offset of SF_WAIT_WEIR (COUNT [31:0]). -/
def R.SF_WAIT_WEIR : Nat := 0x304
/-- Offset of SF_WAIT_SYNC (COUNT [31:0]). -/
def R.SF_WAIT_SYNC : Nat := 0x308
/-- Offset of SF_WAIT_MEMORY (COUNT [31:0]). -/
def R.SF_WAIT_MEMORY : Nat := 0x30C
/-- Offset of SF_WAIT_TRANSLATION (COUNT [31:0]). -/
def R.SF_WAIT_TRANSLATION : Nat := 0x310
/-- Offset of SF_WAIT_WEIGHTS (COUNT [31:0]). -/
def R.SF_WAIT_WEIGHTS : Nat := 0x314
/-- Offset of SF_WAIT_SCALES (COUNT [31:0]). -/
def R.SF_WAIT_SCALES : Nat := 0x318
/-- Offset of SF_WAIT_ACT (COUNT [31:0]). -/
def R.SF_WAIT_ACT : Nat := 0x31C
/-- Offset of SF_WAIT_LOCK_SPACE (COUNT [31:0]). -/
def R.SF_WAIT_LOCK_SPACE : Nat := 0x320
/-- Offset of SF_WAIT_CLEAR (CLEAR [0:0]). -/
def R.SF_WAIT_CLEAR : Nat := 0x324

/-- Registers of the block: special functions (R196), part 0. -/
def rows_sf0 : List RegRow := [
  ⟨R.SF_STATUS, 1, 4, [⟨11, 2, .ro, 0⟩, ⟨1, 0, .ro, 0⟩]⟩,
  ⟨R.SF_SLOT_EPOCH, 10, 16, [⟨31, 16, .ro, 0⟩, ⟨15, 0, .ro, 0⟩]⟩,
  ⟨R.SF_SLOT_USERS, 10, 16, [⟨31, 16, .ro, 0⟩, ⟨15, 0, .ro, 0⟩]⟩,
  ⟨R.SF_SLOT_STATE, 10, 16, [⟨3, 3, .ro, 0⟩, ⟨2, 2, .ro, 0⟩, ⟨1, 1, .ro, 0⟩, ⟨0, 0, .ro, 0⟩]⟩,
  ⟨R.SF_SEAM_CLAMP, 1, 4, [⟨31, 0, .ro, 0⟩]⟩,
  ⟨R.SF_CLAMPS, 1, 4, [⟨31, 0, .ro, 0⟩]⟩,
  ⟨R.SF_FLUSH, 1, 4, [⟨31, 0, .ro, 0⟩]⟩,
  ⟨R.SF_NORM_DEGENERATE, 1, 4, [⟨31, 0, .ro, 0⟩]⟩,
  ⟨R.SF_ALLMASKED, 1, 4, [⟨31, 0, .ro, 0⟩]⟩,
  ⟨R.SF_TB_NEGMASS, 1, 4, [⟨31, 0, .ro, 0⟩]⟩,
  ⟨R.SF_LOAD_WAIT, 1, 4, [⟨31, 0, .ro, 0⟩]⟩,
  ⟨R.SF_TALLY_CLEAR, 1, 4, [⟨0, 0, .wo, 0⟩]⟩,
  ⟨R.SF_WAIT_PREEMPT, 1, 4, [⟨31, 0, .ro, 0⟩]⟩,
  ⟨R.SF_WAIT_WEIR, 1, 4, [⟨31, 0, .ro, 0⟩]⟩,
  ⟨R.SF_WAIT_SYNC, 1, 4, [⟨31, 0, .ro, 0⟩]⟩,
  ⟨R.SF_WAIT_MEMORY, 1, 4, [⟨31, 0, .ro, 0⟩]⟩,
  ⟨R.SF_WAIT_TRANSLATION, 1, 4, [⟨31, 0, .ro, 0⟩]⟩,
  ⟨R.SF_WAIT_WEIGHTS, 1, 4, [⟨31, 0, .ro, 0⟩]⟩,
  ⟨R.SF_WAIT_SCALES, 1, 4, [⟨31, 0, .ro, 0⟩]⟩,
  ⟨R.SF_WAIT_ACT, 1, 4, [⟨31, 0, .ro, 0⟩]⟩]

/-- Registers of the block: special functions (R196), part 1. -/
def rows_sf1 : List RegRow := [
  ⟨R.SF_WAIT_LOCK_SPACE, 1, 4, [⟨31, 0, .ro, 0⟩]⟩,
  ⟨R.SF_WAIT_CLEAR, 1, 4, [⟨0, 0, .wo, 0⟩]⟩]

/-- The block: special functions (R196). -/
def rows_sf : List RegRow := rows_sf0 ++ rows_sf1

/-- Offset of CC_STATUS (LOADING [7:4], BUSY [3:0]). -/
def R.CC_STATUS : Nat := 0x0
/-- Offset of CC_SLOT_EPOCH (TSET [31:24], EPOCH [15:0]). -/
def R.CC_SLOT_EPOCH : Nat := 0x100
/-- Offset of CC_SLOT_USERS (USERS1 [31:16], USERS0 [15:0]). -/
def R.CC_SLOT_USERS : Nat := 0x104
/-- Offset of CC_SLOT_STATE (BANK1_VALID [3:3], BANK0_VALID [2:2], SLOT_WAITING [1:1], SLOT_BAD [0:0]). -/
def R.CC_SLOT_STATE : Nat := 0x108
/-- Offset of CC_SLOT_SHAPE (A [31:20], H [19:8], CLASSES [6:0]). -/
def R.CC_SLOT_SHAPE : Nat := 0x10C
/-- Offset of CC_SLOT_MODEL (MODEL_ID [31:0]). -/
def R.CC_SLOT_MODEL : Nat := 0x110
/-- Offset of CC_SLOT_HASH_LO (HASH [31:0]). -/
def R.CC_SLOT_HASH_LO : Nat := 0x114
/-- Offset of CC_SLOT_HASH_HI (HASH [31:0]). -/
def R.CC_SLOT_HASH_HI : Nat := 0x118
/-- Offset of CC_SYMS_ENC (COUNT [31:0]). -/
def R.CC_SYMS_ENC : Nat := 0x200
/-- Offset of CC_SYMS_DEC (COUNT [31:0]). -/
def R.CC_SYMS_DEC : Nat := 0x204
/-- Offset of CC_ESCAPES (COUNT [31:0]). -/
def R.CC_ESCAPES : Nat := 0x208
/-- Offset of CC_BYTES_OUT (COUNT [31:0]). -/
def R.CC_BYTES_OUT : Nat := 0x20C
/-- Offset of CC_BYTES_IN (COUNT [31:0]). -/
def R.CC_BYTES_IN : Nat := 0x210
/-- Offset of CC_CHUNKS_DAMAGED (COUNT [31:0]). -/
def R.CC_CHUNKS_DAMAGED : Nat := 0x214
/-- Offset of CC_CHECK_FAIL (COUNT [31:0]). -/
def R.CC_CHECK_FAIL : Nat := 0x218
/-- Offset of CC_TABLE_PARITY (COUNT [31:0]). -/
def R.CC_TABLE_PARITY : Nat := 0x21C
/-- Offset of CC_LOAD_WAIT (COUNT [31:0]). -/
def R.CC_LOAD_WAIT : Nat := 0x220
/-- Offset of CC_TALLY_CLEAR (CLEAR [0:0]). -/
def R.CC_TALLY_CLEAR : Nat := 0x224
/-- Offset of CC_WAIT_PREEMPT (COUNT [31:0]). -/
def R.CC_WAIT_PREEMPT : Nat := 0x300
/-- Offset of CC_WAIT_WEIR (COUNT [31:0]). -/
def R.CC_WAIT_WEIR : Nat := 0x304
/-- Offset of CC_WAIT_SYNC (COUNT [31:0]). -/
def R.CC_WAIT_SYNC : Nat := 0x308
/-- Offset of CC_WAIT_MEMORY (COUNT [31:0]). -/
def R.CC_WAIT_MEMORY : Nat := 0x30C
/-- Offset of CC_WAIT_TRANSLATION (COUNT [31:0]). -/
def R.CC_WAIT_TRANSLATION : Nat := 0x310
/-- Offset of CC_WAIT_WEIGHTS (COUNT [31:0]). -/
def R.CC_WAIT_WEIGHTS : Nat := 0x314
/-- Offset of CC_WAIT_SCALES (COUNT [31:0]). -/
def R.CC_WAIT_SCALES : Nat := 0x318
/-- Offset of CC_WAIT_ACT (COUNT [31:0]). -/
def R.CC_WAIT_ACT : Nat := 0x31C
/-- Offset of CC_WAIT_LOCK_SPACE (COUNT [31:0]). -/
def R.CC_WAIT_LOCK_SPACE : Nat := 0x320
/-- Offset of CC_WAIT_CLEAR (CLEAR [0:0]). -/
def R.CC_WAIT_CLEAR : Nat := 0x324

/-- Registers of the block: coder (R231), part 0. -/
def rows_cc0 : List RegRow := [
  ⟨R.CC_STATUS, 1, 4, [⟨7, 4, .ro, 0⟩, ⟨3, 0, .ro, 0⟩]⟩,
  ⟨R.CC_SLOT_EPOCH, 4, 32, [⟨31, 24, .ro, 0⟩, ⟨15, 0, .ro, 0⟩]⟩,
  ⟨R.CC_SLOT_USERS, 4, 32, [⟨31, 16, .ro, 0⟩, ⟨15, 0, .ro, 0⟩]⟩,
  ⟨R.CC_SLOT_STATE, 4, 32, [⟨3, 3, .ro, 0⟩, ⟨2, 2, .ro, 0⟩, ⟨1, 1, .ro, 0⟩, ⟨0, 0, .ro, 0⟩]⟩,
  ⟨R.CC_SLOT_SHAPE, 4, 32, [⟨31, 20, .ro, 0⟩, ⟨19, 8, .ro, 0⟩, ⟨6, 0, .ro, 0⟩]⟩,
  ⟨R.CC_SLOT_MODEL, 4, 32, [⟨31, 0, .ro, 0⟩]⟩,
  ⟨R.CC_SLOT_HASH_LO, 4, 32, [⟨31, 0, .ro, 0⟩]⟩,
  ⟨R.CC_SLOT_HASH_HI, 4, 32, [⟨31, 0, .ro, 0⟩]⟩,
  ⟨R.CC_SYMS_ENC, 1, 4, [⟨31, 0, .ro, 0⟩]⟩,
  ⟨R.CC_SYMS_DEC, 1, 4, [⟨31, 0, .ro, 0⟩]⟩,
  ⟨R.CC_ESCAPES, 1, 4, [⟨31, 0, .ro, 0⟩]⟩,
  ⟨R.CC_BYTES_OUT, 1, 4, [⟨31, 0, .ro, 0⟩]⟩,
  ⟨R.CC_BYTES_IN, 1, 4, [⟨31, 0, .ro, 0⟩]⟩,
  ⟨R.CC_CHUNKS_DAMAGED, 1, 4, [⟨31, 0, .ro, 0⟩]⟩,
  ⟨R.CC_CHECK_FAIL, 1, 4, [⟨31, 0, .ro, 0⟩]⟩,
  ⟨R.CC_TABLE_PARITY, 1, 4, [⟨31, 0, .ro, 0⟩]⟩,
  ⟨R.CC_LOAD_WAIT, 1, 4, [⟨31, 0, .ro, 0⟩]⟩,
  ⟨R.CC_TALLY_CLEAR, 1, 4, [⟨0, 0, .wo, 0⟩]⟩,
  ⟨R.CC_WAIT_PREEMPT, 1, 4, [⟨31, 0, .ro, 0⟩]⟩,
  ⟨R.CC_WAIT_WEIR, 1, 4, [⟨31, 0, .ro, 0⟩]⟩]

/-- Registers of the block: coder (R231), part 1. -/
def rows_cc1 : List RegRow := [
  ⟨R.CC_WAIT_SYNC, 1, 4, [⟨31, 0, .ro, 0⟩]⟩,
  ⟨R.CC_WAIT_MEMORY, 1, 4, [⟨31, 0, .ro, 0⟩]⟩,
  ⟨R.CC_WAIT_TRANSLATION, 1, 4, [⟨31, 0, .ro, 0⟩]⟩,
  ⟨R.CC_WAIT_WEIGHTS, 1, 4, [⟨31, 0, .ro, 0⟩]⟩,
  ⟨R.CC_WAIT_SCALES, 1, 4, [⟨31, 0, .ro, 0⟩]⟩,
  ⟨R.CC_WAIT_ACT, 1, 4, [⟨31, 0, .ro, 0⟩]⟩,
  ⟨R.CC_WAIT_LOCK_SPACE, 1, 4, [⟨31, 0, .ro, 0⟩]⟩,
  ⟨R.CC_WAIT_CLEAR, 1, 4, [⟨0, 0, .wo, 0⟩]⟩]

/-- The block: coder (R231). -/
def rows_cc : List RegRow := rows_cc0 ++ rows_cc1

/-- Offset of TH_STATUS (F1_STATE [7:4], F0_STATE [3:0]). -/
def R.TH_STATUS : Nat := 0x0
/-- Offset of TH_FAULT_STATUS (VALID [31:31], OVERFLOW [30:30], FLOCK [24:24], CODE [23:16], FETCH [8:8], CAUSE [7:0]). -/
def R.TH_FAULT_STATUS : Nat := 0x4
/-- Offset of TH_FAULT_PC_LO (PC [31:0]). -/
def R.TH_FAULT_PC_LO : Nat := 0x8
/-- Offset of TH_FAULT_PC_HI (PC [15:0]). -/
def R.TH_FAULT_PC_HI : Nat := 0xC
/-- Offset of TH_FAULT_VADDR_LO (VADDR [31:0]). -/
def R.TH_FAULT_VADDR_LO : Nat := 0x10
/-- Offset of TH_FAULT_VADDR_HI (VADDR [15:0]). -/
def R.TH_FAULT_VADDR_HI : Nat := 0x14
/-- Offset of TH_FAULT_MASK (DONE [15:8], FAULTED [7:0]). -/
def R.TH_FAULT_MASK : Nat := 0x18
/-- Offset of TH_ISSUED (COUNT [31:0]). -/
def R.TH_ISSUED : Nat := 0x20
/-- Offset of TH_VSLOTS (COUNT [31:0]). -/
def R.TH_VSLOTS : Nat := 0x24
/-- Offset of TH_DIVERGE (COUNT [31:0]). -/
def R.TH_DIVERGE : Nat := 0x28
/-- Offset of TH_DCACHE_MISS (COUNT [31:0]). -/
def R.TH_DCACHE_MISS : Nat := 0x2C
/-- Offset of TH_WAIT_PREEMPT (COUNT [31:0]). -/
def R.TH_WAIT_PREEMPT : Nat := 0x40
/-- Offset of TH_WAIT_WEIR (COUNT [31:0]). -/
def R.TH_WAIT_WEIR : Nat := 0x44
/-- Offset of TH_WAIT_SYNC (COUNT [31:0]). -/
def R.TH_WAIT_SYNC : Nat := 0x48
/-- Offset of TH_WAIT_MEMORY (COUNT [31:0]). -/
def R.TH_WAIT_MEMORY : Nat := 0x4C
/-- Offset of TH_WAIT_TRANSLATION (COUNT [31:0]). -/
def R.TH_WAIT_TRANSLATION : Nat := 0x50
/-- Offset of TH_WAIT_ACT (COUNT [31:0]). -/
def R.TH_WAIT_ACT : Nat := 0x54
/-- Offset of TH_WAIT_LOCK_SPACE (COUNT [31:0]). -/
def R.TH_WAIT_LOCK_SPACE : Nat := 0x58
/-- Offset of TH_TALLY_CLEAR (CLEAR [0:0]). -/
def R.TH_TALLY_CLEAR : Nat := 0x70

/-- Registers of the block: thread core (R272), part 0. -/
def rows_th0 : List RegRow := [
  ⟨R.TH_STATUS, 1, 4, [⟨7, 4, .ro, 0⟩, ⟨3, 0, .ro, 0⟩]⟩,
  ⟨R.TH_FAULT_STATUS, 1, 4, [⟨31, 31, .w1c, 0⟩, ⟨30, 30, .w1c, 0⟩, ⟨24, 24, .ro, 0⟩, ⟨23, 16, .ro, 0⟩, ⟨8, 8, .ro, 0⟩, ⟨7, 0, .ro, 0⟩]⟩,
  ⟨R.TH_FAULT_PC_LO, 1, 4, [⟨31, 0, .ro, 0⟩]⟩,
  ⟨R.TH_FAULT_PC_HI, 1, 4, [⟨15, 0, .ro, 0⟩]⟩,
  ⟨R.TH_FAULT_VADDR_LO, 1, 4, [⟨31, 0, .ro, 0⟩]⟩,
  ⟨R.TH_FAULT_VADDR_HI, 1, 4, [⟨15, 0, .ro, 0⟩]⟩,
  ⟨R.TH_FAULT_MASK, 1, 4, [⟨15, 8, .ro, 0⟩, ⟨7, 0, .ro, 0⟩]⟩,
  ⟨R.TH_ISSUED, 1, 4, [⟨31, 0, .ro, 0⟩]⟩,
  ⟨R.TH_VSLOTS, 1, 4, [⟨31, 0, .ro, 0⟩]⟩,
  ⟨R.TH_DIVERGE, 1, 4, [⟨31, 0, .ro, 0⟩]⟩,
  ⟨R.TH_DCACHE_MISS, 1, 4, [⟨31, 0, .ro, 0⟩]⟩,
  ⟨R.TH_WAIT_PREEMPT, 1, 4, [⟨31, 0, .ro, 0⟩]⟩,
  ⟨R.TH_WAIT_WEIR, 1, 4, [⟨31, 0, .ro, 0⟩]⟩,
  ⟨R.TH_WAIT_SYNC, 1, 4, [⟨31, 0, .ro, 0⟩]⟩,
  ⟨R.TH_WAIT_MEMORY, 1, 4, [⟨31, 0, .ro, 0⟩]⟩,
  ⟨R.TH_WAIT_TRANSLATION, 1, 4, [⟨31, 0, .ro, 0⟩]⟩,
  ⟨R.TH_WAIT_ACT, 1, 4, [⟨31, 0, .ro, 0⟩]⟩,
  ⟨R.TH_WAIT_LOCK_SPACE, 1, 4, [⟨31, 0, .ro, 0⟩]⟩,
  ⟨R.TH_TALLY_CLEAR, 1, 4, [⟨0, 0, .wo, 0⟩]⟩]

/-- The block: thread core (R272). -/
def rows_th : List RegRow := rows_th0

/-- Offset of BE_STATUS (RD_OUT [18:8], ACTIVE [6:0]). -/
def R.BE_STATUS : Nat := 0x0
/-- Offset of BE_QSTAT (SPEC_DEPTH [21:16], WEIGHT_DEPTH [13:8], DEMAND_DEPTH [5:0]). -/
def R.BE_QSTAT : Nat := 0x4
/-- Offset of BE_SHARE (SPEC [11:8], WEIGHT [7:4], DEMAND [3:0]). -/
def R.BE_SHARE : Nat := 0x8
/-- Offset of BE_CTRL (SPEC_OFF [0:0]). -/
def R.BE_CTRL : Nat := 0xC
/-- Offset of BE_FAULT_STATUS (VALID [31:31], OVERFLOW [30:30], CODE [23:16], CAUSE [7:0]). -/
def R.BE_FAULT_STATUS : Nat := 0x10
/-- Offset of BE_FAULT_TAG (TAG [11:0]). -/
def R.BE_FAULT_TAG : Nat := 0x14
/-- Offset of BE_FAULT_VADDR_LO (VADDR [31:0]). -/
def R.BE_FAULT_VADDR_LO : Nat := 0x18
/-- Offset of BE_FAULT_VADDR_HI (DST [31:31], VADDR [15:0]). -/
def R.BE_FAULT_VADDR_HI : Nat := 0x1C
/-- Offset of BE_FAULT_CURSOR (CURSOR [31:0]). -/
def R.BE_FAULT_CURSOR : Nat := 0x20
/-- Offset of BE_WAIT_PREEMPT (COUNT [31:0]). -/
def R.BE_WAIT_PREEMPT : Nat := 0x100
/-- Offset of BE_WAIT_WEIR (COUNT [31:0]). -/
def R.BE_WAIT_WEIR : Nat := 0x104
/-- Offset of BE_WAIT_SYNC (COUNT [31:0]). -/
def R.BE_WAIT_SYNC : Nat := 0x108
/-- Offset of BE_WAIT_MEMORY (COUNT [31:0]). -/
def R.BE_WAIT_MEMORY : Nat := 0x10C
/-- Offset of BE_WAIT_TRANSLATION (COUNT [31:0]). -/
def R.BE_WAIT_TRANSLATION : Nat := 0x110
/-- Offset of BE_WAIT_WEIGHTS (COUNT [31:0]). -/
def R.BE_WAIT_WEIGHTS : Nat := 0x114
/-- Offset of BE_WAIT_SCALES (COUNT [31:0]). -/
def R.BE_WAIT_SCALES : Nat := 0x118
/-- Offset of BE_WAIT_ACT (COUNT [31:0]). -/
def R.BE_WAIT_ACT : Nat := 0x11C
/-- Offset of BE_WAIT_LOCK_SPACE (COUNT [31:0]). -/
def R.BE_WAIT_LOCK_SPACE : Nat := 0x120
/-- Offset of BE_PREFETCH_HALT (COUNT [31:0]). -/
def R.BE_PREFETCH_HALT : Nat := 0x140
/-- Offset of BE_RETRIES (COUNT [31:0]). -/
def R.BE_RETRIES : Nat := 0x144
/-- Offset of BE_SPARED (COUNT [31:0]). -/
def R.BE_SPARED : Nat := 0x148
/-- Offset of BE_DROPPED_RESP (COUNT [31:0]). -/
def R.BE_DROPPED_RESP : Nat := 0x14C
/-- Offset of BE_DESC_REFUSED (COUNT [31:0]). -/
def R.BE_DESC_REFUSED : Nat := 0x150
/-- Offset of BE_RD_BLOCKS (COUNT [31:0]). -/
def R.BE_RD_BLOCKS : Nat := 0x154
/-- Offset of BE_WR_BLOCKS (COUNT [31:0]). -/
def R.BE_WR_BLOCKS : Nat := 0x158
/-- Offset of BE_TALLY_CLEAR (CLEAR [0:0]). -/
def R.BE_TALLY_CLEAR : Nat := 0x15C

/-- Registers of the block: barge engine (R326), part 0. -/
def rows_be0 : List RegRow := [
  ⟨R.BE_STATUS, 1, 4, [⟨18, 8, .ro, 0⟩, ⟨6, 0, .ro, 0⟩]⟩,
  ⟨R.BE_QSTAT, 1, 4, [⟨21, 16, .ro, 0⟩, ⟨13, 8, .ro, 0⟩, ⟨5, 0, .ro, 0⟩]⟩,
  ⟨R.BE_SHARE, 1, 4, [⟨11, 8, .rw, 2⟩, ⟨7, 4, .rw, 6⟩, ⟨3, 0, .rw, 8⟩]⟩,
  ⟨R.BE_CTRL, 1, 4, [⟨0, 0, .rw, 0⟩]⟩,
  ⟨R.BE_FAULT_STATUS, 1, 4, [⟨31, 31, .w1c, 0⟩, ⟨30, 30, .w1c, 0⟩, ⟨23, 16, .ro, 0⟩, ⟨7, 0, .ro, 0⟩]⟩,
  ⟨R.BE_FAULT_TAG, 1, 4, [⟨11, 0, .ro, 0⟩]⟩,
  ⟨R.BE_FAULT_VADDR_LO, 1, 4, [⟨31, 0, .ro, 0⟩]⟩,
  ⟨R.BE_FAULT_VADDR_HI, 1, 4, [⟨31, 31, .ro, 0⟩, ⟨15, 0, .ro, 0⟩]⟩,
  ⟨R.BE_FAULT_CURSOR, 1, 4, [⟨31, 0, .ro, 0⟩]⟩,
  ⟨R.BE_WAIT_PREEMPT, 1, 4, [⟨31, 0, .ro, 0⟩]⟩,
  ⟨R.BE_WAIT_WEIR, 1, 4, [⟨31, 0, .ro, 0⟩]⟩,
  ⟨R.BE_WAIT_SYNC, 1, 4, [⟨31, 0, .ro, 0⟩]⟩,
  ⟨R.BE_WAIT_MEMORY, 1, 4, [⟨31, 0, .ro, 0⟩]⟩,
  ⟨R.BE_WAIT_TRANSLATION, 1, 4, [⟨31, 0, .ro, 0⟩]⟩,
  ⟨R.BE_WAIT_WEIGHTS, 1, 4, [⟨31, 0, .ro, 0⟩]⟩,
  ⟨R.BE_WAIT_SCALES, 1, 4, [⟨31, 0, .ro, 0⟩]⟩,
  ⟨R.BE_WAIT_ACT, 1, 4, [⟨31, 0, .ro, 0⟩]⟩,
  ⟨R.BE_WAIT_LOCK_SPACE, 1, 4, [⟨31, 0, .ro, 0⟩]⟩,
  ⟨R.BE_PREFETCH_HALT, 1, 4, [⟨31, 0, .ro, 0⟩]⟩,
  ⟨R.BE_RETRIES, 1, 4, [⟨31, 0, .ro, 0⟩]⟩]

/-- Registers of the block: barge engine (R326), part 1. -/
def rows_be1 : List RegRow := [
  ⟨R.BE_SPARED, 1, 4, [⟨31, 0, .ro, 0⟩]⟩,
  ⟨R.BE_DROPPED_RESP, 1, 4, [⟨31, 0, .ro, 0⟩]⟩,
  ⟨R.BE_DESC_REFUSED, 1, 4, [⟨31, 0, .ro, 0⟩]⟩,
  ⟨R.BE_RD_BLOCKS, 1, 4, [⟨31, 0, .ro, 0⟩]⟩,
  ⟨R.BE_WR_BLOCKS, 1, 4, [⟨31, 0, .ro, 0⟩]⟩,
  ⟨R.BE_TALLY_CLEAR, 1, 4, [⟨0, 0, .wo, 0⟩]⟩]

/-- The block: barge engine (R326). -/
def rows_be : List RegRow := rows_be0 ++ rows_be1

/-- Offset of CS_POOL_CFG (BASE [25:3], BLOCK [2:0]). -/
def R.CS_POOL_CFG : Nat := 0x0
/-- Offset of CS_POOL_BLOCKS (COUNT [13:0]). -/
def R.CS_POOL_BLOCKS : Nat := 0x4
/-- Offset of CS_POOL_STATE (RESERVED [29:16], FREE [13:0]). -/
def R.CS_POOL_STATE : Nat := 0x8

/-- Registers of the block: lock pool (R328), part 0. -/
def rows_lk0 : List RegRow := [
  ⟨R.CS_POOL_CFG, 1, 4, [⟨25, 3, .rw, 0⟩, ⟨2, 0, .rw, 2⟩]⟩,
  ⟨R.CS_POOL_BLOCKS, 1, 4, [⟨13, 0, .rw, 0⟩]⟩,
  ⟨R.CS_POOL_STATE, 1, 4, [⟨29, 16, .ro, 0⟩, ⟨13, 0, .ro, 0⟩]⟩]

/-- The block: lock pool (R328). -/
def rows_lk : List RegRow := rows_lk0

/-- Offset of LK_CFG (CFG_ERR [5:5], CONS [4:2], KIND [1:1], EN [0:0]). -/
def R.LK_CFG : Nat := 0x0
/-- Offset of LK_VBASE_LO (VBASE [31:0]). -/
def R.LK_VBASE_LO : Nat := 0x4
/-- Offset of LK_VBASE_HI (VBASE [15:0]). -/
def R.LK_VBASE_HI : Nat := 0x8
/-- Offset of LK_SIZE (BLOCK_64 [19:0]). -/
def R.LK_SIZE : Nat := 0xC
/-- Offset of LK_LIMITS (FLOOR [31:16], SLOTS [15:0]). -/
def R.LK_LIMITS : Nat := 0x10
/-- Offset of LK_STATE (FILLED [31:16], HELD [15:0]). -/
def R.LK_STATE : Nat := 0x14
/-- Offset of LK_WAIT (DRAIN [23:16], CONS_WAIT [15:8], PROD_WAIT [0:0]). -/
def R.LK_WAIT : Nat := 0x18
/-- Offset of LK_CTRL (REARM [7:0]). -/
def R.LK_CTRL : Nat := 0x1C

/-- Registers of the block: one lock (R328), part 0. -/
def rows_lock0 : List RegRow := [
  ⟨R.LK_CFG, 1, 4, [⟨5, 5, .w1c, 0⟩, ⟨4, 2, .rw, 0⟩, ⟨1, 1, .rw, 1⟩, ⟨0, 0, .rw, 0⟩]⟩,
  ⟨R.LK_VBASE_LO, 1, 4, [⟨31, 0, .rw, 0⟩]⟩,
  ⟨R.LK_VBASE_HI, 1, 4, [⟨15, 0, .rw, 0⟩]⟩,
  ⟨R.LK_SIZE, 1, 4, [⟨19, 0, .rw, 0⟩]⟩,
  ⟨R.LK_LIMITS, 1, 4, [⟨31, 16, .rw, 1⟩, ⟨15, 0, .rw, 0⟩]⟩,
  ⟨R.LK_STATE, 1, 4, [⟨31, 16, .ro, 0⟩, ⟨15, 0, .ro, 0⟩]⟩,
  ⟨R.LK_WAIT, 1, 4, [⟨23, 16, .ro, 0⟩, ⟨15, 8, .ro, 0⟩, ⟨0, 0, .ro, 0⟩]⟩,
  ⟨R.LK_CTRL, 1, 4, [⟨7, 0, .wo, 0⟩]⟩]

/-- The block: one lock (R328). -/
def rows_lock : List RegRow := rows_lock0

/-- Offset of AOC_WAITDET_CTRL (PERIOD [29:16], EN [0:0]). -/
def R.AOC_WAITDET_CTRL : Nat := 0x400
/-- Offset of AOC_WAITDET_ABORTS (COUNT [31:0]). -/
def R.AOC_WAITDET_ABORTS : Nat := 0x404
/-- Offset of AOC_WAITDET_LAST (HANDLE [31:16], PRIO [14:12], QUEUE [11:0]). -/
def R.AOC_WAITDET_LAST : Nat := 0x408
/-- Offset of AOC_WAITDET_LAST_LOC (DIE [19:16], CLUSTER [7:0]). -/
def R.AOC_WAITDET_LAST_LOC : Nat := 0x40C
/-- Offset of AOC_PART_ID (). -/
def R.AOC_PART_ID : Nat := 0x0
/-- Offset of ARITH_CONTRACT_ID (CONTRACT_MAX [31:24], CONTRACT_MIN [23:16], SF_TABLE_SET [15:8]). -/
def R.ARITH_CONTRACT_ID : Nat := 0x4

/-- Registers of the block: AOC identification and wait detector (R2, R72, R330), part 0. -/
def rows_aoc0 : List RegRow := [
  ⟨R.AOC_WAITDET_CTRL, 1, 4, [⟨29, 16, .rw, 100⟩, ⟨0, 0, .rw, 1⟩]⟩,
  ⟨R.AOC_WAITDET_ABORTS, 1, 4, [⟨31, 0, .ro, 0⟩]⟩,
  ⟨R.AOC_WAITDET_LAST, 1, 4, [⟨31, 16, .ro, 0⟩, ⟨14, 12, .ro, 0⟩, ⟨11, 0, .ro, 0⟩]⟩,
  ⟨R.AOC_WAITDET_LAST_LOC, 1, 4, [⟨19, 16, .ro, 0⟩, ⟨7, 0, .ro, 0⟩]⟩,
  ⟨R.AOC_PART_ID, 1, 4, [⟨31, 16, .ro, 55712⟩, ⟨15, 8, .ro, 1⟩, ⟨7, 4, .ro, 4⟩]⟩,
  ⟨R.ARITH_CONTRACT_ID, 1, 4, [⟨31, 24, .ro, 1⟩, ⟨23, 16, .ro, 1⟩, ⟨15, 8, .ro, 1⟩]⟩]

/-- The block: AOC identification and wait detector (R2, R72, R330). -/
def rows_aoc : List RegRow := rows_aoc0

/-- Offset of MEM_SPAN_MODE (ERR [6:6], DRAINED [5:5], CLOSED [4:4], MODE [1:0]). -/
def R.MEM_SPAN_MODE : Nat := 0x0

/-- Registers of the block: memory spans (R354), part 0. -/
def rows_span0 : List RegRow := [
  ⟨R.MEM_SPAN_MODE, 48, 4, [⟨6, 6, .w1c, 0⟩, ⟨5, 5, .ro, 0⟩, ⟨4, 4, .rw, 0⟩, ⟨1, 0, .rw, 0⟩]⟩]

/-- The block: memory spans (R354). -/
def rows_span : List RegRow := rows_span0

/-- Offset of DMMU_ROOT_LO (ROOT [31:12], ERR [1:1], EN [0:0]). -/
def R.DMMU_ROOT_LO : Nat := 0x0
/-- Offset of DMMU_ROOT_HI (ROOT [13:0]). -/
def R.DMMU_ROOT_HI : Nat := 0x4
/-- Offset of DMMU_INV_ADDR_LO (VA [31:16]). -/
def R.DMMU_INV_ADDR_LO : Nat := 0x8
/-- Offset of DMMU_INV_ADDR_HI (VA [15:0]). -/
def R.DMMU_INV_ADDR_HI : Nat := 0xC
/-- Offset of DMMU_INV_PAGES (COUNT [31:0]). -/
def R.DMMU_INV_PAGES : Nat := 0x10
/-- Offset of DMMU_INV_CTRL (BUSY [31:31], DONE [30:30], ERR [29:29], GO [0:0]). -/
def R.DMMU_INV_CTRL : Nat := 0x14

/-- Registers of the block: page-table root and invalidation (R354), part 0. -/
def rows_dmmu0 : List RegRow := [
  ⟨R.DMMU_ROOT_LO, 1, 4, [⟨31, 12, .rw, 0⟩, ⟨1, 1, .w1c, 0⟩, ⟨0, 0, .rw, 0⟩]⟩,
  ⟨R.DMMU_ROOT_HI, 1, 4, [⟨13, 0, .rw, 0⟩]⟩,
  ⟨R.DMMU_INV_ADDR_LO, 1, 4, [⟨31, 16, .rw, 0⟩]⟩,
  ⟨R.DMMU_INV_ADDR_HI, 1, 4, [⟨15, 0, .rw, 0⟩]⟩,
  ⟨R.DMMU_INV_PAGES, 1, 4, [⟨31, 0, .rw, 0⟩]⟩,
  ⟨R.DMMU_INV_CTRL, 1, 4, [⟨31, 31, .ro, 0⟩, ⟨30, 30, .w1c, 0⟩, ⟨29, 29, .w1c, 0⟩, ⟨0, 0, .wo, 0⟩]⟩]

/-- The block: page-table root and invalidation (R354). -/
def rows_dmmu : List RegRow := rows_dmmu0

/-- Offset of DMMU_FQ_STATUS (BACKLOG [31:16], DEPTH [6:0]). -/
def R.DMMU_FQ_STATUS : Nat := 0x0
/-- Offset of DMMU_FAULT_ADDR_LO (VA [31:0]). -/
def R.DMMU_FAULT_ADDR_LO : Nat := 0x4
/-- Offset of DMMU_FAULT_ADDR_HI (LEVEL [27:26], CAUSE [25:24], ACCESS [21:20], VA [15:0]). -/
def R.DMMU_FAULT_ADDR_HI : Nat := 0x8
/-- Offset of DMMU_FAULT_UNIT (FLOCK [23:23], INDEX [22:16], KIND [15:8], CLUSTER [7:0]). -/
def R.DMMU_FAULT_UNIT : Nat := 0xC
/-- Offset of DMMU_FAULT_TAG (WITHDRAWN [24:24], QUEUE [23:12], TAG [11:0]). -/
def R.DMMU_FAULT_TAG : Nat := 0x10
/-- Offset of DMMU_FAULT_ACTION (ACTION [1:0]). -/
def R.DMMU_FAULT_ACTION : Nat := 0x14
/-- Offset of DMMU_WALKS (COUNT [31:0]). -/
def R.DMMU_WALKS : Nat := 0x100
/-- Offset of DMMU_DIE_HITS (COUNT [31:0]). -/
def R.DMMU_DIE_HITS : Nat := 0x104
/-- Offset of DMMU_FAULTS (COUNT [31:0]). -/
def R.DMMU_FAULTS : Nat := 0x108
/-- Offset of DMMU_WALK_CYCLES (COUNT [31:0]). -/
def R.DMMU_WALK_CYCLES : Nat := 0x10C
/-- Offset of DMMU_TALLY_CLEAR (CLEAR [0:0]). -/
def R.DMMU_TALLY_CLEAR : Nat := 0x110

/-- Registers of the block: die fault queue (R355), part 0. -/
def rows_fq0 : List RegRow := [
  ⟨R.DMMU_FQ_STATUS, 1, 4, [⟨31, 16, .ro, 0⟩, ⟨6, 0, .ro, 0⟩]⟩,
  ⟨R.DMMU_FAULT_ADDR_LO, 1, 4, [⟨31, 0, .ro, 0⟩]⟩,
  ⟨R.DMMU_FAULT_ADDR_HI, 1, 4, [⟨27, 26, .ro, 0⟩, ⟨25, 24, .ro, 0⟩, ⟨21, 20, .ro, 0⟩, ⟨15, 0, .ro, 0⟩]⟩,
  ⟨R.DMMU_FAULT_UNIT, 1, 4, [⟨23, 23, .ro, 0⟩, ⟨22, 16, .ro, 0⟩, ⟨15, 8, .ro, 0⟩, ⟨7, 0, .ro, 0⟩]⟩,
  ⟨R.DMMU_FAULT_TAG, 1, 4, [⟨24, 24, .ro, 0⟩, ⟨23, 12, .ro, 0⟩, ⟨11, 0, .ro, 0⟩]⟩,
  ⟨R.DMMU_FAULT_ACTION, 1, 4, [⟨1, 0, .wo, 0⟩]⟩,
  ⟨R.DMMU_WALKS, 1, 4, [⟨31, 0, .ro, 0⟩]⟩,
  ⟨R.DMMU_DIE_HITS, 1, 4, [⟨31, 0, .ro, 0⟩]⟩,
  ⟨R.DMMU_FAULTS, 1, 4, [⟨31, 0, .ro, 0⟩]⟩,
  ⟨R.DMMU_WALK_CYCLES, 1, 4, [⟨31, 0, .ro, 0⟩]⟩,
  ⟨R.DMMU_TALLY_CLEAR, 1, 4, [⟨0, 0, .wo, 0⟩]⟩]

/-- The block: die fault queue (R355). -/
def rows_fq : List RegRow := rows_fq0

/-- Offset of STK_STATUS (SPARES_OUT [12:12], THERM_ALERT [11:11], REFRESH [9:8], TEMP [7:0]). -/
def R.STK_STATUS : Nat := 0x0
/-- Offset of STK_SCRUB_CTRL (ROW_CE_LIMIT [12:9], EN [8:8], PERIOD [7:0]). -/
def R.STK_SCRUB_CTRL : Nat := 0x4
/-- Offset of STK_SPARE_FREE (BANK_MIN [9:5]). -/
def R.STK_SPARE_FREE : Nat := 0x8
/-- Offset of STK_LIST_FREE (COUNT [9:0]). -/
def R.STK_LIST_FREE : Nat := 0xC
/-- Offset of STK_ECC_CE (COUNT [31:0]). -/
def R.STK_ECC_CE : Nat := 0x100
/-- Offset of STK_ECC_UE (COUNT [31:0]). -/
def R.STK_ECC_UE : Nat := 0x104
/-- Offset of STK_SPARED_ROWS (COUNT [31:0]). -/
def R.STK_SPARED_ROWS : Nat := 0x108
/-- Offset of STK_LINK_RESEND (COUNT [31:0]). -/
def R.STK_LINK_RESEND : Nat := 0x10C
/-- Offset of STK_ZC_BLOCKS (COUNT [31:0]). -/
def R.STK_ZC_BLOCKS : Nat := 0x110
/-- Offset of STK_ZC_ZERO (COUNT [31:0]). -/
def R.STK_ZC_ZERO : Nat := 0x114
/-- Offset of STK_ZC_SAVED (COUNT [31:0]). -/
def R.STK_ZC_SAVED : Nat := 0x118
/-- Offset of STK_TALLY_CLEAR (CLEAR [0:0]). -/
def R.STK_TALLY_CLEAR : Nat := 0x11C

/-- Registers of the block: stack logic die (R356), part 0. -/
def rows_stk0 : List RegRow := [
  ⟨R.STK_STATUS, 1, 4, [⟨12, 12, .ro, 0⟩, ⟨11, 11, .ro, 0⟩, ⟨9, 8, .ro, 0⟩, ⟨7, 0, .ro, 0⟩]⟩,
  ⟨R.STK_SCRUB_CTRL, 1, 4, [⟨12, 9, .rw, 4⟩, ⟨8, 8, .rw, 1⟩, ⟨7, 0, .rw, 24⟩]⟩,
  ⟨R.STK_SPARE_FREE, 1, 4, [⟨9, 5, .ro, 0⟩]⟩,
  ⟨R.STK_LIST_FREE, 1, 4, [⟨9, 0, .ro, 0⟩]⟩,
  ⟨R.STK_ECC_CE, 1, 4, [⟨31, 0, .ro, 0⟩]⟩,
  ⟨R.STK_ECC_UE, 1, 4, [⟨31, 0, .ro, 0⟩]⟩,
  ⟨R.STK_SPARED_ROWS, 1, 4, [⟨31, 0, .ro, 0⟩]⟩,
  ⟨R.STK_LINK_RESEND, 1, 4, [⟨31, 0, .ro, 0⟩]⟩,
  ⟨R.STK_ZC_BLOCKS, 1, 4, [⟨31, 0, .ro, 0⟩]⟩,
  ⟨R.STK_ZC_ZERO, 1, 4, [⟨31, 0, .ro, 0⟩]⟩,
  ⟨R.STK_ZC_SAVED, 1, 4, [⟨31, 0, .ro, 0⟩]⟩,
  ⟨R.STK_TALLY_CLEAR, 1, 4, [⟨0, 0, .wo, 0⟩]⟩]

/-- The block: stack logic die (R356). -/
def rows_stk : List RegRow := rows_stk0

/-- Offset of CS_ECC_CE (COUNT [31:0]). -/
def R.CS_ECC_CE : Nat := 0x0
/-- Offset of CS_ECC_UE (COUNT [31:0]). -/
def R.CS_ECC_UE : Nat := 0x4
/-- Offset of CS_ECC_LAST (VALID [31:31], BANK [16:12], LINE [11:0]). -/
def R.CS_ECC_LAST : Nat := 0x8
/-- Offset of CS_TALLY_CLEAR (CLEAR [0:0]). -/
def R.CS_TALLY_CLEAR : Nat := 0xC

/-- Registers of the block: cluster-store errors (R357), part 0. -/
def rows_cs0 : List RegRow := [
  ⟨R.CS_ECC_CE, 1, 4, [⟨31, 0, .ro, 0⟩]⟩,
  ⟨R.CS_ECC_UE, 1, 4, [⟨31, 0, .ro, 0⟩]⟩,
  ⟨R.CS_ECC_LAST, 1, 4, [⟨31, 31, .w1c, 0⟩, ⟨16, 12, .ro, 0⟩, ⟨11, 0, .ro, 0⟩]⟩,
  ⟨R.CS_TALLY_CLEAR, 1, 4, [⟨0, 0, .wo, 0⟩]⟩]

/-- The block: cluster-store errors (R357). -/
def rows_cs : List RegRow := rows_cs0

/-- Offset of BV_STATUS (STREAMS [20:16], ACTIVE [10:8], STOPPED [3:3], GROUP_MEMBER [2:2], RING_ERR [1:1], BUSY [0:0]). -/
def R.BV_STATUS : Nat := 0x0
/-- Offset of BV_RING_CFG (EN [31:31], SIZE [3:0]). -/
def R.BV_RING_CFG : Nat := 0x4
/-- Offset of BV_RING_BASE_LO (VA [31:12]). -/
def R.BV_RING_BASE_LO : Nat := 0x8
/-- Offset of BV_RING_BASE_HI (VA [15:0]). -/
def R.BV_RING_BASE_HI : Nat := 0xC
/-- Offset of BV_JOB_PROD (COUNT [31:0]). -/
def R.BV_JOB_PROD : Nat := 0x10
/-- Offset of BV_JOB_CONS (COUNT [31:0]). -/
def R.BV_JOB_CONS : Nat := 0x14
/-- Offset of BV_CRING_BASE_LO (VA [31:12]). -/
def R.BV_CRING_BASE_LO : Nat := 0x18
/-- Offset of BV_CRING_BASE_HI (VA [15:0]). -/
def R.BV_CRING_BASE_HI : Nat := 0x1C
/-- Offset of BV_CRING_CFG (SIZE [3:0]). -/
def R.BV_CRING_CFG : Nat := 0x20
/-- Offset of BV_CPL_PROD (COUNT [31:0]). -/
def R.BV_CPL_PROD : Nat := 0x24
/-- Offset of BV_CPL_CONS (COUNT [31:0]). -/
def R.BV_CPL_CONS : Nat := 0x28
/-- Offset of BV_CTRL (PREEMPT [0:0]). -/
def R.BV_CTRL : Nat := 0x2C
/-- Offset of BV_KEY_REQ (GO [31:31], STREAM [3:0]). -/
def R.BV_KEY_REQ : Nat := 0x30
/-- Offset of BV_KEY_LAST (FRAME [31:0]). -/
def R.BV_KEY_LAST : Nat := 0x34
/-- Offset of BV_FAULT_STATUS (VALID [31:31], OVERFLOW [30:30], CODE [23:16], STREAM [11:8], CAUSE [7:0]). -/
def R.BV_FAULT_STATUS : Nat := 0x40
/-- Offset of BV_FAULT_JOB (JOB_ID [31:0]). -/
def R.BV_FAULT_JOB : Nat := 0x44
/-- Offset of BV_FAULT_VADDR_LO (VADDR [31:0]). -/
def R.BV_FAULT_VADDR_LO : Nat := 0x48
/-- Offset of BV_FAULT_VADDR_HI (VADDR [15:0]). -/
def R.BV_FAULT_VADDR_HI : Nat := 0x4C
/-- Offset of BV_WAIT_PREEMPT (COUNT [31:0]). -/
def R.BV_WAIT_PREEMPT : Nat := 0x100
/-- Offset of BV_WAIT_WEIR (COUNT [31:0]). -/
def R.BV_WAIT_WEIR : Nat := 0x104
/-- Offset of BV_WAIT_SYNC (COUNT [31:0]). -/
def R.BV_WAIT_SYNC : Nat := 0x108
/-- Offset of BV_WAIT_MEMORY (COUNT [31:0]). -/
def R.BV_WAIT_MEMORY : Nat := 0x10C
/-- Offset of BV_WAIT_TRANSLATION (COUNT [31:0]). -/
def R.BV_WAIT_TRANSLATION : Nat := 0x110
/-- Offset of BV_WAIT_WEIGHTS (COUNT [31:0]). -/
def R.BV_WAIT_WEIGHTS : Nat := 0x114
/-- Offset of BV_WAIT_SCALES (COUNT [31:0]). -/
def R.BV_WAIT_SCALES : Nat := 0x118
/-- Offset of BV_WAIT_ACT (COUNT [31:0]). -/
def R.BV_WAIT_ACT : Nat := 0x11C
/-- Offset of BV_WAIT_LOCK_SPACE (COUNT [31:0]). -/
def R.BV_WAIT_LOCK_SPACE : Nat := 0x120
/-- Offset of BV_PICS_ENC (COUNT [31:0]). -/
def R.BV_PICS_ENC : Nat := 0x140
/-- Offset of BV_PICS_DEC (COUNT [31:0]). -/
def R.BV_PICS_DEC : Nat := 0x144
/-- Offset of BV_MISSING_REF (COUNT [31:0]). -/
def R.BV_MISSING_REF : Nat := 0x148
/-- Offset of BV_DAMAGED_PICS (COUNT [31:0]). -/
def R.BV_DAMAGED_PICS : Nat := 0x14C
/-- Offset of BV_CONCEALED_BANDS (COUNT [31:0]). -/
def R.BV_CONCEALED_BANDS : Nat := 0x150
/-- Offset of BV_WATCHDOG (COUNT [31:0]). -/
def R.BV_WATCHDOG : Nat := 0x154
/-- Offset of BV_CAP_OVERRUN (COUNT [31:0]). -/
def R.BV_CAP_OVERRUN : Nat := 0x158
/-- Offset of BV_SPLICE_KEYS (COUNT [31:0]). -/
def R.BV_SPLICE_KEYS : Nat := 0x15C
/-- Offset of BV_REFRESH_CYCLES (COUNT [31:0]). -/
def R.BV_REFRESH_CYCLES : Nat := 0x160
/-- Offset of BV_DESC_REFUSED (COUNT [31:0]). -/
def R.BV_DESC_REFUSED : Nat := 0x164
/-- Offset of BV_TALLY_CLEAR (CLEAR [0:0]). -/
def R.BV_TALLY_CLEAR : Nat := 0x168

/-- Registers of the block: block-video pipeline (R395), part 0. -/
def rows_bv0 : List RegRow := [
  ⟨R.BV_STATUS, 1, 4, [⟨20, 16, .ro, 0⟩, ⟨10, 8, .ro, 0⟩, ⟨3, 3, .ro, 0⟩, ⟨2, 2, .ro, 0⟩, ⟨1, 1, .w1c, 0⟩, ⟨0, 0, .ro, 0⟩]⟩,
  ⟨R.BV_RING_CFG, 1, 4, [⟨31, 31, .rw, 0⟩, ⟨3, 0, .rw, 0⟩]⟩,
  ⟨R.BV_RING_BASE_LO, 1, 4, [⟨31, 12, .rw, 0⟩]⟩,
  ⟨R.BV_RING_BASE_HI, 1, 4, [⟨15, 0, .rw, 0⟩]⟩,
  ⟨R.BV_JOB_PROD, 1, 4, [⟨31, 0, .rw, 0⟩]⟩,
  ⟨R.BV_JOB_CONS, 1, 4, [⟨31, 0, .ro, 0⟩]⟩,
  ⟨R.BV_CRING_BASE_LO, 1, 4, [⟨31, 12, .rw, 0⟩]⟩,
  ⟨R.BV_CRING_BASE_HI, 1, 4, [⟨15, 0, .rw, 0⟩]⟩,
  ⟨R.BV_CRING_CFG, 1, 4, [⟨3, 0, .rw, 0⟩]⟩,
  ⟨R.BV_CPL_PROD, 1, 4, [⟨31, 0, .ro, 0⟩]⟩,
  ⟨R.BV_CPL_CONS, 1, 4, [⟨31, 0, .rw, 0⟩]⟩,
  ⟨R.BV_CTRL, 1, 4, [⟨0, 0, .rw, 0⟩]⟩,
  ⟨R.BV_KEY_REQ, 1, 4, [⟨31, 31, .wo, 0⟩, ⟨3, 0, .wo, 0⟩]⟩,
  ⟨R.BV_KEY_LAST, 1, 4, [⟨31, 0, .ro, 0⟩]⟩,
  ⟨R.BV_FAULT_STATUS, 1, 4, [⟨31, 31, .w1c, 0⟩, ⟨30, 30, .w1c, 0⟩, ⟨23, 16, .ro, 0⟩, ⟨11, 8, .ro, 0⟩, ⟨7, 0, .ro, 0⟩]⟩,
  ⟨R.BV_FAULT_JOB, 1, 4, [⟨31, 0, .ro, 0⟩]⟩,
  ⟨R.BV_FAULT_VADDR_LO, 1, 4, [⟨31, 0, .ro, 0⟩]⟩,
  ⟨R.BV_FAULT_VADDR_HI, 1, 4, [⟨15, 0, .ro, 0⟩]⟩,
  ⟨R.BV_WAIT_PREEMPT, 1, 4, [⟨31, 0, .ro, 0⟩]⟩,
  ⟨R.BV_WAIT_WEIR, 1, 4, [⟨31, 0, .ro, 0⟩]⟩]

/-- Registers of the block: block-video pipeline (R395), part 1. -/
def rows_bv1 : List RegRow := [
  ⟨R.BV_WAIT_SYNC, 1, 4, [⟨31, 0, .ro, 0⟩]⟩,
  ⟨R.BV_WAIT_MEMORY, 1, 4, [⟨31, 0, .ro, 0⟩]⟩,
  ⟨R.BV_WAIT_TRANSLATION, 1, 4, [⟨31, 0, .ro, 0⟩]⟩,
  ⟨R.BV_WAIT_WEIGHTS, 1, 4, [⟨31, 0, .ro, 0⟩]⟩,
  ⟨R.BV_WAIT_SCALES, 1, 4, [⟨31, 0, .ro, 0⟩]⟩,
  ⟨R.BV_WAIT_ACT, 1, 4, [⟨31, 0, .ro, 0⟩]⟩,
  ⟨R.BV_WAIT_LOCK_SPACE, 1, 4, [⟨31, 0, .ro, 0⟩]⟩,
  ⟨R.BV_PICS_ENC, 1, 4, [⟨31, 0, .ro, 0⟩]⟩,
  ⟨R.BV_PICS_DEC, 1, 4, [⟨31, 0, .ro, 0⟩]⟩,
  ⟨R.BV_MISSING_REF, 1, 4, [⟨31, 0, .ro, 0⟩]⟩,
  ⟨R.BV_DAMAGED_PICS, 1, 4, [⟨31, 0, .ro, 0⟩]⟩,
  ⟨R.BV_CONCEALED_BANDS, 1, 4, [⟨31, 0, .ro, 0⟩]⟩,
  ⟨R.BV_WATCHDOG, 1, 4, [⟨31, 0, .ro, 0⟩]⟩,
  ⟨R.BV_CAP_OVERRUN, 1, 4, [⟨31, 0, .ro, 0⟩]⟩,
  ⟨R.BV_SPLICE_KEYS, 1, 4, [⟨31, 0, .ro, 0⟩]⟩,
  ⟨R.BV_REFRESH_CYCLES, 1, 4, [⟨31, 0, .ro, 0⟩]⟩,
  ⟨R.BV_DESC_REFUSED, 1, 4, [⟨31, 0, .ro, 0⟩]⟩,
  ⟨R.BV_TALLY_CLEAR, 1, 4, [⟨0, 0, .wo, 0⟩]⟩]

/-- The block: block-video pipeline (R395). -/
def rows_bv : List RegRow := rows_bv0 ++ rows_bv1

/-- Offset of BV_GROUP_CTRL (ERR [31:31], UPPER [3:2], LOWER [1:0]). -/
def R.BV_GROUP_CTRL : Nat := 0x0

/-- Registers of the block: block-video groups (R396), part 0. -/
def rows_bvg0 : List RegRow := [
  ⟨R.BV_GROUP_CTRL, 1, 4, [⟨31, 31, .w1c, 0⟩, ⟨3, 2, .rw, 0⟩, ⟨1, 0, .rw, 0⟩]⟩]

/-- The block: block-video groups (R396). -/
def rows_bvg : List RegRow := rows_bvg0

/-- Offset of SL_STATUS (STOPPED [3:3], PARKED [2:2], RING_ERR [1:1], BUSY [0:0]). -/
def R.SL_STATUS : Nat := 0x0
/-- Offset of SL_RING_CFG (EN [31:31], SIZE [3:0]). -/
def R.SL_RING_CFG : Nat := 0x4
/-- Offset of SL_RING_BASE_LO (VA [31:12]). -/
def R.SL_RING_BASE_LO : Nat := 0x8
/-- Offset of SL_RING_BASE_HI (VA [15:0]). -/
def R.SL_RING_BASE_HI : Nat := 0xC
/-- Offset of SL_JOB_PROD (COUNT [31:0]). -/
def R.SL_JOB_PROD : Nat := 0x10
/-- Offset of SL_JOB_CONS (COUNT [31:0]). -/
def R.SL_JOB_CONS : Nat := 0x14
/-- Offset of SL_CRING_BASE_LO (VA [31:12]). -/
def R.SL_CRING_BASE_LO : Nat := 0x18
/-- Offset of SL_CRING_BASE_HI (VA [15:0]). -/
def R.SL_CRING_BASE_HI : Nat := 0x1C
/-- Offset of SL_CRING_CFG (SIZE [3:0]). -/
def R.SL_CRING_CFG : Nat := 0x20
/-- Offset of SL_CPL_PROD (COUNT [31:0]). -/
def R.SL_CPL_PROD : Nat := 0x24
/-- Offset of SL_CPL_CONS (COUNT [31:0]). -/
def R.SL_CPL_CONS : Nat := 0x28
/-- Offset of SL_CTRL (CANCEL [1:1], PREEMPT [0:0]). -/
def R.SL_CTRL : Nat := 0x2C
/-- Offset of SL_SAVE_LO (VA [31:16]). -/
def R.SL_SAVE_LO : Nat := 0x30
/-- Offset of SL_SAVE_HI (VA [15:0]). -/
def R.SL_SAVE_HI : Nat := 0x34
/-- Offset of SL_FAULT_STATUS (VALID [31:31], OVERFLOW [30:30], CODE [23:16], CAUSE [7:0]). -/
def R.SL_FAULT_STATUS : Nat := 0x40
/-- Offset of SL_FAULT_JOB (JOB_ID [31:0]). -/
def R.SL_FAULT_JOB : Nat := 0x44
/-- Offset of SL_FAULT_VADDR_LO (VADDR [31:0]). -/
def R.SL_FAULT_VADDR_LO : Nat := 0x48
/-- Offset of SL_FAULT_VADDR_HI (VADDR [15:0]). -/
def R.SL_FAULT_VADDR_HI : Nat := 0x4C
/-- Offset of SL_WAIT_PREEMPT (COUNT [31:0]). -/
def R.SL_WAIT_PREEMPT : Nat := 0x100
/-- Offset of SL_WAIT_WEIR (COUNT [31:0]). -/
def R.SL_WAIT_WEIR : Nat := 0x104
/-- Offset of SL_WAIT_SYNC (COUNT [31:0]). -/
def R.SL_WAIT_SYNC : Nat := 0x108
/-- Offset of SL_WAIT_MEMORY (COUNT [31:0]). -/
def R.SL_WAIT_MEMORY : Nat := 0x10C
/-- Offset of SL_WAIT_TRANSLATION (COUNT [31:0]). -/
def R.SL_WAIT_TRANSLATION : Nat := 0x110
/-- Offset of SL_WAIT_WEIGHTS (COUNT [31:0]). -/
def R.SL_WAIT_WEIGHTS : Nat := 0x114
/-- Offset of SL_WAIT_SCALES (COUNT [31:0]). -/
def R.SL_WAIT_SCALES : Nat := 0x118
/-- Offset of SL_WAIT_ACT (COUNT [31:0]). -/
def R.SL_WAIT_ACT : Nat := 0x11C
/-- Offset of SL_WAIT_LOCK_SPACE (COUNT [31:0]). -/
def R.SL_WAIT_LOCK_SPACE : Nat := 0x120
/-- Offset of SL_JOBS (COUNT [31:0]). -/
def R.SL_JOBS : Nat := 0x140
/-- Offset of SL_IN_64K (COUNT [31:0]). -/
def R.SL_IN_64K : Nat := 0x144
/-- Offset of SL_OUT_64K (COUNT [31:0]). -/
def R.SL_OUT_64K : Nat := 0x148
/-- Offset of SL_STORED_BLOCKS (COUNT [31:0]). -/
def R.SL_STORED_BLOCKS : Nat := 0x14C
/-- Offset of SL_CHECK_FAIL (COUNT [31:0]). -/
def R.SL_CHECK_FAIL : Nat := 0x150
/-- Offset of SL_EXP_LIMIT (COUNT [31:0]). -/
def R.SL_EXP_LIMIT : Nat := 0x154
/-- Offset of SL_OUT_OF_SPACE (COUNT [31:0]). -/
def R.SL_OUT_OF_SPACE : Nat := 0x158
/-- Offset of SL_DESC_REFUSED (COUNT [31:0]). -/
def R.SL_DESC_REFUSED : Nat := 0x15C
/-- Offset of SL_TALLY_CLEAR (CLEAR [0:0]). -/
def R.SL_TALLY_CLEAR : Nat := 0x160

/-- Registers of the block: sluice engine (R413), part 0. -/
def rows_sl0 : List RegRow := [
  ⟨R.SL_STATUS, 1, 4, [⟨3, 3, .ro, 0⟩, ⟨2, 2, .ro, 0⟩, ⟨1, 1, .w1c, 0⟩, ⟨0, 0, .ro, 0⟩]⟩,
  ⟨R.SL_RING_CFG, 1, 4, [⟨31, 31, .rw, 0⟩, ⟨3, 0, .rw, 0⟩]⟩,
  ⟨R.SL_RING_BASE_LO, 1, 4, [⟨31, 12, .rw, 0⟩]⟩,
  ⟨R.SL_RING_BASE_HI, 1, 4, [⟨15, 0, .rw, 0⟩]⟩,
  ⟨R.SL_JOB_PROD, 1, 4, [⟨31, 0, .rw, 0⟩]⟩,
  ⟨R.SL_JOB_CONS, 1, 4, [⟨31, 0, .ro, 0⟩]⟩,
  ⟨R.SL_CRING_BASE_LO, 1, 4, [⟨31, 12, .rw, 0⟩]⟩,
  ⟨R.SL_CRING_BASE_HI, 1, 4, [⟨15, 0, .rw, 0⟩]⟩,
  ⟨R.SL_CRING_CFG, 1, 4, [⟨3, 0, .rw, 0⟩]⟩,
  ⟨R.SL_CPL_PROD, 1, 4, [⟨31, 0, .ro, 0⟩]⟩,
  ⟨R.SL_CPL_CONS, 1, 4, [⟨31, 0, .rw, 0⟩]⟩,
  ⟨R.SL_CTRL, 1, 4, [⟨1, 1, .wo, 0⟩, ⟨0, 0, .rw, 0⟩]⟩,
  ⟨R.SL_SAVE_LO, 1, 4, [⟨31, 16, .rw, 0⟩]⟩,
  ⟨R.SL_SAVE_HI, 1, 4, [⟨15, 0, .rw, 0⟩]⟩,
  ⟨R.SL_FAULT_STATUS, 1, 4, [⟨31, 31, .w1c, 0⟩, ⟨30, 30, .w1c, 0⟩, ⟨23, 16, .ro, 0⟩, ⟨7, 0, .ro, 0⟩]⟩,
  ⟨R.SL_FAULT_JOB, 1, 4, [⟨31, 0, .ro, 0⟩]⟩,
  ⟨R.SL_FAULT_VADDR_LO, 1, 4, [⟨31, 0, .ro, 0⟩]⟩,
  ⟨R.SL_FAULT_VADDR_HI, 1, 4, [⟨15, 0, .ro, 0⟩]⟩,
  ⟨R.SL_WAIT_PREEMPT, 1, 4, [⟨31, 0, .ro, 0⟩]⟩,
  ⟨R.SL_WAIT_WEIR, 1, 4, [⟨31, 0, .ro, 0⟩]⟩]

/-- Registers of the block: sluice engine (R413), part 1. -/
def rows_sl1 : List RegRow := [
  ⟨R.SL_WAIT_SYNC, 1, 4, [⟨31, 0, .ro, 0⟩]⟩,
  ⟨R.SL_WAIT_MEMORY, 1, 4, [⟨31, 0, .ro, 0⟩]⟩,
  ⟨R.SL_WAIT_TRANSLATION, 1, 4, [⟨31, 0, .ro, 0⟩]⟩,
  ⟨R.SL_WAIT_WEIGHTS, 1, 4, [⟨31, 0, .ro, 0⟩]⟩,
  ⟨R.SL_WAIT_SCALES, 1, 4, [⟨31, 0, .ro, 0⟩]⟩,
  ⟨R.SL_WAIT_ACT, 1, 4, [⟨31, 0, .ro, 0⟩]⟩,
  ⟨R.SL_WAIT_LOCK_SPACE, 1, 4, [⟨31, 0, .ro, 0⟩]⟩,
  ⟨R.SL_JOBS, 1, 4, [⟨31, 0, .ro, 0⟩]⟩,
  ⟨R.SL_IN_64K, 1, 4, [⟨31, 0, .ro, 0⟩]⟩,
  ⟨R.SL_OUT_64K, 1, 4, [⟨31, 0, .ro, 0⟩]⟩,
  ⟨R.SL_STORED_BLOCKS, 1, 4, [⟨31, 0, .ro, 0⟩]⟩,
  ⟨R.SL_CHECK_FAIL, 1, 4, [⟨31, 0, .ro, 0⟩]⟩,
  ⟨R.SL_EXP_LIMIT, 1, 4, [⟨31, 0, .ro, 0⟩]⟩,
  ⟨R.SL_OUT_OF_SPACE, 1, 4, [⟨31, 0, .ro, 0⟩]⟩,
  ⟨R.SL_DESC_REFUSED, 1, 4, [⟨31, 0, .ro, 0⟩]⟩,
  ⟨R.SL_TALLY_CLEAR, 1, 4, [⟨0, 0, .wo, 0⟩]⟩]

/-- The block: sluice engine (R413). -/
def rows_sl : List RegRow := rows_sl0 ++ rows_sl1

/-- Offset of LNK_PORT_CTRL (EN [11:8], MODE [6:4], CFG_ERR [3:3], MACSEC [2:1]). -/
def R.LNK_PORT_CTRL : Nat := 0x0
/-- Offset of LNK_PORT_STATUS (PN_ALERT [11:8], FEC_LOCK [7:4], LINK_UP [3:0]). -/
def R.LNK_PORT_STATUS : Nat := 0x4
/-- Offset of LNK_PTP_ASYM (ASYM [31:0]). -/
def R.LNK_PTP_ASYM : Nat := 0x8
/-- Offset of RX_FRAMES (COUNT [31:0]). -/
def R.RX_FRAMES : Nat := 0x100
/-- Offset of TX_FRAMES (COUNT [31:0]). -/
def R.TX_FRAMES : Nat := 0x104
/-- Offset of RX_FCS_ERR (COUNT [31:0]). -/
def R.RX_FCS_ERR : Nat := 0x108
/-- Offset of RX_FEC_CORR (COUNT [31:0]). -/
def R.RX_FEC_CORR : Nat := 0x10C
/-- Offset of RX_FEC_UNCORR (COUNT [31:0]). -/
def R.RX_FEC_UNCORR : Nat := 0x110
/-- Offset of RX_OVERSIZE (COUNT [31:0]). -/
def R.RX_OVERSIZE : Nat := 0x114
/-- Offset of RX_OVERRATE (COUNT [31:0]). -/
def R.RX_OVERRATE : Nat := 0x118
/-- Offset of RX_UNMATCHED (COUNT [31:0]). -/
def R.RX_UNMATCHED : Nat := 0x11C
/-- Offset of RX_EXCEPTION_DROP (COUNT [31:0]). -/
def R.RX_EXCEPTION_DROP : Nat := 0x120
/-- Offset of MACSEC_DROP (COUNT [31:0]). -/
def R.MACSEC_DROP : Nat := 0x124
/-- Offset of TX_PN_DROP (COUNT [31:0]). -/
def R.TX_PN_DROP : Nat := 0x128
/-- Offset of LNK_TALLY_CLEAR (CLEAR [0:0]). -/
def R.LNK_TALLY_CLEAR : Nat := 0x12C
/-- Offset of LNK_FI_TX (LOCKED [31:31], DEPTH [12:8], SUB [7:6], POINT [5:5], ACT [2:1], EN [0:0]). -/
def R.LNK_FI_TX : Nat := 0x200
/-- Offset of LNK_FI_RX (LOCKED [31:31], DEPTH [12:8], SUB [7:6], POINT [5:5], ACT [2:1], EN [0:0]). -/
def R.LNK_FI_RX : Nat := 0x210
/-- Offset of LNK_FI_TX_N (N_M1 [31:0]). -/
def R.LNK_FI_TX_N : Nat := 0x204
/-- Offset of LNK_FI_RX_N (N_M1 [31:0]). -/
def R.LNK_FI_RX_N : Nat := 0x214
/-- Offset of LNK_FI_TX_SEED (SEED [31:0]). -/
def R.LNK_FI_TX_SEED : Nat := 0x208
/-- Offset of LNK_FI_RX_SEED (SEED [31:0]). -/
def R.LNK_FI_RX_SEED : Nat := 0x218
/-- Offset of LNK_FI_TX_HITS (COUNT [31:0]). -/
def R.LNK_FI_TX_HITS : Nat := 0x20C
/-- Offset of LNK_FI_RX_HITS (COUNT [31:0]). -/
def R.LNK_FI_RX_HITS : Nat := 0x21C

/-- Registers of the block: Ethernet port (R455), part 0. -/
def rows_lnk0 : List RegRow := [
  ⟨R.LNK_PORT_CTRL, 1, 4, [⟨11, 8, .rw, 0⟩, ⟨6, 4, .rw, 0⟩, ⟨3, 3, .w1c, 0⟩, ⟨2, 1, .rw, 0⟩]⟩,
  ⟨R.LNK_PORT_STATUS, 1, 4, [⟨11, 8, .w1c, 0⟩, ⟨7, 4, .ro, 0⟩, ⟨3, 0, .ro, 0⟩]⟩,
  ⟨R.LNK_PTP_ASYM, 1, 4, [⟨31, 0, .rw, 0⟩]⟩,
  ⟨R.RX_FRAMES, 1, 4, [⟨31, 0, .ro, 0⟩]⟩,
  ⟨R.TX_FRAMES, 1, 4, [⟨31, 0, .ro, 0⟩]⟩,
  ⟨R.RX_FCS_ERR, 1, 4, [⟨31, 0, .ro, 0⟩]⟩,
  ⟨R.RX_FEC_CORR, 1, 4, [⟨31, 0, .ro, 0⟩]⟩,
  ⟨R.RX_FEC_UNCORR, 1, 4, [⟨31, 0, .ro, 0⟩]⟩,
  ⟨R.RX_OVERSIZE, 1, 4, [⟨31, 0, .ro, 0⟩]⟩,
  ⟨R.RX_OVERRATE, 1, 4, [⟨31, 0, .ro, 0⟩]⟩,
  ⟨R.RX_UNMATCHED, 1, 4, [⟨31, 0, .ro, 0⟩]⟩,
  ⟨R.RX_EXCEPTION_DROP, 1, 4, [⟨31, 0, .ro, 0⟩]⟩,
  ⟨R.MACSEC_DROP, 1, 4, [⟨31, 0, .ro, 0⟩]⟩,
  ⟨R.TX_PN_DROP, 1, 4, [⟨31, 0, .ro, 0⟩]⟩,
  ⟨R.LNK_TALLY_CLEAR, 1, 4, [⟨0, 0, .wo, 0⟩]⟩,
  ⟨R.LNK_FI_TX, 1, 4, [⟨31, 31, .ro, 1⟩, ⟨12, 8, .rw, 1⟩, ⟨7, 6, .rw, 0⟩, ⟨5, 5, .rw, 0⟩, ⟨2, 1, .rw, 0⟩, ⟨0, 0, .rw, 0⟩]⟩,
  ⟨R.LNK_FI_RX, 1, 4, [⟨31, 31, .ro, 1⟩, ⟨12, 8, .rw, 1⟩, ⟨7, 6, .rw, 0⟩, ⟨5, 5, .rw, 0⟩, ⟨2, 1, .rw, 0⟩, ⟨0, 0, .rw, 0⟩]⟩,
  ⟨R.LNK_FI_TX_N, 1, 4, [⟨31, 0, .rw, 4294967295⟩]⟩,
  ⟨R.LNK_FI_RX_N, 1, 4, [⟨31, 0, .rw, 4294967295⟩]⟩,
  ⟨R.LNK_FI_TX_SEED, 1, 4, [⟨31, 0, .rw, 0⟩]⟩]

/-- Registers of the block: Ethernet port (R455), part 1. -/
def rows_lnk1 : List RegRow := [
  ⟨R.LNK_FI_RX_SEED, 1, 4, [⟨31, 0, .rw, 0⟩]⟩,
  ⟨R.LNK_FI_TX_HITS, 1, 4, [⟨31, 0, .ro, 0⟩]⟩,
  ⟨R.LNK_FI_RX_HITS, 1, 4, [⟨31, 0, .ro, 0⟩]⟩]

/-- The block: Ethernet port (R455). -/
def rows_lnk : List RegRow := rows_lnk0 ++ rows_lnk1

/-- Offset of CLS_CTRL (OP [1:0]). -/
def R.CLS_CTRL : Nat := 0x0
/-- Offset of CLS_STATUS (EPOCH [31:16], ERR [4:4], BAD [3:3], FLIP_PENDING [2:2], INACTIVE_BUSY [1:1], BUSY [0:0]). -/
def R.CLS_STATUS : Nat := 0x4
/-- Offset of CLS_USERS (USERS1, USERS0 [31:16], USERS1, USERS0 [15:0]). -/
def R.CLS_USERS : Nat := 0x8
/-- Offset of CLS_LOAD_FIRST (FIRST [15:0]). -/
def R.CLS_LOAD_FIRST : Nat := 0xC
/-- Offset of CLS_LOAD_COUNT (COUNT [16:0]). -/
def R.CLS_LOAD_COUNT : Nat := 0x10
/-- Offset of CLS_LOAD_SRC_LO (DPA [31:6]). -/
def R.CLS_LOAD_SRC_LO : Nat := 0x14
/-- Offset of CLS_LOAD_SRC_HI (DPA [13:0]). -/
def R.CLS_LOAD_SRC_HI : Nat := 0x18
/-- Offset of CLS_BAD (BAD_COUNT, BAD_FIRST [31:16], BAD_COUNT, BAD_FIRST [15:0]). -/
def R.CLS_BAD : Nat := 0x1C
/-- Offset of TIME_NOW_LO (NS [31:0]). -/
def R.TIME_NOW_LO : Nat := 0x100
/-- Offset of TIME_NOW_HI (NS [31:0]). -/
def R.TIME_NOW_HI : Nat := 0x104
/-- Offset of PTP_CTRL (LOCK_NS [23:16], EN [8:8], DOMAIN [7:0]). -/
def R.PTP_CTRL : Nat := 0x108
/-- Offset of PTP_PORTS (B_EN, SUB_B, PORT_B [15:15], B_EN, SUB_B, PORT_B [14:13], B_EN, SUB_B, PORT_B [12:8], A_EN, SUB_A, PORT_A [7:7], A_EN, SUB_A, PORT_A [6:5], A_EN, SUB_A, PORT_A [4:0]). -/
def R.PTP_PORTS : Nat := 0x10C
/-- Offset of PTP_STATUS (STEPPED [4:4], MASTER_B [3:3], STATE [2:0]). -/
def R.PTP_STATUS : Nat := 0x110
/-- Offset of PTP_OFFSET (NS [31:0]). -/
def R.PTP_OFFSET : Nat := 0x114
/-- Offset of PTP_HOLDOVER (HOLDOVER_S [31:0]). -/
def R.PTP_HOLDOVER : Nat := 0x118
/-- Offset of GROUP_STATUS (MEMBERS_UP [31:16], INDEX [7:4], ROLE [1:0]). -/
def R.GROUP_STATUS : Nat := 0x200
/-- Offset of BENTIN_BAD (COUNT [31:0]). -/
def R.BENTIN_BAD : Nat := 0x204
/-- Offset of BENTIN_EVENT_DROP (COUNT [31:0]). -/
def R.BENTIN_EVENT_DROP : Nat := 0x208

/-- Registers of the block: classifier, time and group (R456), part 0. -/
def rows_ld00 : List RegRow := [
  ⟨R.CLS_CTRL, 1, 4, [⟨1, 0, .wo, 0⟩]⟩,
  ⟨R.CLS_STATUS, 1, 4, [⟨31, 16, .ro, 0⟩, ⟨4, 4, .w1c, 0⟩, ⟨3, 3, .w1c, 0⟩, ⟨2, 2, .ro, 0⟩, ⟨1, 1, .ro, 0⟩, ⟨0, 0, .ro, 0⟩]⟩,
  ⟨R.CLS_USERS, 1, 4, [⟨31, 16, .ro, 0⟩, ⟨15, 0, .ro, 0⟩]⟩,
  ⟨R.CLS_LOAD_FIRST, 1, 4, [⟨15, 0, .rw, 0⟩]⟩,
  ⟨R.CLS_LOAD_COUNT, 1, 4, [⟨16, 0, .rw, 0⟩]⟩,
  ⟨R.CLS_LOAD_SRC_LO, 1, 4, [⟨31, 6, .rw, 0⟩]⟩,
  ⟨R.CLS_LOAD_SRC_HI, 1, 4, [⟨13, 0, .rw, 0⟩]⟩,
  ⟨R.CLS_BAD, 1, 4, [⟨31, 16, .ro, 0⟩, ⟨15, 0, .ro, 0⟩]⟩,
  ⟨R.TIME_NOW_LO, 1, 4, [⟨31, 0, .ro, 0⟩]⟩,
  ⟨R.TIME_NOW_HI, 1, 4, [⟨31, 0, .ro, 0⟩]⟩,
  ⟨R.PTP_CTRL, 1, 4, [⟨23, 16, .rw, 100⟩, ⟨8, 8, .rw, 0⟩, ⟨7, 0, .rw, 127⟩]⟩,
  ⟨R.PTP_PORTS, 1, 4, [⟨15, 15, .rw, 0⟩, ⟨14, 13, .rw, 0⟩, ⟨12, 8, .rw, 0⟩, ⟨7, 7, .rw, 0⟩, ⟨6, 5, .rw, 0⟩, ⟨4, 0, .rw, 0⟩]⟩,
  ⟨R.PTP_STATUS, 1, 4, [⟨4, 4, .w1c, 0⟩, ⟨3, 3, .ro, 0⟩, ⟨2, 0, .ro, 0⟩]⟩,
  ⟨R.PTP_OFFSET, 1, 4, [⟨31, 0, .ro, 0⟩]⟩,
  ⟨R.PTP_HOLDOVER, 1, 4, [⟨31, 0, .rw, 3600⟩]⟩,
  ⟨R.GROUP_STATUS, 1, 4, [⟨31, 16, .ro, 0⟩, ⟨7, 4, .ro, 0⟩, ⟨1, 0, .ro, 0⟩]⟩,
  ⟨R.BENTIN_BAD, 1, 4, [⟨31, 0, .ro, 0⟩]⟩,
  ⟨R.BENTIN_EVENT_DROP, 1, 4, [⟨31, 0, .ro, 0⟩]⟩]

/-- The block: classifier, time and group (R456). -/
def rows_ld0 : List RegRow := rows_ld00

/-- Offset of DRV_STATUS (RUNNING [24:16], TAGS_FREE [8:0]). -/
def R.DRV_STATUS : Nat := 0x0
/-- Offset of DRV_CTRL (IDLE_HOLD_US [31:16], AUTO_SLEEP [0:0]). -/
def R.DRV_CTRL : Nat := 0x4
/-- Offset of DRV_CANCEL (GO [31:31], CTAG [11:0]). -/
def R.DRV_CANCEL : Nat := 0x8
/-- Offset of DRV_PIN (PIN [31:0]). -/
def R.DRV_PIN : Nat := 0x10
/-- Offset of DRV_DISPATCHED (COUNT [31:0]). -/
def R.DRV_DISPATCHED : Nat := 0x100
/-- Offset of DRV_PREEMPTIONS (COUNT [31:0]). -/
def R.DRV_PREEMPTIONS : Nat := 0x104
/-- Offset of DRV_RESUMES (COUNT [31:0]). -/
def R.DRV_RESUMES : Nat := 0x108
/-- Offset of DRV_WAKES (COUNT [31:0]). -/
def R.DRV_WAKES : Nat := 0x10C
/-- Offset of DRV_REFUSED (COUNT [31:0]). -/
def R.DRV_REFUSED : Nat := 0x110
/-- Offset of DRV_TRIG_OVERFLOW (COUNT [31:0]). -/
def R.DRV_TRIG_OVERFLOW : Nat := 0x114
/-- Offset of DRV_TAG_WAIT (COUNT [31:0]). -/
def R.DRV_TAG_WAIT : Nat := 0x118
/-- Offset of DRV_TALLY_CLEAR (CLEAR [0:0]). -/
def R.DRV_TALLY_CLEAR : Nat := 0x11C

/-- Registers of the block: drover (R485), part 0. -/
def rows_drv0 : List RegRow := [
  ⟨R.DRV_STATUS, 1, 4, [⟨24, 16, .ro, 0⟩, ⟨8, 0, .ro, 256⟩]⟩,
  ⟨R.DRV_CTRL, 1, 4, [⟨31, 16, .rw, 1000⟩, ⟨0, 0, .rw, 1⟩]⟩,
  ⟨R.DRV_CANCEL, 1, 4, [⟨31, 31, .wo, 0⟩, ⟨11, 0, .wo, 0⟩]⟩,
  ⟨R.DRV_PIN, 5, 4, [⟨31, 0, .rw, 0⟩]⟩,
  ⟨R.DRV_DISPATCHED, 1, 4, [⟨31, 0, .ro, 0⟩]⟩,
  ⟨R.DRV_PREEMPTIONS, 1, 4, [⟨31, 0, .ro, 0⟩]⟩,
  ⟨R.DRV_RESUMES, 1, 4, [⟨31, 0, .ro, 0⟩]⟩,
  ⟨R.DRV_WAKES, 1, 4, [⟨31, 0, .ro, 0⟩]⟩,
  ⟨R.DRV_REFUSED, 1, 4, [⟨31, 0, .ro, 0⟩]⟩,
  ⟨R.DRV_TRIG_OVERFLOW, 1, 4, [⟨31, 0, .ro, 0⟩]⟩,
  ⟨R.DRV_TAG_WAIT, 1, 4, [⟨31, 0, .ro, 0⟩]⟩,
  ⟨R.DRV_TALLY_CLEAR, 1, 4, [⟨0, 0, .wo, 0⟩]⟩]

/-- The block: drover (R485). -/
def rows_drv : List RegRow := rows_drv0

/-- Offset of Q_CFG (CFG_ERR [31:31], NOTIFY [24:24], SESSION [23:16], INFLIGHT [11:8], PRIO [6:4], PREEMPT_EN [3:3], REPLAYABLE [2:2], FAST [1:1], EN [0:0]). -/
def R.Q_CFG : Nat := 0x0
/-- Offset of Q_RING_LO (DPA [31:12]). -/
def R.Q_RING_LO : Nat := 0x4
/-- Offset of Q_RING_HI (DPA [13:0]). -/
def R.Q_RING_HI : Nat := 0x8
/-- Offset of Q_RING_SIZE (CPL_SIZE, SIZE [7:4], CPL_SIZE, SIZE [3:0]). -/
def R.Q_RING_SIZE : Nat := 0xC
/-- Offset of Q_CRING_LO (DPA [31:12]). -/
def R.Q_CRING_LO : Nat := 0x10
/-- Offset of Q_CRING_HI (DPA [13:0]). -/
def R.Q_CRING_HI : Nat := 0x14
/-- Offset of Q_PROD (COUNT [31:0]). -/
def R.Q_PROD : Nat := 0x18
/-- Offset of Q_CONS (COUNT [31:0]). -/
def R.Q_CONS : Nat := 0x1C
/-- Offset of Q_CPL_PROD (COUNT [31:0]). -/
def R.Q_CPL_PROD : Nat := 0x20
/-- Offset of Q_CPL_CONS (COUNT [31:0]). -/
def R.Q_CPL_CONS : Nat := 0x24
/-- Offset of Q_STATE (RING_ERR [31:31], TRIG_PENDING [23:16], IN_FLIGHT [12:8], STATE [2:0]). -/
def R.Q_STATE : Nat := 0x28
/-- Offset of Q_CTRL (CANCEL, RESUME, PREEMPT [2:0]). -/
def R.Q_CTRL : Nat := 0x2C
/-- Offset of Q_TRIG (EN [16:16], HANDLE [15:0]). -/
def R.Q_TRIG : Nat := 0x30

/-- Registers of the block: one queue (R485), part 0. -/
def rows_q0 : List RegRow := [
  ⟨R.Q_CFG, 1, 4, [⟨31, 31, .w1c, 0⟩, ⟨24, 24, .rw, 0⟩, ⟨23, 16, .rw, 0⟩, ⟨11, 8, .rw, 0⟩, ⟨6, 4, .rw, 0⟩, ⟨3, 3, .rw, 0⟩, ⟨2, 2, .rw, 0⟩, ⟨1, 1, .rw, 0⟩, ⟨0, 0, .rw, 0⟩]⟩,
  ⟨R.Q_RING_LO, 1, 4, [⟨31, 12, .rw, 0⟩]⟩,
  ⟨R.Q_RING_HI, 1, 4, [⟨13, 0, .rw, 0⟩]⟩,
  ⟨R.Q_RING_SIZE, 1, 4, [⟨7, 4, .rw, 0⟩, ⟨3, 0, .rw, 0⟩]⟩,
  ⟨R.Q_CRING_LO, 1, 4, [⟨31, 12, .rw, 0⟩]⟩,
  ⟨R.Q_CRING_HI, 1, 4, [⟨13, 0, .rw, 0⟩]⟩,
  ⟨R.Q_PROD, 1, 4, [⟨31, 0, .rw, 0⟩]⟩,
  ⟨R.Q_CONS, 1, 4, [⟨31, 0, .ro, 0⟩]⟩,
  ⟨R.Q_CPL_PROD, 1, 4, [⟨31, 0, .ro, 0⟩]⟩,
  ⟨R.Q_CPL_CONS, 1, 4, [⟨31, 0, .rw, 0⟩]⟩,
  ⟨R.Q_STATE, 1, 4, [⟨31, 31, .w1c, 0⟩, ⟨23, 16, .ro, 0⟩, ⟨12, 8, .ro, 0⟩, ⟨2, 0, .ro, 0⟩]⟩,
  ⟨R.Q_CTRL, 1, 4, [⟨2, 0, .wo, 0⟩]⟩,
  ⟨R.Q_TRIG, 1, 4, [⟨16, 16, .rw, 0⟩, ⟨15, 0, .rw, 0⟩]⟩]

/-- The block: one queue (R485). -/
def rows_q : List RegRow := rows_q0

/-- Offset of MB_SEND_WIN (PAYLOAD [31:0]). -/
def R.MB_SEND_WIN : Nat := 0x0
/-- Offset of MB_DATA (DATA [31:0]). -/
def R.MB_DATA : Nat := 0x40
/-- Offset of MB_SENDER (ID [31:0]). -/
def R.MB_SENDER : Nat := 0x50
/-- Offset of MB_STATUS (SEQ [31:16], COLLISION [1:1], FULL [0:0]). -/
def R.MB_STATUS : Nat := 0x54
/-- Offset of MB_ACK (ACK [0:0]). -/
def R.MB_ACK : Nat := 0x58
/-- Offset of MB_CFG (TIMEOUT_US [31:12], KIND [1:0]). -/
def R.MB_CFG : Nat := 0x5C
/-- Offset of MB_TARGET (DIE, UNIT [11:8], DIE, UNIT [7:0]). -/
def R.MB_TARGET : Nat := 0x60
/-- Offset of MB_DOORBELL_OFF (OFF [22:2]). -/
def R.MB_DOORBELL_OFF : Nat := 0x64
/-- Offset of MB_OUTCOME (SEQ [31:16], RECV_DOWN, COLLISION [5:5], RECV_DOWN, COLLISION [4:4], RESULT [3:0]). -/
def R.MB_OUTCOME : Nat := 0x68
/-- Offset of MB_OUTCOME_ID (ID [31:0]). -/
def R.MB_OUTCOME_ID : Nat := 0x6C

/-- Registers of the block: one mailbox (R486), part 0. -/
def rows_mb0 : List RegRow := [
  ⟨R.MB_SEND_WIN, 16, 4, [⟨31, 0, .wo, 0⟩]⟩,
  ⟨R.MB_DATA, 4, 4, [⟨31, 0, .ro, 0⟩]⟩,
  ⟨R.MB_SENDER, 1, 4, [⟨31, 0, .ro, 0⟩]⟩,
  ⟨R.MB_STATUS, 1, 4, [⟨31, 16, .ro, 0⟩, ⟨1, 1, .w1c, 0⟩, ⟨0, 0, .ro, 0⟩]⟩,
  ⟨R.MB_ACK, 1, 4, [⟨0, 0, .wo, 0⟩]⟩,
  ⟨R.MB_CFG, 1, 4, [⟨31, 12, .rw, 100⟩, ⟨1, 0, .rw, 0⟩]⟩,
  ⟨R.MB_TARGET, 1, 4, [⟨11, 8, .rw, 0⟩, ⟨7, 0, .rw, 0⟩]⟩,
  ⟨R.MB_DOORBELL_OFF, 1, 4, [⟨22, 2, .rw, 0⟩]⟩,
  ⟨R.MB_OUTCOME, 1, 4, [⟨31, 16, .ro, 0⟩, ⟨5, 5, .ro, 0⟩, ⟨4, 4, .ro, 0⟩, ⟨3, 0, .ro, 0⟩]⟩,
  ⟨R.MB_OUTCOME_ID, 1, 4, [⟨31, 0, .ro, 0⟩]⟩]

/-- The block: one mailbox (R486). -/
def rows_mb : List RegRow := rows_mb0

/-- Offset of RES_CLAIM (BUSY, RECLAIMED [31:31], BUSY, RECLAIMED [30:30], REFUSED [23:16], RELEASE [8:8], OWNER [7:0]). -/
def R.RES_CLAIM : Nat := 0x0

/-- Registers of the block: resource claims (R486), part 0. -/
def rows_res0 : List RegRow := [
  ⟨R.RES_CLAIM, 5, 4, [⟨31, 31, .w1c, 0⟩, ⟨30, 30, .w1c, 0⟩, ⟨23, 16, .ro, 0⟩, ⟨8, 8, .wo, 0⟩, ⟨7, 0, .rw, 0⟩]⟩]

/-- The block: resource claims (R486). -/
def rows_res : List RegRow := rows_res0

/-- Offset of PWR_STATUS (LAST_EMERG [23:16], UV_WARN [3:3], CLAMP_ENGAGED [2:2], INPUT_OK [1:1], PEN [0:0]). -/
def R.PWR_STATUS : Nat := 0x0
/-- Offset of PWR_ENV (REFUSED [31:31], SETTLED [30:30], MAX [11:8], ACTIVE [7:4], REQ [3:0]). -/
def R.PWR_ENV : Nat := 0x4
/-- Offset of PWR_VIN (V [15:0]). -/
def R.PWR_VIN : Nat := 0x8
/-- Offset of PWR_IIN (I [15:0]). -/
def R.PWR_IIN : Nat := 0xC
/-- Offset of PWR_P1MS (P [15:0]). -/
def R.PWR_P1MS : Nat := 0x10
/-- Offset of PWR_PPEAK (P [15:0]). -/
def R.PWR_PPEAK : Nat := 0x14
/-- Offset of WEIR_CFG (SLEW [5:0]). -/
def R.WEIR_CFG : Nat := 0x20
/-- Offset of WEIR_QUEUE (FALL_DEPTH, RISE_DEPTH [31:16], FALL_DEPTH, RISE_DEPTH [15:0]). -/
def R.WEIR_QUEUE : Nat := 0x24
/-- Offset of WEIR_LEDGER (UNITS [31:0]). -/
def R.WEIR_LEDGER : Nat := 0x28
/-- Offset of WEIR_GRANTS (COUNT [31:0]). -/
def R.WEIR_GRANTS : Nat := 0x2C
/-- Offset of WEIR_HELD_SLOTS (COUNT [31:0]). -/
def R.WEIR_HELD_SLOTS : Nat := 0x30
/-- Offset of WEIR_TALLY_CLEAR (CLEAR [0:0]). -/
def R.WEIR_TALLY_CLEAR : Nat := 0x34
/-- Offset of CLAMP_STATUS (EVENTS [31:16], AVAIL [12:0]). -/
def R.CLAMP_STATUS : Nat := 0x40
/-- Offset of PWR_CTRL (PEN [0:0]). -/
def R.PWR_CTRL : Nat := 0x44
/-- Offset of THERM_CFG (TJ_THROTTLE [7:0]). -/
def R.THERM_CFG : Nat := 0x48
/-- Offset of CLK_STATUS (PLL_LOCK [31:16], AO_INTERNAL [2:2], REF156_OK [1:1], REF25_OK [0:0]). -/
def R.CLK_STATUS : Nat := 0x50
/-- Offset of PWR_DOM (REFUSED [8:8], STATE [5:4], REQ [1:0]). -/
def R.PWR_DOM : Nat := 0x100
/-- Offset of PWR_CL_ON (ON [31:0]). -/
def R.PWR_CL_ON : Nat := 0x300
/-- Offset of PWR_DIE (TEMP [23:16], TH_THERM [11:8], TH_ENV [7:4], HOT [0:0]). -/
def R.PWR_DIE : Nat := 0x480
/-- Offset of PWR_LD (TEMP [7:0]). -/
def R.PWR_LD : Nat := 0x4C0

/-- Registers of the block: power (R513, R514), part 0. -/
def rows_pwr0 : List RegRow := [
  ⟨R.PWR_STATUS, 1, 4, [⟨23, 16, .ro, 0⟩, ⟨3, 3, .ro, 0⟩, ⟨2, 2, .ro, 0⟩, ⟨1, 1, .ro, 0⟩, ⟨0, 0, .ro, 0⟩]⟩,
  ⟨R.PWR_ENV, 1, 4, [⟨31, 31, .w1c, 0⟩, ⟨30, 30, .ro, 0⟩, ⟨11, 8, .ro, 0⟩, ⟨7, 4, .ro, 1⟩, ⟨3, 0, .rw, 1⟩]⟩,
  ⟨R.PWR_VIN, 1, 4, [⟨15, 0, .ro, 0⟩]⟩,
  ⟨R.PWR_IIN, 1, 4, [⟨15, 0, .ro, 0⟩]⟩,
  ⟨R.PWR_P1MS, 1, 4, [⟨15, 0, .ro, 0⟩]⟩,
  ⟨R.PWR_PPEAK, 1, 4, [⟨15, 0, .rc, 0⟩]⟩,
  ⟨R.WEIR_CFG, 1, 4, [⟨5, 0, .rw, 35⟩]⟩,
  ⟨R.WEIR_QUEUE, 1, 4, [⟨31, 16, .ro, 0⟩, ⟨15, 0, .ro, 0⟩]⟩,
  ⟨R.WEIR_LEDGER, 1, 4, [⟨31, 0, .ro, 0⟩]⟩,
  ⟨R.WEIR_GRANTS, 1, 4, [⟨31, 0, .ro, 0⟩]⟩,
  ⟨R.WEIR_HELD_SLOTS, 1, 4, [⟨31, 0, .ro, 0⟩]⟩,
  ⟨R.WEIR_TALLY_CLEAR, 1, 4, [⟨0, 0, .wo, 0⟩]⟩,
  ⟨R.CLAMP_STATUS, 1, 4, [⟨31, 16, .ro, 0⟩, ⟨12, 0, .ro, 6000⟩]⟩,
  ⟨R.PWR_CTRL, 1, 4, [⟨0, 0, .wo, 0⟩]⟩,
  ⟨R.THERM_CFG, 1, 4, [⟨7, 0, .rw, 95⟩]⟩,
  ⟨R.CLK_STATUS, 1, 4, [⟨31, 16, .ro, 0⟩, ⟨2, 2, .ro, 0⟩, ⟨1, 1, .ro, 0⟩, ⟨0, 0, .ro, 0⟩]⟩,
  ⟨R.PWR_DOM, 105, 4, [⟨8, 8, .w1c, 0⟩, ⟨5, 4, .ro, 0⟩, ⟨1, 0, .rw, 0⟩]⟩,
  ⟨R.PWR_CL_ON, 96, 4, [⟨31, 0, .ro, 0⟩]⟩,
  ⟨R.PWR_DIE, 16, 4, [⟨23, 16, .ro, 0⟩, ⟨11, 8, .ro, 0⟩, ⟨7, 4, .ro, 0⟩, ⟨0, 0, .ro, 0⟩]⟩,
  ⟨R.PWR_LD, 4, 4, [⟨7, 0, .ro, 0⟩]⟩]

/-- The block: power (R513, R514). -/
def rows_pwr : List RegRow := rows_pwr0

/-- Offset of BOOT_STATUS (READY [31:31], PEN [30:30], RECOVERY [29:29], PEN_REASON [15:8], PHASE [3:0]). -/
def R.BOOT_STATUS : Nat := 0x0
/-- Offset of BOOT_FAILS (OVERFLOW [31:31], COUNT [6:0]). -/
def R.BOOT_FAILS : Nat := 0x4
/-- Offset of AOC_STATUS (TAKEOVER [2:2], STANDBY_OK [1:1], ACTIVE [0:0]). -/
def R.AOC_STATUS : Nat := 0x8
/-- Offset of SEC_STATUS (KEYS_ERASED [3:3], LATCHED [2:2], OWNER [1:1], DEBUG [0:0]). -/
def R.SEC_STATUS : Nat := 0xC
/-- Offset of TAMPER_STATUS (RAW [12:8], EVENT [4:0]). -/
def R.TAMPER_STATUS : Nat := 0x10
/-- Offset of TAMPER_CLASS (CLASS [9:0]). -/
def R.TAMPER_CLASS : Nat := 0x14
/-- Offset of TAMPER_EVENTS (COUNT [31:0]). -/
def R.TAMPER_EVENTS : Nat := 0x18
/-- Offset of BOOT_CTRL (KEY [31:0]). -/
def R.BOOT_CTRL : Nat := 0x1C
/-- Offset of CNT (VALUE [31:0]). -/
def R.CNT : Nat := 0x40
/-- Offset of BOOT_FAIL (KIND [31:28], DIE [27:24], UNIT [23:16], LOGICAL [15:8], TEST [7:0]). -/
def R.BOOT_FAIL : Nat := 0x100

/-- Registers of the block: start-up and security (R540), part 0. -/
def rows_boot0 : List RegRow := [
  ⟨R.BOOT_STATUS, 1, 4, [⟨31, 31, .ro, 0⟩, ⟨30, 30, .ro, 0⟩, ⟨29, 29, .ro, 0⟩, ⟨15, 8, .ro, 0⟩, ⟨3, 0, .ro, 1⟩]⟩,
  ⟨R.BOOT_FAILS, 1, 4, [⟨31, 31, .ro, 0⟩, ⟨6, 0, .ro, 0⟩]⟩,
  ⟨R.AOC_STATUS, 1, 4, [⟨2, 2, .ro, 0⟩, ⟨1, 1, .ro, 0⟩, ⟨0, 0, .ro, 0⟩]⟩,
  ⟨R.SEC_STATUS, 1, 4, [⟨3, 3, .ro, 0⟩, ⟨2, 2, .ro, 0⟩, ⟨1, 1, .ro, 0⟩, ⟨0, 0, .ro, 0⟩]⟩,
  ⟨R.TAMPER_STATUS, 1, 4, [⟨12, 8, .ro, 0⟩, ⟨4, 0, .w1c, 0⟩]⟩,
  ⟨R.TAMPER_CLASS, 1, 4, [⟨9, 0, .ro, 0⟩]⟩,
  ⟨R.TAMPER_EVENTS, 1, 4, [⟨31, 0, .ro, 0⟩]⟩,
  ⟨R.BOOT_CTRL, 1, 4, [⟨31, 0, .wo, 0⟩]⟩,
  ⟨R.CNT, 8, 4, [⟨31, 0, .ro, 0⟩]⟩,
  ⟨R.BOOT_FAIL, 64, 4, [⟨31, 28, .ro, 0⟩, ⟨27, 24, .ro, 0⟩, ⟨23, 16, .ro, 0⟩, ⟨15, 8, .ro, 0⟩, ⟨7, 0, .ro, 0⟩]⟩]

/-- The block: start-up and security (R540). -/
def rows_boot : List RegRow := rows_boot0

/-- Offset of RCV_CFG (WATCHDOG_MS [31:24], EVENT_MIN [18:16], REPLAY_MAX [3:0]). -/
def R.RCV_CFG : Nat := 0x0
/-- Offset of RCV_STAGE_LO (DPA [31:12]). -/
def R.RCV_STAGE_LO : Nat := 0x4
/-- Offset of RCV_STAGE_HI (DPA [13:0]). -/
def R.RCV_STAGE_HI : Nat := 0x8
/-- Offset of RCV_STORE_MAP_LO (DPA [31:12]). -/
def R.RCV_STORE_MAP_LO : Nat := 0xC
/-- Offset of RCV_STORE_MAP_HI (DPA [13:0]). -/
def R.RCV_STORE_MAP_HI : Nat := 0x10
/-- Offset of RCV_REPLAYS (COUNT [31:0]). -/
def R.RCV_REPLAYS : Nat := 0x14
/-- Offset of RCV_TRANSIENT (COUNT [31:0]). -/
def R.RCV_TRANSIENT : Nat := 0x18
/-- Offset of RCV_SPARED (COUNT [31:0]). -/
def R.RCV_SPARED : Nat := 0x1C
/-- Offset of RCV_FAILED (COUNT [31:0]). -/
def R.RCV_FAILED : Nat := 0x20
/-- Offset of LOG_STATUS (NEXT [31:0]). -/
def R.LOG_STATUS : Nat := 0x24
/-- Offset of LOG_LOST (COUNT [31:0]). -/
def R.LOG_LOST : Nat := 0x28
/-- Offset of DUMP_STATUS (VALID [31:31], FLAGS [9:8], CAUSE [7:0]). -/
def R.DUMP_STATUS : Nat := 0x30
/-- Offset of TALLY_CTRL (PERIOD_MS [31:16], SET [10:1], EN [0:0]). -/
def R.TALLY_CTRL : Nat := 0x40
/-- Offset of TALLY_RING_LO (DPA [31:12]). -/
def R.TALLY_RING_LO : Nat := 0x44
/-- Offset of TALLY_RING_HI (DPA [13:0]). -/
def R.TALLY_RING_HI : Nat := 0x48
/-- Offset of TALLY_RING_SIZE (BYTES [31:0]). -/
def R.TALLY_RING_SIZE : Nat := 0x4C
/-- Offset of TALLY_PROD (COUNT [31:0]). -/
def R.TALLY_PROD : Nat := 0x50
/-- Offset of TALLY_CONS (COUNT [31:0]). -/
def R.TALLY_CONS : Nat := 0x54
/-- Offset of EXPORT_SKIPPED (COUNT [31:0]). -/
def R.EXPORT_SKIPPED : Nat := 0x58

/-- Registers of the block: recovery, log, dump and export (R562), part 0. -/
def rows_rcv0 : List RegRow := [
  ⟨R.RCV_CFG, 1, 4, [⟨31, 24, .rw, 10⟩, ⟨18, 16, .rw, 3⟩, ⟨3, 0, .rw, 4⟩]⟩,
  ⟨R.RCV_STAGE_LO, 1, 4, [⟨31, 12, .rw, 0⟩]⟩,
  ⟨R.RCV_STAGE_HI, 1, 4, [⟨13, 0, .rw, 0⟩]⟩,
  ⟨R.RCV_STORE_MAP_LO, 1, 4, [⟨31, 12, .rw, 0⟩]⟩,
  ⟨R.RCV_STORE_MAP_HI, 1, 4, [⟨13, 0, .rw, 0⟩]⟩,
  ⟨R.RCV_REPLAYS, 1, 4, [⟨31, 0, .ro, 0⟩]⟩,
  ⟨R.RCV_TRANSIENT, 1, 4, [⟨31, 0, .ro, 0⟩]⟩,
  ⟨R.RCV_SPARED, 1, 4, [⟨31, 0, .ro, 0⟩]⟩,
  ⟨R.RCV_FAILED, 1, 4, [⟨31, 0, .ro, 0⟩]⟩,
  ⟨R.LOG_STATUS, 1, 4, [⟨31, 0, .ro, 0⟩]⟩,
  ⟨R.LOG_LOST, 1, 4, [⟨31, 0, .ro, 0⟩]⟩,
  ⟨R.DUMP_STATUS, 1, 4, [⟨31, 31, .ro, 0⟩, ⟨9, 8, .ro, 0⟩, ⟨7, 0, .ro, 0⟩]⟩,
  ⟨R.TALLY_CTRL, 1, 4, [⟨31, 16, .rw, 1000⟩, ⟨10, 1, .rw, 0⟩, ⟨0, 0, .rw, 0⟩]⟩,
  ⟨R.TALLY_RING_LO, 1, 4, [⟨31, 12, .rw, 0⟩]⟩,
  ⟨R.TALLY_RING_HI, 1, 4, [⟨13, 0, .rw, 0⟩]⟩,
  ⟨R.TALLY_RING_SIZE, 1, 4, [⟨31, 0, .rw, 0⟩]⟩,
  ⟨R.TALLY_PROD, 1, 4, [⟨31, 0, .ro, 0⟩]⟩,
  ⟨R.TALLY_CONS, 1, 4, [⟨31, 0, .rw, 0⟩]⟩,
  ⟨R.EXPORT_SKIPPED, 1, 4, [⟨31, 0, .ro, 0⟩]⟩]

/-- The block: recovery, log, dump and export (R562). -/
def rows_rcv : List RegRow := rows_rcv0

/-- Offset of SVC_GPIO_OUT (OUT [7:0]). -/
def R.SVC_GPIO_OUT : Nat := 0x0
/-- Offset of SVC_GPIO_OE (OE [7:0]). -/
def R.SVC_GPIO_OE : Nat := 0x4
/-- Offset of SVC_GPIO_IN (IN [7:0]). -/
def R.SVC_GPIO_IN : Nat := 0x8
/-- Offset of SVC_EVENT (TMR [12:11], SYNC_IN [10:10], PPS_IN [9:9], WAKE [8:8], GPIO_EDGE [7:0]). -/
def R.SVC_EVENT : Nat := 0xC
/-- Offset of SVC_STRAPS (FLASH_WP [2:2], ROLE [1:0]). -/
def R.SVC_STRAPS : Nat := 0x10
/-- Offset of SVC_PPS_IN_TIME_LO (NS [31:0]). -/
def R.SVC_PPS_IN_TIME_LO : Nat := 0x20
/-- Offset of SVC_PPS_IN_TIME_HI (NS [31:0]). -/
def R.SVC_PPS_IN_TIME_HI : Nat := 0x24
/-- Offset of SVC_SYNC_IN_TIME_LO (NS [31:0]). -/
def R.SVC_SYNC_IN_TIME_LO : Nat := 0x28
/-- Offset of SVC_SYNC_IN_TIME_HI (NS [31:0]). -/
def R.SVC_SYNC_IN_TIME_HI : Nat := 0x2C

/-- Registers of the block: service connector (R579), part 0. -/
def rows_svc0 : List RegRow := [
  ⟨R.SVC_GPIO_OUT, 1, 4, [⟨7, 0, .rw, 0⟩]⟩,
  ⟨R.SVC_GPIO_OE, 1, 4, [⟨7, 0, .rw, 0⟩]⟩,
  ⟨R.SVC_GPIO_IN, 1, 4, [⟨7, 0, .ro, 0⟩]⟩,
  ⟨R.SVC_EVENT, 1, 4, [⟨12, 11, .w1c, 0⟩, ⟨10, 10, .w1c, 0⟩, ⟨9, 9, .w1c, 0⟩, ⟨8, 8, .w1c, 0⟩, ⟨7, 0, .w1c, 0⟩]⟩,
  ⟨R.SVC_STRAPS, 1, 4, [⟨2, 2, .ro, 0⟩, ⟨1, 0, .ro, 0⟩]⟩,
  ⟨R.SVC_PPS_IN_TIME_LO, 1, 4, [⟨31, 0, .ro, 0⟩]⟩,
  ⟨R.SVC_PPS_IN_TIME_HI, 1, 4, [⟨31, 0, .ro, 0⟩]⟩,
  ⟨R.SVC_SYNC_IN_TIME_LO, 1, 4, [⟨31, 0, .ro, 0⟩]⟩,
  ⟨R.SVC_SYNC_IN_TIME_HI, 1, 4, [⟨31, 0, .ro, 0⟩]⟩]

/-- The block: service connector (R579). -/
def rows_svc : List RegRow := rows_svc0

/-- Offset of TMR_CMP_LO (NS [31:0]). -/
def R.TMR_CMP_LO : Nat := 0x0
/-- Offset of TMR_CMP_HI (NS [31:0]). -/
def R.TMR_CMP_HI : Nat := 0x4
/-- Offset of TMR_PERIOD (NS [31:0]). -/
def R.TMR_PERIOD : Nat := 0x8
/-- Offset of TMR_CTRL (WIDTH [15:8], EN [0:0]). -/
def R.TMR_CTRL : Nat := 0xC

/-- Registers of the block: one service timer (R579), part 0. -/
def rows_tmr0 : List RegRow := [
  ⟨R.TMR_CMP_LO, 1, 4, [⟨31, 0, .rw, 0⟩]⟩,
  ⟨R.TMR_CMP_HI, 1, 4, [⟨31, 0, .rw, 0⟩]⟩,
  ⟨R.TMR_PERIOD, 1, 4, [⟨31, 0, .rw, 0⟩]⟩,
  ⟨R.TMR_CTRL, 1, 4, [⟨15, 8, .rw, 1⟩, ⟨0, 0, .rw, 0⟩]⟩]

/-- The block: one service timer (R579). -/
def rows_tmr : List RegRow := rows_tmr0

/-- The registers of a kind of block. -/
def RB.rows : RB → List RegRow
  | .tc => rows_tc
  | .sf => rows_sf
  | .cc => rows_cc
  | .th => rows_th
  | .be => rows_be
  | .lk => rows_lk
  | .lock => rows_lock
  | .aoc => rows_aoc
  | .span => rows_span
  | .dmmu => rows_dmmu
  | .fq => rows_fq
  | .stk => rows_stk
  | .cs => rows_cs
  | .bv => rows_bv
  | .bvg => rows_bvg
  | .sl => rows_sl
  | .lnk => rows_lnk
  | .ld0 => rows_ld0
  | .drv => rows_drv
  | .q => rows_q
  | .mb => rows_mb
  | .res => rows_res
  | .pwr => rows_pwr
  | .boot => rows_boot
  | .rcv => rows_rcv
  | .svc => rows_svc
  | .tmr => rows_tmr

/-- The row that an offset of a block falls on. -/
def rowAt : List RegRow → Nat → Option RegRow
  | [], _ => none
  | r :: rest, o =>
    if decide (r.off ≤ o) && decide ((o - r.off) / r.stride < r.cnt) && decide ((o - r.off) % r.stride = 0)
    then some r else rowAt rest o

/-- The reset value of a register from its fields. -/
def RegRow.reset (r : RegRow) : Nat := r.flds.foldl (fun a f => a + f.rst * 2 ^ f.lo) 0

/-- The mask of a field. -/
def Fld.mask (f : Fld) : Nat := 2 ^ (f.hi + 1) - 2 ^ f.lo

/-- What a read of R10 returns of a stored value: write-only fields read 0. -/
def RegRow.readMask (r : RegRow) (v : Nat) : Nat :=
  r.flds.foldl (fun a f => match f.acc with | .wo => a | _ => a + bits v f.hi f.lo * 2 ^ f.lo) 0

/-- The stored value after a read: RC fields clear (R10). -/
def RegRow.afterRead (r : RegRow) (v : Nat) : Nat :=
  r.flds.foldl (fun a f => match f.acc with | .rc => setBits a f.hi f.lo 0 | _ => a) v

/-- The stored value `v` after a write of `w` (R10): RW fields take it, W1C bits written 1 clear, W1S bits written 1 set, all else stays. -/
def RegRow.afterWrite (r : RegRow) (v w : Nat) : Nat :=
  r.flds.foldl (fun a f => match f.acc with
    | .rw => setBits a f.hi f.lo (bits w f.hi f.lo)
    | .w1c => setBits a f.hi f.lo (bits v f.hi f.lo &&& (2 ^ (f.hi + 1 - f.lo) - 1 - bits w f.hi f.lo))
    | .w1s => setBits a f.hi f.lo (bits v f.hi f.lo ||| bits w f.hi f.lo)
    | _ => a) v

/-- Whether the register holds a field that reading clears. -/
def RegRow.hasRc (r : RegRow) : Bool := r.flds.any (fun f => f.acc == .rc)

end Sys2Proof.Machine
end

