-- ==== Sys2Proof/Machine/Sparse.lean ====
section
/-! DEFINITION. Sparse tables: a list of (key, value) pairs in one canonical form (keys strictly rising, no value equal to what an unlisted key reads as). Memory bytes, registers and every table of units is held this way, so that equal machines are equal data. -/

namespace Sys2Proof.Machine

/-- The value at key `k`; an unlisted key reads `d k`. -/
def sget {α : Type} (d : Nat → α) : List (Nat × α) → Nat → α
  | [], k => d k
  | (j, v) :: r, k => if j = k then v else sget d r k

/-- Removes key `k`. -/
def sdel {α : Type} : List (Nat × α) → Nat → List (Nat × α)
  | [], _ => []
  | (j, v) :: r, k => if j = k then sdel r k else (j, v) :: sdel r k

/-- Writes key `k`, keeping the keys rising. -/
def sput {α : Type} : List (Nat × α) → Nat → α → List (Nat × α)
  | [], k, v => [(k, v)]
  | (j, w) :: r, k, v =>
    if j = k then (k, v) :: r
    else if k < j then (k, v) :: (j, w) :: r
    else (j, w) :: sput r k v

/-- Writes key `k`; a value equal to what an unlisted key reads as removes the entry. -/
def sset {α : Type} [DecidableEq α] (d : Nat → α) (l : List (Nat × α)) (k : Nat) (v : α) : List (Nat × α) :=
  if v = d k then sdel l k else sput l k v

/-- The keys rise strictly and all lie above `lo`. -/
def risingFrom {α : Type} : Nat → List (Nat × α) → Bool
  | _, [] => true
  | lo, (k, _) :: r => decide (lo ≤ k) && risingFrom (k + 1) r

/-- The canonical form: keys strictly rising, no entry equal to what an unlisted key reads as. -/
def canonical {α : Type} [DecidableEq α] (d : Nat → α) (l : List (Nat × α)) : Bool :=
  risingFrom 0 l && l.all (fun kv => !decide (kv.2 = d kv.1))

/-- A set of naturals as a strictly rising list: membership. -/
def nmem (l : List Nat) (k : Nat) : Bool := l.contains k

/-- Adds to a rising set. -/
def nadd : List Nat → Nat → List Nat
  | [], k => [k]
  | j :: r, k => if j = k then j :: r else if k < j then k :: j :: r else j :: nadd r k

/-- Removes from a set. -/
def ndel (l : List Nat) (k : Nat) : List Nat := l.filter (fun j => !(j == k))

end Sys2Proof.Machine
end

