-- ==== Sys2Proof/Machine/Space.lean ====
section
/-! DEFINITION. The device physical address map (R27 to R32) and the place of every register block (R31, R137, R195, R230, R270, R325, R327, R343, R354 to R357, R395, R413, R455, R456, R485, R513, R540, R562, R579). -/

namespace Sys2Proof.Machine

/-- The tables that are written through windows of the link dies (R456): classifier entries are not windowed. -/
inductive LdWin where
  | egress | flow | mwin | qp
  deriving DecidableEq, Repr

/-- What stands at a DPA. A register is named by its kind of block, its die (link dies are 16 to 19, the AOC is 20), the index of the
block on that die, and the offset inside the block. -/
inductive Place where
  | stack
  | store (d p off : Nat)
  | reg (rb : RB) (d i off : Nat)
  | mram (die off : Nat)
  | win (w : LdWin) (n off : Nat)
  | none
  deriving DecidableEq, Repr

/-- The end of the memory stacks (R27). -/
def stackEnd : Nat := 0x018000000000
/-- The start of the cluster store windows (R30). -/
def storeBase : Nat := 0x200000000000
/-- The start of the register windows (R31). -/
def regBase : Nat := 0x300000000000
/-- The AOC and shepherd complex (R27). -/
def aocBase : Nat := 0x3F0000000000

/-- The first DPA of a cluster's store window (R30). -/
def storeAddr (d p : Nat) : Nat := storeBase + d * 0x100000000 + p * 0x1000000

/-- The first DPA of a cluster's register area (R137). -/
def clRegBase (d p : Nat) : Nat := regBase + d * 0x10000000 + 0x01000000 + p * 0x10000

/-- The base DPA of block `i` of kind `rb` on die `d`. A lock with index below 10,752 is lock i mod 64 of cluster i / 64, above it
a die lock (R327). -/
def blockBase (rb : RB) (d i : Nat) : Nat :=
  let die := regBase + d * 0x10000000
  match rb with
  | .tc => clRegBase d i + 0x2000
  | .sf => clRegBase d i + 0x3000
  | .cc => clRegBase d i + 0x4000
  | .be => clRegBase d i + 0x5000
  | .lk => clRegBase d i + 0x6000
  | .lock => if i < 10752 then clRegBase d (i / 64) + 0x6100 + 0x20 * (i % 64)
      else die + 0x00200100 + 0x20 * (i - 10752)
  | .cs => clRegBase d i + 0x7000
  | .th => clRegBase d (i / 112) + 0x8000 + 0x100 * (i % 112)
  | .fq => die + 0x00100000
  | .stk => die + 0x00300000 + i * 0x10000
  | .bv => die + 0x00500000 + i * 0x1000
  | .bvg => die + 0x00580000
  | .sl => die + 0x00600000 + i * 0x1000
  | .drv => die + 0x00700000
  | .q => die + 0x00701000 + i * 0x40
  | .lnk => die + 0x00100000 + i * 0x10000
  | .ld0 => die + 0x00200000
  | .aoc => aocBase
  | .span => aocBase + 0x1000
  | .dmmu => aocBase + 0x2000
  | .res => aocBase + 0x3000
  | .pwr => aocBase + 0x5000
  | .boot => aocBase + 0x6000
  | .rcv => aocBase + 0x7000
  | .svc => aocBase + 0x8000
  | .tmr => aocBase + 0x8040 + i * 0x10
  | .mb => aocBase + 0x10000 + i * 0x100

/-- The DPA of a register. -/
def regAddr (rb : RB) (d i off : Nat) : Nat := blockBase rb d i + off

/-- The registers of one cluster: its 64 KiB area. -/
def placeCluster (d p o : Nat) : Place :=
  let off := o % 0x1000
  match o / 0x1000 with
  | 2 => .reg .tc d p off
  | 3 => .reg .sf d p off
  | 4 => .reg .cc d p off
  | 5 => .reg .be d p off
  | 6 => if 0x100 ≤ off && off < 0x900 then .reg .lock d (p * 64 + (off - 0x100) / 0x20) (off % 0x20)
      else .reg .lk d p off
  | 7 => .reg .cs d p off
  | n => if 8 ≤ n && n < 15 then .reg .th d (p * 112 + (o - 0x8000) / 0x100) (o % 0x100) else .none

/-- The register window of a compute die (R31). DESIGN CHOICE (log 37): a block whose size the spec does not state is 4 KiB long, a bank of locks or stacks 64 KiB. -/
def placeDie (d o : Nat) : Place :=
  if 0x01000000 ≤ o then
    if o < 0x01000000 + 168 * 0x10000 then placeCluster d ((o - 0x01000000) / 0x10000) (o % 0x10000) else .none
  else if o < 0x00100000 then .none
  else if o < 0x00101000 then .reg .fq d 0 (o - 0x00100000)
  else if o < 0x00200000 then .none
  else if o < 0x00210000 then
    let off := o - 0x00200000
    if 0x100 ≤ off && off < 0x8100 then .reg .lock d (10752 + (off - 0x100) / 0x20) (off % 0x20)
    else .reg .lock d 11776 off
  else if o < 0x00300000 then .none
  else if o < 0x00320000 then .reg .stk d ((o - 0x00300000) / 0x10000) (o % 0x10000)
  else if o < 0x00400000 then .none
  else if o < 0x00410000 then .mram d (o - 0x00400000)
  else if o < 0x00500000 then .none
  else if o < 0x00508000 then .reg .bv d ((o - 0x00500000) / 0x1000) (o % 0x1000)
  else if o < 0x00580000 then .none
  else if o < 0x00581000 then .reg .bvg d 0 (o - 0x00580000)
  else if o < 0x00600000 then .none
  else if o < 0x00602000 then .reg .sl d ((o - 0x00600000) / 0x1000) (o % 0x1000)
  else if o < 0x00700000 then .none
  else if o < 0x00701000 then .reg .drv d 0 (o - 0x00700000)
  else if o < 0x00705000 then .reg .q d ((o - 0x00701000) / 0x40) (o % 0x40)
  else .none

/-- The register window of a link die (R31, R455, R456). DESIGN CHOICE (log 37): the block of LD0 is 4 KiB long, a port's 64 KiB. -/
def placeLd (n o : Nat) : Place :=
  if o < 0x00100000 then .none
  else if o < 0x00160000 then .reg .lnk (16 + n) ((o - 0x00100000) / 0x10000) (o % 0x10000)
  else if o < 0x00200000 then .none
  else if o < 0x00201000 then (if n = 0 then .reg .ld0 16 0 (o - 0x00200000) else .none)
  else if o < 0x00400000 then .none
  else if o < 0x00410000 then .mram (16 + n) (o - 0x00400000)
  else if o < 0x00700000 then .none
  else if o < 0x00700000 + 1024 * 64 then .win .egress n (o - 0x00700000)
  else if o < 0x00800000 then .none
  else if o < 0x00800000 + 65536 * 32 then .win .flow n (o - 0x00800000)
  else if o < 0x00A00000 then .none
  else if o < 0x00A00000 + 4096 * 16 then (if n = 0 then .win .mwin n (o - 0x00A00000) else .none)
  else if o < 0x01000000 then .none
  else if o < 0x01000000 + 4096 * 64 then .win .qp n (o - 0x01000000)
  else .none

/-- The AOC and shepherd complex. DESIGN CHOICE (log 37): each of its blocks but the mailboxes is 4 KiB long. -/
def placeAoc (o : Nat) : Place :=
  if o < 0x1000 then .reg .aoc 20 0 o
  else if o < 0x2000 then .reg .span 20 0 (o - 0x1000)
  else if o < 0x3000 then .reg .dmmu 20 0 (o - 0x2000)
  else if o < 0x4000 then .reg .res 20 0 (o - 0x3000)
  else if o < 0x5000 then .none
  else if o < 0x6000 then .reg .pwr 20 0 (o - 0x5000)
  else if o < 0x7000 then .reg .boot 20 0 (o - 0x6000)
  else if o < 0x8000 then .reg .rcv 20 0 (o - 0x7000)
  else if o < 0x9000 then
    (if 0x8040 ≤ o && o < 0x8060 then .reg .tmr 20 ((o - 0x8040) / 0x10) (o % 0x10) else .reg .svc 20 0 (o - 0x8000))
  else if 0x10000 ≤ o && o < 0x10000 + 64 * 0x100 then .reg .mb 20 ((o - 0x10000) / 0x100) (o % 0x100)
  else .none

/-- R27 to R31: what stands at a DPA. -/
def place (a : Nat) : Place :=
  if a < stackEnd then .stack
  else if a < storeBase then .none
  else if a < storeBase + 0x1000000000 then
    let r := a - storeBase
    let d := r / 0x100000000
    let p := r % 0x100000000 / 0x1000000
    let off := r % 0x1000000
    if p < 168 && off < 0x800000 then .store d p off else .none
  else if a < regBase then .none
  else if a < regBase + 0x100000000 then placeDie ((a - regBase) / 0x10000000) ((a - regBase) % 0x10000000)
  else if a < regBase + 0x140000000 then
    placeLd ((a - regBase - 0x100000000) / 0x10000000) ((a - regBase) % 0x10000000)
  else if a < aocBase then .none
  else if a < aocBase + 0x100000000 then placeAoc (a - aocBase)
  else .none

/-- The row of the register table a DPA falls on, if any. -/
def rowOf (a : Nat) : Option RegRow :=
  match place a with
  | .reg rb _ _ off => rowAt rb.rows off
  | _ => none

/-- What a register reads before anything is stored in it (R10, R11): its reset value; a word of no register is 0. -/
def regReset (a : Nat) : W32 :=
  match rowOf a with
  | some r => BitVec.ofNat 32 r.reset
  | none => 0

/-- A copy of the repair map (R343): the physical cluster of each logical one, the spare state of each spare, zeros, its sequence number and its CRC-32. -/
def mapBytes (phys spare : List Byte) (seq : Nat) : List Byte :=
  let body := phys ++ spare ++ List.replicate 80 0 ++ leBytes 4 seq
  body ++ leBytes 4 (crc32 body)

/-- What R343 gives of the MRAM of a die as it left the factory (link dies are 16 to 19): the header's layout version, die number and stepping, which names
A1 as AOC_PART_ID does (R4); both copies of the repair map of a die with nothing repaired, the first the newer one; and the field-repair lists, whose slots
are all zeros, that is free (R344). DESIGN CHOICE (log 5): one byte each for the first three header fields, and the two sequence numbers. -/
def mramFactory (d off : Nat) : Option Byte :=
  if off < 3 then some ([1, BitVec.ofNat 8 d, 1].getD off 0)
  else if d < 16 && 0x100 ≤ off && off < 0x300 then
    some ((mapBytes ((List.range 160).map (BitVec.ofNat 8)) (List.replicate 8 0) (if off < 0x200 then 1 else 0)).getD (off % 256) 0)
  else if d < 16 && 0x6000 ≤ off && off < 0x8000 then some 0
  else none

/-- What a byte of memory reads as before anything is written: 0 (R333, R498, R517), in the MRAM what the factory wrote. -/
def memInit (a : Nat) : Byte :=
  match place a with
  | .mram d off => (mramFactory d off).getD 0
  | _ => 0

/-- A byte of the MRAM whose content from the factory the spec does not give. -/
def mramOpen (a : Nat) : Bool :=
  match place a with
  | .mram d off => (mramFactory d off).isNone
  | _ => false

/-- R336: the stack and the stack-local address of a stack DPA under a span mode. -/
def stackOf (mode a : Nat) : Nat × Nat :=
  let g := a / 2 ^ 35
  let r := a % 2 ^ 35
  if mode = 1 then (2 * bits r 34 31 + bits r 12 12, g * 2 ^ 30 + bits r 30 13 * 4096 + bits r 11 0)
  else if mode = 2 then (bits r 34 30, g * 2 ^ 30 + bits r 29 0)
  else (bits r 16 12, g * 2 ^ 30 + bits r 34 17 * 4096 + bits r 11 0)

end Sys2Proof.Machine
end

