-- ==== Sys2Proof/Machine/Types/Aoc.lean ====
section
/-! DEFINITION. The state of the always-on domain and of the management complex beside their registers: fenced clusters (R519, R520), flash and its updates (R525, R537), the key vault (R530), what start-up found (R516 to R532), the pins (R570 to R579), SMBus and JTAG (R576, R577), latched register halves. Plain data. -/

namespace Sys2Proof.Machine

/-- An open FW_UPDATE (R537): its session, KIND, slot (0 A, 1 B), LENGTH, and the update buffer of a TAMPER_CLEAR object. -/
structure FwUpdate where
  session : Nat
  kind : Nat
  slot : Nat
  len : Nat
  buf : List (Nat × Byte)
  deriving DecidableEq, Repr

/-- The always-on domain. `fenced` has key 168 × die + physical cluster, 1 at factory, 2 in the field; `flash` holds the bytes written, `erased` the ranges erased (start, length), which read 0xFF elsewhere; a byte neither written nor erased is
free; `vault` holds the keys of the slots, an unlisted slot reading 0; `derived` says that the keys of R529 were derived;
`inForce` the slot in force of each KIND; `manifest` the body in force, empty for the defaults of R532; `dead` has bit 0 for the AOC of LD0, bit 1
for the standby; `step` the start-up step reached by a start-up that waits (0 none); `envHeld` the ENVELOPE_SET requests held until READY (R539: source, session, REQ_ID, envelope); `latches`
the upper halves that a read of a lower half latched; `gpio` the contact levels; `waitEdges` the edges of the wait detector's graph (waiting command, awaited command, since when it has stood at every evaluation, R316); `raw` the tamper conditions present; `tallyLens` the lengths of the export records not consumed and `tallyPos` where the next goes (R561); `jtagIr`, `jtagData`, `jtagBoundary` the JTAG registers. -/
structure Aoc where
  fenced : List (Nat × Nat)
  flash : List (Nat × Byte)
  update : Option FwUpdate
  vault : List (Nat × List Byte)
  derived : Bool
  inForce : List (Nat × Nat)
  manifest : List Byte
  dead : Nat
  step : Nat
  envHeld : List (Nat × Nat × Nat × Nat)
  resetLow : Bool
  straps : Nat
  flashWp : Bool
  gpio : Nat
  latches : List (Nat × Nat)
  smbPtr : Nat
  jtagIr : Nat
  jtagData : Nat
  jtagBoundary : Nat
  traceNext : Nat
  waitEdges : List (Nat × Nat × Nat)
  erased : List (Nat × Nat)
  raw : Nat
  tallyLens : List Nat
  tallyPos : Nat
  deriving DecidableEq, Repr

/-- The always-on domain before power was first applied: nothing fenced in the field, contacts open. -/
def Aoc.reset : Aoc := ⟨[], [], none, [], false, [], [], 0, 0, [], false, 0, false, 0, [], 0, 1, 0, 0, 0, [], [], 0, [], 0⟩

end Sys2Proof.Machine
end

