-- ==== Sys2Proof/Machine/Types/Bentin.lean ====
section
/-! DEFINITION. Bentin sessions (R448, R449) and what the device sends. Plain data. -/

namespace Sys2Proof.Machine

/-- A Bentin session: open or not, the source it is bound to (a global queue-pair number, or 65,536 + n for UDP source n of the
management port), its frame counter SEQ, and its last 64 requests with their replies (`none` while the request still executes). -/
structure Session where
  isOpen : Bool
  src : Nat
  seq : Nat
  reqs : List (Nat × Option (List Byte))
  deriving DecidableEq, Repr

def Session.reset : Session := ⟨false, 0, 0, []⟩

/-- Something the device has put on a wire, in order. `via` is a global queue-pair number for a message on a queue pair, 65,536 + n for
the management port's UDP source n, 131,072 + port for an Ethernet frame, 196,608 for SMBus, 196,609 for JTAG, 196,610 for SYNC or
PPS pulses, 196,611 for a page or link request of the device's own. `src` are the MAC and IPv4 addresses a datagram of the management port comes
from (R578), nothing for the others. -/
structure Sent where
  via : Nat
  bytes : List Byte
  src : List Byte
  deriving DecidableEq, Repr

end Sys2Proof.Machine
end

