-- ==== Sys2Proof/Machine/Types/Die.lean ====
section
/-! DEFINITION. The state of a compute die's memory system and of the stacks: page walks in flight (R347), the fault queue and its backlog (R350), the die translation cache and the die locks (R309), and the logic die of each memory stack (R334 to R342). Plain data. -/

namespace Sys2Proof.Machine

/-- A unit that issues virtual addresses, as DMMU_FAULT_UNIT names it (R355): kind (1 thread core, 2 array feeder, 3 SF core, 4 coder
core, 5 barge engine, 6 block-video pipeline, 7 sluice engine), physical cluster (0 for die units), index, flock, and the
allocation of the instruction or barge it works for (0 for a thread core). -/
structure UnitRef where
  kind : Nat
  p : Nat
  index : Nat
  flock : Nat
  uid : Nat
  deriving DecidableEq, Repr

/-- A walk in flight (R347): requester, virtual address, access (0 read, 1 write, 2 fetch, 3 atomic), whether a fault of it is raised
(R346: not for a speculative access or a PREF), and whether an invalidation was started meanwhile (R353). -/
structure Walk where
  unit : UnitRef
  tag : Nat
  queue : Nat
  va : Nat
  access : Nat
  demand : Bool
  stale : Bool
  deriving DecidableEq, Repr

/-- A fault record (R350, R355). -/
structure FaultRec where
  unit : UnitRef
  tag : Nat
  queue : Nat
  va : Nat
  cause : Nat
  level : Nat
  access : Nat
  withdrawn : Bool
  deriving DecidableEq, Repr

/-- How a 256-byte block of a stack is stored (R342), when it is not RAW: its count of non-zero words (0 is ZERO). -/
abbrev ZcForm := Nat

/-- A row being spared or a count of corrected errors of a row (R339): row key and count. -/
structure Stack where
  temp : Nat
  refresh : Nat
  refreshNext : Nat
  thermAlert : Bool
  sparesOut : Bool
  ceRows : List (Nat × Nat)
  sparing : List Nat
  spared : List Nat
  listUsed : Nat
  spareFree : List (Nat × Nat)
  zc : List (Nat × ZcForm)
  deriving DecidableEq, Repr

/-- A stack whose logic die has just come on. -/
def Stack.reset : Stack := ⟨0, 0, 0, false, false, [], [], [], 0, [], []⟩

/-- The memory side of a compute die. `once` holds, for the unit that asked, the result of a walk that an invalidation met (R353). -/
structure DieMem where
  tlb : List Tlb
  walks : List Walk
  fq : List FaultRec
  backlog : List FaultRec
  locks : List (Nat × Lock)
  wakeAt : Nat
  once : List (UnitRef × Tlb)
  deriving DecidableEq, Repr

def DieMem.reset : DieMem := ⟨[], [], [], [], [], 0, []⟩

end Sys2Proof.Machine
end

