-- ==== Sys2Proof/Machine/Types/Drover.lean ====
section
/-! DEFINITION. The state of the drovers (R457 to R477), of the mailboxes (R479 to R482) and of the shared resources (R483, R484). Ring and configuration registers are held among the registers. Plain data. -/

namespace Sys2Proof.Machine

/-- The states of R464, and `recover` for a command that waits for a spare (R548). -/
inductive CmdSt where
  | queued | armed | waking | running | preempting | parked | recover | complete
  deriving DecidableEq, Repr

/-- STATE of a completion in STATE order is not visible; who asked for the pre-emption or holds the park (R470). -/
inductive ParkBy where
  | none | drover | request | recovery
  deriving DecidableEq, Repr

/-- What R472 saves of one cluster: its logical number, the issue-queue entries removed into the save area, the barges parked, and the
flocks that were placed (flock number, and whether it still lives). The flock contexts themselves stand in memory (R268, R473). -/
structure SavedCl where
  logical : Nat
  entries : List Entry
  flocks : List Nat
  deriving DecidableEq, Repr

/-- A command past its fetch (R460, R464). `key` names it: (queue + 1) × 2^32 + SEQ. `wrote` are the ranges its runs have written on a
REPLAYABLE queue (R549), `epochs` the table epochs its instructions first captured, by logical cluster and slot (R186), `captures` the number of captures that instructions of the present run have made, by logical cluster and slot, `fast` the mode it was dispatched in (R68), `stage` that it is a stage entry (R550), `slots` that it holds its flock slots (R465),
`fails` the units its failures were attributed to (R547), `spareOf` the cluster whose spare it waits for, plus 1. -/
structure Command where
  key : Nat
  queue : Nat
  seq : Nat
  body : List Byte
  st : CmdSt
  ctag : Nat
  order : Nat
  runOrder : Nat
  woke : Bool
  resumed : Bool
  replayed : Bool
  killed : Bool
  failed : Bool
  status : Nat
  preemptReq : ParkBy
  preemptAt : Nat
  parkBy : ParkBy
  resumeReq : Bool
  cancelReq : Bool
  tStart : Nat
  started : Bool
  saved : List SavedCl
  replays : Nat
  recovering : Bool
  waitCtag : Nat
  wrote : List (Nat × Nat)
  epochs : List (Nat × Nat)
  captures : List (Nat × Nat)
  fast : Bool
  stage : Bool
  slots : Bool
  fails : List Nat
  spareOf : Nat
  deriving DecidableEq, Repr

/-- A completion record that waits for ring room (R366, R477): its 32 bytes and the command it finishes, if final. -/
structure HeldRec where
  bytes : List Byte
  final : Option Nat
  deriving DecidableEq, Repr

/-- One queue's dynamic state (R458, R462): commands fetched since EN was set, TRIG_PENDING, records held, whether its ring is in error (R365), and
since when its head waits for a CTAG, plus 1. -/
structure Queue where
  seq : Nat
  trig : Nat
  held : List HeldRec
  err : Bool
  tagSince : Nat
  deriving DecidableEq, Repr

def Queue.reset : Queue := ⟨0, 0, [], false, 0⟩

/-- A spare being brought in (R548): logical cluster, fenced and new physical cluster, the fenced cluster's lock and pool registers by offset, its
table slots, whether they have been copied, the queues whose stage entries are still to run, the stage command running, and the status of
one that failed. -/
structure SpareJob where
  logical : Nat
  old : Nat
  new : Nat
  regs : List (Nat × Nat)
  sf : List (Nat × SfSlot)
  ct : List (Nat × CtSlot)
  copied : Bool
  left : List Nat
  cur : Nat
  failed : Nat
  deriving DecidableEq, Repr

/-- A drover. `order` counts arming and dispatch events (R465, R470); `jobs` are the spares being brought in. -/
structure Drover where
  cmds : List Command
  queues : List (Nat × Queue)
  order : Nat
  jobs : List SpareJob
  deriving DecidableEq, Repr

def Drover.reset : Drover := ⟨[], [], 0, []⟩

/-- A MAILBOX_SEND that waits for its outcome (R481): its session, REQ_ID, and the source the reply goes to. -/
structure MbReply where
  session : Nat
  reqId : Nat
  src : Nat
  deriving DecidableEq, Repr

/-- A mailbox (R479 to R481): its content, the identity and SEQ of the stored send, whether it is full, whether the stored send met a full mailbox, its
result (0 PENDING, 1 DRAINED, 2 TIMEOUT), when it was made, whether its outcome is still open, the reply that waits for it, and the identity of a later
send that met a receiver that was down. -/
structure Mailbox where
  data : List Byte
  sender : Nat
  seq : Nat
  full : Bool
  coll : Bool
  result : Nat
  sentAt : Nat
  waiting : Bool
  reply : Option MbReply
  down : Option Nat
  deriving DecidableEq, Repr

def Mailbox.reset : Mailbox := ⟨List.replicate 16 0, 0, 0, false, false, 0, 0, false, Option.none, Option.none⟩

end Sys2Proof.Machine
end

