-- ==== Sys2Proof/Machine/Types/Power.lean ====
section
/-! DEFINITION. The state of power and clocks (R487 to R515): domains, the weir governor's queues and ledger, the input monitor, the clamp, envelopes, throttle levels, references. Plain data. -/

namespace Sys2Proof.Machine

/-- A domain's state (R496). -/
inductive DomSt where
  | off | transition | on | retain
  deriving DecidableEq, Repr

/-- STATE of PWR_DOM (R514). -/
def DomSt.code : DomSt → Nat
  | .off => 0
  | .transition => 1
  | .on => 2
  | .retain => 3

/-- Where a domain in TRANSITION stands: its step waits for the weir, or was granted and is ready at a time; rising to ON or falling to
OFF or RETAIN, and whether it rises from OFF. -/
structure Trans where
  up : Bool
  granted : Bool
  readyAt : Nat
  dest : DomSt
  fromOff : Bool
  deriving DecidableEq, Repr

/-- A power domain. -/
structure Dom where
  st : DomSt
  req : Nat
  tr : Option Trans
  deriving DecidableEq, Repr

def Dom.offState : Dom := ⟨.off, 0, none⟩

/-- What a weir step changes (R490, R492): the domain itself (sub 0), a clock within a cluster (1 to 4 AE0 to AE3, 5 MVE, 6 EPE, 7 + n
THn), or the throttle level of a cluster (1000 + level it goes to). `pos` is the order position of R515. -/
structure WeirStep where
  dom : Nat
  sub : Nat
  pos : Nat
  mw : Nat
  units : Nat
  slot : Nat
  deriving DecidableEq, Repr

/-- The weir, the input, the clamp and the references. Voltages in 10 mV, currents in 0.1 A, power in W, energy in mJ, ledger in 0.1 mA,
as their registers give them (R513). -/
structure Power where
  rise : List WeirStep
  fall : List WeirStep
  riseHold : Nat
  fallHold : Nat
  charged : List (Nat × Nat)
  slots : Nat
  inputOk : Bool
  uvWarn : Bool
  pen : Bool
  lastEmerg : Nat
  emergency : Bool
  clampEngaged : Bool
  clampEvents : Nat
  clampMicroJ : Nat
  clampAt : Nat
  vin : Nat
  iin : Nat
  samples : List Nat
  p1ms : Nat
  envMax : Nat
  envActive : Nat
  envReq : Nat
  settled : Bool
  thEnv : Nat
  envRiseAt : Nat
  envFallAt : Nat
  ref25 : Bool
  ref156 : Bool
  aoInternal : Bool
  deriving DecidableEq, Repr

/-- Throttle and temperature of a compute die (R500, R503). -/
structure DieTherm where
  temp : Nat
  therm : Nat
  riseAt : Nat
  fallAt : Nat
  hot : Bool
  pll : Bool
  deriving DecidableEq, Repr

def DieTherm.reset : DieTherm := ⟨0, 0, 0, 0, false, false⟩

end Sys2Proof.Machine
end

