-- ==== Sys2Proof/Machine/Types/Video.lean ====
section
/-! DEFINITION. The state of the block-video pipelines (R358 to R396) and of the sluice engines (R397 to R413). Plain data. -/

namespace Sys2Proof.Machine

/-- Where a job of a pipeline stands: fetched, held for lookahead (R378, R383), placed in coding order, coding its bands, parked on a
fault (R391), or ended and waiting for its record to be written (R366). -/
inductive BvSt where
  | fetched | held | placed | coding | parked | done
  deriving DecidableEq, Repr

/-- A job of a pipeline (R367 to R373). `cnt` is its count in the ring; `key` that the picture is a key, with the reasons `keyReq` and
`keyForced` of R382 and R384; `lo`, `hi` the blocks it refreshes and `k` its place in its cycle (R380); `src` the converted source
so far (R375), `coded` the QI and MINIMAL of each band, `used` their bits; `planes` and `output` the decoded picture, `names` what it
is stored under, `hidden` the unit's frames that are not shown; `tiles` the tiles its members share, 0 when they share its bands (R361); `paused` since when its budget does
not run (R389); `blks` the lock blocks it holds (R376): band or 0, and ring index. In a DEC_AU job `lo` and `hi` are the picture's width
and height, `level` its block size, `k` its format (bit 0 10-bit, bit 1 4:2:2), `qi` 1 + the name of its first reference, `next` the modulus
of its ORDER. -/
structure BvJob where
  cnt : Nat
  bytes : List Byte
  st : BvSt
  status : Nat
  flags : Nat
  picType : Nat
  order : Nat
  key : Bool
  keyReq : Bool
  keyForced : Bool
  level : Nat
  k : Nat
  lo : Nat
  hi : Nat
  bands : Nat
  src : List (List Nat)
  coded : List (Nat × Bool)
  qi : Nat
  used : Nat
  out : List Byte
  outN : Nat
  fill : Nat
  planes : List (List Nat)
  output : List (List Nat)
  names : List Nat
  refs : List Nat
  bandRows : Nat
  next : Nat
  damage : Nat
  blks : List (Nat × Nat)
  t0 : Nat
  tDone : Nat
  hidden : List (Nat × List (List Nat))
  tiles : Nat
  paused : Option Nat
  deriving DecidableEq, Repr

/-- A picture of a decoder's buffer: its name, samples, whether it is a grey substitute (R388), DAMAGED (R386), stored by the latest
key, and SUSPECT. -/
structure DpbPic where
  name : Nat
  planes : List (List Nat)
  subst : Bool
  damaged : Bool
  ofKey : Bool
  suspect : Bool
  deriving DecidableEq, Repr

/-- An open stream (R364): its OPEN job, the coder's own state (an opaque number), rate control's F and carry (R377), the next ORDER,
pictures placed since the last key, a key asked by BV_KEY_REQ, a key forced by R384, the place in the refresh cycle (R380); for a decoder
its picture buffer, whether it skips (R390), and the cycle it follows (R386): P, the ORDER of its first picture, and no event since. -/
structure BvStream where
  num : Nat
  opened : List Byte
  coder : Nat
  f : Nat
  carry : Nat
  order : Nat
  sinceKey : Nat
  started : Bool
  keyReq : Bool
  keyForced : Bool
  cycK : Nat
  dpb : List DpbPic
  skip : Bool
  cycP : Nat
  cycStart : Nat
  cycClean : Bool
  deriving DecidableEq, Repr

/-- A pipeline: jobs in ring order (placed ones in coding order), open streams, fetching stopped by a ring error (R365), and the
last job served of equals (R373). -/
structure Pipe where
  jobs : List BvJob
  streams : List BvStream
  ringStop : Bool
  last : Nat
  deriving DecidableEq, Repr

def Pipe.reset : Pipe := ⟨[], [], false, 0⟩

/-- A sluice job (R404): checkpoint state of a compressor (input position, output bits so far, blocks, stored blocks) or of a decompressor
(the output position of its checkpoint), whether it is parked, whether it has resumed, its record once it has ended; the input read so far and the bytes of output written. -/
structure SlJob where
  cnt : Nat
  bytes : List Byte
  pos : Nat
  outBits : List Bool
  blocks : Nat
  stored : Nat
  parked : Bool
  resumed : Bool
  record : Option (List Byte)
  data : List Byte
  put : Nat
  deriving DecidableEq, Repr

/-- A sluice engine: its job, fetching stopped by a ring error, stopped by PREEMPT, and the bytes consumed and written beyond the
64 KiB units already counted (R413). -/
structure Sluice where
  job : Option SlJob
  ringStop : Bool
  stopped : Bool
  inRem : Nat
  outRem : Nat
  deriving DecidableEq, Repr

def Sluice.reset : Sluice := ⟨none, false, false, 0, 0⟩

end Sys2Proof.Machine
end

