-- ==== Sys2Proof/Machine/Types/Dev.lean ====
section
/-! DEFINITION. The whole device but the command queue: registers, memory, clusters, dies, stacks, drovers, power, logs. Every part is plain data; a table of units is a list of (number, unit) pairs in the canonical form of Sparse.lean, an unlisted unit being in its reset state. -/

namespace Sys2Proof.Machine

/-- An event-log entry (R554); its SEQ is its place in the log. -/
structure LogEntry where
  time : Nat
  cls : Nat
  source : Nat
  code : Nat
  cause : Nat
  die : Nat
  pcl : Nat
  lcl : Nat
  index : Nat
  tag : Nat
  queue : Nat
  data : Nat
  deriving DecidableEq, Repr

/-- A recoverable fault of a command that passed to recovery (R544): the command, the unit it is attributed to (R547), the status it
would have had, and the address of the failed read, with whether the region wrote it (R549). -/
structure RFault where
  key : Nat
  unit : Nat
  status : Nat
  data : Nat
  written : Bool
  deriving DecidableEq, Repr

/-- The device. `clock` is the time since power was applied, in ns; `unitWrites` are the writes of the die engines to registers and tables that are on their way (R24). -/
structure Dev where
  clock : Nat
  free : Nat
  regs : List (Nat × W32)
  mem : List Host.Cell
  undef : List (Nat × Nat × Nat)
  bad : List Nat
  oneBit : List Nat
  clusters : List (Nat × Cluster)
  dies : List (Nat × DieMem)
  stackTab : List (Nat × Stack)
  drovers : List (Nat × Drover)
  pipes : List (Nat × Pipe)
  sluices : List (Nat × Sluice)
  mailboxes : List (Nat × Mailbox)
  doms : List (Nat × Dom)
  power : Power
  therm : List (Nat × DieTherm)
  repair : List (Nat × Nat)
  log : List LogEntry
  logNext : Nat
  rfaults : List RFault
  sessions : List (Nat × Session)
  sent : List Sent
  aoc : Aoc
  links : Links
  timeOff : Int
  role : Nat
  groupIndex : Nat
  unitWrites : List (Nat × List Byte)
  deriving DecidableEq, Repr

end Sys2Proof.Machine
end

