-- ==== Sys2Proof/Machine/Prog.lean ====
section
/-! DEFINITION. How the device changes. `Upd` lists every way a field of the device can change; a command's effect is a `Prog`, a sequence of updates that may look at the device as it stands. Nothing else changes the device, so what holds of every update holds of every command. -/

namespace Sys2Proof.Machine

/-- R12 and the counter rules: counters stop at 0xFFFF_FFFF. -/
def satAdd (a n : Nat) : Nat := min (a + n) 0xFFFFFFFF

/-- One change of the device. -/
inductive Upd where
  /-- time passes, in ns -/
  | time (dt : Nat)
  /-- a free value has been used -/
  | fresh
  /-- a register word is set -/
  | reg (a v : Nat)
  /-- bytes are stored -/
  | mem (a : Nat) (bs : List Byte)
  /-- a range of `n` bytes reads 0 again, without errors -/
  | zero (a n : Nat)
  /-- the contents of a range become undefined -/
  | undef (a n : Nat)
  /-- the unit at `a` (64 B of a stack, 8 B of a store) is or is not uncorrectable -/
  | bad (a : Nat) (b : Bool)
  /-- the unit at `a` holds or does not hold a correctable error -/
  | oneBit (a : Nat) (b : Bool)
  | cl (k : Nat) (c : Cluster)
  | die (d : Nat) (x : DieMem)
  | stack (n : Nat) (x : Stack)
  | drover (d : Nat) (x : Drover)
  | pipe (n : Nat) (x : Pipe)
  | sluice (n : Nat) (x : Sluice)
  | mbox (m : Nat) (x : Mailbox)
  | dom (k : Nat) (x : Dom)
  | power (x : Power)
  | therm (d : Nat) (x : DieTherm)
  | repair (k v : Nat)
  /-- the repair maps of all dies, as start-up reads them -/
  | maps (l : List (Nat × Nat))
  | log (e : LogEntry)
  | rfaults (l : List RFault)
  | session (n : Nat) (x : Session)
  | send (via : Nat) (bytes : List Byte)
  | aoc (x : Aoc)
  | links (x : Links)
  /-- the registers from `lo` to below `hi` take their reset values -/
  | regDrop (lo hi : Nat)
  /-- the contents of a stack are lost: it reads 0, without errors -/
  | stackLost (n : Nat)
  | timeOff (x : Int)
  | role (r : Nat)
  | group (i : Nat)
  /-- the writes on their way to registers and tables (R24) -/
  | unitWrites (l : List (Nat × List Byte))
  /-- the event log starts again (R554) -/
  | logClear

/-- Stores bytes from address `a`, keeping the canonical form. -/
def cellsPut : List Host.Cell → Nat → List Byte → List Host.Cell
  | m, _, [] => m
  | m, a, b :: r => cellsPut (sset memInit m a b) (a + 1) r

/-- Drops the cells of a range, so that it reads as before anything was written. -/
def cellsDrop (m : List Host.Cell) (a n : Nat) : List Host.Cell :=
  m.filter (fun c => !(decide (a ≤ c.1) && decide (c.1 < a + n)))

/-- Removes a range from the undefined ranges (start, end, number). -/
def undefDrop : List (Nat × Nat × Nat) → Nat → Nat → List (Nat × Nat × Nat)
  | [], _, _ => []
  | (lo, hi, i) :: r, a, n =>
    if a + n ≤ lo || hi ≤ a then (lo, hi, i) :: undefDrop r a n
    else
      let left := if lo < a then [(lo, a, i)] else []
      let right := if a + n < hi then [(a + n, hi, i)] else []
      left ++ right ++ undefDrop r a n

/-- Drops the members of a range from a set. -/
def setDrop (l : List Nat) (a n : Nat) : List Nat :=
  l.filter (fun k => !(decide (a ≤ k) && decide (k < a + n)))

/-- The default domain state: off. -/
def clustersDef : Nat → Cluster := fun _ => Cluster.reset
def diesDef : Nat → DieMem := fun _ => DieMem.reset
def stacksDef : Nat → Stack := fun _ => Stack.reset
def droversDef : Nat → Drover := fun _ => Drover.reset
def pipeDef : Nat → Pipe := fun _ => Pipe.reset
def sluiceDef : Nat → Sluice := fun _ => Sluice.reset
def mboxDef : Nat → Mailbox := fun _ => Mailbox.reset
def domDef : Nat → Dom := fun _ => Dom.offState
def sessionDef : Nat → Session := fun _ => Session.reset
def thermDef : Nat → DieTherm := fun _ => DieTherm.reset
/-- The identity repair map: logical cluster l of die d is physical l (key 160 × d + l). -/
def repairDef : Nat → Nat := fun k => k % 160

/-- Whether a DPA lies in stack n, under the span modes in the registers (R336). -/
def onStackNo (regs : List (Nat × W32)) (n a : Nat) : Bool :=
  decide (a < stackEnd) && (stackOf ((sget regReset regs (blockBase .span 20 0 + 4 * (a / 2 ^ 35))).toNat % 4) a).1 == n

/-- What is left of an undefined range when stack n reads 0 again: its 4 KiB pieces on other stacks. -/
def undefOff (regs : List (Nat × W32)) (n : Nat) (u : Nat × Nat × Nat) : List (Nat × Nat × Nat) :=
  ((List.range (u.2.1 / 4096 + 1 - u.1 / 4096)).map fun i =>
    (max u.1 ((u.1 / 4096 + i) * 4096), min u.2.1 ((u.1 / 4096 + i + 1) * 4096), u.2.2)).filter
      fun p => decide (p.1 < p.2.1) && !onStackNo regs n p.1

/-- The entries the event log keeps (R554). -/
def logCap : Nat := 32768

/-- The event log with one more entry: a full log loses its oldest (R554). -/
def logPush (l : List LogEntry) (e : LogEntry) : List LogEntry := if logCap ≤ l.length then (l ++ [e]).tail else l ++ [e]

/-- The management port's MAC address (R578). -/
def mgmtMac : List Byte := 0x02 :: (beBytes 48 Config.deviceId.toNat).take 5
/-- The management port's IPv4 address: MGMT_IPV4, 0 selects 169.254.0.(1 + GROUP_INDEX) (R531, R578). -/
def Dev.mgmtIpv4 (s : Dev) : Nat := let v := leAt s.aoc.manifest 12 4; if v = 0 then 0xA9FE0001 + s.groupIndex else v

/-- What goes out through `via`: a datagram of the management port carries the port's own MAC and IPv4 addresses. -/
def Dev.out (s : Dev) (via : Nat) (bytes : List Byte) : Sent :=
  ⟨via, bytes, if 65536 ≤ via && via < 131072 then mgmtMac ++ beBytes 4 s.mgmtIpv4 else []⟩

/-- The effect of one update. -/
def Dev.apply (s : Dev) : Upd → Dev
  | .time dt => { s with clock := s.clock + dt }
  | .fresh => { s with free := s.free + 1 }
  | .reg a v => { s with regs := sset regReset s.regs a (BitVec.ofNat 32 v) }
  | .mem a bs => { s with mem := cellsPut s.mem a bs, undef := undefDrop s.undef a bs.length }
  | .zero a n => { s with mem := cellsDrop s.mem a n, undef := undefDrop s.undef a n, bad := setDrop s.bad a n, oneBit := setDrop s.oneBit a n }
  | .undef a n => { s with mem := cellsDrop s.mem a n, undef := (a, a + n, s.free) :: undefDrop s.undef a n, free := s.free + 1 }
  | .bad a b => { s with bad := if b then nadd s.bad a else ndel s.bad a }
  | .oneBit a b => { s with oneBit := if b then nadd s.oneBit a else ndel s.oneBit a }
  | .cl k c => { s with clusters := sset clustersDef s.clusters k c }
  | .die d x => { s with dies := sset diesDef s.dies d x }
  | .stack n x => { s with stackTab := sset stacksDef s.stackTab n x }
  | .drover d x => { s with drovers := sset droversDef s.drovers d x }
  | .pipe n x => { s with pipes := sset pipeDef s.pipes n x }
  | .sluice n x => { s with sluices := sset sluiceDef s.sluices n x }
  | .mbox m x => { s with mailboxes := sset mboxDef s.mailboxes m x }
  | .dom k x => { s with doms := sset domDef s.doms k x }
  | .power x => { s with power := x }
  | .therm d x => { s with therm := sset thermDef s.therm d x }
  | .repair k v => { s with repair := sset repairDef s.repair k v }
  | .maps l => { s with repair := l.foldl (fun m x => sset repairDef m x.1 x.2) [] }
  | .log e => { s with log := logPush s.log e, logNext := s.logNext + 1 }
  | .rfaults l => { s with rfaults := l }
  | .session n x => { s with sessions := sset sessionDef s.sessions n x }
  | .send via bytes => { s with sent := s.sent ++ [s.out via bytes] }
  | .aoc x => { s with aoc := x }
  | .links x => { s with links := x }
  | .regDrop lo hi => { s with regs := s.regs.filter (fun r => !(decide (lo ≤ r.1) && decide (r.1 < hi))) }
  | .stackLost n => { s with
      mem := s.mem.filter (fun c => !onStackNo s.regs n c.1)
      undef := s.undef.flatMap (undefOff s.regs n)
      bad := s.bad.filter (fun a => !onStackNo s.regs n a)
      oneBit := s.oneBit.filter (fun a => !onStackNo s.regs n a) }
  | .timeOff x => { s with timeOff := x }
  | .role r => { s with role := r }
  | .group i => { s with groupIndex := i }
  | .unitWrites l => { s with unitWrites := l }
  | .logClear => { s with log := [], logNext := 0 }

/-- A command's effect: updates in sequence, each step free to look at the device as the earlier ones left it. -/
inductive Prog where
  | skip
  | upd (u : Upd)
  | seq (a b : Prog)
  | look (f : Dev → Prog)

/-- Runs a program on the device. -/
def Prog.run : Prog → Dev → Dev
  | .skip, s => s
  | .upd u, s => s.apply u
  | .seq a b, s => b.run (a.run s)
  | .look f, s => (f s).run s

/-- Looks at the device. -/
abbrev look (f : Dev → Prog) : Prog := .look f

/-- Programs one after the other. -/
def progs : List Prog → Prog
  | [] => .skip
  | p :: r => .seq p (progs r)

/-- Runs `p` only if `c` holds. -/
def only (c : Bool) (p : Prog) : Prog := if c then p else .skip

/-- Runs a program for each element, in order. -/
def forAll {α : Type} (l : List α) (f : α → Prog) : Prog := progs (l.map f)

/-- The cluster with key die × 168 + p. -/
def Dev.cl (s : Dev) (k : Nat) : Cluster := sget clustersDef s.clusters k
def Dev.die (s : Dev) (d : Nat) : DieMem := sget diesDef s.dies d
def Dev.stk (s : Dev) (n : Nat) : Stack := sget stacksDef s.stackTab n
def Dev.drv (s : Dev) (d : Nat) : Drover := sget droversDef s.drovers d
/-- Pipeline n of die d has number 8 d + n, sluice engine n 2 d + n. -/
def Dev.pipe (s : Dev) (n : Nat) : Pipe := sget pipeDef s.pipes n
def Dev.slu (s : Dev) (n : Nat) : Sluice := sget sluiceDef s.sluices n
def Dev.mb (s : Dev) (m : Nat) : Mailbox := sget mboxDef s.mailboxes m
def Dev.dom (s : Dev) (k : Nat) : Dom := sget domDef s.doms k
def Dev.ses (s : Dev) (n : Nat) : Session := sget sessionDef s.sessions n
def Dev.th (s : Dev) (d : Nat) : DieTherm := sget thermDef s.therm d

def onAoc (f : Aoc → Aoc) : Prog := look fun s => .upd (.aoc (f s.aoc))
def onLinks (f : Links → Links) : Prog := look fun s => .upd (.links (f s.links))

/-- Changes a cluster. -/
def onCl (k : Nat) (f : Cluster → Cluster) : Prog := look fun s => .upd (.cl k (f (s.cl k)))
def onDie (d : Nat) (f : DieMem → DieMem) : Prog := look fun s => .upd (.die d (f (s.die d)))
def onStack (n : Nat) (f : Stack → Stack) : Prog := look fun s => .upd (.stack n (f (s.stk n)))
def onDrv (d : Nat) (f : Drover → Drover) : Prog := look fun s => .upd (.drover d (f (s.drv d)))
def onPipe (n : Nat) (f : Pipe → Pipe) : Prog := look fun s => .upd (.pipe n (f (s.pipe n)))
def onSlu (n : Nat) (f : Sluice → Sluice) : Prog := look fun s => .upd (.sluice n (f (s.slu n)))
def onMb (m : Nat) (f : Mailbox → Mailbox) : Prog := look fun s => .upd (.mbox m (f (s.mb m)))
def onDom (k : Nat) (f : Dom → Dom) : Prog := look fun s => .upd (.dom k (f (s.dom k)))
def onPower (f : Power → Power) : Prog := look fun s => .upd (.power (f s.power))
def onTherm (d : Nat) (f : DieTherm → DieTherm) : Prog := look fun s => .upd (.therm d (f (s.th d)))

/-- Uses a fresh natural that the spec leaves open. -/
def withFree (f : Nat → Prog) : Prog := look fun s => .seq (.upd .fresh) (f (Config.freeNat s.free))

end Sys2Proof.Machine
end

