-- ==== Sys2Proof/Machine/Ops.lean ====
section
/-! DEFINITION. The named operations of the machine over registers, tallies, the event log, Bentin frames and memory. -/

namespace Sys2Proof.Machine

/-! ### Registers and tallies (R9 to R12) -/

/-- The stored word of the register at a DPA. -/
def Dev.regAt (s : Dev) (a : Nat) : Nat := (sget regReset s.regs a).toNat

/-- The stored word of a register named by block, die, index and offset. -/
def Dev.reg (s : Dev) (rb : RB) (d i off : Nat) : Nat := s.regAt (regAddr rb d i off)

/-- A field of a register. -/
def Dev.fld (s : Dev) (rb : RB) (d i off hi lo : Nat) : Nat := bits (s.reg rb d i off) hi lo

/-- Hardware sets a register's word. -/
def setReg (rb : RB) (d i off v : Nat) : Prog := .upd (.reg (regAddr rb d i off) v)

/-- Hardware sets a field of a register. -/
def setFld (rb : RB) (d i off hi lo v : Nat) : Prog :=
  look fun s => setReg rb d i off (setBits (s.reg rb d i off) hi lo v)

/-- A status register takes the record `v`; its OVERFLOW, bit 30, stands: only a 1 written to it clears it (R10, R12). -/
def holdRecord (rb : RB) (d i off v : Nat) : Prog :=
  look fun s => setReg rb d i off (v + bits (s.reg rb d i off) 30 30 * 2 ^ 30)

/-- Adds to a counter, which stops at 0xFFFF_FFFF. -/
def tally (rb : RB) (d i off n : Nat) : Prog :=
  if n = 0 then .skip else look fun s => setReg rb d i off (satAdd (s.reg rb d i off) n)

/-- Clears the counters at the given offsets. -/
def clearTallies (rb : RB) (d i : Nat) (offs : List Nat) : Prog :=
  forAll offs fun o => setReg rb d i o 0

/-- Offsets from `lo` to `hi` in steps of 4. -/
def offsets (lo hi : Nat) : List Nat := (List.range ((hi - lo) / 4 + 1)).map (fun i => lo + 4 * i)

/-! ### Time, the event log (R554) and frames to sessions (R447) -/

/-- Device time in ns (R35, R239). -/
def Dev.time (s : Dev) : Nat := ((s.clock : Int) + s.timeOff).toNat

/-- Core cycles at 1.6 GHz in a span of nanoseconds (R35). -/
def coreCycles (ns : Nat) : Nat := ns * 8 / 5

/-- A Bentin frame (R447): header with its CHECK, then the payload, padded with zeros to a multiple of 4. -/
def bentinFrame (type opcode device flags session reqId status seq : Nat) (payload : List Byte) : List Byte :=
  let len := roundUp (32 + payload.length) 4
  let body := payload ++ List.replicate (len - 32 - payload.length) 0
  let head := leBytes 1 1 ++ leBytes 1 type ++ leBytes 2 opcode ++ leBytes 4 len ++ leBytes 1 device ++ leBytes 1 flags
    ++ leBytes 2 session ++ leBytes 4 reqId ++ leBytes 1 status ++ leBytes 3 0 ++ leBytes 4 seq ++ leBytes 4 0
  head ++ leBytes 4 (crc32 (head ++ leBytes 4 0 ++ body)) ++ body

/-- Whether domain k of PWR_DOM is on. -/
def Dev.domOn (s : Dev) (k : Nat) : Bool := (s.dom k).st == .on

/-- Whether a queue pair can send: it is RTS and its sub-port is up (R415, R444). -/
def Dev.qpLinkUp (s : Dev) (g : Nat) : Bool :=
  let e := (sget (fun _ => Qp.reset) s.links.qps g).entry
  let p := leAt e 2 1 % 32
  leAt e 0 1 % 4 = 1 && s.domOn (96 + p / 3) && bitAt (s.reg .lnk (16 + p / 6) (p % 6) R.LNK_PORT_STATUS) (leAt e 2 1 / 32 % 4)

/-- The queue pair through which a member reaches its bridge, group device 0 (R531). -/
def bridgeQp : Nat := 16368
/-- The EVENT frames a member holds for its bridge (R451). -/
def eventCap : Nat := 256

/-- Sends a frame of a TYPE of R447. A member that has lost its bridge keeps COMPLETION frames, and EVENT frames as far as it has room (R451); a REPLY is
kept for a repeated request only (R449). -/
def deliver (src type : Nat) (b : List Byte) : Prog := look fun s =>
  if s.role = 2 && src = bridgeQp && !s.qpLinkUp bridgeQp then
    if type = 2 then .upd (.links { s.links with kept := s.links.kept ++ [b] })
    else if type = 3 then
      if (s.links.kept.filter fun f => leAt f 1 1 = 3).length < eventCap then .upd (.links { s.links with kept := s.links.kept ++ [b] })
      else tally .ld0 16 0 R.BENTIN_EVENT_DROP 1
    else .skip
  else .upd (.send src b)

/-- Sends a frame to an open session, counting its SEQ (R447). -/
def sendToSession (n type opcode reqId status : Nat) (payload : List Byte) : Prog := look fun s =>
  let x := s.ses n
  only x.isOpen (progs [
    deliver x.src type (bentinFrame type opcode s.groupIndex 0 n reqId status x.seq payload),
    .upd (.session n { x with seq := x.seq + 1 })])

/-- The 32 bytes of event-log entry number `seq` (R554). -/
def LogEntry.bytes (e : LogEntry) (seq : Nat) : List Byte :=
  leBytes 8 e.time ++ leBytes 4 seq ++ leBytes 1 e.cls ++ leBytes 1 e.source ++ leBytes 1 e.code ++ leBytes 1 e.cause
    ++ leBytes 1 e.die ++ leBytes 1 e.pcl ++ leBytes 1 e.lcl ++ leBytes 1 e.index ++ leBytes 2 e.tag ++ leBytes 2 e.queue
    ++ leBytes 8 e.data

/-- An entry that names no die, cluster, tag or queue. -/
def LogEntry.plain (cls source code cause : Nat) : LogEntry := ⟨0, cls, source, code, cause, 0xFF, 0xFF, 0xFF, 0, 0xFFFF, 0xFFFF, 0⟩

/-- Where dump offset `o` lies (R556). -/
def dumpAddr (o : Nat) : Nat := 0x017000000000 + o / 8192 * 0x20000 + o / 4096 % 2 * 0x1000 + o % 4096

/-- Adds a 32-byte entry to the trace ring, while TRACE holds resource 4 and S0 and S1 hold their contents (R483, R560); `none` is an entry whose content
the spec does not give. -/
def traceEntry (b : Option (List Byte)) : Prog := look fun s =>
  let a := dumpAddr (s.aoc.traceNext * 32 % 2 ^ 32)
  let held (n : Nat) : Bool := (s.dom (64 + n)).st == .on || (s.dom (64 + n)).st == .retain
  only (s.fld .res 20 0 (R.RES_CLAIM + 16) 7 0 = 6 && held 0 && held 1) (progs [
    match b with
    | some l => .upd (.mem a l)
    | none => .upd (.undef a 32),
    onAoc fun x => { x with traceNext := x.traceNext + 1 }])

/-- The trace entry of a dispatch or of a completion. -/
def traceCommand : Prog := traceEntry none

/-- Writes an entry to the event log (R554): a full log loses its oldest entry, counted in LOG_LOST, and an entry of class EVENT_MIN or
higher goes to every open session as an EVENT frame (R555). -/
def logE (e : LogEntry) : Prog := look fun s =>
  let e' := { e with time := s.time }
  let n := s.logNext
  progs [
    only (decide (logCap ≤ s.log.length)) (tally .rcv 20 0 R.LOG_LOST 1),
    .upd (.log e'),
    traceEntry (some (e'.bytes n)),
    only (decide (s.fld .rcv 20 0 R.RCV_CFG 18 16 ≤ e.cls)) (forAll s.sessions fun x =>
      sendToSession x.1 3 0x8000 0 0 (e'.bytes n))]

/-- The logical number of physical cluster p of die d (R6), 0xFF when none is mapped: the repair map's entry that names it. -/
def Dev.logicalOf (s : Dev) (d p : Nat) : Nat :=
  ((List.range 160).find? (fun l => sget repairDef s.repair (160 * d + l) == p)).getD 0xFF

/-- The physical number of logical cluster l of die d (R6). -/
def Dev.physOf (s : Dev) (d l : Nat) : Nat := sget repairDef s.repair (160 * d + l)

/-- A log entry about a unit of a cluster. -/
def Dev.clusterEntry (s : Dev) (cls source code cause d p index tag queue data : Nat) : LogEntry :=
  ⟨0, cls, source, code, cause, d, p, s.logicalOf d p, index, tag, queue, data⟩

/-! ### Where an access lands (R28, R338, R498) -/

/-- The key of a cluster. -/
def ck (d p : Nat) : Nat := d * 168 + p

/-- Whether a cluster's domain is on. -/
def Dev.clusterOn (s : Dev) (d p : Nat) : Bool := (s.dom (1000 + ck d p)).st == .on

/-- An access to the registers of a cluster: it changes nothing while the cluster is not on (R28). -/
def onCluster (k : Nat) (p : Prog) : Prog := look fun s => only (s.clusterOn (k / 168) (k % 168)) p

/-- The span mode register of a stack address (R336). -/
def Dev.spanMode (s : Dev) (a : Nat) : Nat := s.fld .span 20 0 (4 * (a / 2 ^ 35)) 1 0

/-- The stack that holds a stack DPA. -/
def Dev.stackNo (s : Dev) (a : Nat) : Nat := (stackOf (s.spanMode a) a).1

/-- What an access meets at a DPA: it proceeds, completes with BOUNDS (R28), or waits for a stack to wake (R498). -/
inductive Reach where
  | ok | bounds | wait
  deriving DecidableEq, Repr

/-- Whether the domain that holds a register block is on. -/
def Dev.blockOn (s : Dev) (rb : RB) (d i : Nat) : Bool :=
  match rb with
  | .tc | .sf | .cc | .be | .lk | .cs => s.clusterOn d i
  | .th => s.clusterOn d (i / 112)
  | .lock => if i < 10752 then s.clusterOn d (i / 64) else s.domOn (4 * d)
  | .fq | .drv | .q => s.domOn (4 * d)
  | .stk => s.domOn (64 + 2 * d + i)
  | .bv => s.domOn (4 * d + 1 + i / 4)
  | .bvg => s.domOn (4 * d)
  | .sl => s.domOn (4 * d + 3)
  | .lnk => s.domOn (96 + 2 * (d - 16) + i / 3)
  | _ => true

/-- The row of a stack that a stack-local address lies in: its four 256-byte blocks are those of one channel (R334, R339). -/
def rowOfLocal (l : Nat) : Nat := l / 2 ^ 15 * 32 + bits l 12 8

/-- Whether the row of a stack address is being spared, so that requests for it wait (R339). -/
def Dev.rowSparing (s : Dev) (a : Nat) : Bool :=
  let x := stackOf (s.spanMode a) a
  (s.stk x.1).sparing.contains (rowOfLocal x.2)

/-- R28, R338, R339, R498 for one address; a mailbox's send window takes nothing but a send (R479). -/
def Dev.reachAt (s : Dev) (a : Nat) : Reach :=
  match place a with
  | .stack =>
    if s.fld .span 20 0 (4 * (a / 2 ^ 35)) 4 4 = 1 then .bounds
    else match (s.dom (64 + s.stackNo a)).st with
      | .on => if s.rowSparing a then .wait else .ok
      | .off => .bounds
      | _ => .wait
  | .store d p _ => if s.clusterOn d p then .ok else .bounds
  | .reg rb d i off => if s.blockOn rb d i && !(rb == .mb && decide (off < 0x40)) then .ok else .bounds
  | .mram d _ => if d < 16 then (if s.domOn (4 * d) then .ok else .bounds) else .ok
  | .win .. => .ok
  | .none => .bounds

/-- The first address of each 256-byte block a range touches (its first address, then each block start). -/
def blockStarts (a n : Nat) : List Nat :=
  if n = 0 then []
  else a :: (List.range ((a + n - 1) / 256 - a / 256)).map (fun i => (a / 256 + 1 + i) * 256)

/-- R28 over a range: the first address that is not reachable, if any. -/
def Dev.reachRange (s : Dev) (a n : Nat) : Reach :=
  (blockStarts a n).foldl (fun r x => match r with | .ok => s.reachAt x | r => r) .ok

/-- The order number in R118 of what an access waits for that meets `Reach.wait` at a DPA: the weir's grant while the stack has none (R498), else memory: the
stack is on its way, or the row is being spared (R339). -/
def Dev.wakeCause (s : Dev) (a : Nat) : Nat :=
  let x := s.dom (64 + s.stackNo a)
  match x.st, x.tr with
  | .retain, _ => 2
  | .transition, some t => if t.up && t.granted then 4 else 2
  | _, _ => 4

/-- Wakes the stacks in RETAIN that a range touches: REQ becomes ON, and the domain goes to TRANSITION with its step (R496, R498). The
weir step itself is queued by the power operations; here the request is recorded. -/
def wantStacks (a n : Nat) : Prog := forAll (blockStarts a n) fun x => look fun s =>
  match place x with
  | .stack =>
    let k := 64 + s.stackNo x
    only ((s.dom k).st == .retain) (onDom k fun m => { m with req := 1 })
  | _ => .skip

/-! ### Memory contents and their check codes (R332, R335) -/

/-- The number of the undefined range an address lies in, if any. -/
def undefAt : List (Nat × Nat × Nat) → Nat → Option Nat
  | [], _ => none
  | (lo, hi, i) :: r, a => if lo ≤ a && a < hi then some i else undefAt r a

/-- The byte at a DPA, as an engine reads it (thread cores, barges and frames read registers through the bus): what was last written, 0 where nothing was (R333, R498, R517), a free value where the spec calls the
contents undefined or, in the MRAM, does not give them. -/
def Dev.byteAt (s : Dev) (a : Nat) : Byte :=
  match place a with
  | .reg .. => BitVec.ofNat 8 (s.regAt (a / 4 * 4) / 2 ^ (8 * (a % 4)))
  | _ =>
    match undefAt s.undef a with
    | some i => Config.freeByte i a
    | none => if mramOpen a then Config.freeByte 0 a else sget memInit s.mem a

/-- Whether a DPA lies in a stack or a store: memory that any unit writes. -/
def memPlace (a : Nat) : Bool :=
  match place a with
  | .stack | .store .. => true
  | _ => false

/-- Whether a DPA lies in a register or in a table of a link die. -/
def unitPlace (a : Nat) : Bool :=
  match place a with
  | .reg .. | .win .. => true
  | _ => false

/-- `n` bytes from a DPA. -/
def Dev.bytesAt (s : Dev) (a n : Nat) : List Byte := (List.range n).map (fun i => s.byteAt (a + i))

/-- The little-endian natural of `n` bytes at a DPA. -/
def Dev.natAt (s : Dev) (a n : Nat) : Nat := leNat (s.bytesAt a n)

/-- The size of the checked unit at a DPA: 64 bytes in a stack (R335), 8 in a store (R332). -/
def unitLen (a : Nat) : Nat := if a < stackEnd then 64 else 8

/-- The members of a set of checked units that a range touches. -/
def touched (l : List Nat) (a n : Nat) : List Nat :=
  l.filter (fun u => decide (u < a + n) && decide (a < u + unitLen u))

/-- Whether a read of a range is uncorrectable. -/
def Dev.readBad (s : Dev) (a n : Nat) : Bool := !(touched s.bad a n).isEmpty

/-! ### Rows and the field-repair list (R334, R339, R340, R344) -/

/-- Spare rows left in a bank: 16 until some are used. -/
def Stack.spares (x : Stack) (bank : Nat) : Nat := sget (fun _ => 16) x.spareFree bank

/-- CRC-8 with polynomial 0x07 (R344). -/
def crc8 (b : List Byte) : Nat :=
  b.foldl (fun c x => (List.range 8).foldl (fun c _ => if bitAt c 7 then (c * 2 % 256) ^^^ 0x07 else c * 2 % 256) (c ^^^ x.toNat)) 0

/-- The first DPA of a die's MRAM window (R343). -/
def mramAddr (d : Nat) : Nat := if d < 16 then regBase + d * 0x10000000 + 0x00400000 else regBase + 0x100000000 + (d - 16) * 0x10000000 + 0x00400000

/-- The DPA of a slot of the field-repair list of a stack (R343). -/
def repairAddr (n i : Nat) : Nat := mramAddr (n / 2) + 0x6000 + n % 2 * 4096 + 8 * i

/-- Whether a slot of the list reads as free: all zeros, or byte 6 or the CRC-8 does not match (R344). -/
def slotFree (b : List Byte) : Bool := b.getD 6 0 ≠ 0x5A || leAt b 7 1 ≠ crc8 (b.take 7)

/-- The first free slot of a stack's field-repair list. -/
def Dev.listSlot (s : Dev) (n : Nat) : Option Nat := (List.range 512).find? fun i => slotFree (s.bytesAt (repairAddr n i) 8)

/-- Whether a row can still be remapped (R340). -/
def Dev.canSpare (s : Dev) (n row : Nat) : Bool := (s.stk n).listUsed < 512 && (s.listSlot n).isSome && 0 < (s.stk n).spares (Config.rowBank n row)

/-- Adds a corrected error to a row's count; at ROW_CE_LIMIT the row is to be spared, as far as it can be (R339, R340). -/
def rowCe (n row : Nat) : Prog := look fun s =>
  let x := s.stk n
  let ce := sget (fun _ => 0) x.ceRows row + 1
  let limit := s.fld .stk (n / 2) (n % 2) R.STK_SCRUB_CTRL 12 9
  let full := limit ≠ 0 && decide (limit ≤ ce) && s.canSpare n row
  onStack n fun x => { x with
    ceRows := sput x.ceRows row ce
    sparing := if full then nadd x.sparing row else x.sparing }

/-- Counts a corrected unit (R332, R335, R339) and logs it as CORRECTED (R541). -/
def countCe (u : Nat) : Prog := look fun s =>
  match place u with
  | .store d p _ => progs [tally .cs d p R.CS_ECC_CE 1,
      logE { s.clusterEntry 1 0x05 0 0 d p 0 0xFFFF 0xFFFF u with index := 0 }]
  | _ =>
    let x := stackOf (s.spanMode u) u
    let n := x.1
    progs [tally .stk (n / 2) (n % 2) R.STK_ECC_CE 1,
      logE { LogEntry.plain 1 0x08 0 0 with die := n / 2, index := n, data := u },
      rowCe n (rowOfLocal x.2)]

/-- Counts an uncorrectable unit: CS_ECC_UE with CS_ECC_LAST (R332), or STK_ECC_UE (R335). -/
def countUe (u : Nat) : Prog := look fun s =>
  match place u with
  | .store d p off => progs [tally .cs d p R.CS_ECC_UE 1,
      only (s.fld .cs d p R.CS_ECC_LAST 31 31 = 0)
        (setReg .cs d p R.CS_ECC_LAST (2 ^ 31 + bits off 10 6 * 4096 + bits off 22 11))]
  | _ =>
    let n := s.stackNo u
    tally .stk (n / 2) (n % 2) R.STK_ECC_UE 1

/-- What a read does to the check codes: correctable errors are corrected, written back and counted; uncorrectable units are counted. -/
def readChecks (a n : Nat) : Prog := look fun s => progs [
  forAll (touched s.oneBit a n) fun u => progs [countCe u, .upd (.oneBit u false)],
  forAll (touched s.bad a n) countUe]

/-- The whole 256-byte blocks of a stack range, and the blocks it only touches. -/
def zcBlocks (a n : Nat) : List Nat := (blockStarts a n).map (· / 256)

/-- Non-zero 8-byte words of a 256-byte block (R342). -/
def nzWords (b : List Byte) : Nat :=
  ((List.range 32).filter (fun i => leAt b (8 * i) 8 ≠ 0)).length

/-- Bursts saved by a stored form (R342): of 8, those not needed. -/
def zcSaved (nz : Nat) : Nat := if nz = 0 then 8 else 8 - ceilDiv (4 + 8 * nz) 32

/-- A stack block's form after a write: stored RAW, or ZERO or SPARSE for a whole block under ZC (R342), counted in the stack's tallies. -/
def zcWrite (blk : Nat) (form : Option Nat) : Prog := look fun s =>
  let n := s.stackNo (blk * 256)
  match form with
  | none => only ((s.stk n).zc.any (fun z => z.1 == blk)) (onStack n fun x => { x with zc := sdel x.zc blk })
  | some nz =>
    if nz ≤ 23 then progs [
      onStack n fun x => { x with zc := sput x.zc blk nz },
      tally .stk (n / 2) (n % 2) R.STK_ZC_BLOCKS 1,
      tally .stk (n / 2) (n % 2) R.STK_ZC_ZERO (b2n (nz == 0)),
      tally .stk (n / 2) (n % 2) R.STK_ZC_SAVED (zcSaved nz)]
    else only ((s.stk n).zc.any (fun z => z.1 == blk)) (onStack n fun x => { x with zc := sdel x.zc blk })

/-- Bursts saved by reading compressed blocks (R342). -/
def zcRead (a n : Nat) : Prog := look fun s =>
  only (decide (a < stackEnd)) (forAll (zcBlocks a n) fun blk =>
    let k := s.stackNo (blk * 256)
    match (s.stk k).zc.find? (fun z => z.1 == blk) with
    | some z => tally .stk (k / 2) (k % 2) R.STK_ZC_SAVED (zcSaved z.2)
    | none => .skip)

/-- The compressed blocks of which a write of a stack covers only a part: they are read whole, merged and stored RAW (R342). -/
def Dev.zcMerged (s : Dev) (a n : Nat) : List Nat :=
  if a < stackEnd then
    (zcBlocks a n).filter fun b => !(decide (a ≤ b * 256) && decide (b * 256 + 256 ≤ a + n)) && (s.stk (s.stackNo (b * 256))).zc.any fun z => z.1 == b
  else []

/-- Stores bytes in a stack or store: a unit covered whole loses its errors; a unit covered in part is read and merged first, and stays
uncorrectable, counted, if that read is (R332, R335); so is every other unit of a compressed block that the write does not cover whole (R342, log 49).
`zc` marks the write for zero compression (R308, R342). Bytes for registers or tables go on their way there (R24). -/
def memWrite (a : Nat) (bs : List Byte) (zc : Bool) : Prog := look fun s =>
  let n := bs.length
  let whole (u : Nat) : Bool := decide (a ≤ u) && decide (u + unitLen u ≤ a + n)
  let merged := s.zcMerged a n
  let hit (l : List Nat) : List Nat := l.filter fun u => (decide (u < a + n) && decide (a < u + unitLen u)) || merged.contains (u / 256)
  progs [
    forAll merged fun b => zcRead (b * 256) 256,
    forAll (hit s.oneBit) fun u => progs [only (!whole u) (countCe u), .upd (.oneBit u false)],
    forAll (hit s.bad) fun u => if whole u then .upd (.bad u false) else countUe u,
    if memPlace a then .upd (.mem a bs) else only (unitPlace a) (.upd (.unitWrites (s.unitWrites ++ [(a, bs)]))),
    only (decide (a < stackEnd)) (forAll (zcBlocks a n) fun blk =>
      let full := decide (a ≤ blk * 256) && decide (blk * 256 + 256 ≤ a + n)
      zcWrite blk (if zc && full then some (nzWords ((bs.drop (blk * 256 - a)).take 256)) else none))]

/-- Reads a range of a stack or store for its effects on check codes and tallies; the value itself is `Dev.bytesAt`. -/
def memTouch (a n : Nat) : Prog := progs [readChecks a n, zcRead a n]

/-! ### Status codes (R16, R18) -/

/-- Whether a status says that the output is valid or written (R16, R18). -/
def statusGood (c : Nat) : Bool := c ≤ 0x03 || c = 0x21 || c = 0x50 || c = 0x51

/-- R18: `old` is what was gathered so far, in order of detection. -/
def statusJoin (old new : Nat) : Nat :=
  if !statusGood old then old
  else if !statusGood new then new
  else max old new

end Sys2Proof.Machine
end

