-- ==== Sys2Proof/Machine/Xlate.lean ====
section
/-! DEFINITION. Translation of virtual addresses (R33, R34, R345 to R350): the cluster and die caches, the start of a walk, the walk itself, and the fault queue. -/

namespace Sys2Proof.Machine

/-- The entry of a cache that covers a virtual address. -/
def tlbFind (l : List Tlb) (va : Nat) : Option Tlb :=
  l.find? (fun e => decide (e.va ≤ va) && decide (va < e.va + 2 ^ e.lg))

/-- The DPA an entry gives. -/
def Tlb.target (e : Tlb) (va : Nat) : Nat := e.dpa + (va - e.va)

/-- Access kinds of DMMU_FAULT_ADDR_HI.ACCESS (R355). -/
def accRead : Nat := 0
def accWrite : Nat := 1
def accFetch : Nat := 2
def accAtomic : Nat := 3

/-- Whether a leaf's permissions allow an access (R346). -/
def Tlb.allows (e : Tlb) (access : Nat) : Bool :=
  match access with
  | 0 => e.r
  | 1 => e.w
  | 2 => e.x
  | _ => e.r && e.w

/-- The level of a leaf by its page size (R345). -/
def levelOf (lg : Nat) : Nat := if lg = 30 then 1 else if lg = 21 then 2 else 3

/-- Drops the last entry that is not pinned, if the cache holds more than `cap` (R347). -/
def tlbTrim (cap : Nat) (l : List Tlb) : List Tlb :=
  if l.length ≤ cap then l
  else match (l.reverse.find? (fun e => e.pins == 0)) with
    | some e => (l.reverse.erase e).reverse
    | none => l.dropLast

/-- Fills a cache: an entry of the same page is replaced, the new one is the most recently used. -/
def tlbFill (cap : Nat) (l : List Tlb) (e : Tlb) : List Tlb :=
  tlbTrim cap (e :: l.filter (fun x => !(x.va == e.va && x.lg == e.lg)))

/-- Whether a cached page overlaps a virtual range. -/
def Tlb.overlaps (e : Tlb) (va n : Nat) : Bool := decide (e.va < va + n) && decide (va < e.va + 2 ^ e.lg)

/-- Whether an instruction pins the page of an entry: an operand of it lies there (R116, R349). -/
def Entry.pins (x : Entry) (e : Tlb) : Bool := x.pinned.any fun r => e.overlaps r.1 r.2

/-- Fills a cluster's cache (R347): instructions that have issued and use the page pin its new entry (R349). -/
def Cluster.fill (c : Cluster) (e : Tlb) : Cluster :=
  { c with tlb := tlbFill 256 c.tlb { e with pins := (c.entries.filter fun x => x.pins e).length, once := false } }

/-- Moves the entry of an address to the front: most recently used. -/
def tlbTouch (l : List Tlb) (va : Nat) : List Tlb :=
  match tlbFind l va with
  | some e => e :: l.erase e
  | none => l

/-- What translation gives for one address. -/
inductive Xl where
  /-- the cluster's cache (the die's, for a die unit) holds a leaf that allows the access -/
  | hit (dpa : Nat)
  /-- only the die's cache holds it -/
  | die (e : Tlb)
  /-- neither does: a walk is needed -/
  | miss
  /-- a cached leaf lacks the permission, or translation is off: cause and level of R355 -/
  | fault (cause level : Nat)
  /-- bits [63:48] are not all 0 (R257, R28) -/
  | bounds
  deriving DecidableEq, Repr

/-- Whether translation is enabled (R354). -/
def Dev.dmmuOn (s : Dev) : Bool := s.fld .dmmu 20 0 R.DMMU_ROOT_LO 0 0 = 1

/-- Translates for a unit of cluster p of die d, or of the die itself when `p` is 168. -/
def Dev.xlate (s : Dev) (d p va access : Nat) : Xl :=
  if 2 ^ 48 ≤ va then .bounds
  else if !s.dmmuOn then .fault 1 0
  else
    let own := if p < 168 then (s.cl (ck d p)).tlb else (s.die d).tlb
    match tlbFind own va with
    | some e => if e.allows access then .hit (e.target va) else .fault 3 (levelOf e.lg)
    | none =>
      if p < 168 then
        match tlbFind (s.die d).tlb va with
        | some e => .die e
        | none => .miss
      else .miss

/-- The 64 KiB pieces of a range: start and length of each. -/
def pagePieces (va n : Nat) : List (Nat × Nat) :=
  if n = 0 then []
  else
    let k := (va + n - 1) / 65536 - va / 65536
    (List.range (k + 1)).map fun i =>
      let lo := if i = 0 then va else (va / 65536 + i) * 65536
      let hi := if i = k then va + n else (va / 65536 + i + 1) * 65536
      (lo, hi - lo)

/-- An access a unit wants to make: virtual address, length, kind. -/
structure VAcc where
  va : Nat
  len : Nat
  access : Nat
  deriving DecidableEq, Repr

/-- The pieces of a list of accesses, with their kinds. -/
def vaPieces (l : List VAcc) : List VAcc :=
  l.flatMap fun a => (pagePieces a.va a.len).map fun q => ⟨q.1, q.2, a.access⟩

/-- Fills the cluster's cache from the die's for the pages that only the die holds (R347), counting DMMU_DIE_HITS. -/
def fillFromDie (d p : Nat) (l : List VAcc) : Prog := forAll (vaPieces l) fun a => look fun s =>
  match s.xlate d p a.va a.access with
  | .die e => progs [
      onCl (ck d p) fun c => c.fill e,
      onDie d fun m => { m with tlb := tlbTouch m.tlb a.va },
      tally .fq d 0 R.DMMU_DIE_HITS 1]
  | _ => .skip

/-- A die unit's lookups that hit the die cache are counted (R355). -/
def countDieHits (d : Nat) (l : List VAcc) : Prog := look fun s =>
  tally .fq d 0 R.DMMU_DIE_HITS ((vaPieces l).filter (fun a =>
    match s.xlate d 168 a.va a.access with | .hit _ => true | _ => false)).length

/-- What a list of accesses meets first, in order. -/
inductive Meets where
  /-- every page translates and every address is reachable -/
  | ok
  /-- a walk is needed, or a stack must wake, at this access -/
  | walk (a : VAcc)
  | wake (a : VAcc)
  | fault (a : VAcc) (cause level : Nat)
  | bounds (a : VAcc)
  deriving DecidableEq, Repr

/-- A write or an atomic meets BOUNDS in the MRAM window, which is read only (R343). -/
def Dev.reachFor (s : Dev) (a n access : Nat) : Reach :=
  if (access = 1 || access = 3) && (match place a with | .mram .. => true | _ => false) then .bounds else s.reachRange a n

/-- Looks at the pieces of accesses in order, each within one page. -/
def Dev.meetsPieces (s : Dev) (d p : Nat) : List VAcc → Meets
  | [] => .ok
  | a :: r =>
    match s.xlate d p a.va a.access with
    | .hit dpa =>
      match s.reachFor dpa a.len a.access with
      | .ok => s.meetsPieces d p r
      | .bounds => .bounds a
      | .wait => .wake a
    | .die _ => .walk a
    | .miss => .walk a
    | .fault c l => .fault a c l
    | .bounds => .bounds a

/-- Looks at accesses in order: every page they touch. -/
def Dev.meets (s : Dev) (d p : Nat) (l : List VAcc) : Meets := s.meetsPieces d p (vaPieces l)

/-- The DPA of a virtual address whose page is cached; 0 otherwise. -/
def Dev.dpaOf (s : Dev) (d p va : Nat) : Nat :=
  match s.xlate d p va 0 with
  | .hit a => a
  | _ =>
    let own := if p < 168 then (s.cl (ck d p)).tlb else (s.die d).tlb
    match tlbFind own va with
    | some e => e.target va
    | none => 0

/-- Reads `n` bytes at a virtual address, piece by piece of 64 KiB. -/
def Dev.vaBytes (s : Dev) (d p va n : Nat) : List Byte :=
  (pagePieces va n).flatMap fun q => s.bytesAt (s.dpaOf d p q.1) q.2

/-- Whether a virtual range reads uncorrectable. -/
def Dev.vaBad (s : Dev) (d p va n : Nat) : Bool :=
  (pagePieces va n).any fun q => s.readBad (s.dpaOf d p q.1) q.2

/-- The effects of reading a virtual range on check codes and tallies. -/
def vaTouch (d p va n : Nat) : Prog := look fun s =>
  forAll (pagePieces va n) fun q => memTouch (s.dpaOf d p q.1) q.2

/-- Writes bytes at a virtual address. -/
def vaWrite (d p va : Nat) (bs : List Byte) (zc : Bool) : Prog := look fun s =>
  forAll (pagePieces va bs.length) fun q => memWrite (s.dpaOf d p q.1) ((bs.drop (q.1 - va)).take q.2) zc

/-- Marks the pages of accesses as most recently used. -/
def touchPages (d p : Nat) (l : List VAcc) : Prog :=
  if p < 168 then onCl (ck d p) fun c => { c with tlb := (vaPieces l).foldl (fun t a => tlbTouch t a.va) c.tlb }
  else onDie d fun m => { m with tlb := (vaPieces l).foldl (fun t a => tlbTouch t a.va) m.tlb }

/-- Changes the cache that a unit of cluster p of die d looks in, that of the die when `p` is 168. -/
def onTlb (d p : Nat) (f : List Tlb → List Tlb) : Prog :=
  if p < 168 then onCl (ck d p) fun c => { c with tlb := f c.tlb } else onDie d fun m => { m with tlb := f m.tlb }

/-- For the time of one access the results that `mine` may use once stand before the cache (R353). -/
def lendOnce (d p : Nat) (mine : UnitRef → Bool) : Prog := look fun s =>
  only ((s.die d).once.any fun x => mine x.1) (onTlb d p fun t => ((s.die d).once.filter fun x => mine x.1).map (·.2) ++ t)

/-- After the access they stand there no more, and those that it used are gone: `l` is what it accessed, nothing if it came to nothing. -/
def returnOnce (d p : Nat) (mine : UnitRef → Bool) (l : List VAcc) : Prog := look fun s =>
  only ((s.die d).once.any fun x => mine x.1) (progs [
    onTlb d p fun t => t.filter fun e => !e.once,
    onDie d fun m => { m with once := m.once.filter fun x => !(mine x.1 && l.any fun a => x.2.overlaps a.va a.len) }])

/-- What accesses meet, with the results lent: on success `cont` runs over them, else `stop` takes what they met. -/
def useOnce (d p : Nat) (mine : UnitRef → Bool) (l : List VAcc) (cont : Prog) (stop : Meets → Prog) : Prog :=
  .seq (lendOnce d p mine) (look fun s =>
    match s.meets d p l with
    | .ok => progs [touchPages d p l, cont, returnOnce d p mine l]
    | m => .seq (returnOnce d p mine []) (stop m))

/-- The device as a unit's access finds it, what it may use once before the cache. -/
def Dev.lent (s : Dev) (d p : Nat) (mine : UnitRef → Bool) : Dev := (lendOnce d p mine).run s

/-- Starts a walk for a unit (R347): at most 16 are in flight, and one unit walks for one page once. -/
def startWalk (d : Nat) (u : UnitRef) (tag queue : Nat) (a : VAcc) (demand : Bool) : Prog := look fun s =>
  let m := s.die d
  if m.walks.any (fun w => w.unit == u && w.va / 65536 == a.va / 65536) then .skip
  else if m.walks.length < 16 then progs [
    onDie d fun m => { m with walks := m.walks ++ [⟨u, tag, queue, a.va, a.access, demand, false⟩] },
    tally .fq d 0 R.DMMU_WALKS 1]
  else .skip

/-- The outcome of a page walk (R346). -/
inductive WalkOut where
  | leaf (e : Tlb)
  | fault (cause level : Nat)
  | bounds
  deriving DecidableEq, Repr

/-- Whether an address lies in a populated range of R27. -/
def populated (a : Nat) : Bool :=
  decide (a < stackEnd) || (decide (storeBase ≤ a) && decide (a < storeBase + 0x1000000000))
    || (decide (regBase ≤ a) && decide (a < regBase + 0x140000000)) || (decide (aocBase ≤ a) && decide (a < aocBase + 0x100000000))

/-- R345, R346: the walk from level `lvl` with the table at `tbl`; `fuel` bounds the four levels. -/
def Dev.walkFrom (s : Dev) (va access : Nat) : Nat → Nat → Nat → WalkOut
  | 0, lvl, _ => .fault 2 lvl
  | fuel + 1, lvl, tbl =>
    let lg := if lvl = 0 then 39 else if lvl = 1 then 30 else if lvl = 2 then 21 else 16
    let idx := if lvl = 3 then bits va 20 16 else bits va (lg + 8) lg
    let ea := tbl + 8 * idx
    if s.reachAt ea ≠ .ok then .bounds
    else if s.readBad ea 8 then .fault 4 lvl
    else
      let e := s.natAt ea 8
      let isLeaf := bitAt e 1
      let dpa := bits e 45 8 * 256
      if !bitAt e 0 then .fault 1 lvl
      else if bits e 7 5 ≠ 0 || bits e 63 46 ≠ 0 then .fault 2 lvl
      else if isLeaf then
        if lvl = 0 then .fault 2 lvl
        else if dpa % 2 ^ lg ≠ 0 || !populated dpa then .fault 2 lvl
        else
          let t : Tlb := ⟨va / 2 ^ lg * 2 ^ lg, lg, dpa, bitAt e 2, bitAt e 3, bitAt e 4, 0, false⟩
          if t.allows access then .leaf t else .fault 3 lvl
      else if lvl = 3 then .fault 2 lvl
      else
        let size := if lvl = 2 then 256 else 4096
        if dpa % size ≠ 0 || decide (stackEnd ≤ dpa) then .fault 2 lvl
        else s.walkFrom va access fuel (lvl + 1) dpa

/-- R345: the walk of an address from DMMU_ROOT. -/
def Dev.walk (s : Dev) (va access : Nat) : WalkOut :=
  let root := s.fld .dmmu 20 0 R.DMMU_ROOT_LO 31 12 * 4096 + s.fld .dmmu 20 0 R.DMMU_ROOT_HI 13 0 * 2 ^ 32
  s.walkFrom va access 4 0 root

/-- The table entries a walk reads, for their corrected errors: it stops where `walkFrom` does. -/
def Dev.walkReads (s : Dev) (va : Nat) : Nat → Nat → Nat → List Nat
  | 0, _, _ => []
  | fuel + 1, lvl, tbl =>
    let lg := if lvl = 0 then 39 else if lvl = 1 then 30 else if lvl = 2 then 21 else 16
    let idx := if lvl = 3 then bits va 20 16 else bits va (lg + 8) lg
    let ea := tbl + 8 * idx
    let e := s.natAt ea 8
    let dpa := bits e 45 8 * 256
    if s.reachAt ea == .bounds then []
    else if !s.readBad ea 8 && bitAt e 0 && !bitAt e 1 && bits e 7 5 = 0 && bits e 63 46 = 0 && lvl ≠ 3
        && dpa % (if lvl = 2 then 256 else 4096) = 0 && decide (dpa < stackEnd) then ea :: s.walkReads va fuel (lvl + 1) dpa
    else [ea]

/-- Posts a fault record (R350), or holds it back while the queue is full or earlier records are held back. -/
def postFault (d : Nat) (r : FaultRec) : Prog := look fun s =>
  if (s.die d).fq.length < 64 && (s.die d).backlog.isEmpty then progs [
    onDie d fun m => { m with fq := m.fq ++ [r] },
    tally .fq d 0 R.DMMU_FAULTS 1]
  else onDie d fun m => { m with backlog := m.backlog ++ [r] }

/-- The status of a fault cause (R346). -/
def faultStatus (cause : Nat) : Nat := if cause = 3 then 0x11 else if cause = 4 then 0x20 else 0x10

/-- Withdraws the records of a unit's work (R352). -/
def withdraw (d : Nat) (f : FaultRec → Bool) : Prog :=
  onDie d fun m =>
    let mark (r : FaultRec) : FaultRec := if f r then { r with withdrawn := true } else r
    { m with fq := m.fq.map mark, backlog := m.backlog.filter (fun r => !f r) }

/-- Stops the walks of a unit's work that has ended. -/
def dropWalks (d : Nat) (f : UnitRef → Bool) : Prog :=
  onDie d fun m => { m with walks := m.walks.filter (fun w => !f w.unit), once := m.once.filter fun x => !f x.1 }

/-- Whether the shepherd cores receive the interrupt of the fault queues: one of them is not empty (R350). -/
def Dev.shepherdIrq (s : Dev) : Bool :=
  s.dies.any (fun d => !d.2.fq.isEmpty) || s.mailboxes.any fun x => x.2.full && s.fld .mb 20 x.1 R.MB_CFG 1 0 = 1

end Sys2Proof.Machine
end

