-- ==== Sys2Proof/Machine/Memory.lean ====
section
/-! DEFINITION. The logic dies of the stacks (R334 to R342), the MRAM (R343, R344), span modes (R336 to R338), and the root and invalidation registers (R349, R353, R354). -/

namespace Sys2Proof.Machine

/-! ### Rows (R334, R339, R340) -/

/-- The DPA of a stack-local address under its span's mode: the inverse of R336. -/
def Dev.dpaOfLocal (s : Dev) (n l : Nat) : Nat :=
  let g := l / 2 ^ 30
  let m := s.fld .span 20 0 (4 * g) 1 0
  let base := g * 2 ^ 35
  if m = 1 then base + n / 2 * 2 ^ 31 + bits l 29 12 * 2 ^ 13 + n % 2 * 2 ^ 12 + bits l 11 0
  else if m = 2 then base + n * 2 ^ 30 + bits l 29 0
  else base + bits l 29 12 * 2 ^ 17 + n * 2 ^ 12 + bits l 11 0

/-- The DPAs of the four 256-byte blocks of a row. -/
def Dev.rowBlocks (s : Dev) (n row : Nat) : List Nat :=
  (List.range 4).map fun i => s.dpaOfLocal n (row / 32 * 2 ^ 15 + i * 2 ^ 13 + row % 32 * 2 ^ 8)

/-- Rows of a stack: 48 GiB of 1 KiB rows. -/
def stackRows : Nat := 48 * 2 ^ 20

/-- Remaps a row to a spare row of its bank and records it in the first free slot of the field-repair list (R339, R340, R344): bytes 0 to 5 of the entry are
internal to the stepping. The log names the stack, and in DATA the row, bank and DRAM die (log 41). -/
def spareRow (n row : Nat) : Prog := look fun s =>
  let bank := Config.rowBank n row
  let at_ := repairAddr n ((s.listSlot n).getD 0)
  let e := (List.range 6).map (fun i => Config.freeByte s.free i) ++ [BitVec.ofNat 8 0x5A]
  progs [
    .upd .fresh,
    .upd (.mem at_ (e ++ leBytes 1 (crc8 e))),
    forAll (s.rowBlocks n row) fun b => forAll (touched s.oneBit b 256) fun u => .upd (.oneBit u false),
    onStack n fun x => { x with
      spared := nadd x.spared row
      sparing := ndel x.sparing row
      ceRows := sdel x.ceRows row
      listUsed := x.listUsed + 1
      spareFree := sput x.spareFree bank (x.spares bank - 1) },
    tally .stk (n / 2) (n % 2) R.STK_SPARED_ROWS 1,
    logE { LogEntry.plain 2 0x08 0 0 with die := n / 2, index := n, data := row + bank % 2 ^ 16 * 2 ^ 32 + Config.rowDie n row % 2 ^ 16 * 2 ^ 48 }]

/-- A row that fails a write with no remap left (R340): the log gives the DPA ranges of its blocks. -/
def spareOut (n row : Nat) : Prog := look fun s => progs [
  onStack n fun x => { x with sparesOut := true },
  setFld .stk (n / 2) (n % 2) R.STK_STATUS 12 12 1,
  forAll (s.rowBlocks n row) fun b => logE { LogEntry.plain 3 0x08 0x20 0 with die := n / 2, index := n, data := b }]

/-- SCRUB_READ (R339): one row's patrol read. The counts of corrected errors start again with the period, that is with the first row. -/
def scrubReadProg (n row : Nat) : Prog := look fun s =>
  let d := n / 2
  let j := n % 2
  if s.domOn (64 + n) && s.fld .stk d j R.STK_SCRUB_CTRL 8 8 = 1 && row < stackRows then
    let blocks := s.rowBlocks n row
    progs [
      only (row = 0) (onStack n fun x => { x with ceRows := [] }),
      forAll blocks fun b => readChecks b 256]
  else .skip

/-- PATROL_ROW_SPARE (R339): the copy to a spare row is done, and requests for the row go on. -/
def patrolRowSpareProg (n row : Nat) : Prog := look fun s =>
  only (s.domOn (64 + n) && (s.stk n).sparing.contains row)
    (if s.canSpare n row then spareRow n row else onStack n fun x => { x with sparing := ndel x.sparing row })

/-- The refresh interval of a temperature (R341), with 2 °C of hysteresis on the way down: 0, 1 or 2 for 32, 16 or 8 ms. -/
def refreshFor (now temp : Nat) : Nat :=
  let up := if 95 < temp then 2 else if 85 ≤ temp then 1 else 0
  if now ≤ up then up
  else if now = 2 && 93 < temp then 2
  else if 83 ≤ temp then 1 else 0

/-- REFRESH_INTERVAL_CHANGE (R341): at a refresh boundary. -/
def refreshIntervalChangeProg (n : Nat) : Prog := look fun s =>
  only (s.domOn (64 + n) && (s.stk n).refresh ≠ (s.stk n).refreshNext) (progs [
    onStack n fun x => { x with refresh := x.refreshNext },
    setFld .stk (n / 2) (n % 2) R.STK_STATUS 9 8 (s.stk n).refreshNext])

def stkTallyClearProg (n : Nat) : Prog := look fun s =>
  only (s.domOn (64 + n)) (clearTallies .stk (n / 2) (n % 2) (offsets 0x100 0x118))

def csTallyClearProg (d p : Nat) : Prog := look fun s => only (s.clusterOn d p) (clearTallies .cs d p [R.CS_ECC_CE, R.CS_ECC_UE])

/-! ### Span modes (R337, R338, R354) -/

/-- The contents of a span become undefined (R338). -/
def undefSpan (g : Nat) : Prog := look fun s => progs [
  forAll (touched s.bad (g * 2 ^ 35) (2 ^ 35)) fun u => .upd (.bad u false),
  forAll (touched s.oneBit (g * 2 ^ 35) (2 ^ 35)) fun u => .upd (.oneBit u false),
  forAll s.stackTab fun x => onStack x.1 fun y => { y with zc := y.zc.filter fun z => z.1 * 256 / 2 ^ 35 ≠ g },
  .upd (.undef (g * 2 ^ 35) (2 ^ 35))]

/-- A write of MEM_SPAN_MODE[g]. -/
def spanModeWrite (g v : Nat) : Prog := look fun s =>
  let o := s.reg .span 20 0 (4 * g)
  let err := bitAt o 6 && !bitAt v 6
  let closed := bitAt v 4
  let mode := bits v 1 0
  let now := bits o 1 0
  let put (err drained closed : Bool) (mode : Nat) : Prog :=
    setReg .span 20 0 (4 * g) (b2n err * 64 + b2n drained * 32 + b2n closed * 16 + mode)
  if 46 ≤ g then
    if mode ≠ now || closed != bitAt o 4 then put true (bitAt o 5) (bitAt o 4) now else put err (bitAt o 5) (bitAt o 4) now
  else
    let drained := bitAt o 5 && closed
    if mode = now then put err drained closed now
    else if bitAt o 5 && mode ≤ 2 then progs [undefSpan g, put err drained closed mode]
    else put true drained closed now

/-- MEM_SPAN_MODE_WRITE. -/
def memSpanModeWriteProg (g v : Nat) : Prog := spanModeWrite g v

/-- SPAN_DRAINED (R338): no access issued before CLOSED is still outstanding; the requests of barges are the accesses that take more than
one step. -/
def spanDrainedProg (g : Nat) : Prog := look fun s =>
  let lies (a : Nat) : Bool := a / 2 ^ 35 == g
  let busy := s.clusters.any fun c => c.2.barges.any fun b => b.out.any fun r => lies r.src || lies r.dstDpa
  only (s.fld .span 20 0 (4 * g) 4 4 = 1 && !busy) (setFld .span 20 0 (4 * g) 5 5 1)

/-! ### DMMU root and invalidation (R349, R353, R354) -/

/-- A write of DMMU_ROOT_LO: while EN is 1 one that changes ROOT is ignored and sets ERR (R353). -/
def dmmuRootLoWrite (v : Nat) : Prog := look fun s =>
  let o := s.reg .dmmu 20 0 R.DMMU_ROOT_LO
  if bitAt o 0 && bits v 31 12 ≠ bits o 31 12 then setReg .dmmu 20 0 R.DMMU_ROOT_LO (setBits o 1 1 1)
  else setReg .dmmu 20 0 R.DMMU_ROOT_LO (bits v 31 12 * 4096 + b2n (bitAt o 1 && !bitAt v 1) * 2 + v % 2)

def dmmuRootHiWrite (v : Nat) : Prog := look fun s =>
  let o := s.reg .dmmu 20 0 R.DMMU_ROOT_HI
  if s.dmmuOn && bits v 13 0 ≠ bits o 13 0 then setFld .dmmu 20 0 R.DMMU_ROOT_LO 1 1 1
  else setReg .dmmu 20 0 R.DMMU_ROOT_HI (bits v 13 0)

/-- DMMU_ROOT_WRITE: of the low or the high word. -/
def dmmuRootWriteProg (high : Bool) (v : Nat) : Prog := if high then dmmuRootHiWrite v else dmmuRootLoWrite v

/-- GO (R349): every cache drops the entries that overlap the range, pinned ones included; the walks in flight are to be used once. -/
def invalidate : Prog := look fun s =>
  let va := s.reg .dmmu 20 0 R.DMMU_INV_ADDR_LO / 65536 * 65536 + s.fld .dmmu 20 0 R.DMMU_INV_ADDR_HI 15 0 * 2 ^ 32
  let n := s.reg .dmmu 20 0 R.DMMU_INV_PAGES * 65536
  progs [
    forAll s.clusters fun c => onCl c.1 fun c => { c with tlb := c.tlb.filter fun e => !(n = 0 || e.overlaps va n) },
    forAll s.dies fun d => onDie d.1 fun m => { m with
      tlb := m.tlb.filter fun e => !(n = 0 || e.overlaps va n)
      walks := m.walks.map fun w => { w with stale := true } },
    setFld .dmmu 20 0 R.DMMU_INV_CTRL 31 31 1]

/-- A write of DMMU_INV_CTRL. -/
def dmmuInvWrite (v : Nat) : Prog := look fun s =>
  let o := s.reg .dmmu 20 0 R.DMMU_INV_CTRL
  let o' := o - (b2n (bitAt o 30 && bitAt v 30) * 2 ^ 30) - (b2n (bitAt o 29 && bitAt v 29) * 2 ^ 29)
  .seq (setReg .dmmu 20 0 R.DMMU_INV_CTRL o')
    (only (bitAt v 0) (if bitAt o 31 then setFld .dmmu 20 0 R.DMMU_INV_CTRL 29 29 1 else invalidate))

/-- DMMU_INVALIDATE: GO is written. -/
def dmmuInvalidateProg : Prog := dmmuInvWrite 1

/-- DMMU_INVALIDATE_DONE (R349): every walk started before GO has finished. A result of one that its unit has not used by then is not used at all (log 50). -/
def dmmuInvalidateDoneProg : Prog := look fun s =>
  only (s.fld .dmmu 20 0 R.DMMU_INV_CTRL 31 31 = 1 && !s.dies.any (fun d => d.2.walks.any (·.stale)))
    (progs [setFld .dmmu 20 0 R.DMMU_INV_CTRL 31 31 0, setFld .dmmu 20 0 R.DMMU_INV_CTRL 30 30 1,
      forAll (s.dies.filter fun d => !d.2.once.isEmpty) fun d => onDie d.1 fun m => { m with once := [] }])

def dmmuTallyClearProg (d : Nat) : Prog := look fun s => only (s.domOn (4 * d)) (clearTallies .fq d 0 (offsets 0x100 0x10C))

/-- FAULT_BACKLOG_POST (R350): a record held back takes a place that has become free. -/
def faultBacklogPostProg (d : Nat) : Prog := look fun s =>
  let m := s.die d
  match m.backlog with
  | r :: rest => only (m.fq.length < 64) (progs [
      onDie d fun m => { m with fq := m.fq ++ [r], backlog := rest },
      tally .fq d 0 R.DMMU_FAULTS 1])
  | [] => .skip

end Sys2Proof.Machine
end

