-- ==== Sys2Proof/Machine/Locks.lean ====
section
/-! DEFINITION. Locks and the pool (R309 to R315, R317, R327 to R329, R546) and the triggers their commits raise (R462). -/

namespace Sys2Proof.Machine

/-- A lock of a cluster, and a lock of a die. -/
def clLock (k n : Nat) : LockId := ⟨false, k, n⟩
def dieLock (d n : Nat) : LockId := ⟨true, d, n⟩

/-- The die of a lock and the index of its register block (R327). -/
def LockId.dieOf (l : LockId) : Nat := if l.die then l.at_ else l.at_ / 168
def LockId.idx (l : LockId) : Nat := if l.die then 10752 + l.n else l.at_ % 168 * 64 + l.n

/-- The lock of a register block index. -/
def lockOf (d i : Nat) : LockId := if i < 10752 then clLock (ck d (i / 64)) (i % 64) else dieLock d (i - 10752)

/-- The stored word of a lock's register. -/
def Dev.lockReg (s : Dev) (l : LockId) (off : Nat) : Nat := s.reg .lock l.dieOf l.idx off

def Dev.lock (s : Dev) (l : LockId) : Lock :=
  if l.die then sget (fun _ => Lock.reset) (s.die l.at_).locks l.n else sget (fun _ => Lock.reset) (s.cl l.at_).locks l.n

/-- Changes a lock's dynamic state. -/
def onLock (l : LockId) (f : Lock → Lock) : Prog := look fun s =>
  let x := f (s.lock l)
  if l.die then onDie l.at_ fun m => { m with locks := sset (fun _ => Lock.reset) m.locks l.n x }
  else onCl l.at_ fun c => { c with locks := sset (fun _ => Lock.reset) c.locks l.n x }

/-- Whether the domain that holds a lock is on, and the lock is enabled. -/
def Dev.lockOn (s : Dev) (l : LockId) : Bool :=
  (if l.die then s.domOn (4 * l.at_) else s.clusterOn (l.at_ / 168) (l.at_ % 168)) && s.lockReg l R.LK_CFG % 2 = 1

/-- Consumer slots of a lock (CONS + 1). -/
def Dev.lockCons (s : Dev) (l : LockId) : Nat := bits (s.lockReg l R.LK_CFG) 4 2 + 1
/-- KIND: true for RING. -/
def Dev.lockRing (s : Dev) (l : LockId) : Bool := bitAt (s.lockReg l R.LK_CFG) 1
def Dev.lockVbase (s : Dev) (l : LockId) : Nat := s.lockReg l R.LK_VBASE_LO + bits (s.lockReg l R.LK_VBASE_HI) 15 0 * 2 ^ 32
/-- SLOTS of a ring, CAP of a pool lock. -/
def Dev.lockSlots (s : Dev) (l : LockId) : Nat := bits (s.lockReg l R.LK_LIMITS) 15 0
/-- FLOOR of a pool lock; a ring's floor is its whole ring (R314). -/
def Dev.lockFloor (s : Dev) (l : LockId) : Nat :=
  if s.lockRing l then s.lockSlots l else bits (s.lockReg l R.LK_LIMITS) 31 16

/-- The pool of a cluster store: base offset, block size in bytes, block count (R328). -/
def Dev.poolBase (s : Dev) (k : Nat) : Nat := s.fld .lk (k / 168) (k % 168) R.CS_POOL_CFG 25 3
def Dev.poolBlock (s : Dev) (k : Nat) : Nat := 1024 * 2 ^ s.fld .lk (k / 168) (k % 168) R.CS_POOL_CFG 2 0
def Dev.poolBlocks (s : Dev) (k : Nat) : Nat := s.fld .lk (k / 168) (k % 168) R.CS_POOL_BLOCKS 13 0

/-- The bytes of a block of a lock. -/
def Dev.lockBlockLen (s : Dev) (l : LockId) : Nat :=
  if s.lockRing l then bits (s.lockReg l R.LK_SIZE) 19 0 * 64 else s.poolBlock l.at_

/-- The virtual address of a block: its ring index, or its pool offset (R313). -/
def Dev.blockVa (s : Dev) (l : LockId) (idx : Nat) : Nat :=
  if s.lockRing l then s.lockVbase l + idx * s.lockBlockLen l else s.lockVbase l + idx

/-- R309: the lock a handle names for a unit of cluster p of die d; none when the handle is malformed. -/
def Dev.handleLock (s : Dev) (d p h : Nat) : Option LockId :=
  match bits h 15 14 with
  | 0 => if bits h 13 6 = 0 then some (clLock (ck d p) (bits h 5 0)) else none
  | 1 => some (dieLock (bits h 13 10) (bits h 9 0))
  | 2 => if bits h 13 6 < 160 then some (clLock (ck d (s.physOf d (bits h 13 6))) (bits h 5 0)) else none
  | _ => none

/-- The enabled pool locks of a store. -/
def Dev.poolLocks (s : Dev) (k : Nat) : List LockId :=
  ((List.range 64).map (clLock k)).filter fun l => s.lockOn l && !s.lockRing l

/-- The sum of the floors of the enabled pool locks (CS_POOL_STATE.RESERVED). -/
def Dev.poolReserved (s : Dev) (k : Nat) : Nat := ((s.poolLocks k).map s.lockFloor).foldl (· + ·) 0

/-- R313: the pool's unreserved free count. -/
def Dev.poolFree (s : Dev) (k : Nat) : Nat :=
  s.poolBlocks k - s.poolReserved k
    - ((s.poolLocks k).map (fun l => (s.lock l).blks.length - s.lockFloor l)).foldl (· + ·) 0

/-- The free pool block of lowest store offset (R313). -/
def Dev.poolLowest (s : Dev) (k : Nat) : Option Nat :=
  let used := (s.poolLocks k).flatMap fun l => (s.lock l).blks.map (·.idx)
  ((List.range (s.poolBlocks k)).map fun i => s.poolBase k + i * s.poolBlock k).find? fun o => !used.contains o

/-- Whether a producer of the lock can be granted a block now, and which (R311, R313). -/
def Dev.canProduce (s : Dev) (l : LockId) : Option Nat :=
  let x := s.lock l
  if s.lockRing l then
    if x.blks.length < s.lockSlots l && !x.blks.any (fun b => b.idx == x.nextIdx) then some x.nextIdx else none
  else if x.blks.length < s.lockFloor l then s.poolLowest l.at_
  else if x.blks.length < s.lockSlots l && 0 < s.poolFree l.at_ then s.poolLowest l.at_
  else none

/-- A block that a command's replay is to be given again, the first in order of taking (R546). -/
def Lock.againBlk (x : Lock) (cmd : Nat) : Option LockBlk := x.blks.find? fun b => b.again == cmd + 1

/-- Takes a block as producer for a command: it becomes PRODUCING. -/
def takeBlock (l : LockId) (idx cmd : Nat) : Prog := look fun s =>
  let ring := s.lockRing l
  let slots := s.lockSlots l
  onLock l fun x => { x with
    blks := x.blks ++ [⟨x.seq, idx, false, cmd, 0, 0, [], 0, [], 0⟩]
    seq := x.seq + 1
    nextIdx := if ring then (idx + 1) % max 1 slots else x.nextIdx
    producer := cmd }

/-- A mask with the low `n` bits set. -/
def allSlots (n : Nat) : Nat := 2 ^ n - 1

/-- Whether a block is to be freed: FILLED, released by every slot, under no hold (R311, R312, R546). -/
def LockBlk.done (b : LockBlk) (cons : Nat) : Bool :=
  b.filled && (b.released &&& allSlots cons) == allSlots cons && b.holds == 0 && b.keep.isEmpty && b.again == 0

/-- Frees the blocks of a lock that are done. -/
def freeDone (l : LockId) : Prog := look fun s =>
  let c := s.lockCons l
  only ((s.lock l).blks.any (fun b => b.done c)) (onLock l fun x => { x with blks := x.blks.filter fun b => !b.done c })

/-- Changes the block with a sequence number. -/
def onBlk (l : LockId) (seq : Nat) (f : LockBlk → LockBlk) : Prog :=
  onLock l fun x => { x with blks := x.blks.map fun b => if b.seq == seq then f b else b }

/-- The slots through which barges hold a block of a lock: a mask. -/
def Dev.bargeSlots (s : Dev) (l : LockId) (seq : Nat) : Nat :=
  (s.clusters.flatMap fun c => (c.2.barges.filter fun b => b.src == some (l, seq)).map fun b => bits (leAt b.desc 0 8) 15 13).foldl (fun m i => m ||| 2 ^ i) 0

/-- Releases every filled block for the slots in DRAIN (R317), but a block that a barge holds for the barge's slot: it is released at the barge's end (R322). -/
def drainSlots (l : LockId) : Prog := look fun s =>
  let x := s.lock l
  let out (b : LockBlk) : Nat := x.drain - (x.drain &&& s.bargeSlots l b.seq)
  only (x.drain ≠ 0) (progs [
    onLock l fun x => { x with blks := x.blks.map fun b =>
      if b.filled then { b with taken := b.taken ||| out b, released := b.released ||| out b } else b },
    freeDone l])

/-- Queues of a die whose Q_TRIG names a lock (R462): the local queue numbers. -/
def Dev.trigQueues (s : Dev) (l : LockId) : List (Nat × Nat) :=
  s.regs.filterMap fun r =>
    match place r.1 with
    | .reg .q d i 0x30 =>
      let v := r.2.toNat
      if bitAt v 16 && d == l.dieOf && s.handleLock d 168 (bits v 15 0) == some l then some (d, i) else none
    | _ => none

/-- A commit into a lock triggers the queues that name it: TRIG_PENDING stops at 255, a trigger beyond it is lost and counted. -/
def raiseTriggers (l : LockId) : Prog := look fun s =>
  forAll (s.trigQueues l) fun q => look fun s =>
    let x := sget (fun _ => Queue.reset) (s.drv q.1).queues q.2
    if x.trig < 255 then
      onDrv q.1 fun v => { v with queues := sset (fun _ => Queue.reset) v.queues q.2 { x with trig := x.trig + 1 } }
    else tally .drv q.1 0 R.DRV_TRIG_OVERFLOW 1

/-- Commits a PRODUCING block: it becomes FILLED, at once released for the slots in DRAIN (R311, R317). The commit of a block that a
replay was given again changes no state of the block (R546). -/
def commitBlk (l : LockId) (seq : Nat) : Prog := look fun s =>
  match (s.lock l).blks.find? (fun b => b.seq == seq) with
  | none => .skip
  | some b =>
    if b.filled then onBlk l seq fun b => { b with again := 0 }
    else progs [onBlk l seq fun b => { b with filled := true }, drainSlots l, raiseTriggers l]

/-- The block a consumer slot takes next: the first in order of taking that the slot has not taken, if it is FILLED (R311). -/
def Dev.nextFilled (s : Dev) (l : LockId) (slot : Nat) : Option LockBlk :=
  match (s.lock l).blks.find? (fun b => !bitAt b.taken slot) with
  | some b => if b.filled then some b else none
  | none => none

/-- Whether a command's queue is REPLAYABLE (R459). -/
def Dev.replayable (s : Dev) (cmd : Nat) : Bool :=
  let q := cmd / 2 ^ 32 - 1
  decide (2 ^ 32 ≤ cmd) && s.fld .q (q / 256) (q % 256) R.Q_CFG 2 2 = 1

/-- Whether a command may still be replayed (R546): its queue is REPLAYABLE, and it has neither completed nor been cancelled or killed. -/
def Dev.mayReplay (s : Dev) (cmd : Nat) : Bool :=
  s.replayable cmd && (s.drv ((cmd / 2 ^ 32 - 1) / 256)).cmds.any fun c => c.key == cmd && c.st != .complete && !c.failed

/-- A consumer slot takes a block for a command. On a REPLAYABLE queue the command keeps it (R546), and so does a producing command of
such a queue whose block is taken outside it before it completes. -/
def takeFilled (l : LockId) (seq slot cmd : Nat) : Prog := look fun s =>
  let rep := s.replayable cmd
  progs [
    onBlk l seq fun b => { b with
      taken := b.taken ||| 2 ^ slot
      holders := b.holders.filter (fun h => h.1 ≠ slot) ++ [(slot, cmd)]
      keep := (if rep then nadd b.keep cmd else b.keep) },
    look fun s => onBlk l seq fun b => if b.producer ≠ cmd && s.mayReplay b.producer
      then { b with keep := nadd b.keep b.producer } else b,
    onLock l fun x => { x with lastTaker := sput x.lastTaker slot cmd }]

/-- A slot releases a block; the block is freed when it is done. -/
def releaseBlk (l : LockId) (seq slot : Nat) : Prog := progs [
  onBlk l seq fun b => { b with released := b.released ||| 2 ^ slot }, freeDone l]

/-- A bound source block returns to the head of its slot (R318); in a slot that has entered DRAIN it is released (R322). -/
def unTake (l : LockId) (seq slot : Nat) : Prog := look fun s =>
  if bitAt (s.lock l).drain slot then releaseBlk l seq slot
  else onBlk l seq fun b => { b with taken := b.taken &&& (0xFF - 2 ^ slot), holders := b.holders.filter (fun h => h.1 ≠ slot) }

/-- A block taken as producer is freed unwritten (R317, R318); one that a replay was given again only ends that gift. -/
def freeUnwritten (l : LockId) (seq : Nat) : Prog :=
  onLock l fun x => { x with blks := x.blks.filter fun b => !(b.seq == seq && !b.filled) }

/-- The enabled locks in whose blocks an operand of an instruction on a cluster may lie (R312): those of its cluster and of its die's controller, and the
rings of every other controller. -/
def Dev.locksFor (s : Dev) (k : Nat) : List LockId :=
  (s.regs.filterMap fun r => match place r.1 with
    | .reg .lock d i 0 => if i < 11776 then some (lockOf d i) else none
    | _ => none).filter fun l => s.lockOn l && (s.lockRing l || l.at_ == (if l.die then k / 168 else k))

/-- The block that a virtual address lies in, among those locks. -/
def Dev.blkAt (s : Dev) (k va : Nat) : Option (LockId × LockBlk) :=
  (s.locksFor k).findSome? fun l =>
    match (s.lock l).blks.find? (fun b => decide (s.blockVa l b.idx ≤ va) && decide (va < s.blockVa l b.idx + s.lockBlockLen l)) with
    | some b => some (l, b)
    | none => none

/-- Where the places of a lock's blocks that a range touches begin within it: every index of a ring, every block of the pool, taken or not. -/
def Dev.placesOver (s : Dev) (l : LockId) (va n : Nat) : List Nat :=
  let len := max 1 (s.lockBlockLen l)
  let base := if s.lockRing l then s.lockVbase l else s.lockVbase l + s.poolBase l.at_
  let cnt := if s.lockRing l then s.lockSlots l else s.poolBlocks l.at_
  if n = 0 || va + n ≤ base || base + cnt * len ≤ va then []
  else
    let i := (va - base) / len
    (List.range (min cnt ((va + n - 1 - base) / len + 1) - i)).map fun j => max va (base + (i + j) * len)

/-- The handle by which a unit of a cluster names a lock of its own or of a die (R309). -/
def LockId.handle (l : LockId) : Nat := if l.die then 2 ^ 14 + l.at_ * 2 ^ 10 + l.n else l.n

/-- Waiting for a lock is recorded once for each waiter (R311, R313, R316). -/
def waitProducer (l : LockId) (w : LockWait) : Prog :=
  onLock l fun x => if x.prodWait.any (fun y => y.who == w.who && y.cl == w.cl) then x else { x with prodWait := x.prodWait ++ [w] }
def waitConsumer (l : LockId) (w : LockWait) : Prog :=
  onLock l fun x => if x.consWait.any (fun y => y.who == w.who && y.cl == w.cl) then x else { x with consWait := x.consWait ++ [w] }

/-- Ends a waiter's waits on a lock. -/
def unwait (l : LockId) (who : Waiter) (cl : Nat) : Prog :=
  onLock l fun x => { x with
    prodWait := x.prodWait.filter fun y => !(y.who == who && y.cl == cl)
    consWait := x.consWait.filter fun y => !(y.who == who && y.cl == cl) }

/-- Every lock of the device that is not in its reset state. -/
def Dev.liveLocks (s : Dev) : List LockId :=
  s.clusters.flatMap (fun c => c.2.locks.map fun e => clLock c.1 e.1) ++ s.dies.flatMap (fun m => m.2.locks.map fun e => dieLock m.1 e.1)

/-- Ends every wait of a waiter, whatever lock it waits for. -/
def unwaitAll (who : Waiter) (cl : Nat) : Prog := look fun s =>
  forAll (s.liveLocks.filter fun l =>
    (s.lock l).prodWait.any (fun y => y.who == who && y.cl == cl) || (s.lock l).consWait.any (fun y => y.who == who && y.cl == cl))
    fun l => unwait l who cl

/-- The producer that is served first: highest priority, then longest waiting, then the order of arrival (R313). -/
def firstWaiter : List LockWait → Option LockWait
  | [] => none
  | w :: r =>
    match firstWaiter r with
    | none => some w
    | some v => if v.prio > w.prio || (v.prio == w.prio && v.since < w.since) then some v else some w

end Sys2Proof.Machine
end

