-- ==== Sys2Proof/Machine/Epilogue.lean ====
section
/-! DEFINITION. The epilogue of contract arithmetic: R62 and R63 for one element, R82 and R83 for a row in dynamic mode, R88 for listed columns. Exact integers throughout. -/

namespace Sys2Proof.Machine

/-- Output formats of OFMT (R284): 0 signed A8, 1 unsigned A8, 2 A16. -/
def fmtLo (fmt : Nat) : Int := if fmt = 0 then -128 else if fmt = 1 then 0 else -32768
def fmtHi (fmt : Nat) : Int := if fmt = 0 then 127 else if fmt = 1 then 255 else 32767

/-- Bytes of a code of a format (R44). -/
def fmtSize (fmt : Nat) : Nat := if fmt = 2 then 2 else if fmt = 3 then 8 else 1

/-- The greatest code Q of R82. -/
def fmtQ (fmt : Nat) : Int := if fmt = 1 then 255 else if fmt = 0 then 127 else 32767

/-- A code in memory as an integer (R44): signed, unsigned or 16-bit. -/
def codeOf (fmt : Nat) (b : List Byte) : Int :=
  if fmt = 0 then sext 8 (leNat b) else if fmt = 1 then (leNat b : Int) else sext 16 (leNat b)

/-- The bytes of a code. -/
def codeBytes (fmt : Nat) (c : Int) : List Byte := leBytes (fmtSize fmt) (wrapN (8 * fmtSize fmt) c)

/-- `clamp64` of R62: the value and whether it was clamped. -/
def clamp64 (x : Int) : Int × Bool :=
  let c := sat x (-(2 ^ 63)) (2 ^ 63 - 1)
  (c, decide (c ≠ x))

/-- `clampx` of R62. -/
def clampx (x : Int) : Int × Bool :=
  let c := sat x (-(2 ^ 31)) (2 ^ 31 - 1)
  (c, decide (c ≠ x))

/-- What an instruction's epilogue applies to an element up to v (R62): row scale, bias with its shift, function with f. -/
structure EpiIn where
  rowScale : Option S24
  bias : Option Int
  bshift : Nat
  act : Option (SfProg × Nat)
  deriving DecidableEq, Repr

/-- The value v of R62 with its fractional bits, the saturated flag so far and the function's counts. -/
structure EpiV where
  v : Int
  f : Nat
  sat : Bool
  cnt : SfCount
  deriving DecidableEq, Repr

/-- R62 from the bias step on. -/
def epiFromBias (e : EpiIn) (v0 : Int) (s0 : Bool) : EpiV :=
  let r1 := match e.bias with
    | some b => let c := clamp64 (v0 + b * 2 ^ (24 - e.bshift)); (c.1, s0 || c.2)
    | none => (v0, s0)
  match e.act with
  | some (p, f) =>
    let x := clampx (rndAway r1.1 (24 - f))
    let y := sfEval p x.1 f
    ⟨y.1, 15, r1.2 || x.2, y.2⟩
  | none => ⟨r1.1, 24, r1.2, SfCount.zero⟩

/-- R62 as far as v. -/
def epiV (e : EpiIn) (acc : Int) : EpiV :=
  match e.rowScale with
  | some s => let c := clamp64 (mulS24 acc s 0); epiFromBias e c.1 c.2
  | none => epiFromBias e acc false

/-- What one element of the output is: its code, and the two flags of R63. -/
structure EpiOut where
  code : Int
  sat : Bool
  uf : Bool
  deriving DecidableEq, Repr

/-- The requantisation of R62 with multiplier `m` and zero point `z`. `dyn` drops the flags of the final comparison and of u = 0 (R83). -/
def epiCode (x : EpiV) (m : S24) (z : Int) (fmt : Nat) (dyn : Bool) : EpiOut :=
  let u := mulS24 x.v m x.f
  let q := u + z
  let s := x.sat || (!dyn && decide (q < fmtLo fmt ∨ fmtHi fmt < q))
  ⟨sat q (fmtLo fmt) (fmtHi fmt), s, !dyn && decide (u = 0 ∧ x.v ≠ 0) && !s⟩

/-- R88: the side code of a listed column, with its flags. -/
def epiSide (x : EpiV) (m : S24) : EpiOut :=
  let u := mulS24 x.v m x.f
  let c := sat u (-32768) 32767
  let s := x.sat || decide (c ≠ u)
  ⟨c, s, decide (u = 0 ∧ x.v ≠ 0) && !s⟩

/-- A row record (R80). -/
structure RowRec where
  scale : S24
  zp : Nat
  degenerate : Bool
  deriving DecidableEq, Repr

/-- The 8 bytes of a row record. -/
def RowRec.bytes (r : RowRec) : List Byte :=
  leBytes 4 r.scale.toSlot ++ leBytes 1 r.zp ++ leBytes 1 (b2n r.degenerate) ++ [0, 0]

/-- Reads the 8 bytes of a row record. -/
def RowRec.ofBytes (b : List Byte) : RowRec := ⟨S24.ofSlot (leAt b 0 4), leAt b 4 1, leAt b 5 1 % 2 = 1⟩

/-- What R82 derives from a row: its record, the multiplier and zero point for its codes (none when D = 0: every code is 0), and whether
the clamp of the stored exponent counts one saturated element. -/
structure DynRow where
  record : RowRec
  mult : Option (S24 × Int)
  clamped : Bool
  deriving DecidableEq, Repr

/-- R82 over the v values of the unlisted columns of a row, with F and ROW_EXP_ADJ. -/
def dynRow (vs : List Int) (f fmt : Nat) (adj : Int) : DynRow :=
  let hi := match vs with | [] => 0 | x :: r => r.foldl max x
  let lo := match vs with | [] => 0 | x :: r => r.foldl min x
  let deg := decide (hi = lo)
  let d : Int := if fmt = 1 then max hi 0 - min lo 0 else max (Int.natAbs hi : Int) (Int.natAbs lo)
  if d = 0 then ⟨⟨S24.one, 0, deg⟩, none, false⟩
  else
    let qf := (fmtQ fmt * 2 ^ f).toNat
    let s := s24FromRatio d.toNat qf
    let m := s24FromRatio qf d.toNat
    let z : Int := if fmt = 1 then sat (mulS24 (-(min lo 0)) m f) 0 255 else 0
    let e1 := s.e + adj
    let e2 := sat e1 (-128) 127
    ⟨⟨⟨s.m, e2⟩, z.toNat, deg⟩, some (m, z), decide (e2 ≠ e1)⟩

end Sys2Proof.Machine
end

