-- ==== Sys2Proof/Machine/WindowMath.lean ====
section
/-! DEFINITION. Sliding-window geometry: coordinates and output size (R145, R146), edge modes (R149, R150), pooling (R160) and crop-and-resize (R163), as exact functions. -/

namespace Sys2Proof.Machine

/-- The edge modes of R141, R142: 0 ZERO or EXCLUDE, 1 CONST, 2 REPLICATE, 3 MIRROR. -/
inductive Edge where
  | zero | const | replicate | mirror
  deriving DecidableEq, Repr

def edgeOf (n : Nat) : Edge :=
  match n % 4 with | 0 => .zero | 1 => .const | 2 => .replicate | _ => .mirror

/-- The output size of one dimension (R146); 0 for a negative numerator. -/
def outSize (n lo hi dil k stride : Nat) : Nat :=
  let num : Int := (n : Int) + lo + hi - dil * ((k : Int) - 1) - 1
  if num < 0 then 0 else (floorDiv num stride + 1).toNat

/-- `fold(p, n, mode)` of R150. -/
def foldCoord (p : Int) (n : Nat) (e : Edge) : Int :=
  if 0 ≤ p ∧ p < n then p
  else match e with
    | .mirror =>
      if n = 1 then 0
      else
        let q := modInt p (2 * ((n : Int) - 1))
        if q < n then q else 2 * ((n : Int) - 1) - q
    | _ => sat p 0 ((n : Int) - 1)

/-- The position inside the image. -/
def inside (y x : Int) (h w : Nat) : Bool := decide (0 ≤ y ∧ y < h ∧ 0 ≤ x ∧ x < w)

/-- The code that a position supplies (R149): the pixel, the padding code, or the folded pixel. -/
def edgeRead (get : Nat → Nat → Int) (h w : Nat) (e : Edge) (zeroCode padCode : Int) (y x : Int) : Int :=
  if inside y x h w then get y.toNat x.toNat
  else match e with
    | .zero => zeroCode
    | .const => padCode
    | m => get (foldCoord y h m).toNat (foldCoord x w m).toNat

/-- `pool` of R160 on the codes that take part; the second component says that none did. -/
def poolCode (avg countAll : Bool) (area : Nat) (z : Int) (codes : List Int) : Int × Bool :=
  match codes with
  | [] => (z, true)
  | c :: r =>
    if avg then
      let s := sumInt (codes.map (fun x => x - z))
      (rndDiv s (if countAll then (area : Int) else (codes.length : Int)) + z, false)
    else (r.foldl max c, false)

/-- A box entry (R162). -/
structure CropBox where
  yFirst : Int
  xFirst : Int
  stepY : Int
  stepX : Int
  image : Nat
  valid : Bool
  deriving DecidableEq, Repr

def CropBox.ofBytes (b : List Byte) : CropBox :=
  ⟨sext 32 (leAt b 0 4), sext 32 (leAt b 4 4), sext 32 (leAt b 8 4), sext 32 (leAt b 12 4), leAt b 16 2,
    bitAt (leAt b 18 1) 0⟩

/-- `crop_sample` of R163 for one channel; `rd y x` is the code at a position of the image. -/
def cropSample (rd : Int → Int → Int) (z : Int) (nearest : Bool) (b : CropBox) (orgY orgX : Int) (i j : Nat) : Int :=
  let sy := b.yFirst + i * b.stepY - shlInt orgY 16
  let sx := b.xFirst + j * b.stepX - shlInt orgX 16
  if nearest then rd (rndAway sy 16) (rndAway sx 16)
  else
    let y8 := rndAway sy 8
    let x8 := rndAway sx 8
    let iy := shrInt y8 8
    let fy := modInt y8 256
    let ix := shrInt x8 8
    let fx := modInt x8 256
    let acc := (256 - fy) * (256 - fx) * (rd iy ix - z) + (256 - fy) * fx * (rd iy (ix + 1) - z)
      + fy * (256 - fx) * (rd (iy + 1) ix - z) + fy * fx * (rd (iy + 1) (ix + 1) - z)
    rndAway acc 16 + z

end Sys2Proof.Machine
end

