-- ==== Sys2Proof/Machine/Operands.lean ====
section
/-! DEFINITION. The fields of tensor, SF and coder descriptors and of their argument blocks (R273 to R286), and the checks made at push and at staging (R291, R292). -/

namespace Sys2Proof.Machine

/-- The four words of a descriptor (R273). -/
structure Desc where
  w0 : Nat
  w1 : Nat
  w2 : Nat
  w3 : Nat
  deriving DecidableEq, Repr

/-- A descriptor from the 32 bytes of a pushed vector. -/
def Desc.ofBytes (b : List Byte) : Desc := ⟨leAt b 0 8, leAt b 8 8, leAt b 16 8, leAt b 24 8⟩

namespace Desc

def opcode (x : Desc) : Nat := bits x.w0 7 0
def target (x : Desc) : Nat := bits x.w0 15 8
def dep (x : Desc) (i : Nat) : Nat := bits x.w0 (27 + 12 * i) (16 + 12 * i)
def depEn (x : Desc) (i : Nat) : Bool := bitAt x.w0 (52 + i)
def poison (x : Desc) : Bool := bitAt x.w0 55
def args (x : Desc) : Nat := bits x.w1 47 0
def argLen (x : Desc) : Nat := bits x.w1 51 48
/-- Fields of the shape word W2 (R283). -/
def m24 (x : Desc) : Nat := bits x.w2 23 0
def ncol (x : Desc) : Nat := bits x.w2 39 24
def k21 (x : Desc) : Nat := bits x.w2 60 40
def accIn (x : Desc) : Bool := bitAt x.w2 61
/-- Fields of the epilogue word W3 (R284). -/
def gs (x : Desc) : Nat := bits x.w3 1 0
def wfmt (x : Desc) : Nat := bits x.w3 2 2
def afmt (x : Desc) : Nat := bits x.w3 4 3
def ofmt (x : Desc) : Nat := bits x.w3 6 5
def imode (x : Desc) : Nat := bits x.w3 8 7
def omode (x : Desc) : Nat := bits x.w3 10 9
def bias (x : Desc) : Bool := bitAt x.w3 11
def act (x : Desc) : Nat := bits x.w3 15 12
def actF (x : Desc) : Nat := bits x.w3 20 16
def bshift (x : Desc) : Nat := bits x.w3 25 21
def rowExpAdj (x : Desc) : Int := sext 7 (bits x.w3 32 26)
def zOut (x : Desc) : Nat := bits x.w3 40 33
def arrange (x : Desc) : Nat := bits x.w3 42 41
def widenEn (x : Desc) : Bool := bitAt x.w3 43
def inOutl (x : Desc) : Bool := bitAt x.w3 44
def outOutl (x : Desc) : Bool := bitAt x.w3 45
def wideIn (x : Desc) : Bool := bitAt x.w3 46
def addends (x : Desc) : Nat := bits x.w3 49 47

end Desc

/-- The group size of GS (R284). -/
def groupSize (gs : Nat) : Nat := if gs = 0 then 32 else if gs = 1 then 64 else 128

/-- Operations by family. -/
def isArrayOp (op : Nat) : Bool := 1 ≤ op && op ≤ 5
def isSfOp (op : Nat) : Bool := 0x10 ≤ op && op ≤ 0x16
def isCoderOp (op : Nat) : Bool := 0x20 ≤ op && op ≤ 0x22
/-- Operations with the operand area of R280. -/
def hasArea (op : Nat) : Bool := isArrayOp op || op = 0x10 || op = 0x12 || op = 0x13
/-- Operations that use W3 as a whole epilogue word (R284). -/
def hasEpilogue (op : Nat) : Bool := op = 1 || op = 2 || op = 5 || op = 0x10 || op = 0x12

/-- The queues a target occupies (R275); none for a reserved TARGET. -/
def targetQueues (t : Nat) : List Nat :=
  if t < 4 then [t]
  else if t < 0x0C then (if t % 2 = 0 then [(t - 4) / 2] else [4 + (t - 4) / 2])
  else if t = 0x0C then [0, 1]
  else if t = 0x0D then [2, 3]
  else if t = 0x0E then [0, 1, 2, 3]
  else if t = 0x10 then [8]
  else if t = 0x18 then [9]
  else if t = 0x19 then [10]
  else if 0x20 ≤ t && t < 0x24 then [11 + (t - 0x20)]
  else if t = 0x24 then [11, 12, 13, 14]
  else []

/-- The array engines of a target. -/
def targetArrays (t : Nat) : List Nat :=
  if t < 4 then [t]
  else if t < 0x0C then [(t - 4) / 2]
  else if t = 0x0C then [0, 1]
  else if t = 0x0D then [2, 3]
  else if t = 0x0E then [0, 1, 2, 3]
  else []

def isHalf (t : Nat) : Bool := 4 ≤ t && t < 0x0C
def isWhole (t : Nat) : Bool := t < 4
def isMulti (t : Nat) : Bool := 0x0C ≤ t && t ≤ 0x0E

/-- Allowed targets of an operation (R274). -/
def targetAllowed (op t : Nat) : Bool :=
  match op with
  | 0 => !(targetQueues t).isEmpty
  | 1 => t ≤ 0x0E || t = 0x10
  | 2 => t ≤ 0x0E
  | 3 => isWhole t
  | 4 => isWhole t
  | 5 => t = 0x10
  | _ => if isSfOp op then t = 0x18 || t = 0x19 else if isCoderOp op then 0x20 ≤ t && t ≤ 0x23 else false

/-- Coder operations RANS_ENC and RANS_DEC may take CCALL (R205). -/
def coderTargetOk (op t : Nat) : Bool := (op = 0x21 || op = 0x22) && t = 0x24

/-- The least ARG_LEN of an operation (R274). -/
def argLenMin (op : Nat) : Nat :=
  match op with
  | 0 => 0
  | 1 => 4
  | 2 => 5
  | 3 => 5
  | 4 => 5
  | 5 => 4
  | 0x10 => 4
  | 0x12 => 5
  | 0x13 => 5
  | _ => 1

/-- The bits of W2 an operation uses (R283). -/
def w2Mask (op : Nat) : Nat :=
  let r (hi lo : Nat) : Nat := 2 ^ (hi + 1) - 2 ^ lo
  match op with
  | 1 => r 23 0 + r 39 24 + r 60 40
  | 2 => r 39 24
  | 3 => r 1 0
  | 4 => r 39 0 + r 55 40
  | 5 => r 39 0
  | 0x10 => r 39 0 + r 61 61
  | 0x11 => r 40 0
  | 0x12 => r 47 0
  | 0x13 => r 41 0
  | 0x14 => r 23 0 + r 27 24
  | 0x15 => r 31 0
  | 0x16 => r 3 0
  | 0x20 => r 40 0
  | 0x21 => r 63 0
  | 0x22 => r 34 0 + r 61 55
  | _ => 0

/-- The bits of W3 an operation uses (R284). -/
def w3Mask (op : Nat) : Nat :=
  let r (hi lo : Nat) : Nat := 2 ^ (hi + 1) - 2 ^ lo
  if hasEpilogue op then r 49 0
  else match op with
    | 3 => r 4 3 + r 8 7 + r 46 46
    | 4 => r 4 3 + r 8 7 + r 46 46
    | 0x13 => r 4 3 + r 6 5 + r 8 7 + r 46 46
    | 0x11 => r 4 3
    | 0x15 => r 4 3
    | 0x21 => 1
    | 0x22 => 6
    | _ => 0

/-- Masks a word's bits outside a mask: whether a reserved bit is set. -/
def reservedSet (w mask : Nat) : Bool := w &&& (2 ^ 64 - 1 - mask) ≠ 0

/-- Whether the range of a value holds. -/
def within (v lo hi : Nat) : Bool := lo ≤ v && v ≤ hi

/-- The checks of the epilogue word at push (R284, R285, R63, R84, R131). -/
def epilogueOk (x : Desc) : Bool :=
  let op := x.opcode
  x.gs ≤ 2 && x.afmt ≤ 2 && x.imode ≤ 2 && x.omode ≤ 2 && x.arrange ≤ 2
    && (x.act ≤ 9 || x.act = 0xF)
    && (if x.act = 0xF then x.actF = 0 else within x.actF 8 24)
    && x.bshift ≤ 24
    && decide (-32 ≤ x.rowExpAdj ∧ x.rowExpAdj ≤ 32)
    && (x.omode = 2 || x.rowExpAdj = 0)
    && (x.arrange = 0 || isMulti x.target)
    && (x.ofmt = 1 || x.zOut = 0)
    && x.addends ≤ 4
    && (op ≠ 5 || 1 ≤ x.addends)
    && (x.ofmt ≠ 3 || (!x.bias && !x.widenEn && !x.outOutl && x.act = 0xF && x.omode = 0 && x.zOut = 0))
    && (op ≠ 0x10 || !x.accIn || x.afmt = 0)
    && (op ≠ 0x12 || !x.bias)
    && (x.omode ≠ 2 || x.ncol ≤ 8192)

/-- Coder fields of W2 (R206, R283). -/
def Desc.count32 (x : Desc) : Nat := bits x.w2 31 0
def Desc.slot2 (x : Desc) : Nat := bits x.w2 33 32
def Desc.symFmt (x : Desc) : Nat := bits x.w2 34 34
def Desc.lanesLog2 (x : Desc) : Nat := bits x.w2 37 35
def Desc.chunkSyms (x : Desc) : Nat := bits x.w2 54 38
def Desc.cycleMode (x : Desc) : Bool := bitAt x.w2 55
def Desc.cycleP (x : Desc) : Nat := bits x.w2 61 56 + 1
def Desc.kind (x : Desc) : Nat := bits x.w2 63 62

/-- The checks of the shape word at push, by operation (R283, R206, R182, R192). -/
def shapeOk (x : Desc) : Bool :=
  match x.opcode with
  | 1 => within x.m24 1 16777215 && within x.ncol 1 65535 && within x.k21 1 (2 ^ 20) && (x.target ≠ 0x10 || x.m24 ≤ 8)
  | 2 => within x.ncol 1 65535
  | 3 => true
  | 4 => within (bits x.w2 12 0) 1 4096 && bits x.w2 31 30 ≤ 2 && bits x.w2 39 32 ≤ 255
  | 5 => within x.m24 1 16777215 && within x.ncol 1 65535
  | 0x10 => within x.m24 1 16777215 && within x.ncol 1 65535 && x.m24 * x.ncol ≤ 2 ^ 32
  | 0x11 => within x.m24 1 16777215 && within (bits x.w2 40 24) 1 65536
  | 0x12 => within x.m24 1 16777215 && within x.ncol 1 65535 && within (bits x.w2 44 40) 1 16
  | 0x13 => within x.m24 1 16777215 && within (bits x.w2 40 24) 1 65536 && !(bitAt x.w2 41 && x.afmt = 1)
      && (x.ofmt = 1 || x.ofmt = 2) && (x.imode = 1 || x.imode = 2)
  | 0x14 => within (bits x.w2 27 24) 1 9 && 1 ≤ bits x.w2 11 0 && bits x.w2 23 12 < bits x.w2 11 0
  | 0x15 => within x.count32 1 (2 ^ 32 - 1)
  | 0x16 => within (bits x.w2 3 0) 2 9
  | 0x20 => within (bits x.w2 8 2) 1 64 && 1 ≤ bits x.w2 20 9 && bits x.w2 32 21 < bits x.w2 20 9
      && bits x.w2 8 2 * (bits x.w2 20 9 + 1) ≤ 16384
  | 0x21 => 1 ≤ x.count32 && within x.chunkSyms 1 65536 && x.lanesLog2 ≤ 5 && x.kind ≤ 2
      && ceilDiv x.count32 x.chunkSyms ≤ 65535
  | 0x22 => 1 ≤ x.count32
  | _ => true

/-- W3 checks of operations that use some of its fields. -/
def w3Ok (x : Desc) : Bool :=
  let op := x.opcode
  if hasEpilogue op then epilogueOk x
  else if op = 3 || op = 4 then x.afmt ≤ 2 && x.imode = 0
  else if op = 0x13 || op = 0x11 || op = 0x15 then x.afmt ≤ 2
  else true

/-- The number of the first check that fails, 0 if none does. A check bears the number of its row in the table of R292, 1 to 25, or 26 for a check of another
rule. -/
def firstBad (l : List (Bool × Nat)) : Nat := match l.find? (fun c => !c.1) with | some c => c.2 | none => 0

/-- The push checks of R291 and R292 on W0 to W3. -/
def pushChecks (x : Desc) : List (Bool × Nat) :=
  let op := x.opcode
  let epi := hasEpilogue op
  let bit (n : Nat) : Bool := bitAt x.w3 n
  [((op ≤ 5 || isSfOp op || isCoderOp op) && (targetAllowed op x.target || coderTargetOk op x.target), 1),
    (bits x.w0 63 56 = 0 && bits x.w1 63 52 = 0, 2)]
  ++ (if op = 0 then [(x.w1 = 0 && x.w2 = 0 && x.w3 = 0, 3)]
    else [(x.args % 64 = 0 && within x.argLen 1 8 && argLenMin op ≤ x.argLen, 3),
      (!epi || x.arrange = 0 || isMulti x.target, 4),
      (op ≠ 1 || (x.k21 ≤ 2 ^ 20 && (x.target ≠ 0x10 || x.m24 ≤ 8)), 5),
      (!epi || x.ofmt = 1 || x.zOut = 0, 6),
      (!epi || x.omode ≠ 2 || x.ncol ≤ 8192, 7),
      (op ≠ 0x13 || !(bitAt x.w2 41 && x.afmt = 1), 8), (op ≠ 0x16 || 2 ≤ bits x.w2 3 0, 8),
      (op ≠ 0x21 || ceilDiv x.count32 x.chunkSyms ≤ 65535, 14),
      (!(op = 3 || op = 4) || !(bit 9 || bit 10 || bit 44 || bit 45), 19),
      (!reservedSet x.w2 (w2Mask op) && !reservedSet x.w3 (w3Mask op) && shapeOk x && w3Ok x, 2)])

/-- The push check that a descriptor fails, 0 if it passes (R291). -/
def pushCheck (x : Desc) : Nat := firstBad (pushChecks x)
def pushOk (x : Desc) : Bool := pushCheck x = 0

/-! ### Argument blocks -/

/-- An 8-byte entry of an argument block. -/
def argQ (a : List Byte) (o : Nat) : Nat := leAt a o 8
/-- An address entry: bits [47:0]. -/
def argVa (a : List Byte) (o : Nat) : Nat := bits (leAt a o 8) 47 0

/-- A tensor reference of 32 bytes (R279). -/
structure TRef where
  base : Nat
  yStride : Nat
  bStride : Nat
  nStride : Nat
  ring : Nat
  h : Nat
  w : Nat
  c : Nat
  n : Nat
  deriving DecidableEq, Repr

/-- The tensor reference at offset `o` of an argument block. -/
def TRef.at (a : List Byte) (o : Nat) : TRef :=
  ⟨argVa a o, leAt a (o + 8) 4, leAt a (o + 12) 4, leAt a (o + 16) 4, leAt a (o + 20) 2, leAt a (o + 22) 2, leAt a (o + 24) 2,
    leAt a (o + 26) 2, leAt a (o + 28) 2⟩

/-- A short reference (R279, R584): the address of row `r` when each row has `len` bytes. -/
def shortRow (q r len : Nat) : Nat :=
  let st := bits q 63 48
  bits q 47 0 + r * (if st = 0 then roundUp len 64 else st * 64)

/-- A plane table entry (R141). -/
structure Plane where
  base : Nat
  pitch : Nat
  width : Nat
  height : Nat
  ring : Nat
  fx : Nat
  fy : Nat
  edge : Nat
  deriving DecidableEq, Repr

/-- Reads a plane table entry. -/
def Plane.ofBytes (b : List Byte) : Plane :=
  let f := leAt b 18 1
  ⟨bits (leAt b 0 8) 47 0, leAt b 8 4, leAt b 12 2, leAt b 14 2, leAt b 16 2, 2 ^ bits f 1 0, 2 ^ bits f 5 4, bits (leAt b 19 1) 1 0⟩

/-- Reserved bits of a plane table entry are 0 and its PITCH is legal (R141). -/
def planeOk (b : List Byte) (size : Nat) (output : Bool) : Bool :=
  let p := Plane.ofBytes b
  bits (leAt b 0 8) 63 48 = 0 && p.pitch % 64 = 0 && p.width * size ≤ p.pitch && 1 ≤ p.width && 1 ≤ p.height
    && (leAt b 18 1 &&& 0xCC) = 0 && (output || (leAt b 19 1 &&& 0xFC) = 0) && leAt b 20 4 = 0 && leAt b 24 8 = 0

/-- The planes' channels before plane i (R155). -/
def planeStart (ps : List Plane) (i : Nat) : Nat := ((ps.take i).map (fun p => p.fx * p.fy)).foldl (· + ·) 0

/-- Every plane gives the grid H × W, with at most 256 channels (R155). -/
def planesGrid (ps : List Plane) (h w : Nat) : Bool :=
  ps.all (fun p => p.height = h * p.fy && p.width = w * p.fx) && planeStart ps ps.length ≤ 256 && within ps.length 1 16

/-- The plane and the place within its factors of regrouped channel `c`: plane index, dy, dx. -/
def planeOfChannel : List Plane → Nat → Nat → Nat × Nat × Nat
  | [], i, _ => (i, 0, 0)
  | p :: r, i, c => if c < p.fx * p.fy then (i, c / p.fx, c % p.fx) else planeOfChannel r (i + 1) (c - p.fx * p.fy)

/-- The geometry entries of a window operation (R281). -/
structure Geo where
  kh : Nat
  kw : Nat
  sy : Nat
  sx : Nat
  dy : Nat
  dx : Nat
  pt : Nat
  pb : Nat
  pl : Nat
  pr : Nat
  padCode : Nat
  edge : Nat
  s2c : Bool
  c2s : Bool
  deriving DecidableEq, Repr

/-- Reads the geometry. -/
def Geo.at (a : List Byte) : Geo :=
  let u (o : Nat) : Nat := leAt a o 2
  let g := leAt a 0x117 1
  ⟨u 0x100, u 0x102, u 0x104, u 0x106, u 0x108, u 0x10A, u 0x10C, u 0x10E, u 0x110, u 0x112, u 0x114, leAt a 0x116 1,
    g % 2 = 1, g / 2 % 2 = 1⟩

/-- PAD_CODE read under a format, when it lies in the format's range (R149). -/
def padValue (fmt pc : Nat) : Int := if fmt = 1 then (pc : Int) else sext 16 pc
def padOk (fmt pc : Nat) : Bool :=
  let v := padValue fmt pc
  if fmt = 1 then pc ≤ 255 else if fmt = 0 then decide (-128 ≤ v ∧ v ≤ 127) else true

end Sys2Proof.Machine
end

