-- ==== Sys2Proof/Machine/TensorMath.lean ====
section
/-! DEFINITION. What MATMUL, CONV, EPILOGUE, POOL and CROP compute (R44 to R65, R74 to R90, R140 to R165), over a reader of virtual memory: input codes and padding, weight tiles, group terms, outlier terms, addends, output places. -/

namespace Sys2Proof.Machine

/-- What a run reads: the store through the instruction's translations, its descriptor and argument block, whether its input is the
producer's wide output (R96), and whether this is the wide run (R94). -/
structure TCtx where
  rd : Nat → Nat → List Byte
  d : Desc
  a : List Byte
  wideIn : Bool
  wide : Bool

namespace TCtx

def inRef (x : TCtx) : TRef := TRef.at x.a 0
def outRef (x : TCtx) : TRef := TRef.at x.a 0x20
def geo (x : TCtx) : Geo := Geo.at x.a
def op (x : TCtx) : Nat := x.d.opcode

/-- Whether the geometry entries are read (R281). -/
def hasGeo (x : TCtx) : Bool := x.op = 2 || x.op = 3 || (x.op = 1 && 5 ≤ x.d.argLen)

/-- S2C and C2S of GFLAGS, where the operation reads them. -/
def s2c (x : TCtx) : Bool := x.op = 2 && x.geo.s2c
def c2s (x : TCtx) : Bool := (x.op = 1 || x.op = 2) && x.hasGeo && x.geo.c2s

/-- The planes of a planar tensor (R141). -/
def planes (x : TCtx) (t : TRef) : List Plane := (List.range t.c).map fun i => Plane.ofBytes (x.rd (t.base + 32 * i) 32)

/-- The input grid: height, width, channels (R145, R155). -/
def grid (x : TCtx) : Nat × Nat × Nat :=
  if x.s2c then
    match x.planes x.inRef with
    | [] => (0, 0, 0)
    | p :: r => (p.height / p.fy, p.width / p.fx, planeStart (p :: r) (r.length + 1))
  else (x.inRef.h, x.inRef.w, x.inRef.c)

/-- The output grid of CONV and POOL (R146). -/
def outGrid (x : TCtx) : Nat × Nat :=
  let g := x.geo
  let h := x.grid
  (outSize h.1 g.pt g.pb g.dy g.kh g.sy, outSize h.2.1 g.pl g.pr g.dx g.kw g.sx)

/-- Images: 1 for planar input (R141). -/
def images (x : TCtx) : Nat := if x.s2c then 1 else x.inRef.n

/-- Rows, columns, taps and reduction length per tap (R110, R143, R283). -/
def rows (x : TCtx) : Nat := if x.op = 2 then x.images * x.outGrid.1 * x.outGrid.2 else x.d.m24
def cols (x : TCtx) : Nat := x.d.ncol
def taps (x : TCtx) : Nat := if x.op = 2 then x.geo.kh * x.geo.kw else 1
def kTap (x : TCtx) : Nat := if x.op = 2 then x.grid.2.2 else x.d.k21
/-- Reduction tiles per tap. -/
def nrt (x : TCtx) : Nat := ceilDiv x.kTap 64

/-- Columns of a weight tile for a target (R110, R131). -/
def tileCols (x : TCtx) : Nat :=
  let full := if x.d.wfmt = 1 then 128 else 64
  if isHalf x.d.target then full / 2 else full
def colTiles (x : TCtx) : Nat := ceilDiv x.cols x.tileCols

/-- The output pixel of a row: image, oy, ox (R143, R281). -/
def pixel (x : TCtx) (r : Nat) : Nat × Nat × Nat :=
  if x.op = 2 then (r / (x.outGrid.1 * x.outGrid.2), r / x.outGrid.2 % x.outGrid.1, r % x.outGrid.2)
  else (0, r / max 1 x.inRef.w, r % max 1 x.inRef.w)

/-- The input position of an output pixel under a tap (R145). -/
def tapPos (x : TCtx) (oy ox t : Nat) : Int × Int :=
  let g := x.geo
  ((oy * g.sy : Nat) - (g.pt : Int) + ((t / max 1 g.kw * g.dy : Nat) : Int),
    (ox * g.sx : Nat) - (g.pl : Int) + ((t % max 1 g.kw * g.dx : Nat) : Int))

/-- The format the input codes have in memory. -/
def inFmt (x : TCtx) : Nat := if x.wideIn then 2 else x.d.afmt

/-- The address of a cell of a blocked tensor (R140). -/
def cell (t : TRef) (size n b y xx : Nat) : Nat :=
  t.base + n * t.nStride + b * t.bStride + (if t.ring = 0 then y else y % t.ring) * t.yStride + xx * (64 * size)

/-- A code of the blocked input at (n, channel, y, x), or of the wide input in row form (R584). -/
def blockedCode (x : TCtx) (n ch y xx : Nat) : Int :=
  if x.wideIn then
    let row := (n * x.grid.1 + y) * x.grid.2.1 + xx
    codeOf 2 (x.rd (shortRow (argQ x.a 0x88) row (2 * x.grid.2.2) + 2 * ch) 2)
  else
    let sz := fmtSize x.d.afmt
    codeOf x.d.afmt (x.rd (cell x.inRef sz n (ch / 64) y xx + ch % 64 * sz) sz)

/-- The address of a sample of a plane (R141). -/
def sampleAddr (p : Plane) (size y xx : Nat) : Nat :=
  p.base + (if p.ring = 0 then y else y % p.ring) * p.pitch + xx * size

/-- The input scale entry in force: ISCALE, or WIDE_ISCALE under the wide input (R96, R280). -/
def scaleEntry (x : TCtx) : Nat := argQ x.a (if x.wideIn then 0x90 else 0x60)

/-- The constant zero point of ISCALE. -/
def constZ (x : TCtx) : Nat := bits (argQ x.a 0x60) 39 32

/-- The row record that belongs to a row, under IMODE 2: row r of the matrix, or the input pixel of a one-tap convolution; none at a
padding position (R76). -/
def rowRec (x : TCtx) (r : Nat) : Option RowRec :=
  let at_ (i : Nat) : RowRec := RowRec.ofBytes (x.rd (bits x.scaleEntry 47 0 + 8 * i) 8)
  if x.op = 2 then
    let q := x.pixel r
    let p := x.tapPos q.2.1 q.2.2 0
    if inside p.1 p.2 x.grid.1 x.grid.2.1 then
      some (at_ ((q.1 * x.grid.1 + p.1.toNat) * x.grid.2.1 + p.2.toNat))
    else none
  else some (at_ r)

/-- The zero point of a row (R74). -/
def zRow (x : TCtx) (r : Nat) : Int :=
  if x.wideIn || x.d.afmt ≠ 1 then 0
  else if x.d.imode = 2 then (match x.rowRec r with | some q => (q.zp : Int) | none => 0)
  else (x.constZ : Int)

/-- The row scale of a row (R62, R76, R284): none when the step is not selected. -/
def rowScale (x : TCtx) (r : Nat) : Option S24 :=
  match x.d.imode with
  | 0 => none
  | 1 => some (S24.ofSlot x.scaleEntry)
  | _ => some (match x.rowRec r with | some q => q.scale | none => S24.one)

/-- The code CONST padding supplies (R149). -/
def padCode (x : TCtx) : Int :=
  let v := padValue x.d.afmt x.geo.padCode
  if x.wideIn && x.d.afmt = 1 then v - (if x.d.imode = 2 then 0 else (x.constZ : Int)) else v

/-- The code ZERO padding supplies (R149). -/
def zeroCode (x : TCtx) : Int := if !x.wideIn && x.d.afmt = 1 && x.d.imode ≠ 2 then (x.constZ : Int) else 0

/-- The code that row `r` reads at tap `t`, channel `ch`, as it stands in memory or from padding. -/
def rawCode (x : TCtx) (r t ch : Nat) : Int :=
  if x.op = 2 then
    let q := x.pixel r
    let p := x.tapPos q.2.1 q.2.2 t
    if x.s2c then
      let ps := x.planes x.inRef
      let c := planeOfChannel ps 0 ch
      match ps[c.1]? with
      | none => 0
      | some pl =>
        let get (yy xx : Nat) : Int :=
          if x.wideIn then
            let row := yy / pl.fy * x.grid.2.1 + xx / pl.fx
            let e := planeStart ps c.1 + yy % pl.fy * pl.fx + xx % pl.fx
            codeOf 2 (x.rd (shortRow (argQ x.a 0x88) row (2 * x.grid.2.2) + 2 * e) 2)
          else codeOf x.d.afmt (x.rd (sampleAddr pl (fmtSize x.d.afmt) yy xx) (fmtSize x.d.afmt))
        edgeRead get pl.height pl.width (edgeOf pl.edge) x.zeroCode x.padCode
          (p.1 * pl.fy + c.2.1) (p.2 * pl.fx + c.2.2)
    else
      edgeRead (fun yy xx => x.blockedCode q.1 ch yy xx) x.grid.1 x.grid.2.1 (edgeOf x.geo.edge) x.zeroCode x.padCode p.1 p.2
  else if x.wideIn then codeOf 2 (x.rd (shortRow (argQ x.a 0x88) r (2 * x.d.k21) + 2 * ch) 2)
  else
    let sz := fmtSize x.d.afmt
    codeOf x.d.afmt (x.rd (x.inRef.base + r * x.inRef.yStride + ch * sz) sz)

/-- The outlier list entry of block `b` of the list at `base`: its channel offsets (R87). -/
def outlOffs (x : TCtx) (base b : Nat) : List Nat :=
  ((x.rd (base + 8 * b) 8).map (·.toNat)).takeWhile (fun o => o ≠ 255)

/-- R87: whether an entry is well formed for a block of `len` channels. -/
def outlOk (x : TCtx) (base b len : Nat) : Bool :=
  let e := (x.rd (base + 8 * b) 8).map (·.toNat)
  let offs := e.takeWhile (fun o => o ≠ 255)
  (e.drop offs.length).all (fun o => o = 255) && offs.all (fun o => decide (o < min 64 len))
    && (offs.zip (offs.drop 1)).all (fun p => decide (p.1 < p.2))

/-- The listed offsets of the input in block `b`, none without an outlier list. -/
def inListed (x : TCtx) (b : Nat) : List Nat := if x.d.inOutl then x.outlOffs (argVa x.a 0xA0) b else []

/-- The code the main path takes (R52, R90, R94): a listed channel gives z, or 0; in the wide run an unsigned code becomes a − z. -/
def mainCode (x : TCtx) (r t ch : Nat) (listed : List Nat) : Int :=
  let z := x.zRow r
  let c := if listed.contains (ch % 64) then z else x.rawCode r t ch
  if x.wide then c - z else c

/-- The side code of a listed channel (R89, R96): from the side tensor of the input row, or, of an instruction that names a producer's flag word, from the wide
tensor itself: it does not read SIDE_IN, whatever the flag word held (R280, R285); 0 at padding (R151). -/
def sideCode (x : TCtx) (r t b slot off : Nat) : Int :=
  let blocks := x.nrt
  let fromRow (row : Nat) : Int := codeOf 2 (x.rd (shortRow (argQ x.a 0xA8) row (16 * blocks) + 16 * b + 2 * slot) 2)
  if x.d.wideIn then { x with wideIn := true }.rawCode r t (64 * b + off)
  else if x.op = 2 then
    let q := x.pixel r
    let p := x.tapPos q.2.1 q.2.2 t
    if inside p.1 p.2 x.grid.1 x.grid.2.1 then fromRow ((q.1 * x.grid.1 + p.1.toNat) * x.grid.2.1 + p.2.toNat) else 0
  else fromRow r

/-- R152: whether a tap reads nothing but ZERO padding for all the given rows. -/
def tapSkipped (x : TCtx) (rs : List Nat) (t : Nat) : Bool :=
  x.op = 2
    && (if x.s2c then (x.planes x.inRef).all (fun p => p.edge = 0) else x.geo.edge = 0)
    && rs.all (fun r =>
      let q := x.pixel r
      let p := x.tapPos q.2.1 q.2.2 t
      !inside p.1 p.2 x.grid.1 x.grid.2.1)

/-! ### Weight tiles (R77, R78, R286) -/

/-- The groups that close in reduction tile `rt` of a tap of length `kt` (R78). -/
def closing (gs kt rt : Nat) : List Nat :=
  (List.range (ceilDiv kt gs)).filter (fun g => (min ((g + 1) * gs) kt - 1) / 64 = rt)

def gsz (x : TCtx) : Nat := groupSize x.d.gs
/-- Bytes of one reduction index of a tile, and of its codes section (R77). DEDUCED (log entry 35): also where a half's tile has fewer columns. -/
def idxBytes : Nat := 64
def codesLen : Nat := 64 * idxBytes
def scalesLen (x : TCtx) (rt : Nat) : Nat := roundUp ((closing x.gsz x.kTap rt).length * x.tileCols * 4) 64
def sumsLen (x : TCtx) (rt : Nat) : Nat := if x.d.afmt = 1 then x.scalesLen rt else 0
/-- The size of a tile without its outlier sections, and with them (R77). -/
def tileBase (x : TCtx) (rt : Nat) : Nat := codesLen + x.scalesLen rt + x.sumsLen rt
def outlLen (x : TCtx) : Nat := roundUp (x.tileCols * 8) 64 + roundUp (x.tileCols * 4) 64
def tileLen (x : TCtx) (rt : Nat) : Nat := x.tileBase rt + (if (x.inListed rt).isEmpty then 0 else x.outlLen)

/-- TILE_PITCH in bytes, and the address of tile k (R286). -/
def pitch (x : TCtx) : Nat := bits (argQ x.a 0x40) 63 48 * 64
def tileAddr (x : TCtx) (k : Nat) : Nat := argVa x.a 0x40 + k * x.pitch

/-- The index of the tile of column tile `ct`, tap `t`, reduction tile `rt`. -/
def tileIndex (x : TCtx) (ct t rt : Nat) : Nat := (ct * x.taps + t) * x.nrt + rt

/-- The weight of reduction index `i` and column `c` of a tile (R45). -/
def weight (x : TCtx) (tile : List Byte) (i c : Nat) : Int :=
  if x.d.wfmt = 1 then
    let b := leAt tile (i * idxBytes + c / 2) 1
    sext 4 (if c % 2 = 0 then b % 16 else b / 16)
  else sext 8 (leAt tile (i * idxBytes + c) 1)

/-- The scale and the stored sum of the j-th closing group and column `c`. -/
def tileScale (x : TCtx) (tile : List Byte) (j c : Nat) : S24 :=
  S24.ofSlot (leAt tile (codesLen + (j * x.tileCols + c) * 4) 4)
def tileSum (x : TCtx) (tile : List Byte) (rt j c : Nat) : Int :=
  sext 32 (leAt tile (codesLen + x.scalesLen rt + (j * x.tileCols + c) * 4) 4)

/-- The side weight of a slot, and the outlier scale of a column. -/
def sideWeight (x : TCtx) (tile : List Byte) (rt c slot : Nat) : Int := sext 8 (leAt tile (x.tileBase rt + c * 8 + slot) 1)
def sideScale (x : TCtx) (tile : List Byte) (rt c : Nat) : S24 :=
  S24.ofSlot (leAt tile (x.tileBase rt + roundUp (x.tileCols * 8) 64 + c * 4) 4)

/-- R60: the first scale of the tile above the limit, as its column in the tile and its group in the tap; DESIGN CHOICE (log 41): an outlier scale counts as
group 0xFFFF, after the others. -/
def badScale (x : TCtx) (tile : List Byte) (rt cn : Nat) : Option (Nat × Nat) :=
  ((enumFrom 0 (closing x.gsz x.kTap rt)).flatMap fun g => (List.range cn).filterMap fun c =>
      if (x.tileScale tile g.1 c).withinLimit then none else some (c, g.2)).head?.or
    (if (x.inListed rt).isEmpty then none
      else ((List.range cn).find? fun c => !(x.sideScale tile rt c).withinLimit).map fun c => (c, 0xFFFF))

/-- One element over one pass (R52 to R55, R78, R90): `codes` are the row's codes of the tile's real indices, `z` the zero point of the
group sums, `side` the side codes of the listed channels; the accumulator and the open group's partial, before and after. -/
def passElem (x : TCtx) (tile : List Byte) (rt c : Nat) (codes : List Int) (z : Int) (side : List Int) (acc part : Int) : Int × Int :=
  let gs := x.gsz
  let k0 := rt * 64
  let cl := closing gs x.kTap rt
  let prods := (enumFrom 0 codes).map fun p => (((k0 + p.1) / gs : Nat), x.weight tile p.1 c * p.2)
  let sumOf (g : Nat) : Int := sumInt ((prods.filter (fun p => p.1 == g)).map (·.2))
  let first := k0 / gs
  let close : Int × Nat → Nat → Int × Nat := fun st g =>
    let carry := if g = first then part else 0
    let w := if z = 0 then 0 else x.tileSum tile rt st.2 c
    (st.1 + mulS24 (carry + sumOf g - z * w) (x.tileScale tile st.2 c) 0, st.2 + 1)
  let acc1 := (cl.foldl close (acc, 0)).1
  let last := (k0 + codes.length - 1) / gs
  let open_ := if cl.contains last then 0 else (if last = first then part else 0) + sumOf last
  let go := sumInt ((enumFrom 0 side).map fun p => x.sideWeight tile rt c p.1 * p.2)
  (if side.isEmpty then acc1 else acc1 + mulS24 go (x.sideScale tile rt c) 0, open_)

/-- A pass over the given rows and `cn` columns: accumulators and partials row by row. -/
def passRun (x : TCtx) (tile : List Byte) (t rt cn : Nat) (rs : List Nat) (acc part : List Int) : List Int × List Int :=
  let listed := x.inListed rt
  let n := min 64 (x.kTap - rt * 64)
  let res := (enumFrom 0 rs).flatMap fun q =>
    let codes := (List.range n).map fun i => x.mainCode q.2 t (rt * 64 + i) listed
    let z := if x.wide then 0 else x.zRow q.2
    let side := (enumFrom 0 listed).map fun o => x.sideCode q.2 t rt o.1 o.2
    (List.range cn).map fun c => x.passElem tile rt c codes z side (atInt acc (q.1 * cn + c)) (atInt part (q.1 * cn + c))
  (res.map (·.1), res.map (·.2))

/-! ### Epilogue operands and output places -/

/-- The sum of the ACC64 addends of an element (R56). -/
def addendSum (x : TCtx) (r n : Nat) : Int :=
  sumInt ((List.range x.d.addends).map fun i =>
    sext 64 (leNat (x.rd (shortRow (argQ x.a (0xC0 + 8 * i)) r (8 * x.cols) + 8 * n) 8)))

/-- What the epilogue applies to an element (R62); `act` is the captured program of ACT. -/
def epiIn (x : TCtx) (act : Option SfProg) (r n : Nat) : EpiIn :=
  ⟨if x.d.ofmt = 3 then none else x.rowScale r,
    if x.d.bias then some (sext 32 (leNat (x.rd (argVa x.a 0x48 + 4 * n) 4))) else none, x.d.bshift,
    match act with | some p => some (p, x.d.actF) | none => none⟩

/-- The output multiplier of a column (R62, R94, R280). -/
def outMult (x : TCtx) (n : Nat) : S24 :=
  let o := if x.wide then 0x58 else 0x50
  if x.d.omode = 1 then S24.ofSlot (leNat (x.rd (argVa x.a o + 4 * n) 4)) else S24.ofSlot (argQ x.a o)

/-- The slot of output column `n` in its block's outlier list, if listed; the wide run has no list (R94). -/
def outSlot (x : TCtx) (n : Nat) : Option Nat :=
  if x.d.outOutl && !x.wide then
    (x.outlOffs (argVa x.a 0xB0) (n / 64)).findIdx? (fun o => o == n % 64)
  else none

/-- Where the main code of (row, column) goes in the narrow output, for codes of `size` bytes (R140, R141, R158, R279). -/
def outAddr (x : TCtx) (size r n : Nat) : Nat :=
  let q := x.pixel r
  if x.c2s then
    let ps := x.planes x.outRef
    let c := planeOfChannel ps 0 n
    match ps[c.1]? with
    | none => 0
    | some pl => sampleAddr pl size (q.2.1 * pl.fy + c.2.1) (q.2.2 * pl.fx + c.2.2)
  else if x.op = 2 then cell x.outRef size q.1 (n / 64) q.2.1 q.2.2 + n % 64 * size
  else x.outRef.base + r * x.outRef.yStride + n * size

/-- Where it goes in the wide output (R584). -/
def wideAddr (x : TCtx) (r n : Nat) : Nat := shortRow (argQ x.a 0x78) r (2 * x.cols) + 2 * n

/-- Where a side code goes (R89). -/
def sideAddr (x : TCtx) (r n slot : Nat) : Nat :=
  shortRow (argQ x.a 0xB8) r (16 * ceilDiv x.cols 64) + 16 * (n / 64) + 2 * slot

/-- The unused slots of a block's side record hold 0 (R89): they are written with the block's first column, of every block, listed channels or not. -/
def sideZeros (x : TCtx) (r n : Nat) : List (Nat × List Byte) :=
  let used := (x.outlOffs (argVa x.a 0xB0) (n / 64)).length
  if x.d.outOutl && !x.wide && n % 64 = 0 && used < 8 then [(x.sideAddr r n used, List.replicate (16 - 2 * used) 0)] else []

/-- The output format of the run: A16 in the wide run (R94). -/
def outFmt (x : TCtx) : Nat := if x.wide then 2 else x.d.ofmt

/-- The bytes one element writes, in static mode, with its flags (R62, R88): the main code or ACC64 value, and the side code. -/
def writeElem (x : TCtx) (act : Option SfProg) (acc : Int) (r n : Nat) : List (Nat × List Byte) × EpiOut × SfCount :=
  let total := acc + x.addendSum r n
  if x.d.ofmt = 3 then ([(x.outAddr 8 r n, leBytes 8 (wrapN 64 total))], ⟨0, false, false⟩, SfCount.zero)
  else
    let v := epiV (x.epiIn act r n) total
    let z : Int := if x.wide then 0 else (x.d.zOut : Int)
    let put (c : Int) : Nat × List Byte :=
      if x.wide then (x.wideAddr r n, codeBytes 2 c) else (x.outAddr (fmtSize x.d.ofmt) r n, codeBytes x.d.ofmt c)
    match x.outSlot n with
    | some slot =>
      let e := epiSide v (x.outMult n)
      (put (if x.d.ofmt = 1 then z else 0) :: (x.sideAddr r n slot, codeBytes 2 e.code) :: x.sideZeros r n, e, v.cnt)
    | none =>
      let e := epiCode v (x.outMult n) z x.outFmt false
      (put e.code :: x.sideZeros r n, e, v.cnt)

/-- A row in dynamic mode, from its v values (column, v, saturated so far) (R82, R83, R88): its writes, the row record, and how many
elements count as saturated and underflowed. DESIGN CHOICE (log 38), where the spec leaves it open: a side code raises the underflowed flag of R88 in dynamic mode
too, where R83 lets main codes raise none; a listed column of a row with D = 0, which has no multiplier, gets side code 0 and raises no underflow; the clamp of
the stored exponent counts one element more than are saturated already, unless all are. -/
def writeDynRow (x : TCtx) (r f : Nat) (vs : List (Nat × Int × Bool)) : List (Nat × List Byte) × RowRec × Nat × Nat :=
  let free := (vs.filter (fun e => (x.outSlot e.1).isNone)).map (fun e => e.2.1)
  let dr := dynRow free f x.outFmt x.d.rowExpAdj
  let outs := vs.map fun e =>
    let v : EpiV := ⟨e.2.1, f, e.2.2, SfCount.zero⟩
    let put (c : Int) : Nat × List Byte :=
      if x.wide then (x.wideAddr r e.1, codeBytes 2 c) else (x.outAddr (fmtSize x.d.ofmt) r e.1, codeBytes x.d.ofmt c)
    match dr.mult with
    | none =>
      match x.outSlot e.1 with
      | some slot => (put 0 :: (x.sideAddr r e.1 slot, codeBytes 2 0) :: x.sideZeros r e.1, (⟨0, e.2.2, false⟩ : EpiOut))
      | none => (put 0 :: x.sideZeros r e.1, ⟨0, e.2.2, false⟩)
    | some (m, z) =>
      match x.outSlot e.1 with
      | some slot =>
        let o := epiSide v m
        (put (if x.outFmt = 1 then z else 0) :: (x.sideAddr r e.1 slot, codeBytes 2 o.code) :: x.sideZeros r e.1, o)
      | none =>
        let o := epiCode v m z x.outFmt true
        (put o.code :: x.sideZeros r e.1, o)
  let satN := (outs.filter (fun o => o.2.sat)).length
  (outs.flatMap (·.1), dr.record, if dr.clamped && satN < vs.length then satN + 1 else satN, (outs.filter (fun o => o.2.uf)).length)

/-! ### Rows, tiles and passes of a member -/

/-- Rows of each member: consecutive blocks of ceil(M / n) (R123). -/
def share (x : TCtx) (n : Nat) : Nat := ceilDiv x.rows (max 1 n)

/-- The rows of member `i` of `n` in output tile `t` (R110, R111): up to 128 of its own. -/
def tileRows (x : TCtx) (n i t : Nat) : List Nat :=
  let lo := i * x.share n
  let hi := min x.rows (lo + x.share n)
  let a := lo + t / max 1 x.colTiles * 128
  (List.range (min 128 (hi - a))).map (a + ·)

/-- Output tiles of member `i` of `n`. -/
def tiles (x : TCtx) (n i : Nat) : Nat :=
  let lo := i * x.share n
  ceilDiv (min x.rows (lo + x.share n) - lo) 128 * x.colTiles

/-- The first column of output tile `t`, and how many columns it has. -/
def colBase (x : TCtx) (t : Nat) : Nat := t % max 1 x.colTiles * x.tileCols
def colCount (x : TCtx) (t : Nat) : Nat := min x.tileCols (x.cols - x.colBase t)

/-- The rows of every member in step `t` (R154). -/
def stepRows (x : TCtx) (n t : Nat) : List Nat := (List.range n).flatMap fun i => x.tileRows n i t

/-- The taps that run in step `t`, and how many are skipped (R152). -/
def tapList (x : TCtx) (n t : Nat) : List Nat := (List.range x.taps).filter fun tap => !x.tapSkipped (x.stepRows n t) tap

/-- The passes of step `t`: tap and reduction tile, in order (R110, R143). -/
def passList (x : TCtx) (n t : Nat) : List (Nat × Nat) :=
  (x.tapList n t).flatMap fun tap => (List.range x.nrt).map fun rt => (tap, rt)

/-- The pass that comes after pass `p` of output tile `t`, if any. -/
def nextPos (x : TCtx) (n i t p : Nat) : Option (Nat × Nat) :=
  if p + 1 < (x.passList n t).length then some (t, p + 1)
  else ((List.range (x.tiles n i)).drop (t + 1)).findSome? fun u => if (x.passList n u).isEmpty then none else some (u, 0)

end TCtx

/-- The code of a pass: output tile and pass. -/
def posCode (t p : Nat) : Nat := t * 2 ^ 32 + p

end Sys2Proof.Machine
end

