-- ==== Sys2Proof/Machine/WindowOps.lean ====
section
/-! DEFINITION. POOL and CROP (R159 to R165): what one unit of each writes. -/

namespace Sys2Proof.Machine.TCtx

/-- Channel blocks of the input of POOL or CROP. -/
def blocks (x : TCtx) : Nat := ceilDiv x.inRef.c 64

/-- The constant zero point of POOL and CROP: z of ISCALE for unsigned A8 in the narrow form, else 0. -/
def winZ (x : TCtx) : Int := if !x.wideIn && x.d.afmt = 1 then (x.constZ : Int) else 0

/-- Writes one code of a window operation's output image `n` at pixel (oy, ox), channel `ch`: narrow blocked cell, or the wide row form
under the wide input (R165, R584). -/
def winPut (x : TCtx) (oh ow n oy ox ch : Nat) (c : Int) : Nat × List Byte :=
  if x.wideIn then
    (shortRow (argQ x.a 0x78) ((n * oh + oy) * ow + ox) (2 * x.inRef.c) + 2 * ch, codeBytes 2 c)
  else
    let sz := fmtSize x.d.afmt
    (cell x.outRef sz n (ch / 64) oy ox + ch % 64 * sz, codeBytes x.d.afmt c)

/-- Output cells of POOL: images × pixels × blocks (R167). -/
def poolCells (x : TCtx) : Nat := x.inRef.n * x.outGrid.1 * x.outGrid.2 * x.blocks

/-- One output cell of POOL (R160): its writes, and whether its window was void. -/
def poolCell (x : TCtx) (i : Nat) : List (Nat × List Byte) × Bool :=
  let g := x.geo
  let og := x.outGrid
  let b := i % x.blocks
  let px := i / x.blocks
  let ox := px % og.2
  let oy := px / og.2 % og.1
  let n := px / (og.1 * og.2)
  let h := x.inRef.h
  let w := x.inRef.w
  let pos := (List.range (g.kh * g.kw)).map fun t =>
    ((((oy * g.sy + t / g.kw * g.dy : Nat) : Int) - g.pt), (((ox * g.sx + t % g.kw * g.dx : Nat) : Int) - g.pl))
  let takes := pos.filter fun p => inside p.1 p.2 h w || g.edge = 1
  let chans := min 64 (x.inRef.c - 64 * b)
  let z := x.winZ
  ((List.range chans).map fun c =>
      let ch := 64 * b + c
      let codes := takes.map fun p =>
        if inside p.1 p.2 h w then x.blockedCode n ch p.1.toNat p.2.toNat else x.padCode
      x.winPut og.1 og.2 n oy ox ch (poolCode (bitAt x.d.w2 0) (bitAt x.d.w2 1) (g.kh * g.kw) z codes).1,
    takes.isEmpty)

/-- An entry of an image table (R162). -/
structure Img where
  base : Nat
  yStride : Nat
  bStride : Nat
  h : Nat
  w : Nat
  oy : Int
  ox : Int
  deriving DecidableEq, Repr

def Img.ofBytes (b : List Byte) : Img :=
  ⟨bits (leAt b 0 8) 47 0, leAt b 8 4, leAt b 12 4, leAt b 16 2, leAt b 18 2, sext 32 (leAt b 20 4), sext 32 (leAt b 24 4)⟩

/-- R162: an entry's reserved bits are 0 and its fields legal. DESIGN CHOICE (log 39): an image whose BASE is no multiple of 64 is sampled as it stands. -/
def imgOk (b : List Byte) : Bool :=
  let i := Img.ofBytes b
  bits (leAt b 0 8) 63 48 = 0 && leAt b 28 4 = 0 && i.yStride % 64 = 0 && i.bStride % 64 = 0 && 1 ≤ i.h && 1 ≤ i.w

/-- The image table in force: the wide one under the wide input (R584). -/
def imgTable (x : TCtx) : Nat := if x.wideIn then bits (argQ x.a 0x88) 47 0 else x.inRef.base
def cropBoxes (x : TCtx) : Nat := bits x.d.w2 12 0
def cropOh (x : TCtx) : Nat := bits x.d.w2 20 13 + 1
def cropOw (x : TCtx) : Nat := bits x.d.w2 28 21 + 1
def cropImages (x : TCtx) : Nat := bits x.d.w2 39 32 + 1
def boxBytes (x : TCtx) (k : Nat) : List Byte := x.rd (argVa x.a 0x100 + 32 * k) 32
def imgBytes (x : TCtx) (i : Nat) : List Byte := x.rd (x.imgTable + 32 * i) 32

/-- PAD_CODE of CROP lies in W2 (R283). -/
def cropPad (x : TCtx) : Int :=
  let v := padValue x.d.afmt (bits x.d.w2 55 40)
  if x.wideIn && x.d.afmt = 1 then v - (x.constZ : Int) else v

/-- EDGE of CROP (R283): 0 ZERO, 1 CONST, 2 REPLICATE. -/
def cropEdge (x : TCtx) : Edge := edgeOf (bits x.d.w2 31 30)

/-- Whether box `k` is legal: reserved bits 0, and a valid box names an image of the table (R162, R164). -/
def boxOk (x : TCtx) (k : Nat) : Bool :=
  let b := x.boxBytes k
  let valid := bitAt (leAt b 18 1) 0
  leAt b 18 1 / 2 = 0 && leAt b 19 5 = 0 && leAt b 24 8 = 0 && (!valid || leAt b 16 2 < x.cropImages)

/-- Box `k` of CROP (R163, R164): its writes, and whether it was invalid. -/
def cropBox (x : TCtx) (k : Nat) : List (Nat × List Byte) × Bool :=
  let bb := x.boxBytes k
  let box := CropBox.ofBytes bb
  let valid := bitAt (leAt bb 18 1) 0
  let img := Img.ofBytes (x.imgBytes (leAt bb 16 2))
  let oh := x.cropOh
  let ow := x.cropOw
  let z := x.winZ
  let sz := fmtSize (if x.wideIn then 2 else x.d.afmt)
  let one (ch i j : Nat) : Int :=
    if !valid then z
    else
      let get (yy xx : Nat) : Int :=
        codeOf x.inFmt (x.rd (img.base + ch / 64 * img.bStride + yy * img.yStride + xx * (64 * sz) + ch % 64 * sz) sz)
      let rd (yy xx : Int) : Int := edgeRead get img.h img.w x.cropEdge z x.cropPad yy xx
      cropSample rd z (bitAt x.d.w2 29) box img.oy img.ox i j
  ((List.range x.inRef.c).flatMap fun ch => (List.range oh).flatMap fun i => (List.range ow).map fun j =>
      x.winPut oh ow k i j ch (one ch i j),
    !valid)

end Sys2Proof.Machine.TCtx
end

