-- ==== Sys2Proof/Machine/OperandList.lean ====
section
/-! DEFINITION. The operands of an instruction (R116, R278 to R282): every range of its own store that its argument block names, with the tally of R118 it counts under and whether it is written; and the checks at staging of R292 that need only the argument block. -/

namespace Sys2Proof.Machine

/-- An operand: the R118 order number of its wait (6 weights, 7 scales, 8 activations, 9 outputs), and its range. -/
structure Opnd where
  cls : Nat
  va : Nat
  len : Nat
  deriving DecidableEq, Repr

def Opnd.isOut (o : Opnd) : Bool := o.cls = 9
/-- The access of an operand: a read, or a write. -/
def Opnd.acc (o : Opnd) : Nat := if o.isOut then 1 else 0

namespace TCtx

def isMat (x : TCtx) : Bool := x.op = 1 || x.op = 5 || x.op = 0x10 || x.op = 0x12 || x.op = 0x13
/-- Columns of SOFTMAX are 17 bits wide (R283). -/
def softCols (x : TCtx) : Nat := bits x.d.w2 40 24
/-- Rows of the output, as R584 counts them. -/
def outRows (x : TCtx) : Nat :=
  if x.op = 2 || x.op = 3 then x.images * x.outGrid.1 * x.outGrid.2
  else if x.op = 4 then x.cropBoxes * x.cropOh * x.cropOw
  else x.d.m24
/-- Columns or channels of the output. -/
def outCols (x : TCtx) : Nat :=
  if x.op = 3 || x.op = 4 then x.inRef.c else if x.op = 0x13 then x.softCols else x.cols
/-- Rows of the input, as R584 counts them. -/
def inRows (x : TCtx) : Nat := if x.op = 2 || x.op = 3 then x.images * x.grid.1 * x.grid.2.1 else x.d.m24
/-- Columns or channels of the input. -/
def inCols (x : TCtx) : Nat :=
  if x.op = 1 then x.d.k21 else if x.op = 2 || x.op = 3 then x.grid.2.2 else if x.op = 4 then x.inRef.c
  else if x.op = 0x13 then x.softCols else x.cols

/-- `n` rows `stride` apart of `len` bytes. -/
def extent (n stride len : Nat) : Nat := if n = 0 then 0 else (n - 1) * stride + len
/-- The extent of a short reference. -/
def shortExt (q rows len : Nat) : Nat :=
  let st := bits q 63 48
  extent rows (if st = 0 then roundUp len 64 else st * 64) len
/-- The extent of a blocked tensor (R140). -/
def blockedExt (t : TRef) (n c h w size : Nat) : Nat :=
  extent n t.nStride (extent (ceilDiv c 64) t.bStride (extent (if t.ring = 0 then h else min h t.ring) t.yStride (w * 64 * size)))
/-- The extent of a plane (R141). -/
def planeExt (p : Plane) (size : Nat) : Nat :=
  extent (if p.ring = 0 then p.height else min p.height p.ring) p.pitch (p.width * size)

/-- The bytes of an image of CROP. -/
def imgExt (x : TCtx) (i : Img) (size : Nat) : Nat :=
  extent (ceilDiv x.inRef.c 64) i.bStride (extent i.h i.yStride (i.w * 64 * size))

/-- Tiles of the weight package (R286). -/
def tileCount (x : TCtx) : Nat := x.colTiles * x.taps * x.nrt

/-- The operands of an instruction that holds the operand area (R280, R281), without those a plane table or image table names. -/
def areaOps (x : TCtx) : List Opnd :=
  let a := x.a
  let op := x.op
  let isz := if op = 0x10 && x.d.accIn then 8 else fmtSize x.d.afmt
  let osz := if op = 3 || op = 4 then isz else fmtSize x.d.ofmt
  let inp := x.inRef
  let out := x.outRef
  let orows := x.outRows
  let ocols := x.outCols
  let epi := hasEpilogue op
  let wide := (epi && x.d.widenEn) || ((op = 3 || op = 4) && x.d.wideIn)
  let opt (c : Bool) (l : List Opnd) : List Opnd := if c then l else []
  opt (op ≠ 5) (if x.s2c then [⟨8, inp.base, 32 * inp.c⟩]
    else if op = 4 then [⟨8, inp.base, 32 * x.cropImages⟩, ⟨8, argVa a 0x100, 32 * x.cropBoxes⟩]
    else if op = 2 || op = 3 then [⟨8, inp.base, blockedExt inp inp.n inp.c inp.h inp.w isz⟩]
    else [⟨8, inp.base, extent x.d.m24 inp.yStride (x.inCols * isz)⟩])
  ++ (if x.c2s then [⟨8, out.base, 32 * out.c⟩]
    else if op = 2 || op = 3 then [⟨9, out.base, blockedExt out x.images ocols x.outGrid.1 x.outGrid.2 osz⟩]
    else if op = 4 then [⟨9, out.base, blockedExt out x.cropBoxes ocols x.cropOh x.cropOw osz⟩]
    else [⟨9, out.base, extent x.d.m24 out.yStride (ocols * osz)⟩])
  ++ opt (op = 1 || op = 2) [⟨6, argVa a 0x40, extent x.tileCount x.pitch (if x.pitch = 0 then 1 else x.pitch)⟩]
  ++ opt (epi && x.d.bias) [⟨7, argVa a 0x48, 4 * x.cols⟩]
  ++ opt (epi && x.d.omode = 1) [⟨7, argVa a 0x50, 4 * x.cols⟩]
  ++ opt (epi && x.d.omode = 1 && x.d.widenEn) [⟨7, argVa a 0x58, 4 * x.cols⟩]
  ++ opt (x.d.imode = 2) [⟨7, argVa a 0x60, 8 * x.inRows⟩]
  ++ opt wide [⟨9, argVa a 0x70, 4⟩, ⟨9, argVa a 0x78, shortExt (argQ a 0x78) orows (2 * ocols)⟩]
  ++ opt (x.d.wideIn && op ≠ 4) [⟨8, argVa a 0x88, shortExt (argQ a 0x88) x.inRows (2 * x.inCols)⟩]
  ++ opt (x.d.wideIn && op = 4) [⟨8, argVa a 0x88, 32 * x.cropImages⟩]
  ++ opt (x.d.wideIn && x.d.imode = 2) [⟨7, argVa a 0x90, 8 * x.inRows⟩]
  ++ opt ((epi && x.d.omode = 2) || op = 0x13) [⟨9, argVa a 0x98, 8 * orows⟩]
  ++ opt (epi && x.d.inOutl) [⟨8, argVa a 0xA0, 8 * ceilDiv x.inCols 64⟩]
  ++ opt (epi && x.d.inOutl && !x.d.wideIn) [⟨8, argVa a 0xA8, shortExt (argQ a 0xA8) x.inRows (16 * ceilDiv x.inCols 64)⟩]
  ++ opt (epi && x.d.outOutl) [⟨8, argVa a 0xB0, 8 * ceilDiv ocols 64⟩,
      ⟨9, argVa a 0xB8, shortExt (argQ a 0xB8) orows (16 * ceilDiv ocols 64)⟩]
  ++ (if epi then (List.range x.d.addends).map fun i =>
      ⟨8, argVa a (0xC0 + 8 * i), shortExt (argQ a (0xC0 + 8 * i)) orows (8 * ocols)⟩ else [])
  ++ opt (op = 0x12) [⟨7, argVa a 0x100, x.d.m24 * bits x.d.w2 44 40 * 32⟩]
  ++ opt (op = 0x12 && bitAt x.d.w2 46) [⟨7, argVa a 0x108 + 4 * leAt a 0x120 4, 4 * x.cols⟩]
  ++ opt (op = 0x12 && bitAt x.d.w2 47) [⟨7, argVa a 0x110 + 4 * leAt a 0x120 4, 4 * x.cols⟩]

/-- The record a RANS_DEC stages: its own RECORD_BYTES, or only its header when that is no legal length (R223). -/
def recLen (x : TCtx) : Nat := max 64 (leNat (x.rd (argVa x.a 0x10 + 44) 4))

/-- The operands of an instruction (R116, R280 to R282). -/
def opnds (x : TCtx) : List Opnd :=
  let a := x.a
  let d := x.d
  let sz := fmtSize d.afmt
  let v (o : Nat) : Nat := argVa a o
  let ssz := if d.symFmt = 1 then 2 else 1
  if hasArea x.op then x.areaOps
  else match x.op with
  | 0x11 => [⟨8, v 0, shortExt (argQ a 0) d.m24 (x.softCols * sz)⟩, ⟨9, v 8, 32 * d.m24⟩]
  | 0x14 => [⟨7, v 0, 512⟩, ⟨9, v 8, 64 * (roundUp (2 * (bits d.w2 11 0 + 1)) 64)⟩]
  | 0x15 => [⟨8, v 0, d.count32 * sz⟩, ⟨9, v 8, d.count32⟩, ⟨7, v 0x10, 126⟩]
  | 0x16 => [⟨8, v 0, sfExtent (leNat (x.rd (v 0 + 8) 2)) (leNat (x.rd (v 0 + 5) 1))⟩]
  | 0x20 => [⟨8, v 0, bits d.w2 8 2 * roundUp (2 * (bits d.w2 20 9 + 1)) 64⟩]
  | 0x21 => [⟨8, v 0, d.count32 * ssz⟩, ⟨8, v 0x20, 16⟩, ⟨9, v 0x10, bits (argQ a 0x18) 31 0⟩]
      ++ (if d.cycleMode then [] else [⟨8, v 8, d.count32⟩])
  | 0x22 => [⟨9, v 0, d.count32 * ssz⟩, ⟨8, v 0x10, x.recLen⟩,
        ⟨9, v 0x28, ceilDiv (leNat (x.rd (v 0x10 + 24) 2)) 8⟩]
      ++ (if d.cycleMode then [] else [⟨8, v 8, d.count32⟩])
  | _ => []

/-- The ranges that a plane table or an image table names (R141, R162); they are data, checked as R142 says. -/
def tableOps (x : TCtx) : List Opnd :=
  (if x.s2c then (x.planes x.inRef).map fun p => ⟨8, p.base, planeExt p (fmtSize x.d.afmt)⟩ else [])
  ++ (if x.c2s then (x.planes x.outRef).map fun p => ⟨9, p.base, planeExt p (fmtSize x.d.ofmt)⟩ else [])
  ++ (if x.op = 4 then (List.range x.cropImages).map fun i =>
      let m := Img.ofBytes (x.imgBytes i)
      ⟨8, m.base, x.imgExt m (fmtSize x.inFmt)⟩ else [])

/-! ### Checks at staging (R291, R292) -/

/-- Bits outside a mask are 0. -/
def clear (v mask : Nat) : Bool := v &&& (2 ^ 64 - 1 - mask) = 0
def m48 : Nat := 2 ^ 48 - 1
def m32 : Nat := 2 ^ 32 - 1

/-- A tensor reference's reserved bits are 0 and its addresses aligned (R140, R279). -/
def refOk (a : List Byte) (o : Nat) (planar blocked : Bool) : Bool :=
  let t := TRef.at a o
  bits (argQ a o) 63 48 = 0 && leAt a (o + 30) 2 = 0
    && (planar || (t.yStride % 64 = 0 && (!blocked || (t.base % 64 = 0 && t.bStride % 64 = 0 && t.nStride % 64 = 0))))

/-- R151, R76: padding with a constant takes no outlier list, row records only a convolution of one tap. -/
def padListOk (x : TCtx) : Bool := !(x.d.inOutl && x.geo.edge = 1) && !(x.op = 2 && x.d.imode = 2 && x.taps ≠ 1)

/-- The limits of R147 to R149, and the layouts of R142; a planar tensor has one image (R141). DESIGN CHOICE (log 39): N of a planar output reference is not
looked at. -/
def geoOk (x : TCtx) : Bool :=
  let g := x.geo
  let op := x.op
  let kmax := if op = 2 then 255 else 4096
  let dmax := if op = 2 then 4095 else 255
  let gf := leAt x.a 0x117 1
  let i := x.inRef
  argQ x.a 0x118 = 0 && gf < 4 && (op = 2 || gf = 0) && gf ≠ 3 && g.edge ≤ 1 && (!x.s2c || g.edge = 0)
    && within g.kh 1 kmax && within g.kw 1 kmax && g.kh * g.kw ≤ 2 ^ 20
    && within g.sy 1 kmax && within g.sx 1 kmax && within g.dy 1 dmax && within g.dx 1 dmax
    && padOk x.d.afmt g.padCode
    && (if x.s2c then within i.c 1 16 && i.n = 1
      else within i.h 1 65535 && within i.w 1 65535 && within i.n 1 65535 && within i.c 1 65535)
    && (!x.c2s || (within x.outRef.c 1 16 && i.n = 1))

/-- The output size is at most 65,535 in each dimension (R147), the reduction length of a convolution at most 2^20 (R60, R148). -/
def sizeOk (x : TCtx) : Bool := x.outGrid.1 ≤ 65535 && x.outGrid.2 ≤ 65535 && (x.op ≠ 2 || x.grid.2.2 * x.taps ≤ 2 ^ 20)
/-- An output size of 0 (R147). -/
def emptyOut (x : TCtx) : Bool := (x.op = 2 || x.op = 3) && (x.outGrid.1 = 0 || x.outGrid.2 = 0)

/-- R286: every tile fits the pitch without its outlier sections. -/
def pitchOk (x : TCtx) : Bool :=
  let p := bits (argQ x.a 0x40) 63 48
  within p 1 255 && (List.range (min 2 x.nrt)).all (fun rt => x.tileBase rt ≤ x.pitch)
    && x.tileBase (x.nrt - 1) ≤ x.pitch

/-- The checks on the entries of the operand area that are used (R278, R280, R281), in the numbers of `firstBad`. -/
def areaChecks (x : TCtx) : List (Bool × Nat) :=
  let a := x.a
  let op := x.op
  let epi := hasEpilogue op
  let win := op = 3 || op = 4
  let blocked := op = 2 || op = 3 || op = 4
  let va (use_ : Bool) (o : Nat) : Bool := !use_ || clear (argQ a o) m48
  let mult (use_ : Bool) (o : Nat) : Bool := !use_ || clear (argQ a o) (if x.d.omode = 1 then m48 else m32)
  let iscale (use_ : Bool) (o zmask : Nat) : Bool :=
    !use_ || clear (argQ a o) (if x.d.imode = 2 then m48 else m32 + zmask * 2 ^ 32)
  let named := argVa a 0x70 ≠ 0 && argVa a 0x78 ≠ 0
  let wide := (epi && x.d.widenEn) || (win && x.d.wideIn)
  let gflags := leAt a 0x117 1
  [((op = 5 || refOk a 0 (x.s2c || op = 4) blocked) && refOk a 0x20 x.c2s blocked, 10),
    (va (epi && x.d.bias) 0x48 && mult (epi && x.d.omode ≠ 2) 0x50 && mult (epi && x.d.widenEn && x.d.omode ≠ 2) 0x58
      && iscale (!(op = 5 && x.d.imode = 0)) 0x60 0xFF && iscale x.d.wideIn 0x90 0
      && va wide 0x70 && va x.d.wideIn 0x80 && va ((epi && x.d.omode = 2) || op = 0x13) 0x98
      && va (epi && x.d.inOutl) 0xA0 && va (epi && x.d.outOutl) 0xB0, 10),
    (!(epi && x.d.widenEn) || named, 13), (!(win && x.d.wideIn) || named, 18), (!x.d.wideIn || argVa a 0x80 ≠ 0, 26),
    (!(op = 1 && 5 ≤ x.d.argLen) || gflags = 0 || gflags = 2, 10),
    (!x.c2s || x.d.omode ≠ 2, 7),
    (!(op = 1 && x.c2s) || within x.outRef.c 1 16, 11),
    (!(op = 2 || op = 3) || x.geoOk, 11), (!(op = 2 || op = 3) || x.padListOk, 12),
    (op ≠ 4 || clear (argQ a 0x100) m48, 10), (op ≠ 4 || padOk x.d.afmt (bits x.d.w2 55 40), 11),
    (!(op = 1 || op = 2) || x.pitchOk, 16),
    (op ≠ 0x12 || (clear (argQ a 0x100) m48 && va (bitAt x.d.w2 46) 0x108 && va (bitAt x.d.w2 47) 0x110 && leAt a 0x124 4 = 0), 10),
    (op ≠ 0x12 || ((!bitAt x.d.w2 46 || argVa a 0x108 ≠ 0) && (!bitAt x.d.w2 47 || argVa a 0x110 ≠ 0)), 26),
    (op ≠ 0x12 || within (leAt a 0x11C 4) 1 (2 ^ 20), 26),
    (op ≠ 0x12 || x.d.omode ≠ 2 || (leAt a 0x120 4 = 0 && x.cols = leAt a 0x11C 4), 26),
    (op ≠ 0x13 || clear (argQ a 0x100) m32, 10)]

/-- The checks of the argument blocks of R282. -/
def plainOk (x : TCtx) : Bool :=
  let a := x.a
  let v (o : Nat) : Bool := clear (argQ a o) m48
  match x.op with
  | 0x11 => v 8 && clear (argQ a 0x10) 0xFF
  | 0x14 => v 0 && v 8
  | 0x15 => v 0 && v 8 && v 0x10
  | 0x16 => v 0
  | 0x20 => v 0 && clear (argQ a 8) m32
  | 0x21 => v 0 && (x.d.cycleMode || v 8) && v 0x10 && clear (argQ a 0x18) m32 && v 0x20 && 64 ≤ argQ a 0x18
  | 0x22 => v 0 && (x.d.cycleMode || v 8) && v 0x10 && v 0x28
  | _ => true

/-- The check at staging that fails of those that the argument block alone decides, 0 if none does (R291, R292). -/
def stageCheck (x : TCtx) : Nat :=
  firstBad ((if hasArea x.op then x.areaChecks else [(x.plainOk, 10)])
    ++ [(x.opnds.all (fun o => o.len = 0 || o.va ≠ 0), 26), (!(x.op = 2 || x.op = 3) || x.sizeOk, 11)])

/-- Those checks hold. -/
def stageOk (x : TCtx) : Bool := x.stageCheck = 0

/-- The data conditions of R142, R155, R164 on plane tables, image tables and box lists (R292, run). DESIGN CHOICE (log 39), where the spec leaves it open: the
channels of an output's planes must come to NCOL; the grid of a MATMUL whose M is no multiple of its width has ceil(M / W) rows. -/
def tablesOk (x : TCtx) : Bool :=
  let pl (t : TRef) (out : Bool) (sz : Nat) : Bool :=
    (List.range t.c).all fun i => planeOk (x.rd (t.base + 32 * i) 32) sz out
  (!x.s2c || (pl x.inRef false (fmtSize x.d.afmt) && planesGrid (x.planes x.inRef) x.grid.1 x.grid.2.1
      && (!x.d.inOutl || (x.planes x.inRef).all (fun p => p.edge = 0))))
    && (!x.c2s || (pl x.outRef true (fmtSize x.d.ofmt)
      && (if x.op = 2 then planesGrid (x.planes x.outRef) x.outGrid.1 x.outGrid.2
        else planesGrid (x.planes x.outRef) (ceilDiv x.d.m24 (max 1 x.inRef.w)) x.inRef.w)
      && planeStart (x.planes x.outRef) (x.planes x.outRef).length = x.cols))
    && (x.op ≠ 4 || ((List.range x.cropImages).all (fun i => imgOk (x.imgBytes i)) && (List.range x.cropBoxes).all x.boxOk))

end TCtx

end Sys2Proof.Machine
end

