-- ==== Sys2Proof/Machine/Issue.lean ====
section
/-! DEFINITION. Tags and completion records (R264, R289, R290), the issue queues (R287), fault records (R138, R139), the end of an instruction (R128, R293, R312, R544), and its holds, pins and captured epochs (R116, R183, R312). -/

namespace Sys2Proof.Machine

/-- The descriptor of an entry. -/
def Entry.d (e : Entry) : Desc := ⟨e.w0.toNat, e.w1.toNat, e.w2.toNat, e.w3.toNat⟩
def Entry.op (e : Entry) : Nat := e.d.opcode
def Entry.target (e : Entry) : Nat := e.d.target

/-- What an entry's run reads (R116): memory through its cluster's translations. -/
def Dev.ctx (s : Dev) (k : Nat) (e : Entry) : TCtx :=
  ⟨fun va n => s.vaBytes (k / 168) (k % 168) va n, e.d, e.args, e.run.wideIn, e.run.wide⟩

/-- Changes an entry, and its run. -/
def onEntry (k uid : Nat) (f : Entry → Entry) : Prog :=
  onCl k fun c => { c with entries := c.entries.map fun e => if e.uid == uid then f e else e }
def onRun (k uid : Nat) (f : Run → Run) : Prog := onEntry k uid fun e => { e with run := f e.run }

/-- The entries in a queue, oldest first (R287, R288): an instruction keeps its entry until it completes. -/
def Cluster.inQueue (c : Cluster) (q : Nat) : List Entry := c.entries.filter fun e => (targetQueues e.target).contains q

/-- Whether an instruction stands first in every queue it occupies: only then may it complete after it has issued, since a target completes its
instructions in issue order (R287). -/
def Cluster.first (c : Cluster) (e : Entry) : Bool :=
  (targetQueues e.target).all fun q => match c.inQueue q with | x :: _ => x.uid == e.uid | [] => false

/-- The engine number of a target in fault records (R138), and its index in log entries. -/
def engineOf (t : Nat) : Nat :=
  match targetArrays t with
  | a :: _ => a
  | [] => if t = 0x10 then 4 else if t = 0x18 then 0 else if t = 0x19 then 1 else if 0x20 ≤ t && t < 0x24 then t - 0x20 else 0

/-- Array targets and the MVE: those of the tensor core. -/
def isTcTarget (t : Nat) : Bool := t ≤ 0x10
/-- KIND of a target's unit (R355): 2 array feeder, 3 SF core, 4 coder core. -/
def kindOf (t : Nat) : Nat := if isTcTarget t then 2 else if t = 0x18 || t = 0x19 then 3 else 4

/-- The bits of `gated` that a target's engines use (R119, R171, R207): 0 to 3 the arrays, 4 the MVE, 5 the EPE, 6 and 7 the SF cores, 8 to 11 the coder
cores. -/
def gateBits (t : Nat) : List Nat :=
  if t = 0x10 then [4, 5] else if t = 0x24 then [8, 9, 10, 11] else if kindOf t = 3 then [6 + engineOf t] else if kindOf t = 4 then [8 + engineOf t]
  else targetArrays t ++ [5]

/-- The unit that issues an entry's accesses: engine or core number `n` of its target. -/
def Entry.unitOf (e : Entry) (k n : Nat) : UnitRef := ⟨kindOf e.target, k % 168, n, 0, e.uid⟩
/-- Whether a unit works for an entry of cluster k. -/
def Entry.owns (e : Entry) (k : Nat) (u : UnitRef) : Bool := u.kind == kindOf e.target && u.p == k % 168 && u.uid == e.uid

/-- Where an instruction is when a fault is recorded (R138): engine (0 to 3 the arrays, 4 the MVE, 5 the EPE), output tile, pass. -/
structure FaultAt where
  eng : Nat
  tile : Nat
  pass : Nat
  deriving DecidableEq, Repr

/-- Before any output tile has started. -/
def Entry.atStart (e : Entry) : FaultAt := ⟨engineOf e.target, 0, 0⟩
/-- The array of a member's target, 4 for the MVE. -/
def memberArray (t : Nat) : Nat := if t < 16 then t else if t < 32 then (t - 16) / 2 else 4
/-- A member at a pass of an output tile; a gang is named by its lowest member (R138). -/
def Entry.atPass (e : Entry) (t tile pass : Nat) : FaultAt := ⟨if e.run.gang then engineOf e.target else memberArray t, tile, pass⟩
/-- The EPE on a finished tile, after its last pass; a half is named by its array (R126). DEDUCED (log 41). -/
def Entry.atEpe (e : Entry) (tile passes : Nat) : FaultAt := ⟨if isHalf e.target then engineOf e.target else 5, tile, passes - 1⟩

/-- A wait tally of R118 (order number n) on the block of a target (R138, R196, R231). -/
def waitTally (k t n : Nat) : Prog :=
  let o := 4 * (n - 1)
  if isTcTarget t then tally .tc (k / 168) (k % 168) (R.TC_WAIT_PREEMPT + o) 1
  else if kindOf t = 3 then tally .sf (k / 168) (k % 168) (R.SF_WAIT_PREEMPT + o) 1
  else tally .cc (k / 168) (k % 168) (R.CC_WAIT_PREEMPT + o) 1

/-- Adds one to a tensor-core counter. -/
def tcTally (k off n : Nat) : Prog := tally .tc (k / 168) (k % 168) off n

/-! ### Commands -/

/-- The queue number of a command key, 0xFFFF for none. -/
def queueOf (cmd : Nat) : Nat := if cmd < 2 ^ 32 then 0xFFFF else cmd / 2 ^ 32 - 1
/-- The die of a command. -/
def cmdDie (cmd : Nat) : Nat := queueOf cmd / 256

/-- The command with a key, if it is in flight. -/
def Dev.cmdOf (s : Dev) (cmd : Nat) : Option Command :=
  if cmd < 2 ^ 32 then none else (s.drv (cmdDie cmd)).cmds.find? fun c => c.key == cmd

/-- Changes a command. -/
def onCmd (cmd : Nat) (f : Command → Command) : Prog :=
  if cmd < 2 ^ 32 then .skip
  else onDrv (cmdDie cmd) fun v => { v with cmds := v.cmds.map fun c => if c.key == cmd then f c else c }

/-- R549: a write by a command of a REPLAYABLE queue. -/
def noteWrite (cmd a n : Nat) : Prog := look fun s =>
  only (s.replayable cmd && n ≠ 0) (onCmd cmd fun c =>
    if c.wrote.any (fun r => decide (r.1 ≤ a) && decide (a + n ≤ r.1 + r.2)) then c else { c with wrote := c.wrote ++ [(a, n)] })

/-- Whether a command's runs have written an address (R549). -/
def Dev.regionWrote (s : Dev) (cmd a : Nat) : Bool :=
  match s.cmdOf cmd with
  | some c => c.wrote.any fun r => decide (r.1 ≤ a) && decide (a < r.1 + r.2)
  | none => false

/-- Writes bytes at virtual addresses for a command. -/
def cmdWrites (k cmd : Nat) (ws : List (Nat × List Byte)) : Prog := forAll ws fun w => look fun s =>
  progs [vaWrite (k / 168) (k % 168) w.1 w.2 false, noteWrite cmd (s.dpaOf (k / 168) (k % 168) w.1) w.2.length]

/-! ### Tags -/

/-- The n-th free tag, the used ones being listed rising. -/
def nthFree (used : List Nat) (n : Nat) : Nat := used.foldl (fun n t => if t ≤ n then n + 1 else n) n

/-- Allocates a tag (R262): any free one. The continuation takes the tag and the number of the allocation. -/
def allocTag (k cmd : Nat) (f : Nat → Nat → Prog) : Prog := withFree fun v => look fun s =>
  let c := s.cl k
  let tag := nthFree (c.tags.map (·.1)) (v % max 1 (4096 - c.tags.length))
  let uid := c.lastUid + 1
  progs [onCl k fun c => { c with tags := sput c.tags tag ⟨uid, cmd, false, []⟩, lastUid := uid }, f tag uid]

/-- Whether a tag is free for allocation. -/
def Cluster.hasTag (c : Cluster) : Bool := c.tags.length < 4096

/-- Binds the dependencies of a descriptor (R276): those whose tag is allocated and not complete. -/
def Cluster.bindDeps (c : Cluster) (tags : List Nat) : List Dep :=
  tags.filterMap fun t => match c.tags.find? (fun x => x.1 == t) with
    | some x => if x.2.done then none else some ⟨x.2.uid, none⟩
    | none => none

/-- A dependency list after an allocation completed. -/
def setDeps (uid st : Nat) (l : List Dep) : List Dep := l.map fun x => if x.uid == uid then { x with status := some st } else x

/-- Completes a tag with its record (R264, R289, R323): it and every dependency bound to the allocation, in the queues and in save areas
(R472). -/
def completeTag (k uid : Nat) (record : List Byte) : Prog := look fun s =>
  let st := leAt record 0 1
  let fe (e : Entry) : Entry := { e with deps := setDeps uid st e.deps }
  progs [
    onCl k fun c => { c with
      tags := c.tags.map fun x => if x.2.uid == uid then (x.1, { x.2 with done := true, record := record }) else x
      entries := c.entries.map fe
      barges := c.barges.map fun b => { b with deps := setDeps uid st b.deps } },
    only ((s.drv (k / 168)).cmds.any (fun c => !c.saved.isEmpty)) (onDrv (k / 168) fun v => { v with cmds := v.cmds.map fun c =>
      { c with saved := c.saved.map fun x => if s.physOf (k / 168) x.logical = k % 168 then { x with entries := x.entries.map fe } else x } })]

/-- Core cycles since the cluster's wake (R239, R289). -/
def Dev.clCycles (s : Dev) (k : Nat) : Nat := coreCycles (s.clock - (s.cl k).wakeAt)

/-- The R118 cause with the most cycles, 0 for none (R289). -/
def waitCause (w : List Nat) : Nat :=
  match w with
  | [] => 0
  | x :: r =>
    let m := r.foldl max x
    if m = 0 then 0 else (w.findIdx? (fun y => y == m)).getD 0 + 1

/-- Whether AUX values are reported (R290). -/
def hasAux (op : Nat) : Bool := op = 2 || op = 3 || op = 4 || op = 0x12 || op = 0x13 || op = 0x21 || op = 0x22

/-- The completion record of R289. -/
def Dev.record (s : Dev) (k : Nat) (e : Entry) (status cause und : Nat) (flag : Bool) : List Byte :=
  let r := e.run
  let flags := b2n r.wide + 2 * b2n r.gang + 4 * b2n r.retried + 8 * b2n e.depFailed + 16 * b2n e.resumed + 32 * b2n flag
  let sum := min (e.waits.foldl (· + ·) 0) 0xFFFFFFFF
  leBytes 1 status ++ leBytes 1 e.op ++ leBytes 1 e.target ++ leBytes 1 flags ++ leBytes 2 e.tag
    ++ leBytes 1 (if isTcTarget e.target then cause else 0) ++ leBytes 1 (if status = 0x60 then und else 0)
    ++ leBytes 4 r.satN ++ leBytes 4 r.ufN ++ leBytes 4 (if r.wide then r.satW else 0) ++ leBytes 4 (if r.wide then r.ufW else 0)
    ++ leBytes 4 (if hasAux e.op then r.aux0 else 0) ++ leBytes 4 r.units ++ leBytes 8 (if hasAux e.op then r.aux1 else 0)
    ++ leBytes 8 (if e.issued then e.tIssue else 0) ++ leBytes 8 (s.clCycles k)
    ++ leBytes 4 sum ++ leBytes 1 (waitCause e.waits) ++ leBytes 1 0
    ++ leBytes 2 (if kindOf e.target = 2 then 0 else match e.captured with | c :: _ => c.epoch | [] => 0)

/-! ### Fault records (R138, R139) -/

/-- The half of a target: 0 whole or gang, 1 H0, 2 H1. -/
def halfOf (t : Nat) : Nat := if isHalf t then (t - 4) % 2 + 1 else 0

/-- A fault or refusal of an instruction (R60, R138, R139, R291): TC_FAULT_* for the tensor core's targets when `reg` says so, and the event log always. DESIGN
CHOICE (log 41), how a log entry holds those fields: INDEX is the engine, with 8 × HALF; DATA is the target, the opcode, the check (its row in the table of
R292), the pass and the output tile; `info`, the virtual address, or the column and group of a scale, is the DATA of a second entry. -/
def faultRecord (k : Nat) (e : Entry) (code cause : Nat) (w : FaultAt) (check : Nat) (info : Option Nat) (reg : Bool) : Prog := look fun s =>
  let d := k / 168
  let p := k % 168
  let va := if cause = 2 || cause = 3 then info.getD 0 else 0
  let entry (data : Nat) : Prog := logE (s.clusterEntry 3 (kindOf e.target) code cause d p (w.eng + 8 * halfOf e.target) e.tag (queueOf e.cmd) data)
  progs [
    entry (e.target + e.op * 2 ^ 8 + check % 2 ^ 16 * 2 ^ 16 + w.pass % 2 ^ 16 * 2 ^ 32 + w.tile % 2 ^ 16 * 2 ^ 48),
    match info with | some v => entry v | none => .skip,
    only (reg && isTcTarget e.target) (
      if s.fld .tc d p R.TC_FAULT_STATUS 31 31 = 1 then setFld .tc d p R.TC_FAULT_STATUS 30 30 1
      else progs [
        holdRecord .tc d p R.TC_FAULT_STATUS (2 ^ 31 + code * 2 ^ 16 + halfOf e.target * 2 ^ 11 + w.eng * 2 ^ 8 + cause),
        setReg .tc d p R.TC_FAULT_TAG e.tag,
        setReg .tc d p R.TC_FAULT_POS (w.tile % 2 ^ 16 * 2 ^ 16 + w.pass % 2 ^ 16),
        setReg .tc d p R.TC_FAULT_VADDR_LO (va % 2 ^ 32),
        setReg .tc d p R.TC_FAULT_VADDR_HI (va / 2 ^ 32 % 2 ^ 16)])]

/-! ### Holds, pins, captured epochs -/

/-- Ends the instruction holds of an entry (R312). -/
def dropHolds (e : Entry) : Prog := forAll e.holds fun h => progs [
  onBlk h.1 h.2 fun b => { b with holds := b.holds - 1 },
  freeDone h.1]

/-- Adds `n` to, or takes one from, the user count of a captured bank (R183). -/
def users (k : Nat) (cap : Capture) (up : Bool) : Prog :=
  let f (n : Nat) : Nat := if up then n + 1 else n - 1
  onCl k fun c =>
    if cap.rans then
      let x := sget (fun _ => CtSlot.atWake) c.ct cap.slot
      let y := if cap.epoch % 2 = 0 then { x with users0 := f x.users0 } else { x with users1 := f x.users1 }
      { c with ct := sset (fun _ => CtSlot.atWake) c.ct cap.slot y }
    else
      let x := sget SfSlot.atWake c.sf cap.slot
      let y := if cap.epoch % 2 = 0 then { x with users0 := f x.users0 } else { x with users1 := f x.users1 }
      { c with sf := sset SfSlot.atWake c.sf cap.slot y }

/-- Gives up an entry's pins (R116). -/
def unpin (k : Nat) (e : Entry) : Prog :=
  only (!e.pinned.isEmpty) (onCl k fun c => { c with tlb := c.tlb.map fun t => if e.pins t then { t with pins := t.pins - 1 } else t })

/-- The epoch of a slot. -/
def Cluster.slotEpoch (c : Cluster) (rans : Bool) (slot : Nat) : Nat :=
  if rans then (sget (fun _ => CtSlot.atWake) c.ct slot).epoch else (sget SfSlot.atWake c.sf slot).epoch

/-- The slot an instruction evaluates, if any (R133, R183, R217). SOFTMAX uses its own published program. -/
def Desc.slotUsed (x : Desc) : Option (Bool × Nat) :=
  if hasEpilogue x.opcode then (if x.act ≤ 9 then some (false, x.act) else none)
  else if x.opcode = 0x14 then some (false, bits x.w2 27 24)
  else if x.opcode = 0x21 || x.opcode = 0x22 then some (true, x.slot2)
  else none

/-- The program an entry captured, if it evaluates one. -/
def Dev.actProg (s : Dev) (k : Nat) (e : Entry) : Option SfProg :=
  match e.captured.find? (fun c => !c.rans) with
  | some c =>
    let x := sget SfSlot.atWake (s.cl k).sf c.slot
    some (if c.epoch % 2 = 0 then x.bank0 else x.bank1)
  | none => none

/-- The rANS bank an entry captured. -/
def Dev.ctBank (s : Dev) (k : Nat) (e : Entry) : CtBank :=
  match e.captured.find? (fun c => c.rans) with
  | some c =>
    let x := sget (fun _ => CtSlot.atWake) (s.cl k).ct c.slot
    if c.epoch % 2 = 0 then x.bank0 else x.bank1
  | none => CtBank.blank

/-! ### The end of an instruction -/

/-- Makes the written ranges of an instruction undefined (R95, R222): those of a widening instruction or a RANS_ENC that had issued. -/
def undefOuts (k : Nat) (e : Entry) : Prog := look fun s =>
  let x := s.ctx k e
  only (e.issued && ((hasEpilogue e.op && e.d.widenEn) || e.op = 0x21)) (
    forAll ((x.opnds ++ x.tableOps).filter fun o => o.isOut && (e.op = 0x21 || o.va ≠ argVa e.args 0x70)) fun o =>
      forAll (pagePieces o.va o.len) fun q => look fun s =>
        let a := s.dpaOf (k / 168) (k % 168) q.1
        only (a ≠ 0) (.upd (.undef a q.2)))

/-- Empties the engine registers that hold a tile of an entry. -/
def Engine.drop (uid : Nat) (g : Engine) : Engine :=
  let f (w : WTile) : WTile := if w.uid == uid then { w with uid := 0 } else w
  ⟨f g.active, f g.shadow, g.passEnded || g.active.uid == uid⟩

/-- A load whose instruction ends after its issue leaves its slot, wherever it had come to: the inactive bank is no longer valid if the load was writing it
(R185). One load of a slot is issued at a time. -/
def dropLoad (k : Nat) (e : Entry) : Prog := look fun s =>
  let c := s.cl k
  if e.op = 0x16 then
    let n := bits e.d.w2 3 0
    let x := sget SfSlot.atWake c.sf n
    let y := if !x.loading then x else if x.epoch % 2 = 0 then { x with valid1 := false } else { x with valid0 := false }
    only e.issued (onCl k fun c => { c with sf := sset SfSlot.atWake c.sf n { y with loading := false, waiting := false } })
  else if e.op = 0x20 then
    let n := bits e.d.w2 1 0
    let x := sget (fun _ => CtSlot.atWake) c.ct n
    let y := if !x.loading then x else if x.epoch % 2 = 0 then { x with bank1 := { x.bank1 with valid := false } }
      else { x with bank0 := { x.bank0 with valid := false } }
    only e.issued (onCl k fun c => { c with ct := sset (fun _ => CtSlot.atWake) c.ct n { y with loading := false, waiting := false } })
  else .skip

/-- Gives back what an instruction holds: blocks, pins, user counts, walks and posted faults, lock waits, engine registers. -/
def dropHeld (k : Nat) (e : Entry) : Prog := progs [
  dropHolds e, unpin k e, forAll e.captured fun c => users k c false,
  withdraw (k / 168) (fun r => r.unit.uid == e.uid && r.unit.p == k % 168 && r.unit.kind ≠ 1),
  dropWalks (k / 168) (fun u => u.uid == e.uid && u.p == k % 168 && u.kind ≠ 1),
  unwaitAll (.instr e.uid) k,
  onCl k fun c => { c with
    doneTiles := c.doneTiles.filter fun t => !(t.uid == e.uid)
    engines := c.engines.map fun g => (g.1, g.2.drop e.uid) }]

/-- An instruction ends: it leaves its queues, gives back what it holds, and its tag completes (R288, R289). -/
def endEntry (k uid status cause und : Nat) (flag : Bool) : Prog := look fun s =>
  match (s.cl k).entries.find? (fun e => e.uid == uid) with
  | none => .skip
  | some e => progs [
      only (!statusGood status) (undefOuts k e),
      only (!statusGood status) (dropLoad k e),
      dropHeld k e,
      onCl k fun c => { c with entries := c.entries.filter fun x => !(x.uid == uid) },
      look fun s => completeTag k uid (s.record k e status cause und flag)]

/-- R544: failures that recovery takes on a REPLAYABLE queue. -/
def recoverable (status und : Nat) : Bool := status = 0x20 || status = 0x7F || (status = 0x60 && und = 0x20)

/-- An instruction ends with a failure of the hardware. On a REPLAYABLE queue the tag does not complete and the command passes to recovery
(R544); `data` is the address whose read failed, 0 if none. -/
def failEntry (k uid status cause und data : Nat) : Prog := look fun s =>
  match (s.cl k).entries.find? (fun e => e.uid == uid) with
  | none => .skip
  | some e =>
    if recoverable status und && s.replayable e.cmd then progs [
      dropHeld k e,
      onEntry k uid fun e => { e with stage := .faulted, holds := [], pinned := [], captured := [] },
      .upd (.rfaults (s.rfaults ++ [⟨e.cmd, k, if status = 0x60 then und else status, data, data = 0 || s.regionWrote e.cmd data⟩]))]
    else endEntry k uid status cause und false

/-- Does what ends an instruction, once it may end: an issued one waits until it stands first in its queues (R287). -/
def whenFirst (k uid : Nat) (f : Entry → Prog) : Prog := look fun s =>
  match (s.cl k).entries.find? (fun e => e.uid == uid) with
  | none => .skip
  | some e => only (!e.issued || (s.cl k).first e) (f e)

/-- A refusal of R291 for a check of R292, at staging or issue: one more TC_DESC_REFUSED, the log and the fault record. -/
def refuseEntry (k uid check : Nat) : Prog := look fun s =>
  match (s.cl k).entries.find? (fun e => e.uid == uid) with
  | none => .skip
  | some e => progs [
      tcTally k R.TC_DESC_REFUSED 1,
      faultRecord k e 0x71 4 e.atStart check none true,
      endEntry k uid 0x71 4 0 false]

/-- Ends an instruction for a condition found in its data (R60, R87, R142, R291): cause 4, 5 or 6 and the check, where it was found; a half ends
PARTITION_FAULT (R126). `info` names the column and group of a scale. -/
def dataConditionAt (k uid cause check : Nat) (w : FaultAt) (info : Option Nat) : Prog := whenFirst k uid fun e => progs [
  tcTally k R.TC_DESC_REFUSED 1,
  faultRecord k e 0x71 cause w check info true,
  if isHalf e.target then endEntry k uid 0x60 cause 0x71 false else endEntry k uid 0x71 cause 0 false]

/-- A read of uncorrectable data at a virtual address ends the instruction (R126, R332). -/
def dataLost (k uid : Nat) (w : FaultAt) (va : Nat) : Prog := look fun s =>
  whenFirst k uid fun e => progs [faultRecord k e 0x20 0 w 0 (some va) false,
    failEntry k uid (if isHalf e.target then 0x60 else 0x20) 0 0x20 (s.dpaOf (k / 168) (k % 168) va)]

/-- Cancels an instruction (R128, R293): nothing more is written, and its tag completes with `status`. -/
def cancelEntry (k uid status : Nat) : Prog := endEntry k uid status 0 0 false

/-- Where a stopped instruction goes on (R128): each member at its first output tile that is not finished, in dynamic mode at the first of that row block,
with nothing in its accumulators. -/
def Entry.rewound (e : Entry) (colTiles : Nat) (waiting : List DoneTile) : Run :=
  let back (t : Nat) : Nat := if e.d.omode = 2 then t / max 1 colTiles * max 1 colTiles else t
  { e.run with
    rowBuf := []
    members := (enumFrom 0 e.run.members).map fun m =>
      let own := (waiting.filter fun t => t.uid == e.uid && t.member == m.1).map (·.tile)
      let t := back (own.foldl min m.2.tile)
      { m.2 with tile := t, pass := 0, acc := [], part := [], done := m.2.done && t = m.2.tile } }

/-- An instruction stops with its cursor: its engines hold nothing of it, and it waits in its queue or for firmware. -/
def parkEntry (k uid : Nat) (st : Stage) : Prog := look fun s =>
  match (s.cl k).entries.find? (fun e => e.uid == uid) with
  | none => .skip
  | some e =>
    let r := e.rewound (s.ctx k e).colTiles (s.cl k).doneTiles
    progs [
      onEntry k uid fun e => { e with stage := st, run := r },
      onCl k fun c => { c with
        doneTiles := c.doneTiles.filter fun t => !(t.uid == uid)
        engines := c.engines.map fun g => (g.1, g.2.drop uid) }]

/-- Stops an instruction at a failed access (R128, R350): a half ends with PARTITION_FAULT (R126), any other target stops with its cursor
and posts a record. -/
def stopAtFault (k uid : Nat) (w : FaultAt) (va access cause level : Nat) : Prog := look fun s =>
  match (s.cl k).entries.find? (fun e => e.uid == uid) with
  | none => .skip
  | some e =>
    let st := faultStatus cause
    let fc := if cause = 3 then 3 else 2
    if cause = 4 then whenFirst k uid fun e => progs [
      faultRecord k e 0x20 0 w 0 (some va) false, failEntry k uid (if isHalf e.target then 0x60 else 0x20) 0 0x20 0]
    else if isHalf e.target then whenFirst k uid fun e => progs [
      faultRecord k e st fc w 0 (some va) true, endEntry k uid 0x60 fc st false]
    else progs [
      faultRecord k e st fc w 0 (some va) true,
      parkEntry k uid .faulted,
      postFault (k / 168) ⟨e.unitOf k w.eng, e.tag, queueOf e.cmd, va, cause, level, access, false⟩]

/-- An access of an instruction outside everything (R28). -/
def endBounds (k uid : Nat) (w : FaultAt) : Prog := whenFirst k uid fun e => progs [
  faultRecord k e 0x12 0 w 0 none false, endEntry k uid 0x12 0 0 false]

/-- The place of the member that engine `n` of an instruction serves, for a walk that ends after its access: the EPE stands at the tile it waits to write. -/
def Dev.placeOf (s : Dev) (k uid n : Nat) : FaultAt :=
  match (s.cl k).entries.find? (fun e => e.uid == uid) with
  | none => ⟨n, 0, 0⟩
  | some e =>
    if n = 5 then (match (s.cl k).doneTiles.find? (fun t => t.uid == uid) with | some t => ⟨5, t.tile, 0⟩ | none => ⟨5, 0, 0⟩)
    else match e.run.members.find? (fun m => e.run.gang || memberArray m.target == n) with
      | some m => ⟨n, m.tile, m.pass⟩
      | none => ⟨n, 0, 0⟩

end Sys2Proof.Machine
end

