-- ==== Sys2Proof/Machine/WeirReq.lean ====
section
/-! DEFINITION. Requests to the weir governor (R490 to R492, R515): each unit's steps and their order. Granting is WEIR_SLOT's (Power.lean). -/

namespace Sys2Proof.Machine

/-- The order position of a domain (R515): clusters are 1000 + die × 168 + p. -/
def domPos (dom : Nat) : Nat :=
  if 1000 ≤ dom then (dom - 1000) / 168 * 172 + 4 + (dom - 1000) % 168
  else if dom < 64 then dom / 4 * 172 + dom % 4
  else if dom < 96 then 16 * 172 + (dom - 64)
  else 16 * 172 + 32 + (dom - 96)

/-- Whether step `a` comes before step `b` among requests of one slot (R492). -/
def WeirStep.before (a b : WeirStep) : Bool := a.pos < b.pos || (a.pos == b.pos && a.sub ≤ b.sub)

/-- Queues a request: after those of earlier slots, in order position among its own slot's. -/
def stepInsert (x : WeirStep) : List WeirStep → List WeirStep
  | [] => [x]
  | y :: r => if y.slot < x.slot || y.before x then y :: stepInsert x r else x :: y :: r

/-- The charge of a step in units of 0.1 mA (R491): V_g is the input in 10 mV rounded down to 0.5 V, no lower than 38.0 V. -/
def Dev.weirUnits (s : Dev) (mw : Nat) : Nat := ceilDiv (mw * 1000) (max 3800 (s.power.vin / 50 * 50))

/-- The steps of a cluster by sub-unit (R490): 0 the cluster, 1 to 4 the arrays, 5 MVE, 6 EPE, 7 to 118 the vector engines, 119 and 120 the SF cores, 121 to 124 the
coder cores. DEDUCED (log 43): the clock of an SF or coder core, which R171 and R207 gate as R119 does, is a step of no power, since the steps of R490 leave it none. -/
def subMw (sub : Nat) : Nat := if sub = 0 then 1340 else if sub ≤ 4 then 800 else if sub ≤ 6 then 150 else if sub ≤ 118 then 5 else 0

/-- The sub-unit of an engine's clock, by its bit of `gated`. -/
def clockSub (b : Nat) : Nat := if b < 6 then b + 1 else b + 113

/-- Requests a rising step, once. -/
def riseReq (dom sub mw : Nat) : Prog := onPower fun w =>
  if w.rise.any (fun x => x.dom == dom && x.sub == sub) then w
  else { w with rise := stepInsert ⟨dom, sub, domPos dom, mw, 0, w.slots⟩ w.rise }

/-- Requests a falling step; it returns the units its rising step was charged (R491). -/
def fallReq (dom sub mw units : Nat) : Prog := onPower fun w =>
  if w.fall.any (fun x => x.dom == dom && x.sub == sub) then w
  else { w with fall := stepInsert ⟨dom, sub, domPos dom, mw, units, w.slots⟩ w.fall }

/-- The key of a charged step. -/
def stepKey (dom sub : Nat) : Nat := dom * 4096 + sub

/-- The units charged for a step, 0 if none is; whether one has been granted and not returned. -/
def Power.chargedFor (w : Power) (dom sub : Nat) : Nat := sget (fun _ => 0) w.charged (stepKey dom sub)
def Power.holdsStep (w : Power) (dom sub : Nat) : Bool := w.charged.any fun x => x.1 == stepKey dom sub

/-- The ledger: the sum of the steps charged, in units of 0.1 mA (R490). A throttle level (sub-unit 1000 and above) takes its units away. -/
def Power.ledger (w : Power) : Nat :=
  ((w.charged.filter fun e => e.1 % 4096 < 1000).map (·.2)).foldl (· + ·) 0
    - ((w.charged.filter fun e => 1000 ≤ e.1 % 4096).map (·.2)).foldl (· + ·) 0

/-- Watts of an envelope (R499). -/
def envWatts (e : Nat) : Nat := 3000 + 3000 * e

/-- The mean of the last `n` input samples, in mW, 0 with none (R501). -/
def Power.mean (w : Power) (n : Nat) : Nat := let t := w.samples.take n; if t.isEmpty then 0 else (t.foldl (· + ·) 0) / t.length

/-- The drovers hold new wakes: the envelope level is 15 and P_100µs still above E (R501). -/
def Dev.holdsWakes (s : Dev) : Bool := s.power.thEnv = 15 && decide (envWatts s.power.envActive * 1000 < s.power.mean 312)

/-- Asks for the clocks of a cluster's engines (bits of `gated`, R119), once each. -/
def wantClocks (k : Nat) (l : List Nat) : Prog := look fun s =>
  forAll (l.filter fun b => bitAt (s.cl k).gated b && !bitAt (s.cl k).gateReq b) fun b => progs [
    onCl k fun c => { c with gateReq := c.gateReq + 2 ^ b },
    riseReq (1000 + k) (clockSub b) (subMw (clockSub b))]

end Sys2Proof.Machine
end

