-- ==== Sys2Proof/Machine/TensorIssue.lean ====
section
/-! DEFINITION. Push, staging and issue (R116 to R118, R262, R263, R276, R277, R287, R291, R292, R348). -/

namespace Sys2Proof.Machine

/-! ### Push -/

/-- A fresh entry of a pushed descriptor. -/
def Entry.fresh (uid tag cmd prio : Nat) (fast : Bool) (b : List Byte) (deps : List Dep) : Entry :=
  ⟨uid, tag, BitVec.ofNat 64 (leAt b 0 8), BitVec.ofNat 64 (leAt b 8 8), BitVec.ofNat 64 (leAt b 16 8), BitVec.ofNat 64 (leAt b 24 8),
    cmd, prio, fast, deps, deps.isEmpty, .queued, [], [], false, Run.start, [], false, false, [], [], 0⟩

/-- The tags a descriptor depends on. -/
def Desc.depTags (x : Desc) : List Nat := ((List.range 3).filter x.depEn).map x.dep

/-- Whether a descriptor can be pushed at once (R262): a tag is free, and so is a place in every queue it takes. -/
def Dev.canPush (s : Dev) (k : Nat) (b : List Byte) : Bool :=
  let c := s.cl k
  let x := Desc.ofBytes b
  c.hasTag && (!pushOk x || (targetQueues x.target).all fun q => (c.inQueue q).length < 16)

/-- Pushes a descriptor (R262, R263, R276, R291): its tag, then a place in its queues, or a tag that completes ILLEGAL_DESCRIPTOR. -/
def pushTensor (k cmd prio : Nat) (fast : Bool) (b : List Byte) (f : Nat → Prog) : Prog := look fun s =>
  let x := Desc.ofBytes b
  let deps := (s.cl k).bindDeps x.depTags
  allocTag k cmd fun tag uid =>
    let e := Entry.fresh uid tag cmd prio fast b deps
    progs [
      if pushOk x then onCl k fun c => { c with entries := c.entries ++ [e] }
      else progs [tcTally k R.TC_DESC_REFUSED 1, faultRecord k e 0x71 4 e.atStart (pushCheck x) none false,
        look fun s => completeTag k uid (s.record k e 0x71 0 0 false)],
      f tag]

/-! ### Staging -/

/-- The accesses of operands. -/
def opAccs (l : List Opnd) : List VAcc := (l.filter fun o => o.len ≠ 0).map fun o => ⟨o.va, o.len, o.acc⟩

/-- Whether a translated part of an access lies outside the cluster's own store window (R116, R278). -/
def Dev.outside (s : Dev) (k : Nat) (l : List VAcc) : Bool :=
  let base := storeAddr (k / 168) (k % 168)
  (vaPieces l).any fun a => match s.xlate (k / 168) (k % 168) a.va a.access with
    | .hit dpa => !(decide (base ≤ dpa) && decide (dpa + a.len ≤ base + 0x1000000))
    | _ => false

/-- A range longer than any store. -/
def tooLong (l : List Opnd) : Bool := l.any fun o => 2 ^ 29 ≤ o.len

/-- The first bytes that staging reads to find the extents of the other operands: an image's or a record's header, plane and image
tables, the box list (R141, R162, R181, R223). -/
def TCtx.preOps (x : TCtx) : List Opnd :=
  if x.op = 0x16 then [⟨8, argVa x.a 0, 64⟩]
  else if x.op = 0x22 then [⟨8, argVa x.a 0x10, 64⟩]
  else (if x.s2c then [⟨8, x.inRef.base, 32 * x.inRef.c⟩] else [])
    ++ (if x.c2s then [⟨8, x.outRef.base, 32 * x.outRef.c⟩] else [])
    ++ (if x.op = 4 then [⟨8, x.imgTable, 32 * x.cropImages⟩, ⟨8, argVa x.a 0x100, 32 * x.cropBoxes⟩] else [])

/-- R223: RECORD_BYTES is at least 64 and no page of the record is known to lie outside the own store; else the record is staged by its header alone. -/
def Dev.recFits (s : Dev) (k : Nat) (x : TCtx) : Bool :=
  let rb := leNat (x.rd (argVa x.a 0x10 + 44) 4)
  within rb 64 0x800000 && !s.outside k [⟨argVa x.a 0x10, rb, 0⟩]

/-- The ranges that a plane table or image table names all lie in the own store, as far as they translate; if not, that is a condition of the data, found while the
instruction runs (R292). -/
def Dev.tablesIn (s : Dev) (k : Nat) (x : TCtx) : Bool := !tooLong x.tableOps && !s.outside k (opAccs x.tableOps)
/-- The tables of an instruction are well formed, and so is what they name (R142, R155, R164). -/
def Dev.tablesGood (s : Dev) (k : Nat) (x : TCtx) : Bool := x.tablesOk && s.tablesIn k x

/-- The record's count of chunks is the job's own (R223): the bitmap has that many bits. -/
def TCtx.recCountOk (x : TCtx) : Bool :=
  let r := x.rd (argVa x.a 0x10) 64
  leAt r 32 4 = x.d.count32 && within (leAt r 28 4) 1 65536 && leAt r 24 2 = ceilDiv x.d.count32 (leAt r 28 4)

/-- The operands that the argument block names, and those that tables name; those of a table that ends the instruction are not staged, nor is the bitmap of a record
that fails its checks (R223). -/
def Dev.namedOps (s : Dev) (k : Nat) (e : Entry) : List Opnd :=
  let x := s.ctx k e
  if x.op = 0x22 then x.opnds.filterMap fun o =>
    if o.cls = 8 && o.va = argVa x.a 0x10 then some (if s.recFits k x then o else { o with len := 64 })
    else if o.cls = 9 && o.va = argVa x.a 0x28 && !(s.recFits k x && x.recCountOk) then none else some o
  else x.opnds
def Dev.stageOps (s : Dev) (k : Nat) (e : Entry) : List Opnd :=
  s.namedOps k e ++ (if s.tablesGood k (s.ctx k e) then (s.ctx k e).tableOps else [])

/-- The pages of the cluster's cache that accesses use. -/
def Dev.pagesOf (s : Dev) (k : Nat) (l : List VAcc) : List Nat :=
  (vaPieces l).foldl (fun ps a => match tlbFind (s.cl k).tlb a.va with | some t => nadd ps t.va | none => ps) []

/-- The distinct pages that accesses touch, by the translations in force (R348). -/
def Dev.pageSet (s : Dev) (k : Nat) (l : List VAcc) : List Nat :=
  (vaPieces l).foldl (fun ps a => match tlbFind (s.cl k).tlb a.va with
    | some t => nadd ps t.va
    | none => match s.walk a.va a.access with
      | .leaf t => nadd ps t.va
      | _ => ps) []

/-- Whether the bank of an epoch of a slot holds a valid program or table set. -/
def Cluster.bankValid (c : Cluster) (r : Bool × Nat) (epoch : Nat) : Bool :=
  if r.1 then
    let x := sget (fun _ => CtSlot.atWake) c.ct r.2
    if epoch % 2 = 0 then x.bank0.valid else x.bank1.valid
  else
    let x := sget SfSlot.atWake c.sf r.2
    if epoch % 2 = 0 then x.valid0 else x.valid1

/-- Whether the active bank does (R182, R207). -/
def Cluster.slotValid (c : Cluster) (r : Bool × Nat) : Bool := c.bankValid r (c.slotEpoch r.1 r.2)

/-- Adds one to an entry's own wait counts (R289). -/
def bumpWait (w : List Nat) (n : Nat) : List Nat :=
  let w := w ++ List.replicate (9 - w.length) 0
  w.set (n - 1) (satAdd (w.getD (n - 1) 0) 1)

/-- What accesses of an instruction that is to issue wait for, in the order of R118, if they do. -/
def Dev.accWait (s : Dev) (k : Nat) (l : List VAcc) : Option Nat :=
  match s.meets (k / 168) (k % 168) l with
  | .ok => none
  | .wake a => some (s.wakeCause (s.dpaOf (k / 168) (k % 168) a.va))
  | _ => some 5

/-- Makes accesses of an entry at a place of its run: those that need a walk start it, those that fault stop it, and once every one translates `f` runs; a
stack in RETAIN is asked to wake, and a running instruction's wait for it, or for a row being spared, is tallied (R339, R498). The accesses of `own` must lie in the own store (R116, R278). -/
def entryAccess (k uid : Nat) (w : FaultAt) (l own : List VAcc) (f : Prog) : Prog :=
  let d := k / 168
  let p := k % 168
  .seq (fillFromDie d p l) (look fun s =>
    match (s.cl k).entries.find? (fun e => e.uid == uid) with
    | none => .skip
    | some e =>
      if s.outside k own then refuseEntry k uid 9
      else useOnce d p (e.owns k) l f fun m => look fun s =>
      match m with
      | .ok => .skip
      | .walk _ => forAll (vaPieces l) fun a => look fun s =>
          match s.xlate d p a.va a.access with
          | .miss => startWalk d (e.unitOf k w.eng) e.tag (queueOf e.cmd) a true
          | _ => .skip
      | .wake a =>
        let n := s.wakeCause (s.dpaOf d p a.va)
        progs [
          only (e.stage != .queued && e.stage != .staged) (progs [waitTally k e.target n, onEntry k uid fun e => { e with waits := bumpWait e.waits n }]),
          wantStacks (s.dpaOf d p a.va) a.len]
      | .fault a c lv => stopAtFault k uid w a.va a.access c lv
      | .bounds _ => endBounds k uid w)

/-- Reads a range for an entry; uncorrectable data ends it (R332). -/
def entryRead (k uid : Nat) (w : FaultAt) (va n : Nat) (f : List Byte → Prog) : Prog := look fun s =>
  let d := k / 168
  let p := k % 168
  .seq (vaTouch d p va n) (if s.vaBad d p va n then dataLost k uid w va else f (s.vaBytes d p va n))

/-- R147: an instruction with an empty output completes EMPTY_OUT, writing the flag word 0 if it may widen. -/
def endEmpty (k : Nat) (e : Entry) : Prog :=
  let w := hasEpilogue e.op && e.d.widenEn
  let fl := argVa e.args 0x70
  let l : List VAcc := if w then [⟨fl, 4, 1⟩] else []
  entryAccess k e.uid e.atStart l l (progs [
    only w (cmdWrites k e.cmd [(fl, leBytes 4 0)]),
    tcTally k R.TC_EMPTY_OUT 1, endEntry k e.uid 1 0 0 w])

/-- The last step of staging: every operand translates, those that the argument block names lie in the own store, and there are at most 192 pages (R116, R278,
R348). -/
def stageOperands (k : Nat) (e : Entry) : Prog := look fun s =>
  if tooLong (s.namedOps k e) then refuseEntry k e.uid 9
  else
    let l := opAccs (s.stageOps k e)
    if 192 < (s.pageSet k l).length then refuseEntry k e.uid 26
    else entryAccess k e.uid e.atStart l (opAccs (s.namedOps k e)) (onEntry k e.uid fun e => { e with stage := .staged })

/-- Reads the producer's flag word, if the instruction names one (R96), then goes on. -/
def stageFlag (k : Nat) (e : Entry) (f : Entry → Prog) : Prog :=
  if e.d.wideIn && (hasArea e.op) then
    let fl := argVa e.args 0x80
    entryAccess k e.uid e.atStart [⟨fl, 4, 0⟩] [] (entryRead k e.uid e.atStart fl 4 fun b =>
      let v := leNat b
      if v ≤ 1 then
        let e' := { e with run := { e.run with wideIn := v == 1 } }
        .seq (onEntry k e.uid fun _ => e') (f e')
      else refuseEntry k e.uid 17)
  else f e

/-- Checks an entry whose argument block has just been read (R292, staging), reads what its extents depend on, and stages its operands. -/
def stageArgs (k : Nat) (e : Entry) : Prog := look fun s =>
  let x := s.ctx k e
  let pre := opAccs x.preOps
  if x.hasGeo && !(x.s2c || x.c2s) && !x.stageOk then refuseEntry k e.uid x.stageCheck
  else if x.preOps.any (fun o => o.len ≠ 0 && o.va = 0) then refuseEntry k e.uid 26
  else entryAccess k e.uid e.atStart pre pre (look fun s =>
    let x := s.ctx k e
    if !x.stageOk then refuseEntry k e.uid x.stageCheck
    else if e.op = 0x16 && !sfHeaderOk (x.rd (argVa e.args 0) 64) then refuseEntry k e.uid 15
    else if (match e.d.slotUsed with | some r => !(s.cl k).slotValid r | none => false) && e.captured.isEmpty then refuseEntry k e.uid 20
    else if x.emptyOut && s.tablesGood k x then endEmpty k e
    else stageFlag k e fun e => stageOperands k e)

/-- Whether an instruction may yet run again in the wide form (R92). -/
def Entry.mayWiden (e : Entry) : Bool := hasEpilogue e.op && e.d.widenEn && !e.run.wide && !e.fast && decide (e.d.ofmt ≤ 1)

/-- Whether an instruction is in its last pass: each member in the last pass of its last output tile, and it cannot widen. -/
def Dev.lastPass (s : Dev) (k : Nat) (e : Entry) : Bool :=
  let x := s.ctx k e
  let n := e.run.members.length
  e.stage == .running && (e.op = 1 || e.op = 2) && !e.mayWiden && n ≠ 0
    && (enumFrom 0 e.run.members).all fun m =>
      m.2.done || (decide (x.tiles n m.1 ≤ m.2.tile + 1) && decide ((x.passList n m.2.tile).length ≤ m.2.pass + 1))

/-- Whether an instruction on the tensor core has left its target to the next one: it is in its last pass, or only its last output tile or its commit is
outstanding, and it cannot run again (R94, R115, R116). -/
def Dev.yields (s : Dev) (k : Nat) (e : Entry) : Bool :=
  isTcTarget e.target && ((e.stage == .draining && !e.mayWiden) || e.stage == .finished || s.lastPass k e)

/-- The next instruction of a queue to issue. -/
def Dev.next (s : Dev) (k q : Nat) : Option Entry := ((s.cl k).inQueue q).find? fun e => !s.yields k e

/-- An instruction reaches issue only at the head of every queue it occupies (R287). -/
def Dev.atHeads (s : Dev) (k : Nat) (e : Entry) : Bool :=
  (targetQueues e.target).all fun q => match s.next k q with | some x => x.uid == e.uid | none => false

/-- INSTRUCTION_STAGE (R278, R291): the instruction at the head of a queue, its dependencies complete, has its argument block and tables
read and checked and its operands staged. -/
def stageProg (k q : Nat) : Prog := look fun s =>
  match s.next k q with
  | none => .skip
  | some e =>
    if e.op ≠ 0 && e.stage == .queued && e.depsDone && !(s.cl k).preempting.contains e.cmd && s.atHeads k e then
      let l : List VAcc := [⟨e.d.args, 64 * e.d.argLen, 0⟩]
      entryAccess k e.uid e.atStart l l (entryRead k e.uid e.atStart e.d.args (64 * e.d.argLen) fun b =>
        let e' := { e with args := b }
        .seq (onEntry k e.uid fun _ => e') (stageArgs k e'))
    else .skip

/-! ### Issue -/

/-- What keeps an instruction from issuing: a refusal, a wait with its order number in R118, an unfinished predecessor, or nothing. -/
inductive Unmet where
  | ready | busy | refused | wait (n : Nat)
  deriving DecidableEq, Repr

/-- R124, R125: whether the mode of the arrays refuses a target. -/
def Cluster.modeRefuses (c : Cluster) (t : Nat) : Bool :=
  let sp (n : Nat) : Bool := bitAt c.split n
  if isWhole t then sp t
  else if isHalf t then !sp ((t - 4) / 2)
  else if isMulti t then (targetArrays t).any fun n => sp n || bitAt c.splitPending n
  else false

/-- Whether another instruction still runs on one of the target's engines (condition 6 of R116). -/
def Dev.busyTarget (s : Dev) (k : Nat) (e : Entry) : Bool :=
  (s.cl k).entries.any fun x => !(x.uid == e.uid) && (x.stage == .running || x.stage == .draining) && !s.yields k x
    && (targetQueues x.target).any fun q => (targetQueues e.target).contains q

/-- Whether a load waits for another load of its slot that has issued and not ended, wherever it has come to (R184, R216). -/
def Cluster.loadWaits (c : Cluster) (e : Entry) : Bool :=
  if e.op = 0x16 || e.op = 0x20 then
    c.entries.any fun x => x.op = e.op && x.issued && !(x.uid == e.uid)
      && (if e.op = 0x16 then bits x.d.w2 3 0 = bits e.d.w2 3 0 else bits x.d.w2 1 0 = bits e.d.w2 1 0)
  else false

/-- The places of lock blocks that an operand touches and that are not as it needs them (R116, R312): every input block FILLED, every output block PRODUCING. The lock
of each place is that of the block there, if any. -/
def Dev.unready (s : Dev) (k : Nat) (o : Opnd) : List LockId :=
  (s.locksFor k).flatMap fun l => (s.placesOver l o.va o.len).filterMap fun a =>
    match s.blkAt k a with
    | some (m, b) => if (if o.isOut then !b.filled || b.again ≠ 0 else b.filled) then none else some m
    | none => some l

/-- The first unmet condition of an instruction at the head of its queues, in the order of R118. One that is not staged yet counts a flag-word read only while
that is outstanding, and a translation only while a page of its argument block is missing or a walk of its own is in progress; what else it will wait for is not known
before its argument block has been read. -/
def Dev.unmet (s : Dev) (k : Nat) (e : Entry) : Unmet :=
  let c := s.cl k
  let d := k / 168
  let l := opAccs (s.stageOps k e)
  if c.preempting.contains e.cmd then .wait 1
  else if (gateBits e.target).any (bitAt c.gated) then .wait 2
  else if !e.depsDone then .wait 3
  else if c.modeRefuses e.target && !((isWhole e.target || isHalf e.target) && (targetArrays e.target).any (bitAt c.splitPending)) then .refused
  else if (targetArrays e.target).any (bitAt c.splitPending) then .wait 3
  else if c.loadWaits e then .wait 3
  else if e.stage == .queued then
    if !e.args.isEmpty && e.d.wideIn && hasArea e.op && (s.accWait k [⟨argVa e.args 0x80, 4, 0⟩]).isSome then .wait 4
    else match s.accWait k [⟨e.d.args, 64 * e.d.argLen, 0⟩] with
    | some n => .wait n
    | none => if (s.die d).walks.any (fun w => e.owns k w.unit) then .wait 5 else .busy
  else match s.accWait k l with
  | some n => .wait n
  | none =>
  if 192 < ((c.tlb.filter (fun t => t.pins ≠ 0)).map (·.va)).length
      + ((s.pagesOf k l).filter (fun v => !(c.tlb.any fun t => t.va == v && t.pins ≠ 0))).length then .wait 5
  else
    match [6, 7, 8, 9].find? (fun n => (s.stageOps k e).any fun o => o.cls = n && !(s.unready k o).isEmpty) with
    | some n => .wait n
    | none => if s.busyTarget k e then .busy else .ready

/-- The lock blocks that hold operands of an entry (R97, R312): every block an operand touches. -/
def Dev.holdBlocks (s : Dev) (k : Nat) (e : Entry) : List (LockId × Nat) :=
  ((s.stageOps k e).flatMap fun o => ((s.locksFor k).flatMap fun l => s.placesOver l o.va o.len).filterMap fun a =>
    (s.blkAt k a).map fun q => (q.1, q.2.seq)).eraseDups

/-- R122: whether a multi-array instruction runs ganged, from its descriptor alone: with an input outlier list the largest tile is taken to have its outlier
sections. DEDUCED (log 35). -/
def Dev.gangs (s : Dev) (k : Nat) (e : Entry) : Bool :=
  let x := s.ctx k e
  let n := (targetArrays e.target).length
  if !isMulti e.target then false
  else match e.d.arrange with
  | 1 => false
  | 2 => true
  | _ =>
    let t := (List.range x.nrt).foldl (fun m rt => max m (x.tileBase rt)) 0 + (if e.d.inOutl then x.outlLen else 0)
    let cpass := min 128 (ceilDiv x.rows n) * (if e.d.afmt = 2 then 2 else 1)
    2 * cpass < n * ceilDiv t 64

/-- The engine key of a target's member: an array, 16 + half, 32 the MVE. -/
def memberTargets (t : Nat) : List Nat :=
  if isHalf t then [16 + (t - 4)] else if t = 0x10 then [32] else targetArrays t

/-- Members of an instruction on arrays or the MVE, at its first output tile. -/
def freshMembers (t : Nat) : List Member := (memberTargets t).map fun n => ⟨n, 0, 0, [], [], false⟩

/-- The number under which a command keeps the epochs it captured of a slot. -/
def Dev.slotKey (s : Dev) (k : Nat) (r : Bool × Nat) : Nat := s.logicalOf (k / 168) (k % 168) * 32 + b2n r.1 * 16 + r.2

/-- The epoch the n-th instruction of a command that captured a slot recorded when it first issued. -/
def Command.epochOf (c : Command) (key : Nat) : Option Nat := ((c.epochs.filter fun x => x.1 == key)[sget (fun _ => 0) c.captures key]?).map (·.2)

/-- The epoch an instruction captures for a slot (R183, R186): in a replay the one recorded when it first issued; none when that epoch is in neither bank or its
bank is no longer valid. DEDUCED (log 42): the instructions of a command that capture a slot of a cluster are known again by their order. -/
def Dev.capture (s : Dev) (k cmd : Nat) (r : Bool × Nat) : Option Nat :=
  let now := (s.cl k).slotEpoch r.1 r.2
  match s.cmdOf cmd with
  | none => some now
  | some c => if !c.replayed then some now
    else match c.epochOf (s.slotKey k r) with
      | some ep => if (ep = now || (ep + 1) % 65536 = now) && (s.cl k).bankValid r ep then some ep else none
      | none => some now

/-- Records the epoch an instruction of a REPLAYABLE command captures when it first issues (R186). -/
def noteEpoch (k cmd : Nat) (r : Bool × Nat) (epoch : Nat) : Prog := look fun s =>
  let key := s.slotKey k r
  only (s.replayable cmd) (onCmd cmd fun c => { c with
    epochs := if (c.epochOf key).isSome then c.epochs else c.epochs ++ [(key, epoch)]
    captures := sput c.captures key (sget (fun _ => 0) c.captures key + 1) })

/-- Captures the slot an instruction evaluates, once (R183). -/
def captureSlot (k : Nat) (e : Entry) (f : Prog) : Prog :=
  match e.d.slotUsed with
  | none => f
  | some r =>
    if !e.captured.isEmpty then f
    else look fun s => match s.capture k e.cmd r with
      | none => endEntry k e.uid 0x42 0 0 false
      | some ep => progs [users k ⟨r.1, r.2, ep⟩ true, noteEpoch k e.cmd r ep,
          onEntry k e.uid fun e => { e with captured := [⟨r.1, r.2, ep⟩] }, f]

/-- The cursor units of an instruction without members that writes a flag word at its commit; 0 for the others. -/
def TCtx.unitTotal (x : TCtx) : Nat :=
  if x.op = 3 then ceilDiv x.poolCells 128 else if x.op = 4 then x.cropBoxes
  else if x.op = 0x10 then (if x.d.omode = 2 then x.d.m24 else ceilDiv (x.d.m24 * x.cols) 128)
  else if x.op = 0x12 then x.d.m24 else 0

/-- The stage of an instruction whose run has ended: before the widening decision, if it must take one (R92), or ready to commit. -/
def Entry.endStage (e : Entry) : Stage := if hasEpilogue e.op && e.d.widenEn && !e.run.wide then .draining else .finished

/-- Whether a run stopped after its last unit, so that a resume has nothing to run. -/
def Entry.ranAll (e : Entry) (total : Nat) : Bool :=
  if e.run.members.isEmpty then total ≠ 0 && decide (total ≤ e.run.units) else e.run.members.all (·.done)

/-- The falling steps that engines of a target have asked for are withdrawn: they are idle no more (R119). -/
def keepClocks (k : Nat) (l : List Nat) : Prog := look fun s =>
  let mine (x : WeirStep) : Bool := x.dom == 1000 + k && l.any fun b => clockSub b == x.sub
  only (s.power.fall.any mine) (onPower fun w => { w with fall := w.fall.filter fun x => !mine x })

/-- What issue does (R116, R122, R183, R312). -/
def issueEntry (k : Nat) (e : Entry) : Prog := captureSlot k e (look fun s =>
  let x := s.ctx k e
  let holds := s.holdBlocks k e
  let pages := s.pagesOf k (opAccs (s.stageOps k e))
  let gang := if e.issued then e.run.gang else s.gangs k e
  progs [
    unpin k e,
    onCl k fun c => { c with tlb := c.tlb.map fun t => if pages.contains t.va then { t with pins := t.pins + 1 } else t },
    only e.holds.isEmpty (forAll holds fun h => onBlk h.1 h.2 fun b => { b with holds := b.holds + 1 }),
    unwaitAll (.instr e.uid) k,
    keepClocks k (gateBits e.target),
    only (gang && e.d.arrange = 0 && !e.issued) (tcTally k R.TC_GANG_ISSUES 1),
    onEntry k e.uid fun e => { e with
      stage := if e.issued && e.ranAll x.unitTotal then e.endStage else .running
      tIssue := if e.issued then e.tIssue else s.clCycles k
      issued := true
      pinned := (opAccs (s.stageOps k e)).filterMap fun a => if a.len = 0 then none else some (a.va, a.len)
      holds := if e.holds.isEmpty then holds else e.holds
      run := { e.run with
        gang := gang
        members := if e.run.members.isEmpty && (e.op = 1 || e.op = 2 || e.op = 5) then freshMembers e.target else e.run.members } }])

/-- An instruction's wait for a lock block, as the wait detector sees it (R316), with the handle by which its unit names the lock (R330). It waits on no
consumer slot: slot 8. -/
def noteLockWait (k : Nat) (e : Entry) : Prog := look fun s =>
  forAll (s.stageOps k e) fun o =>
    match s.unready k o with
    | l :: _ =>
      let w : LockWait := ⟨.instr e.uid, k, e.cmd, e.prio, s.clock, 8, l.handle⟩
      if o.isOut then waitProducer l w else waitConsumer l w
    | [] => .skip

/-- TENSOR_ISSUE (R116 to R118): one cycle of the instruction at the head of a queue: it issues, or adds one to the tally of its first unmet
condition. -/
def issueProg (k q : Nat) : Prog := look fun s =>
  match s.next k q with
  | none => .skip
  | some e0 =>
    if e0.op ≠ 0 && (e0.stage == .queued || e0.stage == .staged) && s.atHeads k e0 then
      .seq (only (e0.stage == .staged) (fillFromDie (k / 168) (k % 168) (opAccs (s.stageOps k e0)))) (look fun s =>
        match s.next k q with
        | none => .skip
        | some e =>
          match s.unmet k e with
          | .ready => issueEntry k e
          | .busy => .skip
          | .refused => refuseEntry k e.uid 21
          | .wait n => progs [
              waitTally k e.target n,
              onEntry k e.uid fun e => { e with waits := bumpWait e.waits n },
              only (n = 2) (wantClocks k (gateBits e.target)),
              only (e.stage == .staged && (s.accWait k (opAccs (s.stageOps k e))).isSome) (entryAccess k e.uid e.atStart (opAccs (s.stageOps k e)) (opAccs (s.namedOps k e)) .skip),
              only (6 ≤ n) (noteLockWait k e)])
    else .skip

/-- What a failed dependency does under DEP_POISON (R276). -/
def poisonEntry (k uid : Nat) : Prog := progs [
  tcTally k R.TC_DEP_CANCELLED 1,
  onEntry k uid fun e => { e with depFailed := true },
  endEntry k uid 0x30 0 0 false]

/-- SYNC (R277): in queue order, first in each of its queues, it completes once its dependencies are complete: with OK, or cancelled under DEP_POISON. -/
def syncProg (k q : Nat) : Prog := look fun s =>
  match (s.cl k).inQueue q with
  | [] => .skip
  | e :: _ => only (e.op = 0 && e.depsDone && (s.cl k).first e && !(s.cl k).preempting.contains e.cmd)
      (if e.depFailed then poisonEntry k e.uid else endEntry k e.uid 0 0 0 false)

/-- DEPENDENCY_COMPLETE for an instruction (R276): once every dependency has completed it goes on, or is cancelled under DEP_POISON. -/
def depsProg (k tag : Nat) : Prog := look fun s =>
  match (s.cl k).entries.find? (fun e => e.tag == tag && !e.depsDone && e.deps.all (fun x => x.status.isSome)) with
  | none => .skip
  | some e =>
    let failed := e.d.poison && e.deps.any (fun x => match x.status with | some v => !statusGood v | none => false)
    if e.op = 0 then onEntry k e.uid fun e => { e with depsDone := true, depFailed := failed }
    else if failed then poisonEntry k e.uid
    else onEntry k e.uid fun e => { e with depsDone := true }

end Sys2Proof.Machine
end

