-- ==== Sys2Proof/Machine/BargeEnd.lean ====
section
/-! DEFINITION. Barges: the descriptor fields (R297 to R299), elements and cursor (R302), completion records (R323), fault records (R326), cancel and completion (R318, R320, R321). -/

namespace Sys2Proof.Machine

/-! ### Descriptor fields -/

def Barge.hdr (b : Barge) : Nat := leAt b.desc 0 8
def Barge.op (b : Barge) : Nat := bits b.hdr 7 0
def Barge.cls (b : Barge) : Nat := bits b.hdr 9 8
def Barge.zcOn (b : Barge) : Bool := bitAt b.hdr 10
def Barge.srcLock (b : Barge) : Bool := bitAt b.hdr 11
def Barge.dstLock (b : Barge) : Bool := bitAt b.hdr 12
def Barge.slot (b : Barge) : Nat := bits b.hdr 15 13
def Barge.poison (b : Barge) : Bool := bitAt b.hdr 42
def Barge.commits (b : Barge) : Bool := bitAt b.hdr 43
def Barge.releases (b : Barge) : Bool := bitAt b.hdr 44
def Barge.gather (b : Barge) : Bool := b.op = 0x41
def Barge.spec (b : Barge) : Bool := b.cls = 2
def Barge.srcField (b : Barge) : Nat := leAt b.desc 8 8
def Barge.dstField (b : Barge) : Nat := leAt b.desc 16 8
def Barge.len0 (b : Barge) : Nat := leAt b.desc 24 4
def Barge.count (b : Barge) (i : Nat) : Nat := leAt b.desc (26 + 2 * i) 2
def Barge.srcStride (b : Barge) (i : Nat) : Int := sext 32 (leAt b.desc (32 + 4 * i) 4)
def Barge.dstStride (b : Barge) (i : Nat) : Int := sext 32 (leAt b.desc (44 + 4 * i) 4)
/-- GATHER: the entries of the list (R299). -/
def Barge.entries (b : Barge) : Nat := leAt b.desc 24 4

/-- The unit of a barge in fault records (R355). -/
def Barge.unit (b : Barge) (k : Nat) : UnitRef := ⟨5, k % 168, 0, 0, b.uid⟩

/-- The tags a barge depends on (R297). -/
def bargeDepTags (desc : List Byte) : List Nat :=
  let h := leAt desc 0 8
  (if bitAt h 40 then [bits h 27 16] else []) ++ (if bitAt h 41 then [bits h 39 28] else [])

/-- The push-stage check of R300 that a descriptor fails: 0 none, 1 opcode, 2 class, 3 a reserved bit, 4 the dependency rules, 5 a count, LEN0 or their
product, 6 GATHER with SRC_LOCK. -/
def bargePushCheck (desc : List Byte) : Nat :=
  let h := leAt desc 0 8
  let op := bits h 7 0
  let n := leAt desc 24 4
  let c (i : Nat) : Nat := leAt desc (26 + 2 * i) 2
  let strided := op = 0x40
  if !strided && op ≠ 0x41 then 1
  else if bits h 9 8 = 3 then 2
  else if bits h 63 45 ≠ 0 || (!bitAt h 12 && leAt desc 22 2 ≠ 0) || ((strided && !bitAt h 11 || !strided) && leAt desc 14 2 ≠ 0)
      || (if strided then leAt desc 34 2 ≠ 0 || leAt desc 60 4 ≠ 0 else leAt desc 28 4 ≠ 0 || leAt desc 40 24 ≠ 0) then 3
  else if bitAt h 42 && bits h 41 40 = 0 then 4
  else if n < 1 || 2 ^ 20 < n || (strided && (c 1 < 1 || c 2 < 1 || c 3 < 1 || 2 ^ 32 ≤ c 1 * c 2 * c 3)) then 5
  else if !strided && bitAt h 11 then 6
  else 0
/-- The push-stage checks of R300. -/
def bargePushOk (desc : List Byte) : Bool := bargePushCheck desc = 0

/-! ### Elements (R302) -/

/-- One row to move: source and destination virtual addresses (computed in 64 bits), length, and for GATHER its entry and row. -/
structure Elem where
  src : Nat
  dst : Nat
  len : Nat
  entry : Nat
  row : Nat
  deriving DecidableEq, Repr

/-- A 64-bit address sum. -/
def addr64 (x : Int) : Nat := wrapN 64 x

/-- The address a lock-relative side of a barge starts at: its bound block and the offset in it. -/
def Dev.boundBase (s : Dev) (o : Option (LockId × Nat)) (off : Nat) : Nat :=
  match o with
  | some (l, seq) => match (s.lock l).blks.find? (fun x => x.seq == seq) with
    | some x => s.blockVa l x.idx + off
    | none => off
  | none => off

def Dev.bargeSrc (s : Dev) (b : Barge) : Nat := if b.srcLock then s.boundBase b.src (bits b.srcField 47 0) else bits b.srcField 47 0
def Dev.bargeDst (s : Dev) (b : Barge) : Nat := if b.dstLock then s.boundBase b.dst (bits b.dstField 47 0) else bits b.dstField 47 0

/-- Entry `j` of a GATHER list (R299): its 16 bytes. -/
def Barge.entry (b : Barge) (j : Nat) : List Byte := sliceBytes b.list (16 * j) 16

/-- Rows of an entry that move something; an entry with LEN above 2^20 counts as one row, at which the barge fails (R300). -/
def entryRows (e : List Byte) : Nat :=
  let len := leAt e 8 4
  if 2 ^ 20 < len then max 1 (leAt e 6 2) else if len = 0 then 0 else leAt e 6 2

/-- The entry and row of element `n`, searching the `m` entries from `j` on. -/
def Barge.find (b : Barge) : Nat → Nat → Nat → Option (Nat × Nat)
  | 0, _, _ => none
  | m + 1, j, n =>
    let r := entryRows (b.entry j)
    if n < r then some (j, n) else b.find m (j + 1) (n - r)

/-- The elements of a barge. -/
def Barge.rows (b : Barge) : Nat :=
  if b.gather then ((List.range b.entries).map fun j => entryRows (b.entry j)).foldl (· + ·) 0 else b.count 1 * b.count 2 * b.count 3

/-- Element `n` of a barge; none past its last. -/
def Dev.bargeElem (s : Dev) (b : Barge) (n : Nat) : Option Elem :=
  if b.gather then
    match b.find b.entries 0 n with
    | none => none
    | some (j, r) =>
      let e := b.entry j
      let ss := sext 32 (leAt b.desc 32 4)
      let ds := sext 32 (leAt b.desc 36 4)
      some ⟨addr64 ((leAt e 0 6 : Nat) + r * ss), addr64 (((s.bargeDst b + leAt e 12 4 : Nat) : Int) + r * ds), leAt e 8 4, j, r⟩
  else
    let c1 := b.count 1
    let c2 := b.count 2
    if c1 * c2 * b.count 3 ≤ n then none
    else
      let i1 := n % c1
      let i2 := n / c1 % c2
      let i3 := n / c1 / c2
      some ⟨addr64 ((s.bargeSrc b : Int) + i1 * b.srcStride 1 + i2 * b.srcStride 2 + i3 * b.srcStride 3),
        addr64 ((s.bargeDst b : Int) + i1 * b.dstStride 1 + i2 * b.dstStride 2 + i3 * b.dstStride 3), b.len0, n, 0⟩

/-- The cursor (R302): the first element not complete in the destination. -/
def Barge.cursor (b : Barge) : Nat := (b.out.map (·.elem)).foldl min b.elem

/-- Entry and row of a cursor: for STRIDED the element and 0, for GATHER past the last row the count of entries and 0, and 0 before its list is read. -/
def Barge.pos (b : Barge) : Nat × Nat :=
  if b.gather then (if b.list.isEmpty then (0, 0) else (b.find b.entries 0 b.cursor).getD (b.entries, 0)) else (b.cursor, 0)

/-- A parked barge as it resumes (R301, R302): it writes every element from its cursor on again; one parked before its first entry to ACTIVE is staged again. -/
def Barge.again (b : Barge) : Barge :=
  { b with st := if b.started then .active else .queued, elem := b.cursor, off := 0, hit := none }

/-- Bytes of the first `n` elements. -/
def Barge.bytesOf (b : Barge) (n : Nat) : Nat :=
  if b.gather then ((List.range n).map (fun i => match b.find b.entries 0 i with | some x => leAt (b.entry x.1) 8 4 | none => 0)).foldl (· + ·) 0
  else n * b.len0

/-- The least and greatest offsets a STRIDED side touches, relative to its start: strides by dimension. -/
def stridedSpan (b : Barge) (stride : Nat → Int) : Int × Int :=
  let e (i : Nat) : Int := ((b.count i : Int) - 1) * stride i
  let dims := [e 1, e 2, e 3]
  (sumInt (dims.map (min 0)), sumInt (dims.map (max 0)) + b.len0)

/-- The least and greatest destination offsets of a GATHER. -/
def gatherSpan (b : Barge) : Int × Int :=
  let ds := sext 32 (leAt b.desc 36 4)
  (List.range b.entries).foldl (fun m j =>
    let e := b.entry j
    let r := entryRows e
    if r = 0 || 2 ^ 20 < leAt e 8 4 then m
    else
      let o : Int := (leAt e 12 4 : Nat)
      let last := ((r : Int) - 1) * ds
      (min m.1 (o + min 0 last), max m.2 (o + max 0 last + (leAt e 8 4 : Nat)))) (0, 0)

/-- The bounding range of a barge's destination, relative to its start. -/
def dstSpan (b : Barge) : Int × Int := if b.gather then gatherSpan b else stridedSpan b b.dstStride

/-- The completion record of R323. -/
def Dev.bargeRecord (s : Dev) (k : Nat) (b : Barge) (status : Nat) : List Byte :=
  let pos := b.pos
  let flags := b2n b.halted + 2 * b2n b.retried + 4 * b2n b.spared + 8 * b2n b.depFailed + 16 * b2n b.resumed
    + 32 * b2n b.indet + 64 * b2n b.zc
  let fail := b.cause ≠ 0 && !statusGood status
  leBytes 1 status ++ leBytes 1 b.op ++ leBytes 1 b.cls ++ leBytes 1 flags ++ leBytes 2 b.tag
    ++ leBytes 1 (if fail then b.cause else 0) ++ leBytes 1 b.prio
    ++ leBytes 8 (b.bytesOf b.cursor) ++ leBytes 4 pos.1 ++ leBytes 4 pos.2
    ++ leBytes 8 (b.faultVa % 2 ^ 48 + (if b.faultDst then 2 ^ 63 else 0)) ++ leBytes 8 0
    ++ leBytes 8 b.tIssue ++ leBytes 8 (s.clCycles k) ++ leBytes 4 (min (b.waits.foldl (· + ·) 0) 0xFFFFFFFF)
    ++ leBytes 1 (waitCause b.waits) ++ leBytes 3 0

/-- Changes a barge. -/
def onBarge (k uid : Nat) (f : Barge → Barge) : Prog :=
  onCl k fun c => { c with barges := c.barges.map fun b => if b.uid == uid then f b else b }

def Dev.barge (s : Dev) (k uid : Nat) : Option Barge := (s.cl k).barges.find? fun b => b.uid == uid

/-- Runs on a barge that stands. -/
def withBarge (k uid : Nat) (f : Barge → Prog) : Prog := look fun s => match s.barge k uid with | some b => f b | none => .skip

/-- Adds to a barge-engine counter. -/
def beTally (k off n : Nat) : Prog := tally .be (k / 168) (k % 168) off n

/-- A barge ends (R301, R318, R320, R321): its blocks are committed and released, or freed unwritten and given back; in a slot that has entered DRAIN the
source block is released (R322). Its tag completes. -/
def finishBarge (k uid status : Nat) : Prog := withBarge k uid fun b =>
  let good := statusGood status
  progs [
    look fun s => completeTag k uid (s.bargeRecord k b status),
    match b.dst with
    | some (l, seq) => if good then only b.commits (commitBlk l seq)
        else progs [freeUnwritten l seq, onBlk l seq fun x => { x with again := 0 }]
    | none => .skip,
    match b.src with
    | some (l, seq) => look fun s =>
      if bitAt (s.lock l).drain b.slot then releaseBlk l seq b.slot
      else if good then only b.releases (releaseBlk l seq b.slot) else unTake l seq b.slot
    | none => .skip,
    withdraw (k / 168) (fun r => r.unit == b.unit k),
    dropWalks (k / 168) (fun u => u == b.unit k),
    unwaitAll (.barge uid) k,
    onCl k fun c => { c with barges := c.barges.filter fun x => !(x.uid == uid) }]

/-- BE_FAULT_* and the event log (R320, R326). -/
def bargeFault (k : Nat) (b : Barge) (code cause va : Nat) (dst : Bool) : Prog := look fun s =>
  let d := k / 168
  let p := k % 168
  progs [
    logE (s.clusterEntry 3 5 code cause d p 0 b.tag (queueOf b.cmd) va),
    if s.fld .be d p R.BE_FAULT_STATUS 31 31 = 1 then setFld .be d p R.BE_FAULT_STATUS 30 30 1
    else progs [
      holdRecord .be d p R.BE_FAULT_STATUS (2 ^ 31 + code * 2 ^ 16 + cause),
      setReg .be d p R.BE_FAULT_TAG b.tag,
      setReg .be d p R.BE_FAULT_VADDR_LO (va % 2 ^ 32),
      setReg .be d p R.BE_FAULT_VADDR_HI (b2n dst * 2 ^ 31 + va / 2 ^ 32 % 2 ^ 16),
      setReg .be d p R.BE_FAULT_CURSOR (b.cursor % 2 ^ 32)],
    onBarge k b.uid fun b => { b with cause := cause, faultVa := va % 2 ^ 48, faultDst := dst }]

/-- A barge stops issuing and drains; it completes with `status` once its last response has arrived (R301, R318). The first such status
stands (R18). -/
def drainBarge (k uid status : Nat) : Prog := onBarge k uid fun b =>
  { b with st := .draining, cancel := match b.cancel with | some c => some (if c = 0 then status else c) | none => some status }

/-- TCANCEL or the cancellation of its command (R318): a queued barge completes at once, any other drains; what it waits for and what it has met count
no more. -/
def cancelBarge (k uid status : Nat) : Prog := withBarge k uid fun b => progs [
  withdraw (k / 168) (fun r => r.unit == b.unit k),
  dropWalks (k / 168) (fun u => u == b.unit k),
  onBarge k uid fun b => { b with hit := none },
  if b.st == .queued then finishBarge k uid status else drainBarge k uid status]

/-- A barge's failure of the hardware: on a REPLAYABLE queue its tag does not complete and the command passes to recovery (R544). -/
def failBarge (k uid status data : Nat) : Prog := withBarge k uid fun b => look fun s =>
  if recoverable status 0 && s.replayable b.cmd then progs [
    onBarge k uid fun b => { b with st := .parkedFault },
    .upd (.rfaults (s.rfaults ++ [⟨b.cmd, k, status, data, data = 0 || s.regionWrote b.cmd data⟩]))]
  else drainBarge k uid status

end Sys2Proof.Machine
end

