-- ==== Sys2Proof/Machine/Kill.lean ====
section
/-! DEFINITION. Flocks as parts of a command, the kill and the cancel of a command's work (R351, R474, R475), the exceptions of a thread core (R265, R266, R272), and the end of a command's lock holds (R546). -/

namespace Sys2Proof.Machine

/-! ### Flocks -/

def Cluster.core (c : Cluster) (n : Nat) : ThCore := sget (fun _ => ThCore.atWake) c.cores n
def ThCore.flock (x : ThCore) (f : Nat) : Flock := if f = 0 then x.f0 else x.f1
def ThCore.setFlock (x : ThCore) (f : Nat) (g : Flock) : ThCore := if f = 0 then { x with f0 := g } else { x with f1 := g }
def Dev.flock (s : Dev) (k core f : Nat) : Flock := ((s.cl k).core core).flock f

def onCore (k core : Nat) (g : ThCore → ThCore) : Prog :=
  onCl k fun c => { c with cores := sset (fun _ => ThCore.atWake) c.cores core (g (c.core core)) }
def onFlock (k core f : Nat) (g : Flock → Flock) : Prog := onCore k core fun x => x.setFlock f (g (x.flock f))

/-- The unit of a flock in fault records (R355). -/
def flockUnit (k core f : Nat) : UnitRef := ⟨1, k % 168, core, f, 0⟩

/-- Adds to a thread-core counter. -/
def thTally (k core off n : Nat) : Prog := tally .th (k / 168) (k % 168 * 112 + core) off n

/-- A barrier arrival that has not completed is withdrawn (R267). -/
def withdrawArrival (k core f : Nat) : Prog := look fun s =>
  let a := 2 * core + f
  only ((s.cl k).barriers.any (fun b => b.2.arrived.contains a)) (onCl k fun c =>
    { c with barriers := (c.barriers.map fun b => (b.1, { b.2 with arrived := b.2.arrived.filter (fun x => !(x == a)) })).filter fun b => !b.2.arrived.isEmpty })

/-- A flock gives up what it waits for: barrier arrivals, lock waits, walks and posted faults. -/
def dropFlockWaits (k core f : Nat) : Prog := progs [
  withdrawArrival k core f,
  forAll (List.range 8) fun t => unwaitAll (.flock core f t) k,
  withdraw (k / 168) (fun r => r.unit == flockUnit k core f),
  dropWalks (k / 168) (fun u => u == flockUnit k core f)]

/-- The flocks of a cluster that belong to a command: core and flock. -/
def Cluster.flocksOf (c : Cluster) (cmd : Nat) : List (Nat × Nat) :=
  c.cores.flatMap fun x =>
    (if x.2.f0.st != .idle && x.2.f0.cmd == cmd then [(x.1, 0)] else []) ++ (if x.2.f1.st != .idle && x.2.f1.cmd == cmd then [(x.1, 1)] else [])

/-- The keys of the clusters of a die that are not in their reset state. -/
def Dev.clustersOf (s : Dev) (d : Nat) : List Nat := (s.clusters.map (·.1)).filter fun k => k / 168 == d

/-- Kills the flocks of a command (R474, R475). -/
def killFlocks (cmd : Nat) : Prog := look fun s =>
  forAll (s.clustersOf (cmdDie cmd)) fun k => look fun s =>
    forAll ((s.cl k).flocksOf cmd) fun x => progs [dropFlockWaits k x.1 x.2, onFlock k x.1 x.2 fun _ => Flock.idle]

/-- Puts the issue-queue entries a parked command saved back at the heads of their queues, in their order (R472). -/
def unsave (cmd : Nat) : Prog := look fun s =>
  match s.cmdOf cmd with
  | none => .skip
  | some c => progs [
      forAll c.saved fun x => onCl (ck (cmdDie cmd) (s.physOf (cmdDie cmd) x.logical)) fun c => { c with entries := x.entries ++ c.entries },
      onCmd cmd fun c => { c with saved := c.saved.map fun x => { x with entries := [] } }]

/-- Cancels every unfinished tag of a command (R293, R318), with CANCELLED, but for the tags in `keep`. -/
def cancelTags (cmd : Nat) (keep : List (Nat × Nat)) : Prog := progs [
  unsave cmd,
  look fun s => forAll (s.clustersOf (cmdDie cmd)) fun k => look fun s => progs [
    forAll ((s.cl k).entries.filter fun e => e.cmd == cmd && !keep.contains (k, e.uid)) fun e => cancelEntry k e.uid 0x30,
    forAll ((s.cl k).barges.filter fun b => b.cmd == cmd && !keep.contains (k, b.uid)) fun b => cancelBarge k b.uid 0x30]]

/-- The locks of a die and of its clusters that are not in their reset state. -/
def Dev.dieLiveLocks (s : Dev) (d : Nat) : List LockId := s.liveLocks.filter fun l => l.dieOf == d

/-- The holds of R546 end at commit, cancel or kill. -/
def endKeeps (cmd : Nat) : Prog := look fun s =>
  forAll (s.liveLocks.filter fun l => (s.lock l).blks.any (fun b => b.keep.contains cmd || b.again % 2 ^ 60 == cmd + 1)) fun l => progs [
    onLock l fun x => { x with blks := x.blks.map fun b =>
      { b with keep := ndel b.keep cmd, again := if b.again % 2 ^ 60 == cmd + 1 then 0 else b.again } },
    freeDone l]

/-- The work of a command ends (R474, R475): flocks killed, unfinished tags cancelled. Its completion record follows once every tag has
completed (COMMAND_COMPLETE). -/
def endCommand (cmd status : Nat) (killed : Bool) : Prog := progs [
  killFlocks cmd, cancelTags cmd [], endKeeps cmd,
  onCmd cmd fun c => { c with
    status := statusJoin c.status status
    killed := c.killed || killed
    failed := true
    preemptReq := .none
    resumeReq := false }]

/-- R475: the drover kills a command, which ends with the first failure's status and KILLED. -/
def killCommand (cmd status : Nat) : Prog := endCommand cmd status true

/-! ### Exceptions -/

/-- The status of an exception cause (R265). -/
def thStatus (cause : Nat) : Nat :=
  if cause < 0x10 then 0x70 else if cause = 0x10 then 0x10 else if cause = 0x11 then 0x11 else if cause = 0x20 then 0x20 else 0x12

/-- TH_FAULT_* and the event log (R272). -/
def thRecord (k core f cause va thread : Nat) (fetch : Bool) : Prog := look fun s =>
  let d := k / 168
  let p := k % 168
  let i := p * 112 + core
  let fl := s.flock k core f
  progs [
    logE (s.clusterEntry 3 1 (thStatus cause) cause d p core 0xFFFF (if fl.cmd = 0 then 0xFFFF else fl.queue) va),
    if s.fld .th d i R.TH_FAULT_STATUS 31 31 = 1 then setFld .th d i R.TH_FAULT_STATUS 30 30 1
    else progs [
      holdRecord .th d i R.TH_FAULT_STATUS (2 ^ 31 + f * 2 ^ 24 + thStatus cause * 2 ^ 16 + b2n fetch * 2 ^ 8 + cause),
      setReg .th d i R.TH_FAULT_PC_LO (fl.pc % 2 ^ 32),
      setReg .th d i R.TH_FAULT_PC_HI (fl.pc / 2 ^ 32 % 2 ^ 16),
      setReg .th d i R.TH_FAULT_VADDR_LO (va % 2 ^ 32),
      setReg .th d i R.TH_FAULT_VADDR_HI (va / 2 ^ 32 % 2 ^ 16),
      setReg .th d i R.TH_FAULT_MASK (fl.done * 2 ^ 8 + 2 ^ thread % 256)]]

/-- An exception that kills the flock, and with it the command (R265, R475). On a REPLAYABLE queue an uncorrectable error passes to
recovery instead (R544); `data` is the DPA whose read failed, 0 if none. -/
def thDie (k core f cause va thread : Nat) (fetch : Bool) (data : Nat) : Prog := look fun s =>
  let fl := s.flock k core f
  progs [
    thRecord k core f cause va thread fetch,
    onFlock k core f fun x => { x with st := .faulted },
    if cause = 0x20 && s.replayable fl.cmd then
      .upd (.rfaults (s.rfaults ++ [⟨fl.cmd, k, 0x20, data, data = 0 || s.regionWrote fl.cmd data⟩]))
    else killCommand fl.cmd (thStatus cause)]

/-- An exception that firmware may resume (R265, R266, R350): the flock stops where it is, with the time of its fault, and posts a record; `cause` and `level` are
those of R355. A page table that reads uncorrectable is a failure of memory. -/
def thStop (k core f va thread access cause level : Nat) : Prog := look fun s =>
  let fl := s.flock k core f
  let fetch := access = 2
  if cause = 4 then thDie k core f 0x20 va thread fetch 0
  else progs [
    thRecord k core f (if cause = 3 then 0x11 else 0x10) va thread fetch,
    onFlock k core f fun x => { x with st := .faulted, wait := some ⟨0, 0, thread, va, 0, s.clock⟩ },
    postFault (k / 168) ⟨flockUnit k core f, 0, fl.queue, va, cause, level, access, false⟩]

end Sys2Proof.Machine
end

