-- ==== Sys2Proof/Machine/ThreadBase.lean ====
section
/-! DEFINITION. What every thread instruction shares: the registers of a thread (R237), the fields of a word (R240, R241), the legality of a word (R242), fetch (R257), the executing threads (R241), waits and their tallies (R271), and the step of an instruction that only changes registers. -/

namespace Sys2Proof

def FlockAt.k (a : FlockAt) : Nat := Machine.ck a.die.val a.cluster.val
def ThOp.k (a : ThOp) : Nat := a.at_.k
def ThOp.core (a : ThOp) : Nat := a.at_.core.val
def ThOp.f (a : ThOp) : Nat := a.at_.flock.val
def ThOp.w (a : ThOp) : Nat := a.word.toNat

end Sys2Proof

namespace Sys2Proof.Machine

/-! ### Registers (R237) -/

/-- g0 reads 0, whatever a saved context held for it. -/
def Thread.gr (t : Thread) (n : Nat) : Nat := if n = 0 then 0 else (sget (fun _ => (0 : W64)) t.g n).toNat
/-- g0 ignores writes. -/
def Thread.setG (t : Thread) (n v : Nat) : Thread :=
  if n = 0 then t else { t with g := sset (fun _ => (0 : W64)) t.g n (BitVec.ofNat 64 v) }
def Thread.vr (t : Thread) (n : Nat) : Nat := (sget (fun _ => (0 : W512)) t.v n).toNat
def Thread.setV (t : Thread) (n v : Nat) : Thread := { t with v := sset (fun _ => (0 : W512)) t.v n (BitVec.ofNat 512 v) }
def Thread.pr (t : Thread) (n : Nat) : Bool := n = 0 || t.p.getLsbD n
/-- p0 ignores writes. -/
def Thread.setP (t : Thread) (n : Nat) (b : Bool) : Thread :=
  if n = 0 then t else { t with p := BitVec.ofNat 8 (setBits t.p.toNat n n (b2n b)) }
/-- Sticky flags (R237, R248). -/
def Thread.raise (t : Thread) (fl : Nat) : Thread := { t with fstat := t.fstat ||| BitVec.ofNat 5 fl }

def Flock.thr (x : Flock) (t : Nat) : Thread := sget (fun _ => Thread.zero) x.threads t
def Flock.setThr (x : Flock) (t : Nat) (v : Thread) : Flock := { x with threads := sset (fun _ => Thread.zero) x.threads t v }

/-! ### Fields of a word (R240, R241) -/

def fD (w : Nat) : Nat := bits w 19 14
def fA (w : Nat) : Nat := bits w 13 8
def fB (w : Nat) : Nat := bits w 7 2
def fM (w : Nat) : Nat := bits w 1 0
def fImm8 (w : Nat) : Int := sext 8 (bits w 7 0)
def fSz (w : Nat) : Nat := bits w 7 6
def fOff6 (w : Nat) : Int := sext 6 (bits w 5 0)
def fImm14 (w : Nat) : Nat := bits w 13 0
def fOff20 (w : Nat) : Int := sext 20 (bits w 19 0)
def fPred (w : Nat) : Nat := bits w 22 20
def fNeg (w : Nat) : Bool := bitAt w 23

/-- What a field of a word names (R241, R242): nothing, a g register, a v register, a predicate, or FENCE's ordering. -/
inductive FKind where
  | no | g | v | p | o
  deriving DecidableEq, Repr

def FKind.ok (k : FKind) (x : Nat) : Bool :=
  match k with
  | .no => x = 0
  | .g => true
  | .v => x < 32
  | .p => x < 8
  | .o => x < 4

/-- R241: PRED 0b1000 is reserved. -/
def predOk (w : Nat) : Bool := bits w 23 20 ≠ 8
/-- A legal REG word: its D, A and B fields, and the M values its opcode defines. -/
def regOk (d a b : FKind) (ms : List Nat) (w : Nat) : Bool :=
  predOk w && d.ok (fD w) && a.ok (fA w) && b.ok (fB w) && ms.contains (fM w)
/-- A legal IMM word. -/
def immOk (d a : FKind) (w : Nat) : Bool := predOk w && d.ok (fD w) && a.ok (fA w)
/-- A legal MEM word, with the SZ values its opcode defines. -/
def memOk (d a : FKind) (szs : List Nat) (w : Nat) : Bool := predOk w && d.ok (fD w) && a.ok (fA w) && szs.contains (fSz w)

/-! ### Where an instruction stands -/

def Dev.flockOf (s : Dev) (a : ThOp) : Flock := s.flock a.k a.core a.f

/-- The threads of a mask, ascending. -/
def maskThreads (m : Nat) : List Nat := (List.range 8).filter (bitAt m)
/-- The mask of some threads. -/
def threadMask (l : List Nat) : Nat := (l.map (2 ^ ·)).foldl (· + ·) 0

/-- The executing threads (R241, R242): active threads whose predicate holds. -/
def Flock.exec (x : Flock) (w : Nat) : List Nat := (maskThreads x.active).filter fun t => (x.thr t).pr (fPred w) != fNeg w

/-- The priority of a flock's queue as it is now (R239, R457, R459). -/
def Dev.prioOf (s : Dev) (x : Flock) : Nat := s.fld .q (x.queue / 256) (x.queue % 256) R.Q_CFG 6 4

/-- The first active thread, named by an exception of the word itself, before any thread executes it. -/
def Flock.first (x : Flock) : Nat := (maskThreads x.active).headD 0

/-- The flock goes on at `pc`: its instruction is complete in every thread. -/
def thNext (k core f pc : Nat) : Prog := progs [
  onFlock k core f fun x => { x with pc := pc % 2 ^ 64, st := .run, done := 0, wait := none },
  thTally k core R.TH_ISSUED 1]

/-- The flock waits on its instruction (R243, R262, R264, R271): one more in the tally. -/
def thWait (k core f op w thread a off : Nat) : Prog := look fun s => progs [
  onFlock k core f fun x =>
    let since := match x.wait with | some v => v.since | none => s.clock
    { x with st := .wait, wait := some ⟨op, BitVec.ofNat 24 w, thread, a, off, since⟩ },
  thTally k core off 1]

/-- Makes a flock's accesses: `f` runs once all of them translate and are reachable; a walk or a stack's wake keeps the flock waiting; a
fault raises the exception of R265. -/
def thAccess (k core f op w thread : Nat) (l : List VAcc) (cont : Prog) : Prog :=
  let d := k / 168
  let p := k % 168
  .seq (fillFromDie d p l) (useOnce d p (fun u => u == flockUnit k core f) l cont fun m => look fun s =>
    match m with
    | .ok => .skip
    | .walk a => progs [
        startWalk d (flockUnit k core f) 0 (s.flock k core f).queue a true,
        thWait k core f op w thread a.va R.TH_WAIT_TRANSLATION]
    | .wake a => progs [
        wantStacks (s.dpaOf d p a.va) a.len,
        thWait k core f op w thread a.va (if s.wakeCause (s.dpaOf d p a.va) = 2 then R.TH_WAIT_WEIR else R.TH_WAIT_MEMORY)]
    | .fault a c lv => thStop k core f a.va thread a.access c lv
    | .bounds a => thDie k core f 0x12 a.va thread (a.access = 2) 0)

/-- The opcodes that are not reserved (R242 to R252). -/
def opDefined (n : Nat) : Bool :=
  [(0x00, 0x0B), (0x10, 0x28), (0x30, 0x38), (0x40, 0x4A), (0x50, 0x5E), (0x60, 0x67), (0x70, 0x79), (0x80, 0x87), (0x90, 0x90),
    (0xA0, 0xA6)].any fun r => decide (r.1 ≤ n) && decide (n ≤ r.2)

/-- The lines the instruction cache holds (R258). -/
def icacheLines : Nat := 256

/-- Fills a line of the instruction cache; of a full cache some line gives way, which of them the spec leaves open (log 44). -/
def fillCode (k core line : Nat) : Prog := look fun s =>
  let x := (s.cl k).core core
  let put (l : List (Nat × List Byte)) : Prog := onCore k core fun x => { x with icache := (line, s.bytesAt line 64) :: l }
  if x.icache.length < icacheLines then put x.icache else withFree fun v => put (x.icache.eraseIdx (v % x.icache.length))

/-- What a flock that waits for its code waits for: any instruction, since none is known yet. -/
def fetchWait : Nat := 0x10C

/-- The word at the program counter (R240), from the 64 bytes of its line: a reserved opcode raises ILLEGAL_INSTRUCTION (R242), and `cont` is what an
instruction of opcode `op` and low bits `w` does. Where the memory holds another word the flock does not issue that instruction. -/
def thWord (k core f op w a : Nat) (line : List Byte) (cont : Prog) : Prog := look fun s =>
  let word := leAt line (a % 64) 4
  if !opDefined (word / 2 ^ 24) then thDie k core f 1 0 (s.flock k core f).first false 0
  else only (word = op * 2 ^ 24 + w) cont

/-- Fetch of the instruction at the program counter (R240, R257, R258, R265): 4-byte aligned, with execute permission, through the instruction cache, its
line readable. -/
def thFetch (k core f op w : Nat) (cont : Prog) : Prog := look fun s =>
  let fl := s.flock k core f
  let t := fl.first
  if fl.pc % 4 ≠ 0 && fl.pc < 2 ^ 48 then thDie k core f 0x13 fl.pc t true 0
  else thAccess k core f fetchWait 0 t [⟨fl.pc, 4, 2⟩] (look fun s =>
    let a := s.dpaOf (k / 168) (k % 168) fl.pc
    let line := a / 64 * 64
    match ((s.cl k).core core).icache.find? (fun e => e.1 == line) with
    | some e => thWord k core f op w a e.2 cont
    | none => .seq (memTouch line 64) (if s.readBad line 64 then thDie k core f 0x20 fl.pc t true a
      else .seq (fillCode k core line) (thWord k core f op w a (s.bytesAt line 64) cont)))

/-- The pipes two flocks share (R233). -/
def pipeVector : Nat := 0
def pipeMemory : Nat := 1
def pipeIssue : Nat := 2
/-- A pipe of the flock's own. -/
def pipeOwn : Nat := 3

/-- R233: a shared pipe that both flocks want goes to the one that lost the latest such cycle, to F0 if they have not competed since wake;
the loser is recorded and its instruction does not go on in this cycle. -/
def thPipe (a : ThOp) (pipe : Nat) (cont : Prog) : Prog := look fun s =>
  if pipe = pipeOwn || !a.contested then cont
  else
    let x := (s.cl a.k).core a.core
    let winner := sget (fun _ => 0) x.lost pipe
    let loser := 1 - winner
    progs [
      onCore a.k a.core fun x => { x with lost := sset (fun _ => 0) x.lost pipe loser },
      only (winner = a.f) cont]

/-- Whether a flock stands before an instruction: it runs, with no pre-emption asked (R267), or waits on this very word; a memory
instruction in progress completes first. -/
def Flock.ready (x : Flock) (op w : Nat) : Bool :=
  match x.st with
  | .run => !x.preempt
  | .wait => match x.wait with
    | some v => if v.op = fetchWait then !x.preempt
        else v.op = op && v.w.toNat = w && (!x.preempt || (0x70 ≤ op && op ≤ 0x90 && op ≠ 0x78))
    | none => false
  | _ => false

/-- Whether the flock has its instruction already, which waits (R271). -/
def Flock.holdsWord (x : Flock) : Bool := x.st == .wait && match x.wait with | some v => v.op ≠ fetchWait | none => false

/-- A flock that cannot issue since its context is being saved or restored counts WAIT_PREEMPT (R271, R272); the restore is over at its first attempt
(log 7). -/
def thHeld (a : ThOp) : Prog := look fun s =>
  let x := s.flockOf a
  if x.st == .saving then thTally a.k a.core R.TH_WAIT_PREEMPT 1
  else only (x.st == .restoring) (progs [
    thTally a.k a.core R.TH_WAIT_PREEMPT 1,
    onFlock a.k a.core a.f fun x => { x with st := .run }])

/-- One instruction of a flock: fetched, checked (R242, R265), then `body`. -/
def thStep (a : ThOp) (op pipe : Nat) (ok : Bool) (body : Prog) : Prog := look fun s =>
  let issue : Prog := look fun s =>
    let t := (s.flockOf a).first
    if !ok then thDie a.k a.core a.f 1 0 t false 0
    else thPipe a pipe (if a.upset then thDie a.k a.core a.f 0x20 0 t false 0 else body)
  if !s.clusterOn (a.k / 168) (a.k % 168) then .skip
  else if !(s.flockOf a).ready op a.w then thHeld a
  else if (s.flockOf a).holdsWord then issue
  else thFetch a.k a.core a.f op a.w issue

/-- The vector engine's clock (R236): while it is gated the flock waits and its step is requested. -/
def vecReady (a : ThOp) (op : Nat) (cont : Prog) : Prog := look fun s =>
  let x := (s.cl a.k).core a.core
  if !x.vecGated || ((s.flockOf a).exec a.w).isEmpty then cont
  else progs [
    onCore a.k a.core fun x => { x with vecReq := true },
    only (!x.vecReq) (riseReq (1000 + a.k) (7 + a.core) 5),
    thWait a.k a.core a.f op a.w (s.flockOf a).first 0 R.TH_WAIT_WEIR]

/-- An instruction that changes registers only: `f` gives each executing thread, named by its number, from the flock as it stood before. -/
def thEach (a : ThOp) (op : Nat) (ok : Bool) (f : Flock → Nat → Thread → Thread) : Prog := thStep a op pipeOwn ok (look fun s =>
  let x := s.flockOf a
  progs [
    onFlock a.k a.core a.f fun y => (x.exec a.w).foldl (fun y t => y.setThr t (f x t (x.thr t))) y,
    thNext a.k a.core a.f (x.pc + 4)])

/-- The same where a thread's number does not matter. -/
def thRegs (a : ThOp) (op : Nat) (ok : Bool) (f : Flock → Thread → Thread) : Prog := thEach a op ok fun x _ t => f x t

/-- A vector instruction that changes registers only. -/
def thVec (a : ThOp) (op : Nat) (ok : Bool) (f : Flock → Thread → Thread) : Prog := thStep a op pipeVector ok (vecReady a op (look fun s =>
  let x := s.flockOf a
  let ex := x.exec a.w
  progs [
    onFlock a.k a.core a.f fun y => ex.foldl (fun y t => y.setThr t (f x (x.thr t))) y,
    onCore a.k a.core fun y => { y with vecIdle := if ex.isEmpty then y.vecIdle else s.clock },
    thTally a.k a.core R.TH_VSLOTS ex.length,
    thNext a.k a.core a.f (x.pc + 4)]))

end Sys2Proof.Machine
end

