-- ==== Sys2Proof/Machine/ThreadIssue.lean ====
section
/-! DEFINITION. The tensor-issue interface of the thread cores (R260, R262 to R264, R293, R300, R304) and their side of the locks (R309, R311, R546). -/

namespace Sys2Proof.Machine

/-- The instruction has taken effect in thread `t` (R266). -/
def thDone (a : ThOp) (t : Nat) (g : Thread → Thread) : Prog :=
  onFlock a.k a.core a.f fun x => { x.setThr t (g (x.thr t)) with done := x.done ||| 2 ^ t }

/-- Threads take effect one at a time in ascending order (R259, R266): those outside DONE, up to one that waits or faults. -/
def thSeq (a : ThOp) (each : Nat → Prog) : Prog := look fun s =>
  let x := s.flockOf a
  progs [
    onFlock a.k a.core a.f fun y => { y with st := .run },
    forAll ((x.exec a.w).filter fun t => !bitAt x.done t) fun t => look fun s => only ((s.flockOf a).st == .run) (each t),
    look fun s => only ((s.flockOf a).st == .run) (thNext a.k a.core a.f (x.pc + 4))]

/-- An acquire at scope CLUSTER or DEVICE invalidates the data cache (R259, R260). -/
def acquire (a : ThOp) : Prog := onCore a.k a.core fun x => { x with dcache := [] }

/-- The bytes of a vector register. -/
def Thread.vBytes (t : Thread) (n : Nat) : List Byte := leBytes 64 (t.vr n)

/-- A thread of a push waits for a tag or a place, or gets all ones under NOWAIT (R262). -/
def pushBlocked (a : ThOp) (op t : Nat) : Prog :=
  if fM a.w = 1 then thDone a t fun r => r.setG (fD a.w) (2 ^ 64 - 1)
  else thWait a.k a.core a.f op a.w t 0 R.TH_WAIT_SYNC

/-- TISSUE in one thread. -/
def tissueThread (a : ThOp) (t : Nat) : Prog := look fun s =>
  let x := s.flockOf a
  let b := ((x.thr t).vBytes (fA a.w)).take 32
  if s.canPush a.k b then pushTensor a.k x.cmd (s.prioOf x) x.fast b fun tag => thDone a t fun r => r.setG (fD a.w) tag
  else pushBlocked a 0xA0 t

def tissueBody (a : ThOp) : Prog := thSeq a (tissueThread a)
def tissueProg (a : ThOp) : Prog := thStep a 0xA0 pipeIssue (regOk .g .v .no [0, 1] a.w) (tissueBody a)

/-- A fresh barge. -/
def Barge.fresh (uid tag cmd prio : Nat) (desc : List Byte) (deps : List Dep) : Barge :=
  ⟨uid, tag, desc, cmd, prio, deps, deps.isEmpty, .queued, false, none, none, 0, 0, 0, [], none, false, false, false, false, false, false,
    false, 0, 0, false, false, false, 0, [], [], none⟩

/-- Barges of a class that stand in its queue (R304). -/
def Cluster.classDepth (c : Cluster) (cls : Nat) : Nat := (c.barges.filter fun b => b.st == .queued && b.cls = cls).length

/-- BISSUE in one thread: a tag, then a place in the queue of the class, or a tag that completes ILLEGAL_DESCRIPTOR (R263, R300). -/
def bissueThread (a : ThOp) (t : Nat) : Prog := look fun s =>
  let x := s.flockOf a
  let c := s.cl a.k
  let desc := (x.thr t).vBytes (fA a.w)
  let check := bargePushCheck desc
  let ok := check = 0
  if c.hasTag && (!ok || c.classDepth (bits (leAt desc 0 8) 9 8) < 32) then
    allocTag a.k x.cmd fun tag uid =>
      let b := Barge.fresh uid tag x.cmd (s.prioOf x) desc (c.bindDeps (bargeDepTags desc))
      progs [
        if ok then onCl a.k fun c => { c with barges := c.barges ++ [b] }
        else progs [
          beTally a.k R.BE_DESC_REFUSED 1,
          logE (s.clusterEntry 3 5 0x71 0 (a.k / 168) (a.k % 168) 0 tag (queueOf x.cmd) check),
          look fun s => completeTag a.k uid (s.bargeRecord a.k b 0x71)],
        thDone a t fun r => r.setG (fD a.w) tag]
  else pushBlocked a 0xA1 t

def bissueBody (a : ThOp) : Prog := thSeq a (bissueThread a)
def bissueProg (a : ThOp) : Prog := thStep a 0xA1 pipeIssue (regOk .g .v .no [0, 1] a.w) (bissueBody a)

/-- PUSH_UNBLOCK (R262): a flock whose push waits tries it again. -/
def pushUnblockProg (l : FlockAt) : Prog := look fun s =>
  let x := s.flock l.k l.core.val l.flock.val
  match x.wait with
  | some v =>
    let a : ThOp := ⟨l, v.w, false, false⟩
    only (x.st == .wait && !x.preempt && s.clusterOn l.die.val l.cluster.val)
      (if v.op = 0xA0 then tissueBody a else if v.op = 0xA1 then bissueBody a else .skip)
  | none => .skip

/-- A tag operation of one thread (R264): a tag that is free, or a value that names none, raises cause 0x05. -/
def withTag (a : ThOp) (t : Nat) (f : Tag → Prog) : Prog := look fun s =>
  let v := ((s.flockOf a).thr t).gr (fA a.w)
  match (s.cl a.k).tags.find? (fun x => x.1 == v) with
  | some x => f x.2
  | none => thDie a.k a.core a.f 5 0 t false 0

/-- TWAIT: the status of a complete tag; otherwise the flock waits. -/
def twaitProg (a : ThOp) : Prog := thStep a 0xA2 pipeIssue (regOk .g .g .no [0] a.w) (thSeq a fun t => withTag a t fun x =>
  if x.done then progs [acquire a, thDone a t fun r => r.setG (fD a.w) (leAt x.record 0 1)]
  else thWait a.k a.core a.f 0xA2 a.w t 0 R.TH_WAIT_SYNC)

/-- TPOLL: 0x100 while the tag is not complete. -/
def tpollProg (a : ThOp) : Prog := thStep a 0xA3 pipeIssue (regOk .g .g .no [0] a.w) (thSeq a fun t => withTag a t fun x =>
  progs [only x.done (acquire a), thDone a t fun r => r.setG (fD a.w) (if x.done then leAt x.record 0 1 else 0x100)])

/-- TCREC: the completion record. -/
def tcrecProg (a : ThOp) : Prog := thStep a 0xA4 pipeIssue (regOk .v .g .no [0] a.w) (thSeq a fun t => withTag a t fun x =>
  if x.done then progs [acquire a, thDone a t fun r => r.setV (fD a.w) (leNat x.record)]
  else thWait a.k a.core a.f 0xA4 a.w t 0 R.TH_WAIT_SYNC)

/-- TFREE: of a tag that is not complete it raises cause 0x05. -/
def tfreeProg (a : ThOp) : Prog := thStep a 0xA5 pipeIssue (regOk .no .g .no [0] a.w) (thSeq a fun t => withTag a t fun x =>
  if x.done then progs [
    onCl a.k fun c => { c with tags := c.tags.filter fun y => !(y.2.uid == x.uid) },
    thDone a t id]
  else thDie a.k a.core a.f 5 0 t false 0)

/-- Cancels the work of an allocation (R293, R318), also when a parked command's save area holds it (R472). -/
def cancelUid (k cmd uid : Nat) : Prog := look fun s =>
  let c := s.cl k
  if c.entries.any (fun e => e.uid == uid) then cancelEntry k uid 0x30
  else if c.barges.any (fun b => b.uid == uid) then cancelBarge k uid 0x30
  else
    let l := s.logicalOf (k / 168) (k % 168)
    let held := match s.cmdOf cmd with
      | some q => (q.saved.filter (fun x => x.logical == l)).flatMap (fun x => x.entries.filter fun e => e.uid == uid)
      | none => []
    progs [
      onCl k fun c => { c with entries := c.entries ++ held },
      onCmd cmd fun q => { q with saved := q.saved.map fun x =>
        if x.logical == l then { x with entries := x.entries.filter fun e => !(e.uid == uid) } else x },
      cancelEntry k uid 0x30]

/-- TCANCEL: of a complete tag it has no effect. -/
def tcancelProg (a : ThOp) : Prog := thStep a 0xA6 pipeIssue (regOk .no .g .no [0] a.w) (thSeq a fun t => withTag a t fun x =>
  progs [only (!x.done) (cancelUid a.k x.cmd x.uid), thDone a t id])

/-! ### Locks -/

/-- What a command's producer LKGET would be given now: in a replay the next block held for it (R546), else a free block (R311, R313):
address and effect. -/
def Dev.producerGrant (s : Dev) (l : LockId) (cmd : Nat) : Option (Nat × Prog) :=
  match (s.lock l).againBlk cmd with
  | some b => some (s.blockVa l b.idx, onBlk l b.seq fun b => { b with again := cmd + 1 + 2 ^ 60 })
  | none => match s.canProduce l with
    | some idx => some (s.blockVa l idx, takeBlock l idx cmd)
    | none => none

/-- Waiters that would take a block as producer: flocks and barges. An instruction waits for a block's state and takes none. -/
def takers (l : List LockWait) : List LockWait := l.filter fun w => match w.who with | .instr _ => false | _ => true

/-- Whether a producer must stand back for one that waits on the same pool with higher priority or longer (R313). A producer of a lock whose HELD is less than
FLOOR never does (R315). -/
def Dev.mustYield (s : Dev) (l : LockId) (who : Waiter) (cl prio since : Nat) : Bool :=
  !s.lockRing l && decide (s.lockFloor l ≤ (s.lock l).blks.length) && (s.poolLocks l.at_).any fun m => (takers (s.lock m).prodWait).any fun w =>
    !(w.who == who && w.cl == cl) && (s.canProduce m).isSome
      && (w.prio > prio || (w.prio == prio && (w.since < since || (w.since == since && m.n < l.n))))

/-- The lock a thread names, checked under R309 and R265: slot and lock, or none for lock misuse. -/
def Dev.threadLock (s : Dev) (k h : Nat) (consumer : Bool) : Option (LockId × Nat) :=
  if 2 ^ 19 ≤ h then none
  else match s.handleLock (k / 168) (k % 168) (bits h 15 0) with
  | some l => if s.lockOn l && (!consumer || bits h 18 16 < s.lockCons l) then some (l, bits h 18 16) else none
  | none => none

/-- LKGET in one thread. -/
def lkgetThread (a : ThOp) (t : Nat) : Prog := look fun s =>
  let x := s.flockOf a
  let h := (x.thr t).gr (fA a.w)
  let prod := fM a.w = 1
  let who := Waiter.flock a.core a.f t
  let since := match x.wait with | some v => if v.thread = t then v.since else s.clock | none => s.clock
  match s.threadLock a.k h (!prod) with
  | none => thDie a.k a.core a.f 7 h t false 0
  | some (l, slot) =>
    let done (va : Nat) : Prog := progs [unwait l who a.k, acquire a, thDone a t fun r => r.setG (fD a.w) va]
    let w : LockWait := ⟨who, a.k, x.cmd, s.prioOf x, since, slot, bits h 15 0⟩
    if prod then
      match s.producerGrant l x.cmd with
      | some g =>
        if s.mustYield l who a.k (s.prioOf x) since then progs [waitProducer l w, thWait a.k a.core a.f 0x78 a.w t h R.TH_WAIT_LOCK_SPACE]
        else progs [g.2, done g.1]
      | none => progs [waitProducer l w, thWait a.k a.core a.f 0x78 a.w t h R.TH_WAIT_LOCK_SPACE]
    else match s.nextFilled l slot with
      | some b => progs [takeFilled l b.seq slot x.cmd, done (s.blockVa l b.idx)]
      | none => progs [waitConsumer l w, thWait a.k a.core a.f 0x78 a.w t h R.TH_WAIT_ACT]

def lkgetBody (a : ThOp) : Prog := thSeq a (lkgetThread a)
def lkgetProg (a : ThOp) : Prog := thStep a 0x78 pipeMemory (regOk .g .g .no [0, 1] a.w) (lkgetBody a)

/-- LKPUT in one thread: the block named by its address must be PRODUCING, or taken by the slot and not released (R311). -/
def lkputThread (a : ThOp) (t : Nat) : Prog := look fun s =>
  let x := s.flockOf a
  let h := (x.thr t).gr (fA a.w)
  let va := (x.thr t).gr (fB a.w)
  let prod := fM a.w = 1
  match s.threadLock a.k h (!prod) with
  | none => thDie a.k a.core a.f 7 va t false 0
  | some (l, slot) =>
    match (s.lock l).blks.find? (fun b => s.blockVa l b.idx = va) with
    | none => thDie a.k a.core a.f 7 va t false 0
    | some b =>
      if prod then
        if !b.filled || b.again = x.cmd + 1 + 2 ^ 60 then progs [commitBlk l b.seq, thDone a t id]
        else thDie a.k a.core a.f 7 va t false 0
      else if bitAt b.taken slot && !bitAt b.released slot then progs [releaseBlk l b.seq slot, thDone a t id]
      else thDie a.k a.core a.f 7 va t false 0

def lkputProg (a : ThOp) : Prog := thStep a 0x79 pipeMemory (regOk .no .g .g [0, 1] a.w) (thSeq a (lkputThread a))

end Sys2Proof.Machine
end

