-- ==== Sys2Proof/Machine/Barge.lean ====
section
/-! DEFINITION. Barges at work: staging and binding (R300, R301), the three channels (R304, R305, R324), requests and responses (R302, R305, R307, R320, R321), pre-emption (R319), and the grants of locks (R311, R313). -/

namespace Sys2Proof.Machine

/-! ### Halting, parking, failing -/

/-- A SPECULATIVE barge halts (R307): it drains and completes OK. -/
def haltBarge (k uid : Nat) : Prog := withBarge k uid fun b =>
  only (!b.halted) (progs [
    onBarge k uid fun b => { b with halted := true, st := .draining },
    beTally k R.BE_PREFETCH_HALT 1])

/-- The log entries of a destination whose content a failed barge leaves open (R321, log 41): the least address of its bounding range and the first past
it. -/
def logDstRange (k : Nat) (b : Barge) : Prog := look fun s =>
  let x := dstSpan b
  let base : Int := s.bargeDst b
  let entry (i : Nat) (a : Int) : LogEntry :=
    { s.clusterEntry 3 5 0x20 0 (k / 168) (k % 168) 0 b.tag (queueOf b.cmd) (addr64 a) with index := i }
  only (!b.dstLock) (progs [logE (entry 1 (base + x.1)), logE (entry 2 (base + x.2))])

/-- A barge that has drained takes what it has met (R320, R321): it parks at the element with its fault posted, or ends. A pre-emption asked for at another
time than the fault withdraws the record again; one of the same time waits for firmware (R322, R352, log 46). -/
def meetHit (k : Nat) (b : Barge) (h : BargeHit) : Prog := look fun s =>
  let dst := h.access = 1
  let asked := match s.cmdOf b.cmd with | some c => c.preemptAt | none => 0
  let parkFor := b.preempt && asked ≠ h.since
  match h.what with
  | .page cause level => progs [
      bargeFault k b (faultStatus cause) (if cause = 3 then 3 else if dst then 2 else 1) h.va dst,
      onBarge k b.uid fun b => { b with st := if parkFor then .parkedPreempt else .parkedFault },
      only (!parkFor) (postFault (k / 168) ⟨b.unit k, b.tag, queueOf b.cmd, h.va, cause, level, h.access, false⟩)]
  | .table => progs [bargeFault k b 0x20 5 h.va dst, failBarge k b.uid 0x20 0]
  | .bounds => progs [bargeFault k b 0x12 4 h.va dst, drainBarge k b.uid 0x12]
  | .entry => progs [beTally k R.BE_DESC_REFUSED 1, bargeFault k b 0x71 7 h.va dst, drainBarge k b.uid 0x71]
  | .readFailed dpa => progs [
      bargeFault k b 0x20 5 h.va dst,
      onBarge k b.uid fun b => { b with indet := !b.dstLock },
      logDstRange k b,
      failBarge k b.uid 0x20 dpa]
  | .writeFailed dpa => progs [
      bargeFault k b 0x20 6 h.va dst,
      onBarge k b.uid fun b => { b with indet := !b.dstLock },
      logDstRange k b,
      failBarge k b.uid 0x20 dpa]

/-- A barge with no response outstanding takes what it has met, or parks for pre-emption (R319, R320). -/
def settleBarge (k uid : Nat) : Prog := withBarge k uid fun b =>
  only (b.out.isEmpty && b.cancel.isNone && !b.halted && (b.st == .active || b.st == .draining)) (
    match b.hit with
    | some h => meetHit k b h
    | none => only b.preempt (onBarge k uid fun b => { b with st := .parkedPreempt }))

/-- A barge meets something at element `n`: it stops issuing there and drains (R320, R321); a SPECULATIVE barge halts there (R307). What a barge meets after
its cancel, or behind what it has met already, counts no more. -/
def hitBarge (k uid n : Nat) (what : BargeStop) (va access : Nat) : Prog := withBarge k uid fun b => look fun s =>
  let stop (b : Barge) : Barge := { b with elem := min b.elem n, off := 0 }
  let later := match b.hit with | some _ => b.elem ≤ n | none => false
  if b.cancel.isSome || b.st == .parkedFault || b.st == .parkedPreempt then .skip
  else if b.spec then progs [onBarge k uid stop, haltBarge k uid]
  else progs [
    only (!later) (onBarge k uid fun b => { stop b with st := .draining, hit := some ⟨what, va % 2 ^ 48, access, s.clock⟩ }),
    dropWalks (k / 168) (fun u => u == b.unit k),
    settleBarge k uid]

/-- A demand fault of a barge (R320, R350); `cause` and `level` are those of R355, 4 a page table that reads uncorrectable. -/
def parkFault (k uid va access cause level : Nat) : Prog := withBarge k uid fun b =>
  hitBarge k uid b.elem (if cause = 4 then .table else .page cause level) va access

/-- An access of a barge that meets R28 (R307, R320). -/
def bargeBounds (k uid va : Nat) (dst : Bool) : Prog := withBarge k uid fun b => hitBarge k uid b.elem .bounds va (b2n dst)

/-- Makes a barge's accesses. A walk is started for each page that needs one; it raises a fault only for a demand barge. -/
def bargeAccess (k uid : Nat) (l : List VAcc) (f : Prog) : Prog :=
  let d := k / 168
  let p := k % 168
  .seq (fillFromDie d p l) (withBarge k uid fun b =>
    useOnce d p (fun u => u == b.unit k) l f fun m => look fun s =>
    match m with
    | .ok => .skip
    | .walk _ => forAll (vaPieces l) fun a => look fun s =>
        match s.xlate d p a.va a.access with
        | .miss => startWalk d (b.unit k) b.tag (queueOf b.cmd) a (!b.spec)
        | _ => .skip
    | .wake a => wantStacks (s.dpaOf d p a.va) a.len
    | .fault a c lv => parkFault k uid a.va a.access c lv
    | .bounds a => bargeBounds k uid a.va (a.access = 1))

/-! ### Staging and binding (R300, R301) -/

/-- A lock-relative side fits in one block (R300). -/
def Dev.sideFits (s : Dev) (l : LockId) (off : Nat) (span : Int × Int) : Bool :=
  decide (0 ≤ (off : Int) + span.1) && decide ((off : Int) + span.2 ≤ (s.lockBlockLen l : Int))

/-- The lock of a side of a barge. -/
def Dev.bargeLock (s : Dev) (k : Nat) (field : Nat) : Option LockId :=
  match s.handleLock (k / 168) (k % 168) (bits field 63 48) with
  | some l => if s.lockOn l then some l else none
  | none => none

/-- The entry list of a barge as an access. -/
def Barge.listAccs (b : Barge) : List VAcc := if b.gather then [⟨bits b.srcField 47 0, 16 * b.entries, 0⟩] else []

/-- The staging check of R300 that a barge fails without its blocks: 0 none, 7 a lock or slot, 8 an extent, 9 the list's place, each piece of which lies in
the own store window. -/
def Dev.bargeStageCheck (s : Dev) (k : Nat) (b : Barge) : Nat :=
  let own := storeAddr (k / 168) (k % 168)
  let src := s.bargeLock k b.srcField
  let dst := s.bargeLock k b.dstField
  let lockOk := (!b.srcLock || (match src with | some l => b.slot < s.lockCons l | none => false)) && (!b.dstLock || dst.isSome)
  let fits (l : Option LockId) (field : Nat) (span : Int × Int) : Bool := match l with | some l => s.sideFits l (bits field 47 0) span | none => true
  let inOwn (a : VAcc) : Bool :=
    let dpa := s.dpaOf (k / 168) (k % 168) a.va
    decide (own ≤ dpa) && decide (dpa + a.len ≤ own + 0x1000000)
  if !lockOk then 7
  else if !(vaPieces b.listAccs).all inOwn then 9
  else if (b.srcLock && !fits src b.srcField (stridedSpan b b.srcStride)) || (b.dstLock && !fits dst b.dstField (dstSpan b)) then 8
  else 0

/-- The bounding virtual ranges of a STRIDED barge's sides overlap (R300). -/
def Dev.bargeOverlaps (s : Dev) (b : Barge) : Bool :=
  let a := stridedSpan b b.srcStride
  let c := stridedSpan b b.dstStride
  let x : Int := s.bargeSrc b
  let y : Int := s.bargeDst b
  !b.gather && decide (x + a.1 < y + c.2) && decide (y + c.1 < x + a.2)

/-- A refused barge (R291, R300); the event log holds the check. -/
def refuseBarge (k uid check : Nat) : Prog := withBarge k uid fun b => progs [
  beTally k R.BE_DESC_REFUSED 1,
  look fun s => logE (s.clusterEntry 3 5 0x71 0 (k / 168) (k % 168) 0 b.tag (queueOf b.cmd) check),
  finishBarge k uid 0x71]

/-- Takes the source block of a barge, if one is FILLED. -/
def bindSrc (k uid : Nat) : Prog := withBarge k uid fun b => look fun s =>
  if b.srcLock && b.src.isNone then
    match s.bargeLock k b.srcField with
    | none => .skip
    | some l => match s.nextFilled l b.slot with
      | some x => progs [takeFilled l x.seq b.slot b.cmd, onBarge k uid fun b => { b with src := some (l, x.seq) }]
      | none => waitConsumer l ⟨.barge uid, k, b.cmd, b.prio, s.clock, b.slot, bits b.srcField 63 48⟩
  else .skip

/-- Takes the destination block of a barge, if one is granted. -/
def bindDst (k uid : Nat) : Prog := withBarge k uid fun b => look fun s =>
  if b.dstLock && b.dst.isNone then
    match s.bargeLock k b.dstField with
    | none => .skip
    | some l =>
      let w : LockWait := ⟨.barge uid, k, b.cmd, b.prio, s.clock, 0, bits b.dstField 63 48⟩
      let since := match (s.lock l).prodWait.find? (fun y => y.who == .barge uid && y.cl == k) with | some y => y.since | none => s.clock
      match s.producerGrant l b.cmd with
      | some g =>
        if s.mustYield l (.barge uid) k b.prio since then waitProducer l w
        else
          let before := (s.lock l).againBlk b.cmd
          progs [g.2, unwait l (.barge uid) k, look fun s =>
            let seq := match before with | some x => x.seq | none => (s.lock l).seq - 1
            onBarge k uid fun b => { b with dst := some (l, seq) }]
      | none => waitProducer l w
  else .skip

/-- A barge with both blocks becomes ACTIVE (R301). -/
def activate (k uid : Nat) : Prog := withBarge k uid fun b => look fun s =>
  if b.st == .binding && (!b.srcLock || b.src.isSome) && (!b.dstLock || b.dst.isSome) then
    if s.bargeOverlaps b then refuseBarge k uid 10
    else
      let empty := (s.bargeElem b 0).isNone
      progs [
        unwaitAll (.barge uid) k,
        onBarge k uid fun b => { b with
          st := if empty then .draining else .active
          tIssue := if b.started then b.tIssue else s.clCycles k
          started := true }]
  else .skip

/-- Barges outside QUEUED (R301). -/
def Cluster.bargesOut (c : Cluster) : Nat := (c.barges.filter fun b => b.st != .queued).length

/-- Staging (R300): the checks, with the entry list of a GATHER read once, here (log 47). A list that reads uncorrectable fails the barge (R321). -/
def stageBarge (k uid : Nat) : Prog := withBarge k uid fun b => look fun s =>
  let d := k / 168
  let p := k % 168
  let va := bits b.srcField 47 0
  let bind (l : List Byte) : Prog := withBarge k uid fun b => look fun s =>
    let b' := { b with list := l }
    let check := s.bargeStageCheck k b'
    if check ≠ 0 then refuseBarge k uid check
    else progs [
      onBarge k uid fun b => { b with st := .binding, list := l },
      bindSrc k uid, bindDst k uid, activate k uid]
  let bad := (vaPieces b.listAccs).find? fun a => s.readBad (s.dpaOf d p a.va) a.len
  if s.bargeStageCheck k b = 7 || s.bargeStageCheck k b = 9 then refuseBarge k uid (s.bargeStageCheck k b)
  else progs [
    forAll (vaPieces b.listAccs) fun a => look fun s => memTouch (s.dpaOf d p a.va) a.len,
    match bad with
    | some a => hitBarge k uid 0 (.readFailed (s.dpaOf d p a.va)) a.va 0
    | none => bind (if b.gather then s.vaBytes d p va (16 * b.entries) else [])]

/-- BARGE_BIND (R301): a queued barge is staged and binds; one that binds tries again. -/
def bargeBindProg (k uid : Nat) : Prog := withBarge k uid fun b => look fun s =>
  if !s.clusterOn (k / 168) (k % 168) || b.preempt then .skip
  else if b.st == .binding then progs [bindSrc k uid, bindDst k uid, activate k uid]
  else if b.st == .queued && b.depsDone && (s.cl k).bargesOut < 64 then
    if b.spec && s.fld .be (k / 168) (k % 168) R.BE_CTRL 0 0 = 1 then progs [
      onBarge k uid fun b => { b with halted := true }, beTally k R.BE_PREFETCH_HALT 1, finishBarge k uid 0]
    else bargeAccess k uid b.listAccs (stageBarge k uid)
  else .skip

/-! ### Requests (R304, R305) -/

/-- The next request of an active barge: up to 256 bytes, within a 256-byte block of the source and a 64 KiB page of the destination. -/
def Dev.nextReq (s : Dev) (b : Barge) : Option Elem :=
  match s.bargeElem b b.elem with
  | none => none
  | some e =>
    let a := e.src + b.off
    let c := e.dst + b.off
    some { e with src := a % 2 ^ 64, dst := c % 2 ^ 64, len := min (e.len - b.off) (min (256 - a % 256) (65536 - c % 65536)) }

/-- The accesses of a request. -/
def reqAccs (e : Elem) : List VAcc := [⟨e.src, e.len, 0⟩, ⟨e.dst, e.len, 1⟩]

/-- The accesses that must succeed before a barge issues its next request: those of the request, and of a SPECULATIVE barge those of the whole element, for
whose halt no part of it may have been issued (R307). -/
def Dev.nextAccs (s : Dev) (b : Barge) : List VAcc :=
  match s.bargeElem b b.elem, s.nextReq b with
  | some el, some e => if b.spec && b.off = 0 && decide (el.len ≤ 2 ^ 20) then reqAccs el else reqAccs e
  | _, _ => []

/-- Outstanding read requests of an engine. -/
def Cluster.outstanding (c : Cluster) : Nat := (c.barges.map (·.out.length)).foldl (· + ·) 0

/-- Whether a barge may issue: ACTIVE, not pre-empted, not cancelled (R301, R318, R319). -/
def Barge.runs (b : Barge) : Bool := b.st == .active && !b.preempt && b.cancel.isNone

/-- Whether a barge can issue a request in this cycle: its pages are in the cache (a fault is met by issuing), and the limits of R305
leave room. -/
def Dev.canIssue (s : Dev) (k : Nat) (b : Barge) : Bool :=
  b.runs && (s.cl k).outstanding < 1024 && (match s.bargeElem b b.elem with
    | some el => decide (2 ^ 20 < el.len) || (match (s.lent (k / 168) (k % 168) fun u => u == b.unit k).meets (k / 168) (k % 168) (s.nextAccs b) with
        | .walk _ => false
        | .wake _ => false
        | _ => true)
    | none => true)

/-- Issues the next request of a barge (R300, R302, R305, R307, R320). -/
def issueReq (k uid : Nat) : Prog := withBarge k uid fun b => look fun s =>
  if !b.runs then .skip
  else match s.bargeElem b b.elem, s.nextReq b with
  | some el, some e =>
    if 2 ^ 20 < el.len then hitBarge k uid b.elem .entry (bits b.srcField 47 0 + 16 * el.entry) 0
    else bargeAccess k uid (s.nextAccs b) (look fun s =>
      let r : BargeReq := ⟨b.elem, e.src, s.dpaOf (k / 168) (k % 168) e.src, e.dst, s.dpaOf (k / 168) (k % 168) e.dst, e.len⟩
      let last := b.off + e.len = el.len
      let n := if last then b.elem + 1 else b.elem
      let isOver := last && (s.bargeElem b n).isNone
      onBarge k uid fun b => { b with
        out := b.out ++ [r]
        off := if last then 0 else b.off + e.len
        elem := n
        st := if isOver then .draining else b.st })
  | _, _ => onBarge k uid fun b => { b with st := .draining }

/-- The barge of a channel that gets its slot: the highest priority, then the oldest, that can issue (R304). -/
def bestBarge : List Barge → Option Barge
  | [] => none
  | b :: r =>
    match bestBarge r with
    | none => some b
    | some x => if x.prio > b.prio then some x else some b

def Dev.channelPick (s : Dev) (k cls : Nat) : Option Barge :=
  bestBarge ((s.cl k).barges.filter fun b => b.cls = cls && s.canIssue k b)

/-- The weight of a channel (BE_SHARE). -/
def Dev.share (s : Dev) (k cls : Nat) : Nat := s.fld .be (k / 168) (k % 168) R.BE_SHARE (4 * cls + 3) (4 * cls)

/-- What each channel still has of its weight in the current round. -/
def Cluster.credit (c : Cluster) (cls : Nat) : Nat := c.wrr.getD cls 0

/-- One request slot (R304): the first channel, in the order DEMAND, WEIGHT, SPECULATIVE, that is ready and has credit left; when none has,
a new round begins; a ready channel of weight 0 gets the slot when no other is ready. -/
def requestSlot (k : Nat) : Prog := look fun s =>
  let ready := (List.range 3).filter fun c => (s.channelPick k c).isSome
  let w := (List.range 3).map (s.share k)
  let fresh := !ready.any (fun c => 0 < (s.cl k).credit c)
  let credit := if fresh then w else (List.range 3).map (s.cl k).credit
  let pick := match ready.find? (fun c => 0 < credit.getD c 0) with
    | some c => some c
    | none => ready.head?
  match pick with
  | none => .skip
  | some c => match s.channelPick k c with
    | none => .skip
    | some b => progs [
        onCl k fun x => { x with wrr := credit.set c (credit.getD c 0 - 1) },
        issueReq k b.uid]

/-- Whether a walk for a barge is in progress. -/
def Dev.bargeWalks (s : Dev) (k : Nat) (b : Barge) : Bool := (s.die (k / 168)).walks.any fun w => w.unit == b.unit k

/-- The first unmet condition of a barge that cannot issue (R324): its order number, 7 for a stack that waits for the weir (R498), which the record counts with memory. One that waits for its responses, for a place or for a walk to be begun
counts as waiting for memory, one that stands at a fault as waiting for its translation (log 48). -/
def Dev.bargeUnmet (s : Dev) (k : Nat) (b : Barge) : Nat :=
  let act := b.srcLock && b.src.isNone && (match s.bargeLock k b.srcField with | some l => (s.nextFilled l b.slot).isNone | none => true)
  let room := b.dstLock && b.dst.isNone && (match s.bargeLock k b.dstField with
    | some l => (s.producerGrant l b.cmd).isNone || s.mustYield l (.barge b.uid) k b.prio s.clock
    | none => true)
  if b.preempt then 1
  else if !b.depsDone then 2
  else if act then 3
  else if room then 4
  else if s.bargeWalks k b || b.st == .parkedFault then 5
  else match s.meets (k / 168) (k % 168) (s.nextAccs b) with
  | .wake a => if s.wakeCause (s.dpaOf (k / 168) (k % 168) a.va) = 2 then 7 else 6
  | _ => 6

/-- The register of a cause of R324 (R326). -/
def bargeWaitReg (n : Nat) : Nat :=
  if n = 1 then R.BE_WAIT_PREEMPT else if n = 2 then R.BE_WAIT_PREEMPT + 8 else if n = 3 then R.BE_WAIT_PREEMPT + 0x1C
  else if n = 4 then R.BE_WAIT_PREEMPT + 0x20 else if n = 5 then R.BE_WAIT_PREEMPT + 0x10
  else if n = 7 then R.BE_WAIT_WEIR else R.BE_WAIT_PREEMPT + 0x0C

/-- R324: each channel whose oldest barge of the highest priority, outside COMPLETE, cannot issue adds one to one tally and to that barge. -/
def channelTallies (k : Nat) : Prog := look fun s =>
  forAll (List.range 3) fun c =>
    match bestBarge ((s.cl k).barges.filter fun b => b.cls = c) with
    | some b => only (!s.canIssue k b) (
        let n := s.bargeUnmet k b
        progs [beTally k (bargeWaitReg n) 1, onBarge k b.uid fun b => { b with waits := bumpWait b.waits (min n 6) }])
    | none => .skip

/-- BARGE_REQUEST_GRANT (R304): one fabric cycle of an engine, with two request slots. Walks are started for the barges that need them. -/
def bargeRequestGrantProg (k : Nat) : Prog := look fun s =>
  only (s.clusterOn (k / 168) (k % 168)) (progs [
    forAll ((s.cl k).barges.filter (·.runs)) fun b => look fun s =>
      match (s.lent (k / 168) (k % 168) fun u => u == b.unit k).meets (k / 168) (k % 168) (s.nextAccs b) with
      | .walk _ => bargeAccess k b.uid (s.nextAccs b) .skip
      | .wake _ => bargeAccess k b.uid (s.nextAccs b) .skip
      | _ => .skip,
    channelTallies k,
    requestSlot k, requestSlot k])

def beTallyClearProg (d p : Nat) : Prog := look fun s => only (s.clusterOn d p) (clearTallies .be d p (offsets 0x100 0x158))

/-! ### Dependencies and grants -/

/-- DEPENDENCY_COMPLETE (R276, R301): of an instruction, or of a barge. -/
def dependencyCompleteProg (k tag : Nat) : Prog := look fun s =>
  match (s.cl k).barges.find? (fun b => b.tag = tag && !b.depsDone && b.deps.all (fun x => x.status.isSome)) with
  | none => depsProg k tag
  | some b =>
    if b.poison && b.deps.any (fun x => match x.status with | some v => !statusGood v | none => false) then progs [
      onBarge k b.uid fun b => { b with depFailed := true },
      finishBarge k b.uid 0x30]
    else onBarge k b.uid fun b => { b with depsDone := true }

/-- The place of a flock, from its numbers. -/
def flockAt (k core f : Nat) : FlockAt :=
  ⟨⟨k / 168 % 16, Nat.mod_lt _ (by decide)⟩, ⟨k % 168, Nat.mod_lt _ (by decide)⟩, ⟨core % 112, Nat.mod_lt _ (by decide)⟩, ⟨f % 2, Nat.mod_lt _ (by decide)⟩⟩

/-- A waiter tries again: a flock's LKGET, or a barge's binding. -/
def retryWaiter (w : LockWait) : Prog :=
  match w.who with
  | .flock core f _ => look fun s =>
    (match (s.flock w.cl core f).wait with
    | some v => only ((s.flock w.cl core f).st == .wait && v.op = 0x78) (lkgetBody ⟨flockAt w.cl core f, v.w, false, false⟩)
    | none => .skip)
  | .barge uid => bargeBindProg w.cl uid
  | .instr _ => .skip

/-- LOCK_PRODUCER_GRANT (R313): the waiting producer that comes first is given a block. -/
def lockProducerGrantProg (l : LockId) : Prog := look fun s =>
  match firstWaiter (takers (s.lock l).prodWait) with
  | some w => retryWaiter w
  | none => .skip

/-- LOCK_CONSUMER_GRANT (R311): the first waiter of a slot receives its next FILLED block. -/
def lockConsumerGrantProg (l : LockId) (slot : Nat) : Prog := look fun s =>
  match (takers (s.lock l).consWait).find? (fun w => w.slot = slot) with
  | some w => only (s.nextFilled l slot).isSome (retryWaiter w)
  | none => .skip

end Sys2Proof.Machine
end

