-- ==== Sys2Proof/Machine/DieUnit.lean ====
section
/-! DEFINITION. What the block-video pipelines and the sluice engines share: their accesses (R347, R350, R391, R410), fault records, and their job and completion rings (R365, R366, R403). Both register blocks have these registers at the same offsets (R395, R413). -/

namespace Sys2Proof.Machine

/-- Whether a fault record of a unit stands, posted or held back (R350). -/
def Dev.posted (s : Dev) (d : Nat) (u : UnitRef) : Bool := ((s.die d).fq ++ (s.die d).backlog).any fun r => r.unit == u && !r.withdrawn

/-- Makes the accesses of a die unit for the work `u` names: on success `ok`, on a translation or permission fault a record is posted (R350)
and `park` runs, on a BOUNDS access `out`. Until the translations are there, nothing happens but their walks; `wait` takes the order number in R118 of what the
unit waits for. -/
def dieAccess (d : Nat) (u : UnitRef) (tag : Nat) (l : List VAcc) (ok : Prog) (park : Nat → Nat → Prog) (out wait : Nat → Prog) : Prog :=
  useOnce d 168 (fun x => x == u) l (.seq (countDieHits d l) ok) fun m => look fun s =>
    match m with
    | .ok => .skip
    | .walk _ => only (!s.posted d u) (progs [
        only ((s.die d).walks.any fun w => w.unit == u) (wait 5),
        forAll (vaPieces l) fun a => look fun s =>
          match s.xlate d 168 a.va a.access with
          | .miss => startWalk d u tag 0xFFFF a true
          | _ => .skip])
    | .wake a => progs [wait (s.wakeCause (s.dpaOf d 168 a.va)), wantStacks (s.dpaOf d 168 a.va) a.len]
    | .fault a c lv => only (!s.posted d u)
        (progs [postFault d ⟨u, tag, 0xFFFF, a.va, c, lv, a.access, false⟩, park c a.va])
    | .bounds a => out a.va

/-- BV_FAULT_* and SL_FAULT_* (R395, R413) with the event log. -/
def dieFault (rb : RB) (d n code cause stream job va source : Nat) : Prog := look fun s => progs [
  logE { LogEntry.plain 3 source code cause with die := d, index := n, data := va },
  if s.fld rb d n R.BV_FAULT_STATUS 31 31 = 1 then setFld rb d n R.BV_FAULT_STATUS 30 30 1
  else progs [
    holdRecord rb d n R.BV_FAULT_STATUS (2 ^ 31 + code * 2 ^ 16 + stream * 2 ^ 8 + cause),
    setReg rb d n R.BV_FAULT_JOB job,
    setReg rb d n R.BV_FAULT_VADDR_LO (va % 2 ^ 32),
    setReg rb d n R.BV_FAULT_VADDR_HI (va / 2 ^ 32 % 2 ^ 16)]]

/-- The base address of a ring register pair. -/
def Dev.ringBase (s : Dev) (rb : RB) (d n off : Nat) : Nat :=
  s.fld rb d n off 31 12 * 4096 + s.fld rb d n (off + 4) 15 0 * 2 ^ 32

/-- Sets RING_ERR (R365). -/
def ringError (rb : RB) (d n : Nat) : Prog := setFld rb d n R.BV_STATUS 1 1 1

/-- A write of RING_CFG (R365, R395): EN with SIZE outside 4 to 12 sets RING_ERR and leaves EN 0; `again` runs when fetching is enabled. -/
def ringCfg (rb : RB) (d n v : Nat) (again : Prog) : Prog :=
  let size := v % 16
  if bitAt v 31 && !(4 ≤ size && size ≤ 12) then progs [ringError rb d n, setReg rb d n R.BV_RING_CFG size]
  else progs [setReg rb d n R.BV_RING_CFG (b2n (bitAt v 31) * 2 ^ 31 + size), only (bitAt v 31) again]

/-- Fetches the next ring entry of `len` bytes (R365): `got` takes its count and bytes; `stop` stops fetching after a ring error. -/
def ringFetch (rb : RB) (d n len kind source : Nat) (got : Nat → List Byte → Prog) (stop : Prog) : Prog := look fun s =>
  let prod := s.reg rb d n R.BV_JOB_PROD
  let cons := s.reg rb d n R.BV_JOB_CONS
  let size := s.fld rb d n R.BV_RING_CFG 3 0
  if prod = cons || s.fld rb d n R.BV_RING_CFG 31 31 = 0 then .skip
  else if 2 ^ size < (prod + 2 ^ 32 - cons) % 2 ^ 32 then progs [ringError rb d n, stop]
  else
    let idx := cons % 2 ^ size
    let va := s.ringBase rb d n R.BV_RING_BASE_LO + idx * len
    let bad (code va : Nat) : Prog := progs [dieFault rb d n code 5 0 0 va source, ringError rb d n, stop]
    dieAccess d ⟨kind, 0, n, 0, 0⟩ idx [⟨va, len, accRead⟩]
      (look fun s =>
        if s.vaBad d 168 va len then progs [vaTouch d 168 va len, bad 0x20 va]
        else progs [vaTouch d 168 va len, setReg rb d n R.BV_JOB_CONS ((cons + 1) % 2 ^ 32), got cons (s.vaBytes d 168 va len)])
      (fun _ _ => .skip) (bad 0x12) (fun _ => .skip)

/-- Writes a completion record, if the ring has room (R366): the record, then the count, then the count as a u32 after the last
record. `done` runs when it is written. -/
def cplWrite (rb : RB) (d n kind tag : Nat) (record : List Byte) (done : Prog) : Prog := look fun s =>
  let prod := s.reg rb d n R.BV_CPL_PROD
  let cons := s.reg rb d n R.BV_CPL_CONS
  let size := s.fld rb d n R.BV_CRING_CFG 3 0
  if 2 ^ size ≤ (prod + 2 ^ 32 - cons) % 2 ^ 32 then tally rb d n R.BV_WAIT_LOCK_SPACE 1
  else
    let base := s.ringBase rb d n R.BV_CRING_BASE_LO
    let va := base + prod % 2 ^ size * 64
    let word := base + 2 ^ size * 64
    dieAccess d ⟨kind, 0, n, 0, 0⟩ tag [⟨va, 64, accWrite⟩, ⟨word, 4, accWrite⟩]
      (progs [vaWrite d 168 va record false, setReg rb d n R.BV_CPL_PROD ((prod + 1) % 2 ^ 32),
        vaWrite d 168 word (leBytes 4 ((prod + 1) % 2 ^ 32)) false, done])
      (fun _ _ => .skip)
      (fun va => progs [dieFault rb d n 0x7F 4 0 0 va (if kind = 6 then 6 else 7), done])
      (fun _ => .skip)

/-- The contents of a virtual range become undefined, page by page, as far as it is mapped. -/
def undefVa (va n : Nat) : Prog := look fun s =>
  forAll (pagePieces va n) fun q =>
    match s.walk q.1 accWrite with
    | .leaf e => only (memPlace (e.target q.1)) (.upd (.undef (e.target q.1) q.2))
    | _ => .skip

end Sys2Proof.Machine
end

