-- ==== Sys2Proof/Machine/BlockVideo.lean ====
section
/-! DEFINITION. The block-video pipelines: groups (R359 to R361), streams and jobs (R364 to R372), encoding (R375 to R384), decoding (R385 to R390), faults and pre-emption (R391, R392). -/

namespace Sys2Proof.Machine

/-! ### Pipelines and groups -/

/-- The number of a pipeline in the device. -/
def pn (d n : Nat) : Nat := 8 * d + n

/-- The members of the group that a pipeline's quad half is set to: 1, 2 or 4 (R359, R396). -/
def Dev.bvMembers (s : Dev) (d n : Nat) : Nat :=
  let v := s.reg .bvg d 0 R.BV_GROUP_CTRL
  let g := if n < 4 then bits v 1 0 else bits v 3 2
  if g = 1 then 2 else if g = 2 then 4 else 1

/-- The leader of a pipeline's group. -/
def Dev.bvLead (s : Dev) (d n : Nat) : Nat := n / s.bvMembers d n * s.bvMembers d n

def bvTally (d n off k : Nat) : Prog := tally .bv d n off k

/-- A stream's OPEN fields (R368, R369). -/
def BvStream.u (x : BvStream) (o n : Nat) : Nat := leAt x.opened o n
def BvStream.enc (x : BvStream) : Bool := x.u 0 1 = 1
def BvStream.av1 (x : BvStream) : Bool := x.u 16 1 = 1
def BvStream.width (x : BvStream) : Nat := x.u 20 2
def BvStream.height (x : BvStream) : Nat := x.u 22 2
def BvStream.low (x : BvStream) : Bool := x.u 32 1 = 0
def BvStream.bit10 (x : BvStream) : Bool := bitAt (x.u (if x.enc then 19 else 17) 1) 1
def BvStream.c422 (x : BvStream) : Bool := bitAt (x.u (if x.enc then 19 else 17) 1) 2
def BvStream.ctx (x : BvStream) : Nat := x.u (if x.enc then 56 else 32) 6
def BvStream.ctxLen (x : BvStream) : Nat := x.u (if x.enc then 64 else 40) 4 * 65536
def BvStream.bands (x : BvStream) : Nat := ceilDiv x.height 64

/-- A job's header and fields (R367, R370). -/
def BvJob.u (j : BvJob) (o n : Nat) : Nat := leAt j.bytes o n
def BvJob.op (j : BvJob) : Nat := j.u 0 1
def BvJob.stream (j : BvJob) : Nat := j.u 1 1
def BvJob.prio (j : BvJob) : Nat := j.u 2 1 % 8
def BvJob.id (j : BvJob) : Nat := j.u 4 4
def BvJob.fl (j : BvJob) (b : Nat) : Bool := bitAt (j.u 8 4) b
def BvJob.frame (j : BvJob) : Nat := j.u 20 4

/-- A job as fetched. -/
def BvJob.new (cnt : Nat) (b : List Byte) : BvJob :=
  ⟨cnt, b, .fetched, 0, 0, 0xFF, 0, false, false, false, 0, 0, 0, 0, 0, [], [], 0, 0, [], 0, 0, [], [], [], [], 64, 0, 0, [], 0, 0, [], 0, none⟩

def Dev.bvStream (s : Dev) (d n num : Nat) : Option BvStream := (s.pipe (pn d n)).streams.find? fun x => x.num == num
def Dev.bvJob (s : Dev) (d n cnt : Nat) : Option BvJob := (s.pipe (pn d n)).jobs.find? fun j => j.cnt == cnt

def onJob (d n cnt : Nat) (f : BvJob → BvJob) : Prog :=
  onPipe (pn d n) fun p => { p with jobs := p.jobs.map fun j => if j.cnt == cnt then f j else j }
def onStream (d n num : Nat) (f : BvStream → BvStream) : Prog :=
  onPipe (pn d n) fun p => { p with streams := p.streams.map fun x => if x.num == num then f x else x }
def withJob (d n cnt : Nat) (f : BvJob → Prog) : Prog := look fun s => match s.bvJob d n cnt with | some j => f j | none => .skip
def withStream (d n num : Nat) (f : BvStream → Prog) : Prog := look fun s => match s.bvStream d n num with | some x => f x | none => .skip

/-- Whether a job takes one of the four places of R373: pictures held for lookahead wait in their stream. -/
def BvJob.active (j : BvJob) : Bool := j.st != .held && j.st != .placed
def Pipe.active (p : Pipe) : Nat := (p.jobs.filter BvJob.active).length

/-- Whether member `i` of a group of `m` works on the next band of a job (R361): a serial decode runs on the leader, tiles and tile columns go to the members in
turn, and so do the bands of all other work. -/
def BvJob.on (j : BvJob) (m i : Nat) : Bool :=
  if bitAt j.flags 11 then i = 0
  else if j.tiles ≠ 0 then (List.range j.tiles).any fun t => t % m = i
  else j.coded.length % m = i

/-- Whether a pipeline can act for its group: its domain is on, and it leads. -/
def Dev.bvUp (s : Dev) (d n : Nat) : Bool := s.blockOn .bv d n && s.bvLead d n == n
/-- R392: PREEMPT is set. -/
def Dev.bvPre (s : Dev) (d n : Nat) : Bool := s.reg .bv d n R.BV_CTRL % 2 = 1

/-! ### Limits (R358, R360, R364) -/

/-- Width and luma limits of a group of `m` members, and the highest level (HEVC idc, AV1 index). -/
def bvMaxWidth (m : Nat) : Nat := if m = 4 then 8192 else 4096
def bvMaxLuma (m : Nat) : Nat := if m = 4 then 35651584 else 8912896
def bvMaxLevel (m : Nat) (av1 : Bool) : Nat :=
  if av1 then (if m = 1 then 13 else if m = 2 then 14 else 17) else if m = 1 then 153 else if m = 2 then 156 else 183

/-- R360: picture dimensions. -/
def bvDims (m w h : Nat) (c422 : Bool) : Bool :=
  decide (16 ≤ w) && decide (w ≤ bvMaxWidth m) && decide (16 ≤ h) && decide (h ≤ 4352) && decide (w * h ≤ bvMaxLuma m)
    && w % 2 = 0 && (c422 || h % 2 = 0)

/-- PIC_BYTES (R364). -/
def picBytes (w h : Nat) (c422 bit10 : Bool) : Nat :=
  ceilDiv w 64 * 64 * (ceilDiv h 64 * 64) * (if c422 then 4 else 3) / 2 * (if bit10 then 2 else 1)

/-- U of a stream, times 3 × RATE_DEN, with its RATE_DEN (R358). -/
def BvStream.load (x : BvStream) : Nat × Nat :=
  (ceilDiv x.width 64 * ceilDiv x.height 64 * x.u 24 4 * (if x.c422 then 4 else 3), 3 * x.u 28 4)

/-- The bits or bytes of a range are all 0. -/
def zeroes (b : List Byte) (lo hi : Nat) : Bool := ((b.drop lo).take (hi + 1 - lo)).all fun x => x == 0

/-- Levels that the codecs define: HEVC general_level_idc is 30 times the level, AV1 seq_level_idx runs from 0. -/
def levelOk (m : Nat) (av1 : Bool) (l : Nat) : Bool :=
  decide (l ≤ bvMaxLevel m av1) && (av1 || [30, 60, 63, 90, 93, 120, 123, 150, 153, 156, 180, 183].contains l)

/-- R368, R371: the checks of OPEN_ENC, for a group of `m` members. -/
def openEncOk (m : Nat) (b : List Byte) : Bool :=
  let x : BvStream := ⟨0, b, 0, 0, 0, 0, 0, false, false, false, 0, [], false, 0, 0, false⟩
  let u := x.u
  let fmt := u 19 1
  u 3 1 = 0 && u 2 1 < 8 && u 8 4 < 2 && u 12 4 = 0 && u 16 1 < 2
    && (if x.av1 then u 17 1 = 0 else [1, 2, 4].contains (u 17 1))
    && levelOk m x.av1 (u 18 1) && fmt < 8 && (!x.c422 || (!x.av1 && u 17 1 = 4))
    && bvDims m x.width x.height x.c422
    && 1 ≤ u 28 4 && u 28 4 ≤ u 24 4 && u 24 4 ≤ 240 * u 28 4
    && u 32 1 < 2 && u 33 1 ≤ 16 && u 34 1 < 2 && u 35 1 ≤ 3 && u 36 1 ≤ u 37 1 && u 38 1 < 3
    && (!x.low || (u 33 1 = 0 && u 35 1 = 0 && u 40 4 = 0)) && (x.low || u 38 1 = 0)
    && (u 38 1 = 0 || (8 ≤ u 39 1 && u 39 1 ≤ 240)) && (u 44 4 = 0 || 1 ≤ u 48 4)
    && zeroes b 52 55 && u 56 8 < 2 ^ 48 && u 56 8 % 65536 = 0 && zeroes b 68 127
    && decide ((6 + u 33 1) * picBytes x.width x.height x.c422 x.bit10 * 17 + 16 * 2 ^ 20 ≤ 16 * x.ctxLen)

/-- R369, R371: the checks of OPEN_DEC. -/
def openDecOk (m : Nat) (b : List Byte) : Bool :=
  let x : BvStream := ⟨0, b, 0, 0, 0, 0, 0, false, false, false, 0, [], false, 0, 0, false⟩
  let u := x.u
  u 3 1 = 0 && u 2 1 < 8 && u 8 4 < 2 && u 12 4 = 0 && u 16 1 < 2 && u 17 1 < 8 && u 17 1 % 2 = 0
    && u 18 1 < 4 && u 19 1 = 0 && bvDims m x.width x.height x.c422 && 2 ≤ u 24 1 && u 24 1 ≤ 17
    && zeroes b 25 27 && u 32 8 < 2 ^ 48 && u 32 8 % 65536 = 0 && zeroes b 44 127
    && decide (u 24 1 * picBytes x.width x.height x.c422 x.bit10 * 17 + 16 * 2 ^ 20 ≤ 16 * x.ctxLen)

/-- Bytes of a row of a plane in a picture format (R373): P8, P16, PG422_10, PG422_8. -/
def rowBytes (fmt w : Nat) : Nat := if fmt = 0 then w else if fmt = 1 then 2 * w else if fmt = 2 then ceilDiv w 2 * 5 else ceilDiv w 2 * 4
/-- Whether a format is one packed plane. -/
def packedFmt (fmt : Nat) : Bool := 2 ≤ fmt

/-- The pitches hold a row (R370, R371). -/
def pitchOk (fmt w p0 p1 : Nat) : Bool :=
  p0 % 64 = 0 && p1 % 64 = 0 && decide (rowBytes fmt w ≤ p0) && (packedFmt fmt || decide (rowBytes fmt (w / 2) ≤ p1))

/-- R370, R371: the checks of ENC_PIC against its stream. A 10-bit source of an 8-bit stream and a 4:2:2 source of a 4:2:0 stream convert;
no other conversion exists (R375). -/
def encPicOk (x : BvStream) (j : BvJob) : Bool :=
  let u := j.u
  let fmt := u 17 1
  let addr (o : Nat) : Bool := u o 8 < 2 ^ 48
  u 3 1 = 0 && u 2 1 < 8 && u 8 4 < 4 && u 12 4 = 0 && u 16 1 < 2 && fmt < 4 && zeroes j.bytes 18 19
    && (if u 16 1 = 1 then u 32 8 < 2 ^ 19 else addr 32) && addr 40 && addr 48 && addr 64 && zeroes j.bytes 76 79 && addr 80 && addr 88
    && zeroes j.bytes 96 127 && pitchOk fmt x.width (u 56 4) (u 60 4) && 1 ≤ u 72 4
    && (!x.bit10 || fmt = 1 || fmt = 2) && (!x.c422 || fmt ≠ 0 || !x.bit10)

/-- R370, R371: the checks of DEC_AU. -/
def decAuOk (x : BvStream) (j : BvJob) : Bool :=
  let u := j.u
  let addr (o : Nat) : Bool := u o 8 < 2 ^ 48
  u 3 1 = 0 && u 2 1 < 8 && u 8 4 < 2 && u 12 4 = 0 && zeroes j.bytes 16 19 && addr 32 && u 44 4 = 0 && addr 48 && addr 56 && addr 64
    && zeroes j.bytes 80 127 && pitchOk (x.u 18 1) x.width (u 72 4) (u 76 4)

/-- CLOSE: only its header (R370). -/
def closeOk (j : BvJob) : Bool := j.u 3 1 = 0 && j.u 2 1 < 8 && j.u 8 4 < 2 && j.u 12 4 = 0 && zeroes j.bytes 16 127

/-! ### The end of a job -/

/-- The 64 bytes of R372. -/
def BvJob.record (j : BvJob) : List Byte :=
  let q (i : Nat) : Nat := (j.coded.getD i (0, false)).1
  leBytes 1 j.status ++ leBytes 1 j.op ++ leBytes 1 j.stream ++ leBytes 1 j.picType ++ leBytes 4 j.flags ++ leBytes 4 j.id
    ++ leBytes 4 (if j.op = 0x10 || j.op = 0x11 then j.frame else 0) ++ leBytes 8 (if j.op = 0x10 || j.op = 0x11 then j.u 24 8 else 0)
    ++ leBytes 4 j.outN ++ leBytes 1 (q 0) ++ leBytes 1 (q (j.coded.length - 1)) ++ leBytes 2 j.bands
    ++ leBytes 4 (min j.fill (2 ^ 32 - 1)) ++ leBytes 4 j.order ++ leBytes 16 j.damage ++ leBytes 8 j.tDone

/-- The unit a job's accesses are made for (R391). -/
def BvJob.unit (n : Nat) (j : BvJob) : UnitRef := ⟨6, 0, n, 0, j.cnt + 1⟩

/-- A job ends: its record waits for BV_COMPLETION_WRITE. An ENC_PIC that fails forces a key (R384), a DEC_AU that fails loses its picture
and is an event (R391). -/
def endJob (d n cnt status : Nat) : Prog := withJob d n cnt fun j => look fun s => progs [
  onJob d n cnt fun j => { j with
    st := .done
    status := status
    tDone := s.time
    fill := if j.op = 0x10 then (match s.bvStream d n j.stream with | some x => x.f | none => 0) else j.fill },
  withdraw d (fun r => r.unit == j.unit n),
  dropWalks d (fun u => u == j.unit n),
  match s.handleLock d 168 (j.u 32 2) with
  | some l => forAll j.blks fun e =>
      match (s.lock l).blks.find? (fun k => k.idx == e.2 && bitAt k.taken (j.u 34 1 % 8)) with
      | some k => releaseBlk l k.seq (j.u 34 1 % 8)
      | none => .skip
  | none => .skip,
  only (!statusGood status && j.op = 0x10) (progs [
    onJob d n cnt fun j => { j with outN := 0 },
    only (status ≠ 0x71) (onStream d n j.stream fun x => { x with keyForced := true })]),
  only (!statusGood status && j.op = 0x11 && status ≠ 0x71) (onStream d n j.stream fun x =>
    { x with cycClean := false, dpb := x.dpb.filter fun p => !(j.names.contains p.name || j.hidden.any fun h => h.1 == p.name) })]

/-- A job refused (R371). -/
def refuseJob (d n cnt : Nat) : Prog := progs [bvTally d n R.BV_DESC_REFUSED 1, endJob d n cnt 0x71]

/-- The budget of a job runs, or has stopped (R389): the time it stood still is not counted. -/
def BvJob.budget (j : BvJob) (stop : Bool) (clock : Nat) : BvJob :=
  match j.paused with
  | none => if stop then { j with paused := some clock } else j
  | some t => if stop then j else { j with paused := none, t0 := j.t0 + (clock - t) }
/-- A band parks (R391). -/
def Pipe.park (p : Pipe) (cnt clock : Nat) : Pipe :=
  { p with jobs := p.jobs.map fun j => if j.cnt == cnt then { j.budget true clock with st := .parked } else j }

/-- A job's accesses: a fault parks its band (R391). -/
def jobAccess (d n cnt : Nat) (l : List VAcc) (ok : Prog) : Prog := withJob d n cnt fun j => look fun s =>
  let out (code cause va : Nat) : Prog := progs [dieFault .bv d n code cause j.stream j.id va 6, endJob d n cnt code]
  dieAccess d (j.unit n) (j.cnt % 2 ^ s.fld .bv d n R.BV_RING_CFG 3 0 % 4096) l ok
    (fun c va => progs [
      dieFault .bv d n (faultStatus c) (if c = 3 then 2 else if c = 4 then 3 else 1) j.stream j.id va 6,
      onPipe (pn d n) fun p => p.park cnt s.clock])
    (fun va => out 0x12 1 va) (fun _ => .skip)

/-- Reads for a job; an uncorrectable unit ends it (R391). -/
def jobRead (d n cnt : Nat) (l : List (Nat × Nat)) (ok : Prog) : Prog := withJob d n cnt fun j => look fun s => progs [
  forAll l fun a => vaTouch d 168 a.1 a.2,
  match l.find? (fun a => s.vaBad d 168 a.1 a.2) with
  | some a => progs [dieFault .bv d n 0x20 3 j.stream j.id a.1 6, endJob d n cnt 0x20]
  | none => ok]

/-- RESUME of a parked band: it runs again from its start, and RESUMED is set (R391). -/
def bvResumeFault (d n cnt : Nat) : Prog := look fun s => onJob d n cnt fun j =>
  if j.st == .parked then { j.budget (s.bvPre d n) s.clock with st := if j.bands = 0 then .fetched else .coding, flags := j.flags ||| 2 ^ 18 } else j

/-! ### Fetching and completing (R365, R366, R373) -/

/-- The operations of R367. -/
def bvOpOk (op : Nat) : Bool := [0x01, 0x02, 0x10, 0x11, 0x20].contains op

/-- BV_JOB_FETCH: the next job, while a place is free; one with a reserved OP is refused as it comes (R371). -/
def bvJobFetchProg (d n : Nat) : Prog := look fun s =>
  only (s.bvUp d n && !(s.pipe (pn d n)).ringStop && (s.pipe (pn d n)).active < 4)
    (ringFetch .bv d n 128 6 6
      (fun cnt b => .seq (onPipe (pn d n) fun p => { p with jobs := p.jobs ++ [BvJob.new cnt b] })
        (only (!bvOpOk (leAt b 0 1)) (refuseJob d n cnt)))
      (onPipe (pn d n) fun p => { p with ringStop := true }))

/-- Whether a coded picture comes before another of its stream in decoding order. -/
def BvJob.before (y j : BvJob) : Bool :=
  y.op = 0x10 && j.op = 0x10 && y.stream == j.stream && y.bands ≠ 0 && j.bands ≠ 0 && decide (2 ^ 31 ≤ (y.order + 2 ^ 32 - j.order) % 2 ^ 32)

/-- The ended job whose record is written next: in ring order, but the pictures of a stream in decoding order (R378). -/
def Pipe.ended (p : Pipe) : Option BvJob := p.jobs.find? fun j => j.st == .done && !p.jobs.any (·.before j)

/-- BV_COMPLETION_WRITE: an ended job writes its record and leaves. -/
def bvCompletionWriteProg (d n : Nat) : Prog := look fun s =>
  match (s.pipe (pn d n)).ended with
  | some j => only (s.bvUp d n) (cplWrite .bv d n 6 (j.cnt % 4096) j.record
      (onPipe (pn d n) fun p => { p with jobs := p.jobs.filter fun x => !(x.cnt == j.cnt) }))
  | none => .skip

/-- The first job of a pipeline in state fetched with an op, whose earlier jobs of the same stream have all started (R373); `alone`: have
all ended (R383). -/
def Dev.bvNext (s : Dev) (d n : Nat) (op : Nat → Bool) (alone : Bool) : Option BvJob :=
  let js := (s.pipe (pn d n)).jobs
  js.find? fun j => j.st == .fetched && op j.op && (js.takeWhile fun x => !(x.cnt == j.cnt)).all fun x =>
    x.stream != j.stream || x.st == .done || x.st == .held || x.st == .placed
      || (!alone && x.op = 0x10 && j.op = 0x10 && (match s.bvStream d n j.stream with | some y => !y.low | none => false))

/-! ### Opening and closing (R368, R369, R371, R383) -/

/-- A new stream. -/
def BvStream.start (j : BvJob) : BvStream := ⟨j.stream, j.bytes, 0, 0, 0, 0, 0, false, false, false, 0, [], false, 0, 0, false⟩

/-- Opens a stream: its context region belongs to the pipeline until CLOSE completes (R364). -/
def openJob (d n : Nat) (j : BvJob) (ok : Bool) : Prog := look fun s =>
  if !ok || 16 ≤ j.stream || (s.bvStream d n j.stream).isSome then refuseJob d n j.cnt
  else progs [
    onPipe (pn d n) fun p => { p with streams := p.streams ++ [BvStream.start j] },
    undefVa (BvStream.start j).ctx (BvStream.start j).ctxLen,
    endJob d n j.cnt 0]

/-- The capacity of a group in units per second (R360). -/
def bvCapacity (m : Nat) : Nat := 125000 * m

/-- R371's admission: the sum of U over the LOW streams with one more, against the capacity, on exact fractions. -/
def Dev.bvAdmit (s : Dev) (d n : Nat) (x : BvStream) : Bool :=
  let ls := ((s.pipe (pn d n)).streams.filter fun y => y.enc && y.low) ++ [x]
  let sum := ls.foldl (fun (a : Nat × Nat) y => (a.1 * y.load.2 + y.load.1 * a.2, a.2 * y.load.2)) (0, 1)
  decide (sum.1 ≤ bvCapacity (s.bvMembers d n) * sum.2)

def openEncProg (d n : Nat) : Prog := look fun s =>
  match s.bvNext d n (· = 1) false with
  | some j => only (s.bvUp d n && !s.bvPre d n) (openJob d n j
      (openEncOk (s.bvMembers d n) j.bytes && ((BvStream.start j).u 32 1 ≠ 0 || s.bvAdmit d n (BvStream.start j))))
  | none => .skip

def openDecProg (d n : Nat) : Prog := look fun s =>
  match s.bvNext d n (· = 2) false with
  | some j => only (s.bvUp d n && !s.bvPre d n) (openJob d n j (openDecOk (s.bvMembers d n) j.bytes))
  | none => .skip

/-! ### Placing pictures of an encode stream (R378, R380, R382, R384) -/

/-- The pictures of a stream that are held for lookahead, in frame order. -/
def Pipe.held (p : Pipe) (num : Nat) : List BvJob := p.jobs.filter fun j => j.stream == num && j.st == .held

/-- Whether a picture that would be placed `i` pictures after the last one placed is a key, apart from requests: the first of the
stream, or a periodic one. -/
def BvStream.keyDue (x : BvStream) (i : Nat) : Bool :=
  let iv := x.u 40 4
  (!x.started && i = 0) || (iv ≠ 0 && decide (iv ≤ x.sinceKey + i + 1) && x.started)

/-- Places a picture as the next in coding order: in QUALITY its level and whether it is a key are settled, in LOW not before it starts. -/
def placePic (d n cnt : Nat) (key : Bool) (level : Nat) : Prog := withJob d n cnt fun j => withStream d n j.stream fun x => progs [
  onJob d n cnt fun j => { j with
    st := .placed, key := key, level := level, bands := x.bands, order := x.order
    tiles := 0
    keyReq := key && (j.fl 0 || x.keyReq)
    picType := if key then 0 else if level = 0 then 2 else 3 },
  onStream d n j.stream fun x => { x with
    order := (x.order + 1) % 2 ^ 32
    started := x.started || !x.low
    keyReq := if key then false else x.keyReq
    sinceKey := if x.low then x.sinceKey else if key then 0 else x.sinceKey + 1 }]

/-- Block columns or bands of a picture: the units of a refresh cycle (R380). -/
def BvStream.refreshUnits (x : BvStream) : Nat := if x.u 38 1 = 1 then ceilDiv x.width 64 else ceilDiv x.height 64

/-- A placed picture starts (R380, R382, R384): a key that a failure forces, and in LOW the first picture or one that is asked to be a key, ends the cycle; any other
takes the next place in it. -/
def startPic (d n m : Nat) (j : BvJob) (x : BvStream) : Prog := look fun s =>
  let req := x.low && (j.fl 0 || x.keyReq)
  let key := j.key || x.keyForced || (x.low && !x.started) || req
  let refresh := x.low && x.u 38 1 ≠ 0 && !key
  let p := x.u 39 1
  let k := x.cycK
  progs [
    onJob d n j.cnt fun j => { j with
      st := .coding, key := key, keyForced := x.keyForced, keyReq := j.keyReq || req, t0 := s.clock
      picType := if key then 0 else j.picType
      tiles := if x.av1 then m else 0
      k := k
      lo := if refresh then k * x.refreshUnits / p else 0
      hi := if refresh then (k + 1) * x.refreshUnits / p else 0 },
    onStream d n j.stream fun x => { x with
      started := true
      keyForced := false
      keyReq := if x.low then false else x.keyReq
      cycK := if key then 0 else if refresh then (k + 1) % max 1 p else x.cycK
      sinceKey := if key then 0 else if x.low then x.sinceKey + 1 else x.sinceKey }]

/-- The coding order of a mini-GOP of `m` pictures: what the coder chooses, made a permutation, with levels up to BFRAMES. -/
def gopOrder (x : BvStream) (m : Nat) : List (Nat × Nat) :=
  let raw := (Config.encGop (sliceBytes x.opened 16 40) m).filter fun e => decide (e.1 < m)
  let uniq := raw.foldl (fun (l : List (Nat × Nat)) e => if l.any (fun y => y.1 == e.1) then l else l ++ [e]) []
  let rest := (List.range m).filter fun i => !uniq.any (fun y => y.1 == i)
  (uniq ++ rest.map fun i => (i, 0)).map fun (e : Nat × Nat) => (e.1, min e.2 (x.u 35 1))

/-- Places the next pictures of a QUALITY stream, once LOOKAHEAD later pictures have been submitted, or all with `flush`: a key alone, or a
mini-GOP that ends before the next key. -/
def placeGop (d n num : Nat) (flush : Bool) : Prog := withStream d n num fun x => look fun s =>
  let hs := (s.pipe (pn d n)).held num
  let isKey (i : Nat) (j : BvJob) : Bool := j.fl 0 || (i = 0 && x.keyReq) || x.keyDue i
  let cut := (hs.mapIdx fun i j => isKey i j).findIdx? id
  let want := match cut with | some 0 => 1 | some c => min c (2 ^ x.u 35 1) | none => 2 ^ x.u 35 1
  let have_ := if flush then hs.length else hs.length - x.u 33 1
  let m := if flush then min want hs.length else want
  only (m ≠ 0 && decide (m ≤ have_)) (
    if cut = some 0 then (match hs with | j :: _ => placePic d n j.cnt true 0 | [] => .skip)
    else forAll (gopOrder x m) fun (e : Nat × Nat) => match hs[e.1]? with
      | some j => placePic d n j.cnt false e.2
      | none => .skip)

/-! ### Encoding -/

/-- The accesses of the source rows of a band: plane address and pitch, or the lock block that holds the band or the frame (R376). A band
that is converted from 4:2:2 to 4:2:0 also reads the row above it. -/
def srcTwo (x : BvStream) (j : BvJob) : Bool := packedFmt (j.u 17 1) && !x.c422

/-- The rows of the source that band b reads: first row and count. -/
def srcRows (x : BvStream) (j : BvJob) (b : Nat) : Nat × Nat :=
  let lo := if srcTwo x j && b ≠ 0 then 64 * b - 1 else 64 * b
  (lo, min x.height (64 * b + 64) - lo)

/-- The planes of a source: plane number, whether chroma, rows per luma row as a divisor. -/
def srcPlanes (x : BvStream) (j : BvJob) : List (Nat × Nat) :=
  if packedFmt (j.u 17 1) then [(0, 1)] else [(0, 1), (1, if x.c422 then 1 else 2), (2, if x.c422 then 1 else 2)]

/-- The virtual address of a row of a plane of the source. The rows of a lock block follow its 64-byte header, plane by plane (R376, R427, R428). -/
def Dev.srcRowVa (s : Dev) (d : Nat) (x : BvStream) (j : BvJob) (plane row : Nat) : Nat :=
  let div := if plane = 0 then 1 else if x.c422 then 1 else 2
  let pitch (p : Nat) : Nat := if p = 0 then j.u 56 4 else j.u 60 4
  if j.u 16 1 = 0 then j.u (32 + 8 * plane) 6 + row * pitch plane
  else
    let bandRows := if j.fl 1 then 64 / div else x.height / div
    let blk := row / max 1 bandRows
    let rowsIn (q : Nat) : Nat :=
      let dv := if q = 0 then 1 else div
      if j.fl 1 then (min x.height (64 * blk + 64) - 64 * blk) / dv else x.height / dv
    let base := match s.handleLock d 168 (j.u 32 2) with
      | some l => 64 + s.blockVa l ((j.blks.find? fun e => e.1 == blk).map (·.2) |>.getD 0)
      | none => 0
    let before := ((List.range plane).map fun q => rowsIn q * pitch q).foldl (· + ·) 0
    base + before + row % max 1 bandRows * pitch plane

/-- The bytes of a plane's rows that a band reads: address and length of each row. -/
def Dev.srcReads (s : Dev) (d : Nat) (x : BvStream) (j : BvJob) (b : Nat) : List (Nat × Nat) :=
  let r := srcRows x j b
  (srcPlanes x j).flatMap fun p =>
    let w := if p.1 = 0 then x.width else x.width / 2
    (List.range (r.2 / p.2)).map fun i => (s.srcRowVa d x j p.1 (r.1 / p.2 + i), rowBytes (j.u 17 1) w)

/-- The samples of a row of a planar format. -/
def rowSamples (fmt : Nat) (b : List Byte) : List Nat :=
  if fmt = 0 then b.map BitVec.toNat else (List.range (b.length / 2)).map fun i => leAt b (2 * i) 2 % 1024

/-- The groups of a packed 4:2:2 row (ST 2110-20): Cb, Y0, Cr, Y1 of each pair, most significant bit first. -/
def packedRow (fmt : Nat) (b : List Byte) : List Nat × List Nat × List Nat :=
  let g := if fmt = 2 then 5 else 4
  let w := if fmt = 2 then 10 else 8
  let pairs := (List.range (b.length / g)).map fun i =>
    let v := beNat ((b.drop (g * i)).take g)
    [v / 2 ^ (3 * w) % 2 ^ w, v / 2 ^ (2 * w) % 2 ^ w, v / 2 ^ w % 2 ^ w, v % 2 ^ w]
  (pairs.flatMap fun p => [p.getD 1 0, p.getD 3 0], pairs.map fun p => p.getD 0 0, pairs.map fun p => p.getD 2 0)

/-- R375: a 10-bit sample for an 8-bit stream. -/
def to8 (v : Nat) : Nat := (sat (rndAway v 2) 0 255).toNat

/-- R375: chroma rows of 4:2:2 (from picture row `first` on, of `n` rows) to those of 4:2:0 that a band holds; rows outside the picture
replicate the edge. -/
def chromaDown (rows : List (List Nat)) (first lo n height : Nat) : List Nat :=
  let row (y : Int) : List Nat := rows.getD ((sat y 0 ((height : Int) - 1)).toNat - first) []
  (List.range (n / 2)).flatMap fun i =>
    let y : Int := ((lo / 2 + i : Nat) : Int)
    let a := row (2 * y - 1)
    let b := row (2 * y)
    let c := row (2 * y + 1)
    (List.range b.length).map fun q => (rndAway ((a.getD q 0 : Nat) + 2 * (b.getD q 0 : Nat) + (c.getD q 0 : Nat)) 2).toNat

/-- The converted samples of band b: Y, Cb, Cr (R375). -/
def Dev.srcBand (s : Dev) (d : Nat) (x : BvStream) (j : BvJob) (b : Nat) : List (List Nat) :=
  let fmt := j.u 17 1
  let rd (a : Nat × Nat) : List Byte := s.vaBytes d 168 a.1 a.2
  let r := srcRows x j b
  let n := min x.height (64 * b + 64) - 64 * b
  let depth (v : Nat) : Nat := if !x.bit10 && (fmt = 1 || fmt = 2) then to8 v else v
  let planes :=
    if packedFmt fmt then
      let rows := (s.srcReads d x j b).map fun a => packedRow fmt (rd a)
      let own := rows.drop (64 * b - r.1)
      let cut (l : List Nat) : List Nat := l.take x.width
      if x.c422 then [own.flatMap fun q => cut q.1, own.flatMap fun q => q.2.1, own.flatMap fun q => q.2.2]
      else [own.flatMap fun q => cut q.1,
        chromaDown (rows.map fun q => q.2.1) r.1 (64 * b) n x.height,
        chromaDown (rows.map fun q => q.2.2) r.1 (64 * b) n x.height]
    else (srcPlanes x j).map fun p =>
      let w := if p.1 = 0 then x.width else x.width / 2
      (List.range (n / p.2)).flatMap fun i => rowSamples fmt (rd (s.srcRowVa d x j p.1 (64 * b / p.2 + i), rowBytes fmt w))
  planes.map fun l => l.map depth

/-- What the coder of a picture is told (R361 to R363, R374, R378 to R382), for a group of `m` members. -/
def encPic (m : Nat) (x : BvStream) (j : BvJob) : Config.EncPic where
  fields := sliceBytes x.opened 16 40
  hash := bitAt (x.u 8 4) 0
  group := m
  key := j.key
  level := j.level
  order := j.order
  headers := j.key
  refs := if j.key then 0 else if x.low then 1 else if x.av1 then 3 else 4
  wpp := !x.av1
  tileCols := if x.av1 then m else 1
  sliceBands := if !x.low then 0 else if x.av1 && 64 < x.bands then 2 else 1
  tmvp := !x.low
  restoration := x.av1 && !x.low
  intraLo := j.lo
  intraHi := if j.key then x.refreshUnits else j.hi
  ownLimit := 64 * j.hi
  refLimit := 64 * j.lo - 8
  recovery := if x.low && x.u 38 1 ≠ 0 && !j.key && j.k = 0 && !x.av1 then some (x.u 39 1 - 1) else none
  metadata := if x.low && x.u 38 1 ≠ 0 && !j.key && j.k = 0 && x.av1 then [1, BitVec.ofNat 8 (x.u 39 1 - 1), 0] else []
  candidates := 8
  search := if x.u 34 1 = 1 then [(16, 32), (4, 8), (1, 8)] else [(1, 8)]
  fraction := if x.av1 then 8 else 4

/-- The quantiser of a quality index (R377): base_q_idx of AV1, QP of HEVC. -/
def BvStream.quant (x : BvStream) (qi : Nat) : Int :=
  if x.av1 then qi else if x.bit10 then ((qi * 63 / 255 : Nat) : Int) - 12 else ((qi * 51 / 255 : Nat) : Int)

/-- The QI a band is coded at: QUALITY adds 4 for each hierarchy level (R377). -/
def levelQi (x : BvStream) (j : BvJob) (qi : Nat) : Nat := min (qi + 4 * j.level) (x.u 37 1)

/-- `while est(b, qi) > room and qi < QI_MAX` of R377. -/
def rateUp (est : Nat → Nat) (room : Int) (qiMax : Nat) : Nat → Nat → Nat
  | 0, qi => qi
  | n + 1, qi => if decide (room < (est qi : Int)) && decide (qi < qiMax) then rateUp est room qiMax n (min (qi + 8) qiMax) else qi

/-- The bytes of samples in P8 or P16. -/
def sampleBytes (ten : Bool) (l : List Nat) : List Byte := l.flatMap fun v => leBytes (if ten then 2 else 1) v

/-- RECON of a band (R370): the planes follow each other, rows at the picture's width. -/
def reconWrites (x : BvStream) (j : BvJob) (b : Nat) (planes : List (List Nat)) : List (Nat × List Byte) :=
  let sz := if x.bit10 then 2 else 1
  let luma := x.width * x.height * sz
  let chroma := if x.c422 then luma / 2 else luma / 4
  (enumFrom 0 planes).map fun p =>
    let base := if p.1 = 0 then 0 else if p.1 = 1 then luma else luma + chroma
    let per := if p.1 = 0 then 64 * x.width * sz else if x.c422 then 32 * x.width * sz else 16 * x.width * sz
    (j.u 88 6 + base + b * per, sampleBytes x.bit10 p.2)

/-- What lookahead shows the coder of a QUALITY picture (R374, R378): the converted source of its later bands, and of the stream's pictures that wait, as far as
their rows can be read now; nothing in LOW. DESIGN CHOICE (log 51): these reads raise no fault. -/
def Dev.ahead (s : Dev) (d n : Nat) (x : BvStream) (j : BvJob) : List (List Nat) :=
  if x.low then []
  else
    let seen (y : BvJob) (from_ : Nat) : List (List Nat) := if y.u 16 1 = 1 && y.blks.isEmpty then [] else
      ((List.range x.bands).filter (from_ ≤ ·)).flatMap fun b => s.srcBand d x y b
    seen j (j.coded.length + 1) ++ ((s.pipe (pn d n)).jobs.filter fun y => y.stream == j.stream && (y.st == .held || y.st == .placed)).flatMap fun y => seen y 0

/-- The end of a coded picture (R377, R378, R382): F, carry, the key's flags and tallies. -/
def endPic (d n cnt : Nat) : Prog := withJob d n cnt fun j => withStream d n j.stream fun x => look fun s =>
  let m := s.bvMembers d n
  let drain := if x.u 24 4 = 0 then 0 else x.u 44 4 * 1000 * x.u 28 4 / x.u 24 4
  let capped := x.u 44 4 ≠ 0
  let f := if capped then x.f + j.used - drain else x.f
  let isOver := capped && decide (x.u 48 4 < f)
  let lastRefresh := j.hi = x.refreshUnits && j.hi ≠ 0
  progs [
    onStream d n j.stream fun x => { x with
      f := f
      carry := if capped then j.qi - x.u 36 1 - 4 else x.carry
      coder := Config.encNext x.coder (encPic m x j) j.src (s.ahead d n x j) (j.coded.map fun c => (x.quant c.1, c.2)) },
    onJob d n cnt fun j => { j with
      outN := j.out.length
      flags := j.flags ||| (b2n j.keyReq * 2 ^ 12) ||| (b2n j.keyForced * 2 ^ 13) ||| (b2n isOver * 2 ^ 15)
        ||| (b2n (j.coded.any (·.2)) * 2 ^ 16) },
    bvTally d n R.BV_PICS_ENC 1, bvTally d n R.BV_CAP_OVERRUN (b2n isOver),
    only j.keyReq (progs [setReg .bv d n R.BV_KEY_LAST j.frame, bvTally d n R.BV_SPLICE_KEYS 1]),
    bvTally d n R.BV_REFRESH_CYCLES (b2n (lastRefresh && !j.key && j.k + 1 = x.u 39 1)),
    endJob d n cnt 0]

/-- Releases the lock blocks that no later band reads (R376). -/
def releaseSrc (d n cnt b : Nat) (last : Bool) : Prog := withJob d n cnt fun j => withStream d n j.stream fun x => look fun s =>
  match s.handleLock d 168 (j.u 32 2) with
  | none => .skip
  | some l =>
    let keep (e : Nat × Nat) : Bool := !last && (!j.fl 1 || (srcTwo x j && e.1 = b))
    progs [
      forAll (j.blks.filter fun e => !keep e) fun e =>
        match (s.lock l).blks.find? (fun k => k.idx == e.2 && bitAt k.taken (j.u 34 1 % 8)) with
        | some k => releaseBlk l k.seq (j.u 34 1 % 8)
        | none => .skip,
      onJob d n cnt fun j => { j with blks := j.blks.filter keep }]

/-- The context region's page that the next band of a job works in (R364). -/
def BvStream.ctxAcc (x : BvStream) (j : BvJob) : VAcc :=
  ⟨x.ctx + 65536 * (Config.ctxPage x.coder j.order j.coded.length % max 1 (x.ctxLen / 65536)), 65536, accWrite⟩

/-- The accesses of the next band of a picture being encoded: source rows, RECON, the output, the progress word, the context. -/
def Dev.encAccs (s : Dev) (d : Nat) (x : BvStream) (j : BvJob) : List VAcc :=
  let b := j.coded.length
  let rows := min x.height (64 * b + 64) - 64 * b
  let div := if x.c422 then 1 else 2
  let recAccs := if j.u 88 6 = 0 then [] else
    (reconWrites x j b [List.replicate (rows * x.width) 0, List.replicate (rows / div * (x.width / 2)) 0,
      List.replicate (rows / div * (x.width / 2)) 0]).map fun w => (⟨w.1, w.2.length, accWrite⟩ : VAcc)
  (s.srcReads d x j b).map (fun a => ⟨a.1, a.2, accRead⟩) ++ recAccs ++ [⟨j.u 64 6, j.u 72 4, accWrite⟩]
    ++ (if x.low && j.u 80 6 ≠ 0 then [⟨j.u 80 6, 4, accWrite⟩] else []) ++ [x.ctxAcc j]

/-- Codes one band (R377, R378). -/
def encBand (d n cnt : Nat) : Prog := withJob d n cnt fun j => withStream d n j.stream fun x => look fun s =>
  let b := j.coded.length
  let pic := encPic (s.bvMembers d n) x j
  let reads := s.srcReads d x j b
  jobAccess d n cnt (s.encAccs d x j)
    (jobRead d n cnt reads (look fun s =>
      let src := j.src ++ s.srcBand d x j b
      let ahead := s.ahead d n x j
      let qiMax := x.u 37 1
      let qi0 := if b = 0 then min (x.u 36 1 + x.carry) qiMax else j.qi
      let capped := x.u 44 4 ≠ 0
      let est (qi : Nat) : Nat := Config.encEst x.coder pic src ahead b (x.quant (levelQi x j qi))
      let room : Int := (x.u 48 4 : Int) - x.f - j.used
      let qi := if capped then rateUp est room qiMax 40 qi0 else x.u 36 1
      let minimal := capped && decide (room < (est qi : Int))
      let coded := j.coded ++ [(if minimal then qiMax else levelQi x j qi, minimal)]
      let r := Config.encBand x.coder pic src ahead (coded.map fun c => (x.quant c.1, c.2))
      let out := j.out ++ r.bytes
      if j.u 72 4 < out.length then endJob d n cnt 0x40
      else progs [
        onJob d n cnt fun j => { j with src := src, coded := coded, qi := qi, used := j.used + r.bits, out := out },
        only x.low (progs [
          vaWrite d 168 (j.u 64 6 + j.out.length) r.bytes false,
          only (j.u 80 6 ≠ 0) (vaWrite d 168 (j.u 80 6) (leBytes 4 out.length) false)]),
        only (j.u 88 6 ≠ 0) (forAll (reconWrites x j b r.recon) fun w => vaWrite d 168 w.1 w.2 false),
        releaseSrc d n cnt b (b + 1 = j.bands),
        only (b + 1 = j.bands) (progs [only (!x.low) (vaWrite d 168 (j.u 64 6) out false), endPic d n cnt])]))

/-- Takes the lock block that the next band of a job reads (R376), if it is not held and is FILLED. -/
def takeSrc (d n cnt : Nat) (j : BvJob) (ok wait : Prog) : Prog := look fun s =>
  let blk := if j.fl 1 then j.coded.length else 0
  if j.u 16 1 = 0 || j.blks.any (fun e => e.1 == blk) then ok
  else match s.handleLock d 168 (j.u 32 2) with
    | none => wait
    | some l =>
      match s.nextFilled l (j.u 34 1 % 8) with
      | some b => progs [takeFilled l b.seq (j.u 34 1 % 8) 0, onJob d n cnt fun j => { j with blks := j.blks ++ [(blk, b.idx)] }, ok]
      | none => wait

/-- The lock that a picture names as its source is an enabled lock with that slot, and not one of a pipeline's own cluster: it has none
(R309, R376). -/
def Dev.srcLockOk (s : Dev) (d : Nat) (j : BvJob) : Bool :=
  j.u 16 1 = 0 || (match s.handleLock d 168 (j.u 32 2) with
    | some l => bits (j.u 32 2) 15 14 ≠ 0 && s.lockOn l && decide (j.u 34 1 % 8 < s.lockCons l)
    | none => false)

/-- ENC_PIC starts: a LOW picture is placed at once and codes next; a QUALITY picture is held until its mini-GOP can be placed. -/
def encPicProg (d n : Nat) : Prog := look fun s =>
  match s.bvNext d n (· = 0x10) false with
  | none => .skip
  | some j => only (s.bvUp d n && !s.bvPre d n) (
      match s.bvStream d n j.stream with
      | none => refuseJob d n j.cnt
      | some x =>
        if !x.enc || !encPicOk x j || !s.srcLockOk d j then refuseJob d n j.cnt
        else if x.low then placePic d n j.cnt false 0
        else progs [onJob d n j.cnt fun j => { j with st := .held }, placeGop d n j.stream false])

/-! ### Decoding -/

/-- The samples of a grey substitute (R388). -/
def greyPlanes (w h : Nat) (ten c422 : Bool) : List (List Nat) :=
  let g := if ten then 512 else 128
  let c := if c422 then w / 2 * h else w / 2 * (h / 2)
  [List.replicate (w * h) g, List.replicate c g, List.replicate c g]

/-- The blocks of a plane that are concealed take the co-located samples of `from_` (R387). -/
def concealPlane (w h blk nb : Nat) (lost : List Nat) (plane from_ : List Nat) : List Nat :=
  (List.range (w * h)).map fun i =>
    let bl := i / w / max 1 (blk) * nb + i % w / max 1 blk
    if lost.contains bl then from_.getD i 0 else plane.getD i 0

/-- Conceals the lost blocks of a picture: block size on the luma plane, halved for subsampled chroma. -/
def conceal (w h blk : Nat) (c422 : Bool) (lost : List Nat) (planes from_ : List (List Nat)) : List (List Nat) :=
  let nb := ceilDiv w (max 1 blk)
  (enumFrom 0 planes).map fun p =>
    let src := from_.getD p.1 []
    if p.1 = 0 then concealPlane w h blk nb lost p.2 src
    else if c422 then
      (List.range (w / 2 * h)).map fun i =>
        let bl := i / (w / 2) / max 1 blk * nb + i % (w / 2) * 2 / max 1 blk
        if lost.contains bl then src.getD i 0 else p.2.getD i 0
    else concealPlane (w / 2) (h / 2) (blk / 2) nb lost p.2 src

/-- The substitute for a name that is missing (R388). -/
def substitute (hd : Config.DecHead) (name : Nat) : DpbPic := ⟨name, greyPlanes hd.width hd.height hd.bit10 hd.c422, true, false, false, false⟩

/-- Whether the tables of R362 and R363 list what a sequence needs, and its level lies within the group's (R360). -/
def decSupported (m : Nat) (av1 : Bool) (hd : Config.DecHead) : Bool :=
  !hd.unlisted && decide (hd.level ≤ bvMaxLevel m av1)
    && (if av1 then hd.profile = 0 && (hd.depth = 8 || hd.depth = 10) && decide (hd.chroma ≤ 1) && (hd.blk = 64 || hd.blk = 128)
      else 8 ≤ hd.depth && (hd.blk = 16 || hd.blk = 32 || hd.blk = 64)
        && ((hd.profile = 1 && hd.depth = 8 && hd.chroma = 1) || (hd.profile = 2 && decide (hd.depth ≤ 10) && hd.chroma = 1)
          || (hd.profile = 4 && hd.main42210 && decide (hd.depth ≤ 10) && decide (hd.chroma ≤ 2))))

/-- Luma rows of a band: 64, and a superblock row of 128 (R363). -/
def decBandRows (av1 : Bool) (hd : Config.DecHead) : Nat := if av1 && hd.blk = 128 then 128 else 64

/-- P of the refresh cycle that a picture begins (R381, R386). -/
def decCycle (av1 : Bool) (hd : Config.DecHead) : Option Nat :=
  if av1 then (match hd.private_ with
    | some [a, b, c] => if a = 1 && c = 0 then some (b.toNat + 1) else none
    | _ => none)
  else match hd.recovery with
    | some (n, true) => some (n + 1)
    | _ => none

/-- R390: what a picture's sequence is refused for: OVERSIZE, UNSUPPORTED, DPB_SHORT as flag bits. -/
def seqFlags (m : Nat) (x : BvStream) (hd : Config.DecHead) : Nat :=
  let big := decide (x.width < hd.width) || decide (x.height < hd.height) || (hd.bit10 && !x.bit10) || (hd.c422 && !x.c422)
  b2n big * 2 ^ 8 + b2n (!decSupported m x.av1 hd) * 2 ^ 7 + b2n (decide (x.u 24 1 < hd.buffers)) * 2 ^ 9

/-- A picture that is not output (R385, R390). -/
def noPicture (d n cnt flags consumed : Nat) : Prog := progs [
  onJob d n cnt fun j => { j with flags := j.flags ||| 2 ^ 10 ||| flags, picType := 0xFF, outN := consumed },
  only (flags ≠ 0) (bvTally d n R.BV_DAMAGED_PICS 1),
  endJob d n cnt (if flags = 0 then 0 else 0x50)]

/-- The picture buffer as a picture meets it: HEVC keeps its reference picture set, with substitutes for what is missing; AV1's slots are
filled where they are read (R388). PRIOR_LOSS makes slots SUSPECT. -/
def dpbMeet (x : BvStream) (hd : Config.DecHead) (loss : Bool) : List DpbPic × Nat :=
  let base :=
    if x.av1 then (if hd.irap then [] else x.dpb.map fun p => { p with suspect := p.suspect || (loss && p.ofKey) })
    else x.dpb.filter fun p => hd.rps.contains p.name
  let need := if x.av1 then hd.refs else hd.rps
  let miss := (need.filter fun r => !base.any (fun p => p.name == r)).eraseDups
  (base ++ miss.map (substitute hd), miss.length)

/-- Starts a DEC_AU whose data has been read: header, references, samples (R385 to R388). -/
def decStart (d n cnt : Nat) (x : BvStream) (au : List Byte) : Prog := withJob d n cnt fun j => look fun s =>
  let m := s.bvMembers d n
  let hd := Config.decHead x.coder x.av1 au
  let bad := seqFlags m x hd
  let used := min hd.consumed au.length
  let ev := 2 ^ 1 + 2 ^ 0
  if x.skip && !(hd.irap && bad = 0) then noPicture d n cnt (if bad = 0 then 0 else bad + ev) used
  else if bad ≠ 0 then progs [
    onStream d n x.num fun x => { x with skip := true, cycClean := false }, noPicture d n cnt (bad + ev) used]
  else if !hd.shown then progs [
    onStream d n x.num fun x => { x with coder := hd.next, skip := false }, noPicture d n cnt 0 used]
  else
    let meet := dpbMeet x hd (j.fl 0)
    let ref (r : Nat) : Option DpbPic := meet.1.find? fun p => p.name == r
    let refs := hd.refs.filterMap ref
    let pic := Config.decPic x.coder x.av1 au (refs.map fun p => (p.name, p.planes))
    let grey := greyPlanes hd.width hd.height hd.bit10 hd.c422
    let near (first : Option Nat) : List (List Nat) := match first.bind ref with
      | some p => if p.subst || hd.picType ≤ 1 then grey else p.planes
      | none => grey
    let fix (lost : List Nat) (first : Option Nat) (l : List (List Nat)) : List (List Nat) :=
      if lost.isEmpty then l else conceal hd.width hd.height hd.blk hd.c422 lost l (near first)
    let lost := pic.lost ++ pic.hidden.flatMap (·.lost)
    let rows := decBandRows x.av1 hd
    let nb := ceilDiv hd.width (max 1 hd.blk)
    let dmg := (lost.map fun b => b / max 1 nb * hd.blk / rows).eraseDups
    let serial := !hd.wpp && decide (hd.tiles ≤ 1)
    let subst := refs.any (·.subst)
    let susp := refs.any (·.suspect)
    let grainSkip := hd.grain && !bitAt (x.u 8 4) 0
    progs [
      bvTally d n R.BV_MISSING_REF meet.2,
      onStream d n x.num fun x => { x with
        coder := hd.next, skip := false, dpb := meet.1
        cycP := (match decCycle x.av1 hd with | some p => p | none => if hd.irap then 0 else x.cycP)
        cycStart := (if (decCycle x.av1 hd).isSome then hd.order else x.cycStart)
        cycClean := (if (decCycle x.av1 hd).isSome then true else x.cycClean) },
      onJob d n cnt fun j => { j with
        st := .coding, picType := hd.picType, order := hd.order, bandRows := rows
        bands := ceilDiv hd.height rows
        planes := fix pic.lost hd.first pic.planes
        output := fix pic.lost hd.first (if bitAt (x.u 8 4) 0 then pic.output else pic.planes)
        hidden := pic.hidden.flatMap fun f => f.names.map fun n => (n, fix f.lost f.first f.planes)
        tiles := if hd.wpp then 0 else hd.tiles
        names := hd.stores, refs := hd.refs, next := hd.orderMod
        key := hd.irap, outN := used, t0 := s.clock, level := hd.blk, lo := hd.width, hi := hd.height
        k := b2n hd.bit10 + 2 * b2n hd.c422
        damage := dmg.foldl (fun a b => a ||| 2 ^ b) 0
        qi := (match hd.first with | some r => r + 1 | none => 0)
        flags := j.flags ||| (b2n subst * 2 ^ 2) ||| (b2n susp * 2 ^ 3) ||| (b2n (!lost.isEmpty) * 2 ^ 4) ||| (b2n pic.hashBad * 2 ^ 6)
          ||| (b2n serial * 2 ^ 11) ||| (b2n grainSkip * 2 ^ 17) }]

/-- DEC_AU starts once the data can be read. -/
def decAuProg (d n : Nat) : Prog := look fun s =>
  match s.bvNext d n (· = 0x11) false with
  | none => .skip
  | some j => only (s.bvUp d n && !s.bvPre d n) (
      match s.bvStream d n j.stream with
      | none => refuseJob d n j.cnt
      | some x =>
        if x.enc || !decAuOk x j then refuseJob d n j.cnt
        else
          let va := j.u 32 6
          let len := j.u 40 4
          jobAccess d n j.cnt [⟨va, len, accRead⟩] (jobRead d n j.cnt [(va, len)]
            (look fun s => decStart d n j.cnt x (s.vaBytes d 168 va len))))

/-- The end of a decoded picture (R386): events, DAMAGED, the refresh cycle, the picture buffer, the status. -/
def endDec (d n cnt : Nat) : Prog := withJob d n cnt fun j => withStream d n j.stream fun x =>
  let fl (b : Nat) : Bool := bitAt j.flags b
  let event := fl 2 || fl 3 || fl 4 || fl 5 || fl 6
  let inherit := !j.key && x.dpb.any fun p => j.refs.contains p.name && p.damaged
  let pos := if j.next = 0 then (j.order + 2 ^ 32 - x.cycStart) % 2 ^ 32 else (j.order + j.next - x.cycStart % j.next) % j.next
  let last := x.cycP ≠ 0 && pos + 1 = x.cycP && !j.key
  let clean := last && x.cycClean && !event
  let damaged := event || (inherit && !clean)
  let pic (name : Nat × List (List Nat)) : DpbPic := ⟨name.1, name.2, false, damaged, j.key, false⟩
  let kept := j.hidden.filter (fun h => !j.names.contains h.1) ++ j.names.map fun n => (n, j.planes)
  progs [
    onStream d n j.stream fun x => { x with
      dpb := x.dpb.filter (fun p => !kept.any fun h => h.1 == p.name) ++ kept.map pic
      cycClean := x.cycClean && !event
      cycP := if last then 0 else x.cycP },
    onJob d n cnt fun j => { j with
      flags := j.flags ||| (b2n damaged) ||| (b2n event * 2) ||| (b2n (clean && inherit) * 2 ^ 14) },
    bvTally d n R.BV_PICS_DEC 1, bvTally d n R.BV_DAMAGED_PICS (b2n damaged), bvTally d n R.BV_REFRESH_CYCLES (b2n clean),
    bvTally d n R.BV_CONCEALED_BANDS ((List.range 128).filter (bitAt j.damage)).length,
    endJob d n cnt (if fl 2 then 0x51 else if damaged then 0x50 else 0)]

/-- The rows of a decoded band in OUT_FMT (R373): for each plane, address and bytes of each row. -/
def outWrites (x : BvStream) (j : BvJob) (b : Nat) : List (Nat × List Byte) :=
  let fmt := x.u 18 1
  let w := j.lo
  let h := j.hi
  let ten := j.k % 2 = 1
  let c422 := 2 ≤ j.k
  let fits := if fmt = 0 then !ten else if fmt = 1 then true else c422 && (fmt = 2 || !ten)
  let pl := if fits then j.output else Config.decFit fmt j.output
  let rows := min h (j.bandRows * b + j.bandRows) - j.bandRows * b
  let row (p y wd : Nat) : List Nat := ((pl.getD p []).drop (y * wd)).take wd
  if packedFmt fmt then
    let wd := if fmt = 2 then 10 else 8
    (List.range rows).map fun i =>
      let y := j.bandRows * b + i
      (j.u 48 6 + y * j.u 72 4, (List.range (ceilDiv w 2)).flatMap fun q =>
        let v := (((row 1 y (w / 2)).getD q 0 * 2 ^ wd + (row 0 y w).getD (2 * q) 0) * 2 ^ wd + (row 2 y (w / 2)).getD q 0) * 2 ^ wd
          + (row 0 y w).getD (2 * q + 1) 0
        beBytes (if fmt = 2 then 5 else 4) v)
  else
    let div := if c422 then 1 else 2
    [(0, 48, 72, 1), (1, 56, 76, div), (2, 64, 76, div)].flatMap fun (p : Nat × Nat × Nat × Nat) =>
      let wd := if p.1 = 0 then w else w / 2
      (List.range (rows / p.2.2.2)).map fun i =>
        let y := j.bandRows * b / p.2.2.2 + i
        (j.u p.2.1 6 + y * j.u p.2.2.1 4, sampleBytes (fmt = 1) (row p.1 y wd))

/-- The accesses of the next band of a decoded picture: its rows and the context. -/
def decAccs (x : BvStream) (j : BvJob) : List VAcc := (outWrites x j j.coded.length).map (fun w => ⟨w.1, w.2.length, accWrite⟩) ++ [x.ctxAcc j]

/-- Writes one decoded band (R373, R385). -/
def decBand (d n cnt : Nat) : Prog := withJob d n cnt fun j => withStream d n j.stream fun x =>
  let b := j.coded.length
  let ws := outWrites x j b
  jobAccess d n cnt (decAccs x j) (progs [
    forAll ws fun w => vaWrite d 168 w.1 w.2 false,
    onJob d n cnt fun j => { j with coded := j.coded ++ [(0, false)] },
    only (b + 1 = j.bands) (endDec d n cnt)])

/-! ### Bands (R373) -/

/-- A placed picture starts when none of its stream is being coded and a place is free (R373). -/
def startPlaced (d n : Nat) : Prog := look fun s =>
  let p := s.pipe (pn d n)
  let busy (num : Nat) : Bool := p.jobs.any fun j => j.stream == num && (j.st == .coding || j.st == .parked) && j.bands ≠ 0
  let order (num : Nat) : Option BvJob := (p.jobs.filter fun j => j.stream == num && j.st == .placed).foldl
    (fun a j => match a with | some y => if j.order < y.order then some j else a | none => some j) none
  match p.streams.findSome? (fun x => if busy x.num then none else order x.num) with
  | some j => only (p.active < 4) (withStream d n j.stream fun x => startPic d n (s.bvMembers d n) j x)
  | none => .skip

/-- What keeps the next band of a job from running, as the offset of its tally (R339, R373, R498): a source that has not arrived, a walk, a stack that wakes or a
row being spared; none for a band that is ready, or whose walk is yet to be asked for. -/
def Dev.bandWait (s : Dev) (d n : Nat) (j : BvJob) : Option Nat :=
  match s.bvStream d n j.stream with
  | none => none
  | some x =>
    let toTake := j.op = 0x10 && j.u 16 1 ≠ 0 && !j.blks.any (fun e => e.1 == (if j.fl 1 then j.coded.length else 0))
    let filled := match s.handleLock d 168 (j.u 32 2) with | some l => (s.nextFilled l (j.u 34 1 % 8)).isSome | none => false
    if toTake then (if filled then none else some R.BV_WAIT_ACT)
    else if (s.die d).walks.any fun w => w.unit == j.unit n then some R.BV_WAIT_TRANSLATION
    else match s.meets d 168 (if j.op = 0x10 then s.encAccs d x j else decAccs x j) with
    | .wake a => some (if s.wakeCause (s.dpaOf d 168 a.va) = 2 then R.BV_WAIT_WEIR else R.BV_WAIT_MEMORY)
    | _ => none

/-- The job served next: the highest PRIO, among equals the first after the last one served (R373). -/
def nextBand (last : Nat) (js : List BvJob) : Option BvJob :=
  let rot (j : BvJob) : Nat := (j.cnt + 2 ^ 32 - last - 1) % 2 ^ 32
  js.foldl (fun a j => match a with
    | some y => if y.prio < j.prio || (y.prio = j.prio && rot j < rot y) then some j else a
    | none => some j) none

/-- Asks for the stacks that the next band of a job waits for (R498). -/
def jobWake (d n : Nat) (j : BvJob) : Prog := withStream d n j.stream fun x => look fun s =>
  match s.meets d 168 (if j.op = 0x10 then s.encAccs d x j else decAccs x j) with
  | .wake a => wantStacks (s.dpaOf d 168 a.va) a.len
  | _ => .skip

/-- BV_BAND: codes the next band that is ready; the best of those that wait counts in the tally of its cause (R373). -/
def bvBandProg (d n : Nat) : Prog := progs [
  look fun s => only (s.bvUp d n && !s.bvPre d n) (startPlaced d n),
  look fun s =>
    let p := s.pipe (pn d n)
    let js := p.jobs.filter fun j => j.st == .coding
    if !s.bvUp d n then .skip
    else if s.bvPre d n then only (!js.isEmpty) (bvTally d n R.BV_WAIT_PREEMPT 1)
    else
      let ready := nextBand p.last (js.filter fun j => (s.bandWait d n j).isNone)
      let waiting := nextBand p.last (js.filter fun j => (s.bandWait d n j).isSome)
      progs [
        (match ready with
        | none => .skip
        | some j => progs [
            onPipe (pn d n) fun p => { p with last := j.cnt },
            if j.op = 0x10 then takeSrc d n j.cnt j (encBand d n j.cnt) .skip else decBand d n j.cnt]),
        (match waiting with
        | none => .skip
        | some j => progs [bvTally d n ((s.bandWait d n j).getD 0) 1, jobWake d n j])]]

/-- R389: the default budget of a picture in ns. -/
def bvBudget (m : Nat) (x : BvStream) (j : BvJob) : Nat :=
  if x.u 28 4 ≠ 0 then x.u 28 4 * 1000
  else max 1000000 (4 * 8000 * (ceilDiv j.lo 64 * ceilDiv j.hi 64) * (if 2 ≤ j.k then 4 else 3) / (3 * m))

/-- BV_WATCHDOG_EXPIRY: the budget of the decoded picture in front runs out at block `blk` (R389): that block and every later one is
concealed. -/
def bvWatchdogExpiryProg (d n blk : Nat) : Prog := look fun s =>
  match (s.pipe (pn d n)).jobs.find? (fun j => j.st == .coding && j.op = 0x11) with
  | none => .skip
  | some j => only (s.bvUp d n) (withStream d n j.stream fun x =>
      let nb := ceilDiv j.lo (max 1 j.level)
      let total := nb * ceilDiv j.hi (max 1 j.level)
      let first := max blk (j.coded.length * j.bandRows / max 1 j.level * nb)
      let lost := (List.range total).filter fun b => decide (first ≤ b)
      let from_ := match x.dpb.find? (fun p => p.name + 1 == j.qi) with
        | some p => if p.subst || j.picType ≤ 1 then greyPlanes j.lo j.hi (j.k % 2 = 1) (2 ≤ j.k) else p.planes
        | none => greyPlanes j.lo j.hi (j.k % 2 = 1) (2 ≤ j.k)
      let due := j.t0 + bvBudget (s.bvMembers d n) x j
      only (!lost.isEmpty) (progs [
        .upd (.time (due - s.clock)),
        bvTally d n R.BV_WATCHDOG 1,
        onJob d n j.cnt fun j => { j with
          flags := j.flags ||| 2 ^ 4 ||| 2 ^ 5
          planes := conceal j.lo j.hi j.level (2 ≤ j.k) lost j.planes from_
          output := conceal j.lo j.hi j.level (2 ≤ j.k) lost j.output from_
          damage := lost.foldl (fun a b => a ||| 2 ^ (b / max 1 nb * j.level / j.bandRows)) j.damage }]))

/-- CLOSE ends a stream after its earlier jobs (R383): with FLUSH the held pictures are placed and coded first, without it they complete
with CANCELLED. -/
def closeProg (d n : Nat) : Prog := look fun s =>
  match s.bvNext d n (· = 0x20) true with
  | none => .skip
  | some j => only (s.bvUp d n && !s.bvPre d n) (
      if !closeOk j then refuseJob d n j.cnt
      else match s.bvStream d n j.stream with
        | none => refuseJob d n j.cnt
        | some x =>
          let hs := (s.pipe (pn d n)).held x.num
          let placed := (s.pipe (pn d n)).jobs.any fun y => y.stream == x.num && y.st == .placed
          if placed then .skip
          else if !hs.isEmpty && j.fl 0 then placeGop d n x.num true
          else progs [
            forAll hs fun h => endJob d n h.cnt 0x30,
            onPipe (pn d n) fun p => { p with streams := p.streams.filter fun y => !(y.num == x.num) },
            endJob d n j.cnt 0])

/-! ### Registers (R359, R365, R382, R392, R395, R396) -/

def bvRingCfg (d n v : Nat) : Prog := ringCfg .bv d n v (onPipe (pn d n) fun p => { p with ringStop := false })
def bvRingCfgWriteProg (d n v : Nat) : Prog := look fun s => only (s.blockOn .bv d n) (bvRingCfg d n v)

/-- BV_CPL_CONS: software has consumed records. -/
def bvCplConsWriteProg (d n v : Nat) : Prog := look fun s => only (s.blockOn .bv d n) (setReg .bv d n R.BV_CPL_CONS v)

/-- A request for a splice key (R382). -/
def bvKeyReq (d n v : Nat) : Prog := look fun s =>
  only (bitAt v 31) (onStream d (s.bvLead d n) (v % 16) fun x => if x.enc then { x with keyReq := true } else x)
def bvKeyReqProg (d n stream : Nat) : Prog := look fun s => only (s.blockOn .bv d n) (bvKeyReq d n (2 ^ 31 + stream % 16))

/-- BV_CTRL.PREEMPT (R392): bands are whole, so a pipeline stops at once and resumes where it stopped. -/
def bvCtrl (d n v : Nat) : Prog := look fun s => progs [
  setReg .bv d n R.BV_CTRL (v % 2),
  onPipe (pn d n) fun p => { p with jobs := p.jobs.map fun j => j.budget (v % 2 = 1 || j.st == .parked) s.clock }]
def bvPreemptProg (d n : Nat) : Prog := look fun s => only (s.blockOn .bv d n) (bvCtrl d n 1)
def bvResumeProg (d n : Nat) : Prog := look fun s => only (s.blockOn .bv d n) (bvCtrl d n 0)

/-- Whether a pipeline has EN set or a stream open (R359, R393). -/
def Dev.bvInUse (s : Dev) (d n : Nat) : Bool :=
  s.fld .bv d n R.BV_RING_CFG 31 31 = 1 || !(s.pipe (pn d (s.bvLead d n))).streams.isEmpty

/-- BV_GROUP_CTRL (R359, R396): a write that regroups a pipeline in use, or that names the reserved grouping, is refused. -/
def bvGroupWrite (d v : Nat) : Prog := look fun s =>
  let old := s.reg .bvg d 0 R.BV_GROUP_CTRL
  let err := bits old 31 31 - bits v 31 31
  let chg (lo : Nat) : Bool := bits old (lo + 1) lo ≠ bits v (lo + 1) lo
  let used (from_ : Nat) : Bool := (List.range 4).any fun i => s.bvInUse d (from_ + i)
  let bad := (chg 0 && used 0) || (chg 2 && used 4)
  if bad then setReg .bvg d 0 R.BV_GROUP_CTRL (2 ^ 31 + old % 16)
  else setReg .bvg d 0 R.BV_GROUP_CTRL (err * 2 ^ 31 + v % 16)
def bvGroupCtrlWriteProg (d v : Nat) : Prog := look fun s => only (s.blockOn .bvg d 0) (bvGroupWrite d v)

def bvTallyClearProg (d n : Nat) : Prog := look fun s => only (s.blockOn .bv d n) (clearTallies .bv d n (offsets 0x100 0x164))

/-- BV_STATUS as read (R395). -/
def Dev.bvStatus (s : Dev) (d n : Nat) : Nat :=
  let lead := s.bvLead d n
  let p := s.pipe (pn d lead)
  let moving := p.jobs.any fun j => j.st == .coding && j.on (s.bvMembers d n) (n - lead)
  min 16 p.streams.length * 2 ^ 16 + min 4 p.active * 2 ^ 8 + b2n (s.bvPre d lead) * 8 + b2n (lead != n) * 4
    + bits (s.reg .bv d n R.BV_STATUS) 1 1 * 2 + b2n (moving && !s.bvPre d lead)

/-! ### Firmware's fault actions on a pipeline (R351, R391) -/

/-- KILL ends the job with the fault's status. -/
def bvKillFault (d n cnt status : Nat) : Prog := endJob d n cnt status

end Sys2Proof.Machine
end

