-- ==== Sys2Proof/Machine/LinkBase.lean ====
section
/-! DEFINITION. What the link dies share (R414 to R418, R452, R453): ports, MACsec transmit associations, fault injection, and the datagrams a port sends; with the rows that act on ports. Ports are numbered 0 to 23; port p is port p mod 6 of link die p / 6. -/

namespace Sys2Proof.Machine

/-! ### Big-endian fields of frames -/

/-- A big-endian natural of `n` bytes at offset `o`; missing bytes read 0. -/
def beAt (b : List Byte) (o n : Nat) : Nat := beNat (sliceBytes b o n)

/-! ### Ports -/

/-- A register of a port. -/
def Dev.preg (s : Dev) (p off : Nat) : Nat := s.reg .lnk (16 + p / 6) (p % 6) off
def Dev.pfld (s : Dev) (p off hi lo : Nat) : Nat := bits (s.preg p off) hi lo
def setPreg (p off v : Nat) : Prog := setReg .lnk (16 + p / 6) (p % 6) off v
def setPfld (p off hi lo v : Nat) : Prog := setFld .lnk (16 + p / 6) (p % 6) off hi lo v
def portTally (p off n : Nat) : Prog := tally .lnk (16 + p / 6) (p % 6) off n

/-- Sub-ports of a mode (R414). -/
def modeSubs (m : Nat) : Nat := if m = 2 then 2 else if m = 3 then 4 else if m = 1 || m = 4 || m = 5 then 1 else 0

/-- Whether the half that holds a port is on (R37, R415). -/
def Dev.portOn (s : Dev) (p : Nat) : Bool := s.domOn (96 + p / 3)

/-- Whether a sub-port's link is up. -/
def Dev.subUp (s : Dev) (p sub : Nat) : Bool := s.portOn p && bitAt (s.preg p R.LNK_PORT_STATUS) sub

def Dev.port (s : Dev) (p : Nat) : Port := sget (fun _ => Port.reset) s.links.ports p
def onPort (p : Nat) (f : Port → Port) : Prog := onLinks fun x => { x with
  ports := sset (fun _ => Port.reset) x.ports p (f (sget (fun _ => Port.reset) x.ports p)) }

/-- A link-die log entry: the index is the port. -/
def linkLog (cls code index data : Nat) : Prog :=
  logE { LogEntry.plain cls 9 code 0 with die := 16 + index / 6, index := index, data := data }

/-! ### Fault injection (R452, R453) -/

/-- Whether fault injection is locked: the settings manifest in force does not permit debug (R453). -/
def Dev.fiLocked (s : Dev) : Bool := s.fld .boot 20 0 R.SEC_STATUS 0 0 = 0

/-- One step of the LFSR. -/
def lfsrStep (l : Nat) : Nat := if l % 2 = 1 then (l / 2) ^^^ 0x80200003 else l / 2

/-- A register of a direction (0 transmit, 1 receive). -/
def fiReg (dir off : Nat) : Nat := R.LNK_FI_TX + 16 * dir + off

/-- What injection does to a frame. -/
inductive FiAct where
  | pass | drop | hold
  /-- this bit of the frame is flipped; whether the FCS was already made, or is still to be checked (POINT 0) -/
  | flip (bit : Nat) (atFcs : Bool)
  deriving DecidableEq, Repr

/-- Flips a bit of a frame; a bit past its end lies in the FCS. -/
def flipBit (b : List Byte) (n : Nat) : List Byte := b.mapIdx fun i x => if i = n / 8 then x ^^^ BitVec.ofNat 8 (2 ^ (n % 8)) else x

/-- A frame that passes counts towards the frame held in its direction. -/
def fiPassed (p dir : Nat) : Prog := look fun s =>
  only ((s.port p).held.any fun h => h.1 == dir) (onPort p fun x => { x with
    held := x.held.map fun h => if h.1 == dir then (h.1, { h.2 with left := h.2.left - 1 }) else h })

/-- fi_step of R452, for a frame of sub-port `sub` with `span` bytes from its destination address to the end of its payload. -/
def fiStep (p dir sub span : Nat) (k : FiAct → Prog) : Prog := look fun s =>
  let c := s.preg p (fiReg dir 0)
  if !bitAt c 0 || bits c 7 6 ≠ sub then progs [fiPassed p dir, k .pass]
  else
    let l := lfsrStep (sget (fun _ => 1) (s.port p).lfsr dir)
    let n := max 1 (s.preg p (fiReg dir 4)) + 1
    let act := bits c 2 1
    let held := (s.port p).held.any fun h => h.1 == dir
    progs [
      onPort p fun x => { x with lfsr := sset (fun _ => 1) x.lfsr dir l },
      if l % n ≠ n - 1 then progs [fiPassed p dir, k .pass]
      else progs [
        portTally p (fiReg dir 12) 1,
        if act = 1 then k .drop
        else if act = 2 then
          let sp := if bitAt c 5 then span else span + 4
          progs [fiPassed p dir, k (.flip (l / 256 % (8 * sp)) (!bitAt c 5))]
        else if act = 3 && !held then k .hold
        else progs [fiPassed p dir, k .pass]]]

/-- Holds a frame for REORDER. -/
def fiHold (p dir : Nat) (f : Nat → Nat → HeldFrame) : Prog := look fun s =>
  onPort p fun x => { x with held := sput x.held dir (f (bits (s.preg p (fiReg dir 0)) 12 8) s.clock) }

/-! ### Sending (R417, R418, R441) -/

/-- The key of a secure association: sub-port, AN, and 0 for the transmit channel or 1 + the receive channel. -/
def saKey (sub an chan : Nat) : Nat := 16 * (4 * sub + an) + chan

/-- The last PN of an association (R418). -/
def Sa.last (x : Sa) : Nat := if x.xpn then 2 ^ 64 - 1 else 2 ^ 32 - 1

/-- Bytes of a datagram's frame from its destination address to the end of its payload: Ethernet, tag, IPv4 and UDP headers, payload, and the ICRC
of RoCE; under MACsec also the SecTAG with its SCI and the ICV. -/
def TxPkt.span (x : TxPkt) : Nat :=
  14 + (if x.vlan < 0x1000 then 4 else 0) + 28 + x.body.length + (if x.dstUdp = 4791 then 4 else 0) + (if x.pn ≠ 0 then 32 else 0)

/-- A datagram leaves its sub-port. -/
def emit (x : TxPkt) : Prog := progs [portTally x.port R.TX_FRAMES 1, onLinks fun l => { l with out := l.out ++ [x] }]

/-- Fault injection on transmit, then the wire. -/
def txInject (x : TxPkt) : Prog := fiStep x.port 0 x.sub x.span fun act =>
  match act with
  | .pass => emit x
  | .drop => .skip
  | .flip bit _ => emit { x with flip := bit + 1 }
  | .hold => fiHold x.port 0 fun d t => ⟨none, some x, x.sub, d, t⟩

/-- Sends a datagram: its sub-port must be up; with MACsec on it is protected under the transmit association in use, and dropped at that
association's last PN (R418). -/
def txFrame (x : TxPkt) : Prog := look fun s =>
  if !s.subUp x.port x.sub then .skip
  else if s.pfld x.port R.LNK_PORT_CTRL 2 1 = 0 then txInject x
  else if s.fld .boot 20 0 R.SEC_STATUS 3 3 = 1 then .skip
  else
    let q := s.port x.port
    match q.txAn.find? fun e => e.1 == x.sub with
    | some (_, an1) =>
      let key := saKey x.sub (an1 - 1) 0
      match q.sas.find? fun e => e.1 == key with
      | some (_, sa) =>
        if sa.last ≤ sa.pn then portTally x.port R.TX_PN_DROP 1
        else progs [
          onPort x.port fun y => { y with sas := sput y.sas key { sa with pn := sa.pn + 1 } },
          only (sa.pn + 1 = sa.alert) (progs [
            setPfld x.port R.LNK_PORT_STATUS (8 + x.sub) (8 + x.sub) 1,
            linkLog 0 0 x.port (x.sub * 4 + (an1 - 1))]),
          txInject { x with pn := sa.pn }]
      | none => .skip
    | none => .skip

/-! ### Rows of a port -/

/-- SA_KEY_WRITE (R417, R418): a key goes into the vault through a write-only register: channel 0 is the transmit channel, 1 + c receive channel c of
eight. A write of a transmit association with `use` set selects it. -/
def saKeyWriteProg (p sub chan an : Nat) (key : List Byte) (xpn : Bool) (pn alert : Nat) (use : Bool) : Prog := look fun s =>
  let k := saKey sub an chan
  let slot := 65536 + 1024 * p + k
  only (s.portOn p && chan ≤ 8) (progs [
    onAoc fun x => { x with vault := sset (fun _ => List.replicate 32 (0 : Byte)) x.vault slot ((key ++ List.replicate 32 0).take 32) },
    onPort p fun x => { x with
      sas := sput x.sas k ⟨slot, pn % 2 ^ (if xpn then 64 else 32), alert, xpn⟩
      txAn := if chan = 0 && use then sput x.txAn sub (an + 1) else x.txAn }])

/-- A write of LNK_PORT_CTRL (R415): MODE changes only while every EN bit is 0; a reserved one has no sub-ports (log 37). Clearing EN takes the link down and
discards a held frame (R453). -/
def portCtrlWrite (p v : Nat) : Prog := look fun s =>
  let o := s.preg p R.LNK_PORT_CTRL
  let mode := bits v 6 4
  let sec := bits v 2 1
  let err (b : Bool) : Nat := b2n (bitAt o 3 && !bitAt v 3 || b) * 8
  if mode ≠ bits o 6 4 && bits o 11 8 ≠ 0 then setPreg p R.LNK_PORT_CTRL (setBits o 3 3 1)
  else
    let off (i : Nat) : Bool := bitAt o (8 + i) && !bitAt v (8 + i)
    progs [
      setPreg p R.LNK_PORT_CTRL (bits v 11 8 * 256 + mode * 16 + err false + sec * 2),
      forAll ((List.range 4).filter off) fun i => progs [
        setPfld p R.LNK_PORT_STATUS i i 0,
        setPfld p R.LNK_PORT_STATUS (4 + i) (4 + i) 0,
        onPort p fun y => { y with held := y.held.filter fun h => h.2.sub ≠ i }]]

def lnkPortCtrlWriteProg (p v : Nat) : Prog := look fun s => only (s.portOn p) (portCtrlWrite p v)

/-- A write of LNK_PORT_STATUS: PN_ALERT is W1C. -/
def portStatusWrite (p v : Nat) : Prog := look fun s =>
  let o := s.preg p R.LNK_PORT_STATUS
  setPreg p R.LNK_PORT_STATUS (o - (o &&& (bits v 11 8 * 256)))

/-- Writes of the fault-injection registers (R452, R453): setting EN loads the LFSR from its seed, a seed of 0 as 1. -/
def fiWrite (p off v : Nat) : Prog := look fun s =>
  let dir := if off < fiReg 1 0 then 0 else 1
  let o := s.preg p off
  if s.fiLocked then .skip
  else if off = fiReg dir 0 then
    progs [
      setPreg p off (2 ^ 31 + bits v 12 8 * 256 + bits v 7 5 * 32 + bits v 2 0),
      only (bitAt v 0 && !bitAt o 0) (onPort p fun x => { x with
        lfsr := sset (fun _ => 1) x.lfsr dir (max 1 (s.preg p (fiReg dir 8))) })]
  else if off = fiReg dir 12 then .skip
  else setPreg p off (v % 2 ^ 32)

def lnkTallyClearProg (p : Nat) : Prog := look fun s => only (s.portOn p) (clearTallies .lnk (16 + p / 6) (p % 6) (offsets R.RX_FRAMES R.TX_PN_DROP))

/-- What a member kept for its bridge goes out once the link of its bridge queue pair is up (R451). -/
def flushKept : Prog := look fun s => only (s.role = 2 && s.qpLinkUp bridgeQp) (progs [
  forAll s.links.kept fun b => .upd (.send bridgeQp b),
  onLinks fun x => { x with kept := [] }])

/-- LINK_UP (R415): training of an enabled sub-port of the mode is done. -/
def linkUpProg (p sub : Nat) : Prog := look fun s =>
  only (s.portOn p && s.power.ref156 && sub < modeSubs (s.pfld p R.LNK_PORT_CTRL 6 4) && bitAt (s.preg p R.LNK_PORT_CTRL) (8 + sub)
    && !bitAt (s.preg p R.LNK_PORT_STATUS) sub) (progs [
      setPfld p R.LNK_PORT_STATUS sub sub 1,
      setPfld p R.LNK_PORT_STATUS (4 + sub) (4 + sub) 1,
      linkLog 0 0 p (2 ^ 8 + sub),
      flushKept])

/-- LINK_DOWN: a sub-port loses its link. -/
def linkDownProg (p sub : Nat) : Prog := look fun s =>
  only (s.subUp p sub) (progs [
    setPfld p R.LNK_PORT_STATUS sub sub 0,
    setPfld p R.LNK_PORT_STATUS (4 + sub) (4 + sub) 0,
    linkLog 0 0 p sub])

end Sys2Proof.Machine
end

