-- ==== Sys2Proof/Machine/ClsEntry.lean ====
section
/-! DEFINITION. Classifier entries (R39, R423 to R426, R428, R430) and the headers of received frames. -/

namespace Sys2Proof.Machine

/-- An entry of KIND 0. -/
def zeroEntry : List Byte := List.replicate 64 0

/-! ### Fields (R425) -/

def eKind (e : List Byte) : Nat := leAt e 0 1
def eFlag (e : List Byte) (i : Nat) : Bool := bitAt (leAt e 1 1) i
def eHome (e : List Byte) : Nat := leAt e 2 1 % 4
def eGen (e : List Byte) : Nat := leAt e 3 1
def eBand (e : List Byte) : Bool := eFlag e 5
def eTimeout (e : List Byte) : Nat := leAt e 6 2
def eFormat (e : List Byte) : Nat := leAt e 33 1
def eC420 (e : List Byte) : Bool := bitAt (eFormat e) 0
def eDepth10 (e : List Byte) : Bool := bitAt (eFormat e) 1
def eLayout (e : List Byte) : Nat := bits (eFormat e) 3 2
def eWidth (e : List Byte) : Nat := leAt e 34 2
def eHeight (e : List Byte) : Nat := leAt e 36 2
/-- PKTS_PER_BLOCK. -/
def ePkts (e : List Byte) : Nat := leAt e 36 2
def ePitchY (e : List Byte) : Nat := leAt e 44 4
def ePitchC (e : List Byte) : Nat := leAt e 48 4
def eRing (e : List Byte) : Nat := bits (leAt e 56 8) 45 0

/-- P of R430: bytes of one AUDIO_30 packet. -/
def eAudioLen (e : List Byte) : Nat :=
  let f := eFormat e
  (if bitAt f 5 then 6 else 48) * (f % 16 + 1) * (if bitAt f 4 then 3 else 2)

/-- The lock of an entry, form 1 or 2 (R425). -/
def Dev.entryLock (s : Dev) (die h : Nat) : Option LockId := if h / 16384 = 1 || h / 16384 = 2 then s.handleLock die 168 h else none
def Dev.eLock (s : Dev) (e : List Byte) : Option LockId := s.entryLock (leAt e 40 1 % 16) (leAt e 38 2)

/-- Rows of band `b` of a VIDEO_20 flow: the first, and how many. -/
def eRow0 (e : List Byte) (b : Nat) : Nat := if eBand e then 64 * b else 0
def eRows (e : List Byte) (b : Nat) : Nat := if eBand e then min 64 (eHeight e - 64 * b) else eHeight e
/-- Bands of a frame. -/
def eBands (e : List Byte) : Nat := if eBand e then ceilDiv (eHeight e) 64 else 1

/-- The bytes a block of R rows needs (R428). -/
def videoNeed (e : List Byte) (r : Nat) : Nat :=
  64 + r * ePitchY e + (if eLayout e = 0 then 0 else 2 * (if eC420 e then r / 2 else r) * ePitchC e)

/-- What a block must hold. -/
def eNeed (e : List Byte) : Nat :=
  if eKind e = 1 then videoNeed e (eRows e 0) else if eKind e = 2 then 64 + ePkts e * eAudioLen e else 64

/-- The bytes of a range are 0. -/
def zeroAt (b : List Byte) (o n : Nat) : Bool := (sliceBytes b o n).all fun x => x == 0

/-- R426: whether an entry may be written as it stands. -/
def Dev.entryOk (s : Dev) (e : List Byte) : Bool :=
  let k := eKind e
  let f := eFormat e
  let port (x : Nat) : Bool := x < 128 && x % 32 < 24
  k = 0 || (
    k ≤ 4 && leAt e 1 1 < 64 && leAt e 2 1 < 4 && port (leAt e 4 1) && port (leAt e 5 1) && 1 ≤ eTimeout e
      && leAt e 28 2 < 4096 && leAt e 30 2 < 4096 && leAt e 32 1 < 128 && leAt e 40 1 < 16
      && zeroAt e 41 3 && zeroAt e 52 4 && leAt e 56 8 < 2 ^ 46
      && ePitchY e % 64 = 0 && ePitchC e % 64 = 0 && (k = 1 || !eBand e)
      && (if k = 1 then f < 16 && eLayout e ≤ 2 && !(eLayout e = 2 && eDepth10 e) && 16 ≤ eWidth e && eWidth e ≤ 8192 && eWidth e % 2 = 0
            && 16 ≤ eHeight e && eHeight e ≤ 4352 && !(eC420 e && eHeight e % 2 = 1)
          else if k = 2 then f < 64 && 1 ≤ ePkts e && ePkts e ≤ 8000
          else f = 0)
      && (match s.eLock e with
        | some l => s.lockOn l && s.lockRing l && eNeed e ≤ s.lockBlockLen l
        | none => false))

/-! ### The banks -/

def Classifier.bank (c : Classifier) (b : Nat) : List (Nat × List Byte) := if b % 2 = 0 then c.bank0 else c.bank1
def Classifier.setBank (c : Classifier) (b : Nat) (l : List (Nat × List Byte)) : Classifier :=
  if b % 2 = 0 then { c with bank0 := l } else { c with bank1 := l }
def Classifier.entry (c : Classifier) (b e : Nat) : List Byte := sget (fun _ => zeroEntry) (c.bank b) e
/-- Packets in flight under a bank (R435). -/
def Classifier.users (c : Classifier) (b : Nat) : Nat := (c.flight.filter fun p => p.bank = b).length
/-- A slice has not yet adopted the flip. -/
def Classifier.flipping (c : Classifier) : Bool := c.adopted.any fun e => !(e == c.epoch)
def Classifier.flow (c : Classifier) (e : Nat) : Flow := sget (fun _ => Flow.reset) c.flows e

/-- R39, R436: whether an enabled entry of the active bank, or of a bank with packets in flight, names the store of cluster k. -/
def Dev.clsKeeps (s : Dev) (k : Nat) : Bool :=
  let c := s.links.cls
  let a := storeAddr (k / 168) (k % 168)
  let names (b : Nat) : Bool := (c.bank b).any fun e => eKind e.2 ≠ 0 && a ≤ eRing e.2 && eRing e.2 < a + 0x1000000
  names c.epoch || (c.users ((c.epoch + 1) % 2) ≠ 0 && names (c.epoch + 1))

/-- The entries of the active bank that feed a lock (R463). -/
def Dev.feeds (s : Dev) (l : LockId) : List (List Byte) :=
  ((s.links.cls.bank s.links.cls.epoch).map (·.2)).filter fun e => eKind e ≠ 0 && s.eLock e == some l

/-! ### Frames (R422, R424) -/

/-- What the headers of a frame say: VLAN tag (0x1000 for none), EtherType, and of an IPv4 datagram: ECN, protocol, whether it is a fragment,
addresses, and of a UDP datagram ports and payload. -/
structure NetHdr where
  vlan : Nat
  etype : Nat
  ipv4 : Bool
  ecn : Nat
  proto : Nat
  frag : Bool
  src : Nat
  dst : Nat
  sport : Nat
  dport : Nat
  payload : List Byte
  deriving DecidableEq, Repr

/-- Parses a frame. -/
def netHdr (b : List Byte) : NetHdr :=
  let tagged := beAt b 12 2 = 0x8100
  let o := if tagged then 18 else 14
  let et := beAt b (o - 2) 2
  let ip := et = 0x0800 && beAt b o 1 / 16 = 4
  let u := o + beAt b o 1 % 16 * 4
  let len := min (beAt b (u + 4) 2 - 8) (b.length - (u + 8))
  ⟨if tagged then beAt b 14 2 % 4096 else 0x1000, et, ip, beAt b (o + 1) 1 % 4, beAt b (o + 9) 1, beAt b (o + 6) 2 % 16384 ≠ 0,
    beAt b (o + 12) 4, beAt b (o + 16) 4, beAt b u 2, beAt b (u + 2) 2, sliceBytes b (u + 8) len⟩

/-- Whether one key of an entry matches (R424); `leg` is 0 for key A, 1 for key B. -/
def keyMatch (e : List Byte) (leg p sub : Nat) (n : NetHdr) (valid : Bool) : Bool :=
  leAt e (4 + leg) 1 = p + 32 * sub && leAt e (8 + 4 * leg) 4 = n.dst && leAt e (24 + 2 * leg) 2 = n.dport
    && (!eFlag e 1 || leAt e (16 + 4 * leg) 4 = n.src)
    && (if eFlag e 2 then leAt e (28 + 2 * leg) 2 = n.vlan else n.vlan = 0x1000)
    && (!eFlag e 3 || beAt n.payload 1 1 % 128 = leAt e 32 1)
    && (!eFlag e 4 || valid)

/-- The leg by which an entry matches a packet. -/
def entryMatch (e : List Byte) (p sub : Nat) (n : NetHdr) (valid : Bool) : Option Nat :=
  if eKind e = 0 then none
  else if keyMatch e 0 p sub n valid then some 0
  else if eFlag e 0 && keyMatch e 1 p sub n valid then some 1
  else none

/-- CLASSIFY (R424): the match of lowest index: index, entry, leg. -/
def classify (bank : List (Nat × List Byte)) (p sub : Nat) (n : NetHdr) (valid : Bool) : Option (Nat × List Byte × Nat) :=
  bank.findSome? fun x => match entryMatch x.2 p sub n valid with | some leg => some (x.1, x.2, leg) | none => none

end Sys2Proof.Machine
end

