-- ==== Sys2Proof/Machine/Placement.lean ====
section
/-! DEFINITION. How packets of ingress flows fill the blocks of their rings (R40, R41, R427 to R433, R436, R454). -/

namespace Sys2Proof.Machine

def onCls (f : Classifier → Classifier) : Prog := onLinks fun x => { x with cls := f x.cls }
def onFlow (e : Nat) (f : Flow → Flow) : Prog := onCls fun c => { c with flows := sset (fun _ => Flow.reset) c.flows e (f (c.flow e)) }
def Dev.flow (s : Dev) (e : Nat) : Flow := s.links.cls.flow e

/-- A link die writes at a DPA: in a stack in RETAIN the bytes land once it has woken (R498), which is asked for. -/
def ringWrite (a : Nat) (b : List Byte) : Prog := look fun s =>
  match s.reachRange a b.length with
  | .ok => memWrite a b false
  | .wait => progs [wantStacks a b.length, memWrite a b false]
  | .bounds => .skip

/-! ### Blocks (R427, R433) -/

/-- FLAGS of a block header. -/
def hfIncomplete : Nat := 1
def hfNoMarker : Nat := 8
def hfTimeout : Nat := 16
def hfStepped : Nat := 32

/-- The number that a flow's packets had missing in a block (R427): for AUDIO_30 its slots not delivered, else those between its lowest and
its highest. -/
def OpenBlk.lost (o : OpenBlk) : Nat :=
  if eKind o.entry = 2 then ePkts o.entry - o.packets
  else if o.packets = 0 then 0 else o.lastSeq - o.lowSeq + 1 - o.packets

/-- The header of a block. -/
def blkHeader (seq flow : Nat) (o : OpenBlk) (flags : Nat) : List Byte :=
  let k := eKind o.entry
  leBytes 8 seq ++ leBytes 4 o.rtpTs ++ leBytes 4 o.firstSeq ++ leBytes 8 o.timeFirst ++ leBytes 8 o.timeLast ++ leBytes 4 o.packets
    ++ leBytes 4 o.lost ++ leBytes 2 (if k = 1 then o.row0 else 0) ++ leBytes 2 (if k = 1 then o.rows else 0) ++ leBytes 1 flags
    ++ leBytes 3 0 ++ leBytes 4 (if k = 3 || k = 4 then o.bytes else 0) ++ leBytes 2 flow ++ leBytes 2 0 ++ leBytes 8 0

/-- The band of an open block; for AUDIO_30, whose blocks have no rows, `row0` holds the number b of R430. -/
def OpenBlk.band (o : OpenBlk) : Nat := if eBand o.entry then o.row0 / 64 else if eKind o.entry = 2 then o.row0 else 0

/-- BLOCK_COMMIT (R429): the open block gets its header and is committed; one that the ring had no room for only advances BLOCK_SEQ (R433). -/
def commitOpen (e extra : Nat) : Prog := look fun s =>
  let f := s.flow e
  match f.cur with
  | none => .skip
  | some o =>
    let rowsLeft := eKind o.entry = 1 && (List.range o.rows).any (fun i => !o.wrote.contains (o.row0 + i))
    let inc := o.lost ≠ 0 || rowsLeft || extra % 2 = 1
    let flags := b2n inc + o.legs * 2 + (extra ||| o.flags) / 8 * 8
    progs [
      only (!o.isOver) (progs [
        only (eKind o.entry = 2) (forAll ((List.range (ePkts o.entry)).filter fun i => !o.wrote.contains i) fun i =>
          ringWrite (o.base + 64 + i * eAudioLen o.entry) (List.replicate (eAudioLen o.entry) 0)),
        ringWrite o.base (blkHeader f.seq e o flags),
        commitBlk o.lock o.blk]),
      onFlow e fun f => { f with
        seq := f.seq + 1
        lost := if o.isOver then f.lost else satAdd f.lost o.lost
        cur := none
        doneTs := some o.rtpTs
        doneBand := o.band + 1 }]

/-- Takes the flow's next block (R40, R433) for packets of time stamp `ts`, number `q`: from the ring that the bank in force names (R436). -/
def openBlk (e : Nat) (entry : List Byte) (ts band q time : Nat) : Prog := look fun s =>
  let now := s.links.cls.entry s.links.cls.epoch e
  let en := if eKind now = 0 then entry else now
  let o (l : LockId) (blk base : Nat) (isOver : Bool) : OpenBlk :=
    ⟨l, blk, base, isOver, en, ts, q % 2 ^ 32, q, q, time, time, 0, eRow0 en band, eRows en band, [], 0, 0, 0⟩
  let put (x : OpenBlk) : Prog := onFlow e fun f => { f with cur := some x }
  match s.eLock en with
  | some l =>
    if s.lockOn l then
      match s.canProduce l with
      | some idx => progs [
          takeBlock l idx 0,
          look fun s => put (o l ((s.lock l).seq - 1) (eRing en + idx * s.lockBlockLen l) false)]
      | none => put (o l 0 0 true)
    else put (o l 0 0 true)
  | none => put (o (dieLock 0 0) 0 0 true)

/-- A band that no packet reached is committed with its header alone (R429); the numbers and times of packets it has none of are free values. -/
def skipBand (e : Nat) (entry : List Byte) (ts band : Nat) : Prog := withFree fun q => withFree fun t => progs [
  openBlk e entry ts band q t,
  onFlow e fun f => { f with cur := f.cur.map fun o => { o with timeLast := t } },
  commitOpen e hfIncomplete]

def skipBands (e : Nat) (entry : List Byte) (ts lo hi : Nat) : Prog := forAll (List.range (hi - lo)) fun i => skipBand e entry ts (lo + i)

/-- A new time stamp ends the frame (R429): the open block is committed with NO_MARKER, and under BAND its remaining bands as skipped. -/
def closeFrame (e : Nat) (entry : List Byte) : Prog := progs [
  commitOpen e hfNoMarker,
  look fun s => match (s.flow e).doneTs with
    | some ts => only (eBand entry) (skipBands e entry ts (s.flow e).doneBand (eBands entry))
    | none => .skip]

/-- Counts a packet against its flow. -/
def flowLate (e : Nat) : Prog := onFlow e fun f => { f with late := satAdd f.late 1 }
def flowBad (e : Nat) : Prog := onFlow e fun f => { f with malformed := satAdd f.malformed 1 }
def flowOver (e : Nat) : Prog := onFlow e fun f => { f with overrun := satAdd f.overrun 1 }

/-- Notes a placed packet in the open block. -/
def noteInBlock (e q leg time : Nat) : Prog := onFlow e fun f => { f with
  cur := f.cur.map fun o => { o with
    packets := o.packets + 1
    firstSeq := if o.packets = 0 then q % 2 ^ 32 else o.firstSeq
    lowSeq := if o.packets = 0 then q else min o.lowSeq q
    lastSeq := if o.packets = 0 then q else max o.lastSeq q
    timeFirst := if o.packets = 0 then time else o.timeFirst
    timeLast := time
    legs := o.legs ||| 2 ^ leg } }
/-- Notes a placed packet in the open block and its flow. -/
def notePacket (e q leg time : Nat) : Prog := progs [onFlow e fun f => { f with packets := satAdd f.packets 1 }, noteInBlock e q leg time]

/-! ### VIDEO_20 (R428) -/

/-- A sample row data header: row, pixel offset, bytes, and where its data starts in the payload. -/
structure Srd where
  row : Nat
  off : Nat
  len : Nat
  at_ : Nat
  deriving DecidableEq, Repr

/-- The headers of a payload, up to three; `o` is where the next one stands. -/
def srdHeads (b : List Byte) : Nat → Nat → List (Nat × Nat × Nat × Bool)
  | 0, _ => []
  | n + 1, o =>
    let h := (beAt b o 2, beAt b (o + 2) 2 % 32768, beAt b (o + 4) 2 % 32768, bitAt (beAt b (o + 4) 1) 7)
    if h.2.2.2 then h :: srdHeads b n (o + 6) else [h]

/-- The segments of a payload. -/
def srds (b : List Byte) : List Srd :=
  let h := srdHeads b 3 2
  (h.foldl (fun (a : List Srd × Nat) x => (a.1 ++ [⟨x.2.1, x.2.2.1, x.1, a.2⟩], a.2 + x.1)) ([], 2 + 6 * h.length)).1

/-- A pixel group (ST 2110-20): bytes, pixels across, rows. -/
def pgroup (e : List Byte) : Nat × Nat × Nat :=
  if eC420 e then (if eDepth10 e then (15, 4, 2) else (6, 2, 2)) else if eDepth10 e then (5, 2, 1) else (4, 2, 1)

/-- Whether a payload breaks a rule of R428. -/
def videoBad (e b : List Byte) : Bool :=
  let g := pgroup e
  let l := srds b
  (srdHeads b 3 2).getLast?.any (fun h => h.2.2.2) || l.any fun x =>
    x.len % g.1 ≠ 0 || x.off % g.2.1 ≠ 0 || eHeight e < x.row + g.2.2 || (g.2.2 = 2 && x.row % 2 = 1)
      || eWidth e < x.off + x.len / g.1 * g.2.1 || b.length < x.at_ + x.len

/-- The samples of a pixel group at column x of row y (ST 2110-20 order): plane (0 Y, 1 Cb, 2 Cr), column and row in that plane. -/
def groupSamples (e : List Byte) (x y : Nat) : List (Nat × Nat × Nat) :=
  let quad (x : Nat) : List (Nat × Nat × Nat) :=
    [(0, x, y), (0, x + 1, y), (0, x, y + 1), (0, x + 1, y + 1), (1, x / 2, y / 2), (2, x / 2, y / 2)]
  if eC420 e then (if eDepth10 e then quad x ++ quad (x + 2) else quad x)
  else [(1, x / 2, y), (0, x, y), (2, x / 2, y), (0, x + 1, y)]

/-- The offset of a sample in its block. -/
def sampleOff (o : OpenBlk) (plane x y : Nat) : Nat :=
  let e := o.entry
  let sz := if eLayout e = 1 then 2 else 1
  let r0c := if eC420 e then o.row0 / 2 else o.row0
  let rc := if eC420 e then o.rows / 2 else o.rows
  if plane = 0 then 64 + (y - o.row0) * ePitchY e + x * sz
  else 64 + o.rows * ePitchY e + (plane - 1) * rc * ePitchC e + (y - r0c) * ePitchC e + x * sz

/-- Writes one segment into the open block. -/
def placeSrd (e : Nat) (b : List Byte) (x : Srd) : Prog := look fun s =>
  match (s.flow e).cur with
  | none => .skip
  | some o =>
    let en := o.entry
    let g := pgroup en
    let data := sliceBytes b x.at_ x.len
    let d := if eDepth10 en then 10 else 8
    let sz := if eLayout en = 1 then 2 else 1
    progs [
      if eLayout en = 0 then ringWrite (o.base + 64 + (x.row - o.row0) * ePitchY en + x.off / g.2.1 * g.1) data
      else forAll (List.range (x.len / g.1)) fun i =>
        let v := beAt data (i * g.1) g.1
        forAll ((groupSamples en (x.off + i * g.2.1) x.row).zipIdx) fun q =>
          ringWrite (o.base + sampleOff o q.1.1 q.1.2.1 q.1.2.2) (leBytes sz (v / 2 ^ (8 * g.1 - (q.2 + 1) * d) % 2 ^ d)),
      onFlow e fun f => { f with cur := f.cur.map fun o => { o with
        wrote := (List.range g.2.2).foldl (fun w i => nadd w (x.row + i)) o.wrote } }]

/-- The open block becomes the one of a band of the frame `ts`: a later band commits it, and each band skipped on the way (R429). -/
def reachBand (e : Nat) (entry : List Byte) (ts band q time : Nat) : Prog := look fun s =>
  let f := s.flow e
  if (match f.cur with | some o => o.band == band | none => false) then .skip
  else progs [
    commitOpen e 0,
    look fun s =>
      let f := s.flow e
      skipBands e entry ts (if f.doneTs = some ts then f.doneBand else 0) band,
    openBlk e entry ts band q time]

/-- Whether the open block takes no packet: its ring had no room. -/
def Flow.isOver (f : Flow) : Bool := match f.cur with | some o => o.isOver | none => true

/-- Whether one of the blocks that a packet is meant for has no room (R40, R433): of those of its bands, taken in turn. -/
def Dev.anyOver (s : Dev) (e : Nat) (entry : List Byte) (ts q time : Nat) : List Nat → Bool
  | [] => false
  | b :: r =>
    let t := (reachBand e entry ts b q time).run s
    (t.flow e).isOver || t.anyOver e entry ts q time r

/-- Places a VIDEO_20 packet. One whose row headers lie in several bands is placed in the block of each; if any of them has no room the whole packet
is dropped and counted (R40, R433). DEDUCED (log 40): such a packet counts in the header of each of its blocks and once for its flow. -/
def placeVideo (e : Nat) (entry b : List Byte) (ts q leg time : Nat) (marker : Bool) : Prog := look fun s =>
  let f := s.flow e
  let l := srds b
  let band (x : Srd) : Nat := if eBand entry then x.row / 64 else 0
  let b0 := match l with | x :: _ => band x | [] => 0
  let fresh := match f.cur with | some o => o.rtpTs ≠ ts | none => f.doneTs ≠ some ts
  if f.doneTs = some ts && b0 < f.doneBand then flowLate e
  else progs [
    only fresh (closeFrame e entry),
    reachBand e entry ts b0 q time,
    look fun s =>
      let drop := s.anyOver e entry ts q time (b0 :: (l.map band).filter fun n => b0 < n)
      progs [
        if drop then flowOver e else notePacket e q leg time,
        forAll l fun x => progs [
          look fun s => only (match (s.flow e).cur with | some o => o.band < band x | none => false)
            (progs [reachBand e entry ts (band x) q time, only (!drop) (noteInBlock e q leg time)]),
          look fun s => only (!drop && (match (s.flow e).cur with | some o => o.band == band x | none => false)) (placeSrd e b x)]],
    only marker (progs [commitOpen e 0, onFlow e fun f => { f with doneBand := eBands entry }])]

/-! ### The other kinds (R430, R431) -/

/-- Places an AUDIO_30 packet. -/
def placeAudio (e : Nat) (entry b : List Byte) (ts q leg time : Nat) : Prog := look fun s =>
  let f := s.flow e
  let base := f.audio.getD q
  let n := ePkts entry
  let blk := (q - base) / n
  let slot := (q - base) % n
  let now := match f.cur with | some o => o.row0 | none => f.doneBand
  if q < base || (f.cur.isNone && f.doneTs.isSome && blk < f.doneBand) || (f.cur.isSome && blk < now) then flowLate e
  else progs [
    only f.audio.isNone (onFlow e fun f => { f with audio := some q }),
    only (f.cur.isNone || now < blk) (progs [
      commitOpen e 0,
      openBlk e entry ts 0 q time,
      onFlow e fun f => { f with cur := f.cur.map fun o => { o with row0 := blk } }]),
    look fun s => if (s.flow e).isOver then flowOver e
      else match (s.flow e).cur with
        | some o => progs [
            notePacket e q leg time,
            ringWrite (o.base + 64 + slot * eAudioLen o.entry) b,
            onFlow e fun f => { f with cur := f.cur.map fun o => { o with wrote := nadd o.wrote slot } }]
        | none => .skip,
    only (slot + 1 = n) (commitOpen e 0)]

/-- Appends a record of an ANC_40 or RTP_RAW flow. -/
def placeRecord (e : Nat) (entry b : List Byte) (ts q leg time : Nat) (marker : Bool) : Prog := look fun s =>
  let len := roundUp (16 + b.length) 8
  let rec_ := leBytes 4 q ++ leBytes 4 ts ++ leBytes 2 b.length ++ leBytes 2 0 ++ leBytes 4 time ++ b ++ List.replicate (len - 16 - b.length) 0
  let room (s : Dev) (o : OpenBlk) : Bool := o.isOver || 64 + o.bytes + len ≤ s.lockBlockLen o.lock
  progs [
    only (match (s.flow e).cur with | some o => !room s o | none => false) (commitOpen e 0),
    look fun s => only (s.flow e).cur.isNone (openBlk e entry ts 0 q time),
    look fun s => match (s.flow e).cur with
      | some o =>
        if o.isOver then flowOver e
        else if !room s o then flowBad e
        else progs [
          notePacket e q leg time,
          ringWrite (o.base + 64 + o.bytes) rec_,
          onFlow e fun f => { f with cur := f.cur.map fun o => { o with bytes := o.bytes + len } }]
      | none => .skip,
    only marker (commitOpen e 0)]

/-! ### PACKET_PLACE -/

/-- Bytes of the RTP header: CSRCs and the extension included. -/
def rtpHead (b : List Byte) : Nat :=
  let n := 12 + 4 * (beAt b 0 1 % 16)
  if beAt b 0 1 / 16 % 2 = 1 then n + 4 + 4 * beAt b (n + 2) 2 else n

/-- The RTP payload, without padding. -/
def rtpPayload (b : List Byte) : List Byte :=
  let p := b.drop (rtpHead b)
  if beAt b 0 1 / 32 % 2 = 1 then p.take (p.length - beAt b (b.length - 1) 1) else p

/-- The number of a packet (R432), counted without wrapping. -/
def flowNumber (f : Flow) (kind : Nat) (b : List Byte) : Nat :=
  let w := if kind = 1 then 32 else 16
  let raw := (if kind = 1 then beAt (rtpPayload b) 0 2 * 65536 else 0) + beAt b 2 2
  if f.started then ((f.high : Int) + sext w ((raw + 2 ^ w - f.high % 2 ^ w) % 2 ^ w)).toNat else raw + 2 ^ 32

/-- The open block is committed and the state is reset (R436). -/
def restartFlow (e gen : Nat) : Prog := progs [commitOpen e 0, onFlow e fun _ => { Flow.reset with gen := gen }]

/-- A packet at its flow's HOME (R432). -/
def placePacket (x : Packet) : Prog := progs [
  look fun s => only ((s.flow x.flow).started && (s.flow x.flow).gen ≠ eGen x.entry && x.bank = s.links.cls.epoch % 2)
    (restartFlow x.flow (eGen x.entry)),
  look fun s =>
    let e := x.flow
    let f := s.flow e
    let k := eKind x.entry
    let q := flowNumber f k x.rtp
    let pay := rtpPayload x.rtp
    let ts := beAt x.rtp 4 4
    let marker := 128 ≤ beAt x.rtp 1 1
    let bad := x.rtp.length < 12 || x.rtp.length < rtpHead x.rtp || (k = 1 && videoBad x.entry pay) || (k = 2 && pay.length ≠ eAudioLen x.entry)
    progs [
      onFlow e fun f => { f with lastAt := s.clock },
      if f.started && q + 4096 ≤ f.high then flowLate e
      else if f.seen.contains q then onFlow e fun f => { f with dup := satAdd f.dup 1 }
      else if bad then flowBad e
      else progs [
        onFlow e fun f =>
          let h := max f.high q
          { f with
            started := true
            gen := if f.started then f.gen else eGen x.entry
            high := h
            seen := (nadd f.seen q).filter fun y => h < y + 4096 },
        if k = 1 then placeVideo e x.entry pay ts q x.leg x.time marker
        else if k = 2 then placeAudio e x.entry pay ts q x.leg x.time
        else placeRecord e x.entry (if k = 3 then pay else x.rtp) ts q x.leg x.time marker]]]

/-- PACKET_PLACE: the packet in flight with this index reaches its HOME and is written. -/
def packetPlaceProg (i : Nat) : Prog := look fun s =>
  match s.links.cls.flight[i]? with
  | some x => progs [placePacket x, onCls fun c => { c with flight := c.flight.eraseIdx i }]
  | none => .skip

/-- FLOW_TIMEOUT (R429 to R431): no packet of the flow has come for TIMEOUT_US. -/
def flowTimeoutProg (e : Nat) : Prog := look fun s =>
  match (s.flow e).cur with
  | some o => progs [.upd (.time ((s.flow e).lastAt + 1000 * eTimeout o.entry - s.clock)), commitOpen e hfTimeout]
  | none => .skip

/-- Device time is stepped: every open block carries STEPPED (R454). -/
def steppedBlocks : Prog := onCls fun c => { c with flows := c.flows.map fun f =>
  (f.1, { f.2 with cur := f.2.cur.map fun o => { o with flags := o.flags ||| hfStepped } }) }

end Sys2Proof.Machine
end

