-- ==== Sys2Proof/Machine/Classifier.lean ====
section
/-! DEFINITION. The classifier's live reload (R434 to R436) and the reception of frames (R415 to R418, R422 to R424, R452). -/

namespace Sys2Proof.Machine

/-! ### Live reload -/

def clsReg (s : Dev) (off : Nat) : Nat := s.reg .ld0 16 0 off

/-- CLS_STATUS as read. -/
def Dev.clsStatus (s : Dev) : Nat :=
  let c := s.links.cls
  c.epoch * 65536 + bits (clsReg s R.CLS_STATUS) 4 3 * 8 + b2n c.flipping * 4 + b2n (c.users ((c.epoch + 1) % 2) ≠ 0) * 2 + b2n c.running.isSome

def clsErr : Prog := setFld .ld0 16 0 R.CLS_STATUS 4 4 1

/-- CLS_CTRL.OP (R434): 1 COPY, 2 LOAD, 3 FLIP. -/
def clsOp (op : Nat) : Prog := look fun s =>
  let c := s.links.cls
  let busy := c.running.isSome || c.flipping
  let first := bits (clsReg s R.CLS_LOAD_FIRST) 15 0
  let count := bits (clsReg s R.CLS_LOAD_COUNT) 16 0
  let src := bits (clsReg s R.CLS_LOAD_SRC_LO) 31 6 * 64 + bits (clsReg s R.CLS_LOAD_SRC_HI) 13 0 * 2 ^ 32
  if op = 0 then .skip
  else if busy || (op ≠ 3 && c.users ((c.epoch + 1) % 2) ≠ 0) || (op = 2 && (count = 0 || 65536 < first + count)) then clsErr
  else if op = 3 then onCls fun c => { c with epoch := (c.epoch + 1) % 65536 }
  else onCls fun c => { c with running := some ⟨op, first, count, src⟩ }

def clsCopyProg : Prog := clsOp 1
def clsLoadProg : Prog := clsOp 2
def clsFlipProg : Prog := clsOp 3

/-- The entries of a LOAD, checked (R426): index and bytes, an invalid one with KIND 0, and the indices of those. -/
def Dev.loadEntries (s : Dev) (x : ClsOp) : List (Nat × List Byte) × List Nat :=
  let l := (List.range x.count).map fun i => (x.first + i, s.bytesAt (x.src + 64 * i) 64)
  let bad := (l.filter fun e => !s.entryOk e.2).map (·.1)
  (l.map fun e => if bad.contains e.1 then (e.1, 0 :: e.2.drop 1) else e, bad)

/-- CLS_OP_DONE (R434): the running operation ends, one fabric cycle an entry after it began. -/
def clsOpDoneProg : Prog := look fun s =>
  let c := s.links.cls
  let other := (c.epoch + 1) % 2
  match c.running with
  | none => .skip
  | some x =>
    if x.op = 1 then progs [
      .upd (.time 54614),
      onCls fun c => { c.setBank other (c.bank c.epoch) with running := none }]
    else match s.reachRange x.src (64 * x.count) with
      | .wait => wantStacks x.src (64 * x.count)
      | .bounds => progs [clsErr, onCls fun c => { c with running := none }]
      | .ok =>
        if s.readBad x.src (64 * x.count) then progs [memTouch x.src (64 * x.count), clsErr, onCls fun c => { c with running := none }]
        else
          let r := s.loadEntries x
          progs [
            .upd (.time (ceilDiv (x.count * 5) 6)),
            memTouch x.src (64 * x.count),
            onCls fun c => { c.setBank other (r.1.foldl (fun b e => sset (fun _ => zeroEntry) b e.1 e.2) (c.bank other)) with running := none },
            only (!r.2.isEmpty) (progs [
              setReg .ld0 16 0 R.CLS_BAD (min 65535 r.2.length * 65536 + r.2.headD 0),
              setFld .ld0 16 0 R.CLS_STATUS 3 3 1])]

/-- What a flip does to the flows (R436). -/
def flipFlows : Prog := look fun s =>
  forAll s.links.cls.flows fun f =>
    let e := s.links.cls.entry s.links.cls.epoch f.1
    if eKind e = 0 then commitOpen f.1 hfIncomplete
    else only (f.2.started && f.2.gen ≠ eGen e) (restartFlow f.1 (eGen e))

/-- CLS_FLIP_ADOPT (R434, R435): slice h, that of a link-die half, adopts the flip. -/
def clsFlipAdoptProg (h : Nat) : Prog := look fun s =>
  let c := s.links.cls
  only (c.adopted.getD h c.epoch ≠ c.epoch) (progs [
    onCls fun c => { c with adopted := c.adopted.set h c.epoch },
    look fun s => only (!s.links.cls.flipping) flipFlows])

/-! ### Reception -/

/-- Whether a sub-port takes part in PTP (R420), and through which setting: 0 A, 1 B. -/
def Dev.ptpSide (s : Dev) (p sub : Nat) : Option Nat :=
  let r := clsReg s R.PTP_PORTS
  if s.fld .ld0 16 0 R.PTP_CTRL 8 8 = 0 then none
  else if bitAt r 7 && bits r 6 0 = p + 32 * sub then some 0
  else if bitAt r 15 && bits r 14 8 = p + 32 * sub then some 1
  else none

/-- The operation of a RoCE packet. -/
def bOp (b : List Byte) : Nat := beAt b 0 1

/-- The kind of an operation: 0 SEND, 1 WRITE, 2 READ request, 3 atomic, 4 acknowledgement, 5 CNP; 9 any other. -/
def opKind (op : Nat) : Nat :=
  if op ≤ 5 then 0 else if op ≤ 0x0B then 1 else if op = 0x0C then 2 else if op = 0x13 || op = 0x14 then 3 else if op = 0x11 then 4
  else if op = 0x81 then 5 else 9

/-- A frame that has passed the MAC and MACsec goes to its destination (R422). A RoCE packet with a wrong ICRC, or of an operation the device does not
serve (R441), is dropped. -/
def routeFrame (p sub : Nat) (f : RxFrame) : Prog := look fun s =>
  let n := netHdr f.bytes
  let udp := n.ipv4 && !n.frag && n.proto = 17
  let bank := s.links.cls.adopted.getD (p / 3) 0 % 2
  if udp && n.dport = 4791 then onLinks fun x => { x with
    roce := x.roce ++ (if f.icrcOk && opKind (bOp n.payload) ≠ 9 then [⟨p / 6, 4 * p + sub, n.src, n.payload.take (n.payload.length - 4), n.ecn = 3⟩] else []) }
  else if udp && (n.dport = 319 || n.dport = 320) then
    match s.ptpSide p sub with
    | some side => onLinks fun x => { x with ptpIn := x.ptpIn ++ [(side, f.time, n.payload)] }
    | none => portTally p R.RX_UNMATCHED 1
  else if n.etype = 0x0806 || (n.ipv4 && (n.proto = 1 || n.proto = 2)) then
    if f.excess then portTally p R.RX_EXCEPTION_DROP 1 else onLinks fun x => { x with exceptions := x.exceptions ++ [(4 * p + sub, f.bytes)] }
  else if udp then
    match classify (s.links.cls.bank bank) p sub n (f.macsec = 1) with
    | some (e, entry, leg) => onCls fun c => { c with flight := c.flight ++ [⟨e, bank, entry, leg, n.payload, f.time⟩] }
    | none => portTally p R.RX_UNMATCHED 1
  else portTally p R.RX_UNMATCHED 1

/-- MACsec on receive (R417, R418). Once a class C alarm has erased the keys a port with MACsec on drops every frame. -/
def rxMacsec (p sub : Nat) (f : RxFrame) : Prog := look fun s =>
  let mode := s.pfld p R.LNK_PORT_CTRL 2 1
  let chan := (s.port p).sas.any fun x => x.1 / 64 = sub && x.1 % 16 ≠ 0
  if mode ≠ 0 && s.fld .boot 20 0 R.SEC_STATUS 3 3 = 1 then portTally p R.MACSEC_DROP 1
  else if mode = 1 && !(f.macsec = 1 && chan) then portTally p R.MACSEC_DROP 1
  else if mode = 0 && f.macsec ≠ 0 then portTally p R.RX_UNMATCHED 1
  else progs [portTally p R.RX_FRAMES 1, routeFrame p sub { f with macsec := if mode = 1 then 1 else 0 }]

/-- A frame after the FCS check. -/
def rxInject (p sub : Nat) (f : RxFrame) (fcsOk : Bool) : Prog := fiStep p 1 sub f.bytes.length fun act =>
  match act with
  | .pass => if fcsOk then rxMacsec p sub f else portTally p R.RX_FCS_ERR 1
  | .drop => .skip
  | .flip bit early =>
    if early || !fcsOk then portTally p R.RX_FCS_ERR 1
    else rxMacsec p sub { f with bytes := flipBit f.bytes bit, icrcOk := false, macsec := if f.macsec = 0 then 0 else 2 }
  | .hold => if fcsOk then fiHold p 1 fun d t => ⟨some f, none, sub, d, t⟩ else portTally p R.RX_FCS_ERR 1

/-- FRAME_RECEIVE (R422): a frame arrives at a sub-port that is up. What the optics and the peer decide comes with it: codewords the FEC corrected
and could not correct, whether the FCS is right, and whether it exceeds the rate of R416. -/
def frameReceiveProg (p sub corr uncorr : Nat) (fcsOk overRate : Bool) (f : RxFrame) : Prog := look fun s =>
  if !s.subUp p sub then .skip
  else progs [
    portTally p R.RX_FEC_CORR corr,
    portTally p R.RX_FEC_UNCORR uncorr,
    if 9216 < f.bytes.length + 4 then portTally p R.RX_OVERSIZE 1
    else if f.bytes.length + 4 < 64 then .skip
    else if overRate then portTally p R.RX_OVERRATE 1
    else rxInject p sub { f with time := s.time } (fcsOk && uncorr = 0)]

/-- FI_REORDER_RELEASE (R452): the held frame of a direction goes on once its later frames have passed, or 100 µs after it was held. -/
def fiReorderReleaseProg (p dir : Nat) : Prog := look fun s =>
  match (s.port p).held.find? fun h => h.1 == dir with
  | some (_, h) => progs [
      only (h.left ≠ 0) (.upd (.time (h.since + 100000 - s.clock))),
      onPort p fun x => { x with held := x.held.filter fun y => !(y.1 == dir) },
      match h.rx, h.tx with
      | some f, _ => rxMacsec p h.sub f
      | none, some x => emit x
      | none, none => .skip]
  | none => .skip

end Sys2Proof.Machine
end

