-- ==== Sys2Proof/Machine/Egress.lean ====
section
/-! DEFINITION. Egress media (R437 to R440): the entries, and how a block becomes packets. -/

namespace Sys2Proof.Machine

/-- Egress flow i of link die n has number 1024 n + i. -/
def egNo (n i : Nat) : Nat := 1024 * n + i
def Dev.eg (s : Dev) (g : Nat) : Egress := sget (fun _ => Egress.reset) s.links.egress g
def onEg (g : Nat) (f : Egress → Egress) : Prog := onLinks fun x => { x with
  egress := sset (fun _ => Egress.reset) x.egress g (f (sget (fun _ => Egress.reset) x.egress g)) }

/-! ### Entries (R437) -/

def gFlag (e : List Byte) (i : Nat) : Bool := bitAt (leAt e 1 1) i
def gMax (e : List Byte) : Nat := leAt e 30 2
def Dev.gLock (s : Dev) (e : List Byte) : Option LockId := s.entryLock (leAt e 38 1 % 16) (leAt e 36 2)
/-- An egress entry's format fields, laid out as those of R425: kind, format, width, height, pitches. -/
def gAsEntry (e : List Byte) : List Byte :=
  leBytes 1 (leAt e 0 1) ++ List.replicate 32 0 ++ leBytes 1 (leAt e 44 1) ++ leBytes 2 (leAt e 46 2) ++ leBytes 2 (leAt e 48 2)
    ++ List.replicate 6 0 ++ leBytes 4 (leAt e 52 4) ++ leBytes 4 (leAt e 56 4) ++ List.replicate 12 0

/-- A write of bytes of an entry: one that changes an entry whose KIND is not 0 is ignored and sets ERR, unless it sets KIND to 0. A flow that
starts takes SEQ_BASE. -/
def egressWrite (g off : Nat) (b : List Byte) : Prog := look fun s =>
  let old := (s.eg g).entry
  let new := patchBytes old off b
  if leAt old 0 1 = 0 then onEg g fun x => { x with
    entry := new
    next := leAt new 40 4
    started := leAt new 0 1 ≠ 0
    hist := [] }
  else if new = old then .skip
  else if leAt new 0 1 = 0 then onEg g fun _ => { Egress.reset with entry := new }
  else clsErr

def egressEntryWriteProg (n i off : Nat) (b : List Byte) : Prog := look fun s =>
  only (s.domOn (96 + 2 * n) || s.domOn (97 + 2 * n)) (egressWrite (egNo n i) off b)

/-! ### Where a block lies -/

/-- The DPA behind a virtual address of a lock's ring, by the page table (R34, R310). -/
def Dev.leafDpa (s : Dev) (va access : Nat) : Option Nat :=
  match s.walk va access with
  | .leaf e => some (e.target va)
  | _ => none

/-- `n` bytes at a virtual address, page by page; none where a page does not map or does not answer. -/
def Dev.ldBytes (s : Dev) (va n : Nat) : Option (List Byte) :=
  (pagePieces va n).foldl (fun a q =>
    match a, s.leafDpa q.1 accRead with
    | some l, some d => if s.reachRange d q.2 == .bounds || s.readBad d q.2 then none else some (l ++ s.bytesAt d q.2)
    | _, _ => none) (some [])

/-! ### Packets (R438) -/

/-- Cuts the pixel groups of a frame, `per` groups a row, into packets: at most `c1` groups under one row header, `c2` under two; (row, first group,
groups) of each segment, from group `at_` on. -/
def segments (per c1 c2 : Nat) : Nat → Nat → Nat → List (List (Nat × Nat × Nat))
  | 0, _, _ => []
  | fuel + 1, at_, total =>
    if total ≤ at_ then []
    else
      let row := at_ / per
      let x := at_ % per
      let rest := min (per - x) (total - at_)
      if c1 ≤ rest then [(row, x, max 1 c1)] :: segments per c1 c2 fuel (at_ + max 1 c1) total
      else
        let m := min (c2 - rest) (min per (total - at_ - rest))
        if m = 0 then [(row, x, rest)] :: segments per c1 c2 fuel (at_ + rest) total
        else [(row, x, rest), (row + 1, 0, m)] :: segments per c1 c2 fuel (at_ + rest + m) total

/-- The bytes of one pixel group of a frame, from its block. -/
def groupBytes (e blk : List Byte) (row g : Nat) : List Byte :=
  let pg := pgroup e
  if eLayout e = 0 then sliceBytes blk (64 + row * ePitchY e + g * pg.1) pg.1
  else
    let o : OpenBlk := ⟨dieLock 0 0, 0, 0, false, e, 0, 0, 0, 0, 0, 0, 0, 0, eHeight e, [], 0, 0, 0⟩
    let d := if eDepth10 e then 10 else 8
    let sz := if eLayout e = 1 then 2 else 1
    let v := (groupSamples e (g * pg.2.1) row).foldl (fun a q => a * 2 ^ d + leAt blk (sampleOff o q.1 q.2.1 q.2.2) sz % 2 ^ d) 0
    beBytes pg.1 v

/-- A packet of a block: RTP payload, marker, and whether it is an RTP packet as it stands. -/
abbrev Piece := List Byte × Bool × Bool

/-- The payloads of a VIDEO_20 frame, the first numbered `first`: as many whole pixel groups as MAX_PAYLOAD holds, with a second row header where a
row ends inside the packet. -/
def videoPieces (g blk : List Byte) (first : Nat) : List Piece :=
  let e := gAsEntry g
  let pg := pgroup e
  let per := max 1 (eWidth e / pg.2.1)
  let total := per * (eHeight e / pg.2.2)
  let l := segments per ((gMax g - 8) / pg.1) ((gMax g - 14) / pg.1) (total + 1) 0 total
  let head (x : Nat × Nat × Nat) (c : Bool) : List Byte :=
    beBytes 2 (x.2.2 * pg.1) ++ beBytes 2 (x.1 * pg.2.2) ++ beBytes 2 (b2n c * 32768 + x.2.1 * pg.2.1)
  l.zipIdx.map fun q =>
    let heads := match q.1 with
      | [a, b] => head a true ++ head b false
      | a :: _ => head a false
      | [] => []
    (beBytes 2 ((first + q.2) / 65536) ++ heads
      ++ q.1.flatMap (fun x => (List.range x.2.2).flatMap fun j => groupBytes e blk (x.1 * pg.2.2) (x.2.1 + j)),
      q.2 + 1 = l.length, false)

/-- AUDIO_30: the slots of a block: those that BYTES covers, or all that fit. -/
def audioPieces (g blk : List Byte) : List Piece :=
  let p := max 1 (eAudioLen (gAsEntry g))
  let n := (if leAt blk 48 4 = 0 then blk.length - 64 else leAt blk 48 4) / p
  (List.range n).map fun i => (sliceBytes blk (64 + i * p) p, false, false)

/-- The records of R431 from offset `o` on, to `end_`: the data of each. -/
def records (blk : List Byte) (end_ : Nat) : Nat → Nat → List (List Byte)
  | 0, _ => []
  | n + 1, o =>
    let len := leAt blk (o + 8) 2
    if end_ < o + 16 + len then [] else sliceBytes blk (o + 16) len :: records blk end_ n (o + roundUp (16 + len) 8)

def recordPieces (g blk : List Byte) : List Piece :=
  let end_ := 64 + min (blk.length - 64) (leAt blk 48 4)
  let l := records blk end_ (blk.length / 16) 64
  l.zipIdx.map fun q => (q.1, q.2 + 1 = l.length, leAt g 0 1 = 6)

/-- The NAL units of an Annex B byte stream: those between start codes 0x000001, without trailing zeros; `cur` is the unit being read, reversed. -/
def nalUnits : List Byte → Option (List Byte) → List (List Byte)
  | [], none => []
  | [], some cur => [(cur.dropWhile fun x => x == 0).reverse]
  | 0 :: 0 :: 1 :: r, cur => (match cur with | some c => [(c.dropWhile fun x => x == 0).reverse] | none => []) ++ nalUnits r (some [])
  | x :: r, cur => nalUnits r (cur.map fun c => x :: c)

/-- Pieces of at most `n` bytes. -/
def chunksOf (n : Nat) : Nat → List Byte → List (List Byte)
  | 0, _ => []
  | fuel + 1, l => if l.isEmpty then [] else l.take n :: chunksOf n fuel (l.drop n)

/-- The packets of a NAL unit (RFC 7798): itself, or fragmentation units. -/
def nalPackets (cap : Nat) (u : List Byte) : List (List Byte) :=
  if u.length ≤ cap then [u]
  else
    let h := beAt u 0 1
    let l := chunksOf (cap - 3) u.length (u.drop 2)
    l.zipIdx.map fun q =>
      beBytes 1 (h / 128 * 128 + 49 * 2 + h % 2) ++ (u.drop 1).take 1
        ++ beBytes 1 (b2n (q.2 = 0) * 128 + b2n (q.2 + 1 = l.length) * 64 + h / 2 % 64) ++ q.1

def hevcPieces (g blk : List Byte) : List Piece :=
  let l := ((nalUnits (sliceBytes blk 64 (min (blk.length - 64) (leAt blk 48 4))) none).filter fun u => 2 ≤ u.length).flatMap (nalPackets (gMax g))
  l.zipIdx.map fun q => (q.1, q.2 + 1 = l.length, false)

/-- An unsigned leb128 (AV1). -/
def leb128 : Nat → Nat → List Byte
  | 0, _ => []
  | n + 1, v => if v < 128 then [BitVec.ofNat 8 v] else BitVec.ofNat 8 (v % 128 + 128) :: leb128 n (v / 128)

/-- Reads a leb128: value and length. -/
def leb128Read (b : List Byte) : Nat × Nat :=
  let l := (b.take 8).takeWhile fun x => x.toNat ≥ 128
  let n := l.length + 1
  ((((b.take n).zipIdx).map fun q => q.1.toNat % 128 * 2 ^ (7 * q.2)).foldl (· + ·) 0, n)

/-- The OBUs of a temporal unit, each without its size field. -/
def obus : Nat → List Byte → List (List Byte)
  | 0, _ => []
  | n + 1, b =>
    match b with
    | [] => []
    | h :: r =>
      let ext := if bitAt h.toNat 2 then 1 else 0
      let head := BitVec.ofNat 8 (h.toNat - (if bitAt h.toNat 1 then 2 else 0)) :: r.take ext
      if bitAt h.toNat 1 then
        let q := leb128Read (r.drop ext)
        let body := r.drop (ext + q.2)
        (head ++ body.take q.1) :: obus n (body.drop q.1)
      else [head ++ r.drop ext]

def obuType (o : List Byte) : Nat := beAt o 0 1 / 8 % 16

/-- Fills packets with OBUs: the room of packet i is free between 8 bytes and MAX_PAYLOAD. Each packet: its OBU elements, whether its first continues one
of the packet before, whether its last goes on. -/
def av1Fill (room : Nat → Nat) : Nat → Nat → List (List Byte) → List (List Byte) → Nat → Bool → List (List (List Byte) × Bool × Bool)
  | 0, _, _, _, _, _ => []
  | fuel + 1, i, l, cur, used, cont =>
    match l with
    | [] => if cur.isEmpty then [] else [(cur, cont, false)]
    | o :: r =>
      let left := room i - 1 - used
      let need := (leb128 4 o.length).length + o.length
      if need ≤ left then av1Fill room fuel i r (cur ++ [o]) (used + need) cont
      else if 4 ≤ left then
        let n := left - 3
        (cur ++ [o.take n], cont, true) :: av1Fill room fuel (i + 1) (o.drop n :: r) [] 0 true
      else (cur, cont, false) :: av1Fill room fuel (i + 1) l [] 0 false

def av1Pieces (g blk : List Byte) : List Piece :=
  let tu := sliceBytes blk 64 (min (blk.length - 64) (leAt blk 48 4))
  let l := (obus tu.length tu).filter fun o => obuType o ≠ 2
  let key := l.any (fun o => obuType o = 1) && Config.av1Key tu
  let p := av1Fill (fun i => max 8 (min (gMax g) (Config.av1Room tu i))) (2 * tu.length + 2) 0 l [] 0 false
  p.zipIdx.map fun q =>
    (beBytes 1 (b2n q.1.2.1 * 128 + b2n q.1.2.2 * 64 + b2n (key && q.2 = 0) * 8) ++ q.1.1.flatMap (fun o => leb128 4 o.length ++ o),
      q.2 + 1 = p.length, false)

/-- The packets of a block, the first numbered `first`. -/
def blockPieces (g blk : List Byte) (first : Nat) : List Piece :=
  match leAt g 0 1 with
  | 1 => videoPieces g blk first
  | 2 => audioPieces g blk
  | 3 => recordPieces g blk
  | 4 => hevcPieces g blk
  | 5 => av1Pieces g blk
  | 6 => recordPieces g blk
  | _ => []

/-! ### EGRESS_SEND (R438, R439) -/

/-- The legs an entry sends on, those of its own link die only. -/
def gLegs (n : Nat) (e : List Byte) : List Nat :=
  ((if gFlag e 0 then [0, 1] else [0]) : List Nat).filter fun i => leAt e (2 + i) 1 % 32 / 6 = n

/-- Sends one packet on a leg. -/
def sendLeg (e : List Byte) (leg : Nat) (body : List Byte) : Prog :=
  txFrame ⟨leAt e (2 + leg) 1 % 32, leAt e (2 + leg) 1 / 32 % 4, if gFlag e 1 then leAt e 26 2 % 4096 else 0x1000, leAt e 28 1 % 64,
    leAt e (12 + 4 * leg) 4, leAt e (4 + 4 * leg) 4, leAt e 24 2, leAt e (20 + 2 * leg) 2, body, 0, 0⟩

/-- An RTP packet of an entry. -/
def rtpPacket (e : List Byte) (seq ts : Nat) (marker : Bool) (body : List Byte) : List Byte :=
  beBytes 1 0x80 ++ beBytes 1 (b2n marker * 128 + leAt e 29 1 % 128) ++ beBytes 2 seq ++ beBytes 4 ts ++ beBytes 4 (leAt e 32 4) ++ body

/-- EGRESS_SEND: the next FILLED block of an egress flow is sent at its SEND_TIME, on every leg, and released. -/
def egressSendProg (n i : Nat) : Prog := look fun s =>
  let g := egNo n i
  let x := s.eg g
  let e := x.entry
  let legs := gLegs n e
  match s.gLock e with
  | none => .skip
  | some l =>
    let slot := leAt e 39 1
    if leAt e 0 1 = 0 || legs.isEmpty || !s.lockOn l || !s.lockRing l || !legs.all (fun j => s.subUp (leAt e (2 + j) 1 % 32) (leAt e (2 + j) 1 / 32 % 4)) then .skip
    else match s.nextFilled l slot with
    | none => .skip
    | some b =>
      let out := progs [takeFilled l b.seq slot 0, releaseBlk l b.seq slot]
      match s.ldBytes (s.blockVa l b.idx) (s.lockBlockLen l) with
      | none => progs [linkLog 3 0x12 (leAt e 2 1 % 32) g, out]
      | some blk =>
        let seq := leAt blk 0 8
        let ts := leAt blk 8 4
        let at_ := leAt blk 56 8
        let send (first : Nat) : Prog :=
          forAll ((blockPieces e blk first).zipIdx) fun q =>
            forAll legs fun j => sendLeg e j (if q.1.2.2 then q.1.1 else rtpPacket e (first + q.2) ts q.1.2.1 q.1.1)
        let wait := only (s.time < at_) (.upd (.time (at_ - s.time)))
        if x.hist.all fun h => h.1 < seq then progs [
          wait, send x.next,
          onEg g fun y => { y with
            next := (y.next + (blockPieces e blk x.next).length) % 2 ^ 32
            hist := ((seq, y.next) :: y.hist).take 64 },
          out]
        else match x.hist.find? fun h => h.1 == seq with
          | some h => progs [wait, send h.2, out]
          | none => progs [onEg g fun y => { y with stale := satAdd y.stale 1 }, out]

end Sys2Proof.Machine
end

