-- ==== Sys2Proof/Machine/Inflate.lean ====
section
/-! DEFINITION. DEFLATE (RFC 1951) as a decoder, with the outcomes of R402, and the check values and wrappers of R397. Bits are lists, least significant bit of each byte first. -/

namespace Sys2Proof.Machine

/-- The bits of a byte, and of bytes. -/
def byteBits (b : Byte) : List Bool := (List.range 8).map fun i => bitAt b.toNat i
def bytesBits (l : List Byte) : List Bool := l.flatMap byteBits

/-- The `n` low bits of a value, least significant first. -/
def valueBits (n v : Nat) : List Bool := (List.range n).map fun i => bitAt v i

/-- Packs bits into bytes, padding the last with zeros. -/
def packBits : List Bool → List Byte
  | [] => []
  | a :: r =>
    let rec go : Nat → Nat → List Bool → List Byte
      | acc, 8, l => BitVec.ofNat 8 acc :: (match l with | [] => [] | b :: t => go (b2n b) 1 t)
      | acc, n, b :: t => go (acc + b2n b * 2 ^ n) (n + 1) t
      | acc, _, [] => [BitVec.ofNat 8 acc]
    go (b2n a) 1 r

/-- How decoding stops: not yet, at the end, at damage, at the output limit, or for want of input that has not been read. -/
inductive InfEnd where
  | run | done | damaged | limit | more
  deriving DecidableEq, Repr

/-- A decoder: the input left, bits used, dictionary and output (latest first), output bytes, DEFLATE blocks and stored blocks decoded, and
how it stands. `whole` says that the input ends where the list ends. -/
structure Inf where
  rest : List Bool
  used : Nat
  dict : List Byte
  out : List Byte
  n : Nat
  limit : Nat
  whole : Bool
  blocks : Nat
  stored : Nat
  fin : InfEnd
  deriving DecidableEq, Repr

/-- Stops. -/
def Inf.stop (s : Inf) (e : InfEnd) : Inf := if s.fin == .run then { s with fin := e } else s
/-- The input is used up. -/
def Inf.dry (s : Inf) : Inf := s.stop (if s.whole then .damaged else .more)

/-- One bit. -/
def Inf.bit (s : Inf) : Nat × Inf :=
  match s.rest with
  | b :: r => (b2n b, { s with rest := r, used := s.used + 1 })
  | [] => (0, s.dry)

/-- `n` bits, least significant first. -/
def Inf.take (s : Inf) : Nat → Nat × Inf
  | 0 => (0, s)
  | n + 1 =>
    let a := s.bit
    let r := a.2.take n
    (a.1 + 2 * r.1, r.2)

/-- Puts out one byte, unless it would exceed the limit (R402). -/
def Inf.put (s : Inf) (b : Byte) : Inf :=
  if s.fin != .run then s
  else if s.limit ≤ s.n then s.stop .limit
  else { s with out := b :: s.out, n := s.n + 1 }

/-- The byte `dist` back in output and dictionary. -/
def Inf.back (s : Inf) (dist : Nat) : Option Byte :=
  if dist ≤ s.n then s.out[dist - 1]? else s.dict[dist - s.n - 1]?

/-- Copies a match byte by byte; a distance before the dictionary's start is damage. -/
def Inf.copy (dist : Nat) : Nat → Inf → Inf
  | 0, s => s
  | n + 1, s =>
    match s.back dist with
    | some b => Inf.copy dist n (s.put b)
    | none => s.stop .damaged

/-- A canonical code: the number of codes of each length 0 to 15, and the symbols in order of code. -/
structure HuffCode where
  counts : List Nat
  syms : List Nat
  deriving DecidableEq, Repr

def HuffCode.of (lens : List Nat) : HuffCode :=
  ⟨(List.range 16).map fun n => (lens.filter (· == n)).length,
    (List.range 15).flatMap fun i => ((enumFrom 0 lens).filter fun p => p.2 == i + 1).map (·.1)⟩

/-- The codes left over after the given lengths: 0 for a complete code, negative when over-subscribed. -/
def HuffCode.left (h : HuffCode) : Int := (h.counts.drop 1).foldl (fun (l : Int) (c : Nat) => 2 * l - (c : Int)) 1

/-- A usable code: complete, or a single code of one bit; a distance code may be empty. -/
def HuffCode.ok (h : HuffCode) (dist : Bool) : Bool :=
  decide (h.left = 0) || (decide (0 < h.left) && ((h.syms.length = 1 && h.counts.getD 1 0 = 1) || (dist && h.syms.length = 0)))

/-- Decodes one symbol, length by length. -/
def huffGo (syms : List Nat) : List Nat → Nat → Nat → Nat → Inf → Nat × Inf
  | [], _, _, _, s => (0, s.stop .damaged)
  | c :: r, code, first, index, s =>
    let b := s.bit
    let code := code + b.1
    if b.2.fin != .run then (0, b.2)
    else if code < first + c then (syms.getD (index + (code - first)) 0, b.2)
    else huffGo syms r (2 * code) (2 * (first + c)) (index + c) b.2

def HuffCode.next (h : HuffCode) (s : Inf) : Nat × Inf := huffGo h.syms (h.counts.drop 1) 0 0 0 s

/-- Base and extra bits of the length codes 257 to 285, and of the distance codes. -/
def lenBase (c : Nat) : Nat × Nat :=
  let i := c - 257
  if i < 8 then (i + 3, 0) else if i = 28 then (258, 0) else ((4 + i % 4) * 2 ^ (i / 4 - 1) + 3, i / 4 - 1)
def distBase (c : Nat) : Nat × Nat := if c < 4 then (c + 1, 0) else ((2 + c % 2) * 2 ^ (c / 2 - 1) + 1, c / 2 - 1)

/-- The symbols of a coded block; `fuel` is at least the input bits left. -/
def infSyms (lit dist : HuffCode) : Nat → Inf → Inf
  | 0, s => s.dry
  | fuel + 1, s =>
    let a := lit.next s
    if a.2.fin != .run || a.1 = 256 then a.2
    else if a.1 < 256 then infSyms lit dist fuel (a.2.put (BitVec.ofNat 8 a.1))
    else if 285 < a.1 then a.2.stop .damaged
    else
      let lb := lenBase a.1
      let le := a.2.take lb.2
      let dc := dist.next le.2
      if dc.2.fin == .run && 29 < dc.1 then dc.2.stop .damaged
      else
        let db := distBase dc.1
        let de := dc.2.take db.2
        if de.2.fin != .run then de.2
        else infSyms lit dist fuel (Inf.copy (db.1 + de.1) (lb.1 + le.1) de.2)

/-- The fixed code lengths. -/
def fixedLitLens : List Nat := List.replicate 144 8 ++ List.replicate 112 9 ++ List.replicate 24 7 ++ List.replicate 8 8
def fixedLit : HuffCode := HuffCode.of fixedLitLens
def fixedDist : HuffCode := HuffCode.of (List.replicate 30 5)

/-- Stored bytes. -/
def infStored : Nat → Inf → Inf
  | 0, s => s
  | n + 1, s =>
    let b := s.take 8
    if b.2.fin != .run then b.2 else infStored n (b.2.put (BitVec.ofNat 8 b.1))

/-- The code lengths of a dynamic block: literals and distances together. -/
def infLens (h : HuffCode) (want : Nat) : Nat → List Nat → Inf → List Nat × Inf
  | 0, l, s => (l, s)
  | fuel + 1, l, s =>
    if s.fin != .run || want ≤ l.length then (l, if want < l.length then s.stop .damaged else s)
    else
      let a := h.next s
      if a.2.fin != .run then (l, a.2)
      else if a.1 < 16 then infLens h want fuel (l ++ [a.1]) a.2
      else if a.1 = 16 then
        let e := a.2.take 2
        match l.getLast? with
        | some p => infLens h want fuel (l ++ List.replicate (e.1 + 3) p) e.2
        | none => (l, e.2.stop .damaged)
      else
        let e := a.2.take (if a.1 = 17 then 3 else 7)
        infLens h want fuel (l ++ List.replicate (e.1 + if a.1 = 17 then 3 else 11) 0) e.2

/-- The order of the code-length code's lengths. -/
def clOrder : List Nat := [16, 17, 18, 0, 8, 7, 9, 6, 10, 5, 11, 4, 12, 3, 13, 2, 14, 1, 15]

def infDynamic (fuel : Nat) (s : Inf) : Inf :=
  let a := s.take 5
  let b := a.2.take 5
  let c := b.2.take 4
  let r := (List.range (c.1 + 4)).foldl (fun (p : List Nat × Inf) _ => let e := p.2.take 3; (p.1 ++ [e.1], e.2)) ([], c.2)
  let cl := HuffCode.of ((List.range 19).map fun i => match clOrder.findIdx? (· == i) with | some k => r.1.getD k 0 | none => 0)
  let nl := a.1 + 257
  let nd := b.1 + 1
  if r.2.fin != .run then r.2
  else if 286 < nl || 30 < nd || !decide (cl.left = 0) then r.2.stop .damaged
  else
    let ls := infLens cl (nl + nd) (nl + nd) [] r.2
    let lit := HuffCode.of (ls.1.take nl)
    let dist := HuffCode.of (ls.1.drop nl)
    if ls.2.fin != .run then ls.2
    else if ls.1.length ≠ nl + nd || ls.1.getD 256 0 = 0 || !lit.ok false || !dist.ok true then ls.2.stop .damaged
    else infSyms lit dist fuel ls.2

/-- One DEFLATE block, and whether it was the last. -/
def infBlock (s : Inf) : Bool × Inf :=
  let f := s.bit
  let t := f.2.take 2
  let fuel := t.2.rest.length + 1
  let r :=
    if t.2.fin != .run then t.2
    else if t.1 = 0 then
      let p := t.2.take ((8 - t.2.used % 8) % 8)
      let l := p.2.take 16
      let m := l.2.take 16
      if m.2.fin != .run then m.2
      else if l.1 + m.1 ≠ 65535 then m.2.stop .damaged
      else infStored l.1 { m.2 with stored := m.2.stored + 1 }
    else if t.1 = 1 then infSyms fixedLit fixedDist fuel t.2
    else if t.1 = 2 then infDynamic fuel t.2
    else t.2.stop .damaged
  (f.1 = 1, if r.fin == .run then { r with blocks := r.blocks + 1 } else r)

/-- Blocks up to the final one. -/
def inflate : Nat → Inf → Inf
  | 0, s => s.dry
  | fuel + 1, s =>
    if s.fin != .run then s
    else
      let b := infBlock s
      if b.2.fin == .run && b.1 then b.2.stop .done else inflate fuel b.2

/-- A stored form of bytes from a bit position (R399): stored blocks of at most 65,535 bytes, the last with BFINAL if `last`. -/
def storedBits (last : Bool) : Nat → Nat → List Byte → List Bool
  | 0, _, _ => []
  | fuel + 1, at_, b =>
    let n := min b.length 65535
    let rest := b.drop n
    let head := [last && rest.isEmpty, false, false]
    let pad := List.replicate ((8 - (at_ + 3) % 8) % 8) false
    let blk := head ++ pad ++ valueBits 16 n ++ valueBits 16 (65535 - n) ++ bytesBits (b.take n)
    if rest.isEmpty then blk else blk ++ storedBits last fuel (at_ + blk.length) rest

end Sys2Proof.Machine
end

