-- ==== Sys2Proof/Machine/Sluice.lean ====
section
/-! DEFINITION. The sluice engines (R397 to R413): jobs, compression, decompression, checkpoints, pre-emption and cancellation. -/

namespace Sys2Proof.Machine

/-- The number of a sluice engine in the device. -/
def sn (d n : Nat) : Nat := 2 * d + n

def SlJob.u (j : SlJob) (o n : Nat) : Nat := leAt j.bytes o n
def SlJob.op (j : SlJob) : Nat := j.u 0 1
def SlJob.wrap (j : SlJob) : Nat := j.u 1 1
def SlJob.hasDict (j : SlJob) : Bool := bitAt (j.u 3 1) 1
def SlJob.inVa (j : SlJob) : Nat := j.u 16 6
def SlJob.inLen (j : SlJob) : Nat := j.u 24 4
def SlJob.outVa (j : SlJob) : Nat := j.u 32 6
def SlJob.outLen (j : SlJob) : Nat := j.u 28 4
def SlJob.dictVa (j : SlJob) : Nat := j.u 40 6
def SlJob.dictLen (j : SlJob) : Nat := j.u 12 4
def SlJob.unit (n : Nat) (j : SlJob) : UnitRef := ⟨7, 0, n, 0, j.cnt + 1⟩

def slTally (d n off k : Nat) : Prog := tally .sl d n off k

/-- Two ranges share a byte. -/
def rangesMeet (a n b m : Nat) : Bool := decide (0 < n) && decide (0 < m) && decide (a < b + m) && decide (b < a + n)

/-- R404, R405. -/
def SlJob.ok (j : SlJob) : Bool :=
  let u := j.u
  let comp := u 0 1 = 1
  let dl := if j.hasDict then j.dictLen else 0
  (u 0 1 = 1 || u 0 1 = 2) && u 1 1 < 3 && (if comp then 1 ≤ u 2 1 && u 2 1 ≤ 9 else u 2 1 = 0)
    && u 3 1 < 4 && (comp || u 3 1 % 2 = 0) && (if comp then u 8 1 < 4 else u 8 1 = 0) && u 9 3 = 0
    && (if j.hasDict then 1 ≤ j.dictLen && j.dictLen ≤ 32768 else j.dictLen = 0)
    && u 16 8 < 2 ^ 48 && 1 ≤ j.outLen && u 32 8 < 2 ^ 48 && u 40 8 < 2 ^ 48
    && (if comp then u 48 4 = 0 else decide (u 48 4 ≤ j.outLen)) && u 52 8 = 0 && u 60 4 = 0
    && !rangesMeet j.inVa j.inLen j.outVa j.outLen && !rangesMeet j.inVa j.inLen j.dictVa dl
    && !rangesMeet j.outVa j.outLen j.dictVa dl

def Dev.slUp (s : Dev) (d n : Nat) : Bool := s.blockOn .sl d n
def Dev.slPre (s : Dev) (d n : Nat) : Bool := s.reg .sl d n R.SL_CTRL % 2 = 1

/-- What a job reports (R406): flags but RESUMED, bytes consumed and written, check value, blocks, stored blocks, offset of an error. -/
structure SlEnd where
  status : Nat
  flags : Nat
  inUsed : Nat
  outUsed : Nat
  check : Nat
  blocks : Nat
  stored : Nat
  err : Nat
  deriving DecidableEq, Repr

/-- The 64 bytes of R406. -/
def slRecord (j : SlJob) (e : SlEnd) (time : Nat) : List Byte :=
  leBytes 1 e.status ++ leBytes 1 j.op ++ leBytes 1 j.wrap ++ leBytes 1 (e.flags ||| (b2n j.resumed * 4)) ++ leBytes 4 (j.u 4 4)
    ++ leBytes 4 e.inUsed ++ leBytes 4 e.outUsed ++ leBytes 4 e.check ++ leBytes 4 e.blocks ++ leBytes 4 e.stored ++ leBytes 4 e.err
    ++ leBytes 24 0 ++ leBytes 8 time

/-- Ends the current job: its record waits for SL_COMPLETION_WRITE, and the counters of R413 are kept. -/
def slEnd (d n : Nat) (e : SlEnd) : Prog := look fun s =>
  match (s.slu (sn d n)).job with
  | none => .skip
  | some j =>
    let x := s.slu (sn d n)
    progs [
      .upd (.sluice (sn d n) { x with
        job := some { j with record := some (slRecord j e s.time), parked := false }
        stopped := false
        inRem := (x.inRem + e.inUsed) % 65536
        outRem := (x.outRem + e.outUsed) % 65536 }),
      withdraw d (fun r => r.unit == j.unit n),
      dropWalks d (fun u => u == j.unit n),
      slTally d n R.SL_JOBS 1, slTally d n R.SL_IN_64K ((x.inRem + e.inUsed) / 65536),
      slTally d n R.SL_OUT_64K ((x.outRem + e.outUsed) / 65536),
      slTally d n R.SL_STORED_BLOCKS (if j.op = 1 then e.stored else 0),
      slTally d n R.SL_CHECK_FAIL (b2n (e.status = 0x42)), slTally d n R.SL_EXP_LIMIT (b2n (e.status = 0x41)),
      slTally d n R.SL_OUT_OF_SPACE (b2n (e.status = 0x40)), slTally d n R.SL_DESC_REFUSED (b2n (e.status = 0x71))]

/-- An end with a failure: no output valid. -/
def slFail (d n status : Nat) : Prog := slEnd d n ⟨status, 0, 0, 0, 0, 0, 0, 0⟩

/-- The bytes written to OUT are not valid: their contents are undefined (R401, R402, R409). -/
def slSpoil (j : SlJob) : Prog := undefVa j.outVa j.outLen

/-- A job's accesses: a fault parks the job (R410). -/
def slAccess (d n : Nat) (l : List VAcc) (ok : Prog) : Prog := look fun s =>
  match (s.slu (sn d n)).job with
  | none => .skip
  | some j =>
    dieAccess d (j.unit n) (j.cnt % 2 ^ s.fld .sl d n R.SL_RING_CFG 3 0 % 4096) l ok
      (fun c va => progs [
        dieFault .sl d n (faultStatus c) (if c = 3 then 2 else if c = 4 then 3 else 1) 0 (j.u 4 4) va 7,
        onSlu (sn d n) fun x => { x with job := some { j with parked := true } }])
      (fun va => progs [dieFault .sl d n 0x12 1 0 (j.u 4 4) va 7, slSpoil j, slFail d n 0x12])
      (fun o => slTally d n (R.SL_WAIT_PREEMPT + 4 * (o - 1)) 1)

/-- An uncorrectable read among a job's reads ends it (R410). -/
def slRead (d n : Nat) (l : List (Nat × Nat)) (ok : Prog) : Prog := look fun s =>
  match (s.slu (sn d n)).job with
  | none => .skip
  | some j => progs [
      forAll l fun a => vaTouch d 168 a.1 a.2,
      match l.find? (fun a => s.vaBad d 168 a.1 a.2) with
      | some a => progs [dieFault .sl d n 0x20 3 0 (j.u 4 4) a.1 7, slSpoil j, slFail d n 0x20]
      | none => ok]

/-- The dictionary of a job. -/
def Dev.slDict (s : Dev) (d : Nat) (j : SlJob) : List Byte := if j.hasDict then s.vaBytes d 168 j.dictVa j.dictLen else []

/-! ### Compression (R397 to R401) -/

/-- The header of a compressed stream. -/
def slHeader (wrap effort : Nat) (dict : List Byte) : List Byte :=
  if wrap = 0 then []
  else if wrap = 1 then
    let lv := if effort = 1 then 0 else if effort ≤ 5 then 1 else if effort = 6 then 2 else 3
    let base := lv * 64 + b2n (!dict.isEmpty) * 32
    let chk := (31 - (0x78 * 256 + base) % 31) % 31
    leBytes 1 0x78 ++ leBytes 1 (base + chk) ++ (if dict.isEmpty then [] else beBytes 4 (adler32 dict))
  else leBytes 1 0x1F ++ leBytes 1 0x8B ++ leBytes 1 8 ++ leBytes 1 0 ++ leBytes 4 0
    ++ leBytes 1 (if effort = 1 then 4 else if effort = 9 then 2 else 0) ++ leBytes 1 255

/-- The trailer, from the original bytes. -/
def slTrailer (wrap : Nat) (data : List Byte) : List Byte :=
  if wrap = 0 then [] else if wrap = 1 then beBytes 4 (adler32 data) else leBytes 4 (crc32 data) ++ leBytes 4 (data.length % 2 ^ 32)

/-- CHECK of a record (R406). -/
def slCheck (wrap : Nat) (data : List Byte) : Nat := if wrap = 1 then adler32 data else crc32 data

/-- BLOCK in bytes (R404). -/
def SlJob.block (j : SlJob) : Nat := 16384 * 2 ^ j.u 8 1

/-- Chain depth of an EFFORT. -/
def chainDepth (effort : Nat) : Nat := [4, 8, 16, 32, 64, 128, 512, 1024, 4096].getD (effort - 1) 4

/-- What matches put out after `rev`, latest byte first; none if one is no match of R398. -/
def slExpand : List (Nat × Nat) → List Byte → Option (List Byte)
  | [], rev => some rev
  | (n, dist) :: r, rev =>
    if dist = 0 then slExpand r (BitVec.ofNat 8 n :: rev)
    else if 3 ≤ n && n ≤ 258 && dist ≤ 32768 && dist ≤ rev.length then
      slExpand r ((List.range n).foldl (fun l _ => l.getD (dist - 1) 0 :: l) rev)
    else none

/-- The matches of an input block: what the hash chains find, so far as it stands for the block's own bytes. -/
def slTokens (effort : Nat) (win blk : List Byte) : List (Nat × Nat) :=
  let t := Config.slMatches (chainDepth effort) (4 ≤ effort) win blk
  if slExpand t win.reverse == some (blk.reverse ++ win.reverse) then t else blk.map fun b => (b.toNat, 0)

/-- The length symbol of a match, and the distance symbol. -/
def lenSym (n : Nat) : Nat := if n = 258 then 285 else 256 + ((List.range 28).filter fun i => decide ((lenBase (257 + i)).1 ≤ n)).length
def distSym (dist : Nat) : Nat := ((List.range 30).filter fun i => decide ((distBase i).1 ≤ dist)).length - 1

/-- The bits of a symbol under canonical code lengths, most significant first (RFC 1951). -/
def symBits (lens : List Nat) (sym : Nat) : List Bool :=
  let n := lens.getD sym 0
  let code := ((List.range n).map fun l => (lens.filter fun x => x = l && l ≠ 0).length * 2 ^ (n - l)).foldl (· + ·) 0
    + ((lens.take sym).filter (· = n)).length
  (valueBits n code).reverse

/-- The bits of a block's matches and its end-of-block under code lengths. -/
def tokenBits (lit dist : List Nat) (t : List (Nat × Nat)) : List Bool :=
  (t.flatMap fun x =>
    if x.2 = 0 then symBits lit x.1
    else symBits lit (lenSym x.1) ++ valueBits (lenBase (lenSym x.1)).2 (x.1 - (lenBase (lenSym x.1)).1)
      ++ symBits dist (distSym x.2) ++ valueBits (distBase (distSym x.2)).2 (x.2 - (distBase (distSym x.2)).1)) ++ symBits lit 256

/-- How often each of `n` symbols stands in a list. -/
def symCounts (n : Nat) (l : List Nat) : List Nat := (List.range n).map fun i => (l.filter (· = i)).length

/-- An input block in coded form (R399): one DEFLATE block, under the fixed codes, or under codes built from its own symbol counts. -/
def codedBits (effort : Nat) (dynamic last : Bool) (win blk : List Byte) : List Bool :=
  let t := slTokens effort win blk
  if dynamic then
    let c := Config.slCodes (symCounts 286 (256 :: t.map fun x => if x.2 = 0 then x.1 else lenSym x.1))
      (symCounts 30 ((t.filter (·.2 ≠ 0)).map fun x => distSym x.2))
    [last, false, true] ++ c.1 ++ tokenBits c.2.1 c.2.2 t
  else [last, true, false] ++ tokenBits fixedLitLens (List.replicate 30 5) t

/-- Codes the next input block (R399): its coded form unless that is not shorter than the stored form. -/
def slBlock (dict data : List Byte) (j : SlJob) : SlJob :=
  if data.isEmpty then { j with outBits := j.outBits ++ [true, true, false] ++ List.replicate 7 false, blocks := j.blocks + 1, pos := 1 }
  else
    let blk := (data.drop j.pos).take j.block
    let last := decide (data.length ≤ j.pos + blk.length)
    let before := dict ++ data.take j.pos
    let win := before.drop (before.length - 32768)
    let coded := codedBits (j.u 2 1) (j.u 3 1 % 2 = 1) last win blk
    let st := storedBits last (blk.length + 1) (j.outBits.length % 8) blk
    let n := ceilDiv blk.length 65535
    if coded.length < st.length then
      { j with outBits := j.outBits ++ coded, blocks := j.blocks + 1, pos := j.pos + blk.length }
    else { j with outBits := j.outBits ++ st, blocks := j.blocks + n, stored := j.stored + n, pos := j.pos + blk.length }

/-- Whether every input block has been coded. -/
def SlJob.coded (j : SlJob) : Bool := if j.inLen = 0 then j.pos = 1 else decide (j.inLen ≤ j.pos)

/-- Codes input blocks until the end. -/
def slBlocks (dict data : List Byte) : Nat → SlJob → SlJob
  | 0, j => j
  | n + 1, j => if j.coded then j else slBlocks dict data n (slBlock dict data j)

/-- The bytes of a range before its first piece that cannot be accessed yet. -/
def Dev.openBytes (s : Dev) (d va n access : Nat) : Nat :=
  ((pagePieces va n).takeWhile fun q => s.meets d 168 [⟨q.1, q.2, access⟩] == .ok).foldl (fun a q => a + q.2) 0

/-- The input of a job as far as it can be read now. -/
def Dev.slInput (s : Dev) (d : Nat) (j : SlJob) : List Byte :=
  let va := j.inVa + j.data.length
  j.data ++ s.vaBytes d 168 va (s.openBytes d va (j.inLen - j.data.length) accRead)

/-- Reads the next `len` bytes of the input. -/
def slIn (d n : Nat) (j : SlJob) (len : Nat) (f : Prog) : Prog :=
  let va := j.inVa + j.data.length
  slAccess d n [⟨va, len, accRead⟩] (slRead d n [(va, len)] f)

/-- Keeps the input read so far, and asks for the page that comes next. -/
def slMore (d n : Nat) (j : SlJob) (data : List Byte) : Prog := progs [
  onSlu (sn d n) fun x => { x with job := some { j with data := data } },
  slAccess d n [⟨j.inVa + data.length, 1, accRead⟩] .skip]

/-- Writes the output from where it stands, as far as it can be written now; `fin` follows once all of it is. -/
def slOut (d n : Nat) (j : SlJob) (out : List Byte) (fin : Prog) : Prog := look fun s =>
  let va := j.outVa + j.put
  let left := out.length - j.put
  let k := s.openBytes d va left accWrite
  let write (f : Prog) : Prog := slAccess d n [⟨va, k, accWrite⟩] (progs [vaWrite d 168 va ((out.drop j.put).take k) false, f])
  if k = left then write fin
  else progs [
    write (onSlu (sn d n) fun x => { x with job := x.job.map fun j => { j with put := j.put + k } }),
    slAccess d n [⟨va + k, 1, accWrite⟩] .skip]

/-- Runs a compress job from its checkpoint, to its end or to its next checkpoint only. -/
def slCompress (d n : Nat) (one : Bool) (stop : Prog) : Prog := look fun s =>
  match (s.slu (sn d n)).job with
  | none => .skip
  | some j =>
    let dl := if j.hasDict then [(j.dictVa, j.dictLen)] else []
    slAccess d n (dl.map fun a => ⟨a.1, a.2, accRead⟩) (slRead d n dl (look fun s =>
      let data := s.slInput d j
      slIn d n j (data.length - j.data.length) (look fun s =>
        if data.length < j.inLen then slMore d n j data
        else
          let dict := s.slDict d j
          let j' := slBlocks dict data (if one then 1 else j.inLen / j.block + 2) { j with data := data }
          if !j'.coded then progs [onSlu (sn d n) fun x => { x with job := some j' }, stop]
          else
            let out := slHeader j.wrap (j.u 2 1) dict ++ packBits j'.outBits ++ slTrailer j.wrap data
            let e : SlEnd := ⟨0, b2n (decide (0 < j'.stored)) + 2 * b2n j.hasDict, j.inLen, out.length, slCheck j.wrap data, j'.blocks, j'.stored, 0⟩
            if j.outLen < out.length then progs [slSpoil j, slEnd d n { e with status := 0x40, outUsed := 0 }]
            else progs [
              onSlu (sn d n) fun x => { x with job := some { j with data := data } },
              slOut d n j out (slEnd d n e)])))

/-! ### Decompression (R402) -/

/-- A header read: its length, or damage, or a check that fails, or want of input; and whether the dictionary is used. -/
inductive SlHead where
  | ok (len : Nat) (dict : Bool)
  | damaged (at_ : Nat)
  | check
  | more
  deriving DecidableEq, Repr

/-- The end of a zero-terminated field from a position. -/
def skipName (b : List Byte) (from_ : Nat) : Option Nat := ((b.drop from_).findIdx? (· == 0)).map fun i => from_ + i + 1

/-- The header of a gzip member. -/
def gzipHead (b : List Byte) (short : SlHead) (dict : Bool) : SlHead :=
  let flg := leAt b 3 1
  if (1 ≤ b.length && leAt b 0 1 ≠ 0x1F) || (2 ≤ b.length && leAt b 1 1 ≠ 0x8B) || (3 ≤ b.length && leAt b 2 1 ≠ 8) || (4 ≤ b.length && 32 ≤ flg)
  then .damaged (if leAt b 0 1 ≠ 0x1F then 0 else if leAt b 1 1 ≠ 0x8B then 1 else if leAt b 2 1 ≠ 8 then 2 else 3)
  else if b.length < 10 then short
  else
    let p := if bitAt flg 2 then (if b.length < 12 then none else some (12 + leAt b 10 2)) else some 10
    let p := p.bind fun q => if b.length < q then none else some q
    let p := if bitAt flg 3 then p.bind (skipName b) else p
    let p := if bitAt flg 4 then p.bind (skipName b) else p
    match p with
    | none => short
    | some q =>
      if bitAt flg 1 then
        if b.length < q + 2 then short
        else if leAt b q 2 ≠ crc32 (b.take q) % 65536 then .check
        else .ok (q + 2) dict
      else .ok q dict

/-- The header of a stream; `whole` says that the input ends here. -/
def slHeadOf (wrap : Nat) (b dict : List Byte) (given whole : Bool) : SlHead :=
  let short : SlHead := if whole then .damaged b.length else .more
  if wrap = 0 then .ok 0 given
  else if wrap = 1 then
    let cmf := leAt b 0 1
    if 1 ≤ b.length && (cmf % 16 ≠ 8 || 7 < cmf / 16) then .damaged 0
    else if 2 ≤ b.length && (cmf * 256 + leAt b 1 1) % 31 ≠ 0 then .damaged 1
    else if b.length < 2 then short
    else if bitAt (leAt b 1 1) 5 then
      if b.length < 6 then short
      else if !given || beNat ((b.drop 2).take 4) ≠ adler32 dict then .check
      else .ok 6 true
    else .ok 2 false
  else gzipHead b short given

/-- Bytes of the trailer. -/
def trailerLen (wrap : Nat) : Nat := if wrap = 0 then 0 else if wrap = 1 then 4 else 8

/-- What decompressing a prefix of the input gives: the end, the bytes to write, whether OUT is spoiled; or that more input is needed. -/
structure SlOut where
  fin : Option SlEnd
  out : List Byte
  spoil : Bool
  deriving DecidableEq, Repr

/-- R402 on the input read so far. -/
def slDecode (wrap limit : Nat) (b dict : List Byte) (given whole : Bool) (inLen : Nat) : SlOut :=
  match slHeadOf wrap b dict given whole with
  | .more => ⟨none, [], false⟩
  | .damaged p => ⟨some ⟨0x50, 0, p, 0, 0, 0, 0, p⟩, [], false⟩
  | .check => ⟨some ⟨0x42, 0, 0, 0, 0, 0, 0, 0⟩, [], wrap = 2⟩
  | .ok h useDict =>
    let bs := bytesBits (b.drop h)
    let r := inflate (bs.length + 1) ⟨bs, 0, if useDict then dict.reverse else [], [], 0, limit, whole, 0, 0, .run⟩
    let out := r.out.reverse
    let fl := 2 * b2n useDict
    let used := h + ceilDiv r.used 8
    let chk := slCheck wrap out
    match r.fin with
    | .damaged => ⟨some ⟨0x50, fl, min used b.length, r.n, chk, r.blocks, r.stored, min (h + r.used / 8) b.length⟩, out, false⟩
    | .limit => ⟨some ⟨0x41, fl, used, 0, chk, r.blocks, r.stored, 0⟩, [], true⟩
    | .done =>
      let t := (b.drop used).take (trailerLen wrap)
      if t.length < trailerLen wrap && !whole then ⟨none, [], false⟩
      else
        let total := used + t.length
        let e : SlEnd := ⟨0, fl + 8 * b2n (decide (total < inLen)), total, r.n, chk, r.blocks, r.stored, 0⟩
        if t == slTrailer wrap out then ⟨some e, out, false⟩ else ⟨some { e with status := 0x42, outUsed := 0 }, [], true⟩
    | _ => ⟨none, [], false⟩

/-- Runs a decompress job, to its end; with `one`, only if it ends before its next checkpoint. -/
def slDecompress (d n : Nat) (one : Bool) (stop : Prog) : Prog := look fun s =>
  match (s.slu (sn d n)).job with
  | none => .skip
  | some j =>
    let dl := if j.hasDict then [(j.dictVa, j.dictLen)] else []
    slAccess d n (dl.map fun a => ⟨a.1, a.2, accRead⟩) (slRead d n dl (look fun s =>
      let data := s.slInput d j
      let r := slDecode j.wrap (if j.u 48 4 = 0 then j.outLen else j.u 48 4) data (s.slDict d j) j.hasDict (data.length = j.inLen) j.inLen
      match r.fin with
      | none => slIn d n j (data.length - j.data.length) (slMore d n j data)
      | some e =>
        let next := (j.pos / 65536 + 1) * 65536
        if one && decide (next ≤ r.out.length) then progs [onSlu (sn d n) fun x => { x with job := some { j with pos := next } }, stop]
        else slIn d n j (e.inUsed - j.data.length) (slOut d n j r.out (progs [only r.spoil (slSpoil j), slEnd d n e]))))

/-! ### The rows -/

/-- SL_JOB_FETCH: the next job, when none is held. -/
def slJobFetchProg (d n : Nat) : Prog := look fun s =>
  let x := s.slu (sn d n)
  if !s.slUp d n then .skip
  else if s.slPre d n then only (s.reg .sl d n R.SL_JOB_PROD ≠ s.reg .sl d n R.SL_JOB_CONS) (slTally d n R.SL_WAIT_PREEMPT 1)
  else only (x.job.isNone && !x.ringStop) (ringFetch .sl d n 64 7 7
    (fun cnt b => onSlu (sn d n) fun x => { x with job := some ⟨cnt, b, 0, [], 0, 0, false, false, none, [], 0⟩ })
    (onSlu (sn d n) fun x => { x with ringStop := true }))

/-- Runs the job if it is ready and has the given op. A job of neither op is refused by either row. -/
def slRun (d n op : Nat) (one : Bool) (stop : Prog) : Prog := look fun s =>
  match (s.slu (sn d n)).job with
  | none => .skip
  | some j => only (s.slUp d n && j.record.isNone && !j.parked) (
      if !j.ok then slFail d n 0x71
      else if j.op ≠ op then .skip
      else if op = 1 then slCompress d n one stop else slDecompress d n one stop)

def compressProg (d n : Nat) : Prog := look fun s => only (!s.slPre d n) (slRun d n 1 false .skip)
def decompressProg (d n : Nat) : Prog := look fun s => only (!s.slPre d n) (slRun d n 2 false .skip)

/-- The save area of a stopped job (R408): at most 64 KiB, in a form of the engine's own. -/
def slSave (d n : Nat) : Prog := look fun s => progs [
  onSlu (sn d n) fun x => { x with stopped := true },
  undefVa (s.fld .sl d n R.SL_SAVE_LO 31 16 * 65536 + s.fld .sl d n R.SL_SAVE_HI 15 0 * 2 ^ 32) 65536]

/-- SL_CHECKPOINT_STOP: a pre-empted job runs to its next checkpoint and stops there, or ends before it (R408). -/
def slCheckpointStopProg (d n : Nat) : Prog := look fun s =>
  only (s.slPre d n && !(s.slu (sn d n)).stopped) (progs [slRun d n 1 true (slSave d n), slRun d n 2 true (slSave d n)])

def slCompletionWriteProg (d n : Nat) : Prog := look fun s =>
  match (s.slu (sn d n)).job with
  | none => .skip
  | some j =>
    match j.record with
    | some r => only (s.slUp d n) (cplWrite .sl d n 7 (j.cnt % 4096) r (onSlu (sn d n) fun x => { x with job := none }))
    | none => .skip

/-- SL_CTRL (R408, R409): CANCEL ends the current job; clearing PREEMPT resumes a stopped one. -/
def slCtrl (d n v : Nat) : Prog := look fun s =>
  let x := s.slu (sn d n)
  progs [
    only (bitAt v 1) (match x.job with
      | some j => only j.record.isNone (progs [slSpoil j, slFail d n 0x30])
      | none => .skip),
    setReg .sl d n R.SL_CTRL (v % 2),
    only (v % 2 = 0) (onSlu (sn d n) fun x => { x with
      stopped := false
      job := if x.stopped then x.job.map (fun j => { j with resumed := true }) else x.job })]

def slPreemptProg (d n : Nat) : Prog := look fun s => only (s.slUp d n) (slCtrl d n 1)
def slResumeProg (d n : Nat) : Prog := look fun s => only (s.slUp d n) (slCtrl d n 0)
def slCancelProg (d n : Nat) : Prog := look fun s => only (s.slUp d n) (slCtrl d n (2 + b2n (s.slPre d n)))

def slRingCfg (d n v : Nat) : Prog := ringCfg .sl d n v (onSlu (sn d n) fun x => { x with ringStop := false })
def slTallyClearProg (d n : Nat) : Prog := look fun s => only (s.slUp d n) (clearTallies .sl d n (offsets 0x100 0x15C))

/-- SL_STATUS as read (R413). -/
def Dev.slStatus (s : Dev) (d n : Nat) : Nat :=
  let x := s.slu (sn d n)
  b2n x.stopped * 8 + b2n ((x.job.map (·.parked)).getD false) * 4 + bits (s.reg .sl d n R.SL_STATUS) 1 1 * 2 + b2n x.job.isSome

/-- RESUME and KILL of a parked job (R410): it runs again from its checkpoint. -/
def slResumeFault (d n : Nat) : Prog := onSlu (sn d n) fun x => { x with job := x.job.map fun j => { j with parked := false } }
def slKillFault (d n status : Nat) : Prog := look fun s =>
  match (s.slu (sn d n)).job with
  | some j => progs [slSpoil j, slFail d n status]
  | none => .skip

end Sys2Proof.Machine
end

