-- ==== Sys2Proof/Machine/Power.lean ====
section
/-! DEFINITION. Power, energy limits and clocks (R487 to R515): domains and their steps, the weir governor, envelopes and throttling, temperatures, emergency shutdown, references, and the gating of engine clocks (R119, R236). -/

namespace Sys2Proof.Machine

/-! ### Domains (R37, R38, R496, R515) -/

/-- The management complex, and the number of the indexed domains. -/
def mgmtDom : Nat := 104
/-- The domain of a cluster with key k. -/
def clDom (k : Nat) : Nat := 1000 + k
/-- The die whose UNC0 a domain depends on, if any. -/
def unc0Of (k : Nat) : Option Nat :=
  if 1000 ≤ k then some ((k - 1000) / 168) else if k < 64 && k % 4 ≠ 0 then some (k / 4) else none

/-- P of a domain's wake in mW (R490). -/
def domMw (k : Nat) : Nat :=
  if 1000 ≤ k then 1340
  else if k < 64 then (if k % 4 = 0 then 42000 else if k % 4 = 3 then 8000 else 24000)
  else if k < 96 then 12000 else if k < 104 then 40000 else 20000

/-- Ready time in ns from the grant (R490). -/
def domReady (k : Nat) (fromOff : Bool) : Nat :=
  if 1000 ≤ k then 25000
  else if k < 64 then (if k % 4 = 0 then 31000 else 20000)
  else if k < 96 then (if fromOff then 30000000 else 20000) else 20000

/-- A log entry of power control. -/
def powerLog (cls code cause index data : Nat) : Prog := logE { LogEntry.plain cls 0x0C code cause with index := index, data := data }

/-- The registers a domain holds, as ranges. -/
def domRegs (k : Nat) : List (Nat × Nat) :=
  let die (d lo hi : Nat) : Nat × Nat := (regBase + d * 0x10000000 + lo, regBase + d * 0x10000000 + hi)
  if 3688 ≤ k then []
  else if 1000 ≤ k then
    let b := clRegBase ((k - 1000) / 168) ((k - 1000) % 168)
    [(b, b + 0x10000)]
  else if k < 64 then
    match k % 4 with
    | 0 => [die (k / 4) 0x00100000 0x00101000, die (k / 4) 0x00200000 0x00210000, die (k / 4) 0x00580000 0x00581000,
        die (k / 4) 0x00700000 0x00705000]
    | 1 => [die (k / 4) 0x00500000 0x00504000]
    | 2 => [die (k / 4) 0x00504000 0x00508000]
    | _ => [die (k / 4) 0x00600000 0x00602000]
  else if k < 96 then
    let n := k - 64
    [die (n / 2) (0x00300000 + n % 2 * 0x10000) (0x00310000 + n % 2 * 0x10000)]
  else if k < 104 then
    let h := k - 96
    let b := regBase + 0x100000000 + h / 2 * 0x10000000 + 0x00100000 + h % 2 * 0x30000
    [(b, b + 0x30000)]
  else []

/-- A link-die half goes off: its ports are down and forget their state; with the other half off too, so do the flows and queue pairs of the
die. -/
def linkOff (h : Nat) (other : Bool) : Prog := onLinks fun x =>
  let n := h / 2
  let mine (p : Nat) : Bool := decide (p / 3 = h)
  { x with
    ports := x.ports.filter fun p => !mine p.1
    egress := if other then x.egress else x.egress.filter fun e => e.1 / 1024 ≠ n
    qps := if other then x.qps else x.qps.filter fun q => q.1 / 4096 ≠ n
    roce := if other then x.roce else x.roce.filter fun q => q.ld ≠ n
    cls := if other then x.cls else { x.cls with flows := x.cls.flows.filter fun f => (match f.2.cur with | some b => leAt b.entry 2 1 % 4 ≠ n | none => true) } }

/-- What is left of a stack that goes off or is trained anew: its remapped rows, which the field-repair list in MRAM keeps (R340, R344). -/
def Stack.anew (x : Stack) : Stack := { Stack.reset with
  spared := x.spared
  listUsed := x.listUsed
  spareFree := x.spareFree }

/-- What a domain holds is lost when it goes off (R333, R498): registers take their reset values, units their reset state, stores and
stacks their contents. -/
def domLost (k : Nat) : Prog := look fun s => progs [
  forAll (domRegs k) fun r => .upd (.regDrop r.1 r.2),
  if 1000 ≤ k then progs [
    .upd (.cl (k - 1000) Cluster.reset),
    .upd (.zero (storeAddr ((k - 1000) / 168) ((k - 1000) % 168)) 0x800000)]
  else if k < 64 then
    match k % 4 with
    | 0 => progs [.upd (.die (k / 4) DieMem.reset), .upd (.drover (k / 4) Drover.reset), onTherm (k / 4) fun x => { x with pll := false }]
    | 3 => forAll (List.range 2) fun n => .upd (.sluice (sn (k / 4) n) Sluice.reset)
    | u => forAll (List.range 4) fun n => .upd (.pipe (pn (k / 4) (4 * (u - 1) + n)) Pipe.reset)
  else if k < 96 then progs [
    .upd (.stackLost (k - 64)),
    onStack (k - 64) Stack.anew,
    only (k < 66) (setReg .rcv 20 0 R.DUMP_STATUS 0)]
  else if k < 104 then linkOff (k - 96) ((s.dom (96 + (k - 96) / 2 * 2 + (1 - (k - 96) % 2))).st == .on)
  else .skip]

/-- The registers of a stack whose logic goes off while its DRAM keeps its contents (R498). -/
def stackRetain (n : Nat) : Prog := progs [
  forAll (domRegs (64 + n)) fun r => .upd (.regDrop r.1 r.2),
  onStack n fun x => { x with temp := 0, refresh := 0, refreshNext := 0, thermAlert := false }]

/-- Requests the rising step of a domain that is OFF or in RETAIN (R496). -/
def riseDom (k : Nat) : Prog := look fun s =>
  let x := s.dom k
  only (x.st == .off || x.st == .retain) (progs [
    onDom k fun m => { m with st := .transition, tr := some ⟨true, false, 0, .on, x.st == .off⟩ },
    riseReq k 0 (domMw k)])

/-- A request to wake a domain: UNC0 of its die first (R38, R496). -/
def wakeDom (k : Nat) : Prog := look fun s => progs [
  onDom k fun m => { m with req := 1 },
  match unc0Of k with
  | some d => if s.domOn (4 * d) then riseDom k else progs [onDom (4 * d) fun m => { m with req := 1 }, riseDom (4 * d)]
  | none => riseDom k]

/-- A domain that is ON starts to go off, or into RETAIN (R496): its units stop, its falling steps are requested. Those of a cluster return
every clock charged to it. -/
def sleepDom (k : Nat) (dest : DomSt) : Prog := look fun s =>
  only ((s.dom k).st == .on) (progs [
    onDom k fun m => { m with st := .transition, tr := some ⟨false, false, 0, dest, false⟩ },
    onPower fun w => { w with
      rise := w.rise.filter fun x => x.dom ≠ k
      fall := w.fall.filter fun x => x.dom ≠ k },
    forAll ((s.power.charged.filter fun e => e.1 / 4096 = k && e.1 % 4096 ≠ 0 && e.1 % 4096 < 1000)) fun e =>
      fallReq k (e.1 % 4096) (subMw (e.1 % 4096)) e.2,
    fallReq k 0 (domMw k) (s.power.chargedFor k 0)])

/-- Whether UNC0 must stay on: a cluster or another uncore domain of the die is not off (R38). -/
def Dev.dieBusy (s : Dev) (d : Nat) : Bool :=
  (List.range 3).any (fun u => (s.dom (4 * d + 1 + u)).st != .off)
    || s.doms.any (fun e => 1000 ≤ e.1 && (e.1 - 1000) / 168 = d && e.2.st != .off)

/-- The request in force is applied once a state has settled (R496). UNC0 waits for the domains of its die. -/
def settle (k : Nat) : Prog := look fun s =>
  let x := s.dom k
  match x.st with
  | .on =>
    if x.req = 0 then only (!(k < 64 && k % 4 = 0 && s.dieBusy (k / 4))) (sleepDom k .off)
    else if x.req = 2 && 64 ≤ k && k < 96 then sleepDom k .retain
    else .skip
  | .off => only (x.req = 1) (wakeDom k)
  | .retain => if x.req = 1 then riseDom k else .skip
  | .transition => .skip

/-- A domain has come ON (R490, R496). -/
def domUp (k : Nat) (fromOff : Bool) : Prog := look fun s => progs [
  onDom k fun m => { m with st := .on, tr := none },
  if 1000 ≤ k then .upd (.cl (k - 1000) { Cluster.reset with wakeAt := s.clock, idleSince := s.clock })
  else if k < 64 && k % 4 = 0 then progs [
    onTherm (k / 4) fun x => { x with pll := true },
    onDie (k / 4) fun m => { m with wakeAt := s.clock },
    forAll (s.doms.filter fun e => unc0Of e.1 = some (k / 4) && e.2.req = 1 && e.2.st == .off) fun e => riseDom e.1]
  else if 64 ≤ k && k < 96 && fromOff then progs [.upd (.stackLost (k - 64)), onStack (k - 64) Stack.anew]
  else .skip,
  settle k]

/-- DOMAIN_READY (R490): the ready time of a granted domain comes. -/
def domainReadyProg (k : Nat) : Prog := look fun s =>
  match (s.dom k).tr with
  | some t => only (t.up && t.granted) (progs [.upd (.time (t.readyAt - s.clock)), domUp k t.fromOff])
  | none => .skip

/-- TOWPATH_COMMAND (R25): a command from the AOC reaches a domain's switch, within 8 always-on cycles. It carries out a granted falling
transition: the domain is OFF or in RETAIN. -/
def towpathCommandProg (k : Nat) : Prog := look fun s =>
  match (s.dom k).tr with
  | some t => only (!t.up && t.granted) (withFree fun v => progs [
      .upd (.time ((v % 8 + 1) * 320)),
      onDom k fun m => { m with st := t.dest, tr := none },
      if t.dest == .retain then stackRetain (k - 64) else domLost k,
      settle k,
      match unc0Of k with
      | some d => settle (4 * d)
      | none => .skip])
  | none => .skip

/-! ### The weir governor (R490 to R493) -/

/-- V_g in 10 mV (R491). -/
def Dev.weirV (s : Dev) : Nat := max 3800 (s.power.vin / 50 * 50)

/-- CLAMP_AVAIL in µJ: it recovers at 0.5 J/s up to 6 J once the clamp has let go (R507). -/
def Dev.clampAvail (s : Dev) : Nat := min 6000000 (s.power.clampMicroJ + (s.clock - s.power.clampAt) / 2000)
/-- Whether the clamp is drawing. -/
def Dev.clampOn (s : Dev) : Bool := s.power.clampEngaged && decide (s.clock < s.power.clampAt)

/-- R493. -/
def Dev.mayRise (s : Dev) (units : Nat) : Bool :=
  let i := s.power.ledger + units
  s.power.inputOk && !s.power.uvWarn && !s.power.emergency && decide (s.weirV * i * i ≤ s.clampAvail * 80000000000)

/-- What a granted rising step does. -/
def grantRise (x : WeirStep) (units : Nat) : Prog := look fun s => progs [
  onPower fun w => { w with rise := w.rise.drop 1 },
  if 1000 ≤ x.sub then onPower fun w => { w with charged := sdel w.charged (stepKey x.dom x.sub) }
  else onPower fun w => { w with charged := sput w.charged (stepKey x.dom x.sub) units },
  tally .pwr 20 0 R.WEIR_GRANTS 1,
  only (x.sub = 0) (onDom x.dom fun m => { m with tr := m.tr.map fun t =>
    if t.up then { t with granted := true, readyAt := s.clock + domReady x.dom t.fromOff } else t })]

/-- What a granted falling step does: the units of its rising step return (R491); an engine's clock is gated. -/
def grantFall (x : WeirStep) : Prog := progs [
  onPower fun w => { w with
    fall := w.fall.drop 1
    charged := if 1000 ≤ x.sub then sput w.charged (stepKey x.dom x.sub) x.units else sdel w.charged (stepKey x.dom x.sub) },
  tally .pwr 20 0 R.WEIR_GRANTS 1,
  if x.sub = 0 then onDom x.dom fun m => { m with tr := m.tr.map fun t => if t.up then t else { t with granted := true } }
  else if x.dom < 1000 || 1000 ≤ x.sub then .skip
  else if x.sub ≤ 6 then onCl (x.dom - 1000) fun c => { c with gated := c.gated ||| 2 ^ (x.sub - 1) }
  else if 119 ≤ x.sub then onCl (x.dom - 1000) fun c => { c with gated := c.gated ||| 2 ^ (x.sub - 113) }
  else onCore (x.dom - 1000) (x.sub - 7) fun y => { y with vecGated := true }]

/-- Grants rising steps in order within the budget of the slot (R492); `left` is what remains, `first` that none was granted yet. -/
def grantRises : Nat → Nat → Bool → Prog
  | 0, _, _ => .skip
  | n + 1, left, first => look fun s =>
    match s.power.rise with
    | [] => .skip
    | x :: _ =>
      let b := s.fld .pwr 20 0 R.WEIR_CFG 5 0 * 320
      let units := s.weirUnits x.mw
      if !s.mayRise units then .skip
      else if b < units then only first (progs [grantRise x units, onPower fun w => { w with riseHold := ceilDiv units b - 1 }])
      else only (units ≤ left) (progs [grantRise x units, grantRises n (left - units) false])

/-- A vector engine's falling step is void once the engine has taken a thread-vector again (R236). -/
def Dev.fallVoid (s : Dev) (x : WeirStep) : Bool :=
  1000 ≤ x.dom && s.domOn x.dom && 7 ≤ x.sub && x.sub ≤ 118 && s.clock < ((s.cl (x.dom - 1000)).core (x.sub - 7)).vecIdle + 2560

/-- Grants falling steps likewise. -/
def grantFalls : Nat → Nat → Bool → Prog
  | 0, _, _ => .skip
  | n + 1, left, first => look fun s =>
    match s.power.fall with
    | [] => .skip
    | x :: _ =>
      let b := s.fld .pwr 20 0 R.WEIR_CFG 5 0 * 320
      if s.fallVoid x then progs [onPower fun w => { w with fall := w.fall.drop 1 }, grantFalls n left first]
      else if b < x.units then only first (progs [grantFall x, onPower fun w => { w with fallHold := ceilDiv x.units b - 1 }])
      else only (x.units ≤ left) (progs [grantFall x, grantFalls n (left - x.units) false])

/-- WEIR_SLOT (R492): one always-on cycle. The steps of stacks that an access has found in RETAIN are requested (R498). -/
def weirSlotProg : Prog := progs [
  .upd (.time 320),
  look fun s => forAll (s.doms.filter fun e => 64 ≤ e.1 && e.1 < 96 && e.2.st == .retain && e.2.req = 1) fun e => riseDom e.1,
  onPower fun w => { w with slots := w.slots + 1 },
  look fun s =>
    let b := s.fld .pwr 20 0 R.WEIR_CFG 5 0 * 320
    progs [
      if s.power.riseHold ≠ 0 then onPower fun w => { w with riseHold := w.riseHold - 1 } else grantRises s.power.rise.length b true,
      if s.power.fallHold ≠ 0 then onPower fun w => { w with fallHold := w.fallHold - 1 } else grantFalls s.power.fall.length b true],
  look fun s => tally .pwr 20 0 R.WEIR_HELD_SLOTS (b2n (!s.power.rise.isEmpty))]

/-- A write of WEIR_TALLY_CLEAR (R513). -/
def weirTallyClearProg : Prog := clearTallies .pwr 20 0 [R.WEIR_GRANTS, R.WEIR_HELD_SLOTS]

/-! ### Engine clocks (R119, R236) -/

/-- Whether an engine's clock could be gated now (R119): it runs, and no instruction in flight uses the engine. -/
def Dev.clockIdle (s : Dev) (k b : Nat) : Bool :=
  let c := s.cl k
  !bitAt c.gated b && !bitAt c.gateReq b && !c.entries.any fun x => (x.stage == .running || x.stage == .draining) && (gateBits x.target).contains b

/-- ENGINE_CLOCK_GATE: an engine (AE0 to AE3, MVE 4, EPE 5, SF cores 6 and 7, coder cores 8 to 11) idle for 4,096 arithmetic cycles asks for its falling step. The
clocks of SF and coder cores are charged nothing (log 43). -/
def engineClockGateProg (k e : Nat) : Prog := look fun s =>
  let c := s.cl k
  only (s.clusterOn (k / 168) (k % 168) && s.clockIdle k e && (6 ≤ e || s.power.chargedFor (clDom k) (clockSub e) ≠ 0)) (progs [
    .upd (.time (sget (fun _ => 0) c.engIdle e + 5120 - s.clock)),
    fallReq (clDom k) (clockSub e) (subMw (clockSub e)) (s.power.chargedFor (clDom k) (clockSub e))])

/-- VECTOR_CLOCK_GATE: a vector engine without a thread-vector for 4,096 core cycles. -/
def vectorClockGateProg (k core : Nat) : Prog := look fun s =>
  let x := (s.cl k).core core
  only (s.clusterOn (k / 168) (k % 168) && !x.vecGated && s.power.chargedFor (clDom k) (7 + core) ≠ 0) (progs [
    .upd (.time (x.vecIdle + 2560 - s.clock)),
    fallReq (clDom k) (7 + core) 5 (s.power.chargedFor (clDom k) (7 + core))])

/-- ENGINE_CLOCK_READY: a granted clock runs, 16 arithmetic or 32 core cycles after the grant. Sub-units 0 to 5 are the engines, 6 + n the
vector engine of THn, 118 and 119 the SF cores, 120 to 123 the coder cores. -/
def engineClockReadyProg (k e : Nat) : Prog := look fun s =>
  let c := s.cl k
  let b := if e < 6 then e else e - 112
  only (s.clusterOn (k / 168) (k % 168) && s.power.holdsStep (clDom k) (e + 1)) (
    if e < 6 || 118 ≤ e then only (bitAt c.gateReq b) (progs [
      .upd (.time 20),
      onCl k fun c => { c with
        gated := c.gated - (if bitAt c.gated b then 2 ^ b else 0)
        gateReq := c.gateReq - 2 ^ b
        engIdle := sput c.engIdle b (s.clock + 20) }])
    else only (c.core (e - 6)).vecReq (progs [
      .upd (.time 20),
      onCore k (e - 6) fun x => { x with vecGated := false, vecReq := false, vecIdle := s.clock + 20 }]))

/-! ### Throttling, envelopes and temperature (R499 to R504) -/

/-- The throttle level of a die: the higher of its two (R500). -/
def Dev.throttle (s : Dev) (d : Nat) : Nat := max s.power.thEnv (s.th d).therm

/-- A die's level goes from `old` to `new`, cluster by cluster, level by level, each a step of a sixteenth of the cluster's charged steps (R490,
R500). A step of the other direction that still waits is withdrawn. -/
def throttleSteps (d old new : Nat) : Prog := look fun s =>
  let cl := (s.doms.filter fun e => 1000 ≤ e.1 && (e.1 - 1000) / 168 = d && e.2.st == .on).map (·.1)
  let units (k : Nat) : Nat := ceilDiv (((s.power.charged.filter fun e => e.1 / 4096 = k && e.1 % 4096 < 1000).map (·.2)).foldl (· + ·) 0) 16
  let mw (k : Nat) : Nat := ceilDiv (((s.power.charged.filter fun e => e.1 / 4096 = k && e.1 % 4096 < 1000).map fun e => subMw (e.1 % 4096)).foldl (· + ·) 0) 16
  forAll cl fun k => progs [
    forAll ((List.range 16).filter fun l => old < l && l ≤ new) fun l =>
      if s.power.rise.any (fun x => x.dom == k && x.sub == 1000 + l) then
        onPower fun w => { w with rise := w.rise.filter fun x => !(x.dom == k && x.sub == 1000 + l) }
      else fallReq k (1000 + l) (mw k) (units k),
    forAll ((List.range 16).filter fun l => new < l && l ≤ old) fun l =>
      if s.power.fall.any (fun x => x.dom == k && x.sub == 1000 + l) then
        onPower fun w => { w with fall := w.fall.filter fun x => !(x.dom == k && x.sub == 1000 + l) }
      else only (s.power.chargedFor k (1000 + l) ≠ 0) (riseReq k (1000 + l) (mw k))]

/-- The envelope level changes, on every die (R501). -/
def setThEnv (v : Nat) : Prog := look fun s => progs [
  onPower fun w => { w with thEnv := v },
  forAll (List.range 16) fun d => throttleSteps d (max s.power.thEnv (s.th d).therm) (max v (s.th d).therm)]

/-- The thermal level of a die changes (R503). -/
def setTherm (d v : Nat) : Prog := look fun s => progs [
  onTherm d fun x => { x with therm := v },
  throttleSteps d (max s.power.thEnv (s.th d).therm) (max s.power.thEnv v)]

/-- An envelope comes into force; a lower one sets the level at once (R501). -/
def setEnv (e : Nat) : Prog := look fun s =>
  let p := s.power.p1ms
  let low := if p ≤ envWatts e || p = 0 then 0 else min 15 (ceilDiv (16 * (p - envWatts e)) p)
  progs [
    onPower fun w => { w with envReq := e, envActive := e, settled := false },
    only (decide (e < s.power.envActive) && decide (s.power.thEnv < low)) (setThEnv low)]

/-- A refused envelope request (R499). -/
def refuseEnv (e : Nat) : Prog := progs [setFld .pwr 20 0 R.PWR_ENV 31 31 1, powerLog 0 0x71 0 0 e]

/-- A request for an envelope: whether it is accepted (R499). -/
def Dev.envOk (s : Dev) (e : Nat) : Bool := 1 ≤ e && e ≤ 4 && decide (e ≤ s.power.envMax)

/-- PWR_ENV (R499, R513). -/
def pwrEnvWrite (v : Nat) : Prog := look fun s => progs [
  only (bitAt v 31) (setFld .pwr 20 0 R.PWR_ENV 31 31 0),
  if s.envOk (v % 16) then setEnv (v % 16) else refuseEnv (v % 16)]
def pwrEnvWriteProg (v : Nat) : Prog := pwrEnvWrite v

/-- INPUT_POWER_SAMPLE (R501): the input is measured, the averages formed, the envelope level adjusted. -/
def inputPowerSampleProg (vin iin : Nat) : Prog := progs [
  onPower fun w => { w with vin := vin, iin := iin, samples := (vin * iin :: w.samples).take 3125 },
  look fun s =>
    let p1 := s.power.mean 3125
    let p100 := s.power.mean 312
    let e := envWatts s.power.envActive * 1000
    let th := s.power.thEnv
    progs [
      onPower fun w => { w with p1ms := p1 / 1000, settled := w.settled || decide (p1 ≤ e) },
      setReg .pwr 20 0 R.PWR_PPEAK (max (s.reg .pwr 20 0 R.PWR_PPEAK) (min 65535 (p1 / 1000))),
      if e < p100 then only (th < 15 && s.power.envRiseAt + 100000 ≤ s.clock)
        (progs [setThEnv (th + 1), onPower fun w => { w with envRiseAt := s.clock }])
      else only (100 * p1 < 95 * e && 0 < th && s.power.envFallAt + 1000000 ≤ s.clock)
        (progs [setThEnv (th - 1), onPower fun w => { w with envFallAt := s.clock }])]]

/-! ### Pen state and emergency shutdown (R505 to R507, R535) -/

/-- Enters pen state: PEN_REASON keeps the first reason (R535). -/
def enterPen (reason : Nat) : Prog := look fun s => progs [
  only (s.fld .boot 20 0 R.BOOT_STATUS 30 30 = 0) (setReg .boot 20 0 R.BOOT_STATUS (2 ^ 30 + reason * 256 + 9)),
  onPower fun w => { w with pen := true }]

/-- Every domain but the management complex goes off at once: stacks OFF, contents lost (R506). -/
def allOff : Prog := look fun s =>
  forAll (s.doms.filter fun e => e.1 ≠ mgmtDom) fun e => progs [domLost e.1, .upd (.dom e.1 Dom.offState)]

/-- An emergency shutdown (R505, R506): cause code, whether the clamp engages, whether the input still holds, and the reason of the pen state it
leads to. Without INPUT_OK the always-on domain alone runs: the management complex goes off too. -/
def emergency (cause : Nat) (clamp holds : Bool) (reason : Nat) : Prog := look fun s =>
  let i := s.power.ledger
  let uj := s.power.vin * i * i / 80000000000
  progs [
    onPower fun w => { w with
      rise := []
      fall := []
      riseHold := 0
      fallHold := 0
      charged := if holds && w.inputOk then w.charged.filter fun e => e.1 / 4096 = mgmtDom else []
      pen := w.pen && holds && w.inputOk
      lastEmerg := cause
      inputOk := w.inputOk && holds
      uvWarn := w.uvWarn && holds
      clampEngaged := clamp
      clampEvents := if clamp then min 65535 (w.clampEvents + 1) else w.clampEvents
      clampMicroJ := if clamp then s.clampAvail - uj else s.clampAvail
      clampAt := if clamp then s.clock + i / 40 else s.clock },
    allOff,
    forAll s.sluices fun e => .upd (.sluice e.1 Sluice.reset),
    powerLog 3 0 cause 0 (i % 2 ^ 32 + s.power.vin % 2 ^ 16 * 2 ^ 32 + s.power.iin % 2 ^ 16 * 2 ^ 48),
    .upd (.undef (mramAddr 16 + 0xE000) 256),
    if holds && s.power.inputOk then enterPen reason
    else progs [.upd (.dom mgmtDom Dom.offState), setReg .boot 20 0 R.BOOT_STATUS 1]]

/-- HOT_PLUG (R488): the blades make and the input capacitance charges; only the always-on domain draws. -/
def hotPlugProg (vin : Nat) : Prog := look fun s =>
  only (!s.power.inputOk) (progs [
    .upd (.time (min 7680000 (1600 * vin))),
    onPower fun w => { w with vin := vin, emergency := false }])

/-- UV_WARN_CHANGE (R487, R493): the input enters or leaves the warning band. -/
def uvWarnChangeProg (vin : Nat) : Prog := onPower fun w => { w with vin := vin, uvWarn := w.inputOk && decide (3800 ≤ vin) && decide (vin < 4000) }

def inputUndervoltageProg (vin : Nat) : Prog := look fun s =>
  only (decide (vin < 3800) && s.power.inputOk) (progs [onPower fun w => { w with vin := vin }, .upd (.time 2000), emergency 1 false false 9])
def inputOvervoltageProg (vin : Nat) : Prog := look fun s =>
  only (decide (5000 < vin) && s.power.inputOk) (progs [onPower fun w => { w with vin := vin }, .upd (.time 1000), emergency 2 true true 9])
def inputOvercurrentProg (iin : Nat) : Prog := look fun s =>
  only (decide (4200 < iin) && s.power.inputOk) (progs [onPower fun w => { w with iin := iin }, .upd (.time 5000), emergency 3 true true 9])

/-- R504: a thermal trip. -/
def thermalTrip : Prog := look fun s => only s.power.inputOk (emergency 4 true true 9)

/-- DIE_TEMP_SAMPLE (R503, R504). -/
def dieTempSampleProg (d temp : Nat) : Prog := look fun s =>
  let limit := s.fld .pwr 20 0 R.THERM_CFG 7 0
  let alert := (List.range 2).any fun i => (s.stk (2 * d + i)).thermAlert
  let x := s.th d
  if 115 ≤ temp then progs [onTherm d fun x => { x with temp := temp, hot := true }, thermalTrip]
  else progs [
    onTherm d fun x => { x with temp := temp, hot := decide (limit ≤ temp) },
    if limit ≤ temp || alert then only (x.therm < 15 && x.riseAt + 100000 ≤ s.clock)
      (progs [setTherm d (x.therm + 1), onTherm d fun x => { x with riseAt := s.clock }])
    else only (temp + 3 ≤ limit && 0 < x.therm && x.fallAt + 1000000 ≤ s.clock)
      (progs [setTherm d (x.therm - 1), onTherm d fun x => { x with fallAt := s.clock }])]

/-- STACK_TEMP_SAMPLE (R341, R504): the hottest of a stack's DRAM dies; the interval changes at the next refresh boundary. -/
def stackTempSampleProg (n temp : Nat) : Prog := look fun s =>
  only (s.domOn (64 + n)) (progs [
    onStack n fun x => { x with temp := temp, refreshNext := refreshFor x.refresh temp, thermAlert := decide (105 < temp) },
    setFld .stk (n / 2) (n % 2) R.STK_STATUS 7 0 temp,
    setFld .stk (n / 2) (n % 2) R.STK_STATUS 11 11 (b2n (decide (105 < temp))),
    only (110 ≤ temp) thermalTrip])

/-- LINK_DIE_TEMP_SAMPLE (R504). -/
def linkDieTempSampleProg (n temp : Nat) : Prog := progs [setReg .pwr 20 0 (R.PWR_LD + 4 * n) temp, only (110 ≤ temp) thermalTrip]

/-! ### References (R510, R511, R574) -/

/-- REF25_LOSS: within 2 µs the internal oscillator takes over, and the REF shutdown follows; device time holds over (R420). -/
def ref25LossProg : Prog := look fun s =>
  only s.power.ref25 (progs [
    .upd (.time 2000),
    onPower fun w => { w with ref25 := false, aoInternal := true },
    onLinks fun x => { x with ptp := if x.ptp.st = 0 then x.ptp else { x.ptp with st := 3, holdAt := s.clock } },
    only s.power.inputOk (emergency 5 true true 9)])

/-- REF25_RESTORE (R574). -/
def ref25RestoreProg : Prog := onPower fun w => { w with ref25 := true, aoInternal := false }

/-- REF156_LOSS (R511): every link goes down, without any shutdown. -/
def ref156LossProg : Prog := progs [
  onPower fun w => { w with ref156 := false },
  forAll (List.range 24) fun p => setFld .lnk (16 + p / 6) (p % 6) R.LNK_PORT_STATUS 7 0 0]
def ref156RestoreProg : Prog := onPower fun w => { w with ref156 := true }

/-- PLL_LOCK_LOSS (R510): of a compute die, or of a link die (16 to 19), while its domain is on. -/
def pllLockLossProg (d : Nat) : Prog := look fun s =>
  let on := if d < 16 then s.domOn (4 * d) else s.domOn (96 + 2 * (d - 16)) || s.domOn (97 + 2 * (d - 16))
  only (on && s.power.inputOk) (progs [only (d < 16) (onTherm d fun x => { x with pll := false }), emergency 5 true true 9])

/-! ### PWR_DOM, PWR_CTRL (R496 to R498, R513) -/

/-- R497: whether a request for a domain is refused. -/
def Dev.domRefused (s : Dev) (k req : Nat) : Bool :=
  if req = 3 then true
  else if req = 2 then !(64 ≤ k && k < 96)
  else if req = 1 then false
  else if k < 64 then
    match k % 4 with
    | 0 => s.dieBusy (k / 4)
    | 3 => (List.range 2).any fun n => s.fld .sl (k / 4) n R.SL_RING_CFG 31 31 = 1 || (s.slu (sn (k / 4) n)).job.isSome
    | u => (List.range 4).any fun n => s.bvInUse (k / 4) (4 * (u - 1) + n)
  else if k < 96 then k = 64 || k = 65
  else if k < 104 then (List.range 3).any fun i => s.fld .lnk (16 + (k - 96) / 2) ((k - 96) % 2 * 3 + i) R.LNK_PORT_CTRL 11 8 ≠ 0
  else true

/-- A write of PWR_DOM[k] (R496, R497, R514). -/
def pwrDomWrite (k v : Nat) : Prog := look fun s => progs [
  only (bitAt v 8) (setFld .pwr 20 0 (R.PWR_DOM + 4 * k) 8 8 0),
  if s.domRefused k (v % 4) then progs [setFld .pwr 20 0 (R.PWR_DOM + 4 * k) 8 8 1, powerLog 0 0x71 0 0 (k * 4 + v % 4)]
  else progs [
    onDom k fun m => { m with req := v % 4 },
    only ((s.dom k).st == .retain && v % 4 = 0) (progs [domLost k, onDom k fun m => { m with st := .off }]),
    settle k]]

def pwrDomOnProg (k : Nat) : Prog := pwrDomWrite k 1
def pwrDomOffProg (k : Nat) : Prog := pwrDomWrite k 0
def pwrDomRetainProg (k : Nat) : Prog := pwrDomWrite k 2

/-- Every switchable domain goes off through the weir; `keep` puts S0 and S1 into RETAIN instead (R535, R573). -/
def orderlyOff (keep : Bool) : Prog := look fun s =>
  forAll (s.doms.filter fun e => e.1 ≠ mgmtDom) fun e =>
    let hold := keep && (e.1 = 64 || e.1 = 65)
    progs [
      onDom e.1 fun m => { m with req := if hold then 2 else 0 },
      only (e.2.st == .retain && !hold) (progs [domLost e.1, onDom e.1 fun m => { m with st := .off }]),
      settle e.1]

/-- PWR_CTRL.PEN (R513): an orderly pen state. -/
def pwrCtrlWrite (v : Nat) : Prog := only (v % 2 = 1) (progs [orderlyOff true, enterPen 0x0B])
def pwrCtrlPenProg : Prog := pwrCtrlWrite 1

/-- PWR_PPEAK_READ: the register clears when read (R10, R513). -/
def pwrPpeakReadProg : Prog := setReg .pwr 20 0 R.PWR_PPEAK 0

/-- PWR registers as read (R513, R514). -/
def Dev.pwrRead (s : Dev) (off : Nat) : Nat :=
  let w := s.power
  if off = R.PWR_STATUS then w.lastEmerg * 65536 + b2n w.uvWarn * 8 + b2n s.clampOn * 4 + b2n w.inputOk * 2 + b2n w.pen
  else if off = R.PWR_ENV then bits (s.reg .pwr 20 0 R.PWR_ENV) 31 31 * 2 ^ 31 + b2n w.settled * 2 ^ 30 + w.envMax * 256 + w.envActive * 16 + w.envReq
  else if off = R.PWR_VIN then w.vin % 65536
  else if off = R.PWR_IIN then w.iin % 65536
  else if off = R.PWR_P1MS then min 65535 w.p1ms
  else if off = R.WEIR_QUEUE then min 65535 w.fall.length * 65536 + min 65535 w.rise.length
  else if off = R.WEIR_LEDGER then w.ledger % 2 ^ 32
  else if off = R.CLAMP_STATUS then w.clampEvents * 65536 + s.clampAvail / 1000
  else if off = R.CLK_STATUS then
    ((List.range 16).map fun d => b2n ((s.th d).pll && s.domOn (4 * d)) * 2 ^ (16 + d)).foldl (· + ·) 0
      + b2n w.aoInternal * 4 + b2n w.ref156 * 2 + b2n w.ref25
  else if 0x100 ≤ off && off < 0x100 + 4 * 105 then
    let x := s.dom ((off - 0x100) / 4)
    bits (s.reg .pwr 20 0 off) 8 8 * 256 + x.st.code * 16 + x.req % 4
  else if 0x300 ≤ off && off < 0x480 then
    let i := (off - 0x300) / 4
    ((List.range 32).map fun b => if i % 6 * 32 + b < 168 then b2n (s.clusterOn (i / 6) (i % 6 * 32 + b)) * 2 ^ b else 0).foldl (· + ·) 0
  else if 0x480 ≤ off && off < 0x4C0 then
    let x := s.th ((off - 0x480) / 4)
    x.temp % 256 * 65536 + x.therm * 256 + w.thEnv * 16 + b2n x.hot
  else s.reg .pwr 20 0 off

end Sys2Proof.Machine
end

