-- ==== Sys2Proof/Machine/Queue.lean ====
section
/-! DEFINITION. The command queues (R457 to R462): their rings and registers, completion records (R469), the end of a command (R464, R468), cancel (R474) and requests of pre-emption and resume (R470). -/

namespace Sys2Proof.Machine

/-! ### Fields of a command (R460) -/

def Command.isRun (c : Command) : Bool := leAt c.body 0 1 = 1
def Command.trigs (c : Command) : Bool := c.isRun && bitAt (leAt c.body 1 1) 0
def Command.entryVa (c : Command) : Nat := leAt c.body 8 8 % 2 ^ 48
def Command.argsVa (c : Command) : Nat := leAt c.body 16 8 % 2 ^ 48
def Command.threadMask (c : Command) : Nat := leAt c.body 26 1
/-- F, the flocks on each cluster. -/
def Command.flocks (c : Command) : Nat := leAt c.body 28 2
def Command.mask (c : Command) : Nat := leAt c.body 32 20
def Command.save (c : Command) : Nat := leAt c.body 56 8 % 2 ^ 46
/-- Whether logical cluster l takes part. -/
def Command.has (c : Command) (l : Nat) : Bool := bitAt c.mask l
/-- The logical clusters of the mask, ascending. -/
def Command.clusters (c : Command) : List Nat := (List.range 160).filter c.has
/-- The priority in force (R459). -/
def Dev.cmdPrio (s : Dev) (c : Command) : Nat := s.fld .q (c.queue / 256) (c.queue % 256) R.Q_CFG 6 4
/-- S of R473. -/
def areaLen (f : Nat) : Nat := roundUp (65536 + f * 20864) 65536

/-! ### Queues -/

def Drover.queue (v : Drover) (q : Nat) : Queue := sget (fun _ => Queue.reset) v.queues q
/-- Queue number q of the device. -/
def Dev.queue (s : Dev) (q : Nat) : Queue := (s.drv (q / 256)).queue (q % 256)
def onQueue (q : Nat) (f : Queue → Queue) : Prog :=
  onDrv (q / 256) fun v => { v with queues := sset (fun _ => Queue.reset) v.queues (q % 256) (f (v.queue (q % 256))) }
/-- A register of a queue. -/
def Dev.qreg (s : Dev) (q off : Nat) : Nat := s.reg .q (q / 256) (q % 256) off
def Dev.qfld (s : Dev) (q off hi lo : Nat) : Nat := bits (s.qreg q off) hi lo
def setQreg (q off v : Nat) : Prog := setReg .q (q / 256) (q % 256) off v
def setQfld (q off hi lo v : Nat) : Prog := setFld .q (q / 256) (q % 256) off hi lo v
/-- The commands of a queue past their fetch. -/
def Dev.cmdsOf (s : Dev) (q : Nat) : List Command := (s.drv (q / 256)).cmds.filter fun c => c.queue == q
/-- Base DPA of a ring, its register pair at `off` (R458). -/
def Dev.qbase (s : Dev) (q off : Nat) : Nat := s.qfld q off 31 12 * 4096 + s.qfld q (off + 4) 13 0 * 2 ^ 32
def qSize (s : Dev) (q : Nat) : Nat := s.qfld q R.Q_RING_SIZE 3 0
def qCplSize (s : Dev) (q : Nat) : Nat := s.qfld q R.Q_RING_SIZE 7 4
/-- Entries written and not fetched. -/
def Dev.qWaiting (s : Dev) (q : Nat) : Nat := (s.qreg q R.Q_PROD + 2 ^ 32 - s.qreg q R.Q_CONS) % 2 ^ 32
/-- The ring is in error: fetching stops (R365). -/
def ringErr (q : Nat) : Prog := progs [setQfld q R.Q_STATE 31 31 1, onQueue q fun x => { x with err := true }]
def sizeOk (n : Nat) : Bool := 4 ≤ n && n ≤ 12

/-! ### Completion records (R366, R469) -/

/-- The record of R469; T_DONE is filled when it is written. -/
def Command.record (c : Command) (status us : Nat) (final : Bool) : List Byte :=
  leBytes 1 status ++ leBytes 1 (b2n final + 2 * b2n c.resumed + 4 * b2n c.replayed + 8 * b2n c.killed + 16 * b2n c.woke)
    ++ leBytes 2 c.ctag ++ sliceBytes c.body 4 4 ++ leBytes 4 (c.seq % 2 ^ 32) ++ leBytes 2 c.queue ++ leBytes 2 us
    ++ leBytes 8 c.tStart ++ leBytes 8 0

/-- Tells a queue's session of a record (R459). -/
def notify (q : Nat) (bytes : List Byte) : Prog := look fun s =>
  only (s.qfld q R.Q_CFG 24 24 = 1) (sendToSession (s.qfld q R.Q_CFG 23 16) 2 0x0020 0 (leAt bytes 0 1) bytes)

/-- A command leaves the drover: its final record has been written, and its tag is free (R468). -/
def forgetCmd (key : Nat) : Prog := onDrv (cmdDie key) fun v => { v with cmds := v.cmds.filter fun c => !(c.key == key) }

/-- Writes the records that wait, while the completion ring has room (R366, R477); a ring whose size is out of range has none. -/
def flushRecords (q : Nat) : Nat → Prog
  | 0 => .skip
  | n + 1 => look fun s =>
    match (s.queue q).held with
    | [] => .skip
    | r :: rest =>
      let prod := s.qreg q R.Q_CPL_PROD
      let size := qCplSize s q
      let base := s.qbase q R.Q_CRING_LO
      let a := base + prod % 2 ^ size * 32
      let word := base + 2 ^ size * 32
      let bytes := patchBytes r.bytes 24 (leBytes 8 s.time)
      let done := progs [
        onQueue q fun x => { x with held := rest },
        notify q bytes,
        match r.final with
        | some key => forgetCmd key
        | none => .skip,
        flushRecords q n]
      if !sizeOk size || 2 ^ size ≤ (prod + 2 ^ 32 - s.qreg q R.Q_CPL_CONS) % 2 ^ 32 then .skip
      else if stackEnd < word + 4 then done
      else match s.reachRange a 32 with
        | .wait => wantStacks a 32
        | .bounds => done
        | .ok => progs [
            memWrite a bytes false,
            setQreg q R.Q_CPL_PROD ((prod + 1) % 2 ^ 32),
            memWrite word (leBytes 4 ((prod + 1) % 2 ^ 32)) false,
            done]

def flushQueue (q : Nat) : Prog := look fun s => flushRecords q (s.queue q).held.length

/-- Puts a record up for writing. -/
def putRecord (q : Nat) (r : HeldRec) : Prog := progs [onQueue q fun x => { x with held := x.held ++ [r] }, flushQueue q]

/-! ### The end of a command (R464, R468) -/

/-- A command gives up its flock slots; its clusters may become idle (R466). -/
def freeSlots (c : Command) : Prog := progs [
  onCmd c.key fun x => { x with slots := false },
  look fun s => forAll c.clusters fun l =>
    let k := ck (c.queue / 256) (s.physOf (c.queue / 256) l)
    only ((s.dom (clDom k)).st == .on) (onCl k fun y => { y with idleSince := s.clock, preempting := ndel y.preempting c.key })]

/-- Frees the cluster tags that a command's flocks pushed (R468). -/
def freeTags (key : Nat) : Prog := look fun s =>
  forAll ((s.clustersOf (cmdDie key)).filter fun k => (s.cl k).tags.any fun t => t.2.cmd == key) fun k =>
    onCl k fun c => { c with tags := c.tags.filter fun t => !(t.2.cmd == key) }

/-- A stage entry has ended (R549, R550): what it restored counts as written by the commands that wait for it; a failure is kept for them. -/
def stageEnded (c : Command) : Prog := onDrv (c.queue / 256) fun v => { v with
  jobs := v.jobs.map fun j => if j.cur == c.key then { j with cur := 0, failed := if statusGood c.status then j.failed else c.status } else j
  cmds := (v.cmds.filter fun x => !(x.key == c.key)).map fun x =>
    if v.jobs.any (fun j => j.cur == c.key && x.spareOf == j.logical + 1) then { x with wrote := x.wrote ++ c.wrote.filter fun r => decide (stackEnd ≤ r.1) } else x }

/-- A command completes: its tags are freed, its slots given back, its final record put up. A stage entry has no record (R550). -/
def completeCmd (key : Nat) : Prog := look fun s =>
  match s.cmdOf key with
  | none => .skip
  | some c => progs [
      freeTags key,
      only c.isRun (freeSlots c),
      endKeeps key,
      onCmd key fun x => { x with st := .complete, saved := [] },
      .upd (.rfaults (s.rfaults.filter fun f => !(f.key == key))),
      only (c.started && !c.stage) traceCommand,
      if c.stage then stageEnded c else putRecord c.queue ⟨c.record c.status 0 true, some key⟩]

/-! ### Cancel (R474) -/

/-- Cancels a command in flight. -/
def cancelCmd (key : Nat) : Prog := look fun s =>
  match s.cmdOf key with
  | none => .skip
  | some c =>
    match c.st with
    | .complete => .skip
    | .preempting => onCmd key fun x => { x with cancelReq := true }
    | .running | .parked => endCommand key 0x30 false
    | _ => progs [onCmd key fun x => { x with status := statusJoin x.status 0x30, failed := true }, completeCmd key]

/-- Cancels the ring entries that have not been fetched: each completes CANCELLED, without a tag. -/
def cancelRing (q : Nat) : Nat → Prog
  | 0 => .skip
  | n + 1 => look fun s =>
    let cons := s.qreg q R.Q_CONS
    let a := s.qbase q R.Q_RING_LO + cons % 2 ^ qSize s q * 64
    let c : Command := ⟨0, q, (s.queue q).seq, s.bytesAt a 64, .complete, 0xFFFF, 0, 0, false, false, false, false, false, 0x30, .none, 0, .none,
      false, false, 0, false, [], 0, false, 0, [], [], [], false, false, false, [], 0⟩
    progs [
      setQreg q R.Q_CONS ((cons + 1) % 2 ^ 32),
      onQueue q fun x => { x with seq := x.seq + 1 },
      putRecord q ⟨c.record 0x30 0 true, none⟩,
      cancelRing q n]

/-- Q_CTRL.CANCEL, QUEUE_CANCEL of a whole queue. -/
def cancelQueue (q : Nat) : Prog := look fun s => progs [
  forAll (s.cmdsOf q) fun c => cancelCmd c.key,
  look fun s => only (sizeOk (qSize s q) && decide (s.qWaiting q ≤ 2 ^ qSize s q)) (cancelRing q (s.qWaiting q)),
  onQueue q fun x => { x with trig := 0 }]

def qCtrlCancelProg (q : Nat) : Prog := look fun s => only (s.domOn (q / 256 * 4)) (cancelQueue q)

/-- The command in flight that holds a tag. -/
def Dev.cmdByTag (s : Dev) (ctag : Nat) : Option Command := (s.drv (ctag / 256)).cmds.find? fun c => c.ctag == ctag

/-- DRV_CANCEL of drover d: a tag of another drover names no command of it. -/
def drvCancelProg (d ctag : Nat) : Prog := look fun s =>
  only (s.domOn (4 * d) && ctag / 256 = d) (match s.cmdByTag ctag with
    | some c => cancelCmd c.key
    | none => .skip)

/-! ### Requests of pre-emption and resume (R319, R470, R471) -/

/-- A barge of a command that is being pre-empted (R319, R352): one that stands at a fault keeps its place, and its record is withdrawn, but where fault and
request came at one time it waits for firmware first (R322, log 46). -/
def preemptBarge (k : Nat) (b : Barge) : Prog := look fun s =>
  let u := b.unit k
  let asked := match s.cmdOf b.cmd with | some c => c.preemptAt | none => 0
  let together := match b.hit with | some h => h.since = asked | none => false
  progs [
    onBarge k b.uid fun b => { b with preempt := true },
    dropWalks (k / 168) (fun x => x == u),
    match b.st with
    | .queued => .skip
    | .binding => if b.spec then haltBarge k b.uid else unwaitAll (.barge b.uid) k
    | .parkedFault => only (s.posted (k / 168) u && !together) (progs [
        withdraw (k / 168) fun r => r.unit == u, onBarge k b.uid fun b => { b with st := .parkedPreempt }])
    | .parkedPreempt => .skip
    | _ => if b.spec then haltBarge k b.uid else settleBarge k b.uid]

/-- A RUNNING command starts to stop its units. -/
def startPreempt (key : Nat) (by_ : ParkBy) : Prog := look fun s => progs [
  onCmd key fun x => { x with st := .preempting, parkBy := by_, preemptReq := .none, preemptAt := if x.preemptReq == .none then s.clock else x.preemptAt },
  forAll (s.clustersOf (cmdDie key)) fun k => look fun s =>
    let c := s.cl k
    let fl := c.flocksOf key
    let bs := c.barges.filter fun b => b.cmd == key
    let es := c.entries.filter fun e => e.cmd == key
    progs [
      only (!fl.isEmpty || !bs.isEmpty || !es.isEmpty) (onCl k fun c => { c with preempting := nadd c.preempting key }),
      forAll fl fun f => onFlock k f.1 f.2 fun x => { x with preempt := true },
      forAll bs fun b => preemptBarge k b]]

/-- A request of pre-emption: at once if the command is RUNNING; kept until it is, if it has not run yet. -/
def requestPreempt (key : Nat) (by_ : ParkBy) : Prog := look fun s =>
  match s.cmdOf key with
  | none => .skip
  | some c =>
    match c.st with
    | .running => only (!c.failed) (startPreempt key by_)
    | .queued | .armed | .waking | .recover => only (c.preemptReq == .none) (onCmd key fun x => { x with preemptReq := by_, preemptAt := s.clock })
    | _ => .skip

/-- Q_CTRL.PREEMPT, QUEUE_PREEMPT. -/
def preemptQueue (q : Nat) : Prog := look fun s =>
  forAll ((s.cmdsOf q).filter fun c => c.st == .running || c.st == .armed || c.st == .waking) fun c => requestPreempt c.key .request
def qCtrlPreemptProg (q : Nat) : Prog := look fun s => only (s.domOn (q / 256 * 4)) (preemptQueue q)

/-- Q_CTRL.RESUME, QUEUE_RESUME: commands parked, or on their way to it, by request. -/
def resumeQueue (q : Nat) : Prog := look fun s =>
  forAll ((s.cmdsOf q).filter fun c => ((c.st == .preempting || c.st == .parked) && c.parkBy == .request) || c.preemptReq == .request) fun c =>
    onCmd c.key fun x => { x with resumeReq := true }
def qCtrlResumeProg (q : Nat) : Prog := look fun s => only (s.domOn (q / 256 * 4)) (resumeQueue q)

/-- A write of Q_CTRL: its bits act together, the cancel last. -/
def qCtrlWrite (q v : Nat) : Prog := progs [
  only (bitAt v 0) (preemptQueue q), only (bitAt v 1) (resumeQueue q), only (bitAt v 2) (cancelQueue q)]

/-! ### Registers of a queue (R459, R462, R485) -/

/-- Q_CFG: a change of REPLAYABLE or INFLIGHT while EN is 1 is refused (R459); a write of EN ends the error of a ring (R365). -/
def qCfgWrite (q v : Nat) : Prog := look fun s =>
  let old := s.qreg q R.Q_CFG
  let err := if bitAt v 31 then 0 else bits old 31 31
  let new := bits v 24 16 * 65536 + bits v 11 8 * 256 + bits v 6 0
  if bitAt old 0 && (bits v 2 2 ≠ bits old 2 2 || bits v 11 8 ≠ bits old 11 8) then setQfld q R.Q_CFG 31 31 1
  else if bitAt v 0 then progs [
    onQueue q fun x => { x with err := false, seq := if bitAt old 0 then x.seq else 0 },
    setQreg q R.Q_CFG (err * 2 ^ 31 + new)]
  else setQreg q R.Q_CFG (err * 2 ^ 31 + new)
def qCfgWriteProg (q v : Nat) : Prog := look fun s => only (s.domOn (q / 256 * 4)) (qCfgWrite q v)

/-- Q_RING_LO to Q_CRING_HI: refused while EN is 1, if they would change. -/
def qRingWrite (q off v : Nat) : Prog := look fun s =>
  let x := if off = R.Q_RING_SIZE then v % 256 else if off = R.Q_RING_LO || off = R.Q_CRING_LO then v / 4096 * 4096 % 2 ^ 32 else v % 2 ^ 14
  if s.qfld q R.Q_CFG 0 0 = 1 && x ≠ s.qreg q off then setQfld q R.Q_CFG 31 31 1 else setQreg q off x

/-- Q_TRIG (R462): EN with a handle that is no lock of the queue's die is refused. -/
def qTrigWrite (q v : Nat) : Prog := look fun s =>
  let d := q / 256
  let h := v % 65536
  let ok := bits h 15 14 ≠ 0 && (match s.handleLock d 168 h with
    | some l => l.dieOf == d
    | none => false)
  if bitAt v 16 && !ok then setQfld q R.Q_CFG 31 31 1 else setQreg q R.Q_TRIG (v % 2 ^ 17)
def qTrigWriteProg (q v : Nat) : Prog := look fun s => only (s.domOn (q / 256 * 4)) (qTrigWrite q v)

/-- Q_CPL_CONS: room in the completion ring lets held records out. -/
def qCplConsWrite (q v : Nat) : Prog := progs [setQreg q R.Q_CPL_CONS v, flushQueue q]

/-- DRV_TALLY_CLEAR. -/
def drvTallyClearProg (d : Nat) : Prog := look fun s => only (s.domOn (4 * d)) (clearTallies .drv d 0 (offsets R.DRV_DISPATCHED R.DRV_TAG_WAIT))

/-- STATE of Q_STATE: what the queue's commands are doing. -/
def Dev.queueState (s : Dev) (q : Nat) : Nat :=
  let l := (s.cmdsOf q).filter fun c => c.st != .complete
  if l.any fun c => c.cancelReq || (c.failed && c.status == 0x30) then 4
  else if l.any fun c => c.st == .preempting then 2
  else if l.any fun c => c.st != .parked then 1
  else if l.isEmpty then 0 else 3

/-- Q_STATE and DRV_STATUS as read. -/
def Dev.qStateRead (s : Dev) (q : Nat) : Nat :=
  s.qfld q R.Q_STATE 31 31 * 2 ^ 31 + (s.queue q).trig % 256 * 65536
    + min 16 ((s.cmdsOf q).filter fun c => c.st != .queued).length * 256 + s.queueState q
def Dev.drvStatusRead (s : Dev) (d : Nat) : Nat :=
  let l := (s.drv d).cmds
  (l.filter fun c => c.st == .running || c.st == .preempting).length % 512 * 65536 + (256 - (l.filter fun c => c.ctag != 0xFFFF).length) % 512

end Sys2Proof.Machine
end

