-- ==== Sys2Proof/Machine/LockCfg.lean ====
section
/-! DEFINITION. The configuration of locks and pools (R314, R317, R327 to R329) and the wait detector (R316, R317, R330, R476). -/

namespace Sys2Proof.Machine

/-! ### Lock registers (R328, R329) -/

def setLockReg (l : LockId) (off v : Nat) : Prog := setReg .lock l.dieOf l.idx off v
/-- A refused write of a lock's configuration. -/
def lockErr (l : LockId) : Prog := look fun s => setLockReg l R.LK_CFG (setBits (s.lockReg l R.LK_CFG) 5 5 1)

/-- Whether EN may be set with KIND `ring` (R314, R329). -/
def Dev.lockMayEnable (s : Dev) (l : LockId) (ring : Bool) : Bool :=
  let slots := bits (s.lockReg l R.LK_LIMITS) 15 0
  let floor := bits (s.lockReg l R.LK_LIMITS) 31 16
  if ring then slots ≠ 0 && bits (s.lockReg l R.LK_SIZE) 19 0 ≠ 0
  else
    let k := l.at_
    floor ≤ slots && s.poolReserved k + floor ≤ s.poolBlocks k
      && s.poolBase k + s.poolBlocks k * s.poolBlock k ≤ 0x800000

/-- LK_CFG. -/
def lkCfgWrite (l : LockId) (v : Nat) : Prog := look fun s =>
  let old := s.lockReg l R.LK_CFG
  let x := s.lock l
  let err := if bitAt v 5 then 0 else bits old 5 5
  let ring := bitAt v 1
  let busy := !x.blks.isEmpty || !x.prodWait.isEmpty || !x.consWait.isEmpty
  let refused :=
    (bitAt old 0 && bits v 4 1 ≠ bits old 4 1)
      || (bitAt old 0 && !bitAt v 0 && busy)
      || (!bitAt old 0 && bitAt v 0 && !s.lockMayEnable l ring)
      || (l.die && !ring)
  if refused then lockErr l
  else progs [
    only (!bitAt old 0 && bitAt v 0) (onLock l fun x => { x with nextIdx := 0 }),
    setLockReg l R.LK_CFG (err * 32 + bits v 4 0)]

/-- LK_VBASE, LK_SIZE and LK_LIMITS: refused while EN is 1, if they would change. -/
def lkFieldWrite (l : LockId) (off v : Nat) : Prog := look fun s =>
  let ring := s.lockRing l
  let old := s.lockReg l off
  let new := if off = R.LK_VBASE_LO then v % 2 ^ 32
    else if off = R.LK_VBASE_HI then v % 2 ^ 16
    else if off = R.LK_SIZE then (if ring then v % 2 ^ 20 else old)
    else v % 2 ^ 32
  if s.lockReg l R.LK_CFG % 2 = 1 && new ≠ old then lockErr l else setLockReg l off new

/-- LK_CTRL.REARM: slots leave DRAIN. -/
def lkCtrlWrite (l : LockId) (v : Nat) : Prog := onLock l fun x => { x with drain := x.drain &&& (0xFF - v % 256) }

/-- The locks that a row of the table may name: lock i mod 64 of cluster i / 64, or from 10,752 on a die lock. -/
def Dev.lockBlockOn (s : Dev) (d i : Nat) : Bool := s.blockOn .lock d i
def lkCfgWriteProg (d i v : Nat) : Prog := look fun s => only (s.lockBlockOn d i) (lkCfgWrite (lockOf d i) v)
def lkCtrlRearmProg (d i v : Nat) : Prog := look fun s => only (s.lockBlockOn d i) (lkCtrlWrite (lockOf d i) v)

/-- CS_POOL_CFG, CS_POOL_BLOCKS: ignored while a pool lock of the store is enabled. -/
def csPoolCfgWrite (d p v : Nat) : Prog := look fun s =>
  only ((s.poolLocks (ck d p)).isEmpty && v % 8 ≠ 7 && bits v 25 3 % 65536 = 0) (setReg .lk d p R.CS_POOL_CFG (v % 2 ^ 26))
def csPoolBlocksWrite (d p v : Nat) : Prog := look fun s =>
  only (s.poolLocks (ck d p)).isEmpty (setReg .lk d p R.CS_POOL_BLOCKS (v % 2 ^ 14))
def csPoolCfgWriteProg (d p v : Nat) : Prog := look fun s => only (s.clusterOn d p) (csPoolCfgWrite d p v)

/-- A register of a lock as read (R328). -/
def Dev.lockRead (s : Dev) (l : LockId) (off : Nat) : Nat :=
  let x := s.lock l
  if off = R.LK_SIZE then (if s.lockRing l then s.lockReg l off else s.poolBlock l.at_ / 64)
  else if off = R.LK_LIMITS then
    (if s.lockRing l then bits (s.lockReg l off) 15 0 * 65537 else s.lockReg l off)
  else if off = R.LK_STATE then (x.blks.filter (·.filled)).length * 65536 + x.blks.length
  else if off = R.LK_WAIT then
    x.drain % 256 * 65536 + ((x.consWait.map (·.slot)).filter (· < 8)).foldl (fun m i => m ||| 2 ^ i) 0 * 256 + b2n (!x.prodWait.isEmpty)
  else if off = R.LK_CTRL then 0
  else s.lockReg l off

/-- CS_POOL_STATE as read. -/
def Dev.poolStateRead (s : Dev) (k : Nat) : Nat := s.poolReserved k % 2 ^ 14 * 65536 + s.poolFree k % 2 ^ 14

/-! ### The wait-for graph (R316, R476) -/

/-- The pending consumers of a block: in each slot that has not released it, the command that holds it, else the one that last took through
that slot. -/
def pendingConsumers (x : Lock) (cons : Nat) (b : LockBlk) : List Nat :=
  ((List.range cons).filter fun i => !bitAt b.released i).filterMap fun i =>
    match b.holders.find? (fun h => h.1 == i) with
    | some h => some h.2
    | none => (x.lastTaker.find? fun h => h.1 == i).map (·.2)

def Dev.consumersOf (s : Dev) (l : LockId) : List Nat :=
  let x := s.lock l
  x.blks.flatMap (pendingConsumers x (s.lockCons l))

/-- What a wait for a block to produce waits for. -/
def Dev.awaitedByProducer (s : Dev) (l : LockId) : List Nat :=
  let held (m : LockId) : Nat := (s.lock m).blks.length
  let ring := s.lockRing l
  let pool := if !ring && s.lockFloor l ≤ held l then
      ((s.poolLocks l.at_).filter fun m => s.lockFloor m < held m).flatMap s.consumersOf else []
  let own := if ring || s.lockSlots l ≤ held l then s.consumersOf l else []
  pool ++ own

/-- The waits of the device: lock, waiter, the commands it waits for. -/
def Dev.lockWaits (s : Dev) : List (LockId × LockWait × List Nat) :=
  s.liveLocks.flatMap fun l =>
    let x := s.lock l
    (x.prodWait.map fun w => (l, w, (s.awaitedByProducer l).filter (2 ^ 32 ≤ ·)))
      ++ (x.consWait.map fun w => (l, w, [x.producer].filter (2 ^ 32 ≤ ·)))

/-- The edges of the graph. -/
def Dev.waitGraph (s : Dev) : List (Nat × Nat) :=
  let locks := s.lockWaits.flatMap fun (e : LockId × LockWait × List Nat) => if e.2.1.cmd < 2 ^ 32 then [] else e.2.2.map fun y => (e.2.1.cmd, y)
  let parked := s.drovers.flatMap fun v => (v.2.cmds.filter fun c => c.st == .parked).flatMap fun c =>
    (v.2.cmds.filter fun y => y.slots && y.clusters.any c.has).map fun y => (c.key, y.key)
  (locks ++ parked).eraseDups

/-- The commands reached from a set by `n` edges or fewer. -/
def reachSet (g : List (Nat × Nat)) : Nat → List Nat → List Nat
  | 0, l => l
  | n + 1, l => reachSet g n (l ++ (g.filterMap fun (e : Nat × Nat) => if l.contains e.1 then some e.2 else none)).eraseDups

/-- Whether a command lies on a cycle. -/
def onCycle (g : List (Nat × Nat)) (x : Nat) : Bool :=
  (reachSet g g.length (g.filterMap fun (e : Nat × Nat) => if e.1 == x then some e.2 else none)).contains x

/-- Walks along edges that stay on cycles until a command comes a second time, and returns the cycle closed there. -/
def findCycle (g : List (Nat × Nat)) : Nat → List Nat → Nat → List Nat
  | 0, path, _ => path
  | n + 1, path, x =>
    if path.contains x then (path.takeWhile (· != x)) ++ [x]
    else match g.find? (fun e => e.1 == x && (e.2 == x || (reachSet g g.length [e.2]).contains x)) with
      | some e => findCycle g n (x :: path) e.2
      | none => path

/-- The abort of a command (R317): the wait on the cycle that began earliest ends with LOCK_DEADLOCK, everything else of the command is cancelled,
its slots enter DRAIN, its uncommitted blocks are freed. -/
def waitAbort (key : Nat) (cycle : List Nat) : Prog := withFree fun v => progs [
  .upd (.time ((v % 8 + 1) * 320)),
  look fun s =>
    match s.cmdOf key with
    | none => .skip
    | some c =>
      let mine := s.lockWaits.filter fun (e : LockId × LockWait × List Nat) => e.2.1.cmd == key && e.2.2.any cycle.contains
      let first := mine.foldl (fun (b : Option LockWait) e => match b with
        | none => some e.2.1
        | some w => if e.2.1.since < w.since then some e.2.1 else some w) none
      let slots := s.liveLocks.map fun l =>
        let x := s.lock l
        let taken := (x.lastTaker.filter fun h => h.2 == key).map (·.1)
        let held := x.blks.flatMap fun b => (b.holders.filter fun h => h.2 == key && !bitAt b.released h.1).map (·.1)
        let waits := (x.consWait.filter fun w => w.cmd == key && decide (w.slot < 8)).map (·.slot)
        (l, (taken ++ held ++ waits).foldl (fun m i => m ||| 2 ^ i) 0)
      let d := c.queue / 256
      let prio := s.cmdPrio c
      progs [
        tally .aoc 20 0 R.AOC_WAITDET_ABORTS 1,
        match first with
        | none => progs [
            setReg .aoc 20 0 R.AOC_WAITDET_LAST (prio * 4096 + c.queue),
            setReg .aoc 20 0 R.AOC_WAITDET_LAST_LOC (d * 65536),
            logE { LogEntry.plain 3 0x0B 0x32 0 with die := d, index := prio, tag := c.ctag, queue := c.queue }]
        | some w => progs [
            setReg .aoc 20 0 R.AOC_WAITDET_LAST (w.handle % 65536 * 65536 + prio * 4096 + c.queue),
            setReg .aoc 20 0 R.AOC_WAITDET_LAST_LOC (w.cl / 168 * 65536 + s.logicalOf (w.cl / 168) (w.cl % 168)),
            logE { s.clusterEntry 3 0x0B 0x32 0 (w.cl / 168) (w.cl % 168) prio c.ctag c.queue w.handle with index := prio },
            match w.who with
            | .instr uid => endEntry w.cl uid 0x32 0 0 false
            | .barge uid => cancelBarge w.cl uid 0x32
            | .flock .. => .skip],
        endCommand key 0x32 true,
        forAll slots fun (x : LockId × Nat) => only (x.2 ≠ 0) (progs [
          onLock x.1 fun y => { y with drain := y.drain ||| x.2 }, drainSlots x.1]),
        look fun s => forAll s.liveLocks fun l =>
          only ((s.lock l).blks.any fun b => b.producer == key && !b.filled) (onLock l fun x => { x with
            blks := x.blks.filter fun b => !(b.producer == key && !b.filled) })]]

/-- WAITDET_EVALUATE (R316): at the next 10 µs the graph is formed. Its edges keep the time since which they have stood at every evaluation: a
cycle has been present as long as the youngest of its edges. -/
def waitdetEvaluateProg : Prog := progs [
  look fun s => .upd (.time (10000 - s.clock % 10000)),
  look fun s =>
    if s.fld .aoc 20 0 R.AOC_WAITDET_CTRL 0 0 = 0 then onAoc fun a => { a with waitEdges := [] }
    else
      let old := s.aoc.waitEdges
      let edges := s.waitGraph.map fun (e : Nat × Nat) =>
        match old.find? (fun o => o.1 == e.1 && o.2.1 == e.2) with
        | some o => o
        | none => (e.1, e.2, s.clock)
      let period := s.fld .aoc 20 0 R.AOC_WAITDET_CTRL 29 16 * 10000
      let g := (edges.filter fun (o : Nat × Nat × Nat) => o.2.2 + period ≤ s.clock).map fun (o : Nat × Nat × Nat) => (o.1, o.2.1)
      let nodes := ((g.map (·.1)).eraseDups).filter (onCycle g)
      if nodes.isEmpty then onAoc fun a => { a with waitEdges := edges }
      else withFree fun v => withFree fun w => look fun s =>
        let cycle := findCycle g (g.length + 1) [] (nodes.getD (v % nodes.length) 0)
        let prio (x : Nat) : Nat := match s.cmdOf x with | some c => s.cmdPrio c | none => 8
        let low := (cycle.map prio).foldl min 8
        let lows := cycle.filter fun x => prio x == low
        let top := (lows.map queueOf).foldl max 0
        let last := lows.filter fun x => queueOf x == top
        progs [onAoc fun a => { a with waitEdges := [] }, waitAbort (last.getD (w % max 1 last.length) 0) cycle]]

end Sys2Proof.Machine
end

