-- ==== Sys2Proof/Machine/FaultActions.lean ====
section
/-! DEFINITION. Page walks (R346, R347, R353), the stop of the unit that asked for one, and firmware's actions on the fault queue (R350 to R352, R355). -/

namespace Sys2Proof.Machine

/-! ### Units that a walk stops (R128, R265, R307, R320, R391, R410) -/

/-- The ring of a pipeline or sluice engine can no longer be read. -/
def ringLost (d kind n code va : Nat) : Prog :=
  if kind = 6 then progs [dieFault .bv d n code 5 0 0 va 6, ringError .bv d n, onPipe (pn d n) fun p => { p with ringStop := true }]
  else progs [dieFault .sl d n code 5 0 0 va 7, ringError .sl d n, onSlu (sn d n) fun x => { x with ringStop := true }]

/-- The job of a die unit ends with a failure of its own. -/
def dieJobEnd (d : Nat) (u : UnitRef) (code cause va : Nat) : Prog := look fun s =>
  if u.uid = 0 then ringLost d u.kind u.index code va
  else if u.kind = 6 then withJob d u.index (u.uid - 1) fun j => progs [
    dieFault .bv d u.index code cause j.stream j.id va 6, bvKillFault d u.index (u.uid - 1) code]
  else match (s.slu (sn d u.index)).job with
    | some j => progs [dieFault .sl d u.index code cause 0 (j.u 4 4) va 7, slKillFault d u.index code]
    | none => .skip

/-- A walk that a unit asked for ends without a translation. -/
def walkFault (d : Nat) (w : Walk) (cause level : Nat) : Prog := look fun s =>
  let u := w.unit
  let k := ck d u.p
  if u.kind = 1 then
    let x := s.flock k u.index u.flock
    only (w.demand && x.st == .wait) (thStop k u.index u.flock w.va (match x.wait with | some v => v.thread | none => 0) w.access cause level)
  else if u.kind ≤ 4 then only w.demand (stopAtFault k u.uid (s.placeOf k u.uid u.index) w.va w.access cause level)
  else if u.kind = 5 then progs [
    only (!w.demand && cause = 4) (logE { LogEntry.plain 3 0x08 0x20 4 with die := d, data := w.va }),
    parkFault k u.uid w.va w.access cause level]
  else if cause = 4 then dieJobEnd d u 0x20 3 w.va
  else progs [
    postFault d ⟨u, w.tag, w.queue, w.va, cause, level, w.access, false⟩,
    if u.uid = 0 then .skip
    else if u.kind = 6 then withJob d u.index (u.uid - 1) fun j => progs [
      dieFault .bv d u.index (faultStatus cause) (if cause = 3 then 2 else 1) j.stream j.id w.va 6,
      onPipe (pn d u.index) fun p => p.park (u.uid - 1) s.clock]
    else match (s.slu (sn d u.index)).job with
      | some j => progs [
          dieFault .sl d u.index (faultStatus cause) (if cause = 3 then 2 else 1) 0 (j.u 4 4) w.va 7,
          onSlu (sn d u.index) fun x => { x with job := some { j with parked := true } }]
      | none => .skip]

/-- A walk that meets R28 in a table (R28, R345). -/
def walkBounds (d : Nat) (w : Walk) : Prog := look fun s =>
  let u := w.unit
  let k := ck d u.p
  if u.kind = 1 then
    let x := s.flock k u.index u.flock
    only (w.demand && x.st == .wait) (thDie k u.index u.flock 0x12 w.va (match x.wait with | some v => v.thread | none => 0) (w.access = 2) 0)
  else if u.kind ≤ 4 then only w.demand (endBounds k u.uid (s.placeOf k u.uid u.index))
  else if u.kind = 5 then bargeBounds k u.uid w.va (w.access = 1)
  else dieJobEnd d u 0x12 1 w.va

/-- PAGE_WALK: walk number `n` in flight of a die comes to its end. Its result is used once if an invalidation was started meanwhile (R353). -/
def pageWalkProg (d n : Nat) : Prog := look fun s =>
  match (s.die d).walks[n]? with
  | none => .skip
  | some w =>
    let root := s.fld .dmmu 20 0 R.DMMU_ROOT_LO 31 12 * 4096 + s.fld .dmmu 20 0 R.DMMU_ROOT_HI 13 0 * 2 ^ 32
    let reads := s.walkReads w.va 4 0 root
    if reads.any fun a => s.reachAt a == .wait then forAll reads fun a => wantStacks a 8
    else progs [
      onDie d fun m => { m with walks := m.walks.eraseIdx n },
      forAll reads fun a => memTouch a 8,
      match s.walk w.va w.access with
      | .bounds => walkBounds d w
      | .fault c l => walkFault d w c l
      | .leaf e =>
        if w.stale then onDie d fun m => { m with once := m.once ++ [(w.unit, { e with once := true })] }
        else progs [
          onDie d fun m => { m with tlb := tlbFill 4096 m.tlb e },
          only (w.unit.kind < 6) (onCl (ck d w.unit.p) fun c => c.fill e)]]

/-! ### Actions of firmware (R351) -/

/-- RESUME: the unit retries its access; an instruction is staged again and issues again, from its cursor, under R116 (R128). -/
def resumeUnit (d : Nat) (r : FaultRec) : Prog :=
  let u := r.unit
  let k := ck d u.p
  if u.kind = 1 then onFlock k u.index u.flock fun x => if x.st == .faulted then { x with st := .run, wait := none } else x
  else if u.kind ≤ 4 then onEntry k u.uid fun e => if e.stage == .faulted then { e with stage := .queued } else e
  else if u.kind = 5 then onBarge k u.uid fun b =>
    if b.st == .parkedFault then (if b.preempt then { b with st := .parkedPreempt, cause := 0 } else { b.again with cause := 0 }) else b
  else if u.kind = 6 then (if u.uid = 0 then .skip else bvResumeFault d u.index (u.uid - 1))
  else (if u.uid = 0 then .skip else slResumeFault d u.index)

/-- KILL: the unit's work ends with the fault's status. -/
def killUnit (d : Nat) (r : FaultRec) : Prog := look fun s =>
  let u := r.unit
  let k := ck d u.p
  let st := faultStatus r.cause
  if u.kind = 1 then killCommand (s.flock k u.index u.flock).cmd st
  else if u.kind ≤ 4 then endEntry k u.uid st (if r.cause = 3 then 3 else 2) 0 false
  else if u.kind = 5 then drainBarge k u.uid st
  else if u.uid = 0 then ringLost d u.kind u.index st r.va
  else if u.kind = 6 then bvKillFault d u.index (u.uid - 1) st
  else slKillFault d u.index st

/-- A write of DMMU_FAULT_ACTION: it acts on the record at the head and pops it; a withdrawn record is only popped (R352). -/
def faultAction (d action : Nat) : Prog := look fun s =>
  match (s.die d).fq with
  | [] => .skip
  | r :: rest => only (action = 1 || action = 2) (progs [
      onDie d fun m => { m with fq := rest },
      if r.withdrawn then .skip else if action = 1 then resumeUnit d r else killUnit d r])

def faultResumeProg (d : Nat) : Prog := look fun s => only (s.domOn (4 * d)) (faultAction d 1)
def faultKillProg (d : Nat) : Prog := look fun s => only (s.domOn (4 * d)) (faultAction d 2)

/-- The fault queue's registers as read (R355). -/
def Dev.fqRead (s : Dev) (d off : Nat) : Nat :=
  let m := s.die d
  if off = R.DMMU_FQ_STATUS then min 65535 m.backlog.length * 65536 + m.fq.length % 128
  else match m.fq with
    | [] => if off ≤ R.DMMU_FAULT_ACTION then 0 else s.reg .fq d 0 off
    | r :: _ =>
      if off = R.DMMU_FAULT_ADDR_LO then r.va % 2 ^ 32
      else if off = R.DMMU_FAULT_ADDR_HI then r.level % 4 * 2 ^ 26 + r.cause % 4 * 2 ^ 24 + r.access % 4 * 2 ^ 20 + r.va / 2 ^ 32 % 2 ^ 16
      else if off = R.DMMU_FAULT_UNIT then r.unit.flock % 2 * 2 ^ 23 + r.unit.index % 128 * 2 ^ 16 + r.unit.kind * 2 ^ 8 + r.unit.p % 256
      else if off = R.DMMU_FAULT_TAG then b2n r.withdrawn * 2 ^ 24 + r.queue % 4096 * 4096 + r.tag % 4096
      else if off = R.DMMU_FAULT_ACTION then 0 else s.reg .fq d 0 off

end Sys2Proof.Machine
end

