-- ==== Sys2Proof/Machine/Mailbox.lean ====
section
/-! DEFINITION. Replies to Bentin requests (R447, R449), mailboxes (R479 to R482) and the claims of shared resources (R483, R484). -/

namespace Sys2Proof.Machine

/-! ### Replies (R447, R449) -/

/-- How many requests a session remembers (R449). -/
def reqKeep : Nat := 64

/-- Sets the reply of a remembered request. -/
def replySet (l : List (Nat × Option (List Byte))) (id : Nat) (b : List Byte) : List (Nat × Option (List Byte)) :=
  l.map fun (e : Nat × Option (List Byte)) => if e.1 = id then (id, some b) else e

/-- Sends the REPLY to a request that came from `src`, and keeps it for a repeated request (R449). -/
def answer (src ses id opcode status flags : Nat) (payload : List Byte) : Prog := look fun s =>
  let x := s.ses ses
  let b := bentinFrame 1 opcode s.groupIndex flags ses id status x.seq payload
  progs [
    deliver src 1 b,
    .upd (.session ses { x with
      seq := x.seq + 1
      reqs := replySet x.reqs id b })]

/-- The outcome of an ENVELOPE_SET and its reply (R499): PWR_ENV as payload, or a refusal. -/
def envAnswer (src ses id e : Nat) : Prog := look fun s =>
  if s.envOk e then progs [setEnv e, look fun s => answer src ses id 0x40 0 0 (leBytes 4 (s.pwrRead R.PWR_ENV))]
  else progs [refuseEnv e, answer src ses id 0x40 0x71 0 []]

/-! ### Mailboxes -/

/-- The cluster a CLUSTER mailbox names. -/
def Dev.mbCluster (s : Dev) (m : Nat) : Nat :=
  let t := s.reg .mb 20 m R.MB_TARGET
  ck (bits t 11 8) (s.physOf (bits t 11 8) (bits t 7 0))

/-- Whether the receiver is down (R480). -/
def Dev.mbDown (s : Dev) (m : Nat) : Bool :=
  let unit := s.fld .mb 20 m R.MB_TARGET 7 0
  match s.fld .mb 20 m R.MB_CFG 1 0 with
  | 0 => true
  | 1 => false
  | 2 => !(s.ses unit).isOpen
  | _ => 160 ≤ unit || !s.clusterOn (s.mbCluster m / 168) (s.mbCluster m % 168)

/-- MB_OUTCOME of the stored send (R481). -/
def Mailbox.word (x : Mailbox) : Nat := x.seq * 65536 + b2n x.coll * 16 + x.result

/-- MB_OUTCOME of the latest send. -/
def Mailbox.outcome (x : Mailbox) : Nat := match x.down with
  | some _ => x.seq * 65536 + 32 + 2
  | none => x.word

/-- The doorbell of a send that has been stored (R480). -/
def doorbell (m : Nat) : Prog := look fun s =>
  let x := s.mb m
  match s.fld .mb 20 m R.MB_CFG 1 0 with
  | 2 => sendToSession (s.fld .mb 20 m R.MB_TARGET 7 0) 3 0x8001 0 0 (x.data ++ leBytes 4 x.sender ++ leBytes 4 x.seq)
  | 3 =>
    let k := s.mbCluster m
    memWrite (storeAddr (k / 168) (k % 168) + s.fld .mb 20 m R.MB_DOORBELL_OFF 22 2 * 4) (leBytes 4 x.seq) false
  | _ => .skip

/-- Answers the MAILBOX_SEND that waits for the stored send. -/
def mbAnswer (m : Nat) : Prog := look fun s =>
  match (s.mb m).reply with
  | some r => progs [
      onMb m fun x => { x with reply := none },
      answer r.src r.session r.reqId 0x0030 0 0 (leBytes 4 (s.mb m).word)]
  | none => .skip

/-- A send (R481). -/
def mbSend (m id : Nat) (payload : List Byte) (reply : Option MbReply) : Prog := look fun s =>
  if s.mbDown m then progs [
    onMb m fun x => { x with down := some id },
    match reply with
    | some r => answer r.src r.session r.reqId 0x0030 0 0 (leBytes 4 { s.mb m with down := some id }.outcome)
    | none => .skip]
  else progs [
    only (s.mb m).full (setFld .mb 20 m R.MB_STATUS 1 1 1),
    onMb m fun x => { x with
      data := payload.take 16
      sender := id
      seq := (x.seq + 1) % 65536
      coll := x.full
      full := true
      result := 0
      sentAt := s.clock
      waiting := true
      reply := reply
      down := none },
    doorbell m]

/-- MB_ACK (R481): the receiver drains the mailbox; a drain after the timeout leaves the outcome. -/
def mbAckProg (m : Nat) : Prog := look fun s => only (s.mb m).full (progs [
  onMb m fun x => { x with
    full := false
    waiting := false
    result := if x.waiting then 1 else x.result },
  mbAnswer m])

/-- MB_TIMEOUT (R481): TIMEOUT_US pass from the send without a drain. -/
def mbTimeoutProg (m : Nat) : Prog := look fun s => only (s.mb m).waiting (progs [
  .upd (.time ((s.mb m).sentAt + 1000 * s.fld .mb 20 m R.MB_CFG 31 12 - s.clock)),
  onMb m fun x => { x with
    waiting := false
    result := 2 },
  mbAnswer m])

/-- MB_SEND_WIN: a shepherd core writes the window (R479). -/
def mbSendWinProg (m core : Nat) (data : List Byte) : Prog := mbSend m (2 ^ 30 + core % 8) data none

/-- A mailbox register as read (R486). -/
def Dev.mbRead (s : Dev) (m off : Nat) : Nat :=
  let x := s.mb m
  if off < 0x40 then 0
  else if off < 0x50 then leAt x.data (off - 0x40) 4
  else if off = R.MB_SENDER then x.sender
  else if off = R.MB_STATUS then x.seq * 65536 + s.fld .mb 20 m off 1 1 * 2 + b2n x.full
  else if off = R.MB_OUTCOME then x.outcome
  else if off = R.MB_OUTCOME_ID then x.down.getD x.sender
  else s.reg .mb 20 m off

/-- MB_CFG: a TIMEOUT_US outside 1 to 1,000,000 leaves the field. -/
def mbCfgWrite (m v : Nat) : Prog := look fun s =>
  let t := bits v 31 12
  let old := s.reg .mb 20 m R.MB_CFG
  setReg .mb 20 m R.MB_CFG (setBits (if 1 ≤ t && t ≤ 1000000 then setBits old 31 12 t else old) 1 0 (bits v 1 0))

/-! ### Shared resources -/

/-- The features that may claim resource r (R483). -/
def resFeatures (r : Nat) : List Nat := match r with
  | 0 => [1, 2]
  | 1 => [3, 4]
  | 2 => [5, 3]
  | 3 => [5, 3]
  | 4 => [6, 7]
  | _ => []

/-- OWNER of resource r. -/
def Dev.owns (s : Dev) (r : Nat) : Nat := s.fld .res 20 0 (R.RES_CLAIM + 4 * r) 7 0

/-- A timer that loses its holder is no longer armed: its enable bit reads 0 (R483). -/
def dropTimer (r : Nat) : Prog := only (r = 2 || r = 3) (setFld .tmr 20 (r - 2) R.TMR_CTRL 0 0 0)

/-- A claim of feature f (R484). -/
def resClaimProg (r f : Nat) : Prog := look fun s =>
  let o := s.owns r
  only ((resFeatures r).contains f) (
    if o = 0 then progs [
      setFld .res 20 0 (R.RES_CLAIM + 4 * r) 7 0 f,
      only (f = 6) (onAoc fun a => { a with traceNext := 0 })]
    else if o = f then .skip
    else progs [
      setFld .res 20 0 (R.RES_CLAIM + 4 * r) 31 31 1,
      setFld .res 20 0 (R.RES_CLAIM + 4 * r) 23 16 f,
      logE { LogEntry.plain 0 0x0B 0 0 with index := r, data := r * 65536 + f * 256 + o }])

/-- A release by feature f (R484). -/
def resReleaseProg (r f : Nat) : Prog := look fun s =>
  only (s.owns r = f && f ≠ 0) (progs [setFld .res 20 0 (R.RES_CLAIM + 4 * r) 7 0 0, dropTimer r])

/-- A write of RES_CLAIM[r]: the W1C bits first, then the release or the claim. -/
def resWrite (r v : Nat) : Prog := look fun s =>
  let old := s.reg .res 20 0 (R.RES_CLAIM + 4 * r)
  progs [
    setReg .res 20 0 (R.RES_CLAIM + 4 * r) (setBits old 31 30 (bits old 31 30 &&& (3 - bits v 31 30))),
    if bitAt v 8 then resReleaseProg r (bits v 7 0) else resClaimProg r (bits v 7 0)]

end Sys2Proof.Machine
end

