-- ==== Sys2Proof/Machine/Ptp.lean ====
section
/-! DEFINITION. PTP (R419, R420). Message formats and the comparison of masters are those of IEEE 1588-2019, which the spec does not restate. -/

namespace Sys2Proof.Machine

def onPtp (f : Ptp → Ptp) : Prog := onLinks fun x => { x with ptp := f x.ptp }

def Dev.ptpOn (s : Dev) : Bool := s.fld .ld0 16 0 R.PTP_CTRL 8 8 = 1

/-- Message type, two-step flag, correction in ns, source, sequence number. -/
def mType (m : List Byte) : Nat := beAt m 0 1 % 16
def mTwoStep (m : List Byte) : Bool := bitAt (beAt m 6 1) 1
def mCorr (m : List Byte) : Int := shrInt (sext 64 (beAt m 8 8)) 16
def mSource (m : List Byte) : List Byte := sliceBytes m 20 10
def mSeq (m : List Byte) : Nat := beAt m 30 2
/-- The time stamp of a message, in ns. -/
def mTime (m : List Byte) : Nat := beAt m 34 6 * 1000000000 + beAt m 40 4

/-- Handles the first message of a type that has arrived: its side, the device time of its arrival, its bytes. Those of another domain are
dropped. -/
def ptpTake (type : Nat) (f : Nat → Nat → List Byte → Prog) : Prog := look fun s =>
  match s.links.ptpIn.zipIdx.find? fun q => mType q.1.2.2 = type with
  | none => .skip
  | some (m, i) => progs [
      onLinks fun x => { x with ptpIn := x.ptpIn.eraseIdx i },
      only (s.ptpOn && beAt m.2.2 4 1 = s.fld .ld0 16 0 R.PTP_CTRL 7 0) (f m.1 m.2.1 m.2.2)]

/-- The number (port + 32 × sub-port) of a PTP side. -/
def Dev.ptpPort (s : Dev) (side : Nat) : Nat := if side = 0 then bits (clsReg s R.PTP_PORTS) 6 0 else bits (clsReg s R.PTP_PORTS) 14 8

/-! ### The best master (R420) -/

/-- The announce interval, and the times it allows, in ns. -/
def announceNs : Nat := 250000000

/-- The rank of an announced master, lower is better: priority1, class, accuracy, variance, priority2, identity, steps removed, sender. -/
def announceRank (m : List Byte) : List Byte :=
  sliceBytes m 47 1 ++ sliceBytes m 48 4 ++ sliceBytes m 52 1 ++ sliceBytes m 53 8 ++ sliceBytes m 61 2 ++ mSource m

/-- The best of the masters that qualify: two Announce messages within four intervals. -/
def bestMaster (now : Nat) (l : List (List Byte × PtpForeign)) : Option (List Byte × PtpForeign) :=
  (l.filter fun f => 2 ≤ f.2.seen.length && f.2.seen.all fun t => now ≤ t + 4 * announceNs).foldl (fun b f =>
    match b with
    | some c => if beNat f.2.rank < beNat c.2.rank then some f else b
    | none => some f) none

/-- The chosen master after a change of those heard of. -/
def chooseMaster : Prog := look fun s =>
  let p := s.links.ptp
  match bestMaster s.clock p.foreign with
  | none => .skip
  | some (id, f) => onPtp fun x => { x with
      master := some id
      viaB := f.viaB
      rank := f.rank
      announceAt := if x.master = some id then x.announceAt else s.clock
      st := if x.st = 0 || x.st = 3 then 1 else x.st
      good := if x.st = 0 || x.st = 3 then 0 else x.good
      syncRx := if x.master = some id then x.syncRx else none
      last := if x.master = some id then x.last else none }

/-- PTP_ANNOUNCE: an Announce message feeds the best-master choice. -/
def ptpAnnounceProg : Prog := ptpTake 0x0B fun side _ m => look fun s =>
  let id := mSource m
  let old := (s.links.ptp.foreign.find? fun f => f.1 == id).map (·.2.seen)
  progs [
    onPtp fun x => { x with
      foreign := (x.foreign.filter fun f => !(f.1 == id)) ++ [(id, ⟨announceRank m, side = 1, (s.clock :: old.getD []).take 2⟩)]
      announceAt := if x.master = some id then s.clock else x.announceAt },
    chooseMaster]

/-- PTP_ANNOUNCE_TIMEOUT: three intervals without an Announce of the master. -/
def ptpAnnounceTimeoutProg : Prog := look fun s =>
  let p := s.links.ptp
  only p.master.isSome (progs [
    .upd (.time (p.announceAt + 3 * announceNs - s.clock)),
    look fun s => onPtp fun x => { x with
      foreign := x.foreign.filter fun f => x.master ≠ some f.1
      master := none
      syncRx := none
      last := none
      delayTx := none
      st := if x.st = 1 || x.st = 2 then 3 else x.st
      holdAt := if x.st = 1 || x.st = 2 then s.clock else x.holdAt
      good := 0
      bad := 0 },
    chooseMaster])

/-- PTP_HOLDOVER_EXPIRY. -/
def ptpHoldoverExpiryProg : Prog := look fun s =>
  let p := s.links.ptp
  only (p.st = 3) (progs [
    .upd (.time (p.holdAt + clsReg s R.PTP_HOLDOVER * 1000000000 - s.clock)),
    onPtp fun x => { x with st := 0 }])

/-! ### Offsets (R420) -/

/-- Device time is stepped by an offset; every open block of a flow says so (R454). -/
def stepTime (off : Int) : Prog := look fun s => progs [
  .upd (.timeOff (s.timeOff - off)),
  setFld .ld0 16 0 R.PTP_STATUS 4 4 1,
  steppedBlocks]

/-- A rate correction of at most 100 ppm since the last: by how much it has moved device time is free within that bound. -/
def slew : Prog := withFree fun v => look fun s =>
  let m := (s.clock - s.links.ptp.slewAt) / 10000
  progs [
    .upd (.timeOff (s.timeOff + ((v % (2 * m + 1) : Nat) : Int) - (m : Int))),
    onPtp fun x => { x with slewAt := s.clock }]

/-- A new offset from the master: PTP_OFFSET and the servo's state. -/
def applyOffset (off : Int) : Prog := look fun s =>
  let lock : Int := s.fld .ld0 16 0 R.PTP_CTRL 23 16
  let p := s.links.ptp
  let a := (off.natAbs : Int)
  progs [
    setReg .ld0 16 0 R.PTP_OFFSET (wrapN 32 (sat off (-(2 ^ 31)) (2 ^ 31 - 1))),
    if p.st = 1 then
      if 1000000 < a then progs [stepTime off, onPtp fun x => { x with good := 0, slewAt := s.clock }]
      else progs [
        slew,
        onPtp fun x =>
          let n := if a ≤ lock then x.good + 1 else 0
          { x with
            good := if 16 ≤ n then 0 else n
            bad := 0
            st := if 16 ≤ n then 2 else 1 }]
    else if p.st = 2 then progs [
      slew,
      onPtp fun x =>
        let n := if 8 * lock < a then x.bad + 1 else 0
        { x with
          bad := if 4 ≤ n then 0 else n
          good := 0
          st := if 4 ≤ n then 1 else 2 }]
    else .skip]

/-- A Sync's precise origin is known. -/
def syncDone (origin : Int) (rx : Nat) : Prog := look fun s => progs [
  onPtp fun x => { x with
    last := some (origin, (rx : Int))
    syncRx := none },
  applyOffset ((rx : Int) - origin - s.links.ptp.delay)]

/-- PTP_SYNC: a Sync from the chosen master. -/
def ptpSyncProg : Prog := ptpTake 0 fun _ rx m => look fun s =>
  only (s.links.ptp.master = some (mSource m)) (
    if mTwoStep m then onPtp fun x => { x with syncRx := some (mSeq m, rx, mCorr m) }
    else syncDone ((mTime m : Int) + mCorr m) rx)

/-- PTP_FOLLOW_UP: the precise origin time of a two-step Sync. -/
def ptpFollowUpProg : Prog := ptpTake 8 fun _ _ m => look fun s =>
  match s.links.ptp.syncRx with
  | some (q, rx, corr) => only (s.links.ptp.master = some (mSource m) && q = mSeq m) (syncDone ((mTime m : Int) + corr + mCorr m) rx)
  | none => .skip

/-! ### Delays (R419, R420) -/

/-- Own port identity on a side. -/
def ptpSelf (p : Nat) : List Byte := beBytes 10 (Config.ptpIdentity p).toNat

/-- PTP_DELAY_REQ: a Delay_Req goes to the master's side, by multicast over UDP/IPv4. -/
def ptpDelayReqProg : Prog := look fun s =>
  let x := s.links.ptp
  let p := s.ptpPort (b2n x.viaB)
  let body := beBytes 1 1 ++ beBytes 1 0x12 ++ beBytes 2 44 ++ beBytes 1 (s.fld .ld0 16 0 R.PTP_CTRL 7 0) ++ List.replicate 15 0 ++ ptpSelf p
    ++ beBytes 2 x.seqOut ++ beBytes 1 1 ++ beBytes 1 0x7F ++ List.replicate 10 0
  only (s.ptpOn && x.master.isSome) (progs [
    txFrame ⟨p % 32, p / 32, 0x1000, 0, (Config.ptpAddress p).toNat, 0xE0000181, 319, 319, body, 0, 0⟩,
    onPtp fun x => { x with
      delayTx := some (x.seqOut, s.time)
      seqOut := (x.seqOut + 1) % 65536 }])

/-- PTP_DELAY_RESP: a delay measurement: half of the two ways, and LNK_PTP_ASYM of the port. -/
def ptpDelayRespProg : Prog := ptpTake 9 fun side _ m => look fun s =>
  let x := s.links.ptp
  let p := s.ptpPort side
  match x.delayTx, x.last with
  | some (q, t3), some (t1, t2) =>
    only (x.master = some (mSource m) && q = mSeq m && sliceBytes m 44 10 = ptpSelf p) (
      let asym := sext 32 (s.preg (p % 32) R.LNK_PTP_ASYM)
      onPtp fun x => { x with
        delay := shrInt ((t2 - t1) + ((mTime m : Int) - mCorr m - (t3 : Int))) 1 + asym
        delayTx := none })
  | _, _ => .skip

end Sys2Proof.Machine
end

