-- ==== Sys2Proof/Machine/Roce.lean ====
section
/-! DEFINITION. RoCEv2 reliable connections (R441 to R446): entries, memory windows, what arrives, what is sent. The packet formats are those of the InfiniBand specification, which the spec does not restate. -/

namespace Sys2Proof.Machine

def Dev.qp (s : Dev) (g : Nat) : Qp := sget (fun _ => Qp.reset) s.links.qps g
def onQp (g : Nat) (f : Qp → Qp) : Prog := onLinks fun x => { x with
  qps := sset (fun _ => Qp.reset) x.qps g (f (sget (fun _ => Qp.reset) x.qps g)) }

/-! ### Entries (R444) -/

def qState (e : List Byte) : Nat := leAt e 0 1 % 4
def qFlag (e : List Byte) (i : Nat) : Bool := bitAt (leAt e 1 1) i
def qPmtu (e : List Byte) : Nat := 1024 * 2 ^ min 2 (leAt e 3 1)
def qPort (e : List Byte) : Nat := leAt e 2 1 % 32
def qSub (e : List Byte) : Nat := leAt e 2 1 / 32 % 4
def Dev.qSend (s : Dev) (e : List Byte) : Option LockId := s.entryLock (leAt e 26 1 % 16) (leAt e 24 2)
def Dev.qRecv (s : Dev) (e : List Byte) : Option LockId := s.entryLock (leAt e 30 1 % 16) (leAt e 28 2)
def qSlot (e : List Byte) : Nat := leAt e 27 1 % 8
def setState (e : List Byte) (st : Nat) : List Byte := patchBytes e 0 (leBytes 1 (leAt e 0 1 / 4 * 4 + st))
def setCfgErr (e : List Byte) : List Byte := patchBytes e 0 (leBytes 1 (leAt e 0 1 % 128 + 128))

/-- The queue pairs that R531 gives to the group: software's writes to them are ignored, with CFG_ERR. -/
def groupQp (g : Nat) : Bool := 16368 ≤ g

/-- Whether an entry is valid (R445): no reserved bit or value, PORT on its own link die, each named lock an enabled ring, a direction named. -/
def Dev.qpOk (s : Dev) (g : Nat) (e : List Byte) : Bool :=
  let ring (l : Option LockId) : Bool := match l with | some l => s.lockOn l && s.lockRing l | none => false
  leAt e 0 1 / 4 % 32 = 0 && leAt e 1 1 < 128 && leAt e 2 1 < 128 && qPort e / 6 = g / 4096 && leAt e 3 1 ≤ 2
    && zeroAt e 15 1 && zeroAt e 19 1 && zeroAt e 23 1 && leAt e 26 1 < 16 && leAt e 27 1 < 8 && leAt e 30 1 < 16 && leAt e 31 1 < 64
    && leAt e 50 2 < 4096 && leAt e 55 1 < 8 && zeroAt e 56 8
    && 1 ≤ leAt e 54 1 / 8 && leAt e 54 1 / 8 ≤ 24
    && (!qFlag e 1 || 1 ≤ leAt e 36 4) && (!qFlag e 3 || leAt e 48 2 % 4 = 0)
    && (!qFlag e 4 || ring (s.qSend e)) && (!qFlag e 5 || ring (s.qRecv e)) && (qFlag e 4 || qFlag e 5)

/-- The blocks of messages in progress return to FILLED (R443). -/
def returnBlocks (g : Nat) : Prog := look fun s =>
  match s.qSend (s.qp g).entry with
  | some l => forAll (s.qp g).msgs fun m => unTake l m.blk (qSlot (s.qp g).entry)
  | none => .skip

/-- A receive block not yet committed is freed unwritten (R445). -/
def dropRecv (g : Nat) : Prog := look fun s =>
  match (s.qp g).recv, s.qRecv (s.qp g).entry with
  | some (blk, _), some l => freeUnwritten l blk
  | _, _ => .skip

/-- The queue pair enters ERROR, with a log entry (R445). -/
def qpError (g cause : Nat) : Prog := look fun s => only (qState (s.qp g).entry = 1) (progs [
  returnBlocks g, dropRecv g,
  onQp g fun x => { x with
    entry := setState x.entry 2
    msgs := []
    recv := none
    write := none },
  logE { LogEntry.plain 3 9 0x7F cause with die := 16 + g / 4096, index := qPort (s.qp g).entry, data := g }])

/-- Software writes STATE = RESET (R445). -/
def qpReset (g : Nat) : Prog := look fun s => only (qState (s.qp g).entry ≠ 0) (progs [
  returnBlocks g, dropRecv g,
  onQp g fun x => { Qp.reset with entry := setState x.entry 0 }])

/-- Software writes STATE = RTS (R445). -/
def qpRts (g : Nat) : Prog := look fun s =>
  let x := s.qp g
  if qState x.entry ≠ 0 then .skip
  else if s.qpOk g x.entry then onQp g fun x => { Qp.reset with
    entry := setState x.entry 1
    sndPsn := leAt x.entry 16 3
    rcvPsn := leAt x.entry 20 3 }
  else onQp g fun x => { x with entry := setCfgErr x.entry }

/-- Software writes STATE: a write of the state it has, or of 3, changes nothing. -/
def qpState (g st : Nat) : Prog := look fun s =>
  if groupQp g then onQp g fun x => { x with entry := setCfgErr x.entry }
  else if st = qState (s.qp g).entry then .skip
  else if st = 1 then qpRts g
  else if st = 2 then qpError g 0
  else if st = 0 then qpReset g
  else .skip

/-- A write of bytes of an entry (R444): fields other than STATE change only in RESET; bit 7 of byte 0 clears CFG_ERR. -/
def qpWrite (g off : Nat) (b : List Byte) : Prog := look fun s =>
  let old := (s.qp g).entry
  let new := patchBytes old off b
  let rest := new.drop 1 ≠ old.drop 1
  if groupQp g then onQp g fun x => { x with entry := setCfgErr x.entry }
  else progs [
    only (off = 0 && !b.isEmpty) (onQp g fun x => { x with
      entry := patchBytes x.entry 0 (leBytes 1 (leAt x.entry 0 1 % 4 + b2n (128 ≤ leAt x.entry 0 1 && leAt b 0 1 < 128) * 128)) }),
    if rest && qState old ≠ 0 then onQp g fun x => { x with entry := setCfgErr x.entry }
    else onQp g fun x => { x with entry := x.entry.take 1 ++ new.drop 1 },
    only (off = 0 && !b.isEmpty) (qpState g (leAt b 0 1 % 4))]

/-- The queue pair's half is on. -/
def Dev.ldOn (s : Dev) (n : Nat) : Bool := s.domOn (96 + 2 * n) || s.domOn (97 + 2 * n)

def qpEntryWriteProg (g off : Nat) (b : List Byte) : Prog := look fun s => only (s.ldOn (g / 4096)) (qpWrite g off b)
def qpToRtsProg (g : Nat) : Prog := look fun s => only (s.ldOn (g / 4096)) (qpState g 1)
def qpToErrorProg (g : Nat) : Prog := look fun s => only (s.ldOn (g / 4096)) (qpState g 2)
def qpToResetProg (g : Nat) : Prog := look fun s => only (s.ldOn (g / 4096)) (qpState g 0)

/-! ### Memory windows (R446) -/

def Dev.window (s : Dev) (w : Nat) : List Byte := sget (fun _ => List.replicate 16 (0 : Byte)) s.links.windows w

/-- Whether a window's range lies within the stacks or within one cluster's store. -/
def windowFits (e : List Byte) : Bool :=
  let a := bits (leAt e 0 8) 45 0
  let n := leAt e 8 4 * 64
  a % 64 = 0 && 1 ≤ n && (a + n ≤ stackEnd
    || (match place a with | .store d p _ => a + n ≤ storeAddr d p + 0x800000 | _ => false))

/-- An entry whose reserved bits hold 0. -/
def windowBits (e : List Byte) : List Byte := leBytes 8 (leAt e 0 8 % 2 ^ 46) ++ sliceBytes e 8 4 ++ leBytes 4 (leAt e 12 4 % 2 ^ 22)

/-- A write of bytes of an entry: one that would enable a window outside those ranges is ignored and logged. -/
def windowWrite (w off : Nat) (b : List Byte) : Prog := look fun s =>
  let new := windowBits (patchBytes (s.window w) off b)
  if bitAt (leAt new 12 4) 21 && !windowFits new then logE { LogEntry.plain 0 9 0x71 0 with data := w }
  else onLinks fun x => { x with windows := sset (fun _ => List.replicate 16 (0 : Byte)) x.windows w new }

def memoryWindowWriteProg (w off : Nat) (b : List Byte) : Prog := look fun s => only (s.ldOn 0) (windowWrite w off b)

/-- The DPA of an inbound access under an RKEY, if the window allows it (R442, R446). -/
def Dev.windowDpa (s : Dev) (rkey va len perm : Nat) : Option Nat :=
  let e := s.window (rkey / 2 ^ 19 % 8192)
  let c := leAt e 12 4
  if bitAt c 21 && bitAt c perm && c % 2 ^ 19 = rkey % 2 ^ 19 && va + len ≤ leAt e 8 4 * 64 then some (bits (leAt e 0 8) 45 0 + va) else none

/-! ### Packets -/

def bQpn (b : List Byte) : Nat := beAt b 5 3
def bPsn (b : List Byte) : Nat := beAt b 9 3
def bAckReq (b : List Byte) : Bool := 128 ≤ beAt b 8 1
def bPad (b : List Byte) : Nat := beAt b 1 1 / 16 % 4

/-- A base transport header: operation, solicited event 0, padding, partition 0xFFFF. -/
def bth (op pad qpn psn : Nat) (ack : Bool) : List Byte :=
  beBytes 1 op ++ beBytes 1 (64 + pad * 16) ++ beBytes 2 0xFFFF ++ beBytes 1 0 ++ beBytes 3 qpn ++ beBytes 1 (b2n ack * 128) ++ beBytes 3 psn

/-- Sends a packet of a queue pair. -/
def qpSendPkt (g : Nat) (b : List Byte) : Prog := look fun s =>
  let e := (s.qp g).entry
  txFrame ⟨qPort e, qSub e, if qFlag e 6 then leAt e 50 2 % 4096 else 0x1000, leAt e 31 1 % 64, leAt e 8 4, leAt e 4 4,
    if leAt e 52 2 = 0 then 49152 + g % 16384 else leAt e 52 2, 4791, b, 0, 0⟩

/-- An acknowledgement or NAK of PSN `psn` with a syndrome. -/
def qpAck (g psn syn : Nat) : Prog := look fun s =>
  let x := s.qp g
  qpSendPkt g (bth 0x11 0 (leAt x.entry 12 3) psn false ++ beBytes 1 syn ++ beBytes 3 x.msn)

def synAck : Nat := 0x1F
def synNakSeq : Nat := 0x60
def synNakInvalid : Nat := 0x61
def synNakAccess : Nat := 0x62

/-- A NAK that ends the connection (R442, R445). -/
def qpFail (g psn syn : Nat) : Prog := progs [qpAck g psn syn, qpError g (syn % 32)]

/-- PSN arithmetic. -/
def psnAdd (a n : Nat) : Nat := (a + n) % 2 ^ 24
/-- How far `b` lies ahead of `a`, signed. -/
def psnDist (a b : Nat) : Int := sext 24 ((b + 2 ^ 24 - a % 2 ^ 24) % 2 ^ 24)

/-- Whether a packet is meant for a connection that stands: its queue pair is up, on the sub-port and from the peer that its entry names. -/
def Dev.roceFits (s : Dev) (x : RocePkt) : Bool :=
  let g := bQpn x.bth
  let e := (s.qp g).entry
  g / 4096 = x.ld && g < 16384 && qState e = 1 && x.port = 4 * qPort e + qSub e && x.src = leAt e 4 4

/-- Takes the first packet of link die n of the given kinds that no earlier packet of its queue pair precedes, and drops those for no connection. -/
def Dev.rocePick (s : Dev) (n : Nat) (ok : List Byte → Bool) : Option (Nat × RocePkt) :=
  (s.links.roce.zipIdx.find? fun q => q.1.ld = n && ok q.1.bth
    && !(s.links.roce.take q.2).any (fun y => bQpn y.bth = bQpn q.1.bth)).map fun q => (q.2, q.1)

/-- Handles a received packet: it leaves the queue; one for no connection is dropped; an ECN-marked one is answered with a CNP (R441). -/
def roceTake (n : Nat) (ok : List Byte → Bool) (f : Nat → List Byte → Prog) : Prog := look fun s =>
  match s.rocePick n ok with
  | none => .skip
  | some (i, x) => progs [
      onLinks fun y => { y with roce := y.roce.eraseIdx i },
      only (s.roceFits x) (progs [
        only (x.ecn && opKind (bOp x.bth) ≠ 5) (qpSendPkt (bQpn x.bth) (bth 0x81 0 (leAt (s.qp (bQpn x.bth)).entry 12 3) 0 false ++ List.replicate 16 0)),
        f (bQpn x.bth) x.bth])]

/-- The PSN rules of a responder: a packet ahead of the expected PSN draws one NAK, one behind is acknowledged again, the expected one goes on. -/
def inOrder (g : Nat) (b : List Byte) (again fresh : Prog) : Prog := look fun s =>
  let x := s.qp g
  let d := psnDist x.rcvPsn (bPsn b)
  if 0 < d then only (!x.nakSent) (progs [qpAck g x.rcvPsn synNakSeq, onQp g fun y => { y with nakSent := true }])
  else if d < 0 then again
  else progs [onQp g fun y => { y with nakSent := false }, fresh]

/-- The expected PSN advances; a message that ends counts. -/
def accept (g n : Nat) (last : Bool) : Prog := onQp g fun y => { y with rcvPsn := psnAdd y.rcvPsn n, msn := if last then (y.msn + 1) % 2 ^ 24 else y.msn }

/-! ### Inbound SEND and WRITE (R442) -/

/-- The payload of a packet whose headers end at `h`. -/
def roceData (b : List Byte) (h : Nat) : List Byte := (b.drop h).take (b.length - h - bPad b)

/-- Where each packet of an operation stands in its message: whether it is the first, and the last. -/
def isFirst (op : Nat) : Bool := op = 0 || op = 4 || op = 5 || op = 6 || op = 0x0A || op = 0x0B
def isLast (op : Nat) : Bool := op = 2 || op = 3 || op = 4 || op = 5 || op = 8 || op = 9 || op = 0x0A || op = 0x0B
def hasImm (op : Nat) : Bool := op = 3 || op = 5 || op = 9 || op = 0x0B

/-- A SEND packet's data goes on in its receive block, at `have_` bytes. -/
def sendData (g : Nat) (b data : List Byte) (l : LockId) (blk have_ : Nat) : Prog := look fun s =>
  let last := isLast (bOp b)
  if s.lockBlockLen l < have_ + data.length then progs [qpFail g (bPsn b) synNakInvalid]
  else match (s.lock l).blks.find? fun x => x.seq == blk with
  | none => qpFail g (bPsn b) synNakInvalid
  | some x =>
    match s.leafDpa (s.blockVa l x.idx + have_) accWrite with
    | none => qpFail g (bPsn b) synNakInvalid
    | some dpa => progs [
        ringWrite dpa data,
        accept g 1 last,
        if last then progs [commitBlk l blk, onQp g fun y => { y with recv := none }]
        else onQp g fun y => { y with recv := some (blk, have_ + data.length) },
        only (last || bAckReq b) (qpAck g (bPsn b) synAck)]

/-- A SEND packet of a queue pair that carries Bentin frames (R447): the message goes to firmware. -/
def bentinData (g : Nat) (b data : List Byte) : Prog := look fun s =>
  let last := isLast (bOp b)
  let old := if isFirst (bOp b) then [] else (sget (fun _ => []) s.links.bentin (g + 16384))
  let all := old ++ data
  progs [
    onLinks fun x => { x with bentin := (x.bentin.filter fun y => !(y.1 == g + 16384))
      ++ [if last then (g, all) else (g + 16384, all)] },
    accept g 1 last,
    only (last || bAckReq b) (qpAck g (bPsn b) synAck)]

/-- An inbound SEND. -/
def inboundSend (g : Nat) (b : List Byte) : Prog := inOrder g b (qpAck g (bPsn b) synAck) (look fun s =>
  let x := s.qp g
  let e := x.entry
  let op := bOp b
  let data := roceData b (if hasImm op then 16 else 12)
  if qFlag e 0 then bentinData g b data
  else match s.qRecv e with
  | none => qpFail g (bPsn b) synNakInvalid
  | some l =>
    if !qFlag e 5 || !s.lockOn l then qpFail g (bPsn b) synNakInvalid
    else if isFirst op then
      if x.recv.isSome then qpFail g (bPsn b) synNakInvalid
      else match s.canProduce l with
      | none => withFree fun v => qpAck g (bPsn b) (0x20 + v % 32)
      | some idx => progs [
          takeBlock l idx 0,
          look fun s => progs [
            onQp g fun y => { y with recv := some ((s.lock l).seq - 1, 0) },
            sendData g b data l ((s.lock l).seq - 1) 0]]
    else match x.recv with
      | some (blk, n) => sendData g b data l blk n
      | none => qpFail g (bPsn b) synNakInvalid)

/-- An inbound WRITE: its first packet names the window (RETH). -/
def inboundWrite (g : Nat) (b : List Byte) : Prog := inOrder g b (qpAck g (bPsn b) synAck) (look fun s =>
  let x := s.qp g
  let op := bOp b
  let first := isFirst op
  let last := isLast op
  let data := roceData b (12 + (if first then 16 else 0) + (if hasImm op then 4 else 0))
  let put (dpa left : Nat) : Prog :=
    if left < data.length || (last && left ≠ data.length) then qpFail g (bPsn b) synNakInvalid
    else progs [
      ringWrite dpa data,
      accept g 1 last,
      onQp g fun y => { y with write := if last then none else some (dpa + data.length, left - data.length, 0) },
      only (last || bAckReq b) (qpAck g (bPsn b) synAck)]
  if first then
    match s.windowDpa (beAt b 20 4) (beAt b 12 8) (beAt b 24 4) 20 with
    | some dpa => put dpa (beAt b 24 4)
    | none => qpFail g (bPsn b) synNakAccess
  else match x.write with
    | some (dpa, left, _) => put dpa left
    | none => qpFail g (bPsn b) synNakInvalid)

/-- The packets of a READ response from PSN `psn` on. -/
def readResponse (g psn : Nat) (data : List Byte) : Prog := look fun s =>
  let x := s.qp g
  let l := if data.isEmpty then [[]] else chunksOf (qPmtu x.entry) data.length data
  forAll l.zipIdx fun q =>
    let n := l.length
    let op := if n = 1 then 0x10 else if q.2 = 0 then 0x0D else if q.2 + 1 = n then 0x0F else 0x0E
    let pad := (4 - q.1.length % 4) % 4
    qpSendPkt g (bth op pad (leAt x.entry 12 3) (psnAdd psn q.2) false
      ++ (if op = 0x0E then [] else beBytes 1 synAck ++ beBytes 3 x.msn) ++ q.1 ++ List.replicate pad 0)

/-- An inbound READ: answered from its window; a request seen before is answered again. -/
def inboundRead (g : Nat) (b : List Byte) : Prog :=
  let len := beAt b 24 4
  let answer (fresh : Bool) : Prog := look fun s =>
    match s.windowDpa (beAt b 20 4) (beAt b 12 8) len 19 with
    | none => qpFail g (bPsn b) synNakAccess
    | some dpa => match s.reachRange dpa len with
      | .bounds => qpFail g (bPsn b) synNakAccess
      | _ =>
        if s.readBad dpa len then progs [memTouch dpa len, qpFail g (bPsn b) 0x63]
        else progs [
          wantStacks dpa len, memTouch dpa len,
          only fresh (accept g (max 1 (ceilDiv len (qPmtu (s.qp g).entry))) true),
          readResponse g (bPsn b) (s.bytesAt dpa len)]
  inOrder g b (answer false) (answer true)

def roceInboundSendProg (n : Nat) : Prog := roceTake n (fun b => opKind (bOp b) = 0) inboundSend
def roceInboundWriteProg (n : Nat) : Prog := roceTake n (fun b => opKind (bOp b) = 1) inboundWrite
def roceInboundReadProg (n : Nat) : Prog := roceTake n (fun b => opKind (bOp b) = 2) inboundRead
/-- ROCE_INBOUND_ATOMIC: NAK invalid request, and ERROR (R441, R445). -/
def roceInboundAtomicProg (n : Nat) : Prog := roceTake n (fun b => opKind (bOp b) = 3) fun g b => qpFail g (bPsn b) synNakInvalid

/-! ### Send windows (R443) -/

/-- The packets of a message: the first operation of its kind (0 SEND, 6 WRITE), immediate value, remote address, payload. -/
def msgPackets (e : List Byte) (write : Bool) (imm : Option Nat) (va psn : Nat) (data : List Byte) : List (List Byte) :=
  let l := if data.isEmpty then [[]] else chunksOf (qPmtu e) data.length data
  let n := l.length
  l.zipIdx.map fun q =>
    let first := q.2 = 0
    let last := q.2 + 1 = n
    let op := if first && last then (if imm.isSome then 5 else 4) else if first then 0 else if last then (if imm.isSome then 3 else 2) else 1
    let pad := (4 - q.1.length % 4) % 4
    bth (if write then op + 6 else op) pad (leAt e 12 3) (psnAdd psn q.2) last
      ++ (if write && first then beBytes 8 va ++ beBytes 4 (leAt e 32 4) ++ beBytes 4 data.length else [])
      ++ (match imm with | some v => if last then beBytes 4 v else [] | none => []) ++ q.1 ++ List.replicate pad 0

/-- The packets of the message in a send-window block, from PSN `psn` on; none where its length exceeds the block. -/
def Dev.blockMsg (s : Dev) (g : Nat) (blk : List Byte) (psn : Nat) : Option (List (List Byte)) :=
  let e := (s.qp g).entry
  let room := blk.length - 64
  let seq := leAt blk 0 8
  let len := if qFlag e 3 then leAt blk (64 + leAt e 48 2) 4 else if leAt blk 48 4 = 0 then room else leAt blk 48 4
  if room < len then none
  else some (msgPackets e (qFlag e 1) (if qFlag e 2 then some (seq % 2 ^ 32) else none)
    (leAt e 40 8 + seq % max 1 (leAt e 36 4) * room) psn (sliceBytes blk 64 len))

/-- ROCE_SEND_MESSAGE: the next FILLED block of the send window becomes one message. -/
def roceSendMessageProg (g : Nat) : Prog := look fun s =>
  let x := s.qp g
  let e := x.entry
  match s.qSend e with
  | none => .skip
  | some l =>
    if qState e ≠ 1 || !qFlag e 4 || !s.lockOn l || !s.subUp (qPort e) (qSub e) then .skip
    else match s.nextFilled l (qSlot e) with
    | none => .skip
    | some b =>
      match s.ldBytes (s.blockVa l b.idx) (s.lockBlockLen l) with
      | none => qpError g 0x12
      | some blk => match s.blockMsg g blk x.sndPsn with
        | none => qpError g 0x71
        | some ps => progs [
            takeFilled l b.seq (qSlot e) 0,
            forAll ps (qpSendPkt g),
            onQp g fun y => { y with
              msgs := y.msgs ++ [⟨b.seq, y.sndPsn, psnAdd y.sndPsn (ps.length - 1)⟩]
              sndPsn := psnAdd y.sndPsn ps.length
              sentAt := s.clock }]

/-- Messages whose last packet an acknowledgement of `psn` covers are done: their blocks are released (R443). -/
def ackUpTo (g psn : Nat) : Prog := look fun s =>
  let x := s.qp g
  let done := x.msgs.filter fun m => 0 ≤ psnDist m.last psn
  progs [
    match s.qSend x.entry with
    | some l => forAll done fun m => releaseBlk l m.blk (qSlot x.entry)
    | none => .skip,
    onQp g fun y => { y with
      msgs := y.msgs.filter fun m => !(0 ≤ psnDist m.last psn)
      retries := if done.isEmpty then y.retries else 0
      rnr := if done.isEmpty then y.rnr else 0
      sentAt := s.clock }]

/-- Sends again every packet from `psn` on (go-back-N), from the blocks. -/
def resend (g psn : Nat) : Prog := look fun s =>
  let x := s.qp g
  match s.qSend x.entry with
  | none => .skip
  | some l => progs [
      forAll x.msgs fun m =>
        match (s.lock l).blks.find? fun b => b.seq == m.blk with
        | none => .skip
        | some b => match s.ldBytes (s.blockVa l b.idx) (s.lockBlockLen l) with
          | none => .skip
          | some blk => match s.blockMsg g blk m.first with
            | none => .skip
            | some ps => forAll (ps.filter fun p => 0 ≤ psnDist psn (bPsn p)) (qpSendPkt g),
      onQp g fun y => { y with sentAt := s.clock }]

/-- The AETH syndrome of an acknowledgement packet. -/
def bSyn (b : List Byte) : Nat := beAt b 12 1

/-- ROCE_ACK. -/
def roceAckProg (n : Nat) : Prog := roceTake n (fun b => opKind (bOp b) = 4 && bSyn b < 0x20) fun g b => ackUpTo g (bPsn b)

/-- ROCE_NAK (R441, R445): a sequence error goes back to the PSN it names; an RNR is retried as RNR_RETRY allows; any other ends the connection. -/
def roceNakProg (n : Nat) : Prog := roceTake n (fun b => opKind (bOp b) = 4 && 0x20 ≤ bSyn b) fun g b => progs [
  ackUpTo g (psnAdd (bPsn b) (2 ^ 24 - 1)),
  look fun s =>
    let x := s.qp g
    let limit := leAt x.entry 55 1 % 8
    if bSyn b / 32 = 1 then
      if limit = 7 || x.rnr < limit then progs [onQp g fun y => { y with rnr := y.rnr + 1 }, resend g (bPsn b)] else qpError g 0x20
    else if bSyn b = synNakSeq then resend g (bPsn b)
    else qpError g (bSyn b % 32)]

/-- ROCE_CNP (R441): the send rate falls by a step. -/
def roceCnpProg (n : Nat) : Prog := roceTake n (fun b => opKind (bOp b) = 5) fun g _ => onQp g fun y => { y with rate := y.rate + 1 }

/-- ROCE_RATE_RECOVERY: it rises by one. -/
def roceRateRecoveryProg (g : Nat) : Prog := look fun s => only ((s.qp g).rate ≠ 0) (onQp g fun y => { y with rate := y.rate - 1 })

/-- ROCE_ACK_TIMEOUT (R444): nothing was acknowledged for 4.096 µs × 2^TIMEOUT. -/
def roceAckTimeoutProg (g : Nat) : Prog := look fun s =>
  let x := s.qp g
  let t := leAt x.entry 54 1
  match x.msgs with
  | m :: _ => only (qState x.entry = 1) (progs [
      .upd (.time (x.sentAt + 4096 * 2 ^ (t / 8) - s.clock)),
      if x.retries < t % 8 then progs [onQp g fun y => { y with retries := y.retries + 1 }, resend g m.first] else qpError g 0x21])
  | [] => .skip

end Sys2Proof.Machine
end

