-- ==== Sys2Proof/Machine/Drover.lean ====
section
/-! DEFINITION. The drovers: fetching and checking commands (R458, R462, R463), arbitration and dispatch (R464 to R466), completion (R468), pre-emption and resume (R267, R268, R470 to R473), and the sleep of idle clusters (R466). -/

namespace Sys2Proof.Machine

/-! ### Fetch, arming and checks -/

/-- A command as it is fetched. -/
def Command.fetched (key q seq : Nat) (body : List Byte) (stage : Bool) : Command :=
  ⟨key, q, seq, body, .queued, 0xFFFF, 0, 0, false, false, false, false, false, 0, .none, 0, .none, false, false, 0, false, [], 0, false, 0, [], [], [],
    false, stage, false, [], 0⟩

/-- QUEUE_FETCH (R458, R462, R464): the entry at the head of an enabled queue's ring, once the queue has room in flight and, if the entry
waits for a trigger, one is pending. A ring with more entries than it holds, or with a size out of range, is in error (R365). -/
def queueFetchProg (q : Nat) : Prog := look fun s =>
  let cons := s.qreg q R.Q_CONS
  let a := s.qbase q R.Q_RING_LO + cons % 2 ^ qSize s q * 64
  let l := s.cmdsOf q
  if !s.domOn (q / 256 * 4) || s.qfld q R.Q_CFG 0 0 = 0 || (s.queue q).err || s.qWaiting q = 0
      || l.any (fun c => c.st == .queued) then .skip
  else if !sizeOk (qSize s q) || !sizeOk (qCplSize s q) || 2 ^ qSize s q < s.qWaiting q then ringErr q
  else if stackEnd < a + 64 then ringErr q
  else if s.qfld q R.Q_CFG 11 8 < (l.filter fun c => !c.stage).length then .skip
  else match s.reachRange a 64 with
    | .wait => wantStacks a 64
    | .bounds => ringErr q
    | .ok =>
      let c := Command.fetched ((q + 1) * 2 ^ 32 + cons % 2 ^ 31) q (s.queue q).seq (s.bytesAt a 64) false
      if s.readBad a 64 then progs [memTouch a 64, ringErr q]
      else if c.trigs && s.qfld q R.Q_TRIG 16 16 = 1 && (s.queue q).trig = 0 then .skip
      else progs [
        memTouch a 64,
        setQreg q R.Q_CONS ((cons + 1) % 2 ^ 32),
        onDrv (q / 256) fun v => { v with cmds := v.cmds ++ [c] },
        onQueue q fun x => { x with seq := x.seq + 1 }]

/-- R463: whether a command is refused. -/
def Dev.cmdRefused (s : Dev) (c : Command) : Bool :=
  let b := c.body
  let kind := leAt b 2 1
  let q := c.queue
  let trig := s.qreg q R.Q_TRIG
  let op := leAt b 0 1
  let lo := s.fld .aoc 20 0 R.ARITH_CONTRACT_ID 23 16
  let hi := s.fld .aoc 20 0 R.ARITH_CONTRACT_ID 31 24
  let save := leAt b 56 8
  let feeds := match s.handleLock (q / 256) 168 (trig % 65536) with
    | some l => s.feeds l
    | none => []
  let video (e : List Byte) (band : Bool) : Bool := eKind e = 1 && eBand e == band
  (op ≠ 1 && op ≠ 2) || leAt b 1 1 / 2 ≠ 0 || 3 < kind || leAt b 27 1 ≠ 0 || leAt b 30 2 ≠ 0 || leAt b 52 4 ≠ 0
    || (op = 1 && (
      leAt b 3 1 < lo || hi < leAt b 3 1 || 2 ^ 48 ≤ leAt b 8 8 || 2 ^ 48 ≤ leAt b 16 8
        || (if kind = 3 then leAt b 24 2 = 0 || 8000 < leAt b 24 2 else leAt b 24 2 ≠ 0)
        || c.threadMask = 0 || c.flocks = 0 || 224 < c.flocks || c.mask = 0
        || save % 65536 ≠ 0 || stackEnd < save + 65536 + c.clusters.length * areaLen c.flocks
        || (c.trigs && (!bitAt trig 16 || !(match kind with
          | 0 => true
          | 1 => feeds.any fun e => video e false
          | 2 => feeds.any fun e => video e true
          | _ => feeds.any fun e => eKind e = 2 && ePkts e = leAt b 24 2)))))

/-- The free tags of a drover (R468). -/
def Dev.freeCtags (s : Dev) (d : Nat) : List Nat :=
  let used := (s.drv d).cmds.map (·.ctag)
  (List.range 256).filterMap fun i => if used.contains (256 * d + i) then none else some (256 * d + i)

/-- The command at the head of a queue becomes ARMED, with a tag, and is checked. -/
def armHead (q : Nat) (c : Command) (ctag : Nat) : Prog := look fun s => progs [
  only (c.trigs && s.qfld q R.Q_TRIG 16 16 = 1) (onQueue q fun x => { x with trig := x.trig - 1 }),
  onDrv (q / 256) fun v => { v with order := v.order + 1 },
  onCmd c.key fun x => { x with st := .armed, ctag := ctag, order := (s.drv (q / 256)).order },
  only (s.cmdRefused c) (progs [
    tally .drv (q / 256) 0 R.DRV_REFUSED 1,
    onCmd c.key fun x => { x with status := 0x71, failed := true },
    completeCmd c.key])]

/-- COMMAND_ARM (R462 to R464): the command at a queue's head leaves QUEUED once the queue has room in flight, its trigger stands and a tag is
free. -/
def commandArmProg (q : Nat) : Prog := look fun s =>
  let l := s.cmdsOf q
  match l.find? (fun c => c.st == .queued) with
  | none => .skip
  | some c =>
    if s.qfld q R.Q_CFG 11 8 < (l.filter fun c => c.st != .queued && !c.stage).length then .skip
    else if c.trigs && s.qfld q R.Q_TRIG 16 16 = 1 && (s.queue q).trig = 0 then .skip
    else if leAt c.body 0 1 = 2 then armHead q c 0xFFFF
    else
      let free := s.freeCtags (q / 256)
      if free.isEmpty then only ((s.queue q).tagSince = 0) (onQueue q fun x => { x with tagSince := s.clock + 1 })
      else progs [
        only ((s.queue q).tagSince ≠ 0) (progs [
          tally .drv (q / 256) 0 R.DRV_TAG_WAIT ((s.clock + 1 - (s.queue q).tagSince) / 1000),
          onQueue q fun x => { x with tagSince := 0 }]),
        withFree fun v => armHead q c (free.getD (v % free.length) 0xFFFF)]

/-- MARKER (R460): it completes once every earlier command of its queue has. -/
def markerProg (q : Nat) : Prog := look fun s =>
  let l := s.cmdsOf q
  progs [
    flushQueue q,
    only (match l.find? (fun c => c.st == .queued) with | some c => leAt c.body 0 1 = 2 | none => false) (commandArmProg q),
    look fun s =>
      let l := s.cmdsOf q
      match l.find? (fun c => c.st == .armed && leAt c.body 0 1 = 2) with
      | none => .skip
      | some c => only (!l.any fun x => !x.stage && x.seq < c.seq) (completeCmd c.key)]

/-! ### Arbitration (R465, R470) -/

/-- Parked by the drover, so that it is served again. -/
def Command.waitsAgain (c : Command) : Bool := c.st == .parked && c.parkBy == .drover && !c.failed

/-- The place of a command in the order of service: priority, then drover-parked ahead of ARMED, then the order of arming. -/
def Dev.rank (s : Dev) (c : Command) : Nat :=
  (7 - s.cmdPrio c) * 2 ^ 65 + (if c.st == .parked then 0 else 2 ^ 64) + c.order

def insertRanked (r : Command → Nat) (c : Command) : List Command → List Command
  | [] => [c]
  | x :: l => if r c < r x then c :: x :: l else x :: insertRanked r c l

/-- The commands that wait for slots, in the order of service. -/
def Dev.ranked (s : Dev) (d : Nat) : List Command :=
  ((s.drv d).cmds.filter fun c => c.isRun && (c.st == .armed || c.waitsAgain)).foldl (fun l c => insertRanked s.rank c l) []

/-- Slots of logical cluster l that the commands of a list take. -/
def slotsOn (l : Nat) (cs : List Command) : Nat := ((cs.filter fun c => c.has l).map (·.flocks)).foldl (· + ·) 0

/-- Whether a command's F slots are free on every cluster of its mask, beside those that commands before it still lack (R465). -/
def Dev.fits (s : Dev) (d : Nat) (c : Command) (claims : List Command) : Bool :=
  let held := (s.drv d).cmds.filter (·.slots)
  c.clusters.all fun l => slotsOn l held + slotsOn l claims + c.flocks ≤ 224

/-- The clusters a command still lacks, counting on the slots of commands that are being pre-empted. -/
def Dev.lacking (s : Dev) (d : Nat) (c : Command) (claims : List Command) : List Nat :=
  let held := (s.drv d).cmds.filter fun x => x.slots && x.st != .preempting
  c.clusters.filter fun l => 224 < slotsOn l held + slotsOn l claims + c.flocks

/-- The victim to take next (R470): lowest priority, then the one that entered RUNNING last. -/
def Dev.victim (s : Dev) (d : Nat) (c : Command) (lacking : List Nat) : Option Command :=
  let ok (x : Command) : Bool := x.st == .running && !x.failed && s.qfld x.queue R.Q_CFG 3 3 = 1 && decide (s.cmdPrio x < s.cmdPrio c)
    && lacking.any x.has
  ((s.drv d).cmds.filter ok).foldl (fun b x => match b with
    | none => some x
    | some y => if s.cmdPrio x < s.cmdPrio y || (s.cmdPrio x = s.cmdPrio y && y.runOrder < x.runOrder) then some x else some y) none

/-- Takes victims one at a time until the command will fit. -/
def takeVictims (d : Nat) (c : Command) (claims : List Command) : Nat → Prog
  | 0 => .skip
  | n + 1 => look fun s =>
    match s.victim d c (s.lacking d c claims) with
    | none => .skip
    | some v => progs [startPreempt v.key .drover, takeVictims d c claims n]

/-- Requests the wakes of a command's sleeping clusters, in ascending order (R466), unless new wakes are held (R501). -/
def wakeClusters (c : Command) : Prog := forAll c.clusters fun l => look fun s =>
  let k := ck (c.queue / 256) (s.physOf (c.queue / 256) l)
  only ((s.dom (clDom k)).req ≠ 1 && !s.holdsWakes) (progs [
    wakeDom (clDom k),
    tally .drv (c.queue / 256) 0 R.DRV_WAKES 1,
    onCmd c.key fun x => { x with woke := true }])

/-- Every cluster of the mask is on. -/
def Dev.cmdOn (s : Dev) (c : Command) : Bool := c.clusters.all fun l => s.clusterOn (c.queue / 256) (s.physOf (c.queue / 256) l)

/-- Serves the commands that wait, in order; those that do not fit keep their claim. A parked command that fits is resumed by
COMMAND_RESUME. The mode is the queue's at the first dispatch; a replay keeps it (R68). -/
def serve (d : Nat) (claims : List Command) : List Command → Prog
  | [] => .skip
  | c :: rest => look fun s =>
    if c.st == .parked then
      (if s.fits d c claims then serve d (claims ++ [c]) rest
       else progs [takeVictims d c claims (s.drv d).cmds.length, serve d (claims ++ [c]) rest])
    else if s.fits d c claims then progs [
      onCmd c.key fun x => { x with st := .waking, slots := true, fast := if c.started then c.fast else s.qfld c.queue R.Q_CFG 1 1 = 1 },
      wakeClusters c,
      serve d claims rest]
    else progs [wakeClusters c, takeVictims d c claims (s.drv d).cmds.length, serve d (claims ++ [c]) rest]

/-- DRV_DISPATCH. -/
def drvDispatchProg (d : Nat) : Prog := look fun s => only (s.domOn (4 * d)) (serve d [] (s.ranked d))

/-! ### Starting flocks (R238, R461, R464) -/

/-- The free flock slots of a cluster: core × 2 + flock. -/
def Cluster.freeSlotsOf (c : Cluster) : List Nat :=
  (List.range 224).filter fun i => ((c.core (i / 2)).flock (i % 2)).st == .idle

/-- Takes `n` elements of a list in an order that a number names: any is possible. -/
def pickSome : Nat → Nat → List Nat → List Nat
  | 0, _, _ => []
  | n + 1, v, l =>
    match l[v % max 1 l.length]? with
    | some x => x :: pickSome n (v / max 1 l.length) (l.erase x)
    | none => []

/-- A flock at its start (R238). -/
def flockStart (c : Command) (num prio : Nat) : Flock :=
  let t : Thread := (Thread.zero.setG 1 c.argsVa).setG 2 num
  let x : Flock := ⟨.run, c.entryVa, c.threadMask, c.threadMask, 0, [], [], c.key, num, c.fast, c.queue, prio, none, false⟩
  (List.range 8).foldl (fun f i => f.setThr i t) x

/-- Places flocks on a cluster, in free slots of the hardware's choice (R461). Each start invalidates the instruction cache of its core (R258). -/
def placeFlocks (k : Nat) (fs : List Flock) : Prog := withFree fun v => look fun s =>
  forAll ((pickSome fs.length v (s.cl k).freeSlotsOf).zip fs) fun p =>
    onCore k (p.1 / 2) fun x => { x.setFlock (p.1 % 2) p.2 with icache := [] }

/-- COMMAND_START (R464): every cluster of the mask is on, and all flocks start in one fabric cycle. Until then the wakes that were held (R501) are
requested. -/
def commandStartProg (ctag : Nat) : Prog := look fun s =>
  match s.cmdByTag ctag with
  | none => .skip
  | some c =>
    let d := c.queue / 256
    if c.st == .waking && !s.cmdOn c then wakeClusters c
    else only (c.st == .waking) (progs [
      forAll ((List.range c.clusters.length).zip c.clusters) fun p =>
        placeFlocks (ck d (s.physOf d p.2)) ((List.range c.flocks).map fun j => flockStart c (p.1 * c.flocks + j) (s.cmdPrio c)),
      onDrv d fun v => { v with order := v.order + 1 },
      only (!c.started && !c.stage) (progs [tally .drv d 0 R.DRV_DISPATCHED 1, traceCommand]),
      onCmd c.key fun x => { x with
        st := .running
        runOrder := (s.drv d).order
        started := true
        tStart := if x.started then x.tStart else s.time },
      only (c.preemptReq != .none) (startPreempt c.key c.preemptReq)])

/-- RUN (R461): the RUN command at the head of a queue is armed, dispatched and started, as far as nothing keeps it. -/
def runProg (q : Nat) : Prog := look fun s =>
  match (s.cmdsOf q).find? (fun c => c.st == .queued || c.st == .armed || c.st == .waking) with
  | none => .skip
  | some c => only c.isRun (progs [
      only (c.st == .queued) (commandArmProg q),
      drvDispatchProg (q / 256),
      look fun s => match s.cmdOf c.key with
        | some x => commandStartProg x.ctag
        | none => .skip])

/-! ### Completion (R464, R468, R475) -/

/-- Nothing of a command is left on its clusters: every flock has ended, every tag it pushed has completed. -/
def Dev.cmdQuiet (s : Dev) (key : Nat) : Bool :=
  (s.clustersOf (cmdDie key)).all fun k =>
    let c := s.cl k
    (c.flocksOf key).isEmpty && !(c.tags.any fun t => t.2.cmd == key && !t.2.done)
      && !(c.entries.any fun e => e.cmd == key) && !(c.barges.any fun b => b.cmd == key)

/-- COMMAND_COMPLETE (R464, R469); a record that waited for ring room is written when there is room. -/
def commandCompleteProg (ctag : Nat) : Prog := look fun s =>
  match s.cmdByTag ctag with
  | none => .skip
  | some c =>
    if c.st == .complete then flushQueue c.queue
    else only ((c.st == .running || c.failed) && s.cmdQuiet c.key && !(s.rfaults.any fun f => f.key == c.key)) (progs [
      only (c.status = 3) (tally .rcv 20 0 R.RCV_TRANSIENT 1),
      completeCmd c.key])

/-! ### The context of a flock (R268) -/

def Thread.ctxG (t : Thread) : List Byte := (List.range 64).flatMap fun i => leBytes 8 (if i = 0 then 0 else t.gr i)
def Thread.ctxV (t : Thread) : List Byte := (List.range 32).flatMap fun i => leBytes 64 (t.vr i)

/-- The 20,864 bytes of R268. -/
def Flock.context (x : Flock) : List Byte :=
  let thr := List.range 8
  let stack := x.stack.reverse.flatMap fun j => leBytes 8 j.pc ++ leBytes 1 j.mask ++ leBytes 1 (b2n j.isJoin) ++ leBytes 6 0
  let pad (n : Nat) (l : List Byte) : List Byte := (l ++ List.replicate (n - l.length) 0).take n
  leBytes 8 x.pc ++ leBytes 4 (x.active + x.live * 2 ^ 8 + x.done * 2 ^ 16 + x.stack.length * 2 ^ 24)
    ++ (thr.flatMap fun t => leBytes 1 (x.thr t).fstat.toNat) ++ List.replicate 44 0
    ++ pad 256 stack ++ pad 64 (thr.flatMap fun t => leBytes 1 ((x.thr t).p.toNat / 2 * 2))
    ++ (thr.flatMap fun t => (x.thr t).ctxG) ++ (thr.flatMap fun t => (x.thr t).ctxV)

/-- A thread as a context holds it. -/
def threadOf (b : List Byte) (t : Nat) : Thread :=
  let z : Thread := { Thread.zero with p := BitVec.ofNat 8 (leAt b (0x140 + t) 1 / 2 * 2 + 1), fstat := BitVec.ofNat 5 (leAt b (0xC + t) 1) }
  let g := (List.range 64).foldl (fun x i => x.setG i (leAt b (0x180 + 512 * t + 8 * i) 8)) z
  (List.range 32).foldl (fun x i => x.setV i (leAt b (0x1180 + 2048 * t + 64 * i) 64)) g

/-- A flock as its context holds it, with what the command knows of it; it is RESTORING until it first tries to issue (R272, log 7). -/
def flockOfContext (b : List Byte) (c : Command) (num prio : Nat) : Flock :=
  let depth := min 16 (leAt b 0xB 1)
  let stack := (List.range depth).map fun i => (⟨leAt b (0x40 + 16 * i) 8, leAt b (0x48 + 16 * i) 1, leAt b (0x49 + 16 * i) 1 = 1⟩ : Join)
  let x : Flock := ⟨.restoring, leAt b 0 8, leAt b 8 1, leAt b 9 1, leAt b 0xA 1, stack.reverse, [], c.key, num, c.fast, c.queue, prio, none, false⟩
  (List.range 8).foldl (fun f i => f.setThr i (threadOf b i)) x

/-- Where flock j of the i-th cluster of a mask is saved (R473). -/
def ctxAddr (c : Command) (i j : Nat) : Nat := c.save + 65536 + i * areaLen c.flocks + 65536 + j * 20864

/-! ### Parking (R472, R473) -/

/-- Whether every unit of a command has stopped (R471). -/
def Dev.cmdStopped (s : Dev) (key : Nat) : Bool :=
  (s.clustersOf (cmdDie key)).all fun k =>
    let c := s.cl k
    (c.flocksOf key).all (fun f => ((c.core f.1).flock f.2).st == .saving)
      && c.entries.all (fun e => e.cmd != key || e.stage == .queued)
      && c.barges.all fun b => b.cmd != key || b.st == .queued || b.st == .binding || b.st == .parkedPreempt

/-- The ranges a park writes: header, unit areas and contexts. -/
def Command.saveLen (c : Command) : Nat := 65536 + c.clusters.length * areaLen c.flocks

/-- Saves what a command has on one cluster: the i-th of its mask. -/
def saveCluster (c : Command) (i l : Nat) : Prog := look fun s =>
  let k := ck (c.queue / 256) (s.physOf (c.queue / 256) l)
  let x := s.cl k
  let fl := (x.flocksOf c.key).map fun f => (f.1, f.2, ((x.core f.1).flock f.2))
  progs [
    .upd (.undef (c.save + 65536 + i * areaLen c.flocks) 65536),
    forAll (List.range c.flocks) fun j =>
      match fl.find? (fun f => f.2.2.num == i * c.flocks + j) with
      | some f => memWrite (ctxAddr c i j) f.2.2.context false
      | none => .upd (.undef (ctxAddr c i j) 20864),
    forAll fl fun f => onFlock k f.1 f.2.1 fun _ => Flock.idle,
    onCl k fun y => { y with entries := y.entries.filter fun e => !(e.cmd == c.key) },
    onCmd c.key fun y => { y with
      saved := y.saved ++ [⟨l, x.entries.filter fun e => e.cmd == c.key, fl.map fun f => f.2.2.num⟩] }]

/-- COMMAND_PARK (R464, R472): every unit has stopped; the context is saved, the slots are free, a PREEMPTED record is written. A cancel that
came meanwhile applies then (R474). -/
def commandParkProg (ctag : Nat) : Prog := look fun s =>
  match s.cmdByTag ctag with
  | none => .skip
  | some c =>
    let us := min 65535 ((s.clock - c.preemptAt) / 1000)
    let park := progs [
      .upd (.undef c.save 65536),
      forAll ((List.range c.clusters.length).zip c.clusters) fun p => saveCluster c p.1 p.2,
      onCmd c.key fun x => { x with st := .parked },
      freeSlots c,
      tally .drv (c.queue / 256) 0 R.DRV_PREEMPTIONS 1,
      only (!c.stage) (putRecord c.queue ⟨c.record 0x31 us false, none⟩),
      only c.cancelReq (endCommand c.key 0x30 false)]
    only (c.st == .preempting && !c.failed && s.cmdStopped c.key && !(s.rfaults.any fun f => f.key == c.key)) (
      match s.reachRange c.save c.saveLen with
      | .wait => wantStacks c.save c.saveLen
      | .bounds => killCommand c.key 0x12
      | .ok => park)

/-! ### Resume (R267, R470, R472) -/

/-- Brings a command back on one cluster. -/
def restoreCluster (c : Command) (x : SavedCl) : Prog := look fun s =>
  let d := c.queue / 256
  let k := ck d (s.physOf d x.logical)
  let i := (c.clusters.findIdx? (· == x.logical)).getD 0
  progs [
    forAll x.flocks fun n => memTouch (ctxAddr c i (n % max 1 c.flocks)) 20864,
    placeFlocks k (x.flocks.map fun n => flockOfContext (s.bytesAt (ctxAddr c i (n % max 1 c.flocks)) 20864) c n (s.cmdPrio c)),
    forAll ((s.cl k).barges.filter fun b => b.cmd == c.key) fun b => onBarge k b.uid fun b =>
      if b.st == .parkedPreempt then { b.again with preempt := false, resumed := true, cause := 0 } else { b with preempt := false }]

/-- The contexts of a parked command. -/
def Command.contexts (c : Command) : List Nat :=
  c.saved.flatMap fun x => x.flocks.map fun n =>
    ctxAddr c ((c.clusters.findIdx? (· == x.logical)).getD 0) (n % max 1 c.flocks)

/-- The commands before which a resume must not take slots: those that wait and are served ahead of it (R464, R465, R470). -/
def Dev.claimsBefore (s : Dev) (d : Nat) (c : Command) : List Command :=
  (s.ranked d).filter fun x => x.key != c.key && s.rank x < s.rank c

/-- COMMAND_RESUME (R464, R470). -/
def commandResumeProg (ctag : Nat) : Prog := look fun s =>
  match s.cmdByTag ctag with
  | none => .skip
  | some c =>
    let d := c.queue / 256
    only (c.st == .parked && !c.failed && (c.parkBy == .drover || c.resumeReq) && s.fits d c (s.claimsBefore d c)) (
      if !s.cmdOn c then wakeClusters c
      else match (c.contexts.map fun a => s.reachRange a 20864).foldl (fun r x => if r == .ok then x else r) .ok with
        | .wait => forAll c.contexts fun a => wantStacks a 20864
        | .bounds => killCommand c.key 0x12
        | .ok =>
          if c.contexts.any fun a => s.readBad a 20864 then progs [forAll c.contexts fun a => memTouch a 20864, killCommand c.key 0x20]
          else progs [
            onCmd c.key fun x => { x with slots := true },
            unsave c.key,
            forAll c.saved fun x => restoreCluster c x,
            onDrv d fun v => { v with order := v.order + 1 },
            onCmd c.key fun x => { x with
              st := .running
              runOrder := (s.drv d).order
              parkBy := .none
              resumeReq := false
              resumed := true
              saved := [] },
            tally .drv d 0 R.DRV_RESUMES 1])

/-! ### Idle clusters (R39, R466) -/

/-- Whether a command keeps a cluster awake: it holds or waits for slots there, or is parked. -/
def Command.keepsAwake (c : Command) (l : Nat) : Bool :=
  c.isRun && c.has l && c.st != .queued && c.st != .complete

/-- CLUSTER_IDLE_SLEEP. -/
def clusterIdleSleepProg (d l : Nat) : Prog := look fun s =>
  let k := ck d (s.physOf d l)
  let hold := s.fld .drv d 0 R.DRV_CTRL 31 16 * 1000
  only (s.domOn (4 * d) && (s.dom (clDom k)).st == .on && s.fld .drv d 0 R.DRV_CTRL 0 0 = 1
      && !bitAt (s.reg .drv d 0 (R.DRV_PIN + 4 * (l / 32))) (l % 32) && !s.clsKeeps k
      && !((s.drv d).cmds.any fun c => c.keepsAwake l)) (progs [
    .upd (.time ((s.cl k).idleSince + hold - s.clock)),
    onDom (clDom k) fun m => { m with req := 0 },
    sleepDom (clDom k) .off])

end Sys2Proof.Machine
end

