-- ==== Sys2Proof/Machine/Spare.lean ====
section
/-! DEFINITION. The repair map (R6, R343, R344), fenced clusters and spares (R519, R520), the monotonic counters (R527), and the signed objects of the flash (R522 to R525). -/

namespace Sys2Proof.Machine

/-! ### The repair map (R343, R344, R519, R520) -/

/-- The state of a physical cluster that is not mapped (R520): 0 available, 1 fenced at factory, 2 in the field. -/
def Dev.spareState (s : Dev) (d p : Nat) : Nat := sget (fun _ => 0) s.aoc.fenced (ck d p)
/-- The physical clusters of a die that no logical number names, ascending. -/
def Dev.unmapped (s : Dev) (d : Nat) : List Nat :=
  let used := (List.range 160).map (s.physOf d)
  (List.range 168).filter fun p => !used.contains p
/-- The lowest-numbered spare that is available (R519). -/
def Dev.firstSpare (s : Dev) (d : Nat) : Option Nat := (s.unmapped d).find? fun p => s.spareState d p = 0

/-- One copy of the map with its sequence number and CRC-32 (R343). -/
def Dev.mapRecord (s : Dev) (d seq : Nat) : List Byte :=
  mapBytes ((List.range 160).map fun l => BitVec.ofNat 8 (s.physOf d l))
    ((((s.unmapped d).map fun p => BitVec.ofNat 8 (s.spareState d p)) ++ List.replicate 8 0).take 8) seq

/-- The sequence number of a copy as stored, none if its CRC-32 does not match. -/
def Dev.mapCopy (s : Dev) (a : Nat) : Option Nat :=
  let b := s.bytesAt a 256
  if crc32 (b.take 252) = leAt b 252 4 then some (leAt b 248 4) else none

/-- The copy of a die's map that start-up uses (R344): the valid one with the higher sequence number. -/
def Dev.mapInForce (s : Dev) (d : Nat) : Option (List Byte) :=
  let a := mramAddr d + 0x100
  match s.mapCopy a, s.mapCopy (a + 256) with
  | some i, some j => some (s.bytesAt (if i < j then a + 256 else a) 256)
  | some _, none => some (s.bytesAt a 256)
  | none, some _ => some (s.bytesAt (a + 256) 256)
  | none, none => none
/-- Whether anything was written to a die's repair map since the factory. -/
def Dev.mapWritten (s : Dev) (d : Nat) : Bool :=
  let a := mramAddr d + 0x100
  s.mem.any (fun c => decide (a ≤ c.1) && decide (c.1 < a + 512)) || s.undef.any (fun u => decide (u.1 < a + 512) && decide (a < u.2.1))
/-- The repair map and the spare states of a die as its MRAM holds them; a map as it left the factory is the identity with eight spares available. -/
def Dev.mapRead (s : Dev) (d : Nat) : List (Nat × Nat) × List (Nat × Nat) :=
  if s.mapWritten d then
    match s.mapInForce d with
    | some b =>
      let phys := (List.range 160).map fun l => leAt b l 1
      let free := (List.range 168).filter fun p => !phys.contains p
      (((List.range 160).zip phys).filterMap fun x => if x.1 = x.2 then none else some (160 * d + x.1, x.2),
        ((List.range 8).zip free).filterMap fun x => if leAt b (160 + x.1) 1 = 0 then none else some (ck d x.2, leAt b (160 + x.1) 1))
    | none => ([], [])
  else ([], [])
/-- Start-up reads the repair maps of the 16 dies. -/
def loadMaps : Prog := look fun s =>
  let l := (List.range 16).map s.mapRead
  progs [.upd (.maps (l.flatMap (·.1))), onAoc fun a => { a with fenced := l.flatMap (·.2) }]

/-- Rewrites the older copy of a die's map (R344). -/
def writeMap (d : Nat) : Prog := look fun s =>
  let a := mramAddr d + 0x100
  let x := s.mapCopy a
  let y := s.mapCopy (a + 256)
  match x, y with
  | some i, some j => if i ≤ j then .upd (.mem a (s.mapRecord d ((j + 1) % 2 ^ 32))) else .upd (.mem (a + 256) (s.mapRecord d ((i + 1) % 2 ^ 32)))
  | some i, none => .upd (.mem (a + 256) (s.mapRecord d ((i + 1) % 2 ^ 32)))
  | none, some j => .upd (.mem a (s.mapRecord d ((j + 1) % 2 ^ 32)))
  | none, none => .upd (.mem a (s.mapRecord d 1))

/-- Fences a physical cluster in the field. -/
def fence (d p : Nat) : Prog := onAoc fun a => { a with fenced := sset (fun _ => 0) a.fenced (ck d p) 2 }

/-- A logical cluster passes to another physical one, and the map is rewritten. -/
def remap (d l p : Nat) : Prog := progs [.upd (.repair (160 * d + l) p), writeMap d]

/-! ### Counters (R527) -/

def Dev.cnt (s : Dev) (i : Nat) : Nat := s.reg .boot 20 0 (R.CNT + 4 * i)
/-- Raises a counter: it never decreases; its records in the MRAM of LD0 and LD2 are rewritten, in a layout the spec does not give. -/
def raiseCnt (i v : Nat) : Prog := look fun s =>
  only (s.cnt i < min v 0xFFFFFFFF) (progs [
    setReg .boot 20 0 (R.CNT + 4 * i) (min v 0xFFFFFFFF),
    .upd (.undef (mramAddr 16 + 0xC000) 0x2000),
    .upd (.undef (mramAddr 18 + 0xC000) 0x2000)])
/-- The tamper latch (R534). -/
def Dev.latched (s : Dev) : Bool := decide (s.cnt 6 < s.cnt 5)

/-! ### Flash (R525) -/

/-- A byte of the flash. -/
def Dev.flashAt (s : Dev) (a : Nat) : Byte :=
  match s.aoc.flash.find? (fun x => x.1 == a) with
  | some x => x.2
  | none => if s.aoc.erased.any fun r => decide (r.1 ≤ a) && decide (a < r.1 + r.2) then 0xFF else Config.flashByte a
def Dev.flashBytes (s : Dev) (a n : Nat) : List Byte := (List.range n).map fun i => s.flashAt (a + i)

/-- Offset and size of a slot of a KIND (R525); none for TAMPER_CLEAR. -/
def slotOf (kind slot : Nat) : Option (Nat × Nat) :=
  if kind = 1 then some (slot * 0x800000, 0x800000)
  else if kind = 2 then some (0x1000000 + slot * 0x4000000, 0x4000000)
  else if kind = 4 then some (0x9000000 + slot * 0x10000, 0x10000)
  else if kind = 3 then some (0x9020000 + slot * 0x40000, 0x40000)
  else none

def flashWrite (a : Nat) (bs : List Byte) : Prog := onAoc fun x => { x with
  flash := ((List.range bs.length).zip bs).foldl (fun l p => sput l (a + p.1) p.2) x.flash }
/-- Erases a range. -/
def flashErase (a n : Nat) : Prog := onAoc fun x => { x with
  flash := x.flash.filter fun c => !(decide (a ≤ c.1) && decide (c.1 < a + n))
  erased := if x.erased.contains (a, n) then x.erased else (a, n) :: x.erased }

/-! ### Signed objects (R522 to R524) -/

/-- Whether one signature block satisfies a signer. -/
def sigOk (ecdsa hss msg block : List Byte) : Bool :=
  let h := sliceBytes block 96 6144
  let n := if beNat (h.take 4) = 0 then 2672 else 5396
  Config.ecdsaOk ecdsa (Config.sha384 msg) (block.take 96) && beNat (h.take 4) < 2 && zeroAt h n (6144 - n) && Config.hssOk hss msg (h.take n)

/-- Whether an object is valid (R523). `rd` reads it, `cap` is the room it lies in, `owner` the certificate body of the owner in force. -/
def Dev.objValid (s : Dev) (kind cap : Nat) (rd : Nat → Nat → List Byte) (owner : Option (List Byte)) : Bool :=
  let h := rd 0 256
  let n := leAt h 16 4
  let signers := leAt h 6 1
  let svn := leAt h 8 4
  let dev := beNat (sliceBytes h 24 48)
  let needV := kind = 1 || kind = 2 || kind = 4
  let needO := kind = 3 || kind = 5 || (kind ≤ 2 && owner.isSome)
  let vkey := leAt h 7 1
  leAt h 0 4 = 0x424F5348 && leAt h 4 1 = 1 && leAt h 5 1 = kind && signers < 4 && vkey < 4
    && zeroAt h 20 4 && zeroAt h 120 136 && zeroAt (rd 12736 64) 0 64
    && 12800 + n ≤ cap && beNat (sliceBytes h 72 48) = (Config.sha384 (rd 12800 n)).toNat
    && (dev = Config.deviceId.toNat || (dev = 0 && kind ≤ 2))
    && (!needV || (bitAt signers 0 && s.cnt 7 ≤ vkey && sigOk (Config.vendorEcdsa vkey) (Config.vendorHss vkey) h (rd 256 6240)))
    && (!needO || (bitAt signers 1 && (match owner with
      | some c => sigOk (c.take 97) (sliceBytes c 100 60) h (rd 6496 6240)
      | none => false)))
    && (match kind with
      | 1 => s.cnt 1 ≤ svn
      | 2 => s.cnt 2 ≤ svn
      | 3 => s.cnt 3 ≤ svn
      | 4 => s.cnt 4 ≤ svn && n = 160 && zeroAt (rd 12800 160) 97 3
      | _ => svn = s.cnt 5 && n = 0)

def Dev.slotRd (s : Dev) (kind slot a n : Nat) : List Byte :=
  match slotOf kind slot with
  | some x => s.flashBytes (x.1 + a) n
  | none => []

/-- Whether the object in a slot is valid; a manifest's body is checked too (R531). -/
def Dev.slotValid (s : Dev) (kind slot : Nat) (owner : Option (List Byte)) (bodyOk : List Byte → Bool) : Bool :=
  match slotOf kind slot with
  | some x => s.objValid kind x.2 (s.slotRd kind slot) owner && bodyOk (s.slotRd kind slot 12800 (leAt (s.slotRd kind slot 16 4) 0 4))
  | none => false

/-- R525: the slot in force of a kind: valid, of higher SVN, then of higher VERSION, then slot A. -/
def Dev.bestSlot (s : Dev) (kind : Nat) (owner : Option (List Byte)) (bodyOk : List Byte → Bool) : Option Nat :=
  let a := s.slotValid kind 0 owner bodyOk
  let b := s.slotValid kind 1 owner bodyOk
  let key (i : Nat) : Nat := leAt (s.slotRd kind i 8 4) 0 4 * 2 ^ 32 + leAt (s.slotRd kind i 12 4) 0 4
  if a && b then some (if key 0 < key 1 then 1 else 0) else if a then some 0 else if b then some 1 else none

/-- The owner in force (R524): the body of the certificate in force, if its keys are not all zero. -/
def Dev.owner (s : Dev) : Option (List Byte) :=
  let slot := match s.aoc.inForce.find? (fun x => x.1 == 4) with
    | some x => some x.2
    | none => s.bestSlot 4 none fun _ => true
  match slot with
  | some i => let b := s.slotRd 4 i 12800 160; if zeroAt b 0 160 then none else some b
  | none => none

/-- A manifest body that is valid for a role (R531). -/
def manifestOk (role : Nat) (b : List Byte) : Bool :=
  let z (o n : Nat) : Bool := zeroAt b o n
  let at_ (o : Nat) : Nat := leAt b o 1
  b.length = 1024 && 1 ≤ at_ 1 && at_ 1 ≤ 4 && 1 ≤ at_ 0 && at_ 0 ≤ at_ 1 && at_ 2 < 4 && at_ 3 < 16 && (at_ 3 = 0 || role = 2)
    && (List.range 5).all (fun i => at_ (4 + i) ≤ 2) && z 9 3 && (List.range 24).all (fun i => at_ (16 + i) ≤ 5) && z 40 24
    && (List.range 16).all (fun k => at_ (64 + 16 * k + 4) < 24 && at_ (64 + 16 * k + 5) < 4 && z (64 + 16 * k + 6) 10) && z 320 704

/-- The defaults of R532, laid out as a manifest. -/
def defaultManifest : List Byte :=
  [1, 4, 2, 0, 0, 1, 1, 0, 2] ++ List.replicate 7 0 ++ List.replicate 24 1 ++ List.replicate 984 0

end Sys2Proof.Machine
end

