-- ==== Sys2Proof/Machine/Boot.lean ====
section
/-! DEFINITION. Start-up (R516 to R532), tamper (R533, R534), pen state (R535), the standby AOC (R536), the reset contact (R573) and the events that begin a start-up (R488, R540). -/

namespace Sys2Proof.Machine

/-! ### BOOT_STATUS (R540) -/

def Dev.bootReady (s : Dev) : Bool := s.fld .boot 20 0 R.BOOT_STATUS 31 31 = 1
def Dev.penState (s : Dev) : Bool := s.fld .boot 20 0 R.BOOT_STATUS 30 30 = 1
def Dev.recovery (s : Dev) : Bool := s.fld .boot 20 0 R.BOOT_STATUS 29 29 = 1
/-- Both AOCs have failed: nothing answers (R536). -/
def Dev.aocDead (s : Dev) : Bool := s.aoc.dead % 4 = 3
def bootPhase (n : Nat) : Prog := setReg .boot 20 0 R.BOOT_STATUS n
/-- A log entry of the firmware or AOC. -/
def aocLog (cls code cause index data : Nat) : Prog := logE { LogEntry.plain cls 0x0B code cause with index := index, data := data }

/-- Records a failing unit (R540): the 65th and later are in the event log only. -/
def bootFail (kind die unit logical test : Nat) : Prog := look fun s =>
  let n := s.fld .boot 20 0 R.BOOT_FAILS 6 0
  let v := kind * 2 ^ 28 + die * 2 ^ 24 + unit * 2 ^ 16 + logical * 2 ^ 8 + test
  progs [
    aocLog 3 0x7F test unit v,
    if n < 64 then progs [setReg .boot 20 0 (R.BOOT_FAIL + 4 * n) v, setFld .boot 20 0 R.BOOT_FAILS 6 0 (n + 1)]
    else setFld .boot 20 0 R.BOOT_FAILS 31 31 1]

/-- Stops start-up in pen state: the domains go off; S0 and S1 keep their contents if `keep` (R535). -/
def penStop (reason : Nat) (keep : Bool) : Prog := progs [orderlyOff keep, enterPen reason, onAoc fun a => { a with step := 0 }]

/-! ### The beginning of a start-up (R488, R516, R540, R573) -/

/-- What a new start-up finds: the registers of the management complex at their reset values but the part's identity (R2), the counters, the claims unless a
reset clears them (R484), and the last emergency; sessions, mailboxes and the event log anew. -/
def beginStart (claims powerLost : Bool) : Prog := look fun s =>
  let kept := [regAddr .aoc 20 0 R.AOC_PART_ID] ++ ((List.range 8).map fun i => regAddr .boot 20 0 (R.CNT + 4 * i))
    ++ (if claims || powerLost then [] else (List.range 5).map fun r => regAddr .res 20 0 (R.RES_CLAIM + 4 * r))
    ++ (if powerLost then [] else [regAddr .boot 20 0 R.TAMPER_STATUS, regAddr .boot 20 0 R.TAMPER_EVENTS])
  let cap := s.fld .aoc 20 0 R.AOC_PART_ID 7 4
  progs [
    .upd (.regDrop aocBase (aocBase + 0x100000000)),
    forAll kept fun a => .upd (.reg a (s.regAt a)),
    .upd .logClear,
    forAll s.sessions fun x => .upd (.session x.1 Session.reset),
    forAll s.mailboxes fun x => .upd (.mbox x.1 Mailbox.reset),
    .upd (.rfaults []),
    onPower fun w => { w with
      pen := false
      emergency := false
      envMax := cap
      envActive := 1
      envReq := 1
      settled := false
      thEnv := 0
      lastEmerg := if powerLost then 0 else w.lastEmerg },
    onAoc fun a => { a with
      update := none
      inForce := []
      manifest := []
      dead := 0
      envHeld := []
      latches := []
      waitEdges := []
      derived := false
      vault := if powerLost then [] else a.vault },
    only powerLost (progs [
      .upd (.dom mgmtDom ⟨.on, 1, none⟩),
      look fun s => onPower fun w => { w with charged := sput w.charged (stepKey mgmtDom 0) (s.weirUnits (domMw mgmtDom)) }]),
    bootPhase 2,
    onAoc fun a => { a with step := 2 }]

/-- INPUT_OK_SET (R488): the input has stayed at 40.0 V or above for 10 ms. -/
def inputOkSetProg : Prog := look fun s =>
  only (!s.power.inputOk && 4000 ≤ s.power.vin) (progs [
    .upd (.time 10000000),
    onPower fun w => { w with inputOk := true, uvWarn := false },
    beginStart true true,
    look fun s => only s.aoc.resetLow (onAoc fun a => { a with step := 0 })])

/-- RESET_ASSERT (R573): every unit halts, every domain goes off through the weir, the claims are cleared, an update ends. -/
def resetAssertProg : Prog := look fun s => only (!s.aoc.resetLow) (progs [
  .upd (.time 10000),
  onAoc fun a => { a with resetLow := true, step := 0, update := none },
  forAll s.drovers fun v => .upd (.drover v.1 Drover.reset),
  forAll s.clusters fun c => .upd (.cl c.1 { Cluster.reset with wakeAt := c.2.wakeAt, gated := c.2.gated }),
  forAll s.pipes fun p => .upd (.pipe p.1 Pipe.reset),
  forAll s.sluices fun p => .upd (.sluice p.1 Sluice.reset),
  onPower fun w => { w with pen := false, rise := [] },
  orderlyOff false,
  forAll (List.range 5) fun r => setReg .res 20 0 (R.RES_CLAIM + 4 * r) 0,
  bootPhase 1])

/-- RESET_RELEASE (R573): start-up begins at step 2; it waits for the domains to be off. -/
def resetReleaseProg : Prog := look fun s => only s.aoc.resetLow (progs [
  onAoc fun a => { a with resetLow := false },
  only s.power.inputOk (beginStart true false)])

/-- BOOT_CTRL (R540): the key begins a new start-up at step 2, whose units halt as at a reset; the claims stand. -/
def bootCtrlWrite (v : Nat) : Prog := look fun s => only (v % 2 ^ 32 = 0xB007C0DE && s.power.inputOk && !s.recovery) (progs [
  forAll s.drovers fun v => .upd (.drover v.1 Drover.reset),
  forAll s.clusters fun c => .upd (.cl c.1 { Cluster.reset with wakeAt := c.2.wakeAt, gated := c.2.gated }),
  forAll s.pipes fun p => .upd (.pipe p.1 Pipe.reset),
  forAll s.sluices fun p => .upd (.sluice p.1 Sluice.reset),
  onPower fun w => { w with rise := [] },
  orderlyOff false,
  beginStart false false])
def bootCtrlWriteProg (v : Nat) : Prog := bootCtrlWrite v

/-! ### The steps (R516 to R521) -/

/-- A domain comes ON during start-up, charged to the ledger. -/
def bootOn (k : Nat) : Prog := look fun s => progs [
  .upd (.dom k ⟨.on, 1, none⟩),
  onPower fun w => { w with charged := sput w.charged (stepKey k 0) (s.weirUnits (domMw k)) },
  if k < 64 && k % 4 = 0 then progs [
    onTherm (k / 4) fun x => { x with pll := true }, onDie (k / 4) fun m => { m with wakeAt := s.clock }]
  else if 64 ≤ k && k < 96 then progs [.upd (.stackLost (k - 64)), onStack (k - 64) Stack.anew]
  else .skip]

/-- A failing cluster (R518, R519): fenced, and its logical number passes to the lowest spare. `ok` goes on if
there was one, `out` if not. -/
def bootCluster (d p test : Nat) (out ok : Prog) : Prog := look fun s =>
  if s.spareState d p ≠ 0 then ok
  else
    let l := s.logicalOf d p
    progs [
      bootFail 1 d p l test,
      fence d p,
      if l = 0xFF then progs [writeMap d, ok]
      else look fun s => match s.firstSpare d with
        | some q => progs [remap d l q, ok]
        | none => out]

/-- The failing clusters in the order they are found: by wave, then by number. A wave in which one finds no spare is the last: its other failing
clusters are recorded (R519, R539). -/
def bootClusters : List (Nat × Nat × Nat) → Prog → Prog
  | [], done => done
  | (d, p, test) :: rest, done => bootCluster d p test
      (progs [
        forAll (rest.filter fun x => x.2.1 / 21 = p / 21) fun x => look fun s =>
          only (s.spareState x.1 x.2.1 = 0) (bootFail 1 x.1 x.2.1 (s.logicalOf x.1 x.2.1) x.2.2),
        penStop 2 true])
      (bootClusters rest done)

/-- The failing units of some kinds are recorded, and end start-up in pen state; else it goes on. -/
def bootUnits (env : BootEnv) (kinds : List Nat) (keep : Bool) (next : Prog) : Prog :=
  let l := env.faults.filter fun f => kinds.contains f.kind.val
  if l.isEmpty then next
  else progs [forAll l fun f => bootFail f.kind.val f.die.val f.unit.val 0xFF f.test.val, penStop 1 keep]

/-- The failing rows (R521): spared; one without a spare ends start-up. -/
def bootRows : List (Fin 32 × Fin 50331648) → Prog → Prog
  | [], next => next
  | (n, row) :: rest, next => look fun s =>
    if s.canSpare n.val row.val then progs [spareRow n.val row.val, bootRows rest next]
    else progs [spareOut n.val row.val, bootFail 5 (n.val / 2) n.val 0xFF 0x71, penStop 1 true]

/-- The entry of the queue pair through which group device j reaches device k (R531). -/
def groupQpEntry (m : List Byte) (j k : Nat) : List Byte :=
  let g (i : Nat) : Nat := 64 + 16 * i
  let b := List.replicate 64 (0 : Byte)
  let b := patchBytes b 0 [1, 1]
  let b := patchBytes b 2 (leBytes 1 (leAt m (g j + 4) 1 + leAt m (g j + 5) 1 * 32))
  let b := patchBytes b 4 (sliceBytes m (g k) 4 ++ sliceBytes m (g j) 4 ++ leBytes 4 (16368 + j))
  patchBytes b 3 [2]

/-- Step 7 and READY (R516, R517). -/
def bootFinish (env : BootEnv) (t0 : Nat) : Prog := look fun s =>
  let m := s.aoc.manifest
  let force (kind : Nat) : Nat := match s.aoc.inForce.find? (fun x => x.1 == kind) with
    | some x => leAt (s.slotRd kind x.2 8 4) 0 4
    | none => 0
  let mainSlot := ((s.aoc.inForce.find? (fun x => x.1 == 2)).map (·.2)).getD 0
  progs [
    forAll (List.range 8) fun h => bootOn (96 + h),
    if !s.power.ref156 then progs [bootFail 6 0 0 0xFF 0x80, penStop 1 true]
    else bootUnits env [6] true (progs [
      forAll (List.range 24) fun p =>
        let mode := leAt m (16 + p) 1
        setReg .lnk (16 + p / 6) (p % 6) R.LNK_PORT_CTRL ((2 ^ modeSubs mode - 1) * 256 + mode * 16),
      only (s.role ≠ 0) (forAll (List.range 16) fun k => onQp (16368 + k) fun q => { q with entry := groupQpEntry m s.groupIndex k }),
      forAll (List.range 24) fun p => forAll (List.range (modeSubs (leAt m (16 + p) 1))) fun i =>
        if env.up.any (fun u => u.1.val = p && u.2.val = i) then linkUpProg p i else linkLog 0 0 p i,
      forAll (List.range 32) fun n => progs [
        .upd (.dom (64 + n) ⟨.retain, 2, none⟩),
        onPower fun w => { w with charged := sdel w.charged (stepKey (64 + n) 0) },
        stackRetain n],
      -- R517, in its order
      raiseCnt 1 (force 1), raiseCnt 2 (force 2), raiseCnt 3 (force 3), raiseCnt 4 (force 4),
      only (bitAt (force 2) 31) (raiseCnt 7 (leAt (s.slotRd 2 mainSlot 7 1) 0 1)),
      setReg .boot 20 0 R.BOOT_STATUS (2 ^ 31 + 8),
      look fun s => aocLog 0 0 0 0 ((s.clock - t0) / 1000000 * 65536 + (s.aoc.fenced.filter fun f => f.2 == 2).length % 65536),
      withFree fun a => withFree fun b => progs [
        setReg .pwr 20 0 R.WEIR_GRANTS (a % 2 ^ 32), setReg .pwr 20 0 R.WEIR_HELD_SLOTS (b % 2 ^ 32)],
      onAoc fun a => { a with step := 0 },
      forAll s.aoc.envHeld fun q => envAnswer q.1 q.2.1 q.2.2.1 q.2.2.2,
      onAoc fun a => { a with envHeld := [] }])]

/-- Steps 4 to 6 (R516 to R521). -/
def bootTests (env : BootEnv) (t0 : Nat) : Prog :=
  let order (f : BootFault) : Nat := f.unit.val / 21 * 2 ^ 12 + f.die.val * 2 ^ 8 + f.unit.val
  let cls := (List.range (8 * 2 ^ 12)).filterMap fun n => (env.faults.find? fun f => f.kind.val = 1 && f.unit.val < 168 && order f = n).map fun f => (f.die.val, f.unit.val, f.test.val)
  progs [
    forAll (List.range 16) fun d => bootOn (4 * d),
    bootUnits env [4] false (progs [
      forAll (List.range 32) fun n => bootOn (64 + n),
      bootUnits env [5] true (bootRows env.rows
        (bootClusters (cls.filter fun x => x.2.1 < 21) (bootUnits env [2, 3] true
          (bootClusters (cls.filter fun x => 21 ≤ x.2.1) (bootFinish env t0)))))])]

/-- Step 3 (R344, R499, R516, R524, R531, R532). -/
def bootStep3 (env : BootEnv) (t0 : Nat) : Prog := look fun s =>
  let cert := s.bestSlot 4 none fun _ => true
  let force (l : List (Nat × Nat)) (kind : Nat) (o : Option Nat) : List (Nat × Nat) := match o with
    | some i => sput l kind i
    | none => l
  if !env.mramOk then penStop 0x0C false
  else bootUnits env [7, 8] false (progs [
    loadMaps,
    onAoc fun a => { a with inForce := force a.inForce 4 cert },
    look fun s =>
      let owner := s.owner
      let main := s.bestSlot 2 owner fun _ => true
      let man := if owner.isSome then s.bestSlot 3 owner (manifestOk env.straps.val) else none
      if main.isNone then penStop 3 false
      else if owner.isSome && man.isNone then penStop 4 false
      else
        let m := match man with
          | some i => s.slotRd 3 i 12800 1024
          | none => defaultManifest
        let cap := s.fld .aoc 20 0 R.AOC_PART_ID 7 4
        let max_ := min cap (leAt m 1 1)
        let start := leAt m 0 1
        progs [
          onAoc fun a => { a with
            inForce := force (force a.inForce 2 main) 3 man
            manifest := m },
          .upd (.group (leAt m 3 1)),
          onPower fun w => { w with envMax := max_ },
          setFld .boot 20 0 R.SEC_STATUS 0 0 (leAt m 2 1 % 2),
          setFld .boot 20 0 R.SEC_STATUS 1 1 (b2n owner.isSome),
          setReg .boot 20 0 R.TAMPER_CLASS (((List.range 5).map fun i => leAt m (4 + i) 1 * 4 ^ i).foldl (· + ·) 0),
          setEnv (min start max_),
          only (max_ < start) (progs [setFld .pwr 20 0 R.PWR_ENV 31 31 1, powerLog 0 0x71 0 0 (start * 256 + max_)]),
          bootTests env t0]])

/-- START_UP (R516): from step 2, once the reference is present and the domains are off. -/
def startUpProg (env : BootEnv) : Prog := look fun s =>
  let off := s.doms.all fun e => e.1 = mgmtDom || e.2.st == .off || e.2.st == .retain
  let t0 := s.clock
  only (s.aoc.step = 2 && s.power.inputOk && s.power.ref25 && !s.aoc.resetLow && !s.aocDead && off) (progs [
    .upd (.time env.ns),
    .upd (.role env.straps.val),
    onAoc fun a => { a with
      straps := env.straps.val
      dead := (if env.aocOk && !bitAt a.dead 0 then 0 else 1) + (if env.standbyOk && !bitAt a.dead 1 then 0 else 2) },
    look fun s =>
      if s.aocDead then progs [onAoc fun a => { a with step := 0 }, bootPhase 1]
      else progs [
        setReg .boot 20 0 R.AOC_STATUS (b2n (bitAt s.aoc.dead 0) * 5 + b2n (!bitAt s.aoc.dead 1) * 2),
        raiseCnt 0 (s.cnt 0 + 1),
        setFld .boot 20 0 R.SEC_STATUS 2 2 (b2n s.latched),
        if s.latched then penStop 8 false
        else progs [
          onAoc fun a => { a with derived := true },
          look fun s => match s.bestSlot 1 s.owner fun _ => true with
            | none => progs [setReg .boot 20 0 R.BOOT_STATUS (2 ^ 29 + 10), onAoc fun a => { a with step := 0 }]
            | some i => progs [
                onAoc fun a => { a with inForce := sput a.inForce 1 i },
                if env.straps.val = 3 then penStop 5 false else bootStep3 env t0]]]])

/-- STARTUP_STEP_TIMEOUT (R516): a step that exceeds its limit has failed: step 2 is a fault of the AOC, any later one ends in pen state. -/
def startupStepTimeoutProg (step : Nat) : Prog := look fun s =>
  let limit := if step = 2 then 2 else if step = 3 then 5 else if step = 4 then 2 else if step = 5 then 12 else if step = 6 then 16 else 6
  only (s.aoc.step = 2 && s.power.inputOk && s.power.ref25 && !s.aoc.resetLow && !s.aocDead) (progs [
    .upd (.time (limit * 1000000000)),
    if step ≤ 2 then
      (if bitAt s.aoc.dead 0 then progs [onAoc fun a => { a with dead := 3, step := 0 }, bootPhase 1]
       else onAoc fun a => { a with dead := setBits a.dead 0 0 1 })
    else penStop 1 (decide (5 ≤ step))])

/-! ### The standby AOC (R536) -/

/-- AOC_TAKEOVER: the heartbeat of the AOC of LD0 has stopped for 64 always-on cycles. Before READY start-up begins again at step 2 on the standby. -/
def aocTakeoverProg : Prog := look fun s => only (!bitAt s.aoc.dead 0) (progs [
  .upd (.time 20480),
  onAoc fun a => { a with dead := setBits a.dead 0 0 1 },
  if bitAt s.aoc.dead 1 then progs [allOff, onAoc fun a => { a with step := 0 }, bootPhase 1]
  else progs [
    setFld .boot 20 0 R.AOC_STATUS 0 0 1,
    setFld .boot 20 0 R.AOC_STATUS 2 2 1]])

/-- STANDBY_AOC_FAILURE: with the AOC of LD0 failed before, the module is in standby. -/
def standbyAocFailureProg : Prog := look fun s => only (!bitAt s.aoc.dead 1) (progs [
  onAoc fun a => { a with dead := setBits a.dead 1 1 1 },
  setFld .boot 20 0 R.AOC_STATUS 1 1 0,
  only (bitAt s.aoc.dead 0) (progs [allOff, onAoc fun a => { a with step := 0 }, bootPhase 1])])

/-! ### Tamper (R533, R534) -/

/-- An alarm's log entry reaches every open session, whatever RCV_CFG.EVENT_MIN is (R533). -/
def alarmLog (i : Nat) : Prog := look fun s =>
  let e := { LogEntry.plain 3 0x0B 0 0 with index := i, time := s.time }
  let n := s.logNext
  progs [
    only (decide (logCap ≤ s.log.length)) (tally .rcv 20 0 R.LOG_LOST 1),
    .upd (.log e),
    forAll s.sessions fun x => sendToSession x.1 3 0x8000 0 0 (e.bytes n)]

/-- TAMPER_ALARM: the inputs in `alarms` raise an alarm in one always-on cycle; `raw` are the conditions present. The highest class among them is carried
out (R539). -/
def tamperAlarmProg (alarms raw : Nat) : Prog := look fun s =>
  let l := (List.range 5).filter (bitAt alarms)
  let cls (i : Nat) : Nat := s.fld .boot 20 0 R.TAMPER_CLASS (2 * i + 1) (2 * i)
  let top := (l.map cls).foldl max 0
  progs [
    onAoc fun a => { a with raw := raw % 32 },
    only (!l.isEmpty && !s.aocDead) (progs [
      .upd (.time 320),
      setFld .boot 20 0 R.TAMPER_STATUS 4 0 (s.fld .boot 20 0 R.TAMPER_STATUS 4 0 ||| alarms % 32),
      tally .boot 20 0 R.TAMPER_EVENTS l.length,
      forAll l alarmLog,
      only (top = 2) (progs [
        onAoc fun a => { a with vault := [], derived := false, update := none },
        setFld .boot 20 0 R.SEC_STATUS 3 3 1,
        raiseCnt 5 (s.cnt 5 + 1),
        look fun s => setFld .boot 20 0 R.SEC_STATUS 2 2 (b2n s.latched),
        aocLog 3 0 0 0 1]),
      only (1 ≤ top) (progs [
        emergency 6 true s.power.inputOk (if top = 2 then 7 else 6),
        onAoc fun a => { a with step := 0 }])])]

/-- AOC_STATUS, SEC_STATUS and TAMPER_STATUS as read (R540). -/
def Dev.bootRead (s : Dev) (off : Nat) : Nat :=
  if off = R.TAMPER_STATUS then s.aoc.raw % 32 * 256 + s.fld .boot 20 0 off 4 0
  else if off = R.SEC_STATUS then s.fld .boot 20 0 off 3 3 * 8 + b2n s.latched * 4 + s.fld .boot 20 0 off 1 0
  else s.reg .boot 20 0 off

end Sys2Proof.Machine
end

