-- ==== Sys2Proof/Machine/TensorRun.lean ====
section
/-! DEFINITION. What a running instruction on the tensor core does: weight tiles and swaps (R113 to R115, R119 to R121), passes (R110, R123, R127, R152 to R154), the epilogue engine (R132, R134), pooling and crop (R160 to R165), the widening decision (R92 to R99), the commit (R95), pre-emption (R129), feeder faults (R126, R128) and split mode (R124). -/

namespace Sys2Proof.Machine

/-! ### The members of an instruction and their engines -/

/-- The place of a member in its instruction. -/
def Entry.memberIdx (e : Entry) (target : Nat) : Nat := (e.run.members.findIdx? (fun m => m.target == target)).getD 0
def Entry.memberOf (e : Entry) (target : Nat) : Option Member := e.run.members.find? fun m => m.target == target
def Entry.count (e : Entry) : Nat := e.run.members.length

/-- Changes a member of an entry. -/
def onMember (k uid target : Nat) (f : Member → Member) : Prog :=
  onRun k uid fun r => { r with members := r.members.map fun m => if m.target == target then f m else m }

/-- The registers of an engine, and a change of them. -/
def Cluster.engine (c : Cluster) (t : Nat) : Engine := sget (fun _ => Engine.reset) c.engines t
def onEngine (k t : Nat) (f : Engine → Engine) : Prog :=
  onCl k fun c => { c with engines := sset (fun _ => Engine.reset) c.engines t (f (c.engine t)) }

/-- The running instructions of a member target, oldest first; the next one may have issued while the first is in its last pass (R115). -/
def Cluster.runsOn (c : Cluster) (t : Nat) : List Entry :=
  c.entries.filter fun e => e.stage == .running && e.run.members.any fun m => m.target == t && !m.done
/-- The one whose passes run on it. -/
def Cluster.runningOn (c : Cluster) (t : Nat) : Option Entry := (c.runsOn t).head?

/-- The engines that share a target's tile loads and swaps: every member of a gang, or the one (R120). -/
def Entry.mates (e : Entry) (t : Nat) : List Nat := if e.run.gang then e.run.members.map (·.target) else [t]

/-- The output tile in step: of a gang, the first that a member with rows has still to run; of any other member, its own (R123). -/
def TCtx.stepTile (x : TCtx) (e : Entry) (m : Member) : Nat :=
  if e.run.gang then
    ((enumFrom 0 e.run.members).filterMap fun y => if y.2.tile < x.tiles e.count y.1 then some y.2.tile else none).foldl min m.tile
  else m.tile

/-- A member that takes no part in the step in progress idles in step with its gang: it has no output tile left, or is ahead after a stop (R123, R128). -/
def TCtx.idles (x : TCtx) (e : Entry) (t : Nat) : Bool :=
  match e.memberOf t with
  | some m => decide (x.tiles e.count (e.memberIdx t) ≤ m.tile) || decide (x.stepTile e m < m.tile)
  | none => true

/-! ### Reads and writes of a running unit -/

/-- Makes a unit's accesses at a place of its run (R349): all of them translate, the read ones are read and checked; then `f` runs. Uncorrectable data ends the
instruction (R126, R332). -/
def unitAccess (k uid : Nat) (w : FaultAt) (reads : List (Nat × Nat)) (writes : List (Nat × Nat)) (f : Prog) : Prog :=
  let d := k / 168
  let p := k % 168
  let rl : List VAcc := (reads.filter fun r => r.2 ≠ 0).map fun r => ⟨r.1, r.2, 0⟩
  let wl : List VAcc := (writes.filter fun r => r.2 ≠ 0).map fun r => ⟨r.1, r.2, 1⟩
  entryAccess k uid w (rl ++ wl) [] (look fun s =>
    .seq (forAll rl fun a => vaTouch d p a.va a.len) (
      match rl.find? fun a => s.vaBad d p a.va a.len with
      | none => f
      | some a => dataLost k uid w a.va))

/-- The input ranges that a pass reads: the codes of its rows at one tap and reduction tile, with row records, side records, flag-free
(R101, R112). -/
def TCtx.passReads (x : TCtx) (tap rt : Nat) (rs : List Nat) : List (Nat × Nat) :=
  let sz := fmtSize x.inFmt
  let n := min 64 (x.kTap - rt * 64)
  let rec0 := if x.d.imode = 2 then rs.filterMap fun r =>
      if x.op = 2 then
        let q := x.pixel r
        let p := x.tapPos q.2.1 q.2.2 0
        if inside p.1 p.2 x.grid.1 x.grid.2.1 then
          some (bits x.scaleEntry 47 0 + 8 * ((q.1 * x.grid.1 + p.1.toNat) * x.grid.2.1 + p.2.toNat), 8) else none
      else some (bits x.scaleEntry 47 0 + 8 * r, 8)
    else []
  let codes := rs.filterMap fun r =>
    if x.op = 2 then
      if x.s2c then none
      else
        let q := x.pixel r
        let p := x.tapPos q.2.1 q.2.2 tap
        if inside p.1 p.2 x.grid.1 x.grid.2.1 then
          (if x.wideIn then
            some (shortRow (argQ x.a 0x88) ((q.1 * x.grid.1 + p.1.toNat) * x.grid.2.1 + p.2.toNat) (2 * x.kTap) + 2 * (64 * rt), 2 * n)
          else some (cell x.inRef sz q.1 rt p.1.toNat p.2.toNat, n * sz))
        else none
    else if x.wideIn then some (shortRow (argQ x.a 0x88) r (2 * x.d.k21) + 2 * (64 * rt), 2 * n)
    else some (x.inRef.base + r * x.inRef.yStride + 64 * rt * sz, n * sz)
  let planar := if x.s2c then (x.tableOps.filter fun o => !o.isOut).map fun o => (o.va, o.len) else []
  let side := if !x.d.inOutl || (x.inListed rt).isEmpty then []
    else if x.d.wideIn then
      if x.wideIn then [] else [(bits (argQ x.a 0x88) 47 0, TCtx.shortExt (argQ x.a 0x88) x.inRows (2 * x.inCols))]
    else (if x.op = 2 then [(bits (argQ x.a 0xA8) 47 0, TCtx.shortExt (argQ x.a 0xA8) x.inRows (16 * x.nrt))]
       else rs.map fun r => (shortRow (argQ x.a 0xA8) r (16 * x.nrt) + 16 * rt, 16))
  rec0 ++ codes ++ planar ++ side

/-- Ends an instruction for a malformed outlier list (R87), or for a scale above the limit at a column and group (R60). -/
def listCondition (k uid : Nat) (w : FaultAt) : Prog := dataConditionAt k uid 6 22 w none
def scaleCondition (k uid : Nat) (w : FaultAt) (c : Nat × Nat) : Prog := dataConditionAt k uid 5 22 w (some (c.1 * 2 ^ 16 + c.2))

/-! ### Weight tiles (R77, R113, R120, R121) -/

/-- The key of a target in the weight path's order: AE0.H0 to AE3.H1; a whole array stands at its H0. -/
def pathKey (t : Nat) : Nat := if 16 ≤ t then t - 16 else 2 * t

/-- The pass whose tile a target needs next in its shadow (R115), with the length of its tile in beats. -/
def Dev.wantedTile (s : Dev) (k : Nat) (e : Entry) (t : Nat) : Option (Nat × Nat × Nat) :=
  let x := s.ctx k e
  match e.memberOf t with
  | none => none
  | some m =>
    let n := e.count
    let i := e.memberIdx t
    let cur : Option (Nat × Nat) :=
      if m.pass < (x.passList n m.tile).length && m.tile < x.tiles n i then some (m.tile, m.pass)
      else if m.tile < x.tiles n i then x.nextPos n i m.tile m.pass else none
    let w := ((s.cl k).engine t).active
    let loaded (q : Nat × Nat) : Bool := w.uid == e.uid && w.k == posCode q.1 q.2
    let want := match cur with
      | some q => if loaded q then x.nextPos n i q.1 q.2 else some q
      | none => none
    want.bind fun q => ((x.passList n q.1)[q.2]?).map fun tr => (q.1, q.2, ceilDiv (x.tileLen tr.2) 64)

/-- The package tile of a pass. -/
def TCtx.tileOfPass (x : TCtx) (n t p : Nat) : Nat × Nat :=
  match (x.passList n t)[p]? with
  | some tr => (x.tileIndex (t % max 1 x.colTiles) tr.1 tr.2, tr.2)
  | none => (0, 0)

/-- Whether a target waits for beats: its shadow does not yet hold the whole tile it needs next. -/
def Dev.needsBeat (s : Dev) (k : Nat) (e : Entry) (t : Nat) : Bool :=
  match s.wantedTile k e t with
  | none => false
  | some (ti, p, beats) =>
    let w := ((s.cl k).engine t).shadow
    !(w.uid == e.uid && w.k == posCode ti p) || w.beats < beats

/-- One beat into a target's shadow, or into the shadows of a whole gang (R113, R120). The tile's data conditions are found as it is
staged (R60, R87, R286). -/
def loadBeat (k : Nat) (e : Entry) (t : Nat) : Prog := look fun s =>
  let x := s.ctx k e
  match s.wantedTile k e t with
  | none => .skip
  | some (ti, p, _) =>
    let mates := e.mates t
    let pos := posCode ti p
    let w := e.atPass t ti p
    let held := ((s.cl k).engine t).shadow
    let beat : Prog := forAll mates fun u => onEngine k u fun g => { g with shadow := { g.shadow with beats := g.shadow.beats + 1 } }
    if held.uid == e.uid && held.k == pos then beat
    else
      let tl := x.tileOfPass e.count ti p
      let a := x.tileAddr tl.1
      let outl := argVa x.a 0xA0
      if x.d.inOutl && !x.outlOk outl tl.2 (x.kTap - 64 * tl.2) then listCondition k e.uid w
      else if x.pitch < x.tileLen tl.2 then dataConditionAt k e.uid 4 25 w none
      else
        let n := x.tileLen tl.2
        unitAccess k e.uid w ([(a, n)] ++ (if x.d.inOutl then [(outl + 8 * tl.2, 8)] else [])) [] (look fun s =>
          let b := s.vaBytes (k / 168) (k % 168) a n
          match x.badScale b tl.2 (x.colCount ti) with
          | some c => scaleCondition k e.uid w (x.colBase ti + c.1, c.2)
          | none => .seq (forAll mates fun u => onEngine k u fun g => { g with shadow := ⟨e.uid, pos, 0, b, []⟩ }) beat)

/-- WEIGHT_TILE_LOAD (R113, R121): one cycle of the weight path: up to two targets get a beat, in turn after the one granted last. -/
def weightLoadProg (k : Nat) : Prog := look fun s =>
  let c := s.cl k
  let targets := ((c.entries.filter fun e => e.stage == .running && (e.op = 1 || e.op = 2) && e.target ≠ 0x10).flatMap fun e =>
    (if e.run.gang then ((e.run.members.map (·.target)).filter fun t => !(s.ctx k e).idles e t).take 1
      else e.run.members.map (·.target)).map fun t => (e.uid, t)).filter
      fun q => match c.entries.find? (fun e => e.uid == q.1) with | some e => s.needsBeat k e q.2 | none => false
  let order := (List.range 8).map fun i => (c.lastWeight + 1 + i) % 8
  let chosen := (order.filterMap fun o => targets.find? fun q => pathKey q.2 == o).take 2
  forAll chosen fun q => look fun s =>
    match (s.cl k).entries.find? (fun e => e.uid == q.1) with
    | some e => .seq (onCl k fun c => { c with lastWeight := pathKey q.2 }) (loadBeat k e q.2)
    | none => .skip

/-- Whether a target may swap: its old pass has ended and its shadow holds the whole next tile (R114). -/
def Dev.canSwap (s : Dev) (k : Nat) (e : Entry) (t : Nat) : Bool :=
  let g := (s.cl k).engine t
  g.passEnded && !s.needsBeat k e t
    && match s.wantedTile k e t with
      | some q => !(g.active.uid == e.uid && g.active.k == posCode q.1 q.2.1)
      | none => false

/-- WEIGHT_SWAP (R114): the shadow becomes active, in every member of a gang at once, for the oldest instruction on the target that may swap. -/
def weightSwapProg (k t : Nat) : Prog := look fun s =>
  let may (e : Entry) : Bool := (e.mates t).any (s.canSwap k e) && (e.mates t).all fun u => s.canSwap k e u || (s.ctx k e).idles e u
  match ((s.cl k).runsOn t).find? may with
  | none => .skip
  | some e => progs [
      forAll (e.mates t) fun u => onEngine k u fun g => ⟨g.shadow, { g.shadow with uid := 0 }, (s.ctx k e).idles e u⟩,
      tcTally k R.TC_SWAPS 1]

/-! ### Passes (R106, R110, R127) -/

/-- Whether a member's active registers hold the tile of its next pass. -/
def Dev.passReady (s : Dev) (k : Nat) (e : Entry) (m : Member) : Bool :=
  let w := ((s.cl k).engine m.target).active
  w.uid == e.uid && w.k == posCode m.tile m.pass

/-- A member's output tile is finished: it goes to the EPE, and the member to its next tile (R110, R132). When no member has a tile left, the
instruction waits for the EPE alone. -/
def tileDone (k uid : Nat) (m : Member) (total : Nat) : Prog := look fun s =>
  match (s.cl k).entries.find? (fun e => e.uid == uid) with
  | none => .skip
  | some e =>
    let end_ := decide (total ≤ m.tile + 1)
    progs [
      onCl k fun c => { c with doneTiles := c.doneTiles ++ [⟨uid, e.memberIdx m.target, m.tile, m.acc⟩] },
      onMember k uid m.target fun _ => ⟨m.target, m.tile + 1, 0, [], [], end_⟩,
      only (e.run.rerun == 64 * (m.tile + 1) + m.target) (progs [
        tcTally k R.TC_PARITY_RETRIES 1,
        onRun k uid fun r => { r with rerun := 0, status := statusJoin r.status 3 }]),
      only (end_ && e.run.members.all fun y => y.done || y.target == m.target) (onEntry k uid fun e => { e with stage := .draining })]

/-- A member has run the last pass of its tile. A gang goes on to its next tile together, once every member that takes part in this one has run it: until then a
parity fault in one of them runs the tile again in all (R123, R127). -/
def passesDone (k uid t : Nat) : Prog := look fun s =>
  match (s.cl k).entries.find? (fun e => e.uid == uid) with
  | none => .skip
  | some e =>
    let x := s.ctx k e
    let mine := e.run.members.filter fun m => (e.mates t).contains m.target && !x.idles e m.target
    only (mine.all fun m => decide ((x.passList e.count m.tile).length ≤ m.pass))
      (forAll mine fun m => tileDone k uid m (x.tiles e.count (e.memberIdx m.target)))

/-- A weight-register parity fault found in a pass (R105, R126, R127): a second one ends the instruction; after the first, the output tile of the member, or of
its gang, is run again from freshly loaded weights, under the argument block as it then stands (R278). -/
def parityFault (k uid t : Nat) : Prog := look fun s =>
  match (s.cl k).entries.find? (fun e => e.uid == uid) with
  | none => .skip
  | some e => match e.memberOf t with
    | none => .skip
    | some m =>
      let half := isHalf e.target
      let w := e.atPass t m.tile m.pass
      let note := faultRecord k e 0x20 1 w 0 none true
      if half || e.run.retried then whenFirst k uid fun _ => progs [note, failEntry k uid (if half then 0x60 else 0x20) 1 0x20 0]
      else progs [
        note,
        onRun k uid fun r => { r with
          retried := true
          rerun := 64 * (m.tile + 1) + t
          members := r.members.map fun y =>
            if (e.mates t).contains y.target && y.tile == m.tile then { y with pass := 0, acc := [], part := [] } else y },
        forAll (e.mates t) fun u => onEngine k u fun g => { g.drop uid with passEnded := true },
        unitAccess k uid w [(e.d.args, 64 * e.d.argLen)] [] (look fun s =>
          onEntry k uid fun x => { x with args := s.vaBytes (k / 168) (k % 168) e.d.args (64 * e.d.argLen) })]

/-- Marks engines as working now (R119). -/
def busyNow (k : Nat) (l : List Nat) : Prog := look fun s =>
  onCl k fun c => { c with engIdle := l.foldl (fun m b => sput m b s.clock) c.engIdle }

/-- The values of one pass: main codes, side lane, group closes (R52 to R55, R90). DESIGN CHOICE (log 39): taps skipped count whenever the first pass of a tile
runs, so again in a parity re-run and in the wide run. -/
def runPass (k : Nat) (e : Entry) (m : Member) (tile : List Byte) : Prog := look fun s =>
  let x := s.ctx k e
  let n := e.count
  let rs := x.tileRows n (e.memberIdx m.target) m.tile
  let cn := x.colCount m.tile
  match (x.passList n m.tile)[m.pass]? with
  | none => .skip
  | some (tap, rt) =>
    unitAccess k e.uid (e.atPass m.target m.tile m.pass) (x.passReads tap rt rs) [] (look fun s =>
      let x := s.ctx k e
      let r := x.passRun tile tap rt cn rs m.acc (if rt = 0 then [] else m.part)
      let listed := (x.inListed rt).length
      let skipped := x.taps - (x.tapList n m.tile).length
      progs [
        busyNow k (gateBits e.target),
        only (listed ≠ 0) (tcTally k R.TC_OUTLIER_TERMS (rs.length * cn)),
        only (m.pass = 0 && !rs.isEmpty) (progs [tcTally k R.TC_TAP_SKIP skipped,
          onRun k e.uid fun y => { y with aux0 := if e.op = 2 then y.aux0 + skipped else y.aux0 }]),
        only (!rs.isEmpty) (onRun k e.uid fun y => { y with aux1 := if e.op = 2 then y.aux1 + 1 else y.aux1 }),
        onEngine k m.target fun g => { g with passEnded := true },
        onMember k e.uid m.target fun y => { y with pass := m.pass + 1, acc := r.1, part := r.2 },
        only (decide ((x.passList n m.tile).length ≤ m.pass + 1)) (passesDone k e.uid m.target)])

/-- An instruction's run has written its last unit: it is ready to commit, unless it must first take the widening decision (R92). -/
def runEnded (k uid : Nat) : Prog := onEntry k uid fun e => { e with stage := e.endStage }

/-- Where a pre-empted member stops (R129): between output tiles, in dynamic mode between row blocks. -/
def TCtx.atStop (x : TCtx) (m : Member) : Bool := m.pass = 0 && (x.d.omode ≠ 2 || m.tile % max 1 x.colTiles = 0)

/-- Whether a member of a pre-empted instruction has stopped: the members of a gang stop together, and a tile that is run again after a parity fault is run to its
end first (R130). -/
def TCtx.stopped (x : TCtx) (e : Entry) (m : Member) : Bool :=
  (if e.run.gang then e.run.members.all x.atStop else x.atStop m)
    && !(e.run.rerun ≠ 0 && (e.run.gang || e.run.rerun % 64 = m.target))

/-- A member that has no rows at all (R123). -/
def memberEmpty (k : Nat) (e : Entry) (t : Nat) : Prog := look fun s => progs [
  onMember k e.uid t fun y => { y with done := true },
  only (e.run.members.all fun y => y.done || y.target == t) (
    if (s.cl k).doneTiles.any fun q => q.uid == e.uid then onEntry k e.uid fun e => { e with stage := .draining } else runEnded k e.uid)]

/-- A pass of the MVE, which reads its tile as it goes (R131). -/
def mvePass (k : Nat) (e : Entry) (m : Member) : Prog := look fun s =>
  let x := s.ctx k e
  match (x.passList e.count m.tile)[m.pass]? with
  | none => .skip
  | some (_, rt) =>
    let w := e.atPass m.target m.tile m.pass
    let a := x.tileAddr (x.tileOfPass e.count m.tile m.pass).1
    let outl := argVa x.a 0xA0
    if x.d.inOutl && !x.outlOk outl rt (x.kTap - 64 * rt) then listCondition k e.uid w
    else if x.pitch < x.tileLen rt then dataConditionAt k e.uid 4 25 w none
    else unitAccess k e.uid w ([(a, x.tileLen rt)] ++ (if x.d.inOutl then [(outl + 8 * rt, 8)] else [])) [] (look fun s =>
      let b := s.vaBytes (k / 168) (k % 168) a (x.tileLen rt)
      match x.badScale b rt (x.colCount m.tile) with
      | some c => scaleCondition k e.uid w (x.colBase m.tile + c.1, c.2)
      | none => runPass k e m b)

/-- A product capture on a member's active weights (R105): each cell checks its parity bit. `parity` says that a bit of one of them has just changed. -/
def capturePass (k : Nat) (e : Entry) (m : Member) (parity : Bool) : Prog :=
  .seq (only parity (withFree fun v => onEngine k m.target fun g => { g with active := { g.active with upset := [v % 4096] } })) (look fun s =>
    let w := ((s.cl k).engine m.target).active
    if w.upset.isEmpty then runPass k e m w.bytes else parityFault k e.uid m.target)

/-- MATMUL and CONV (R110, R143): one pass of a member target's current output tile. `parity` says that a weight bit of it changes before the pass (R105). -/
def passProg (op k t : Nat) (parity : Bool) : Prog := look fun s =>
  match (s.cl k).runningOn t with
  | none => .skip
  | some e =>
    let x := s.ctx k e
    match e.memberOf t with
    | none => .skip
    | some m =>
      let n := e.count
      let passes := (x.passList n m.tile).length
      if e.op ≠ op || ((s.cl k).preempting.contains e.cmd && x.stopped e m) then .skip
      else if !s.tablesGood k x then dataConditionAt k e.uid 4 23 (e.atPass t 0 0) none
      else if x.tiles n (e.memberIdx t) ≤ m.tile then memberEmpty k e t
      else if x.idles e t then .skip
      else if passes = 0 then
        let zeros := List.replicate ((x.tileRows n (e.memberIdx t) m.tile).length * x.colCount m.tile) 0
        progs [
          tcTally k R.TC_TAP_SKIP x.taps,
          onRun k e.uid fun y => { y with aux0 := y.aux0 + x.taps },
          tileDone k e.uid { m with acc := zeros } (x.tiles n (e.memberIdx t))]
      else if passes ≤ m.pass then passesDone k e.uid t
      else if t = 32 then mvePass k e m
      else if s.passReady k e m then capturePass k e m parity
      else only (((s.cl k).engine t).passEnded && s.needsBeat k e t) (tcTally k R.TC_WLOAD_GAP 1)

/-- The input outlier list is well formed for a tile's blocks (R87), on an instruction whose input list no pass reads. -/
def TCtx.inListOk (x : TCtx) (c0 cn : Nat) : Bool :=
  !x.d.inOutl ||
    ((List.range (ceilDiv (c0 + cn) 64 - c0 / 64)).all fun b => x.outlOk (argVa x.a 0xA0) (c0 / 64 + b) (x.inCols - 64 * (c0 / 64 + b)))

/-- The ranges of that list. -/
def TCtx.inListReads (x : TCtx) (c0 cn : Nat) : List (Nat × Nat) :=
  if x.d.inOutl then [(argVa x.a 0xA0 + 8 * (c0 / 64), 8 * (ceilDiv (c0 + cn) 64 - c0 / 64))] else []

/-- EPILOGUE (R274): the next output tile of the sum of the addends goes to the EPE; no products are formed. -/
def epilogueOpProg (k : Nat) : Prog := look fun s =>
  match (s.cl k).runningOn 32 with
  | none => .skip
  | some e =>
    match e.memberOf 32 with
    | none => .skip
    | some m =>
      let x := s.ctx k e
      let c0 := x.colBase m.tile
      let cn := x.colCount m.tile
      let w := e.atPass 32 m.tile 0
      only (e.op = 5 && !((s.cl k).preempting.contains e.cmd && x.stopped e m) && m.tile < x.tiles 1 0)
        (unitAccess k e.uid w (x.inListReads c0 cn) [] (look fun s =>
          let x := s.ctx k e
          if !x.inListOk c0 cn then listCondition k e.uid w
          else tileDone k e.uid { m with acc := List.replicate ((x.tileRows 1 0 m.tile).length * cn) 0 } (x.tiles 1 0)))

/-! ### The epilogue engine (R132, R134) -/

/-- Adds the event counts of function evaluations to the SF tallies (R177, R178, R196). -/
def sfTallies (k : Nat) (c : SfCount) : Prog := progs [
  tally .sf (k / 168) (k % 168) R.SF_SEAM_CLAMP c.seam, tally .sf (k / 168) (k % 168) R.SF_CLAMPS c.clamp,
  tally .sf (k / 168) (k % 168) R.SF_FLUSH c.flush]

/-- Adds the counts of R63 to an instruction's run (R91, R94) and to the quantisation tallies (R100). -/
def countElems (k uid satE ufE : Nat) : Prog := progs [
  tcTally k R.TC_SAT_ELEMS satE, tcTally k R.TC_UF_ELEMS ufE,
  onRun k uid fun r => if r.wide then { r with satW := satAdd r.satW satE, ufW := satAdd r.ufW ufE }
    else { r with satN := satAdd r.satN satE, ufN := satAdd r.ufN ufE }]

end Sys2Proof.Machine
end

