-- ==== Sys2Proof/Machine/TensorEnd.lean ====
section
/-! DEFINITION. The end of tensor work: the epilogue engine's tiles (R62, R82, R88, R132, R134), POOL and CROP (R160 to R165), the widening decision (R92 to R99), the commit (R95), pre-emption stops (R129, R167, R293), feeder faults (R128) and split mode (R124). -/

namespace Sys2Proof.Machine

/-- The parity error of a table word (R185, R217): the instruction ends UNCORRECTABLE_MEMORY and SLOT_BAD is set. -/
def tableParity (k uid : Nat) : Prog := whenFirst k uid fun e =>
  match e.captured with
  | [] => .skip
  | c :: _ => progs [
      onCl k fun cl =>
        if c.rans then { cl with ct := sset (fun _ => CtSlot.atWake) cl.ct c.slot { sget (fun _ => CtSlot.atWake) cl.ct c.slot with bad := true } }
        else { cl with sf := sset SfSlot.atWake cl.sf c.slot { sget SfSlot.atWake cl.sf c.slot with bad := true } },
      only c.rans (tally .cc (k / 168) (k % 168) R.CC_TABLE_PARITY 1),
      faultRecord k e 0x20 0 e.atStart 0 none false,
      failEntry k e.uid (if isHalf e.target then 0x60 else 0x20) 0 0x20 0]

/-! ### Output tiles -/

/-- The ranges the EPE reads for a tile (R132): addends, bias, column multipliers, row records, the output's outlier list. -/
def TCtx.epeReads (x : TCtx) (rs : List Nat) (c0 cn : Nat) : List (Nat × Nat) :=
  ((List.range x.d.addends).flatMap fun i => rs.map fun r => (shortRow (argQ x.a (0xC0 + 8 * i)) r (8 * x.cols) + 8 * c0, 8 * cn))
  ++ (if x.d.bias then [(argVa x.a 0x48 + 4 * c0, 4 * cn)] else [])
  ++ (if x.d.omode = 1 then [(argVa x.a (if x.wide then 0x58 else 0x50) + 4 * c0, 4 * cn)] else [])
  ++ (if x.d.outOutl && !x.wide then [(argVa x.a 0xB0 + 8 * (c0 / 64), 8 * (ceilDiv (c0 + cn) 64 - c0 / 64))] else [])

/-- The output outlier list is well formed for a tile's blocks (R87). -/
def TCtx.outListOk (x : TCtx) (c0 cn : Nat) : Bool :=
  !x.d.outOutl || x.wide ||
    ((List.range (ceilDiv (c0 + cn) 64 - c0 / 64)).all fun b => x.outlOk (argVa x.a 0xB0) (c0 / 64 + b) (x.cols - 64 * (c0 / 64 + b)))

/-- Sums a list of naturals. -/
def sumNat (l : List Nat) : Nat := l.foldl (· + ·) 0

/-- The ranges a list of writes covers. -/
def writeRanges (ws : List (Nat × List Byte)) : List (Nat × Nat) := ws.map fun w => (w.1, w.2.length)

/-- The values v of a tile in dynamic mode (R82). -/
def TCtx.dynVals (x : TCtx) (act : Option SfProg) (rs : List Nat) (c0 cn : Nat) (acc : List Int) : List ((Nat × Nat × Int × Bool) × SfCount) :=
  (enumFrom 0 rs).flatMap fun q => (List.range cn).map fun c =>
    let v := epiV (x.epiIn act q.2 (c0 + c)) (atInt acc (q.1 * cn + c) + x.addendSum q.2 (c0 + c))
    ((q.2, c0 + c, v.v, v.sat), v.cnt)

/-- Writes the rows of a finished row block in dynamic mode (R82, R134). -/
def writeRows (k : Nat) (e : Entry) (w : FaultAt) (f : Nat) (rs : List Nat) (buf : List (Nat × Nat × Int × Bool)) (after : Prog) : Prog := look fun s =>
  let x := s.ctx k e
  let outs := rs.map fun r => (r, x.writeDynRow r f ((buf.filter fun b => b.1 == r).map (·.2)))
  let ws := outs.flatMap fun o => o.2.1 ++ [(argVa e.args 0x98 + 8 * o.1, o.2.2.1.bytes)]
  unitAccess k e.uid w [] (writeRanges ws) (progs [
    cmdWrites k e.cmd ws,
    countElems k e.uid (sumNat (outs.map (·.2.2.2.1))) (sumNat (outs.map (·.2.2.2.2))),
    tcTally k R.TC_DEGEN_ROWS (outs.filter (fun o => o.2.2.1.degenerate)).length,
    onRun k e.uid fun r => { r with rowBuf := buf.filter fun b => !rs.contains b.1, units := r.units + x.colTiles },
    after])

/-- One finished tile through the EPE (R62, R88, R132). -/
def epeTile (k : Nat) (e : Entry) (t : DoneTile) (after : Prog) : Prog := look fun s =>
  let x := s.ctx k e
  let n := max 1 e.count
  let rs := x.tileRows n t.member t.tile
  let c0 := x.colBase t.tile
  let cn := x.colCount t.tile
  let act := s.actProg k e
  let w := e.atEpe t.tile (x.passList n t.tile).length
  if !x.outListOk c0 cn then listCondition k e.uid w
  else unitAccess k e.uid w (x.epeReads rs c0 cn) [] (look fun s =>
    let x := s.ctx k e
    if x.d.omode = 2 then
      let vals := x.dynVals act rs c0 cn t.acc
      let buf := e.run.rowBuf ++ vals.map (·.1)
      let f := match act with | some _ => 15 | none => 24
      let after := progs [sfTallies k (vals.foldl (fun c v => c.add v.2) SfCount.zero), after]
      if t.tile % max 1 x.colTiles + 1 = x.colTiles then writeRows k e w f rs buf after
      else .seq (onRun k e.uid fun r => { r with rowBuf := buf }) after
    else
      let outs := (enumFrom 0 rs).flatMap fun q => (List.range cn).map fun c => x.writeElem act (atInt t.acc (q.1 * cn + c)) q.2 (c0 + c)
      let ws := outs.flatMap (·.1)
      unitAccess k e.uid w [] (writeRanges ws) (progs [
        cmdWrites k e.cmd ws,
        sfTallies k (outs.foldl (fun c o => c.add o.2.2) SfCount.zero),
        only (x.d.ofmt ≠ 3) (countElems k e.uid (outs.filter (fun o => o.2.1.sat)).length (outs.filter (fun o => o.2.1.uf)).length),
        onRun k e.uid fun r => { r with units := r.units + 1 },
        after]))

/-- OUTPUT_TILE_EPILOGUE (R132): the EPE serves the tile that finished first. `parity` says that a word of the function's table fails its
parity check (R185). -/
def epeProg (k : Nat) (parity : Bool) : Prog := look fun s =>
  let c := s.cl k
  match c.doneTiles with
  | [] => .skip
  | t :: _ =>
    match c.entries.find? (fun e => e.uid == t.uid) with
    | none => onCl k fun c => { c with doneTiles := c.doneTiles.drop 1 }
    | some e =>
      if parity && !e.captured.isEmpty then tableParity k e.uid
      else progs [
        busyNow k [5],
        epeTile k e t (progs [
          onCl k fun c => { c with doneTiles := c.doneTiles.drop 1 },
          look fun s =>
            only (e.stage == .draining && !((s.cl k).doneTiles.any fun q => q.uid == e.uid)) (runEnded k e.uid)])]

/-! ### Pooling and crop -/

/-- The ranges that an output cell of POOL reads: the input cells of the positions inside the image. -/
def TCtx.poolReads (x : TCtx) (i : Nat) : List (Nat × Nat) :=
  let g := x.geo
  let og := x.outGrid
  let b := i % max 1 x.blocks
  let px := i / max 1 x.blocks
  let n := px / (og.1 * og.2)
  let sz := fmtSize x.inFmt
  (List.range (g.kh * g.kw)).filterMap fun t =>
    let p := x.tapPos (px / og.2 % og.1) (px % og.2) t
    if inside p.1 p.2 x.inRef.h x.inRef.w then
      some (if x.wideIn then
          (shortRow (argQ x.a 0x88) ((n * x.inRef.h + p.1.toNat) * x.inRef.w + p.2.toNat) (2 * x.inRef.c) + 128 * b, 2 * min 64 (x.inRef.c - 64 * b))
        else (cell x.inRef sz n b p.1.toNat p.2.toNat, 64 * sz))
    else none

/-- The running instruction of a whole array with the given operation, not stopping for pre-emption. -/
def Cluster.windowOn (c : Cluster) (op a : Nat) : Option Entry :=
  c.entries.find? fun e => e.stage == .running && e.op = op && e.target = a && !c.preempting.contains e.cmd

/-- POOL (R160, R167): the next group of 128 output cells of the pooling instruction on array `a`. -/
def poolProg (k a : Nat) : Prog := look fun s =>
  match (s.cl k).windowOn 3 a with
  | none => .skip
  | some e =>
    let x := s.ctx k e
    let cells := (List.range 128).filterMap fun i => if e.run.units * 128 + i < x.poolCells then some (e.run.units * 128 + i) else none
    unitAccess k e.uid e.atStart (cells.flatMap x.poolReads) [] (look fun s =>
      let x := s.ctx k e
      let outs := cells.map x.poolCell
      let ws := outs.flatMap (·.1)
      let void := (outs.filter (·.2)).length
      unitAccess k e.uid e.atStart [] (writeRanges ws) (progs [
        busyNow k [a],
        cmdWrites k e.cmd ws,
        tcTally k R.TC_POOL_VOID void,
        onRun k e.uid fun r => { r with units := r.units + 1, aux0 := r.aux0 + void },
        only (x.poolCells ≤ (e.run.units + 1) * 128) (runEnded k e.uid)]))

/-- The position of an image that an edge mode reads, if it reads one (R150). -/
def edgePos (h w : Nat) (e : Edge) (y x : Int) : Option (Nat × Nat) :=
  if inside y x h w then some (y.toNat, x.toNat)
  else match e with
    | .zero => none
    | .const => none
    | m => some ((foldCoord y h m).toNat, (foldCoord x w m).toNat)

/-- The cells that a box of CROP reads (R163). -/
def TCtx.cropReads (x : TCtx) (kb : Nat) : List (Nat × Nat) :=
  let bb := x.boxBytes kb
  let box := CropBox.ofBytes bb
  let img := Img.ofBytes (x.imgBytes (leAt bb 16 2))
  let sz := fmtSize x.inFmt
  if !bitAt (leAt bb 18 1) 0 then []
  else (List.range x.cropOh).flatMap fun (i : Nat) => (List.range x.cropOw).flatMap fun (j : Nat) =>
    let sy := box.yFirst + (i : Int) * box.stepY - shlInt img.oy 16
    let sx := box.xFirst + (j : Int) * box.stepX - shlInt img.ox 16
    let iy := shrInt (rndAway sy 8) 8
    let ix := shrInt (rndAway sx 8) 8
    let ps := if bitAt x.d.w2 29 then [(rndAway sy 16, rndAway sx 16)] else [(iy, ix), (iy, ix + 1), (iy + 1, ix), (iy + 1, ix + 1)]
    (ps.filterMap fun p => edgePos img.h img.w x.cropEdge p.1 p.2).flatMap fun p =>
      (List.range x.blocks).map fun b => (img.base + b * img.bStride + p.1 * img.yStride + p.2 * (64 * sz), 64 * sz)

/-- CROP (R163, R164, R167): the next box of the crop-and-resize instruction on array `a`. -/
def cropProg (k a : Nat) : Prog := look fun s =>
  match (s.cl k).windowOn 4 a with
  | none => .skip
  | some e =>
    let x := s.ctx k e
    if !s.tablesGood k x then dataConditionAt k e.uid 4 23 e.atStart none
    else
      let kb := e.run.units
      unitAccess k e.uid e.atStart (x.cropReads kb) [] (look fun s =>
        let x := s.ctx k e
        let r := x.cropBox kb
        unitAccess k e.uid e.atStart [] (writeRanges r.1) (progs [
          busyNow k [a],
          cmdWrites k e.cmd r.1,
          tcTally k R.TC_CROP_BOXES 1,
          tcTally k R.TC_CROP_INVALID (b2n r.2),
          onRun k e.uid fun q => { q with units := q.units + 1, aux0 := q.aux0 + b2n r.2 },
          only (x.cropBoxes ≤ kb + 1) (runEnded k e.uid)]))

/-! ### Widening and commit -/

/-- NARROW_RUN_END (R92, R94, R99): the instruction of queue `q` whose narrow run has ended decides from its counts whether to run again
in W8A16. -/
def narrowEndProg (k q : Nat) : Prog := look fun s =>
  let c := s.cl k
  match (c.inQueue q).find? (fun e => e.stage == .draining && hasEpilogue e.op && e.d.widenEn && !e.run.wide
      && !(c.doneTiles.any fun t => t.uid == e.uid) && e.run.rowBuf.isEmpty) with
  | none => .skip
  | some e =>
    let b := argQ e.args 0x68
    let isOver := bits b 31 0 < e.run.satN || bits b 63 32 < e.run.ufN
    if isOver && !e.fast && e.d.ofmt ≤ 1 then progs [
      tcTally k R.TC_WIDEN_COUNT 1,
      onEntry k e.uid fun e => { e with
        stage := .running
        run := { e.run with
          wide := true
          units := 0
          status := statusJoin e.run.status 2
          members := e.run.members.map fun m => ⟨m.target, 0, 0, [], [], false⟩ } },
      onCl k fun c => { c with engines := c.engines.map fun g => (g.1, g.2.drop e.uid) }]
    else progs [
      only isOver (tcTally k R.TC_WIDEN_SKIPPED 1),
      onEntry k e.uid fun e => { e with stage := .finished }]

/-- INSTRUCTION_COMMIT (R95, R97, R165, R287, R289): the instruction whose run has ended, first in queue `q` and in every queue it occupies, writes its flag word,
gives up its holds and completes its tag. -/
def commitProg (k q : Nat) : Prog := look fun s =>
  match (s.cl k).inQueue q with
  | [] => .skip
  | e :: _ =>
    if e.stage == .finished && (s.cl k).first e then
      let epi := hasEpilogue e.op && e.d.widenEn
      let win := (e.op = 3 || e.op = 4) && e.d.wideIn
      let flag := epi || win
      let v := if epi then b2n e.run.wide else b2n e.run.wideIn
      let a := argVa e.args 0x70
      unitAccess k e.uid e.atStart [] (if flag then [(a, 4)] else []) (progs [
        only flag (cmdWrites k e.cmd [(a, leBytes 4 v)]),
        endEntry k e.uid e.run.status 0 0 flag])
    else .skip

/-! ### Faults, pre-emption, split mode -/

/-- FEEDER_TRANSLATION_FAULT (R128, R349): the first operand of the instruction running in queue `q` whose page is no longer held walks
again; a walk that finds no valid leaf with the permission stops the instruction. -/
def feederFaultProg (k q : Nat) : Prog := look fun s =>
  match ((s.cl k).inQueue q).find? (fun e => e.stage == .running || (e.stage == .draining && (s.cl k).doneTiles.any fun t => t.uid == e.uid)) with
  | none => .skip
  | some e =>
    let w : FaultAt := match e.run.members.find? (fun m => !m.done) with
      | some m => e.atPass m.target m.tile m.pass
      | none => if e.run.members.isEmpty then e.atStart else s.placeOf k e.uid 5
    let d := k / 168
    let p := k % 168
    let bad := (vaPieces (opAccs (s.stageOps k e))).findSome? fun a =>
      match s.xlate d p a.va a.access with
      | .fault c l => some (a, some (c, l))
      | .miss => match s.walk a.va a.access with
        | .fault c l => some (a, some (c, l))
        | .bounds => some (a, none)
        | .leaf _ => none
      | _ => none
    match bad with
    | none => .skip
    | some (a, some (c, l)) => stopAtFault k e.uid w a.va a.access c l
    | some (_, none) => endBounds k e.uid w

/-- Whether a running instruction stands at a place where a pre-emption stops it (R129, R167, R170, R205). -/
def Dev.atCursor (s : Dev) (k : Nat) (e : Entry) : Bool :=
  let x := s.ctx k e
  e.op ≠ 0x16 && e.op ≠ 0x20 && e.run.members.all (x.stopped e) && e.run.rowBuf.isEmpty && !((s.cl k).doneTiles.any fun t => t.uid == e.uid)

/-- TARGET_PREEMPT_STOP (R129, R183, R288, R293): the instruction at the head of queue `q`, of a command that is being pre-empted, stops at its
cursor; one that is staged and has not issued gives up its staging. It keeps its entry, tag and captured epoch. -/
def preemptStopProg (k q : Nat) : Prog := look fun s =>
  let c := s.cl k
  match (c.inQueue q).find? (fun e => c.preempting.contains e.cmd && (e.stage == .running || e.stage == .staged || e.stage == .faulted)) with
  | none => .skip
  | some e =>
    let fq := s.die (k / 168)
    let mine (r : FaultRec) : Bool := e.owns k r.unit
    if e.stage == .staged then onEntry k e.uid fun e => { e with stage := .queued }
    else if e.stage == .faulted then
      -- R352: a posted fault is withdrawn, the cursor is kept
      only (fq.fq.any mine || fq.backlog.any mine) (progs [
        withdraw (k / 168) mine,
        onEntry k e.uid fun e => { e with stage := .queued, resumed := true }])
    else only (s.atCursor k e) (progs [
      dropWalks (k / 168) (e.owns k),
      onCl k fun c => { c with engines := c.engines.map fun g => (g.1, g.2.drop e.uid) },
      onEntry k e.uid fun e => { e with stage := .queued, resumed := true }])

/-- TC_SPLIT_CTRL_WRITE (R124): requests split or whole mode for each array. -/
def splitWriteProg (k v : Nat) : Prog := look fun s =>
  let old := s.reg .tc (k / 168) (k % 168) R.TC_SPLIT_CTRL % 16
  let new := v % 16
  let changed := (List.range 4).filter fun n => bitAt old n ≠ bitAt new n
  progs [
    setReg .tc (k / 168) (k % 168) R.TC_SPLIT_CTRL new,
    onCl k fun c => { c with
      splitReq := new
      splitPending := changed.foldl (fun m n => if bitAt m n then m else m + 2 ^ n) c.splitPending }]

/-- SPLIT_MODE_CHANGE (R124): once every instruction in flight on array `n` has completed, its mode changes. -/
def splitChangeProg (k n : Nat) : Prog := look fun s =>
  let c := s.cl k
  let flying := c.entries.any fun e => (targetArrays e.target).contains n && (e.stage == .running || e.stage == .draining || e.stage == .finished || e.stage == .faulted)
  only (bitAt c.splitPending n && !flying) (onCl k fun c => { c with
    split := setBits c.split n n (b2n (bitAt c.splitReq n))
    splitPending := setBits c.splitPending n n 0 })

/-- Writing 1 to a clear register zeroes its counters (R12). -/
def clearProg (rb : RB) (d i lo hi : Nat) : Prog := clearTallies rb d i (offsets lo hi)

end Sys2Proof.Machine
end

