-- ==== Sys2Proof/Machine/Sf.lean ====
section
/-! DEFINITION. The special-function cores (R170 to R194, R199): one cursor unit of each operation, table loads and slot rewrites. -/

namespace Sys2Proof.Machine

/-- The operation running on special-function core `n`, not stopping for pre-emption. -/
def Cluster.sfOn (c : Cluster) (op n : Nat) : Option Entry :=
  c.entries.find? fun e => e.stage == .running && e.op = op && e.target = 0x18 + n && !c.preempting.contains e.cmd

namespace TCtx

/-- The range of row `r` of the input, columns c to c + n (R279, R584). -/
def sfRange (x : TCtx) (r c n : Nat) : Nat × Nat :=
  if x.op = 0x11 then (shortRow (argQ x.a 0) r (x.softCols * fmtSize x.d.afmt) + c * fmtSize x.d.afmt, n * fmtSize x.d.afmt)
  else if x.wideIn then (shortRow (argQ x.a 0x88) r (2 * x.inCols) + 2 * c, 2 * n)
  else
    let sz := if x.op = 0x10 && x.d.accIn then 8 else fmtSize x.d.afmt
    (x.inRef.base + r * x.inRef.yStride + c * sz, n * sz)

/-- Code or accumulator (r, c) of the input. -/
def sfCode (x : TCtx) (r c : Nat) : Int :=
  let q := x.sfRange r c 1
  if q.2 = 8 then sext 64 (leNat (x.rd q.1 8)) else codeOf (if x.wideIn then 2 else x.d.afmt) (x.rd q.1 q.2)

/-- The scale of a row's codes: the constant of ISCALE, or the row's record (R170, R191). -/
def sfScale (x : TCtx) (r : Nat) : S24 :=
  if x.d.imode = 2 then (match x.rowRec r with | some q => q.scale | none => S24.one) else S24.ofSlot x.scaleEntry

/-- The value of one element of SF_EVAL up to v (R62, R170), or its accumulator for ACC64 output. DESIGN CHOICE (log 38): an input outlier list, which these
operations stage and check, changes no element, since they have no group sums and no side lane (R90). -/
def sfV (x : TCtx) (act : Option SfProg) (r c : Nat) : Int × EpiV :=
  let add := x.addendSum r c
  if x.d.accIn then
    let t := x.sfCode r c + add
    (t, epiV (x.epiIn act r c) t)
  else
    let t := mulS24 (x.sfCode r c - x.zRow r) (x.sfScale r) (-24) + add
    (t, epiFromBias (x.epiIn act r c) t false)

/-- Writes an element whose v is known, in static mode (R62, R88, R94). -/
def putV (x : TCtx) (v : EpiV) (r n : Nat) : List (Nat × List Byte) × EpiOut :=
  let z : Int := if x.wide then 0 else (x.d.zOut : Int)
  let put (c : Int) : Nat × List Byte :=
    if x.wide then (x.wideAddr r n, codeBytes 2 c) else (x.outAddr (fmtSize x.d.ofmt) r n, codeBytes x.d.ofmt c)
  match x.outSlot n with
  | some slot =>
    let e := epiSide v (x.outMult n)
    (put (if x.d.ofmt = 1 then z else 0) :: (x.sideAddr r n slot, codeBytes 2 e.code) :: x.sideZeros r n, e)
  | none =>
    let e := epiCode v (x.outMult n) z x.outFmt false
    (put e.code :: x.sideZeros r n, e)

end TCtx

/-- Writes a list of elements (row, column, total, v) of an SF operation: the static epilogue, ACC64, or one whole row in dynamic mode; then
its counts, and `after`. -/
def sfWrite (k : Nat) (e : Entry) (act : Option SfProg) (els : List (Nat × Nat × Int × EpiV)) (after : Prog) : Prog := look fun s =>
  let x := s.ctx k e
  let cnt := sfTallies k (els.foldl (fun c q => c.add q.2.2.2.cnt) SfCount.zero)
  if x.d.ofmt = 3 then
    let ws := els.map fun q => (x.outAddr 8 q.1 q.2.1, leBytes 8 (wrapN 64 q.2.2.1))
    unitAccess k e.uid e.atStart [] (writeRanges ws) (progs [cmdWrites k e.cmd ws, after])
  else if x.d.omode = 2 then
    let r := match els with | q :: _ => q.1 | [] => 0
    let o := x.writeDynRow r (match act with | some _ => 15 | none => 24) (els.map fun q => (q.2.1, q.2.2.2.v, q.2.2.2.sat))
    let ws := o.1 ++ [(argVa e.args 0x98 + 8 * r, o.2.1.bytes)]
    unitAccess k e.uid e.atStart [] (writeRanges ws) (progs [
      cmdWrites k e.cmd ws, cnt, countElems k e.uid o.2.2.1 o.2.2.2, tcTally k R.TC_DEGEN_ROWS (b2n o.2.1.degenerate), after])
  else
    let outs := els.map fun q => x.putV q.2.2.2 q.1 q.2.1
    let ws := outs.flatMap (·.1)
    unitAccess k e.uid e.atStart [] (writeRanges ws) (progs [
      cmdWrites k e.cmd ws, cnt,
      countElems k e.uid (outs.filter (fun o => o.2.sat)).length (outs.filter (fun o => o.2.uf)).length, after])

/-- A unit is done: the cursor moves on, and after the last unit the run has ended. -/
def unitDone (k : Nat) (e : Entry) (total : Nat) : Prog := progs [
  busyNow k (gateBits e.target),
  onRun k e.uid fun r => { r with units := r.units + 1 },
  only (total ≤ e.run.units + 1) (runEnded k e.uid)]

/-- SF_EVAL (R170): the next 128 elements, or the next row in dynamic mode. `parity` says that a table word fails its parity check. -/
def sfEvalProg (k n : Nat) (parity : Bool) : Prog := look fun s =>
  match (s.cl k).sfOn 0x10 n with
  | none => .skip
  | some e =>
    if parity && !e.captured.isEmpty then tableParity k e.uid
    else
      let x := s.ctx k e
      let u := e.run.units
      let dyn := x.d.omode = 2
      let els : List (Nat × Nat) := if dyn then (List.range x.cols).map fun c => (u, c)
        else (List.range (min 128 (x.d.m24 * x.cols - 128 * u))).map fun i => ((128 * u + i) / x.cols, (128 * u + i) % x.cols)
      let total := if dyn then x.d.m24 else ceilDiv (x.d.m24 * x.cols) 128
      let rows := (els.map (·.1)).eraseDups
      let c0 := if rows.length = 1 then (match els with | q :: _ => q.2 | [] => 0) else 0
      let cn := if rows.length = 1 then els.length else x.cols
      let recs := if x.d.imode = 2 then rows.map fun r => (bits x.scaleEntry 47 0 + 8 * r, 8) else []
      if !x.outListOk c0 cn then listCondition k e.uid e.atStart
      else unitAccess k e.uid e.atStart (rows.map (fun r => x.sfRange r c0 cn) ++ recs ++ x.epeReads rows c0 cn ++ x.inListReads c0 cn) [] (look fun s =>
        let x := s.ctx k e
        if !x.inListOk c0 cn then listCondition k e.uid e.atStart
        else
        let act := s.actProg k e
        sfWrite k e act (els.map fun q => let v := x.sfV act q.1 q.2; (q.1, q.2, v.1, v.2)) (unitDone k e total))

/-- NORM_STATS (R187): the statistics record of the next row. -/
def normStatsProg (k n : Nat) : Prog := look fun s =>
  match (s.cl k).sfOn 0x11 n with
  | none => .skip
  | some e =>
    let x := s.ctx k e
    let r := e.run.units
    unitAccess k e.uid e.atStart [x.sfRange r 0 x.softCols] [(argVa e.args 8 + 32 * r, 32)] (look fun s =>
      let x := s.ctx k e
      let z : Int := if x.d.afmt = 1 then (bits (argQ e.args 0x10) 7 0 : Int) else 0
      let d := (List.range x.softCols).map fun c => x.sfCode r c - z
      .seq (cmdWrites k e.cmd [(argVa e.args 8 + 32 * r, normRecBytes (normStats d))]) (unitDone k e x.d.m24))

/-- NORM_APPLY (R188, R189): the next row normalised and requantised. -/
def normApplyProg (k n : Nat) (parity : Bool) : Prog := look fun s =>
  match (s.cl k).sfOn 0x12 n with
  | none => .skip
  | some e =>
    if parity && !e.captured.isEmpty then tableParity k e.uid
    else
      let x := s.ctx k e
      let r := e.run.units
      let a := e.args
      let nrec := bits x.d.w2 44 40
      let rms := bitAt x.d.w2 45
      let gam := bitAt x.d.w2 46
      let bet := bitAt x.d.w2 47
      let recs := argVa a 0x100 + r * nrec * 32
      let g0 := argVa a 0x108 + 4 * leAt a 0x120 4
      let b0 := argVa a 0x110 + 4 * leAt a 0x120 4
      let opt (c : Bool) (q : Nat × Nat) : List (Nat × Nat) := if c then [q] else []
      if !x.outListOk 0 x.cols then listCondition k e.uid e.atStart
      else unitAccess k e.uid e.atStart ([x.sfRange r 0 x.cols, (recs, nrec * 32)] ++ opt gam (g0, 4 * x.cols) ++ opt bet (b0, 4 * x.cols)
          ++ opt (x.d.imode = 2) (bits x.scaleEntry 47 0 + 8 * r, 8) ++ x.epeReads [r] 0 x.cols ++ x.inListReads 0 x.cols) [] (look fun s =>
        let x := s.ctx k e
        let act := s.actProg k e
        let sum := normSum ((List.range nrec).map fun j => normRecOf (x.rd (recs + 32 * j) 32))
        if !x.inListOk 0 x.cols then listCondition k e.uid e.atStart
        else if sum.n ≠ leAt a 0x11C 4 then dataConditionAt k e.uid 4 24 e.atStart none
        else
          let d := (List.range x.cols).map fun c => x.sfCode r c - x.zRow r
          let zh := normZh sum rms (leAt a 0x118 4) d
          let els := (enumFrom 0 zh.1).map fun q =>
            let v := if gam then rndAway (q.2 * sext 32 (leNat (x.rd (g0 + 4 * q.1) 4))) 7 else shlInt q.2 9
            let vb := if bet then clamp64 (v + shlInt (sext 32 (leNat (x.rd (b0 + 4 * q.1) 4))) (24 - x.d.bshift)) else (v, false)
            (r, q.1, vb.1, epiFromBias ⟨none, none, 0, match act with | some p => some (p, x.d.actF) | none => none⟩ vb.1 vb.2)
          sfWrite k e act els (progs [
            only zh.2 (progs [tally .sf (k / 168) (k % 168) R.SF_NORM_DEGENERATE 1, onRun k e.uid fun q => { q with aux0 := 1 }]),
            unitDone k e x.d.m24]))

/-- SOFTMAX (R191, R192): the next row. -/
def softmaxProg (k n : Nat) : Prog := look fun s =>
  match (s.cl k).sfOn 0x13 n with
  | none => .skip
  | some e =>
    let x := s.ctx k e
    let r := e.run.units
    let a := e.args
    let cols := x.softCols
    let osz := fmtSize x.d.ofmt
    let out := x.outRef.base + r * x.outRef.yStride
    unitAccess k e.uid e.atStart ([x.sfRange r 0 cols] ++ (if x.d.imode = 2 then [(bits x.scaleEntry 47 0 + 8 * r, 8)] else []))
        [(out, cols * osz), (argVa a 0x98 + 8 * r, 8)] (look fun s =>
      let x := s.ctx k e
      let mask := bitAt x.d.w2 41
      let min_ : Int := if x.inFmt = 2 then -32768 else -128
      let q : Int := fmtQ x.d.ofmt
      let d := (List.range cols).map fun c => let v := x.sfCode r c; (v - x.zRow r, !(mask && v = min_))
      let o := softmaxRow exp2nProg (x.sfScale r) (S24.ofSlot (argQ a 0x100)) q d
      let record : RowRec := ⟨s24FromRatio 1 q.toNat, 0, false⟩
      progs [
        cmdWrites k e.cmd [(out, o.1.flatMap (codeBytes x.d.ofmt)), (argVa a 0x98 + 8 * r, record.bytes)],
        sfTallies k o.2.1,
        tally .sf (k / 168) (k % 168) R.SF_ALLMASKED (b2n o.2.2),
        onRun k e.uid fun y => { y with aux0 := y.aux0 + b2n o.2.2, aux1 := y.aux1 + o.2.1.flush },
        unitDone k e x.d.m24])

/-- TB_BUILD (R193): the frequencies of the next class. -/
def tbBuildProg (k n : Nat) (parity : Bool) : Prog := look fun s =>
  match (s.cl k).sfOn 0x14 n with
  | none => .skip
  | some e =>
    if parity then tableParity k e.uid
    else
      let x := s.ctx k e
      let c := e.run.units
      let a := bits x.d.w2 11 0
      let out := argVa e.args 8 + c * roundUp (2 * (a + 1)) 64
      unitAccess k e.uid e.atStart [(argVa e.args 0 + 8 * c, 8)] [(out, 2 * (a + 1))] (look fun s =>
        let x := s.ctx k e
        match s.actProg k e with
        | none => .skip
        | some f =>
          let r := tbClass f (S24.ofSlot (leNat (x.rd (argVa e.args 0 + 8 * c) 4))) a (bits x.d.w2 23 12)
          progs [
            cmdWrites k e.cmd [(out, r.1.flatMap fun v => leBytes 2 v.toNat)],
            sfTallies k r.2.1,
            tally .sf (k / 168) (k % 168) R.SF_TB_NEGMASS r.2.2,
            unitDone k e 64])

/-- TB_INDEX (R194): the classes of the next 128 elements. -/
def tbIndexProg (k n : Nat) : Prog := look fun s =>
  match (s.cl k).sfOn 0x15 n with
  | none => .skip
  | some e =>
    let x := s.ctx k e
    let u := e.run.units
    let sz := fmtSize x.d.afmt
    let m := min 128 (x.d.count32 - 128 * u)
    let src := argVa e.args 0 + 128 * u * sz
    let out := argVa e.args 8 + 128 * u
    let bv := argVa e.args 0x10
    unitAccess k e.uid e.atStart [(src, m * sz), (bv, 126)] [(out, m)] (look fun s =>
      let x := s.ctx k e
      let bnd := (List.range 63).map fun j => sext 16 (leNat (x.rd (bv + 2 * j) 2))
      if !tbSorted bnd then dataConditionAt k e.uid 4 24 e.atStart none
      else
        let outs := (List.range m).map fun i => BitVec.ofNat 8 (tbIndex bnd (codeOf x.d.afmt (x.rd (src + i * sz) sz)))
        .seq (cmdWrites k e.cmd [(out, outs)]) (unitDone k e (ceilDiv x.d.count32 128)))

/-! ### Loads (R184, R185, R199, R216, R217) -/

def Cluster.sfSlot (c : Cluster) (n : Nat) : SfSlot := sget SfSlot.atWake c.sf n
def Cluster.ctSlot (c : Cluster) (n : Nat) : CtSlot := sget (fun _ => CtSlot.atWake) c.ct n
def onSfSlot (k n : Nat) (f : SfSlot → SfSlot) : Prog := onCl k fun c => { c with sf := sset SfSlot.atWake c.sf n (f (c.sfSlot n)) }
def onCtSlot (k n : Nat) (f : CtSlot → CtSlot) : Prog :=
  onCl k fun c => { c with ct := sset (fun _ => CtSlot.atWake) c.ct n (f (c.ctSlot n)) }

/-- The user count of the inactive bank. -/
def SfSlot.idleUsers (x : SfSlot) : Nat := if x.epoch % 2 = 0 then x.users1 else x.users0
def CtSlot.idleUsers (x : CtSlot) : Nat := if x.epoch % 2 = 0 then x.users1 else x.users0

/-- The load of an operation running on a target. -/
def Cluster.loadOn (c : Cluster) (op t : Nat) : Option Entry :=
  c.entries.find? fun e => e.stage == .running && e.op = op && e.target = t

/-- TLOAD (R184, step 1): it waits while the inactive bank has users, tallied; otherwise it starts writing the bank. -/
def tloadProg (k n : Nat) : Prog := look fun s =>
  match (s.cl k).loadOn 0x16 (0x18 + n) with
  | none => .skip
  | some e =>
    let slot := bits e.d.w2 3 0
    if ((s.cl k).sfSlot slot).idleUsers ≠ 0 then progs [
      onSfSlot k slot fun x => { x with waiting := true },
      waitTally k e.target 3, onEntry k e.uid fun e => { e with waits := bumpWait e.waits 3 },
      tally .sf (k / 168) (k % 168) R.SF_LOAD_WAIT 1]
    else onSfSlot k slot fun x => { x with waiting := false, loading := true }

/-- TLOAD_FLIP (R181, R184, R199): the users of the inactive bank have drained: the image is validated, compared with the ROM if it
bears a published identifier, written, and the slot's epoch advances. A refused image writes nothing: the banks stay as valid as they were. -/
def tloadFlipProg (k n : Nat) : Prog := look fun s =>
  match (s.cl k).loadOn 0x16 (0x18 + n) with
  | none => .skip
  | some e =>
    let slot := bits e.d.w2 3 0
    let src := argVa e.args 0
    if ((s.cl k).sfSlot slot).idleUsers ≠ 0 then .skip
    else
      let x := s.ctx k e
      let len := sfExtent (leNat (x.rd (src + 8) 2)) (leNat (x.rd (src + 5) 1))
      unitAccess k e.uid e.atStart [(src, len)] [] (look fun s =>
        let x := s.ctx k e
        let b := x.rd src len
        let p := sfParse b
        let idle : SfSlot → SfSlot := fun x => { x with waiting := false, loading := false }
        if !sfHeaderOk b || !sfStepsOk p.steps || (p.progId < 0x100 && (romProg p.progId).isNone) then
          progs [onSfSlot k slot idle, onEntry k e.uid fun e => { e with stage := .finished }, dataConditionAt k e.uid 4 15 e.atStart none]
        else if p.progId < 0x100 && romProg p.progId ≠ some p then
          progs [onSfSlot k slot idle, faultRecord k e 0x42 0 e.atStart 0 none false, onEntry k e.uid fun e => { e with stage := .finished }, endEntry k e.uid 0x42 0 0 false]
        else progs [
          onSfSlot k slot fun x =>
            let y := if x.epoch % 2 = 0 then { x with bank1 := p, valid1 := true } else { x with bank0 := p, valid0 := true }
            { y with epoch := (x.epoch + 1) % 65536, waiting := false, loading := false, source := src },
          busyNow k (gateBits e.target),
          onRun k e.uid fun r => { r with units := 1 },
          endEntry k e.uid 0 0 0 false])

/-- CT_LOAD (R216, step 1 of R184). -/
def ctLoadProg (k n : Nat) : Prog := look fun s =>
  match (s.cl k).loadOn 0x20 (0x20 + n) with
  | none => .skip
  | some e =>
    let slot := bits e.d.w2 1 0
    if ((s.cl k).ctSlot slot).idleUsers ≠ 0 then progs [
      onCtSlot k slot fun x => { x with waiting := true },
      waitTally k e.target 3, onEntry k e.uid fun e => { e with waits := bumpWait e.waits 3 },
      tally .cc (k / 168) (k % 168) R.CC_LOAD_WAIT 1]
    else onCtSlot k slot fun x => { x with waiting := false, loading := true }

/-- The table set that a CT_LOAD reads (R215, R216): its frequencies class by class, and its identity. -/
def ctBankOf (e : Entry) (b : List Byte) : CtBank :=
  let w := e.d.w2
  let k := bits w 8 2
  let a := bits w 20 9
  let row := roundUp (2 * (a + 1)) 64
  ⟨true, k, a, bits w 32 21, bits w 40 33, bits (argQ e.args 8) 31 0, argQ e.args 0x10,
    (List.range k).flatMap fun c => (List.range (a + 1)).map fun i => leAt b (c * row + 2 * i) 2⟩

/-- Every class of a table set sums to 65,536 with no frequency 0 (R216). -/
def ctBankOk (t : CtBank) : Bool := (List.range t.k).all fun c => ctClassOk ((t.freq.drop (c * (t.a + 1))).take (t.a + 1))

/-- CT_LOAD_FLIP (R216): the frequencies are validated, written, and the slot's epoch advances. -/
def ctLoadFlipProg (k n : Nat) : Prog := look fun s =>
  match (s.cl k).loadOn 0x20 (0x20 + n) with
  | none => .skip
  | some e =>
    let slot := bits e.d.w2 1 0
    let src := argVa e.args 0
    let len := bits e.d.w2 8 2 * roundUp (2 * (bits e.d.w2 20 9 + 1)) 64
    if ((s.cl k).ctSlot slot).idleUsers ≠ 0 then .skip
    else unitAccess k e.uid e.atStart [(src, len)] [] (look fun s =>
      let t := ctBankOf e ((s.ctx k e).rd src len)
      if !ctBankOk t then
        progs [onCtSlot k slot fun x => { x with waiting := false, loading := false }, onEntry k e.uid fun e => { e with stage := .finished }, dataConditionAt k e.uid 4 26 e.atStart none]
      else progs [
        onCtSlot k slot fun x =>
          let y := if x.epoch % 2 = 0 then { x with bank1 := t } else { x with bank0 := t }
          { y with epoch := (x.epoch + 1) % 65536, waiting := false, loading := false, source := src },
        busyNow k (gateBits e.target),
        onRun k e.uid fun r => { r with units := 1 },
        endEntry k e.uid 0 0 0 false])

/-- SLOT_PARITY_REWRITE (R185, R217): firmware rewrites the bank of a slot marked BAD, from ROM for function slots 0 and 1, otherwise from
the source of its last load; SLOT_BAD clears. -/
def slotRewriteProg (k : Nat) (rans : Bool) (slot : Nat) : Prog := look fun s =>
  let c := s.cl k
  let d := k / 168
  let p := k % 168
  if rans then
    let x := c.ctSlot slot
    let old := if x.epoch % 2 = 0 then x.bank0 else x.bank1
    let row := roundUp (2 * (old.a + 1)) 64
    let b := s.vaBytes d p x.source (old.k * row)
    let held := s.meets d p [⟨x.source, old.k * row, 0⟩] == .ok && old.valid
    let fr := (List.range old.k).flatMap fun i => (List.range (old.a + 1)).map fun j => leAt b (i * row + 2 * j) 2
    let new : CtBank := if held then { old with freq := fr } else old
    only x.bad (onCtSlot k slot fun y =>
      if y.epoch % 2 = 0 then { y with bad := false, bank0 := new } else { y with bad := false, bank1 := new })
  else
    let x := c.sfSlot slot
    let old := if x.epoch % 2 = 0 then x.bank0 else x.bank1
    let len := sfExtent old.nseg old.deg
    let held := s.meets d p [⟨x.source, len, 0⟩] == .ok && x.source ≠ 0
    let new := if slot = 0 then tanhProg else if slot = 1 then logisticProg else if held then sfParse (s.vaBytes d p x.source len) else old
    only x.bad (onSfSlot k slot fun y =>
      if y.epoch % 2 = 0 then { y with bad := false, bank0 := new } else { y with bad := false, bank1 := new })

end Sys2Proof.Machine
end

