-- ==== Sys2Proof/Machine/Recovery.lean ====
section
/-! DEFINITION. The recovery machinery: the hang watchdog (R543), replay (R544 to R547, R549), the sparing of clusters (R548, R550), fatal errors and the crash dump (R556 to R559), the export of tallies (R561). -/

namespace Sys2Proof.Machine

/-! ### The hang watchdog (R543) -/

/-- HANG_WATCHDOG_EXPIRY: the instruction or barge of a tag has issued and made no progress for WATCHDOG_MS. -/
def hangWatchdogExpiryProg (k tag : Nat) : Prog := look fun s =>
  let c := s.cl k
  let wait := Prog.upd (.time (s.fld .rcv 20 0 R.RCV_CFG 31 24 * 1000000))
  only (s.clusterOn (k / 168) (k % 168)) (
    match c.entries.find? (fun e => e.tag == tag && e.issued && (e.stage == .running || e.stage == .draining) && !c.preempting.contains e.cmd) with
    | some e => progs [wait, whenFirst k e.uid fun e => progs [faultRecord k e 0x7F 0 e.atStart 0 none true, failEntry k e.uid 0x7F 0 0 0]]
    | none => match c.barges.find? (fun b => b.tag == tag && (b.st == .active || b.st == .draining) && !b.preempt) with
      | some b => progs [wait, bargeFault k b 0x7F 0 0 false, failBarge k b.uid 0x7F 0]
      | none => .skip)

/-! ### Replay (R545, R546) -/

/-- The rewind of one lock (R546): the blocks that a command took as consumer are offered again; of those it took as producer, the ones that a
consumer outside it has taken stay, to be given again; every other is freed. -/
def rewindLock (l : LockId) (key : Nat) : Prog := look fun s =>
  let f (b : LockBlk) : Option LockBlk :=
    let mine := (b.holders.filter fun h => h.2 == key).map (·.1)
    let mask := mine.foldl (fun m i => m ||| 2 ^ i) 0
    let b' := { b with
      taken := b.taken &&& (0xFF - mask % 256)
      released := b.released &&& (0xFF - mask % 256)
      holders := b.holders.filter fun h => h.2 != key }
    if b.producer != key then some b'
    else if b.filled && b'.taken ≠ 0 then some { b' with again := key + 1, keep := nadd b'.keep key }
    else none
  only ((s.lock l).blks.any fun b => b.producer == key || b.holders.any fun h => h.2 == key) (progs [
    onLock l fun x => { x with blks := x.blks.filterMap f }, freeDone l])

/-- R545, steps 1 to 4: every unit of a command stops at once, its tags are cancelled, its flocks killed, its lock traffic is rewound. -/
def stopCommand (key : Nat) : Prog := progs [
  killFlocks key,
  unsave key,
  look fun s => forAll (s.clustersOf (cmdDie key)) fun k => look fun s => progs [
    forAll ((s.cl k).entries.filter fun e => e.cmd == key) fun e => cancelEntry k e.uid 0x30,
    forAll ((s.cl k).barges.filter fun b => b.cmd == key) fun b => progs [
      onBarge k b.uid fun b => { b with out := [] }, finishBarge k b.uid 0x30],
    onCl k fun c => { c with preempting := ndel c.preempting key }],
  freeTags key,
  look fun s => forAll (s.liveLocks) fun l => rewindLock l key,
  look fun s => .upd (.rfaults (s.rfaults.filter fun f => !(f.key == key))),
  onCmd key fun c => { c with
    saved := []
    preemptReq := if c.st == .preempting || (c.st == .parked && c.parkBy == .request && !c.resumeReq) then c.parkBy else c.preemptReq
    parkBy := .none
    resumeReq := false }]

/-- R545, step 5: the command starts again from its entry. -/
def startAgain (key : Nat) : Prog := progs [
  onCmd key fun c => { c with
    st := if c.slots then .waking else .armed
    replays := c.replays + 1
    replayed := true
    captures := []
    spareOf := 0 },
  tally .rcv 20 0 R.RCV_REPLAYS 1,
  look fun s => match s.cmdOf key with
    | some c => progs [only c.slots (wakeClusters c), only (c.cancelReq) (cancelCmd key)]
    | none => .skip]

/-- A log entry about a recovery. -/
def recoveryLog (cls : Nat) (c : Command) (f : RFault) : Prog := look fun s =>
  logE { s.clusterEntry cls 0x0B f.status 0 (f.unit / 168) (f.unit % 168) 0 c.ctag c.queue f.data with index := c.replays % 256 }

/-- A recovery that fails (R547): the command ends with the failure's status and KILLED. -/
def failRecovery (c : Command) (f : RFault) (status : Nat) : Prog := progs [
  tally .rcv 20 0 R.RCV_FAILED 1,
  recoveryLog 3 c f,
  killCommand c.key status,
  look fun s => .upd (.rfaults (s.rfaults.filter fun x => !(x.key == c.key)))]

/-- COMMAND_RECOVERY (R544 to R549): the failure that has waited longest is decided. -/
def commandRecoveryProg : Prog := look fun s =>
  match s.rfaults with
  | [] => .skip
  | f :: rest =>
    match s.cmdOf f.key with
    | none => .upd (.rfaults rest)
    | some c =>
      let row := s.stackNo f.data * 2 ^ 32 + rowOfLocal (stackOf (s.spanMode f.data) f.data).2
      let isRow := f.data ≠ 0 && f.data < stackEnd
      let unit := if isRow then 2 ^ 40 + row else f.unit
      let replay (st : Nat) : Prog := progs [
        recoveryLog 2 c f,
        onCmd c.key fun x => { x with status := statusJoin x.status st, fails := nadd x.fails unit },
        stopCommand c.key,
        startAgain c.key]
      if c.st == .complete || c.failed then .upd (.rfaults rest)
      else if c.stage then failRecovery c f f.status
      else if !f.written then failRecovery c f 0x20
      else if s.fld .rcv 20 0 R.RCV_CFG 3 0 ≤ c.replays then failRecovery c f f.status
      else if !c.fails.contains unit then replay 0x03
      else if isRow then
        (if s.canSpare (row / 2 ^ 32) (row % 2 ^ 32) then progs [spareRow (row / 2 ^ 32) (row % 2 ^ 32), replay 0x21]
         else progs [spareOut (row / 2 ^ 32) (row % 2 ^ 32), failRecovery c f f.status])
      else if (s.firstSpare (f.unit / 168)).isNone then failRecovery c f f.status
      else progs [
        recoveryLog 2 c f,
        onCmd c.key fun x => { x with status := statusJoin x.status 0x21 },
        stopCommand c.key,
        onCmd c.key fun x => { x with st := .recover, spareOf := s.logicalOf (f.unit / 168) (f.unit % 168) + 1 }]

/-! ### Sparing a cluster (R548, R550) -/

/-- The commands that wait for the spare of a logical cluster. -/
def Dev.spareWaiters (s : Dev) (d l : Nat) : List Command := (s.drv d).cmds.filter fun c => c.st == .recover && c.spareOf == l + 1 && !c.failed

/-- Bytes that firmware reads at a virtual address, by walking the page table. -/
def Dev.fwBytes (s : Dev) (va n : Nat) : Option (List Byte) :=
  (pagePieces va n).foldl (fun r q => match r, s.walk q.1 accRead with
    | some l, .leaf e => if s.reachRange (e.target q.1) q.2 == .ok then some (l ++ s.bytesAt (e.target q.1) q.2) else none
    | _, _ => none) (some [])

/-- A function slot and a rANS slot as they are reloaded from their last image or source (R185, R217, R548). -/
def Dev.reloadSf (s : Dev) (x : SfSlot) : SfSlot :=
  let old := if x.epoch % 2 = 0 then x.bank0 else x.bank1
  let new := if x.source = 0 then old else match s.fwBytes x.source (sfExtent old.nseg old.deg) with
    | some b => sfParse b
    | none => old
  let y := { x with waiting := false, loading := false, bad := false, users0 := 0, users1 := 0 }
  if x.epoch % 2 = 0 then { y with bank0 := new } else { y with bank1 := new }
def Dev.reloadCt (s : Dev) (x : CtSlot) : CtSlot :=
  let old := if x.epoch % 2 = 0 then x.bank0 else x.bank1
  let row := roundUp (2 * (old.a + 1)) 64
  let new := if !old.valid then old else match s.fwBytes x.source (old.k * row) with
    | some b => { old with freq := (List.range old.k).flatMap fun i => (List.range (old.a + 1)).map fun j => leAt b (i * row + 2 * j) 2 }
    | none => old
  let y := { x with waiting := false, loading := false, bad := false, users0 := 0, users1 := 0 }
  if x.epoch % 2 = 0 then { y with bank0 := new } else { y with bank1 := new }

/-- Steps 1 to 3 of R548: the other commands on the cluster stop, it is fenced, its number passes to the spare, which is woken. -/
def spareStart (d l q : Nat) : Prog := look fun s =>
  let old := s.physOf d l
  let c := s.cl (ck d old)
  let b := clRegBase d old
  let others := (s.drv d).cmds.filter fun x => x.isRun && x.has l && !x.failed
    && (x.st == .running || x.st == .preempting || x.st == .parked)
  let cfg := (s.regs.filter fun r => decide (b + 0x6000 ≤ r.1) && decide (r.1 < b + 0x7000)).map fun r => (r.1 - b, r.2.toNat)
  progs [
    forAll others fun x =>
      if s.replayable x.key && !x.stage then progs [stopCommand x.key, onCmd x.key fun y => { y with st := .recover, spareOf := l + 1 }]
      else killCommand x.key 0x20,
    fence d old,
    remap d l q,
    tally .rcv 20 0 R.RCV_SPARED 1,
    logE { s.clusterEntry 2 0x0B 0x21 0 d old q 0xFFFF 0xFFFF 0 with lcl := l, index := q },
    onDrv d fun v => { v with jobs := v.jobs ++ [⟨l, old, q, cfg, c.sf, c.ct, false, [], 0, 0⟩] },
    onDom (clDom (ck d old)) fun m => { m with req := 0 },
    settle (clDom (ck d old)),
    wakeDom (clDom (ck d q))]

def onJobOf (d l : Nat) (f : SpareJob → SpareJob) : Prog := onDrv d fun v => { v with jobs := v.jobs.map fun j => if j.logical == l then f j else j }

/-- Step 5 of R548 for one 64 KiB of the store: the leaf that maps it is rewritten to the spare's window. -/
def moveLeaf (d old new va : Nat) : Prog := look fun s =>
  let root := s.fld .dmmu 20 0 R.DMMU_ROOT_LO 31 12 * 4096 + s.fld .dmmu 20 0 R.DMMU_ROOT_HI 13 0 * 2 ^ 32
  match (s.walkReads va 4 0 root).getLast? with
  | none => .skip
  | some ea =>
    let e := s.natAt ea 8
    let dpa := bits e 45 8 * 256
    only (s.reachAt ea == .ok && e % 4 = 3 && storeAddr d old ≤ dpa && dpa < storeAddr d old + 0x1000000)
      (memWrite ea (leBytes 8 (setBits e 45 8 ((dpa - storeAddr d old + storeAddr d new) / 256))) false)

/-- Steps 4 and 5 of R548. -/
def spareCopy (d : Nat) (j : SpareJob) : Prog := look fun s =>
  let k := ck d j.new
  let b := clRegBase d j.new
  let map := s.fld .rcv 20 0 R.RCV_STORE_MAP_LO 31 12 * 4096 + s.fld .rcv 20 0 R.RCV_STORE_MAP_HI 13 0 * 2 ^ 32
  let va := if map = 0 then 0 else s.natAt (map + 8 * (160 * d + j.logical)) 8
  let stage := s.fld .rcv 20 0 R.RCV_STAGE_LO 31 12 * 4096 + s.fld .rcv 20 0 R.RCV_STAGE_HI 13 0 * 2 ^ 32
  let named := if stage = 0 then [] else (List.range 256).filter fun q => bitAt (s.natAt (stage + 64 * (256 * d + q) + 32) 20) j.logical
  progs [
    forAll j.regs fun r => .upd (.reg (b + r.1) r.2),
    onCl k fun c => { c with
      sf := j.sf.foldl (fun t x => sset SfSlot.atWake t x.1 (s.reloadSf x.2)) c.sf
      ct := j.ct.foldl (fun t x => sset (fun _ => CtSlot.atWake) t x.1 (s.reloadCt x.2)) c.ct },
    only (va ≠ 0) (progs [
      forAll (List.range 128) fun i => moveLeaf d j.old j.new (va + i * 65536),
      look fun s => progs [
        forAll s.clusters fun c => onCl c.1 fun c => { c with tlb := c.tlb.filter fun e => !e.overlaps va 0x800000 },
        forAll s.dies fun m => onDie m.1 fun m => { m with
          tlb := m.tlb.filter fun e => !e.overlaps va 0x800000
          walks := m.walks.map fun w => { w with stale := true } }]]),
    onJobOf d j.logical fun j => { j with copied := true, left := named.map fun q => 256 * d + q }]

/-- Step 6 of R548: the next stage entry is dispatched as a command of its queue, under a fresh tag, if one is free. -/
def stageStart (d : Nat) (j : SpareJob) (q : Nat) : Prog := look fun s =>
  let stage := s.fld .rcv 20 0 R.RCV_STAGE_LO 31 12 * 4096 + s.fld .rcv 20 0 R.RCV_STAGE_HI 13 0 * 2 ^ 32
  let body := s.bytesAt (stage + 64 * q) 64
  let free := s.freeCtags d
  let key := (q + 1) * 2 ^ 32 + 2 ^ 31 + (s.drv d).order % 2 ^ 31
  let c := Command.fetched key q 0 body true
  only (!free.isEmpty) (withFree fun v => progs [
    memTouch (stage + 64 * q) 64,
    onDrv d fun x => { x with
      cmds := x.cmds ++ [{ c with st := .armed, ctag := free.getD (v % free.length) 0xFFFF, order := x.order }]
      order := x.order + 1 },
    onJobOf d j.logical fun j => { j with left := j.left.drop 1, cur := key },
    only (s.readBad (stage + 64 * q) 64 || s.cmdRefused { c with body := patchBytes body 1 [(body.getD 1 0) &&& 0xFE] }) (progs [
      onCmd key fun x => { x with status := 0x71, failed := true }, completeCmd key])])

/-- CLUSTER_SPARE (R548): the next step of the sparing of a logical cluster for which commands wait. -/
def clusterSpareProg (d l : Nat) : Prog := look fun s =>
  let w := s.spareWaiters d l
  match (s.drv d).jobs.find? (fun j => j.logical == l) with
  | none => only (!w.isEmpty) (match s.firstSpare d with
      | some q => spareStart d l q
      | none => forAll w fun c => progs [tally .rcv 20 0 R.RCV_FAILED 1, killCommand c.key 0x20])
  | some j =>
    if !j.copied then only (s.clusterOn d j.new) (spareCopy d j)
    else if j.cur ≠ 0 then .skip
    else if j.failed ≠ 0 then progs [
      forAll w fun c => progs [tally .rcv 20 0 R.RCV_FAILED 1, killCommand c.key j.failed],
      onDrv d fun v => { v with jobs := v.jobs.filter fun x => x.logical != l }]
    else match j.left with
      | q :: _ => stageStart d j q
      | [] => progs [
          forAll w fun c => startAgain c.key,
          onDrv d fun v => { v with jobs := v.jobs.filter fun x => x.logical != l }]

/-! ### Fatal errors and the crash dump (R556 to R558) -/

/-- Every drover stops and every unit halts without saving context. -/
def haltUnits : Prog := look fun s => progs [
  forAll s.drovers fun v => .upd (.drover v.1 Drover.reset),
  forAll s.clusters fun c => .upd (.cl c.1 { Cluster.reset with wakeAt := c.2.wakeAt, gated := c.2.gated }),
  forAll s.pipes fun p => .upd (.pipe p.1 Pipe.reset),
  forAll s.sluices fun p => .upd (.sluice p.1 Sluice.reset)]

/-- Writes bytes of the dump from an offset that is a multiple of 4 KiB. -/
def dumpWrite (o : Nat) (b : List Byte) : Prog := forAll (List.range (ceilDiv b.length 4096)) fun i => .upd (.mem (dumpAddr (o + 4096 * i)) ((b.drop (4096 * i)).take 4096))
/-- Pages of the dump whose contents the spec does not give. -/
def dumpOpen (o pages : Nat) : Prog := forAll (List.range pages) fun i => .upd (.undef (dumpAddr (o + 4096 * i)) 4096)

/-- The running flocks of the device. -/
def Dev.liveFlocks (s : Dev) : List Flock :=
  s.clusters.flatMap fun c => c.2.cores.flatMap fun x => [x.2.f0, x.2.f1].filter fun f => f.st != .idle

/-- The header of a dump (R557), from its directory: kind, first page and bytes of each section. -/
def dumpHeader (s : Dev) (cause flags time : Nat) (dir : List (Nat × Nat × Nat)) : List Byte :=
  let body := leBytes 4 0x4D444348 ++ leBytes 1 1 ++ leBytes 1 cause ++ leBytes 1 dir.length ++ leBytes 1 flags ++ leBytes 8 time
    ++ leBytes 4 (s.cnt 0) ++ leBytes 4 (s.reg .aoc 20 0 R.AOC_PART_ID) ++ beBytes 48 Config.deviceId.toNat
    ++ leBytes 8 (match dir.getLast? with | some x => x.2.1 * 4096 + x.2.2 | none => 4096) ++ leBytes 4 0 ++ List.replicate 12 0
    ++ dir.flatMap fun x => leBytes 4 x.1 ++ leBytes 4 x.2.1 ++ leBytes 8 x.2.2
  let page := (body ++ List.replicate (4096 - body.length) 0).take 4096
  patchBytes page 80 (leBytes 4 (crc32 page))

/-- The dump (R556, R557): EVENT_LOG and FLOCKS as the device stands; the other sections are the firmware's. -/
def writeDump (cause : Nat) (log flocks : List Byte) (reclaimed : Bool) (time : Nat) : Prog :=
  withFree fun a => withFree fun b => withFree fun c => withFree fun e => look fun s =>
    let pg (n : Nat) : Nat := ceilDiv n 4096
    let fl := (flocks.take (20864 * 150000))
    let sizes := [(1, log.length), (2, a % 2 ^ 24), (3, b % 2 ^ 24), (4, c % 2 ^ 24), (5, fl.length), (6, e % 2 ^ 24)] ++ (if reclaimed then [(7, 2 ^ 28)] else [])
    let dir := (sizes.foldl (fun (x : List (Nat × Nat × Nat) × Nat) z => (x.1 ++ [(z.1, x.2, z.2)], x.2 + pg z.2)) ([], 1)).1
    let flags := 1 + 2 * b2n reclaimed + 4 * b2n (decide (fl.length < flocks.length))
    progs [
      forAll dir fun x =>
        if x.1 = 1 then dumpWrite (x.2.1 * 4096) log
        else if x.1 = 5 then dumpWrite (x.2.1 * 4096) fl
        else dumpOpen (x.2.1 * 4096) (pg x.2.2),
      dumpWrite 0 (dumpHeader s cause flags time dir),
      setReg .rcv 20 0 R.DUMP_STATUS (2 ^ 31 + (flags / 2 % 2 * 2 + flags / 4) * 256 + cause)]

/-- FATAL_ERROR (R558): `survives` says that a shepherd core survives. -/
def fatalErrorProg (cause : Nat) (survives : Bool) : Prog := look fun s =>
  let held (n : Nat) : Bool := (s.dom (64 + n)).st == .on || (s.dom (64 + n)).st == .retain
  let owner := s.fld .res 20 0 (R.RES_CLAIM + 16) 7 0
  let log := (s.log.zip (List.range s.log.length)).flatMap fun (x : LogEntry × Nat) => x.1.bytes (s.logNext - s.log.length + x.2)
  let flocks := s.liveFlocks.flatMap Flock.context
  let time := s.time
  only (s.power.inputOk && !s.penState && !s.aocDead) (progs [
    aocLog 4 0x7F cause 0 cause,
    haltUnits,
    only survives (progs [
      setReg .res 20 0 (R.RES_CLAIM + 16) ((if owner = 6 then 2 ^ 30 else 0) + 7),
      only (held 0 && held 1) (withFree fun v => progs [.upd (.time (v % 2000000001)), writeDump cause log flocks (owner = 6) time])]),
    orderlyOff true,
    enterPen 0x0A,
    onAoc fun a => { a with step := 0 }])

/-! ### The export of tallies (R561) -/

/-- Registers [31:0] that hardware writes and that are no counter (R561): fault records, ring counts, identities. -/
def notCounter (rb : RB) (off : Nat) : Bool :=
  match rb with
  | .tc => off = R.TC_FAULT_VADDR_LO
  | .cc => off = R.CC_SLOT_MODEL || off = R.CC_SLOT_HASH_LO || off = R.CC_SLOT_HASH_HI
  | .be => off = R.BE_FAULT_VADDR_LO || off = R.BE_FAULT_CURSOR
  | .th => off = R.TH_FAULT_PC_LO || off = R.TH_FAULT_VADDR_LO
  | .bv => off = R.BV_JOB_CONS || off = R.BV_CPL_PROD || off = R.BV_KEY_LAST || off = R.BV_FAULT_JOB || off = R.BV_FAULT_VADDR_LO
  | .sl => off = R.SL_JOB_CONS || off = R.SL_CPL_PROD || off = R.SL_FAULT_JOB || off = R.SL_FAULT_VADDR_LO
  | _ => false

/-- The offsets of the counters of a block, ascending. -/
def counterOffs (rb : RB) : List Nat := (rb.rows.filter fun r => r.flds == [⟨31, 0, .ro, 0⟩] && !notCounter rb r.off).flatMap fun r =>
  (List.range r.cnt).map fun i => r.off + r.stride * i

/-- The instances of a block kind: die and index, by die and then by unit. -/
def instances (rb : RB) : List (Nat × Nat) :=
  match rb with
  | .th => (List.range 16).flatMap fun d => (List.range 18816).map fun i => (d, i)
  | .bv => (List.range 16).flatMap fun d => (List.range 8).map fun i => (d, i)
  | .sl | .stk => (List.range 16).flatMap fun d => [(d, 0), (d, 1)]
  | .lnk => (List.range 4).flatMap fun n => (List.range 6).map fun i => (16 + n, i)
  | .drv => (List.range 16).map fun d => (d, 0)
  | _ => (List.range 16).flatMap fun d => (List.range 168).map fun i => (d, i)

/-- The counters of the selected kinds, for every instance whose domain is on. -/
def Dev.exported (s : Dev) (set : Nat) : List Nat :=
  let kinds : List RB := [.tc, .sf, .cc, .be, .th, .bv, .sl, .stk, .lnk, .drv]
  ((List.range 10).zip kinds).flatMap fun (x : Nat × RB) => if !bitAt set x.1 then [] else
    (instances x.2).flatMap fun (i : Nat × Nat) => if s.blockOn x.2 i.1 i.2 then (counterOffs x.2).map fun o => s.reg x.2 i.1 i.2 o else []

/-- TALLY_EXPORT: one record at the end of a period. Its head and bitmap have no stated layout; the bitmap's length is open too. -/
def tallyExportProg : Prog := look fun s =>
  let ctl := s.reg .rcv 20 0 R.TALLY_CTRL
  let period := bits ctl 31 16 * 1000000
  let ring := s.fld .rcv 20 0 R.TALLY_RING_LO 31 12 * 4096 + s.fld .rcv 20 0 R.TALLY_RING_HI 13 0 * 2 ^ 32
  let size := s.reg .rcv 20 0 R.TALLY_RING_SIZE
  let prod := s.reg .rcv 20 0 R.TALLY_PROD
  let left := (prod + 2 ^ 32 - s.reg .rcv 20 0 R.TALLY_CONS) % 2 ^ 32
  let lens := s.aoc.tallyLens.drop (s.aoc.tallyLens.length - left)
  only (bitAt ctl 0 && !s.penState && period ≠ 0) (progs [
    .upd (.time (period - s.clock % period)),
    withFree fun v => look fun s =>
      let vals := s.exported (bits ctl 10 1)
      let head := 64 + v % 4096
      let len := head + 4 * vals.length
      if size < lens.foldl (· + ·) 0 + len || !(s.reachFor ring size accWrite == .ok) then progs [
        wantStacks ring size, tally .rcv 20 0 R.EXPORT_SKIPPED 1]
      else
        let at_ (i : Nat) : Nat := ring + (s.aoc.tallyPos + i) % max 1 size
        progs [
          forAll (List.range head) fun i => .upd (.undef (at_ i) 1),
          forAll ((List.range vals.length).zip vals) fun x => forAll (List.range 4) fun j => memWrite (at_ (head + 4 * x.1 + j)) [BitVec.ofNat 8 (x.2 / 256 ^ j)] false,
          setReg .rcv 20 0 R.TALLY_PROD ((prod + 1) % 2 ^ 32),
          onAoc fun a => { a with tallyLens := lens ++ [len], tallyPos := (a.tallyPos + len) % max 1 size }]])

end Sys2Proof.Machine
end

