-- ==== Sys2Proof/Machine/ThreadFlow.lean ====
section
/-! DEFINITION. Control and system instructions of the thread cores (R239, R243, R253 to R255), cluster and core barriers, and the clear of the counters (R272). -/

namespace Sys2Proof.Machine

/-- The depth of the join stack (R253). -/
def joinDepth : Nat := 16

/-- R255: pops entries, the top first, until one's mask AND LIVE is not empty: the program counter, the mask and the rest. -/
def popJoin (live : Nat) : List Join → Option (Nat × Nat × List Join)
  | [] => none
  | j :: r => if j.mask &&& live ≠ 0 then some (j.pc, j.mask &&& live, r) else popJoin live r

/-- The thread an exception of the whole flock names: the first that executes the instruction. -/
def Flock.firstExec (x : Flock) (w : Nat) : Nat := (x.exec w).headD x.first

/-- Kills the flock on an exception that is the flock's own. -/
def thBad (a : ThOp) (cause va : Nat) : Prog := look fun s => thDie a.k a.core a.f cause va ((s.flockOf a).firstExec a.w) false 0

/-- A branch of the executing threads to `target` (R254): a part of the active threads divides the flock. -/
def thBranch (a : ThOp) (target : Nat) (link : Bool) : Prog := look fun s =>
  let x := s.flockOf a
  let ex := x.exec a.w
  let em := threadMask ex
  let next := (x.pc + 4) % 2 ^ 64
  let linked : Prog := only link (onFlock a.k a.core a.f fun y => ex.foldl (fun y t => y.setThr t ((y.thr t).setG 63 next)) y)
  if em = 0 then thNext a.k a.core a.f next
  else if em = x.active then progs [linked, thNext a.k a.core a.f target]
  else if joinDepth ≤ x.stack.length then thBad a 2 0
  else progs [
    linked,
    onFlock a.k a.core a.f fun y => { y with stack := ⟨next, x.active - em, false⟩ :: y.stack, active := em },
    thTally a.k a.core R.TH_DIVERGE 1,
    thNext a.k a.core a.f target]

/-- The target of a BRN word (R241). -/
def brnTarget (pc w : Nat) : Nat := wrapN 64 ((pc : Int) + 4 * fOff20 w)

def nopProg (a : ThOp) : Prog := thRegs a 0x00 (regOk .no .no .no [0] a.w) fun _ t => t

/-- EXIT: executing threads leave; the flock ends with its last, or goes on with the path popped (R255). -/
def exitProg (a : ThOp) : Prog := thStep a 0x01 pipeOwn (regOk .no .no .no [0] a.w) (look fun s =>
  let x := s.flockOf a
  let em := threadMask (x.exec a.w)
  let live := x.live - (x.live &&& em)
  let act := x.active - em
  if live = 0 then progs [thTally a.k a.core R.TH_ISSUED 1, onFlock a.k a.core a.f fun _ => Flock.idle]
  else if act ≠ 0 then progs [onFlock a.k a.core a.f fun y => { y with live := live, active := act }, thNext a.k a.core a.f (x.pc + 4)]
  else match popJoin live x.stack with
    | some r => progs [
        onFlock a.k a.core a.f fun y => { y with live := live, active := r.2.1, stack := r.2.2 },
        thNext a.k a.core a.f r.1]
    | none => thBad a 2 0)

def braProg (a : ThOp) : Prog := thStep a 0x02 pipeOwn (predOk a.w) (look fun s =>
  thBranch a (brnTarget (s.flockOf a).pc a.w) false)
def callProg (a : ThOp) : Prog := thStep a 0x03 pipeOwn (predOk a.w) (look fun s =>
  thBranch a (brnTarget (s.flockOf a).pc a.w) true)

/-- JR: every executing thread must name the same target (R265 cause 0x03). -/
def jrProg (a : ThOp) : Prog := thStep a 0x04 pipeOwn (regOk .no .g .no [0] a.w) (look fun s =>
  let x := s.flockOf a
  let ts := (x.exec a.w).map fun t => (x.thr t).gr (fA a.w)
  let target := ts.headD 0
  if ts.all (fun v => v == target) then thBranch a target false else thBad a 3 0)

/-- R243: JPUSH, JOIN and BAR take PRED 0 only. -/
def predZero (w : Nat) : Bool := bits w 23 20 = 0

def jpushProg (a : ThOp) : Prog := thStep a 0x05 pipeOwn (predZero a.w) (look fun s =>
  let x := s.flockOf a
  if joinDepth ≤ x.stack.length then thBad a 2 0
  else progs [
    onFlock a.k a.core a.f fun y => { y with stack := ⟨brnTarget x.pc a.w, x.active, true⟩ :: y.stack },
    thNext a.k a.core a.f (x.pc + 4)])

def joinProg (a : ThOp) : Prog := thStep a 0x06 pipeOwn (predZero a.w && regOk .no .no .no [0] a.w) (look fun s =>
  let x := s.flockOf a
  match popJoin x.live x.stack with
  | some r => progs [onFlock a.k a.core a.f fun y => { y with active := r.2.1, stack := r.2.2 }, thNext a.k a.core a.f r.1]
  | none => thBad a 2 0)

/-! ### Barriers (R243, R269) -/

/-- A flock leaves its BAR. -/
def barGo (k core f : Nat) : Prog := look fun s =>
  let x := s.flock k core f
  only (x.st == .wait && (match x.wait with | some v => v.op = 0x07 | none => false)) (thNext k core f (x.pc + 4))

/-- The round of a cluster barrier completes once its count of flocks has arrived. -/
def barrierDone (k n : Nat) : Prog := look fun s =>
  let b := sget (fun _ => (⟨0, []⟩ : Barrier)) (s.cl k).barriers n
  only (0 < b.count && b.count ≤ b.arrived.length) (progs [
    onCl k fun c => { c with barriers := sdel c.barriers n },
    forAll b.arrived fun x => barGo k (x / 2) (x % 2)])

/-- Whether a flock waits at its core's barrier. -/
def Flock.atCoreBar (x : Flock) : Bool :=
  x.st == .wait && (match x.wait with | some v => v.op = 0x07 && fM v.w.toNat = 0 | none => false)

/-- The core's barrier completes once both flocks wait at it. -/
def coreBarDone (k core : Nat) : Prog := look fun s =>
  only ((s.flock k core 0).atCoreBar && (s.flock k core 1).atCoreBar) (progs [barGo k core 0, barGo k core 1])

/-- BAR: M = 0 waits for the other flock, M = 1 arrives at a cluster barrier; a completed round is released by BARRIER_COMPLETE. -/
def barProg (a : ThOp) : Prog := thStep a 0x07 pipeOwn (predZero a.w && regOk .no .g .g [0, 1] a.w) (look fun s =>
  let x := s.flockOf a
  let ts := x.exec a.w
  let waiting := thWait a.k a.core a.f 0x07 a.w x.first 0 R.TH_WAIT_SYNC
  if fM a.w = 0 then waiting
  else
    let vals := ts.map fun t => (((x.thr t).gr (fA a.w)) % 32, (x.thr t).gr (fB a.w))
    let v := vals.headD (0, 0)
    let me := 2 * a.core + a.f
    if !vals.all (fun y => y == v) || v.2 < 1 || 224 < v.2 then thBad a 3 0
    else .seq (barrierDone a.k v.1) (look fun s =>
      let b := sget (fun _ => (⟨0, []⟩ : Barrier)) (s.cl a.k).barriers v.1
      if x.st == .wait && (s.flockOf a).st == .run then .skip
      else if b.arrived.contains me then waiting
      else if !b.arrived.isEmpty && b.count ≠ v.2 then thBad a 3 0
      else progs [
        onCl a.k fun c => { c with barriers := sput c.barriers v.1 ⟨v.2, b.arrived ++ [me]⟩ },
        waiting]))

/-- BARRIER_COMPLETE: of a cluster barrier, or of the barrier of a core. -/
def barrierCompleteProg (k core : Nat) (ofCore : Bool) (n : Nat) : Prog := if ofCore then coreBarDone k core else barrierDone k n

/-- The value of a special register (R239); none when the index is reserved. -/
def Dev.special (s : Dev) (a : ThOp) (x : Flock) (t i : Nat) : Option Nat :=
  match i with
  | 0 => some t
  | 1 => some a.f
  | 2 => some a.core
  | 3 => some (s.logicalOf (a.k / 168) (a.k % 168))
  | 4 => some (a.k / 168)
  | 5 => some x.active
  | 6 => some x.live
  | 7 => some (s.clCycles a.k)
  | 8 => some s.time
  | 9 => some (b2n x.fast + s.prioOf x * 2 ^ 8 + x.queue * 2 ^ 16)
  | 10 => some (x.thr t).fstat.toNat
  | _ => none

def mfsProg (a : ThOp) : Prog := look fun s =>
  thEach a 0x08 (immOk .g .no a.w && decide (bits a.w 7 0 ≤ 10)) fun x i t =>
    t.setG (fD a.w) ((s.special a x i (bits a.w 7 0)).getD 0)

def mtsProg (a : ThOp) : Prog := thRegs a 0x09 (immOk .no .g a.w && bits a.w 7 0 = 10) fun _ t =>
  { t with fstat := BitVec.ofNat 5 (t.gr (fA a.w)) }

/-- DEBUG of the manifest in force (R532). -/
def Dev.debug (s : Dev) : Bool := bitAt (s.reg .boot 20 0 R.SEC_STATUS) 0

/-- TRAP: an exception wherever some thread executes it (R265). Under DEBUG a debugger may claim it: the flock then stands where it is, its record made,
and its command is not killed. Whether one does is open, since the spec gives no means of a claim (log 45). -/
def trapProg (a : ThOp) : Prog := thStep a 0x0A pipeOwn (immOk .no .no a.w) (look fun s =>
  let x := s.flockOf a
  let code := bits a.w 7 0
  let claimed := progs [
    thRecord a.k a.core a.f 6 code (x.firstExec a.w) false,
    onFlock a.k a.core a.f fun x => { x with st := .faulted }]
  if (x.exec a.w).isEmpty then thNext a.k a.core a.f (x.pc + 4)
  else if s.debug then withFree fun v => if v % 2 = 1 then claimed else thBad a 6 code
  else thBad a 6 code)

/-- TH_TALLY_CLEAR (R272). -/
def thTallyClearProg (k core : Nat) : Prog := clearTallies .th (k / 168) (k % 168 * 112 + core) (offsets 0x20 0x58)

end Sys2Proof.Machine
end

