-- ==== Sys2Proof/Machine/Regs.lean ====
section
/-! DEFINITION. The registers as software sees them (R9 to R12): the value that a read returns, with its side effects, and the effect of a write under the access codes of R10 and the rules of each field. -/

namespace Sys2Proof.Machine

/-- A number from its bits. -/
def ofBits (n : Nat) (f : Nat → Bool) : Nat := ((List.range n).map fun i => b2n (f i) * 2 ^ i).foldl (· + ·) 0

/-! ### Registers that a read computes -/

/-- An instruction that runs, or stands at a fault, on its target. -/
def Entry.busy (e : Entry) : Bool := e.stage == .running || e.stage == .faulted

/-- TC_STATUS (R138). -/
def Cluster.tcStatus (c : Cluster) : Nat :=
  let l := c.entries.filter fun e => e.busy
  b2n (!c.doneTiles.isEmpty) * 2 ^ 25 + b2n (l.any fun e => e.target = 0x10) * 2 ^ 24 + c.gated % 16 * 2 ^ 20 + c.splitPending % 16 * 2 ^ 16
    + ofBits 8 (fun i => l.any fun e => e.target = 4 + i) * 2 ^ 8 + c.split % 16 * 16
    + ofBits 4 fun n => l.any fun e => !isHalf e.target && (targetArrays e.target).contains n

/-- TC_QSTAT[q] (R294): the head waits while it has not issued. -/
def Cluster.qstat (c : Cluster) (q : Nat) : Nat :=
  let l := c.inQueue q
  match l with
  | [] => 0
  | e :: _ => e.op * 2 ^ 16 + b2n (e.stage == .queued || e.stage == .staged) * 2 ^ 8 + min 31 l.length

/-- TC_TAG_POOL (R294). -/
def Cluster.tagPool (c : Cluster) : Nat := (c.tags.filter fun t => t.2.done).length * 2 ^ 16 + (4096 - c.tags.length)

/-- SF_STATUS and the slot registers (R196). -/
def Cluster.sfRead (c : Cluster) (off stored : Nat) : Nat :=
  if off = R.SF_STATUS then
    ofBits 10 (fun n => (c.sfSlot n).loading) * 4 + ofBits 2 fun n => c.entries.any fun e => e.busy && e.target = 0x18 + n
  else if 0x100 ≤ off && off < 0x1A0 then
    let x := c.sfSlot ((off - 0x100) / 16)
    match (off - 0x100) % 16 with
    | 0 => (if x.epoch % 2 = 0 then x.bank0 else x.bank1).progId % 65536 * 65536 + x.epoch % 65536
    | 4 => min 65535 x.users1 * 65536 + min 65535 x.users0
    | 8 => b2n x.valid1 * 8 + b2n x.valid0 * 4 + b2n x.waiting * 2 + b2n x.bad
    | _ => 0
  else stored

/-- CC_STATUS and the slot registers (R231). -/
def Cluster.ccRead (c : Cluster) (off stored : Nat) : Nat :=
  if off = R.CC_STATUS then
    ofBits 4 (fun n => (c.ctSlot n).loading) * 16
      + ofBits 4 fun n => c.entries.any fun e => e.busy && (e.target = 0x20 + n || e.target = 0x24)
  else if 0x100 ≤ off && off < 0x180 then
    let x := c.ctSlot ((off - 0x100) / 32)
    let b := if x.epoch % 2 = 0 then x.bank0 else x.bank1
    match (off - 0x100) % 32 with
    | 0 => b.tset % 256 * 2 ^ 24 + x.epoch % 65536
    | 4 => min 65535 x.users1 * 65536 + min 65535 x.users0
    | 8 => b2n x.bank1.valid * 8 + b2n x.bank0.valid * 4 + b2n x.waiting * 2 + b2n x.bad
    | 12 => b.a % 4096 * 2 ^ 20 + b.h % 4096 * 2 ^ 8 + b.k % 128
    | 16 => b.modelId % 2 ^ 32
    | 20 => b.modelHash % 2 ^ 32
    | 24 => b.modelHash / 2 ^ 32 % 2 ^ 32
    | _ => 0
  else stored

/-- A flock's state in TH_STATUS (R272). -/
def FlockSt.code : FlockSt → Nat
  | .idle => 0
  | .run => 1
  | .wait => 2
  | .faulted => 3
  | .saving => 4
  | .restoring => 5

/-- BE_STATUS and BE_QSTAT (R326). -/
def Cluster.beRead (c : Cluster) (off stored : Nat) : Nat :=
  let depth (n : Nat) : Nat := (c.barges.filter fun b => b.st == .queued && b.cls = n).length
  if off = R.BE_STATUS then
    (c.barges.map fun b => b.out.length).foldl (· + ·) 0 % 2048 * 256 + (c.barges.filter fun b => !(b.st == .queued)).length % 128
  else if off = R.BE_QSTAT then depth 2 % 64 * 2 ^ 16 + depth 1 % 64 * 2 ^ 8 + depth 0 % 64
  else stored

/-- GROUP_STATUS (R450, R456): a member is reachable while its bridge queue pair is RTS and its sub-port is up. -/
def Dev.memberUp (s : Dev) (k : Nat) : Bool := s.qpLinkUp (bridgeQp + k)
def Dev.groupStatus (s : Dev) : Nat :=
  (if s.role = 1 then ofBits 16 fun k => k ≠ 0 && s.memberUp k else 0) * 2 ^ 16 + s.groupIndex % 16 * 16 + s.role % 4

/-- The registers of LD0 (R456). -/
def Dev.ld0Read (s : Dev) (off stored : Nat) : Nat :=
  let c := s.links.cls
  if off = R.CLS_STATUS then s.clsStatus
  else if off = R.CLS_USERS then min 65535 (c.users 1) * 65536 + min 65535 (c.users 0)
  else if off = R.TIME_NOW_LO then s.time % 2 ^ 32
  else if off = R.TIME_NOW_HI then sget (fun _ => 0) s.aoc.latches off
  else if off = R.PTP_STATUS then bits stored 4 4 * 16 + b2n (s.links.ptp.viaB && s.links.ptp.master.isSome) * 8 + s.links.ptp.st % 8
  else if off = R.GROUP_STATUS then s.groupStatus
  else stored

/-- The service-connector registers (R579). -/
def Dev.svcRead (s : Dev) (off stored : Nat) : Nat :=
  if off = R.SVC_GPIO_IN then s.aoc.gpio % 256
  else if off = R.SVC_STRAPS then b2n s.aoc.flashWp * 4 + s.aoc.straps % 4
  else if off = R.SVC_PPS_IN_TIME_HI || off = R.SVC_SYNC_IN_TIME_HI then sget (fun _ => 0) s.aoc.latches (off + 0x1000)
  else stored

/-- STK_SPARE_FREE and STK_LIST_FREE (R356): the fewest spare rows of any of the 16 banks of 16 pseudo-channels of 32 channels. -/
def Dev.stkRead (s : Dev) (n off stored : Nat) : Nat :=
  if off = R.STK_SPARE_FREE then ((s.stk n).spareFree.map (·.2)).foldl min 16 * 32
  else if off = R.STK_LIST_FREE then 512 - (s.stk n).listUsed
  else stored

/-- The value of a register: what a read of it returns (R10, R11). Offsets without a register read 0. -/
def Dev.regValue (s : Dev) (rb : RB) (d i off : Nat) : Nat :=
  match rowAt rb.rows off with
  | none => 0
  | some r =>
    let v := r.readMask (s.reg rb d i off)
    match rb with
    | .tc =>
      let c := s.cl (ck d i)
      if off = R.TC_STATUS then c.tcStatus
      else if R.TC_QSTAT ≤ off && off < R.TC_QSTAT + 60 then c.qstat ((off - R.TC_QSTAT) / 4)
      else if off = R.TC_TAG_POOL then c.tagPool else v
    | .sf => (s.cl (ck d i)).sfRead off v
    | .cc => (s.cl (ck d i)).ccRead off v
    | .th => if off = R.TH_STATUS then
        let k := ck d (i / 112)
        (s.flock k (i % 112) 1).st.code * 16 + (s.flock k (i % 112) 0).st.code
      else v
    | .be => (s.cl (ck d i)).beRead off v
    | .lk => if off = R.CS_POOL_STATE then s.poolStateRead (ck d i) else v
    | .lock => if 11776 ≤ i then 0 else s.lockRead (lockOf d i) off
    | .fq => s.fqRead d off
    | .stk => s.stkRead (2 * d + i) off v
    | .bv => if off = R.BV_STATUS then s.bvStatus d i else v
    | .lnk => if off = R.LNK_FI_TX || off = R.LNK_FI_TX + 16 then setBits v 31 31 (b2n s.fiLocked) else v
    | .sl => if off = R.SL_STATUS then s.slStatus d i else v
    | .ld0 => s.ld0Read off v
    | .drv => if off = R.DRV_STATUS then s.drvStatusRead d else v
    | .q => if off = R.Q_STATE then s.qStateRead (256 * d + i) else v
    | .mb => s.mbRead i off
    | .pwr => s.pwrRead off
    | .boot => if off = R.BOOT_CTRL then 0 else s.bootRead off
    | .rcv => if off = R.LOG_STATUS then s.logNext % 2 ^ 32 else v
    | .svc => s.svcRead off v
    | _ => v

/-- What a read of a register does: RC fields clear (R10), and a low half latches its upper half (R456, R579). -/
def regReadFx (rb : RB) (d i off : Nat) : Prog := look fun s =>
  let latch (key v : Nat) : Prog := onAoc fun a => { a with latches := sset (fun _ => 0) a.latches key v }
  match rb with
  | .ld0 => only (off = R.TIME_NOW_LO) (latch R.TIME_NOW_HI (s.time / 2 ^ 32 % 2 ^ 32))
  | .svc => progs [
      only (off = R.SVC_PPS_IN_TIME_LO) (latch (R.SVC_PPS_IN_TIME_HI + 0x1000) (s.reg rb d i R.SVC_PPS_IN_TIME_HI)),
      only (off = R.SVC_SYNC_IN_TIME_LO) (latch (R.SVC_SYNC_IN_TIME_HI + 0x1000) (s.reg rb d i R.SVC_SYNC_IN_TIME_HI))]
  | _ => match rowAt rb.rows off with
    | some r => only r.hasRc (setReg rb d i off (r.afterRead (s.reg rb d i off)))
    | none => .skip

/-! ### Writes -/

/-- A write under the access codes alone (R10). -/
def plainWrite (rb : RB) (d i off v : Nat) : Prog := look fun s =>
  match rowAt rb.rows off with
  | some r => setReg rb d i off (r.afterWrite (s.reg rb d i off) v)
  | none => .skip

/-- A field that keeps its value when a write holds one outside its range. -/
def keepField (old v hi lo least most : Nat) : Nat :=
  if least ≤ bits v hi lo && bits v hi lo ≤ most then v else setBits v hi lo (bits old hi lo)

/-- A write whose word has the ranges of its fields put right first. -/
def rangedWrite (rb : RB) (d i off v : Nat) (f : Nat → Nat → Nat) : Prog := look fun s => plainWrite rb d i off (f (s.reg rb d i off) v)

/-- A write of a cluster's unit registers. -/
def clusterRegWrite (rb : RB) (d p off v : Nat) : Prog :=
  let clear (lo hi : Nat) : Prog := only (v % 2 = 1) (clearProg rb d p lo hi)
  match rb with
  | .tc =>
    if off = R.TC_SPLIT_CTRL then splitWriteProg (ck d p) v
    else if off = R.TC_QTALLY_CLEAR then clear R.TC_SAT_ELEMS R.TC_OUTLIER_TERMS
    else if off = R.TC_TALLY_CLEAR then clear R.TC_WAIT_PREEMPT R.TC_PARITY_RETRIES
    else if off = R.TC_SW_CLEAR then clear R.TC_TAP_SKIP R.TC_CROP_INVALID
    else if off = R.TC_ISSUE_CLEAR then clear 0x644 0x648
    else plainWrite rb d p off v
  | .sf =>
    if off = R.SF_TALLY_CLEAR then clear R.SF_SEAM_CLAMP R.SF_LOAD_WAIT
    else if off = R.SF_WAIT_CLEAR then clear R.SF_WAIT_PREEMPT R.SF_WAIT_LOCK_SPACE
    else plainWrite rb d p off v
  | .cc =>
    if off = R.CC_TALLY_CLEAR then clear R.CC_SYMS_ENC R.CC_LOAD_WAIT
    else if off = R.CC_WAIT_CLEAR then clear R.CC_WAIT_PREEMPT R.CC_WAIT_LOCK_SPACE
    else plainWrite rb d p off v
  | .be => if off = R.BE_TALLY_CLEAR then only (v % 2 = 1) (beTallyClearProg d p) else plainWrite rb d p off v
  | .lk =>
    if off = R.CS_POOL_CFG then csPoolCfgWrite d p v
    else if off = R.CS_POOL_BLOCKS then csPoolBlocksWrite d p v else plainWrite rb d p off v
  | .cs => if off = R.CS_TALLY_CLEAR then only (v % 2 = 1) (csTallyClearProg d p) else plainWrite rb d p off v
  | _ => plainWrite rb d p off v

/-- A write of a lock's registers. -/
def lockRegWrite (d i off v : Nat) : Prog :=
  if 11776 ≤ i then .skip
  else if off = R.LK_CFG then lkCfgWrite (lockOf d i) v
  else if off = R.LK_CTRL then lkCtrlWrite (lockOf d i) v
  else if off = R.LK_STATE || off = R.LK_WAIT then .skip
  else lkFieldWrite (lockOf d i) off v

/-- A write of a pipeline's or sluice engine's registers (R395, R413). -/
def engineRegWrite (rb : RB) (d n off v : Nat) : Prog :=
  match rb with
  | .bv =>
    if off = R.BV_RING_CFG then bvRingCfg d n v
    else if off = R.BV_KEY_REQ then bvKeyReq d n v
    else if off = R.BV_CTRL then bvCtrl d n v
    else if off = R.BV_TALLY_CLEAR then only (v % 2 = 1) (bvTallyClearProg d n)
    else plainWrite rb d n off v
  | _ =>
    if off = R.SL_RING_CFG then slRingCfg d n v
    else if off = R.SL_CTRL then slCtrl d n v
    else if off = R.SL_TALLY_CLEAR then only (v % 2 = 1) (slTallyClearProg d n)
    else plainWrite rb d n off v

/-- A write of a queue's registers (R459, R485). -/
def queueRegWrite (q off v : Nat) : Prog :=
  if off = R.Q_CFG then qCfgWrite q v
  else if R.Q_RING_LO ≤ off && off ≤ R.Q_CRING_HI then qRingWrite q off v
  else if off = R.Q_CPL_CONS then qCplConsWrite q v
  else if off = R.Q_CTRL then qCtrlWrite q v
  else if off = R.Q_TRIG then qTrigWrite q v
  else plainWrite .q (q / 256) (q % 256) off v

/-- The contacts take new levels; each that changes sets its bit of SVC_EVENT (R579). -/
def gpioLevels (v : Nat) : Prog := look fun s => progs [
  onAoc fun a => { a with gpio := v % 256 },
  setFld .svc 20 0 R.SVC_EVENT 7 0 (s.fld .svc 20 0 R.SVC_EVENT 7 0 ||| Nat.xor (s.aoc.gpio % 256) (v % 256))]

/-- The contacts that the module drives take the levels of SVC_GPIO_OUT (R579). -/
def gpioDrive : Prog := look fun s =>
  let out := s.fld .svc 20 0 R.SVC_GPIO_OUT 7 0
  let oe := s.fld .svc 20 0 R.SVC_GPIO_OE 7 0
  gpioLevels (ofBits 8 fun i => if bitAt oe i then bitAt out i else bitAt s.aoc.gpio i)

/-- A write of the registers of the management complex and the always-on domain. -/
def aocRegWrite (rb : RB) (i off v : Nat) : Prog :=
  match rb with
  | .aoc => if off = R.AOC_WAITDET_CTRL then rangedWrite rb 20 i off v fun o v => keepField o v 29 16 1 10000 else plainWrite rb 20 i off v
  | .span => if off % 4 = 0 && off / 4 < 48 then spanModeWrite (off / 4) v else .skip
  | .dmmu =>
    if off = R.DMMU_ROOT_LO then dmmuRootLoWrite v
    else if off = R.DMMU_ROOT_HI then dmmuRootHiWrite v
    else if off = R.DMMU_INV_CTRL then dmmuInvWrite v
    else plainWrite rb 20 i off v
  | .res => if off % 4 = 0 && off / 4 < 5 then resWrite (off / 4) v else .skip
  | .mb =>
    if off = R.MB_ACK then only (v % 2 = 1) (mbAckProg i)
    else if off = R.MB_CFG then mbCfgWrite i v
    else plainWrite rb 20 i off v
  | .pwr =>
    if off = R.PWR_ENV then pwrEnvWrite v
    else if off = R.PWR_CTRL then pwrCtrlWrite v
    else if off = R.WEIR_CFG then rangedWrite rb 20 i off v fun o v => keepField o v 5 0 1 35
    else if off = R.THERM_CFG then rangedWrite rb 20 i off v fun o v => keepField o v 7 0 85 105
    else if off = R.WEIR_TALLY_CLEAR then only (v % 2 = 1) weirTallyClearProg
    else if R.PWR_DOM ≤ off && off < R.PWR_DOM + 420 && off % 4 = 0 then pwrDomWrite ((off - R.PWR_DOM) / 4) v
    else plainWrite rb 20 i off v
  | .boot => if off = R.BOOT_CTRL then bootCtrlWrite v else plainWrite rb 20 i off v
  | .rcv =>
    if off = R.TALLY_CTRL then rangedWrite rb 20 i off v fun o v => keepField o v 31 16 1 10000
    else plainWrite rb 20 i off v
  | .tmr =>
    if off = R.TMR_CTRL then look fun s =>
      let v := if bits v 15 8 = 0 then setBits v 15 8 1 else v
      plainWrite rb 20 i off (if s.owns (2 + i) = 0 then setBits v 0 0 0 else v)
    else plainWrite rb 20 i off v
  | .svc => progs [plainWrite rb 20 i off v, only (off = R.SVC_GPIO_OUT || off = R.SVC_GPIO_OE) gpioDrive]
  | _ => plainWrite rb 20 i off v

/-- The registers of the fault record or location that VALID of a status register holds, beside it (R139, R272, R326, R332, R395). -/
def faultRegs (rb : RB) (off : Nat) : Option (List Nat) :=
  match rb with
  | .tc => if off = R.TC_FAULT_STATUS then some [R.TC_FAULT_TAG, R.TC_FAULT_POS, R.TC_FAULT_VADDR_LO, R.TC_FAULT_VADDR_HI] else none
  | .th => if off = R.TH_FAULT_STATUS then
      some [R.TH_FAULT_PC_LO, R.TH_FAULT_PC_HI, R.TH_FAULT_VADDR_LO, R.TH_FAULT_VADDR_HI, R.TH_FAULT_MASK] else none
  | .be => if off = R.BE_FAULT_STATUS then some [R.BE_FAULT_TAG, R.BE_FAULT_VADDR_LO, R.BE_FAULT_VADDR_HI, R.BE_FAULT_CURSOR] else none
  | .cs => if off = R.CS_ECC_LAST then some [] else none
  | .bv => if off = R.BV_FAULT_STATUS then some [R.BV_FAULT_JOB, R.BV_FAULT_VADDR_LO, R.BV_FAULT_VADDR_HI] else none
  | _ => none

/-- Writing 1 to VALID clears the whole record; OVERFLOW, which tells of other faults, is cleared by its own 1. -/
def recordClear (rb : RB) (d i off v : Nat) (l : List Nat) : Prog := look fun s => progs [
  setReg rb d i off (if bitAt v 30 then 0 else bits (s.reg rb d i off) 30 30 * 2 ^ 30),
  forAll l fun o => setReg rb d i o 0]

/-- A write of a register, under the access code and the rules of its fields. -/
def regWrite (rb : RB) (d i off v : Nat) : Prog :=
  match (if bitAt v 31 then faultRegs rb off else none) with
  | some l => recordClear rb d i off v l
  | none => match rb with
  | .tc | .sf | .cc | .be | .lk | .cs => clusterRegWrite rb d i off v
  | .th => if off = R.TH_TALLY_CLEAR then only (v % 2 = 1) (thTallyClearProg (ck d (i / 112)) (i % 112)) else plainWrite rb d i off v
  | .lock => lockRegWrite d i off v
  | .fq =>
    if off = R.DMMU_FAULT_ACTION then faultAction d (v % 4)
    else if off = R.DMMU_TALLY_CLEAR then only (v % 2 = 1) (dmmuTallyClearProg d) else plainWrite rb d i off v
  | .stk =>
    if off = R.STK_SCRUB_CTRL then rangedWrite rb d i off v fun o v => keepField o v 7 0 1 168
    else if off = R.STK_TALLY_CLEAR then only (v % 2 = 1) (stkTallyClearProg (2 * d + i)) else plainWrite rb d i off v
  | .bv | .sl => engineRegWrite rb d i off v
  | .bvg => if off = R.BV_GROUP_CTRL then bvGroupWrite d v else .skip
  | .lnk =>
    let p := (d - 16) * 6 + i
    if off = R.LNK_PORT_CTRL then portCtrlWrite p v
    else if off = R.LNK_PORT_STATUS then portStatusWrite p v
    else if off = R.LNK_TALLY_CLEAR then only (v % 2 = 1) (lnkTallyClearProg p)
    else if R.LNK_FI_TX ≤ off && off < R.LNK_FI_TX + 32 && off % 4 = 0 then fiWrite p off v
    else plainWrite rb d i off v
  | .ld0 => if off = R.CLS_CTRL then clsOp (v % 4) else plainWrite rb d i off v
  | .drv =>
    if off = R.DRV_CANCEL then only (bitAt v 31) (drvCancelProg d (v % 4096))
    else if off = R.DRV_TALLY_CLEAR then only (v % 2 = 1) (drvTallyClearProg d) else plainWrite rb d i off v
  | .q => queueRegWrite (256 * d + i) off v
  | _ => aocRegWrite rb i off v

end Sys2Proof.Machine
end

