-- ==== Sys2Proof/Machine/State.lean ====
section
/-! DEFINITION. The state of the block: the device and the queue of commands that wait. Plain data. -/

namespace Sys2Proof.Machine

/-- The reasons to stop with a fault: none. An address that does not exist completes with BOUNDS (R28), and every error of the hardware is a state of it. -/
inductive Fault where
  deriving DecidableEq, Repr

/-- The reasons to refuse a command. -/
inductive Refusal where
  /-- A command without a meaning in this model: raised by no arm of `exec`; safe. -/
  | notModelled (mnemonic : String)
  deriving DecidableEq, Repr

/-- The machine: commands that wait, first in, first out, and the device. -/
structure State where
  pending : List Instr
  m : Dev
  deriving DecidableEq, Repr

/-- Carries out a command's effect on the device; the queue stands. -/
def State.perform (s : State) (p : Prog) : Host.Outcome State Fault Refusal := .next { s with m := p.run s.m }

/-- The input and the weir right after reset: the input holds at 44.0 V, the management complex alone is charged, the clamp is full (R488, R490, R507). -/
def Power.reset : Power where
  rise := []
  fall := []
  riseHold := 0
  fallHold := 0
  charged := [(425984, 4546)]
  slots := 0
  inputOk := true
  uvWarn := false
  pen := false
  lastEmerg := 0
  emergency := false
  clampEngaged := false
  clampEvents := 0
  clampMicroJ := 6000000
  clampAt := 0
  vin := 4400
  iin := 0
  samples := []
  p1ms := 0
  envMax := 4
  envActive := 1
  envReq := 1
  settled := false
  thEnv := 0
  envRiseAt := 0
  envFallAt := 0
  ref25 := true
  ref156 := true
  aoInternal := false

/-- The device right after its reset contact is released (R573): every domain but the management complex is off, start-up is about to begin at step 2. -/
def Dev.reset : Dev where
  clock := 0
  free := 1
  regs := []
  mem := []
  undef := []
  bad := []
  oneBit := []
  clusters := []
  dies := []
  stackTab := []
  drovers := []
  pipes := []
  sluices := []
  mailboxes := []
  doms := [(104, ⟨.on, 1, none⟩)]
  power := Power.reset
  therm := []
  repair := []
  log := []
  logNext := 0
  rfaults := []
  sessions := []
  sent := []
  aoc := { Aoc.reset with step := 2 }
  links := Links.reset
  timeOff := 0
  role := 0
  groupIndex := 0
  unitWrites := []

/-- The machine right after reset, with no command waiting. -/
def State.reset : State := ⟨[], Dev.reset⟩

end Sys2Proof.Machine
end

