-- ==== Sys2Proof/Machine/Bus.lean ====
section
/-! DEFINITION. Accesses to DPAs by thread cores, barges, frames and JTAG (R27, R28, R337, R343, R456, R479): stacks and stores are memory, registers are read and written word by word, tables through their windows, the MRAM is read only. -/

namespace Sys2Proof.Machine

/-! ### Reading -/

/-- The flow state record (R456): BLOCK_SEQ of the next block, then the counters; a flow homed on another link die reads 0. -/
def Dev.flowRecord (s : Dev) (n e : Nat) : List Byte :=
  let f := s.links.cls.flow e
  if eHome (s.links.cls.entry s.links.cls.epoch e) ≠ n then List.replicate 32 0
  else leBytes 8 f.seq ++ leBytes 4 f.packets ++ leBytes 4 f.lost ++ leBytes 4 f.dup ++ leBytes 4 f.late ++ leBytes 4 f.overrun ++ leBytes 4 f.malformed

/-- The bytes of a table entry, and where it starts. -/
def Dev.winEntry (s : Dev) (w : LdWin) (n off : Nat) : List Byte :=
  match w with
  | .egress => (s.eg (egNo n (off / 64))).entry
  | .qp => (s.qp (4096 * n + off / 64)).entry
  | .mwin => s.window (off / 16)
  | .flow => s.flowRecord n (off / 32)
/-- The size of an entry of a table. -/
def LdWin.size : LdWin → Nat
  | .egress => 64
  | .qp => 64
  | .mwin => 16
  | .flow => 32

/-- The byte at a DPA as an access reads it. -/
def Dev.busByte (s : Dev) (a : Nat) : Byte :=
  match place a with
  | .reg rb d i off => BitVec.ofNat 8 (s.regValue rb d i (off / 4 * 4) / 2 ^ (8 * (off % 4)))
  | .win w n off => (s.winEntry w n off).getD (off % w.size) 0
  | _ => s.byteAt a

/-- What stands at a DPA is a register. -/
def isReg (a : Nat) : Bool :=
  match place a with
  | .reg .. => true
  | _ => false

/-- The words that a range touches, ascending. -/
def wordsOf (a n : Nat) : List Nat := if n = 0 then [] else (List.range ((a + n - 1) / 4 - a / 4 + 1)).map fun i => 4 * (a / 4 + i)

/-- Reads register words in ascending order, each with its side effects; `got` takes the bytes. -/
def readWords : List Nat → List Byte → (List Byte → Prog) → Prog
  | [], b, got => got b
  | w :: r, b, got => look fun s =>
    match place w with
    | .reg rb d i off => .seq (regReadFx rb d i off) (readWords r (b ++ leBytes 4 (s.regValue rb d i off)) got)
    | _ => readWords r (b ++ (List.range 4).map fun i => s.busByte (w + i)) got

/-- Reads `n` bytes at a DPA; `got` takes them. -/
def busRead (a n : Nat) (got : List Byte → Prog) : Prog := look fun s =>
  if isReg a then readWords (wordsOf a n) [] fun b => got ((b.drop (a % 4)).take n)
  else .seq (memTouch a n) (got ((List.range n).map fun i => s.busByte (a + i)))

/-! ### Writing -/

/-- The fields of a register that a write of part of its word leaves: RW fields keep their values, every other field is written with 0. -/
def RegRow.keep (r : RegRow) (v : Nat) : Nat :=
  r.flds.foldl (fun a f => match f.acc with
    | .rw => a + bits v f.hi f.lo * 2 ^ f.lo
    | _ => a) 0

/-- The word that a write of bytes at `a` makes of register word `w`. -/
def Dev.mergeWord (s : Dev) (w a : Nat) (bs : List Byte) : Nat :=
  let old := match rowOf w with
    | some r => r.keep (s.regAt w)
    | none => 0
  leNat ((List.range 4).map fun i =>
    if a ≤ w + i && w + i < a + bs.length then bs.getD (w + i - a) 0 else BitVec.ofNat 8 (old / 2 ^ (8 * i)))

/-- Writes the part of `bs` (at `a`) that falls in one entry of a table. -/
def winWrite (w : LdWin) (n off : Nat) (bs : List Byte) : Prog :=
  match w with
  | .egress => egressEntryWriteProg n (off / 64) (off % 64) bs
  | .qp => qpEntryWriteProg (4096 * n + off / 64) (off % 64) bs
  | .mwin => memoryWindowWriteProg (off / 16) (off % 16) bs
  | .flow => .skip

/-- Writes bytes at a DPA. -/
def busWrite (a : Nat) (bs : List Byte) : Prog :=
  match place a with
  | .stack => memWrite a bs false
  | .store .. => memWrite a bs false
  | .reg .. => forAll (wordsOf a bs.length) fun w => look fun s =>
    match place w with
    | .reg rb d i off => regWrite rb d i off (s.mergeWord w a bs)
    | _ => .skip
  | .win w n off =>
    let z := w.size
    forAll (List.range ((off + bs.length - 1) / z - off / z + 1)) fun i =>
      let lo := max off ((off / z + i) * z)
      winWrite w n lo ((bs.drop (lo - off)).take ((off / z + i + 1) * z - lo))
  | _ => .skip

/-! ### Writes of the die engines to registers and tables (R24) -/

/-- The writes on their way but the first `n` arrive, in order. -/
def arrive (n : Nat) : Prog := look fun s =>
  let w := s.unitWrites.drop n
  only (!w.isEmpty) (progs [.upd (.unitWrites (s.unitWrites.take n)), forAll w fun x => busWrite x.1 x.2])

/-- Carries out a command of a unit whose writes may reach registers: what it sends there arrives at its end, so that nothing is on its way between commands. -/
def State.performPosting (s : State) (p : Prog) : Host.Outcome State Fault Refusal := s.perform (.seq p (arrive s.m.unitWrites.length))

/-! ### REGISTER_WRITE (R10) -/

/-- REGISTER_WRITE: a write of a register word at a DPA; it changes nothing where the access meets R28. -/
def registerWriteProg (a v : Nat) : Prog := look fun s =>
  only (isReg a && s.reachAt (a / 4 * 4) == .ok) (busWrite (a / 4 * 4) (leBytes 4 v))

end Sys2Proof.Machine
end

