-- ==== Sys2Proof/Machine/BargeData.lean ====
section
/-! DEFINITION. The data of barges: read responses, their writes and failures (R305, R307, R308, R318, R319, R321), the end of a barge (R301), and whole barges (R298, R299). -/

namespace Sys2Proof.Machine

/-! ### Responses (R305, R318, R321) -/

/-- What two ranges share: its start and length. -/
def sharedRange (a n b m : Nat) : Option (Nat × Nat) :=
  let lo := max a b
  let hi := min (a + n) (b + m)
  if lo < hi then some (lo, hi - lo) else none

/-- The bytes of a request's destination that another row of its barge writes too (R303): their DPA and length. -/
def Dev.clashes (s : Dev) (b : Barge) (r : BargeReq) : List (Nat × Nat) := (List.range b.rows).filterMap fun j =>
  if j = r.elem then none
  else match s.bargeElem b j with
    | some e => (sharedRange e.dst e.len r.dst r.len).map fun x => (r.dstDpa + (x.1 - r.dst), x.2)
    | none => none

/-- Whether a barge writes the 256-byte block at a virtual address whole, and no part of it is to come once request `r` has landed (R308). -/
def Dev.blockWhole (s : Dev) (b : Barge) (r : BargeReq) (va : Nat) : Bool :=
  let rows := (List.range b.rows).filterMap fun j => (s.bargeElem b j).map fun e => (j, e)
  let covered (a : Nat) : Bool := rows.any fun x => decide (x.2.dst ≤ a) && decide (a < x.2.dst + x.2.len)
  let toCome (x : Nat × Elem) : Bool :=
    let o := if x.1 = b.elem then b.off else 0
    decide (b.elem ≤ x.1) && (sharedRange (x.2.dst + o) (x.2.len - o) va 256).isSome
  (List.range 256).all (fun i => covered (va + i)) && !rows.any toCome
    && !b.out.any fun x => x != r && (sharedRange x.dst x.len va 256).isSome

/-- The blocks a request finishes under ZC in a stack (R308): those that it writes whole, and those of which its barge has written the rest before. -/
def Dev.zcFinished (s : Dev) (b : Barge) (r : BargeReq) : List Nat :=
  if !b.zcOn || stackEnd ≤ r.dstDpa then []
  else (zcBlocks r.dstDpa r.len).filter fun blk =>
    (decide (r.dstDpa ≤ blk * 256) && decide (blk * 256 + 256 ≤ r.dstDpa + r.len)) || s.blockWhole b r (r.dst + blk * 256 - r.dstDpa)

/-- The write of a response lands: bytes, tallies, and the writes noted for R549. Where another row of the barge writes the same bytes they are undefined
(R303). -/
def landWrite (k uid : Nat) (r : BargeReq) (data : List Byte) (b : Barge) : Prog := look fun s =>
  let done := s.zcFinished b r
  progs [
    if memPlace r.dstDpa then memWrite r.dstDpa data false else busWrite r.dstDpa data,
    forAll (s.clashes b r) fun x => only (memPlace x.1) (.upd (.undef x.1 x.2)),
    forAll done fun blk => look fun s => zcWrite blk (some (nzWords (s.bytesAt (blk * 256) 256))),
    noteWrite b.cmd r.dstDpa r.len,
    beTally k R.BE_WR_BLOCKS ((blockStarts r.dstDpa r.len).length),
    only (!done.isEmpty) (onBarge k uid fun b => { b with zc := true })]

/-- The virtual address of the first byte of a request's source that reads uncorrectable. -/
def Dev.badVa (s : Dev) (r : BargeReq) : Nat := r.va + ((touched s.bad r.src r.len).foldl min (r.src + r.len) - r.src)

/-- READ_RESPONSE: the data of outstanding request `n` of a barge arrive (R305, R318, R321). A part that has no remedy stops the barge at its element. -/
def readResponseProg (k uid n : Nat) (ans : Answer) : Prog := withBarge k uid fun b => look fun s =>
  match b.out[n]? with
  | none => .skip
  | some r =>
    let drop := onBarge k uid fun b => { b with out := b.out.eraseIdx n }
    let dropped := match b.cancel with | some c => c = 0x30 || c = 0x32 | none => false
    if dropped then progs [drop, beTally k R.BE_RD_BLOCKS 1, beTally k R.BE_DROPPED_RESP 1]
    else progs [
      beTally k R.BE_RD_BLOCKS 1,
      if s.readBad r.src r.len then progs [
        memTouch r.src r.len,
        drop, hitBarge k uid r.elem (.readFailed r.src) (s.badVa r) 0]
      else busRead r.src r.len fun data =>
        match ans with
        | .ok => progs [landWrite k uid r data b, drop]
        | .retried => progs [
            beTally k R.BE_RETRIES 1,
            logE (s.clusterEntry 2 5 0x03 0 (k / 168) (k % 168) 0 b.tag (queueOf b.cmd) r.src),
            onBarge k uid fun b => { b with retried := true },
            landWrite k uid r data b, drop]
        | .writeFailed =>
          let at_ := stackOf (s.spanMode r.dstDpa) r.dstDpa
          let row := rowOfLocal at_.2
          if r.dstDpa < stackEnd && s.canSpare at_.1 row then progs [
            spareRow at_.1 row,
            beTally k R.BE_SPARED 1,
            onBarge k uid fun b => { b with spared := true },
            landWrite k uid r data b, drop]
          else progs [
            only (decide (r.dstDpa < stackEnd)) (spareOut at_.1 row),
            drop, hitBarge k uid r.elem (.writeFailed r.dstDpa) r.dst 1],
      settleBarge k uid]

/-- BARGE_COMPLETE (R301): a draining barge with no response outstanding, that stops for nothing else. A halted one ends OK, or with the highest code of its
retries (R18). -/
def bargeCompleteProg (k uid : Nat) : Prog := withBarge k uid fun b =>
  only (b.st == .draining && b.out.isEmpty && (b.cancel.isSome || b.halted || (b.hit.isNone && !b.preempt)))
    (finishBarge k uid (match b.cancel with
      | some c => c
      | none => statusJoin (if b.retried then 0x03 else 0) (if b.spared then 0x21 else 0)))

/-- Every element of a barge in turn, each requested and answered: what a whole barge moves when nothing keeps it (R298, R299). -/
def runBarge (k uid : Nat) (ok : Barge → Bool) (n : Nat) : Prog := forAll (List.range n) fun _ => withBarge k uid fun b =>
  only (ok b && b.runs) (.seq (issueReq k uid) (withBarge k uid fun b =>
    only (!b.out.isEmpty) (readResponseProg k uid (b.out.length - 1) .ok)))

/-- Requests that a barge can need at most: rows of up to 2^20 bytes in pieces of 256. -/
def Barge.reqs (b : Barge) : Nat :=
  let len := if b.gather then 2 ^ 20 else b.len0
  (b.rows - b.elem) * (len / 256 + len / 65536 + 3)

/-- STRIDED (R298): an active barge of this kind moves the rows from its cursor on. -/
def stridedProg (k uid : Nat) : Prog := withBarge k uid fun b =>
  only (b.op = 0x40) (runBarge k uid (fun b => b.op = 0x40) (b.reqs))

/-- GATHER (R299). -/
def gatherProg (k uid : Nat) : Prog := withBarge k uid fun b =>
  only (b.op = 0x41) (runBarge k uid (fun b => b.op = 0x41) (b.reqs))

end Sys2Proof.Machine
end

