-- ==== Sys2Proof/Machine/ExecBarge.lean ====
section
/-! DEFINITION. The meanings of the commands of barges and locks (R295 to R330). -/

namespace Sys2Proof.Machine

/-- STRIDED (R298): A barge that moves an array of up to four dimensions of rows. -/
def execStrided (k : Fin 2688) (uid : Nat) (s : State) : Host.Outcome State Fault Refusal := s.perform (stridedProg k.val uid)

/-- GATHER (R299): A barge that packs source rectangles named by an entry list into the destination. -/
def execGather (k : Fin 2688) (uid : Nat) (s : State) : Host.Outcome State Fault Refusal := s.perform (gatherProg k.val uid)

/-- BARGE_BIND (R301): A queued barge whose dependencies are complete binds its source and destination lock blocks and becomes ACTIVE. -/
def execBargeBind (k : Fin 2688) (uid : Nat) (s : State) : Host.Outcome State Fault Refusal := s.perform (bargeBindProg k.val uid)

/-- BARGE_REQUEST_GRANT (R304): Each fabric cycle request slots are granted to channels by weighted round robin and the chosen barge issues. -/
def execBargeRequestGrant (k : Fin 2688) (s : State) : Host.Outcome State Fault Refusal := s.perform (bargeRequestGrantProg k.val)

/-- READ_RESPONSE (R305): Read data of an outstanding request arrives and is written to the destination, or dropped after a cancel. -/
def execReadResponse (k : Fin 2688) (uid : Nat) (n : Nat) (ans : Answer) (s : State) : Host.Outcome State Fault Refusal := s.perform (readResponseProg k.val uid n ans)

/-- BARGE_COMPLETE (R301): A draining barge receives its last response, commits or releases its blocks and completes its tag. -/
def execBargeComplete (k : Fin 2688) (uid : Nat) (s : State) : Host.Outcome State Fault Refusal := s.perform (bargeCompleteProg k.val uid)

/-- LOCK_PRODUCER_GRANT (R313): A waiting producer is granted a block from its floor or the pool once one frees. -/
def execLockProducerGrant (onDie : Bool) (at_ : Fin 2688) (n : Fin 1024) (s : State) : Host.Outcome State Fault Refusal := s.perform (lockProducerGrantProg ⟨onDie, at_.val, n.val⟩)

/-- LOCK_CONSUMER_GRANT (R311): A waiting consumer slot receives its next FILLED block once it is committed in order. -/
def execLockConsumerGrant (onDie : Bool) (at_ : Fin 2688) (n : Fin 1024) (slot : Fin 8) (s : State) : Host.Outcome State Fault Refusal := s.perform (lockConsumerGrantProg ⟨onDie, at_.val, n.val⟩ slot.val)

/-- WAITDET_EVALUATE (R316): Every 10 µs the wait detector evaluates the wait-for graph and aborts a command on a persistent cycle. -/
def execWaitdetEvaluate (s : State) : Host.Outcome State Fault Refusal := s.perform waitdetEvaluateProg

/-- LK_CFG_WRITE (R329): Writes a lock's configuration, refused with CFG_ERR in the listed cases. -/
def execLkCfgWrite (d : Fin 16) (i : Fin 11776) (v : BitVec 32) (s : State) : Host.Outcome State Fault Refusal := s.perform (lkCfgWriteProg d.val i.val v.toNat)

/-- CS_POOL_CFG_WRITE (R329): Writes pool base, block size or count, ignored while a pool lock is enabled or when invalid. -/
def execCsPoolCfgWrite (d : Fin 16) (p : Fin 168) (v : BitVec 32) (s : State) : Host.Outcome State Fault Refusal := s.perform (csPoolCfgWriteProg d.val p.val v.toNat)

/-- LK_CTRL_REARM (R317): Writing a REARM bit takes that consumer slot out of DRAIN. -/
def execLkCtrlRearm (d : Fin 16) (i : Fin 11776) (v : BitVec 32) (s : State) : Host.Outcome State Fault Refusal := s.perform (lkCtrlRearmProg d.val i.val v.toNat)

/-- BE_TALLY_CLEAR (R326): Writing 1 clears the barge-engine counters. -/
def execBeTallyClear (d : Fin 16) (p : Fin 168) (s : State) : Host.Outcome State Fault Refusal := s.perform (beTallyClearProg d.val p.val)

end Sys2Proof.Machine
end

