-- ==== Sys2Proof/Machine/Bentin.lean ====
section
/-! DEFINITION. The Bentin protocol (R447 to R451): requests and their replies, and what each operation does (R448, R478, R481, R499, R537, R538, R555, R559). -/

namespace Sys2Proof.Machine

/-! ### Frames (R447) -/

def fType (b : List Byte) : Nat := leAt b 1 1
def fOpcode (b : List Byte) : Nat := leAt b 2 2
def fDevice (b : List Byte) : Nat := leAt b 8 1
def fFlags (b : List Byte) : Nat := leAt b 9 1
def fSession (b : List Byte) : Nat := leAt b 10 1
def fReqId (b : List Byte) : Nat := leAt b 12 4

/-- CHECK over a frame, with its field taken as 0. -/
def frameCheck (b : List Byte) : Nat := crc32 (patchBytes b 28 (List.replicate 4 0))

/-- Whether a frame is taken: its CHECK and LENGTH are right, and its VERSION is the one there is. -/
def frameOk (b : List Byte) : Bool :=
  32 ≤ b.length && b.length ≤ 65536 && b.length % 4 = 0 && leAt b 4 4 = b.length && leAt b 28 4 = frameCheck b && leAt b 0 1 = 1

/-- Whether the management complex answers at all (R526, R536, R573). -/
def Dev.answers (s : Dev) : Bool := s.power.inputOk && !s.aoc.resetLow && !s.aocDead

/-- MGMT_BENTIN of the manifest in force, 1 without one (R531, R532). -/
def Dev.mgmtBentin (s : Dev) : Bool := s.aoc.manifest.isEmpty || bitAt (leAt s.aoc.manifest 2 1) 1

/-- The frame a row names, with its source: a global queue pair, or 65,536 + n. Data ports are down in pen state and in RECOVERY. -/
def Dev.bentinIn (s : Dev) : BFrom → Option (Nat × List Byte)
  | .udp n b => if s.answers && s.mgmtBentin then some (65536 + n.val, b) else none
  | .qp g => if s.answers && !s.penState && !s.recovery then (s.links.bentin.find? fun m => m.1 == g.val) else none

/-- The first message of a queue pair has been taken. -/
def takeFirst : List (Nat × List Byte) → Nat → List (Nat × List Byte)
  | [], _ => []
  | m :: r, g => if m.1 = g then r else m :: takeFirst r g
def takeFrame : BFrom → Prog
  | .udp .. => .skip
  | .qp g => onLinks fun x => { x with bentin := takeFirst x.bentin g.val }

/-- A received frame: one that is not well formed is dropped and counted (R447). -/
def onFrame (f : BFrom) (k : Nat → List Byte → Prog) : Prog := look fun s =>
  match s.bentinIn f with
  | none => .skip
  | some (src, b) => if frameOk b then k src b else progs [takeFrame f, tally .ld0 16 0 R.BENTIN_BAD 1]

/-- A REQUEST that is executed: its source, SESSION, REQ_ID, OPCODE and payload. -/
structure Request where
  src : Nat
  ses : Nat
  id : Nat
  opcode : Nat
  payload : List Byte
  deriving DecidableEq, Repr

/-- Answers a request. -/
def Request.reply (q : Request) (status : Nat) (payload : List Byte) : Prog := answer q.src q.ses q.id q.opcode status 0 payload

/-- A little-endian field of the payload. -/
def Request.u (q : Request) (o n : Nat) : Nat := leAt q.payload o n

/-- Whether the operation is answered at all in pen state (R535) or RECOVERY (R526). -/
def Dev.opcodeOpen (s : Dev) (q : Request) : Bool :=
  if s.recovery then
    q.opcode = 1 || q.opcode = 0x50 || (q.opcode = 0x60 && (if q.u 0 1 = 1 then q.u 1 1 = 1 else match s.aoc.update with
      | some u => u.kind = 1
      | none => true))
  else if s.penState then [1, 2, 0x10, 0x11, 0x50, 0x51, 0x60, 0x61].contains q.opcode
  else true

/-- Whether a frame is a REQUEST to this device that it takes from its source (R451): a MEMBER takes no frames of hosts on queue pairs. -/
def Dev.ownRequest (s : Dev) (src : Nat) (b : List Byte) : Bool :=
  fType b = 0 && fDevice b = s.groupIndex && (65536 ≤ src || s.role ≠ 2 || src = bridgeQp)

/-- A request that an operation waits on its own conditions for is not taken yet. -/
def request (f : BFrom) (is : Request → Bool) (ready : Request → Dev → Bool) (wait run : Request → Prog) : Prog := onFrame f fun src b => look fun s =>
  let q : Request := ⟨src, fSession b, fReqId b, fOpcode b, b.drop 32⟩
  let x := s.ses q.ses
  only (s.ownRequest src b && is q) (match x.reqs.find? fun (e : Nat × Option (List Byte)) => e.1 = q.id with
    | some (_, some r) => progs [takeFrame f, deliver src 1 r]
    | some (_, none) => takeFrame f
    | none =>
      if s.opcodeOpen q && !ready q s then wait q
      else progs [
        takeFrame f,
        .upd (.session q.ses { x with reqs := (x.reqs ++ [(q.id, none)]).drop (x.reqs.length + 1 - reqKeep) }),
        if s.opcodeOpen q then run q else q.reply 0x71 []])

/-- A request for an operation that waits for nothing. -/
def requestNow (f : BFrom) (opcode : Nat) (run : Request → Prog) : Prog :=
  request f (fun q => q.opcode = opcode) (fun _ _ => true) (fun _ => .skip) run

/-! ### IDENTIFY, SESSION_OPEN (R448) -/

def identifyProg (f : BFrom) : Prog := requestNow f 1 fun q => look fun s =>
  q.reply 0 (leBytes 4 (s.reg .aoc 20 0 R.AOC_PART_ID) ++ leBytes 4 (s.reg .aoc 20 0 R.ARITH_CONTRACT_ID) ++ leBytes 4 s.groupStatus)

/-- SESSION_OPEN binds the session to the source; its frames are counted from 0. -/
def sessionOpenProg (f : BFrom) : Prog := requestNow f 2 fun q => progs [
  look fun s =>
    let x := s.ses q.ses
    .upd (.session q.ses { x with
      isOpen := true
      src := q.src
      seq := if x.isOpen then x.seq else 0 }),
  q.reply 0 []]

/-! ### REG_READ, REG_WRITE (R448) -/

/-- The bytes that an access of a list moves: a register's word, 8 bytes of memory. -/
def listLen (a : Nat) : Nat := if isReg a then 4 else 8
/-- Where an access of a list falls. -/
def listAddr (a : Nat) : Nat := if isReg a then a / 4 * 4 else a

/-- What an access of a list meets; pen state reaches the management complex only (R535). -/
def Dev.listReach (s : Dev) (a access : Nat) : Reach :=
  if s.penState && a < aocBase then .bounds else s.reachFor (listAddr a) (listLen a) access

/-- Whether a list of accesses waits for a stack (R498). -/
def Dev.listWaits (s : Dev) (as : List Nat) : Bool := as.any fun a => s.listReach a accRead == .wait

/-- The DPAs of a list whose items have `n` bytes. -/
def Request.dpas (q : Request) (n : Nat) : List Nat := (List.range (q.payload.length / n)).map fun i => q.u (n * i) 8
def Request.listOk (q : Request) (n : Nat) : Bool := q.payload.length % n = 0 && q.payload.length / n ≤ 64

/-- Reads in order; an access that meets R28 ends the list. -/
def readList : List Nat → List Byte → (Nat → List Byte → Prog) → Prog
  | [], acc, done => done 0 acc
  | a :: r, acc, done => look fun s =>
    if s.listReach a accRead == .ok then busRead (listAddr a) (listLen a) fun b => readList r (acc ++ b ++ List.replicate (8 - b.length) 0) done
    else done 0x12 acc

def regReadProg (f : BFrom) : Prog :=
  request f (fun q => q.opcode = 0x10) (fun q s => !q.listOk 8 || !s.listWaits (q.dpas 8))
    (fun q => forAll (q.dpas 8) fun a => wantStacks a 8)
    fun q => if q.listOk 8 then readList (q.dpas 8) [] fun st b => q.reply st b else q.reply 0x71 []

/-- Writes in order; an access that meets R28 ends the list. -/
def writeList : List (Nat × List Byte) → (Nat → Prog) → Prog
  | [], done => done 0
  | (a, b) :: r, done => look fun s =>
    if s.listReach a accWrite == .ok then progs [busWrite (listAddr a) (b.take (listLen a)), writeList r done]
    else done 0x12

/-- REG_WRITE: pairs of a DPA and a value, applied in order. -/
def regWriteProg (f : BFrom) : Prog :=
  request f (fun q => q.opcode = 0x11) (fun q s => !q.listOk 16 || !s.listWaits (q.dpas 16))
    (fun q => forAll (q.dpas 16) fun a => wantStacks a 8)
    fun q =>
      if q.listOk 16 then writeList ((List.range (q.payload.length / 16)).map fun i => (q.u (16 * i) 8, sliceBytes q.payload (16 * i + 8) 8)) fun st => q.reply st []
      else q.reply 0x71 []

/-! ### Queues (R478) -/

/-- Whether a queue exists and its drover is on. -/
def Dev.queueOn (s : Dev) (q : Nat) : Bool := decide (q < 4096) && s.domOn (q / 256 * 4)

/-- DPA of ring entry number n of a queue. -/
def Dev.ringEntry (s : Dev) (q n : Nat) : Nat := s.qbase q R.Q_RING_LO + n % 2 ^ qSize s q * 64

/-- Room for entries in a queue's ring. -/
def Dev.qRoom (s : Dev) (q : Nat) : Nat := if sizeOk (qSize s q) then 2 ^ qSize s q - s.qWaiting q else 0

/-- The addresses that a QUEUE_SUBMIT writes, if it may. -/
def Dev.submitTo (s : Dev) (r : Request) : List Nat :=
  let q := r.u 0 2
  let n := r.u 2 2
  if 1 ≤ n && n ≤ 64 && r.payload.length = 4 + 64 * n && s.queueOn q && decide (n ≤ s.qRoom q) then
    (List.range n).map fun i => s.ringEntry q ((s.qreg q R.Q_PROD + i) % 2 ^ 32)
  else []

def queueSubmitProg (f : BFrom) : Prog :=
  request f (fun r => r.opcode = 0x20) (fun r s => (s.submitTo r).all fun a => s.reachRange a 64 != .wait)
    (fun r => look fun s => forAll (s.submitTo r) fun a => wantStacks a 64)
    fun r => look fun s =>
      let q := r.u 0 2
      let n := r.u 2 2
      let dests := s.submitTo r
      if !(1 ≤ n && n ≤ 64 && r.payload.length = 4 + 64 * n) then r.reply 0x71 []
      else if !s.queueOn q then r.reply 0x12 []
      else if dests.isEmpty then r.reply 0x40 []
      else if dests.any fun a => s.reachRange a 64 != .ok then r.reply 0x12 []
      else progs [
        forAll ((List.range n).zip dests) fun p => busWrite p.2 (sliceBytes r.payload (4 + 64 * p.1) 64),
        regWrite .q (q / 256) (q % 256) R.Q_PROD ((s.qreg q R.Q_PROD + n) % 2 ^ 32),
        r.reply 0 (leBytes 4 ((s.queue q).seq + s.qWaiting q))]

/-- A request whose payload is a queue and no more than `n` bytes. -/
def queueRequest (f : BFrom) (opcode n : Nat) (run : Request → Nat → Prog) : Prog := requestNow f opcode fun r => look fun s =>
  if r.payload.length ≠ n then r.reply 0x71 []
  else if !s.queueOn (r.u 0 2) then r.reply 0x12 []
  else run r (r.u 0 2)

def queueCancelProg (f : BFrom) : Prog := queueRequest f 0x21 4 fun r q => look fun s =>
  if r.u 2 2 = 0xFFFF then progs [cancelQueue q, r.reply 0 []]
  else match (s.cmdsOf q).find? fun c => c.ctag == r.u 2 2 with
    | some c => progs [cancelCmd c.key, r.reply 0 []]
    | none => r.reply 0x12 []
def queuePreemptProg (f : BFrom) : Prog := queueRequest f 0x22 4 fun r q => progs [preemptQueue q, r.reply 0 []]
def queueResumeProg (f : BFrom) : Prog := queueRequest f 0x23 4 fun r q => progs [resumeQueue q, r.reply 0 []]

/-! ### MAILBOX_SEND (R479, R481), ENVELOPE_SET (R499, R539) -/

/-- The identity stamped on a send that came in a frame (R479). -/
def Dev.sendIdentity (s : Dev) (q : Request) : Nat :=
  if q.src < 65536 then 2 * 2 ^ 30 + qPort (s.qp q.src).entry * 2 ^ 24 + q.src else 3 * 2 ^ 30 + q.ses

/-- MAILBOX_SEND: answered once its outcome stands. -/
def mailboxSendProg (f : BFrom) : Prog := requestNow f 0x30 fun q => look fun s =>
  if q.payload.length ≠ 20 then q.reply 0x71 []
  else if 64 ≤ q.u 0 1 then q.reply 0x12 []
  else mbSend (q.u 0 1) (s.sendIdentity q) (sliceBytes q.payload 1 16) (some ⟨q.ses, q.id, q.src⟩)

/-- ENVELOPE_SET; before READY the request is held (R539). -/
def envelopeSetProg (f : BFrom) : Prog := requestNow f 0x40 fun q => look fun s =>
  if q.payload.length ≠ 4 then q.reply 0x71 []
  else if !s.bootReady then onAoc fun a => { a with envHeld := s.aoc.envHeld ++ [(q.src, q.ses, q.id, q.u 0 1)] }
  else envAnswer q.src q.ses q.id (q.u 0 1)

/-! ### LOG_READ (R555), DUMP_READ (R559) -/

/-- SEQ of the oldest entry held. -/
def Dev.logOldest (s : Dev) : Nat := s.logNext - s.log.length

/-- The bytes of up to `count` entries from SEQ `first` on. -/
def Dev.logBytes (s : Dev) (first count : Nat) : List Byte :=
  let from_ := max first s.logOldest
  ((List.range s.log.length).zip s.log).flatMap fun (e : Nat × LogEntry) =>
    let n := s.logOldest + e.1
    if from_ ≤ n && n < from_ + count then e.2.bytes n else []

def logReadProg (f : BFrom) : Prog := requestNow f 0x50 fun q => look fun s =>
  let n := q.u 4 2
  if q.payload.length ≠ 8 || n < 1 || 2000 < n then q.reply 0x71 []
  else q.reply 0 (leBytes 4 s.logOldest ++ leBytes 4 s.logNext ++ s.logBytes (q.u 0 4) n)

/-- DUMP_READ: only in pen state with a valid dump. -/
def dumpReadProg (f : BFrom) : Prog := requestNow f 0x51 fun q => look fun s =>
  let o := q.u 0 4
  let n := q.u 4 4
  if q.payload.length ≠ 8 then q.reply 0x71 []
  else if !s.penState || s.fld .rcv 20 0 R.DUMP_STATUS 31 31 = 0 || 65000 < n || 2 ^ 32 < o + n then q.reply 0x12 []
  else q.reply 0 ((List.range n).map fun i => s.byteAt (dumpAddr (o + i)))

/-! ### FW_UPDATE (R537) -/

/-- The slot of a KIND that is in force. -/
def Dev.forceSlot (s : Dev) (kind : Nat) : Option Nat := (s.aoc.inForce.find? fun x => x.1 == kind).map (·.2)

/-- FLASH_WP protects STAGE1 and OWNER_CERT. -/
def Dev.wpHolds (s : Dev) (kind : Nat) : Bool := s.aoc.flashWp && (kind = 1 || kind = 4)

/-- Whether another session holds an update. -/
def Dev.updateElse (s : Dev) (ses : Nat) : Bool := match s.aoc.update with
  | some u => u.session ≠ ses
  | none => false

/-- A sub-operation of FW_UPDATE; FLASH_WP_N is read at every one (R572). -/
def fwRequest (f : BFrom) (wp : Bool) (sub : Nat) (run : Request → Prog) : Prog :=
  request f (fun q => q.opcode = 0x60 && q.u 0 1 = sub) (fun _ _ => true) (fun _ => .skip) fun q =>
    progs [onAoc fun a => { a with flashWp := wp }, run q]

/-- A sub-operation on the update that its session holds. -/
def fwHeld (f : BFrom) (wp : Bool) (sub : Nat) (run : Request → FwUpdate → Prog) : Prog := fwRequest f wp sub fun q => look fun s =>
  match s.aoc.update with
  | some u => if u.session = q.ses then run q u else q.reply 0x11 []
  | none => q.reply 0x11 []

def fwUpdateBeginProg (f : BFrom) (wp : Bool) : Prog := fwRequest f wp 1 fun q => look fun s =>
  let kind := q.u 1 1
  let sel := q.u 2 1
  let len := q.u 3 4
  let open_ (slot : Nat) : Prog := progs [onAoc fun a => { a with update := some ⟨q.ses, kind, slot, len, []⟩ }, q.reply 0 []]
  if q.payload.length ≠ 8 then q.reply 0x71 []
  else if kind = 5 then
    if sel ≠ 0 || len ≠ 12800 then q.reply 0x71 []
    else if s.updateElse q.ses then q.reply 0x11 []
    else open_ 0
  else if kind = 0 || 5 < kind || 2 < sel then q.reply 0x71 []
  else
    let slot := if sel = 2 then (match s.forceSlot kind with
      | some i => 1 - i
      | none => 0) else sel
    match slotOf kind slot with
    | none => q.reply 0x71 []
    | some x =>
      if x.2 < len then q.reply 0x40 []
      else if s.forceSlot kind == some slot || s.updateElse q.ses || s.wpHolds kind then q.reply 0x11 []
      else open_ slot

/-- DATA: the padding of the frame that would pass LENGTH is no data. -/
def fwUpdateDataProg (f : BFrom) (wp : Bool) : Prog := fwHeld f wp 2 fun q u => look fun s =>
  let o := q.u 1 4
  let d := (q.payload.drop 5).take 65024
  let isOver := o + d.length - u.len
  if q.payload.length < 5 || 65024 + 8 < q.payload.length then q.reply 0x71 []
  else if 3 < isOver || u.len < o then q.reply 0x12 []
  else if s.wpHolds u.kind then q.reply 0x11 []
  else
    let d := d.take (d.length - isOver)
    progs [
      (match slotOf u.kind u.slot with
      | some x => flashWrite (x.1 + o) d
      | none => onAoc fun a => { a with update := some { u with
          buf := ((List.range d.length).zip d).foldl (fun l p => sput l (o + p.1) p.2) u.buf } }),
      q.reply 0 []]

/-- The update ends; `erase` erases its slot, unless the flash device itself protects it (R572). -/
def fwEnd (u : FwUpdate) (erase : Bool) : Prog := look fun s => progs [
  onAoc fun a => { a with update := none },
  match slotOf u.kind u.slot with
  | some x => only (erase && !s.wpHolds u.kind) (flashErase x.1 x.2)
  | none => .skip]

/-- Bytes of the update buffer; those not written read 0. -/
def FwUpdate.rd (u : FwUpdate) (a n : Nat) : List Byte := (List.range n).map fun i => sget (fun _ => (0 : Byte)) u.buf (a + i)

/-- COMMIT: a TAMPER_CLEAR raises CNT_TAMPER_CLEAR (R534). -/
def fwUpdateCommitProg (f : BFrom) (wp : Bool) : Prog := fwHeld f wp 3 fun q u => look fun s =>
  if u.kind = 5 then
    if s.objValid 5 12800 u.rd s.owner then progs [fwEnd u false, raiseCnt 6 (leAt (u.rd 8 4) 0 4), q.reply 0 []]
    else progs [fwEnd u false, q.reply 0x42 []]
  else if s.slotValid u.kind u.slot s.owner (fun b => u.kind ≠ 3 || manifestOk s.aoc.straps b) then progs [fwEnd u false, q.reply 0 []]
  else progs [fwEnd u true, q.reply 0x42 []]

def fwUpdateAbortProg (f : BFrom) (wp : Bool) : Prog := fwHeld f wp 4 fun q u => progs [fwEnd u true, q.reply 0 []]

/-! ### ATTEST (R538) -/

/-- SHA-384 of the header of the object in force of a KIND, 0 when none. -/
def Dev.measure (s : Dev) (kind : Nat) : BitVec 384 := match s.forceSlot kind with
  | some i => Config.sha384 (s.slotRd kind i 0 256)
  | none => 0

/-- Bytes 0 to 655 of the report over a nonce. -/
def Dev.report (s : Dev) (nonce : List Byte) : List Byte :=
  let st := s.reg .boot 20 0 R.BOOT_STATUS
  let idx := s.fld .boot 20 0 R.AOC_STATUS 0 0
  let sec := s.bootRead R.SEC_STATUS
  let m := s.measure 1
  leBytes 4 0x52544148 ++ leBytes 1 1 ++ leBytes 1 idx ++ leBytes 1 (if s.bootReady then 0 else if s.penState then 1 else 2)
    ++ leBytes 1 (bits st 15 8) ++ leBytes 4 (s.reg .aoc 20 0 R.AOC_PART_ID) ++ leBytes 4 (s.reg .aoc 20 0 R.ARITH_CONTRACT_ID)
    ++ beBytes 48 Config.deviceId.toNat ++ nonce ++ leBytes 8 s.time
    ++ ((List.range 8).flatMap fun i => leBytes 4 (s.cnt i))
    ++ leBytes 4 (sec % 4 + s.fld .boot 20 0 R.AOC_STATUS 2 2 * 4 + bits sec 3 3 * 8)
    ++ leBytes 4 ((s.aoc.fenced.filter fun (e : Nat × Nat) => e.2 = 2).length % 256)
    ++ beBytes 48 m.toNat ++ beBytes 48 (s.measure 2).toNat ++ beBytes 48 (s.measure 3).toNat ++ beBytes 48 (s.measure 4).toNat
    ++ beBytes 97 (Config.akPub m).toNat ++ List.replicate 15 0 ++ beBytes 96 (Config.akCert m idx).toNat
    ++ beBytes 97 (Config.dikPub idx).toNat ++ List.replicate 15 0

def attestProg (f : BFrom) : Prog := requestNow f 0x61 fun q => look fun s =>
  if q.payload.length ≠ 32 then q.reply 0x71 []
  else if s.latched || !s.aoc.derived then q.reply 0x11 []
  else
    let r := s.report q.payload
    q.reply 0 (r ++ beBytes 96 (Config.attestSig (s.measure 1) r).toNat)

/-! ### Other opcodes, relaying (R448, R451) -/

/-- The opcodes of R448. -/
def bentinOps : List Nat := [1, 2, 0x10, 0x11, 0x20, 0x21, 0x22, 0x23, 0x30, 0x40, 0x50, 0x51, 0x60, 0x61]

/-- BENTIN_OTHER_OPCODE, which an FW_UPDATE without a sub-operation of R537 draws too. -/
def bentinOtherOpcodeProg (f : BFrom) : Prog :=
  request f (fun q => !bentinOps.contains q.opcode || (q.opcode = 0x60 && (q.u 0 1 = 0 || 4 < q.u 0 1))) (fun _ _ => true) (fun _ => .skip)
    fun q => q.reply 0x71 []

/-- A frame with a byte of its header changed and its CHECK made anew. -/
def reframe (b : List Byte) (o v : Nat) : List Byte :=
  let b := patchBytes b o (leBytes 1 v)
  patchBytes b 28 (leBytes 4 (frameCheck b))

/-- BENTIN_RELAY: the bridge forwards a request to its member, and a member's frame to the session it names; a member that cannot be reached draws
INTERNAL with NO_ROUTE. A frame that no rule gives a way is dropped. -/
def bentinRelayProg (f : BFrom) : Prog := onFrame f fun src b => look fun s =>
  let k := fDevice b
  let x := s.ses (fSession b)
  if s.ownRequest src b then .skip
  else if s.role = 2 then takeFrame f
  else if fType b = 0 && k ≠ s.groupIndex then
    if s.role = 1 && decide (k < 16) && s.memberUp k then progs [takeFrame f, .upd (.send (bridgeQp + k) (reframe b 9 (fFlags b ||| 1)))]
    else progs [
      takeFrame f,
      .upd (.send src (bentinFrame 1 (fOpcode b) s.groupIndex 2 (fSession b) (fReqId b) 0x7F x.seq [])),
      .upd (.session (fSession b) { x with seq := x.seq + 1 })]
  else if fType b = 0 then takeFrame f
  else progs [takeFrame f, only (s.role = 1 && decide (bridgeQp < src) && decide (src < 16384) && x.isOpen) (.upd (.send x.src b))]

end Sys2Proof.Machine
end

