-- ==== Sys2Proof/Machine/ExecBentin.lean ====
section
/-! DEFINITION. The meanings of the commands of the Bentin protocol (R447 to R451). -/

namespace Sys2Proof.Machine

/-- IDENTIFY (R448): Replies with part, contract and group identity. -/
def execIdentify (f : BFrom) (s : State) : Host.Outcome State Fault Refusal := s.perform (identifyProg f)

/-- SESSION_OPEN (R448): Binds a session to the source of the frame. -/
def execSessionOpen (f : BFrom) (s : State) : Host.Outcome State Fault Refusal := s.perform (sessionOpenProg f)

/-- REG_READ (R448): Reads up to 64 DPAs and replies with their values. -/
def execRegRead (f : BFrom) (s : State) : Host.Outcome State Fault Refusal := s.perform (regReadProg f)

/-- REG_WRITE (R448): Writes up to 64 DPA and value pairs in order, stopping at BOUNDS. -/
def execRegWrite (f : BFrom) (s : State) : Host.Outcome State Fault Refusal := s.perform (regWriteProg f)

/-- QUEUE_SUBMIT (R478): Appends command entries to a queue's ring and advances PROD. -/
def execQueueSubmit (f : BFrom) (s : State) : Host.Outcome State Fault Refusal := s.perform (queueSubmitProg f)

/-- QUEUE_CANCEL (R478): Cancels one command by CTAG or the whole queue. -/
def execQueueCancel (f : BFrom) (s : State) : Host.Outcome State Fault Refusal := s.perform (queueCancelProg f)

/-- QUEUE_PREEMPT (R470): Pre-empts every running command of a queue. -/
def execQueuePreempt (f : BFrom) (s : State) : Host.Outcome State Fault Refusal := s.perform (queuePreemptProg f)

/-- QUEUE_RESUME (R470): Resumes a queue's commands parked by request. -/
def execQueueResume (f : BFrom) (s : State) : Host.Outcome State Fault Refusal := s.perform (queueResumeProg f)

/-- MAILBOX_SEND (R481): Bentin send of a 16-byte payload to a mailbox, answered on drain or timeout. -/
def execMailboxSend (f : BFrom) (s : State) : Host.Outcome State Fault Refusal := s.perform (mailboxSendProg f)

/-- ENVELOPE_SET (R499): Requests a power envelope, refused above MAX. -/
def execEnvelopeSet (f : BFrom) (s : State) : Host.Outcome State Fault Refusal := s.perform (envelopeSetProg f)

/-- LOG_READ (R555): Returns event-log entries from a sequence number. -/
def execLogRead (f : BFrom) (s : State) : Host.Outcome State Fault Refusal := s.perform (logReadProg f)

/-- DUMP_READ (R559): Returns crash dump bytes while in pen state with a valid dump. -/
def execDumpRead (f : BFrom) (s : State) : Host.Outcome State Fault Refusal := s.perform (dumpReadProg f)

/-- FW_UPDATE_BEGIN (R537): Opens an update of a signed object into a flash slot or the tamper-clear buffer. -/
def execFwUpdateBegin (f : BFrom) (wp : Bool) (s : State) : Host.Outcome State Fault Refusal := s.perform (fwUpdateBeginProg f wp)

/-- FW_UPDATE_DATA (R537): Writes data of an open update at an offset. -/
def execFwUpdateData (f : BFrom) (wp : Bool) (s : State) : Host.Outcome State Fault Refusal := s.perform (fwUpdateDataProg f wp)

/-- FW_UPDATE_COMMIT (R537): Verifies the updated object, erasing the slot on failure or raising CNT_TAMPER_CLEAR for a tamper clear. -/
def execFwUpdateCommit (f : BFrom) (wp : Bool) (s : State) : Host.Outcome State Fault Refusal := s.perform (fwUpdateCommitProg f wp)

/-- FW_UPDATE_ABORT (R537): Abandons an open update and erases its slot. -/
def execFwUpdateAbort (f : BFrom) (wp : Bool) (s : State) : Host.Outcome State Fault Refusal := s.perform (fwUpdateAbortProg f wp)

/-- ATTEST (R538): Returns a signed attestation report over a nonce. -/
def execAttest (f : BFrom) (s : State) : Host.Outcome State Fault Refusal := s.perform (attestProg f)

/-- BENTIN_RELAY (R451): The bridge forwards a request to a member, or a member's frame to its session. -/
def execBentinRelay (f : BFrom) (s : State) : Host.Outcome State Fault Refusal := s.perform (bentinRelayProg f)

/-- BENTIN_OTHER_OPCODE (R448): A Bentin REQUEST with an opcode that the table does not list draws a REPLY with ILLEGAL_DESCRIPTOR. -/
def execBentinOtherOpcode (f : BFrom) (s : State) : Host.Outcome State Fault Refusal := s.perform (bentinOtherOpcodeProg f)

end Sys2Proof.Machine
end

