-- ==== Sys2Proof/Machine/ExecBoot.lean ====
section
/-! DEFINITION. The meanings of the commands of start-up, security and recovery (R516 to R561). -/

namespace Sys2Proof.Machine

/-- INPUT_OK_SET (R488): After the input stays at 40.0 V for 10 ms INPUT_OK sets and start-up begins. -/
def execInputOkSet (s : State) : Host.Outcome State Fault Refusal := s.perform inputOkSetProg

/-- START_UP (R516): Runs the start-up steps from standby through self-test to READY or pen state. -/
def execStartUp (env : BootEnv) (s : State) : Host.Outcome State Fault Refusal := s.perform (startUpProg env)

/-- STARTUP_STEP_TIMEOUT (R516): A start-up step exceeding its limit has failed. -/
def execStartupStepTimeout (n : Fin 8) (s : State) : Host.Outcome State Fault Refusal := s.perform (startupStepTimeoutProg n.val)

/-- BOOT_CTRL_WRITE (R540): Writing the key starts a new start-up at step 2. -/
def execBootCtrlWrite (v : BitVec 32) (s : State) : Host.Outcome State Fault Refusal := s.perform (bootCtrlWriteProg v.toNat)

/-- TAMPER_ALARM (R533): A tamper condition raises an alarm of its input's class A, B or C. -/
def execTamperAlarm (alarms : Fin 32) (raw : Fin 32) (s : State) : Host.Outcome State Fault Refusal := s.perform (tamperAlarmProg alarms.val raw.val)

/-- AOC_TAKEOVER (R536): The standby AOC takes over when the AOC fails or its heartbeat stops for 64 cycles. -/
def execAocTakeover (s : State) : Host.Outcome State Fault Refusal := s.perform aocTakeoverProg

/-- HANG_WATCHDOG_EXPIRY (R543): An instruction or barge with no progress for WATCHDOG_MS is stopped with INTERNAL. -/
def execHangWatchdogExpiry (k : Fin 2688) (tag : Fin 4096) (s : State) : Host.Outcome State Fault Refusal := s.perform (hangWatchdogExpiryProg k.val tag.val)

/-- COMMAND_RECOVERY (R545): A recoverable fault in a replayable command stops it, cancels tags, rewinds locks and replays it. -/
def execCommandRecovery (s : State) : Host.Outcome State Fault Refusal := s.perform commandRecoveryProg

/-- CLUSTER_SPARE (R548): Fences a failing cluster, wakes a spare, copies configuration, remaps leaves and runs stage entries. -/
def execClusterSpare (d : Fin 16) (l : Fin 160) (s : State) : Host.Outcome State Fault Refusal := s.perform (clusterSpareProg d.val l.val)

/-- FATAL_ERROR (R558): Stops all dispatch, writes the crash dump and enters pen state with reason FATAL. -/
def execFatalError (cause : Fin 256) (survives : Bool) (s : State) : Host.Outcome State Fault Refusal := s.perform (fatalErrorProg cause.val survives)

/-- TALLY_EXPORT (R561): Every PERIOD_MS the firmware exports selected tallies into the export ring. -/
def execTallyExport (s : State) : Host.Outcome State Fault Refusal := s.perform tallyExportProg

/-- RESET_ASSERT (R573): RESET_N low for 10 µs halts units, turns domains off and clears claims. -/
def execResetAssert (s : State) : Host.Outcome State Fault Refusal := s.perform resetAssertProg

/-- RESET_RELEASE (R573): Release of RESET_N starts start-up at step 2 once domains are off. -/
def execResetRelease (s : State) : Host.Outcome State Fault Refusal := s.perform resetReleaseProg

/-- STANDBY_AOC_FAILURE (R536): The standby AOC fails, so that with both AOCs failed the module stays in standby, drives ALERT_N and answers nothing. -/
def execStandbyAocFailure (s : State) : Host.Outcome State Fault Refusal := s.perform standbyAocFailureProg

end Sys2Proof.Machine
end

