-- ==== Sys2Proof/Machine/Coder.lean ====
section
/-! DEFINITION. The coder cores (R205 to R224, R229): one chunk of RANS_ENC or RANS_DEC. -/

namespace Sys2Proof.Machine

/-- The target of coder `n`: CC0 to CC3, or CCALL for 4. -/
def ccTarget (n : Nat) : Nat := 0x20 + n

/-- The job running on a coder target, not stopping for pre-emption. -/
def Cluster.ccOn (c : Cluster) (op n : Nat) : Option Entry :=
  c.entries.find? fun e => e.stage == .running && e.op = op && e.target = ccTarget n && !c.preempting.contains e.cmd

/-- A tally of the coder block. -/
def ccTally (k off n : Nat) : Prog := tally .cc (k / 168) (k % 168) off n

namespace TCtx

/-- Bytes of a symbol. -/
def symSize (x : TCtx) : Nat := if x.d.symFmt = 1 then 2 else 1
/-- The classes of symbols `first` to `first + n` (R206): from the class tensor, or the index modulo P. -/
def classes (x : TCtx) (first n : Nat) : List Nat :=
  if x.d.cycleMode then (List.range n).map fun i => (first + i) % x.d.cycleP
  else (x.rd (argVa x.a 8 + first) n).map (·.toNat)
/-- The class bytes of a range of symbols. -/
def classRange (x : TCtx) (first n : Nat) : List (Nat × Nat) := if x.d.cycleMode then [] else [(argVa x.a 8 + first, n)]
/-- The symbols of a range (R214). -/
def symbols (x : TCtx) (first n : Nat) : List Int :=
  (List.range n).map fun i =>
    let v := leNat (x.rd (argVa x.a 0 + (first + i) * x.symSize) x.symSize)
    if x.d.symFmt = 1 then sext 16 v else sext 8 v

end TCtx

/-- The directory and its padding (R220): chunk offsets from the lengths of the chunks. -/
def chunkOffsets : Nat → List Nat → List Nat
  | _, [] => []
  | o, n :: r => o :: chunkOffsets (o + n) r

/-- The bytes before the first chunk: header and padded directory (R220). -/
def recHead (chunks : Nat) : Nat := 64 + roundUp (4 * chunks) 8

/-- The record of RANS_ENC (R220): header with its CRC, directory, chunks. -/
def recordOf (x : TCtx) (b : CtBank) (epoch : Nat) (tag : List Byte) (chunks : List (List Byte)) : List Byte :=
  let n := chunks.length
  let offs := chunkOffsets (recHead n) (chunks.map (·.length))
  let dir := offs.flatMap (leBytes 4)
  let body := dir ++ List.replicate (roundUp (4 * n) 8 - dir.length) 0 ++ chunks.flatMap id
  let head (crc : Nat) : List Byte :=
    leBytes 4 0x52444348 ++ leBytes 1 1 ++ leBytes 1 1 ++ leBytes 1 x.d.kind ++ leBytes 1 (x.d.w3 % 2) ++ leBytes 8 b.modelHash
      ++ leBytes 4 b.modelId ++ leBytes 2 epoch ++ leBytes 1 b.tset ++ leBytes 1 0 ++ leBytes 2 n ++ leBytes 2 0
      ++ leBytes 4 x.d.chunkSyms ++ leBytes 4 x.d.count32 ++ leBytes 4 (leAt tag 0 4) ++ leBytes 4 (leAt tag 4 4)
      ++ leBytes 4 (64 + body.length) ++ leBytes 8 (leAt tag 8 8) ++ leBytes 4 crc ++ leBytes 4 0
  head (crc32 (head 0 ++ body)) ++ body

/-- The epoch a coder job captured. -/
def Entry.epoch (e : Entry) : Nat := match e.captured with | c :: _ => c.epoch | [] => 0

/-- RANS_ENC (R212, R218 to R222): the next chunk; after the last one the directory and the header. -/
def ransEncProg (k n : Nat) (parity : Bool) : Prog := look fun s =>
  match (s.cl k).ccOn 0x21 n with
  | none => .skip
  | some e =>
    if parity then tableParity k e.uid
    else
      let x := s.ctx k e
      let c := e.run.units
      let total := ceilDiv x.d.count32 x.d.chunkSyms
      let first := c * x.d.chunkSyms
      let m := min x.d.chunkSyms (x.d.count32 - first)
      let rec_ := argVa e.args 0x10
      let limit := bits (argQ e.args 0x18) 31 0
      let last := decide (c + 1 = total)
      unitAccess k e.uid e.atStart ([(argVa e.args 0 + first * x.symSize, m * x.symSize)] ++ x.classRange first m
          ++ (if last then [(argVa e.args 0x20, 16)] else [])) [(rec_, limit)] (look fun s =>
        let x := s.ctx k e
        let b := s.ctBank k e
        let cs := x.classes first m
        if cs.any (fun v => b.k ≤ v) then dataConditionAt k e.uid 4 24 e.atStart none
        else
          let r := encChunk b x.d.lanesLog2 first last ((x.symbols first m).zip cs)
          let chunks := e.run.chunks ++ [r.1]
          let off := recHead total + sumNat (e.run.chunks.map (·.length))
          if limit < off + r.1.length then endEntry k e.uid 0x40 0 0 false
          else
            let whole := recordOf x b e.epoch (x.rd (argVa e.args 0x20) 16) chunks
            progs [
              cmdWrites k e.cmd [(rec_ + off, r.1)],
              ccTally k R.CC_SYMS_ENC m, ccTally k R.CC_ESCAPES r.2,
              onRun k e.uid fun q => { q with chunks := chunks, aux0 := q.aux0 + r.2 },
              only last (progs [
                cmdWrites k e.cmd [(rec_ + 64, (whole.take (recHead total)).drop 64), (rec_, whole.take 64)],
                ccTally k R.CC_BYTES_OUT whole.length,
                onRun k e.uid fun q => { q with aux1 := whole.length }]),
              unitDone k e total])

/-- The checks of R223 on a staged record. -/
def recordOk (x : TCtx) (b : CtBank) (epoch : Nat) (r : List Byte) : Bool :=
  let rb := leAt r 44 4
  let cc := leAt r 24 2
  let cs := leAt r 28 4
  let offs := (List.range cc).map fun i => leAt r (64 + 4 * i) 4
  leAt r 0 4 = 0x52444348 && leAt r 4 1 = 1 && leAt r 5 1 = 1
    && leAt r 8 8 = b.modelHash && leAt r 16 4 = b.modelId && leAt r 22 1 = b.tset
    && (!bitAt x.d.w3 1 || leAt r 20 2 = epoch)
    && (!bitAt x.d.w3 2 || leAt r 56 4 = crc32 (patchBytes (r.take rb) 56 [0, 0, 0, 0]))
    && leAt r 32 4 = x.d.count32 && within cs 1 65536 && cc = ceilDiv x.d.count32 cs
    && (offs.zip (offs.drop 1)).all (fun p => decide (p.1 < p.2))
    && offs.all (fun o => decide (recHead cc ≤ o) && o % 8 = 0 && decide (o + 16 ≤ rb)
      && decide (o + 16 + 4 * 2 ^ leAt r (o + 8) 1 + leAt r o 4 ≤ rb))

/-- RANS_DEC (R223, R224): the record is checked before its first chunk; then the next chunk is decoded, a damaged one to zeros; after the
last one the chunk status bitmap. -/
def ransDecProg (k n : Nat) (parity : Bool) : Prog := look fun s =>
  match (s.cl k).ccOn 0x22 n with
  | none => .skip
  | some e =>
    if parity then tableParity k e.uid
    else
      let x := s.ctx k e
      let rec_ := argVa e.args 0x10
      let fits := s.recFits k x
      let len := if fits then x.recLen else 64
      unitAccess k e.uid e.atStart [(rec_, len)] [] (look fun s =>
        let x := s.ctx k e
        let b := s.ctBank k e
        let r := x.rd rec_ len
        if e.run.units = 0 && !(fits && recordOk x b e.epoch r) then
          progs [ccTally k R.CC_CHECK_FAIL 1, faultRecord k e 0x42 0 e.atStart 0 none false, endEntry k e.uid 0x42 0 0 false]
        else
          let c := e.run.units
          let cc := leAt r 24 2
          let cs := leAt r 28 4
          let first := c * cs
          let m := min cs (x.d.count32 - first)
          let o := leAt r (64 + 4 * c) 4
          let ch := sliceBytes r o (16 + 4 * 2 ^ min 8 (leAt r (o + 8) 1) + leAt r o 4)
          let out := argVa e.args 0 + first * x.symSize
          let bm := argVa e.args 0x28
          let last := decide (c + 1 = cc)
          unitAccess k e.uid e.atStart (x.classRange first m) ([(out, m * x.symSize)] ++ (if last then [(bm, ceilDiv cc 8)] else [])) (look fun s =>
            let x := s.ctx k e
            let cls := x.classes first m
            if cls.any (fun v => b.k ≤ v) then dataConditionAt k e.uid 4 24 e.atStart none
            else
              let d := decChunk b (x.d.symFmt = 1) ch c cs x.d.count32 cc cls
              let syms := match d with | some q => q.1 | none => List.replicate m 0
              let esc := match d with | some q => q.2 | none => 0
              let bad := d.isNone
              let marks := e.run.chunks ++ [[if bad then 1 else 0]]
              let bitmap := (List.range (ceilDiv cc 8)).map fun j => BitVec.ofNat 8
                (sumNat ((List.range 8).map fun i => if marks.getD (8 * j + i) [] == [1] then 2 ^ i else 0))
              progs [
                cmdWrites k e.cmd [(out, syms.flatMap fun v => leBytes x.symSize (wrapN (8 * x.symSize) v))],
                ccTally k R.CC_SYMS_DEC (if bad then 0 else m), ccTally k R.CC_ESCAPES esc, ccTally k R.CC_CHUNKS_DAMAGED (b2n bad),
                onRun k e.uid fun q => { q with
                  chunks := marks
                  aux0 := q.aux0 + esc
                  aux1 := q.aux1 + b2n bad
                  status := if bad then statusJoin q.status 0x50 else q.status },
                only last (progs [cmdWrites k e.cmd [(bm, bitmap)], ccTally k R.CC_BYTES_IN len]),
                unitDone k e cc]))

end Sys2Proof.Machine
end

