-- ==== Sys2Proof/Machine/ExecFunctions.lean ====
section
/-! DEFINITION. The meanings of the commands of the special-function and entropy-coder cores (R170 to R231). -/

namespace Sys2Proof.Machine

/-- SF_EVAL (R170): Evaluates a function program over elements, then the epilogue from the bias step. -/
def execSfEval (k : Fin 2688) (n : Fin 2) (parity : Bool) (s : State) : Host.Outcome State Fault Refusal := s.performPosting (sfEvalProg k.val n.val parity)

/-- NORM_STATS (R187): Writes exact sum and sum-of-squares statistics records for each row segment. -/
def execNormStats (k : Fin 2688) (n : Fin 2) (s : State) : Host.Outcome State Fault Refusal := s.performPosting (normStatsProg k.val n.val)

/-- NORM_APPLY (R188): Combines statistics records and normalises each element of a row, then continues the epilogue. -/
def execNormApply (k : Fin 2688) (n : Fin 2) (parity : Bool) (s : State) : Host.Outcome State Fault Refusal := s.performPosting (normApplyProg k.val n.val parity)

/-- SOFTMAX (R191): Computes a soft maximum of each row with masking and writes codes and a row record. -/
def execSoftmax (k : Fin 2688) (n : Fin 2) (s : State) : Host.Outcome State Fault Refusal := s.performPosting (softmaxProg k.val n.val)

/-- TB_BUILD (R193): Builds 64 frequency arrays from a class list using a distribution function slot. -/
def execTbBuild (k : Fin 2688) (n : Fin 2) (parity : Bool) (s : State) : Host.Outcome State Fault Refusal := s.performPosting (tbBuildProg k.val n.val parity)

/-- TB_INDEX (R194): Assigns each element a class by counting boundaries at or below its code. -/
def execTbIndex (k : Fin 2688) (n : Fin 2) (s : State) : Host.Outcome State Fault Refusal := s.performPosting (tbIndexProg k.val n.val)

/-- TLOAD (R184): Loads a micro-program image into a slot's inactive bank after waiting for its users to drain. -/
def execTload (k : Fin 2688) (n : Fin 2) (s : State) : Host.Outcome State Fault Refusal := s.performPosting (tloadProg k.val n.val)

/-- TLOAD_FLIP (R184): Once the inactive bank's users drain, the TLOAD validates and writes the image and flips the slot's epoch. -/
def execTloadFlip (k : Fin 2688) (n : Fin 2) (s : State) : Host.Outcome State Fault Refusal := s.performPosting (tloadFlipProg k.val n.val)

/-- SLOT_PARITY_REWRITE (R185): After a table parity error sets SLOT_BAD, firmware rewrites the bank from ROM or the last image or source. -/
def execSlotParityRewrite (k : Fin 2688) (rans : Bool) (slot : Fin 16) (s : State) : Host.Outcome State Fault Refusal := s.performPosting (slotRewriteProg k.val rans slot.val)

/-- SF_TALLY_CLEAR (R196): Writing 1 clears the special-function event counters. -/
def execSfTallyClear (k : Fin 2688) (s : State) : Host.Outcome State Fault Refusal := s.performPosting (onCluster k.val (clearProg .sf (k.val / 168) (k.val % 168) R.SF_SEAM_CLAMP R.SF_LOAD_WAIT))

/-- SF_WAIT_CLEAR (R196): Writing 1 clears the special-function wait counters. -/
def execSfWaitClear (k : Fin 2688) (s : State) : Host.Outcome State Fault Refusal := s.performPosting (onCluster k.val (clearProg .sf (k.val / 168) (k.val % 168) R.SF_WAIT_PREEMPT R.SF_WAIT_LOCK_SPACE))

/-- CT_LOAD (R216): Loads frequency tables into a rANS slot's inactive bank after its users drain, validating sums. -/
def execCtLoad (k : Fin 2688) (n : Fin 4) (s : State) : Host.Outcome State Fault Refusal := s.performPosting (ctLoadProg k.val n.val)

/-- CT_LOAD_FLIP (R216): Once the inactive bank's users drain, CT_LOAD validates, writes starts and flips the slot's epoch. -/
def execCtLoadFlip (k : Fin 2688) (n : Fin 4) (s : State) : Host.Outcome State Fault Refusal := s.performPosting (ctLoadFlipProg k.val n.val)

/-- RANS_ENC (R212): Codes symbols into chunks and writes a chunk record, header last. -/
def execRansEnc (k : Fin 2688) (n : Fin 5) (parity : Bool) (s : State) : Host.Outcome State Fault Refusal := s.performPosting (ransEncProg k.val n.val parity)

/-- RANS_DEC (R224): Checks a record and decodes its chunks into symbols and a chunk status bitmap. -/
def execRansDec (k : Fin 2688) (n : Fin 5) (parity : Bool) (s : State) : Host.Outcome State Fault Refusal := s.performPosting (ransDecProg k.val n.val parity)

/-- CC_TALLY_CLEAR (R231): Writing 1 clears the coder counters. -/
def execCcTallyClear (k : Fin 2688) (s : State) : Host.Outcome State Fault Refusal := s.performPosting (onCluster k.val (clearProg .cc (k.val / 168) (k.val % 168) R.CC_SYMS_ENC R.CC_LOAD_WAIT))

/-- CC_WAIT_CLEAR (R231): Writing 1 clears the coder wait counters. -/
def execCcWaitClear (k : Fin 2688) (s : State) : Host.Outcome State Fault Refusal := s.performPosting (onCluster k.val (clearProg .cc (k.val / 168) (k.val % 168) R.CC_WAIT_PREEMPT R.CC_WAIT_LOCK_SPACE))

end Sys2Proof.Machine
end

