-- ==== Sys2Proof/Machine/ExecLink.lean ====
section
/-! DEFINITION. The meanings of the commands of the link dies (R414 to R446). -/

namespace Sys2Proof.Machine

/-- FRAME_RECEIVE (R422): A frame passes FEC, MAC and MACsec and is sent to RoCE, PTP, the exception path or the classifier. -/
def execFrameReceive (p : Fin 24) (sub : Fin 4) (corr : Nat) (uncorr : Nat) (fcsOk : Bool) (overRate : Bool) (f : Machine.RxFrame) (s : State) : Host.Outcome State Fault Refusal := s.performPosting (frameReceiveProg p.val sub.val corr uncorr fcsOk overRate f)

/-- FI_REORDER_RELEASE (R452): A held frame is released after DEPTH later frames or 100 µs. -/
def execFiReorderRelease (p : Fin 24) (dir : Fin 2) (s : State) : Host.Outcome State Fault Refusal := s.performPosting (fiReorderReleaseProg p.val dir.val)

/-- PACKET_PLACE (R432): At HOME a packet is merged by sequence number and placed into its flow's block, committing blocks as events occur. -/
def execPacketPlace (i : Nat) (s : State) : Host.Outcome State Fault Refusal := s.performPosting (packetPlaceProg i)

/-- FLOW_TIMEOUT (R429): No packet for a flow for TIMEOUT_US commits its open block with TIMEOUT. -/
def execFlowTimeout (e : Fin 65536) (s : State) : Host.Outcome State Fault Refusal := s.performPosting (flowTimeoutProg e.val)

/-- CLS_COPY (R434): Copies the active classifier bank into the inactive bank. -/
def execClsCopy (s : State) : Host.Outcome State Fault Refusal := s.performPosting clsCopyProg

/-- CLS_LOAD (R434): Reads, checks and writes entries into the inactive bank. -/
def execClsLoad (s : State) : Host.Outcome State Fault Refusal := s.performPosting clsLoadProg

/-- CLS_OP_DONE (R434): A COPY or LOAD finishes and BUSY clears. -/
def execClsOpDone (s : State) : Host.Outcome State Fault Refusal := s.performPosting clsOpDoneProg

/-- CLS_FLIP (R434): Advances the classifier epoch, making the inactive bank active. -/
def execClsFlip (s : State) : Host.Outcome State Fault Refusal := s.performPosting clsFlipProg

/-- CLS_FLIP_ADOPT (R435): A slice adopts the flip; when the last has, FLIP_PENDING clears. -/
def execClsFlipAdopt (h : Fin 8) (s : State) : Host.Outcome State Fault Refusal := s.performPosting (clsFlipAdoptProg h.val)

/-- EGRESS_SEND (R438): An egress flow sends a FILLED block as packets at its SEND_TIME, releasing it after the last packet. -/
def execEgressSend (ld : Fin 4) (i : Fin 1024) (s : State) : Host.Outcome State Fault Refusal := s.performPosting (egressSendProg ld.val i.val)

/-- EGRESS_ENTRY_WRITE (R437): Writes an egress flow entry, ignored with ERR if it changes an active entry other than to KIND 0. -/
def execEgressEntryWrite (ld : Fin 4) (i : Fin 1024) (off : Fin 64) (b : List Byte) (s : State) : Host.Outcome State Fault Refusal := s.performPosting (egressEntryWriteProg ld.val i.val off.val b)

/-- QP_ENTRY_WRITE (R444): Writes queue-pair fields, ignored with CFG_ERR unless in RESET. -/
def execQpEntryWrite (g : Fin 16384) (off : Fin 64) (b : List Byte) (s : State) : Host.Outcome State Fault Refusal := s.performPosting (qpEntryWriteProg g.val off.val b)

/-- QP_TO_RTS (R445): Writing STATE RTS checks the entry and starts the queue pair, or leaves RESET with CFG_ERR. -/
def execQpToRts (g : Fin 16384) (s : State) : Host.Outcome State Fault Refusal := s.performPosting (qpToRtsProg g.val)

/-- QP_TO_ERROR (R445): Writing STATE ERROR puts the queue pair in ERROR. -/
def execQpToError (g : Fin 16384) (s : State) : Host.Outcome State Fault Refusal := s.performPosting (qpToErrorProg g.val)

/-- QP_TO_RESET (R445): Writing STATE RESET abandons messages in progress and resets the queue pair. -/
def execQpToReset (g : Fin 16384) (s : State) : Host.Outcome State Fault Refusal := s.performPosting (qpToResetProg g.val)

/-- MEMORY_WINDOW_WRITE (R446): Writes a RoCE memory window entry to all link dies, ignored if the range is invalid. -/
def execMemoryWindowWrite (w : Fin 8192) (off : Fin 16) (b : List Byte) (s : State) : Host.Outcome State Fault Refusal := s.performPosting (memoryWindowWriteProg w.val off.val b)

/-- ROCE_INBOUND_SEND (R442): An inbound SEND is placed in the receive ring, or answered with an RNR or invalid-request NAK. -/
def execRoceInboundSend (ld : Fin 4) (s : State) : Host.Outcome State Fault Refusal := s.performPosting (roceInboundSendProg ld.val)

/-- ROCE_INBOUND_WRITE (R442): An inbound RDMA WRITE is checked against its window and written. -/
def execRoceInboundWrite (ld : Fin 4) (s : State) : Host.Outcome State Fault Refusal := s.performPosting (roceInboundWriteProg ld.val)

/-- ROCE_INBOUND_READ (R442): An inbound RDMA READ is checked against its window and answered. -/
def execRoceInboundRead (ld : Fin 4) (s : State) : Host.Outcome State Fault Refusal := s.performPosting (roceInboundReadProg ld.val)

/-- ROCE_INBOUND_ATOMIC (R441): An inbound atomic draws a NAK invalid request. -/
def execRoceInboundAtomic (ld : Fin 4) (s : State) : Host.Outcome State Fault Refusal := s.performPosting (roceInboundAtomicProg ld.val)

/-- ROCE_SEND_MESSAGE (R443): A FILLED send-window block becomes one SEND or RDMA WRITE message. -/
def execRoceSendMessage (g : Fin 16384) (s : State) : Host.Outcome State Fault Refusal := s.performPosting (roceSendMessageProg g.val)

/-- ROCE_ACK (R443): An acknowledgement of a message's last packet releases its block. -/
def execRoceAck (ld : Fin 4) (s : State) : Host.Outcome State Fault Refusal := s.performPosting (roceAckProg ld.val)

/-- ROCE_NAK (R441): A NAK triggers go-back-N retransmission, RNR retry or ERROR. -/
def execRoceNak (ld : Fin 4) (s : State) : Host.Outcome State Fault Refusal := s.performPosting (roceNakProg ld.val)

/-- ROCE_CNP (R441): A CNP reduces the queue pair's send rate. -/
def execRoceCnp (ld : Fin 4) (s : State) : Host.Outcome State Fault Refusal := s.performPosting (roceCnpProg ld.val)

/-- ROCE_ACK_TIMEOUT (R444): An acknowledgement timeout retries or, when exhausted, puts the queue pair in ERROR. -/
def execRoceAckTimeout (g : Fin 16384) (s : State) : Host.Outcome State Fault Refusal := s.performPosting (roceAckTimeoutProg g.val)

/-- SA_KEY_WRITE (R418): Writes a secure association key into the key vault through a write-only register. -/
def execSaKeyWrite (p : Fin 24) (sub : Fin 4) (chan : Fin 16) (an : Fin 4) (key : List Byte) (xpn : Bool) (pn : Nat) (alert : Nat) (use : Bool) (s : State) : Host.Outcome State Fault Refusal := s.performPosting (saKeyWriteProg p.val sub.val chan.val an.val key xpn pn alert use)

/-- LNK_PORT_CTRL_WRITE (R415): Writes port mode, enables and MACsec mode, refused with CFG_ERR on a mode change while enabled. -/
def execLnkPortCtrlWrite (p : Fin 24) (v : BitVec 32) (s : State) : Host.Outcome State Fault Refusal := s.performPosting (lnkPortCtrlWriteProg p.val v.toNat)

/-- LINK_UP (R415): Link training completes and the sub-port comes up. -/
def execLinkUp (p : Fin 24) (sub : Fin 4) (s : State) : Host.Outcome State Fault Refusal := s.performPosting (linkUpProg p.val sub.val)

/-- LINK_DOWN (R415): A sub-port loses its link. -/
def execLinkDown (p : Fin 24) (sub : Fin 4) (s : State) : Host.Outcome State Fault Refusal := s.performPosting (linkDownProg p.val sub.val)

/-- LNK_TALLY_CLEAR (R455): Writing 1 clears the port counters. -/
def execLnkTallyClear (p : Fin 24) (s : State) : Host.Outcome State Fault Refusal := s.performPosting (lnkTallyClearProg p.val)

/-- PTP_SYNC (R420): A Sync from the chosen master updates the offset and servo state. -/
def execPtpSync (s : State) : Host.Outcome State Fault Refusal := s.performPosting ptpSyncProg

/-- PTP_ANNOUNCE (R420): An Announce message feeds the best-master choice. -/
def execPtpAnnounce (s : State) : Host.Outcome State Fault Refusal := s.performPosting ptpAnnounceProg

/-- PTP_ANNOUNCE_TIMEOUT (R420): The announce receipt timeout moves the servo to HOLDOVER. -/
def execPtpAnnounceTimeout (s : State) : Host.Outcome State Fault Refusal := s.performPosting ptpAnnounceTimeoutProg

/-- PTP_HOLDOVER_EXPIRY (R420): After HOLDOVER_S seconds the servo moves to FREERUN. -/
def execPtpHoldoverExpiry (s : State) : Host.Outcome State Fault Refusal := s.performPosting ptpHoldoverExpiryProg

/-- PTP_DELAY_REQ (R420): At each delay-request interval the device sends a Delay_Req. -/
def execPtpDelayReq (s : State) : Host.Outcome State Fault Refusal := s.performPosting ptpDelayReqProg

/-- PTP_DELAY_RESP (R420): A Delay_Resp completes a delay measurement. -/
def execPtpDelayResp (s : State) : Host.Outcome State Fault Refusal := s.performPosting ptpDelayRespProg

/-- PTP_FOLLOW_UP (R420): A Follow_Up message from a two-step master supplies the precise origin time of its Sync and updates the offset and servo state. -/
def execPtpFollowUp (s : State) : Host.Outcome State Fault Refusal := s.performPosting ptpFollowUpProg

/-- ROCE_RATE_RECOVERY (R441): A queue pair whose send rate was reduced on a CNP restores it by one step. -/
def execRoceRateRecovery (g : Fin 16384) (s : State) : Host.Outcome State Fault Refusal := s.performPosting (roceRateRecoveryProg g.val)

end Sys2Proof.Machine
end

