-- ==== Sys2Proof/Machine/ExecMemory.lean ====
section
/-! DEFINITION. The meanings of the commands of memory and translation (R331 to R357). -/

namespace Sys2Proof.Machine

/-- SCRUB_READ (R339): The logic die patrols each row once per scrub period, correcting and counting errors. -/
def execScrubRead (n : Fin 32) (row : Fin 50331648) (s : State) : Host.Outcome State Fault Refusal := s.perform (scrubReadProg n.val row.val)

/-- PATROL_ROW_SPARE (R339): A row reaching ROW_CE_LIMIT is copied to a spare row and remapped within 2 µs, then requests are released. -/
def execPatrolRowSpare (n : Fin 32) (row : Fin 50331648) (s : State) : Host.Outcome State Fault Refusal := s.perform (patrolRowSpareProg n.val row.val)

/-- STACK_TEMP_SAMPLE (R341): Every 1 ms the stack's hottest DRAM die is read and the refresh interval and alert set. -/
def execStackTempSample (n : Fin 32) (temp : Fin 256) (s : State) : Host.Outcome State Fault Refusal := s.perform (stackTempSampleProg n.val temp.val)

/-- REFRESH_INTERVAL_CHANGE (R341): At the next refresh boundary after a threshold crossing the refresh interval changes. -/
def execRefreshIntervalChange (n : Fin 32) (s : State) : Host.Outcome State Fault Refusal := s.perform (refreshIntervalChangeProg n.val)

/-- STK_TALLY_CLEAR (R356): Writing 1 clears the stack counters. -/
def execStkTallyClear (n : Fin 32) (s : State) : Host.Outcome State Fault Refusal := s.perform (stkTallyClearProg n.val)

/-- CS_TALLY_CLEAR (R357): Writing 1 clears the cluster-store ECC counters. -/
def execCsTallyClear (d : Fin 16) (p : Fin 168) (s : State) : Host.Outcome State Fault Refusal := s.perform (csTallyClearProg d.val p.val)

/-- MEM_SPAN_MODE_WRITE (R338): Writes CLOSED or MODE of a span, refused with ERR unless drained or for spans 46, 47 or value 3. -/
def execMemSpanModeWrite (g : Fin 48) (v : BitVec 32) (s : State) : Host.Outcome State Fault Refusal := s.perform (memSpanModeWriteProg g.val v.toNat)

/-- SPAN_DRAINED (R338): DRAINED sets once every access to a closed span has been performed. -/
def execSpanDrained (g : Fin 48) (s : State) : Host.Outcome State Fault Refusal := s.perform (spanDrainedProg g.val)

/-- PAGE_WALK (R346): A translation miss walks the page table and fills caches or ends in a fault outcome. -/
def execPageWalk (d : Fin 16) (n : Nat) (s : State) : Host.Outcome State Fault Refusal := s.perform (pageWalkProg d.val n)

/-- FAULT_BACKLOG_POST (R350): A stopped unit holding back its record posts it when a queue place frees. -/
def execFaultBacklogPost (d : Fin 16) (s : State) : Host.Outcome State Fault Refusal := s.perform (faultBacklogPostProg d.val)

/-- FAULT_RESUME (R351): DMMU_FAULT_ACTION RESUME retries the unit's access from its recorded position and pops the record. -/
def execFaultResume (d : Fin 16) (s : State) : Host.Outcome State Fault Refusal := s.perform (faultResumeProg d.val)

/-- FAULT_KILL (R351): DMMU_FAULT_ACTION KILL ends the unit's work with the fault's status and pops the record. -/
def execFaultKill (d : Fin 16) (s : State) : Host.Outcome State Fault Refusal := s.perform (faultKillProg d.val)

/-- DMMU_ROOT_WRITE (R353): Writes the page-table root or translation enable, ignored with ERR if ROOT changes while EN is 1. -/
def execDmmuRootWrite (high : Bool) (v : BitVec 32) (s : State) : Host.Outcome State Fault Refusal := s.perform (dmmuRootWriteProg high v.toNat)

/-- DMMU_INVALIDATE (R349): GO starts invalidation of a range in every cluster and die cache; a GO while BUSY sets ERR. -/
def execDmmuInvalidate (s : State) : Host.Outcome State Fault Refusal := s.perform dmmuInvalidateProg

/-- DMMU_INVALIDATE_DONE (R349): DONE sets once every overlapping entry is dropped and every earlier walk has finished. -/
def execDmmuInvalidateDone (s : State) : Host.Outcome State Fault Refusal := s.perform dmmuInvalidateDoneProg

/-- DMMU_TALLY_CLEAR (R355): Writing 1 clears the walker counters. -/
def execDmmuTallyClear (d : Fin 16) (s : State) : Host.Outcome State Fault Refusal := s.perform (dmmuTallyClearProg d.val)

end Sys2Proof.Machine
end

