-- ==== Sys2Proof/Machine/Pins.lean ====
section
/-! DEFINITION. The service connector (R570 to R580): ALERT_N and WAKE_N, GPIO, the timing pins and package event timers (R421, R575), SMBus (R576) and JTAG (R577). -/

namespace Sys2Proof.Machine

/-- Every signal of the connector lives in the always-on domain (R570), which needs the input; with both AOCs failed nothing answers (R536). -/
def Dev.pinsOn (s : Dev) : Bool := s.power.inputOk && !s.aocDead

/-- ALERT_N is asserted (R572). -/
def Dev.alert (s : Dev) : Bool :=
  let p := s.pwrRead R.PWR_STATUS
  bitAt p 0 || bitAt p 2 || bitAt p 3 || ((List.range 16).any fun d => bitAt (s.pwrRead (R.PWR_DIE + 4 * d)) 0)
    || s.fld .boot 20 0 R.TAMPER_STATUS 4 0 ≠ 0 || s.aocDead

/-- A bit of SVC_EVENT is set. -/
def svcEvent (i : Nat) : Prog := setFld .svc 20 0 R.SVC_EVENT i i 1

/-- WAKE_PIN: WAKE_N has been low for 1 µs (R572). -/
def wakePinProg : Prog := look fun s => only s.pinsOn (progs [.upd (.time 1000), svcEvent 8, aocLog 0 0 0 0 0])

/-- GPIO_EDGE: the shelf brings contact i to a level (R579). -/
def gpioEdgeProg (i : Nat) (level : Bool) : Prog := look fun s => only s.pinsOn (gpioLevels (setBits s.aoc.gpio (i % 8) (i % 8) (b2n level)))

/-! ### Timing pins and timers (R421, R575) -/

/-- A rising edge is latched into a pair of registers, and its event set. -/
def latchEdge (feature r off ev : Nat) : Prog := look fun s => only (s.pinsOn && s.owns r = feature) (progs [
  setReg .svc 20 0 off (s.time % 2 ^ 32),
  setReg .svc 20 0 (off + 4) (s.time / 2 ^ 32 % 2 ^ 32),
  svcEvent ev])

def ppsInEdgeProg : Prog := latchEdge 2 0 R.SVC_PPS_IN_TIME_LO 9
def syncInEdgeProg : Prog := latchEdge 4 1 R.SVC_SYNC_IN_TIME_LO 10

/-- A pulse on a timing pin, 0 SVC_PPS_IO, 1 SVC_SYNC_IO: its pin, the device time it rises at, its length in ns. -/
def pulse (pin ns : Nat) : Prog := look fun s => .upd (.send 196610 (leBytes 1 pin ++ leBytes 8 s.time ++ leBytes 4 ns))

/-- PPS_OUT_EDGE: the next whole second of device time. -/
def ppsOutEdgeProg : Prog := look fun s => only (s.pinsOn && s.owns 0 = 1) (progs [
  .upd (.time (1000000000 - s.time % 1000000000)), pulse 0 1000000])

/-- CMP of timer t. -/
def Dev.timerCmp (s : Dev) (t : Nat) : Nat := s.reg .tmr 20 t R.TMR_CMP_HI * 2 ^ 32 + s.reg .tmr 20 t R.TMR_CMP_LO

/-- TIMER_FIRE: timer t fires once device time has reached CMP. -/
def timerFireProg (t : Nat) : Prog := look fun s =>
  let cmp := s.timerCmp t
  let owner := s.owns (2 + t)
  only (s.pinsOn && bitAt (s.reg .tmr 20 t R.TMR_CTRL) 0 && owner ≠ 0) (progs [
    .upd (.time (cmp - s.time)),
    only (owner = 3 && s.owns 1 = 3) (pulse 1 (100 * max 1 (s.fld .tmr 20 t R.TMR_CTRL 15 8))),
    only (owner = 5) (progs [svcEvent (11 + t), aocLog 0 0 0 t 0]),
    look fun s =>
      let period := s.reg .tmr 20 t R.TMR_PERIOD
      if period = 0 then setFld .tmr 20 t R.TMR_CTRL 0 0 0
      else
        let next := cmp + ((s.time - cmp) / period + 1) * period
        progs [setReg .tmr 20 t R.TMR_CMP_LO (next % 2 ^ 32), setReg .tmr 20 t R.TMR_CMP_HI (next / 2 ^ 32 % 2 ^ 32)]])

/-! ### SMBus (R576) -/

/-- SMBUS_WRITE_WORD: command 0x01. A PEC that is sent and wrong, or another offset, is not acknowledged. -/
def smbusWriteWordProg (p : Nat) (pecOk : Bool) : Prog := look fun s =>
  only (s.pinsOn && pecOk && p % 4 = 0 && decide (p ≤ 0xFFFC)) (onAoc fun a => { a with smbPtr := p })

/-- SMBUS_BLOCK_READ: command 0x02. -/
def smbusBlockReadProg : Prog := look fun s =>
  let a := aocBase + s.aoc.smbPtr
  only s.pinsOn (progs [
    if s.reachAt a == .ok then busRead a 4 fun b => .upd (.send 196608 b) else .upd (.send 196608 (List.replicate 4 0)),
    onAoc fun a => { a with smbPtr := (a.smbPtr + 4) % 0x10000 }])

/-! ### JTAG (R577) -/


/-- An instruction stands in the instruction register, and its data register holds `v`. -/
def jtagSelect (ir v : Nat) : Prog := onAoc fun a => { a with jtagIr := ir, jtagData := v }
/-- BYPASS: its one bit captures 0. -/
def jtagBypass : Prog := jtagSelect 0xFF 0

def bypassProg : Prog := look fun s => only s.pinsOn jtagBypass
def idcodeProg : Prog := look fun s => only s.pinsOn (jtagSelect 0x01 0x1D9A0A27)

/-- SAMPLE/PRELOAD: the contacts are captured, and `data` is shifted into the boundary register, whose layout the spec does not give. -/
def samplePreloadProg (data : Nat) : Prog := look fun s => only s.pinsOn (withFree fun v => progs [
  jtagSelect 0x02 v, onAoc fun a => { a with jtagBoundary := data }])

/-- EXTEST, under DEBUG: the boundary register stands at the contacts. -/
def extestProg (data : Nat) : Prog := look fun s => only s.pinsOn (
  if s.debug then withFree fun v => progs [jtagSelect 0x00 v, onAoc fun a => { a with jtagBoundary := data }] else jtagBypass)

/-- Bits [79:0] of the Heluri data register: 0 OK, 1 BOUNDS, 2 BUSY. -/
def jtagWord (st a v : Nat) : Nat := st * 2 ^ 78 + a % 2 ^ 46 * 2 ^ 32 + v % 2 ^ 32

/-- DPA_READ, under DEBUG. -/
def dpaReadProg (a : Nat) : Prog := look fun s => only s.pinsOn (
  if !s.debug then jtagBypass
  else match s.reachRange a 4 with
    | .ok => busRead a 4 fun b => jtagSelect 0x40 (jtagWord 0 a (leNat b))
    | .bounds => jtagSelect 0x40 (jtagWord 1 a 0)
    | .wait => progs [wantStacks a 4, jtagSelect 0x40 (jtagWord 2 a 0)])

/-- DPA_WRITE, under DEBUG. -/
def dpaWriteProg (a v : Nat) : Prog := look fun s => only s.pinsOn (
  if !s.debug then jtagBypass
  else match s.reachFor a 4 accWrite with
    | .ok => progs [busWrite a (leBytes 4 v), jtagSelect 0x41 (jtagWord 0 a v)]
    | .bounds => jtagSelect 0x41 (jtagWord 1 a v)
    | .wait => progs [wantStacks a 4, jtagSelect 0x41 (jtagWord 2 a v)])

end Sys2Proof.Machine
end

