-- ==== Sys2Proof/Machine/ExecPins.lean ====
section
/-! DEFINITION. The meanings of the commands of the service connector and register writes (R10, R570 to R580). -/

namespace Sys2Proof.Machine

/-- PPS_OUT_EDGE (R421): At each whole second of device time the claimed PPS pin pulses high for 1 ms. -/
def execPpsOutEdge (s : State) : Host.Outcome State Fault Refusal := s.perform ppsOutEdgeProg

/-- WAKE_PIN (R572): WAKE_N low for 1 µs sets SVC_EVENT.WAKE and logs an INFO entry. -/
def execWakePin (s : State) : Host.Outcome State Fault Refusal := s.perform wakePinProg

/-- PPS_IN_EDGE (R575): A PPS_IN rising edge latches device time and sets the event. -/
def execPpsInEdge (s : State) : Host.Outcome State Fault Refusal := s.perform ppsInEdgeProg

/-- SYNC_IN_EDGE (R575): A SYNC_IN rising edge latches device time and sets the event. -/
def execSyncInEdge (s : State) : Host.Outcome State Fault Refusal := s.perform syncInEdgeProg

/-- GPIO_EDGE (R579): A GPIO contact changing level sets its edge event bit. -/
def execGpioEdge (i : Fin 8) (level : Bool) (s : State) : Host.Outcome State Fault Refusal := s.perform (gpioEdgeProg i.val level)

/-- TIMER_FIRE (R575): A held timer fires at or after CMP, pulsing SYNC_IO or setting an event, then advances or disarms. -/
def execTimerFire (t : Fin 2) (s : State) : Host.Outcome State Fault Refusal := s.perform (timerFireProg t.val)

/-- SMBUS_WRITE_WORD (R576): Sets the SMBus register pointer. -/
def execSmbusWriteWord (p : Fin 65536) (pecOk : Bool) (s : State) : Host.Outcome State Fault Refusal := s.perform (smbusWriteWordProg p.val pecOk)

/-- SMBUS_BLOCK_READ (R576): Returns the register at the pointer and advances it by 4. -/
def execSmbusBlockRead (s : State) : Host.Outcome State Fault Refusal := s.perform smbusBlockReadProg

/-- BYPASS (R577): JTAG bypass instruction. -/
def execBypass (s : State) : Host.Outcome State Fault Refusal := s.perform bypassProg

/-- IDCODE (R577): JTAG instruction that returns the IDCODE. -/
def execIdcode (s : State) : Host.Outcome State Fault Refusal := s.perform idcodeProg

/-- SAMPLE_PRELOAD (R577): JTAG sample and preload of the boundary register. -/
def execSamplePreload (data : Nat) (s : State) : Host.Outcome State Fault Refusal := s.perform (samplePreloadProg data)

/-- EXTEST (R577): JTAG external test over the service-connector boundary register, under DEBUG only. -/
def execExtest (data : Nat) (s : State) : Host.Outcome State Fault Refusal := s.perform (extestProg data)

/-- DPA_READ (R577): JTAG read of a DPA under DEBUG. -/
def execDpaRead (a : Fin 70368744177664) (s : State) : Host.Outcome State Fault Refusal := s.perform (dpaReadProg a.val)

/-- DPA_WRITE (R577): JTAG write of a DPA under DEBUG. -/
def execDpaWrite (a : Fin 70368744177664) (v : BitVec 32) (s : State) : Host.Outcome State Fault Refusal := s.perform (dpaWriteProg a.val v.toNat)

/-- REGISTER_WRITE (R10): A write to a register without a row of its own stores, ignores or acts per its access code and field rules. -/
def execRegisterWrite (a : Fin 70368744177664) (v : BitVec 32) (s : State) : Host.Outcome State Fault Refusal := s.perform (registerWriteProg a.val v.toNat)

end Sys2Proof.Machine
end

