-- ==== Sys2Proof/Machine/ExecPower.lean ====
section
/-! DEFINITION. The meanings of the commands of power and clocks (R487 to R515). -/

namespace Sys2Proof.Machine

/-- TOWPATH_COMMAND (R25): A towpath command from the AOC reaches its target domain's switch within 8 always-on cycles. -/
def execTowpathCommand (dom : Fin 3688) (s : State) : Host.Outcome State Fault Refusal := s.perform (towpathCommandProg dom.val)

/-- WEIR_SLOT (R492): Each always-on cycle the weir governor grants queued rising and falling current steps in request order, within the per-slot budget. -/
def execWeirSlot (s : State) : Host.Outcome State Fault Refusal := s.perform weirSlotProg

/-- DOMAIN_READY (R490): A granted domain or clock reaches its ready time after its ramp, lock and clearing and comes ON. -/
def execDomainReady (dom : Fin 3688) (s : State) : Host.Outcome State Fault Refusal := s.perform (domainReadyProg dom.val)

/-- ENGINE_CLOCK_GATE (R119): An array engine, MVE or EPE idle for 4,096 arithmetic cycles has its clock gated. -/
def execEngineClockGate (k : Fin 2688) (e : Fin 12) (s : State) : Host.Outcome State Fault Refusal := s.perform (engineClockGateProg k.val e.val)

/-- VECTOR_CLOCK_GATE (R236): A thread-core vector engine without a thread-vector for 4,096 core cycles has its clock gated. -/
def execVectorClockGate (k : Fin 2688) (core : Fin 112) (s : State) : Host.Outcome State Fault Refusal := s.perform (vectorClockGateProg k.val core.val)

/-- ENGINE_CLOCK_READY (R119): A restarted engine clock runs 16 arithmetic cycles (32 core cycles for a vector engine) after its weir grant. -/
def execEngineClockReady (k : Fin 2688) (e : Fin 124) (s : State) : Host.Outcome State Fault Refusal := s.perform (engineClockReadyProg k.val e.val)

/-- HOT_PLUG (R488): Supply blades make and the input capacitance charges at no more than 10 A. -/
def execHotPlug (vin : Fin 65536) (s : State) : Host.Outcome State Fault Refusal := s.perform (hotPlugProg vin.val)

/-- UV_WARN_CHANGE (R487): The input enters or leaves the warning band, holding or releasing rising steps. -/
def execUvWarnChange (vin : Fin 65536) (s : State) : Host.Outcome State Fault Refusal := s.perform (uvWarnChangeProg vin.val)

/-- INPUT_UNDERVOLTAGE (R505): Input below 38.0 V for 2 µs causes an emergency shutdown without the clamp. -/
def execInputUndervoltage (vin : Fin 65536) (s : State) : Host.Outcome State Fault Refusal := s.perform (inputUndervoltageProg vin.val)

/-- INPUT_OVERVOLTAGE (R505): Input above 50.0 V for 1 µs causes an emergency shutdown. -/
def execInputOvervoltage (vin : Fin 65536) (s : State) : Host.Outcome State Fault Refusal := s.perform (inputOvervoltageProg vin.val)

/-- INPUT_OVERCURRENT (R505): Input current above 420 A for 5 µs causes an emergency shutdown. -/
def execInputOvercurrent (iin : Fin 65536) (s : State) : Host.Outcome State Fault Refusal := s.perform (inputOvercurrentProg iin.val)

/-- REF25_LOSS (R511): Loss of the 25 MHz reference switches to the internal oscillator and causes an emergency shutdown. -/
def execRef25Loss (s : State) : Host.Outcome State Fault Refusal := s.perform ref25LossProg

/-- REF156_LOSS (R511): Loss of the link reference takes every link down. -/
def execRef156Loss (s : State) : Host.Outcome State Fault Refusal := s.perform ref156LossProg

/-- PLL_LOCK_LOSS (R510): A PLL losing lock while its domain is on causes an emergency shutdown. -/
def execPllLockLoss (d : Fin 20) (s : State) : Host.Outcome State Fault Refusal := s.perform (pllLockLossProg d.val)

/-- INPUT_POWER_SAMPLE (R501): Every slot the input monitor updates power averages and adjusts the envelope throttle level. -/
def execInputPowerSample (vin : Fin 65536) (iin : Fin 65536) (s : State) : Host.Outcome State Fault Refusal := s.perform (inputPowerSampleProg vin.val iin.val)

/-- DIE_TEMP_SAMPLE (R503): Every 10 µs a die reads its hottest sensor and adjusts its thermal level. -/
def execDieTempSample (d : Fin 16) (temp : Fin 256) (s : State) : Host.Outcome State Fault Refusal := s.perform (dieTempSampleProg d.val temp.val)

/-- PWR_DOM_ON (R496): Requests a domain ON, waking dependencies and requesting a rising step. -/
def execPwrDomOn (dom : Fin 105) (s : State) : Host.Outcome State Fault Refusal := s.perform (pwrDomOnProg dom.val)

/-- PWR_DOM_OFF (R497): Requests a domain OFF, refused under the listed conditions. -/
def execPwrDomOff (dom : Fin 105) (s : State) : Host.Outcome State Fault Refusal := s.perform (pwrDomOffProg dom.val)

/-- PWR_DOM_RETAIN (R498): Puts a stack into self-refresh RETAIN, refused for non-stacks. -/
def execPwrDomRetain (dom : Fin 105) (s : State) : Host.Outcome State Fault Refusal := s.perform (pwrDomRetainProg dom.val)

/-- PWR_ENV_WRITE (R499): Requests an envelope, refused above MAX or out of range. -/
def execPwrEnvWrite (v : BitVec 32) (s : State) : Host.Outcome State Fault Refusal := s.perform (pwrEnvWriteProg v.toNat)

/-- PWR_CTRL_PEN (R513): Enters pen state in an orderly way, turning domains off through the weir. -/
def execPwrCtrlPen (s : State) : Host.Outcome State Fault Refusal := s.perform pwrCtrlPenProg

/-- PWR_PPEAK_READ (R513): Reading the peak power register returns it and clears it. -/
def execPwrPpeakRead (s : State) : Host.Outcome State Fault Refusal := s.perform pwrPpeakReadProg

/-- WEIR_TALLY_CLEAR (R513): Writing 1 clears the weir grant and held-slot counters. -/
def execWeirTallyClear (s : State) : Host.Outcome State Fault Refusal := s.perform weirTallyClearProg

/-- LINK_DIE_TEMP_SAMPLE (R504): A link die's temperature is read into PWR_LD, and a reading of 110 °C causes a thermal-trip emergency shutdown. -/
def execLinkDieTempSample (n : Fin 4) (temp : Fin 256) (s : State) : Host.Outcome State Fault Refusal := s.perform (linkDieTempSampleProg n.val temp.val)

/-- REF156_RESTORE (R511): The 156.25 MHz link reference returns, REF156_OK sets and the links can train again. -/
def execRef156Restore (s : State) : Host.Outcome State Fault Refusal := s.perform ref156RestoreProg

/-- REF25_RESTORE (R574): The 25 MHz system reference becomes present with 1 ms of valid periods, REF25_OK sets and a start-up waiting at step 2 may proceed. -/
def execRef25Restore (s : State) : Host.Outcome State Fault Refusal := s.perform ref25RestoreProg

end Sys2Proof.Machine
end

