-- ==== Sys2Proof/Machine/ExecQueue.lean ====
section
/-! DEFINITION. The meanings of the commands of queues, mailboxes and claims (R457 to R486). -/

namespace Sys2Proof.Machine

/-- QUEUE_FETCH (R458): A drover fetches the next command entry of an enabled queue. -/
def execQueueFetch (q : Fin 4096) (s : State) : Host.Outcome State Fault Refusal := s.perform (queueFetchProg q.val)

/-- RUN (R461): A command that starts its flocks on the clusters of its mask. -/
def execRun (q : Fin 4096) (s : State) : Host.Outcome State Fault Refusal := s.perform (runProg q.val)

/-- MARKER (R460): Completes once every earlier command of its queue has completed. -/
def execMarker (q : Fin 4096) (s : State) : Host.Outcome State Fault Refusal := s.perform (markerProg q.val)

/-- COMMAND_ARM (R464): A head command with room, a free CTAG and its trigger becomes ARMED and is checked. -/
def execCommandArm (q : Fin 4096) (s : State) : Host.Outcome State Fault Refusal := s.perform (commandArmProg q.val)

/-- DRV_DISPATCH (R465): Arbitration reserves slots for the highest-priority ARMED command and requests cluster wakes. -/
def execDrvDispatch (d : Fin 16) (s : State) : Host.Outcome State Fault Refusal := s.perform (drvDispatchProg d.val)

/-- COMMAND_START (R464): Once every cluster of the mask is on and reserved, all flocks start in one fabric cycle. -/
def execCommandStart (ctag : Fin 4096) (s : State) : Host.Outcome State Fault Refusal := s.perform (commandStartProg ctag.val)

/-- COMMAND_COMPLETE (R469): Once every flock has ended and every pushed tag completed, the final record is written. -/
def execCommandComplete (ctag : Fin 4096) (s : State) : Host.Outcome State Fault Refusal := s.perform (commandCompleteProg ctag.val)

/-- COMMAND_PARK (R472): Once every unit has stopped, the context is saved, slots freed and a PREEMPTED record written. -/
def execCommandPark (ctag : Fin 4096) (s : State) : Host.Outcome State Fault Refusal := s.perform (commandParkProg ctag.val)

/-- COMMAND_RESUME (R470): A parked command with free slots restores its context and runs again. -/
def execCommandResume (ctag : Fin 4096) (s : State) : Host.Outcome State Fault Refusal := s.perform (commandResumeProg ctag.val)

/-- CLUSTER_IDLE_SLEEP (R466): A cluster with no slot for IDLE_HOLD_US goes to sleep unless pinned or otherwise kept. -/
def execClusterIdleSleep (d : Fin 16) (l : Fin 160) (s : State) : Host.Outcome State Fault Refusal := s.perform (clusterIdleSleepProg d.val l.val)

/-- Q_CTRL_CANCEL (R474): Cancels every uncompleted command of the queue and clears TRIG_PENDING. -/
def execQCtrlCancel (q : Fin 4096) (s : State) : Host.Outcome State Fault Refusal := s.perform (qCtrlCancelProg q.val)

/-- Q_CTRL_RESUME (R470): Resumes the queue's commands parked by request. -/
def execQCtrlResume (q : Fin 4096) (s : State) : Host.Outcome State Fault Refusal := s.perform (qCtrlResumeProg q.val)

/-- Q_CTRL_PREEMPT (R470): Pre-empts every running command of the queue. -/
def execQCtrlPreempt (q : Fin 4096) (s : State) : Host.Outcome State Fault Refusal := s.perform (qCtrlPreemptProg q.val)

/-- DRV_CANCEL (R474): Cancels one command by CTAG. -/
def execDrvCancel (d : Fin 16) (ctag : Fin 4096) (s : State) : Host.Outcome State Fault Refusal := s.perform (drvCancelProg d.val ctag.val)

/-- Q_CFG_WRITE (R459): Writes queue configuration, refused with CFG_ERR for locked fields while enabled. -/
def execQCfgWrite (q : Fin 4096) (v : BitVec 32) (s : State) : Host.Outcome State Fault Refusal := s.perform (qCfgWriteProg q.val v.toNat)

/-- Q_TRIG_WRITE (R462): Writes the trigger lock, refused with CFG_ERR for a lock outside the die. -/
def execQTrigWrite (q : Fin 4096) (v : BitVec 32) (s : State) : Host.Outcome State Fault Refusal := s.perform (qTrigWriteProg q.val v.toNat)

/-- DRV_TALLY_CLEAR (R485): Writing 1 clears the drover counters. -/
def execDrvTallyClear (d : Fin 16) (s : State) : Host.Outcome State Fault Refusal := s.perform (drvTallyClearProg d.val)

/-- MB_SEND_WIN (R481): A 64-byte write to the send window stores a payload and fires the doorbell. -/
def execMbSendWin (m : Fin 64) (core : Fin 8) (data : List Byte) (s : State) : Host.Outcome State Fault Refusal := s.perform (mbSendWinProg m.val core.val data)

/-- MB_ACK (R481): Drains the mailbox, clearing FULL and setting the outcome DRAINED. -/
def execMbAck (m : Fin 64) (s : State) : Host.Outcome State Fault Refusal := s.perform (mbAckProg m.val)

/-- MB_TIMEOUT (R481): TIMEOUT_US after a send without a drain the outcome becomes TIMEOUT. -/
def execMbTimeout (m : Fin 64) (s : State) : Host.Outcome State Fault Refusal := s.perform (mbTimeoutProg m.val)

/-- RES_CLAIM (R484): Claims a shared resource for a feature, refused with BUSY if another holds it. -/
def execResClaim (r : Fin 5) (f : Fin 256) (s : State) : Host.Outcome State Fault Refusal := s.perform (resClaimProg r.val f.val)

/-- RES_RELEASE (R484): Releases a shared resource held by the named feature. -/
def execResRelease (r : Fin 5) (f : Fin 256) (s : State) : Host.Outcome State Fault Refusal := s.perform (resReleaseProg r.val f.val)

end Sys2Proof.Machine
end

