-- ==== Sys2Proof/Machine/ExecSluice.lean ====
section
/-! DEFINITION. The meanings of the commands of the sluice engines (R396 to R413). -/

namespace Sys2Proof.Machine

/-- SL_JOB_FETCH (R403): A sluice engine fetches its next job from its ring. -/
def execSlJobFetch (d : Fin 16) (n : Fin 2) (s : State) : Host.Outcome State Fault Refusal := s.performPosting (slJobFetchProg d.val n.val)

/-- COMPRESS (R399): Compresses an input stream to raw DEFLATE, zlib or gzip. -/
def execCompress (d : Fin 16) (n : Fin 2) (s : State) : Host.Outcome State Fault Refusal := s.performPosting (compressProg d.val n.val)

/-- DECOMPRESS (R402): Decodes a complete DEFLATE, zlib or gzip stream into the output buffer. -/
def execDecompress (d : Fin 16) (n : Fin 2) (s : State) : Host.Outcome State Fault Refusal := s.performPosting (decompressProg d.val n.val)

/-- SL_COMPLETION_WRITE (R406): A finished sluice job writes its completion record. -/
def execSlCompletionWrite (d : Fin 16) (n : Fin 2) (s : State) : Host.Outcome State Fault Refusal := s.performPosting (slCompletionWriteProg d.val n.val)

/-- SL_PREEMPT (R408): Setting PREEMPT asks the engine to stop at the next checkpoint. -/
def execSlPreempt (d : Fin 16) (n : Fin 2) (s : State) : Host.Outcome State Fault Refusal := s.performPosting (slPreemptProg d.val n.val)

/-- SL_CHECKPOINT_STOP (R408): At a checkpoint the engine saves the job's state and sets STOPPED. -/
def execSlCheckpointStop (d : Fin 16) (n : Fin 2) (s : State) : Host.Outcome State Fault Refusal := s.performPosting (slCheckpointStopProg d.val n.val)

/-- SL_RESUME (R408): Clearing PREEMPT resumes the job from its checkpoint. -/
def execSlResume (d : Fin 16) (n : Fin 2) (s : State) : Host.Outcome State Fault Refusal := s.performPosting (slResumeProg d.val n.val)

/-- SL_CANCEL (R409): Ends the current sluice job with CANCELLED. -/
def execSlCancel (d : Fin 16) (n : Fin 2) (s : State) : Host.Outcome State Fault Refusal := s.performPosting (slCancelProg d.val n.val)

/-- SL_TALLY_CLEAR (R413): Writing 1 clears the sluice counters. -/
def execSlTallyClear (d : Fin 16) (n : Fin 2) (s : State) : Host.Outcome State Fault Refusal := s.performPosting (slTallyClearProg d.val n.val)

end Sys2Proof.Machine
end

