-- ==== Sys2Proof/Machine/ExecTensor.lean ====
section
/-! DEFINITION. The meanings of the commands of the tensor core (R110 to R169, R273 to R294). -/

namespace Sys2Proof.Machine

/-- INSTRUCTION_STAGE (R291): An instruction at the head of its queue has its argument block and tables read and checked and its operands staged. -/
def execInstructionStage (k : Fin 2688) (q : Fin 15) (s : State) : Host.Outcome State Fault Refusal := s.performPosting (stageProg k.val q.val)

/-- DEPENDENCY_COMPLETE (R276): The last dependency of a queued instruction completes; it proceeds, or is cancelled with DEP_FAILED under DEP_POISON. -/
def execDependencyComplete (k : Fin 2688) (tag : Fin 4096) (s : State) : Host.Outcome State Fault Refusal := s.performPosting (dependencyCompleteProg k.val tag.val)

/-- TENSOR_ISSUE (R116): An instruction issues on its target once every issue completeness condition holds, capturing epochs and placing holds. -/
def execTensorIssue (k : Fin 2688) (q : Fin 15) (s : State) : Host.Outcome State Fault Refusal := s.performPosting (issueProg k.val q.val)

/-- SYNC (R277): Occupies its queue entries and completes in queue order once its dependencies are complete. -/
def execSync (k : Fin 2688) (q : Fin 15) (s : State) : Host.Outcome State Fault Refusal := s.performPosting (syncProg k.val q.val)

/-- MATMUL (R110): Runs a matrix product over output tiles and weight-tile passes on an array, half, multi-array or MVE target. -/
def execMatmul (k : Fin 2688) (t : Fin 64) (parity : Bool) (s : State) : Host.Outcome State Fault Refusal := s.performPosting (passProg 1 k.val t.val parity)

/-- CONV (R143): Runs a convolution as per-tap matrix products with padding, skipping and optional space-to-channel or channel-to-space. -/
def execConv (k : Fin 2688) (t : Fin 64) (parity : Bool) (s : State) : Host.Outcome State Fault Refusal := s.performPosting (passProg 2 k.val t.val parity)

/-- POOL (R160): Computes MAX or AVG pooling over windows in the window unit of a whole-array target. -/
def execPool (k : Fin 2688) (array : Fin 4) (s : State) : Host.Outcome State Fault Refusal := s.performPosting (poolProg k.val array.val)

/-- CROP (R163): Samples an OH by OW grid from each box of a box list, bilinear or nearest. -/
def execCrop (k : Fin 2688) (array : Fin 4) (s : State) : Host.Outcome State Fault Refusal := s.performPosting (cropProg k.val array.val)

/-- EPILOGUE (R274): Sums 1 to 4 ACC64 addend tensors exactly and applies the epilogue on the MVE target. -/
def execEpilogue (k : Fin 2688) (s : State) : Host.Outcome State Fault Refusal := s.performPosting (epilogueOpProg k.val)

/-- WEIGHT_TILE_LOAD (R113): The weight path loads a tile into a target's shadow registers in 64-byte beats, shared round-robin. -/
def execWeightTileLoad (k : Fin 2688) (s : State) : Host.Outcome State Fault Refusal := s.performPosting (weightLoadProg k.val)

/-- WEIGHT_SWAP (R114): A target copies its shadow weights to active in the earliest cycle both the old pass and the new tile load have ended. -/
def execWeightSwap (k : Fin 2688) (t : Fin 64) (s : State) : Host.Outcome State Fault Refusal := s.performPosting (weightSwapProg k.val t.val)

/-- OUTPUT_TILE_EPILOGUE (R132): The EPE serves a finished tile's accumulators in finishing order, applying the epilogue and forming counts. -/
def execOutputTileEpilogue (k : Fin 2688) (parity : Bool) (s : State) : Host.Outcome State Fault Refusal := s.performPosting (epeProg k.val parity)

/-- NARROW_RUN_END (R92): At the end of a narrow run the instruction decides from its counts and budgets whether to widen and run in W8A16. -/
def execNarrowRunEnd (k : Fin 2688) (q : Fin 15) (s : State) : Host.Outcome State Fault Refusal := s.performPosting (narrowEndProg k.val q.val)

/-- INSTRUCTION_COMMIT (R95): The instruction writes its flag word, releases its output blocks and holds, and completes its tag with a record. -/
def execInstructionCommit (k : Fin 2688) (q : Fin 15) (s : State) : Host.Outcome State Fault Refusal := s.performPosting (commitProg k.val q.val)

/-- FEEDER_TRANSLATION_FAULT (R128): A feeder's demand access fails translation or permission; the instruction stops with its cursor at the first unfinished tile. -/
def execFeederTranslationFault (k : Fin 2688) (q : Fin 15) (s : State) : Host.Outcome State Fault Refusal := s.performPosting (feederFaultProg k.val q.val)

/-- TARGET_PREEMPT_STOP (R129): A pre-empted target finishes its output tile (or row block) and stops, saving phase, cursor and counts. -/
def execTargetPreemptStop (k : Fin 2688) (q : Fin 15) (s : State) : Host.Outcome State Fault Refusal := s.performPosting (preemptStopProg k.val q.val)

/-- TC_SPLIT_CTRL_WRITE (R124): Requests split or whole mode per array, setting SPLIT_PENDING and blocking issue on that array. -/
def execTcSplitCtrlWrite (k : Fin 2688) (v : BitVec 32) (s : State) : Host.Outcome State Fault Refusal := s.performPosting (onCluster k.val (splitWriteProg k.val v.toNat))

/-- SPLIT_MODE_CHANGE (R124): Once every in-flight instruction on the array has completed, the split mode changes and SPLIT_PENDING clears. -/
def execSplitModeChange (k : Fin 2688) (array : Fin 4) (s : State) : Host.Outcome State Fault Refusal := s.performPosting (splitChangeProg k.val array.val)

/-- TC_QTALLY_CLEAR (R100): Writing 1 clears the quantisation tallies. -/
def execTcQtallyClear (k : Fin 2688) (s : State) : Host.Outcome State Fault Refusal := s.performPosting (onCluster k.val (clearProg .tc (k.val / 168) (k.val % 168) R.TC_SAT_ELEMS R.TC_OUTLIER_TERMS))

/-- TC_TALLY_CLEAR (R138): Writing 1 clears the tensor-core stall and pipeline counters. -/
def execTcTallyClear (k : Fin 2688) (s : State) : Host.Outcome State Fault Refusal := s.performPosting (onCluster k.val (clearProg .tc (k.val / 168) (k.val % 168) R.TC_WAIT_PREEMPT R.TC_PARITY_RETRIES))

/-- TC_SW_CLEAR (R169): Writing 1 clears the sliding-window tallies. -/
def execTcSwClear (k : Fin 2688) (s : State) : Host.Outcome State Fault Refusal := s.performPosting (onCluster k.val (clearProg .tc (k.val / 168) (k.val % 168) R.TC_TAP_SKIP R.TC_CROP_INVALID))

/-- TC_ISSUE_CLEAR (R294): Writing 1 clears the descriptor-refused and dependency-cancelled counters. -/
def execTcIssueClear (k : Fin 2688) (s : State) : Host.Outcome State Fault Refusal := s.performPosting (onCluster k.val (clearProg .tc (k.val / 168) (k.val % 168) 0x644 0x648))

end Sys2Proof.Machine
end

