-- ==== Sys2Proof/Machine/Fp32.lean ====
section
/-! DEFINITION. The float arithmetic of the thread cores (R247, R248, R250): IEEE 754 binary32 and BF16, round to nearest with ties to even, exact arithmetic then one rounding, with the five exception flags. A result is a pair: the bits and the flags. -/

namespace Sys2Proof.Machine.Fp

/-- The flag bits of FSTAT (R239). -/
def invalid : Nat := 1
def divZero : Nat := 2
def overflow : Nat := 4
def underflow : Nat := 8
def inexact : Nat := 16

/-- A binary format: precision in bits, and the exponent of the last place of its subnormals. Both have an 8-bit exponent. -/
structure Fmt where
  p : Nat
  emin : Int
  deriving DecidableEq, Repr

def f32 : Fmt := ⟨24, -149⟩
def bf16 : Fmt := ⟨8, -133⟩

/-- What a float is: a NaN (signalling or not), an infinity, or (-1)^s × m × 2^e. -/
inductive Val where
  | nan (signalling : Bool)
  | inf (s : Bool)
  | fin (s : Bool) (m : Nat) (e : Int)
  deriving DecidableEq, Repr

/-- Reads the bits of a format. -/
def Fmt.read (f : Fmt) (b : Nat) : Val :=
  let s := bitAt b (f.p + 7)
  let x := bits b (f.p + 6) (f.p - 1)
  let m := b % 2 ^ (f.p - 1)
  if x = 255 then (if m = 0 then .inf s else .nan (!bitAt b (f.p - 2)))
  else if x = 0 then .fin s m f.emin
  else .fin s (m + 2 ^ (f.p - 1)) (f.emin + x - 1)

/-- The one NaN result (R248): 0x7FC0_0000 in FP32. -/
def Fmt.nan (f : Fmt) : Nat := 255 * 2 ^ (f.p - 1) + 2 ^ (f.p - 2)
def Fmt.infBits (f : Fmt) (s : Bool) : Nat := b2n s * 2 ^ (f.p + 7) + 255 * 2 ^ (f.p - 1)
def Fmt.zero (f : Fmt) (s : Bool) : Nat := b2n s * 2 ^ (f.p + 7)

/-- `m / 2^n` to the nearest integer, ties to even. -/
def rndEven (m n : Nat) : Nat :=
  let q := m / 2 ^ n
  let r := m % 2 ^ n
  if n = 0 then m
  else if 2 ^ (n - 1) < r || (r = 2 ^ (n - 1) && q % 2 = 1) then q + 1 else q

/-- Rounds (-1)^s × m × 2^e, m ≠ 0 or an exact zero of sign s, to a format. -/
def Fmt.round (f : Fmt) (s : Bool) (m : Nat) (e : Int) : Nat × Nat :=
  if m = 0 then (f.zero s, 0)
  else
    let top : Int := e + bitlen m
    let q := max (top - f.p) f.emin
    let mant := if q ≤ e then m * 2 ^ (e - q).toNat else rndEven m (q - e).toNat
    let lost := decide (e < q) && decide (m % 2 ^ (q - e).toNat ≠ 0)
    let isOver := mant = 2 ^ f.p
    let mant' := if isOver then mant / 2 else mant
    let q' := if isOver then q + 1 else q
    let biased : Int := if mant' < 2 ^ (f.p - 1) then 0 else q' - f.emin + 1
    let least : Int := f.emin + f.p - 1
    let qa := top - f.p
    let wide := if qa ≤ e then m * 2 ^ (e - qa).toNat else rndEven m (qa - e).toNat
    let tiny := if Config.tinyBefore then decide (top - 1 < least) else decide (qa + bitlen wide - 1 < least)
    if 255 ≤ biased then (f.infBits s, overflow + inexact)
    else
      (b2n s * 2 ^ (f.p + 7) + biased.toNat * 2 ^ (f.p - 1) + (if biased = 0 then mant' else mant' - 2 ^ (f.p - 1)),
        (if lost then inexact else 0) + (if lost && tiny then underflow else 0))

/-- The invalid flag of signalling operands. -/
def sigFlag (l : List Val) : Nat := if l.any (fun v => match v with | .nan true => true | _ => false) then invalid else 0
def anyNan (l : List Val) : Bool := l.any fun v => match v with | .nan _ => true | _ => false

/-- Sum of two finite values, exactly: sign, m, e. An exact zero of unlike signs is +0, of like signs keeps the sign. -/
def addFin (s1 : Bool) (m1 : Nat) (e1 : Int) (s2 : Bool) (m2 : Nat) (e2 : Int) : Bool × Nat × Int :=
  let e := min e1 e2
  let a : Int := m1 * 2 ^ (e1 - e).toNat
  let b : Int := m2 * 2 ^ (e2 - e).toNat
  let x := (if s1 then -a else a) + (if s2 then -b else b)
  if x = 0 then (s1 && s2, 0, e) else (decide (x < 0), x.natAbs, e)

/-- FADD (R247). -/
def add (a b : Nat) : Nat × Nat :=
  let x := f32.read a
  let y := f32.read b
  if anyNan [x, y] then (f32.nan, sigFlag [x, y])
  else match x, y with
  | .inf s, .inf t => if s = t then (f32.infBits s, 0) else (f32.nan, invalid)
  | .inf s, _ => (f32.infBits s, 0)
  | _, .inf t => (f32.infBits t, 0)
  | .fin s m e, .fin t n g =>
    let r := addFin s m e t n g
    f32.round r.1 r.2.1 r.2.2
  | _, _ => (f32.nan, 0)

/-- The sign bit flipped. -/
def neg (a : Nat) : Nat := if bitAt a 31 then a - 2 ^ 31 else a + 2 ^ 31

/-- FSUB: a + (−b), a NaN operand counting as itself. -/
def sub (a b : Nat) : Nat × Nat := add a (neg b)

/-- FMUL. -/
def mul (a b : Nat) : Nat × Nat :=
  let x := f32.read a
  let y := f32.read b
  if anyNan [x, y] then (f32.nan, sigFlag [x, y])
  else match x, y with
  | .inf s, .inf t => (f32.infBits (s != t), 0)
  | .inf s, .fin t n _ => if n = 0 then (f32.nan, invalid) else (f32.infBits (s != t), 0)
  | .fin s m _, .inf t => if m = 0 then (f32.nan, invalid) else (f32.infBits (s != t), 0)
  | .fin s m e, .fin t n g => f32.round (s != t) (m * n) (e + g)
  | _, _ => (f32.nan, 0)

/-- FFMA: a × b + c with one rounding. -/
def fma (a b c : Nat) : Nat × Nat :=
  let x := f32.read a
  let y := f32.read b
  let z := f32.read c
  let zeroInf := match x, y with
    | .inf _, .fin _ n _ => n = 0
    | .fin _ m _, .inf _ => m = 0
    | _, _ => false
  if anyNan [x, y, z] then
    (f32.nan, if zeroInf && Config.fmaNanInvalid then invalid else sigFlag [x, y, z])
  else if zeroInf then (f32.nan, invalid)
  else
    let prodInf : Option Bool := match x, y with
      | .inf s, .inf t => some (s != t)
      | .inf s, .fin t _ _ => some (s != t)
      | .fin s _ _, .inf t => some (s != t)
      | _, _ => none
    match prodInf, z with
    | some s, .inf t => if s = t then (f32.infBits s, 0) else (f32.nan, invalid)
    | some s, _ => (f32.infBits s, 0)
    | none, .inf t => (f32.infBits t, 0)
    | none, .fin u k h =>
      (match x, y with
      | .fin s m e, .fin t n g =>
        let r := addFin (s != t) (m * n) (e + g) u k h
        f32.round r.1 r.2.1 r.2.2
      | _, _ => (f32.nan, 0))
    | none, _ => (f32.nan, 0)

/-- `a < b` of two values that are not NaN; zeros are equal. -/
def below (x y : Val) : Bool :=
  match x, y with
  | .inf s, .inf t => s && !t
  | .inf s, _ => s
  | _, .inf t => !t
  | .fin s m e, .fin t n g =>
    let l := min e g
    let a : Int := m * 2 ^ (e - l).toNat
    let b : Int := n * 2 ^ (g - l).toNat
    decide ((if s then -a else a) < (if t then -b else b))
  | _, _ => false

/-- The order of FMIN and FMAX: −0 lies below +0 (R247). -/
def belowZ (a b : Nat) : Bool :=
  let x := f32.read a
  let y := f32.read b
  below x y || (!below y x && bitAt a 31 && !bitAt b 31)

/-- FMIN and FMAX (R247): with one NaN the other operand; with two the NaN result. -/
def pick (lower : Bool) (a b : Nat) : Nat × Nat :=
  let x := f32.read a
  let y := f32.read b
  let fl := sigFlag [x, y]
  match x, y with
  | .nan _, .nan _ => (f32.nan, fl)
  | .nan _, _ => (b, fl)
  | _, .nan _ => (a, fl)
  | _, _ => (if belowZ a b = lower then a else b, fl)

def fmin (a b : Nat) : Nat × Nat := pick true a b
def fmax (a b : Nat) : Nat × Nat := pick false a b

/-- FDIV, correctly rounded. -/
def div (a b : Nat) : Nat × Nat :=
  let x := f32.read a
  let y := f32.read b
  if anyNan [x, y] then (f32.nan, sigFlag [x, y])
  else match x, y with
  | .inf _, .inf _ => (f32.nan, invalid)
  | .inf s, .fin t _ _ => (f32.infBits (s != t), 0)
  | .fin s _ _, .inf t => (f32.zero (s != t), 0)
  | .fin s m e, .fin t n g =>
    if n = 0 then (if m = 0 then (f32.nan, invalid) else (f32.infBits (s != t), divZero))
    else
      let w := m * 2 ^ 80
      f32.round (s != t) (2 * (w / n) + b2n (w % n != 0)) (e - g - 81)
  | _, _ => (f32.nan, 0)

/-- FSQRT, correctly rounded. -/
def sqrt (a : Nat) : Nat × Nat :=
  match f32.read a with
  | .nan q => (f32.nan, if q then invalid else 0)
  | .inf s => if s then (f32.nan, invalid) else (f32.infBits false, 0)
  | .fin s m e =>
    if m = 0 then (f32.zero s, 0)
    else if s then (f32.nan, invalid)
    else
      let odd := (modInt e 2).toNat
      let w := m * 2 ^ (80 + odd)
      let r := Nat.sqrt w
      f32.round false (2 * r + b2n (r * r != w)) (floorDiv (e - odd - 80) 2 - 1)

/-- FCVT 0: i32 to FP32. -/
def ofI32 (v : Nat) : Nat × Nat :=
  let x := sext 32 v
  f32.round (decide (x < 0)) x.natAbs 0

/-- FCVT 1: FP32 to i32, ties away from zero, saturating, NaN to 0 (R248). -/
def toI32 (a : Nat) : Int × Nat :=
  match f32.read a with
  | .nan _ => (0, invalid)
  | .inf s => (if s then -2 ^ 31 else 2 ^ 31 - 1, invalid)
  | .fin s m e =>
    let v : Int := if s then -(m : Int) else m
    let r := if 0 ≤ e then v * 2 ^ e.toNat else rndAway v (-e).toNat
    if r < -2 ^ 31 then (-2 ^ 31, invalid)
    else if 2 ^ 31 - 1 < r then (2 ^ 31 - 1, invalid)
    else (r, if e < 0 && m % 2 ^ (-e).toNat ≠ 0 then inexact else 0)

/-- FCVT 2: FP32 to BF16. -/
def toBf16 (a : Nat) : Nat × Nat :=
  match f32.read a with
  | .nan q => (bf16.nan, if q then invalid else 0)
  | .inf s => (bf16.infBits s, 0)
  | .fin s m e => bf16.round s m e

/-- FCVT 3: BF16 to FP32, exactly. -/
def ofBf16 (a : Nat) : Nat × Nat :=
  match bf16.read a with
  | .nan q => (f32.nan, if q then invalid else 0)
  | _ => (a % 2 ^ 16 * 2 ^ 16, 0)

/-- FCMPLT: false if either operand is NaN; IEEE 754's ordered comparison, invalid on any NaN. -/
def lt (a b : Nat) : Bool × Nat :=
  let x := f32.read a
  let y := f32.read b
  if anyNan [x, y] then (false, invalid) else (below x y, 0)

/-- FCMPEQ: false if either operand is NaN; invalid on a signalling NaN only. -/
def eq (a b : Nat) : Bool × Nat :=
  let x := f32.read a
  let y := f32.read b
  if anyNan [x, y] then (false, sigFlag [x, y]) else (!below x y && !below y x, 0)

/-- A BF16 lane (R250): computed as in FP32, then rounded once to BF16. -/
def lane16 (r : Nat × Nat) : Nat × Nat :=
  let q := toBf16 r.1
  (q.1, r.2 ||| q.2)

end Sys2Proof.Machine.Fp
end

