-- ==== Sys2Proof/Machine/ThreadMem.lean ====
section
/-! DEFINITION. Memory, atomic and fence instructions of the thread cores (R251, R257 to R261, R266), WAITV (R243), and the stop of a flock for pre-emption (R267). -/

namespace Sys2Proof.Machine

/-! ### The data cache (R258) -/

/-- The lines the data cache holds. -/
def dcacheLines : Nat := 512

/-- A line filled: a present one may give way, which of them the spec leaves open; a full cache always loses one. -/
def dcachePut (v : Nat) (l : List (Nat × List Byte)) (line : Nat) (b : List Byte) : List (Nat × List Byte) :=
  let n := l.length
  let rest := if n < dcacheLines then l.eraseIdx (v % (n + 1)) else l.eraseIdx (v % n)
  (line, b) :: rest

/-- The bytes of a present line after a store at `a` (R258). -/
def dcacheStore (a : Nat) (bs : List Byte) (l : List (Nat × List Byte)) : List (Nat × List Byte) :=
  l.map fun (e : Nat × List Byte) =>
    if a < e.1 + 64 && e.1 < a + bs.length then
      (e.1, (List.range 64).map fun i => if a ≤ e.1 + i && e.1 + i < a + bs.length then bs.getD (e.1 + i - a) 0 else e.2.getD i 0)
    else e

/-- Fills the line at `line`. -/
def fillLine (k core line : Nat) : Prog := withFree fun v => look fun s =>
  .seq (memTouch line 64) (onCore k core fun x => { x with dcache := dcachePut v x.dcache line (s.bytesAt line 64) })

/-- A load of `n` bytes at a DPA, through the data cache for a stack (R258); `va` is its address, for an exception. -/
def thLoad (a : ThOp) (t va dpa n : Nat) (got : List Byte → Prog) : Prog := look fun s =>
  let line := dpa / 64 * 64
  if dpa < stackEnd then
    match ((s.cl a.k).core a.core).dcache.find? (fun (e : Nat × List Byte) => e.1 == line) with
    | some e => got ((e.2.drop (dpa - line)).take n)
    | none => .seq (thTally a.k a.core R.TH_DCACHE_MISS 1)
        (if s.readBad line 64 then .seq (memTouch line 64) (thDie a.k a.core a.f 0x20 va t false dpa)
         else .seq (fillLine a.k a.core line) (got (s.bytesAt dpa n)))
  else if s.readBad dpa n then .seq (memTouch dpa n) (thDie a.k a.core a.f 0x20 va t false dpa)
  else busRead dpa n got

/-- A store: through to its home, updating a present line. -/
def thStore (a : ThOp) (dpa : Nat) (bs : List Byte) : Prog := look fun s => progs [
  onCore a.k a.core fun x => { x with dcache := dcacheStore dpa bs x.dcache },
  noteWrite (s.flockOf a).cmd dpa bs.length,
  busWrite dpa bs]

/-! ### Addresses (R241, R257) -/

/-- The address of a MEM word: 64-bit. -/
def memVa (r : Thread) (w scale : Nat) : Nat := wrapN 64 ((r.gr (fA w) : Int) + fOff6 w * scale)

/-- Makes a thread's accesses, each aligned to its length; the first that is misaligned raises cause 0x13 (R257, R265). -/
def thAligned (a : ThOp) (op t : Nat) (l : List VAcc) (cont : Prog) : Prog :=
  let ok (x : VAcc) : Bool := decide (2 ^ 48 ≤ x.va) || x.va % x.len = 0
  let first := l.takeWhile ok
  if first.length = l.length then thAccess a.k a.core a.f op a.w t l cont
  else thAccess a.k a.core a.f op a.w t first (thDie a.k a.core a.f 0x13 ((l.drop first.length).headD ⟨0, 1, 0⟩).va t false 0)

/-- The DPA of a thread's address, its page being cached. -/
def Dev.thDpa (s : Dev) (a : ThOp) (va : Nat) : Nat := s.dpaOf (a.k / 168) (a.k % 168) va

/-- A memory instruction: each executing thread in turn (R259, R266). -/
def thMem (a : ThOp) (op : Nat) (ok : Bool) (each : Nat → Prog) : Prog := thStep a op pipeMemory ok (thSeq a each)

/-! ### Loads and stores -/

/-- LD and LDS. -/
def loadProg (a : ThOp) (op : Nat) (signed : Bool) : Prog := thMem a op (memOk .g .g [0, 1, 2, 3] a.w) fun t => look fun s =>
  let n := 2 ^ fSz a.w
  let va := memVa ((s.flockOf a).thr t) a.w n
  thAligned a op t [⟨va, n, accRead⟩] (look fun s => thLoad a t va (s.thDpa a va) n fun b =>
    thDone a t fun r => r.setG (fD a.w) (if signed then wrapN 64 (sext (8 * n) (leNat b)) else leNat b))
def ldProg (a : ThOp) : Prog := loadProg a 0x70 false
def ldsProg (a : ThOp) : Prog := loadProg a 0x71 true

/-- ST. -/
def stProg (a : ThOp) : Prog := thMem a 0x72 (memOk .g .g [0, 1, 2, 3] a.w) fun t => look fun s =>
  let n := 2 ^ fSz a.w
  let r := (s.flockOf a).thr t
  let va := memVa r a.w n
  thAligned a 0x72 t [⟨va, n, accWrite⟩] (look fun s => progs [thStore a (s.thDpa a va) (leBytes n (r.gr (fD a.w))), thDone a t id])

/-- VLD. -/
def vldProg (a : ThOp) : Prog := thMem a 0x73 (memOk .v .g [0] a.w) fun t => look fun s =>
  let va := memVa ((s.flockOf a).thr t) a.w 64
  thAligned a 0x73 t [⟨va, 64, accRead⟩] (look fun s => thLoad a t va (s.thDpa a va) 64 fun b =>
    thDone a t fun r => r.setV (fD a.w) (leNat b))

/-- The identity of a thread in a mailbox send (R479). -/
def Dev.threadId (s : Dev) (a : ThOp) (t : Nat) : Nat :=
  a.k / 168 * 2 ^ 26 + s.logicalOf (a.k / 168) (a.k % 168) * 2 ^ 18 + a.core * 2 ^ 11 + a.f * 2 ^ 10 + t * 2 ^ 7

/-- The mailbox whose send window begins at a DPA. -/
def mailboxAt (dpa : Nat) : Option Nat :=
  match place dpa with
  | .reg .mb _ m off => if off = 0 then some m else none
  | _ => none

/-- VST; one to a mailbox's send window is a send (R479). -/
def vstProg (a : ThOp) : Prog := thMem a 0x74 (memOk .v .g [0] a.w) fun t => look fun s =>
  let r := (s.flockOf a).thr t
  let va := memVa r a.w 64
  let l : List VAcc := [⟨va, 64, accWrite⟩]
  let bs := r.vBytes (fD a.w)
  let plain := thAligned a 0x74 t l (look fun s => progs [thStore a (s.thDpa a va) bs, thDone a t id])
  let d := a.k / 168
  let p := a.k % 168
  if 2 ^ 48 ≤ va || va % 64 ≠ 0 then plain
  else .seq (fillFromDie d p l) (look fun s =>
    let mine (u : UnitRef) : Bool := u == flockUnit a.k a.core a.f
    match (s.lent d p mine).xlate d p va accWrite with
    | .hit dpa => match mailboxAt dpa with
      | some m => progs [lendOnce d p mine, touchPages d p l, mbSend m (s.threadId a t) bs none, thDone a t id, returnOnce d p mine l]
      | none => plain
    | _ => plain)

/-- Bytes of a lane of VLDG and VSTS, and its lanes: M = 2 or 3. -/
def laneLen (w : Nat) : Nat := if fM w = 2 then 4 else 8
def laneVas (r : Thread) (w : Nat) : List Nat :=
  let n := laneLen w
  (List.range (64 / n)).map fun i => wrapN 64 ((r.gr (fA w) : Int) + sext (8 * n) (leAt (r.vBytes (fB w)) (i * n) n))

/-- The lanes of a VLDG, one after the other. -/
def gatherLanes (a : ThOp) (t n : Nat) : List Nat → List Byte → Prog
  | [], b => thDone a t fun r => r.setV (fD a.w) (leNat b)
  | va :: rest, b => look fun s => thLoad a t va (s.thDpa a va) n fun x => gatherLanes a t n rest (b ++ x)

/-- VLDG. -/
def vldgProg (a : ThOp) : Prog := thMem a 0x75 (regOk .v .g .v [2, 3] a.w) fun t => look fun s =>
  let n := laneLen a.w
  let vas := laneVas ((s.flockOf a).thr t) a.w
  thAligned a 0x75 t (vas.map fun va => ⟨va, n, accRead⟩) (gatherLanes a t n vas [])

/-- VSTS: lanes in ascending order. -/
def vstsProg (a : ThOp) : Prog := thMem a 0x76 (regOk .v .g .v [2, 3] a.w) fun t => look fun s =>
  let n := laneLen a.w
  let r := (s.flockOf a).thr t
  let vas := laneVas r a.w
  let d := r.vBytes (fD a.w)
  thAligned a 0x76 t (vas.map fun va => ⟨va, n, accWrite⟩) (progs [
    forAll (List.range vas.length) fun i => look fun s => thStore a (s.thDpa a (vas.getD i 0)) (sliceBytes d (i * n) n),
    thDone a t id])

/-- PREF: fills the line of a stack page whose translation is cached; it never faults. -/
def prefProg (a : ThOp) : Prog := thMem a 0x77 (memOk .no .g [0, 1, 2, 3] a.w) fun t => look fun s =>
  let d := a.k / 168
  let p := a.k % 168
  let va := memVa ((s.flockOf a).thr t) a.w (2 ^ fSz a.w)
  .seq (fillFromDie d p [⟨va, 1, accRead⟩]) (look fun s =>
    let fill := match s.xlate d p va accRead with
      | .hit dpa =>
        let line := dpa / 64 * 64
        let held := ((s.cl a.k).core a.core).dcache.any fun (e : Nat × List Byte) => e.1 == line
        only (dpa < stackEnd && s.reachAt dpa == .ok && !held && !s.readBad line 64) (fillLine a.k a.core line)
      | _ => .skip
    progs [fill, thDone a t id])

/-! ### Atomics (R251, R259, R261) -/

/-- An atomic of `n` bytes at its home: `f` takes the thread and the old value, and gives the value stored, if any, and the FSTAT flags it raises. -/
def atomicThread (a : ThOp) (op n t : Nat) (f : Thread → Nat → Option Nat × Nat) : Prog := look fun s =>
  let r := (s.flockOf a).thr t
  let va := r.gr (fA a.w)
  thAligned a op t [⟨va, n, accAtomic⟩] (look fun s =>
    let dpa := s.thDpa a va
    if s.readBad dpa n then .seq (memTouch dpa n) (thDie a.k a.core a.f 0x20 va t false dpa)
    else busRead dpa n fun b =>
      let old := leNat b
      let x := f r old
      progs [
        match x.1 with
        | some v => progs [noteWrite (s.flockOf a).cmd dpa n, busWrite dpa (leBytes n v)]
        | none => .skip,
        thDone a t fun r => (r.setG (fD a.w) old).raise x.2])

/-- An atomic whose M gives 4 or 8 bytes. -/
def atomicProg (a : ThOp) (op : Nat) (f : Nat → Nat → Nat → Nat) : Prog :=
  let n := laneLen a.w
  thMem a op (regOk .g .g .g [2, 3] a.w) fun t =>
    atomicThread a op n t fun r old => (some (f n old (r.gr (fB a.w) % 2 ^ (8 * n))), 0)

/-- The lesser of two values, signed. -/
def signedMin (n x y : Nat) : Nat := if sext (8 * n) x ≤ sext (8 * n) y then x else y
def signedMax (n x y : Nat) : Nat := if sext (8 * n) x ≤ sext (8 * n) y then y else x

def aaddProg (a : ThOp) : Prog := atomicProg a 0x80 fun n x y => (x + y) % 2 ^ (8 * n)
def aminProg (a : ThOp) : Prog := atomicProg a 0x81 signedMin
def amaxProg (a : ThOp) : Prog := atomicProg a 0x82 signedMax
def aandProg (a : ThOp) : Prog := atomicProg a 0x83 fun _ x y => x &&& y
def aorProg (a : ThOp) : Prog := atomicProg a 0x84 fun _ x y => x ||| y
def axchgProg (a : ThOp) : Prog := atomicProg a 0x85 fun _ _ y => y

/-- ACAS: gb is stored where the old value is gd. -/
def acasProg (a : ThOp) : Prog :=
  let n := laneLen a.w
  thMem a 0x86 (regOk .g .g .g [2, 3] a.w) fun t => atomicThread a 0x86 n t fun r old =>
    (if old = r.gr (fD a.w) % 2 ^ (8 * n) then some (r.gr (fB a.w) % 2 ^ (8 * n)) else none, 0)

/-- AFADD: on a STRICT queue it raises cause 0x04 (R261). -/
def afaddProg (a : ThOp) : Prog := thMem a 0x87 (regOk .g .g .g [2] a.w) fun t => look fun s =>
  if !(s.flockOf a).fast then thDie a.k a.core a.f 4 0 t false 0
  else atomicThread a 0x87 4 t fun r old =>
    let x := Fp.add old (r.gr (fB a.w) % 2 ^ 32)
    (some x.1, x.2)

/-- FENCE: every access of the model is performed when it is made; an acquire at scope CLUSTER or DEVICE invalidates the data cache (R259). -/
def fenceProg (a : ThOp) : Prog := thMem a 0x90 (regOk .o .no .no [0, 1, 2] a.w) fun t =>
  progs [only (fM a.w ≠ 0 && fD a.w % 2 = 1) (acquire a), thDone a t id]

/-! ### WAITV (R243) -/

/-- What a flock that has read its word waits for: its next poll. -/
def waitvPoll : Nat := 0x10B

/-- Whether the word compares. -/
def waitvHolds (m x y : Nat) : Bool := if m = 0 then x = y else if m = 1 then x ≠ y else decide (y ≤ x)

/-- The threads read their words, past the data cache; the first whose word does not compare keeps the flock waiting. -/
def waitvBody (a : ThOp) : Prog := thSeq a fun t => look fun s =>
  let r := (s.flockOf a).thr t
  let va := r.gr (fA a.w)
  thAligned a 0x0B t [⟨va, 4, accRead⟩] (look fun s =>
    let dpa := s.thDpa a va
    if s.readBad dpa 4 then .seq (memTouch dpa 4) (thDie a.k a.core a.f 0x20 va t false dpa)
    else busRead dpa 4 fun b =>
      if waitvHolds (fM a.w) (leNat b) (r.gr (fB a.w) % 2 ^ 32) then thDone a t id
      else thWait a.k a.core a.f waitvPoll a.w t va R.TH_WAIT_SYNC)

def waitvProg (a : ThOp) : Prog := thStep a 0x0B pipeMemory (regOk .no .g .g [0, 1, 2] a.w) (waitvBody a)

/-- WAITV_POLL: 64 core cycles after the last read the word is read again. -/
def waitvPollProg (l : FlockAt) : Prog := look fun s =>
  let x := s.flock l.k l.core.val l.flock.val
  match x.wait with
  | some v => only (x.st == .wait && v.op = waitvPoll && !x.preempt && s.clusterOn l.die.val l.cluster.val)
      (.seq (.upd (.time 40)) (waitvBody ⟨l, v.w, false, false⟩))
  | none => .skip

/-! ### Pre-emption (R267) -/

/-- FLOCK_PREEMPT_STOP: a flock whose pre-emption was asked stops between instructions; a wait is abandoned and its instruction runs again on
resume, but a memory instruction in progress completes first. One that stands at a posted fault keeps its place, and its record is
withdrawn (R352), but where fault and request came at one time the flock waits for firmware first (R269, log 46). -/
def flockPreemptStopProg (l : FlockAt) : Prog := look fun s =>
  let k := l.k
  let core := l.core.val
  let f := l.flock.val
  let x := s.flock k core f
  let m := s.die (k / 168)
  let together := match x.wait, s.cmdOf x.cmd with | some v, some c => v.since = c.preemptAt | _, _ => false
  let posted := x.st == .faulted && !together && (m.fq ++ m.backlog).any fun r => r.unit == flockUnit k core f && !r.withdrawn
  let memory := match x.wait with
    | some v => 0x70 ≤ v.op && v.op ≤ 0x90 && v.op ≠ 0x78
    | none => false
  only (x.preempt && (x.st == .run || x.st == .restoring || posted || (x.st == .wait && !memory))) (progs [
    dropFlockWaits k core f,
    onFlock k core f fun x => { x with
      st := .saving
      wait := none },
    thTally k core R.TH_WAIT_PREEMPT 1])

end Sys2Proof.Machine
end

