-- ==== Sys2Proof/Machine/ExecThreadCtl.lean ====
section
/-! DEFINITION. The meanings of the commands of the thread cores: control, memory, issue (R232 to R272). -/

namespace Sys2Proof.Machine

/-- TISSUE (R262): Pushes one tensor, SF or coder descriptor per executing thread, allocating a tag and checking W0 to W3. -/
def execTissue (a : ThOp) (s : State) : Host.Outcome State Fault Refusal := s.perform (tissueProg a)

/-- BISSUE (R262): Pushes one barge descriptor per executing thread to the cluster's barge engine, allocating a tag. -/
def execBissue (a : ThOp) (s : State) : Host.Outcome State Fault Refusal := s.perform (bissueProg a)

/-- PUSH_UNBLOCK (R262): A push blocked by an empty tag pool or full queue proceeds once a tag or queue entry frees. -/
def execPushUnblock (l : FlockAt) (s : State) : Host.Outcome State Fault Refusal := s.perform (pushUnblockProg l)

/-- NOP (R243): Does nothing. -/
def execNop (a : ThOp) (s : State) : Host.Outcome State Fault Refusal := s.perform (nopProg a)

/-- EXIT (R243): Executing threads leave the live and active masks; the flock ends when LIVE is 0. -/
def execExit (a : ThOp) (s : State) : Host.Outcome State Fault Refusal := s.perform (exitProg a)

/-- BRA (R254): Executing threads branch to the target, dividing the flock if some do not. -/
def execBra (a : ThOp) (s : State) : Host.Outcome State Fault Refusal := s.perform (braProg a)

/-- CALL (R243): Writes the return address to g63 and branches as BRA. -/
def execCall (a : ThOp) (s : State) : Host.Outcome State Fault Refusal := s.perform (callProg a)

/-- JR (R243): Executing threads jump to a common register target. -/
def execJr (a : ThOp) (s : State) : Host.Outcome State Fault Refusal := s.perform (jrProg a)

/-- JPUSH (R243): Pushes a join entry holding the target and active mask. -/
def execJpush (a : ThOp) (s : State) : Host.Outcome State Fault Refusal := s.perform (jpushProg a)

/-- JOIN (R255): Ends the current path and pops the join stack. -/
def execJoin (a : ThOp) (s : State) : Host.Outcome State Fault Refusal := s.perform (joinProg a)

/-- BAR (R243): Arrives at a core or cluster barrier and waits. -/
def execBar (a : ThOp) (s : State) : Host.Outcome State Fault Refusal := s.perform (barProg a)

/-- BARRIER_COMPLETE (R243): A barrier round completes when its count of flocks has arrived, releasing them. -/
def execBarrierComplete (k : Fin 2688) (core : Fin 112) (ofCore : Bool) (n : Fin 32) (s : State) : Host.Outcome State Fault Refusal := s.perform (barrierCompleteProg k.val core.val ofCore n.val)

/-- MFS (R239): Reads a special register. -/
def execMfs (a : ThOp) (s : State) : Host.Outcome State Fault Refusal := s.perform (mfsProg a)

/-- MTS (R239): Writes a special register (FSTAT only). -/
def execMts (a : ThOp) (s : State) : Host.Outcome State Fault Refusal := s.perform (mtsProg a)

/-- TRAP (R265): Raises TRAP with a code. -/
def execTrap (a : ThOp) (s : State) : Host.Outcome State Fault Refusal := s.perform (trapProg a)

/-- WAITV (R243): Waits until a word in memory compares with a value. -/
def execWaitv (a : ThOp) (s : State) : Host.Outcome State Fault Refusal := s.perform (waitvProg a)

/-- WAITV_POLL (R243): Every 64 core cycles a waiting WAITV reads its word again and ends the wait if the comparison holds. -/
def execWaitvPoll (l : FlockAt) (s : State) : Host.Outcome State Fault Refusal := s.perform (waitvPollProg l)

/-- LD (R251): Loads a zero-extended scalar. -/
def execLd (a : ThOp) (s : State) : Host.Outcome State Fault Refusal := s.perform (ldProg a)

/-- LDS (R251): Loads a sign-extended scalar. -/
def execLds (a : ThOp) (s : State) : Host.Outcome State Fault Refusal := s.perform (ldsProg a)

/-- ST (R251): Stores a scalar. -/
def execSt (a : ThOp) (s : State) : Host.Outcome State Fault Refusal := s.perform (stProg a)

/-- VLD (R251): Loads 64 bytes into a vector. -/
def execVld (a : ThOp) (s : State) : Host.Outcome State Fault Refusal := s.perform (vldProg a)

/-- VST (R251): Stores 64 bytes from a vector. -/
def execVst (a : ThOp) (s : State) : Host.Outcome State Fault Refusal := s.perform (vstProg a)

/-- VLDG (R251): Gathers vector lanes from offsets. -/
def execVldg (a : ThOp) (s : State) : Host.Outcome State Fault Refusal := s.perform (vldgProg a)

/-- VSTS (R251): Scatters vector lanes to offsets. -/
def execVsts (a : ThOp) (s : State) : Host.Outcome State Fault Refusal := s.perform (vstsProg a)

/-- PREF (R251): Fills a data-cache line without faulting. -/
def execPref (a : ThOp) (s : State) : Host.Outcome State Fault Refusal := s.perform (prefProg a)

/-- LKGET (R311): Takes the next filled block as consumer or a free block as producer, waiting if none. -/
def execLkget (a : ThOp) (s : State) : Host.Outcome State Fault Refusal := s.perform (lkgetProg a)

/-- LKPUT (R311): Releases a consumed block or commits a produced block. -/
def execLkput (a : ThOp) (s : State) : Host.Outcome State Fault Refusal := s.perform (lkputProg a)

/-- AADD (R251): Atomic add. -/
def execAadd (a : ThOp) (s : State) : Host.Outcome State Fault Refusal := s.perform (aaddProg a)

/-- AMIN (R251): Atomic signed minimum. -/
def execAmin (a : ThOp) (s : State) : Host.Outcome State Fault Refusal := s.perform (aminProg a)

/-- AMAX (R251): Atomic signed maximum. -/
def execAmax (a : ThOp) (s : State) : Host.Outcome State Fault Refusal := s.perform (amaxProg a)

/-- AAND (R251): Atomic and. -/
def execAand (a : ThOp) (s : State) : Host.Outcome State Fault Refusal := s.perform (aandProg a)

/-- AOR (R251): Atomic or. -/
def execAor (a : ThOp) (s : State) : Host.Outcome State Fault Refusal := s.perform (aorProg a)

/-- AXCHG (R251): Atomic exchange. -/
def execAxchg (a : ThOp) (s : State) : Host.Outcome State Fault Refusal := s.perform (axchgProg a)

/-- ACAS (R251): Atomic compare and swap. -/
def execAcas (a : ThOp) (s : State) : Host.Outcome State Fault Refusal := s.perform (acasProg a)

/-- AFADD (R261): Atomic FP32 add, FAST queues only. -/
def execAfadd (a : ThOp) (s : State) : Host.Outcome State Fault Refusal := s.perform (afaddProg a)

/-- FENCE (R259): Orders accesses at a scope with acquire, release or both. -/
def execFence (a : ThOp) (s : State) : Host.Outcome State Fault Refusal := s.perform (fenceProg a)

/-- TWAIT (R264): Waits until a tag completes and returns its status. -/
def execTwait (a : ThOp) (s : State) : Host.Outcome State Fault Refusal := s.perform (twaitProg a)

/-- TPOLL (R264): Returns a tag's status if complete, otherwise 0x100. -/
def execTpoll (a : ThOp) (s : State) : Host.Outcome State Fault Refusal := s.perform (tpollProg a)

/-- TCREC (R289): Waits for a tag and returns its 64-byte completion record. -/
def execTcrec (a : ThOp) (s : State) : Host.Outcome State Fault Refusal := s.perform (tcrecProg a)

/-- TFREE (R264): Returns a completed tag to the pool. -/
def execTfree (a : ThOp) (s : State) : Host.Outcome State Fault Refusal := s.perform (tfreeProg a)

/-- TCANCEL (R293): Requests cancellation of a tag's instruction or barge. -/
def execTcancel (a : ThOp) (s : State) : Host.Outcome State Fault Refusal := s.perform (tcancelProg a)

/-- FLOCK_PREEMPT_STOP (R267): A pre-empted flock stops at an instruction boundary, abandoning waits, and its context is saved. -/
def execFlockPreemptStop (l : FlockAt) (s : State) : Host.Outcome State Fault Refusal := s.perform (flockPreemptStopProg l)

/-- TH_TALLY_CLEAR (R272): Writing 1 clears the thread-core counters. -/
def execThTallyClear (k : Fin 2688) (core : Fin 112) (s : State) : Host.Outcome State Fault Refusal := s.perform (onCluster k.val (thTallyClearProg k.val core.val))

end Sys2Proof.Machine
end

