-- ==== Sys2Proof/Machine/ThreadAlu.lean ====
section
/-! DEFINITION. The scalar instructions of the thread cores: integer (R244, R245), predicates (R246), and float (R247, R248). -/

namespace Sys2Proof.Machine

/-! ### Shapes -/

/-- gd := f ga gb. -/
def alu3 (a : ThOp) (op : Nat) (ms : List Nat) (f : Nat → Nat → Nat) : Prog :=
  thRegs a op (regOk .g .g .g ms a.w) fun _ t => t.setG (fD a.w) (f (t.gr (fA a.w)) (t.gr (fB a.w)))
/-- gd := f ga. -/
def alu2 (a : ThOp) (op : Nat) (f : Nat → Nat) : Prog :=
  thRegs a op (regOk .g .g .no [0] a.w) fun _ t => t.setG (fD a.w) (f (t.gr (fA a.w)))
/-- gd := f ga IMM8. -/
def aluImm (a : ThOp) (op : Nat) (f : Nat → Int → Nat) : Prog :=
  thRegs a op (immOk .g .g a.w) fun _ t => t.setG (fD a.w) (f (t.gr (fA a.w)) (fImm8 a.w))
/-- pd := f ga gb. -/
def cmp3 (a : ThOp) (op : Nat) (ms : List Nat) (f : Nat → Nat → Bool) : Prog :=
  thRegs a op (regOk .p .g .g ms a.w) fun _ t => t.setP (fD a.w) (f (t.gr (fA a.w)) (t.gr (fB a.w)))
/-- gd[31:0] := f ga gb, gd[63:32] := 0, with flags. -/
def fp3 (a : ThOp) (op : Nat) (f : Nat → Nat → Nat × Nat) : Prog :=
  thRegs a op (regOk .g .g .g [0] a.w) fun _ t =>
    let r := f (t.gr (fA a.w) % 2 ^ 32) (t.gr (fB a.w) % 2 ^ 32)
    (t.setG (fD a.w) r.1).raise r.2
/-- pd := f ga gb, with flags. -/
def fcmp (a : ThOp) (op : Nat) (f : Nat → Nat → Bool × Nat) : Prog :=
  thRegs a op (regOk .p .g .g [0] a.w) fun _ t =>
    let r := f (t.gr (fA a.w) % 2 ^ 32) (t.gr (fB a.w) % 2 ^ 32)
    (t.setP (fD a.w) r.1).raise r.2

/-- A register read as signed. -/
def s64 (x : Nat) : Int := sext 64 x
/-- The 64-bit code of an integer. -/
def u64 (x : Int) : Nat := wrapN 64 x

/-! ### Scalar integer (R244, R245) -/

def addProg (a : ThOp) : Prog := alu3 a 0x10 [0] fun x y => x + y
def subProg (a : ThOp) : Prog := alu3 a 0x11 [0] fun x y => u64 ((x : Int) - y)
def mulProg (a : ThOp) : Prog := alu3 a 0x12 [0] fun x y => x * y
def mulhProg (a : ThOp) : Prog := alu3 a 0x13 [0, 1] fun x y =>
  if fM a.w = 0 then u64 (shrInt (s64 x * s64 y) 64) else x * y / 2 ^ 64
def andProg (a : ThOp) : Prog := alu3 a 0x14 [0] fun x y => x &&& y
def orProg (a : ThOp) : Prog := alu3 a 0x15 [0] fun x y => x ||| y
def xorProg (a : ThOp) : Prog := alu3 a 0x16 [0] fun x y => x ^^^ y
def shlProg (a : ThOp) : Prog := alu3 a 0x17 [0] fun x y => x * 2 ^ (y % 64)
def shrProg (a : ThOp) : Prog := alu3 a 0x18 [0, 1] fun x y =>
  if fM a.w = 0 then x / 2 ^ (y % 64) else u64 (shrInt (s64 x) (y % 64))
def minProg (a : ThOp) : Prog := alu3 a 0x19 [0, 1] fun x y =>
  if fM a.w = 0 then u64 (min (s64 x) (s64 y)) else min x y
def maxProg (a : ThOp) : Prog := alu3 a 0x1A [0, 1] fun x y =>
  if fM a.w = 0 then u64 (max (s64 x) (s64 y)) else max x y

/-- The quotient of R245, toward zero; 0 for a divisor of 0. -/
def quot (signed : Bool) (x y : Nat) : Int :=
  if y = 0 then 0 else if signed then Int.tdiv (s64 x) (s64 y) else ((x / y : Nat) : Int)

def divProg (a : ThOp) : Prog := alu3 a 0x1B [0, 1] fun x y => u64 (quot (fM a.w = 0) x y)
def remProg (a : ThOp) : Prog := alu3 a 0x1C [0, 1] fun x y =>
  if fM a.w = 0 then u64 (s64 x - quot true x y * s64 y) else u64 ((x : Int) - quot false x y * y)
def clzProg (a : ThOp) : Prog := alu2 a 0x1D fun x => 64 - bitlen x
def popcProg (a : ThOp) : Prog := alu2 a 0x1E fun x => ((List.range 64).filter (bitAt x)).length
/-- SHFL reads the other thread's register as it stood before the instruction; an exited thread gives 0. -/
def shflProg (a : ThOp) : Prog := thRegs a 0x1F (regOk .g .g .g [0] a.w) fun x t =>
  let src := t.gr (fB a.w) % 8
  t.setG (fD a.w) (if bitAt x.live src then (x.thr src).gr (fA a.w) else 0)
def addiProg (a : ThOp) : Prog := aluImm a 0x20 fun x i => u64 (x + i)
def andiProg (a : ThOp) : Prog := aluImm a 0x21 fun x i => x &&& u64 i
def oriProg (a : ThOp) : Prog := aluImm a 0x22 fun x i => x ||| u64 i
def xoriProg (a : ThOp) : Prog := aluImm a 0x23 fun x i => x ^^^ u64 i
def shliProg (a : ThOp) : Prog := aluImm a 0x24 fun x i => x * 2 ^ (modInt i 64).toNat
def shriProg (a : ThOp) : Prog := aluImm a 0x25 fun x i => x / 2 ^ (modInt i 64).toNat
def sariProg (a : ThOp) : Prog := aluImm a 0x26 fun x i => u64 (shrInt (s64 x) (modInt i 64).toNat)
def moviProg (a : ThOp) : Prog := thRegs a 0x27 (predOk a.w) fun _ t => t.setG (fD a.w) (u64 (sext 14 (fImm14 a.w)))
def movhProg (a : ThOp) : Prog := thRegs a 0x28 (predOk a.w) fun _ t =>
  t.setG (fD a.w) (t.gr (fD a.w) * 2 ^ 14 + fImm14 a.w)

/-! ### Predicates (R246) -/

def cmpeqProg (a : ThOp) : Prog := cmp3 a 0x30 [0] fun x y => x = y
def cmpneProg (a : ThOp) : Prog := cmp3 a 0x31 [0] fun x y => x ≠ y
def cmpltProg (a : ThOp) : Prog := cmp3 a 0x32 [0, 1] fun x y => if fM a.w = 0 then decide (s64 x < s64 y) else x < y
def cmpleProg (a : ThOp) : Prog := cmp3 a 0x33 [0, 1] fun x y => if fM a.w = 0 then decide (s64 x ≤ s64 y) else x ≤ y
def cmpeqiProg (a : ThOp) : Prog := thRegs a 0x34 (immOk .p .g a.w) fun _ t =>
  t.setP (fD a.w) (t.gr (fA a.w) = u64 (fImm8 a.w))
def cmpltiProg (a : ThOp) : Prog := thRegs a 0x35 (immOk .p .g a.w) fun _ t =>
  t.setP (fD a.w) (decide (s64 (t.gr (fA a.w)) < fImm8 a.w))

/-- The four functions of PLOG. -/
def plog (m : Nat) (x y : Bool) : Bool :=
  if m = 0 then x && y else if m = 1 then x || y else if m = 2 then x != y else x && !y

def plogProg (a : ThOp) : Prog := thRegs a 0x36 (regOk .p .p .p [0, 1, 2, 3] a.w) fun _ t =>
  t.setP (fD a.w) (plog (fM a.w) (t.pr (fA a.w)) (t.pr (fB a.w)))
def voteProg (a : ThOp) : Prog := thRegs a 0x37 (regOk .p .p .no [0, 1] a.w) fun x t =>
  let v := (x.exec a.w).map fun i => (x.thr i).pr (fA a.w)
  t.setP (fD a.w) (if fM a.w = 0 then v.any id else v.all id)
def ballotProg (a : ThOp) : Prog := thRegs a 0x38 (regOk .g .p .no [0] a.w) fun x t =>
  t.setG (fD a.w) (threadMask ((x.exec a.w).filter fun i => (x.thr i).pr (fA a.w)))

/-! ### Scalar float (R247, R248) -/

def faddProg (a : ThOp) : Prog := fp3 a 0x40 Fp.add
def fsubProg (a : ThOp) : Prog := fp3 a 0x41 Fp.sub
def fmulProg (a : ThOp) : Prog := fp3 a 0x42 Fp.mul
def ffmaProg (a : ThOp) : Prog := thRegs a 0x43 (regOk .g .g .g [0] a.w) fun _ t =>
  let r := Fp.fma (t.gr (fA a.w) % 2 ^ 32) (t.gr (fB a.w) % 2 ^ 32) (t.gr (fD a.w) % 2 ^ 32)
  (t.setG (fD a.w) r.1).raise r.2
def fminProg (a : ThOp) : Prog := fp3 a 0x44 Fp.fmin
def fmaxProg (a : ThOp) : Prog := fp3 a 0x45 Fp.fmax
def fdivProg (a : ThOp) : Prog := fp3 a 0x46 Fp.div
def fsqrtProg (a : ThOp) : Prog := thRegs a 0x47 (regOk .g .g .no [0] a.w) fun _ t =>
  let r := Fp.sqrt (t.gr (fA a.w) % 2 ^ 32)
  (t.setG (fD a.w) r.1).raise r.2

/-- FCVT under M on a 32-bit operand (R247): the 64-bit register value and the flags; the i32 result is sign-extended. -/
def fcvt (m x : Nat) : Nat × Nat :=
  if m = 0 then Fp.ofI32 (x % 2 ^ 32)
  else if m = 1 then (u64 (Fp.toI32 (x % 2 ^ 32)).1, (Fp.toI32 (x % 2 ^ 32)).2)
  else if m = 2 then Fp.toBf16 (x % 2 ^ 32)
  else Fp.ofBf16 (x % 2 ^ 16)

def fcvtProg (a : ThOp) : Prog := thRegs a 0x48 (regOk .g .g .no [0, 1, 2, 3] a.w) fun _ t =>
  let r := fcvt (fM a.w) (t.gr (fA a.w))
  (t.setG (fD a.w) r.1).raise r.2
def fcmpltProg (a : ThOp) : Prog := fcmp a 0x49 Fp.lt
def fcmpeqProg (a : ThOp) : Prog := fcmp a 0x4A Fp.eq

end Sys2Proof.Machine
end

