-- ==== Sys2Proof/Machine/ThreadVec.lean ====
section
/-! DEFINITION. The vector instructions of the thread cores: integer (R249) and float (R250). -/

namespace Sys2Proof.Machine

/-- Element width by M (R249). -/
def elWidth (m : Nat) : Nat := if m = 0 then 32 else if m = 1 then 16 else if m = 2 then 8 else 64
/-- Elements of a vector. -/
def elCount (w : Nat) : Nat := 512 / w
/-- Element `i`, unsigned (R237). -/
def elGet (w v i : Nat) : Nat := v / 2 ^ (w * i) % 2 ^ w
/-- A vector from its elements, element 0 first. -/
def elPack (w : Nat) : List Nat → Nat
  | [] => 0
  | x :: r => x % 2 ^ w + 2 ^ w * elPack w r
/-- The vector whose element `i` is `f i`. -/
def elMap (w : Nat) (f : Nat → Nat) : Nat := elPack w ((List.range (elCount w)).map f)

/-- vd := f va vb, element by element, results modulo 2^width. -/
def vec3 (a : ThOp) (op : Nat) (f : Nat → Nat → Nat → Nat) : Prog :=
  thVec a op (regOk .v .v .v [0, 1, 2, 3] a.w) fun _ t =>
    let w := elWidth (fM a.w)
    t.setV (fD a.w) (elMap w fun i => f w (elGet w (t.vr (fA a.w)) i) (elGet w (t.vr (fB a.w)) i))
/-- vd := va shifted by gb modulo the width. -/
def vecSh (a : ThOp) (op : Nat) (f : Nat → Nat → Nat → Nat) : Prog :=
  thVec a op (regOk .v .v .g [0, 1, 2, 3] a.w) fun _ t =>
    let w := elWidth (fM a.w)
    t.setV (fD a.w) (elMap w fun i => f w (elGet w (t.vr (fA a.w)) i) (t.gr (fB a.w) % w))

def vaddProg (a : ThOp) : Prog := vec3 a 0x50 fun _ x y => x + y
def vsubProg (a : ThOp) : Prog := vec3 a 0x51 fun w x y => wrapN w ((x : Int) - y)
def vmulProg (a : ThOp) : Prog := vec3 a 0x52 fun _ x y => x * y
def vminProg (a : ThOp) : Prog := vec3 a 0x53 fun w x y => wrapN w (min (sext w x) (sext w y))
def vmaxProg (a : ThOp) : Prog := vec3 a 0x54 fun w x y => wrapN w (max (sext w x) (sext w y))
def vandProg (a : ThOp) : Prog := vec3 a 0x55 fun _ x y => x &&& y
def vorProg (a : ThOp) : Prog := vec3 a 0x56 fun _ x y => x ||| y
def vxorProg (a : ThOp) : Prog := vec3 a 0x57 fun _ x y => x ^^^ y
def vshlProg (a : ThOp) : Prog := vecSh a 0x58 fun _ x n => x * 2 ^ n
def vsarProg (a : ThOp) : Prog := vecSh a 0x59 fun w x n => wrapN w (shrInt (sext w x) n)
def vsplatProg (a : ThOp) : Prog := thVec a 0x5A (regOk .v .g .no [0, 1, 2, 3] a.w) fun _ t =>
  let w := elWidth (fM a.w)
  t.setV (fD a.w) (elMap w fun _ => t.gr (fA a.w))
def vextProg (a : ThOp) : Prog := thVec a 0x5B (regOk .g .v .g [0, 1, 2, 3] a.w) fun _ t =>
  let w := elWidth (fM a.w)
  t.setG (fD a.w) (u64 (sext w (elGet w (t.vr (fA a.w)) (t.gr (fB a.w) % elCount w))))
def vinsProg (a : ThOp) : Prog := thVec a 0x5C (regOk .v .g .g [0, 1, 2, 3] a.w) fun _ t =>
  let w := elWidth (fM a.w)
  let n := t.gr (fB a.w) % elCount w
  t.setV (fD a.w) (elMap w fun i => if i = n then t.gr (fA a.w) else elGet w (t.vr (fD a.w)) i)
def vredProg (a : ThOp) : Prog := thVec a 0x5D (regOk .g .v .no [0, 1, 2, 3] a.w) fun _ t =>
  let w := elWidth (fM a.w)
  t.setG (fD a.w) (u64 (sumInt ((List.range (elCount w)).map fun i => sext w (elGet w (t.vr (fA a.w)) i))))
def vpermProg (a : ThOp) : Prog := thVec a 0x5E (regOk .v .v .v [2] a.w) fun _ t =>
  t.setV (fD a.w) (elMap 8 fun i => elGet 8 (t.vr (fA a.w)) (elGet 8 (t.vr (fB a.w)) i % 64))

/-! ### Vector float (R250) -/

/-- The lanes of a float vector: the vector of results, and the flags of all lanes together. -/
def fpLanes (w : Nat) (f : Nat → Nat × Nat) : Nat × Nat :=
  let r := (List.range (elCount w)).map f
  (elPack w (r.map (·.1)), (r.map (·.2)).foldl (· ||| ·) 0)

/-- One lane of an operation of FP32 under M: FP32, or BF16 through FP32 (R250). -/
def fpLane (m : Nat) (f : Nat → Nat → Nat × Nat) (x y : Nat) : Nat × Nat :=
  if m = 0 then f x y else Fp.lane16 (f (Fp.ofBf16 x).1 (Fp.ofBf16 y).1)

/-- The invalid flags of signalling BF16 operands, which widening to FP32 quiets. -/
def sig16 (m : Nat) (l : List Nat) : Nat := if m = 0 then 0 else Fp.sigFlag (l.map Fp.bf16.read)

/-- vd := f va vb, lane by lane. -/
def vfp3 (a : ThOp) (op : Nat) (f : Nat → Nat → Nat × Nat) : Prog :=
  thVec a op (regOk .v .v .v [0, 1] a.w) fun _ t =>
    let w := elWidth (fM a.w)
    let r := fpLanes w fun i =>
      let x := elGet w (t.vr (fA a.w)) i
      let y := elGet w (t.vr (fB a.w)) i
      let q := fpLane (fM a.w) f x y
      (q.1, q.2 ||| sig16 (fM a.w) [x, y])
    (t.setV (fD a.w) r.1).raise r.2

def vfaddProg (a : ThOp) : Prog := vfp3 a 0x60 Fp.add
def vfsubProg (a : ThOp) : Prog := vfp3 a 0x61 Fp.sub
def vfmulProg (a : ThOp) : Prog := vfp3 a 0x62 Fp.mul
def vffmaProg (a : ThOp) : Prog := thVec a 0x63 (regOk .v .v .v [0, 1] a.w) fun _ t =>
  let w := elWidth (fM a.w)
  let r := fpLanes w fun i =>
    let x := elGet w (t.vr (fA a.w)) i
    let y := elGet w (t.vr (fB a.w)) i
    let z := elGet w (t.vr (fD a.w)) i
    let q := if fM a.w = 0 then Fp.fma x y z else Fp.lane16 (Fp.fma (Fp.ofBf16 x).1 (Fp.ofBf16 y).1 (Fp.ofBf16 z).1)
    (q.1, q.2 ||| sig16 (fM a.w) [x, y, z])
  (t.setV (fD a.w) r.1).raise r.2
def vfminProg (a : ThOp) : Prog := vfp3 a 0x64 Fp.fmin
def vfmaxProg (a : ThOp) : Prog := vfp3 a 0x65 Fp.fmax

/-- VFCVT under M (R250). -/
def vfcvt (m v : Nat) : Nat × Nat :=
  if m = 2 then
    let r := (List.range 16).map fun i => Fp.toBf16 (elGet 32 v i)
    (elPack 16 (r.map (·.1)), (r.map (·.2)).foldl (· ||| ·) 0)
  else fpLanes 32 fun i =>
    if m = 0 then Fp.ofI32 (elGet 32 v i)
    else if m = 1 then (wrapN 32 (Fp.toI32 (elGet 32 v i)).1, (Fp.toI32 (elGet 32 v i)).2)
    else Fp.ofBf16 (elGet 16 v i)

def vfcvtProg (a : ThOp) : Prog := thVec a 0x66 (regOk .v .v .no [0, 1, 2, 3] a.w) fun _ t =>
  let r := vfcvt (fM a.w) (t.vr (fA a.w))
  (t.setV (fD a.w) r.1).raise r.2

/-- One level of VFRED's tree: adjacent results added, flags gathered. -/
def redLevel : List (Nat × Nat) → List (Nat × Nat)
  | x :: y :: r =>
    let q := Fp.add x.1 y.1
    (q.1, q.2 ||| x.2 ||| y.2) :: redLevel r
  | l => l

def vfredProg (a : ThOp) : Prog := thVec a 0x67 (regOk .g .v .no [0] a.w) fun _ t =>
  let l := (List.range 16).map fun i => (elGet 32 (t.vr (fA a.w)) i, 0)
  let r := (redLevel (redLevel (redLevel (redLevel l)))).headD (0, 0)
  (t.setG (fD a.w) r.1).raise r.2

end Sys2Proof.Machine
end

