-- ==== Sys2Proof/Machine/ExecThreadFp.lean ====
section
/-! DEFINITION. The meanings of the commands of the thread cores: floating point and vectors (R247 to R250). -/

namespace Sys2Proof.Machine

/-- FADD (R247): FP32 add. -/
def execFadd (a : ThOp) (s : State) : Host.Outcome State Fault Refusal := s.perform (faddProg a)

/-- FSUB (R247): FP32 subtract. -/
def execFsub (a : ThOp) (s : State) : Host.Outcome State Fault Refusal := s.perform (fsubProg a)

/-- FMUL (R247): FP32 multiply. -/
def execFmul (a : ThOp) (s : State) : Host.Outcome State Fault Refusal := s.perform (fmulProg a)

/-- FFMA (R247): FP32 fused multiply-add. -/
def execFfma (a : ThOp) (s : State) : Host.Outcome State Fault Refusal := s.perform (ffmaProg a)

/-- FMIN (R247): FP32 minimum. -/
def execFmin (a : ThOp) (s : State) : Host.Outcome State Fault Refusal := s.perform (fminProg a)

/-- FMAX (R247): FP32 maximum. -/
def execFmax (a : ThOp) (s : State) : Host.Outcome State Fault Refusal := s.perform (fmaxProg a)

/-- FDIV (R247): FP32 divide. -/
def execFdiv (a : ThOp) (s : State) : Host.Outcome State Fault Refusal := s.perform (fdivProg a)

/-- FSQRT (R247): FP32 square root. -/
def execFsqrt (a : ThOp) (s : State) : Host.Outcome State Fault Refusal := s.perform (fsqrtProg a)

/-- FCVT (R247): Converts between i32, FP32 and BF16. -/
def execFcvt (a : ThOp) (s : State) : Host.Outcome State Fault Refusal := s.perform (fcvtProg a)

/-- FCMPLT (R247): FP32 less-than compare into a predicate. -/
def execFcmplt (a : ThOp) (s : State) : Host.Outcome State Fault Refusal := s.perform (fcmpltProg a)

/-- FCMPEQ (R247): FP32 equality compare into a predicate. -/
def execFcmpeq (a : ThOp) (s : State) : Host.Outcome State Fault Refusal := s.perform (fcmpeqProg a)

/-- VADD (R249): Vector integer add. -/
def execVadd (a : ThOp) (s : State) : Host.Outcome State Fault Refusal := s.perform (vaddProg a)

/-- VSUB (R249): Vector integer subtract. -/
def execVsub (a : ThOp) (s : State) : Host.Outcome State Fault Refusal := s.perform (vsubProg a)

/-- VMUL (R249): Vector integer multiply, low half. -/
def execVmul (a : ThOp) (s : State) : Host.Outcome State Fault Refusal := s.perform (vmulProg a)

/-- VMIN (R249): Vector signed minimum. -/
def execVmin (a : ThOp) (s : State) : Host.Outcome State Fault Refusal := s.perform (vminProg a)

/-- VMAX (R249): Vector signed maximum. -/
def execVmax (a : ThOp) (s : State) : Host.Outcome State Fault Refusal := s.perform (vmaxProg a)

/-- VAND (R249): Vector bitwise and. -/
def execVand (a : ThOp) (s : State) : Host.Outcome State Fault Refusal := s.perform (vandProg a)

/-- VOR (R249): Vector bitwise or. -/
def execVor (a : ThOp) (s : State) : Host.Outcome State Fault Refusal := s.perform (vorProg a)

/-- VXOR (R249): Vector bitwise exclusive or. -/
def execVxor (a : ThOp) (s : State) : Host.Outcome State Fault Refusal := s.perform (vxorProg a)

/-- VSHL (R249): Vector shift left. -/
def execVshl (a : ThOp) (s : State) : Host.Outcome State Fault Refusal := s.perform (vshlProg a)

/-- VSAR (R249): Vector arithmetic shift right. -/
def execVsar (a : ThOp) (s : State) : Host.Outcome State Fault Refusal := s.perform (vsarProg a)

/-- VSPLAT (R249): Broadcasts a register to every element. -/
def execVsplat (a : ThOp) (s : State) : Host.Outcome State Fault Refusal := s.perform (vsplatProg a)

/-- VEXT (R249): Extracts one element to a register. -/
def execVext (a : ThOp) (s : State) : Host.Outcome State Fault Refusal := s.perform (vextProg a)

/-- VINS (R249): Inserts a register into one element. -/
def execVins (a : ThOp) (s : State) : Host.Outcome State Fault Refusal := s.perform (vinsProg a)

/-- VRED (R249): Sums the elements of a vector. -/
def execVred (a : ThOp) (s : State) : Host.Outcome State Fault Refusal := s.perform (vredProg a)

/-- VPERM (R249): Byte permutation. -/
def execVperm (a : ThOp) (s : State) : Host.Outcome State Fault Refusal := s.perform (vpermProg a)

/-- VFADD (R250): Vector float add. -/
def execVfadd (a : ThOp) (s : State) : Host.Outcome State Fault Refusal := s.perform (vfaddProg a)

/-- VFSUB (R250): Vector float subtract. -/
def execVfsub (a : ThOp) (s : State) : Host.Outcome State Fault Refusal := s.perform (vfsubProg a)

/-- VFMUL (R250): Vector float multiply. -/
def execVfmul (a : ThOp) (s : State) : Host.Outcome State Fault Refusal := s.perform (vfmulProg a)

/-- VFFMA (R250): Vector float fused multiply-add. -/
def execVffma (a : ThOp) (s : State) : Host.Outcome State Fault Refusal := s.perform (vffmaProg a)

/-- VFMIN (R250): Vector float minimum. -/
def execVfmin (a : ThOp) (s : State) : Host.Outcome State Fault Refusal := s.perform (vfminProg a)

/-- VFMAX (R250): Vector float maximum. -/
def execVfmax (a : ThOp) (s : State) : Host.Outcome State Fault Refusal := s.perform (vfmaxProg a)

/-- VFCVT (R250): Vector conversion between i32, FP32 and BF16. -/
def execVfcvt (a : ThOp) (s : State) : Host.Outcome State Fault Refusal := s.perform (vfcvtProg a)

/-- VFRED (R250): Pairwise-tree sum of 16 FP32 lanes. -/
def execVfred (a : ThOp) (s : State) : Host.Outcome State Fault Refusal := s.perform (vfredProg a)

end Sys2Proof.Machine
end

