-- ==== Sys2Proof/Machine/ExecThreadInt.lean ====
section
/-! DEFINITION. The meanings of the commands of the thread cores: integers (R244 to R246). -/

namespace Sys2Proof.Machine

/-- ADD (R244): Integer add. -/
def execAdd (a : ThOp) (s : State) : Host.Outcome State Fault Refusal := s.perform (addProg a)

/-- SUB (R244): Integer subtract. -/
def execSub (a : ThOp) (s : State) : Host.Outcome State Fault Refusal := s.perform (subProg a)

/-- MUL (R244): Low 64 bits of a product. -/
def execMul (a : ThOp) (s : State) : Host.Outcome State Fault Refusal := s.perform (mulProg a)

/-- MULH (R244): High 64 bits of a 128-bit product. -/
def execMulh (a : ThOp) (s : State) : Host.Outcome State Fault Refusal := s.perform (mulhProg a)

/-- AND (R244): Bitwise and. -/
def execAnd (a : ThOp) (s : State) : Host.Outcome State Fault Refusal := s.perform (andProg a)

/-- OR (R244): Bitwise or. -/
def execOr (a : ThOp) (s : State) : Host.Outcome State Fault Refusal := s.perform (orProg a)

/-- XOR (R244): Bitwise exclusive or. -/
def execXor (a : ThOp) (s : State) : Host.Outcome State Fault Refusal := s.perform (xorProg a)

/-- SHL (R244): Shift left by register. -/
def execShl (a : ThOp) (s : State) : Host.Outcome State Fault Refusal := s.perform (shlProg a)

/-- SHR (R244): Shift right by register, logical or arithmetic. -/
def execShr (a : ThOp) (s : State) : Host.Outcome State Fault Refusal := s.perform (shrProg a)

/-- MIN (R244): Signed or unsigned minimum. -/
def execMin (a : ThOp) (s : State) : Host.Outcome State Fault Refusal := s.perform (minProg a)

/-- MAX (R244): Signed or unsigned maximum. -/
def execMax (a : ThOp) (s : State) : Host.Outcome State Fault Refusal := s.perform (maxProg a)

/-- DIV (R245): Quotient rounded toward zero. -/
def execDiv (a : ThOp) (s : State) : Host.Outcome State Fault Refusal := s.perform (divProg a)

/-- REM (R245): Remainder of DIV. -/
def execRem (a : ThOp) (s : State) : Host.Outcome State Fault Refusal := s.perform (remProg a)

/-- CLZ (R244): Counts leading zero bits. -/
def execClz (a : ThOp) (s : State) : Host.Outcome State Fault Refusal := s.perform (clzProg a)

/-- POPC (R244): Counts one bits. -/
def execPopc (a : ThOp) (s : State) : Host.Outcome State Fault Refusal := s.perform (popcProg a)

/-- SHFL (R244): Reads a register of another thread of the flock. -/
def execShfl (a : ThOp) (s : State) : Host.Outcome State Fault Refusal := s.perform (shflProg a)

/-- ADDI (R244): Add immediate. -/
def execAddi (a : ThOp) (s : State) : Host.Outcome State Fault Refusal := s.perform (addiProg a)

/-- ANDI (R244): And immediate. -/
def execAndi (a : ThOp) (s : State) : Host.Outcome State Fault Refusal := s.perform (andiProg a)

/-- ORI (R244): Or immediate. -/
def execOri (a : ThOp) (s : State) : Host.Outcome State Fault Refusal := s.perform (oriProg a)

/-- XORI (R244): Exclusive or immediate. -/
def execXori (a : ThOp) (s : State) : Host.Outcome State Fault Refusal := s.perform (xoriProg a)

/-- SHLI (R244): Shift left by immediate. -/
def execShli (a : ThOp) (s : State) : Host.Outcome State Fault Refusal := s.perform (shliProg a)

/-- SHRI (R244): Logical shift right by immediate. -/
def execShri (a : ThOp) (s : State) : Host.Outcome State Fault Refusal := s.perform (shriProg a)

/-- SARI (R244): Arithmetic shift right by immediate. -/
def execSari (a : ThOp) (s : State) : Host.Outcome State Fault Refusal := s.perform (sariProg a)

/-- MOVI (R244): Loads a sign-extended 14-bit immediate. -/
def execMovi (a : ThOp) (s : State) : Host.Outcome State Fault Refusal := s.perform (moviProg a)

/-- MOVH (R244): Shifts a register left 14 and appends an immediate. -/
def execMovh (a : ThOp) (s : State) : Host.Outcome State Fault Refusal := s.perform (movhProg a)

/-- CMPEQ (R246): Sets a predicate on equality. -/
def execCmpeq (a : ThOp) (s : State) : Host.Outcome State Fault Refusal := s.perform (cmpeqProg a)

/-- CMPNE (R246): Sets a predicate on inequality. -/
def execCmpne (a : ThOp) (s : State) : Host.Outcome State Fault Refusal := s.perform (cmpneProg a)

/-- CMPLT (R246): Sets a predicate on less than. -/
def execCmplt (a : ThOp) (s : State) : Host.Outcome State Fault Refusal := s.perform (cmpltProg a)

/-- CMPLE (R246): Sets a predicate on less or equal. -/
def execCmple (a : ThOp) (s : State) : Host.Outcome State Fault Refusal := s.perform (cmpleProg a)

/-- CMPEQI (R246): Sets a predicate on equality with an immediate. -/
def execCmpeqi (a : ThOp) (s : State) : Host.Outcome State Fault Refusal := s.perform (cmpeqiProg a)

/-- CMPLTI (R246): Sets a predicate on signed less than an immediate. -/
def execCmplti (a : ThOp) (s : State) : Host.Outcome State Fault Refusal := s.perform (cmpltiProg a)

/-- PLOG (R246): Predicate logic. -/
def execPlog (a : ThOp) (s : State) : Host.Outcome State Fault Refusal := s.perform (plogProg a)

/-- VOTE (R246): OR or AND of a predicate over executing threads. -/
def execVote (a : ThOp) (s : State) : Host.Outcome State Fault Refusal := s.perform (voteProg a)

/-- BALLOT (R246): Mask of executing threads with a predicate set. -/
def execBallot (a : ThOp) (s : State) : Host.Outcome State Fault Refusal := s.perform (ballotProg a)

end Sys2Proof.Machine
end

