-- ==== Sys2Proof/Machine/ExecVideo.lean ====
section
/-! DEFINITION. The meanings of the commands of block video (R358 to R395). -/

namespace Sys2Proof.Machine

/-- BV_JOB_FETCH (R365): A pipeline fetches the next job entry while CONS differs from PROD, or flags RING_ERR. -/
def execBvJobFetch (d : Fin 16) (n : Fin 8) (s : State) : Host.Outcome State Fault Refusal := s.performPosting (bvJobFetchProg d.val n.val)

/-- OPEN_ENC (R368): Opens an encode stream with its context region. -/
def execOpenEnc (d : Fin 16) (n : Fin 8) (s : State) : Host.Outcome State Fault Refusal := s.performPosting (openEncProg d.val n.val)

/-- OPEN_DEC (R369): Opens a decode stream with its context and DPB region. -/
def execOpenDec (d : Fin 16) (n : Fin 8) (s : State) : Host.Outcome State Fault Refusal := s.performPosting (openDecProg d.val n.val)

/-- ENC_PIC (R377): Encodes one picture under rate control, keys and refresh. -/
def execEncPic (d : Fin 16) (n : Fin 8) (s : State) : Host.Outcome State Fault Refusal := s.performPosting (encPicProg d.val n.val)

/-- DEC_AU (R385): Decodes one access or temporal unit into a picture with damage handling. -/
def execDecAu (d : Fin 16) (n : Fin 8) (s : State) : Host.Outcome State Fault Refusal := s.performPosting (decAuProg d.val n.val)

/-- CLOSE (R383): Ends a stream, flushing or cancelling lookahead pictures. -/
def execClose (d : Fin 16) (n : Fin 8) (s : State) : Host.Outcome State Fault Refusal := s.performPosting (closeProg d.val n.val)

/-- BV_BAND (R373): At a band boundary the pipeline takes the highest-priority ready band and codes it. -/
def execBvBand (d : Fin 16) (n : Fin 8) (s : State) : Host.Outcome State Fault Refusal := s.performPosting (bvBandProg d.val n.val)

/-- BV_WATCHDOG_EXPIRY (R389): A picture's budget runs out and the rest of the picture is concealed. -/
def execBvWatchdogExpiry (d : Fin 16) (n : Fin 8) (blk : Nat) (s : State) : Host.Outcome State Fault Refusal := s.performPosting (bvWatchdogExpiryProg d.val n.val blk)

/-- BV_COMPLETION_WRITE (R366): A finished job's completion record is written and CPL_PROD advanced, or held while the ring is full. -/
def execBvCompletionWrite (d : Fin 16) (n : Fin 8) (s : State) : Host.Outcome State Fault Refusal := s.performPosting (bvCompletionWriteProg d.val n.val)

/-- BV_CPL_CONS_WRITE (R366): Software advances the completion consumer count, freeing room for held records. -/
def execBvCplConsWrite (d : Fin 16) (n : Fin 8) (v : BitVec 32) (s : State) : Host.Outcome State Fault Refusal := s.performPosting (bvCplConsWriteProg d.val n.val v.toNat)

/-- BV_KEY_REQ (R382): Requests a splice key for the earliest unplaced picture of a stream. -/
def execBvKeyReq (d : Fin 16) (n : Fin 8) (stream : Fin 16) (s : State) : Host.Outcome State Fault Refusal := s.performPosting (bvKeyReqProg d.val n.val stream.val)

/-- BV_PREEMPT (R392): Setting PREEMPT stops the pipeline at band boundaries after bands in flight complete. -/
def execBvPreempt (d : Fin 16) (n : Fin 8) (s : State) : Host.Outcome State Fault Refusal := s.performPosting (bvPreemptProg d.val n.val)

/-- BV_RESUME (R392): Clearing PREEMPT resumes each stopped job. -/
def execBvResume (d : Fin 16) (n : Fin 8) (s : State) : Host.Outcome State Fault Refusal := s.performPosting (bvResumeProg d.val n.val)

/-- BV_RING_CFG_WRITE (R365): Enabling fetch (or clearing it) on the job ring; an out-of-range SIZE sets RING_ERR. -/
def execBvRingCfgWrite (d : Fin 16) (n : Fin 8) (v : BitVec 32) (s : State) : Host.Outcome State Fault Refusal := s.performPosting (bvRingCfgWriteProg d.val n.val v.toNat)

/-- BV_GROUP_CTRL_WRITE (R359): Changes pipeline grouping, refused with ERR while a member is enabled or has a stream open. -/
def execBvGroupCtrlWrite (d : Fin 16) (v : BitVec 32) (s : State) : Host.Outcome State Fault Refusal := s.performPosting (bvGroupCtrlWriteProg d.val v.toNat)

/-- BV_TALLY_CLEAR (R395): Writing 1 clears the pipeline counters. -/
def execBvTallyClear (d : Fin 16) (n : Fin 8) (s : State) : Host.Outcome State Fault Refusal := s.performPosting (bvTallyClearProg d.val n.val)

end Sys2Proof.Machine
end

