-- ==== Sys2Proof/Machine/Dispatch.lean ====
section
/-! DEFINITION. The meaning of every command: one arm for each constructor. -/

namespace Sys2Proof.Machine

/-- What a command does to the machine. -/
def exec (i : Instr) (s : State) : Host.Outcome State Fault Refusal :=
  match i with
  | .towpathCommand dom => Sys2Proof.Machine.execTowpathCommand dom s
  | .weirSlot => Sys2Proof.Machine.execWeirSlot s
  | .domainReady dom => Sys2Proof.Machine.execDomainReady dom s
  | .engineClockGate k e => Sys2Proof.Machine.execEngineClockGate k e s
  | .vectorClockGate k core => Sys2Proof.Machine.execVectorClockGate k core s
  | .engineClockReady k e => Sys2Proof.Machine.execEngineClockReady k e s
  | .tissue a => Sys2Proof.Machine.execTissue a s
  | .bissue a => Sys2Proof.Machine.execBissue a s
  | .pushUnblock l => Sys2Proof.Machine.execPushUnblock l s
  | .instructionStage k q => Sys2Proof.Machine.execInstructionStage k q s
  | .dependencyComplete k tag => Sys2Proof.Machine.execDependencyComplete k tag s
  | .tensorIssue k q => Sys2Proof.Machine.execTensorIssue k q s
  | .sync k q => Sys2Proof.Machine.execSync k q s
  | .matmul k t parity => Sys2Proof.Machine.execMatmul k t parity s
  | .conv k t parity => Sys2Proof.Machine.execConv k t parity s
  | .pool k array => Sys2Proof.Machine.execPool k array s
  | .crop k array => Sys2Proof.Machine.execCrop k array s
  | .epilogue k => Sys2Proof.Machine.execEpilogue k s
  | .weightTileLoad k => Sys2Proof.Machine.execWeightTileLoad k s
  | .weightSwap k t => Sys2Proof.Machine.execWeightSwap k t s
  | .outputTileEpilogue k parity => Sys2Proof.Machine.execOutputTileEpilogue k parity s
  | .narrowRunEnd k q => Sys2Proof.Machine.execNarrowRunEnd k q s
  | .instructionCommit k q => Sys2Proof.Machine.execInstructionCommit k q s
  | .feederTranslationFault k q => Sys2Proof.Machine.execFeederTranslationFault k q s
  | .targetPreemptStop k q => Sys2Proof.Machine.execTargetPreemptStop k q s
  | .tcSplitCtrlWrite k v => Sys2Proof.Machine.execTcSplitCtrlWrite k v s
  | .splitModeChange k array => Sys2Proof.Machine.execSplitModeChange k array s
  | .tcQtallyClear k => Sys2Proof.Machine.execTcQtallyClear k s
  | .tcTallyClear k => Sys2Proof.Machine.execTcTallyClear k s
  | .tcSwClear k => Sys2Proof.Machine.execTcSwClear k s
  | .tcIssueClear k => Sys2Proof.Machine.execTcIssueClear k s
  | .sfEval k n parity => Sys2Proof.Machine.execSfEval k n parity s
  | .normStats k n => Sys2Proof.Machine.execNormStats k n s
  | .normApply k n parity => Sys2Proof.Machine.execNormApply k n parity s
  | .softmax k n => Sys2Proof.Machine.execSoftmax k n s
  | .tbBuild k n parity => Sys2Proof.Machine.execTbBuild k n parity s
  | .tbIndex k n => Sys2Proof.Machine.execTbIndex k n s
  | .tload k n => Sys2Proof.Machine.execTload k n s
  | .tloadFlip k n => Sys2Proof.Machine.execTloadFlip k n s
  | .slotParityRewrite k rans slot => Sys2Proof.Machine.execSlotParityRewrite k rans slot s
  | .sfTallyClear k => Sys2Proof.Machine.execSfTallyClear k s
  | .sfWaitClear k => Sys2Proof.Machine.execSfWaitClear k s
  | .ctLoad k n => Sys2Proof.Machine.execCtLoad k n s
  | .ctLoadFlip k n => Sys2Proof.Machine.execCtLoadFlip k n s
  | .ransEnc k n parity => Sys2Proof.Machine.execRansEnc k n parity s
  | .ransDec k n parity => Sys2Proof.Machine.execRansDec k n parity s
  | .ccTallyClear k => Sys2Proof.Machine.execCcTallyClear k s
  | .ccWaitClear k => Sys2Proof.Machine.execCcWaitClear k s
  | .nop a => Sys2Proof.Machine.execNop a s
  | .exit a => Sys2Proof.Machine.execExit a s
  | .bra a => Sys2Proof.Machine.execBra a s
  | .call a => Sys2Proof.Machine.execCall a s
  | .jr a => Sys2Proof.Machine.execJr a s
  | .jpush a => Sys2Proof.Machine.execJpush a s
  | .join a => Sys2Proof.Machine.execJoin a s
  | .bar a => Sys2Proof.Machine.execBar a s
  | .barrierComplete k core ofCore n => Sys2Proof.Machine.execBarrierComplete k core ofCore n s
  | .mfs a => Sys2Proof.Machine.execMfs a s
  | .mts a => Sys2Proof.Machine.execMts a s
  | .trap a => Sys2Proof.Machine.execTrap a s
  | .waitv a => Sys2Proof.Machine.execWaitv a s
  | .waitvPoll l => Sys2Proof.Machine.execWaitvPoll l s
  | .add a => Sys2Proof.Machine.execAdd a s
  | .sub a => Sys2Proof.Machine.execSub a s
  | .mul a => Sys2Proof.Machine.execMul a s
  | .mulh a => Sys2Proof.Machine.execMulh a s
  | .and a => Sys2Proof.Machine.execAnd a s
  | .or a => Sys2Proof.Machine.execOr a s
  | .xor a => Sys2Proof.Machine.execXor a s
  | .shl a => Sys2Proof.Machine.execShl a s
  | .shr a => Sys2Proof.Machine.execShr a s
  | .min a => Sys2Proof.Machine.execMin a s
  | .max a => Sys2Proof.Machine.execMax a s
  | .div a => Sys2Proof.Machine.execDiv a s
  | .rem a => Sys2Proof.Machine.execRem a s
  | .clz a => Sys2Proof.Machine.execClz a s
  | .popc a => Sys2Proof.Machine.execPopc a s
  | .shfl a => Sys2Proof.Machine.execShfl a s
  | .addi a => Sys2Proof.Machine.execAddi a s
  | .andi a => Sys2Proof.Machine.execAndi a s
  | .ori a => Sys2Proof.Machine.execOri a s
  | .xori a => Sys2Proof.Machine.execXori a s
  | .shli a => Sys2Proof.Machine.execShli a s
  | .shri a => Sys2Proof.Machine.execShri a s
  | .sari a => Sys2Proof.Machine.execSari a s
  | .movi a => Sys2Proof.Machine.execMovi a s
  | .movh a => Sys2Proof.Machine.execMovh a s
  | .cmpeq a => Sys2Proof.Machine.execCmpeq a s
  | .cmpne a => Sys2Proof.Machine.execCmpne a s
  | .cmplt a => Sys2Proof.Machine.execCmplt a s
  | .cmple a => Sys2Proof.Machine.execCmple a s
  | .cmpeqi a => Sys2Proof.Machine.execCmpeqi a s
  | .cmplti a => Sys2Proof.Machine.execCmplti a s
  | .plog a => Sys2Proof.Machine.execPlog a s
  | .vote a => Sys2Proof.Machine.execVote a s
  | .ballot a => Sys2Proof.Machine.execBallot a s
  | .fadd a => Sys2Proof.Machine.execFadd a s
  | .fsub a => Sys2Proof.Machine.execFsub a s
  | .fmul a => Sys2Proof.Machine.execFmul a s
  | .ffma a => Sys2Proof.Machine.execFfma a s
  | .fmin a => Sys2Proof.Machine.execFmin a s
  | .fmax a => Sys2Proof.Machine.execFmax a s
  | .fdiv a => Sys2Proof.Machine.execFdiv a s
  | .fsqrt a => Sys2Proof.Machine.execFsqrt a s
  | .fcvt a => Sys2Proof.Machine.execFcvt a s
  | .fcmplt a => Sys2Proof.Machine.execFcmplt a s
  | .fcmpeq a => Sys2Proof.Machine.execFcmpeq a s
  | .vadd a => Sys2Proof.Machine.execVadd a s
  | .vsub a => Sys2Proof.Machine.execVsub a s
  | .vmul a => Sys2Proof.Machine.execVmul a s
  | .vmin a => Sys2Proof.Machine.execVmin a s
  | .vmax a => Sys2Proof.Machine.execVmax a s
  | .vand a => Sys2Proof.Machine.execVand a s
  | .vor a => Sys2Proof.Machine.execVor a s
  | .vxor a => Sys2Proof.Machine.execVxor a s
  | .vshl a => Sys2Proof.Machine.execVshl a s
  | .vsar a => Sys2Proof.Machine.execVsar a s
  | .vsplat a => Sys2Proof.Machine.execVsplat a s
  | .vext a => Sys2Proof.Machine.execVext a s
  | .vins a => Sys2Proof.Machine.execVins a s
  | .vred a => Sys2Proof.Machine.execVred a s
  | .vperm a => Sys2Proof.Machine.execVperm a s
  | .vfadd a => Sys2Proof.Machine.execVfadd a s
  | .vfsub a => Sys2Proof.Machine.execVfsub a s
  | .vfmul a => Sys2Proof.Machine.execVfmul a s
  | .vffma a => Sys2Proof.Machine.execVffma a s
  | .vfmin a => Sys2Proof.Machine.execVfmin a s
  | .vfmax a => Sys2Proof.Machine.execVfmax a s
  | .vfcvt a => Sys2Proof.Machine.execVfcvt a s
  | .vfred a => Sys2Proof.Machine.execVfred a s
  | .ld a => Sys2Proof.Machine.execLd a s
  | .lds a => Sys2Proof.Machine.execLds a s
  | .st a => Sys2Proof.Machine.execSt a s
  | .vld a => Sys2Proof.Machine.execVld a s
  | .vst a => Sys2Proof.Machine.execVst a s
  | .vldg a => Sys2Proof.Machine.execVldg a s
  | .vsts a => Sys2Proof.Machine.execVsts a s
  | .pref a => Sys2Proof.Machine.execPref a s
  | .lkget a => Sys2Proof.Machine.execLkget a s
  | .lkput a => Sys2Proof.Machine.execLkput a s
  | .aadd a => Sys2Proof.Machine.execAadd a s
  | .amin a => Sys2Proof.Machine.execAmin a s
  | .amax a => Sys2Proof.Machine.execAmax a s
  | .aand a => Sys2Proof.Machine.execAand a s
  | .aor a => Sys2Proof.Machine.execAor a s
  | .axchg a => Sys2Proof.Machine.execAxchg a s
  | .acas a => Sys2Proof.Machine.execAcas a s
  | .afadd a => Sys2Proof.Machine.execAfadd a s
  | .fence a => Sys2Proof.Machine.execFence a s
  | .twait a => Sys2Proof.Machine.execTwait a s
  | .tpoll a => Sys2Proof.Machine.execTpoll a s
  | .tcrec a => Sys2Proof.Machine.execTcrec a s
  | .tfree a => Sys2Proof.Machine.execTfree a s
  | .tcancel a => Sys2Proof.Machine.execTcancel a s
  | .flockPreemptStop l => Sys2Proof.Machine.execFlockPreemptStop l s
  | .thTallyClear k core => Sys2Proof.Machine.execThTallyClear k core s
  | .strided k uid => Sys2Proof.Machine.execStrided k uid s
  | .gather k uid => Sys2Proof.Machine.execGather k uid s
  | .bargeBind k uid => Sys2Proof.Machine.execBargeBind k uid s
  | .bargeRequestGrant k => Sys2Proof.Machine.execBargeRequestGrant k s
  | .readResponse k uid n ans => Sys2Proof.Machine.execReadResponse k uid n ans s
  | .bargeComplete k uid => Sys2Proof.Machine.execBargeComplete k uid s
  | .lockProducerGrant onDie at_ n => Sys2Proof.Machine.execLockProducerGrant onDie at_ n s
  | .lockConsumerGrant onDie at_ n slot => Sys2Proof.Machine.execLockConsumerGrant onDie at_ n slot s
  | .waitdetEvaluate => Sys2Proof.Machine.execWaitdetEvaluate s
  | .lkCfgWrite d ix v => Sys2Proof.Machine.execLkCfgWrite d ix v s
  | .csPoolCfgWrite d p v => Sys2Proof.Machine.execCsPoolCfgWrite d p v s
  | .lkCtrlRearm d ix v => Sys2Proof.Machine.execLkCtrlRearm d ix v s
  | .beTallyClear d p => Sys2Proof.Machine.execBeTallyClear d p s
  | .scrubRead n row => Sys2Proof.Machine.execScrubRead n row s
  | .patrolRowSpare n row => Sys2Proof.Machine.execPatrolRowSpare n row s
  | .stackTempSample n temp => Sys2Proof.Machine.execStackTempSample n temp s
  | .refreshIntervalChange n => Sys2Proof.Machine.execRefreshIntervalChange n s
  | .stkTallyClear n => Sys2Proof.Machine.execStkTallyClear n s
  | .csTallyClear d p => Sys2Proof.Machine.execCsTallyClear d p s
  | .memSpanModeWrite g v => Sys2Proof.Machine.execMemSpanModeWrite g v s
  | .spanDrained g => Sys2Proof.Machine.execSpanDrained g s
  | .pageWalk d n => Sys2Proof.Machine.execPageWalk d n s
  | .faultBacklogPost d => Sys2Proof.Machine.execFaultBacklogPost d s
  | .faultResume d => Sys2Proof.Machine.execFaultResume d s
  | .faultKill d => Sys2Proof.Machine.execFaultKill d s
  | .dmmuRootWrite high v => Sys2Proof.Machine.execDmmuRootWrite high v s
  | .dmmuInvalidate => Sys2Proof.Machine.execDmmuInvalidate s
  | .dmmuInvalidateDone => Sys2Proof.Machine.execDmmuInvalidateDone s
  | .dmmuTallyClear d => Sys2Proof.Machine.execDmmuTallyClear d s
  | .bvJobFetch d n => Sys2Proof.Machine.execBvJobFetch d n s
  | .openEnc d n => Sys2Proof.Machine.execOpenEnc d n s
  | .openDec d n => Sys2Proof.Machine.execOpenDec d n s
  | .encPic d n => Sys2Proof.Machine.execEncPic d n s
  | .decAu d n => Sys2Proof.Machine.execDecAu d n s
  | .close d n => Sys2Proof.Machine.execClose d n s
  | .bvBand d n => Sys2Proof.Machine.execBvBand d n s
  | .bvWatchdogExpiry d n blk => Sys2Proof.Machine.execBvWatchdogExpiry d n blk s
  | .bvCompletionWrite d n => Sys2Proof.Machine.execBvCompletionWrite d n s
  | .bvCplConsWrite d n v => Sys2Proof.Machine.execBvCplConsWrite d n v s
  | .bvKeyReq d n stream => Sys2Proof.Machine.execBvKeyReq d n stream s
  | .bvPreempt d n => Sys2Proof.Machine.execBvPreempt d n s
  | .bvResume d n => Sys2Proof.Machine.execBvResume d n s
  | .bvRingCfgWrite d n v => Sys2Proof.Machine.execBvRingCfgWrite d n v s
  | .bvGroupCtrlWrite d v => Sys2Proof.Machine.execBvGroupCtrlWrite d v s
  | .bvTallyClear d n => Sys2Proof.Machine.execBvTallyClear d n s
  | .slJobFetch d n => Sys2Proof.Machine.execSlJobFetch d n s
  | .compress d n => Sys2Proof.Machine.execCompress d n s
  | .decompress d n => Sys2Proof.Machine.execDecompress d n s
  | .slCompletionWrite d n => Sys2Proof.Machine.execSlCompletionWrite d n s
  | .slPreempt d n => Sys2Proof.Machine.execSlPreempt d n s
  | .slCheckpointStop d n => Sys2Proof.Machine.execSlCheckpointStop d n s
  | .slResume d n => Sys2Proof.Machine.execSlResume d n s
  | .slCancel d n => Sys2Proof.Machine.execSlCancel d n s
  | .slTallyClear d n => Sys2Proof.Machine.execSlTallyClear d n s
  | .frameReceive p sub corr uncorr fcsOk overRate f => Sys2Proof.Machine.execFrameReceive p sub corr uncorr fcsOk overRate f s
  | .fiReorderRelease p dir => Sys2Proof.Machine.execFiReorderRelease p dir s
  | .packetPlace ix => Sys2Proof.Machine.execPacketPlace ix s
  | .flowTimeout e => Sys2Proof.Machine.execFlowTimeout e s
  | .clsCopy => Sys2Proof.Machine.execClsCopy s
  | .clsLoad => Sys2Proof.Machine.execClsLoad s
  | .clsOpDone => Sys2Proof.Machine.execClsOpDone s
  | .clsFlip => Sys2Proof.Machine.execClsFlip s
  | .clsFlipAdopt h => Sys2Proof.Machine.execClsFlipAdopt h s
  | .egressSend ld ix => Sys2Proof.Machine.execEgressSend ld ix s
  | .egressEntryWrite ld ix off b => Sys2Proof.Machine.execEgressEntryWrite ld ix off b s
  | .qpEntryWrite g off b => Sys2Proof.Machine.execQpEntryWrite g off b s
  | .qpToRts g => Sys2Proof.Machine.execQpToRts g s
  | .qpToError g => Sys2Proof.Machine.execQpToError g s
  | .qpToReset g => Sys2Proof.Machine.execQpToReset g s
  | .memoryWindowWrite w off b => Sys2Proof.Machine.execMemoryWindowWrite w off b s
  | .roceInboundSend ld => Sys2Proof.Machine.execRoceInboundSend ld s
  | .roceInboundWrite ld => Sys2Proof.Machine.execRoceInboundWrite ld s
  | .roceInboundRead ld => Sys2Proof.Machine.execRoceInboundRead ld s
  | .roceInboundAtomic ld => Sys2Proof.Machine.execRoceInboundAtomic ld s
  | .roceSendMessage g => Sys2Proof.Machine.execRoceSendMessage g s
  | .roceAck ld => Sys2Proof.Machine.execRoceAck ld s
  | .roceNak ld => Sys2Proof.Machine.execRoceNak ld s
  | .roceCnp ld => Sys2Proof.Machine.execRoceCnp ld s
  | .roceAckTimeout g => Sys2Proof.Machine.execRoceAckTimeout g s
  | .saKeyWrite p sub chan an key xpn pn alert use => Sys2Proof.Machine.execSaKeyWrite p sub chan an key xpn pn alert use s
  | .lnkPortCtrlWrite p v => Sys2Proof.Machine.execLnkPortCtrlWrite p v s
  | .linkUp p sub => Sys2Proof.Machine.execLinkUp p sub s
  | .linkDown p sub => Sys2Proof.Machine.execLinkDown p sub s
  | .lnkTallyClear p => Sys2Proof.Machine.execLnkTallyClear p s
  | .ptpSync => Sys2Proof.Machine.execPtpSync s
  | .ptpAnnounce => Sys2Proof.Machine.execPtpAnnounce s
  | .ptpAnnounceTimeout => Sys2Proof.Machine.execPtpAnnounceTimeout s
  | .ptpHoldoverExpiry => Sys2Proof.Machine.execPtpHoldoverExpiry s
  | .ptpDelayReq => Sys2Proof.Machine.execPtpDelayReq s
  | .ptpDelayResp => Sys2Proof.Machine.execPtpDelayResp s
  | .ppsOutEdge => Sys2Proof.Machine.execPpsOutEdge s
  | .identify f => Sys2Proof.Machine.execIdentify f s
  | .sessionOpen f => Sys2Proof.Machine.execSessionOpen f s
  | .regRead f => Sys2Proof.Machine.execRegRead f s
  | .regWrite f => Sys2Proof.Machine.execRegWrite f s
  | .queueSubmit f => Sys2Proof.Machine.execQueueSubmit f s
  | .queueCancel f => Sys2Proof.Machine.execQueueCancel f s
  | .queuePreempt f => Sys2Proof.Machine.execQueuePreempt f s
  | .queueResume f => Sys2Proof.Machine.execQueueResume f s
  | .mailboxSend f => Sys2Proof.Machine.execMailboxSend f s
  | .envelopeSet f => Sys2Proof.Machine.execEnvelopeSet f s
  | .logRead f => Sys2Proof.Machine.execLogRead f s
  | .dumpRead f => Sys2Proof.Machine.execDumpRead f s
  | .fwUpdateBegin f wp => Sys2Proof.Machine.execFwUpdateBegin f wp s
  | .fwUpdateData f wp => Sys2Proof.Machine.execFwUpdateData f wp s
  | .fwUpdateCommit f wp => Sys2Proof.Machine.execFwUpdateCommit f wp s
  | .fwUpdateAbort f wp => Sys2Proof.Machine.execFwUpdateAbort f wp s
  | .attest f => Sys2Proof.Machine.execAttest f s
  | .bentinRelay f => Sys2Proof.Machine.execBentinRelay f s
  | .queueFetch q => Sys2Proof.Machine.execQueueFetch q s
  | .run q => Sys2Proof.Machine.execRun q s
  | .marker q => Sys2Proof.Machine.execMarker q s
  | .commandArm q => Sys2Proof.Machine.execCommandArm q s
  | .drvDispatch d => Sys2Proof.Machine.execDrvDispatch d s
  | .commandStart ctag => Sys2Proof.Machine.execCommandStart ctag s
  | .commandComplete ctag => Sys2Proof.Machine.execCommandComplete ctag s
  | .commandPark ctag => Sys2Proof.Machine.execCommandPark ctag s
  | .commandResume ctag => Sys2Proof.Machine.execCommandResume ctag s
  | .clusterIdleSleep d l => Sys2Proof.Machine.execClusterIdleSleep d l s
  | .qCtrlCancel q => Sys2Proof.Machine.execQCtrlCancel q s
  | .qCtrlResume q => Sys2Proof.Machine.execQCtrlResume q s
  | .qCtrlPreempt q => Sys2Proof.Machine.execQCtrlPreempt q s
  | .drvCancel d ctag => Sys2Proof.Machine.execDrvCancel d ctag s
  | .qCfgWrite q v => Sys2Proof.Machine.execQCfgWrite q v s
  | .qTrigWrite q v => Sys2Proof.Machine.execQTrigWrite q v s
  | .drvTallyClear d => Sys2Proof.Machine.execDrvTallyClear d s
  | .mbSendWin m core data => Sys2Proof.Machine.execMbSendWin m core data s
  | .mbAck m => Sys2Proof.Machine.execMbAck m s
  | .mbTimeout m => Sys2Proof.Machine.execMbTimeout m s
  | .resClaim r f => Sys2Proof.Machine.execResClaim r f s
  | .resRelease r f => Sys2Proof.Machine.execResRelease r f s
  | .hotPlug vin => Sys2Proof.Machine.execHotPlug vin s
  | .inputOkSet => Sys2Proof.Machine.execInputOkSet s
  | .uvWarnChange vin => Sys2Proof.Machine.execUvWarnChange vin s
  | .inputUndervoltage vin => Sys2Proof.Machine.execInputUndervoltage vin s
  | .inputOvervoltage vin => Sys2Proof.Machine.execInputOvervoltage vin s
  | .inputOvercurrent iin => Sys2Proof.Machine.execInputOvercurrent iin s
  | .ref25Loss => Sys2Proof.Machine.execRef25Loss s
  | .ref156Loss => Sys2Proof.Machine.execRef156Loss s
  | .pllLockLoss d => Sys2Proof.Machine.execPllLockLoss d s
  | .inputPowerSample vin iin => Sys2Proof.Machine.execInputPowerSample vin iin s
  | .dieTempSample d temp => Sys2Proof.Machine.execDieTempSample d temp s
  | .pwrDomOn dom => Sys2Proof.Machine.execPwrDomOn dom s
  | .pwrDomOff dom => Sys2Proof.Machine.execPwrDomOff dom s
  | .pwrDomRetain dom => Sys2Proof.Machine.execPwrDomRetain dom s
  | .pwrEnvWrite v => Sys2Proof.Machine.execPwrEnvWrite v s
  | .pwrCtrlPen => Sys2Proof.Machine.execPwrCtrlPen s
  | .pwrPpeakRead => Sys2Proof.Machine.execPwrPpeakRead s
  | .weirTallyClear => Sys2Proof.Machine.execWeirTallyClear s
  | .startUp env => Sys2Proof.Machine.execStartUp env s
  | .startupStepTimeout n => Sys2Proof.Machine.execStartupStepTimeout n s
  | .bootCtrlWrite v => Sys2Proof.Machine.execBootCtrlWrite v s
  | .tamperAlarm alarms raw => Sys2Proof.Machine.execTamperAlarm alarms raw s
  | .aocTakeover => Sys2Proof.Machine.execAocTakeover s
  | .hangWatchdogExpiry k tag => Sys2Proof.Machine.execHangWatchdogExpiry k tag s
  | .commandRecovery => Sys2Proof.Machine.execCommandRecovery s
  | .clusterSpare d l => Sys2Proof.Machine.execClusterSpare d l s
  | .fatalError cause survives => Sys2Proof.Machine.execFatalError cause survives s
  | .tallyExport => Sys2Proof.Machine.execTallyExport s
  | .resetAssert => Sys2Proof.Machine.execResetAssert s
  | .resetRelease => Sys2Proof.Machine.execResetRelease s
  | .wakePin => Sys2Proof.Machine.execWakePin s
  | .ppsInEdge => Sys2Proof.Machine.execPpsInEdge s
  | .syncInEdge => Sys2Proof.Machine.execSyncInEdge s
  | .gpioEdge ix level => Sys2Proof.Machine.execGpioEdge ix level s
  | .timerFire t => Sys2Proof.Machine.execTimerFire t s
  | .smbusWriteWord p pecOk => Sys2Proof.Machine.execSmbusWriteWord p pecOk s
  | .smbusBlockRead => Sys2Proof.Machine.execSmbusBlockRead s
  | .bypass => Sys2Proof.Machine.execBypass s
  | .idcode => Sys2Proof.Machine.execIdcode s
  | .samplePreload data => Sys2Proof.Machine.execSamplePreload data s
  | .extest data => Sys2Proof.Machine.execExtest data s
  | .dpaRead a => Sys2Proof.Machine.execDpaRead a s
  | .dpaWrite a v => Sys2Proof.Machine.execDpaWrite a v s
  | .registerWrite a v => Sys2Proof.Machine.execRegisterWrite a v s
  | .ptpFollowUp => Sys2Proof.Machine.execPtpFollowUp s
  | .roceRateRecovery g => Sys2Proof.Machine.execRoceRateRecovery g s
  | .bentinOtherOpcode f => Sys2Proof.Machine.execBentinOtherOpcode f s
  | .linkDieTempSample n temp => Sys2Proof.Machine.execLinkDieTempSample n temp s
  | .standbyAocFailure => Sys2Proof.Machine.execStandbyAocFailure s
  | .ref156Restore => Sys2Proof.Machine.execRef156Restore s
  | .ref25Restore => Sys2Proof.Machine.execRef25Restore s

end Sys2Proof.Machine
end

