-- ==== Sys2Proof/Machine/Idle.lean ====
section
/-! DEFINITION. What the device does while no command waits: one cycle of the always-on clock passes (R35). -/

namespace Sys2Proof.Machine

/-- The die's fabric cycles with a walk in flight count (R355): 384 in an always-on cycle of 320 ns. -/
def walkCycles (d : Nat) : Prog := look fun s => only (!(s.die d).walks.isEmpty) (tally .fq d 0 R.DMMU_WALK_CYCLES 384)

/-- One always-on cycle. -/
def idleProg : Prog := progs [.upd (.time 320), forAll (List.range 16) walkCycles]

end Sys2Proof.Machine
end

