-- ==== Sys2Proof/Safety.lean ====
section
/-! DEFINITION. What a sound state of the machine is: every table of the device in its canonical form, so that equal machines are equal data, and the event log within its capacity. -/

namespace Sys2Proof

/-- The opcode of a thread instruction, bits [31:24] of its word (R242 to R252, R260, R262); 255, which is reserved, for the other commands. -/
def Instr.opcode : Instr → Nat
  | .tissue _ => 0xA0
  | .bissue _ => 0xA1
  | .nop _ => 0x00
  | .exit _ => 0x01
  | .bra _ => 0x02
  | .call _ => 0x03
  | .jr _ => 0x04
  | .jpush _ => 0x05
  | .join _ => 0x06
  | .bar _ => 0x07
  | .mfs _ => 0x08
  | .mts _ => 0x09
  | .trap _ => 0x0A
  | .waitv _ => 0x0B
  | .add _ => 0x10
  | .sub _ => 0x11
  | .mul _ => 0x12
  | .mulh _ => 0x13
  | .and _ => 0x14
  | .or _ => 0x15
  | .xor _ => 0x16
  | .shl _ => 0x17
  | .shr _ => 0x18
  | .min _ => 0x19
  | .max _ => 0x1A
  | .div _ => 0x1B
  | .rem _ => 0x1C
  | .clz _ => 0x1D
  | .popc _ => 0x1E
  | .shfl _ => 0x1F
  | .addi _ => 0x20
  | .andi _ => 0x21
  | .ori _ => 0x22
  | .xori _ => 0x23
  | .shli _ => 0x24
  | .shri _ => 0x25
  | .sari _ => 0x26
  | .movi _ => 0x27
  | .movh _ => 0x28
  | .cmpeq _ => 0x30
  | .cmpne _ => 0x31
  | .cmplt _ => 0x32
  | .cmple _ => 0x33
  | .cmpeqi _ => 0x34
  | .cmplti _ => 0x35
  | .plog _ => 0x36
  | .vote _ => 0x37
  | .ballot _ => 0x38
  | .fadd _ => 0x40
  | .fsub _ => 0x41
  | .fmul _ => 0x42
  | .ffma _ => 0x43
  | .fmin _ => 0x44
  | .fmax _ => 0x45
  | .fdiv _ => 0x46
  | .fsqrt _ => 0x47
  | .fcvt _ => 0x48
  | .fcmplt _ => 0x49
  | .fcmpeq _ => 0x4A
  | .vadd _ => 0x50
  | .vsub _ => 0x51
  | .vmul _ => 0x52
  | .vmin _ => 0x53
  | .vmax _ => 0x54
  | .vand _ => 0x55
  | .vor _ => 0x56
  | .vxor _ => 0x57
  | .vshl _ => 0x58
  | .vsar _ => 0x59
  | .vsplat _ => 0x5A
  | .vext _ => 0x5B
  | .vins _ => 0x5C
  | .vred _ => 0x5D
  | .vperm _ => 0x5E
  | .vfadd _ => 0x60
  | .vfsub _ => 0x61
  | .vfmul _ => 0x62
  | .vffma _ => 0x63
  | .vfmin _ => 0x64
  | .vfmax _ => 0x65
  | .vfcvt _ => 0x66
  | .vfred _ => 0x67
  | .ld _ => 0x70
  | .lds _ => 0x71
  | .st _ => 0x72
  | .vld _ => 0x73
  | .vst _ => 0x74
  | .vldg _ => 0x75
  | .vsts _ => 0x76
  | .pref _ => 0x77
  | .lkget _ => 0x78
  | .lkput _ => 0x79
  | .aadd _ => 0x80
  | .amin _ => 0x81
  | .amax _ => 0x82
  | .aand _ => 0x83
  | .aor _ => 0x84
  | .axchg _ => 0x85
  | .acas _ => 0x86
  | .afadd _ => 0x87
  | .fence _ => 0x90
  | .twait _ => 0xA2
  | .tpoll _ => 0xA3
  | .tcrec _ => 0xA4
  | .tfree _ => 0xA5
  | .tcancel _ => 0xA6
  | _ => 0xFF

end Sys2Proof

namespace Sys2Proof.Machine

/-- The canonical form of the memory: addresses strictly rising, no entry equal to 0, which an unlisted address reads as. -/
def Memory.wf (l : List Host.Cell) : Bool := canonical memInit l

/-- Every table of units is in its canonical form. -/
def Dev.tables (s : Dev) : Bool :=
  canonical clustersDef s.clusters && canonical diesDef s.dies && canonical stacksDef s.stackTab && canonical droversDef s.drovers
    && canonical pipeDef s.pipes && canonical sluiceDef s.sluices && canonical mboxDef s.mailboxes && canonical domDef s.doms
    && canonical thermDef s.therm && canonical repairDef s.repair && canonical sessionDef s.sessions

/-- The event log holds at most its capacity, and never more entries than have been written (R554). -/
def Dev.logSound (s : Dev) : Bool := decide (s.log.length ≤ logCap) && decide (s.log.length ≤ s.logNext)

/-- A sound device. -/
def Dev.sound (s : Dev) : Bool := Memory.wf s.mem && canonical regReset s.regs && s.tables && s.logSound

/-! ### Terms of the claims -/

/-- A command completes: it answers a next state, whose queue is the one it found, and whose device is as `P` says. -/
def completes (c : Instr) (s : State) (P : Dev → Prop) : Prop := ∃ t, exec c s = .next t ∧ t.pending = s.pending ∧ P t.m

/-- The line of its code that the instruction cache of a core holds, if it does (R258). -/
def Dev.codeLine (s : Dev) (k core line : Nat) : Option (Nat × List Byte) := ((s.cl k).core core).icache.find? fun e => e.1 == line
/-- The word at a DPA as a core fetches it (R240, R258). -/
def Dev.codeWord (s : Dev) (k core a : Nat) : Nat :=
  leAt (match s.codeLine k core (a / 64 * 64) with | some e => e.2 | none => s.bytesAt (a / 64 * 64) 64) (a % 64) 4

/-- Code at a virtual address can be fetched at once: the cluster's cache holds a page that allows it, the memory is reachable, the instruction
cache holds its line, or has room for it and the line is without errors and stored uncompressed; and no translation is to be used once only (R257, R258,
R332, R335, R342, R353). -/
def Dev.fetchable (s : Dev) (k core va : Nat) : Prop :=
  va % 4 = 0 ∧ (∃ a, s.xlate (k / 168) (k % 168) va 2 = .hit a ∧ a % 4 = 0 ∧ s.reachRange a 4 = .ok
    ∧ ((s.codeLine k core (a / 64 * 64)).isSome = true ∨ (((s.cl k).core core).icache.length < icacheLines ∧ touched s.oneBit (a / 64 * 64) 64 = []
      ∧ touched s.bad (a / 64 * 64) 64 = [] ∧ (s.stk (s.stackNo (a / 256 * 256))).zc = []))) ∧ (s.die (k / 168)).once = []

/-- A flock stands before an instruction, and nothing hinders it: its cluster is on, it runs with no pre-emption asked, its code can be fetched, no
register upset shows and no pipe is contested (R233, R257, R265, R267). -/
def Dev.stands (s : Dev) (a : ThOp) : Prop :=
  s.clusterOn (a.k / 168) (a.k % 168) = true ∧ (s.flockOf a).st = .run ∧ (s.flockOf a).preempt = false ∧ s.fetchable a.k a.core (s.flockOf a).pc
    ∧ a.upset = false ∧ a.contested = false

/-- The instruction before which a flock stands is `c`, with the low bits of `a`: its word lies at the program counter (R240). -/
def Dev.codes (s : Dev) (a : ThOp) (c : Instr) : Prop :=
  s.codeWord a.k a.core (s.dpaOf (a.k / 168) (a.k % 168) (s.flockOf a).pc) = c.opcode * 2 ^ 24 + a.w

/-- Everything of a device but one flock, the code its core holds, the translation cache of its cluster and the registers stands. -/
def Dev.sameButFlock (s t : Dev) (a : ThOp) : Prop :=
  { t with clusters := [], regs := [] } = { s with clusters := [], regs := [] }
    ∧ (∀ k, k ≠ a.k → t.cl k = s.cl k) ∧ { t.cl a.k with cores := [], tlb := [] } = { s.cl a.k with cores := [], tlb := [] }
    ∧ (∀ n, n ≠ a.core → (t.cl a.k).core n = (s.cl a.k).core n)
    ∧ { (t.cl a.k).core a.core with f0 := Flock.idle, f1 := Flock.idle, icache := [] }
      = { (s.cl a.k).core a.core with f0 := Flock.idle, f1 := Flock.idle, icache := [] }
    ∧ t.flock a.k a.core (1 - a.f) = s.flock a.k a.core (1 - a.f)

/-- The same for an instruction of the vector engine, whose last thread-vector came at `v` (R236). -/
def Dev.sameButVec (s t : Dev) (a : ThOp) (v : Nat) : Prop :=
  { t with clusters := [], regs := [] } = { s with clusters := [], regs := [] }
    ∧ (∀ k, k ≠ a.k → t.cl k = s.cl k) ∧ { t.cl a.k with cores := [], tlb := [] } = { s.cl a.k with cores := [], tlb := [] }
    ∧ (∀ n, n ≠ a.core → (t.cl a.k).core n = (s.cl a.k).core n)
    ∧ { (t.cl a.k).core a.core with f0 := Flock.idle, f1 := Flock.idle, icache := [] }
      = { (s.cl a.k).core a.core with f0 := Flock.idle, f1 := Flock.idle, icache := [], vecIdle := v }
    ∧ t.flock a.k a.core (1 - a.f) = s.flock a.k a.core (1 - a.f)

/-- The DPA of a counter of the thread core an instruction runs on. -/
def counterOf (a : ThOp) (off : Nat) : Nat := regAddr .th (a.k / 168) (a.k % 168 * 112 + a.core) off

/-- The registers of the device stand, but those listed, which become the words given. -/
def Dev.regsBecome (s t : Dev) (l : List (Nat × Nat)) : Prop :=
  ∀ A, t.regAt A = match l.find? (fun e => e.1 == A) with
    | some e => e.2
    | none => s.regAt A

/-- The flock has gone on past an instruction: each executing thread became what `f` gives, every other thread stands; the program counter is `pc`. -/
def Dev.wentOn (s t : Dev) (a : ThOp) (pc : Nat) (f : Nat → Thread → Thread) : Prop :=
  (∀ i, (t.flockOf a).thr i = if i ∈ (s.flockOf a).exec a.w then f i ((s.flockOf a).thr i) else (s.flockOf a).thr i)
    ∧ { t.flockOf a with threads := [] } = { s.flockOf a with threads := [], pc := pc % 2 ^ 64, st := .run, done := 0, wait := none }

/-- An instruction that changes registers only: the next one follows it, and TH_ISSUED counts it (R272). -/
def Dev.wrote (s t : Dev) (a : ThOp) (f : Nat → Thread → Thread) : Prop :=
  s.sameButFlock t a ∧ s.wentOn t a ((s.flockOf a).pc + 4) f
    ∧ s.regsBecome t [(counterOf a R.TH_ISSUED, satAdd (s.regAt (counterOf a R.TH_ISSUED)) 1)]

/-- A vector instruction that changes registers only: TH_VSLOTS counts its executing threads, each a thread-vector (R233, R272). -/
def Dev.wroteVec (s t : Dev) (a : ThOp) (f : Nat → Thread → Thread) : Prop :=
  s.sameButVec t a (if ((s.flockOf a).exec a.w).isEmpty then ((s.cl a.k).core a.core).vecIdle else s.clock) ∧ s.wentOn t a ((s.flockOf a).pc + 4) f
    ∧ s.regsBecome t [(counterOf a R.TH_ISSUED, satAdd (s.regAt (counterOf a R.TH_ISSUED)) 1),
        (counterOf a R.TH_VSLOTS, satAdd (s.regAt (counterOf a R.TH_VSLOTS)) ((s.flockOf a).exec a.w).length)]

/-! ### Terms of the claims about threads -/

/-- Register `g n` of a thread as a word: g0 reads 0 (R237). -/
def Thread.x (t : Thread) (n : Nat) : W64 := if n = 0 then 0 else sget (fun _ => (0 : W64)) t.g n
/-- A write of register `g n`: g0 ignores it (R237). -/
def Thread.putX (t : Thread) (n : Nat) (v : W64) : Thread := if n = 0 then t else { t with g := sset (fun _ => (0 : W64)) t.g n v }
/-- A write of predicate `p n`: p0 ignores it (R237). -/
def Thread.putP (t : Thread) (n : Nat) (b : Bool) : Thread :=
  if n = 0 then t else { t with p := if b then t.p ||| (1#8 <<< n) else t.p &&& ~~~(1#8 <<< n) }
/-- Element `i` of vector register `v n`, of `w` bits (R237). -/
def Thread.lane (t : Thread) (w n i : Nat) : BitVec w := BitVec.ofNat w (elGet w (t.vr n) i)

/-- An instruction completes where its word lies at the program counter. -/
def issues (c : Instr) (s : State) (a : ThOp) (P : Dev → Prop) : Prop := s.m.codes a c → completes c s P

/-- An instruction whose word is legal, and lies at the program counter, completes, and each executing thread becomes what `f` gives. -/
def gives (c : Instr) (ok : Bool) (s : State) (a : ThOp) (f : Nat → Thread → Thread) : Prop :=
  ok = true → issues c s a fun t => s.m.wrote t a f

/-- The same for an instruction of the vector engine, whose clock runs (R236). -/
def givesVec (c : Instr) (ok : Bool) (s : State) (a : ThOp) (f : Nat → Thread → Thread) : Prop :=
  ok = true → issues c s a fun t => s.m.wroteVec t a f

/-- The signed field IMM8 of a word as a register value (R240, R244). -/
def imm8 (a : ThOp) : W64 := (BitVec.ofNat 8 (bits a.w 7 0)).signExtend 64

/-- The flock alone of a device changes, and becomes `x`; the registers listed become the words given. -/
def Dev.flockBecame (s t : Dev) (a : ThOp) (x : Flock) (l : List (Nat × Nat)) : Prop :=
  s.sameButFlock t a ∧ t.flockOf a = x ∧ s.regsBecome t l

/-- The counter TH_ISSUED of the core counts one instruction (R272). -/
def Dev.issuedOne (s : Dev) (a : ThOp) : List (Nat × Nat) := [(counterOf a R.TH_ISSUED, satAdd (s.regAt (counterOf a R.TH_ISSUED)) 1)]

/-- The flock `x` once an instruction is complete in every thread, at `pc`. -/
def Flock.doneAt (x : Flock) (pc : Nat) : Flock := { x with pc := pc % 2 ^ 64, st := .run, done := 0, wait := none }

/-- The core's fault registers hold a record of an exception of the flock if they held none, beside the OVERFLOW they had, else OVERFLOW is set (R272). -/
def Dev.recorded (s u : Dev) (a : ThOp) (cause status va thread : Nat) (fetch : Bool) : Prop :=
  if s.regAt (counterOf a R.TH_FAULT_STATUS) / 2 ^ 31 = 1
  then u.regAt (counterOf a R.TH_FAULT_STATUS) = s.regAt (counterOf a R.TH_FAULT_STATUS) ||| 2 ^ 30
  else u.regAt (counterOf a R.TH_FAULT_STATUS)
      = 2 ^ 31 + bits (s.regAt (counterOf a R.TH_FAULT_STATUS)) 30 30 * 2 ^ 30 + a.f * 2 ^ 24 + status * 2 ^ 16 + b2n fetch * 2 ^ 8 + cause
    ∧ u.regAt (counterOf a R.TH_FAULT_PC_LO) = (s.flockOf a).pc % 2 ^ 32
    ∧ u.regAt (counterOf a R.TH_FAULT_PC_HI) = (s.flockOf a).pc / 2 ^ 32 % 2 ^ 16
    ∧ u.regAt (counterOf a R.TH_FAULT_VADDR_LO) = va % 2 ^ 32
    ∧ u.regAt (counterOf a R.TH_FAULT_VADDR_HI) = va / 2 ^ 32 % 2 ^ 16
    ∧ u.regAt (counterOf a R.TH_FAULT_MASK) = ((s.flockOf a).done * 2 ^ 8 + 2 ^ thread % 256) % 2 ^ 32

/-- An exception that kills (R265, R475): after `u`, in which the flock stands FAULTED where it was and the record is made, the command of the flock is
killed with the status. -/
def Dev.raised (s t : Dev) (a : ThOp) (cause status va thread : Nat) (fetch : Bool) : Prop :=
  ∃ u : Dev, t = (killCommand (s.flockOf a).cmd status).run u ∧ u.flockOf a = { s.flockOf a with st := .faulted }
    ∧ s.recorded u a cause status va thread fetch

/-! ### Terms of the claims about memory -/

/-- The executing threads in which an instruction has yet to take effect, in the order in which they do (R266). -/
def Dev.todo (s : Dev) (a : ThOp) : List Nat := ((s.flockOf a).exec a.w).filter fun t => !bitAt (s.flockOf a).done t

/-- No two entries of a translation cache cover one address: tables changed without an invalidation could leave such a pair. -/
def tlbApart : List Tlb → Bool
  | [] => true
  | e :: r => r.all (fun x => decide (x.va + 2 ^ x.lg ≤ e.va) || decide (e.va + 2 ^ e.lg ≤ x.va)) && tlbApart r

/-- An aligned data access of `n` bytes that meets nothing: its page is cached, by one entry, and allows it, it lies at `dpa` in a stack or a store that
can be reached, and its 64 bytes hold no error and no compressed block (R257, R332, R335, R342, R346). -/
def Dev.dataAt (s : Dev) (a : ThOp) (va n access dpa : Nat) : Prop :=
  tlbApart (s.cl a.k).tlb = true ∧ va % n = 0 ∧ s.xlate (a.k / 168) (a.k % 168) va access = .hit dpa ∧ dpa % n = 0 ∧ memPlace dpa = true ∧ s.reachRange dpa n = .ok
    ∧ touched s.oneBit (dpa / 64 * 64) 64 = [] ∧ touched s.bad (dpa / 64 * 64) 64 = []
    ∧ (dpa < stackEnd → (s.stk (s.stackNo (dpa / 256 * 256))).zc = [])

/-- The data cache of the core an instruction runs on. -/
def Dev.dcacheOf (s : Dev) (a : ThOp) : List (Nat × List Byte) := ((s.cl a.k).core a.core).dcache
/-- The line of the data cache that holds a DPA. -/
def Dev.lineOf (s : Dev) (a : ThOp) (dpa : Nat) : Option (Nat × List Byte) := (s.dcacheOf a).find? fun e => e.1 == dpa / 64 * 64
/-- Whether a load misses the data cache: it holds lines of stacks only (R258). -/
def Dev.loadMisses (s : Dev) (a : ThOp) (dpa : Nat) : Bool := decide (dpa < stackEnd) && (s.lineOf a dpa).isNone
/-- What a load reads: the bytes of a present line, else the memory's (R258). -/
def Dev.loadBytes (s : Dev) (a : ThOp) (dpa n : Nat) : List Byte :=
  match s.lineOf a dpa with
  | some e => if dpa < stackEnd then (e.2.drop (dpa % 64)).take n else s.bytesAt dpa n
  | none => s.bytesAt dpa n

/-- Everything of a device stands but one flock and the caches of its core, the translation cache of its cluster, the registers, the memory, what the
drover notes of a command's writes (R549), and the number of the next free value. -/
def Dev.sameButCore (s t : Dev) (a : ThOp) : Prop :=
  { t with clusters := [], regs := [], mem := [], undef := [], drovers := [], free := 0 }
      = { s with clusters := [], regs := [], mem := [], undef := [], drovers := [], free := 0 }
    ∧ (∀ k, k ≠ a.k → t.cl k = s.cl k) ∧ { t.cl a.k with cores := [], tlb := [] } = { s.cl a.k with cores := [], tlb := [] }
    ∧ (∀ n, n ≠ a.core → (t.cl a.k).core n = (s.cl a.k).core n)
    ∧ { (t.cl a.k).core a.core with f0 := Flock.idle, f1 := Flock.idle, dcache := [], icache := [] }
      = { (s.cl a.k).core a.core with f0 := Flock.idle, f1 := Flock.idle, dcache := [], icache := [] }
    ∧ t.flock a.k a.core (1 - a.f) = s.flock a.k a.core (1 - a.f)

/-- The last thread of an instruction has taken effect as `g` says, and the flock has gone on to the next instruction. -/
def Dev.finished (s t : Dev) (a : ThOp) (i : Nat) (g : Thread → Thread) : Prop :=
  (∀ j, (t.flockOf a).thr j = if j = i then g ((s.flockOf a).thr i) else (s.flockOf a).thr j)
    ∧ { t.flockOf a with threads := [] } = { (s.flockOf a).doneAt ((s.flockOf a).pc + 4) with threads := [] }

/-- The memory stands. -/
def Dev.sameMemory (s t : Dev) : Prop := t.mem = s.mem ∧ t.undef = s.undef

/-- A load: one thread's register changes; a miss is counted and fills the line (R258). -/
def Dev.loaded (s t : Dev) (a : ThOp) (i dpa : Nat) (g : Thread → Thread) : Prop :=
  s.sameButCore t a ∧ s.finished t a i g ∧ s.sameMemory t ∧ t.drovers = s.drovers
    ∧ s.regsBecome t (s.issuedOne a ++ [(counterOf a R.TH_DCACHE_MISS, satAdd (s.regAt (counterOf a R.TH_DCACHE_MISS)) (b2n (s.loadMisses a dpa)))])
    ∧ if s.loadMisses a dpa then (t.dcacheOf a).head? = some (dpa / 64 * 64, s.bytesAt (dpa / 64 * 64) 64) ∧ (t.dcacheOf a).length ≤ (s.dcacheOf a).length + 1
      else t.dcacheOf a = s.dcacheOf a

/-- The bytes a value of `n` bytes puts at `dpa`: what it makes of address `x`. -/
def putsAt (dpa n v x : Nat) : Option Byte := if dpa ≤ x ∧ x < dpa + n then some (BitVec.ofNat 8 (v / 2 ^ (8 * (x - dpa)))) else none

/-- A store: the memory's bytes become what `f` gives for their addresses, no other byte changes, and one thread becomes what `g` gives. -/
def Dev.stored (s t : Dev) (a : ThOp) (i : Nat) (f : Nat → Option Byte) (g : Thread → Thread) : Prop :=
  s.sameButCore t a ∧ s.finished t a i g ∧ s.regsBecome t (s.issuedOne a)
    ∧ (∀ x, memPlace x = true → t.byteAt x = (f x).getD (s.byteAt x))
    ∧ (s.replayable (s.flockOf a).cmd = false → t.drovers = s.drovers)

/-- The data cache after a store: present lines take the bytes stored (R258). -/
def Dev.linesTook (s t : Dev) (a : ThOp) (f : Nat → Option Byte) : Prop :=
  (t.dcacheOf a).map (fun e => (e.1, (List.range 64).map fun j => e.2.getD j 0))
    = (s.dcacheOf a).map fun e => (e.1, (List.range 64).map fun j => (f (e.1 + j)).getD (e.2.getD j 0))

/-- The address of a MEM word in a thread (R241). -/
def memAddr (a : ThOp) (t : Thread) (scale : Nat) : Nat :=
  (t.x (fA a.w) + (BitVec.ofNat 6 (bits a.w 5 0)).signExtend 64 * BitVec.ofNat 64 scale).toNat

/-- The flock waits on its instruction: `op` says for what; the tally counts it. -/
def Dev.waitsOn (s t : Dev) (a : ThOp) (op counter : Nat) : Prop :=
  (∃ v, v.op = op ∧ v.w = a.word ∧ t.flockOf a = { s.flockOf a with st := .wait, wait := some v })
    ∧ t.regAt (counterOf a counter) = satAdd (s.regAt (counterOf a counter)) 1

/-! ### Terms of the claims about instructions of a cluster -/

/-- No unit of memory holds an error. -/
def Dev.errorless (s : Dev) : Prop := s.oneBit = [] ∧ s.bad = []

/-- The entries of a translation cache are pages of at least 64 KiB, aligned to 64 KiB (R345). -/
def tlbPages (l : List Tlb) : Bool := l.all fun e => decide (16 ≤ e.lg) && decide (e.va % 65536 = 0) && decide (e.dpa % 65536 = 0)

/-- The accesses of an instruction meet nothing: each page they touch is in the cluster's cache, by one entry, and allows them, it lies in a stack or
a store, everything can be reached, and what must lie in the own store does (R116, R278, R347). -/
def Dev.granted (s : Dev) (k : Nat) (l : List VAcc) (own : Bool) : Prop :=
  (∀ a, a ∈ vaPieces l → ∃ dpa, s.xlate (k / 168) (k % 168) a.va a.access = .hit dpa ∧ memPlace dpa = true) ∧ s.meets (k / 168) (k % 168) l = .ok
    ∧ (own = true → s.outside k l = false) ∧ (s.die (k / 168)).once = [] ∧ tlbApart (s.cl k).tlb = true
    ∧ tlbPages (s.cl k).tlb = true

/-- Reads and writes of a running instruction, as accesses. -/
def readsOf (l : List (Nat × Nat)) : List VAcc := (l.filter fun r => r.2 ≠ 0).map fun r => ⟨r.1, r.2, accRead⟩
def writesOf (l : List (Nat × Nat)) : List VAcc := (l.filter fun r => r.2 ≠ 0).map fun r => ⟨r.1, r.2, accWrite⟩

/-- The registers, the cluster, and nothing else of the device may change. -/
def Dev.onlyCluster (s t : Dev) (k : Nat) : Prop :=
  { t with clusters := [], regs := [] } = { s with clusters := [], regs := [] } ∧ ∀ j, j ≠ k → t.cl j = s.cl j

/-- The entry of a cluster with a number. -/
def Dev.entryNo (s : Dev) (k uid : Nat) : Option Entry := (s.cl k).entries.find? fun e => e.uid == uid

/-- The tag of an allocation is complete with a status; no other tag changes (R288, R289, R323). -/
def Dev.tagDone (s t : Dev) (k uid status : Nat) : Prop :=
  (t.cl k).tags.map (fun x => (x.1, x.2.uid, x.2.cmd)) = (s.cl k).tags.map (fun x => (x.1, x.2.uid, x.2.cmd))
    ∧ ∀ x, x ∈ (t.cl k).tags → if x.2.uid = uid then x.2.done = true ∧ leAt x.2.record 0 1 = status else x ∈ (s.cl k).tags

/-- An instruction has ended: it has left its queues and its tag is complete with a status. -/
def Dev.ended (s t : Dev) (k uid status : Nat) : Prop := (∀ e, e ∈ (t.cl k).entries → e.uid ≠ uid) ∧ s.tagDone t k uid status

/-- A barge has ended: it has left the engine and its tag is complete with a status (R301). -/
def Dev.bargeEnded (s t : Dev) (k uid status : Nat) : Prop := (∀ b, b ∈ (t.cl k).barges → b.uid ≠ uid) ∧ s.tagDone t k uid status

/-- No agent holds the trace claim, so that no trace entry is written (R560). -/
def Dev.untraced (s : Dev) : Prop := s.fld .res 20 0 (R.RES_CLAIM + 16) 7 0 ≠ 6

/-- The byte that a write at a virtual address puts at a DPA, if it covers it. -/
def Dev.vaPuts (s : Dev) (d p : Nat) (w : Nat × List Byte) (x : Nat) : Option Byte :=
  (pagePieces w.1 w.2.length).reverse.findSome? fun q =>
    let a := s.dpaOf d p q.1
    if a ≤ x ∧ x < a + q.2 then some (w.2.getD (q.1 - w.1 + (x - a)) 0) else none

/-- The memory is as writes at virtual addresses leave it, the later one winning; every other byte of the stacks and stores stands. -/
def Dev.wroteVa (s t : Dev) (d p : Nat) (ws : List (Nat × List Byte)) : Prop :=
  ∀ x, memPlace x = true → t.byteAt x = (ws.reverse.findSome? fun w => s.vaPuts d p w x).getD (s.byteAt x)

/-! ### Frames -/

/-- The parts of a device. -/
inductive Part where
  | clock | free | regs | mem | undef | bad | oneBit | clusters | dies | stackTab
  | drovers | pipes | sluices | mailboxes | doms | power | therm | repair | log | logNext
  | rfaults | sessions | sent | aoc | links | timeOff | role | groupIndex | unitWrites
  deriving DecidableEq, Repr

/-- The device with one part wiped. -/
def Dev.wipe (s : Dev) : Part → Dev
  | .clock => { s with clock := 0 }
  | .free => { s with free := 0 }
  | .regs => { s with regs := [] }
  | .mem => { s with mem := [] }
  | .undef => { s with undef := [] }
  | .bad => { s with bad := [] }
  | .oneBit => { s with oneBit := [] }
  | .clusters => { s with clusters := [] }
  | .dies => { s with dies := [] }
  | .stackTab => { s with stackTab := [] }
  | .drovers => { s with drovers := [] }
  | .pipes => { s with pipes := [] }
  | .sluices => { s with sluices := [] }
  | .mailboxes => { s with mailboxes := [] }
  | .doms => { s with doms := [] }
  | .power => { s with power := Power.reset }
  | .therm => { s with therm := [] }
  | .repair => { s with repair := [] }
  | .log => { s with log := [] }
  | .logNext => { s with logNext := 0 }
  | .rfaults => { s with rfaults := [] }
  | .sessions => { s with sessions := [] }
  | .sent => { s with sent := [] }
  | .aoc => { s with aoc := Aoc.reset }
  | .links => { s with links := Links.reset }
  | .timeOff => { s with timeOff := 0 }
  | .role => { s with role := 0 }
  | .groupIndex => { s with groupIndex := 0 }
  | .unitWrites => { s with unitWrites := [] }

/-- Every part of a device stands but those listed. -/
def Dev.sameBut (s t : Dev) (l : List Part) : Prop := l.foldl Dev.wipe t = l.foldl Dev.wipe s

/-- An instruction of a cluster has written exactly `ws`: every other byte of the stacks and stores, every other cluster and every part that no write of a
cluster touches stand. -/
def Dev.wroteAs (s t : Dev) (k : Nat) (ws : List (Nat × List Byte)) : Prop :=
  s.wroteVa t (k / 168) (k % 168) ws ∧ s.sameBut t [.clusters, .regs, .mem, .undef, .drovers, .stackTab] ∧ ∀ j, j ≠ k → t.cl j = s.cl j

/-- One cursor unit of an instruction has run, the last one of `total` being its last. -/
def Dev.unitRan (t : Dev) (k : Nat) (e : Entry) (total : Nat) : Prop :=
  ∃ y, t.entryNo k e.uid = some y ∧ y.run.units = e.run.units + 1 ∧ (y.stage = .running ↔ e.run.units + 1 < total)

/-- The accesses of a unit of a die meet nothing: each page they touch is in the die's cache, by one entry, and allows them, it lies in a stack or a store,
and everything can be reached (R116, R347). -/
def Dev.dieGranted (s : Dev) (d : Nat) (l : List VAcc) : Prop :=
  (∀ a, a ∈ vaPieces l → ∃ dpa, s.xlate d 168 a.va a.access = .hit dpa ∧ memPlace dpa = true) ∧ s.meets d 168 l = .ok
    ∧ (s.die d).once = [] ∧ tlbApart (s.die d).tlb = true ∧ tlbPages (s.die d).tlb = true

/-- A command leaves exactly this device, its queue as it was. -/
def becomes (c : Instr) (s : State) (t : Dev) : Prop := exec c s = .next { s with m := t }

/-- The device with one register word set. -/
def Dev.put (s : Dev) (rb : RB) (d i off v : Nat) : Dev := s.apply (.reg (regAddr rb d i off) v)

/-- The device after an entry to the event log (R554, R555). -/
def Dev.logged (s : Dev) (e : LogEntry) : Dev := (logE e).run s

/-- One domain of a device becomes `x`, every other stands. -/
def Dev.domBecomes (s t : Dev) (k : Nat) (x : Dom) : Prop := ∀ j, t.dom j = if j = k then x else s.dom j

/-- The byte that writes at DPAs put at an address, the later one winning. -/
def dpaPuts (ws : List (Nat × List Byte)) (x : Nat) : Option Byte :=
  ws.reverse.findSome? fun w => if w.1 ≤ x ∧ x < w.1 + w.2.length then some (w.2.getD (x - w.1) 0) else none

/-- The memory is as writes at DPAs leave it; every other byte of the stacks and stores stands. -/
def Dev.wroteDpa (s t : Dev) (ws : List (Nat × List Byte)) : Prop := ∀ x, memPlace x = true → t.byteAt x = (dpaPuts ws x).getD (s.byteAt x)

/-- Writes at DPAs meet nothing: no unit of memory holds an error, and each lies in a stack or a store that can be reached. -/
def Dev.writable (s : Dev) (ws : List (Nat × List Byte)) : Prop :=
  s.errorless ∧ ∀ w, w ∈ ws → memPlace w.1 = true ∧ s.reachRange w.1 w.2.length = .ok

/-- A sub-port sends at once, in clear: its link is up, MACsec is off, and no fault injection acts on what it sends (R415, R417, R452). -/
def Dev.clearTx (s : Dev) (p sub : Nat) : Prop :=
  s.subUp p sub = true ∧ s.pfld p R.LNK_PORT_CTRL 2 1 = 0 ∧ bitAt (s.preg p (fiReg 0 0)) 0 = false ∧ (s.port p).held.any (fun h => h.1 == 0) = false

/-- The datagram in which a queue pair sends a packet, as its entry says (R444). -/
def Dev.qpPkt (s : Dev) (g : Nat) (b : List Byte) : TxPkt :=
  let e := (s.qp g).entry
  { port := leAt e 2 1 % 32, sub := leAt e 2 1 / 32 % 4, vlan := if bitAt (leAt e 1 1) 6 then leAt e 50 2 % 4096 else 0x1000, dscp := leAt e 31 1 % 64,
    src := leAt e 8 4, dst := leAt e 4 4, srcUdp := if leAt e 52 2 = 0 then 49152 + g % 16384 else leAt e 52 2, dstUdp := 4791, body := b, pn := 0, flip := 0 }

/-- What the link dies hold once the frame a row names has been taken. -/
def frameTook (f : BFrom) (l : Links) : Links :=
  match f with
  | .udp .. => l
  | .qp g => { l with bentin := takeFirst l.bentin g.val }

/-- A well-formed REQUEST to this device has arrived that is not among those its session remembers, and its operation is open (R447, R449, R526, R535). -/
def Dev.asked (s : Dev) (f : BFrom) (q : Request) : Prop :=
  ∃ b, s.bentinIn f = some (q.src, b) ∧ frameOk b = true ∧ s.ownRequest q.src b = true ∧ q = ⟨q.src, fSession b, fReqId b, fOpcode b, b.drop 32⟩
    ∧ (s.ses q.ses).reqs.find? (fun e => e.1 == q.id) = none ∧ s.opcodeOpen q = true

/-- The REPLY to a request has gone to its source, and the session remembers it (R447, R449): beside the parts listed nothing else of the device, and no
other session, has changed. -/
def Dev.replied (s t : Dev) (f : BFrom) (q : Request) (status seq : Nat) (payload : List Byte) (parts : List Part) : Prop :=
  let b := bentinFrame 1 q.opcode s.groupIndex 0 q.ses q.id status seq payload
  s.sameBut t (parts ++ [.links, .sent, .sessions]) ∧ t.links = frameTook f s.links ∧ t.sent = s.sent ++ [s.out q.src b] ∧ (∀ j, j ≠ q.ses → t.ses j = s.ses j)
    ∧ (t.ses q.ses).seq = seq + 1 ∧ (t.ses q.ses).reqs.find? (fun e => e.1 == q.id) = some (q.id, some b) ∧ (t.ses q.ses).reqs.length ≤ 64

/-- Every command of a drover has a key of its own, made of its queue, which is the drover's (R457, R468). -/
def Dev.cmdsSound (s : Dev) (d : Nat) : Prop :=
  ((s.drv d).cmds.map (·.key)).Nodup ∧ ∀ c, c ∈ (s.drv d).cmds → c.key / 2 ^ 32 = c.queue + 1 ∧ c.queue / 256 = d

/-- A sound machine. -/
def State.sound (s : State) : Bool := s.m.sound

end Sys2Proof.Machine
end

