-- ==== Sys2Proof/Certificates/Slice0/Obligations.lean ====
section
/-! DEFINITION. The statements for the provers, from the numbered rules of the spec. -/

open Sys2Proof Sys2Proof.Machine

/-- R244, R245: the scalar integer instructions of three registers, as two's-complement arithmetic on 64-bit words. -/
def Obligations.IntegerResults : Prop := ∀ (s : State) (a : ThOp), s.m.stands a →
  let r3 (c : ThOp → Instr) (ms : List Nat) (f : W64 → W64 → W64) : Prop :=
    gives (c a) (regOk .g .g .g ms a.w) s a fun _ t => t.putX (fD a.w) (f (t.x (fA a.w)) (t.x (fB a.w)))
  let signed : Bool := fM a.w == 0
  r3 .add [0] (fun x y => x + y)
    ∧ r3 .sub [0] (fun x y => x - y)
    ∧ r3 .mul [0] (fun x y => x * y)
    ∧ r3 .mulh [0, 1] (fun x y => if signed then ((x.signExtend 128 * y.signExtend 128) >>> 64).setWidth 64
        else ((x.setWidth 128 * y.setWidth 128) >>> 64).setWidth 64)
    ∧ r3 .and [0] (fun x y => x &&& y)
    ∧ r3 .or [0] (fun x y => x ||| y)
    ∧ r3 .xor [0] (fun x y => x ^^^ y)
    ∧ r3 .shl [0] (fun x y => x <<< (y.toNat % 64))
    ∧ r3 .shr [0, 1] (fun x y => if signed then x >>> (y.toNat % 64) else x.sshiftRight (y.toNat % 64))
    ∧ r3 .min [0, 1] (fun x y => if signed then (if x.sle y then x else y) else (if x ≤ y then x else y))
    ∧ r3 .max [0, 1] (fun x y => if signed then (if x.sle y then y else x) else (if x ≤ y then y else x))
    ∧ r3 .div [0, 1] (fun x y => if y = 0 then 0 else if signed then x.sdiv y else x.udiv y)
    ∧ r3 .rem [0, 1] (fun x y => if y = 0 then x else if signed then x.srem y else x.umod y)

/-- R244: the other scalar integer instructions. -/
def Obligations.IntegerImmediateResults : Prop := ∀ (s : State) (a : ThOp), s.m.stands a →
  let r2 (c : ThOp → Instr) (f : W64 → W64) : Prop :=
    gives (c a) (regOk .g .g .no [0] a.w) s a fun _ t => t.putX (fD a.w) (f (t.x (fA a.w)))
  let ri (c : ThOp → Instr) (f : W64 → W64) : Prop :=
    gives (c a) (immOk .g .g a.w) s a fun _ t => t.putX (fD a.w) (f (t.x (fA a.w)))
  let rw (c : ThOp → Instr) (f : W64 → W64) : Prop :=
    gives (c a) (predOk a.w) s a fun _ t => t.putX (fD a.w) (f (t.x (fD a.w)))
  let n := (imm8 a).toNat % 64
  let x0 := s.m.flockOf a
  r2 .clz (fun x => BitVec.ofNat 64 ((List.range 64).takeWhile fun i => !x.getLsbD (63 - i)).length)
    ∧ r2 .popc (fun x => BitVec.ofNat 64 ((List.range 64).countP x.getLsbD))
    ∧ gives (.shfl a) (regOk .g .g .g [0] a.w) s a (fun _ t =>
        let src := (t.x (fB a.w)).toNat % 8
        t.putX (fD a.w) (if bitAt x0.live src then (x0.thr src).x (fA a.w) else 0))
    ∧ ri .addi (fun x => x + imm8 a)
    ∧ ri .andi (fun x => x &&& imm8 a)
    ∧ ri .ori (fun x => x ||| imm8 a)
    ∧ ri .xori (fun x => x ^^^ imm8 a)
    ∧ ri .shli (fun x => x <<< n)
    ∧ ri .shri (fun x => x >>> n)
    ∧ ri .sari (fun x => x.sshiftRight n)
    ∧ rw .movi (fun _ => (BitVec.ofNat 14 (fImm14 a.w)).signExtend 64)
    ∧ rw .movh (fun x => x <<< 14 ||| BitVec.ofNat 64 (fImm14 a.w))

/-- R246: predicate and flock instructions. -/
def Obligations.PredicateResults : Prop := ∀ (s : State) (a : ThOp), s.m.stands a →
  let c3 (c : ThOp → Instr) (ms : List Nat) (f : W64 → W64 → Bool) : Prop :=
    gives (c a) (regOk .p .g .g ms a.w) s a fun _ t => t.putP (fD a.w) (f (t.x (fA a.w)) (t.x (fB a.w)))
  let ci (c : ThOp → Instr) (f : W64 → Bool) : Prop :=
    gives (c a) (immOk .p .g a.w) s a fun _ t => t.putP (fD a.w) (f (t.x (fA a.w)))
  let x0 := s.m.flockOf a
  let voters := x0.exec a.w
  c3 .cmpeq [0] (fun x y => x == y)
    ∧ c3 .cmpne [0] (fun x y => x != y)
    ∧ c3 .cmplt [0, 1] (fun x y => if fM a.w = 0 then x.slt y else x.ult y)
    ∧ c3 .cmple [0, 1] (fun x y => if fM a.w = 0 then x.sle y else x.ule y)
    ∧ ci .cmpeqi (fun x => x == imm8 a)
    ∧ ci .cmplti (fun x => x.slt (imm8 a))
    ∧ gives (.plog a) (regOk .p .p .p [0, 1, 2, 3] a.w) s a (fun _ t =>
        let x := t.pr (fA a.w)
        let y := t.pr (fB a.w)
        t.putP (fD a.w) (match fM a.w with
          | 0 => x && y
          | 1 => x || y
          | 2 => Bool.xor x y
          | _ => x && !y))
    ∧ gives (.vote a) (regOk .p .p .no [0, 1] a.w) s a (fun _ t => t.putP (fD a.w)
        (if fM a.w = 0 then voters.any fun i => (x0.thr i).pr (fA a.w) else voters.all fun i => (x0.thr i).pr (fA a.w)))
    ∧ gives (.ballot a) (regOk .g .p .no [0] a.w) s a (fun _ t => t.putX (fD a.w)
        ((List.range 8).foldl (fun m i => if voters.contains i && (x0.thr i).pr (fA a.w) then m ||| (1#64 <<< i) else m) 0#64))

/-- R247, R248: scalar float instructions, over the model's binary32 operations (`Fp`). -/
def Obligations.ScalarFloatResults : Prop := ∀ (s : State) (a : ThOp), s.m.stands a →
  let lo (t : Thread) (n : Nat) : Nat := ((t.x n).setWidth 32).toNat
  let flags (t : Thread) (fl : Nat) : Thread := { t with fstat := t.fstat ||| BitVec.ofNat 5 fl }
  let f3 (c : ThOp → Instr) (f : Nat → Nat → Nat × Nat) : Prop := gives (c a) (regOk .g .g .g [0] a.w) s a fun _ t =>
    let r := f (lo t (fA a.w)) (lo t (fB a.w))
    flags (t.putX (fD a.w) (BitVec.ofNat 64 r.1)) r.2
  let fc (c : ThOp → Instr) (f : Nat → Nat → Bool × Nat) : Prop := gives (c a) (regOk .p .g .g [0] a.w) s a fun _ t =>
    let r := f (lo t (fA a.w)) (lo t (fB a.w))
    flags (t.putP (fD a.w) r.1) r.2
  f3 .fadd Fp.add ∧ f3 .fsub Fp.sub ∧ f3 .fmul Fp.mul ∧ f3 .fmin Fp.fmin ∧ f3 .fmax Fp.fmax ∧ f3 .fdiv Fp.div
    ∧ gives (.ffma a) (regOk .g .g .g [0] a.w) s a (fun _ t =>
        let r := Fp.fma (lo t (fA a.w)) (lo t (fB a.w)) (lo t (fD a.w))
        flags (t.putX (fD a.w) (BitVec.ofNat 64 r.1)) r.2)
    ∧ gives (.fsqrt a) (regOk .g .g .no [0] a.w) s a (fun _ t =>
        let r := Fp.sqrt (lo t (fA a.w))
        flags (t.putX (fD a.w) (BitVec.ofNat 64 r.1)) r.2)
    ∧ gives (.fcvt a) (regOk .g .g .no [0, 1, 2, 3] a.w) s a (fun _ t =>
        let x := lo t (fA a.w)
        match fM a.w with
        | 0 => flags (t.putX (fD a.w) (BitVec.ofNat 64 (Fp.ofI32 x).1)) (Fp.ofI32 x).2
        | 1 => flags (t.putX (fD a.w) ((BitVec.ofInt 32 (Fp.toI32 x).1).signExtend 64)) (Fp.toI32 x).2
        | 2 => flags (t.putX (fD a.w) (BitVec.ofNat 64 (Fp.toBf16 x).1)) (Fp.toBf16 x).2
        | _ => flags (t.putX (fD a.w) (BitVec.ofNat 64 (Fp.ofBf16 (x % 2 ^ 16)).1)) (Fp.ofBf16 (x % 2 ^ 16)).2)
    ∧ fc .fcmplt Fp.lt ∧ fc .fcmpeq Fp.eq

/-- R247, R248: what the float operations give at the corners. -/
def Obligations.FloatCorners : Prop :=
  let isNan (x : Nat) : Prop := bits x 30 23 = 255 ∧ x % 2 ^ 23 ≠ 0
  (∀ x y z : Nat, x < 2 ^ 32 → y < 2 ^ 32 → z < 2 ^ 32 →
    (isNan x ∨ isNan y → (Fp.add x y).1 = 0x7FC00000 ∧ (Fp.sub x y).1 = 0x7FC00000 ∧ (Fp.mul x y).1 = 0x7FC00000 ∧ (Fp.div x y).1 = 0x7FC00000
      ∧ (Fp.lt x y).1 = false ∧ (Fp.eq x y).1 = false)
    ∧ (isNan x ∨ isNan y ∨ isNan z → (Fp.fma x y z).1 = 0x7FC00000)
    ∧ (isNan x → ¬ isNan y → (Fp.fmin x y).1 = y ∧ (Fp.fmax x y).1 = y ∧ (Fp.fmin y x).1 = y ∧ (Fp.fmax y x).1 = y)
    ∧ (Fp.add x y).1 = (Fp.add y x).1 ∧ (Fp.mul x y).1 = (Fp.mul y x).1
    ∧ (isNan x → (Fp.toI32 x).1 = 0)
    ∧ -2 ^ 31 ≤ (Fp.toI32 x).1 ∧ (Fp.toI32 x).1 ≤ 2 ^ 31 - 1)
  ∧ (Fp.fmin 0 0x80000000).1 = 0x80000000 ∧ (Fp.fmin 0x80000000 0).1 = 0x80000000 ∧ (Fp.fmax 0 0x80000000).1 = 0 ∧ (Fp.fmax 0x80000000 0).1 = 0
  ∧ ∀ v : Int, -2 ^ 24 ≤ v → v ≤ 2 ^ 24 → Fp.toI32 (Fp.ofI32 (BitVec.ofInt 32 v).toNat).1 = (v, 0)

/-- R248: the one rounding of every float operation is to nearest, ties to even. -/
def Obligations.FloatRoundsToNearest : Prop := ∀ f : Fp.Fmt, f = Fp.f32 ∨ f = Fp.bf16 →
  let value (b : Nat) : Rat := match f.read b with
    | .fin s m e => (if s then -1 else 1) * (m : Rat) * (2 : Rat) ^ e
    | _ => 0
  let finite (b : Nat) : Prop := b < 2 ^ (f.p + 8) ∧ bits b (f.p + 6) (f.p - 1) ≠ 255
  ∀ (s : Bool) (m : Nat) (e : Int),
    let x : Rat := (if s then -1 else 1) * (m : Rat) * (2 : Rat) ^ e
    let r := (f.round s m e).1
    finite r → ∀ b, finite b → abs (value r - x) ≤ abs (value b - x) ∧ (abs (value r - x) = abs (value b - x) → value r ≠ value b → r % 2 = 0)

/-- R249: vector integer instructions; `elMap w f` is the vector whose element i of w bits is f i (claimed by VectorElements). -/
def Obligations.VectorIntegerResults : Prop := ∀ (s : State) (a : ThOp), s.m.stands a → ((s.m.cl a.k).core a.core).vecGated = false →
  let w : Nat := match fM a.w with
    | 0 => 32
    | 1 => 16
    | 2 => 8
    | _ => 64
  let put (t : Thread) (f : Nat → BitVec w) : Thread := t.setV (fD a.w) (elMap w fun i => (f i).toNat)
  let v3 (c : ThOp → Instr) (f : BitVec w → BitVec w → BitVec w) : Prop :=
    givesVec (c a) (regOk .v .v .v [0, 1, 2, 3] a.w) s a fun _ t => put t fun i => f (t.lane w (fA a.w) i) (t.lane w (fB a.w) i)
  let vs (c : ThOp → Instr) (f : BitVec w → Nat → BitVec w) : Prop :=
    givesVec (c a) (regOk .v .v .g [0, 1, 2, 3] a.w) s a fun _ t => put t fun i => f (t.lane w (fA a.w) i) ((t.x (fB a.w)).toNat % w)
  let pick (t : Thread) : Nat := (t.x (fB a.w)).toNat % (512 / w)
  v3 .vadd (fun x y => x + y) ∧ v3 .vsub (fun x y => x - y) ∧ v3 .vmul (fun x y => x * y)
    ∧ v3 .vmin (fun x y => if x.sle y then x else y) ∧ v3 .vmax (fun x y => if x.sle y then y else x)
    ∧ v3 .vand (fun x y => x &&& y) ∧ v3 .vor (fun x y => x ||| y) ∧ v3 .vxor (fun x y => x ^^^ y)
    ∧ vs .vshl (fun x n => x <<< n) ∧ vs .vsar (fun x n => x.sshiftRight n)
    ∧ givesVec (.vsplat a) (regOk .v .g .no [0, 1, 2, 3] a.w) s a (fun _ t => put t fun _ => (t.x (fA a.w)).setWidth w)
    ∧ givesVec (.vext a) (regOk .g .v .g [0, 1, 2, 3] a.w) s a (fun _ t => t.putX (fD a.w) ((t.lane w (fA a.w) (pick t)).signExtend 64))
    ∧ givesVec (.vins a) (regOk .v .g .g [0, 1, 2, 3] a.w) s a (fun _ t =>
        put t fun i => if i = pick t then (t.x (fA a.w)).setWidth w else t.lane w (fD a.w) i)
    ∧ givesVec (.vred a) (regOk .g .v .no [0, 1, 2, 3] a.w) s a (fun _ t =>
        t.putX (fD a.w) ((List.range (512 / w)).foldl (fun n i => n + (t.lane w (fA a.w) i).signExtend 64) 0))
    ∧ givesVec (.vperm a) (regOk .v .v .v [2] a.w) s a (fun _ t =>
        t.setV (fD a.w) (elMap 8 fun i => (t.lane 8 (fA a.w) ((t.lane 8 (fB a.w) i).toNat % 64)).toNat))

/-- R237: the registers of a thread. -/
def Obligations.VectorElements : Prop := ∀ (t : Thread) (n m : Nat),
  (∀ w, w = 8 ∨ w = 16 ∨ w = 32 ∨ w = 64 → ∀ (f : Nat → Nat) (i : Nat), i < 512 / w →
    elGet w ((t.setV n (elMap w f)).vr n) i = f i % 2 ^ w ∧ ∀ j, j < w → (elGet w (t.vr n) i).testBit j = (t.vr n).testBit (w * i + j))
    ∧ (m ≠ n → ∀ v, (t.setV n v).vr m = t.vr m)
    ∧ t.gr 0 = 0 ∧ (∀ v, t.setG 0 v = t) ∧ t.pr 0 = true ∧ (∀ b, t.setP 0 b = t)
    ∧ (n ≠ 0 → ∀ v, v < 2 ^ 64 → (t.setG n v).gr n = v ∧ (m ≠ n → (t.setG n v).gr m = t.gr m))
    ∧ (0 < n → n < 8 → ∀ b, (t.setP n b).pr n = b ∧ (m ≠ n → (t.setP n b).pr m = t.pr m))

/-- R250: vector float instructions over the scalar operations. -/
def Obligations.VectorFloatResults : Prop := ∀ (s : State) (a : ThOp), s.m.stands a → ((s.m.cl a.k).core a.core).vecGated = false →
  let bf : Bool := fM a.w == 1
  let w : Nat := if bf then 16 else 32
  let flags (t : Thread) (l : List Nat) : Thread := { t with fstat := t.fstat ||| BitVec.ofNat 5 (l.foldl (fun x y => x ||| y) 0) }
  let put (t : Thread) (f : Nat → Nat × Nat) : Thread :=
    flags (t.setV (fD a.w) (elMap w fun i => (f i).1)) ((List.range (512 / w)).map fun i => (f i).2)
  let wide (x : Nat) : Nat := (Fp.ofBf16 x).1
  let sig (l : List Nat) : Nat := Fp.sigFlag (l.map Fp.bf16.read)
  let narrow (q : Nat × Nat) (l : List Nat) : Nat × Nat := ((Fp.toBf16 q.1).1, q.2 ||| (Fp.toBf16 q.1).2 ||| sig l)
  let f3 (c : ThOp → Instr) (f : Nat → Nat → Nat × Nat) : Prop :=
    givesVec (c a) (regOk .v .v .v [0, 1] a.w) s a fun _ t => put t fun i =>
      let x := (t.lane w (fA a.w) i).toNat
      let y := (t.lane w (fB a.w) i).toNat
      if bf then narrow (f (wide x) (wide y)) [x, y] else f x y
  f3 .vfadd Fp.add ∧ f3 .vfsub Fp.sub ∧ f3 .vfmul Fp.mul ∧ f3 .vfmin Fp.fmin ∧ f3 .vfmax Fp.fmax
    ∧ givesVec (.vffma a) (regOk .v .v .v [0, 1] a.w) s a (fun _ t => put t fun i =>
        let x := (t.lane w (fA a.w) i).toNat
        let y := (t.lane w (fB a.w) i).toNat
        let z := (t.lane w (fD a.w) i).toNat
        if bf then narrow (Fp.fma (wide x) (wide y) (wide z)) [x, y, z] else Fp.fma x y z)
    ∧ givesVec (.vfcvt a) (regOk .v .v .no [0, 1, 2, 3] a.w) s a (fun _ t =>
        let x (i : Nat) : Nat := (t.lane 32 (fA a.w) i).toNat
        let h (i : Nat) : Nat := (t.lane 16 (fA a.w) i).toNat
        let each (f : Nat → Nat × Nat) (w : Nat) : Thread :=
          flags (t.setV (fD a.w) (elMap w fun i => if i < 16 then (f i).1 else 0)) ((List.range 16).map fun i => (f i).2)
        match fM a.w with
        | 0 => each (fun i => Fp.ofI32 (x i)) 32
        | 1 => each (fun i => ((BitVec.ofInt 32 (Fp.toI32 (x i)).1).toNat, (Fp.toI32 (x i)).2)) 32
        | 2 => each (fun i => Fp.toBf16 (x i)) 16
        | _ => each (fun i => Fp.ofBf16 (h i)) 32)
    ∧ givesVec (.vfred a) (regOk .g .v .no [0] a.w) s a (fun _ t =>
        let l0 (i : Nat) : Nat := (t.lane 32 (fA a.w) i).toNat
        let l1 (i : Nat) : Nat × Nat := Fp.add (l0 (2 * i)) (l0 (2 * i + 1))
        let l2 (i : Nat) : Nat × Nat := Fp.add (l1 (2 * i)).1 (l1 (2 * i + 1)).1
        let l3 (i : Nat) : Nat × Nat := Fp.add (l2 (2 * i)).1 (l2 (2 * i + 1)).1
        let l4 : Nat × Nat := Fp.add (l3 0).1 (l3 1).1
        flags (t.putX (fD a.w) (BitVec.ofNat 64 l4.1))
          ((List.range 8).map (fun i => (l1 i).2) ++ (List.range 4).map (fun i => (l2 i).2) ++ [(l3 0).2, (l3 1).2, l4.2]))

/-- R239: special registers. -/
def Obligations.SpecialRegisters : Prop := ∀ (s : State) (a : ThOp), s.m.stands a →
  let x := s.m.flockOf a
  let idx := bits a.w 7 0
  gives (.nop a) (regOk .no .no .no [0] a.w) s a (fun _ t => t)
    ∧ (idx ≤ 10 → gives (.mfs a) (immOk .g .no a.w) s a (fun i t => t.putX (fD a.w) (BitVec.ofNat 64 (match idx with
        | 0 => i
        | 1 => a.f
        | 2 => a.core
        | 3 => s.m.logicalOf a.at_.die.val a.at_.cluster.val
        | 4 => a.at_.die.val
        | 5 => x.active
        | 6 => x.live
        | 7 => (s.m.clock - (s.m.cl a.k).wakeAt) * 8 / 5
        | 8 => s.m.time
        | 9 => b2n x.fast + s.m.prioOf x * 2 ^ 8 + x.queue * 2 ^ 16
        | _ => t.fstat.toNat))))
    ∧ (10 < idx → issues (.mfs a) s a fun t => s.m.raised t a 1 0x70 0 x.first false)
    ∧ (idx = 10 → gives (.mts a) (immOk .no .g a.w) s a (fun _ t => { t with fstat := (t.x (fA a.w)).setWidth 5 }))
    ∧ (idx ≠ 10 → issues (.mts a) s a fun t => s.m.raised t a 1 0x70 0 x.first false)

/-- R254: branches. -/
def Obligations.BranchesDivide : Prop := ∀ (s : State) (a : ThOp), s.m.stands a →
  let x := s.m.flockOf a
  let ex := x.exec a.w
  let em := threadMask ex
  let next := (x.pc + 4) % 2 ^ 64
  let branch (c : Instr) (link : Bool) (target : Nat) : Prop :=
    let linked : Flock := if link then ex.foldl (fun y i => y.setThr i ((y.thr i).putX 63 (BitVec.ofNat 64 next))) x else x
    (ex = [] → issues c s a fun t => s.m.flockBecame t a (x.doneAt next) (s.m.issuedOne a))
      ∧ (ex ≠ [] → em = x.active → issues c s a fun t => s.m.flockBecame t a (linked.doneAt target) (s.m.issuedOne a))
      ∧ (ex ≠ [] → em ≠ x.active → x.stack.length < 16 → issues c s a fun t =>
          s.m.flockBecame t a ({ linked with stack := ⟨next, x.active - em, false⟩ :: x.stack, active := em }.doneAt target)
            (s.m.issuedOne a ++ [(counterOf a R.TH_DIVERGE, satAdd (s.m.regAt (counterOf a R.TH_DIVERGE)) 1)]))
      ∧ (ex ≠ [] → em ≠ x.active → 16 ≤ x.stack.length → issues c s a fun t => s.m.raised t a 2 0x70 0 (x.firstExec a.w) false)
  let brn := (BitVec.ofNat 64 x.pc + (BitVec.ofNat 20 (bits a.w 19 0)).signExtend 64 * 4).toNat
  let jrOk := regOk .no .g .no [0] a.w = true
  (predOk a.w = true → branch (.bra a) false brn)
    ∧ (predOk a.w = true → branch (.call a) true brn)
    ∧ (jrOk → ∀ target, (∀ i, i ∈ ex → ((x.thr i).x (fA a.w)).toNat = target) → branch (.jr a) false target)
    ∧ (jrOk → (∃ i j, i ∈ ex ∧ j ∈ ex ∧ (x.thr i).x (fA a.w) ≠ (x.thr j).x (fA a.w)) →
        issues (.jr a) s a fun t => s.m.raised t a 3 0x70 0 (x.firstExec a.w) false)

/-- R253, R255: the join stack. -/
def Obligations.JoinStack : Prop := ∀ (s : State) (a : ThOp), s.m.stands a →
  let x := s.m.flockOf a
  let em := threadMask (x.exec a.w)
  let live := x.live - (x.live &&& em)
  let act := x.active - em
  let becomes (c : Instr) (y : Flock) : Prop := issues c s a fun t => s.m.flockBecame t a y (s.m.issuedOne a)
  let bad (c : Instr) : Prop := issues c s a fun t => s.m.raised t a 2 0x70 0 (x.firstExec a.w) false
  let pops (c : Instr) (live : Nat) : Prop := match x.stack.dropWhile fun j => j.mask &&& live == 0 with
    | j :: r => becomes c ({ x with live := live, active := j.mask &&& live, stack := r }.doneAt j.pc)
    | [] => bad c
  let target := (BitVec.ofNat 64 x.pc + (BitVec.ofNat 20 (bits a.w 19 0)).signExtend 64 * 4).toNat
  (bits a.w 23 20 = 0 → x.stack.length < 16 → becomes (.jpush a) ({ x with stack := ⟨target, x.active, true⟩ :: x.stack }.doneAt (x.pc + 4)))
    ∧ (bits a.w 23 20 = 0 → 16 ≤ x.stack.length → bad (.jpush a))
    ∧ (a.w = 0 → pops (.join a) x.live)
    ∧ (regOk .no .no .no [0] a.w = true → live = 0 → becomes (.exit a) Flock.idle)
    ∧ (regOk .no .no .no [0] a.w = true → live ≠ 0 → act ≠ 0 → becomes (.exit a) ({ x with live := live, active := act }.doneAt (x.pc + 4)))
    ∧ (regOk .no .no .no [0] a.w = true → live ≠ 0 → act = 0 → pops (.exit a) live)

/-- R243, R269: barriers. -/
def Obligations.Barriers : Prop :=
  let barrier (s : Dev) (k n : Nat) : Barrier := sget (fun _ => (⟨0, []⟩ : Barrier)) (s.cl k).barriers n
  let atBar (x : Flock) : Prop := x.st = .wait ∧ ∃ v, x.wait = some v ∧ v.op = 7
  let waits (s t : Dev) (a : ThOp) : Prop :=
    (∃ v, v.op = 7 ∧ v.w = a.word ∧ t.flockOf a = { s.flockOf a with st := .wait, wait := some v })
      ∧ s.regsBecome t [(counterOf a R.TH_WAIT_SYNC, satAdd (s.regAt (counterOf a R.TH_WAIT_SYNC)) 1)]
  (∀ (s : State) (a : ThOp), s.m.stands a → bits a.w 23 20 = 0 → regOk .no .g .g [0, 1] a.w = true →
    let x := s.m.flockOf a
    let ex := x.exec a.w
    let me := 2 * a.core + a.f
    (fM a.w = 0 → issues (.bar a) s a fun t => s.m.sameButFlock t a ∧ waits s.m t a)
      ∧ (fM a.w = 1 → ∀ n c : Nat, ex ≠ [] → (∀ i, i ∈ ex → ((x.thr i).x (fA a.w)).toNat % 32 = n ∧ ((x.thr i).x (fB a.w)).toNat = c) →
        let b := barrier s.m a.k n
        (1 ≤ c → c ≤ 224 → ¬(0 < b.count ∧ b.count ≤ b.arrived.length) → me ∉ b.arrived → (b.arrived ≠ [] → b.count = c) →
          issues (.bar a) s a fun t => waits s.m t a ∧ barrier t a.k n = ⟨c, b.arrived ++ [me]⟩ ∧ (∀ n', n' ≠ n → barrier t a.k n' = barrier s.m a.k n')
            ∧ { t with clusters := [], regs := [] } = { s.m with clusters := [], regs := [] } ∧ ∀ k, k ≠ a.k → t.cl k = s.m.cl k)
        ∧ (c = 0 ∨ 224 < c → issues (.bar a) s a fun t => s.m.raised t a 3 0x70 0 (x.firstExec a.w) false)
        ∧ (1 ≤ c → c ≤ 224 → ¬(0 < b.count ∧ b.count ≤ b.arrived.length) → me ∉ b.arrived → b.arrived ≠ [] → b.count ≠ c →
          issues (.bar a) s a fun t => s.m.raised t a 3 0x70 0 (x.firstExec a.w) false))
      ∧ (fM a.w = 1 → (∃ i j, i ∈ ex ∧ j ∈ ex ∧ (((x.thr i).x (fA a.w)).toNat % 32 ≠ ((x.thr j).x (fA a.w)).toNat % 32 ∨ (x.thr i).x (fB a.w) ≠ (x.thr j).x (fB a.w))) →
          issues (.bar a) s a fun t => s.m.raised t a 3 0x70 0 (x.firstExec a.w) false))
  ∧ (∀ (s : State) (k : Fin 2688) (core : Fin 112) (n : Fin 32),
    let b := barrier s.m k n
    let same (t : Dev) : Prop := { t with clusters := [], regs := [] } = { s.m with clusters := [], regs := [] } ∧ ∀ j, j ≠ k.val → t.cl j = s.m.cl j
    (0 < b.count → b.count ≤ b.arrived.length → completes (.barrierComplete k core false n) s fun t => same t
      ∧ barrier t k n = ⟨0, []⟩ ∧ ∀ c f, f < 2 → (atBar (s.m.flock k c f) → 2 * c + f ∈ b.arrived → t.flock k c f = (s.m.flock k c f).doneAt ((s.m.flock k c f).pc + 4))
        ∧ (2 * c + f ∉ b.arrived → t.flock k c f = s.m.flock k c f))
    ∧ ((∀ f, f < 2 → (s.m.flock k core f).st = .wait ∧ ∃ v, (s.m.flock k core f).wait = some v ∧ v.op = 7 ∧ fM v.w.toNat = 0) →
      completes (.barrierComplete k core true n) s fun t => same t
        ∧ (∀ f, f < 2 → t.flock k core f = (s.m.flock k core f).doneAt ((s.m.flock k core f).pc + 4))
        ∧ ∀ c f, c ≠ core.val → t.flock k c f = s.m.flock k c f))

/-- R242, R265, R272: exceptions of illegal words and of TRAP. -/
def Obligations.ThreadExceptions : Prop := ∀ (s : State) (a : ThOp), s.m.stands a →
  let x := s.m.flockOf a
  let r3 : List (Instr × List Nat) := [(.add a, [0]), (.sub a, [0]), (.mul a, [0]), (.mulh a, [0, 1]), (.and a, [0]), (.or a, [0]), (.xor a, [0]),
    (.shl a, [0]), (.shr a, [0, 1]), (.min a, [0, 1]), (.max a, [0, 1]), (.div a, [0, 1]), (.rem a, [0, 1]), (.shfl a, [0]), (.fadd a, [0]),
    (.fsub a, [0]), (.fmul a, [0]), (.ffma a, [0]), (.fmin a, [0]), (.fmax a, [0]), (.fdiv a, [0]), (.aadd a, [2, 3]), (.amin a, [2, 3]),
    (.amax a, [2, 3]), (.aand a, [2, 3]), (.aor a, [2, 3]), (.axchg a, [2, 3]), (.acas a, [2, 3]), (.afadd a, [2])]
  let v3 : List (Instr × List Nat) := [(.vadd a, [0, 1, 2, 3]), (.vsub a, [0, 1, 2, 3]), (.vmul a, [0, 1, 2, 3]), (.vmin a, [0, 1, 2, 3]),
    (.vmax a, [0, 1, 2, 3]), (.vand a, [0, 1, 2, 3]), (.vor a, [0, 1, 2, 3]), (.vxor a, [0, 1, 2, 3]), (.vperm a, [2]), (.vfadd a, [0, 1]),
    (.vfsub a, [0, 1]), (.vfmul a, [0, 1]), (.vffma a, [0, 1]), (.vfmin a, [0, 1]), (.vfmax a, [0, 1])]
  let others : List (Instr × Bool) := [(.nop a, regOk .no .no .no [0] a.w), (.exit a, regOk .no .no .no [0] a.w), (.bra a, predOk a.w), (.call a, predOk a.w),
    (.jr a, regOk .no .g .no [0] a.w), (.jpush a, bits a.w 23 20 == 0), (.join a, a.w == 0), (.mfs a, immOk .g .no a.w), (.mts a, immOk .no .g a.w),
    (.waitv a, regOk .no .g .g [0, 1, 2] a.w), (.clz a, regOk .g .g .no [0] a.w), (.popc a, regOk .g .g .no [0] a.w),
    (.addi a, predOk a.w), (.andi a, predOk a.w), (.ori a, predOk a.w), (.xori a, predOk a.w), (.shli a, predOk a.w), (.shri a, predOk a.w),
    (.sari a, predOk a.w), (.bar a, bits a.w 23 20 == 0 && regOk .no .g .g [0, 1] a.w), (.trap a, immOk .no .no a.w), (.lkget a, regOk .g .g .no [0, 1] a.w),
    (.movi a, predOk a.w), (.movh a, predOk a.w), (.cmpeqi a, immOk .p .g a.w), (.cmplti a, immOk .p .g a.w),
    (.cmpeq a, regOk .p .g .g [0] a.w), (.cmpne a, regOk .p .g .g [0] a.w), (.cmplt a, regOk .p .g .g [0, 1] a.w), (.cmple a, regOk .p .g .g [0, 1] a.w),
    (.plog a, regOk .p .p .p [0, 1, 2, 3] a.w), (.vote a, regOk .p .p .no [0, 1] a.w), (.ballot a, regOk .g .p .no [0] a.w),
    (.fsqrt a, regOk .g .g .no [0] a.w), (.fcvt a, regOk .g .g .no [0, 1, 2, 3] a.w), (.fcmplt a, regOk .p .g .g [0] a.w), (.fcmpeq a, regOk .p .g .g [0] a.w),
    (.vshl a, regOk .v .v .g [0, 1, 2, 3] a.w), (.vsar a, regOk .v .v .g [0, 1, 2, 3] a.w), (.vsplat a, regOk .v .g .no [0, 1, 2, 3] a.w),
    (.vext a, regOk .g .v .g [0, 1, 2, 3] a.w), (.vins a, regOk .v .g .g [0, 1, 2, 3] a.w), (.vred a, regOk .g .v .no [0, 1, 2, 3] a.w),
    (.vfcvt a, regOk .v .v .no [0, 1, 2, 3] a.w), (.vfred a, regOk .g .v .no [0] a.w), (.ld a, predOk a.w), (.lds a, predOk a.w), (.st a, predOk a.w),
    (.vld a, memOk .v .g [0] a.w), (.vst a, memOk .v .g [0] a.w), (.vldg a, regOk .v .g .v [2, 3] a.w), (.vsts a, regOk .v .g .v [2, 3] a.w),
    (.pref a, memOk .no .g [0, 1, 2, 3] a.w), (.lkput a, regOk .no .g .g [0, 1] a.w), (.fence a, regOk .o .no .no [0, 1, 2] a.w),
    (.tissue a, regOk .g .v .no [0, 1] a.w), (.bissue a, regOk .g .v .no [0, 1] a.w), (.twait a, regOk .g .g .no [0] a.w), (.tpoll a, regOk .g .g .no [0] a.w),
    (.tcrec a, regOk .v .g .no [0] a.w), (.tfree a, regOk .no .g .no [0] a.w), (.tcancel a, regOk .no .g .no [0] a.w)]
  let illegal : List (Instr × Bool) := r3.map (fun e => (e.1, regOk .g .g .g e.2 a.w))
    ++ v3.map (fun e => (e.1, regOk .v .v .v e.2 a.w)) ++ others
  (∀ e, e ∈ illegal → e.2 = false → issues e.1 s a fun t => s.m.raised t a 1 0x70 0 x.first false)
    ∧ (predOk a.w = true → fD a.w = 0 → fA a.w = 0 →
        (x.exec a.w ≠ [] → s.m.debug = false → issues (.trap a) s a fun t => s.m.raised t a 6 0x70 (bits a.w 7 0) (x.firstExec a.w) false)
        ∧ (x.exec a.w ≠ [] → s.m.debug = true → issues (.trap a) s a fun t => s.m.raised t a 6 0x70 (bits a.w 7 0) (x.firstExec a.w) false
          ∨ (s.m.recorded t a 6 0x70 (bits a.w 7 0) (x.firstExec a.w) false ∧ t.flockOf a = { x with st := .faulted }
            ∧ ∀ q, t.cmdOf q = s.m.cmdOf q))
        ∧ (x.exec a.w = [] → issues (.trap a) s a fun t => s.m.flockBecame t a (x.doneAt (x.pc + 4)) (s.m.issuedOne a)))

/-- R251, R257, R258: loads, for the last thread left (R266: threads take effect one at a time). -/
def Obligations.LoadsReadMemory : Prop := ∀ (s : State) (a : ThOp) (i : Nat), s.m.stands a → s.m.todo a = [i] →
  let r := (s.m.flockOf a).thr i
  let n := 2 ^ bits a.w 7 6
  let m := if fM a.w = 2 then 4 else 8
  let laneVa (j : Nat) : Nat := (r.x (fA a.w) + (r.lane (8 * m) (fB a.w) j).signExtend 64).toNat
  (∀ dpa, memOk .g .g [0, 1, 2, 3] a.w = true → s.m.dataAt a (memAddr a r n) n accRead dpa →
    let v := leNat (s.m.loadBytes a dpa n)
    issues (.ld a) s a (fun t => s.m.loaded t a i dpa fun r => r.putX (fD a.w) (BitVec.ofNat 64 v))
      ∧ issues (.lds a) s a (fun t => s.m.loaded t a i dpa fun r => r.putX (fD a.w) ((BitVec.ofNat (8 * n) v).signExtend 64)))
  ∧ (∀ dpa, memOk .v .g [0] a.w = true → s.m.dataAt a (memAddr a r 64) 64 accRead dpa →
    issues (.vld a) s a (fun t => s.m.loaded t a i dpa fun r => r.setV (fD a.w) (leNat (s.m.loadBytes a dpa 64))))
  ∧ (∀ d : Nat → Nat, regOk .v .g .v [2, 3] a.w = true → (∀ j, j < 64 / m → s.m.dataAt a (laneVa j) m accRead (d j) ∧ stackEnd ≤ d j) →
    issues (.vldg a) s a (fun t => s.m.loaded t a i (d 0) fun r => r.setV (fD a.w) (leNat ((List.range (64 / m)).flatMap fun j => s.m.bytesAt (d j) m))))

/-- R251, R258, R259: stores, for the last thread left. -/
def Obligations.StoresWriteMemory : Prop := ∀ (s : State) (a : ThOp) (i : Nat), s.m.stands a → s.m.todo a = [i] →
  let r := (s.m.flockOf a).thr i
  let n := 2 ^ bits a.w 7 6
  let m := if fM a.w = 2 then 4 else 8
  let laneVa (j : Nat) : Nat := (r.x (fA a.w) + (r.lane (8 * m) (fB a.w) j).signExtend 64).toNat
  let stores (c : Instr) (f : Nat → Option Byte) : Prop := issues c s a fun t => s.m.stored t a i f id ∧ s.m.linesTook t a f
  (∀ dpa, memOk .g .g [0, 1, 2, 3] a.w = true → s.m.dataAt a (memAddr a r n) n accWrite dpa → stores (.st a) (putsAt dpa n (r.x (fD a.w)).toNat))
  ∧ (∀ dpa, memOk .v .g [0] a.w = true → s.m.dataAt a (memAddr a r 64) 64 accWrite dpa → stores (.vst a) (putsAt dpa 64 (r.vr (fD a.w))))
  ∧ (∀ d : Nat → Nat, regOk .v .g .v [2, 3] a.w = true → (∀ j, j < 64 / m → s.m.dataAt a (laneVa j) m accWrite (d j)) →
    stores (.vsts a) fun x => (List.range (64 / m)).reverse.findSome? fun j => putsAt (d j) m (r.lane (8 * m) (fD a.w) j).toNat x)

/-- R251, R261: atomics, for the last thread left. -/
def Obligations.AtomicsReturnOld : Prop := ∀ (s : State) (a : ThOp) (i dpa : Nat), s.m.stands a → s.m.todo a = [i] →
  let r := (s.m.flockOf a).thr i
  let m := if fM a.w = 2 then 4 else 8
  let old : BitVec (8 * m) := BitVec.ofNat (8 * m) (s.m.natAt dpa m)
  let y : BitVec (8 * m) := (r.x (fB a.w)).setWidth (8 * m)
  let atomic (c : Instr) (new : Option Nat) (fl : Nat) : Prop := issues c s a fun t =>
    s.m.stored t a i (fun x => new.bind fun v => putsAt dpa m v x) (fun r =>
        let q := r.putX (fD a.w) (old.setWidth 64)
        { q with fstat := q.fstat ||| BitVec.ofNat 5 fl })
      ∧ t.dcacheOf a = s.m.dcacheOf a
  (s.m.dataAt a (r.x (fA a.w)).toNat m accAtomic dpa →
    (regOk .g .g .g [2, 3] a.w = true →
      atomic (.aadd a) (some (old + y).toNat) 0
        ∧ atomic (.amin a) (some (if old.sle y then old else y).toNat) 0
        ∧ atomic (.amax a) (some (if old.sle y then y else old).toNat) 0
        ∧ atomic (.aand a) (some (old &&& y).toNat) 0
        ∧ atomic (.aor a) (some (old ||| y).toNat) 0
        ∧ atomic (.axchg a) (some y.toNat) 0
        ∧ atomic (.acas a) (if old = (r.x (fD a.w)).setWidth (8 * m) then some y.toNat else none) 0)
    ∧ (regOk .g .g .g [2] a.w = true → (s.m.flockOf a).fast = true →
      atomic (.afadd a) (some (Fp.add old.toNat y.toNat).1) (Fp.add old.toNat y.toNat).2))
  ∧ (regOk .g .g .g [2] a.w = true → (s.m.flockOf a).fast = false → issues (.afadd a) s a fun t => s.m.raised t a 4 0x70 0 i false)

/-- R243, R251, R259: FENCE, PREF, WAITV and its poll. -/
def Obligations.FencePrefWaitv : Prop :=
  let compares (m x y : Nat) : Prop := if m = 0 then x = y else if m = 1 then x ≠ y else y ≤ x
  let plain (s t : Dev) (a : ThOp) : Prop := s.sameButCore t a ∧ s.finished t a 0 id ∧ s.sameMemory t
    ∧ t.drovers = s.drovers ∧ s.regsBecome t (s.issuedOne a)
  (∀ (s : State) (a : ThOp), s.m.stands a →
    (regOk .o .no .no [0, 1, 2] a.w = true → issues (.fence a) s a fun t => plain s.m t a
      ∧ t.dcacheOf a = if s.m.todo a ≠ [] ∧ fM a.w ≠ 0 ∧ fD a.w % 2 = 1 then [] else s.m.dcacheOf a)
    ∧ (∀ i, s.m.todo a = [i] → memOk .no .g [0, 1, 2, 3] a.w = true → tlbApart (s.m.cl a.k).tlb = true →
      let va := memAddr a ((s.m.flockOf a).thr i) (2 ^ bits a.w 7 6)
      (∀ dpa, s.m.xlate (a.k / 168) (a.k % 168) va accRead = .hit dpa → dpa < stackEnd → s.m.reachAt dpa = .ok → touched s.m.oneBit (dpa / 64 * 64) 64 = []
        → touched s.m.bad (dpa / 64 * 64) 64 = [] → (s.m.stk (s.m.stackNo (dpa / 256 * 256))).zc = [] → s.m.lineOf a dpa = none →
        issues (.pref a) s a fun t => plain s.m t a ∧ (t.dcacheOf a).head? = some (dpa / 64 * 64, s.m.bytesAt (dpa / 64 * 64) 64))
      ∧ ((∀ dpa, s.m.xlate (a.k / 168) (a.k % 168) va accRead ≠ .hit dpa) → (∀ e, s.m.xlate (a.k / 168) (a.k % 168) va accRead ≠ .die e) →
        issues (.pref a) s a fun t => plain s.m t a ∧ t.dcacheOf a = s.m.dcacheOf a))
    ∧ (∀ i dpa, s.m.todo a = [i] → regOk .no .g .g [0, 1, 2] a.w = true →
      let r := (s.m.flockOf a).thr i
      let holds := compares (fM a.w) (s.m.natAt dpa 4) ((r.x (fB a.w)).toNat % 2 ^ 32)
      s.m.dataAt a (r.x (fA a.w)).toNat 4 accRead dpa →
      (holds → issues (.waitv a) s a fun t => plain s.m t a ∧ t.dcacheOf a = s.m.dcacheOf a)
      ∧ (¬ holds → issues (.waitv a) s a fun t => s.m.waitsOn t a waitvPoll R.TH_WAIT_SYNC ∧ s.m.sameButFlock t a)))
  ∧ ∀ (s : State) (l : FlockAt) (v : FlockWait) (i dpa : Nat),
    let a : ThOp := ⟨l, v.w, false, false⟩
    let x := s.m.flockOf a
    let r := x.thr i
    let s' : Dev := { s.m with clock := s.m.clock + 40 }
    x.st = .wait → x.wait = some v → v.op = waitvPoll → x.preempt = false → s.m.clusterOn l.die.val l.cluster.val = true → s.m.todo a = [i]
      → (s.m.die (a.k / 168)).once = [] → s.m.dataAt a (r.x (fA a.w)).toNat 4 accRead dpa → fM a.w < 3 →
    (compares (fM a.w) (s.m.natAt dpa 4) ((r.x (fB a.w)).toNat % 2 ^ 32) → completes (.waitvPoll l) s fun t => plain s' t a)
    ∧ (¬ compares (fM a.w) (s.m.natAt dpa 4) ((r.x (fB a.w)).toNat % 2 ^ 32) → completes (.waitvPoll l) s fun t =>
      s'.waitsOn t a waitvPoll R.TH_WAIT_SYNC ∧ s'.sameButFlock t a)

/-- R257, R265, R350: what a data access meets. -/
def Obligations.DataAccessExceptions : Prop := ∀ (s : State) (a : ThOp) (i : Nat), s.m.stands a → tlbApart (s.m.cl a.k).tlb = true → (s.m.todo a).head? = some i →
  let x := s.m.flockOf a
  let r := x.thr i
  let n := 2 ^ bits a.w 7 6
  let m := if fM a.w = 2 then 4 else 8
  let mem : List (Instr × Nat × Nat × Nat × Nat × Bool) := [
    (.ld a, 0x70, memAddr a r n, n, accRead, memOk .g .g [0, 1, 2, 3] a.w), (.lds a, 0x71, memAddr a r n, n, accRead, memOk .g .g [0, 1, 2, 3] a.w),
    (.st a, 0x72, memAddr a r n, n, accWrite, memOk .g .g [0, 1, 2, 3] a.w), (.vld a, 0x73, memAddr a r 64, 64, accRead, memOk .v .g [0] a.w),
    (.vst a, 0x74, memAddr a r 64, 64, accWrite, memOk .v .g [0] a.w)]
  let va := (r.x (fA a.w)).toNat
  let ok := regOk .g .g .g [2, 3] a.w
  let atomics : List (Instr × Nat × Nat × Nat × Nat × Bool) := [(.aadd a, 0x80, va, m, accAtomic, ok), (.amin a, 0x81, va, m, accAtomic, ok),
    (.amax a, 0x82, va, m, accAtomic, ok), (.aand a, 0x83, va, m, accAtomic, ok), (.aor a, 0x84, va, m, accAtomic, ok),
    (.axchg a, 0x85, va, m, accAtomic, ok), (.acas a, 0x86, va, m, accAtomic, ok)]
  ∀ c op va n access ok, (c, op, va, n, access, ok) ∈ mem ++ atomics → ok = true →
    (va < 2 ^ 48 → va % n ≠ 0 → issues c s a fun t => s.m.raised t a 0x13 0x12 va i false)
    ∧ (2 ^ 48 ≤ va → issues c s a fun t => s.m.raised t a 0x12 0x12 va i false)
    ∧ (va % n = 0 → ∀ cause level, s.m.xlate (a.k / 168) (a.k % 168) va access = .fault cause level → issues c s a fun t =>
        s.m.recorded t a (if cause = 3 then 0x11 else 0x10) (if cause = 3 then 0x11 else 0x10) va i false
          ∧ t.flockOf a = { x with st := .faulted, wait := some ⟨0, 0, i, va, 0, s.m.clock⟩ }
          ∧ ((s.m.die (a.k / 168)).fq.length < 64 → (s.m.die (a.k / 168)).backlog = [] → (t.die (a.k / 168)).fq = (s.m.die (a.k / 168)).fq
              ++ [⟨flockUnit a.k a.core a.f, 0, x.queue, va, cause, level, access, false⟩]))
    ∧ (va % n = 0 → s.m.xlate (a.k / 168) (a.k % 168) va access = .miss → issues c s a fun t => s.m.waitsOn t a op R.TH_WAIT_TRANSLATION
          ∧ ((s.m.die (a.k / 168)).walks.length < 16 → ∃ w, w ∈ (t.die (a.k / 168)).walks ∧ w.unit = flockUnit a.k a.core a.f ∧ w.va / 65536 = va / 65536))

/-- R262, R263: pushes, for the last thread left. -/
def Obligations.PushesTakeTags : Prop :=
  let pushed (s t : Dev) (a : ThOp) (i : Nat) (ok : Bool) (what : Nat → Nat → Dev → Prop) : Prop :=
    ∃ tag uid, uid = (s.cl a.k).lastUid + 1 ∧ s.finished t a i (fun r => r.putX (fD a.w) (BitVec.ofNat 64 tag))
      ∧ tag < 4096 ∧ (risingFrom 0 (s.cl a.k).tags = true → ∀ e, e ∈ (s.cl a.k).tags → e.1 ≠ tag)
      ∧ (∃ x, ((t.cl a.k).tags.find? fun e => e.1 == tag) = some (tag, x) ∧ x.uid = uid ∧ x.cmd = (s.flockOf a).cmd
          ∧ x.done = !ok ∧ (ok = false → leAt x.record 0 1 = 0x71))
      ∧ what tag uid t
  let tissued (s : Dev) (a : ThOp) (i : Nat) (t : Dev) : Prop :=
    let b := (leBytes 64 (((s.flockOf a).thr i).vr (fA a.w))).take 32
    let ok := pushOk (Desc.ofBytes b)
    pushed s t a i ok fun tag uid t => ok = true → (t.cl a.k).entries = (s.cl a.k).entries
      ++ [Entry.fresh uid tag (s.flockOf a).cmd (s.prioOf (s.flockOf a)) (s.flockOf a).fast b ((s.cl a.k).bindDeps (Desc.ofBytes b).depTags)]
  let bissued (s : Dev) (a : ThOp) (i : Nat) (t : Dev) : Prop :=
    let b := leBytes 64 (((s.flockOf a).thr i).vr (fA a.w))
    pushed s t a i (bargePushOk b) fun tag uid t => bargePushOk b = true → (t.cl a.k).barges = (s.cl a.k).barges
      ++ [Barge.fresh uid tag (s.flockOf a).cmd (s.prioOf (s.flockOf a)) b ((s.cl a.k).bindDeps (bargeDepTags b))]
  let tRoom (s : Dev) (a : ThOp) (i : Nat) : Prop := s.canPush a.k ((leBytes 64 (((s.flockOf a).thr i).vr (fA a.w))).take 32) = true
  let bRoom (s : Dev) (a : ThOp) (i : Nat) : Prop :=
    let b := leBytes 64 (((s.flockOf a).thr i).vr (fA a.w))
    (s.cl a.k).tags.length < 4096 ∧ (bargePushOk b = true → (s.cl a.k).classDepth (bits (leAt b 0 8) 9 8) < 32)
  (∀ (s : State) (a : ThOp) (i : Nat), s.m.stands a → s.m.todo a = [i] → regOk .g .v .no [0, 1] a.w = true →
    (tRoom s.m a i → issues (.tissue a) s a fun t => tissued s.m a i t)
    ∧ (bRoom s.m a i → issues (.bissue a) s a fun t => bissued s.m a i t)
    ∧ (fM a.w = 0 → ¬ tRoom s.m a i → issues (.tissue a) s a fun t => s.m.waitsOn t a 0xA0 R.TH_WAIT_SYNC ∧ s.m.sameButFlock t a)
    ∧ (fM a.w = 0 → ¬ bRoom s.m a i → issues (.bissue a) s a fun t => s.m.waitsOn t a 0xA1 R.TH_WAIT_SYNC ∧ s.m.sameButFlock t a)
    ∧ (fM a.w = 1 → ¬ tRoom s.m a i → issues (.tissue a) s a fun t => s.m.finished t a i (fun r => r.putX (fD a.w) (BitVec.allOnes 64)) ∧ s.m.sameButFlock t a)
    ∧ (fM a.w = 1 → ¬ bRoom s.m a i → issues (.bissue a) s a fun t => s.m.finished t a i (fun r => r.putX (fD a.w) (BitVec.allOnes 64)) ∧ s.m.sameButFlock t a))
  ∧ ∀ (s : State) (l : FlockAt) (v : FlockWait) (i : Nat),
    let a : ThOp := ⟨l, v.w, false, false⟩
    let x := s.m.flockOf a
    x.st = .wait → x.wait = some v → x.preempt = false → s.m.clusterOn l.die.val l.cluster.val = true → s.m.todo a = [i] →
    (v.op = 0xA0 → tRoom s.m a i → completes (.pushUnblock l) s fun t => tissued s.m a i t)
    ∧ (v.op = 0xA1 → bRoom s.m a i → completes (.pushUnblock l) s fun t => bissued s.m a i t)

/-- R252, R264: tag operations, for the last thread left. -/
def Obligations.TagOperations : Prop := ∀ (s : State) (a : ThOp) (i : Nat), s.m.stands a → s.m.todo a = [i] →
  let v := (((s.m.flockOf a).thr i).x (fA a.w)).toNat
  let gg := regOk .g .g .no [0] a.w = true
  let vg := regOk .v .g .no [0] a.w = true
  let ng := regOk .no .g .no [0] a.w = true
  let status (x : Tag) : W64 := BitVec.ofNat 64 (leAt x.record 0 1)
  let tagOf (t : Dev) : Option Tag := ((t.cl a.k).tags.find? fun e => e.1 == v).map (·.2)
  let keeps (t : Dev) (g : Thread → Thread) : Prop := s.m.sameButCore t a ∧ s.m.finished t a i g ∧ s.m.sameMemory t ∧ s.m.regsBecome t (s.m.issuedOne a)
  let bad (c : Instr) : Prop := issues c s a fun t => s.m.raised t a 5 0x70 0 i false
  (∀ x, tagOf s.m = some x → x.done = true →
    (gg → issues (.twait a) s a (fun t => keeps t (fun r => r.putX (fD a.w) (status x)) ∧ t.dcacheOf a = [])
      ∧ issues (.tpoll a) s a (fun t => keeps t (fun r => r.putX (fD a.w) (status x)) ∧ t.dcacheOf a = []))
    ∧ (vg → issues (.tcrec a) s a fun t => keeps t (fun r => r.setV (fD a.w) (leNat x.record)) ∧ t.dcacheOf a = [])
    ∧ (ng → issues (.tfree a) s a (fun t => (risingFrom 0 (s.m.cl a.k).tags = true → tagOf t = none) ∧ s.m.finished t a i id ∧ s.m.sameMemory t ∧ s.m.regsBecome t (s.m.issuedOne a)
        ∧ (t.cl a.k).tags = (s.m.cl a.k).tags.filter fun e => !(e.2.uid == x.uid))
      ∧ issues (.tcancel a) s a (fun t => keeps t id ∧ t.dcacheOf a = s.m.dcacheOf a)))
  ∧ (∀ x, tagOf s.m = some x → x.done = false →
    (gg → issues (.twait a) s a (fun t => s.m.waitsOn t a 0xA2 R.TH_WAIT_SYNC ∧ s.m.sameButFlock t a)
      ∧ issues (.tpoll a) s a (fun t => keeps t (fun r => r.putX (fD a.w) 0x100) ∧ t.dcacheOf a = s.m.dcacheOf a))
    ∧ (vg → issues (.tcrec a) s a fun t => s.m.waitsOn t a 0xA4 R.TH_WAIT_SYNC ∧ s.m.sameButFlock t a)
    ∧ (ng → bad (.tfree a))
    ∧ (ng → ∀ e, ((s.m.cl a.k).entries.find? fun e => e.uid == x.uid) = some e → e.issued = false → e.stage = .queued →
      issues (.tcancel a) s a fun t => s.m.finished t a i id ∧ (∀ q, q ∈ (t.cl a.k).entries → q.uid ≠ x.uid)
        ∧ ∃ y, tagOf t = some y ∧ y.uid = x.uid ∧ y.done = true ∧ leAt y.record 0 1 = 0x30))
  ∧ (tagOf s.m = none → (gg → bad (.twait a) ∧ bad (.tpoll a)) ∧ (vg → bad (.tcrec a)) ∧ (ng → bad (.tfree a) ∧ bad (.tcancel a)))

/-- R309, R311, R313: the thread's side of the locks, for the last thread left. -/
def Obligations.ThreadLocks : Prop := ∀ (s : State) (a : ThOp) (i : Nat), s.m.stands a → s.m.todo a = [i] →
  let x := s.m.flockOf a
  let h := ((x.thr i).x (fA a.w)).toNat
  let va := ((x.thr i).x (fB a.w)).toNat
  let slot := bits h 18 16
  let getOk := regOk .g .g .no [0, 1] a.w = true
  let putOk := regOk .no .g .g [0, 1] a.w = true
  let named (l : LockId) : Prop := h < 2 ^ 19 ∧ s.m.handleLock (a.k / 168) (a.k % 168) (h % 2 ^ 16) = some l ∧ s.m.lockOn l = true ∧ (fM a.w = 0 → slot < s.m.lockCons l)
  let view (b : LockBlk) : Nat × Nat × Bool × Nat × Nat := (b.seq, b.idx, b.filled, b.taken, b.released)
  let free (l : LockId) (bs : List LockBlk) : List LockBlk := bs.filter fun b => !b.done (s.m.lockCons l)
  let bad (c : Instr) (va : Nat) : Prop := issues c s a fun t => s.m.raised t a 7 0x70 va i false
  (∀ l, named l →
    (getOk → fM a.w = 0 → ∀ b, (s.m.lock l).blks.find? (fun b => !bitAt b.taken slot) = some b →
      (b.filled = true → issues (.lkget a) s a fun t => s.m.finished t a i (fun r => r.putX (fD a.w) (BitVec.ofNat 64 (s.m.blockVa l b.idx)))
        ∧ t.dcacheOf a = [] ∧ s.m.sameMemory t
        ∧ (t.lock l).blks.map view = (s.m.lock l).blks.map fun y => if y.seq = b.seq then view { y with taken := y.taken ||| 2 ^ slot } else view y)
      ∧ (b.filled = false → issues (.lkget a) s a fun t => s.m.waitsOn t a 0x78 R.TH_WAIT_ACT ∧ s.m.sameMemory t
        ∧ (t.lock l).blks = (s.m.lock l).blks ∧ ∃ w, w ∈ (t.lock l).consWait ∧ w.who = .flock a.core a.f i ∧ w.cl = a.k))
    ∧ (getOk → fM a.w = 0 → (s.m.lock l).blks.find? (fun b => !bitAt b.taken slot) = none → issues (.lkget a) s a fun t => s.m.waitsOn t a 0x78 R.TH_WAIT_ACT)
    ∧ (getOk → fM a.w = 1 → (s.m.lock l).againBlk x.cmd = none →
      (∀ idx, s.m.canProduce l = some idx → s.m.mustYield l (.flock a.core a.f i) a.k (s.m.prioOf x) s.m.clock = false → x.wait = none → issues (.lkget a) s a fun t =>
        s.m.finished t a i (fun r => r.putX (fD a.w) (BitVec.ofNat 64 (s.m.blockVa l idx))) ∧ t.dcacheOf a = [] ∧ s.m.sameMemory t
        ∧ (t.lock l).blks = (s.m.lock l).blks ++ [⟨(s.m.lock l).seq, idx, false, x.cmd, 0, 0, [], 0, [], 0⟩])
      ∧ (s.m.canProduce l = none → issues (.lkget a) s a fun t => s.m.waitsOn t a 0x78 R.TH_WAIT_LOCK_SPACE ∧ s.m.sameMemory t
        ∧ (t.lock l).blks = (s.m.lock l).blks ∧ ∃ w, w ∈ (t.lock l).prodWait ∧ w.who = .flock a.core a.f i ∧ w.cl = a.k))
    ∧ (putOk → ∀ b, (s.m.lock l).blks.find? (fun b => s.m.blockVa l b.idx == va) = some b →
      (fM a.w = 1 → b.filled = false → (s.m.lock l).drain = 0 → (s.m.lock l).blks.find? (fun y => y.seq == b.seq) = some b → issues (.lkput a) s a fun t => s.m.finished t a i id ∧ s.m.sameMemory t
        ∧ (t.lock l).blks = (s.m.lock l).blks.map fun y => if y.seq = b.seq then { y with filled := true } else y)
      ∧ (fM a.w = 0 → bitAt b.taken slot = true → bitAt b.released slot = false → issues (.lkput a) s a fun t => s.m.finished t a i id ∧ s.m.sameMemory t
        ∧ (t.lock l).blks = free l ((s.m.lock l).blks.map fun y => if y.seq = b.seq then { y with released := y.released ||| 2 ^ slot } else y))
      ∧ (fM a.w = 0 → bitAt b.taken slot = false ∨ bitAt b.released slot = true → bad (.lkput a) va)
      ∧ (fM a.w = 1 → b.filled = true → b.again ≠ x.cmd + 1 + 2 ^ 60 → bad (.lkput a) va))
    ∧ (putOk → (s.m.lock l).blks.find? (fun b => s.m.blockVa l b.idx == va) = none → bad (.lkput a) va))
  ∧ ((∀ l, ¬ named l) → (getOk → bad (.lkget a) h) ∧ (putOk → bad (.lkput a) va))

/-- The tally clears of every register block, at the addresses of R27 to R31. -/
def Obligations.TallyClears : Prop := ∀ (s : State) (k : Fin 2688) (core : Fin 112) (d : Fin 16) (p : Fin 168) (n : Fin 32) (v : Fin 8) (e : Fin 2) (l : Fin 24),
  let clears (c : Instr) (on : Bool) (base lo hi : Nat) : Prop :=
    (on = true → completes c s fun t => (∀ o, lo ≤ o → o ≤ hi → o % 4 = 0 → t.regAt (base + o) = 0)
      ∧ (∀ A, (∀ o, lo ≤ o → o ≤ hi → o % 4 = 0 → A ≠ base + o) → t.regAt A = s.m.regAt A) ∧ { t with regs := [] } = { s.m with regs := [] })
    ∧ (on = false → completes c s fun t => t = s.m)
  let die (d : Nat) : Nat := 0x300000000000 + d * 0x10000000
  let cluster (d p : Nat) : Nat := die d + 0x01000000 + p * 0x10000
  let on (d p : Nat) : Bool := (s.m.dom (1000 + 168 * d + p)).st == .on
  let dom (j : Nat) : Bool := (s.m.dom j).st == .on
  let kd := k.val / 168
  let kp := k.val % 168
  clears (.tcTallyClear k) (on kd kp) (cluster kd kp + 0x2000) 0x100 0x14C
    ∧ clears (.tcQtallyClear k) (on kd kp) (cluster kd kp + 0x2000) 0x400 0x414
    ∧ clears (.tcSwClear k) (on kd kp) (cluster kd kp + 0x2000) 0x500 0x510
    ∧ clears (.tcIssueClear k) (on kd kp) (cluster kd kp + 0x2000) 0x644 0x648
    ∧ clears (.sfTallyClear k) (on kd kp) (cluster kd kp + 0x3000) 0x200 0x218
    ∧ clears (.sfWaitClear k) (on kd kp) (cluster kd kp + 0x3000) 0x300 0x320
    ∧ clears (.ccTallyClear k) (on kd kp) (cluster kd kp + 0x4000) 0x200 0x220
    ∧ clears (.ccWaitClear k) (on kd kp) (cluster kd kp + 0x4000) 0x300 0x320
    ∧ clears (.beTallyClear d p) (on d p) (cluster d p + 0x5000) 0x100 0x158
    ∧ clears (.csTallyClear d p) (on d p) (cluster d p + 0x7000) 0x000 0x004
    ∧ clears (.thTallyClear k core) (on kd kp) (cluster kd kp + 0x8000 + core * 0x100) 0x20 0x58
    ∧ clears (.stkTallyClear n) (dom (64 + n)) (die (n / 2) + 0x00300000 + n % 2 * 0x10000) 0x100 0x118
    ∧ clears (.dmmuTallyClear d) (dom (4 * d)) (die d + 0x00100000) 0x100 0x10C
    ∧ clears (.bvTallyClear d v) (dom (4 * d + 1 + v / 4)) (die d + 0x00500000 + v * 0x1000) 0x100 0x164
    ∧ clears (.slTallyClear d e) (dom (4 * d + 3)) (die d + 0x00600000 + e * 0x1000) 0x100 0x15C
    ∧ clears (.lnkTallyClear l) (dom (96 + l / 3)) (die (16 + l / 6) + 0x00100000 + l % 6 * 0x10000) 0x100 0x128
    ∧ clears (.drvTallyClear d) (dom (4 * d)) (die d + 0x00700000) 0x100 0x118
    ∧ clears .weirTallyClear true (0x3F0000000000 + 0x5000) 0x2C 0x30

/-- R116 to R118, R276, R277: what becomes of the instruction at the head of a queue. -/
def Obligations.InstructionIssue : Prop := ∀ (s : State) (k : Fin 2688) (q : Fin 15) (e : Entry),
  let c := s.m.cl k
  let l := opAccs (s.m.stageOps k e)
  let capturable : Prop := e.captured ≠ [] ∨ ∀ r, e.d.slotUsed = some r → s.m.capture k e.cmd r ≠ none
  let runs (t : Dev) : Prop := s.m.sameMemory t ∧ ∃ r, t.entryNo k e.uid = some r ∧ r.stage = .running ∧ r.issued = true ∧ r.args = e.args ∧ r.tag = e.tag
    ∧ (r.captured = [] ↔ e.captured = [] ∧ e.d.slotUsed = none) ∧ (∀ y, y ∈ (t.cl k).entries → y.uid ≠ e.uid → y ∈ c.entries)
  (∀ tag : Fin 4096, (∀ b, b ∈ c.barges → ¬(b.tag = tag.val ∧ b.depsDone = false ∧ b.deps.all (fun x => x.status.isSome) = true)) →
    (c.entries.find? fun e => e.tag == tag.val && !e.depsDone && e.deps.all (fun x => x.status.isSome)) = some e →
    let failed := e.d.poison = true ∧ ∃ x v, x ∈ e.deps ∧ x.status = some v ∧ statusGood v = false
    let goesOn (f : Bool) (t : Dev) : Prop := s.m.onlyCluster t k
      ∧ t.cl k = { c with entries := c.entries.map fun x =>
          if x.uid = e.uid then { x with depsDone := true, depFailed := if e.op = 0 then f else x.depFailed } else x }
    (¬ failed → completes (.dependencyComplete k tag) s (goesOn false))
    ∧ (failed → e.op = 0 → completes (.dependencyComplete k tag) s (goesOn true))
    ∧ (failed → e.op ≠ 0 → e.issued = false → s.m.entryNo k e.uid = some e → completes (.dependencyComplete k tag) s fun t => s.m.ended t k e.uid 0x30))
  ∧ ((c.inQueue q).head? = some e → (∀ p, p ∈ targetQueues e.target → (c.inQueue p).head? = some e) → s.m.entryNo k e.uid = some e → e.op = 0 → e.issued = false →
    e.depsDone = true → e.cmd ∉ c.preempting → completes (.sync k q) s fun t => s.m.ended t k e.uid (if e.depFailed then 0x30 else 0) ∧ s.m.sameMemory t)
  ∧ (s.m.next k q = some e → s.m.atHeads k e = true → s.m.entryNo k e.uid = some e →
    e.op ≠ 0 → e.stage = .queued ∨ (e.stage = .staged ∧ s.m.granted k l false) →
      (∀ n, s.m.unmet k e = .wait n → 1 ≤ n → n ≤ 9 → completes (.tensorIssue k q) s fun t =>
        let A := (if e.target ≤ 0x10 then regAddr .tc (k / 168) (k % 168) 0x100 else if e.target = 0x18 ∨ e.target = 0x19 then regAddr .sf (k / 168) (k % 168) 0x300
          else regAddr .cc (k / 168) (k % 168) 0x300) + 4 * (n - 1)
        t.regAt A = satAdd (s.m.regAt A) 1 ∧ t.entryNo k e.uid = some { e with waits := bumpWait e.waits n }
          ∧ (n = 1 ∨ n = 3 ∨ n = 4 ∨ n = 5 → s.m.onlyCluster t k))
      ∧ (s.m.unmet k e = .refused → e.issued = false → completes (.tensorIssue k q) s fun t => s.m.ended t k e.uid 0x71)
      ∧ (s.m.unmet k e = .ready → e.stage = .staged → e.issued = false → capturable → completes (.tensorIssue k q) s runs))
  ∧ (c.entries = [e] → q.val ∈ targetQueues e.target → e.op ≠ 0 → e.stage = .staged → e.issued = false → e.depsDone = true → e.cmd ∉ c.preempting →
    (∀ b, b ∈ gateBits e.target → bitAt c.gated b = false) →
    (∀ a, a ∈ targetArrays e.target → bitAt c.splitPending a = false ∧ (bitAt c.split a = true ↔ isHalf e.target = true)) →
    s.m.granted k l false → (c.tlb.filter fun t => t.pins ≠ 0).length + (s.m.pagesOf k l).length ≤ 192 → (∀ o, o ∈ s.m.stageOps k e → s.m.unready k o = []) →
    capturable → completes (.tensorIssue k q) s runs)

/-- R278, R291, R348: staging. -/
def Obligations.InstructionStaging : Prop := ∀ (s : State) (k : Fin 2688) (q : Fin 15) (e : Entry),
  let n := 64 * e.d.argLen
  let e' : Entry := { e with args := s.m.vaBytes (k / 168) (k % 168) e.d.args n }
  let x := s.m.ctx k e'
  let ops := opAccs (s.m.stageOps k e')
  s.m.next k q = some e → s.m.atHeads k e = true → s.m.entryNo k e.uid = some e → e.op ≠ 0 → e.stage = .queued → e.depsDone = true
    → e.cmd ∉ (s.m.cl k).preempting → s.m.errorless → s.m.granted k [⟨e.d.args, n, accRead⟩] true →
  let checked : Prop := (∀ o, o ∈ x.preOps → o.len ≠ 0 → o.va ≠ 0) ∧ s.m.granted k (opAccs x.preOps) true ∧ x.stageOk = true
    ∧ (e.op = 0x16 → sfHeaderOk (x.rd (argVa e'.args 0) 64) = true) ∧ (∀ r, e.d.slotUsed = some r → e.captured ≠ [] ∨ (s.m.cl k).slotValid r = true)
  (checked → x.emptyOut = false → e.d.wideIn = false → tooLong (s.m.namedOps k e') = false
      → s.m.granted k ops false → s.m.outside k (opAccs (s.m.namedOps k e')) = false → (s.m.pageSet k ops).length ≤ 192 →
    completes (.instructionStage k q) s fun t => s.m.onlyCluster t k ∧ t.entryNo k e.uid = some { e' with stage := .staged }
      ∧ ∀ y, y ∈ (t.cl k).entries → y.uid ≠ e.uid → y ∈ (s.m.cl k).entries)
  ∧ (checked → x.emptyOut = false → e.d.wideIn = false → tooLong (s.m.namedOps k e') = false → 192 < (s.m.pageSet k ops).length → e.issued = false →
    completes (.instructionStage k q) s fun t => s.m.ended t k e.uid 0x71)
  ∧ (checked → x.emptyOut = true → s.m.tablesGood k x = true → e.d.widenEn = false → e.issued = false →
    completes (.instructionStage k q) s fun t => s.m.ended t k e.uid 1 ∧ s.m.sameMemory t)
  ∧ (x.preOps = [] → x.stageOk = false → e.issued = false → completes (.instructionStage k q) s fun t => s.m.ended t k e.uid 0x71)

/-- R105, R110, R113, R114, R127: passes and weight tiles. -/
def Obligations.TensorPasses : Prop := ∀ (s : State) (k : Fin 2688) (e : Entry) (m : Member),
  let c := s.m.cl k
  let x := s.m.ctx k e
  let n := e.count
  let kd := k.val / 168
  let kp := k.val % 168
  let outl (rt : Nat) : List (Nat × Nat) := if x.d.inOutl then [(argVa x.a 0xA0 + 8 * rt, 8)] else []
  let listed (rt : Nat) : Prop := x.d.inOutl = true → x.outlOk (argVa x.a 0xA0) rt (x.kTap - 64 * rt) = true
  s.m.errorless → s.m.entryNo k e.uid = some e → (e.run.members.map (·.target)).Nodup →
  (∀ t : Fin 64, c.runningOn t = some e → e.cmd ∉ c.preempting → e.memberOf t = some m → m.tile < x.tiles n (e.memberIdx t) → s.m.tablesGood k x = true →
    x.idles e t = false →
    let rs := x.tileRows n (e.memberIdx t) m.tile
    let cn := x.colCount m.tile
    let tl := x.tileOfPass n m.tile m.pass
    let handsOver (acc : List Int) (u : Dev) : Prop := s.m.onlyCluster u k ∧ (u.cl k).doneTiles = c.doneTiles ++ [⟨e.uid, e.memberIdx t, m.tile, acc⟩]
    (x.passList n m.tile = [] → ∀ parity, (e.op = 1 → completes (.matmul k t parity) s (handsOver (List.replicate (rs.length * cn) 0)))
      ∧ (e.op = 2 → completes (.conv k t parity) s (handsOver (List.replicate (rs.length * cn) 0))))
    ∧ (∀ tap rt : Nat, (x.passList n m.tile)[m.pass]? = some (tap, rt) →
      let held (b : List Byte) : Prop := (t.val ≠ 32 ∧ s.m.passReady k e m = true ∧ (c.engine t).active.upset = [] ∧ b = (c.engine t).active.bytes)
        ∨ (t.val = 32 ∧ listed rt ∧ x.tileLen rt ≤ x.pitch ∧ b = s.m.vaBytes kd kp (x.tileAddr tl.1) (x.tileLen rt)
            ∧ x.badScale b rt cn = none ∧ s.m.granted k (readsOf ([(x.tileAddr tl.1, x.tileLen rt)] ++ outl rt)) false)
      let waits : Prop := m.pass + 1 < (x.passList n m.tile).length ∨ (e.run.gang = true ∧ ∃ z, z ∈ e.run.members ∧ z.target ≠ t.val
        ∧ x.idles e z.target = false ∧ z.pass < (x.passList n z.tile).length)
      (∀ b, held b → s.m.granted k (readsOf (x.passReads tap rt rs)) false →
        let r := x.passRun b tap rt cn rs m.acc (if rt = 0 then [] else m.part)
        let ran (u : Dev) : Prop := (waits → s.m.onlyCluster u k ∧ (u.cl k).doneTiles = c.doneTiles
            ∧ ∃ y, u.entryNo k e.uid = some y ∧ y.memberOf t = some { m with pass := m.pass + 1, acc := r.1, part := r.2 })
          ∧ (¬ waits → e.run.gang = false → handsOver r.1 u)
        ∀ parity, (t.val ≠ 32 → parity = false) → (e.op = 1 → completes (.matmul k t parity) s ran) ∧ (e.op = 2 → completes (.conv k t parity) s ran))
      ∧ (t.val ≠ 32 → s.m.passReady k e m = true → isHalf e.target = false → e.run.retried = false
          → s.m.granted k (readsOf [(e.d.args, 64 * e.d.argLen)]) false →
        let again (u : Dev) : Prop := ∃ y, u.entryNo k e.uid = some y ∧ y.run.retried = true ∧ y.args = s.m.vaBytes kd kp e.d.args (64 * e.d.argLen)
          ∧ y.memberOf t = some { m with pass := 0, acc := [], part := [] } ∧ (u.cl k).doneTiles = c.doneTiles
        (e.op = 1 → completes (.matmul k t true) s again) ∧ (e.op = 2 → completes (.conv k t true) s again))))
  ∧ (c.runningOn 32 = some e → e.memberOf 32 = some m → e.op = 5 → e.cmd ∉ c.preempting → m.tile < x.tiles 1 0 →
    let c0 := x.colBase m.tile
    let cn := x.colCount m.tile
    x.inListOk c0 cn = true → s.m.granted k (readsOf (x.inListReads c0 cn)) false →
    completes (.epilogue k) s fun t => s.m.onlyCluster t k ∧ (t.cl k).doneTiles = c.doneTiles
      ++ [⟨e.uid, e.memberIdx 32, m.tile, List.replicate ((x.tileRows 1 0 m.tile).length * cn) 0⟩])
  ∧ (∀ ti p beats : Nat, (c.entries.filter fun e => e.stage == .running && (e.op = 1 || e.op = 2) && e.target ≠ 0x10) = [e] → e.run.members = [m] → e.run.gang = false
      → pathKey m.target < 8 → s.m.wantedTile k e m.target = some (ti, p, beats) →
    let tl := x.tileOfPass n ti p
    let b := s.m.vaBytes kd kp (x.tileAddr tl.1) (x.tileLen tl.2)
    let w := (c.engine m.target).shadow
    let isHeld : Prop := w.uid = e.uid ∧ w.k = posCode ti p
    (isHeld → w.beats < beats → completes (.weightTileLoad k) s fun t =>
      s.m.onlyCluster t k ∧ ((t.cl k).engine m.target).shadow = { w with beats := w.beats + 1 })
    ∧ (¬ isHeld → listed tl.2 → x.tileLen tl.2 ≤ x.pitch → x.badScale b tl.2 (x.colCount ti) = none
        → s.m.granted k (readsOf ([(x.tileAddr tl.1, x.tileLen tl.2)] ++ outl tl.2)) false →
      completes (.weightTileLoad k) s fun t => s.m.onlyCluster t k ∧ ((t.cl k).engine m.target).shadow = ⟨e.uid, posCode ti p, 1, b, []⟩))
  ∧ (∀ t : Fin 64, c.runningOn t = some e → (∃ u, u ∈ e.mates t ∧ s.m.canSwap k e u = true) → (∀ u, u ∈ e.mates t → s.m.canSwap k e u = true ∨ x.idles e u = true) →
    completes (.weightSwap k t) s fun v => s.m.onlyCluster v k
      ∧ (∀ u, (v.cl k).engine u = if u ∈ e.mates t then ⟨(c.engine u).shadow, { (c.engine u).shadow with uid := 0 }, x.idles e u⟩ else c.engine u)
      ∧ s.m.regsBecome v [(regAddr .tc kd kp R.TC_SWAPS, satAdd (s.m.regAt (regAddr .tc kd kp R.TC_SWAPS)) 1)])

/-- R82, R92, R95, R132, R160, R163: what an instruction writes, and how it ends. -/
def Obligations.OutputTilesAndCommit : Prop := ∀ (s : State) (k : Fin 2688) (e : Entry),
  let c := s.m.cl k
  let x := s.m.ctx k e
  let kd := k.val / 168
  let kp := k.val % 168
  let act := s.m.actProg k e
  s.m.errorless → s.m.entryNo k e.uid = some e →
  (∀ d rest, c.doneTiles = d :: rest → d.uid = e.uid →
    let rs := x.tileRows (max 1 e.count) d.member d.tile
    let c0 := x.colBase d.tile
    let cn := x.colCount d.tile
    let outs := (enumFrom 0 rs).flatMap fun q => (List.range cn).map fun j => x.writeElem act (atInt d.acc (q.1 * cn + j)) q.2 (c0 + j)
    let ws := outs.flatMap (·.1)
    let vals := x.dynVals act rs c0 cn d.acc
    x.outListOk c0 cn = true → s.m.granted k (readsOf (x.epeReads rs c0 cn)) false →
    (x.d.omode ≠ 2 → s.m.granted k (writesOf (writeRanges ws)) false → completes (.outputTileEpilogue k false) s fun t => s.m.wroteAs t k ws
      ∧ (t.cl k).doneTiles = rest ∧ ∃ y, t.entryNo k e.uid = some y ∧ y.run.units = e.run.units + 1)
    ∧ (x.d.omode = 2 → d.tile % max 1 x.colTiles + 1 ≠ x.colTiles → completes (.outputTileEpilogue k false) s fun t => s.m.onlyCluster t k
      ∧ (t.cl k).doneTiles = rest ∧ ∃ y, t.entryNo k e.uid = some y ∧ y.run.rowBuf = e.run.rowBuf ++ vals.map (·.1))
    ∧ (x.d.omode = 2 → d.tile % max 1 x.colTiles + 1 = x.colTiles →
      let buf := e.run.rowBuf ++ vals.map (·.1)
      let rows := rs.map fun r => (r, x.writeDynRow r (match act with
        | some _ => 15
        | none => 24) ((buf.filter fun b => b.1 == r).map (·.2)))
      let wr := rows.flatMap fun o => o.2.1 ++ [(argVa e.args 0x98 + 8 * o.1, o.2.2.1.bytes)]
      s.m.granted k (writesOf (writeRanges wr)) false → completes (.outputTileEpilogue k false) s fun t => s.m.wroteAs t k wr
        ∧ (t.cl k).doneTiles = rest ∧ ∃ y, t.entryNo k e.uid = some y ∧ y.run.rowBuf = buf.filter fun b => !rs.contains b.1))
  ∧ (∀ d rest, c.doneTiles = d :: rest → d.uid = e.uid → e.captured ≠ [] → isHalf e.target = false → s.m.replayable e.cmd = false → c.first e = true →
    completes (.outputTileEpilogue k true) s fun t => s.m.ended t k e.uid 0x20)
  ∧ (∀ a : Fin 4, c.windowOn 3 a = some e →
    let cells := (List.range 128).filterMap fun i => if e.run.units * 128 + i < x.poolCells then some (e.run.units * 128 + i) else none
    let outs := cells.map x.poolCell
    let ws := outs.flatMap (·.1)
    s.m.granted k (readsOf (cells.flatMap x.poolReads)) false → s.m.granted k (writesOf (writeRanges ws)) false →
    completes (.pool k a) s fun t => s.m.wroteAs t k ws ∧ ∃ y, t.entryNo k e.uid = some y ∧ y.run.units = e.run.units + 1
      ∧ y.run.aux0 = e.run.aux0 + (outs.filter (·.2)).length ∧ (y.stage = .running ↔ (e.run.units + 1) * 128 < x.poolCells))
  ∧ (∀ a : Fin 4, c.windowOn 4 a = some e → s.m.tablesGood k x = true →
    let r := x.cropBox e.run.units
    s.m.granted k (readsOf (x.cropReads e.run.units)) false → s.m.granted k (writesOf (writeRanges r.1)) false →
    completes (.crop k a) s fun t => s.m.wroteAs t k r.1 ∧ ∃ y, t.entryNo k e.uid = some y ∧ y.run.units = e.run.units + 1
      ∧ y.run.aux0 = e.run.aux0 + b2n r.2 ∧ (y.stage = .running ↔ e.run.units + 1 < x.cropBoxes))
  ∧ (∀ q : Fin 15, (c.inQueue q).find? (fun y => y.stage == .draining && hasEpilogue y.op && y.d.widenEn && !y.run.wide
      && !(c.doneTiles.any fun t => t.uid == y.uid) && y.run.rowBuf.isEmpty) = some e →
    let b := argQ e.args 0x68
    let ovr := b % 2 ^ 32 < e.run.satN ∨ b / 2 ^ 32 % 2 ^ 32 < e.run.ufN
    completes (.narrowRunEnd k q) s fun t => s.m.onlyCluster t k ∧ ∃ y, t.entryNo k e.uid = some y
      ∧ (ovr ∧ e.fast = false ∧ e.d.ofmt ≤ 1 → y.stage = .running ∧ y.run.wide = true ∧ y.run.units = 0 ∧ ∀ m, m ∈ y.run.members → m.tile = 0 ∧ m.pass = 0 ∧ m.done = false)
      ∧ (¬(ovr ∧ e.fast = false ∧ e.d.ofmt ≤ 1) → y = { e with stage := .finished }))
  ∧ (∀ q : Fin 15, (c.inQueue q).head? = some e → (∀ p, p ∈ targetQueues e.target → (c.inQueue p).head? = some e) → e.stage = .finished → statusGood e.run.status = true →
    let epi := hasEpilogue e.op && e.d.widenEn
    let flag := epi || ((e.op = 3 || e.op = 4) && e.d.wideIn)
    let ws := if flag then [(argVa e.args 0x70, leBytes 4 (if epi then b2n e.run.wide else b2n e.run.wideIn))] else []
    s.m.granted k (writesOf (writeRanges ws)) false → completes (.instructionCommit k q) s fun t => s.m.ended t k e.uid e.run.status ∧ s.m.wroteVa t kd kp ws)

/-- R124, R126, R128, R129, R267: stops and the split mode. -/
def Obligations.TensorStops : Prop :=
  (∀ (s : State) (k : Fin 2688) (q : Fin 15) (e : Entry) (a : VAcc) (pre post : List VAcc) (cause level : Nat),
    let c := s.m.cl k
    let d := k.val / 168
    let x (b : VAcc) : Xl := s.m.xlate d (k.val % 168) b.va b.access
    let translates (b : VAcc) : Prop := (∃ h, x b = .hit h) ∨ (∃ y, x b = .die y) ∨ (x b = .miss ∧ ∃ y, s.m.walk b.va b.access = .leaf y)
    ((c.inQueue q).find? fun e => e.stage == .running || (e.stage == .draining && c.doneTiles.any fun t => t.uid == e.uid)) = some e → s.m.entryNo k e.uid = some e →
    vaPieces (opAccs (s.m.stageOps k e)) = pre ++ a :: post → (∀ b, b ∈ pre → translates b) →
    x a = .fault cause level ∨ (x a = .miss ∧ s.m.walk a.va a.access = .fault cause level) → cause ≠ 4 →
    (isHalf e.target = false → completes (.feederTranslationFault k q) s fun t => s.m.sameMemory t
      ∧ t.entryNo k e.uid = some { e with stage := .faulted, run := e.rewound (s.m.ctx k e).colTiles c.doneTiles }
      ∧ ∃ n, let r : FaultRec := ⟨e.unitOf k n, e.tag, queueOf e.cmd, a.va, cause, level, a.access, false⟩
        if (s.m.die d).fq.length < 64 ∧ (s.m.die d).backlog = [] then (t.die d).fq = (s.m.die d).fq ++ [r] else (t.die d).backlog = (s.m.die d).backlog ++ [r])
    ∧ (isHalf e.target = true → c.first e = true → completes (.feederTranslationFault k q) s fun t => s.m.ended t k e.uid 0x60))
  ∧ (∀ (s : State) (k : Fin 2688) (q : Fin 15) (e : Entry),
    let c := s.m.cl k
    ((c.inQueue q).find? fun e => c.preempting.contains e.cmd && (e.stage == .running || e.stage == .staged || e.stage == .faulted)) = some e →
      s.m.entryNo k e.uid = some e →
    (e.stage = .staged → completes (.targetPreemptStop k q) s fun t => s.m.onlyCluster t k ∧ t.entryNo k e.uid = some { e with stage := .queued })
    ∧ (e.stage = .running → s.m.atCursor k e = true → completes (.targetPreemptStop k q) s fun t => s.m.sameMemory t
      ∧ t.entryNo k e.uid = some { e with stage := .queued, resumed := true } ∧ (t.cl k).tags = c.tags)
    ∧ (e.stage = .faulted → (∃ r, r ∈ (s.m.die (k / 168)).fq ∧ e.owns k r.unit = true) → completes (.targetPreemptStop k q) s fun t => s.m.sameMemory t
      ∧ t.entryNo k e.uid = some { e with stage := .queued, resumed := true } ∧ (t.cl k).tags = c.tags
      ∧ ∀ r, r ∈ (t.die (k / 168)).fq → e.owns k r.unit = true → r.withdrawn = true))
  ∧ (∀ (s : State) (l : FlockAt),
    let x := s.m.flock l.k l.core.val l.flock.val
    x.preempt = true → (x.st = .run ∨ x.st = .restoring ∨ (x.st = .wait ∧ ∃ v, x.wait = some v ∧ (v.op < 0x70 ∨ 0x90 < v.op ∨ v.op = 0x78))) →
    completes (.flockPreemptStop l) s fun t => t.flock l.k l.core.val l.flock.val = { x with st := .saving, wait := none }
      ∧ (∀ b, b ∈ (t.cl l.k).barriers → 2 * l.core.val + l.flock.val ∉ b.2.arrived))
  ∧ ∀ (s : State) (k : Fin 2688) (v : BitVec 32) (n : Fin 4),
    let c := s.m.cl k
    let on := s.m.clusterOn (k / 168) (k % 168)
    (on = true → completes (.tcSplitCtrlWrite k v) s fun t => s.m.onlyCluster t k ∧ s.m.regsBecome t [(regAddr .tc (k / 168) (k % 168) R.TC_SPLIT_CTRL, v.toNat % 16)]
      ∧ (t.cl k).splitReq = v.toNat % 16 ∧ (t.cl k).split = c.split
      ∧ bitAt (t.cl k).splitPending n = (bitAt c.splitPending n || bitAt v.toNat n != bitAt (s.m.reg .tc (k / 168) (k % 168) R.TC_SPLIT_CTRL) n))
    ∧ (on = false → completes (.tcSplitCtrlWrite k v) s fun t => t = s.m)
    ∧ (bitAt c.splitPending n = true → (∀ e, e ∈ c.entries → n.val ∈ targetArrays e.target → e.stage = .queued ∨ e.stage = .staged) →
      completes (.splitModeChange k n) s fun t => s.m.onlyCluster t k ∧ bitAt (t.cl k).splitPending n = false ∧ bitAt (t.cl k).split n = bitAt c.splitReq n
        ∧ (t.cl k).entries = c.entries ∧ ∀ j, j < 4 → j ≠ n.val → bitAt (t.cl k).split j = bitAt c.split j ∧ bitAt (t.cl k).splitPending j = bitAt c.splitPending j)

/-- R487, R488, R504, R511, R513, R514, R574. -/
def Obligations.PowerInputEvents : Prop := ∀ (s : State) (vin : Fin 65536) (n : Fin 4) (temp : Fin 256),
  let w := s.m.power
  (w.inputOk = false → becomes (.hotPlug vin) s
    { s.m with clock := s.m.clock + min 7680000 (160000 * vin.val / 100), power := { w with vin := vin.val, emergency := false } })
  ∧ (w.inputOk = true → becomes (.hotPlug vin) s s.m)
  ∧ (∃ warn : Bool, (warn = true ↔ w.inputOk = true ∧ 3800 ≤ vin.val ∧ vin.val < 4000)
      ∧ becomes (.uvWarnChange vin) s { s.m with power := { w with vin := vin.val, uvWarn := warn } })
  ∧ becomes .ref25Restore s { s.m with power := { w with ref25 := true, aoInternal := false } }
  ∧ becomes .ref156Restore s { s.m with power := { w with ref156 := true } }
  ∧ becomes .pwrPpeakRead s (s.m.put .pwr 20 0 R.PWR_PPEAK 0)
  ∧ completes .ref156Loss s (fun t => s.m.sameBut t [.power, .regs] ∧ t.power = { w with ref156 := false }
      ∧ s.m.regsBecome t ((List.range 24).map fun p =>
          let a := regAddr .lnk (16 + p / 6) (p % 6) R.LNK_PORT_STATUS
          (a, s.m.regAt a / 256 * 256)))
  ∧ (temp.val < 110 → becomes (.linkDieTempSample n temp) s (s.m.put .pwr 20 0 (R.PWR_LD + 4 * n.val) temp.val))

/-- R505, R506: the emergency shutdown by each of its causes. Class and DATA of the log entries are the model's where R554 leaves them open, log entry 16. -/
def Obligations.EmergencyShutdown : Prop := ∀ (s : State) (v : Fin 65536) (d : Fin 16) (f : Fin 20) (n : Fin 4) (st : Fin 32) (temp : Fin 256),
  let w := s.m.power
  let pllOn : Prop := if f.val < 16 then s.m.domOn (4 * f.val) = true
    else s.m.domOn (96 + 2 * (f.val - 16)) = true ∨ s.m.domOn (97 + 2 * (f.val - 16)) = true
  let boot := regAddr .boot 20 0 R.BOOT_STATUS
  let shut (cause dt vin iin : Nat) (clamp holds : Bool) (t : Dev) : Prop :=
    t.power.lastEmerg = cause ∧ t.clock = s.m.clock + dt ∧ t.power.rise = [] ∧ t.power.fall = []
      ∧ (∀ e, e ∈ t.power.charged → holds = true ∧ e.1 / 4096 = mgmtDom) ∧ t.power.clampEngaged = clamp
      ∧ t.power.clampEvents = (if clamp then min 65535 (w.clampEvents + 1) else w.clampEvents)
      ∧ t.power.inputOk = holds ∧ (∀ k, t.dom k = if k = mgmtDom ∧ holds = true then s.m.dom k else Dom.offState)
      ∧ (∀ x, x < stackEnd → (s.m.dom (64 + s.m.stackNo x)).st ≠ .off → t.byteAt x = 0)
      ∧ t.log = logPush s.m.log { LogEntry.plain 3 0x0C 0 cause with
          time := t.time, data := w.ledger % 2 ^ 32 + vin % 2 ^ 16 * 2 ^ 32 + iin % 2 ^ 16 * 2 ^ 48 } ∧ t.logNext = s.m.logNext + 1
      ∧ (holds = true → t.power.pen = true ∧ t.regAt boot = if bitAt (s.m.regAt boot) 30 then s.m.regAt boot else 2 ^ 30 + 9 * 256 + 9)
      ∧ (holds = false → t.power.pen = false ∧ t.regAt boot = 1)
  s.sound = true →
  (w.inputOk = true →
    (v.val < 3800 → completes (.inputUndervoltage v) s (shut 1 2000 v.val w.iin false false))
    ∧ (5000 < v.val → completes (.inputOvervoltage v) s (shut 2 1000 v.val w.iin true true))
    ∧ (4200 < v.val → completes (.inputOvercurrent v) s (shut 3 5000 w.vin v.val true true))
    ∧ (115 ≤ temp.val → completes (.dieTempSample d temp) s (shut 4 0 w.vin w.iin true true))
    ∧ (110 ≤ temp.val → completes (.linkDieTempSample n temp) s (shut 4 0 w.vin w.iin true true))
    ∧ (110 ≤ temp.val → s.m.domOn (64 + st.val) = true → completes (.stackTempSample st temp) s (shut 4 0 w.vin w.iin true true))
    ∧ (w.ref25 = true → completes .ref25Loss s fun t => shut 5 2000 w.vin w.iin true true t ∧ t.power.ref25 = false ∧ t.power.aoInternal = true
        ∧ t.links.ptp.st = if s.m.links.ptp.st = 0 then 0 else 3)
    ∧ (pllOn → completes (.pllLockLoss f) s (shut 5 0 w.vin w.iin true true)))
  ∧ (w.inputOk = false ∨ 3800 ≤ v.val → becomes (.inputUndervoltage v) s s.m)
  ∧ (w.inputOk = false ∨ v.val ≤ 5000 → becomes (.inputOvervoltage v) s s.m)
  ∧ (w.inputOk = false ∨ v.val ≤ 4200 → becomes (.inputOvercurrent v) s s.m)
  ∧ (¬pllOn ∨ w.inputOk = false → becomes (.pllLockLoss f) s s.m)
  ∧ (w.ref25 = false → becomes .ref25Loss s s.m)

/-- R499, R501, R503. Class and DATA of the log entries are the model's where R554 leaves them open, log entry 16. -/
def Obligations.EnvelopesAndThrottling : Prop := ∀ (s : State) (v : BitVec 32) (vin iin : Fin 65536) (d : Fin 16) (temp : Fin 256),
  let w := s.m.power
  let e := v.toNat % 16
  let reg := regAddr .pwr 20 0 R.PWR_ENV
  let u := if 2 ^ 31 ≤ v.toNat then s.m.put .pwr 20 0 R.PWR_ENV (s.m.regAt reg % 2 ^ 31) else s.m
  let watts := 3000 + 3000 * e
  let low := if w.p1ms ≤ watts then 0 else min 15 (ceilDiv (16 * (w.p1ms - watts)) w.p1ms)
  (1 ≤ e ∧ e ≤ 4 ∧ e ≤ w.envMax → completes (.pwrEnvWrite v) s fun t => u.sameBut t [.power]
    ∧ t.power.envReq = e ∧ t.power.envActive = e ∧ t.power.settled = false ∧ t.power.thEnv = if e < w.envActive then max w.thEnv low else w.thEnv)
  ∧ (¬(1 ≤ e ∧ e ≤ 4 ∧ e ≤ w.envMax) → becomes (.pwrEnvWrite v) s
      ((u.put .pwr 20 0 R.PWR_ENV (u.regAt reg % 2 ^ 31 + 2 ^ 31)).logged { LogEntry.plain 0 0x0C 0x71 0 with data := e }))
  ∧ (let l := (vin.val * iin.val :: w.samples).take 3125
    let p1 := sumNat l / l.length
    let p100 := sumNat (l.take 312) / (l.take 312).length
    let E := (3000 + 3000 * w.envActive) * 1000
    completes (.inputPowerSample vin iin) s fun t => s.m.sameBut t [.power, .regs]
      ∧ t.power.vin = vin.val ∧ t.power.iin = iin.val ∧ t.power.samples = l ∧ t.power.p1ms = p1 / 1000
      ∧ (t.power.settled = true ↔ w.settled = true ∨ p1 ≤ E)
      ∧ s.m.regsBecome t [(regAddr .pwr 20 0 R.PWR_PPEAK, max (s.m.reg .pwr 20 0 R.PWR_PPEAK) (min 65535 (p1 / 1000)))]
      ∧ t.power.thEnv = (if E < p100 then (if w.thEnv < 15 ∧ w.envRiseAt + 100000 ≤ s.m.clock then w.thEnv + 1 else w.thEnv)
          else if 100 * p1 < 95 * E ∧ 0 < w.thEnv ∧ w.envFallAt + 1000000 ≤ s.m.clock then w.thEnv - 1 else w.thEnv)
      ∧ (t.power.thEnv > w.thEnv → t.power.envRiseAt = s.m.clock) ∧ (t.power.thEnv < w.thEnv → t.power.envFallAt = s.m.clock))
  ∧ (s.sound = true → temp.val < 115 →
    let x := s.m.th d
    let limit := s.m.reg .pwr 20 0 R.THERM_CFG % 256
    let up : Prop := limit ≤ temp.val ∨ (s.m.stk (2 * d.val)).thermAlert = true ∨ (s.m.stk (2 * d.val + 1)).thermAlert = true
    completes (.dieTempSample d temp) s fun t => s.m.sameBut t [.therm, .power] ∧ (∀ j, j ≠ d.val → t.th j = s.m.th j)
      ∧ (t.th d).temp = temp.val ∧ ((t.th d).hot = true ↔ limit ≤ temp.val)
      ∧ (up → (t.th d).therm = if x.therm < 15 ∧ x.riseAt + 100000 ≤ s.m.clock then x.therm + 1 else x.therm)
      ∧ (¬up → (t.th d).therm = if temp.val + 3 ≤ limit ∧ 0 < x.therm ∧ x.fallAt + 1000000 ≤ s.m.clock then x.therm - 1 else x.therm))

/-- R38, R496, R497, R513. Class and DATA of the log entries are the model's where R554 leaves them open, log entry 16. -/
def Obligations.DomainRequests : Prop := ∀ (s : State) (k : Fin 105),
  let x := s.m.dom k
  let w := s.m.power
  let refused (v : Nat) (c : Instr) : Prop := becomes c s
    ((s.m.put .pwr 20 0 (R.PWR_DOM + 4 * k.val) (setBits (s.m.reg .pwr 20 0 (R.PWR_DOM + 4 * k.val)) 8 8 1)).logged
      { LogEntry.plain 0 0x0C 0x71 0 with data := k.val * 4 + v })
  let used : Prop :=
    if k.val = 104 then True
    else if 96 ≤ k.val then ∃ i, i < 3 ∧ s.m.fld .lnk (16 + (k.val - 96) / 2) ((k.val - 96) % 2 * 3 + i) R.LNK_PORT_CTRL 11 8 ≠ 0
    else if 64 ≤ k.val then k.val ≤ 65
    else if k.val % 4 = 0 then s.m.dieBusy (k.val / 4) = true
    else if k.val % 4 = 3 then ∃ i, i < 2 ∧ (s.m.fld .sl (k.val / 4) i R.SL_RING_CFG 31 31 = 1 ∨ (s.m.slu (sn (k.val / 4) i)).job ≠ none)
    else ∃ i, i < 4 ∧ s.m.bvInUse (k.val / 4) (4 * (k.val % 4 - 1) + i) = true
  let falls (t : Dev) (dest : DomSt) (req : Nat) : Prop := s.m.sameBut t [.doms, .power]
    ∧ s.m.domBecomes t k ⟨.transition, req, some ⟨false, false, 0, dest, false⟩⟩
    ∧ (∃ y, y ∈ t.power.fall ∧ y.dom = k.val ∧ y.sub = 0 ∧ y.mw = domMw k ∧ y.units = w.chargedFor k 0)
    ∧ t.power.charged = w.charged ∧ (∀ y, y ∈ t.power.rise ↔ y ∈ w.rise ∧ y.dom ≠ k.val)
  s.sound = true →
  (used → refused 0 (.pwrDomOff k))
  ∧ (¬(64 ≤ k.val ∧ k.val < 96) → refused 2 (.pwrDomRetain k))
  ∧ (¬used → x.st = .on → completes (.pwrDomOff k) s fun t => falls t .off 0)
  ∧ (¬used → x.st = .off ∨ x.st = .transition → completes (.pwrDomOff k) s fun t => s.m.sameBut t [.doms] ∧ s.m.domBecomes t k { x with req := 0 })
  ∧ (64 ≤ k.val ∧ k.val < 96 → x.st = .on → completes (.pwrDomRetain k) s fun t => falls t .retain 2)
  ∧ (x.st = .off ∨ x.st = .retain → (∀ d, unc0Of k = some d → x.st = .off → s.m.domOn (4 * d) = true) → (∀ y, y ∈ w.rise → ¬(y.dom = k.val ∧ y.sub = 0)) →
      completes (.pwrDomOn k) s fun t => s.m.sameBut t [.doms, .power]
        ∧ s.m.domBecomes t k ⟨.transition, 1, some ⟨true, false, 0, .on, x.st == .off⟩⟩
        ∧ t.power = { w with rise := stepInsert ⟨k.val, 0, domPos k.val, domMw k.val, 0, w.slots⟩ w.rise })
  ∧ (∀ d, unc0Of k = some d → x.st = .off → (s.m.dom (4 * d)).st = .off → completes (.pwrDomOn k) s fun t => s.m.sameBut t [.doms, .power]
      ∧ (t.dom k).st = .off ∧ (t.dom k).req = 1 ∧ (t.dom (4 * d)).st = .transition ∧ (t.dom (4 * d)).req = 1
      ∧ ∃ y, y ∈ t.power.rise ∧ y.dom = 4 * d ∧ y.sub = 0)
  ∧ completes .pwrCtrlPen s (fun t => t.power.pen = true ∧ t.dom mgmtDom = s.m.dom mgmtDom
      ∧ (bitAt (s.m.reg .boot 20 0 R.BOOT_STATUS) 30 = false → t.reg .boot 20 0 R.BOOT_STATUS = 2 ^ 30 + 0x0B * 256 + 9)
      ∧ (bitAt (s.m.reg .boot 20 0 R.BOOT_STATUS) 30 = true → t.reg .boot 20 0 R.BOOT_STATUS = s.m.reg .boot 20 0 R.BOOT_STATUS)
      ∧ ∀ j, j ≠ mgmtDom → (s.m.dom j).st = .on → (t.dom j).req = (if j = 64 ∨ j = 65 then 2 else 0)
          ∧ ((∀ d, j = 4 * d → 16 ≤ d) → (t.dom j).st = .transition))

/-- R25, R119, R236, R490 to R493, R496. -/
def Obligations.WeirGrants : Prop := ∀ (s : State) (k : Fin 3688) (c : Fin 2688) (e : Fin 12) (h : Fin 112),
  let w := s.m.power
  let b := s.m.reg .pwr 20 0 R.WEIR_CFG % 64 * 320
  let x := s.m.dom k
  let cd := 1000 + c.val
  s.sound = true →
  ((∀ j, 64 ≤ j → j < 96 → ¬((s.m.dom j).st = .retain ∧ (s.m.dom j).req = 1)) →
    completes .weirSlot s fun t => t.clock = s.m.clock + 320 ∧ t.power.slots = w.slots + 1
      ∧ (∃ n, t.power.rise = w.rise.drop n ∧ (w.riseHold ≠ 0 → n = 0 ∧ t.power.riseHold = w.riseHold - 1)
          ∧ (n ≤ 1 ∨ sumNat ((w.rise.take n).map fun y => s.m.weirUnits y.mw) ≤ b)
          ∧ (∀ y, w.rise.head? = some y → 1 ≤ n → b < s.m.weirUnits y.mw → n = 1 ∧ t.power.riseHold = ceilDiv (s.m.weirUnits y.mw) b - 1)
          ∧ (¬(w.inputOk = true ∧ w.uvWarn = false ∧ w.emergency = false) → n = 0))
      ∧ (∃ n, t.power.fall = w.fall.drop n ∧ (w.fallHold ≠ 0 → n = 0 ∧ t.power.fallHold = w.fallHold - 1)
          ∧ (let later : Dev := { s.m with clock := s.m.clock + 320 }
              let live := (w.fall.take n).filter fun y => later.fallVoid y = false
              live.length ≤ 1 ∨ sumNat (live.map (·.units)) ≤ b) ∧ (w.fallHold = 0 → w.fall ≠ [] → 1 ≤ n))
      ∧ (∀ y, w.rise = [y] → w.fall = [] → w.riseHold = 0 → s.m.weirUnits y.mw ≤ b → y.sub = 0 →
          w.inputOk = true ∧ w.uvWarn = false ∧ w.emergency = false
            ∧ max 3800 (w.vin / 50 * 50) * (w.ledger + s.m.weirUnits y.mw) * (w.ledger + s.m.weirUnits y.mw)
              ≤ min 6000000 (w.clampMicroJ + (t.clock - w.clampAt) / 2000) * 80000000000 →
          t.power.rise = [] ∧ t.power.chargedFor y.dom 0 = ceilDiv (y.mw * 1000) (max 3800 (w.vin / 50 * 50))
            ∧ ∀ q, (s.m.dom y.dom).tr = some q → q.up = true → (t.dom y.dom).tr = some { q with granted := true, readyAt := t.clock + domReady y.dom q.fromOff }))
  ∧ (∀ q, x.tr = some q → q.up = true → q.granted = true → x.req = 1 → completes (.domainReady k) s fun t => t.clock = max s.m.clock q.readyAt
      ∧ t.dom k = ⟨.on, 1, none⟩
      ∧ (1000 ≤ k.val → (∀ j, j ≠ k.val - 1000 → t.cl j = s.m.cl j) ∧ s.m.sameBut t [.clock, .doms, .clusters]
          ∧ t.cl (k.val - 1000) = { Cluster.reset with wakeAt := t.clock, idleSince := t.clock })
      ∧ (64 ≤ k.val → k.val < 96 → q.fromOff = true → ∀ a, a < stackEnd → s.m.stackNo a = k.val - 64 → t.byteAt a = 0))
  ∧ ((∀ q, x.tr = some q → ¬(q.up = true ∧ q.granted = true)) → becomes (.domainReady k) s s.m)
  ∧ (∀ q, x.tr = some q → q.up = false → q.granted = true → q.dest = .off ∨ q.dest = .retain → x.req ≠ 1 → completes (.towpathCommand k) s fun t =>
      t.clock > s.m.clock ∧ t.clock ≤ s.m.clock + 2560 ∧ (t.dom k).st = q.dest ∧ (t.dom k).tr = none
      ∧ (q.dest = .off → 1000 ≤ k.val → t.cl (k.val - 1000) = Cluster.reset)
      ∧ (q.dest = .retain → 64 ≤ k.val → k.val < 96 → s.m.sameMemory t))
  ∧ (s.m.clusterOn (c.val / 168) (c.val % 168) = true → bitAt (s.m.cl c).gated e = false → bitAt (s.m.cl c).gateReq e = false →
      (∀ y, y ∈ (s.m.cl c).entries → e.val ∈ gateBits y.target → y.stage ≠ .running ∧ y.stage ≠ .draining) →
      6 ≤ e.val ∨ w.chargedFor cd (e.val + 1) ≠ 0 → (∀ z, z ∈ w.fall → ¬(z.dom = cd ∧ z.sub = clockSub e)) → becomes (.engineClockGate c e) s { s.m with
        clock := max s.m.clock (sget (fun _ => 0) (s.m.cl c).engIdle e + 5120)
        power := { w with fall := stepInsert ⟨cd, clockSub e, domPos cd, (if e.val < 4 then 800 else if e.val < 6 then 150 else 0), w.chargedFor cd (clockSub e), w.slots⟩ w.fall } })
  ∧ (s.m.clusterOn (c.val / 168) (c.val % 168) = true → ((s.m.cl c).core h).vecGated = false → w.chargedFor cd (7 + h.val) ≠ 0 →
      (∀ z, z ∈ w.fall → ¬(z.dom = cd ∧ z.sub = 7 + h.val)) → becomes (.vectorClockGate c h) s { s.m with
        clock := max s.m.clock (((s.m.cl c).core h).vecIdle + 2560)
        power := { w with fall := stepInsert ⟨cd, 7 + h.val, domPos cd, 5, w.chargedFor cd (7 + h.val), w.slots⟩ w.fall } })
  ∧ (∀ i : Fin 124, s.m.clusterOn (c.val / 168) (c.val % 168) = true → w.holdsStep cd (i.val + 1) = true →
      ((i.val = e.val ∧ e.val < 6) ∨ (i.val = e.val + 112 ∧ 6 ≤ e.val) → bitAt (s.m.cl c).gateReq e = true → completes (.engineClockReady c i) s fun t =>
        s.m.sameBut t [.clock, .clusters]
        ∧ (∀ j, j ≠ c.val → t.cl j = s.m.cl j) ∧ t.clock = s.m.clock + 20 ∧ ∀ j, j < 12 → bitAt (t.cl c).gated j = (bitAt (s.m.cl c).gated j && j ≠ e.val)
          ∧ bitAt (t.cl c).gateReq j = (bitAt (s.m.cl c).gateReq j && j ≠ e.val))
      ∧ (i.val = 6 + h.val → ((s.m.cl c).core h).vecReq = true → completes (.engineClockReady c i) s fun t => s.m.sameBut t [.clock, .clusters]
        ∧ (∀ j, j ≠ c.val → t.cl j = s.m.cl j) ∧ t.clock = s.m.clock + 20
        ∧ (t.cl c).core h = { (s.m.cl c).core h with vecGated := false, vecReq := false, vecIdle := t.clock }))

/-- R170, R187, R188, R191, R193, R194. -/
def Obligations.FunctionUnits : Prop := ∀ (s : State) (k : Fin 2688) (n : Fin 2) (e : Entry),
  let c := s.m.cl k
  let x := s.m.ctx k e
  let a := e.args
  let u := e.run.units
  let act := s.m.actProg k e
  let two (reads writes : List (Nat × Nat)) : Prop := s.m.granted k (readsOf reads) false ∧ s.m.granted k (writesOf writes) false
  let both (reads writes : List (Nat × Nat)) : Prop := s.m.granted k (readsOf reads ++ writesOf writes) false
  s.m.errorless → s.m.entryNo k e.uid = some e →
  (c.sfOn 0x10 n = some e →
    let dyn := x.d.omode = 2
    let els : List (Nat × Nat) := if dyn then (List.range x.cols).map fun j => (u, j)
      else (List.range (min 128 (x.d.m24 * x.cols - 128 * u))).map fun i => ((128 * u + i) / x.cols, (128 * u + i) % x.cols)
    let rows := (els.map (·.1)).eraseDups
    let c0 := if rows.length = 1 then (els.map (·.2)).headD 0 else 0
    let cn := if rows.length = 1 then els.length else x.cols
    let reads := rows.map (fun r => x.sfRange r c0 cn) ++ (if x.d.imode = 2 then rows.map fun r => (x.scaleEntry % 2 ^ 48 + 8 * r, 8) else [])
      ++ x.epeReads rows c0 cn ++ x.inListReads c0 cn
    let ws : List (Nat × List Byte) :=
      if x.d.ofmt = 3 then els.map fun q => (x.outAddr 8 q.1 q.2, leBytes 8 (wrapN 64 (x.sfV act q.1 q.2).1))
      else if dyn then
        let o := x.writeDynRow ((els.map (·.1)).headD 0) (if act.isSome then 15 else 24)
          (els.map fun q => (q.2, (x.sfV act q.1 q.2).2.v, (x.sfV act q.1 q.2).2.sat))
        o.1 ++ [(argVa a 0x98 + 8 * (els.map (·.1)).headD 0, o.2.1.bytes)]
      else els.flatMap fun q => (x.putV (x.sfV act q.1 q.2).2 q.1 q.2).1
    x.outListOk c0 cn = true → x.inListOk c0 cn = true → two reads (writeRanges ws) → completes (.sfEval k n false) s fun t => s.m.wroteAs t k ws
      ∧ t.unitRan k e (if dyn then x.d.m24 else ceilDiv (x.d.m24 * x.cols) 128))
  ∧ (c.sfOn 0x11 n = some e → both [x.sfRange u 0 x.softCols] [(argVa a 8 + 32 * u, 32)] →
    let z : Int := if x.d.afmt = 1 then ((argQ a 0x10 % 256 : Nat) : Int) else 0
    completes (.normStats k n) s fun t => t.unitRan k e x.d.m24
      ∧ s.m.wroteAs t k [(argVa a 8 + 32 * u, normRecBytes (normStats ((List.range x.softCols).map fun j => x.sfCode u j - z)))])
  ∧ (c.sfOn 0x12 n = some e → x.outListOk 0 x.cols = true → x.inListOk 0 x.cols = true →
    let nrec := bits x.d.w2 44 40
    let recs := argVa a 0x100 + u * nrec * 32
    let gam := bitAt x.d.w2 46
    let bet := bitAt x.d.w2 47
    let g0 := argVa a 0x108 + 4 * leAt a 0x120 4
    let b0 := argVa a 0x110 + 4 * leAt a 0x120 4
    let reads := [x.sfRange u 0 x.cols, (recs, nrec * 32)] ++ (if gam then [(g0, 4 * x.cols)] else []) ++ (if bet then [(b0, 4 * x.cols)] else [])
      ++ (if x.d.imode = 2 then [(x.scaleEntry % 2 ^ 48 + 8 * u, 8)] else []) ++ x.epeReads [u] 0 x.cols
      ++ x.inListReads 0 x.cols
    let sum := normSum ((List.range nrec).map fun j => normRecOf (x.rd (recs + 32 * j) 32))
    let zh := normZh sum (bitAt x.d.w2 45) (leAt a 0x118 4) ((List.range x.cols).map fun j => x.sfCode u j - x.zRow u)
    let el (j : Nat) (h : Int) : EpiV :=
      let v := if gam then rndAway (h * sext 32 (leNat (x.rd (g0 + 4 * j) 4))) 7 else shlInt h 9
      let vb := if bet then clamp64 (v + shlInt (sext 32 (leNat (x.rd (b0 + 4 * j) 4))) (24 - x.d.bshift)) else (v, false)
      epiFromBias ⟨none, none, 0, act.map fun p => (p, x.d.actF)⟩ vb.1 vb.2
    let ws := (enumFrom 0 zh.1).flatMap fun q => (x.putV (el q.1 q.2) u q.1).1
    s.m.granted k (readsOf reads) false →
    (sum.n ≠ leAt a 0x11C 4 → c.first e = true → completes (.normApply k n false) s fun t => s.m.ended t k e.uid 0x71)
    ∧ (sum.n = leAt a 0x11C 4 → x.d.omode ≠ 2 → x.d.ofmt ≠ 3 → s.m.granted k (writesOf (writeRanges ws)) false →
        completes (.normApply k n false) s fun t => s.m.wroteAs t k ws ∧ t.unitRan k e x.d.m24))
  ∧ (c.sfOn 0x13 n = some e →
    let out := x.outRef.base + u * x.outRef.yStride
    let row := argVa a 0x98 + 8 * u
    let low : Int := if x.inFmt = 2 then -32768 else -128
    let d := (List.range x.softCols).map fun j => (x.sfCode u j - x.zRow u, !(bitAt x.d.w2 41 && x.sfCode u j = low))
    let o := softmaxRow exp2nProg (x.sfScale u) (S24.ofSlot (argQ a 0x100)) (fmtQ x.d.ofmt) d
    both ([x.sfRange u 0 x.softCols] ++ (if x.d.imode = 2 then [(x.scaleEntry % 2 ^ 48 + 8 * u, 8)] else []))
        [(out, x.softCols * fmtSize x.d.ofmt), (row, 8)] →
    completes (.softmax k n) s fun t => t.unitRan k e x.d.m24
      ∧ s.m.wroteAs t k [(out, o.1.flatMap (codeBytes x.d.ofmt)), (row, (⟨s24FromRatio 1 (fmtQ x.d.ofmt).toNat, 0, false⟩ : RowRec).bytes)])
  ∧ (c.sfOn 0x14 n = some e → ∀ f, act = some f →
    let m := x.d.w2 % 4096
    let out := argVa a 8 + u * roundUp (2 * (m + 1)) 64
    let r := tbClass f (S24.ofSlot (leNat (x.rd (argVa a 0 + 8 * u) 4))) m (x.d.w2 / 4096 % 4096)
    both [(argVa a 0 + 8 * u, 8)] [(out, 2 * (m + 1))] → completes (.tbBuild k n false) s fun t => t.unitRan k e 64
      ∧ s.m.wroteAs t k [(out, r.1.flatMap fun v => leBytes 2 v.toNat)])
  ∧ (c.sfOn 0x15 n = some e →
    let sz := fmtSize x.d.afmt
    let m := min 128 (x.d.count32 - 128 * u)
    let src := argVa a 0 + 128 * u * sz
    let out := argVa a 8 + 128 * u
    let bnd := (List.range 63).map fun j => sext 16 (leNat (x.rd (argVa a 0x10 + 2 * j) 2))
    both [(src, m * sz), (argVa a 0x10, 126)] [(out, m)] →
    (bnd.Pairwise (· ≤ ·) → completes (.tbIndex k n) s fun t => t.unitRan k e (ceilDiv x.d.count32 128)
      ∧ s.m.wroteAs t k [(out, (List.range m).map fun i =>
          BitVec.ofNat 8 (bnd.filter fun b => b ≤ codeOf x.d.afmt (x.rd (src + i * sz) sz)).length)])
    ∧ (¬bnd.Pairwise (· ≤ ·) → c.first e = true → completes (.tbIndex k n) s fun t => s.m.ended t k e.uid 0x71))

/-- R184, R185, R199, R216, R217. -/
def Obligations.TableLoads : Prop := ∀ (s : State) (k : Fin 2688) (n : Fin 2) (m : Fin 4) (e : Entry),
  let c := s.m.cl k
  let x := s.m.ctx k e
  let src := argVa e.args 0
  canonical SfSlot.atWake c.sf = true → canonical (fun _ => CtSlot.atWake) c.ct = true → s.m.errorless →
  (s.m.entryNo k e.uid = some e → c.loadOn 0x16 (0x18 + n.val) = some e →
    let i := e.d.w2 % 16
    let slot := c.sfSlot i
    let len := sfExtent (leNat (x.rd (src + 8) 2)) (leNat (x.rd (src + 5) 1))
    let b := x.rd src len
    let p := sfParse b
    let ok := sfHeaderOk b && sfStepsOk p.steps && (decide (0x100 ≤ p.progId) || (romProg p.progId).isSome)
    (slot.idleUsers ≠ 0 → completes (.tload k n) s fun t => s.m.onlyCluster t k ∧ (t.cl k).sfSlot i = { slot with waiting := true }
        ∧ t.reg .sf (k / 168) (k % 168) R.SF_LOAD_WAIT = satAdd (s.m.reg .sf (k / 168) (k % 168) R.SF_LOAD_WAIT) 1)
    ∧ (slot.idleUsers = 0 → completes (.tload k n) s fun t => s.m.onlyCluster t k ∧ s.m.regsBecome t []
        ∧ (t.cl k).sfSlot i = { slot with waiting := false, loading := true })
    ∧ (slot.idleUsers ≠ 0 → becomes (.tloadFlip k n) s s.m)
    ∧ (slot.idleUsers = 0 → s.m.granted k (readsOf [(src, len)]) false → e.holds = [] → e.captured = [] →
      (ok = true → (p.progId < 0x100 → romProg p.progId = some p) → completes (.tloadFlip k n) s fun t => s.m.ended t k e.uid 0 ∧ s.m.sameMemory t
        ∧ (t.cl k).sfSlot i = (if slot.epoch % 2 = 0
            then { slot with bank1 := p, valid1 := true, epoch := (slot.epoch + 1) % 65536, waiting := false, loading := false, source := src }
            else { slot with bank0 := p, valid0 := true, epoch := (slot.epoch + 1) % 65536, waiting := false, loading := false, source := src })
        ∧ ∀ j, j ≠ i → (t.cl k).sfSlot j = c.sfSlot j)
      ∧ (ok = false → c.first e = true → completes (.tloadFlip k n) s fun t => s.m.ended t k e.uid 0x71
          ∧ (t.cl k).sfSlot i = { slot with waiting := false, loading := false })
      ∧ (ok = true → p.progId < 0x100 → romProg p.progId ≠ some p → completes (.tloadFlip k n) s fun t => s.m.ended t k e.uid 0x42
          ∧ (t.cl k).sfSlot i = { slot with waiting := false, loading := false })))
  ∧ (s.m.entryNo k e.uid = some e → c.loadOn 0x20 (0x20 + m.val) = some e →
    let i := e.d.w2 % 4
    let slot := c.ctSlot i
    let len := e.d.w2 / 4 % 128 * roundUp (2 * (e.d.w2 / 512 % 4096 + 1)) 64
    let b := ctBankOf e (x.rd src len)
    (slot.idleUsers ≠ 0 → completes (.ctLoad k m) s fun t => s.m.onlyCluster t k ∧ (t.cl k).ctSlot i = { slot with waiting := true }
        ∧ t.reg .cc (k / 168) (k % 168) R.CC_LOAD_WAIT = satAdd (s.m.reg .cc (k / 168) (k % 168) R.CC_LOAD_WAIT) 1)
    ∧ (slot.idleUsers = 0 → completes (.ctLoad k m) s fun t => s.m.onlyCluster t k ∧ s.m.regsBecome t []
        ∧ (t.cl k).ctSlot i = { slot with waiting := false, loading := true })
    ∧ (slot.idleUsers ≠ 0 → becomes (.ctLoadFlip k m) s s.m)
    ∧ (slot.idleUsers = 0 → s.m.granted k (readsOf [(src, len)]) false → e.holds = [] → e.captured = [] →
      (ctBankOk b = true → completes (.ctLoadFlip k m) s fun t => s.m.ended t k e.uid 0 ∧ s.m.sameMemory t
        ∧ (t.cl k).ctSlot i = (if slot.epoch % 2 = 0
            then { slot with bank1 := b, epoch := (slot.epoch + 1) % 65536, waiting := false, loading := false, source := src }
            else { slot with bank0 := b, epoch := (slot.epoch + 1) % 65536, waiting := false, loading := false, source := src })
        ∧ ∀ j, j ≠ i → (t.cl k).ctSlot j = c.ctSlot j)
      ∧ (ctBankOk b = false → c.first e = true → completes (.ctLoadFlip k m) s fun t => s.m.ended t k e.uid 0x71
          ∧ (t.cl k).ctSlot i = { slot with waiting := false, loading := false })))
  ∧ (∀ r : Fin 16,
    ((c.sfSlot r).bad = true → completes (.slotParityRewrite k false r) s fun t => s.m.onlyCluster t k ∧ t.regs = s.m.regs
      ∧ (t.cl k).ct = c.ct ∧ (∀ j, j ≠ r.val → (t.cl k).sfSlot j = c.sfSlot j)
      ∧ (let y := (t.cl k).sfSlot r
        let bank := if y.epoch % 2 = 0 then y.bank0 else y.bank1
        y.bad = false ∧ y.epoch = (c.sfSlot r).epoch ∧ (r.val = 0 → bank = tanhProg) ∧ (r.val = 1 → bank = logisticProg)))
    ∧ ((c.sfSlot r).bad = false → becomes (.slotParityRewrite k false r) s s.m)
    ∧ ((c.ctSlot r).bad = true → completes (.slotParityRewrite k true r) s fun t => s.m.onlyCluster t k ∧ t.regs = s.m.regs
      ∧ (t.cl k).sf = c.sf ∧ (∀ j, j ≠ r.val → (t.cl k).ctSlot j = c.ctSlot j)
      ∧ ((t.cl k).ctSlot r).bad = false ∧ ((t.cl k).ctSlot r).epoch = (c.ctSlot r).epoch)
    ∧ ((c.ctSlot r).bad = false → becomes (.slotParityRewrite k true r) s s.m))

/-- R206, R212, R218 to R224. -/
def Obligations.CoderChunks : Prop := ∀ (s : State) (k : Fin 2688) (n : Fin 5) (e : Entry),
  let c := s.m.cl k
  let x := s.m.ctx k e
  let b := s.m.ctBank k e
  let u := e.run.units
  let a := e.args
  let r0 := argVa a 0x10
  s.m.errorless → s.m.entryNo k e.uid = some e →
  (c.ccOn 0x21 n = some e →
    let total := ceilDiv x.d.count32 x.d.chunkSyms
    let first := u * x.d.chunkSyms
    let m := min x.d.chunkSyms (x.d.count32 - first)
    let limit := argQ a 0x18 % 2 ^ 32
    let last := decide (u + 1 = total)
    let cs := x.classes first m
    let r := encChunk b x.d.lanesLog2 first last ((x.symbols first m).zip cs)
    let off := 64 + roundUp (4 * total) 8 + sumNat (e.run.chunks.map (·.length))
    let whole := recordOf x b e.epoch (x.rd (argVa a 0x20) 16) (e.run.chunks ++ [r.1])
    let ws := [(r0 + off, r.1)] ++ (if last then [(r0 + 64, (whole.take (64 + roundUp (4 * total) 8)).drop 64), (r0, whole.take 64)] else [])
    s.m.granted k (readsOf ([(argVa a 0 + first * x.symSize, m * x.symSize)] ++ x.classRange first m ++ (if last then [(argVa a 0x20, 16)] else []))
      ++ writesOf [(r0, limit)]) false →
    ((∃ v, v ∈ cs ∧ b.k ≤ v) → c.first e = true → completes (.ransEnc k n false) s fun t => s.m.ended t k e.uid 0x71)
    ∧ ((∀ v, v ∈ cs → v < b.k) → limit < off + r.1.length → completes (.ransEnc k n false) s fun t => s.m.ended t k e.uid 0x40)
    ∧ ((∀ v, v ∈ cs → v < b.k) → off + r.1.length ≤ limit → completes (.ransEnc k n false) s fun t => s.m.wroteAs t k ws ∧ t.unitRan k e total
        ∧ ∃ y, t.entryNo k e.uid = some y ∧ y.run.chunks = e.run.chunks ++ [r.1] ∧ y.run.aux0 = e.run.aux0 + r.2))
  ∧ (c.ccOn 0x22 n = some e →
    let fits := s.m.recFits k x
    let len := if fits then x.recLen else 64
    let r := x.rd r0 len
    let cc := leAt r 24 2
    let cs := leAt r 28 4
    let first := u * cs
    let m := min cs (x.d.count32 - first)
    let o := leAt r (64 + 4 * u) 4
    let ch := sliceBytes r o (16 + 4 * 2 ^ min 8 (leAt r (o + 8) 1) + leAt r o 4)
    let last := decide (u + 1 = cc)
    let cls := x.classes first m
    let d := decChunk b (x.d.symFmt = 1) ch u cs x.d.count32 cc cls
    let syms := match d with
      | some q => q.1
      | none => List.replicate m 0
    let marks := e.run.chunks ++ [[if d.isNone then 1 else 0]]
    let bitmap := (List.range (ceilDiv cc 8)).map fun j => BitVec.ofNat 8
      (sumNat ((List.range 8).map fun i => if marks.getD (8 * j + i) [] == [1] then 2 ^ i else 0))
    let out := argVa a 0 + first * x.symSize
    let ws := [(out, syms.flatMap fun v => leBytes x.symSize (wrapN (8 * x.symSize) v))] ++ (if last then [(argVa a 0x28, bitmap)] else [])
    s.m.granted k (readsOf [(r0, len)]) false →
    (u = 0 → (fits && recordOk x b e.epoch r) = false → completes (.ransDec k n false) s fun t => s.m.ended t k e.uid 0x42
        ∧ t.reg .cc (k / 168) (k % 168) R.CC_CHECK_FAIL = satAdd (s.m.reg .cc (k / 168) (k % 168) R.CC_CHECK_FAIL) 1)
    ∧ (u ≠ 0 ∨ (fits && recordOk x b e.epoch r) = true →
        s.m.granted k (readsOf (x.classRange first m) ++ writesOf ([(out, m * x.symSize)] ++ (if last then [(argVa a 0x28, ceilDiv cc 8)] else []))) false →
      ((∃ v, v ∈ cls ∧ b.k ≤ v) → c.first e = true → completes (.ransDec k n false) s fun t => s.m.ended t k e.uid 0x71)
      ∧ ((∀ v, v ∈ cls → v < b.k) → completes (.ransDec k n false) s fun t => s.m.wroteAs t k ws ∧ t.unitRan k e cc
        ∧ ∃ y, t.entryNo k e.uid = some y ∧ y.run.chunks = marks ∧ y.run.aux1 = e.run.aux1 + b2n d.isNone
          ∧ y.run.status = if d.isNone then statusJoin e.run.status 0x50 else e.run.status)))

/-- R298, R299, R302, R305: what a whole barge moves. -/
def Obligations.BargesMoveElements : Prop := ∀ (s : State) (k : Fin 2688) (uid : Nat) (b : Barge),
  let kd := k.val / 168
  let kp := k.val % 168
  let el (i : Nat) : Option Elem := s.m.bargeElem b i
  let srcAt (e : Elem) (j : Nat) : Nat := s.m.dpaOf kd kp (e.src + j)
  let dstAt (e : Elem) (j : Nat) : Nat := s.m.dpaOf kd kp (e.dst + j)
  s.m.errorless → s.m.barge k uid = some b → b.st = .active → b.preempt = false → b.cancel = none → b.elem = 0 → b.off = 0 → b.out = [] → b.hit = none →
  b.op = 0x40 ∨ b.op = 0x41 → el 0 ≠ none →
  (∀ i e, el i = some e → 1 ≤ e.len ∧ e.len ≤ 2 ^ 20 ∧ s.m.granted k (readsOf [(e.src, e.len)] ++ writesOf [(e.dst, e.len)]) false) →
  (∀ i e i' e' j j', el i = some e → el i' = some e' → j < e.len → j' < e'.len →
    dstAt e j ≠ srcAt e' j' ∧ (dstAt e j = dstAt e' j' → i = i' ∧ j = j')) →
  completes (if b.op = 0x40 then .strided k uid else .gather k uid) s fun t =>
    (∃ y, t.barge k uid = some y ∧ y.st = .draining ∧ y.out = [] ∧ el y.elem = none)
    ∧ (∀ i e j, el i = some e → j < e.len → t.byteAt (dstAt e j) = s.m.byteAt (srcAt e j))
    ∧ (∀ x, memPlace x = true → (∀ i e j, el i = some e → j < e.len → x ≠ dstAt e j) → t.byteAt x = s.m.byteAt x)
    ∧ s.m.sameBut t [.clusters, .regs, .mem, .undef, .drovers, .stackTab] ∧ ∀ j, j ≠ k.val → t.cl j = s.m.cl j

/-- R300, R301, R304, R305, R318, R321, R323. -/
def Obligations.BargeSteps : Prop := ∀ (s : State) (k : Fin 2688) (uid : Nat) (b : Barge),
  let c := s.m.cl k
  let kd := k.val / 168
  let kp := k.val % 168
  s.m.barge k uid = some b →
  (s.m.clusterOn kd kp = true → b.st = .queued → b.preempt = false → b.depsDone = true → c.bargesOut < 64 → b.op = 0x40 → b.cls < 2 →
      b.srcLock = false → b.dstLock = false → s.m.bargeElem b 0 ≠ none → (s.m.die kd).once = [] →
    (s.m.bargeOverlaps b = false → completes (.bargeBind k uid) s fun t => s.m.sameMemory t ∧ t.regs = s.m.regs ∧ (t.cl k).tags = c.tags
      ∧ ∃ y, t.barge k uid = some y ∧ y.st = .active ∧ y.started = true ∧ y.desc = b.desc ∧ y.elem = b.elem ∧ y.out = b.out)
    ∧ (s.m.bargeOverlaps b = true → completes (.bargeBind k uid) s fun t => s.m.bargeEnded t k uid 0x71
      ∧ t.reg .be kd kp R.BE_DESC_REFUSED = satAdd (s.m.reg .be kd kp R.BE_DESC_REFUSED) 1))
  ∧ (∀ l x, s.m.clusterOn kd kp = true → b.st = .binding → b.preempt = false → b.srcLock = true → b.src = none → b.dstLock = false →
      s.m.bargeLock k b.srcField = some l → s.m.nextFilled l b.slot = some x → s.m.bargeOverlaps { b with src := some (l, x.seq) } = false →
      completes (.bargeBind k uid) s fun t => s.m.sameMemory t
        ∧ (∃ y, t.barge k uid = some y ∧ y.src = some (l, x.seq) ∧ y.st ≠ .binding)
        ∧ ∀ z, z ∈ (t.lock l).blks → z.seq = x.seq → bitAt z.taken b.slot = true)
  ∧ (∀ e w, s.m.clusterOn kd kp = true → c.barges = [b] → s.m.untraced → b.st = .active → b.preempt = false → b.cancel = none → b.cls < 3 → b.out.length < 1024 →
      s.m.bargeElem b b.elem = some e → 1 ≤ e.len → e.len ≤ 2 ^ 20 → s.m.nextReq b = some w →
      (b.cls = 2 → s.m.granted k (readsOf [(e.src, e.len)] ++ writesOf [(e.dst, e.len)]) false) →
      s.m.granted k (readsOf [(w.src, w.len)] ++ writesOf [(w.dst, w.len)]) false →
      completes (.bargeRequestGrant k) s fun t => s.m.sameMemory t ∧ ∃ y rest, t.barge k uid = some y ∧ rest.length ≤ 1
        ∧ y.out = b.out ++ [⟨b.elem, w.src, s.m.dpaOf kd kp w.src, w.dst, s.m.dpaOf kd kp w.dst, w.len⟩] ++ rest
        ∧ w.len = min (e.len - b.off) (min (256 - w.src % 256) (65536 - w.dst % 65536)))
  ∧ (∀ n r, b.out[n]? = some r → (∀ i, i < r.len → memPlace (r.src + i) = true) → memPlace r.src = true → memPlace r.dstDpa = true → s.m.oneBit = [] → b.hit = none →
    let moved (t : Dev) : Prop := (∀ x, memPlace x = true →
        t.byteAt x = if r.dstDpa ≤ x ∧ x < r.dstDpa + r.len then s.m.byteAt (r.src + (x - r.dstDpa)) else s.m.byteAt x)
      ∧ t.reg .be kd kp R.BE_RD_BLOCKS = satAdd (s.m.reg .be kd kp R.BE_RD_BLOCKS) 1
      ∧ ∃ y, t.barge k uid = some y ∧ y.out = b.out.eraseIdx n ∧ y.elem = b.elem ∧ y.cancel = b.cancel
    (b.cancel ≠ some 0x30 → b.cancel ≠ some 0x32 → s.m.bad = [] → s.m.clashes b r = [] → completes (.readResponse k uid n .ok) s moved)
    ∧ (b.cancel ≠ some 0x30 → b.cancel ≠ some 0x32 → s.m.bad = [] → s.m.clashes b r = [] → s.m.untraced → completes (.readResponse k uid n .retried) s fun t => moved t
        ∧ (∃ y, t.barge k uid = some y ∧ y.retried = true)
        ∧ t.reg .be kd kp R.BE_RETRIES = satAdd (s.m.reg .be kd kp R.BE_RETRIES) 1)
    ∧ (b.cancel = some 0x30 ∨ b.cancel = some 0x32 → ∀ a, completes (.readResponse k uid n a) s fun t => s.m.sameMemory t
        ∧ (∃ y, t.barge k uid = some y ∧ y.out = b.out.eraseIdx n)
        ∧ t.reg .be kd kp R.BE_DROPPED_RESP = satAdd (s.m.reg .be kd kp R.BE_DROPPED_RESP) 1)
    ∧ (b.st = .active ∨ b.st = .draining → b.cancel = none → b.halted = false → b.cls < 2 → s.m.readBad r.src r.len = true → s.m.replayable b.cmd = false →
        s.m.untraced → ∀ a, completes (.readResponse k uid n a) s fun t => s.m.sameMemory t
          ∧ ∃ y, t.barge k uid = some y ∧ y.st = .draining ∧ y.out = b.out.eraseIdx n ∧ y.elem ≤ r.elem
            ∧ (b.out.length = 1 → y.cancel = some 0x20 ∧ y.cause = 5 ∧ y.indet = !b.dstLock) ∧ (b.out.length ≠ 1 → y.cancel = none ∧ y.hit ≠ none))
    ∧ (b.st = .active ∨ b.st = .draining → b.cancel = none → b.halted = false → b.cls = 2 → s.m.readBad r.src r.len = true → s.m.untraced →
        ∀ a, completes (.readResponse k uid n a) s fun t => s.m.sameMemory t
          ∧ (∃ y, t.barge k uid = some y ∧ y.st = .draining ∧ y.halted = true ∧ y.cancel = none ∧ y.out = b.out.eraseIdx n)
          ∧ t.reg .be kd kp R.BE_PREFETCH_HALT = satAdd (s.m.reg .be kd kp R.BE_PREFETCH_HALT) 1))
  ∧ (b.st = .draining → b.out = [] → b.src = none → b.dst = none → b.preempt = false → b.hit = none →
      completes (.bargeComplete k uid) s fun t => s.m.sameMemory t ∧ s.m.bargeEnded t k uid (match b.cancel with
        | some x => x
        | none => if b.spared then 0x21 else if b.retried then 0x03 else 0))
  ∧ (b.st ≠ .draining ∨ b.out ≠ [] → becomes (.bargeComplete k uid) s s.m)

/-- R311, R313, R314, R316, R317, R328, R329. -/
def Obligations.LockRegistersAndGrants : Prop := ∀ (s : State) (d : Fin 16) (i : Fin 11776) (p : Fin 168) (v : BitVec 32)
    (onDie : Bool) (a : Fin 2688) (n : Fin 1024) (slot : Fin 8),
  let l := lockOf d i
  let old := s.m.lockReg l R.LK_CFG
  let x := s.m.lock l
  let on := s.m.blockOn .lock d i
  let lim := s.m.lockReg l R.LK_LIMITS
  let ring := bitAt v.toNat 1
  let can : Prop := if ring then lim % 65536 ≠ 0 ∧ s.m.lockReg l R.LK_SIZE % 2 ^ 20 ≠ 0
    else lim / 65536 ≤ lim % 65536 ∧ s.m.poolReserved l.at_ + lim / 65536 ≤ s.m.poolBlocks l.at_
      ∧ s.m.poolBase l.at_ + s.m.poolBlocks l.at_ * s.m.poolBlock l.at_ ≤ 0x800000
  let refused : Prop := (bitAt old 0 = true ∧ v.toNat / 2 % 16 ≠ old / 2 % 16)
    ∨ (bitAt old 0 = true ∧ bitAt v.toNat 0 = false ∧ (x.blks ≠ [] ∨ x.prodWait ≠ [] ∨ x.consWait ≠ []))
    ∨ (bitAt old 0 = false ∧ bitAt v.toNat 0 = true ∧ ¬can) ∨ (l.die = true ∧ ring = false)
  let cfg := regAddr .lock l.dieOf l.idx R.LK_CFG
  s.sound = true → canonical (fun _ => Lock.reset) (if l.die then (s.m.die l.at_).locks else (s.m.cl l.at_).locks) = true →
  (on = true → refused → completes (.lkCfgWrite d i v) s fun t => s.m.sameBut t [.regs] ∧ s.m.regsBecome t [(cfg, old ||| 32)])
  ∧ (on = true → ¬refused → completes (.lkCfgWrite d i v) s fun t => s.m.sameMemory t ∧ (t.lock l).blks = x.blks
      ∧ s.m.regsBecome t [(cfg, (if bitAt v.toNat 5 then 0 else old / 32 % 2 * 32) + v.toNat % 32)]
      ∧ (bitAt old 0 = false → bitAt v.toNat 0 = true → (t.lock l).nextIdx = 0))
  ∧ (on = false → becomes (.lkCfgWrite d i v) s s.m ∧ becomes (.lkCtrlRearm d i v) s s.m)
  ∧ (on = true → completes (.lkCtrlRearm d i v) s fun t => t.regs = s.m.regs ∧ s.m.sameMemory t
      ∧ t.lock l = { x with drain := x.drain &&& (255 - v.toNat % 256) })
  ∧ (s.m.clusterOn d p = true →
      ((s.m.poolLocks (ck d p)).isEmpty = true ∧ v.toNat % 8 ≠ 7 ∧ v.toNat / 8 % 65536 = 0 →
        becomes (.csPoolCfgWrite d p v) s (s.m.put .lk d p R.CS_POOL_CFG (v.toNat % 2 ^ 26)))
      ∧ ((s.m.poolLocks (ck d p)).isEmpty = false → becomes (.csPoolCfgWrite d p v) s s.m))
  ∧ (let m : LockId := ⟨onDie, a.val, n.val⟩
    let y := s.m.lock m
    (takers y.prodWait = [] → becomes (.lockProducerGrant onDie a n) s s.m)
    ∧ ((∀ w, w ∈ takers y.consWait → w.slot ≠ slot.val) ∨ s.m.nextFilled m slot = none → becomes (.lockConsumerGrant onDie a n slot) s s.m)
    ∧ (∀ w uid b idx, firstWaiter (takers y.prodWait) = some w → w.who = .barge uid → s.m.barge w.cl uid = some b → b.st = .binding → b.preempt = false →
        s.m.clusterOn (w.cl / 168) (w.cl % 168) = true → b.srcLock = false → b.dstLock = true → b.dst = none → s.m.bargeLock w.cl b.dstField = some m →
        y.againBlk b.cmd = none → s.m.canProduce m = some idx → s.m.mustYield m (.barge uid) w.cl b.prio w.since = false →
        y.prodWait.find? (fun z => z.who == .barge uid && z.cl == w.cl) = some w →
        (∀ q, q ∈ y.blks → q.seq ≠ y.seq) → ((takeBlock m idx b.cmd).run s.m).bargeOverlaps { b with dst := some (m, y.seq) } = false →
        completes (.lockProducerGrant onDie a n) s fun t =>
          ∃ q, q ∈ (t.lock m).blks ∧ q.seq = y.seq ∧ q.idx = idx ∧ q.filled = false ∧ q.producer = b.cmd
            ∧ ∀ z, t.barge w.cl uid = some z → z.dst = some (m, y.seq))
    ∧ (∀ w uid b q, (takers y.consWait).find? (fun z => z.slot = slot.val) = some w → w.who = .barge uid → s.m.barge w.cl uid = some b →
        b.st = .binding → b.preempt = false → s.m.clusterOn (w.cl / 168) (w.cl % 168) = true → b.srcLock = true → b.src = none → b.dstLock = false →
        b.slot = slot.val → s.m.bargeLock w.cl b.srcField = some m → s.m.nextFilled m slot = some q →
        s.m.bargeOverlaps { b with src := some (m, q.seq) } = false →
        completes (.lockConsumerGrant onDie a n slot) s fun t => ∃ z, t.barge w.cl uid = some z ∧ z.src = some (m, q.seq)))
  ∧ (let at_ := s.m.clock + (10000 - s.m.clock % 10000)
    let ctl := s.m.reg .aoc 20 0 R.AOC_WAITDET_CTRL
    let edges := s.m.waitGraph.map fun e => match s.m.aoc.waitEdges.find? (fun o => o.1 == e.1 && o.2.1 == e.2) with
      | some o => o
      | none => (e.1, e.2, at_)
    let old := (edges.filter fun o => o.2.2 + ctl / 65536 % 16384 * 10000 ≤ at_).map fun o => (o.1, o.2.1)
    (ctl % 2 = 0 → becomes .waitdetEvaluate s { s.m with clock := at_, aoc := { s.m.aoc with waitEdges := [] } })
    ∧ (ctl % 2 = 1 → (∀ e, e ∈ old → onCycle old e.1 = false) →
        becomes .waitdetEvaluate s { s.m with clock := at_, aoc := { s.m.aoc with waitEdges := edges } })
    ∧ (ctl % 2 = 1 → (∃ e, e ∈ old ∧ onCycle old e.1 = true) → (∀ e, e ∈ old → (s.m.cmdOf e.1).isSome = true) →
        completes .waitdetEvaluate s fun t => t.clock > at_ ∧ t.clock ≤ at_ + 2560
          ∧ t.reg .aoc 20 0 R.AOC_WAITDET_ABORTS = satAdd (s.m.reg .aoc 20 0 R.AOC_WAITDET_ABORTS) 1))

/-- R337 to R341, R344. -/
def Obligations.StackUpkeep : Prop := ∀ (s : State) (n : Fin 32) (row : Fin 50331648) (temp : Fin 256) (g : Fin 48) (v : BitVec 32),
  let x := s.m.stk n
  let d := n.val / 2
  let j := n.val % 2
  let on := s.m.domOn (64 + n.val)
  let ctl := s.m.reg .stk d j R.STK_SCRUB_CTRL
  let limit := ctl / 512 % 16
  let blocks := s.m.rowBlocks n row
  let hits := (blocks.map fun b => (touched s.m.oneBit b 256).length).foldl (· + ·) 0
  let count := (if row.val = 0 then 0 else sget (fun _ => 0) x.ceRows row) + hits
  let st := s.m.reg .stk d j R.STK_STATUS
  let o := s.m.reg .span 20 0 (4 * g.val)
  let span (w : Nat) : Dev := s.m.put .span 20 0 (4 * g.val) w
  s.sound = true →
  (on = true → bitAt ctl 8 = true → s.m.untraced → (∀ u, u ∈ s.m.oneBit → u % 64 = 0) → hits ≠ 0 → completes (.scrubRead n row) s fun t => s.m.sameMemory t ∧ t.bad = s.m.bad
      ∧ (∀ u, u ∈ t.oneBit ↔ u ∈ s.m.oneBit ∧ ∀ b, b ∈ blocks → ¬(u < b + 256 ∧ b < u + unitLen u))
      ∧ sget (fun _ => 0) (t.stk n).ceRows row = count
      ∧ (row.val ∈ (t.stk n).sparing ↔ row.val ∈ x.sparing ∨ (limit ≠ 0 ∧ limit ≤ count ∧ s.m.canSpare n row = true))
      ∧ t.reg .stk d j R.STK_ECC_CE = satAdd (s.m.reg .stk d j R.STK_ECC_CE) hits ∧ t.logNext = s.m.logNext + hits)
  ∧ (on = false ∨ bitAt ctl 8 = false → becomes (.scrubRead n row) s s.m)
  ∧ (on = true → row.val ∈ x.sparing → s.m.canSpare n row = true → s.m.untraced → completes (.patrolRowSpare n row) s fun t =>
      (∀ a, memPlace a = true → t.byteAt a = s.m.byteAt a) ∧ row.val ∈ (t.stk n).spared ∧ row.val ∉ (t.stk n).sparing
      ∧ (t.stk n).listUsed = x.listUsed + 1
      ∧ (∃ slot, s.m.listSlot n = some slot ∧ t.byteAt (mramAddr d + 0x6000 + j * 4096 + 8 * slot + 6) = 0x5A ∧ slotFree (t.bytesAt (repairAddr n slot) 8) = false)
      ∧ t.reg .stk d j R.STK_SPARED_ROWS = satAdd (s.m.reg .stk d j R.STK_SPARED_ROWS) 1 ∧ t.logNext = s.m.logNext + 1)
  ∧ (on = true → row.val ∈ x.sparing → s.m.canSpare n row = false → completes (.patrolRowSpare n row) s fun t =>
      s.m.sameBut t [.stackTab] ∧ ∀ i, t.stk i = if i = n.val then { x with sparing := ndel x.sparing row } else s.m.stk i)
  ∧ (on = false ∨ row.val ∉ x.sparing → becomes (.patrolRowSpare n row) s s.m)
  ∧ (on = true → temp.val < 110 → x.refresh ≤ 2 → completes (.stackTempSample n temp) s fun t => s.m.sameBut t [.stackTab, .regs] ∧ (∀ i, i ≠ n.val → t.stk i = s.m.stk i)
      ∧ (∃ nx, t.stk n = { x with temp := temp.val, refreshNext := nx, thermAlert := decide (105 < temp.val) }
        ∧ (95 < temp.val → nx = 2) ∧ (85 ≤ temp.val → temp.val ≤ 93 → nx = 1) ∧ (93 < temp.val → temp.val ≤ 95 → nx = if x.refresh = 2 then 2 else 1)
        ∧ (temp.val < 83 → nx = 0) ∧ (83 ≤ temp.val → temp.val < 85 → nx = if x.refresh = 0 then 0 else 1))
      ∧ s.m.regsBecome t [(regAddr .stk d j R.STK_STATUS, setBits (setBits st 7 0 temp.val) 11 11 (b2n (decide (105 < temp.val))))])
  ∧ (on = false → becomes (.stackTempSample n temp) s s.m)
  ∧ (on = true → x.refresh ≠ x.refreshNext → completes (.refreshIntervalChange n) s fun t => s.m.sameBut t [.stackTab, .regs]
      ∧ (∀ i, t.stk i = if i = n.val then { x with refresh := x.refreshNext } else s.m.stk i)
      ∧ s.m.regsBecome t [(regAddr .stk d j R.STK_STATUS, setBits st 9 8 x.refreshNext)])
  ∧ (on = false ∨ x.refresh = x.refreshNext → becomes (.refreshIntervalChange n) s s.m)
  ∧ (let mode := v.toNat % 4
    let now := o % 4
    let err := if bitAt o 6 && !bitAt v.toNat 6 then 64 else 0
    let closed := if bitAt v.toNat 4 then 16 else 0
    let drained := if bitAt o 5 && bitAt v.toNat 4 then 32 else 0
    (g.val < 46 → mode = now → becomes (.memSpanModeWrite g v) s (span (err + drained + closed + now)))
    ∧ (g.val < 46 → mode ≠ now → bitAt o 5 = false ∨ mode = 3 → becomes (.memSpanModeWrite g v) s (span (64 + drained + closed + now)))
    ∧ (g.val < 46 → mode ≠ now → bitAt o 5 = true → mode ≠ 3 → completes (.memSpanModeWrite g v) s fun t =>
        s.m.regsBecome t [(regAddr .span 20 0 (4 * g.val), err + drained + closed + mode)]
        ∧ s.m.sameBut t [.regs, .mem, .undef, .free, .bad, .oneBit, .stackTab]
        ∧ (∀ a, memPlace a = true → t.byteAt a = if a / 2 ^ 35 = g.val then Config.freeByte s.m.free a else s.m.byteAt a))
    ∧ (46 ≤ g.val → mode = now → bitAt v.toNat 4 = bitAt o 4 → becomes (.memSpanModeWrite g v) s
        (span (err + (if bitAt o 5 then 32 else 0) + closed + now)))
    ∧ (46 ≤ g.val → mode ≠ now ∨ bitAt v.toNat 4 ≠ bitAt o 4 → becomes (.memSpanModeWrite g v) s
        (span (64 + (if bitAt o 5 then 32 else 0) + (if bitAt o 4 then 16 else 0) + now)))
    ∧ (let busy : Prop := ∃ c, c ∈ s.m.clusters ∧ ∃ b, b ∈ c.2.barges ∧ ∃ r, r ∈ b.out ∧ (r.src / 2 ^ 35 = g.val ∨ r.dstDpa / 2 ^ 35 = g.val)
      (bitAt o 4 = true ∧ ¬busy → becomes (.spanDrained g) s (span (setBits o 5 5 1)))
      ∧ (¬(bitAt o 4 = true ∧ ¬busy) → becomes (.spanDrained g) s s.m)))

/-- R345 to R355. -/
def Obligations.TranslationAndFaultQueue : Prop := ∀ (s : State) (d : Fin 16) (n : Nat) (v : BitVec 32),
  let m := s.m.die d
  let on := s.m.domOn (4 * d.val)
  s.sound = true →
  (∀ w, m.walks[n]? = some w →
    let k := d.val * 168 + w.unit.p
    let root := s.m.fld .dmmu 20 0 R.DMMU_ROOT_LO 31 12 * 4096 + s.m.fld .dmmu 20 0 R.DMMU_ROOT_HI 13 0 * 2 ^ 32
    w.unit.kind < 6 → w.unit.p < 168 → s.m.errorless → (∀ a, a ∈ s.m.walkReads w.va 4 0 root → s.m.reachAt a = .ok) →
    (∀ e, s.m.walk w.va w.access = .leaf e → completes (.pageWalk d n) s fun t => s.m.sameMemory t
      ∧ (∀ j, j ≠ k → t.cl j = s.m.cl j) ∧ t.log = s.m.log ∧ (t.die d).walks = m.walks.eraseIdx n
      ∧ (w.stale = false → t.cl k = (s.m.cl k).fill e ∧ (t.die d).tlb = tlbFill 4096 m.tlb e ∧ (t.die d).once = m.once)
      ∧ (w.stale = true → t.cl k = s.m.cl k ∧ (t.die d).tlb = m.tlb ∧ (t.die d).once = m.once ++ [(w.unit, { e with once := true })]))
    ∧ (∀ cause level e, s.m.walk w.va w.access = .fault cause level → cause ≠ 4 → w.demand = true → 2 ≤ w.unit.kind → w.unit.kind ≤ 4 →
        s.m.entryNo k w.unit.uid = some e → isHalf e.target = false → s.m.untraced → completes (.pageWalk d n) s fun t => (t.die d).walks = m.walks.eraseIdx n
          ∧ t.entryNo k w.unit.uid = some { e with stage := .faulted, run := e.rewound (s.m.ctx k e).colTiles (s.m.cl k).doneTiles }
          ∧ (let r : FaultRec := ⟨e.unitOf k w.unit.index, e.tag, queueOf e.cmd, w.va, cause, level, w.access, false⟩
            if m.fq.length < 64 ∧ m.backlog = [] then (t.die d).fq = m.fq ++ [r] ∧ (t.die d).backlog = []
            else (t.die d).fq = m.fq ∧ (t.die d).backlog = m.backlog ++ [r])))
  ∧ (m.walks[n]? = none → becomes (.pageWalk d n) s s.m)
  ∧ (∀ r rest, m.backlog = r :: rest → m.fq.length < 64 → completes (.faultBacklogPost d) s fun t => s.m.sameBut t [.dies, .regs]
      ∧ (∀ j, t.die j = if j = d.val then { m with fq := m.fq ++ [r], backlog := rest } else s.m.die j)
      ∧ s.m.regsBecome t [(regAddr .fq d 0 R.DMMU_FAULTS, satAdd (s.m.reg .fq d 0 R.DMMU_FAULTS) 1)])
  ∧ (m.backlog = [] ∨ 64 ≤ m.fq.length → becomes (.faultBacklogPost d) s s.m)
  ∧ (on = false ∨ m.fq = [] → becomes (.faultResume d) s s.m ∧ becomes (.faultKill d) s s.m)
  ∧ (∀ r rest, on = true → m.fq = r :: rest →
    let popped (t : Dev) : Prop := ∀ j, t.die j = if j = d.val then { m with fq := rest } else s.m.die j
    let k := d.val * 168 + r.unit.p
    (r.withdrawn = true → completes (.faultResume d) s (fun t => s.m.sameBut t [.dies] ∧ popped t) ∧ completes (.faultKill d) s fun t => s.m.sameBut t [.dies] ∧ popped t)
    ∧ (∀ e, r.withdrawn = false → 2 ≤ r.unit.kind → r.unit.kind ≤ 4 → s.m.entryNo k r.unit.uid = some e → e.stage = .faulted →
        completes (.faultResume d) s (fun t => s.m.sameBut t [.dies, .clusters] ∧ popped t ∧ (∀ j, j ≠ k → t.cl j = s.m.cl j)
          ∧ t.entryNo k r.unit.uid = some { e with stage := .queued })
        ∧ completes (.faultKill d) s fun t => (t.die d).fq.length = rest.length
          ∧ s.m.ended t k r.unit.uid (if r.cause = 3 then 0x11 else if r.cause = 4 then 0x20 else 0x10)))
  ∧ (let o := s.m.reg .dmmu 20 0 R.DMMU_ROOT_LO
    let h := s.m.reg .dmmu 20 0 R.DMMU_ROOT_HI
    (bitAt o 0 = true ∧ v.toNat / 4096 ≠ o / 4096 → becomes (.dmmuRootWrite false v) s (s.m.put .dmmu 20 0 R.DMMU_ROOT_LO (setBits o 1 1 1)))
    ∧ (¬(bitAt o 0 = true ∧ v.toNat / 4096 ≠ o / 4096) → becomes (.dmmuRootWrite false v) s
        (s.m.put .dmmu 20 0 R.DMMU_ROOT_LO (v.toNat / 4096 * 4096 + (if bitAt o 1 && !bitAt v.toNat 1 then 2 else 0) + v.toNat % 2)))
    ∧ (bitAt o 0 = true ∧ v.toNat % 2 ^ 14 ≠ h % 2 ^ 14 → becomes (.dmmuRootWrite true v) s (s.m.put .dmmu 20 0 R.DMMU_ROOT_LO (setBits o 1 1 1)))
    ∧ (¬(bitAt o 0 = true ∧ v.toNat % 2 ^ 14 ≠ h % 2 ^ 14) → becomes (.dmmuRootWrite true v) s
        (s.m.put .dmmu 20 0 R.DMMU_ROOT_HI (v.toNat % 2 ^ 14))))
  ∧ (let c := s.m.reg .dmmu 20 0 R.DMMU_INV_CTRL
    let ctl := regAddr .dmmu 20 0 R.DMMU_INV_CTRL
    let va := s.m.reg .dmmu 20 0 R.DMMU_INV_ADDR_LO / 65536 * 65536 + s.m.reg .dmmu 20 0 R.DMMU_INV_ADDR_HI % 65536 * 2 ^ 32
    let len := s.m.reg .dmmu 20 0 R.DMMU_INV_PAGES * 65536
    let kept (l : List Tlb) : List Tlb := l.filter fun e => !(decide (len = 0) || (decide (e.va < va + len) && decide (va < e.va + 2 ^ e.lg)))
    (bitAt c 31 = true → completes .dmmuInvalidate s fun t => s.m.sameBut t [.regs] ∧ s.m.regsBecome t [(ctl, setBits c 29 29 1)])
    ∧ (bitAt c 31 = false → completes .dmmuInvalidate s fun t => s.m.sameBut t [.regs, .clusters, .dies]
      ∧ (∀ k, (t.cl k).tlb = kept (s.m.cl k).tlb ∧ { t.cl k with tlb := [] } = { s.m.cl k with tlb := [] })
      ∧ (∀ j, (t.die j).tlb = kept (s.m.die j).tlb ∧ (t.die j).walks = (s.m.die j).walks.map (fun w => { w with stale := true })
          ∧ (t.die j).fq = (s.m.die j).fq)
      ∧ s.m.regsBecome t [(ctl, setBits c 31 31 1)])
    ∧ (let marked : Prop := ∃ e, e ∈ s.m.dies ∧ ∃ w, w ∈ e.2.walks ∧ w.stale = true
      (bitAt c 31 = true ∧ ¬marked → completes .dmmuInvalidateDone s fun t => s.m.sameBut t [.regs, .dies]
        ∧ (∀ j, t.die j = { s.m.die j with once := [] }) ∧ s.m.regsBecome t [(ctl, setBits (setBits c 31 31 0) 30 30 1)])
      ∧ (¬(bitAt c 31 = true ∧ ¬marked) → becomes .dmmuInvalidateDone s s.m)))

/-- R359, R365, R366, R382, R392, R403, R408. -/
def Obligations.DieUnitRings : Prop := ∀ (s : State) (d : Fin 16) (n : Fin 8) (m : Fin 2) (stream : Fin 16) (v : BitVec 32),
  let pipe := s.m.pipe (pn d n)
  let slu := s.m.slu (sn d m)
  let rest : List Part := [.pipes, .sluices, .regs, .dies]
  let fetches (rb : RB) (i len : Nat) (c : Instr) (ready : Prop) (took : Dev → Nat → List Byte → Prop) : Prop :=
    let prod := s.m.reg rb d i R.BV_JOB_PROD
    let cons := s.m.reg rb d i R.BV_JOB_CONS
    let cfg := s.m.reg rb d i R.BV_RING_CFG
    let size := cfg % 16
    let va := s.m.reg rb d i R.BV_RING_BASE_LO / 4096 * 4096 + s.m.reg rb d i (R.BV_RING_BASE_LO + 4) % 65536 * 2 ^ 32 + cons % 2 ^ size * len
    ready → 2 ^ 31 ≤ cfg → prod ≠ cons →
    ((prod + 2 ^ 32 - cons) % 2 ^ 32 ≤ 2 ^ size → s.m.errorless → s.m.dieGranted d [⟨va, len, accRead⟩] → completes c s fun t =>
        s.m.sameBut t rest ∧ t.reg rb d i R.BV_JOB_CONS = (cons + 1) % 2 ^ 32 ∧ took t cons (s.m.vaBytes d 168 va len))
    ∧ (2 ^ size < (prod + 2 ^ 32 - cons) % 2 ^ 32 → completes c s fun t => s.m.sameBut t rest ∧ bitAt (t.reg rb d i R.BV_STATUS) 1 = true
        ∧ t.reg rb d i R.BV_JOB_CONS = cons)
  let writes (rb : RB) (i : Nat) (c : Instr) (record : List Byte) (done : Dev → Prop) : Prop :=
    let prod := s.m.reg rb d i R.BV_CPL_PROD
    let size := s.m.reg rb d i R.BV_CRING_CFG % 16
    let base := s.m.reg rb d i R.BV_CRING_BASE_LO / 4096 * 4096 + s.m.reg rb d i (R.BV_CRING_BASE_LO + 4) % 65536 * 2 ^ 32
    let used := (prod + 2 ^ 32 - s.m.reg rb d i R.BV_CPL_CONS) % 2 ^ 32
    (2 ^ size ≤ used → completes c s fun t => s.m.sameBut t [.regs]
      ∧ s.m.regsBecome t [(regAddr rb d i R.BV_WAIT_LOCK_SPACE, satAdd (s.m.reg rb d i R.BV_WAIT_LOCK_SPACE) 1)])
    ∧ (used < 2 ^ size → record.length = 64 → s.m.errorless →
        s.m.dieGranted d [⟨base + prod % 2 ^ size * 64, 64, accWrite⟩, ⟨base + 2 ^ size * 64, 4, accWrite⟩] → completes c s fun t =>
        s.m.wroteVa t d 168 [(base + prod % 2 ^ size * 64, record), (base + 2 ^ size * 64, leBytes 4 ((prod + 1) % 2 ^ 32))]
        ∧ s.m.sameBut t [.pipes, .sluices, .regs, .dies, .mem, .undef, .stackTab] ∧ t.reg rb d i R.BV_CPL_PROD = (prod + 1) % 2 ^ 32 ∧ done t)
  s.sound = true →
  fetches .bv n 128 (.bvJobFetch d n) (s.m.bvUp d n = true ∧ pipe.ringStop = false ∧ pipe.active < 4
      ∧ ∀ y, y ∈ pipe.jobs → y.cnt ≠ s.m.reg .bv d n R.BV_JOB_CONS)
    (fun t cnt b => (t.pipe (pn d n)).streams = pipe.streams
      ∧ (bvOpOk (leAt b 0 1) = true → (t.pipe (pn d n)).jobs = pipe.jobs ++ [BvJob.new cnt b])
      ∧ (bvOpOk (leAt b 0 1) = false → (∃ y, y ∈ (t.pipe (pn d n)).jobs ∧ y.cnt = cnt ∧ y.bytes = b ∧ y.st = .done ∧ y.status = 0x71)
        ∧ t.reg .bv d n R.BV_DESC_REFUSED = satAdd (s.m.reg .bv d n R.BV_DESC_REFUSED) 1))
  ∧ fetches .sl m 64 (.slJobFetch d m) (s.m.slUp d m = true ∧ s.m.slPre d m = false ∧ slu.job = none ∧ slu.ringStop = false)
    (fun t cnt b => (t.slu (sn d m)).job = some ⟨cnt, b, 0, [], 0, 0, false, false, none, [], 0⟩)
  ∧ (∀ j, pipe.ended = some j → s.m.bvUp d n = true → writes .bv n (.bvCompletionWrite d n) j.record fun t =>
      (t.pipe (pn d n)).jobs = pipe.jobs.filter fun x => !(x.cnt == j.cnt))
  ∧ (∀ j r, slu.job = some j → j.record = some r → s.m.slUp d m = true → writes .sl m (.slCompletionWrite d m) r fun t => (t.slu (sn d m)).job = none)
  ∧ (s.m.blockOn .bv d n = true →
    let en := 2 ^ 31 ≤ v.toNat
    let size := v.toNat % 16
    (en → ¬(4 ≤ size ∧ size ≤ 12) → becomes (.bvRingCfgWrite d n v) s
      ((s.m.put .bv d n R.BV_STATUS (setBits (s.m.reg .bv d n R.BV_STATUS) 1 1 1)).put .bv d n R.BV_RING_CFG size))
    ∧ (¬en → becomes (.bvRingCfgWrite d n v) s (s.m.put .bv d n R.BV_RING_CFG size))
    ∧ (en → 4 ≤ size → size ≤ 12 → completes (.bvRingCfgWrite d n v) s fun t => s.m.sameBut t [.regs, .pipes]
        ∧ s.m.regsBecome t [(regAddr .bv d n R.BV_RING_CFG, 2 ^ 31 + size)] ∧ t.pipe (pn d n) = { pipe with ringStop := false })
    ∧ becomes (.bvCplConsWrite d n v) s (s.m.put .bv d n R.BV_CPL_CONS v.toNat)
    ∧ (let ctrl (c : Instr) (v : Nat) : Prop := completes c s fun t => s.m.sameBut t [.regs, .pipes] ∧ s.m.regsBecome t [(regAddr .bv d n R.BV_CTRL, v)]
        ∧ ∀ i, t.pipe i = if i = pn d n then { pipe with jobs := pipe.jobs.map fun j => j.budget (v == 1 || j.st == .parked) s.m.clock } else s.m.pipe i
      ctrl (.bvPreempt d n) 1 ∧ ctrl (.bvResume d n) 0)
    ∧ completes (.bvKeyReq d n stream) s fun t => s.m.sameBut t [.pipes] ∧ ∀ i, (t.pipe i).jobs = (s.m.pipe i).jobs
        ∧ (t.pipe i).streams = if i = pn d (s.m.bvLead d n) then (s.m.pipe i).streams.map fun x =>
            if x.num = stream.val ∧ x.enc = true then { x with keyReq := true } else x else (s.m.pipe i).streams)
  ∧ (s.m.blockOn .bvg d 0 = true →
    let old := s.m.reg .bvg d 0 R.BV_GROUP_CTRL
    let used (i : Nat) : Prop := ∃ j, j < 4 ∧ s.m.bvInUse d (i + j) = true
    let bad : Prop := (old % 4 ≠ v.toNat % 4 ∧ used 0) ∨ (old / 4 % 4 ≠ v.toNat / 4 % 4 ∧ used 4)
    (bad → becomes (.bvGroupCtrlWrite d v) s (s.m.put .bvg d 0 R.BV_GROUP_CTRL (2 ^ 31 + old % 16)))
    ∧ (¬bad → becomes (.bvGroupCtrlWrite d v) s (s.m.put .bvg d 0 R.BV_GROUP_CTRL
        ((if 2 ^ 31 ≤ old ∧ v.toNat < 2 ^ 31 then 2 ^ 31 else 0) + v.toNat % 16))))
  ∧ (s.m.slUp d m = true → becomes (.slPreempt d m) s (s.m.put .sl d m R.SL_CTRL 1)
    ∧ (completes (.slResume d m) s fun t => s.m.sameBut t [.regs, .sluices] ∧ s.m.regsBecome t [(regAddr .sl d m R.SL_CTRL, 0)]
      ∧ t.slu (sn d m) = { slu with stopped := false, job := if slu.stopped then slu.job.map fun j => { j with resumed := true } else slu.job }))

/-- R364, R368 to R373, R377, R378, R383, R389. -/
def Obligations.VideoJobs : Prop := ∀ (s : State) (d : Fin 16) (n : Fin 8) (j : BvJob) (x : BvStream) (blk : Nat),
  let p := s.m.pipe (pn d n)
  let m := s.m.bvMembers d n
  let ended (t : Dev) (cnt status : Nat) : Prop := ∀ y, y ∈ (t.pipe (pn d n)).jobs → y.cnt = cnt → y.st = .done ∧ y.status = status
  let refused (c : Instr) : Prop := completes c s fun t => ended t j.cnt 0x71 ∧ (t.pipe (pn d n)).streams = p.streams
    ∧ t.reg .bv d n R.BV_DESC_REFUSED = satAdd (s.m.reg .bv d n R.BV_DESC_REFUSED) 1
  let opens (c : Instr) (ok : Prop) : Prop :=
    (ok ∧ j.stream < 16 ∧ s.m.bvStream d n j.stream = none → completes c s fun t => ended t j.cnt 0
      ∧ (t.pipe (pn d n)).streams = p.streams ++ [BvStream.start j])
    ∧ (¬(ok ∧ j.stream < 16 ∧ s.m.bvStream d n j.stream = none) → refused c)
  s.sound = true → s.m.bvUp d n = true → s.m.bvPre d n = false → s.m.bvJob d n j.cnt = some j →
  (s.m.bvNext d n (· = 1) false = some j → opens (.openEnc d n) (openEncOk m j.bytes = true ∧ ((BvStream.start j).low = true → s.m.bvAdmit d n (BvStream.start j) = true)))
  ∧ (s.m.bvNext d n (· = 2) false = some j → opens (.openDec d n) (openDecOk m j.bytes = true))
  ∧ (s.m.bvNext d n (· = 0x10) false = some j →
    (s.m.bvStream d n j.stream = none → refused (.encPic d n))
    ∧ (s.m.bvStream d n j.stream = some x → ¬(x.enc = true ∧ encPicOk x j = true ∧ s.m.srcLockOk d j = true) → refused (.encPic d n))
    ∧ (s.m.bvStream d n j.stream = some x → x.enc = true → encPicOk x j = true → s.m.srcLockOk d j = true →
      (x.low = true → completes (.encPic d n) s fun t => s.m.sameBut t [.pipes]
        ∧ ∃ y, t.bvJob d n j.cnt = some y ∧ y.st = .placed ∧ y.order = x.order ∧ y.bands = ceilDiv x.height 64 ∧ y.bytes = j.bytes)
      ∧ (x.low = false → completes (.encPic d n) s fun t => s.m.sameBut t [.pipes]
        ∧ ∃ y, t.bvJob d n j.cnt = some y ∧ (y.st = .held ∨ y.st = .placed) ∧ y.bytes = j.bytes)))
  ∧ (s.m.bvNext d n (· = 0x11) false = some j →
    (s.m.bvStream d n j.stream = some x → x.enc = true ∨ decAuOk x j = false → refused (.decAu d n))
    ∧ (s.m.bvStream d n j.stream = some x → x.enc = false → decAuOk x j = true → x.skip = false → s.m.errorless →
        s.m.dieGranted d [⟨j.u 32 6, j.u 40 4, accRead⟩] →
      let hd := Config.decHead x.coder x.av1 (s.m.vaBytes d 168 (j.u 32 6) (j.u 40 4))
      (seqFlags m x hd = 0 → hd.shown = true → completes (.decAu d n) s fun t => s.m.sameBut t [.pipes, .regs, .dies]
        ∧ ∃ y, t.bvJob d n j.cnt = some y ∧ y.st = .coding ∧ y.picType = hd.picType ∧ y.order = hd.order ∧ y.lo = hd.width ∧ y.hi = hd.height)
      ∧ (seqFlags m x hd ≠ 0 → completes (.decAu d n) s fun t => ended t j.cnt 0x50 ∧ ∃ y, t.bvStream d n x.num = some y ∧ y.skip = true)))
  ∧ (s.m.bvNext d n (· = 0x20) true = some j →
    (s.m.bvStream d n j.stream = none ∨ closeOk j = false → refused (.close d n))
    ∧ (s.m.bvStream d n j.stream = some x → closeOk j = true → j.fl 0 = false → (∀ y, y ∈ p.jobs → ¬(y.stream = x.num ∧ y.st = .placed)) →
        completes (.close d n) s fun t => ended t j.cnt 0 ∧ (t.pipe (pn d n)).streams = p.streams.filter (fun y => !(y.num == x.num))
          ∧ ∀ h, h ∈ p.held x.num → h.cnt ≠ j.cnt → ended t h.cnt 0x30))
  ∧ (s.m.bvStream d n j.stream = some x → p.jobs = [j] → j.st = .placed → completes (.bvBand d n) s fun t => ∃ y, t.bvJob d n j.cnt = some y
      ∧ (y.key = true ↔ j.key = true ∨ x.keyForced = true ∨ (x.low = true ∧ (x.started = false ∨ j.fl 0 = true ∨ x.keyReq = true))))
  ∧ (s.m.bvStream d n j.stream = some x → (p.jobs.filter fun y => y.st == .coding) = [j] → (∀ y, y ∈ p.jobs → y.st ≠ .placed) → s.m.errorless →
    s.m.bandWait d n j = none →
    let b := j.coded.length
    let frame (t : Dev) : Prop := s.m.sameBut t [.pipes, .regs, .dies, .mem, .undef, .stackTab, .clusters]
    (j.op ≠ 0x10 →
      let ws := outWrites x j b
      s.m.dieGranted d (decAccs x j) → completes (.bvBand d n) s fun t => s.m.wroteVa t d 168 ws ∧ frame t
        ∧ ∃ y, t.bvJob d n j.cnt = some y ∧ y.coded.length = b + 1 ∧ (y.st = .done ↔ b + 1 = j.bands))
    ∧ (j.op = 0x10 → x.low = true → x.u 44 4 = 0 → j.u 16 1 = 0 → j.blks = [] →
      let src := j.src ++ s.m.srcBand d x j b
      let coded := j.coded ++ [(min (x.u 36 1 + 4 * j.level) (x.u 37 1), false)]
      let r := Config.encBand x.coder (encPic m x j) src [] (coded.map fun c => (x.quant c.1, c.2))
      let out := j.out ++ r.bytes
      let ws := [(j.u 64 6 + j.out.length, r.bytes)] ++ (if j.u 80 6 ≠ 0 then [(j.u 80 6, leBytes 4 out.length)] else [])
        ++ (if j.u 88 6 ≠ 0 then reconWrites x j b r.recon else [])
      s.m.dieGranted d (s.m.encAccs d x j) →
      (j.u 72 4 < out.length → completes (.bvBand d n) s fun t => ended t j.cnt 0x40)
      ∧ (out.length ≤ j.u 72 4 → s.m.dieGranted d (ws.map fun w => ⟨w.1, w.2.length, accWrite⟩) → completes (.bvBand d n) s fun t =>
        s.m.wroteVa t d 168 ws ∧ frame t ∧ ∃ y, t.bvJob d n j.cnt = some y ∧ y.coded = coded ∧ y.out = out ∧ (y.st = .done ↔ b + 1 = j.bands))))
  ∧ (p.jobs.find? (fun y => y.st == .coding && y.op = 0x11) = some j → s.m.bvStream d n j.stream = some x →
    max blk (j.coded.length * j.bandRows / max 1 j.level * ceilDiv j.lo (max 1 j.level)) < ceilDiv j.lo (max 1 j.level) * ceilDiv j.hi (max 1 j.level) →
    completes (.bvWatchdogExpiry d n blk) s fun t => t.clock = max s.m.clock (j.t0 + bvBudget m x j)
      ∧ t.reg .bv d n R.BV_WATCHDOG = satAdd (s.m.reg .bv d n R.BV_WATCHDOG) 1
      ∧ ∃ y, t.bvJob d n j.cnt = some y ∧ bitAt y.flags 4 = true ∧ bitAt y.flags 5 = true)

/-- R397 to R409. -/
def Obligations.SluiceJobs : Prop := ∀ (s : State) (d : Fin 16) (n : Fin 2) (j : SlJob),
  let x := s.m.slu (sn d n)
  let dict := if j.hasDict then s.m.vaBytes d 168 j.dictVa j.dictLen else []
  let data := s.m.vaBytes d 168 j.inVa j.inLen
  let reads (len : Nat) : List VAcc := ⟨j.inVa, len, accRead⟩ :: (if j.hasDict then [⟨j.dictVa, j.dictLen, accRead⟩] else [])
  let recorded (t : Dev) (e : SlEnd) : Prop := ∃ y, (t.slu (sn d n)).job = some y ∧ y.record = some (slRecord j e t.time)
  let rest : List Part := [.sluices, .regs, .dies, .mem, .undef, .stackTab]
  s.sound = true → s.m.slUp d n = true → x.job = some j → j.record = none → j.parked = false → j.data = [] → j.put = 0 →
  (s.m.slPre d n = false → j.ok = false → (completes (.compress d n) s fun t => recorded t ⟨0x71, 0, 0, 0, 0, 0, 0, 0⟩ ∧ s.m.sameMemory t)
      ∧ completes (.decompress d n) s fun t => recorded t ⟨0x71, 0, 0, 0, 0, 0, 0, 0⟩ ∧ s.m.sameMemory t)
  ∧ (s.m.slPre d n = false → j.ok = true → j.op = 1 → s.m.errorless → s.m.dieGranted d (reads j.inLen) →
    let f := slBlocks dict data (j.inLen / j.block + 2) j
    let out := slHeader j.wrap (j.u 2 1) dict ++ packBits f.outBits ++ slTrailer j.wrap data
    let e : SlEnd := ⟨0, b2n (decide (0 < f.stored)) + 2 * b2n j.hasDict, j.inLen, out.length, slCheck j.wrap data, f.blocks, f.stored, 0⟩
    f.coded = true →
    (out.length ≤ j.outLen → s.m.dieGranted d [⟨j.outVa, out.length, accWrite⟩] → completes (.compress d n) s fun t =>
        recorded t e ∧ s.m.wroteVa t d 168 [(j.outVa, out)] ∧ s.m.sameBut t rest)
    ∧ (j.outLen < out.length → completes (.compress d n) s fun t => recorded t { e with status := 0x40, outUsed := 0 }))
  ∧ (s.m.slPre d n = false → j.ok = true → j.op = 2 → s.m.errorless → s.m.dieGranted d (reads j.inLen) →
    let r := slDecode j.wrap (if j.u 48 4 = 0 then j.outLen else j.u 48 4) data dict j.hasDict true j.inLen
    ∀ e, r.fin = some e → e.inUsed ≤ j.inLen → s.m.dieGranted d [⟨j.outVa, r.out.length, accWrite⟩] → completes (.decompress d n) s fun t =>
      recorded t e ∧ (r.spoil = false → s.m.wroteVa t d 168 [(j.outVa, r.out)] ∧ s.m.sameBut t rest))
  ∧ (s.m.slPre d n = true → x.stopped = false → j.ok = true → j.op = 1 → s.m.errorless → s.m.dieGranted d (reads j.inLen) → j.coded = false →
    let f := slBlock dict data j
    f.coded = false → completes (.slCheckpointStop d n) s fun t => (t.slu (sn d n)).stopped = true ∧ (t.slu (sn d n)).job = some { f with data := data })
  ∧ completes (.slCancel d n) s (fun t => recorded t ⟨0x30, 0, 0, 0, 0, 0, 0, 0⟩
      ∧ t.reg .sl d n R.SL_CTRL = s.m.reg .sl d n R.SL_CTRL % 2)

/-- R422, R424, R428 to R432, R434 to R436, R452. -/
def Obligations.IngressFramesAndFlows : Prop := ∀ (s : State) (p : Fin 24) (sub : Fin 4) (corr uncorr : Nat) (fcsOk overRate : Bool) (f : RxFrame)
    (dir : Fin 2) (i : Nat) (e : Fin 65536) (h : Fin 8),
  let L := s.m.links
  let c := L.cls
  let P (off n : Nat) : Nat × Nat := (regAddr .lnk (16 + p.val / 6) (p.val % 6) off, satAdd (s.m.preg p off) n)
  let fec := [P R.RX_FEC_CORR corr, P R.RX_FEC_UNCORR uncorr]
  let rx : Instr := .frameReceive p sub corr uncorr fcsOk overRate f
  let counts (l : List (Nat × Nat)) : Prop := completes rx s fun t => s.m.sameBut t [.regs] ∧ s.m.regsBecome t (fec ++ l)
  let mode := s.m.pfld p R.LNK_PORT_CTRL 2 1
  let erased := s.m.fld .boot 20 0 R.SEC_STATUS 3 3 = 1
  let chan := (s.m.port p).sas.any (fun x => x.1 / 64 = sub.val && x.1 % 16 ≠ 0) = true
  let free : Prop := bitAt (s.m.preg p (fiReg 1 0)) 0 = false ∧ (s.m.port p).held.any (fun x => x.1 == 1) = false
  let len := f.bytes.length + 4
  let other := (c.epoch + 1) % 2
  let busy : Prop := c.running.isSome = true ∨ c.flipping = true
  let st := s.m.reg .ld0 16 0 R.CLS_STATUS
  let withCls (x : Classifier) : Dev := { s.m with links := { L with cls := x } }
  let err : Dev := s.m.put .ld0 16 0 R.CLS_STATUS (setBits st 4 4 1)
  let first := s.m.reg .ld0 16 0 R.CLS_LOAD_FIRST % 65536
  let count := s.m.reg .ld0 16 0 R.CLS_LOAD_COUNT % 2 ^ 17
  let src := s.m.reg .ld0 16 0 R.CLS_LOAD_SRC_LO / 64 * 64 + s.m.reg .ld0 16 0 R.CLS_LOAD_SRC_HI % 2 ^ 14 * 2 ^ 32
  s.sound = true → canonical (fun _ => Flow.reset) c.flows = true →
  (s.m.subUp p sub = false → becomes rx s s.m)
  ∧ (s.m.subUp p sub = true →
    (9216 < len → counts [P R.RX_OVERSIZE 1])
    ∧ (len < 64 → counts [])
    ∧ (64 ≤ len → len ≤ 9216 → overRate = true → counts [P R.RX_OVERRATE 1])
    ∧ (64 ≤ len → len ≤ 9216 → overRate = false → free →
      (fcsOk = false ∨ uncorr ≠ 0 → counts [P R.RX_FCS_ERR 1])
      ∧ (fcsOk = true → uncorr = 0 →
        ((mode ≠ 0 ∧ erased) ∨ (mode = 1 ∧ ¬(f.macsec = 1 ∧ chan)) → counts [P R.MACSEC_DROP 1])
        ∧ (mode = 0 → f.macsec ≠ 0 → counts [P R.RX_UNMATCHED 1])
        ∧ ((mode = 0 ∧ f.macsec = 0) ∨ (mode = 2 ∧ ¬erased) ∨ (mode = 1 ∧ ¬erased ∧ f.macsec = 1 ∧ chan) →
          let n := netHdr f.bytes
          let udp : Prop := n.ipv4 = true ∧ n.frag = false ∧ n.proto = 17
          let goes (l : Links) : Prop := completes rx s fun t => s.m.sameBut t [.regs, .links] ∧ t.links = l ∧ s.m.regsBecome t (fec ++ [P R.RX_FRAMES 1])
          let lost (off : Nat) : Prop := counts [P R.RX_FRAMES 1, P off 1]
          let roce : Prop := udp ∧ n.dport = 4791
          let ptp : Prop := udp ∧ (n.dport = 319 ∨ n.dport = 320)
          let exc : Prop := n.etype = 0x0806 ∨ (n.ipv4 = true ∧ (n.proto = 1 ∨ n.proto = 2))
          let bank := c.adopted.getD (p.val / 3) 0 % 2
          (roce → f.icrcOk = true → opKind (beAt n.payload 0 1) ≠ 9 → goes { L with roce := L.roce ++ [⟨p.val / 6, 4 * p.val + sub.val, n.src,
              n.payload.take (n.payload.length - 4), n.ecn = 3⟩] })
          ∧ (roce → f.icrcOk = false ∨ opKind (beAt n.payload 0 1) = 9 → goes L)
          ∧ (ptp → (s.m.ptpSide p sub = none → lost R.RX_UNMATCHED)
            ∧ ∀ side, s.m.ptpSide p sub = some side → goes { L with ptpIn := L.ptpIn ++ [(side, s.m.time, n.payload)] })
          ∧ (exc → (f.excess = true → lost R.RX_EXCEPTION_DROP)
            ∧ (f.excess = false → goes { L with exceptions := L.exceptions ++ [(4 * p.val + sub.val, f.bytes)] }))
          ∧ (udp → ¬roce → ¬ptp → ¬exc →
            (classify (c.bank bank) p sub n (mode = 1) = none → lost R.RX_UNMATCHED)
            ∧ ∀ x, classify (c.bank bank) p sub n (mode = 1) = some x →
                goes { L with cls := { c with flight := c.flight ++ [⟨x.1, bank, x.2.1, x.2.2, n.payload, s.m.time⟩] } })
          ∧ (¬udp → ¬exc → lost R.RX_UNMATCHED)))))
  ∧ (let held := (s.m.port p).held
    (held.find? (fun x => x.1 == dir.val) = none → becomes (.fiReorderRelease p dir) s s.m)
    ∧ ∀ x, held.find? (fun x => x.1 == dir.val) = some x →
      let at_ := if x.2.left = 0 then s.m.clock else max s.m.clock (x.2.since + 100000)
      completes (.fiReorderRelease p dir) s fun t => t.clock = at_ ∧ (t.port p).held = held.filter (fun y => !(y.1 == dir.val))
        ∧ s.m.sameBut t [.clock, .regs, .links]
        ∧ (x.2.rx = none → ∀ y, x.2.tx = some y → t.links.out = L.out ++ [y] ∧ t.preg y.port R.TX_FRAMES = satAdd (s.m.preg y.port R.TX_FRAMES) 1)
        ∧ (∀ y, x.2.rx = some y → mode = 0 → y.macsec = 0 → t.preg p R.RX_FRAMES = satAdd (s.m.preg p R.RX_FRAMES) 1))
  ∧ (∀ x, c.flight[i]? = some x →
    let w := s.m.flow x.flow
    let k := eKind x.entry
    let q := flowNumber w k x.rtp
    let pay := rtpPayload x.rtp
    let ts := beAt x.rtp 4 4
    let late : Prop := w.started = true ∧ q + 4096 ≤ w.high
    let bad : Prop := x.rtp.length < 12 ∨ x.rtp.length < rtpHead x.rtp ∨ (k = 1 ∧ videoBad x.entry pay = true) ∨ (k = 2 ∧ pay.length ≠ eAudioLen x.entry)
    let flowIs (t : Dev) (y : Flow) : Prop := t.links = { L with cls := { c with flight := c.flight.eraseIdx i, flows := t.links.cls.flows } }
      ∧ ∀ a, t.flow a = if a = x.flow then y else s.m.flow a
    let drops (y : Flow) : Prop := completes (.packetPlace i) s fun t => s.m.sameBut t [.links] ∧ flowIs t y
    ¬(w.started = true ∧ w.gen ≠ eGen x.entry ∧ x.bank = c.epoch % 2) →
    (late → drops { w with lastAt := s.m.clock, late := satAdd w.late 1 })
    ∧ (¬late → q ∈ w.seen → drops { w with lastAt := s.m.clock, dup := satAdd w.dup 1 })
    ∧ (¬late → q ∉ w.seen → bad → drops { w with lastAt := s.m.clock, malformed := satAdd w.malformed 1 })
    ∧ (¬late → q ∉ w.seen → ¬bad → ∀ o, w.cur = some o → o.isOver = false →
      let noted : OpenBlk := { o with
        packets := o.packets + 1
        firstSeq := if o.packets = 0 then q % 2 ^ 32 else o.firstSeq
        lowSeq := if o.packets = 0 then q else min o.lowSeq q
        lastSeq := if o.packets = 0 then q else max o.lastSeq q
        timeFirst := if o.packets = 0 then x.time else o.timeFirst
        timeLast := x.time
        legs := o.legs ||| 2 ^ x.leg }
      let places (ws : List (Nat × List Byte)) (y : OpenBlk) : Prop := s.m.writable ws → completes (.packetPlace i) s fun t =>
        s.m.wroteDpa t ws ∧ s.m.sameBut t [.links, .mem, .undef, .stackTab, .regs]
        ∧ flowIs t { w with
            lastAt := s.m.clock
            started := true
            gen := if w.started then w.gen else eGen x.entry
            high := max w.high q
            seen := (nadd w.seen q).filter fun z => max w.high q < z + 4096
            packets := satAdd w.packets 1
            cur := some y }
      (k = 1 → beAt x.rtp 1 1 < 128 → o.rtpTs = ts → ¬(w.doneTs = some ts ∧ o.band < w.doneBand) → eLayout o.entry = 0 →
        (∀ r, r ∈ srds pay → (if eBand x.entry then r.row / 64 else 0) = o.band) →
        let pg := pgroup o.entry
        places ((srds pay).map fun r => (o.base + 64 + (r.row - o.row0) * ePitchY o.entry + r.off / pg.2.1 * pg.1, sliceBytes pay r.at_ r.len))
          { noted with wrote := (srds pay).foldl (fun l r => (List.range pg.2.2).foldl (fun l j => nadd l (r.row + j)) l) o.wrote })
      ∧ (k = 2 → ∀ b, w.audio = some b → b ≤ q → o.row0 = (q - b) / ePkts x.entry → (q - b) % ePkts x.entry + 1 ≠ ePkts x.entry →
        places [(o.base + 64 + (q - b) % ePkts x.entry * eAudioLen o.entry, pay)] { noted with wrote := nadd o.wrote ((q - b) % ePkts x.entry) })
      ∧ (k = 3 ∨ k = 4 → beAt x.rtp 1 1 < 128 →
        let data := if k = 3 then pay else x.rtp
        let n := roundUp (16 + data.length) 8
        64 + o.bytes + n ≤ s.m.lockBlockLen o.lock →
        places [(o.base + 64 + o.bytes, leBytes 4 q ++ leBytes 4 ts ++ leBytes 2 data.length ++ leBytes 2 0 ++ leBytes 4 x.time ++ data
          ++ List.replicate (n - 16 - data.length) 0)] { noted with bytes := o.bytes + n })))
  ∧ (let w := s.m.flow e
    (w.cur = none → becomes (.flowTimeout e) s s.m)
    ∧ ∀ o, w.cur = some o →
      let inc : Bool := decide (o.lost ≠ 0) || (decide (eKind o.entry = 1) && (List.range o.rows).any fun j => !o.wrote.contains (o.row0 + j))
      let flags := b2n inc + 2 * o.legs + (16 ||| o.flags) / 8 * 8
      completes (.flowTimeout e) s fun t => t.clock = max s.m.clock (w.lastAt + 1000 * eTimeout o.entry)
        ∧ t.flow e = { w with
            seq := w.seq + 1
            lost := if o.isOver then w.lost else satAdd w.lost o.lost
            cur := none
            doneTs := some o.rtpTs
            doneBand := o.band + 1 }
        ∧ (o.isOver = false → eKind o.entry ≠ 2 → s.m.writable [(o.base, blkHeader w.seq e o flags)] → s.m.wroteDpa t [(o.base, blkHeader w.seq e o flags)]
          ∧ s.m.sameBut t [.clock, .links, .mem, .undef, .stackTab, .clusters, .dies, .drovers, .regs]
          ∧ ∀ b, (s.m.lock o.lock).blks = [b] → b.seq = o.blk → b.filled = false → (s.m.lock o.lock).drain = 0 →
              (t.lock o.lock).blks = [{ b with filled := true }]))
  ∧ (busy ∨ c.users other ≠ 0 → becomes .clsCopy s err ∧ becomes .clsLoad s err)
  ∧ (¬busy → c.users other = 0 → becomes .clsCopy s (withCls { c with running := some ⟨1, first, count, src⟩ })
      ∧ (count = 0 ∨ 65536 < first + count → becomes .clsLoad s err)
      ∧ (count ≠ 0 → first + count ≤ 65536 → becomes .clsLoad s (withCls { c with running := some ⟨2, first, count, src⟩ })))
  ∧ (busy → becomes .clsFlip s err)
  ∧ (¬busy → becomes .clsFlip s (withCls { c with epoch := (c.epoch + 1) % 65536 }))
  ∧ (c.running = none → becomes .clsOpDone s s.m)
  ∧ (∀ x, c.running = some x → x.op = 1 →
      becomes .clsOpDone s { withCls { c.setBank other (c.bank c.epoch) with running := none } with clock := s.m.clock + 54614 })
  ∧ (∀ x, c.running = some x → x.op = 2 → s.m.errorless → s.m.reachRange x.src (64 * x.count) = .ok →
    let b (j : Nat) := s.m.bytesAt (x.src + 64 * j) 64
    completes .clsOpDone s fun t => t.clock = s.m.clock + ceilDiv (x.count * 5) 6 ∧ s.m.sameBut t [.clock, .links, .regs]
      ∧ t.links.cls.running = none ∧ t.links.cls.bank c.epoch = c.bank c.epoch
      ∧ (∀ j, j < x.count → t.links.cls.entry other (x.first + j) = if s.m.entryOk (b j) then b j else 0 :: (b j).drop 1)
      ∧ (∀ j, (j < x.first ∨ x.first + x.count ≤ j) → t.links.cls.entry other j = c.entry other j))
  ∧ (c.adopted.getD h c.epoch = c.epoch → becomes (.clsFlipAdopt h) s s.m)
  ∧ (c.adopted.getD h c.epoch ≠ c.epoch →
    let d := { c with adopted := c.adopted.set h c.epoch }
    (d.flipping = true → becomes (.clsFlipAdopt h) s (withCls d))
    ∧ (d.flipping = false → completes (.clsFlipAdopt h) s fun t => t.links.cls.adopted = d.adopted ∧ ∀ a y, (a, y) ∈ c.flows →
      (eKind (c.entry c.epoch a) = 0 → (t.flow a).cur = none)
      ∧ (eKind (c.entry c.epoch a) ≠ 0 → y.started = true → y.gen ≠ eGen (c.entry c.epoch a) → t.flow a = { Flow.reset with gen := eGen (c.entry c.epoch a) })
      ∧ (eKind (c.entry c.epoch a) ≠ 0 → y.started = true → y.gen = eGen (c.entry c.epoch a) → t.flow a = y)))

/-- R441 to R446. -/
def Obligations.RoceConnections : Prop := ∀ (s : State) (ld : Fin 4) (gq : Fin 16384) (off : Fin 64) (by_ : List Byte) (w : Fin 8192) (wo : Fin 16)
    (i : Nat) (x : RocePkt),
  let L := s.m.links
  let b := x.bth
  let psn := bPsn b
  let rest : List Part := [.links, .regs, .mem, .undef, .stackTab, .clusters, .dies, .drovers]
  let errs (g : Nat) (t : Dev) : Prop := qState (t.qp g).entry = 2 ∧ (t.qp g).entry.drop 1 = (s.m.qp g).entry.drop 1 ∧ (t.qp g).msgs = []
    ∧ t.logNext = s.m.logNext + 1
  let others (g : Nat) (t : Dev) : Prop := ∀ j, j ≠ g → t.qp j = s.m.qp j
  let on : Prop := s.m.ldOn (gq.val / 4096) = true
  s.m.untraced →
  (let kinds : List (Instr × (List Byte → Bool)) := [(.roceInboundSend ld, fun b => opKind (bOp b) = 0), (.roceInboundWrite ld, fun b => opKind (bOp b) = 1),
      (.roceInboundRead ld, fun b => opKind (bOp b) = 2), (.roceInboundAtomic ld, fun b => opKind (bOp b) = 3),
      (.roceAck ld, fun b => opKind (bOp b) = 4 && bSyn b < 0x20), (.roceNak ld, fun b => opKind (bOp b) = 4 && 0x20 ≤ bSyn b),
      (.roceCnp ld, fun b => opKind (bOp b) = 5)]
    ∀ c, c ∈ kinds → (s.m.rocePick ld c.2 = none → becomes c.1 s s.m)
      ∧ (s.m.rocePick ld c.2 = some (i, x) → s.m.roceFits x = false → becomes c.1 s { s.m with links := { L with roce := L.roce.eraseIdx i } }))
  ∧ (let g := bQpn b
    let q := s.m.qp g
    let E := q.entry
    let peer := leAt E 12 3
    let cnp := if x.ecn then [s.m.qpPkt g (bth 0x81 0 peer 0 false ++ List.replicate 16 0)] else []
    let ack (n syn msn : Nat) : TxPkt := s.m.qpPkt g (bth 0x11 0 peer n false ++ beBytes 1 syn ++ beBytes 3 msn)
    let got (c : Instr) (ok : List Byte → Bool) (P : Dev → Prop) : Prop := s.m.rocePick ld ok = some (i, x) → completes c s fun t =>
      t.links.roce = L.roce.eraseIdx i ∧ others g t ∧ P t
    let answers (t : Dev) (l : List TxPkt) : Prop := t.links.out = L.out ++ cnp ++ l
    let fails (c : Instr) (ok : List Byte → Bool) (syn : Nat) : Prop := got c ok fun t => answers t [ack psn syn q.msn] ∧ errs g t ∧ s.m.sameMemory t
    let sends : List Byte → Bool := fun b => opKind (bOp b) = 0
    let writes : List Byte → Bool := fun b => opKind (bOp b) = 1
    let reads : List Byte → Bool := fun b => opKind (bOp b) = 2
    let acks : List Byte → Bool := fun b => opKind (bOp b) = 4 && bSyn b < 0x20
    let naks : List Byte → Bool := fun b => opKind (bOp b) = 4 && 0x20 ≤ bSyn b
    let msn1 := (q.msn + 1) % 2 ^ 24
    s.m.roceFits x = true → s.m.clearTx (qPort E) (qSub E) →
    (∀ c, c ∈ [(Instr.roceInboundSend ld, sends), (Instr.roceInboundWrite ld, writes), (Instr.roceInboundRead ld, reads)] →
      0 < psnDist q.rcvPsn psn → got c.1 c.2 fun t => answers t (if q.nakSent then [] else [ack q.rcvPsn 0x60 q.msn]) ∧ (t.qp g).nakSent = true
        ∧ (t.qp g).rcvPsn = q.rcvPsn ∧ s.m.sameBut t [.links, .regs])
    ∧ (∀ c, c ∈ [(Instr.roceInboundSend ld, sends), (Instr.roceInboundWrite ld, writes)] →
      psnDist q.rcvPsn psn < 0 → got c.1 c.2 fun t => answers t [ack psn 0x1F q.msn] ∧ t.qp g = q ∧ s.m.sameBut t [.links, .regs])
    ∧ (psnDist q.rcvPsn psn = 0 → qFlag E 0 = false → qFlag E 5 = true → bOp b = 4 → q.recv = none → ∀ l, s.m.qRecv E = some l → s.m.lockOn l = true →
      let data := roceData b 12
      let old := s.m.lock l
      (s.m.canProduce l = none → got (.roceInboundSend ld) sends fun t => (∃ v, v < 32 ∧ answers t [ack psn (0x20 + v) q.msn])
        ∧ (t.qp g).rcvPsn = q.rcvPsn ∧ s.m.sameBut t [.links, .regs, .free])
      ∧ ∀ idx, s.m.canProduce l = some idx → (∀ y, y ∈ old.blks → y.seq ≠ old.seq) →
        (s.m.lockBlockLen l < data.length → fails (.roceInboundSend ld) sends 0x61)
        ∧ (data.length ≤ s.m.lockBlockLen l → old.drain = 0 → ∀ dpa, s.m.leafDpa (s.m.blockVa l idx) accWrite = some dpa → s.m.writable [(dpa, data)] →
          got (.roceInboundSend ld) sends fun t => s.m.wroteDpa t [(dpa, data)] ∧ answers t [ack psn 0x1F msn1] ∧ s.m.sameBut t rest
            ∧ t.qp g = { q with rcvPsn := psnAdd q.rcvPsn 1, msn := msn1, nakSent := false }
            ∧ ∃ y, y ∈ (t.lock l).blks ∧ y.seq = old.seq ∧ y.idx = idx ∧ y.filled = true))
    ∧ (psnDist q.rcvPsn psn = 0 → bOp b = 0x0A →
      let data := roceData b 28
      let win := s.m.windowDpa (beAt b 20 4) (beAt b 12 8) (beAt b 24 4) 20
      (win = none → fails (.roceInboundWrite ld) writes 0x62)
      ∧ ∀ dpa, win = some dpa →
        (beAt b 24 4 ≠ data.length → fails (.roceInboundWrite ld) writes 0x61)
        ∧ (beAt b 24 4 = data.length → s.m.writable [(dpa, data)] → got (.roceInboundWrite ld) writes fun t => s.m.wroteDpa t [(dpa, data)]
          ∧ answers t [ack psn 0x1F msn1] ∧ s.m.sameBut t [.links, .regs, .mem, .undef, .stackTab]
          ∧ t.qp g = { q with rcvPsn := psnAdd q.rcvPsn 1, msn := msn1, nakSent := false, write := none }))
    ∧ (psnDist q.rcvPsn psn ≤ 0 →
      let len := beAt b 24 4
      let win := s.m.windowDpa (beAt b 20 4) (beAt b 12 8) len 19
      let fresh : Bool := psnDist q.rcvPsn psn = 0
      (win = none → fails (.roceInboundRead ld) reads 0x62)
      ∧ ∀ dpa, win = some dpa → s.m.reachRange dpa len = .ok → s.m.errorless → len ≤ qPmtu E → got (.roceInboundRead ld) reads fun t =>
        let pad := (4 - len % 4) % 4
        answers t [s.m.qpPkt g (bth 0x10 pad peer (psnAdd psn 0) false ++ (beBytes 1 0x1F ++ beBytes 3 (if fresh then msn1 else q.msn)) ++ s.m.bytesAt dpa len
          ++ List.replicate pad 0)] ∧ s.m.sameBut t [.links, .regs]
        ∧ (t.qp g).rcvPsn = if fresh then psnAdd q.rcvPsn 1 else q.rcvPsn)
    ∧ fails (.roceInboundAtomic ld) (fun b => opKind (bOp b) = 3) 0x61
    ∧ (let done := q.msgs.filter fun m => 0 ≤ psnDist m.last psn
      got (.roceAck ld) acks fun t => (t.qp g).msgs = q.msgs.filter (fun m => !(0 ≤ psnDist m.last psn)) ∧ (t.qp g).entry = E
        ∧ (done ≠ [] → (t.qp g).retries = 0 ∧ (t.qp g).rnr = 0) ∧ s.m.sameBut t [.links, .regs, .clusters, .dies] ∧ answers t []
        ∧ ∀ l m y, s.m.qSend E = some l → m ∈ done → y ∈ (t.lock l).blks → y.seq = m.blk → bitAt y.released (qSlot E) = true)
    ∧ (∀ m, q.msgs = [m] → psnDist m.last (psnAdd psn (2 ^ 24 - 1)) < 0 →
      let limit := leAt E 55 1 % 8
      let rnr : Prop := bSyn b / 32 = 1
      let again (t : Dev) : Prop := (t.qp g).msgs = [m] ∧ qState (t.qp g).entry = 1 ∧ ∀ l y blk ps, s.m.qSend E = some l →
        (s.m.lock l).blks.find? (fun y => y.seq == m.blk) = some y → s.m.ldBytes (s.m.blockVa l y.idx) (s.m.lockBlockLen l) = some blk →
        s.m.blockMsg g blk m.first = some ps → answers t ((ps.filter fun p => 0 ≤ psnDist psn (bPsn p)).map (s.m.qpPkt g))
      (rnr → limit = 7 ∨ q.rnr < limit → got (.roceNak ld) naks fun t => again t ∧ (t.qp g).rnr = q.rnr + 1)
      ∧ (rnr → limit ≠ 7 → limit ≤ q.rnr → got (.roceNak ld) naks (errs g))
      ∧ (¬rnr → bSyn b = 0x60 → got (.roceNak ld) naks again)
      ∧ (¬rnr → bSyn b ≠ 0x60 → got (.roceNak ld) naks (errs g)))
    ∧ (s.m.rocePick ld (fun b => opKind (bOp b) = 5) = some (i, x) → completes (.roceCnp ld) s fun t => s.m.sameBut t [.links] ∧ t.links.out = L.out
      ∧ others g t ∧ t.qp g = { q with rate := q.rate + 1 }))
  ∧ (let q := s.m.qp gq
    let E := q.entry
    ((q.rate = 0 → becomes (.roceRateRecovery gq) s s.m)
      ∧ (q.rate ≠ 0 → completes (.roceRateRecovery gq) s fun t => s.m.sameBut t [.links] ∧ others gq t ∧ t.qp gq = { q with rate := q.rate - 1 }))
    ∧ (∀ l, s.m.qSend E = some l → qState E = 1 → qFlag E 4 = true → s.m.lockOn l = true → s.m.clearTx (qPort E) (qSub E) →
      (s.m.nextFilled l (qSlot E) = none → becomes (.roceSendMessage gq) s s.m)
      ∧ ∀ y blk, s.m.nextFilled l (qSlot E) = some y → s.m.ldBytes (s.m.blockVa l y.idx) (s.m.lockBlockLen l) = some blk →
        let bytes := leAt blk 48 4
        (s.m.blockMsg gq blk q.sndPsn = none ↔ blk.length - 64 < if qFlag E 3 then leAt blk (64 + leAt E 48 2) 4 else if bytes = 0 then blk.length - 64 else bytes)
        ∧ (s.m.blockMsg gq blk q.sndPsn = none → completes (.roceSendMessage gq) s fun t => errs gq t ∧ others gq t)
        ∧ (∀ ps, s.m.blockMsg gq blk q.sndPsn = some ps → completes (.roceSendMessage gq) s fun t => t.links.out = L.out ++ ps.map (s.m.qpPkt gq)
          ∧ others gq t ∧ s.m.sameBut t [.links, .regs, .clusters, .dies] ∧ (t.qp gq).sndPsn = psnAdd q.sndPsn ps.length
          ∧ (t.qp gq).msgs = q.msgs ++ [⟨y.seq, q.sndPsn, psnAdd q.sndPsn (ps.length - 1)⟩]
          ∧ ∀ z, z ∈ (t.lock l).blks → z.seq = y.seq → bitAt z.taken (qSlot E) = true)
        ∧ (qFlag E 1 = false → qFlag E 2 = false → qFlag E 3 = false → 0 < bytes → bytes ≤ blk.length - 64 → bytes ≤ qPmtu E →
          let pad := (4 - bytes % 4) % 4
          s.m.blockMsg gq blk q.sndPsn = some [bth 4 pad (leAt E 12 3) (psnAdd q.sndPsn 0) true ++ sliceBytes blk 64 bytes ++ List.replicate pad 0]))
    ∧ (∀ m r, q.msgs = m :: r → qState E = 1 →
      let tmo := leAt E 54 1
      (q.retries < tmo % 8 → completes (.roceAckTimeout gq) s fun t => t.clock = max s.m.clock (q.sentAt + 4096 * 2 ^ (tmo / 8))
        ∧ (t.qp gq).retries = q.retries + 1 ∧ (t.qp gq).msgs = q.msgs ∧ (t.qp gq).entry = E ∧ others gq t ∧ s.m.sameMemory t)
      ∧ (tmo % 8 ≤ q.retries → completes (.roceAckTimeout gq) s fun t => errs gq t ∧ others gq t))
    ∧ (q.msgs = [] → becomes (.roceAckTimeout gq) s s.m)
    ∧ (let cfg (c : Instr) : Prop := completes c s fun t => s.m.sameBut t [.links] ∧ others gq t ∧ t.qp gq = { q with entry := setCfgErr E }
      let runs : Qp := { Qp.reset with entry := setState E 1, sndPsn := leAt E 16 3, rcvPsn := leAt E 20 3 }
      (on → groupQp gq = true → cfg (.qpToRts gq) ∧ cfg (.qpToError gq) ∧ cfg (.qpToReset gq) ∧ cfg (.qpEntryWrite gq off by_))
      ∧ (¬on → becomes (.qpToRts gq) s s.m ∧ becomes (.qpToError gq) s s.m ∧ becomes (.qpToReset gq) s s.m ∧ becomes (.qpEntryWrite gq off by_) s s.m)
      ∧ (on → groupQp gq = false →
        (qState E ≠ 0 → becomes (.qpToRts gq) s s.m)
        ∧ (qState E = 0 → s.m.qpOk gq E = true → completes (.qpToRts gq) s fun t => s.m.sameBut t [.links] ∧ others gq t ∧ t.qp gq = runs)
        ∧ (qState E = 0 → s.m.qpOk gq E = false → cfg (.qpToRts gq))
        ∧ (qState E ≠ 1 → becomes (.qpToError gq) s s.m)
        ∧ (qState E = 1 → completes (.qpToError gq) s fun t => errs gq t ∧ others gq t)
        ∧ (qState E = 0 → becomes (.qpToReset gq) s s.m)
        ∧ (qState E ≠ 0 → completes (.qpToReset gq) s fun t => s.m.sameBut t [.links, .clusters, .dies] ∧ others gq t
            ∧ t.qp gq = { Qp.reset with entry := setState E 0 })
        ∧ (0 < off.val → qState E = 0 → completes (.qpEntryWrite gq off by_) s fun t => s.m.sameBut t [.links] ∧ others gq t
            ∧ t.qp gq = { q with entry := patchBytes E off by_ })
        ∧ (0 < off.val → qState E ≠ 0 → patchBytes E off by_ ≠ E → cfg (.qpEntryWrite gq off by_))
        ∧ (∀ y : Byte, off.val = 0 → by_ = [y] → y.toNat % 4 = 1 → leAt E 0 1 = 0 → s.m.qpOk gq E = true →
            completes (.qpEntryWrite gq off by_) s fun t => s.m.sameBut t [.links] ∧ others gq t ∧ t.qp gq = runs))))
  ∧ (let e := windowBits (patchBytes (s.m.window w) wo by_)
    let bad : Prop := bitAt (leAt e 12 4) 21 = true ∧ windowFits e = false
    (s.m.ldOn 0 = false → becomes (.memoryWindowWrite w wo by_) s s.m)
    ∧ (s.m.ldOn 0 = true → bad → completes (.memoryWindowWrite w wo by_) s fun t => t.links.windows = L.windows ∧ t.logNext = s.m.logNext + 1)
    ∧ (s.m.ldOn 0 = true → ¬bad → completes (.memoryWindowWrite w wo by_) s fun t => s.m.sameBut t [.links] ∧ ∀ j, t.window j = if j = w then e else s.m.window j))

/-- R415, R418, R420, R437 to R439. -/
def Obligations.EgressPortsAndTime : Prop := ∀ (s : State) (ld : Fin 4) (i : Fin 1024) (off : Fin 64) (by_ : List Byte) (p : Fin 24) (sub : Fin 4)
    (chan : Fin 16) (an : Fin 4) (key : List Byte) (xpn use : Bool) (pn alert : Nat) (v : BitVec 32),
  let L := s.m.links
  s.m.untraced →
  (let g := egNo ld i
    let x := s.m.eg g
    let e := x.entry
    let new := patchBytes e off by_
    let on : Prop := s.m.ldOn ld = true
    let becomesEg (y : Egress) : Prop := completes (.egressEntryWrite ld i off by_) s fun t => s.m.sameBut t [.links] ∧ ∀ j, t.eg j = if j = g then y else s.m.eg j
    (¬on → becomes (.egressEntryWrite ld i off by_) s s.m)
    ∧ (on → leAt e 0 1 = 0 → becomesEg { x with entry := new, next := leAt new 40 4, started := leAt new 0 1 ≠ 0, hist := [] })
    ∧ (on → leAt e 0 1 ≠ 0 → new = e → becomes (.egressEntryWrite ld i off by_) s s.m)
    ∧ (on → leAt e 0 1 ≠ 0 → new ≠ e → leAt new 0 1 = 0 → becomesEg { Egress.reset with entry := new })
    ∧ (on → leAt e 0 1 ≠ 0 → new ≠ e → leAt new 0 1 ≠ 0 → becomes (.egressEntryWrite ld i off by_) s
        (s.m.put .ld0 16 0 R.CLS_STATUS (setBits (s.m.reg .ld0 16 0 R.CLS_STATUS) 4 4 1)))
    ∧ (leAt e 0 1 = 0 ∨ s.m.gLock e = none → becomes (.egressSend ld i) s s.m)
    ∧ (∀ l, s.m.gLock e = some l → s.m.nextFilled l (leAt e 39 1) = none → becomes (.egressSend ld i) s s.m)
    ∧ (∀ l b blk, leAt e 0 1 ≠ 0 → gLegs ld e ≠ [] → (∀ j, j ∈ gLegs ld e → s.m.clearTx (leAt e (2 + j) 1 % 32) (leAt e (2 + j) 1 / 32 % 4)) →
      s.m.gLock e = some l → s.m.lockOn l = true → s.m.lockRing l = true → s.m.nextFilled l (leAt e 39 1) = some b →
      s.m.ldBytes (s.m.blockVa l b.idx) (s.m.lockBlockLen l) = some blk →
      let seq := leAt blk 0 8
      let pieces (first : Nat) := blockPieces e blk first
      let datagrams (first : Nat) : List TxPkt := (pieces first).zipIdx.flatMap fun q => (gLegs ld e).map fun j =>
        { port := leAt e (2 + j) 1 % 32, sub := leAt e (2 + j) 1 / 32 % 4, vlan := if bitAt (leAt e 1 1) 1 then leAt e 26 2 % 4096 else 0x1000,
          dscp := leAt e 28 1 % 64, src := leAt e (12 + 4 * j) 4, dst := leAt e (4 + 4 * j) 4, srcUdp := leAt e 24 2, dstUdp := leAt e (20 + 2 * j) 2
          body := if q.1.2.2 then q.1.1 else rtpPacket e (first + q.2) (leAt blk 8 4) q.1.2.1 q.1.1, pn := 0, flip := 0 }
      let at_ := s.m.clock + (leAt blk 56 8 - s.m.time)
      let sent (t : Dev) (first : Nat) : Prop := t.links.out = L.out ++ datagrams first ∧ t.clock = at_
      let after (t : Dev) (y : Egress) : Prop := s.m.sameBut t [.clock, .links, .regs, .clusters, .dies] ∧ (∀ j, t.eg j = if j = g then y else s.m.eg j)
        ∧ ∀ z, z ∈ (t.lock l).blks → z.seq = b.seq → bitAt z.released (leAt e 39 1) = true
      ((∀ h, h ∈ x.hist → h.1 < seq) → completes (.egressSend ld i) s fun t => sent t x.next
          ∧ after t { x with next := (x.next + (pieces x.next).length) % 2 ^ 32, hist := ((seq, x.next) :: x.hist).take 64 })
      ∧ (∀ h, x.hist.find? (fun h => h.1 == seq) = some h → completes (.egressSend ld i) s fun t => sent t h.2 ∧ after t x)
      ∧ ((∃ h, h ∈ x.hist ∧ seq < h.1) → (∀ h, h ∈ x.hist → h.1 ≠ seq) → completes (.egressSend ld i) s fun t =>
          t.links.out = L.out ∧ t.clock = s.m.clock ∧ after t { x with stale := satAdd x.stale 1 })))
  ∧ (let on : Prop := s.m.portOn p = true
    let k := saKey sub an chan
    let slot := 65536 + 1024 * p.val + k
    let key_ : Instr := .saKeyWrite p sub chan an key xpn pn alert use
    let o := s.m.preg p R.LNK_PORT_CTRL
    let w := v.toNat
    let ctl := regAddr .lnk (16 + p.val / 6) (p.val % 6) R.LNK_PORT_CTRL
    (¬on ∨ 8 < chan.val → becomes key_ s s.m)
    ∧ (¬on → becomes (.lnkPortCtrlWrite p v) s s.m)
    ∧ (on → chan.val ≤ 8 → completes key_ s fun t => s.m.sameBut t [.aoc, .links]
        ∧ (∀ j, sget (fun _ => List.replicate 32 (0 : Byte)) t.aoc.vault j = if j = slot then (key ++ List.replicate 32 0).take 32
            else sget (fun _ => List.replicate 32 (0 : Byte)) s.m.aoc.vault j)
        ∧ (∀ j, j ≠ p.val → t.port j = s.m.port j)
        ∧ sget (fun _ => Sa.mk 0 0 0 false) (t.port p).sas k = ⟨slot, pn % 2 ^ (if xpn then 64 else 32), alert, xpn⟩
        ∧ (chan = 0 → use = true → sget (fun _ => 0) (t.port p).txAn sub = an.val + 1) ∧ (chan ≠ 0 ∨ use = false → (t.port p).txAn = (s.m.port p).txAn))
    ∧ (on → w / 16 % 8 ≠ o / 16 % 8 → o / 256 % 16 ≠ 0 → becomes (.lnkPortCtrlWrite p v) s
        (s.m.put .lnk (16 + p.val / 6) (p.val % 6) R.LNK_PORT_CTRL (setBits o 3 3 1)))
    ∧ (on → w / 16 % 8 = o / 16 % 8 ∨ o / 256 % 16 = 0 → completes (.lnkPortCtrlWrite p v) s fun t => s.m.sameBut t [.regs, .links]
        ∧ t.regAt ctl = w / 256 % 16 * 256 + w / 16 % 8 * 16 + b2n (bitAt o 3 && !bitAt w 3) * 8
            + w / 2 % 4 * 2
        ∧ (∀ A, A ≠ ctl → A ≠ ctl + (R.LNK_PORT_STATUS - R.LNK_PORT_CTRL) → t.regAt A = s.m.regAt A)
        ∧ ∀ j, j < 32 → bitAt (t.preg p R.LNK_PORT_STATUS) j = (bitAt (s.m.preg p R.LNK_PORT_STATUS) j
            && !(decide (j < 8) && bitAt o (8 + j % 4) && !bitAt w (8 + j % 4))))
    ∧ (let st := s.m.preg p R.LNK_PORT_STATUS
      let may : Prop := on ∧ s.m.power.ref156 = true ∧ sub.val < modeSubs (o / 16 % 8) ∧ bitAt o (8 + sub.val) = true ∧ bitAt st sub = false
      (¬may → becomes (.linkUp p sub) s s.m)
      ∧ (may → completes (.linkUp p sub) s fun t => bitAt (t.preg p R.LNK_PORT_STATUS) sub = true ∧ bitAt (t.preg p R.LNK_PORT_STATUS) (4 + sub.val) = true
          ∧ t.logNext = s.m.logNext + 1 ∧ s.m.sameMemory t ∧ t.clusters = s.m.clusters)
      ∧ (s.m.subUp p sub = false → becomes (.linkDown p sub) s s.m)
      ∧ (s.m.subUp p sub = true → completes (.linkDown p sub) s fun t => bitAt (t.preg p R.LNK_PORT_STATUS) sub = false
          ∧ bitAt (t.preg p R.LNK_PORT_STATUS) (4 + sub.val) = false ∧ t.logNext = s.m.logNext + 1 ∧ s.m.sameMemory t ∧ t.clusters = s.m.clusters)))
  ∧ (let P := L.ptp
    let ctl := s.m.reg .ld0 16 0 R.PTP_CTRL
    let lock : Int := ctl / 65536 % 256
    let erased (n : Nat) : Dev := { s.m with links := { L with ptpIn := L.ptpIn.eraseIdx n } }
    let first (type : Nat) := L.ptpIn.zipIdx.find? fun q => mType q.1.2.2 = type
    let cmds : List (Nat × Instr) := [(0, .ptpSync), (8, .ptpFollowUp), (9, .ptpDelayResp), (11, .ptpAnnounce)]
    let servo (c : Instr) (off : Int) : Prop := completes c s fun t =>
      t.reg .ld0 16 0 R.PTP_OFFSET = wrapN 32 (max (-(2 ^ 31)) (min off (2 ^ 31 - 1)))
      ∧ s.m.sameBut t [.links, .regs, .timeOff, .free] ∧ t.links.ptp.master = P.master ∧ t.links.ptp.syncRx = none
      ∧ (P.st = 1 → 1000000 < off.natAbs → t.links.ptp.st = 1 ∧ t.links.ptp.good = 0 ∧ t.timeOff = s.m.timeOff - off
          ∧ bitAt (t.reg .ld0 16 0 R.PTP_STATUS) 4 = true)
      ∧ (¬(P.st = 1 ∧ 1000000 < off.natAbs) → (t.timeOff - s.m.timeOff).natAbs ≤ (s.m.clock - P.slewAt) / 10000)
      ∧ (P.st = 1 → off.natAbs ≤ 1000000 → (off.natAbs : Int) ≤ lock → 15 ≤ P.good → t.links.ptp.st = 2)
      ∧ (P.st = 1 → off.natAbs ≤ 1000000 → (off.natAbs : Int) ≤ lock → P.good < 15 → t.links.ptp.st = 1 ∧ t.links.ptp.good = P.good + 1)
      ∧ (P.st = 1 → off.natAbs ≤ 1000000 → lock < off.natAbs → t.links.ptp.st = 1 ∧ t.links.ptp.good = 0)
      ∧ (P.st = 2 → 8 * lock < off.natAbs → 3 ≤ P.bad → t.links.ptp.st = 1)
      ∧ (P.st = 2 → 8 * lock < off.natAbs → P.bad < 3 → t.links.ptp.st = 2 ∧ t.links.ptp.bad = P.bad + 1)
      ∧ (P.st = 2 → (off.natAbs : Int) ≤ 8 * lock → t.links.ptp.st = 2 ∧ t.links.ptp.bad = 0)
      ∧ (P.st ≠ 1 → P.st ≠ 2 → t.links.ptp.st = P.st ∧ t.timeOff = s.m.timeOff)
    (∀ c, c ∈ cmds → (first c.1 = none → becomes c.2 s s.m)
      ∧ ∀ q, first c.1 = some q → ¬(ctl / 256 % 2 = 1 ∧ beAt q.1.2.2 4 1 = ctl % 256) → becomes c.2 s (erased q.2))
    ∧ (∀ side rx m n, first 0 = some ((side, rx, m), n) → ctl / 256 % 2 = 1 → beAt m 4 1 = ctl % 256 →
      (P.master ≠ some (mSource m) → becomes .ptpSync s (erased n))
      ∧ (P.master = some (mSource m) → mTwoStep m = true → completes .ptpSync s fun t => s.m.sameBut t [.links]
          ∧ t.links = { L with ptpIn := L.ptpIn.eraseIdx n, ptp := { P with syncRx := some (mSeq m, rx, mCorr m) } })
      ∧ (P.master = some (mSource m) → mTwoStep m = false → servo .ptpSync ((rx : Int) - ((mTime m : Int) + mCorr m) - P.delay)))
    ∧ (∀ side rx m n, first 8 = some ((side, rx, m), n) → ctl / 256 % 2 = 1 → beAt m 4 1 = ctl % 256 →
      (P.syncRx = none → becomes .ptpFollowUp s (erased n))
      ∧ ∀ q at_ corr, P.syncRx = some (q, at_, corr) →
        (¬(P.master = some (mSource m) ∧ q = mSeq m) → becomes .ptpFollowUp s (erased n))
        ∧ (P.master = some (mSource m) → q = mSeq m → servo .ptpFollowUp ((at_ : Int) - ((mTime m : Int) + corr + mCorr m) - P.delay)))
    ∧ (∀ side rx m n, first 9 = some ((side, rx, m), n) → ctl / 256 % 2 = 1 → beAt m 4 1 = ctl % 256 →
      ∀ q t3 t1 t2, P.delayTx = some (q, t3) → P.last = some (t1, t2) → P.master = some (mSource m) → q = mSeq m →
        sliceBytes m 44 10 = ptpSelf (s.m.ptpPort side) → completes .ptpDelayResp s fun t => s.m.sameBut t [.links] ∧ t.links.ptp.delayTx = none
          ∧ t.links.ptp.delay = ((t2 - t1) + ((mTime m : Int) - mCorr m - (t3 : Int))) / 2 + sext 32 (s.m.preg (s.m.ptpPort side % 32) R.LNK_PTP_ASYM))
    ∧ (∀ side rx m n, first 11 = some ((side, rx, m), n) → ctl / 256 % 2 = 1 → beAt m 4 1 = ctl % 256 →
      let seen := ((P.foreign.find? fun f => f.1 == mSource m).map (·.2.seen)).getD []
      let all := (P.foreign.filter fun f => !(f.1 == mSource m)) ++ [(mSource m, ⟨announceRank m, decide (side = 1), (s.m.clock :: seen).take 2⟩)]
      completes .ptpAnnounce s fun t => s.m.sameBut t [.links] ∧ t.links.ptp.foreign = all
        ∧ (bestMaster s.m.clock all = none → t.links.ptp.master = P.master ∧ t.links.ptp.st = P.st)
        ∧ ∀ f, bestMaster s.m.clock all = some f → t.links.ptp.master = some f.1 ∧ t.links.ptp.st = if P.st = 0 ∨ P.st = 3 then 1 else P.st)
    ∧ (P.master = none → becomes .ptpAnnounceTimeout s s.m)
    ∧ (∀ id, P.master = some id →
      let at_ := max s.m.clock (P.announceAt + 750000000)
      let left := P.foreign.filter fun f => decide (some id ≠ some f.1)
      completes .ptpAnnounceTimeout s fun t => t.clock = at_ ∧ s.m.sameBut t [.clock, .links] ∧ t.links.ptp.foreign = left
        ∧ (bestMaster at_ left = none → t.links.ptp.master = none ∧ t.links.ptp.st = if P.st = 1 ∨ P.st = 2 then 3 else P.st)
        ∧ ∀ f, bestMaster at_ left = some f → t.links.ptp.master = some f.1)
    ∧ (P.st ≠ 3 → becomes .ptpHoldoverExpiry s s.m)
    ∧ (P.st = 3 → becomes .ptpHoldoverExpiry s
        { s.m with clock := max s.m.clock (P.holdAt + s.m.reg .ld0 16 0 R.PTP_HOLDOVER * 1000000000), links := { L with ptp := { P with st := 0 } } })
    ∧ (ctl / 256 % 2 = 0 ∨ P.master = none → becomes .ptpDelayReq s s.m)
    ∧ (ctl / 256 % 2 = 1 → P.master ≠ none →
      let q := s.m.ptpPort (b2n P.viaB)
      s.m.clearTx (q % 32) (q / 32) → completes .ptpDelayReq s fun t => s.m.sameBut t [.links, .regs]
        ∧ t.links.ptp = { P with delayTx := some (P.seqOut, s.m.time), seqOut := (P.seqOut + 1) % 65536 }
        ∧ ∃ y, t.links.out = L.out ++ [y] ∧ y.port = q % 32 ∧ y.dst = 0xE0000181 ∧ y.dstUdp = 319 ∧ beAt y.body 0 1 = 1 ∧ beAt y.body 30 2 = P.seqOut % 65536))

/-- R447 to R449, R451, R478, R481, R499, R538, R555, R559. -/
def Obligations.BentinRequests : Prop := ∀ (s : State) (f : BFrom) (q : Request) (b : List Byte) (n : Nat),
  let x := s.m.ses q.ses
  let asked := s.m.asked f q
  let open_ (op : Nat) : Prop := asked ∧ q.opcode = op
  let replies (c : Instr) (status : Nat) (payload : List Byte) (parts : List Part) (P : Dev → Prop) : Prop :=
    completes c s fun t => s.m.replied t f q status x.seq payload parts ∧ (t.ses q.ses).isOpen = x.isOpen ∧ (t.ses q.ses).src = x.src ∧ P t
  let now (c : Instr) (status : Nat) (payload : List Byte) : Prop := replies c status payload [] fun _ => True
  let kinds : List (Instr × (Nat → Nat → Bool)) := [(.identify f, fun o _ => o = 1), (.sessionOpen f, fun o _ => o = 2), (.regRead f, fun o _ => o = 0x10),
    (.regWrite f, fun o _ => o = 0x11), (.queueSubmit f, fun o _ => o = 0x20), (.queueCancel f, fun o _ => o = 0x21), (.queuePreempt f, fun o _ => o = 0x22),
    (.queueResume f, fun o _ => o = 0x23), (.mailboxSend f, fun o _ => o = 0x30), (.envelopeSet f, fun o _ => o = 0x40), (.logRead f, fun o _ => o = 0x50),
    (.dumpRead f, fun o _ => o = 0x51), (.fwUpdateBegin f false, fun o k => o = 0x60 && k = 1), (.fwUpdateData f false, fun o k => o = 0x60 && k = 2),
    (.fwUpdateCommit f false, fun o k => o = 0x60 && k = 3), (.fwUpdateAbort f false, fun o k => o = 0x60 && k = 4), (.attest f, fun o _ => o = 0x61)]
  let all := kinds.map (·.1) ++ [.bentinOtherOpcode f, .bentinRelay f]
  s.sound = true → s.m.untraced → (q.src ≠ bridgeQp ∨ s.m.role ≠ 2) →
  (s.m.bentinIn f = none → ∀ c, c ∈ all → becomes c s s.m)
  ∧ (s.m.bentinIn f = some (n, b) → frameOk b = false → ∀ c, c ∈ all → completes c s fun t => s.m.sameBut t [.links, .regs] ∧ t.links = frameTook f s.m.links
      ∧ s.m.regsBecome t [(regAddr .ld0 16 0 R.BENTIN_BAD, satAdd (s.m.reg .ld0 16 0 R.BENTIN_BAD) 1)])
  ∧ (s.m.bentinIn f = some (q.src, b) → frameOk b = true → s.m.ownRequest q.src b = true →
    ∀ c, c ∈ kinds → c.2 (fOpcode b) (leAt b 32 1) = true → ∀ e, (s.m.ses (fSession b)).reqs.find? (fun e => e.1 == fReqId b) = some e →
      (e.2 = none → becomes c.1 s { s.m with links := frameTook f s.m.links })
      ∧ ∀ r, e.2 = some r → becomes c.1 s { s.m with links := frameTook f s.m.links, sent := s.m.sent ++ [s.m.out q.src r] })
  ∧ (open_ 1 → now (.identify f) 0 (leBytes 4 (s.m.reg .aoc 20 0 R.AOC_PART_ID) ++ leBytes 4 (s.m.reg .aoc 20 0 R.ARITH_CONTRACT_ID) ++ leBytes 4 s.m.groupStatus))
  ∧ (∀ k bs, f = .udp k bs → open_ 1 → completes (.identify f) s fun t => ∃ y, t.sent = s.m.sent ++ [y]
      ∧ (let ip := leAt s.m.aoc.manifest 12 4
        y.src = [0x02] ++ (beBytes 48 Config.deviceId.toNat).take 5 ++ beBytes 4 (if ip = 0 then 0xA9FE0001 + s.m.groupIndex else ip)))
  ∧ (open_ 2 → completes (.sessionOpen f) s fun t => s.m.replied t f q 0 (if x.isOpen then x.seq else 0) [] [] ∧ (t.ses q.ses).isOpen = true
      ∧ (t.ses q.ses).src = q.src)
  ∧ (open_ 0x10 → s.m.errorless →
    (q.listOk 8 = false → now (.regRead f) 0x71 [])
    ∧ (q.listOk 8 = true → (∀ a, a ∈ q.dpas 8 → memPlace a = true ∧ s.m.listReach a accRead = .ok) →
        replies (.regRead f) 0 ((q.dpas 8).flatMap fun a => s.m.bytesAt a 8) [.regs] fun _ => True)
    ∧ (∀ a rb d i off, q.dpas 8 = [a] → q.listOk 8 = true → place a = .reg rb d i off → s.m.listReach a accRead = .ok →
        replies (.regRead f) 0 (leBytes 4 (s.m.regValue rb d i (off / 4 * 4)) ++ List.replicate 4 0) [.regs, .aoc] fun _ => True)
    ∧ (∀ a r, q.dpas 8 = a :: r → q.listOk 8 = true → s.m.listReach a accRead = .bounds → (∀ y, y ∈ r → s.m.listReach y accRead ≠ .wait) → now (.regRead f) 0x12 []))
  ∧ (open_ 0x11 →
    (q.listOk 16 = false → now (.regWrite f) 0x71 [])
    ∧ (let ws := (List.range (q.payload.length / 16)).map fun i => (q.u (16 * i) 8, sliceBytes q.payload (16 * i + 8) 8)
      q.listOk 16 = true →
      (s.m.writable ws → (∀ w, w ∈ ws → s.m.listReach w.1 accWrite = .ok) → replies (.regWrite f) 0 [] [.mem, .undef, .stackTab, .regs] fun t => s.m.wroteDpa t ws)
      ∧ (∀ w r, ws = w :: r → s.m.listReach w.1 accWrite = .bounds → (∀ y, y ∈ r → s.m.listReach y.1 accRead ≠ .wait) → now (.regWrite f) 0x12 [])))
  ∧ (open_ 0x20 →
    let g := q.u 0 2
    let k := q.u 2 2
    let good : Prop := 1 ≤ k ∧ k ≤ 64 ∧ q.payload.length = 4 + 64 * k
    let size := s.m.qreg g R.Q_RING_SIZE % 16
    let prod := s.m.qreg g R.Q_PROD
    let used := (prod + 2 ^ 32 - s.m.qreg g R.Q_CONS) % 2 ^ 32
    let base := s.m.qreg g R.Q_RING_LO / 4096 * 4096 + s.m.qreg g R.Q_RING_HI % 2 ^ 14 * 2 ^ 32
    let room : Prop := 4 ≤ size ∧ size ≤ 12 ∧ used + k ≤ 2 ^ size
    let ws := (List.range k).map fun i => (base + (prod + i) % 2 ^ 32 % 2 ^ size * 64, sliceBytes q.payload (4 + 64 * i) 64)
    (¬good → now (.queueSubmit f) 0x71 [])
    ∧ (good → s.m.queueOn g = false → now (.queueSubmit f) 0x12 [])
    ∧ (good → s.m.queueOn g = true → ¬room → now (.queueSubmit f) 0x40 [])
    ∧ (good → s.m.queueOn g = true → room → s.m.writable ws → replies (.queueSubmit f) 0 (leBytes 4 ((s.m.queue g).seq + used)) [.mem, .undef, .stackTab, .regs]
        fun t => s.m.wroteDpa t ws ∧ s.m.regsBecome t [(regAddr .q (g / 256) (g % 256) R.Q_PROD, (prod + k) % 2 ^ 32)]))
  ∧ (open_ 0x30 →
    let m := q.u 0 1
    let y := s.m.mb m
    let id := s.m.sendIdentity q
    (q.payload.length ≠ 20 → now (.mailboxSend f) 0x71 [])
    ∧ (q.payload.length = 20 → 64 ≤ m → now (.mailboxSend f) 0x12 [])
    ∧ (q.payload.length = 20 → m < 64 → s.m.mbDown m = true → replies (.mailboxSend f) 0 (leBytes 4 (y.seq * 65536 + 34)) [.mailboxes]
        fun t => t.mb m = { y with down := some id } ∧ ∀ j, j ≠ m → t.mb j = s.m.mb j)
    ∧ (q.payload.length = 20 → m < 64 → s.m.mbDown m = false → completes (.mailboxSend f) s fun t =>
        t.mb m = ⟨sliceBytes q.payload 1 16, id, (y.seq + 1) % 65536, true, y.full, 0, s.m.clock, true, some ⟨q.ses, q.id, q.src⟩, none⟩
        ∧ (∀ j, j ≠ m → t.mb j = s.m.mb j) ∧ t.links.bentin = (frameTook f s.m.links).bentin))
  ∧ (open_ 0x40 →
    let e := q.u 0 1
    let ok : Prop := 1 ≤ e ∧ e ≤ 4 ∧ e ≤ s.m.power.envMax
    (q.payload.length ≠ 4 → now (.envelopeSet f) 0x71 [])
    ∧ (q.payload.length = 4 → s.m.bootReady = false → completes (.envelopeSet f) s fun t => s.m.sameBut t [.links, .sessions, .aoc]
        ∧ t.aoc = { s.m.aoc with envHeld := s.m.aoc.envHeld ++ [(q.src, q.ses, q.id, e)] })
    ∧ (q.payload.length = 4 → s.m.bootReady = true → ok → s.m.power.envActive ≤ e → replies (.envelopeSet f) 0
        (leBytes 4 (bits (s.m.reg .pwr 20 0 R.PWR_ENV) 31 31 * 2 ^ 31 + s.m.power.envMax * 256 + e * 16 + e)) [.power] fun t =>
        t.power = { s.m.power with envReq := e, envActive := e, settled := false })
    ∧ (q.payload.length = 4 → s.m.bootReady = true → ok → completes (.envelopeSet f) s fun t => t.power.envReq = e ∧ t.power.envActive = e)
    ∧ (q.payload.length = 4 → s.m.bootReady = true → ¬ok → completes (.envelopeSet f) s fun t => t.power = s.m.power
        ∧ bitAt (t.reg .pwr 20 0 R.PWR_ENV) 31 = true ∧ t.logNext = s.m.logNext + 1))
  ∧ (open_ 0x50 →
    let first := q.u 0 4
    let k := q.u 4 2
    let oldest := s.m.logNext - s.m.log.length
    (q.payload.length ≠ 8 ∨ k < 1 ∨ 2000 < k → now (.logRead f) 0x71 [])
    ∧ (q.payload.length = 8 → 1 ≤ k → k ≤ 2000 → now (.logRead f) 0 (leBytes 4 oldest ++ leBytes 4 s.m.logNext
        ++ ((((List.range s.m.log.length).zip s.m.log).drop (first - oldest)).take k).flatMap fun e => e.2.bytes (oldest + e.1))))
  ∧ (open_ 0x51 →
    let o := q.u 0 4
    let k := q.u 4 4
    let may : Prop := s.m.penState = true ∧ 2 ^ 31 ≤ s.m.reg .rcv 20 0 R.DUMP_STATUS ∧ k ≤ 65000 ∧ o + k ≤ 2 ^ 32
    (q.payload.length ≠ 8 → now (.dumpRead f) 0x71 [])
    ∧ (q.payload.length = 8 → ¬may → now (.dumpRead f) 0x12 [])
    ∧ (q.payload.length = 8 → may → now (.dumpRead f) 0 ((List.range k).map fun i => s.m.byteAt (dumpAddr (o + i)))))
  ∧ (open_ 0x61 →
    (q.payload.length ≠ 32 → now (.attest f) 0x71 [])
    ∧ (q.payload.length = 32 → s.m.latched = true ∨ s.m.aoc.derived = false → now (.attest f) 0x11 [])
    ∧ (q.payload.length = 32 → s.m.latched = false → s.m.aoc.derived = true →
        now (.attest f) 0 (s.m.report q.payload ++ beBytes 96 (Config.attestSig (s.m.measure 1) (s.m.report q.payload)).toNat)))
  ∧ (asked → q.opcode ∉ bentinOps ∨ (q.opcode = 0x60 ∧ (q.u 0 1 = 0 ∨ 4 < q.u 0 1)) → now (.bentinOtherOpcode f) 0x71 [])
  ∧ (s.m.bentinIn f = some (n, b) → frameOk b = true → s.m.ownRequest n b = false →
    let k := fDevice b
    let y := s.m.ses (fSession b)
    let gone : Dev := { s.m with links := frameTook f s.m.links }
    (s.m.role = 2 → becomes (.bentinRelay f) s gone)
    ∧ (s.m.role = 1 → fType b = 0 → k ≠ s.m.groupIndex → k < 16 → s.m.memberUp k = true →
        becomes (.bentinRelay f) s { gone with sent := s.m.sent ++ [s.m.out (bridgeQp + k) (reframe b 9 (fFlags b ||| 1))] })
    ∧ (s.m.role ≠ 2 → fType b = 0 → k ≠ s.m.groupIndex → s.m.role ≠ 1 ∨ 16 ≤ k ∨ s.m.memberUp k = false → completes (.bentinRelay f) s fun t =>
        s.m.sameBut t [.links, .sent, .sessions] ∧ t.sent = s.m.sent ++ [s.m.out n (bentinFrame 1 (fOpcode b) s.m.groupIndex 2 (fSession b) (fReqId b) 0x7F y.seq [])]
        ∧ ∀ j, t.ses j = if j = fSession b then { y with seq := y.seq + 1 } else s.m.ses j)
    ∧ (s.m.role = 1 → fType b ≠ 0 → bridgeQp < n → n < 16384 → y.isOpen = true → becomes (.bentinRelay f) s { gone with sent := s.m.sent ++ [s.m.out y.src b] })
    ∧ (s.m.role ≠ 2 → fType b ≠ 0 → s.m.role ≠ 1 ∨ n ≤ bridgeQp ∨ 16384 ≤ n ∨ y.isOpen = false → becomes (.bentinRelay f) s gone))

/-- R470, R474, R478, R525, R537, R572. -/
def Obligations.BentinUpdatesAndQueues : Prop := ∀ (s : State) (f : BFrom) (q : Request) (wp : Bool),
  let x := s.m.ses q.ses
  let asked (op : Nat) : Prop := s.m.asked f q ∧ q.opcode = op
  let replies (c : Instr) (status : Nat) (parts : List Part) (P : Dev → Prop) : Prop :=
    completes c s fun t => s.m.replied t f q status x.seq [] parts ∧ P t
  let up (k : Nat) : Prop := asked 0x60 ∧ q.u 0 1 = k
  let held := s.m.aoc.update
  -- a sub-operation that only answers
  let refuses (c : Instr) (status : Nat) : Prop := replies c status [.aoc] fun t => t.aoc = { s.m.aoc with flashWp := wp }
  let protects (kind : Nat) : Prop := wp = true ∧ (kind = 1 ∨ kind = 4)
  let others : Prop := ∃ u, held = some u ∧ u.session ≠ q.ses
  s.sound = true → (q.src ≠ bridgeQp ∨ s.m.role ≠ 2) →
  (let kind := q.u 1 1
    let sel := q.u 2 1
    let len := q.u 3 4
    let opens (slot : Nat) : Prop := replies (.fwUpdateBegin f wp) 0 [.aoc] fun t =>
      t.aoc = { s.m.aoc with flashWp := wp, update := some ⟨q.ses, kind, slot, len, []⟩ }
    let slot := if sel = 2 then (match s.m.forceSlot kind with
      | some i => 1 - i
      | none => 0) else sel
    let room := if kind = 1 then 0x800000 else if kind = 2 then 0x4000000 else if kind = 3 then 0x40000 else 0x10000
    let c : Instr := .fwUpdateBegin f wp
    up 1 →
    (q.payload.length ≠ 8 → refuses c 0x71)
    ∧ (q.payload.length = 8 →
      (kind = 5 → (sel ≠ 0 ∨ len ≠ 12800 → refuses c 0x71) ∧ (sel = 0 → len = 12800 → others → refuses c 0x11) ∧ (sel = 0 → len = 12800 → ¬others → opens 0))
      ∧ (kind = 0 ∨ 5 < kind ∨ (kind < 5 ∧ 2 < sel) → refuses c 0x71)
      ∧ (1 ≤ kind → kind ≤ 4 → sel ≤ 2 →
        (room < len → refuses c 0x40)
        ∧ (len ≤ room → s.m.forceSlot kind = some slot ∨ others ∨ protects kind → refuses c 0x11)
        ∧ (len ≤ room → s.m.forceSlot kind ≠ some slot → ¬others → ¬protects kind → opens slot))))
  ∧ (∀ k c, (k, c) ∈ [(2, Instr.fwUpdateData f wp), (3, .fwUpdateCommit f wp), (4, .fwUpdateAbort f wp)] → up k → held = none ∨ others → refuses c 0x11)
  ∧ (∀ u, held = some u → u.session = q.ses →
    let closed : Option FwUpdate := none
    let slot := slotOf u.kind u.slot
    (up 2 →
      let o := q.u 1 4
      let d := (q.payload.drop 5).take 65024
      let past := o + d.length - u.len
      let c : Instr := .fwUpdateData f wp
      (q.payload.length < 5 ∨ 65032 < q.payload.length → refuses c 0x71)
      ∧ (5 ≤ q.payload.length → q.payload.length ≤ 65032 → 3 < past ∨ u.len < o → refuses c 0x12)
      ∧ (5 ≤ q.payload.length → q.payload.length ≤ 65032 → past ≤ 3 → o ≤ u.len → protects u.kind → refuses c 0x11)
      ∧ (5 ≤ q.payload.length → q.payload.length ≤ 65032 → past ≤ 3 → o ≤ u.len → ¬protects u.kind →
        (∀ y, slot = some y → replies c 0 [.aoc] fun t => t.aoc.update = some u ∧ ∀ a, t.flashAt a =
            if y.1 + o ≤ a ∧ a < y.1 + o + (d.length - past) then d.getD (a - (y.1 + o)) 0 else s.m.flashAt a)
        ∧ (slot = none → replies c 0 [.aoc] fun t => ∃ v, t.aoc.update = some v ∧ v.session = u.session ∧ v.kind = u.kind ∧ v.len = u.len
            ∧ ∀ a, sget (fun _ => (0 : Byte)) v.buf a = if o ≤ a ∧ a < o + (d.length - past) then d.getD (a - o) 0 else sget (fun _ => (0 : Byte)) u.buf a)))
    ∧ (let erases (t : Dev) : Prop := t.aoc.update = closed ∧ ∀ a, t.flashAt a = if ¬protects u.kind ∧ ∃ y, slot = some y ∧ y.1 ≤ a ∧ a < y.1 + y.2
        then 0xFF else s.m.flashAt a
      (up 4 → replies (.fwUpdateAbort f wp) 0 [.aoc] erases)
      ∧ (up 3 → u.kind ≠ 5 →
        let ok := s.m.slotValid u.kind u.slot s.m.owner (fun b => u.kind ≠ 3 || manifestOk s.m.aoc.straps b)
        (ok = true → replies (.fwUpdateCommit f wp) 0 [.aoc] fun t => t.aoc = { s.m.aoc with flashWp := wp, update := closed })
        ∧ (ok = false → replies (.fwUpdateCommit f wp) 0x42 [.aoc] erases))
      ∧ (up 3 → u.kind = 5 →
        let ok := s.m.objValid 5 12800 u.rd s.m.owner
        (ok = true → replies (.fwUpdateCommit f wp) 0 [.aoc, .regs, .mem, .undef, .free] fun t => t.aoc = { s.m.aoc with flashWp := wp, update := closed }
          ∧ s.m.regsBecome t [(regAddr .boot 20 0 (R.CNT + 24), max (s.m.cnt 6) (min (leAt (u.rd 8 4) 0 4) 0xFFFFFFFF))])
        ∧ (ok = false → replies (.fwUpdateCommit f wp) 0x42 [.aoc] fun t => t.aoc = { s.m.aoc with flashWp := wp, update := closed }))))
  ∧ (let n := q.u 0 2
    let sameAs (c d : Instr) : Prop := completes c s fun t => ∃ u v : Dev, s.m.sameBut u [.links, .sessions] ∧ u.links = frameTook f s.m.links
      ∧ (∀ j, (u.ses j).seq = x.seq ∨ j ≠ q.ses) ∧ exec d { s with m := u } = .next { s with m := v }
      ∧ v.sameBut t [.sent, .sessions] ∧ t.sent = v.sent ++ [s.m.out q.src (bentinFrame 1 q.opcode s.m.groupIndex 0 q.ses q.id 0 (v.ses q.ses).seq [])]
    let cmds : List (Nat × Instr) := [(0x21, .queueCancel f), (0x22, .queuePreempt f), (0x23, .queueResume f)]
    let plain (c : Instr) (status : Nat) : Prop := replies c status [] fun _ => True
    (∀ e, e ∈ cmds → asked e.1 → (q.payload.length ≠ 4 → plain e.2 0x71) ∧ (q.payload.length = 4 → s.m.queueOn n = false → plain e.2 0x12))
    ∧ (∀ h : n < 4096, q.payload.length = 4 → s.m.queueOn n = true →
      (asked 0x21 → q.u 2 2 = 0xFFFF → sameAs (.queueCancel f) (.qCtrlCancel ⟨n, h⟩))
      ∧ (asked 0x22 → sameAs (.queuePreempt f) (.qCtrlPreempt ⟨n, h⟩))
      ∧ (asked 0x23 → sameAs (.queueResume f) (.qCtrlResume ⟨n, h⟩))
      ∧ (asked 0x21 → q.u 2 2 ≠ 0xFFFF → (∀ c, c ∈ s.m.cmdsOf n → c.ctag ≠ q.u 2 2) → plain (.queueCancel f) 0x12)
      ∧ (asked 0x21 → q.u 2 2 ≠ 0xFFFF → ∀ c (g : Fin 4096), (s.m.cmdsOf n).find? (fun c => c.ctag == q.u 2 2) = some c → g.val = q.u 2 2 → g.val / 256 = n / 256 →
          s.m.cmdByTag g = some c → sameAs (.queueCancel f) (.drvCancel ⟨n / 256, by omega⟩ g))))

/-- R458 to R466, R470. -/
def Obligations.QueuesFetchArmAndStart : Prop := ∀ (s : State) (q : Fin 4096) (d : Fin 16) (ctag : Fin 4096) (c : Command),
  let cfg := s.m.qreg q R.Q_CFG
  let cons := s.m.qreg q R.Q_CONS
  let waiting := (s.m.qreg q R.Q_PROD + 2 ^ 32 - cons) % 2 ^ 32
  let size := s.m.qreg q R.Q_RING_SIZE % 16
  let a := s.m.qreg q R.Q_RING_LO / 4096 * 4096 + s.m.qreg q R.Q_RING_HI % 2 ^ 14 * 2 ^ 32 + cons % 2 ^ size * 64
  let Q := s.m.queue q
  let own := s.m.cmdsOf q
  let heads (x : Command) : Bool := x.st == .queued
  let on : Prop := s.m.domOn (q.val / 256 * 4) = true
  let idle : Prop := ¬on ∨ cfg % 2 = 0 ∨ Q.err = true ∨ waiting = 0 ∨ own.any heads = true
  let is (x : Command) (t : Dev) (n : Nat) (P : Command → Prop) : Prop := ∀ y, y ∈ (t.drv n).cmds → y.key = x.key → P y
  let cpl := s.m.qreg q R.Q_RING_SIZE / 16 % 16
  let fit : Prop := 4 ≤ size ∧ size ≤ 12 ∧ 4 ≤ cpl ∧ cpl ≤ 12 ∧ waiting ≤ 2 ^ size ∧ a + 64 ≤ stackEnd
  let body := s.m.bytesAt a 64
  let roomy : Prop := (own.filter fun x => !x.stage).length ≤ cfg / 256 % 16
  let waits : Prop := leAt body 0 1 = 1 ∧ bitAt (leAt body 1 1) 0 = true ∧ bitAt (s.m.qreg q R.Q_TRIG) 16 = true ∧ Q.trig = 0
  s.sound = true → s.m.untraced →
  (idle → becomes (.queueFetch q) s s.m)
  ∧ (¬idle → ¬fit → completes (.queueFetch q) s fun t => s.m.sameBut t [.regs, .drovers]
      ∧ (t.queue q).err = true ∧ bitAt (t.qreg q R.Q_STATE) 31 = true ∧ t.qreg q R.Q_CONS = cons ∧ t.cmdsOf q = own)
  ∧ (¬idle → fit → s.m.reachRange a 64 = .ok → s.m.errorless → ¬roomy ∨ waits → becomes (.queueFetch q) s s.m)
  ∧ (¬idle → fit → s.m.reachRange a 64 = .ok → s.m.errorless → roomy → ¬waits → completes (.queueFetch q) s fun t =>
      s.m.sameBut t [.regs, .drovers] ∧ t.qreg q R.Q_CONS = (cons + 1) % 2 ^ 32 ∧ t.queue q = { Q with seq := Q.seq + 1 }
      ∧ ∃ x, (t.drv (q.val / 256)).cmds = (s.m.drv (q.val / 256)).cmds ++ [x] ∧ x.queue = q.val ∧ x.seq = Q.seq ∧ x.body = body ∧ x.st = .queued
        ∧ x.key / 2 ^ 32 = q.val + 1)
  ∧ (own.find? heads = none → becomes (.commandArm q) s s.m)
  ∧ (own.find? heads = some c → c.key / 2 ^ 32 = q.val + 1 →
    let room : Prop := (own.filter fun x => x.st != .queued && !x.stage).length ≤ cfg / 256 % 16
    let trigger : Prop := c.trigs = true ∧ bitAt (s.m.qreg q R.Q_TRIG) 16 = true
    let n := q.val / 256
    let marker : Prop := leAt c.body 0 1 = 2
    let armed (tag : Nat) (x : Command) : Command := { x with st := .armed, ctag := tag, order := (s.m.drv n).order }
    (¬room ∨ (trigger ∧ Q.trig = 0) → becomes (.commandArm q) s s.m)
    ∧ (room → ¬(trigger ∧ Q.trig = 0) →
      (¬marker → s.m.freeCtags n = [] → Q.tagSince = 0 → completes (.commandArm q) s fun t => s.m.sameBut t [.drovers]
        ∧ t.queue q = { Q with tagSince := s.m.clock + 1 } ∧ (t.drv n).cmds = (s.m.drv n).cmds)
      ∧ (marker ∨ (s.m.freeCtags n ≠ [] ∧ Q.tagSince = 0) → s.m.cmdRefused c = false → completes (.commandArm q) s fun t => s.m.sameBut t [.drovers, .free]
        ∧ (t.queue q).trig = Q.trig - b2n (decide trigger)
        ∧ ∃ tag, (if marker then tag = 0xFFFF else tag ∈ s.m.freeCtags n)
          ∧ (t.drv n).cmds = (s.m.drv n).cmds.map fun x => if x.key = c.key then armed tag x else x)
      ∧ (marker ∨ (s.m.freeCtags n ≠ [] ∧ Q.tagSince = 0) → s.m.cmdRefused c = true → completes (.commandArm q) s fun t =>
        t.reg .drv n 0 R.DRV_REFUSED = satAdd (s.m.reg .drv n 0 R.DRV_REFUSED) 1 ∧ is c t n fun y => y.st = .complete ∧ y.status = 0x71)))
  ∧ (own.find? heads = none → Q.held = [] → own.find? (fun x => x.st == .armed && leAt x.body 0 1 = 2) = some c → c.key / 2 ^ 32 = q.val + 1 →
    ((∃ x, x ∈ own ∧ x.stage = false ∧ x.seq < c.seq) → becomes (.marker q) s s.m)
    ∧ ((∀ x, x ∈ own → x.stage = true ∨ c.seq ≤ x.seq) → completes (.marker q) s fun t => is c t (q.val / 256) fun y => y.st = .complete))
  ∧ (s.m.domOn (4 * d.val) = false ∨ s.m.ranked d = [] → becomes (.drvDispatch d) s s.m)
  ∧ (s.m.domOn (4 * d.val) = true → s.m.ranked d = [c] → s.m.cmdsSound d →
    (c.st = .parked → s.m.fits d c [] = true → becomes (.drvDispatch d) s s.m)
    ∧ (c.st = .armed → s.m.fits d c [] = true → completes (.drvDispatch d) s fun t => s.m.sameMemory t
      ∧ (is c t d fun y => y.st = .waking ∧ y.slots = true ∧ y.fast = if c.started then c.fast else bitAt (s.m.qreg c.queue R.Q_CFG) 1)
      ∧ ∀ l, l ∈ c.clusters → s.m.holdsWakes = false → (t.dom (clDom (ck d (s.m.physOf d l)))).req = 1)
    ∧ (c.st = .armed → s.m.fits d c [] = false → completes (.drvDispatch d) s fun t => (is c t d fun y => y.st = .armed)
      ∧ ∀ v, s.m.victim d c (s.m.lacking d c []) = some v → is v t d fun y => y.st = .preempting ∧ y.parkBy = .drover))
  ∧ (s.m.cmdByTag ctag = none → becomes (.commandStart ctag) s s.m)
  ∧ (s.m.cmdByTag ctag = some c →
    let n := ctag.val / 256
    let key (l : Nat) := ck n (s.m.physOf n l)
    (c.st ≠ .waking → becomes (.commandStart ctag) s s.m)
    ∧ (c.st = .waking → s.m.cmdOn c = false → completes (.commandStart ctag) s fun t => s.m.sameMemory t ∧ (is c t n fun y => y.st = .waking)
      ∧ (s.m.holdsWakes = true → t = s.m) ∧ ∀ l, l ∈ c.clusters → s.m.holdsWakes = false → (t.dom (clDom (key l))).req = 1)
    ∧ (c.st = .waking → s.m.cmdOn c = true → s.m.cmdsSound n → c.preemptReq = .none → (c.clusters.map (s.m.physOf n)).Nodup →
      (∀ l, l ∈ c.clusters → c.flocks ≤ (s.m.cl (key l)).freeSlotsOf.length) → completes (.commandStart ctag) s fun t =>
        s.m.sameBut t [.clusters, .drovers, .regs, .free]
        ∧ (is c t n fun y => y.st = .running ∧ y.started = true ∧ y.runOrder = (s.m.drv n).order ∧ y.tStart = if c.started then c.tStart else s.m.time)
        ∧ ∀ i l, c.clusters[i]? = some l →
          (∀ z, z < 224 → z ∉ (s.m.cl (key l)).freeSlotsOf → t.flock (key l) (z / 2) (z % 2) = s.m.flock (key l) (z / 2) (z % 2))
          ∧ ∀ j, j < c.flocks → ∃ z, z ∈ (s.m.cl (key l)).freeSlotsOf ∧
            let x := t.flock (key l) (z / 2) (z % 2)
            ((t.cl (key l)).core (z / 2)).icache = [] ∧ x.st = .run ∧ x.pc = leAt c.body 8 8 % 2 ^ 48 ∧ x.active = leAt c.body 26 1 ∧ x.live = leAt c.body 26 1 ∧ x.stack = [] ∧ x.cmd = c.key
            ∧ x.num = i * c.flocks + j
            ∧ ∀ u, u < 8 → (x.thr u).p = 1 ∧ (x.thr u).fstat = 0 ∧ (x.thr u).v = [] ∧ ∀ r, (x.thr u).x r = if r = 1 then BitVec.ofNat 64 (leAt c.body 16 8 % 2 ^ 48)
                else if r = 2 then BitVec.ofNat 64 (i * c.flocks + j) else 0))
  ∧ (let next := own.find? fun x => x.st == .queued || x.st == .armed || x.st == .waking
    (next = none → becomes (.run q) s s.m)
    ∧ (next = some c → c.isRun = false → becomes (.run q) s s.m)
    ∧ ((s.m.drv (q.val / 256)).cmds = [c] → c.queue = q.val → c.key / 2 ^ 32 = q.val + 1 → c.isRun = true → c.st = .armed → on → c.slots = false → c.flocks ≤ 224 →
      c.ctag / 256 = q.val / 256 → s.m.cmdOn c = true → c.preemptReq = .none →
      (∀ l, l ∈ c.clusters → (s.m.dom (clDom (ck (q.val / 256) (s.m.physOf (q.val / 256) l)))).req = 1) →
      completes (.run q) s fun t => is c t (q.val / 256) fun y => y.st = .running ∧ y.slots = true))

/-- R459, R462, R464, R466, R468 to R470, R472 to R474, R477. -/
def Obligations.CommandsCompleteParkAndResume : Prop := ∀ (s : State) (q : Fin 4096) (d : Fin 16) (l : Fin 160) (ctag : Fin 4096) (c : Command) (v : BitVec 32),
  let is (x : Command) (t : Dev) (n : Nat) (P : Command → Prop) : Prop := ∀ y, y ∈ (t.drv n).cmds → y.key = x.key → P y
  let on : Prop := s.m.domOn (q.val / 256 * 4) = true
  s.sound = true → s.m.untraced →
  (s.m.cmdByTag ctag = none → becomes (.commandComplete ctag) s s.m ∧ becomes (.commandPark ctag) s s.m ∧ becomes (.commandResume ctag) s s.m)
  ∧ (s.m.cmdByTag ctag = some c → s.m.cmdsSound (ctag.val / 256) →
    let n := ctag.val / 256
    let Q := s.m.queue c.queue
    let key (l : Nat) := ck n (s.m.physOf n l)
    let prod := s.m.qreg c.queue R.Q_CPL_PROD
    let size := s.m.qreg c.queue R.Q_RING_SIZE / 16 % 16
    let base := s.m.qreg c.queue R.Q_CRING_LO / 4096 * 4096 + s.m.qreg c.queue R.Q_CRING_HI % 2 ^ 14 * 2 ^ 32
    let full : Prop := size < 4 ∨ 12 < size ∨ 2 ^ size ≤ (prod + 2 ^ 32 - s.m.qreg c.queue R.Q_CPL_CONS) % 2 ^ 32
    let flags (final : Bool) := b2n final + 2 * b2n c.resumed + 4 * b2n c.replayed + 8 * b2n c.killed + 16 * b2n c.woke
    let record (status us : Nat) (final : Bool) (done : Nat) : List Byte := leBytes 1 status ++ leBytes 1 (flags final) ++ leBytes 2 c.ctag ++ sliceBytes c.body 4 4
      ++ leBytes 4 (c.seq % 2 ^ 32) ++ leBytes 2 c.queue ++ leBytes 2 us ++ leBytes 8 c.tStart ++ leBytes 8 done
    let ends : Prop := (c.st = .running ∨ c.failed = true) ∧ s.m.cmdQuiet c.key = true ∧ ∀ f, f ∈ s.m.rfaults → f.key ≠ c.key
    let ses := s.m.ses (s.m.qreg c.queue R.Q_CFG / 65536 % 256)
    (c.st = .complete → Q.held = [] → becomes (.commandComplete ctag) s s.m)
    ∧ (c.st ≠ .complete → ¬ends → becomes (.commandComplete ctag) s s.m)
    ∧ (c.st ≠ .complete → ends → c.stage = false → Q.held = [] → ¬full → base + 2 ^ size * 32 + 4 ≤ stackEnd →
      let rec_ := record c.status 0 true s.m.time
      let ws := [(base + prod % 2 ^ size * 32, rec_), (base + 2 ^ size * 32, leBytes 4 ((prod + 1) % 2 ^ 32))]
      s.m.writable ws → completes (.commandComplete ctag) s fun t => s.m.wroteDpa t ws ∧ t.qreg c.queue R.Q_CPL_PROD = (prod + 1) % 2 ^ 32
        ∧ s.m.sameBut t [.clusters, .dies, .drovers, .regs, .rfaults, .mem, .undef, .stackTab, .sent, .sessions, .links]
        ∧ (∀ y, y ∈ (t.drv n).cmds → y.key ≠ c.key) ∧ (∀ k e, k / 168 = n → e ∈ (t.cl k).tags → e.2.cmd ≠ c.key)
        ∧ (bitAt (s.m.qreg c.queue R.Q_CFG) 24 = false → t.sent = s.m.sent)
        ∧ (bitAt (s.m.qreg c.queue R.Q_CFG) 24 = true → ses.isOpen = true → (ses.src ≠ bridgeQp ∨ s.m.role ≠ 2) →
            t.sent = s.m.sent ++ [s.m.out ses.src (bentinFrame 2 0x20 s.m.groupIndex 0 (s.m.qreg c.queue R.Q_CFG / 65536 % 256) 0 (leAt rec_ 0 1) ses.seq rec_)]))
    ∧ (let parks : Prop := c.st = .preempting ∧ c.failed = false ∧ s.m.cmdStopped c.key = true ∧ ∀ f, f ∈ s.m.rfaults → f.key ≠ c.key
      (¬parks → becomes (.commandPark ctag) s s.m)
      ∧ (parks → c.cancelReq = false → c.stage = false → full → ∀ cl, c.clusters = [cl] → c.save + c.saveLen ≤ stackEnd → s.m.reachRange c.save c.saveLen = .ok →
        s.m.errorless → completes (.commandPark ctag) s fun t => (is c t n fun y => y.st = .parked ∧ y.slots = false)
          ∧ t.reg .drv n 0 R.DRV_PREEMPTIONS = satAdd (s.m.reg .drv n 0 R.DRV_PREEMPTIONS) 1
          ∧ (t.queue c.queue).held = Q.held ++ [⟨record 0x31 (min 65535 ((s.m.clock - c.preemptAt) / 1000)) false 0, none⟩]
          ∧ (∀ g, g ∈ (s.m.cl (key cl)).flocksOf c.key → t.flock (key cl) g.1 g.2 = Flock.idle)
          ∧ ∀ j g, j < c.flocks → ((s.m.cl (key cl)).flocksOf c.key).find? (fun g => (s.m.flock (key cl) g.1 g.2).num == j) = some g →
              t.bytesAt (c.save + 65536 + 65536 + j * 20864) 20864 = (s.m.flock (key cl) g.1 g.2).context))
    ∧ (let asks : Prop := c.st = .parked ∧ c.failed = false ∧ (c.parkBy = .drover ∨ c.resumeReq = true) ∧ s.m.fits n c (s.m.claimsBefore n c) = true
      (¬asks → becomes (.commandResume ctag) s s.m)
      ∧ (asks → s.m.cmdOn c = false → s.m.holdsWakes = false → completes (.commandResume ctag) s fun t => (is c t n fun y => y.st = .parked)
          ∧ ∀ cl, cl ∈ c.clusters → (t.dom (clDom (key cl))).req = 1)
      ∧ (asks → s.m.cmdOn c = true → s.m.errorless → (∀ a, a ∈ c.contexts → s.m.reachRange a 20864 = .ok) → completes (.commandResume ctag) s fun t =>
          s.m.sameMemory t ∧ (is c t n fun y => y.st = .running ∧ y.resumed = true ∧ y.slots = true ∧ y.parkBy = .none ∧ y.runOrder = (s.m.drv n).order)
          ∧ t.reg .drv n 0 R.DRV_RESUMES = satAdd (s.m.reg .drv n 0 R.DRV_RESUMES) 1
          ∧ ∀ x, c.saved = [x] → x.flocks.length ≤ (s.m.cl (key x.logical)).freeSlotsOf.length → ∀ m, m ∈ x.flocks →
            ∃ z, z ∈ (s.m.cl (key x.logical)).freeSlotsOf ∧ t.flock (key x.logical) (z / 2) (z % 2)
              = flockOfContext (s.m.bytesAt (ctxAddr c ((c.clusters.findIdx? (· == x.logical)).getD 0) (m % max 1 c.flocks)) 20864) c m (s.m.cmdPrio c))))
  ∧ (let k := ck d (s.m.physOf d l)
    let ctrl := s.m.reg .drv d 0 R.DRV_CTRL
    let sleeps : Prop := s.m.domOn (4 * d.val) = true ∧ (s.m.dom (clDom k)).st = .on ∧ ctrl % 2 = 1
      ∧ bitAt (s.m.reg .drv d 0 (R.DRV_PIN + 4 * (l.val / 32))) (l.val % 32) = false ∧ s.m.clsKeeps k = false ∧ ∀ x, x ∈ (s.m.drv d).cmds → x.keepsAwake l = false
    (¬sleeps → becomes (.clusterIdleSleep d l) s s.m)
    ∧ (sleeps → completes (.clusterIdleSleep d l) s fun t => t.clock = max s.m.clock ((s.m.cl k).idleSince + ctrl / 65536 * 1000)
        ∧ (t.dom (clDom k)).st = .transition ∧ (t.dom (clDom k)).req = 0))
  ∧ (let cancels (x : Command) (t : Dev) (n : Nat) : Prop :=
      (x.st = .queued ∨ x.st = .armed ∨ x.st = .waking ∨ x.st = .recover → is x t n fun y => y.st = .complete ∧ y.status = statusJoin x.status 0x30)
      ∧ (x.st = .running ∨ x.st = .parked → is x t n fun y => y.failed = true ∧ y.status = statusJoin x.status 0x30)
      ∧ (x.st = .preempting → is x t n fun y => y.st = .preempting ∧ y.cancelReq = true)
    let n := q.val / 256
    let size := s.m.qreg q R.Q_RING_SIZE % 16
    let waiting := (s.m.qreg q R.Q_PROD + 2 ^ 32 - s.m.qreg q R.Q_CONS) % 2 ^ 32
    let own := s.m.cmdsOf q
    (¬on → becomes (.qCtrlCancel q) s s.m ∧ becomes (.qCtrlPreempt q) s s.m ∧ becomes (.qCtrlResume q) s s.m ∧ becomes (.qCfgWrite q v) s s.m
        ∧ becomes (.qTrigWrite q v) s s.m)
    ∧ (on → s.m.cmdsSound n → (completes (.qCtrlCancel q) s fun t => (t.queue q).trig = 0 ∧ (∀ x, x ∈ own → cancels x t n)
        ∧ (4 ≤ size → size ≤ 12 → waiting ≤ 2 ^ size → t.qreg q R.Q_CONS = s.m.qreg q R.Q_PROD))
      ∧ (completes (.qCtrlResume q) s fun t => s.m.sameBut t [.drovers] ∧ (t.drv n).cmds = (s.m.drv n).cmds.map fun x =>
          if x.queue = q.val ∧ (((x.st = .preempting ∨ x.st = .parked) ∧ x.parkBy = .request) ∨ x.preemptReq = .request) then { x with resumeReq := true } else x)
      ∧ completes (.qCtrlPreempt q) s fun t =>
        (∀ x, x ∈ own → x.st = .running → x.failed = false → is x t n fun y => y.st = .preempting ∧ y.parkBy = .request)
        ∧ (∀ x, x ∈ own → x.st = .armed ∨ x.st = .waking → x.preemptReq = .none → is x t n fun y => y.st = x.st ∧ y.preemptReq = .request))
    ∧ (s.m.domOn (4 * d.val) = false ∨ ctag.val / 256 ≠ d.val ∨ s.m.cmdByTag ctag = none → becomes (.drvCancel d ctag) s s.m)
    ∧ (s.m.domOn (4 * d.val) = true → ctag.val / 256 = d.val → s.m.cmdByTag ctag = some c → s.m.cmdsSound d →
        (c.st = .complete → becomes (.drvCancel d ctag) s s.m) ∧ completes (.drvCancel d ctag) s fun t => cancels c t d)
    ∧ (on →
      let old := s.m.qreg q R.Q_CFG
      let w := v.toNat
      let err := if bitAt w 31 then 0 else old / 2 ^ 31 * 2 ^ 31
      let new := w / 65536 % 512 * 65536 + w / 256 % 16 * 256 + w % 128
      let locked : Prop := bitAt old 0 = true ∧ (bitAt w 2 ≠ bitAt old 2 ∨ w / 256 % 16 ≠ old / 256 % 16)
      let put (x : Nat) : Dev := s.m.put .q (q.val / 256) (q.val % 256) R.Q_CFG x
      (locked → becomes (.qCfgWrite q v) s (put (setBits old 31 31 1)))
      ∧ (¬locked → bitAt w 0 = false → becomes (.qCfgWrite q v) s (put (err + new)))
      ∧ (¬locked → bitAt w 0 = true → completes (.qCfgWrite q v) s fun t => s.m.sameBut t [.drovers, .regs]
        ∧ t.qreg q R.Q_CFG = err + new ∧ (t.queue q).err = false
        ∧ (t.queue q).seq = if bitAt old 0 then (s.m.queue q).seq else 0))
    ∧ (on →
      let h := v.toNat % 65536
      let ok : Prop := h / 2 ^ 14 ≠ 0 ∧ ∃ y, s.m.handleLock (q.val / 256) 168 h = some y ∧ y.dieOf = q.val / 256
      (bitAt v.toNat 16 = true → ¬ok → becomes (.qTrigWrite q v) s (s.m.put .q (q.val / 256) (q.val % 256) R.Q_CFG (setBits (s.m.qreg q R.Q_CFG) 31 31 1)))
      ∧ (bitAt v.toNat 16 = false ∨ ok → becomes (.qTrigWrite q v) s (s.m.put .q (q.val / 256) (q.val % 256) R.Q_TRIG (v.toNat % 2 ^ 17)))))

/-- R448, R479 to R481, R483, R484, R486. The layout of the HOST doorbell, a claim by a feature that R483 does not list and the timer after a release are
the model's, log entry 24. Class and DATA of the log entries are the model's where R554 leaves them open, log entry 16. -/
def Obligations.MailboxesAndClaims : Prop := ∀ (s : State) (m : Fin 64) (core : Fin 8) (data : List Byte) (r : Fin 5) (f : Fin 256),
  let x := s.m.mb m.val
  let cfg := s.m.reg .mb 20 m.val R.MB_CFG
  let unit := s.m.reg .mb 20 m.val R.MB_TARGET % 256
  let others (t : Dev) : Prop := ∀ j, j ≠ m.val → t.mb j = s.m.mb j
  -- the MAILBOX_SEND that waits is answered with the outcome word
  let answers (t : Dev) (result : Nat) : Prop :=
    (x.reply = none → t.sent = s.m.sent)
    ∧ ∀ p, x.reply = some p → p.src ≠ bridgeQp ∨ s.m.role ≠ 2 →
        t.sent = s.m.sent ++ [s.m.out p.src (bentinFrame 1 0x30 s.m.groupIndex 0 p.session p.reqId 0 (s.m.ses p.session).seq (leBytes 4 (x.seq * 65536 + b2n x.coll * 16 + result)))]
  s.sound = true →
  (data.length = 16 →
    let c : Instr := .mbSendWin m core data
    let id := 2 ^ 30 + core.val
    let seq := (x.seq + 1) % 65536
    (s.m.mbDown m.val = true → becomes c s (s.m.apply (.mbox m.val { x with down := some id })))
    ∧ (s.m.mbDown m.val = false →
      let k := s.m.mbCluster m.val
      let bell := storeAddr (k / 168) (k % 168) + s.m.reg .mb 20 m.val R.MB_DOORBELL_OFF / 4 % 2 ^ 21 * 4
      let ses := s.m.ses unit
      s.m.errorless → completes c s fun t => s.m.sameBut t [.mailboxes, .regs, .sent, .sessions, .links, .mem, .undef, .stackTab] ∧ others t
        ∧ t.mb m.val = ⟨data, id, seq, true, x.full, 0, s.m.clock, true, none, none⟩
        ∧ bitAt (t.reg .mb 20 m.val R.MB_STATUS) 1 = (x.full || bitAt (s.m.reg .mb 20 m.val R.MB_STATUS) 1)
        ∧ (cfg % 4 = 1 → t.sent = s.m.sent) ∧ (cfg % 4 ≠ 3 → s.m.sameMemory t)
        ∧ (cfg % 4 = 2 → ses.src ≠ bridgeQp ∨ s.m.role ≠ 2 →
            t.sent = s.m.sent ++ [s.m.out ses.src (bentinFrame 3 0x8001 s.m.groupIndex 0 unit 0 0 ses.seq (data ++ leBytes 4 id ++ leBytes 4 seq))])
        ∧ (cfg % 4 = 3 → memPlace bell = true → s.m.wroteDpa t [(bell, leBytes 4 seq)])))
  ∧ (x.full = false → becomes (.mbAck m) s s.m)
  ∧ (x.full = true → completes (.mbAck m) s fun t => s.m.sameBut t [.mailboxes, .sent, .sessions, .links] ∧ others t
      ∧ t.mb m.val = { x with full := false, waiting := false, result := if x.waiting then 1 else x.result, reply := none }
      ∧ answers t (if x.waiting then 1 else x.result))
  ∧ (x.waiting = false → becomes (.mbTimeout m) s s.m)
  ∧ (x.waiting = true → completes (.mbTimeout m) s fun t => s.m.sameBut t [.clock, .mailboxes, .sent, .sessions, .links] ∧ others t
      ∧ t.clock = max s.m.clock (x.sentAt + 1000 * (cfg / 4096)) ∧ t.mb m.val = { x with waiting := false, result := 2, reply := none } ∧ answers t 2)
  ∧ (let w := s.m.reg .res 20 0 (R.RES_CLAIM + 4 * r.val)
    let owner := w % 256
    let put (v : Nat) : Dev := s.m.put .res 20 0 (R.RES_CLAIM + 4 * r.val) v
    let listed : Prop := (r.val = 0 ∧ (f.val = 1 ∨ f.val = 2)) ∨ (r.val = 1 ∧ (f.val = 3 ∨ f.val = 4)) ∨ ((r.val = 2 ∨ r.val = 3) ∧ (f.val = 5 ∨ f.val = 3))
      ∨ (r.val = 4 ∧ (f.val = 6 ∨ f.val = 7))
    (¬listed ∨ owner = f.val → becomes (.resClaim r f) s s.m)
    ∧ (listed → owner = 0 → becomes (.resClaim r f) s
        { put (w + f.val) with aoc := { s.m.aoc with traceNext := if f.val = 6 then 0 else s.m.aoc.traceNext } })
    ∧ (listed → owner ≠ 0 → owner ≠ f.val → becomes (.resClaim r f) s
        ((put (setBits (setBits w 31 31 1) 23 16 f.val)).logged { LogEntry.plain 0 0x0B 0 0 with index := r.val, data := r.val * 65536 + f.val * 256 + owner }))
    ∧ (owner ≠ f.val ∨ f.val = 0 → becomes (.resRelease r f) s s.m)
    ∧ (owner = f.val → f.val ≠ 0 → becomes (.resRelease r f) s
        (let u := put (w - f.val)
          if r.val = 2 ∨ r.val = 3 then u.put .tmr 20 (r.val - 2) R.TMR_CTRL (setBits (s.m.reg .tmr 20 (r.val - 2) R.TMR_CTRL) 0 0 0) else u)))

/-- R484, R488, R496, R516, R527, R528, R540, R573, R580. What a new start-up keeps of the management complex is the model's, log entry 20. -/
def Obligations.StartUpsBegin : Prop := ∀ (s : State) (v : BitVec 32) (n : Fin 8),
  let w := s.m.power
  let boot := regAddr .boot 20 0 R.BOOT_STATUS
  let cnts := (List.range 8).map fun i => regAddr .boot 20 0 (R.CNT + 4 * i)
  let part := regAddr .aoc 20 0 R.AOC_PART_ID
  let claims := (List.range 5).map fun r => regAddr .res 20 0 (R.RES_CLAIM + 4 * r)
  let tamper := [regAddr .boot 20 0 R.TAMPER_STATUS, regAddr .boot 20 0 R.TAMPER_EVENTS]
  let begun (t : Dev) (kept : List Nat) : Prop :=
    t.log = [] ∧ t.logNext = 0 ∧ (∀ j, t.ses j = Session.reset) ∧ (∀ j, t.mb j = Mailbox.reset) ∧ t.rfaults = [] ∧ t.regAt boot = 2
      ∧ (∀ A, aocBase ≤ A → A < aocBase + 2 ^ 32 → A ≠ boot → t.regAt A = if A = part ∨ A ∈ cnts ++ kept then s.m.regAt A else (regReset A).toNat)
      ∧ t.power.pen = false ∧ t.power.envMax = s.m.regAt part / 16 % 16 ∧ t.power.envActive = 1 ∧ t.aoc.update = none ∧ t.aoc.inForce = []
      ∧ t.aoc.dead = 0 ∧ t.aoc.derived = false
  let halted (t : Dev) : Prop := (∀ d, t.drv d = Drover.reset) ∧ (∀ j, t.pipe j = Pipe.reset) ∧ (∀ j, t.slu j = Sluice.reset)
    ∧ ∀ k, (t.cl k).cores = [] ∧ (t.cl k).entries = [] ∧ (t.cl k).barges = [] ∧ (t.cl k).tags = []
  let falling (t : Dev) : Prop := t.power.rise = [] ∧ t.dom mgmtDom = s.m.dom mgmtDom
    ∧ (∀ k, k ≠ mgmtDom → (t.dom k).req = 0 ∧ ((s.m.dom k).st = .off ∨ (s.m.dom k).st = .retain → (t.dom k).st = .off)
      ∧ ((s.m.dom k).st = .on → (t.dom k).st = .transition ∨ ((t.dom k).st = .on ∧ k < 64 ∧ k % 4 = 0)))
    ∧ ∀ x, x < stackEnd → (s.m.dom (64 + s.m.stackNo x)).st = .retain → t.byteAt x = 0
  s.sound = true →
  (w.inputOk = true ∨ w.vin < 4000 → becomes .inputOkSet s s.m)
  ∧ (w.inputOk = false → 4000 ≤ w.vin → completes .inputOkSet s fun t =>
      s.m.sameBut t [.clock, .doms, .power, .aoc, .regs, .log, .logNext, .sessions, .mailboxes, .rfaults] ∧ begun t [] ∧ t.dom mgmtDom = ⟨.on, 1, none⟩
        ∧ (∀ k, k ≠ mgmtDom → t.dom k = s.m.dom k) ∧ t.clock = s.m.clock + 10000000
        ∧ t.power.inputOk = true ∧ t.power.uvWarn = false ∧ t.power.lastEmerg = 0 ∧ t.aoc.vault = [] ∧ t.aoc.step = if s.m.aoc.resetLow then 0 else 2)
  ∧ (s.m.aoc.resetLow = true → becomes .resetAssert s s.m)
  ∧ (s.m.aoc.resetLow = false → completes .resetAssert s fun t => halted t ∧ falling t ∧ t.clock = s.m.clock + 10000
      ∧ t.aoc = { s.m.aoc with resetLow := true, step := 0, update := none } ∧ t.regAt boot = 1 ∧ t.power.pen = false ∧ (∀ A, A ∈ claims → t.regAt A = 0)
      ∧ (∀ A, A ∈ cnts → t.regAt A = s.m.regAt A) ∧ t.log = s.m.log ∧ t.sent = s.m.sent ∧ t.repair = s.m.repair)
  ∧ (s.m.aoc.resetLow = false → becomes .resetRelease s s.m)
  ∧ (s.m.aoc.resetLow = true → w.inputOk = false → becomes .resetRelease s { s.m with aoc := { s.m.aoc with resetLow := false } })
  ∧ (s.m.aoc.resetLow = true → w.inputOk = true → completes .resetRelease s fun t =>
      s.m.sameBut t [.power, .aoc, .regs, .log, .logNext, .sessions, .mailboxes, .rfaults] ∧ begun t tamper ∧ t.aoc.step = 2 ∧ t.aoc.resetLow = false
        ∧ t.aoc.vault = s.m.aoc.vault ∧ t.power.lastEmerg = w.lastEmerg ∧ t.power.inputOk = true)
  ∧ (v ≠ 0xB007C0DE ∨ w.inputOk = false ∨ s.m.recovery = true → becomes (.bootCtrlWrite v) s s.m)
  ∧ (v = 0xB007C0DE → w.inputOk = true → s.m.recovery = false → completes (.bootCtrlWrite v) s fun t => begun t (claims ++ tamper) ∧ halted t ∧ falling t ∧ t.aoc.step = 2
      ∧ t.aoc.vault = s.m.aoc.vault ∧ t.clock = s.m.clock ∧ t.power.inputOk = true)
  ∧ (let steps : Prop := s.m.aoc.step = 2 ∧ w.inputOk = true ∧ w.ref25 = true ∧ s.m.aoc.resetLow = false ∧ s.m.aoc.dead % 4 ≠ 3
    let limit (m : Nat) : Nat := if m = 2 ∨ m = 4 then 2 else if m = 3 then 5 else if m = 5 then 12 else if m = 6 then 16 else 6
    let after := s.m.clock + limit n.val * 1000000000
    (¬steps → becomes (.startupStepTimeout n) s s.m)
    ∧ (steps → n.val = 2 → bitAt s.m.aoc.dead 0 = false → becomes (.startupStepTimeout n) s
        { s.m with clock := after, aoc := { s.m.aoc with dead := s.m.aoc.dead + 1 } })
    ∧ (steps → n.val = 2 → bitAt s.m.aoc.dead 0 = true → becomes (.startupStepTimeout n) s
        { s.m.put .boot 20 0 R.BOOT_STATUS 1 with clock := after, aoc := { s.m.aoc with dead := 3, step := 0 } })
    ∧ (steps → 3 ≤ n.val → completes (.startupStepTimeout n) s fun t => t.clock = after ∧ t.power.pen = true ∧ t.aoc = { s.m.aoc with step := 0 }
        ∧ t.regAt boot = if bitAt (s.m.regAt boot) 30 then s.m.regAt boot else 2 ^ 30 + 0x109))

/-- R340, R344, R516, R517, R519, R521, R525 to R527, R531, R534 to R536. The layout of the READY entry, and the map of a die to which nothing was written, are
the model's, log entries 20 and 5. Class and DATA of
the log entries are the model's where R554 leaves them open, log entry 16. -/
def Obligations.StartUpRuns : Prop := ∀ (s : State) (env : BootEnv),
  let w := s.m.power
  let c : Instr := .startUp env
  let boot := regAddr .boot 20 0 R.BOOT_STATUS
  let fresh : Prop := s.m.aoc.step = 2 ∧ w.inputOk = true ∧ w.ref25 = true ∧ s.m.aoc.resetLow = false ∧ s.m.aoc.dead % 4 ≠ 3
    ∧ ∀ e, e ∈ s.m.doms → e.1 = mgmtDom ∨ e.2.st = .off ∨ e.2.st = .retain
  let ok0 : Prop := env.aocOk = true ∧ bitAt s.m.aoc.dead 0 = false
  let ok1 : Prop := env.standbyOk = true ∧ bitAt s.m.aoc.dead 1 = false
  -- the device with the repair maps read
  let loaded := loadMaps.run s.m
  -- the objects that flash holds
  let owner := s.m.owner
  let stage1 := s.m.bestSlot 1 owner fun _ => true
  let main := s.m.bestSlot 2 owner fun _ => true
  let man := if owner.isSome then s.m.bestSlot 3 owner (manifestOk env.straps.val) else none
  let body := match man with
    | some i => s.m.slotRd 3 i 12800 1024
    | none => defaultManifest
  let svn (kind i : Nat) : Nat := leAt (s.m.slotRd kind i 8 4) 0 4
  let ran (t : Dev) : Prop := t.clock = s.m.clock + env.ns ∧ t.role = env.straps.val ∧ t.aoc.straps = env.straps.val ∧ t.aoc.step = 0
  let counted (t : Dev) : Prop := ran t ∧ t.cnt 0 = min (s.m.cnt 0 + 1) 0xFFFFFFFF
  let pens (t : Dev) (reason : Nat) : Prop :=
    counted t ∧ t.power.pen = true ∧ t.regAt boot = if bitAt (s.m.regAt boot) 30 then s.m.regAt boot else 2 ^ 30 + reason * 256 + 9
  let failed (t : Dev) (f : BootFault) : Prop := s.m.reg .boot 20 0 R.BOOT_FAILS % 128 = 0 → t.reg .boot 20 0 R.BOOT_FAIL
    = f.kind.val * 2 ^ 28 + f.die.val * 2 ^ 24 + f.unit.val * 2 ^ 16 + 0xFF * 2 ^ 8 + f.test.val
  -- a device whose start-up has come to READY, with `spares` clusters fenced in the field
  let ready (t : Dev) (spares : Nat) : Prop :=
    counted t ∧ t.regAt boot = 2 ^ 31 + 8 ∧ s.m.sameBut t [.clock, .free, .regs, .mem, .undef, .bad, .oneBit, .dies, .stackTab, .doms, .power, .therm, .repair, .log, .logNext, .sessions,
        .sent, .aoc, .links, .role, .groupIndex]
      ∧ (∀ d, d < 16 → t.domOn (4 * d) = true) ∧ (∀ h, h < 8 → t.domOn (96 + h) = true) ∧ (∀ n, n < 32 → t.dom (64 + n) = ⟨.retain, 2, none⟩)
      ∧ (∀ k, 1000 ≤ k → t.dom k = s.m.dom k) ∧ (∀ x, x < stackEnd → t.byteAt x = 0) ∧ (∀ n, n < 32 → (t.stk n).spared = (s.m.stk n).spared ∧ (t.stk n).listUsed = (s.m.stk n).listUsed)
      ∧ t.groupIndex = leAt body 3 1 ∧ t.power.envMax = min (s.m.reg .aoc 20 0 R.AOC_PART_ID / 16 % 16) (leAt body 1 1)
      ∧ t.power.envActive = min (leAt body 0 1) t.power.envMax ∧ t.reg .boot 20 0 R.SEC_STATUS % 2 = leAt body 2 1 % 2
      ∧ (∀ i, stage1 = some i → t.cnt 1 = max (s.m.cnt 1) (svn 1 i)) ∧ (∀ i, main = some i → t.cnt 2 = max (s.m.cnt 2) (svn 2 i))
      ∧ (∀ i, man = some i → t.cnt 3 = max (s.m.cnt 3) (svn 3 i))
      ∧ (∀ u, u ∈ env.up → u.2.val < modeSubs (leAt body (16 + u.1.val) 1) → bitAt (t.preg u.1.val R.LNK_PORT_STATUS) u.2.val = true)
      ∧ t.log.getLast? = some { LogEntry.plain 0 0x0B 0 0 with time := t.time, data := env.ns / 1000000 * 65536 + spares % 65536 }
  let fenced := (loaded.aoc.fenced.filter fun f => f.2 == 2).length
  s.sound = true → s.m.untraced → s.m.aoc.inForce = [] →
  (∀ d l, d < 16 → l < 160 → loaded.physOf d l = if s.m.mapWritten d then (match s.m.mapInForce d with
    | some b => leAt b l 1
    | none => l) else l)
  ∧ (¬fresh → becomes c s s.m)
  ∧ (fresh → ¬ok0 → ¬ok1 → completes c s fun t => ran t ∧ t.aoc.dead = 3 ∧ t.regAt boot = 1 ∧ t.cnt 0 = s.m.cnt 0)
  ∧ (fresh → ok0 ∨ ok1 →
    (s.m.cnt 6 < s.m.cnt 5 → completes c s fun t => pens t 8 ∧ t.aoc.derived = s.m.aoc.derived)
    ∧ (s.m.cnt 5 ≤ s.m.cnt 6 →
      (stage1 = none → completes c s fun t => counted t ∧ t.regAt boot = 2 ^ 29 + 10 ∧ t.aoc.derived = true)
      ∧ (stage1.isSome = true → env.straps.val = 3 → completes c s fun t => pens t 5)
      ∧ (stage1.isSome = true → env.straps.val ≠ 3 →
        (env.mramOk = false → completes c s fun t => pens t 0x0C)
        ∧ (env.mramOk = true →
          (∀ f r, (env.faults.filter fun x => x.kind.val == 7 || x.kind.val == 8) = f :: r → completes c s fun t => pens t 1 ∧ failed t f)
          ∧ ((env.faults.filter fun x => x.kind.val == 7 || x.kind.val == 8) = [] →
            (main = none → completes c s fun t => pens t 3)
            ∧ (main.isSome = true → owner.isSome = true → man = none → completes c s fun t => pens t 4)
            ∧ (main.isSome = true → owner = none ∨ man.isSome = true →
              (env.faults = [] → env.rows = [] → w.ref156 = false → completes c s fun t => pens t 1)
              ∧ (env.faults = [] → env.rows = [] → w.ref156 = true → s.m.aoc.envHeld = [] → completes c s fun t => ready t fenced ∧ t.repair = loaded.repair)
              ∧ (∀ f, env.faults = [f] → f.kind.val = 4 → completes c s fun t => pens t 1 ∧ failed t f)
              ∧ (∀ f q, env.faults = [f] → env.rows = [] → f.kind.val = 1 → f.unit.val < 168 → loaded.spareState f.die.val f.unit.val = 0 →
                  loaded.logicalOf f.die.val f.unit.val < 160 → w.ref156 = true → s.m.aoc.envHeld = [] →
                  (loaded.firstSpare f.die.val = some q → completes c s fun t => ready t (fenced + 1) ∧ t.spareState f.die.val f.unit.val = 2
                    ∧ t.physOf f.die.val (loaded.logicalOf f.die.val f.unit.val) = q)
                  ∧ (loaded.firstSpare f.die.val = none → completes c s fun t => pens t 2 ∧ t.spareState f.die.val f.unit.val = 2))))))))

/-- R484, R505, R506, R533 to R536, R539, R540, R556 to R558. Class and DATA of the log entries are the model's where R554 leaves them open, log entry 16. -/
def Obligations.TamperStandbyAndFatal : Prop := ∀ (s : State) (alarms raw : Fin 32) (cause : Fin 256) (survives : Bool),
  let w := s.m.power
  let boot := regAddr .boot 20 0 R.BOOT_STATUS
  let alive : Prop := s.m.aoc.dead % 4 ≠ 3
  let allOff (t : Dev) : Prop := ∀ k, t.dom k = if k = mgmtDom then s.m.dom k else Dom.offState
  let penned (t : Dev) (reason : Nat) : Prop :=
    t.power.pen = true ∧ t.regAt boot = if bitAt (s.m.regAt boot) 30 then s.m.regAt boot else 2 ^ 30 + reason * 256 + 9
  s.sound = true →
  (alarms = 0 ∨ ¬alive → becomes (.tamperAlarm alarms raw) s { s.m with aoc := { s.m.aoc with raw := raw.val } })
  ∧ (alarms ≠ 0 → alive →
    let c : Instr := .tamperAlarm alarms raw
    let l := (List.range 5).filter fun i => bitAt alarms.val i
    let cls (i : Nat) : Nat := s.m.reg .boot 20 0 R.TAMPER_CLASS / 4 ^ i % 4
    let has (n : Nat) : Prop := ∃ i, i ∈ l ∧ cls i = n
    let status := s.m.reg .boot 20 0 R.TAMPER_STATUS
    let alarmed (t : Dev) : Prop := t.aoc.raw = raw.val ∧ t.clock = s.m.clock + 320
      ∧ (∀ i, bitAt (t.reg .boot 20 0 R.TAMPER_STATUS) i = (bitAt status i || bitAt alarms.val i))
      ∧ t.reg .boot 20 0 R.TAMPER_EVENTS = satAdd (s.m.reg .boot 20 0 R.TAMPER_EVENTS) l.length
    let dark (t : Dev) : Prop := ∀ k, t.dom k = if k = mgmtDom ∧ w.inputOk = true then s.m.dom k else Dom.offState
    let shut (t : Dev) (reason : Nat) : Prop := alarmed t ∧ dark t ∧ t.power.lastEmerg = 6 ∧ t.aoc.step = 0 ∧ t.power.inputOk = w.inputOk
      ∧ (w.inputOk = true → penned t reason) ∧ (w.inputOk = false → t.regAt boot = 1)
    ((∀ i, i ∈ l → cls i = 0) → completes c s fun t => alarmed t
      ∧ s.m.sameBut t [.clock, .aoc, .regs, .log, .logNext, .sent, .sessions, .links] ∧ t.aoc = { s.m.aoc with raw := raw.val }
      ∧ t.log = l.foldl (fun x i => logPush x { LogEntry.plain 3 0x0B 0 0 with index := i, time := t.time }) s.m.log
      ∧ (∀ n, (t.ses n).seq = if (s.m.ses n).isOpen then (s.m.ses n).seq + l.length else (s.m.ses n).seq)
      ∧ ∀ i n, l = [i] → (s.m.ses n).isOpen = true → (s.m.ses n).src ≠ bridgeQp ∨ s.m.role ≠ 2 →
          s.m.out (s.m.ses n).src (bentinFrame 3 0x8000 s.m.groupIndex 0 n 0 0 (s.m.ses n).seq
            ({ LogEntry.plain 3 0x0B 0 0 with index := i, time := t.time }.bytes s.m.logNext)) ∈ t.sent)
    ∧ (has 1 → ¬has 2 → ¬has 3 → completes c s fun t => shut t 6 ∧ t.aoc.vault = s.m.aoc.vault ∧ t.cnt 5 = s.m.cnt 5)
    ∧ (has 2 → ¬has 3 → completes c s fun t => shut t 7 ∧ t.aoc.vault = [] ∧ t.aoc.derived = false ∧ t.aoc.update = none
        ∧ bitAt (t.reg .boot 20 0 R.SEC_STATUS) 3 = true ∧ t.cnt 5 = min (s.m.cnt 5 + 1) 0xFFFFFFFF
        ∧ (s.m.cnt 5 < 0xFFFFFFFF → s.m.cnt 6 ≤ s.m.cnt 5 → t.latched = true)))
  ∧ (let d0 := bitAt s.m.aoc.dead 0
    let d1 := bitAt s.m.aoc.dead 1
    let gone (t : Dev) : Prop := allOff t ∧ t.regAt boot = 1 ∧ t.aoc.step = 0 ∧ bitAt t.aoc.dead 0 = true ∧ bitAt t.aoc.dead 1 = true
    let status := s.m.reg .boot 20 0 R.AOC_STATUS
    (d0 = true → becomes .aocTakeover s s.m)
    ∧ (d0 = false → d1 = false → becomes .aocTakeover s
        { s.m.put .boot 20 0 R.AOC_STATUS (setBits (setBits status 0 0 1) 2 2 1) with clock := s.m.clock + 20480, aoc := { s.m.aoc with dead := s.m.aoc.dead + 1 } })
    ∧ (d0 = false → d1 = true → completes .aocTakeover s fun t => gone t ∧ t.clock = s.m.clock + 20480)
    ∧ (d1 = true → becomes .standbyAocFailure s s.m)
    ∧ (d1 = false → d0 = false → becomes .standbyAocFailure s
        { s.m.put .boot 20 0 R.AOC_STATUS (setBits status 1 1 0) with aoc := { s.m.aoc with dead := s.m.aoc.dead + 2 } })
    ∧ (d1 = false → d0 = true → completes .standbyAocFailure s fun t => gone t ∧ t.clock = s.m.clock))
  ∧ (let c : Instr := .fatalError cause survives
    let runs : Prop := w.inputOk = true ∧ bitAt (s.m.regAt boot) 30 = false ∧ alive
    let held (n : Nat) : Prop := (s.m.dom (64 + n)).st = .on ∨ (s.m.dom (64 + n)).st = .retain
    let claim := regAddr .res 20 0 (R.RES_CLAIM + 16)
    let ended (t : Dev) : Prop := (∀ d, t.drv d = Drover.reset) ∧ (∀ j, t.pipe j = Pipe.reset) ∧ (∀ j, t.slu j = Sluice.reset)
      ∧ (∀ k, (t.cl k).cores = [] ∧ (t.cl k).entries = [] ∧ (t.cl k).barges = []) ∧ penned t 0x0A ∧ t.aoc.step = 0
      ∧ (∀ k, k ≠ mgmtDom → (s.m.dom k).st = .on → (t.dom k).st ≠ .retain ∧ ((t.dom k).st = .on → k < 64 ∧ k % 4 = 0))
      ∧ (∀ n, n < 2 → held n → (t.dom (64 + n)).req = 2 ∧ ((t.dom (64 + n)).st = .retain ∨ ((t.dom (64 + n)).tr.map fun x => x.dest) = some .retain))
      ∧ t.log.getLast? = some { LogEntry.plain 4 0x0B 0x7F cause.val with time := s.m.time, data := cause.val }
    (¬runs → becomes c s s.m)
    ∧ (runs → survives = false → completes c s fun t => ended t ∧ t.clock = s.m.clock ∧ t.regAt claim = s.m.regAt claim)
    ∧ (runs → survives = true → completes c s fun t => ended t ∧ t.clock ≤ s.m.clock + 2000000000
        ∧ t.regAt claim = (if s.m.regAt claim % 256 = 6 then 2 ^ 30 + 7 else 7)
        ∧ (held 0 → held 1 → t.reg .rcv 20 0 R.DUMP_STATUS / 2 ^ 31 = 1 ∧ t.reg .rcv 20 0 R.DUMP_STATUS % 256 = cause.val
            ∧ (s.m.stackNo (dumpAddr 0) = 0 → t.bytesAt (dumpAddr 0) 6 = leBytes 4 0x4D444348 ++ [1, BitVec.ofNat 8 cause.val]))))

/-- R289, R318, R543 to R545, R547 to R550, R553, R561, R562. -/
def Obligations.RecoverySparingAndExport : Prop := ∀ (s : State) (k : Fin 2688) (tag : Fin 4096) (d : Fin 16) (l : Fin 160),
  let is (x : Command) (t : Dev) (n : Nat) (P : Command → Prop) : Prop := ∀ y, y ∈ (t.drv n).cmds → y.key = x.key → P y
  let killed (x : Command) (t : Dev) (n status : Nat) : Prop := is x t n fun y => y.failed = true ∧ y.killed = true ∧ y.status = statusJoin x.status status
  let again (x : Command) (t : Dev) (n status : Nat) : Prop := is x t n fun y => y.st = (if x.slots then .waking else .armed) ∧ y.replays = x.replays + 1
    ∧ y.replayed = true ∧ y.ctag = x.ctag ∧ y.seq = x.seq ∧ y.body = x.body ∧ y.status = statusJoin x.status status ∧ y.saved = [] ∧ y.spareOf = 0
  let rcv (t : Dev) (off : Nat) : Nat := t.reg .rcv 20 0 off
  let counts (t : Dev) (off n : Nat) : Prop := rcv t off = satAdd (rcv s.m off) n
  s.sound = true →
  (let c := s.m.cl k
    let after := s.m.clock + s.m.reg .rcv 20 0 R.RCV_CFG / 2 ^ 24 * 1000000
    let e? := c.entries.find? fun e => e.tag == tag.val && e.issued && (e.stage == .running || e.stage == .draining) && !c.preempting.contains e.cmd
    let b? := c.barges.find? fun b => b.tag == tag.val && (b.st == .active || b.st == .draining) && !b.preempt
    let i : Instr := .hangWatchdogExpiry k tag
    (s.m.clusterOn (k.val / 168) (k.val % 168) = false ∨ (e? = none ∧ b? = none) → becomes i s s.m)
    ∧ (s.m.clusterOn (k.val / 168) (k.val % 168) = true →
      (∀ e, e? = some e → s.m.entryNo k e.uid = some e → c.first e = false → becomes i s { s.m with clock := after })
      ∧ (∀ e, e? = some e → s.m.entryNo k e.uid = some e → c.first e = true → completes i s fun t => t.clock = after
        ∧ (s.m.replayable e.cmd = false → s.m.ended t k e.uid 0x7F)
        ∧ (s.m.replayable e.cmd = true → t.rfaults = s.m.rfaults ++ [⟨e.cmd, k, 0x7F, 0, true⟩] ∧ (t.cl k).tags = c.tags
            ∧ ∀ y, y ∈ (t.cl k).entries → y.uid = e.uid → y.stage = .faulted))
      ∧ (∀ b, e? = none → b? = some b → c.barges.find? (fun x => x.uid == b.uid) = some b → completes i s fun t => t.clock = after ∧ (t.cl k).tags = c.tags
        ∧ (s.m.replayable b.cmd = false → b.cancel = none → ∃ y, y ∈ (t.cl k).barges ∧ y.uid = b.uid ∧ y.st = .draining ∧ y.cancel = some 0x7F)
        ∧ (s.m.replayable b.cmd = true → t.rfaults = s.m.rfaults ++ [⟨b.cmd, k, 0x7F, 0, true⟩]
            ∧ ∀ y, y ∈ (t.cl k).barges → y.uid = b.uid → y.st = .parkedFault))))
  ∧ (s.m.rfaults = [] → becomes .commandRecovery s s.m)
  ∧ (∀ f rest, s.m.rfaults = f :: rest →
    (s.m.cmdOf f.key = none → becomes .commandRecovery s { s.m with rfaults := rest })
    ∧ ∀ c, s.m.cmdOf f.key = some c → s.m.cmdsSound (c.queue / 256) →
      let n := c.queue / 256
      let sn := s.m.stackNo f.data
      let row := rowOfLocal (stackOf (s.m.spanMode f.data) f.data).2
      let isRow : Prop := f.data ≠ 0 ∧ f.data < stackEnd
      let onRow : Bool := f.data ≠ 0 && decide (f.data < stackEnd)
      let unit := if onRow then 2 ^ 40 + sn * 2 ^ 32 + row else f.unit
      let spare? := s.m.firstSpare (f.unit / 168)
      let may : Prop := c.stage = false ∧ f.written = true ∧ c.replays < s.m.reg .rcv 20 0 R.RCV_CFG % 16
      let stopped (t : Dev) : Prop := (∀ x, x ∈ t.rfaults → x.key ≠ c.key) ∧ ∀ j, j / 168 = n → (∀ m x, (t.flock j m x).cmd = c.key → (t.flock j m x).st = .idle)
          ∧ (∀ x, x ∈ (t.cl j).tags → x.2.cmd ≠ c.key) ∧ (∀ x, x ∈ (t.cl j).entries → x.cmd ≠ c.key) ∧ ∀ x, x ∈ (t.cl j).barges → x.cmd ≠ c.key
      let fails (status : Nat) : Prop := completes .commandRecovery s fun t => killed c t n status ∧ counts t R.RCV_FAILED 1 ∧ (∀ x, x ∈ t.rfaults → x.key ≠ c.key)
      let replays (status : Nat) : Prop := completes .commandRecovery s fun t => again c t n status ∧ counts t R.RCV_REPLAYS 1 ∧ stopped t
        ∧ is c t n fun y => unit ∈ y.fails
      (c.st = .complete ∨ c.failed = true → becomes .commandRecovery s { s.m with rfaults := rest })
      ∧ (c.st ≠ .complete → c.failed = false →
        (c.stage = true → fails f.status)
        ∧ (c.stage = false → f.written = false → fails 0x20)
        ∧ (c.stage = false → f.written = true → ¬may → fails f.status)
        ∧ (may → unit ∉ c.fails → c.cancelReq = false → replays 0x03)
        ∧ (may → unit ∈ c.fails → isRow → s.m.canSpare sn row = true → c.cancelReq = false → replays 0x21)
        ∧ (may → unit ∈ c.fails → isRow → s.m.canSpare sn row = false → fails f.status)
        ∧ (may → unit ∈ c.fails → ¬isRow → spare? = none → fails f.status)
        ∧ (may → unit ∈ c.fails → ¬isRow → spare?.isSome = true → completes .commandRecovery s fun t => stopped t ∧ rcv t R.RCV_REPLAYS = rcv s.m R.RCV_REPLAYS
            ∧ is c t n fun y => y.st = .recover ∧ y.spareOf = s.m.logicalOf (f.unit / 168) (f.unit % 168) + 1 ∧ y.status = statusJoin c.status 0x21)))
  ∧ (let waiting := s.m.spareWaiters d l
    let jobs := (s.m.drv d).jobs
    let old := s.m.physOf d l
    let i : Instr := .clusterSpare d l
    let gone (t : Dev) : Prop := ∀ x, x ∈ (t.drv d).jobs → x.logical ≠ l.val
    s.m.cmdsSound d →
    (jobs.find? (fun j => j.logical == l.val) = none →
      (waiting = [] → becomes i s s.m)
      ∧ (waiting ≠ [] → s.m.firstSpare d = none → completes i s fun t => (∀ x, x ∈ waiting → killed x t d 0x20) ∧ counts t R.RCV_FAILED waiting.length)
      ∧ (∀ q, waiting ≠ [] → s.m.firstSpare d = some q → completes i s fun t => t.physOf d l = q ∧ t.spareState d old = 2 ∧ counts t R.RCV_SPARED 1
          ∧ (t.dom (clDom (ck d q))).req = 1 ∧ (t.dom (clDom (ck d old))).req = 0
          ∧ (∃ y, y ∈ (t.drv d).jobs ∧ y.logical = l.val ∧ y.old = old ∧ y.new = q ∧ y.copied = false)
          ∧ ∀ x, x ∈ (s.m.drv d).cmds → x.isRun = true → x.has l = true → x.failed = false → x.st = .running ∨ x.st = .preempting ∨ x.st = .parked →
              (s.m.replayable x.key = true ∧ x.stage = false → is x t d fun y => y.st = .recover ∧ y.spareOf = l.val + 1)
              ∧ (s.m.replayable x.key = false ∨ x.stage = true → killed x t d 0x20)))
    ∧ (∀ j, jobs.find? (fun j => j.logical == l.val) = some j →
      (j.copied = false → s.m.clusterOn d j.new = false → becomes i s s.m)
      ∧ (j.copied = false → s.m.clusterOn d j.new = true → s.m.errorless → completes i s fun t => (∃ y, y ∈ (t.drv d).jobs ∧ y = { j with copied := true, left := y.left })
          ∧ (∀ r, j.regs = [r] → t.regAt (clRegBase d j.new + r.1) = r.2 % 2 ^ 32)
          ∧ ∀ n x, j.sf = [(n, x)] → sget SfSlot.atWake (t.cl (ck d j.new)).sf n = s.m.reloadSf x)
      ∧ (j.copied = true → j.cur ≠ 0 → becomes i s s.m)
      ∧ (j.copied = true → j.cur = 0 → j.failed ≠ 0 → completes i s fun t => gone t ∧ (∀ x, x ∈ waiting → killed x t d j.failed) ∧ counts t R.RCV_FAILED waiting.length)
      ∧ (j.copied = true → j.cur = 0 → j.failed = 0 → j.left = [] → completes i s fun t => gone t ∧ counts t R.RCV_REPLAYS waiting.length
          ∧ ∀ x, x ∈ waiting → x.cancelReq = false → is x t d fun y => y.st = (if x.slots then .waking else .armed) ∧ y.replays = x.replays + 1 ∧ y.replayed = true ∧ y.spareOf = 0)
      ∧ (j.copied = true → j.cur = 0 → j.failed = 0 → j.left ≠ [] → s.m.freeCtags d = [] → becomes i s s.m)
      ∧ (∀ q r, j.copied = true → j.cur = 0 → j.failed = 0 → j.left = q :: r → s.m.freeCtags d ≠ [] → completes i s fun t =>
          ∃ y, y ∈ (t.drv d).jobs ∧ y.logical = l.val ∧ y.left = r)))
  ∧ (let ctl := s.m.reg .rcv 20 0 R.TALLY_CTRL
    let period := ctl / 65536 * 1000000
    let runs : Prop := bitAt ctl 0 = true ∧ s.m.penState = false ∧ period ≠ 0
    let ring := rcv s.m R.TALLY_RING_LO / 4096 * 4096 + rcv s.m R.TALLY_RING_HI % 2 ^ 14 * 2 ^ 32
    let size := rcv s.m R.TALLY_RING_SIZE
    let prod := rcv s.m R.TALLY_PROD
    let left := (prod + 2 ^ 32 - rcv s.m R.TALLY_CONS) % 2 ^ 32
    let used := (s.m.aoc.tallyLens.drop (s.m.aoc.tallyLens.length - left)).foldl (· + ·) 0
    let vals := s.m.exported (ctl / 2 % 1024)
    let after := s.m.clock + (period - s.m.clock % period)
    (¬runs → becomes .tallyExport s s.m)
    ∧ (runs → size < used + 64 + 4 * vals.length → completes .tallyExport s fun t => t.clock = after ∧ s.m.sameMemory t
        ∧ s.m.regsBecome t [(regAddr .rcv 20 0 R.EXPORT_SKIPPED, satAdd (rcv s.m R.EXPORT_SKIPPED) 1)])
    ∧ (runs → used + 64 + 4096 + 4 * vals.length ≤ size → ring + size ≤ stackEnd → s.m.reachRange ring size = .ok → s.m.errorless → completes .tallyExport s fun t =>
        t.clock = after ∧ rcv t R.TALLY_PROD = (prod + 1) % 2 ^ 32
        ∧ ((∀ n, (s.m.stk n).zc = []) → s.m.regsBecome t [(regAddr .rcv 20 0 R.TALLY_PROD, (prod + 1) % 2 ^ 32)])
        ∧ ∃ h, 64 ≤ h ∧ h < 64 + 4096 ∧ ∀ i j, i < vals.length → j < 4 →
            t.byteAt (ring + (s.m.aoc.tallyPos + h + 4 * i + j) % size) = BitVec.ofNat 8 (vals.getD i 0 / 256 ^ j)))

/-- R10, R11, R28, R421, R483, R532, R536, R570, R572, R575 to R577, R579. What BYPASS and SAMPLE/PRELOAD capture and an SMBus read of a block that is off
are the model's,
log entry 27. Class and DATA of the log entries are the model's where R554 leaves them open, log entry 16. -/
def Obligations.ServicePinsAndRegisterWrites : Prop := ∀ (s : State) (i : Fin 8) (n : Fin 2) (b : Bool) (p : Fin 65536) (data : Nat) (a : Fin 70368744177664) (v : BitVec 32),
  let put (off x : Nat) : Dev := s.m.put .svc 20 0 off x
  let on : Prop := s.m.power.inputOk = true ∧ s.m.aoc.dead % 4 ≠ 3
  let event := s.m.reg .svc 20 0 R.SVC_EVENT
  let held (r : Nat) : Nat := s.m.reg .res 20 0 (R.RES_CLAIM + 4 * r) % 256
  let time (h : Nat) (t : Dev) : Dev := { t with clock := s.m.clock + h }
  let jtag (ir x boundary : Nat) : Dev := { s.m with aoc := { s.m.aoc with jtagIr := ir, jtagData := x, jtagBoundary := boundary } }
  let kept := s.m.aoc.jtagBoundary
  let debug := bitAt (s.m.reg .boot 20 0 R.SEC_STATUS) 0
  s.sound = true →
  (¬on → becomes .wakePin s s.m ∧ becomes .ppsInEdge s s.m ∧ becomes .syncInEdge s s.m ∧ becomes (.gpioEdge i b) s s.m ∧ becomes .ppsOutEdge s s.m
      ∧ becomes (.timerFire n) s s.m ∧ becomes (.smbusWriteWord p b) s s.m ∧ becomes .smbusBlockRead s s.m ∧ becomes .bypass s s.m ∧ becomes .idcode s s.m
      ∧ becomes (.samplePreload data) s s.m ∧ becomes (.extest data) s s.m ∧ becomes (.dpaRead a) s s.m ∧ becomes (.dpaWrite a v) s s.m)
  ∧ (on → becomes .wakePin s ((time 1000 (put R.SVC_EVENT (setBits event 8 8 1))).logged (LogEntry.plain 0 0x0B 0 0)))
  ∧ (held 0 ≠ 2 → becomes .ppsInEdge s s.m) ∧ (held 1 ≠ 4 → becomes .syncInEdge s s.m) ∧ (held 0 ≠ 1 → becomes .ppsOutEdge s s.m)
  ∧ (let latched (c : Instr) (off bit : Nat) : Prop := completes c s fun t =>
      s.m.regsBecome t [(regAddr .svc 20 0 off, s.m.time % 2 ^ 32), (regAddr .svc 20 0 (off + 4), s.m.time / 2 ^ 32 % 2 ^ 32), (regAddr .svc 20 0 R.SVC_EVENT, setBits event bit bit 1)]
        ∧ s.m.sameBut t [.regs]
    (on → held 0 = 2 → latched .ppsInEdge R.SVC_PPS_IN_TIME_LO 9) ∧ (on → held 1 = 4 → latched .syncInEdge R.SVC_SYNC_IN_TIME_LO 10))
  ∧ (on → completes (.gpioEdge i b) s fun t => s.m.sameBut t [.aoc, .regs] ∧ t.aoc = { s.m.aoc with gpio := t.aoc.gpio }
      ∧ (∀ j, j < 8 → bitAt t.aoc.gpio j = if j = i.val then b else bitAt s.m.aoc.gpio j)
      ∧ (∀ A, A ≠ regAddr .svc 20 0 R.SVC_EVENT → t.regAt A = s.m.regAt A)
      ∧ ∀ j, bitAt (t.reg .svc 20 0 R.SVC_EVENT) j = (bitAt event j || (decide (j = i.val) && (bitAt s.m.aoc.gpio i.val != b))))
  ∧ (on → held 0 = 1 → completes .ppsOutEdge s fun t => s.m.sameBut t [.clock, .sent] ∧ t.clock = s.m.clock + (1000000000 - s.m.time % 1000000000)
      ∧ t.sent = s.m.sent ++ [⟨196610, leBytes 1 0 ++ leBytes 8 t.time ++ leBytes 4 1000000, []⟩])
  ∧ (let cmp := s.m.reg .tmr 20 n.val R.TMR_CMP_HI * 2 ^ 32 + s.m.reg .tmr 20 n.val R.TMR_CMP_LO
    let ctrl := s.m.reg .tmr 20 n.val R.TMR_CTRL
    let period := s.m.reg .tmr 20 n.val R.TMR_PERIOD
    let armed : Prop := bitAt ctrl 0 = true ∧ held (2 + n.val) ≠ 0
    (¬armed → becomes (.timerFire n) s s.m)
    ∧ (on → armed → completes (.timerFire n) s fun t => t.clock = s.m.clock + (cmp - s.m.time)
        ∧ (period = 0 → bitAt (t.reg .tmr 20 n.val R.TMR_CTRL) 0 = false)
        ∧ (period ≠ 0 → t.reg .tmr 20 n.val R.TMR_CTRL = ctrl
          ∧ let next := cmp + ((t.time - cmp) / period + 1) * period
            t.reg .tmr 20 n.val R.TMR_CMP_LO = next % 2 ^ 32 ∧ t.reg .tmr 20 n.val R.TMR_CMP_HI = next / 2 ^ 32 % 2 ^ 32)
        ∧ (held (2 + n.val) = 3 → held 1 = 3 → t.log = s.m.log
            ∧ t.sent = s.m.sent ++ [⟨196610, leBytes 1 1 ++ leBytes 8 t.time ++ leBytes 4 (100 * max 1 (ctrl / 256 % 256)), []⟩])
        ∧ (held (2 + n.val) = 5 → bitAt (t.reg .svc 20 0 R.SVC_EVENT) (11 + n.val) = true
            ∧ t.log = logPush s.m.log { LogEntry.plain 0 0x0B 0 0 with index := n.val, time := t.time })))
  ∧ (on → (b = true → p.val % 4 = 0 → becomes (.smbusWriteWord p b) s { s.m with aoc := { s.m.aoc with smbPtr := p.val } })
      ∧ (b = false ∨ p.val % 4 ≠ 0 → becomes (.smbusWriteWord p b) s s.m))
  ∧ (let ptr := s.m.aoc.smbPtr
    (on → s.m.reachAt (aocBase + ptr) ≠ .ok → becomes .smbusBlockRead s
        { s.m with sent := s.m.sent ++ [⟨196608, [0, 0, 0, 0], []⟩], aoc := { s.m.aoc with smbPtr := (ptr + 4) % 0x10000 } })
    ∧ (∀ rb d x off, on → ptr % 4 = 0 → s.m.reachAt (aocBase + ptr) = .ok → place (aocBase + ptr) = .reg rb d x off → completes .smbusBlockRead s fun t =>
        t.sent = s.m.sent ++ [⟨196608, leBytes 4 (s.m.regValue rb d x off), []⟩] ∧ t.aoc.smbPtr = (ptr + 4) % 0x10000 ∧ s.m.sameBut t [.regs, .aoc, .sent]))
  ∧ (on → becomes .bypass s (jtag 0xFF 0 kept) ∧ becomes .idcode s (jtag 0x01 0x1D9A0A27 kept)
      ∧ (completes (.samplePreload data) s fun t => ∃ x, t = { jtag 0x02 x data with free := s.m.free + 1 })
      ∧ (debug = false → becomes (.extest data) s (jtag 0xFF 0 kept) ∧ becomes (.dpaRead a) s (jtag 0xFF 0 kept) ∧ becomes (.dpaWrite a v) s (jtag 0xFF 0 kept))
      ∧ (debug = true →
        let word (st x : Nat) : Nat := st * 2 ^ 78 + a.val * 2 ^ 32 + x
        (completes (.extest data) s fun t => ∃ x, t = { jtag 0x00 x data with free := s.m.free + 1 })
        ∧ (s.m.reachRange a 4 = .bounds → becomes (.dpaRead a) s (jtag 0x40 (word 1 0) kept) ∧ becomes (.dpaWrite a v) s (jtag 0x41 (word 1 v.toNat) kept))
        ∧ (∀ x o, place a = .mram x o → becomes (.dpaWrite a v) s (jtag 0x41 (word 1 v.toNat) kept))
        ∧ (s.m.reachRange a 4 = .wait → (completes (.dpaRead a) s fun t => s.m.sameBut t [.aoc, .doms] ∧ t.aoc = (jtag 0x40 (word 2 0) kept).aoc)
            ∧ completes (.dpaWrite a v) s fun t => s.m.sameBut t [.aoc, .doms] ∧ t.aoc = (jtag 0x41 (word 2 v.toNat) kept).aoc)
        ∧ (s.m.reachRange a 4 = .ok → memPlace a = true → s.m.errorless →
            (completes (.dpaRead a) s fun t => s.m.sameBut t [.aoc, .regs] ∧ t.aoc = (jtag 0x40 (word 0 (s.m.natAt a 4)) kept).aoc)
            ∧ completes (.dpaWrite a v) s fun t => s.m.sameBut t [.aoc, .mem, .undef, .stackTab, .regs] ∧ t.aoc = (jtag 0x41 (word 0 v.toNat) kept).aoc
                ∧ s.m.wroteDpa t [(a.val, leBytes 4 v.toNat)])))
  ∧ (isReg a = false ∨ s.m.reachAt (a.val / 4 * 4) ≠ .ok → becomes (.registerWrite a v) s s.m)
  -- writing 1 to VALID clears the whole record
  ∧ (∀ rb d x off l, a.val % 4 = 0 → place a = .reg rb d x off → s.m.reachAt a = .ok → bitAt v.toNat 31 = true →
      (rb, off, l) ∈ [(RB.tc, 0x10, [0x14, 0x18, 0x1C, 0x20]), (.th, 0x04, [0x08, 0x0C, 0x10, 0x14, 0x18]), (.be, 0x10, [0x14, 0x18, 0x1C, 0x20]),
        (.bv, 0x40, [0x44, 0x48, 0x4C])] →
      completes (.registerWrite a v) s fun t => s.m.sameBut t [.regs] ∧ (∀ o, o ∈ l → t.reg rb d x o = 0)
        ∧ t.reg rb d x off = b2n (bitAt (s.m.reg rb d x off) 30 && !bitAt v.toNat 30) * 2 ^ 30)
  ∧ (∀ rb d x off, a.val % 4 = 0 → place a = .reg rb d x off → s.m.reachAt a = .ok →
      -- blocks whose registers obey their access codes alone, but for those named
      (rb = .th ∧ off ≠ R.TH_TALLY_CLEAR ∧ (off ≠ R.TH_FAULT_STATUS ∨ bitAt v.toNat 31 = false)) ∨ (rb = .rcv ∧ off ≠ R.TALLY_CTRL) ∨ (rb = .drv ∧ off ≠ R.DRV_CANCEL ∧ off ≠ R.DRV_TALLY_CLEAR)
        ∨ (rb = .aoc ∧ off ≠ R.AOC_WAITDET_CTRL) ∨ (rb = .boot ∧ off ≠ R.BOOT_CTRL) →
      (rowAt rb.rows off = none → becomes (.registerWrite a v) s s.m)
      ∧ ∀ r, rowAt rb.rows off = some r → ∃ y, becomes (.registerWrite a v) s (s.m.put rb d x off y)
        ∧ (∀ f, f ∈ r.flds → ∀ j, f.lo ≤ j → j ≤ f.hi → bitAt y j = match f.acc with
            | .rw => bitAt v.toNat j
            | .w1c => bitAt (s.m.reg rb d x off) j && !bitAt v.toNat j
            | _ => bitAt (s.m.reg rb d x off) j)
        ∧ ∀ j, (∀ f, f ∈ r.flds → j < f.lo ∨ f.hi < j) → bitAt y j = bitAt (s.m.reg rb d x off) j)

/-- One step is the front command on the rest of the queue; the idle step is the model's choice, log entry 4. -/
def Obligations.StepRunsTheFrontCommand : Prop := ∀ (c : Instr) (s : State) (rest : List Instr),
  (s.pending = c :: rest → step s = exec c { s with pending := rest })
  ∧ (s.pending = [] → ∃ t, step s = .next t ∧ t.pending = [] ∧ t.m.clock = s.m.clock + 320 ∧ s.m.sameBut t.m [.clock, .regs]
      ∧ s.m.regsBecome t.m (((List.range 16).filter fun d => !(s.m.die d).walks.isEmpty).map fun d =>
          (regAddr .fq d 0 R.DMMU_WALK_CYCLES, satAdd (s.m.reg .fq d 0 R.DMMU_WALK_CYCLES) 384)))

/-- R333, R484, R496, R499, R503, R513, R540, R554, R562: the state after reset. Memory before the first start-up, INPUT_OK, and registers without a
stated reset value are the model's choices (log entries 5, 19, 29, 30). -/
def Obligations.ResetIsAsStated : Prop :=
  let m := State.reset.m
  State.reset.pending = [] ∧ State.reset.sound = true ∧ m.log = [] ∧ m.logNext = 0 ∧ m.sent = [] ∧ m.rfaults = [] ∧ m.bad = [] ∧ m.oneBit = []
    ∧ (∀ A, m.regAt A = (regReset A).toNat) ∧ (∀ A, memPlace A = true → m.byteAt A = 0)
    ∧ (∀ k, k ≠ mgmtDom → m.dom k = Dom.offState) ∧ (m.dom mgmtDom).st = .on
    ∧ (∀ q, m.cmdsOf q = []) ∧ (∀ n, (m.mb n).full = false) ∧ (∀ n, (m.ses n).isOpen = false) ∧ (∀ r, r < 5 → m.owns r = 0)
    ∧ m.reg .rcv 20 0 R.RCV_CFG = 10 * 2 ^ 24 + 3 * 2 ^ 16 + 4 ∧ m.reg .rcv 20 0 R.TALLY_CTRL = 1000 * 2 ^ 16
    ∧ m.reg .pwr 20 0 R.THERM_CFG % 256 = 95 ∧ m.reg .boot 20 0 R.BOOT_STATUS / 2 ^ 29 = 0 ∧ m.power.inputOk = true ∧ m.power.pen = false

/-- The invariant of the machine. R332, R335, R457, R554. -/
def Obligations.EveryStepKeepsTheMachineSound : Prop := ∀ (s : State), s.sound = true →
  ∃ t, step s = .next t ∧ t.sound = true ∧ t.pending = s.pending.tail ∧ s.m.clock ≤ t.m.clock ∧ s.m.sent <+: t.m.sent
end

