-- ==== Sys2Proof/Laws/Sparse.lean ====
section
/-! SUPPORT. Sparse tables: reading after writing, and that every operation keeps the canonical form. -/

namespace Sys2Proof.Machine

variable {α : Type}

theorem risingFrom_le {lo hi : Nat} {l : List (Nat × α)} (h : risingFrom hi l = true) (hl : lo ≤ hi) : risingFrom lo l = true := by
  cases l with
  | nil => rfl
  | cons a r => simp only [risingFrom, Bool.and_eq_true, decide_eq_true_eq] at *; exact ⟨by omega, h.2⟩

theorem sget_of_rising {d : Nat → α} {l : List (Nat × α)} {lo k : Nat} (h : risingFrom lo l = true) (hk : k < lo) : sget d l k = d k := by
  induction l generalizing lo with
  | nil => rfl
  | cons a r ih =>
    simp only [risingFrom, Bool.and_eq_true, decide_eq_true_eq] at h
    simp only [sget]
    rw [if_neg (by omega)]
    exact ih h.2 (by omega)

theorem sget_sput_same (d : Nat → α) (l : List (Nat × α)) (k : Nat) (v : α) : sget d (sput l k v) k = v := by
  induction l with
  | nil => simp [sput, sget]
  | cons a r ih =>
    simp only [sput]
    split
    · simp [sget]
    · split
      · simp [sget]
      · simp_all [sget]

theorem sget_sput_other (d : Nat → α) (l : List (Nat × α)) {k j : Nat} (v : α) (h : j ≠ k) : sget d (sput l k v) j = sget d l j := by
  induction l with
  | nil => simp [sput, sget, Ne.symm h]
  | cons a r ih =>
    simp only [sput]
    split
    · simp_all [sget, Ne.symm h]
    · split
      · simp [sget, Ne.symm h]
      · simp only [sget, ih]

theorem sget_sdel_other (d : Nat → α) (l : List (Nat × α)) {k j : Nat} (h : j ≠ k) : sget d (sdel l k) j = sget d l j := by
  induction l with
  | nil => rfl
  | cons a r ih =>
    simp only [sdel]
    split
    · simp_all [sget, Ne.symm h]
    · simp only [sget, ih]

theorem sget_sdel_same (d : Nat → α) (l : List (Nat × α)) (k : Nat) : sget d (sdel l k) k = d k := by
  induction l with
  | nil => rfl
  | cons a r ih =>
    simp only [sdel]
    split
    · exact ih
    · rename_i hk
      simp only [sget]
      rw [if_neg hk]
      exact ih

variable [DecidableEq α]

/-- Reading a key after writing it. -/
@[simp] theorem sget_sset_same (d : Nat → α) (l : List (Nat × α)) (k : Nat) (v : α) : sget d (sset d l k v) k = v := by
  simp only [sset]
  split
  · rename_i hv; rw [hv]; exact sget_sdel_same d l k
  · exact sget_sput_same d l k v

/-- A write leaves every other key alone. -/
theorem sget_sset_other (d : Nat → α) (l : List (Nat × α)) {k j : Nat} (v : α) (h : j ≠ k) : sget d (sset d l k v) j = sget d l j := by
  simp only [sset]
  split
  · exact sget_sdel_other d l h
  · exact sget_sput_other d l v h

omit [DecidableEq α] in
theorem risingFrom_sput {lo : Nat} {l : List (Nat × α)} {k : Nat} (v : α) (h : risingFrom lo l = true) (hk : lo ≤ k) : risingFrom lo (sput l k v) = true := by
  induction l generalizing lo with
  | nil => simp [sput, risingFrom, hk]
  | cons a r ih =>
    simp only [risingFrom, Bool.and_eq_true, decide_eq_true_eq] at h
    simp only [sput]
    split
    · rename_i hj; subst hj; simp [risingFrom, h]
    · split
      · simp only [risingFrom, Bool.and_eq_true, decide_eq_true_eq]
        exact ⟨hk, by omega, h.2⟩
      · simp only [risingFrom, Bool.and_eq_true, decide_eq_true_eq]
        exact ⟨h.1, ih h.2 (by omega)⟩

omit [DecidableEq α] in
theorem risingFrom_sdel {lo : Nat} {l : List (Nat × α)} (k : Nat) (h : risingFrom lo l = true) : risingFrom lo (sdel l k) = true := by
  induction l generalizing lo with
  | nil => rfl
  | cons a r ih =>
    simp only [risingFrom, Bool.and_eq_true, decide_eq_true_eq] at h
    simp only [sdel]
    split
    · exact risingFrom_le (ih h.2) (by omega)
    · simp only [risingFrom, Bool.and_eq_true, decide_eq_true_eq]; exact ⟨h.1, ih h.2⟩

omit [DecidableEq α] in
theorem mem_sput {l : List (Nat × α)} {k : Nat} {v : α} {x : Nat × α} (h : x ∈ sput l k v) : x = (k, v) ∨ x ∈ l := by
  induction l with
  | nil => simp [sput] at h; exact .inl h
  | cons a r ih =>
    simp only [sput] at h
    split at h
    · rcases List.mem_cons.1 h with h | h
      · exact .inl h
      · exact .inr (List.mem_cons_of_mem _ h)
    · split at h
      · rcases List.mem_cons.1 h with h | h
        · exact .inl h
        · exact .inr h
      · rcases List.mem_cons.1 h with h | h
        · exact .inr (h ▸ List.mem_cons_self ..)
        · rcases ih h with h | h
          · exact .inl h
          · exact .inr (List.mem_cons_of_mem _ h)

omit [DecidableEq α] in
theorem mem_sdel {l : List (Nat × α)} {k : Nat} {x : Nat × α} (h : x ∈ sdel l k) : x ∈ l := by
  induction l with
  | nil => exact h
  | cons a r ih =>
    simp only [sdel] at h
    split at h
    · exact List.mem_cons_of_mem _ (ih h)
    · rcases List.mem_cons.1 h with h | h
      · exact h ▸ List.mem_cons_self ..
      · exact List.mem_cons_of_mem _ (ih h)

/-- A write keeps the canonical form. -/
theorem canonical_sset (d : Nat → α) {l : List (Nat × α)} (k : Nat) (v : α) (h : canonical d l = true) : canonical d (sset d l k v) = true := by
  simp only [canonical, Bool.and_eq_true, List.all_eq_true, Bool.not_eq_true', decide_eq_false_iff_not] at *
  simp only [sset]
  split
  · exact ⟨risingFrom_sdel k h.1, fun x hx => h.2 x (mem_sdel hx)⟩
  · rename_i hv
    refine ⟨risingFrom_sput v h.1 (Nat.zero_le _), fun x hx => ?_⟩
    rcases mem_sput hx with rfl | hx
    · exact hv
    · exact h.2 x hx

omit [DecidableEq α] in
theorem risingFrom_filter {lo : Nat} {l : List (Nat × α)} (p : Nat × α → Bool) (h : risingFrom lo l = true) : risingFrom lo (l.filter p) = true := by
  induction l generalizing lo with
  | nil => rfl
  | cons a r ih =>
    simp only [risingFrom, Bool.and_eq_true, decide_eq_true_eq] at h
    simp only [List.filter]
    split
    · simp only [risingFrom, Bool.and_eq_true, decide_eq_true_eq]; exact ⟨h.1, ih h.2⟩
    · exact risingFrom_le (ih h.2) (by omega)

/-- Dropping entries keeps the canonical form. -/
theorem canonical_filter (d : Nat → α) {l : List (Nat × α)} (p : Nat × α → Bool) (h : canonical d l = true) : canonical d (l.filter p) = true := by
  simp only [canonical, Bool.and_eq_true, List.all_eq_true] at *
  exact ⟨risingFrom_filter p h.1, fun x hx => h.2 x (List.mem_filter.1 hx).1⟩

/-! ### Memory -/

/-- Storing bytes keeps the canonical form of the memory. -/
theorem canonical_cellsPut {m : List Host.Cell} (a : Nat) (bs : List Byte) (h : canonical memInit m = true) :
    canonical memInit (cellsPut m a bs) = true := by
  induction bs generalizing m a with
  | nil => exact h
  | cons b r ih => exact ih (a + 1) (canonical_sset _ a b h)

/-- Dropping a range keeps it too. -/
theorem canonical_cellsDrop {m : List Host.Cell} (a n : Nat) (h : canonical memInit m = true) :
    canonical memInit (cellsDrop m a n) = true := canonical_filter _ _ h

/-- A byte outside the stored range reads as before. -/
theorem sget_cellsPut_other {m : List Host.Cell} {a x : Nat} {bs : List Byte} (h : x < a ∨ a + bs.length ≤ x) :
    sget memInit (cellsPut m a bs) x = sget memInit m x := by
  induction bs generalizing m a with
  | nil => rfl
  | cons b r ih =>
    simp only [List.length_cons] at h
    simp only [cellsPut]
    rw [ih (by omega), sget_sset_other _ _ _ (by omega)]

/-- A stored byte is read back. -/
theorem sget_cellsPut {m : List Host.Cell} {a i : Nat} {bs : List Byte} (hi : i < bs.length) :
    sget memInit (cellsPut m a bs) (a + i) = bs[i] := by
  induction bs generalizing m a i with
  | nil => simp at hi
  | cons b r ih =>
    simp only [cellsPut]
    cases i with
    | zero =>
      rw [sget_cellsPut_other (by omega)]
      exact sget_sset_same _ _ _ _
    | succ i =>
      have := ih (m := sset memInit m a b) (a := a + 1) (i := i) (by simpa using hi)
      rw [show a + (i + 1) = a + 1 + i by omega, this]
      rfl

end Sys2Proof.Machine
end

