-- ==== Sys2Proof/Laws/State.lean ====
section
/-! SUPPORT. What each update does to each field of the device, and how programs run: no proof need unfold `Dev.apply` or `Prog.run`. -/

namespace Sys2Proof.Machine

/-! ### Programs -/

@[simp] theorem run_skip (s : Dev) : Prog.skip.run s = s := rfl
@[simp] theorem run_upd (u : Upd) (s : Dev) : (Prog.upd u).run s = s.apply u := rfl
@[simp] theorem run_seq (a b : Prog) (s : Dev) : (Prog.seq a b).run s = b.run (a.run s) := rfl
@[simp] theorem run_look (f : Dev → Prog) (s : Dev) : (Prog.look f).run s = (f s).run s := rfl
@[simp] theorem run_progs_nil (s : Dev) : (progs []).run s = s := rfl
@[simp] theorem run_progs_cons (p : Prog) (r : List Prog) (s : Dev) : (progs (p :: r)).run s = (progs r).run (p.run s) := rfl
@[simp] theorem run_only_true (p : Prog) (s : Dev) : (only true p).run s = p.run s := rfl
@[simp] theorem run_only_false (p : Prog) (s : Dev) : (only false p).run s = s := rfl
theorem run_only (c : Bool) (p : Prog) (s : Dev) : (only c p).run s = if c then p.run s else s := by cases c <;> rfl
@[simp] theorem run_forAll_nil {α : Type} (f : α → Prog) (s : Dev) : (forAll [] f).run s = s := rfl
@[simp] theorem run_forAll_cons {α : Type} (a : α) (r : List α) (f : α → Prog) (s : Dev) :
    (forAll (a :: r) f).run s = (forAll r f).run ((f a).run s) := rfl
@[simp] theorem perform_next (s : State) (p : Prog) : s.perform p = .next { s with m := p.run s.m } := rfl

/-- What every update keeps, every program keeps. -/
theorem Prog.keeps {P : Dev → Prop} (h : ∀ s u, P s → P (s.apply u)) (p : Prog) : ∀ s, P s → P (p.run s) := by
  induction p with
  | skip => exact fun s hs => hs
  | upd u => exact fun s hs => h s u hs
  | seq a b ha hb => exact fun s hs => hb _ (ha s hs)
  | look f hf => exact fun s hs => hf s s hs

/-- What every update relates to the state before it, every program does. -/
theorem Prog.relates {R : Dev → Dev → Prop} (refl : ∀ s, R s s) (trans : ∀ a b c, R a b → R b c → R a c) (h : ∀ s u, R s (s.apply u)) (p : Prog) :
    ∀ s, R s (p.run s) := by
  induction p with
  | skip => exact fun s => refl s
  | upd u => exact fun s => h s u
  | seq a b ha hb => exact fun s => trans _ _ _ (ha s) (hb _)
  | look f hf => exact fun s => hf s s

/-! ### Fields -/

@[simp] theorem apply_clock (s : Dev) (u : Upd) : (s.apply u).clock = (match u with
      | .time dt => s.clock + dt
      | _ => s.clock) := by cases u <;> rfl
@[simp] theorem apply_free (s : Dev) (u : Upd) : (s.apply u).free = (match u with
      | .fresh => s.free + 1
      | .undef _ _ => s.free + 1
      | _ => s.free) := by cases u <;> rfl
@[simp] theorem apply_regs (s : Dev) (u : Upd) : (s.apply u).regs = (match u with
      | .reg a v => sset regReset s.regs a (BitVec.ofNat 32 v)
      | .regDrop lo hi => s.regs.filter (fun r => !(decide (lo ≤ r.1) && decide (r.1 < hi)))
      | _ => s.regs) := by cases u <;> rfl
@[simp] theorem apply_mem (s : Dev) (u : Upd) : (s.apply u).mem = (match u with
      | .mem a bs => cellsPut s.mem a bs
      | .zero a n => cellsDrop s.mem a n
      | .undef a n => cellsDrop s.mem a n
      | .stackLost n => s.mem.filter (fun c => !onStackNo s.regs n c.1)
      | _ => s.mem) := by cases u <;> rfl
@[simp] theorem apply_undef (s : Dev) (u : Upd) : (s.apply u).undef = (match u with
      | .mem a bs => undefDrop s.undef a bs.length
      | .zero a n => undefDrop s.undef a n
      | .undef a n => (a, a + n, s.free) :: undefDrop s.undef a n
      | .stackLost n => s.undef.flatMap (undefOff s.regs n)
      | _ => s.undef) := by cases u <;> rfl
@[simp] theorem apply_bad (s : Dev) (u : Upd) : (s.apply u).bad = (match u with
      | .zero a n => setDrop s.bad a n
      | .bad a b => if b then nadd s.bad a else ndel s.bad a
      | .stackLost n => s.bad.filter (fun a => !onStackNo s.regs n a)
      | _ => s.bad) := by cases u <;> rfl
@[simp] theorem apply_oneBit (s : Dev) (u : Upd) : (s.apply u).oneBit = (match u with
      | .zero a n => setDrop s.oneBit a n
      | .oneBit a b => if b then nadd s.oneBit a else ndel s.oneBit a
      | .stackLost n => s.oneBit.filter (fun a => !onStackNo s.regs n a)
      | _ => s.oneBit) := by cases u <;> rfl
@[simp] theorem apply_clusters (s : Dev) (u : Upd) : (s.apply u).clusters = (match u with
      | .cl k c => sset clustersDef s.clusters k c
      | _ => s.clusters) := by cases u <;> rfl
@[simp] theorem apply_dies (s : Dev) (u : Upd) : (s.apply u).dies = (match u with
      | .die d x => sset diesDef s.dies d x
      | _ => s.dies) := by cases u <;> rfl
@[simp] theorem apply_stacks (s : Dev) (u : Upd) : (s.apply u).stackTab = (match u with
      | .stack n x => sset stacksDef s.stackTab n x
      | _ => s.stackTab) := by cases u <;> rfl
@[simp] theorem apply_drovers (s : Dev) (u : Upd) : (s.apply u).drovers = (match u with
      | .drover d x => sset droversDef s.drovers d x
      | _ => s.drovers) := by cases u <;> rfl
@[simp] theorem apply_pipes (s : Dev) (u : Upd) : (s.apply u).pipes = (match u with
      | .pipe n x => sset pipeDef s.pipes n x
      | _ => s.pipes) := by cases u <;> rfl
@[simp] theorem apply_sluices (s : Dev) (u : Upd) : (s.apply u).sluices = (match u with
      | .sluice n x => sset sluiceDef s.sluices n x
      | _ => s.sluices) := by cases u <;> rfl
@[simp] theorem apply_mailboxes (s : Dev) (u : Upd) : (s.apply u).mailboxes = (match u with
      | .mbox m x => sset mboxDef s.mailboxes m x
      | _ => s.mailboxes) := by cases u <;> rfl
@[simp] theorem apply_doms (s : Dev) (u : Upd) : (s.apply u).doms = (match u with
      | .dom k x => sset domDef s.doms k x
      | _ => s.doms) := by cases u <;> rfl
@[simp] theorem apply_power (s : Dev) (u : Upd) : (s.apply u).power = (match u with
      | .power x => x
      | _ => s.power) := by cases u <;> rfl
@[simp] theorem apply_therm (s : Dev) (u : Upd) : (s.apply u).therm = (match u with
      | .therm d x => sset thermDef s.therm d x
      | _ => s.therm) := by cases u <;> rfl
@[simp] theorem apply_repair (s : Dev) (u : Upd) : (s.apply u).repair = (match u with
      | .repair k v => sset repairDef s.repair k v
      | .maps l => l.foldl (fun m x => sset repairDef m x.1 x.2) []
      | _ => s.repair) := by cases u <;> rfl
@[simp] theorem apply_log (s : Dev) (u : Upd) : (s.apply u).log = (match u with
      | .log e => logPush s.log e
      | .logClear => []
      | _ => s.log) := by cases u <;> rfl
@[simp] theorem apply_logNext (s : Dev) (u : Upd) : (s.apply u).logNext = (match u with
      | .log _ => s.logNext + 1
      | .logClear => 0
      | _ => s.logNext) := by cases u <;> rfl
@[simp] theorem apply_rfaults (s : Dev) (u : Upd) : (s.apply u).rfaults = (match u with
      | .rfaults l => l
      | _ => s.rfaults) := by cases u <;> rfl
@[simp] theorem apply_sessions (s : Dev) (u : Upd) : (s.apply u).sessions = (match u with
      | .session n x => sset sessionDef s.sessions n x
      | _ => s.sessions) := by cases u <;> rfl
@[simp] theorem apply_sent (s : Dev) (u : Upd) : (s.apply u).sent = (match u with
      | .send via bytes => s.sent ++ [s.out via bytes]
      | _ => s.sent) := by cases u <;> rfl
@[simp] theorem apply_aoc (s : Dev) (u : Upd) : (s.apply u).aoc = (match u with
      | .aoc x => x
      | _ => s.aoc) := by cases u <;> rfl
@[simp] theorem apply_links (s : Dev) (u : Upd) : (s.apply u).links = (match u with
      | .links x => x
      | _ => s.links) := by cases u <;> rfl
@[simp] theorem apply_timeOff (s : Dev) (u : Upd) : (s.apply u).timeOff = (match u with
      | .timeOff x => x
      | _ => s.timeOff) := by cases u <;> rfl
@[simp] theorem apply_role (s : Dev) (u : Upd) : (s.apply u).role = (match u with
      | .role r => r
      | _ => s.role) := by cases u <;> rfl
@[simp] theorem apply_groupIndex (s : Dev) (u : Upd) : (s.apply u).groupIndex = (match u with
      | .group i => i
      | _ => s.groupIndex) := by cases u <;> rfl
@[simp] theorem apply_unitWrites (s : Dev) (u : Upd) : (s.apply u).unitWrites = (match u with
      | .unitWrites l => l
      | _ => s.unitWrites) := by cases u <;> rfl

end Sys2Proof.Machine
end

