-- ==== Sys2Proof/Laws/Access.lean ====
section
/-! SUPPORT. Reading a unit after changing one. -/

namespace Sys2Proof.Machine

@[simp] theorem cl_apply (s : Dev) (k j : Nat) (c : Cluster) : (s.apply (.cl k c)).cl j = if j = k then c else s.cl j := by
  simp only [Dev.cl, apply_clusters]
  split
  · subst_vars; exact sget_sset_same _ _ _ _
  · rename_i h; exact sget_sset_other _ _ _ h
@[simp] theorem die_apply (s : Dev) (k j : Nat) (c : DieMem) : (s.apply (.die k c)).die j = if j = k then c else s.die j := by
  simp only [Dev.die, apply_dies]
  split
  · subst_vars; exact sget_sset_same _ _ _ _
  · rename_i h; exact sget_sset_other _ _ _ h
@[simp] theorem stk_apply (s : Dev) (k j : Nat) (c : Stack) : (s.apply (.stack k c)).stk j = if j = k then c else s.stk j := by
  simp only [Dev.stk, apply_stacks]
  split
  · subst_vars; exact sget_sset_same _ _ _ _
  · rename_i h; exact sget_sset_other _ _ _ h
@[simp] theorem drv_apply (s : Dev) (k j : Nat) (c : Drover) : (s.apply (.drover k c)).drv j = if j = k then c else s.drv j := by
  simp only [Dev.drv, apply_drovers]
  split
  · subst_vars; exact sget_sset_same _ _ _ _
  · rename_i h; exact sget_sset_other _ _ _ h
@[simp] theorem pipe_apply (s : Dev) (k j : Nat) (c : Pipe) : (s.apply (.pipe k c)).pipe j = if j = k then c else s.pipe j := by
  simp only [Dev.pipe, apply_pipes]
  split
  · subst_vars; exact sget_sset_same _ _ _ _
  · rename_i h; exact sget_sset_other _ _ _ h
@[simp] theorem slu_apply (s : Dev) (k j : Nat) (c : Sluice) : (s.apply (.sluice k c)).slu j = if j = k then c else s.slu j := by
  simp only [Dev.slu, apply_sluices]
  split
  · subst_vars; exact sget_sset_same _ _ _ _
  · rename_i h; exact sget_sset_other _ _ _ h
@[simp] theorem mb_apply (s : Dev) (k j : Nat) (c : Mailbox) : (s.apply (.mbox k c)).mb j = if j = k then c else s.mb j := by
  simp only [Dev.mb, apply_mailboxes]
  split
  · subst_vars; exact sget_sset_same _ _ _ _
  · rename_i h; exact sget_sset_other _ _ _ h
@[simp] theorem dom_apply (s : Dev) (k j : Nat) (c : Dom) : (s.apply (.dom k c)).dom j = if j = k then c else s.dom j := by
  simp only [Dev.dom, apply_doms]
  split
  · subst_vars; exact sget_sset_same _ _ _ _
  · rename_i h; exact sget_sset_other _ _ _ h
@[simp] theorem ses_apply (s : Dev) (k j : Nat) (c : Session) : (s.apply (.session k c)).ses j = if j = k then c else s.ses j := by
  simp only [Dev.ses, apply_sessions]
  split
  · subst_vars; exact sget_sset_same _ _ _ _
  · rename_i h; exact sget_sset_other _ _ _ h
@[simp] theorem th_apply (s : Dev) (k j : Nat) (c : DieTherm) : (s.apply (.therm k c)).th j = if j = k then c else s.th j := by
  simp only [Dev.th, apply_therm]
  split
  · subst_vars; exact sget_sset_same _ _ _ _
  · rename_i h; exact sget_sset_other _ _ _ h

/-- A register word after one is set. -/
@[simp] theorem regAt_apply (s : Dev) (a b v : Nat) : (s.apply (.reg a v)).regAt b = if b = a then v % 2 ^ 32 else s.regAt b := by
  simp only [Dev.regAt, apply_regs]
  split
  · subst_vars; rw [sget_sset_same]; simp
  · rename_i h; rw [sget_sset_other _ _ _ h]

theorem core_set (c : Cluster) (n m : Nat) (x : ThCore) :
    ({ c with cores := sset (fun _ => ThCore.atWake) c.cores n x } : Cluster).core m = if m = n then x else c.core m := by
  simp only [Cluster.core]
  split
  · subst_vars; exact sget_sset_same _ _ _ _
  · rename_i h; exact sget_sset_other _ _ _ h

theorem thr_setThr (x : Flock) (i j : Nat) (v : Thread) : (x.setThr i v).thr j = if j = i then v else x.thr j := by
  simp only [Flock.thr, Flock.setThr]
  split
  · subst_vars; exact sget_sset_same _ _ _ _
  · rename_i h; exact sget_sset_other _ _ _ h

end Sys2Proof.Machine
end

