-- ==== Sys2Proof/Laws/Thread.lean ====
section
/-! SUPPORT. What a thread instruction comes to where nothing hinders it: its page becomes the most recently used one, and its body runs. -/

namespace Sys2Proof.Machine

/-- The device after a fetch: the page of the instruction is the most recently used of its cluster, and the core holds the line of its code. -/
def Dev.touchCode (s : Dev) (k core va : Nat) : Dev :=
  let line := s.dpaOf (k / 168) (k % 168) va / 64 * 64
  let t := s.apply (.cl k { s.cl k with tlb := tlbTouch (s.cl k).tlb va })
  if (s.codeLine k core line).isSome then t else (onCore k core fun x => { x with icache := (line, s.bytesAt line 64) :: x.icache }).run t

theorem ck_div_mod (k : Nat) : ck (k / 168) (k % 168) = k := by simp only [ck]; omega

theorem pagePieces_code {va : Nat} (h : va % 4 = 0) : pagePieces va 4 = [(va, 4)] := by
  have e : (va + 4 - 1) / 65536 - va / 65536 = 0 := by omega
  simp only [pagePieces, e]
  simp

theorem xlate_hit_find {s : Dev} {d p va acc a : Nat} (h : s.xlate d p va acc = .hit a) (hp : p < 168) :
    ∃ e, tlbFind (s.cl (ck d p)).tlb va = some e ∧ e.target va = a ∧ e.allows acc = true ∧ va < 2 ^ 48 := by
  simp only [Dev.xlate, hp, if_true] at h
  split at h
  · cases h
  · split at h
    · cases h
    · split at h
      · rename_i e he
        split at h
        · rename_i ha; cases h; exact ⟨e, he, rfl, ha, by omega⟩
        · cases h
      · split at h <;> cases h

theorem tlbFind_touch {l : List Tlb} {va : Nat} {e : Tlb} (h : tlbFind l va = some e) : tlbFind (tlbTouch l va) va = some e := by
  have hc := List.find?_some (show l.find? _ = some e from h)
  unfold tlbTouch; rw [h]; simp only [tlbFind, List.find?_cons, hc]

theorem dpaOf_of_find {s : Dev} {d p va : Nat} {e : Tlb} (hp : p < 168) (h : tlbFind (s.cl (ck d p)).tlb va = some e) : s.dpaOf d p va = e.target va := by
  simp only [Dev.dpaOf, Dev.xlate, hp, if_true, h]
  split
  · rename_i heq
    split at heq
    · cases heq
    · split at heq
      · cases heq
      · split at heq
        · cases heq; rfl
        · cases heq
  · rfl

theorem memTouch_clean {s : Dev} {a : Nat} (h1 : touched s.oneBit (a / 64 * 64) 64 = []) (h2 : touched s.bad (a / 64 * 64) 64 = [])
    (h3 : (s.stk (s.stackNo (a / 256 * 256))).zc = []) : (memTouch (a / 64 * 64) 64).run s = s := by
  simp only [memTouch, readChecks, run_progs_cons, run_progs_nil, run_look, h1, h2, run_forAll_nil, zcRead]
  have e : zcBlocks (a / 64 * 64) 64 = [a / 256] := by
    have h : (a / 64 * 64 + 63) / 256 - a / 256 = 0 := by omega
    have g : a / 64 * 64 / 256 = a / 256 := by omega
    simp [zcBlocks, blockStarts, h, g]
  by_cases hs : a / 64 * 64 < stackEnd
  · simp [hs, e, h3]
  · simp [hs]

theorem stackNo_cl (s : Dev) (k : Nat) (c : Cluster) (a : Nat) : (s.apply (.cl k c)).stackNo a = s.stackNo a := rfl
theorem reachAt_cl (s : Dev) (k : Nat) (c : Cluster) (a : Nat) : (s.apply (.cl k c)).reachAt a = s.reachAt a := rfl

theorem core_onCore (s : Dev) (k core j n : Nat) (g : ThCore → ThCore) :
    (((onCore k core g).run s).cl j).core n = if j = k ∧ n = core then g ((s.cl k).core core) else (s.cl j).core n := by
  simp only [onCore, onCl, run_look, run_upd, cl_apply]
  by_cases hj : j = k
  · subst hj
    simp only [if_true, core_set, true_and]
  · simp only [hj, if_false, false_and]

theorem flock_touchCode (s : Dev) (k core va j n f : Nat) : (s.touchCode k core va).flock j n f = s.flock j n f := by
  have h : ∀ i m, ((s.apply (.cl k { s.cl k with tlb := tlbTouch (s.cl k).tlb va })).cl i).core m = (s.cl i).core m := by
    intro i m
    simp only [cl_apply]
    split
    · subst_vars; rfl
    · rfl
  simp only [Dev.flock, Dev.touchCode]
  split
  · rw [h]
  · rw [core_onCore, h, h]
    by_cases hj : j = k ∧ n = core
    · rw [if_pos hj, hj.1, hj.2]; simp only [ThCore.flock]
    · rw [if_neg hj]

theorem die_touchCode (s : Dev) (k core va d : Nat) : (s.touchCode k core va).die d = s.die d := by
  simp only [Dev.touchCode]
  split <;> rfl

/-- A step of an instruction on a pipe of any kind, whose word lies at the program counter: its body runs on the device after the fetch. -/
theorem thStep_stands {s : Dev} {a : ThOp} {op pipe : Nat} {body : Prog} (h : s.stands a)
    (hw : s.codeWord a.k a.core (s.dpaOf (a.k / 168) (a.k % 168) (s.flockOf a).pc) = op * 2 ^ 24 + a.w) (hop : opDefined op = true)
    (hb : ((body.run (s.touchCode a.k a.core (s.flockOf a).pc)).die (a.k / 168)).once = []) :
    (thStep a op pipe true body).run s = body.run (s.touchCode a.k a.core (s.flockOf a).pc) := by
  obtain ⟨hon, hst, hpre, ⟨h4, ⟨dpa, hx, ha4, hreach, hcode⟩, honce⟩, hup, hcon⟩ := h
  have hk : a.k % 168 < 168 := Nat.mod_lt _ (by decide)
  obtain ⟨e, hf, het, _, h48⟩ := xlate_hit_find hx hk
  have hd0 : s.dpaOf (a.k / 168) (a.k % 168) (s.flockOf a).pc = dpa := by rw [dpaOf_of_find hk hf]; exact het
  rw [ck_div_mod] at hf
  have hready : (s.flockOf a).ready op a.w = true := by simp [Flock.ready, hst, hpre]
  have hholds : (s.flockOf a).holdsWord = false := by simp [Flock.holdsWord, hst]
  simp only [thStep, run_look, hon, hready, hholds, Bool.not_true, Bool.false_eq_true, if_false]
  simp only [thFetch, run_look]
  have hpc : (s.flock a.k a.core a.f).pc = (s.flockOf a).pc := rfl
  rw [hpc, if_neg (by simp [h4])]
  have hp : vaPieces [⟨(s.flockOf a).pc, 4, 2⟩] = [⟨(s.flockOf a).pc, 4, 2⟩] := by simp [vaPieces, pagePieces_code h4]
  simp only [thAccess, run_seq]
  have hfill : (fillFromDie (a.k / 168) (a.k % 168) [⟨(s.flockOf a).pc, 4, 2⟩]).run s = s := by
    simp only [fillFromDie, hp, run_forAll_cons, run_forAll_nil, run_look, hx]; rfl
  rw [hfill]
  have hm : s.meets (a.k / 168) (a.k % 168) [⟨(s.flockOf a).pc, 4, 2⟩] = .ok := by
    simp only [Dev.meets, hp, Dev.meetsPieces, hx, Dev.reachFor, hreach]; rfl
  have hlend : ∀ f, (lendOnce (a.k / 168) (a.k % 168) f).run s = s := by
    intro f; simp only [lendOnce, run_look, honce, List.any_nil]; rfl
  simp only [useOnce, run_seq, hlend, run_look, hm, run_progs_cons, run_progs_nil]
  have ht : (touchPages (a.k / 168) (a.k % 168) [⟨(s.flockOf a).pc, 4, 2⟩]).run s
      = s.apply (.cl a.k { s.cl a.k with tlb := tlbTouch (s.cl a.k).tlb (s.flockOf a).pc }) := by
    simp only [touchPages, hk, if_true, hp, onCl, run_look, run_upd, ck_div_mod, List.foldl_cons, List.foldl_nil]
  rw [ht]
  have htc : s.touchCode a.k a.core (s.flockOf a).pc = if (s.codeLine a.k a.core (dpa / 64 * 64)).isSome
      then s.apply (.cl a.k { s.cl a.k with tlb := tlbTouch (s.cl a.k).tlb (s.flockOf a).pc })
      else (onCore a.k a.core fun x => { x with icache := (dpa / 64 * 64, s.bytesAt (dpa / 64 * 64) 64) :: x.icache }).run
        (s.apply (.cl a.k { s.cl a.k with tlb := tlbTouch (s.cl a.k).tlb (s.flockOf a).pc })) := by
    simp only [Dev.touchCode, hd0]
  rw [hd0] at hw
  generalize hs1 : s.apply (.cl a.k { s.cl a.k with tlb := tlbTouch (s.cl a.k).tlb (s.flockOf a).pc }) = s1 at *
  have hd : s1.dpaOf (a.k / 168) (a.k % 168) (s.flockOf a).pc = dpa := by
    rw [dpaOf_of_find hk (e := e)]
    · exact het
    · rw [ck_div_mod, ← hs1]
      simp only [cl_apply, if_true]
      exact tlbFind_touch hf
  have hcore : (s1.cl a.k).core a.core = (s.cl a.k).core a.core := by rw [← hs1]; simp only [cl_apply, if_true]; rfl
  have hreturn : ∀ (t : Dev) (f l), (t.die (a.k / 168)).once = [] → (returnOnce (a.k / 168) (a.k % 168) f l).run t = t := by
    intro t f l ht; simp only [returnOnce, run_look, ht, List.any_nil]; rfl
  have hword : ∀ (l : List Byte) (t : Dev) (c : Prog), leAt l (dpa % 64) 4 = op * 2 ^ 24 + a.w → (thWord a.k a.core a.f op a.w dpa l c).run t = c.run t := by
    intro l t c hl
    have : (op * 2 ^ 24 + a.w) / 2 ^ 24 = op := by
      have := a.word.isLt
      simp only [ThOp.w]; omega
    simp only [thWord, run_look, hl, this, hop, Bool.not_true, Bool.false_eq_true, if_false, only, decide_true, if_true]
  have hissue : ∀ t, (thPipe a pipe (if a.upset then thDie a.k a.core a.f 0x20 0 (t.flockOf a).first false 0 else body)).run t = body.run t := by
    intro t; simp only [hup, Bool.false_eq_true, if_false, thPipe, run_look, hcon, Bool.not_false, Bool.or_true, if_true]
  simp only [hd, hcore]
  cases hl : s.codeLine a.k a.core (dpa / 64 * 64) with
  | some ln =>
    have hl' := hl
    simp only [Dev.codeLine] at hl'
    simp only [hl', Dev.codeWord, hl] at hw ⊢
    simp only [hl, Option.isSome_some, if_true] at htc
    rw [hword _ _ _ hw]
    simp only [run_look, hissue, ← htc]
    exact hreturn _ _ _ hb
  | none =>
    have hl' := hl
    simp only [Dev.codeLine] at hl'
    simp only [hl, Option.isSome_none, Bool.false_eq_true, if_false, false_or] at htc hcode
    obtain ⟨hroom, h1, h2, h3⟩ := hcode
    simp only [hl', Dev.codeWord, hl] at hw ⊢
    have hmem : (memTouch (dpa / 64 * 64) 64).run s1 = s1 := by subst hs1; exact memTouch_clean h1 h2 h3
    have hbad : s1.readBad (dpa / 64 * 64) 64 = false := by
      simp only [Dev.readBad]
      rw [show s1.bad = s.bad from by rw [← hs1]; rfl, h2]; rfl
    have hbytes : s1.bytesAt (dpa / 64 * 64) 64 = s.bytesAt (dpa / 64 * 64) 64 := by subst hs1; rfl
    simp only [run_seq, hmem, hbad, Bool.false_eq_true, if_false, fillCode, run_look, hcore, hroom, if_true, hbytes]
    have hfill2 : (onCore a.k a.core fun x => { x with icache := (dpa / 64 * 64, s.bytesAt (dpa / 64 * 64) 64) :: ((s.cl a.k).core a.core).icache }).run s1
        = s.touchCode a.k a.core (s.flockOf a).pc := by
      rw [htc]; simp only [onCore, onCl, run_look, hcore]
    rw [hfill2, hword _ _ _ hw]
    simp only [run_look, hissue]
    exact hreturn _ _ _ hb

theorem flock_onFlock (s : Dev) (k core f : Nat) (g : Flock → Flock) : ((onFlock k core f g).run s).flock k core f = g (s.flock k core f) := by
  simp only [onFlock, onCore, onCl, run_look, run_upd, Dev.flock, cl_apply, if_true]
  rw [core_set, if_pos rfl]
  simp only [ThCore.setFlock, ThCore.flock]
  split <;> simp_all

theorem sameButFlock_refl (s : Dev) (a : ThOp) : s.sameButFlock s a := ⟨rfl, fun _ _ => rfl, rfl, fun _ _ => rfl, rfl, rfl⟩

theorem sameButFlock_trans {s t u : Dev} {a : ThOp} (h : s.sameButFlock t a) (g : t.sameButFlock u a) : s.sameButFlock u a :=
  ⟨g.1.trans h.1, fun k hk => (g.2.1 k hk).trans (h.2.1 k hk), g.2.2.1.trans h.2.2.1, fun n hn => (g.2.2.2.1 n hn).trans (h.2.2.2.1 n hn),
    g.2.2.2.2.1.trans h.2.2.2.2.1, g.2.2.2.2.2.trans h.2.2.2.2.2⟩

theorem sameButFlock_onFlock (s : Dev) (a : ThOp) (g : Flock → Flock) : s.sameButFlock ((onFlock a.k a.core a.f g).run s) a := by
  have hf : a.f = 0 ∨ a.f = 1 := by have := a.at_.flock.isLt; simp only [ThOp.f]; omega
  refine ⟨rfl, fun k hk => ?_, ?_, fun n hn => ?_, ?_, ?_⟩ <;> simp only [onFlock, onCore, onCl, run_look, run_upd, Dev.flock, cl_apply, if_true]
  · rw [if_neg hk]
  · rw [core_set, if_neg hn]
  · rw [core_set, if_pos rfl]; rcases hf with hf | hf <;> simp [ThCore.setFlock, hf]
  · rw [core_set, if_pos rfl]; rcases hf with hf | hf <;> simp [ThCore.setFlock, ThCore.flock, hf]

theorem sameButFlock_reg (s : Dev) (a : ThOp) (A v : Nat) : s.sameButFlock (s.apply (.reg A v)) a := ⟨rfl, fun _ _ => rfl, rfl, fun _ _ => rfl, rfl, rfl⟩

theorem sameButFlock_tlb (s : Dev) (a : ThOp) (l : List Tlb) : s.sameButFlock (s.apply (.cl a.k { s.cl a.k with tlb := l })) a := by
  refine ⟨rfl, fun k hk => ?_, ?_, fun n hn => ?_, ?_, ?_⟩ <;> simp only [Dev.flock, cl_apply, if_true]
  · rw [if_neg hk]
  · rfl
  · rfl
  · rfl

theorem sameButFlock_icache (s : Dev) (a : ThOp) (g : List (Nat × List Byte) → List (Nat × List Byte)) :
    s.sameButFlock ((onCore a.k a.core fun x => { x with icache := g x.icache }).run s) a := by
  refine ⟨rfl, fun k hk => ?_, ?_, fun n hn => ?_, ?_, ?_⟩
  · simp only [onCore, onCl, run_look, run_upd, cl_apply, if_neg hk]
  · simp only [onCore, onCl, run_look, run_upd, cl_apply, if_true]
  · rw [core_onCore, if_neg (fun h => hn h.2)]
  · rw [core_onCore, if_pos ⟨rfl, rfl⟩]
  · simp only [Dev.flock]; rw [core_onCore, if_pos ⟨rfl, rfl⟩]; simp only [ThCore.flock]

theorem sameButFlock_touchCode (s : Dev) (a : ThOp) (va : Nat) : s.sameButFlock (s.touchCode a.k a.core va) a := by
  simp only [Dev.touchCode]
  split
  · exact sameButFlock_tlb ..
  · exact sameButFlock_trans (sameButFlock_tlb ..) (sameButFlock_icache _ a fun l => _ :: l)

/-- Writing the threads of a list one after the other gives each its value. -/
theorem thr_foldl (f : Nat → Thread) (l : List Nat) (y : Flock) (i : Nat) :
    (l.foldl (fun y t => y.setThr t (f t)) y).thr i = if i ∈ l then f i else y.thr i := by
  induction l generalizing y with
  | nil => simp
  | cons t r ih =>
    simp only [List.foldl_cons, ih, thr_setThr, List.mem_cons]
    by_cases h : i ∈ r
    · simp [h]
    · by_cases h2 : i = t
      · simp [h2]
      · simp [h, h2]

theorem rest_foldl (f : Nat → Thread) (l : List Nat) (y : Flock) : { l.foldl (fun y t => y.setThr t (f t)) y with threads := [] } = { y with threads := [] } := by
  induction l generalizing y with
  | nil => rfl
  | cons t r ih => simp only [List.foldl_cons, ih]; rfl

theorem regAt_onFlock (s : Dev) (k core f : Nat) (g : Flock → Flock) (A : Nat) : ((onFlock k core f g).run s).regAt A = s.regAt A := rfl

theorem satAdd_lt (x n : Nat) : satAdd x n % 2 ^ 32 = satAdd x n := by
  apply Nat.mod_eq_of_lt
  simp only [satAdd]
  omega

theorem cl_reg (d : Dev) (A v k : Nat) : (d.apply (.reg A v)).cl k = d.cl k := rfl
theorem flockOf_reg (d : Dev) (A v : Nat) (a : ThOp) : (d.apply (.reg A v)).flockOf a = d.flockOf a := rfl
theorem flockOf_onFlock (s : Dev) (a : ThOp) (g : Flock → Flock) : ((onFlock a.k a.core a.f g).run s).flockOf a = g (s.flockOf a) := flock_onFlock ..
theorem tlb_onFlock (s : Dev) (k core f : Nat) (g : Flock → Flock) : (((onFlock k core f g).run s).cl k).tlb = (s.cl k).tlb := by
  simp only [onFlock, onCore, onCl, run_look, run_upd, cl_apply, if_true]

/-- The flock at its next instruction. -/
def Flock.goOn (x : Flock) (pc : Nat) : Flock := { x with pc := pc % 2 ^ 64, st := .run, done := 0, wait := none }

theorem thr_goOn (x : Flock) (pc i : Nat) : (x.goOn pc).thr i = x.thr i := rfl
theorem goOn_rest {x y : Flock} (pc : Nat) (h : { x with threads := [] } = { y with threads := [] }) :
    { x.goOn pc with threads := [] } = { y with threads := [], pc := pc % 2 ^ 64, st := .run, done := 0, wait := none } := by
  simp only [Flock.goOn, Flock.mk.injEq] at h ⊢
  simp only [h, and_self]

/-- What `thNext` does. -/
theorem thNext_run (s : Dev) (k core f pc : Nat) : (thNext k core f pc).run s
    = ((onFlock k core f fun x => x.goOn pc).run s).apply
        (.reg (regAddr .th (k / 168) (k % 168 * 112 + core) R.TH_ISSUED) (satAdd (s.regAt (regAddr .th (k / 168) (k % 168 * 112 + core) R.TH_ISSUED)) 1)) := by
  simp only [thNext, run_progs_cons, run_progs_nil, thTally, tally, Nat.one_ne_zero, if_false, setReg, run_look, run_upd, Dev.reg, regAt_onFlock]
  rfl

theorem regAt_next {s s' : Dev} (a : ThOp) (pc : Nat) (h : ∀ A, s'.regAt A = s.regAt A) (A : Nat) :
    ((thNext a.k a.core a.f pc).run s').regAt A
      = if A = counterOf a R.TH_ISSUED then satAdd (s.regAt (counterOf a R.TH_ISSUED)) 1 else s.regAt A := by
  rw [thNext_run, regAt_apply, regAt_onFlock]
  rw [h, h]
  rw [satAdd_lt]
  rfl

theorem regsBecome_one {s t : Dev} (B v : Nat) (h : ∀ A, t.regAt A = if A = B then v else s.regAt A) : s.regsBecome t [(B, v)] := by
  intro A
  rw [h, List.find?_cons, List.find?_nil]
  by_cases hA : A = B
  · subst hA; rw [if_pos rfl]; simp
  · rw [if_neg hA, show (B == A) = false from by simpa using Ne.symm hA]

/-- What going on leaves of the counters. -/
theorem regsBecome_next {s s' : Dev} (a : ThOp) (pc : Nat) (h : ∀ A, s'.regAt A = s.regAt A) :
    s.regsBecome ((thNext a.k a.core a.f pc).run s') [(counterOf a R.TH_ISSUED, satAdd (s.regAt (counterOf a R.TH_ISSUED)) 1)] :=
  regsBecome_one _ _ (regAt_next a pc h)

/-- A change of the executing threads, then the next instruction. -/
theorem wrote_of {s s' : Dev} {a : ThOp} (f : Nat → Thread → Thread) (h1 : s.sameButFlock s' a) (h2 : s'.flockOf a = s.flockOf a)
    (h3 : ∀ A, s'.regAt A = s.regAt A) :
    s.wrote ((thNext a.k a.core a.f ((s.flockOf a).pc + 4)).run ((onFlock a.k a.core a.f fun y =>
      ((s.flockOf a).exec a.w).foldl (fun y t => y.setThr t (f t ((s.flockOf a).thr t))) y).run s')) a f := by
  refine ⟨?_, ⟨fun i => ?_, ?_⟩, ?_⟩
  · rw [thNext_run]
    exact sameButFlock_trans (sameButFlock_trans (sameButFlock_trans h1 (sameButFlock_onFlock ..)) (sameButFlock_onFlock ..)) (sameButFlock_reg ..)
  · rw [thNext_run, flockOf_reg, flockOf_onFlock, flockOf_onFlock, h2, thr_goOn]
    exact thr_foldl (fun t => f t ((s.flockOf a).thr t)) _ _ i
  · rw [thNext_run, flockOf_reg, flockOf_onFlock, flockOf_onFlock, h2]
    exact goOn_rest _ (rest_foldl (fun t => f t ((s.flockOf a).thr t)) _ _)
  · exact regsBecome_next a _ fun A => (regAt_onFlock ..).trans (h3 A)

theorem regAt_touchCode (s : Dev) (k core va A : Nat) : (s.touchCode k core va).regAt A = s.regAt A := by
  simp only [Dev.touchCode]
  split <;> rfl
theorem flockOf_touchCode (s : Dev) (a : ThOp) (va : Nat) : (s.touchCode a.k a.core va).flockOf a = s.flockOf a := flock_touchCode ..
theorem die_onFlock (s : Dev) (k core f d : Nat) (g : Flock → Flock) : ((onFlock k core f g).run s).die d = s.die d := rfl
theorem die_reg (s : Dev) (A v d : Nat) : (s.apply (.reg A v)).die d = s.die d := rfl

/-- A register instruction that nothing hinders does what `Dev.wrote` says. -/
theorem thEach_stands {s : Dev} {a : ThOp} {op : Nat} {f : Flock → Nat → Thread → Thread} (h : s.stands a)
    (hw : s.codeWord a.k a.core (s.dpaOf (a.k / 168) (a.k % 168) (s.flockOf a).pc) = op * 2 ^ 24 + a.w) (hop : opDefined op = true) :
    s.wrote ((thEach a op true f).run s) a (f (s.flockOf a)) := by
  have honce : (s.die (a.k / 168)).once = [] := h.2.2.2.1.2.2
  simp only [thEach]
  rw [thStep_stands h hw hop]
  · simp only [run_look, run_progs_cons, run_progs_nil, flockOf_touchCode]
    exact wrote_of (f (s.flockOf a)) (sameButFlock_touchCode ..) (flockOf_touchCode ..) (fun A => regAt_touchCode ..)
  · simp only [run_look, run_progs_cons, run_progs_nil, flockOf_touchCode]
    rw [thNext_run, die_reg, die_onFlock, die_onFlock, die_touchCode]; exact honce

/-! ### Vector instructions -/

theorem flockOf_onCore (s : Dev) (a : ThOp) (g : ThCore → ThCore) (h0 : ∀ x, (g x).f0 = x.f0) (h1 : ∀ x, (g x).f1 = x.f1) :
    ((onCore a.k a.core g).run s).flockOf a = s.flockOf a := by
  simp only [onCore, onCl, run_look, run_upd, Dev.flockOf, Dev.flock, cl_apply, if_true]
  rw [core_set, if_pos rfl]
  simp only [ThCore.flock, h0, h1]

theorem tlb_onCore (s : Dev) (k core : Nat) (g : ThCore → ThCore) : (((onCore k core g).run s).cl k).tlb = (s.cl k).tlb := by
  simp only [onCore, onCl, run_look, run_upd, cl_apply, if_true]

theorem regAt_onCore (s : Dev) (k core : Nat) (g : ThCore → ThCore) (A : Nat) : ((onCore k core g).run s).regAt A = s.regAt A := rfl

theorem sameButVec_then {s t u : Dev} {a : ThOp} {v : Nat} (h : s.sameButVec t a v) (g : t.sameButFlock u a) : s.sameButVec u a v :=
  ⟨g.1.trans h.1, fun k hk => (g.2.1 k hk).trans (h.2.1 k hk), g.2.2.1.trans h.2.2.1, fun n hn => (g.2.2.2.1 n hn).trans (h.2.2.2.1 n hn),
    g.2.2.2.2.1.trans h.2.2.2.2.1, g.2.2.2.2.2.trans h.2.2.2.2.2⟩

theorem sameButVec_idle {s t : Dev} {a : ThOp} (g : Nat → Nat) (h : s.sameButFlock t a) :
    s.sameButVec ((onCore a.k a.core fun y => { y with vecIdle := g y.vecIdle }).run t) a (g ((s.cl a.k).core a.core).vecIdle) := by
  obtain ⟨h1, h2, h3, h4, h5, h6⟩ := h
  refine ⟨h1, fun k hk => ?_, ?_, fun n hn => ?_, ?_, ?_⟩ <;> simp only [onCore, onCl, run_look, run_upd, Dev.flock, cl_apply, if_true]
  · rw [if_neg hk]; exact h2 k hk
  · exact h3
  · rw [core_set, if_neg hn]; exact h4 n hn
  · rw [core_set, if_pos rfl]
    generalize (t.cl a.k).core a.core = x at *
    generalize (s.cl a.k).core a.core = y at *
    simp only [ThCore.mk.injEq] at h5 ⊢
    simp only [h5, and_self]
  · rw [core_set, if_pos rfl]; exact h6

theorem tally_run (rb : RB) (d i off n : Nat) (s : Dev) (A : Nat) :
    ((tally rb d i off n).run s).regAt A = if A = regAddr rb d i off ∧ n ≠ 0 then satAdd (s.regAt A) n else s.regAt A := by
  by_cases hn : n = 0
  · simp [tally, hn]
  · simp only [tally, hn, if_false, run_look, setReg, run_upd, regAt_apply, satAdd_lt, Dev.reg]
    by_cases hA : A = regAddr rb d i off
    · simp [hA, hn]
    · simp [hA]

theorem sameButFlock_tally (s : Dev) (a : ThOp) (rb : RB) (d i off n : Nat) : s.sameButFlock ((tally rb d i off n).run s) a := by
  by_cases hn : n = 0
  · simp only [tally, hn, if_true, run_skip]; exact sameButFlock_refl ..
  · simp only [tally, hn, if_false, run_look, setReg, run_upd]; exact sameButFlock_reg ..
theorem flockOf_tally (s : Dev) (a : ThOp) (rb : RB) (d i off n : Nat) : ((tally rb d i off n).run s).flockOf a = s.flockOf a := by
  by_cases hn : n = 0
  · simp only [tally, hn, if_true, run_skip]
  · simp only [tally, hn, if_false, run_look, setReg, run_upd]; rfl
theorem cl_tally (s : Dev) (k : Nat) (rb : RB) (d i off n : Nat) : ((tally rb d i off n).run s).cl k = s.cl k := by
  by_cases hn : n = 0
  · simp only [tally, hn, if_true, run_skip]
  · simp only [tally, hn, if_false, run_look, setReg, run_upd]; rfl

theorem counterOf_inj {a : ThOp} {x y : Nat} (h : counterOf a x = counterOf a y) : x = y := by
  simp only [counterOf, regAddr] at h; omega

theorem regAt_lt (s : Dev) (A : Nat) : s.regAt A < 2 ^ 32 := (sget regReset s.regs A).isLt

theorem regsBecome_two {s t : Dev} {B C v w : Nat} (hBC : B ≠ C)
    (h : ∀ A, t.regAt A = if A = B then v else if A = C then w else s.regAt A) : s.regsBecome t [(B, v), (C, w)] := by
  intro A
  rw [h, List.find?_cons, List.find?_cons, List.find?_nil]
  by_cases hA : A = B
  · subst hA; rw [if_pos rfl]; simp
  · rw [if_neg hA, show (B == A) = false from by simpa using Ne.symm hA]
    by_cases hC : A = C
    · subst hC; rw [if_pos rfl]; simp
    · rw [if_neg hC, show (C == A) = false from by simpa using Ne.symm hC]

theorem die_tally (s : Dev) (j : Nat) (rb : RB) (d i off n : Nat) : ((tally rb d i off n).run s).die j = s.die j := by
  by_cases hn : n = 0
  · simp only [tally, hn, if_true, run_skip]
  · simp only [tally, hn, if_false, run_look, setReg, run_upd]; rfl
theorem die_onCore (s : Dev) (k core d : Nat) (g : ThCore → ThCore) : ((onCore k core g).run s).die d = s.die d := rfl

/-- A vector instruction that nothing hinders, its engine's clock running, does what `Dev.wroteVec` says. -/
theorem thVec_stands {s : Dev} {a : ThOp} {op : Nat} {f : Flock → Thread → Thread} (h : s.stands a)
    (hw : s.codeWord a.k a.core (s.dpaOf (a.k / 168) (a.k % 168) (s.flockOf a).pc) = op * 2 ^ 24 + a.w) (hop : opDefined op = true)
    (hv : ((s.cl a.k).core a.core).vecGated = false) : s.wroteVec ((thVec a op true f).run s) a fun _ t => f (s.flockOf a) t := by
  simp only [thVec]
  have honce : (s.die (a.k / 168)).once = [] := h.2.2.2.1.2.2
  have hg : (((s.touchCode a.k a.core (s.flockOf a).pc).cl a.k).core a.core).vecGated = false := by
    simp only [Dev.touchCode]
    split
    · simp only [cl_apply, if_true]; exact hv
    · rw [core_onCore, if_pos ⟨rfl, rfl⟩]; simp only [cl_apply, if_true]; exact hv
  have hclk : (s.touchCode a.k a.core (s.flockOf a).pc).clock = s.clock := by
    simp only [Dev.touchCode]
    split <;> rfl
  rw [thStep_stands h hw hop]
  · simp only [vecReady, run_look, hg, Bool.not_false, Bool.true_or, if_true, run_progs_cons, run_progs_nil, flockOf_touchCode]
    rw [hclk]
    generalize hs' : s.touchCode a.k a.core (s.flockOf a).pc = s'
    have e1 : s.sameButFlock s' a := by rw [← hs']; exact sameButFlock_touchCode ..
    have e2 : s'.flockOf a = s.flockOf a := by rw [← hs']; exact flockOf_touchCode ..
    have e3 : ∀ A, s'.regAt A = s.regAt A := by intro A; rw [← hs']; exact regAt_touchCode ..
    generalize hs1 : (onFlock a.k a.core a.f fun y => ((s.flockOf a).exec a.w).foldl (fun y t => y.setThr t (f (s.flockOf a) ((s.flockOf a).thr t))) y).run s' = s1
    have f1 : s.sameButFlock s1 a := by rw [← hs1]; exact sameButFlock_trans e1 (sameButFlock_onFlock ..)
    have f2 : s1.flockOf a = ((s.flockOf a).exec a.w).foldl (fun y t => y.setThr t (f (s.flockOf a) ((s.flockOf a).thr t))) (s.flockOf a) := by
      rw [← hs1, flockOf_onFlock, e2]
    have f3 : ∀ A, s1.regAt A = s.regAt A := by intro A; rw [← hs1, regAt_onFlock, e3]
    generalize hv0 : (if ((s.flockOf a).exec a.w).isEmpty then ((s.cl a.k).core a.core).vecIdle else s.clock) = v0
    generalize hs2 : (onCore a.k a.core fun y => { y with vecIdle := if ((s.flockOf a).exec a.w).isEmpty then y.vecIdle else s.clock }).run s1 = s2
    have g1 : s.sameButVec s2 a v0 := by
      rw [← hs2, ← hv0]; exact sameButVec_idle (fun x => if ((s.flockOf a).exec a.w).isEmpty then x else s.clock) f1
    have g2 : s2.flockOf a = s1.flockOf a := by rw [← hs2]; exact flockOf_onCore _ _ _ (fun _ => rfl) (fun _ => rfl)
    have g3 : ∀ A, s2.regAt A = s.regAt A := by intro A; rw [← hs2, regAt_onCore, f3]
    simp only [thTally]
    generalize hs3 : (tally .th (a.k / 168) (a.k % 168 * 112 + a.core) R.TH_VSLOTS ((s.flockOf a).exec a.w).length).run s2 = s3
    have k1 : s.sameButVec s3 a v0 := by rw [← hs3]; exact sameButVec_then g1 (sameButFlock_tally ..)
    have k2 : s3.flockOf a = s1.flockOf a := by rw [← hs3, flockOf_tally, g2]
    refine ⟨?_, ⟨fun i => ?_, ?_⟩, ?_⟩
    · rw [hv0, thNext_run]
      exact sameButVec_then (sameButVec_then k1 (sameButFlock_onFlock ..)) (sameButFlock_reg ..)
    · rw [thNext_run, flockOf_reg, flockOf_onFlock, k2, f2, thr_goOn]
      exact thr_foldl (fun t => f (s.flockOf a) ((s.flockOf a).thr t)) _ _ i
    · rw [thNext_run, flockOf_reg, flockOf_onFlock, k2, f2]
      exact goOn_rest _ (rest_foldl (fun t => f (s.flockOf a) ((s.flockOf a).thr t)) _ _)
    · have hne : counterOf a R.TH_ISSUED ≠ counterOf a R.TH_VSLOTS := fun e => absurd (counterOf_inj e) (by decide)
      refine regsBecome_two hne fun A => ?_
      have hn := regAt_next (s := s3) (s' := s3) a ((s.flockOf a).pc + 4) (fun _ => rfl) A
      rw [hn, ← hs3, tally_run, tally_run, g3, g3]
      rw [show regAddr .th (a.k / 168) (a.k % 168 * 112 + a.core) R.TH_VSLOTS = counterOf a R.TH_VSLOTS from rfl]
      rw [if_neg (show ¬(counterOf a R.TH_ISSUED = counterOf a R.TH_VSLOTS ∧ _) from fun e => hne e.1)]
      by_cases hA : A = counterOf a R.TH_ISSUED
      · rw [if_pos hA, if_pos hA]
      · rw [if_neg hA, if_neg hA]
        by_cases hB : A = counterOf a R.TH_VSLOTS
        · rw [if_pos hB]
          by_cases hl : ((s.flockOf a).exec a.w).length = 0
          · rw [if_neg (fun e => e.2 hl), hl, hB]
            have := regAt_lt s (counterOf a R.TH_VSLOTS)
            simp only [satAdd]; omega
          · rw [if_pos ⟨hB, hl⟩, hB]
        · rw [if_neg hB, if_neg (fun e => hB e.1)]
  · simp only [vecReady, run_look, hg, Bool.not_false, Bool.true_or, if_true, run_progs_cons, run_progs_nil, thTally]
    rw [thNext_run, die_reg, die_onFlock, die_tally, die_onCore, die_onFlock, die_touchCode]; exact honce

end Sys2Proof.Machine
end

