-- ==== Sys2Proof/WellFormed.lean ====
section
/-! DEFINITION. What a well-formed command is, beyond the types of its operands: lengths of byte strings, lock numbers that exist, the steps of start-up. -/

namespace Sys2Proof

/-- A lock that exists: 1,024 on a compute die, 64 in a cluster (R309). -/
def lockWf (onDie : Bool) (at_ : Fin 2688) (n : Fin 1024) : Bool := if onDie then decide (at_.val < 16) else decide (n.val < 64)

/-- A write that lies within one entry of `size` bytes. -/
def entryWf (size : Nat) (off : Fin size) (b : List Byte) : Bool := decide (1 ≤ b.length) && decide (off.val + b.length ≤ size)

/-- A datagram (R447). -/
def fromWf : BFrom → Bool
  | .udp _ b => decide (b.length ≤ 65536)
  | .qp _ => true

/-- What a start-up may meet: failing units of the kinds of R540. -/
def envWf (env : BootEnv) : Bool := env.faults.all fun f => decide (1 ≤ f.kind.val) && decide (f.kind.val ≤ 8)

/-- A frame whose MACsec outcome is one of the three there are. -/
def frameWf (f : Machine.RxFrame) : Bool := decide (f.macsec < 3)

/-- Whether a command is well formed. -/
def Instr.wf : Instr → Bool
  | .towpathCommand _ => true
  | .weirSlot => true
  | .domainReady _ => true
  | .engineClockGate _ _ => true
  | .vectorClockGate _ _ => true
  | .engineClockReady _ _ => true
  | .tissue _ => true
  | .bissue _ => true
  | .pushUnblock _ => true
  | .instructionStage _ _ => true
  | .dependencyComplete _ _ => true
  | .tensorIssue _ _ => true
  | .sync _ _ => true
  | .matmul _ _ _ => true
  | .conv _ _ _ => true
  | .pool _ _ => true
  | .crop _ _ => true
  | .epilogue _ => true
  | .weightTileLoad _ => true
  | .weightSwap _ _ => true
  | .outputTileEpilogue _ _ => true
  | .narrowRunEnd _ _ => true
  | .instructionCommit _ _ => true
  | .feederTranslationFault _ _ => true
  | .targetPreemptStop _ _ => true
  | .tcSplitCtrlWrite _ _ => true
  | .splitModeChange _ _ => true
  | .tcQtallyClear _ => true
  | .tcTallyClear _ => true
  | .tcSwClear _ => true
  | .tcIssueClear _ => true
  | .sfEval _ _ _ => true
  | .normStats _ _ => true
  | .normApply _ _ _ => true
  | .softmax _ _ => true
  | .tbBuild _ _ _ => true
  | .tbIndex _ _ => true
  | .tload _ _ => true
  | .tloadFlip _ _ => true
  | .slotParityRewrite _ _ _ => true
  | .sfTallyClear _ => true
  | .sfWaitClear _ => true
  | .ctLoad _ _ => true
  | .ctLoadFlip _ _ => true
  | .ransEnc _ _ _ => true
  | .ransDec _ _ _ => true
  | .ccTallyClear _ => true
  | .ccWaitClear _ => true
  | .nop _ => true
  | .exit _ => true
  | .bra _ => true
  | .call _ => true
  | .jr _ => true
  | .jpush _ => true
  | .join _ => true
  | .bar _ => true
  | .barrierComplete _ _ _ _ => true
  | .mfs _ => true
  | .mts _ => true
  | .trap _ => true
  | .waitv _ => true
  | .waitvPoll _ => true
  | .add _ => true
  | .sub _ => true
  | .mul _ => true
  | .mulh _ => true
  | .and _ => true
  | .or _ => true
  | .xor _ => true
  | .shl _ => true
  | .shr _ => true
  | .min _ => true
  | .max _ => true
  | .div _ => true
  | .rem _ => true
  | .clz _ => true
  | .popc _ => true
  | .shfl _ => true
  | .addi _ => true
  | .andi _ => true
  | .ori _ => true
  | .xori _ => true
  | .shli _ => true
  | .shri _ => true
  | .sari _ => true
  | .movi _ => true
  | .movh _ => true
  | .cmpeq _ => true
  | .cmpne _ => true
  | .cmplt _ => true
  | .cmple _ => true
  | .cmpeqi _ => true
  | .cmplti _ => true
  | .plog _ => true
  | .vote _ => true
  | .ballot _ => true
  | .fadd _ => true
  | .fsub _ => true
  | .fmul _ => true
  | .ffma _ => true
  | .fmin _ => true
  | .fmax _ => true
  | .fdiv _ => true
  | .fsqrt _ => true
  | .fcvt _ => true
  | .fcmplt _ => true
  | .fcmpeq _ => true
  | .vadd _ => true
  | .vsub _ => true
  | .vmul _ => true
  | .vmin _ => true
  | .vmax _ => true
  | .vand _ => true
  | .vor _ => true
  | .vxor _ => true
  | .vshl _ => true
  | .vsar _ => true
  | .vsplat _ => true
  | .vext _ => true
  | .vins _ => true
  | .vred _ => true
  | .vperm _ => true
  | .vfadd _ => true
  | .vfsub _ => true
  | .vfmul _ => true
  | .vffma _ => true
  | .vfmin _ => true
  | .vfmax _ => true
  | .vfcvt _ => true
  | .vfred _ => true
  | .ld _ => true
  | .lds _ => true
  | .st _ => true
  | .vld _ => true
  | .vst _ => true
  | .vldg _ => true
  | .vsts _ => true
  | .pref _ => true
  | .lkget _ => true
  | .lkput _ => true
  | .aadd _ => true
  | .amin _ => true
  | .amax _ => true
  | .aand _ => true
  | .aor _ => true
  | .axchg _ => true
  | .acas _ => true
  | .afadd _ => true
  | .fence _ => true
  | .twait _ => true
  | .tpoll _ => true
  | .tcrec _ => true
  | .tfree _ => true
  | .tcancel _ => true
  | .flockPreemptStop _ => true
  | .thTallyClear _ _ => true
  | .strided _ _ => true
  | .gather _ _ => true
  | .bargeBind _ _ => true
  | .bargeRequestGrant _ => true
  | .readResponse _ _ _ _ => true
  | .bargeComplete _ _ => true
  | .lockProducerGrant onDie at_ n => lockWf onDie at_ n
  | .lockConsumerGrant onDie at_ n _ => lockWf onDie at_ n
  | .waitdetEvaluate => true
  | .lkCfgWrite _ _ _ => true
  | .csPoolCfgWrite _ _ _ => true
  | .lkCtrlRearm _ _ _ => true
  | .beTallyClear _ _ => true
  | .scrubRead _ _ => true
  | .patrolRowSpare _ _ => true
  | .stackTempSample _ _ => true
  | .refreshIntervalChange _ => true
  | .stkTallyClear _ => true
  | .csTallyClear _ _ => true
  | .memSpanModeWrite _ _ => true
  | .spanDrained _ => true
  | .pageWalk _ _ => true
  | .faultBacklogPost _ => true
  | .faultResume _ => true
  | .faultKill _ => true
  | .dmmuRootWrite _ _ => true
  | .dmmuInvalidate => true
  | .dmmuInvalidateDone => true
  | .dmmuTallyClear _ => true
  | .bvJobFetch _ _ => true
  | .openEnc _ _ => true
  | .openDec _ _ => true
  | .encPic _ _ => true
  | .decAu _ _ => true
  | .close _ _ => true
  | .bvBand _ _ => true
  | .bvWatchdogExpiry _ _ _ => true
  | .bvCompletionWrite _ _ => true
  | .bvCplConsWrite _ _ _ => true
  | .bvKeyReq _ _ _ => true
  | .bvPreempt _ _ => true
  | .bvResume _ _ => true
  | .bvRingCfgWrite _ _ _ => true
  | .bvGroupCtrlWrite _ _ => true
  | .bvTallyClear _ _ => true
  | .slJobFetch _ _ => true
  | .compress _ _ => true
  | .decompress _ _ => true
  | .slCompletionWrite _ _ => true
  | .slPreempt _ _ => true
  | .slCheckpointStop _ _ => true
  | .slResume _ _ => true
  | .slCancel _ _ => true
  | .slTallyClear _ _ => true
  | .frameReceive _ _ _ _ _ _ f => frameWf f
  | .fiReorderRelease _ _ => true
  | .packetPlace _ => true
  | .flowTimeout _ => true
  | .clsCopy => true
  | .clsLoad => true
  | .clsOpDone => true
  | .clsFlip => true
  | .clsFlipAdopt _ => true
  | .egressSend _ _ => true
  | .egressEntryWrite _ _ off b => entryWf 64 off b
  | .qpEntryWrite _ off b => entryWf 64 off b
  | .qpToRts _ => true
  | .qpToError _ => true
  | .qpToReset _ => true
  | .memoryWindowWrite _ off b => entryWf 16 off b
  | .roceInboundSend _ => true
  | .roceInboundWrite _ => true
  | .roceInboundRead _ => true
  | .roceInboundAtomic _ => true
  | .roceSendMessage _ => true
  | .roceAck _ => true
  | .roceNak _ => true
  | .roceCnp _ => true
  | .roceAckTimeout _ => true
  | .saKeyWrite _ _ _ _ key _ _ _ _ => key.length = 32
  | .lnkPortCtrlWrite _ _ => true
  | .linkUp _ _ => true
  | .linkDown _ _ => true
  | .lnkTallyClear _ => true
  | .ptpSync => true
  | .ptpAnnounce => true
  | .ptpAnnounceTimeout => true
  | .ptpHoldoverExpiry => true
  | .ptpDelayReq => true
  | .ptpDelayResp => true
  | .ppsOutEdge => true
  | .identify f => fromWf f
  | .sessionOpen f => fromWf f
  | .regRead f => fromWf f
  | .regWrite f => fromWf f
  | .queueSubmit f => fromWf f
  | .queueCancel f => fromWf f
  | .queuePreempt f => fromWf f
  | .queueResume f => fromWf f
  | .mailboxSend f => fromWf f
  | .envelopeSet f => fromWf f
  | .logRead f => fromWf f
  | .dumpRead f => fromWf f
  | .fwUpdateBegin f _ => fromWf f
  | .fwUpdateData f _ => fromWf f
  | .fwUpdateCommit f _ => fromWf f
  | .fwUpdateAbort f _ => fromWf f
  | .attest f => fromWf f
  | .bentinRelay f => fromWf f
  | .queueFetch _ => true
  | .run _ => true
  | .marker _ => true
  | .commandArm _ => true
  | .drvDispatch _ => true
  | .commandStart _ => true
  | .commandComplete _ => true
  | .commandPark _ => true
  | .commandResume _ => true
  | .clusterIdleSleep _ _ => true
  | .qCtrlCancel _ => true
  | .qCtrlResume _ => true
  | .qCtrlPreempt _ => true
  | .drvCancel _ _ => true
  | .qCfgWrite _ _ => true
  | .qTrigWrite _ _ => true
  | .drvTallyClear _ => true
  | .mbSendWin _ _ data => data.length = 16
  | .mbAck _ => true
  | .mbTimeout _ => true
  | .resClaim _ _ => true
  | .resRelease _ _ => true
  | .hotPlug _ => true
  | .inputOkSet => true
  | .uvWarnChange _ => true
  | .inputUndervoltage _ => true
  | .inputOvervoltage _ => true
  | .inputOvercurrent _ => true
  | .ref25Loss => true
  | .ref156Loss => true
  | .pllLockLoss _ => true
  | .inputPowerSample _ _ => true
  | .dieTempSample _ _ => true
  | .pwrDomOn _ => true
  | .pwrDomOff _ => true
  | .pwrDomRetain _ => true
  | .pwrEnvWrite _ => true
  | .pwrCtrlPen => true
  | .pwrPpeakRead => true
  | .weirTallyClear => true
  | .startUp env => envWf env
  | .startupStepTimeout n => 2 ≤ n.val
  | .bootCtrlWrite _ => true
  | .tamperAlarm _ _ => true
  | .aocTakeover => true
  | .hangWatchdogExpiry _ _ => true
  | .commandRecovery => true
  | .clusterSpare _ _ => true
  | .fatalError _ _ => true
  | .tallyExport => true
  | .resetAssert => true
  | .resetRelease => true
  | .wakePin => true
  | .ppsInEdge => true
  | .syncInEdge => true
  | .gpioEdge _ _ => true
  | .timerFire _ => true
  | .smbusWriteWord _ _ => true
  | .smbusBlockRead => true
  | .bypass => true
  | .idcode => true
  | .samplePreload _ => true
  | .extest _ => true
  | .dpaRead _ => true
  | .dpaWrite _ _ => true
  | .registerWrite _ _ => true
  | .ptpFollowUp => true
  | .roceRateRecovery _ => true
  | .bentinOtherOpcode f => fromWf f
  | .linkDieTempSample _ _ => true
  | .standbyAocFailure => true
  | .ref156Restore => true
  | .ref25Restore => true

end Sys2Proof
end

