-- ==== Sys2Proof/Tests/Slice0.lean ====
section
/-! SUPPORT. Tests: ill-formed commands that the check refuses, single steps on small states, and for every statement with hypotheses a theorem that meets them: it takes the statement and applies
it to concrete states and operands, proving each hypothesis by evaluation. -/

namespace Sys2Proof.Tests

open Sys2Proof Sys2Proof.Machine

-- one theorem at a time: each is checked by long kernel evaluations
set_option Elab.async false

/-! ### Ill-formed commands -/

theorem test_wf_lock_of_cluster : (Instr.lockProducerGrant false 0 64).wf = false := by decide
theorem test_wf_lock_of_die : (Instr.lockConsumerGrant true 16 0 0).wf = false := by decide
theorem test_wf_frame_protection : (Instr.frameReceive 0 0 0 0 true false ⟨[], 3, true, false, 0⟩).wf = false := by decide
theorem test_wf_egress_entry : (Instr.egressEntryWrite 0 0 63 [0, 0]).wf = false := by decide
theorem test_wf_queue_pair_entry : (Instr.qpEntryWrite 0 60 (List.replicate 5 0)).wf = false := by decide
theorem test_wf_window_entry : (Instr.memoryWindowWrite 0 0 []).wf = false := by decide
theorem test_wf_key_length : (Instr.saKeyWrite 0 0 0 0 (List.replicate 31 0) false 0 0 false).wf = false := by decide
theorem test_wf_datagram : (Instr.identify (.udp 0 (List.replicate 65537 0))).wf = false := by decide +kernel
theorem test_wf_payload : (Instr.mbSendWin 0 0 (List.replicate 15 0)).wf = false := by decide
theorem test_wf_boot_kind : (Instr.startUp ⟨true, true, 0, true, [⟨9, 0, 0, 0⟩], [], [], 0⟩).wf = false := by decide
theorem test_wf_boot_step : (Instr.startupStepTimeout 1).wf = false := by decide
theorem test_wf_holds : (Instr.mbSendWin 63 7 (List.replicate 16 0)).wf = true ∧ (Instr.startupStepTimeout 7).wf = true := by decide

/-! ### Small states -/

/-- A state whose device is the reset device after some updates. -/
@[irreducible] def after (l : List Upd) : State := ⟨[], l.foldl Dev.apply Dev.reset⟩
/-- A register word is set. -/
def reg (rb : RB) (d i off v : Nat) : Upd := .reg (regAddr rb d i off) v
/-- A domain is on. -/
def on (k : Nat) : Upd := .dom k ⟨.on, 1, none⟩
/-- A command answers a next state. -/
def ran (c : Instr) (s : State) : Prop := ∃ t, exec c s = .next t

theorem ran_of_completes {c : Instr} {s : State} {P : Dev → Prop} (h : completes c s P) : ran c s := h.elim fun t h => ⟨t, h.1⟩
theorem ran_of_becomes {c : Instr} {s : State} {t : Dev} (h : becomes c s t) : ran c s := ⟨_, h⟩

/-! ### Threads -/

/-- A page of 64 KiB in stack 0, readable, writable and executable. -/
def page : Tlb := ⟨0x10000, 16, 0x20000, true, true, true, 0, false⟩
/-- The first page of the store of cluster 0, readable. -/
def pageS : Tlb := ⟨0x40000, 16, storeBase, true, false, false, 0, false⟩
/-- The second page of that store, writable. -/
def pageW : Tlb := ⟨0x50000, 16, storeBase + 0x10000, true, true, false, 0, false⟩
/-- A thread whose registers hold addresses: in the page (g3 misaligned), outside the address space, where nothing is mapped, in the store. -/
def thread0 : Thread := { Thread.zero with g := [(1, 0x10100), (2, 0x10140), (3, 0x10101), (4, 0x1000000000000), (5, 0x30000), (6, 0x40000)] }
/-- A flock of eight threads that runs at the start of the page. -/
def flock0 : Flock := { Flock.idle with
  st := .run
  pc := 0x10000
  active := 255
  live := 255
  threads := (List.range 8).map fun i => (i, thread0)
  cmd := 2 ^ 32 }
/-- Cluster 0 with a flock on thread core 0, whose vector engine runs. -/
def cluster0 (f : Flock) : Cluster := { Cluster.reset with
  cores := [(0, { ThCore.atWake with f0 := f, vecGated := false })]
  tlb := [page, pageS, pageW] }
/-- Translation on, UNC0 of die 0, cluster 0 and the stacks of die 0 on. -/
@[irreducible] def machine (c : Cluster) (l : List Upd) : State :=
  after ([reg .dmmu 20 0 R.DMMU_ROOT_LO 1, on 0, on 64, on 65, on 1000, .cl 0 c] ++ l)
@[irreducible] def thr : State := machine (cluster0 flock0) []
/-- An instruction of flock 0 of thread core 0 of cluster 0. -/
def op (w : BitVec 24) : ThOp := ⟨⟨0, 0, 0, 0⟩, w, false, false⟩
/-- The word with fields D, A and B, and M. -/
def word (d a b m : Nat) : BitVec 24 := BitVec.ofNat 24 (d * 2 ^ 14 + a * 2 ^ 8 + b * 2 ^ 2 + m)

/-- Whether flock 0 of thread core 0 of cluster 0 stands before an instruction in the page. -/
def standsB (s : State) : Bool :=
  s.m.clusterOn ((op 0).k / 168) ((op 0).k % 168) && (s.m.flockOf (op 0)).st == .run && !(s.m.flockOf (op 0)).preempt && s.m.xlate ((op 0).k / 168) ((op 0).k % 168) (s.m.flockOf (op 0)).pc 2 == .hit 0x20000
    && (s.m.flockOf (op 0)).pc % 4 == 0 && s.m.reachRange 0x20000 4 == .ok && decide (((s.m.cl (op 0).k).core (op 0).core).icache.length < icacheLines)
    && (touched s.m.oneBit (0x20000 / 64 * 64) 64).isEmpty && (touched s.m.bad (0x20000 / 64 * 64) 64).isEmpty
    && (s.m.stk (s.m.stackNo (0x20000 / 256 * 256))).zc.isEmpty && (s.m.die ((op 0).k / 168)).once.isEmpty
theorem stands_of {s : State} (w : BitVec 24) (h : standsB s = true) : s.m.stands (op w) := by
  simp only [standsB, Bool.and_eq_true, beq_iff_eq, Bool.not_eq_true', List.isEmpty_iff, decide_eq_true_eq] at h
  obtain ⟨⟨⟨⟨⟨⟨⟨⟨⟨⟨on, run⟩, pre⟩, hit⟩, pc⟩, reach⟩, room⟩, one⟩, bad⟩, zc⟩, once⟩ := h
  exact ⟨on, run, pre, ⟨pc, ⟨0x20000, hit, rfl, reach, .inr ⟨room, one, bad, zc⟩⟩, once⟩, rfl, rfl⟩
/-- The state with the word of an instruction at the start of the page. -/
def codeAt (s : State) (c : ThOp → Instr) (w : BitVec 24) : State :=
  { s with m := s.m.apply (.mem 0x20000 (leBytes 4 ((c (op w)).opcode * 2 ^ 24 + w.toNat))) }
/-- An instruction answers a next state where its word stands. -/
def goes (s : State) (c : ThOp → Instr) (w : BitVec 24) : Prop := ran (c (op w)) (codeAt s c w)
/-- Whether the flock stands before this word. -/
def codesB (s : State) (c : ThOp → Instr) (w : BitVec 24) : Bool :=
  standsB (codeAt s c w) && (codeAt s c w).m.codeWord (op w).k (op w).core ((codeAt s c w).m.dpaOf ((op w).k / 168) ((op w).k % 168) ((codeAt s c w).m.flockOf (op w)).pc)
    == (c (op w)).opcode * 2 ^ 24 + (op w).w
theorem at_code {s : State} {c : ThOp → Instr} {w : BitVec 24} (h : codesB s c w = true) : (codeAt s c w).m.stands (op w) :=
  stands_of w (Bool.and_eq_true _ _ ▸ h).1
theorem goes_of {s : State} {c : ThOp → Instr} {w : BitVec 24} {P : Dev → Prop} (h : codesB s c w = true) (i : issues (c (op w)) (codeAt s c w) (op w) P) : goes s c w :=
  ran_of_completes (i (beq_iff_eq.1 (Bool.and_eq_true _ _ ▸ h).2))
/-- A MEM word. -/
def mem (d a sz off : Nat) : BitVec 24 := BitVec.ofNat 24 (d * 2 ^ 14 + a * 2 ^ 8 + sz * 2 ^ 6 + off)

/-- Block n of a lock, as taken under sequence number n. -/
def blk (n : Nat) (filled : Bool) (taken : Nat) : LockBlk := ⟨n, n, filled, 0, taken, 0, [], 0, [], 0⟩
def here : FlockAt := ⟨0, 0, 0, 0⟩

/-! ### Instructions of a cluster -/

/-- What `Dev.granted` asks, to be evaluated. -/
def grantedB (s : Dev) (k : Nat) (l : List VAcc) (own : Bool) : Bool :=
  (vaPieces l).all (fun a => match s.xlate (k / 168) (k % 168) a.va a.access with
    | .hit dpa => memPlace dpa
    | _ => false)
    && s.meets (k / 168) (k % 168) l == .ok && (!own || !s.outside k l) && (s.die (k / 168)).once.isEmpty && tlbApart (s.cl k).tlb && tlbPages (s.cl k).tlb
theorem granted_of {s : Dev} {k : Nat} {l : List VAcc} {own : Bool} (h : grantedB s k l own = true) : s.granted k l own := by
  simp only [grantedB, Bool.and_eq_true, Bool.or_eq_true, beq_iff_eq, Bool.not_eq_true', List.all_eq_true] at h
  refine ⟨fun a ha => ?_, h.1.1.1.1.2, fun ho => ?_, by simpa using h.1.1.2, h.1.2, h.2⟩
  · have := h.1.1.1.1.1 a ha
    split at this
    · exact ⟨_, ‹_›, this⟩
    · cases this
  · rcases h.1.1.1.2 with h | h
    · rw [ho] at h; cases h
    · exact h

/-- An argument block of `n` words, those listed set. -/
def argBlock (n : Nat) (l : List (Nat × Nat)) : List Byte := (List.range n).flatMap fun i => leBytes 8 (((l.find? fun e => e.1 == i).map (·.2)).getD 0)
/-- Entry 9 of a cluster, under tag 5. -/
def ent (w0 w2 w3 : Nat) (args : List Byte) (st : Stage) (r : Run) : Entry :=
  ⟨9, 5, BitVec.ofNat 64 w0, BitVec.ofNat 64 (0x51000 + args.length / 64 * 2 ^ 48), BitVec.ofNat 64 w2, BitVec.ofNat 64 w3, 2 ^ 32, 0, false, [], true, st, args, [], false, r, [], false, false, [], [], 0⟩
def tag5 : List (Nat × Tag) := [(5, ⟨9, 2 ^ 32, false, []⟩)]
/-- The same with contents of memory. -/
def tensorM (e : Entry) (f : Cluster → Cluster) (l : List Upd) : State :=
  machine (f { cluster0 flock0 with entries := [e], tags := tag5, gated := 0 }) (.mem (storeBase + 0x11000) e.args :: l)
/-- Cluster 0 with ungated clocks and this instruction; its argument block lies at 0x51000. -/
def tensor (e : Entry) (f : Cluster → Cluster) : State :=
  machine (f { cluster0 flock0 with entries := [e], tags := tag5, gated := 0 }) [.mem (storeBase + 0x11000) e.args]

/-- What `Dev.dieGranted` asks, to be evaluated. -/
def dieGrantedB (s : Dev) (d : Nat) (l : List VAcc) : Bool :=
  (vaPieces l).all (fun a => match s.xlate d 168 a.va a.access with
    | .hit dpa => memPlace dpa
    | _ => false)
    && s.meets d 168 l == .ok && (s.die d).once.isEmpty && tlbApart (s.die d).tlb && tlbPages (s.die d).tlb
theorem dieGranted_of {s : Dev} {d : Nat} {l : List VAcc} (h : dieGrantedB s d l = true) : s.dieGranted d l := by
  simp only [dieGrantedB, Bool.and_eq_true, beq_iff_eq, List.all_eq_true] at h
  refine ⟨fun a ha => ?_, h.1.1.1.2, by simpa using h.1.1.2, h.1.2, h.2⟩
  have := h.1.1.1.1 a ha
  split at this
  · exact ⟨_, ‹_›, this⟩
  · cases this

/-- A table at DPA 0 whose entry 0 names a table at 0x1000, whose entry 0 maps a page of 1 GiB. -/
def tables : List Upd := [.mem 0 (leBytes 8 0x1001), .mem 0x1000 (leBytes 8 0xF)]

theorem witness_IntegerResults (h : Obligations.IntegerResults) : goes thr .add (word 3 1 2 0) ∧ goes thr .div (word 63 1 2 1) := by
  obtain ⟨c, -⟩ := h (codeAt thr .add (word 3 1 2 0)) (op (word 3 1 2 0)) (at_code (by decide +kernel))
  obtain ⟨-, -, -, -, -, -, -, -, -, -, -, d, -⟩ := h (codeAt thr .div (word 63 1 2 1)) (op (word 63 1 2 1)) (at_code (by decide +kernel))
  exact ⟨goes_of (by decide +kernel) (c (by decide)), goes_of (by decide +kernel) (d (by decide))⟩

theorem witness_IntegerImmediateResults (h : Obligations.IntegerImmediateResults) :
    goes thr .clz (word 3 1 0 0) ∧ goes thr .shfl (word 3 1 2 0) ∧ goes thr .addi (word 63 1 63 3) ∧ goes thr .movi 0x0FFFFF := by
  obtain ⟨c1, -⟩ := h (codeAt thr .clz (word 3 1 0 0)) (op (word 3 1 0 0)) (at_code (by decide +kernel))
  obtain ⟨-, -, c2, -⟩ := h (codeAt thr .shfl (word 3 1 2 0)) (op (word 3 1 2 0)) (at_code (by decide +kernel))
  obtain ⟨-, -, -, c3, -⟩ := h (codeAt thr .addi (word 63 1 63 3)) (op (word 63 1 63 3)) (at_code (by decide +kernel))
  obtain ⟨-, -, -, -, -, -, -, -, -, -, c4, -⟩ := h (codeAt thr .movi 0x0FFFFF) (op 0x0FFFFF) (at_code (by decide +kernel))
  exact ⟨goes_of (by decide +kernel) (c1 (by decide)), goes_of (by decide +kernel) (c2 (by decide)), goes_of (by decide +kernel) (c3 (by decide)), goes_of (by decide +kernel) (c4 (by decide))⟩

theorem witness_PredicateResults (h : Obligations.PredicateResults) :
    goes thr .cmplt (word 7 1 2 1) ∧ goes thr .cmpeqi (word 7 1 63 3) ∧ goes thr .plog (word 1 0 7 3) ∧ goes thr .vote (word 2 0 0 1)
      ∧ goes thr .ballot (word 63 7 0 0) := by
  obtain ⟨-, -, c1, -⟩ := h (codeAt thr .cmplt (word 7 1 2 1)) (op (word 7 1 2 1)) (at_code (by decide +kernel))
  obtain ⟨-, -, -, -, c2, -⟩ := h (codeAt thr .cmpeqi (word 7 1 63 3)) (op (word 7 1 63 3)) (at_code (by decide +kernel))
  obtain ⟨-, -, -, -, -, -, c3, -⟩ := h (codeAt thr .plog (word 1 0 7 3)) (op (word 1 0 7 3)) (at_code (by decide +kernel))
  obtain ⟨-, -, -, -, -, -, -, c4, -⟩ := h (codeAt thr .vote (word 2 0 0 1)) (op (word 2 0 0 1)) (at_code (by decide +kernel))
  obtain ⟨-, -, -, -, -, -, -, -, c5⟩ := h (codeAt thr .ballot (word 63 7 0 0)) (op (word 63 7 0 0)) (at_code (by decide +kernel))
  exact ⟨goes_of (by decide +kernel) (c1 (by decide)), goes_of (by decide +kernel) (c2 (by decide)), goes_of (by decide +kernel) (c3 (by decide)), goes_of (by decide +kernel) (c4 (by decide)),
    goes_of (by decide +kernel) (c5 (by decide))⟩

theorem witness_ScalarFloatResults (h : Obligations.ScalarFloatResults) :
    goes thr .fadd (word 3 1 2 0) ∧ goes thr .ffma (word 3 1 2 0) ∧ goes thr .fsqrt (word 63 1 0 0) ∧ goes thr .fcvt (word 3 1 0 3)
      ∧ goes thr .fcmpeq (word 7 1 2 0) := by
  obtain ⟨c1, -⟩ := h (codeAt thr .fadd (word 3 1 2 0)) (op (word 3 1 2 0)) (at_code (by decide +kernel))
  obtain ⟨-, -, -, -, -, -, c2, -⟩ := h (codeAt thr .ffma (word 3 1 2 0)) (op (word 3 1 2 0)) (at_code (by decide +kernel))
  obtain ⟨-, -, -, -, -, -, -, c3, -⟩ := h (codeAt thr .fsqrt (word 63 1 0 0)) (op (word 63 1 0 0)) (at_code (by decide +kernel))
  obtain ⟨-, -, -, -, -, -, -, -, c4, -⟩ := h (codeAt thr .fcvt (word 3 1 0 3)) (op (word 3 1 0 3)) (at_code (by decide +kernel))
  obtain ⟨-, -, -, -, -, -, -, -, -, -, c5⟩ := h (codeAt thr .fcmpeq (word 7 1 2 0)) (op (word 7 1 2 0)) (at_code (by decide +kernel))
  exact ⟨goes_of (by decide +kernel) (c1 (by decide)), goes_of (by decide +kernel) (c2 (by decide)), goes_of (by decide +kernel) (c3 (by decide)), goes_of (by decide +kernel) (c4 (by decide)),
    goes_of (by decide +kernel) (c5 (by decide))⟩

theorem witness_FloatCorners (h : Obligations.FloatCorners) :
    (Fp.add 0x7FC00001 0).1 = 0x7FC00000 ∧ (Fp.fma 0 0 0xFF800001).1 = 0x7FC00000 ∧ (Fp.fmin 0x7FFFFFFF 5).1 = 5 ∧ (Fp.toI32 0x7FC00001).1 = 0
      ∧ Fp.toI32 (Fp.ofI32 (BitVec.ofInt 32 (-16777216)).toNat).1 = (-16777216, 0) := by
  obtain ⟨q, -, -, -, -, r⟩ := h
  exact ⟨((q 0x7FC00001 0 0 (by decide) (by decide) (by decide)).1 (.inl (by decide))).1,
    (q 0 0 0xFF800001 (by decide) (by decide) (by decide)).2.1 (.inr (.inr (by decide))),
    ((q 0x7FFFFFFF 5 0 (by decide) (by decide) (by decide)).2.2.1 (by decide) (by decide)).1,
    (q 0x7FC00001 0 0 (by decide) (by decide) (by decide)).2.2.2.2.2.1 (by decide), r (-16777216) (by decide) (by decide)⟩

theorem witness_FloatRoundsToNearest (h : Obligations.FloatRoundsToNearest) : True := by
  have := h Fp.f32 (.inl rfl) true 1 0 (by decide +kernel) 0 (by decide)
  have := h Fp.bf16 (.inr rfl) false 257 0 (by decide +kernel) 1 (by decide)
  trivial

theorem witness_VectorIntegerResults (h : Obligations.VectorIntegerResults) :
    goes thr .vadd (word 31 1 2 3) ∧ goes thr .vshl (word 31 1 2 1) ∧ goes thr .vsplat (word 0 1 0 2) ∧ goes thr .vext (word 63 31 1 0)
      ∧ goes thr .vins (word 3 1 2 0) ∧ goes thr .vred (word 3 1 0 3) ∧ goes thr .vperm (word 3 1 2 2) := by
  have q (c : ThOp → Instr) (w : BitVec 24) (hs : codesB thr c w = true) := h (codeAt thr c w) (op w) (at_code hs)
  obtain ⟨c1, -⟩ := q .vadd (word 31 1 2 3) (by decide +kernel) (by decide +kernel)
  obtain ⟨-, -, -, -, -, -, -, -, c2, -⟩ := q .vshl (word 31 1 2 1) (by decide +kernel) (by decide +kernel)
  obtain ⟨-, -, -, -, -, -, -, -, -, -, c3, -⟩ := q .vsplat (word 0 1 0 2) (by decide +kernel) (by decide +kernel)
  obtain ⟨-, -, -, -, -, -, -, -, -, -, -, c4, -⟩ := q .vext (word 63 31 1 0) (by decide +kernel) (by decide +kernel)
  obtain ⟨-, -, -, -, -, -, -, -, -, -, -, -, c5, -⟩ := q .vins (word 3 1 2 0) (by decide +kernel) (by decide +kernel)
  obtain ⟨-, -, -, -, -, -, -, -, -, -, -, -, -, c6, -⟩ := q .vred (word 3 1 0 3) (by decide +kernel) (by decide +kernel)
  obtain ⟨-, -, -, -, -, -, -, -, -, -, -, -, -, -, c7⟩ := q .vperm (word 3 1 2 2) (by decide +kernel) (by decide +kernel)
  exact ⟨goes_of (by decide +kernel) (c1 (by decide)), goes_of (by decide +kernel) (c2 (by decide)), goes_of (by decide +kernel) (c3 (by decide)), goes_of (by decide +kernel) (c4 (by decide)),
    goes_of (by decide +kernel) (c5 (by decide)), goes_of (by decide +kernel) (c6 (by decide)), goes_of (by decide +kernel) (c7 (by decide))⟩

theorem witness_VectorElements (h : Obligations.VectorElements) :
    elGet 64 ((Thread.zero.setV 31 (elMap 64 id)).vr 31) 7 = 7 ∧ (Thread.zero.setV 31 1).vr 0 = Thread.zero.vr 0 ∧ (Thread.zero.setG 63 (2 ^ 64 - 1)).gr 63 = 2 ^ 64 - 1
      ∧ (Thread.zero.setP 7 true).pr 7 = true := by
  obtain ⟨a, b, -⟩ := h Thread.zero 31 0
  obtain ⟨-, -, -, -, -, -, c, -⟩ := h Thread.zero 63 0
  obtain ⟨-, -, -, -, -, -, -, d⟩ := h Thread.zero 7 0
  exact ⟨(a 64 (by decide) id 7 (by decide)).1, b (by decide) 1, (c (by decide) _ (by decide)).1, (d (by decide) (by decide) true).1⟩

theorem witness_VectorFloatResults (h : Obligations.VectorFloatResults) :
    goes thr .vfadd (word 31 1 2 1) ∧ goes thr .vffma (word 3 1 2 0) ∧ goes thr .vfcvt (word 3 31 0 3) ∧ goes thr .vfred (word 63 1 0 0) := by
  have q (c : ThOp → Instr) (w : BitVec 24) (hs : codesB thr c w = true) := h (codeAt thr c w) (op w) (at_code hs)
  obtain ⟨c1, -⟩ := q .vfadd (word 31 1 2 1) (by decide +kernel) (by decide +kernel)
  obtain ⟨-, -, -, -, -, c2, -⟩ := q .vffma (word 3 1 2 0) (by decide +kernel) (by decide +kernel)
  obtain ⟨-, -, -, -, -, -, c3, -⟩ := q .vfcvt (word 3 31 0 3) (by decide +kernel) (by decide +kernel)
  obtain ⟨-, -, -, -, -, -, -, c4⟩ := q .vfred (word 63 1 0 0) (by decide +kernel) (by decide +kernel)
  exact ⟨goes_of (by decide +kernel) (c1 (by decide)), goes_of (by decide +kernel) (c2 (by decide)), goes_of (by decide +kernel) (c3 (by decide)), goes_of (by decide +kernel) (c4 (by decide))⟩

theorem witness_SpecialRegisters (h : Obligations.SpecialRegisters) :
    goes thr .nop 0 ∧ goes thr .mfs (word 63 0 2 2) ∧ goes thr .mfs (word 63 0 2 3) ∧ goes thr .mts (word 0 1 2 2) ∧ goes thr .mts (word 0 1 2 1) := by
  have q (c : ThOp → Instr) (w : BitVec 24) (hs : codesB thr c w = true) := h (codeAt thr c w) (op w) (at_code hs)
  obtain ⟨c1, -⟩ := q .nop 0 (by decide +kernel)
  obtain ⟨-, c2, -⟩ := q .mfs (word 63 0 2 2) (by decide +kernel)
  obtain ⟨-, -, c3, -⟩ := q .mfs (word 63 0 2 3) (by decide +kernel)
  obtain ⟨-, -, -, c4, -⟩ := q .mts (word 0 1 2 2) (by decide +kernel)
  obtain ⟨-, -, -, -, c5⟩ := q .mts (word 0 1 2 1) (by decide +kernel)
  exact ⟨goes_of (by decide +kernel) (c1 (by decide)), goes_of (by decide +kernel) (c2 (by decide) (by decide)), goes_of (by decide +kernel) (c3 (by decide)), goes_of (by decide +kernel) (c4 (by decide) (by decide)),
    goes_of (by decide +kernel) (c5 (by decide))⟩

/-- Thread 0 alone has predicate p1, and a g1 of its own. -/
def apart : Flock := { flock0 with threads := (0, { thread0 with g := [(1, 4)], p := 3 }) :: (List.range 7).map fun i => (i + 1, thread0) }
/-- A full join stack. -/
def full (f : Flock) : Flock := { f with stack := List.replicate 16 ⟨0x10000, 255, false⟩ }
@[irreducible] def sApart : State := machine (cluster0 apart) []
@[irreducible] def sFull : State := machine (cluster0 (full apart)) []
@[irreducible] def sDead : State := machine (cluster0 { flock0 with stack := [⟨0x10000, 0, false⟩, ⟨0x10020, 255, true⟩] }) []

theorem witness_BranchesDivide (h : Obligations.BranchesDivide) :
    goes thr .bra 0x100001 ∧ goes thr .call 1 ∧ goes sApart .bra 0x100001 ∧ goes sFull .bra 0x100001 ∧ goes thr .jr (word 0 1 0 0)
      ∧ goes sApart .jr (word 0 1 0 0) := by
  obtain ⟨c1, -⟩ := h (codeAt thr .bra 0x100001) (op 0x100001) (at_code (by decide +kernel))
  obtain ⟨-, c2, -⟩ := h (codeAt thr .call 1) (op 1) (at_code (by decide +kernel))
  obtain ⟨c3, -⟩ := h (codeAt sApart .bra 0x100001) (op 0x100001) (at_code (by decide +kernel))
  obtain ⟨c4, -⟩ := h (codeAt sFull .bra 0x100001) (op 0x100001) (at_code (by decide +kernel))
  obtain ⟨-, -, c5, -⟩ := h (codeAt thr .jr (word 0 1 0 0)) (op (word 0 1 0 0)) (at_code (by decide +kernel))
  obtain ⟨-, -, -, c6⟩ := h (codeAt sApart .jr (word 0 1 0 0)) (op (word 0 1 0 0)) (at_code (by decide +kernel))
  exact ⟨goes_of (by decide +kernel) ((c1 (by decide)).1 (by decide +kernel)), goes_of (by decide +kernel) ((c2 (by decide)).2.1 (by decide +kernel) (by decide +kernel)),
    goes_of (by decide +kernel) ((c3 (by decide)).2.2.1 (by decide +kernel) (by decide +kernel) (by decide +kernel)),
    goes_of (by decide +kernel) ((c4 (by decide)).2.2.2 (by decide +kernel) (by decide +kernel) (by decide +kernel)),
    goes_of (by decide +kernel) ((c5 (by decide) 0x10100 (by decide +kernel)).2.1 (by decide +kernel) (by decide +kernel)),
    goes_of (by decide +kernel) (c6 (by decide) ⟨0, 1, by decide +kernel⟩)⟩

def half : Flock := { apart with active := 1, stack := [⟨0x10000, 1, false⟩] }
@[irreducible] def sHalf : State := machine (cluster0 half) []

theorem witness_JoinStack (h : Obligations.JoinStack) :
    goes thr .jpush 0x0FFFFF ∧ goes sFull .jpush 1 ∧ goes sDead .join 0 ∧ goes thr .exit 0 ∧ goes sApart .exit 0x100000
      ∧ goes sHalf .exit 0 := by
  obtain ⟨c1, -⟩ := h (codeAt thr .jpush 0x0FFFFF) (op 0x0FFFFF) (at_code (by decide +kernel))
  obtain ⟨-, c2, -⟩ := h (codeAt sFull .jpush 1) (op 1) (at_code (by decide +kernel))
  obtain ⟨-, -, c3, -⟩ := h (codeAt sDead .join 0) (op 0) (at_code (by decide +kernel))
  obtain ⟨-, -, -, c4, -⟩ := h (codeAt thr .exit 0) (op 0) (at_code (by decide +kernel))
  obtain ⟨-, -, -, -, c5, -⟩ := h (codeAt sApart .exit 0x100000) (op 0x100000) (at_code (by decide +kernel))
  obtain ⟨-, -, -, -, -, c6⟩ := h (codeAt sHalf .exit 0) (op 0) (at_code (by decide +kernel))
  refine ⟨goes_of (by decide +kernel) (c1 (by decide) (by decide +kernel)), goes_of (by decide +kernel) (c2 (by decide) (by decide +kernel)), ?_,
    goes_of (by decide +kernel) (c4 (by decide) (by decide +kernel)), goes_of (by decide +kernel) (c5 (by decide) (by decide +kernel) (by decide +kernel)), ?_⟩
  · have := c3 rfl
    dsimp only at this
    split at this <;> exact goes_of (by decide +kernel) this
  · have := c6 (by decide) (by decide +kernel) (by decide +kernel)
    dsimp only at this
    split at this <;> exact goes_of (by decide +kernel) this

/-- Every thread names barrier 31 and a count. -/
def atBarrier (c : W64) (b : Barrier) : State :=
  machine { cluster0 { flock0 with threads := (List.range 8).map fun i => (i, { Thread.zero with g := [(1, 31), (2, c)] }) } with barriers := [(31, b)] } []
@[irreducible] def sBar1 : State := atBarrier 1 ⟨0, []⟩
@[irreducible] def sBar224 : State := atBarrier 224 ⟨224, [1]⟩
@[irreducible] def sBar225 : State := atBarrier 225 ⟨0, []⟩
@[irreducible] def sBarOther : State := atBarrier 2 ⟨3, [1]⟩
/-- Both flocks of thread core 0 wait at a barrier of the core. -/
def waiting : Flock := { flock0 with st := .wait, wait := some ⟨7, 0, 0, 0, 0, 0⟩ }
@[irreducible] def sLocal : State := machine { cluster0 flock0 with cores := [(0, { ThCore.atWake with f0 := waiting, f1 := waiting })] } []
theorem sLocal_f0 : (sLocal.m.flock (0 : Fin 2688).val (0 : Fin 112).val 0).st = .wait ∧ (sLocal.m.flock (0 : Fin 2688).val (0 : Fin 112).val 0).wait = some ⟨7, 0, 0, 0, 0, 0⟩ := by
  decide +kernel
theorem sLocal_f1 : (sLocal.m.flock (0 : Fin 2688).val (0 : Fin 112).val 1).st = .wait ∧ (sLocal.m.flock (0 : Fin 2688).val (0 : Fin 112).val 1).wait = some ⟨7, 0, 0, 0, 0, 0⟩ := by
  decide +kernel

theorem witness_Barriers (h : Obligations.Barriers) :
    goes thr .bar (word 0 1 2 0) ∧ goes sBar1 .bar (word 0 1 2 1) ∧ goes sBar224 .bar (word 0 1 2 1) ∧ goes sBar225 .bar (word 0 1 2 1)
      ∧ goes sBarOther .bar (word 0 1 2 1) ∧ goes sApart .bar (word 0 1 2 1) ∧ ran (.barrierComplete 0 0 false 31) (atBarrier 1 ⟨1, [1]⟩)
      ∧ ran (.barrierComplete 0 0 true 0) sLocal := by
  obtain ⟨q, r⟩ := h
  have b (s : State) (hs : codesB s .bar (word 0 1 2 1) = true) := (q (codeAt s .bar (word 0 1 2 1)) (op (word 0 1 2 1)) (at_code hs) rfl (by decide)).2.1 (by decide)
  refine ⟨goes_of (by decide +kernel) ((q (codeAt thr .bar (word 0 1 2 0)) (op (word 0 1 2 0)) (at_code (by decide +kernel)) rfl (by decide)).1 (by decide)), ?_, ?_, ?_, ?_, ?_, ?_, ?_⟩
  · exact goes_of (by decide +kernel) ((b sBar1 (by decide +kernel) 31 1 (by decide +kernel) (by decide +kernel)).1 (by decide) (by decide) (by decide +kernel) (by decide +kernel) (by decide +kernel))
  · exact goes_of (by decide +kernel) ((b sBar224 (by decide +kernel) 31 224 (by decide +kernel) (by decide +kernel)).1 (by decide) (by decide) (by decide +kernel) (by decide +kernel) (by decide +kernel))
  · exact goes_of (by decide +kernel) ((b sBar225 (by decide +kernel) 31 225 (by decide +kernel) (by decide +kernel)).2.1 (by decide))
  · exact goes_of (by decide +kernel) ((b sBarOther (by decide +kernel) 31 2 (by decide +kernel) (by decide +kernel)).2.2 (by decide) (by decide) (by decide +kernel) (by decide +kernel) (by decide +kernel) (by decide +kernel))
  · exact goes_of (by decide +kernel) ((q (codeAt sApart .bar (word 0 1 2 1)) (op (word 0 1 2 1)) (at_code (by decide +kernel)) rfl (by decide)).2.2 (by decide) ⟨0, 1, by decide +kernel⟩)
  · exact ran_of_completes ((r (atBarrier 1 ⟨1, [1]⟩) 0 0 31).1 (by decide +kernel) (by decide +kernel))
  · refine ran_of_completes ((r sLocal 0 0 0).2 fun f hf => ?_)
    have : f = 0 ∨ f = 1 := by omega
    obtain rfl | rfl := this
    · exact ⟨sLocal_f0.1, _, sLocal_f0.2, rfl, rfl⟩
    · exact ⟨sLocal_f1.1, _, sLocal_f1.2, rfl, rfl⟩

/-- The same under DEBUG. -/
@[irreducible] def thrDebug : State := machine (cluster0 flock0) [reg .boot 20 0 R.SEC_STATUS 1]

theorem witness_ThreadExceptions (h : Obligations.ThreadExceptions) :
    goes thr .add 1 ∧ goes thr .vadd (word 32 0 0 0) ∧ goes thr .tcancel 1 ∧ goes thr .trap 255 ∧ goes thrDebug .trap 255 ∧ goes thr .trap 0x1000FF := by
  refine ⟨goes_of (by decide +kernel) ((h (codeAt thr .add 1) (op 1) (at_code (by decide +kernel))).1 (.add (op 1), regOk .g .g .g [0] (op 1).w) (.head _) (by decide)),
    goes_of (by decide +kernel) ((h (codeAt thr .vadd (word 32 0 0 0)) (op (word 32 0 0 0)) (at_code (by decide +kernel))).1 (.vadd (op (word 32 0 0 0)), regOk .v .v .v [0, 1, 2, 3] (op (word 32 0 0 0)).w) ?_ (by decide)),
    goes_of (by decide +kernel) ((h (codeAt thr .tcancel 1) (op 1) (at_code (by decide +kernel))).1 (.tcancel (op 1), regOk .no .g .no [0] (op 1).w) ?_ (by decide)),
    goes_of (by decide +kernel) (((h (codeAt thr .trap 255) (op 255) (at_code (by decide +kernel))).2 (by decide) (by decide) (by decide)).1 (by decide +kernel) (by decide +kernel)),
    goes_of (by decide +kernel) (((h (codeAt thrDebug .trap 255) (op 255) (at_code (by decide +kernel))).2 (by decide) (by decide) (by decide)).2.1 (by decide +kernel) (by decide +kernel)),
    goes_of (by decide +kernel) (((h (codeAt thr .trap 0x1000FF) (op 0x1000FF) (at_code (by decide +kernel))).2 (by decide) (by decide) (by decide)).2.2 (by decide +kernel))⟩
  · exact List.mem_append_left _ (List.mem_append_right _ (.head _))
  · exact List.mem_append_right _ (List.mem_of_getLast? rfl)

/-- One active thread. -/
@[irreducible] def one : State := machine (cluster0 { flock0 with active := 1 }) []

theorem witness_LoadsReadMemory (h : Obligations.LoadsReadMemory) :
    goes one .ld (mem 3 1 3 63) ∧ goes one .lds (mem 3 6 0 31) ∧ goes one .vld (mem 31 1 0 1) ∧ goes one .vldg (word 3 6 0 3) := by
  obtain ⟨a, -⟩ := h (codeAt one .ld (mem 3 1 3 63)) (op (mem 3 1 3 63)) 0 (at_code (by decide +kernel)) (by decide +kernel)
  obtain ⟨b, -⟩ := h (codeAt one .lds (mem 3 6 0 31)) (op (mem 3 6 0 31)) 0 (at_code (by decide +kernel)) (by decide +kernel)
  obtain ⟨-, c, -⟩ := h (codeAt one .vld (mem 31 1 0 1)) (op (mem 31 1 0 1)) 0 (at_code (by decide +kernel)) (by decide +kernel)
  obtain ⟨-, -, d⟩ := h (codeAt one .vldg (word 3 6 0 3)) (op (word 3 6 0 3)) 0 (at_code (by decide +kernel)) (by decide +kernel)
  exact ⟨goes_of (by decide +kernel) (a 0x200F8 (by decide) (by unfold Dev.dataAt; decide +kernel)).1, goes_of (by decide +kernel) (b (storeBase + 31) (by decide) (by unfold Dev.dataAt; decide +kernel)).2,
    goes_of (by decide +kernel) (c 0x20140 (by decide) (by unfold Dev.dataAt; decide +kernel)), goes_of (by decide +kernel) (d (fun _ => storeBase) (by decide) (by unfold Dev.dataAt; decide +kernel))⟩

theorem witness_StoresWriteMemory (h : Obligations.StoresWriteMemory) :
    goes one .st (mem 3 1 0 63) ∧ goes one .vst (mem 31 1 0 1) ∧ goes one .vsts (word 3 1 0 2) := by
  obtain ⟨a, -⟩ := h (codeAt one .st (mem 3 1 0 63)) (op (mem 3 1 0 63)) 0 (at_code (by decide +kernel)) (by decide +kernel)
  obtain ⟨-, c, -⟩ := h (codeAt one .vst (mem 31 1 0 1)) (op (mem 31 1 0 1)) 0 (at_code (by decide +kernel)) (by decide +kernel)
  obtain ⟨-, -, d⟩ := h (codeAt one .vsts (word 3 1 0 2)) (op (word 3 1 0 2)) 0 (at_code (by decide +kernel)) (by decide +kernel)
  exact ⟨goes_of (by decide +kernel) (a 0x200FF (by decide) (by unfold Dev.dataAt; decide +kernel)),
    goes_of (by decide +kernel) (c 0x20140 (by decide) (by unfold Dev.dataAt; decide +kernel)), goes_of (by decide +kernel) (d (fun _ => 0x20100) (by decide) (by unfold Dev.dataAt; decide +kernel))⟩

@[irreducible] def fast : State := machine (cluster0 { flock0 with active := 1, fast := true }) []

theorem witness_AtomicsReturnOld (h : Obligations.AtomicsReturnOld) :
    goes one .aadd (word 3 1 2 3) ∧ goes one .acas (word 3 1 2 2) ∧ goes fast .afadd (word 3 1 2 2) ∧ goes one .afadd (word 3 1 2 2) := by
  obtain ⟨a, -⟩ := h (codeAt one .aadd (word 3 1 2 3)) (op (word 3 1 2 3)) 0 0x20100 (at_code (by decide +kernel)) (by decide +kernel)
  obtain ⟨b, -⟩ := h (codeAt one .acas (word 3 1 2 2)) (op (word 3 1 2 2)) 0 0x20100 (at_code (by decide +kernel)) (by decide +kernel)
  obtain ⟨-, d⟩ := h (codeAt one .afadd (word 3 1 2 2)) (op (word 3 1 2 2)) 0 0x20100 (at_code (by decide +kernel)) (by decide +kernel)
  obtain ⟨c, -⟩ := h (codeAt fast .afadd (word 3 1 2 2)) (op (word 3 1 2 2)) 0 0x20100 (at_code (by decide +kernel)) (by decide +kernel)
  exact ⟨goes_of (by decide +kernel) ((a (by unfold Dev.dataAt; decide +kernel)).1 (by decide)).1, goes_of (by decide +kernel) ((b (by unfold Dev.dataAt; decide +kernel)).1 (by decide)).2.2.2.2.2.2,
    goes_of (by decide +kernel) ((c (by unfold Dev.dataAt; decide +kernel)).2 (by decide) (by decide +kernel)), goes_of (by decide +kernel) (d (by decide) (by decide +kernel))⟩

@[irreducible] def polling (m : Nat) : State := machine (cluster0 { flock0 with active := 1, st := .wait, wait := some ⟨waitvPoll, word 0 1 0 m, 0, 0, 0, 0⟩ }) []

theorem witness_FencePrefWaitv (h : Obligations.FencePrefWaitv) :
    goes one .fence (word 3 0 0 2) ∧ goes one .pref (mem 0 1 0 0) ∧ goes one .pref (mem 0 5 0 0) ∧ goes one .waitv (word 0 1 0 0)
      ∧ goes one .waitv (word 0 1 0 1) ∧ ran (.waitvPoll here) (polling 2) ∧ ran (.waitvPoll here) (polling 1) := by
  obtain ⟨q, r⟩ := h
  have x5 : (codeAt one .pref (mem 0 5 0 0)).m.xlate ((op (mem 0 5 0 0)).k / 168) ((op (mem 0 5 0 0)).k % 168) (memAddr (op (mem 0 5 0 0)) (((codeAt one .pref (mem 0 5 0 0)).m.flockOf (op (mem 0 5 0 0))).thr 0) (2 ^ bits (op (mem 0 5 0 0)).w 7 6)) accRead = .miss := by
    decide +kernel
  refine ⟨goes_of (by decide +kernel) ((q (codeAt one .fence (word 3 0 0 2)) (op (word 3 0 0 2)) (at_code (by decide +kernel))).1 (by decide)), ?_, ?_, ?_, ?_, ?_, ?_⟩
  · exact goes_of (by decide +kernel) (((q (codeAt one .pref (mem 0 1 0 0)) (op (mem 0 1 0 0)) (at_code (by decide +kernel))).2.1 0 (by decide +kernel) (by decide) (by decide +kernel)).1 0x20100 (by decide +kernel) (by decide) (by decide +kernel)
      (by decide +kernel) (by decide +kernel) (by decide +kernel) (by decide +kernel))
  · exact goes_of (by decide +kernel) (((q (codeAt one .pref (mem 0 5 0 0)) (op (mem 0 5 0 0)) (at_code (by decide +kernel))).2.1 0 (by decide +kernel) (by decide) (by decide +kernel)).2 (fun _ => by rw [x5]; nofun) (fun _ => by rw [x5]; nofun))
  · exact goes_of (by decide +kernel) (((q (codeAt one .waitv (word 0 1 0 0)) (op (word 0 1 0 0)) (at_code (by decide +kernel))).2.2 0 0x20100 (by decide +kernel) (by decide) (by unfold Dev.dataAt; decide +kernel)).1 (by decide +kernel))
  · exact goes_of (by decide +kernel) (((q (codeAt one .waitv (word 0 1 0 1)) (op (word 0 1 0 1)) (at_code (by decide +kernel))).2.2 0 0x20100 (by decide +kernel) (by decide) (by unfold Dev.dataAt; decide +kernel)).2 (by decide +kernel))
  · exact ran_of_completes ((r (polling 2) here ⟨waitvPoll, word 0 1 0 2, 0, 0, 0, 0⟩ 0 0x20100 (by decide +kernel) (by decide +kernel) rfl (by decide +kernel) (by decide +kernel)
      (by decide +kernel) (by decide +kernel) (by unfold Dev.dataAt; decide +kernel) (by decide)).1 (by decide +kernel))
  · exact ran_of_completes ((r (polling 1) here ⟨waitvPoll, word 0 1 0 1, 0, 0, 0, 0⟩ 0 0x20100 (by decide +kernel) (by decide +kernel) rfl (by decide +kernel) (by decide +kernel)
      (by decide +kernel) (by decide +kernel) (by unfold Dev.dataAt; decide +kernel) (by decide)).2 (by decide +kernel))

theorem witness_DataAccessExceptions (h : Obligations.DataAccessExceptions) :
    goes one .ld (mem 3 3 1 0) ∧ goes one .ld (mem 3 4 0 0) ∧ goes one .st (mem 3 6 0 0) ∧ goes one .vst (mem 3 5 0 0) ∧ goes one .acas (word 3 3 2 2) := by
  refine ⟨goes_of (by decide +kernel) ((h (codeAt one .ld (mem 3 3 1 0)) (op (mem 3 3 1 0)) 0 (at_code (by decide +kernel)) (by decide +kernel) (by decide +kernel) _ _ _ _ _ _ (.head _) (by decide)).1 (by decide +kernel) (by decide +kernel)),
    goes_of (by decide +kernel) ((h (codeAt one .ld (mem 3 4 0 0)) (op (mem 3 4 0 0)) 0 (at_code (by decide +kernel)) (by decide +kernel) (by decide +kernel) _ _ _ _ _ _ (.head _) (by decide)).2.1 (by decide +kernel)),
    goes_of (by decide +kernel) ((h (codeAt one .st (mem 3 6 0 0)) (op (mem 3 6 0 0)) 0 (at_code (by decide +kernel)) (by decide +kernel) (by decide +kernel) _ _ _ _ _ _ (.tail _ (.tail _ (.head _))) (by decide)).2.2.1 (by decide +kernel) 3 3 (by decide +kernel)),
    goes_of (by decide +kernel) ((h (codeAt one .vst (mem 3 5 0 0)) (op (mem 3 5 0 0)) 0 (at_code (by decide +kernel)) (by decide +kernel) (by decide +kernel) _ _ _ _ _ _ (.tail _ (.tail _ (.tail _ (.tail _ (.head _))))) (by decide)).2.2.2
      (by decide +kernel) (by decide +kernel)),
    goes_of (by decide +kernel) ((h (codeAt one .acas (word 3 3 2 2)) (op (word 3 3 2 2)) 0 (at_code (by decide +kernel)) (by decide +kernel) (by decide +kernel) _ _ _ _ _ _
      (List.mem_append_right _ (.tail _ (.tail _ (.tail _ (.tail _ (.tail _ (.tail _ (.head _)))))))) (by decide)).1 (by decide +kernel) (by decide +kernel))⟩

/-- Cluster 0 with one active thread, tags and entries. -/
def tagged (tags : List (Nat × Tag)) (entries : List Entry) (f : Flock) : State := machine { cluster0 f with tags := tags, entries := entries } []
def oneF : Flock := { flock0 with active := 1 }
def allTags : List (Nat × Tag) := (List.range 4096).map fun i => (i, ⟨i, 0, true, []⟩)
@[irreducible] def noTag : State := tagged allTags [] oneF
@[irreducible] def pushing (o : Nat) : State := tagged [] [] { oneF with st := .wait, wait := some ⟨o, word 3 1 0 0, 0, 0, 0, 0⟩ }

theorem witness_PushesTakeTags (h : Obligations.PushesTakeTags) :
    goes one .tissue (word 3 1 0 1) ∧ goes one .bissue (word 3 1 0 0) ∧ goes noTag .tissue (word 3 1 0 0) ∧ goes noTag .bissue (word 3 1 0 1)
      ∧ ran (.pushUnblock here) (pushing 0xA0) ∧ ran (.pushUnblock here) (pushing 0xA1) := by
  obtain ⟨q, r⟩ := h
  obtain ⟨a, -⟩ := q (codeAt one .tissue (word 3 1 0 1)) (op (word 3 1 0 1)) 0 (at_code (by decide +kernel)) (by decide +kernel) (by decide)
  obtain ⟨-, b, -⟩ := q (codeAt one .bissue (word 3 1 0 0)) (op (word 3 1 0 0)) 0 (at_code (by decide +kernel)) (by decide +kernel) (by decide)
  obtain ⟨-, -, c, -⟩ := q (codeAt noTag .tissue (word 3 1 0 0)) (op (word 3 1 0 0)) 0 (at_code (by decide +kernel)) (by decide +kernel) (by decide)
  obtain ⟨-, -, -, -, -, d⟩ := q (codeAt noTag .bissue (word 3 1 0 1)) (op (word 3 1 0 1)) 0 (at_code (by decide +kernel)) (by decide +kernel) (by decide)
  have e (o : Nat) := r (pushing o) here ⟨o, word 3 1 0 0, 0, 0, 0, 0⟩ 0
  exact ⟨goes_of (by decide +kernel) (a (by decide +kernel)), goes_of (by decide +kernel) (b (by decide +kernel)), goes_of (by decide +kernel) (c (by decide) (by decide +kernel)),
    goes_of (by decide +kernel) (d (by decide) (by decide +kernel)),
    ran_of_completes ((e 0xA0 (by decide +kernel) (by decide +kernel) (by decide +kernel) (by decide +kernel) (by decide +kernel)).1 rfl (by decide +kernel)),
    ran_of_completes ((e 0xA1 (by decide +kernel) (by decide +kernel) (by decide +kernel) (by decide +kernel) (by decide +kernel)).2 rfl (by decide +kernel))⟩

/-- The thread names tag 4095. -/
def tagF : Flock := { oneF with threads := [(0, { Thread.zero with g := [(1, 4095)] })] }
def open0 : Entry := Entry.fresh 9 4095 (2 ^ 32) 0 false [] []
@[irreducible] def doneTag : State := tagged [(4095, ⟨9, 2 ^ 32, true, [0]⟩)] [] tagF
@[irreducible] def openTag : State := tagged [(4095, ⟨9, 2 ^ 32, false, []⟩)] [open0] tagF

theorem witness_TagOperations (h : Obligations.TagOperations) :
    goes doneTag .twait (word 3 1 0 0) ∧ goes doneTag .tcrec (word 3 1 0 0) ∧ goes doneTag .tfree (word 0 1 0 0) ∧ goes openTag .twait (word 3 1 0 0)
      ∧ goes openTag .tcrec (word 3 1 0 0) ∧ goes openTag .tcancel (word 0 1 0 0) ∧ goes one .tpoll (word 3 1 0 0) ∧ goes one .tcrec (word 3 1 0 0)
      ∧ goes one .tcancel (word 0 1 0 0) := by
  have q (s : State) (c : ThOp → Instr) (w : BitVec 24) (hc : codesB s c w = true) := h (codeAt s c w) (op w) 0 (at_code hc)
  have a (c : ThOp → Instr) (w : BitVec 24) (hc : codesB doneTag c w = true) ht := (q doneTag c w hc ht).1 ⟨9, 2 ^ 32, true, [0]⟩
  have b (c : ThOp → Instr) (w : BitVec 24) (hc : codesB openTag c w = true) ht := (q openTag c w hc ht).2.1 ⟨9, 2 ^ 32, false, []⟩
  have c (c : ThOp → Instr) (w : BitVec 24) (hc : codesB one c w = true) ht := (q one c w hc ht).2.2
  exact ⟨goes_of (by decide +kernel) ((a .twait (word 3 1 0 0) (by decide +kernel) (by decide +kernel) (by decide +kernel) rfl).1 (by decide)).1,
    goes_of (by decide +kernel) ((a .tcrec (word 3 1 0 0) (by decide +kernel) (by decide +kernel) (by decide +kernel) rfl).2.1 (by decide)),
    goes_of (by decide +kernel) ((a .tfree (word 0 1 0 0) (by decide +kernel) (by decide +kernel) (by decide +kernel) rfl).2.2 (by decide)).1,
    goes_of (by decide +kernel) ((b .twait (word 3 1 0 0) (by decide +kernel) (by decide +kernel) (by decide +kernel) rfl).1 (by decide)).1,
    goes_of (by decide +kernel) ((b .tcrec (word 3 1 0 0) (by decide +kernel) (by decide +kernel) (by decide +kernel) rfl).2.1 (by decide)),
    goes_of (by decide +kernel) ((b .tcancel (word 0 1 0 0) (by decide +kernel) (by decide +kernel) (by decide +kernel) rfl).2.2.2 (by decide) open0 (by decide +kernel) rfl rfl),
    goes_of (by decide +kernel) ((c .tpoll (word 3 1 0 0) (by decide +kernel) (by decide +kernel) (by decide +kernel)).1 (by decide)).2,
    goes_of (by decide +kernel) ((c .tcrec (word 3 1 0 0) (by decide +kernel) (by decide +kernel) (by decide +kernel)).2.1 (by decide)),
    goes_of (by decide +kernel) ((c .tcancel (word 0 1 0 0) (by decide +kernel) (by decide +kernel) (by decide +kernel)).2.2 (by decide)).2⟩

/-- Lock 0 of cluster 0, a ring of two blocks of 64 bytes at 0x10100 with one consumer slot. -/
def locked (blks : List LockBlk) : State :=
  machine { cluster0 oneF with locks := [(0, { Lock.reset with blks := blks, seq := blks.length, nextIdx := blks.length % 2 })] }
    [reg .lock 0 0 R.LK_CFG 3, reg .lock 0 0 R.LK_VBASE_LO 0x10100, reg .lock 0 0 R.LK_SIZE 1, reg .lock 0 0 R.LK_LIMITS 2]
@[irreducible] def lkFilled : State := locked [blk 0 true 0]
@[irreducible] def lkProducing : State := locked [blk 0 false 0]
@[irreducible] def lkEmpty : State := locked []
@[irreducible] def lkFull : State := locked [blk 0 true 1, blk 1 false 0]

theorem witness_ThreadLocks (h : Obligations.ThreadLocks) :
    goes lkFilled .lkget (word 3 0 0 0) ∧ goes lkProducing .lkget (word 3 0 0 0) ∧ goes lkEmpty .lkget (word 3 0 0 0) ∧ goes lkEmpty .lkget (word 3 0 0 1)
      ∧ goes lkFull .lkget (word 3 0 0 1) ∧ goes lkProducing .lkput (word 0 0 1 1) ∧ goes lkFull .lkput (word 0 0 1 0) ∧ goes lkFilled .lkput (word 0 0 1 0)
      ∧ goes lkFilled .lkput (word 0 0 1 1) ∧ goes lkEmpty .lkput (word 0 0 1 1) ∧ goes lkEmpty .lkget (word 3 1 0 0) ∧ goes lkEmpty .lkput (word 0 1 1 0) := by
  have q (s : State) (c : ThOp → Instr) (w : BitVec 24) (hc : codesB s c w = true) := h (codeAt s c w) (op w) 0 (at_code hc)
  refine ⟨?_, ?_, ?_, ?_, ?_, ?_, ?_, ?_, ?_, ?_, ?_, ?_⟩
  · obtain ⟨a, -⟩ := (q lkFilled .lkget (word 3 0 0 0) (by decide +kernel) (by decide +kernel)).1 ⟨false, 0, 0⟩ (by decide +kernel)
    exact goes_of (by decide +kernel) ((a (by decide) (by decide) (blk 0 true 0) (by decide +kernel)).1 rfl)
  · obtain ⟨a, -⟩ := (q lkProducing .lkget (word 3 0 0 0) (by decide +kernel) (by decide +kernel)).1 ⟨false, 0, 0⟩ (by decide +kernel)
    exact goes_of (by decide +kernel) ((a (by decide) (by decide) (blk 0 false 0) (by decide +kernel)).2 rfl)
  · obtain ⟨-, a, -⟩ := (q lkEmpty .lkget (word 3 0 0 0) (by decide +kernel) (by decide +kernel)).1 ⟨false, 0, 0⟩ (by decide +kernel)
    exact goes_of (by decide +kernel) (a (by decide) (by decide) (by decide +kernel))
  · obtain ⟨-, -, a, -⟩ := (q lkEmpty .lkget (word 3 0 0 1) (by decide +kernel) (by decide +kernel)).1 ⟨false, 0, 0⟩ (by decide +kernel)
    exact goes_of (by decide +kernel) ((a (by decide) (by decide) (by decide +kernel)).1 0 (by decide +kernel) (by decide +kernel) (by decide +kernel))
  · obtain ⟨-, -, a, -⟩ := (q lkFull .lkget (word 3 0 0 1) (by decide +kernel) (by decide +kernel)).1 ⟨false, 0, 0⟩ (by decide +kernel)
    exact goes_of (by decide +kernel) ((a (by decide) (by decide) (by decide +kernel)).2 (by decide +kernel))
  · obtain ⟨-, -, -, a, -⟩ := (q lkProducing .lkput (word 0 0 1 1) (by decide +kernel) (by decide +kernel)).1 ⟨false, 0, 0⟩ (by decide +kernel)
    exact goes_of (by decide +kernel) ((a (by decide) (blk 0 false 0) (by decide +kernel)).1 (by decide) rfl (by decide +kernel) (by decide +kernel))
  · obtain ⟨-, -, -, a, -⟩ := (q lkFull .lkput (word 0 0 1 0) (by decide +kernel) (by decide +kernel)).1 ⟨false, 0, 0⟩ (by decide +kernel)
    exact goes_of (by decide +kernel) ((a (by decide) (blk 0 true 1) (by decide +kernel)).2.1 (by decide) (by decide +kernel) (by decide))
  · obtain ⟨-, -, -, a, -⟩ := (q lkFilled .lkput (word 0 0 1 0) (by decide +kernel) (by decide +kernel)).1 ⟨false, 0, 0⟩ (by decide +kernel)
    exact goes_of (by decide +kernel) ((a (by decide) (blk 0 true 0) (by decide +kernel)).2.2.1 (by decide) (by decide +kernel))
  · obtain ⟨-, -, -, a, -⟩ := (q lkFilled .lkput (word 0 0 1 1) (by decide +kernel) (by decide +kernel)).1 ⟨false, 0, 0⟩ (by decide +kernel)
    exact goes_of (by decide +kernel) ((a (by decide) (blk 0 true 0) (by decide +kernel)).2.2.2 (by decide) rfl (by decide +kernel))
  · obtain ⟨-, -, -, -, a⟩ := (q lkEmpty .lkput (word 0 0 1 1) (by decide +kernel) (by decide +kernel)).1 ⟨false, 0, 0⟩ (by decide +kernel)
    exact goes_of (by decide +kernel) (a (by decide) (by decide +kernel))
  · have n : (codeAt lkEmpty .lkget (word 3 1 0 0)).m.handleLock 0 0 (0x10100 % 2 ^ 16) = none := by decide +kernel
    have v : ((((codeAt lkEmpty .lkget (word 3 1 0 0)).m.flockOf (op (word 3 1 0 0))).thr 0).x (fA (op (word 3 1 0 0)).w)).toNat = 0x10100 := by decide +kernel
    exact goes_of (by decide +kernel) (((q lkEmpty .lkget (word 3 1 0 0) (by decide +kernel) (by decide +kernel)).2 fun l hl => by have := hl.2.1; rw [v] at this; exact absurd (n.symm.trans this) nofun).1 (by decide))
  · have n : (codeAt lkEmpty .lkput (word 0 1 1 0)).m.handleLock 0 0 (0x10100 % 2 ^ 16) = none := by decide +kernel
    have v : ((((codeAt lkEmpty .lkput (word 0 1 1 0)).m.flockOf (op (word 0 1 1 0))).thr 0).x (fA (op (word 0 1 1 0)).w)).toNat = 0x10100 := by decide +kernel
    exact goes_of (by decide +kernel) (((q lkEmpty .lkput (word 0 1 1 0) (by decide +kernel) (by decide +kernel)).2 fun l hl => by have := hl.2.1; rw [v] at this; exact absurd (n.symm.trans this) nofun).2 (by decide))

theorem witness_TallyClears (h : Obligations.TallyClears) : ran (.tcTallyClear 0) thr ∧ ran (.thTallyClear 2687 111) thr ∧ ran .weirTallyClear thr := by
  obtain ⟨a, -⟩ := h thr 0 0 0 0 0 0 0 0
  obtain ⟨-, -, -, -, -, -, -, -, -, -, b, -, -, -, -, -, -, c⟩ := h thr 2687 111 15 167 31 7 1 23
  exact ⟨ran_of_completes (a.1 (by decide +kernel)), ran_of_completes (b.2 (by decide +kernel)), ran_of_completes (c.1 (by decide))⟩

def matArgs : List Byte := argBlock 32 [(0, 0x50000), (1, 128), (4, 0x50400), (5, 64), (8, 0x52000 + 72 * 2 ^ 48)]
/-- A MATMUL of one row, one column and 65 reduction indices: two passes. -/
def mat (t : Nat) (st : Stage) (r : Run) : Entry := ent (1 + t * 256) (1 + 2 ^ 24 + 65 * 2 ^ 40) (15 * 2 ^ 12) matArgs st r
def convArgs : List Byte := argBlock 40 [(0, 0x50000), (1, 64 + 64 * 2 ^ 32), (2, 64 + 2 ^ 48), (3, 1 + 65 * 2 ^ 16 + 2 ^ 32), (4, 0x50400), (5, 64 + 64 * 2 ^ 32), (6, 64),
  (8, 0x52000 + 72 * 2 ^ 48), (32, 0x1000100010001), (33, 0x10001)]
/-- A CONV of a 1 × 1 window over one pixel of 65 channels: two passes. -/
def conv0 (st : Stage) (r : Run) : Entry := ent 2 (2 ^ 24) (15 * 2 ^ 12) convArgs st r
/-- The same with padding above and a vertical stride of 2: its one output pixel reads padding alone. -/
def convPad (st : Stage) (r : Run) : Entry := { conv0 st r with args := argBlock 40 [(0, 0x50000), (1, 64 + 64 * 2 ^ 32), (2, 64 + 2 ^ 48), (3, 1 + 65 * 2 ^ 16 + 2 ^ 32), (4, 0x50400),
  (5, 64 + 64 * 2 ^ 32), (6, 64), (8, 0x52000 + 72 * 2 ^ 48), (32, 0x1000200010001), (33, 0x100010001)] }
/-- The same with a window of two rows over one, which gives no output. -/
def convEmpty : Entry := { conv0 .queued Run.start with args := argBlock 40 [(0, 0x50000), (1, 64 + 64 * 2 ^ 32), (2, 64 + 2 ^ 48), (3, 1 + 65 * 2 ^ 16 + 2 ^ 32), (4, 0x50400),
  (5, 64 + 64 * 2 ^ 32), (6, 64), (8, 0x52000 + 72 * 2 ^ 48), (32, 0x1000100010002), (33, 0x10001)] }
/-- 200 pages of stack 0, all cached. -/
def widePages (c : Cluster) : Cluster := { c with tlb := c.tlb ++ (List.range 200).map fun i => ⟨0x100000 + 65536 * i, 16, 65536 * i, true, true, false, 0, false⟩ }
/-- A MATMUL of 200 rows, each in a page of its own. -/
def wideMat : Entry := { ent 1 (200 + 2 ^ 24 + 65 * 2 ^ 40) (15 * 2 ^ 12) (argBlock 32 [(0, 0x100000), (1, 65536), (4, 0x50400), (5, 64), (8, 0x52000 + 72 * 2 ^ 48)]) .queued Run.start with uid := 9 }
/-- An entry whose one dependency has completed with a status, with POISON. -/
def dep (v : Nat) (poison : Bool) : Entry := { mat 0 .queued Run.start with
  deps := [⟨1, some v⟩]
  depsDone := false
  w0 := 1 + BitVec.ofNat 64 (b2n poison * 2 ^ 55) }
def sync0 : Entry := ent 0 0 0 [] .queued Run.start

/-- A SYNC whose one dependency has failed, with POISON. -/
def syncDep : Entry := { sync0 with
  deps := [⟨1, some 0x20⟩]
  depsDone := false
  w0 := BitVec.ofNat 64 (2 ^ 55) }

theorem witness_InstructionIssue (h : Obligations.InstructionIssue) :
    ran (.dependencyComplete 0 5) (tensor (dep 0x20 false) id) ∧ ran (.dependencyComplete 0 5) (tensor syncDep id) ∧ ran (.dependencyComplete 0 5) (tensor (dep 0x20 true) id)
      ∧ ran (.sync 0 0) (tensor sync0 id)
      ∧ ran (.tensorIssue 0 0) (tensor (dep 0 false) id) ∧ ran (.tensorIssue 0 0) (tensor (mat 0 .queued Run.start) fun c => { c with preempting := [2 ^ 32] })
      ∧ ran (.tensorIssue 0 0) (tensor (mat 4 .queued Run.start) id) ∧ ran (.tensorIssue 0 0) (tensor (mat 0 .staged Run.start) id) := by
  have e (x : Entry) (f) := h (tensor x f) 0 0 x
  refine ⟨?_, ?_, ?_, ?_, ?_, ?_, ?_, ?_⟩
  · exact ran_of_completes (((e (dep 0x20 false) id).1 5 (by decide +kernel) (by decide +kernel)).1 fun q => absurd q.1 (by decide))
  · exact ran_of_completes (((e syncDep id).1 5 (by decide +kernel) (by decide +kernel)).2.1 ⟨by decide, ⟨1, some 0x20⟩, 0x20, .head _, rfl, by decide⟩ rfl)
  · exact ran_of_completes (((e (dep 0x20 true) id).1 5 (by decide +kernel) (by decide +kernel)).2.2
      ⟨by decide, ⟨1, some 0x20⟩, 0x20, .head _, rfl, by decide⟩ (by decide) rfl (by decide +kernel))
  · exact ran_of_completes ((e sync0 id).2.1 (by decide +kernel) (by decide +kernel) (by decide +kernel) (by decide) rfl rfl (by decide +kernel))
  · exact ran_of_completes (((e (dep 0 false) id).2.2.1 (by decide +kernel) (by decide +kernel) (by decide +kernel) (by decide) (.inl rfl)).1 3
      (by decide +kernel) (by decide) (by decide))
  · exact ran_of_completes (((e (mat 0 .queued Run.start) fun c => { c with preempting := [2 ^ 32] }).2.2.1 (by decide +kernel) (by decide +kernel)
      (by decide +kernel) (by decide) (.inl rfl)).1 1 (by decide +kernel) (by decide) (by decide))
  · exact ran_of_completes (((e (mat 4 .queued Run.start) id).2.2.1 (by decide +kernel) (by decide +kernel) (by decide +kernel) (by decide)
      (.inl rfl)).2.1 (by decide +kernel) rfl)
  · have := ((e (mat 0 .staged Run.start) id).2.2.1 (by decide +kernel) (by decide +kernel) (by decide +kernel) (by decide)
      (.inr ⟨rfl, granted_of (by decide +kernel)⟩)).2.2 (by decide +kernel) rfl rfl (.inr fun r hr => absurd ((show (mat 0 .staged Run.start).d.slotUsed = none by decide).symm.trans hr) nofun)
    exact ran_of_completes ((e (mat 0 .staged Run.start) id).2.2.2 (by decide +kernel) (by decide) (by decide) rfl rfl rfl (by decide +kernel) (by decide +kernel) (by decide +kernel)
      (granted_of (by decide +kernel)) (by decide +kernel) (by decide +kernel) (.inr fun r hr => absurd ((show (mat 0 .staged Run.start).d.slotUsed = none by decide).symm.trans hr) nofun))

/-- A MATMUL whose argument block is all zeros. -/
def blank : Entry := { mat 0 .queued Run.start with w1 := 0x50000 + 4 * 2 ^ 48 }

@[irreducible] def wideS : State := tensor wideMat widePages
theorem witness_InstructionStaging_pages (h : Obligations.InstructionStaging) : ran (.instructionStage 0 0) wideS := by
  exact ran_of_completes ((h wideS 0 0 wideMat (by decide +kernel) (by decide +kernel) (by decide +kernel) (by decide) rfl rfl
      (by decide +kernel) (by unfold Dev.errorless; decide +kernel) (granted_of (by decide +kernel))).2.1
      ⟨by decide +kernel, granted_of (by decide +kernel), by decide +kernel, by decide +kernel, fun r hr => absurd ((show wideMat.d.slotUsed = none by decide).symm.trans hr) nofun⟩ (by decide +kernel) (by decide) (by decide +kernel)
      (by decide +kernel) rfl)

theorem witness_InstructionStaging (h : Obligations.InstructionStaging) :
    ran (.instructionStage 0 0) (tensor (mat 0 .queued Run.start) id) ∧ ran (.instructionStage 0 0) wideS
      ∧ ran (.instructionStage 0 0) (tensor convEmpty id) ∧ ran (.instructionStage 0 0) (tensor blank id) := by
  have no (s : State) (e : Entry) (he : e.d.slotUsed = none) : ∀ r, e.d.slotUsed = some r → e.captured ≠ [] ∨ (s.m.cl (0 : Fin 2688)).slotValid r = true :=
    fun r hr => absurd (he.symm.trans hr) nofun
  have q (s : State) (e : Entry) := h s 0 0 e
  refine ⟨?_, ?_, ?_, ?_⟩
  · exact ran_of_completes ((q (tensor (mat 0 .queued Run.start) id) (mat 0 .queued Run.start) (by decide +kernel) (by decide +kernel) (by decide +kernel) (by decide) rfl rfl
      (by decide +kernel) (by unfold Dev.errorless; decide +kernel) (granted_of (by decide +kernel))).1
      ⟨by decide +kernel, granted_of (by decide +kernel), by decide +kernel, by decide +kernel, no _ _ (by decide)⟩ (by decide +kernel) (by decide) (by decide +kernel)
      (granted_of (by decide +kernel)) (by decide +kernel) (by decide +kernel))
  · exact witness_InstructionStaging_pages h
  · exact ran_of_completes ((q (tensor convEmpty id) convEmpty (by decide +kernel) (by decide +kernel) (by decide +kernel) (by decide) rfl rfl
      (by decide +kernel) (by unfold Dev.errorless; decide +kernel) (granted_of (by decide +kernel))).2.2.1
      ⟨by decide +kernel, granted_of (by decide +kernel), by decide +kernel, by decide +kernel, no _ _ (by decide)⟩ (by decide +kernel) (by decide +kernel) (by decide) rfl)
  · exact ran_of_completes ((q (tensor blank id) blank (by decide +kernel) (by decide +kernel) (by decide +kernel) (by decide) rfl rfl
      (by decide +kernel) (by unfold Dev.errorless; decide +kernel) (granted_of (by decide +kernel))).2.2.2 (by decide +kernel) (by decide +kernel) rfl)

/-- A run whose member of a target stands before a pass. -/
def runAt (t p : Nat) : Run := { Run.start with members := [⟨t, 0, p, [], [], false⟩] }
def tileB (n : Nat) : List Byte := List.replicate n 0
/-- Target 0 holds the tile of a pass. -/
def holdsTile (p n : Nat) (c : Cluster) : Cluster := { c with engines := [(0, ⟨⟨9, posCode 0 p, n / 64, tileB n, []⟩, WTile.none, true⟩)] }
/-- Target 0 loads the tile of pass 0. -/
def loads (beats : Nat) (c : Cluster) : Cluster := { c with engines := [(0, ⟨WTile.none, ⟨9, posCode 0 0, beats, tileB 4608, []⟩, true⟩)] }
def mveArgs : List Byte := argBlock 32 [(0, 0x50000), (1, 128), (4, 0x50400), (5, 64), (8, 0x52000 + 72 * 2 ^ 48), (24, 0x50800)]
/-- An EPILOGUE of one element with one addend. -/
def epi (r : Run) : Entry := ent 0x1005 (1 + 2 ^ 24) (15 * 2 ^ 12 + 2 ^ 47) mveArgs .running r

theorem witness_TensorPasses (h : Obligations.TensorPasses) :
    ran (.conv 0 0 false) (tensor (convPad .running (runAt 0 0)) id)
      ∧ ran (.matmul 0 0 false) (tensor (mat 0 .running (runAt 0 0)) (holdsTile 0 4608)) ∧ ran (.matmul 0 0 false) (tensor (mat 0 .running (runAt 0 1)) (holdsTile 1 4352))
      ∧ ran (.matmul 0 0 true) (tensor (mat 0 .running (runAt 0 0)) (holdsTile 0 4608)) ∧ ran (.conv 0 0 false) (tensor (conv0 .running (runAt 0 0)) (holdsTile 0 4608))
      ∧ ran (.matmul 0 32 true) (tensor (mat 0x10 .running (runAt 32 1)) id) ∧ ran (.epilogue 0) (tensor (epi (runAt 32 0)) id)
      ∧ ran (.weightTileLoad 0) (tensor (mat 0 .running (runAt 0 0)) (loads 71)) ∧ ran (.weightTileLoad 0) (tensor (mat 0 .running (runAt 0 0)) id)
      ∧ ran (.weightSwap 0 0) (tensor (mat 0 .running (runAt 0 0)) (loads 72)) := by
  have q (e : Entry) (f) (t p : Nat) := h (tensor e f) 0 e ⟨t, 0, p, [], [], false⟩
  refine ⟨?_, ?_, ?_, ?_, ?_, ?_, ?_, ?_, ?_, ?_⟩
  · exact ran_of_completes ((((q (convPad .running (runAt 0 0)) id 0 0 (by unfold Dev.errorless; decide +kernel)
      (by decide +kernel) (by decide +kernel)).1 0 (by decide +kernel) (by decide +kernel) (by decide +kernel) (by decide +kernel) (by decide +kernel) (by decide +kernel)).1
      (by decide +kernel) false).2 (by decide))
  · exact ran_of_completes (((((q (mat 0 .running (runAt 0 0)) (holdsTile 0 4608) 0 0 (by unfold Dev.errorless; decide +kernel)
      (by decide +kernel) (by decide +kernel)).1 0 (by decide +kernel) (by decide +kernel) (by decide +kernel) (by decide +kernel) (by decide +kernel) (by decide +kernel)).2
      0 0 (by decide +kernel)).1 _ (.inl ⟨by decide, by decide +kernel, by decide +kernel, rfl⟩) (granted_of (by decide +kernel)) false fun _ => rfl).1 (by decide))
  · exact ran_of_completes (((((q (mat 0 .running (runAt 0 1)) (holdsTile 1 4352) 0 1 (by unfold Dev.errorless; decide +kernel)
      (by decide +kernel) (by decide +kernel)).1 0 (by decide +kernel) (by decide +kernel) (by decide +kernel) (by decide +kernel) (by decide +kernel) (by decide +kernel)).2
      0 1 (by decide +kernel)).1 _ (.inl ⟨by decide, by decide +kernel, by decide +kernel, rfl⟩) (granted_of (by decide +kernel)) false fun _ => rfl).1 (by decide))
  · exact ran_of_completes (((((q (mat 0 .running (runAt 0 0)) (holdsTile 0 4608) 0 0 (by unfold Dev.errorless; decide +kernel)
      (by decide +kernel) (by decide +kernel)).1 0 (by decide +kernel) (by decide +kernel) (by decide +kernel) (by decide +kernel) (by decide +kernel) (by decide +kernel)).2
      0 0 (by decide +kernel)).2 (by decide) (by decide +kernel) (by decide) rfl (granted_of (by decide +kernel))).1 (by decide))
  · exact ran_of_completes (((((q (conv0 .running (runAt 0 0)) (holdsTile 0 4608) 0 0 (by unfold Dev.errorless; decide +kernel)
      (by decide +kernel) (by decide +kernel)).1 0 (by decide +kernel) (by decide +kernel) (by decide +kernel) (by decide +kernel) (by decide +kernel) (by decide +kernel)).2
      0 0 (by decide +kernel)).1 _ (.inl ⟨by decide, by decide +kernel, by decide +kernel, rfl⟩) (granted_of (by decide +kernel)) false fun _ => rfl).2 (by decide))
  · exact ran_of_completes (((((q (mat 0x10 .running (runAt 32 1)) id 32 1 (by unfold Dev.errorless; decide +kernel)
      (by decide +kernel) (by decide +kernel)).1 32 (by decide +kernel) (by decide +kernel) (by decide +kernel) (by decide +kernel) (by decide +kernel) (by decide +kernel)).2
      0 1 (by decide +kernel)).1 _ (.inr ⟨by decide, fun hl => absurd hl (by decide), by decide +kernel, rfl, by decide +kernel, granted_of (by decide +kernel)⟩)
      (granted_of (by decide +kernel)) true fun q => absurd rfl q).1 (by decide))
  · exact ran_of_completes ((q (epi (runAt 32 0)) id 32 0 (by unfold Dev.errorless; decide +kernel) (by decide +kernel) (by decide +kernel)).2.1 (by decide +kernel)
      (by decide +kernel) (by decide) (by decide +kernel) (by decide +kernel) (by decide +kernel) (granted_of (by decide +kernel)))
  · exact ran_of_completes (((q (mat 0 .running (runAt 0 0)) (loads 71) 0 0 (by unfold Dev.errorless; decide +kernel)
      (by decide +kernel) (by decide +kernel)).2.2.1 0 0 72 (by decide +kernel) rfl rfl (by decide) (by decide +kernel)).1 (by decide +kernel) (by decide +kernel))
  · exact ran_of_completes (((q (mat 0 .running (runAt 0 0)) id 0 0 (by unfold Dev.errorless; decide +kernel)
      (by decide +kernel) (by decide +kernel)).2.2.1 0 0 72 (by decide +kernel) rfl rfl (by decide) (by decide +kernel)).2 (by decide +kernel) (fun hl => absurd hl (by decide)) (by decide +kernel)
      (by decide +kernel) (granted_of (by decide +kernel)))
  · exact ran_of_completes ((q (mat 0 .running (runAt 0 0)) (loads 72) 0 0 (by unfold Dev.errorless; decide +kernel)
      (by decide +kernel) (by decide +kernel)).2.2.2 0 (by decide +kernel) (by decide +kernel) (by decide +kernel))

/-- A tile waits for the EPE. -/
def waitsEpe (t n : Nat) (c : Cluster) : Cluster := { c with doneTiles := [⟨9, 0, t, List.replicate n 300⟩] }
def dynArgs : List Byte := argBlock 32 [(0, 0x50000), (1, 128), (4, 0x50400), (5, 128), (8, 0x52000 + 72 * 2 ^ 48), (0x98 / 8, 0x50800)]
/-- A MATMUL of 65 columns whose rows are scaled as a whole. -/
def dyn (r : Run) : Entry := ent 1 (1 + 65 * 2 ^ 24 + 65 * 2 ^ 40) (15 * 2 ^ 12 + 2 * 2 ^ 9) dynArgs .running r
def runDyn : Run := { runAt 0 0 with rowBuf := (List.range 64).map fun i => (0, i, 300, false) }
def captured0 : Entry := { mat 0 .running (runAt 0 0) with captured := [⟨false, 0, 0⟩] }
def pool0 : Entry := ent 3 0 0 convArgs .running Run.start
def cropArgs : List Byte := argBlock 40 [(0, 0x50000), (3, 2 ^ 16), (4, 0x50400), (5, 64 + 64 * 2 ^ 32), (6, 64), (32, 0x50C00)]
def crop0 : Entry := ent 4 1 0 cropArgs .running Run.start
/-- Its image of one pixel, and its box, which is valid. -/
def cropMem : List Upd := [.mem (storeBase + 0x10000) (leBytes 8 0x50800 ++ leBytes 4 64 ++ leBytes 4 64 ++ [1, 0, 1, 0]), .mem (storeBase + 0x10C00 + 18) [1]]
def wideArgs : List Byte := argBlock 32 [(0, 0x50000), (1, 128), (4, 0x50400), (5, 64), (8, 0x52000 + 72 * 2 ^ 48), (0x70 / 8, 0x50600), (0x78 / 8, 0x50800)]
def widens (st : Stage) (r : Run) : Entry := ent 1 (1 + 2 ^ 24 + 65 * 2 ^ 40) (15 * 2 ^ 12 + 2 ^ 43) wideArgs st r

theorem witness_OutputTilesAndCommit (h : Obligations.OutputTilesAndCommit) :
    ran (.outputTileEpilogue 0 false) (tensor (mat 0 .running (runAt 0 0)) (waitsEpe 0 1)) ∧ ran (.outputTileEpilogue 0 false) (tensor (dyn (runAt 0 0)) (waitsEpe 0 64))
      ∧ ran (.outputTileEpilogue 0 false) (tensor (dyn runDyn) (waitsEpe 1 1)) ∧ ran (.outputTileEpilogue 0 true) (tensor captured0 (waitsEpe 0 1)) ∧ ran (.pool 0 0) (tensor pool0 id)
      ∧ ran (.crop 0 0) (tensorM crop0 id cropMem) ∧ ran (.narrowRunEnd 0 0) (tensor (widens .draining { Run.start with satN := 1 }) id)
      ∧ ran (.instructionCommit 0 0) (tensor (widens .finished Run.start) id) := by
  refine ⟨?_, ?_, ?_, ?_, ?_, ?_, ?_, ?_⟩
  · exact ran_of_completes (((h (tensor (mat 0 .running (runAt 0 0)) (waitsEpe 0 1)) 0 (mat 0 .running (runAt 0 0)) (by unfold Dev.errorless; decide +kernel) (by decide +kernel)).1
      ⟨9, 0, 0, [300]⟩ [] (by decide +kernel) rfl (by decide +kernel) (granted_of (by decide +kernel))).1 (by decide) (granted_of (by decide +kernel)))
  · exact ran_of_completes (((h (tensor (dyn (runAt 0 0)) (waitsEpe 0 64)) 0 (dyn (runAt 0 0)) (by unfold Dev.errorless; decide +kernel) (by decide +kernel)).1
      ⟨9, 0, 0, List.replicate 64 300⟩ [] (by decide +kernel) rfl (by decide +kernel) (granted_of (by decide +kernel))).2.1 (by decide) (by decide +kernel))
  · exact ran_of_completes (((h (tensor (dyn runDyn) (waitsEpe 1 1)) 0 (dyn runDyn) (by unfold Dev.errorless; decide +kernel) (by decide +kernel)).1
      ⟨9, 0, 1, [300]⟩ [] (by decide +kernel) rfl (by decide +kernel) (granted_of (by decide +kernel))).2.2 (by decide) (by decide +kernel) (granted_of (by decide +kernel)))
  · exact ran_of_completes ((h (tensor captured0 (waitsEpe 0 1)) 0 captured0 (by unfold Dev.errorless; decide +kernel) (by decide +kernel)).2.1
      ⟨9, 0, 0, [300]⟩ [] (by decide +kernel) rfl (by decide) (by decide) (by decide +kernel) (by decide +kernel))
  · exact ran_of_completes ((h (tensor pool0 id) 0 pool0 (by unfold Dev.errorless; decide +kernel) (by decide +kernel)).2.2.1 0 (by decide +kernel) (granted_of (by decide +kernel))
      (granted_of (by decide +kernel)))
  · exact ran_of_completes ((h (tensorM crop0 id cropMem) 0 crop0 (by unfold Dev.errorless; decide +kernel) (by decide +kernel)).2.2.2.1 0 (by decide +kernel) (by decide +kernel)
      (granted_of (by decide +kernel)) (granted_of (by decide +kernel)))
  · exact ran_of_completes ((h (tensor (widens .draining { Run.start with satN := 1 }) id) 0 (widens .draining { Run.start with satN := 1 }) (by unfold Dev.errorless; decide +kernel)
      (by decide +kernel)).2.2.2.2.1 0 (by decide +kernel))
  · exact ran_of_completes ((h (tensor (widens .finished Run.start) id) 0 (widens .finished Run.start) (by unfold Dev.errorless; decide +kernel)
      (by decide +kernel)).2.2.2.2.2 0 (by decide +kernel)
      (by decide +kernel) rfl (by decide) (granted_of (by decide +kernel)))

/-- A MATMUL whose output lies where it may only read. -/
def stray (t : Nat) : Entry := ent (1 + t * 256) (1 + 2 ^ 24 + 65 * 2 ^ 40) (15 * 2 ^ 12) (argBlock 32 [(0, 0x50000), (1, 128), (4, 0x40400), (5, 64), (8, 0x52000 + 72 * 2 ^ 48)])
  .running (runAt 0 0)
def preempted (c : Cluster) : Cluster := { c with preempting := [2 ^ 32] }
@[irreducible] def askedOff : State := machine (cluster0 { flock0 with preempt := true }) []
@[irreducible] def askedWhile (st : FlockSt) (w : Option FlockWait) : State := machine (cluster0 { flock0 with preempt := true, st := st, wait := w }) []
@[irreducible] def splitAsked : State := machine { cluster0 flock0 with splitReq := 8, splitPending := 8 } []
/-- A MATMUL stopped at a fault whose record firmware has not read. -/
def stopped : Entry := mat 0 .faulted (runAt 0 0)
def stoppedS : State := tensorM stopped preempted [.die 0 { DieMem.reset with fq := [⟨stopped.unitOf 0 0, 5, 0, 0x50000, 1, 0, 0, false⟩] }]

def translatesB (s : Dev) (k : Nat) (b : VAcc) : Bool := match s.xlate (k / 168) (k % 168) b.va b.access with
  | .hit _ => true
  | _ => false
theorem translates_of {s : Dev} {k : Nat} {l : List VAcc} (h : l.all (translatesB s k) = true) : ∀ b, b ∈ l →
    (∃ h, s.xlate (k / 168) (k % 168) b.va b.access = .hit h) ∨ (∃ y, s.xlate (k / 168) (k % 168) b.va b.access = .die y)
      ∨ (s.xlate (k / 168) (k % 168) b.va b.access = .miss ∧ ∃ y, s.walk b.va b.access = .leaf y) := by
  intro b hb
  have := List.all_eq_true.mp h b hb
  simp only [translatesB] at this
  split at this
  · exact .inl ⟨_, ‹_›⟩
  · cases this

theorem askedOff_f : (askedOff.m.flock here.k here.core.val here.flock.val).preempt = true ∧ (askedOff.m.flock here.k here.core.val here.flock.val).st = .run := by decide +kernel
def someWait : FlockWait := ⟨0x60, 0, 0, 0, 0, 0⟩
theorem asked_f : ((askedWhile .restoring none).m.flock here.k here.core.val here.flock.val).preempt = true ∧ ((askedWhile .restoring none).m.flock here.k here.core.val here.flock.val).st = .restoring
    ∧ ((askedWhile .wait (some someWait)).m.flock here.k here.core.val here.flock.val).preempt = true ∧ ((askedWhile .wait (some someWait)).m.flock here.k here.core.val here.flock.val).st = .wait
    ∧ ((askedWhile .wait (some someWait)).m.flock here.k here.core.val here.flock.val).wait = some someWait := by decide +kernel

theorem witness_TensorStops (h : Obligations.TensorStops) :
    ran (.feederTranslationFault 0 0) (tensor (stray 0) id) ∧ ran (.feederTranslationFault 0 0) (tensor (stray 4) id)
      ∧ ran (.targetPreemptStop 0 0) (tensor (mat 0 .staged Run.start) preempted) ∧ ran (.targetPreemptStop 0 0) (tensor (mat 0 .running (runAt 0 0)) preempted)
      ∧ ran (.targetPreemptStop 0 0) stoppedS ∧ ran (.flockPreemptStop here) askedOff ∧ ran (.flockPreemptStop here) (askedWhile .restoring none)
      ∧ ran (.flockPreemptStop here) (askedWhile .wait (some someWait)) ∧ ran (.tcSplitCtrlWrite 0 0xFFFFFFFF) thr ∧ ran (.tcSplitCtrlWrite 1 0) thr
      ∧ ran (.splitModeChange 0 3) splitAsked := by
  obtain ⟨a, b, c, d⟩ := h
  have f (n : Nat) (h2) (h1) (h3) (h4) (h5) := a (tensor (stray n) id) 0 0 (stray n) ⟨0x40400, 1, 1⟩ [⟨0x50000, 65, 0⟩] [⟨0x52000, 9216, 0⟩] 3 3 h1 h2 h3 (translates_of h4) (.inl h5) (by decide)
  refine ⟨?_, ?_, ?_, ?_, ?_, ?_, ?_, ?_, ?_, ?_, ?_⟩
  · exact ran_of_completes ((f 0 (by decide +kernel) (by decide +kernel) (by decide +kernel) (by decide +kernel) (by decide +kernel)).1 (by decide))
  · exact ran_of_completes ((f 4 (by decide +kernel) (by decide +kernel) (by decide +kernel) (by decide +kernel) (by decide +kernel)).2 (by decide) (by decide +kernel))
  · exact ran_of_completes ((b (tensor (mat 0 .staged Run.start) preempted) 0 0 (mat 0 .staged Run.start) (by decide +kernel) (by decide +kernel)).1 rfl)
  · exact ran_of_completes ((b (tensor (mat 0 .running (runAt 0 0)) preempted) 0 0 (mat 0 .running (runAt 0 0)) (by decide +kernel) (by decide +kernel)).2.1 rfl (by decide +kernel))
  · exact ran_of_completes ((b stoppedS 0 0 stopped (by decide +kernel) (by decide +kernel)).2.2 rfl ⟨⟨stopped.unitOf 0 0, 5, 0, 0x50000, 1, 0, 0, false⟩, by decide +kernel, by decide +kernel⟩)
  · exact ran_of_completes (c askedOff here askedOff_f.1 (.inl askedOff_f.2))
  · exact ran_of_completes (c (askedWhile .restoring none) here asked_f.1 (.inr (.inl asked_f.2.1)))
  · exact ran_of_completes (c (askedWhile .wait (some someWait)) here asked_f.2.2.1 (.inr (.inr ⟨asked_f.2.2.2.1, _, asked_f.2.2.2.2, by decide⟩)))
  · exact ran_of_completes ((d thr 0 0xFFFFFFFF 0).1 (by decide +kernel))
  · exact ran_of_completes ((d thr 1 0 0).2.1 (by decide +kernel))
  · exact ran_of_completes ((d splitAsked 0 0 3).2.2 (by decide +kernel) (by decide +kernel))

/-! ### Power and clocks -/

/-- A state of power and some updates. -/
@[irreducible] def pw (f : Power → Power) (l : List Upd) : State := after (.power (f Dev.reset.power) :: l)
def inputOff (w : Power) : Power := { w with inputOk := false }
def inputOn (w : Power) : Power := { w with
  inputOk := true
  ref25 := true
  envMax := 4
  envActive := 1 }

theorem witness_PowerInputEvents (h : Obligations.PowerInputEvents) :
    ran (.hotPlug 65535) (pw inputOff []) ∧ ran (.hotPlug 0) (pw inputOn []) ∧ ran (.uvWarnChange 3999) (pw inputOn []) ∧ ran (.linkDieTempSample 3 109) (pw inputOn []) := by
  obtain ⟨a, -⟩ := h (pw inputOff []) 65535 0 0
  obtain ⟨-, b, -⟩ := h (pw inputOn []) 0 0 0
  obtain ⟨-, -, ⟨_, -, c⟩, -, -, -, -, -⟩ := h (pw inputOn []) 3999 0 0
  obtain ⟨-, -, -, -, -, -, -, d⟩ := h (pw inputOn []) 0 3 109
  exact ⟨ran_of_becomes (a (by decide +kernel)), ran_of_becomes (b (by decide +kernel)), ran_of_becomes c, ran_of_becomes (d (by decide))⟩

theorem witness_EmergencyShutdown (h : Obligations.EmergencyShutdown) :
    ran (.inputUndervoltage 3799) (pw inputOn []) ∧ ran (.inputOvervoltage 5001) (pw inputOn []) ∧ ran (.inputOvercurrent 4201) (pw inputOn []) ∧ ran (.dieTempSample 15 115) (pw inputOn [])
      ∧ ran (.linkDieTempSample 3 110) (pw inputOn []) ∧ ran (.stackTempSample 31 110) (pw inputOn [on 95]) ∧ ran .ref25Loss (pw inputOn []) ∧ ran (.pllLockLoss 15) (pw inputOn [on 60])
      ∧ ran (.inputUndervoltage 3800) (pw inputOn []) ∧ ran (.inputOvervoltage 5000) (pw inputOn []) ∧ ran (.inputOvercurrent 4200) (pw inputOn []) ∧ ran (.pllLockLoss 14) (pw inputOn [])
      ∧ ran .ref25Loss (pw (fun w => { w with ref25 := false }) []) ∧ ran (.pllLockLoss 19) (pw inputOn [on 103]) := by
  have p (v : Fin 65536) (temp : Fin 256) := h (pw inputOn []) v 15 15 3 0 temp (by decide +kernel)
  obtain ⟨⟨a, -⟩, -⟩ := (p 3799 0).imp_left fun q => q (by decide +kernel)
  obtain ⟨⟨-, b, -⟩, -⟩ := (p 5001 0).imp_left fun q => q (by decide +kernel)
  obtain ⟨⟨-, -, c, -⟩, -⟩ := (p 4201 0).imp_left fun q => q (by decide +kernel)
  obtain ⟨⟨-, -, -, d, -⟩, -⟩ := (p 0 115).imp_left fun q => q (by decide +kernel)
  obtain ⟨⟨-, -, -, -, e, -⟩, -⟩ := (p 0 110).imp_left fun q => q (by decide +kernel)
  obtain ⟨⟨-, -, -, -, -, f, -⟩, -⟩ := (h (pw inputOn [on 95]) 0 0 0 0 31 110 (by decide +kernel)).imp_left fun q => q (by decide +kernel)
  obtain ⟨⟨-, -, -, -, -, -, g, -⟩, -⟩ := (p 0 0).imp_left fun q => q (by decide +kernel)
  obtain ⟨⟨-, -, -, -, -, -, -, i⟩, -⟩ := (h (pw inputOn [on 60]) 0 0 15 0 0 0 (by decide +kernel)).imp_left fun q => q (by decide +kernel)
  obtain ⟨⟨-, -, -, -, -, -, -, o⟩, -⟩ := (h (pw inputOn [on 103]) 0 0 19 0 0 0 (by decide +kernel)).imp_left fun q => q (by decide +kernel)
  obtain ⟨-, j, -⟩ := p 3800 0
  obtain ⟨-, -, k, -⟩ := p 5000 0
  obtain ⟨-, -, -, l, -⟩ := p 4200 0
  obtain ⟨-, -, -, -, m, -⟩ := h (pw inputOn []) 0 0 14 0 0 0 (by decide +kernel)
  obtain ⟨-, -, -, -, -, n⟩ := h (pw (fun w => { w with ref25 := false }) []) 0 0 0 0 0 0 (by decide +kernel)
  exact ⟨ran_of_completes (a (by decide)), ran_of_completes (b (by decide)), ran_of_completes (c (by decide)), ran_of_completes (d (by decide)), ran_of_completes (e (by decide)),
    ran_of_completes (f (by decide) (by decide +kernel)), ran_of_completes (g (by decide +kernel)), ran_of_completes (i (by decide +kernel)), ran_of_becomes (j (.inr (by decide))),
    ran_of_becomes (k (.inr (by decide))), ran_of_becomes (l (.inr (by decide))), ran_of_becomes (m (.inl (by decide +kernel))), ran_of_becomes (n (by decide +kernel)), ran_of_completes (o (by decide +kernel))⟩

theorem witness_EnvelopesAndThrottling (h : Obligations.EnvelopesAndThrottling) :
    ran (.pwrEnvWrite 4) (pw inputOn []) ∧ ran (.pwrEnvWrite 0x80000005) (pw inputOn []) ∧ ran (.dieTempSample 15 114) (pw inputOn []) := by
  obtain ⟨a, -⟩ := h (pw inputOn []) 4 0 0 0 0
  obtain ⟨-, b, -⟩ := h (pw inputOn []) 0x80000005 0 0 0 0
  obtain ⟨-, -, -, c⟩ := h (pw inputOn []) 0 0 0 15 114
  exact ⟨ran_of_completes (a (by decide +kernel)), ran_of_becomes (b (by decide +kernel)), ran_of_completes (c (by decide +kernel) (by decide))⟩

/-- Management, UNC0 of die 0 and stack 2 are on. -/
def someOn : List Upd := [on 0, on 66, on 104]
def turning (up granted : Bool) (dest : DomSt) : Dom := ⟨.transition, b2n up, some ⟨up, granted, 5, dest, true⟩⟩

theorem witness_DomainRequests (h : Obligations.DomainRequests) :
    ran (.pwrDomOff 104) (pw id someOn) ∧ ran (.pwrDomRetain 63) (pw id someOn) ∧ ran (.pwrDomOff 66) (pw id someOn) ∧ ran (.pwrDomOff 95) (pw id someOn)
      ∧ ran (.pwrDomRetain 66) (pw id someOn) ∧ ran (.pwrDomOn 1) (pw id someOn) ∧ ran (.pwrDomOn 63) (pw id someOn) := by
  have p (k : Fin 105) := h (pw id someOn) k (by decide +kernel)
  obtain ⟨a, -⟩ := p 104
  obtain ⟨-, b, -⟩ := p 63
  obtain ⟨-, -, c, -⟩ := p 66
  obtain ⟨-, -, -, d, -⟩ := p 95
  obtain ⟨-, -, -, -, e, -⟩ := p 66
  obtain ⟨-, -, -, -, -, f, -⟩ := p 1
  obtain ⟨-, -, -, -, -, -, g, -⟩ := p 63
  refine ⟨ran_of_becomes (a (by decide +kernel)), ran_of_becomes (b (by decide)), ran_of_completes (c (by decide +kernel) (by decide +kernel)),
    ran_of_completes (d (by decide +kernel) (.inl (by decide +kernel))), ran_of_completes (e (by decide) (by decide +kernel)),
    ran_of_completes (f (.inl (by decide +kernel)) (fun d hd _ => ?_) (by decide +kernel)), ran_of_completes (g 15 (by decide) (by decide +kernel) (by decide +kernel))⟩
  cases (show unc0Of (1 : Fin 105) = some 0 by decide).symm.trans hd
  decide +kernel

/-- Cluster 0 is on, and its engines are charged. -/
def charged (l : List (Nat × Nat)) (w : Power) : Power := { w with charged := l.map fun e => (1000 * 4096 + e.1, e.2) }
def clOn (f : Cluster → Cluster) : List Upd := [on 0, on 1000, .cl 0 (f { cluster0 flock0 with gated := 0 })]

theorem witness_WeirGrants (h : Obligations.WeirGrants) :
    ran .weirSlot (pw id someOn) ∧ ran (.domainReady 1000) (pw id [.dom 1000 (turning true true .on)]) ∧ ran (.domainReady 64) (pw id [.dom 64 (turning true true .on)])
      ∧ ran (.domainReady 0) (pw id someOn) ∧ ran (.towpathCommand 95) (pw id [.dom 95 (turning false true .retain)]) ∧ ran (.engineClockGate 0 5) (pw (charged [(6, 1)]) (clOn id)) ∧ ran (.engineClockGate 0 11) (pw id (clOn id))
      ∧ ran (.vectorClockGate 0 0) (pw (charged [(7, 1)]) (clOn id)) ∧ ran (.engineClockReady 0 5) (pw (charged [(6, 1)]) (clOn fun c => { c with gateReq := 32, gated := 32 }))
      ∧ ran (.engineClockReady 0 123) (pw (charged [(124, 0)]) (clOn fun c => { c with gateReq := 2048, gated := 2048 }))
      ∧ ran (.engineClockReady 0 6) (pw (charged [(7, 1)]) (clOn fun c => { c with cores := [(0, { ThCore.atWake with vecReq := true })] })) := by
  obtain ⟨a, -⟩ := h (pw id someOn) 0 0 0 0 (by decide +kernel)
  obtain ⟨-, b, -⟩ := h (pw id [.dom 1000 (turning true true .on)]) 1000 0 0 0 (by decide +kernel)
  obtain ⟨-, b', -⟩ := h (pw id [.dom 64 (turning true true .on)]) 64 0 0 0 (by decide +kernel)
  obtain ⟨-, -, c, -⟩ := h (pw id someOn) 0 0 0 0 (by decide +kernel)
  obtain ⟨-, -, -, d, -⟩ := h (pw id [.dom 95 (turning false true .retain)]) 95 0 0 0 (by decide +kernel)
  obtain ⟨-, -, -, -, e, -⟩ := h (pw (charged [(6, 1)]) (clOn id)) 0 0 5 0 (by decide +kernel)
  obtain ⟨-, -, -, -, e', -⟩ := h (pw id (clOn id)) 0 0 11 0 (by decide +kernel)
  obtain ⟨-, -, -, -, -, f, -⟩ := h (pw (charged [(7, 1)]) (clOn id)) 0 0 0 0 (by decide +kernel)
  obtain ⟨-, -, -, -, -, -, g⟩ := h (pw (charged [(6, 1)]) (clOn fun c => { c with gateReq := 32, gated := 32 })) 0 0 5 0 (by decide +kernel)
  obtain ⟨-, -, -, -, -, -, g'⟩ := h (pw (charged [(124, 0)]) (clOn fun c => { c with gateReq := 2048, gated := 2048 })) 0 0 11 0 (by decide +kernel)
  obtain ⟨-, -, -, -, -, -, i⟩ := h (pw (charged [(7, 1)]) (clOn fun c => { c with cores := [(0, { ThCore.atWake with vecReq := true })] })) 0 0 0 0 (by decide +kernel)
  refine ⟨ran_of_completes (a (by decide +kernel)), ran_of_completes (b ⟨true, true, 5, .on, true⟩ (by decide +kernel) rfl rfl (by decide +kernel)),
    ran_of_completes (b' ⟨true, true, 5, .on, true⟩ (by decide +kernel) rfl rfl (by decide +kernel)), ran_of_becomes (c fun q hq => ?_),
    ran_of_completes (d ⟨false, true, 5, .retain, true⟩ (by decide +kernel) rfl rfl (.inr rfl) (by decide +kernel)),
    ran_of_becomes (e (by decide +kernel) (by decide +kernel) (by decide +kernel) (by decide +kernel) (.inr (by decide +kernel)) (by decide +kernel)),
    ran_of_becomes (e' (by decide +kernel) (by decide +kernel) (by decide +kernel) (by decide +kernel) (.inl (by decide)) (by decide +kernel)),
    ran_of_becomes (f (by decide +kernel) (by decide +kernel) (by decide +kernel) (by decide +kernel)),
    ran_of_completes ((g 5 (by decide +kernel) (by decide +kernel)).1 (.inl ⟨rfl, by decide⟩) (by decide +kernel)),
    ran_of_completes ((g' 123 (by decide +kernel) (by decide +kernel)).1 (.inr ⟨rfl, by decide⟩) (by decide +kernel)),
    ran_of_completes ((i 6 (by decide +kernel) (by decide +kernel)).2 rfl (by decide +kernel))⟩
  have : ((pw id someOn).m.dom (0 : Fin 3688)).tr = none := by decide +kernel
  exact absurd (this.symm.trans hq) nofun

/-! ### Function units and coders -/

def sfArgs : List Byte := argBlock 40 [(0, 0x50000), (1, 128), (4, 0x50400), (5, 64), (0x98 / 8, 0x50900), (32, 0x50800), (35, 2 ^ 32)]
def sfE (op w2 w3 : Nat) (args : List Byte) : Entry := ent (op + 0x1900) w2 w3 args .running Run.start
def evalE : Entry := sfE 0x10 (1 + 2 ^ 24) (15 * 2 ^ 12) sfArgs
def dynE : Entry := sfE 0x10 (1 + 2 ^ 24) (15 * 2 ^ 12 + 2 * 2 ^ 9) sfArgs
def statsE : Entry := sfE 0x11 (1 + 2 ^ 24) 0 (argBlock 8 [(0, 0x50000), (1, 0x50400)])
def applyE : Entry := sfE 0x12 (1 + 2 ^ 24 + 2 ^ 40) (15 * 2 ^ 12) sfArgs
def softE : Entry := sfE 0x13 (1 + 2 ^ 24) (2 ^ 5 + 2 ^ 7) sfArgs
def tbE : Entry := { sfE 0x14 (1 + 2 ^ 24) 0 (argBlock 8 [(0, 0x50000), (1, 0x50400)]) with captured := [⟨false, 0, 0⟩] }
def idxE : Entry := sfE 0x15 1 0 (argBlock 8 [(0, 0x50000), (1, 0x50400), (2, 0x50800)])

theorem witness_FunctionUnits (h : Obligations.FunctionUnits) :
    ran (.sfEval 0 1 false) (tensor evalE id) ∧ ran (.sfEval 0 1 false) (tensor dynE id) ∧ ran (.normStats 0 1) (tensor statsE id) ∧ ran (.normApply 0 1 false) (tensor applyE id)
      ∧ ran (.normApply 0 1 false) (tensorM applyE id [.mem (storeBase + 0x10800 + 20) [1]]) ∧ ran (.softmax 0 1) (tensor softE id) ∧ ran (.tbBuild 0 1 false) (tensor tbE id)
      ∧ ran (.tbIndex 0 1) (tensor idxE id) ∧ ran (.tbIndex 0 1) (tensorM idxE id [.mem (storeBase + 0x10800) [1]]) := by
  obtain ⟨a, -⟩ := h (tensor evalE id) 0 1 evalE (by unfold Dev.errorless; decide +kernel) (by decide +kernel)
  obtain ⟨a', -⟩ := h (tensor dynE id) 0 1 dynE (by unfold Dev.errorless; decide +kernel) (by decide +kernel)
  obtain ⟨-, b, -⟩ := h (tensor statsE id) 0 1 statsE (by unfold Dev.errorless; decide +kernel) (by decide +kernel)
  obtain ⟨-, -, c, -⟩ := h (tensor applyE id) 0 1 applyE (by unfold Dev.errorless; decide +kernel) (by decide +kernel)
  obtain ⟨-, -, c', -⟩ := h (tensorM applyE id [.mem (storeBase + 0x10800 + 20) [1]]) 0 1 applyE (by unfold Dev.errorless; decide +kernel) (by decide +kernel)
  obtain ⟨-, -, -, d, -⟩ := h (tensor softE id) 0 1 softE (by unfold Dev.errorless; decide +kernel) (by decide +kernel)
  obtain ⟨-, -, -, -, e, -⟩ := h (tensor tbE id) 0 1 tbE (by unfold Dev.errorless; decide +kernel) (by decide +kernel)
  obtain ⟨-, -, -, -, -, f⟩ := h (tensor idxE id) 0 1 idxE (by unfold Dev.errorless; decide +kernel) (by decide +kernel)
  obtain ⟨-, -, -, -, -, f'⟩ := h (tensorM idxE id [.mem (storeBase + 0x10800) [1]]) 0 1 idxE (by unfold Dev.errorless; decide +kernel) (by decide +kernel)
  refine ⟨?_, ?_, ?_, ?_, ?_, ?_, ?_, ?_, ?_⟩
  · exact ran_of_completes (a (by decide +kernel) (by decide +kernel) (by decide +kernel) ⟨granted_of (by decide +kernel), granted_of (by decide +kernel)⟩)
  · exact ran_of_completes (a' (by decide +kernel) (by decide +kernel) (by decide +kernel) ⟨granted_of (by decide +kernel), granted_of (by decide +kernel)⟩)
  · exact ran_of_completes (b (by decide +kernel) (granted_of (by decide +kernel)))
  · exact ran_of_completes ((c (by decide +kernel) (by decide +kernel) (by decide +kernel) (granted_of (by decide +kernel))).1 (by decide +kernel) (by decide +kernel))
  · exact ran_of_completes ((c' (by decide +kernel) (by decide +kernel) (by decide +kernel) (granted_of (by decide +kernel))).2 (by decide +kernel) (by decide) (by decide) (granted_of (by decide +kernel)))
  · exact ran_of_completes (d (by decide +kernel) (granted_of (by decide +kernel)))
  · exact ran_of_completes (e (by decide +kernel) tanhProg (by decide +kernel) (granted_of (by decide +kernel)))
  · exact ran_of_completes ((f (by decide +kernel) (granted_of (by decide +kernel))).1 (by decide +kernel))
  · exact ran_of_completes ((f' (by decide +kernel) (granted_of (by decide +kernel))).2 (by decide +kernel) (by decide +kernel))

/-- TLOAD of slot 2 from 0x50000, CT_LOAD of slot 0 with one class of two symbols. -/
def tloadE : Entry := sfE 0x16 2 0 (argBlock 8 [(0, 0x50000)])
def ctE : Entry := ent 0x2020 (4 + 512) 0 (argBlock 8 [(0, 0x50000)]) .running Run.start
/-- The image of a program of one segment and the steps SEG, END. -/
def image (id : Nat) : List Upd := [.mem (storeBase + 0x10000) (leBytes 2 id ++ [1, 2, 8, 1, 15, 0, 1]), .mem (storeBase + 0x10043) [0x60]]
def halves : List Upd := [.mem (storeBase + 0x10000) [0, 0x80, 0, 0x80]]
def sfUsed (c : Cluster) : Cluster := { c with sf := [(2, { SfSlot.blank with users1 := 1 })] }
def ctUsed (c : Cluster) : Cluster := { c with ct := [(0, { CtSlot.atWake with users1 := 1 })] }
def sfBad (c : Cluster) : Cluster := { c with sf := [(1, { SfSlot.atWake 1 with bad := true })], ct := [(3, { CtSlot.atWake with bad := true })] }

theorem witness_TableLoads (h : Obligations.TableLoads) :
    ran (.tload 0 1) (tensor tloadE sfUsed) ∧ ran (.tload 0 1) (tensor tloadE id) ∧ ran (.tloadFlip 0 1) (tensor tloadE sfUsed) ∧ ran (.tloadFlip 0 1) (tensorM tloadE id (image 0x100))
      ∧ ran (.tloadFlip 0 1) (tensor tloadE id) ∧ ran (.tloadFlip 0 1) (tensorM tloadE id (image 1)) ∧ ran (.ctLoad 0 0) (tensor ctE ctUsed) ∧ ran (.ctLoad 0 0) (tensor ctE id)
      ∧ ran (.ctLoadFlip 0 0) (tensor ctE ctUsed) ∧ ran (.ctLoadFlip 0 0) (tensorM ctE id halves) ∧ ran (.ctLoadFlip 0 0) (tensor ctE id)
      ∧ ran (.slotParityRewrite 0 false 1) (tensor tloadE sfBad) ∧ ran (.slotParityRewrite 0 false 15) (tensor tloadE sfBad) ∧ ran (.slotParityRewrite 0 true 3) (tensor tloadE sfBad)
      ∧ ran (.slotParityRewrite 0 true 15) (tensor tloadE sfBad) := by
  have p (s : State) (e : Entry) (a b c) := h s 0 1 0 e a b c
  obtain ⟨a1, -, -⟩ := p (tensor tloadE sfUsed) tloadE (by decide +kernel) (by decide +kernel) (by unfold Dev.errorless; decide +kernel)
  obtain ⟨a2, -, -⟩ := p (tensor tloadE id) tloadE (by decide +kernel) (by decide +kernel) (by unfold Dev.errorless; decide +kernel)
  obtain ⟨a3, -, -⟩ := p (tensorM tloadE id (image 0x100)) tloadE (by decide +kernel) (by decide +kernel) (by unfold Dev.errorless; decide +kernel)
  obtain ⟨a4, -, -⟩ := p (tensorM tloadE id (image 1)) tloadE (by decide +kernel) (by decide +kernel) (by unfold Dev.errorless; decide +kernel)
  obtain ⟨-, b1, -⟩ := p (tensor ctE ctUsed) ctE (by decide +kernel) (by decide +kernel) (by unfold Dev.errorless; decide +kernel)
  obtain ⟨-, b2, -⟩ := p (tensor ctE id) ctE (by decide +kernel) (by decide +kernel) (by unfold Dev.errorless; decide +kernel)
  obtain ⟨-, b3, -⟩ := p (tensorM ctE id halves) ctE (by decide +kernel) (by decide +kernel) (by unfold Dev.errorless; decide +kernel)
  obtain ⟨-, -, q⟩ := p (tensor tloadE sfBad) tloadE (by decide +kernel) (by decide +kernel) (by unfold Dev.errorless; decide +kernel)
  have a1 := a1 (by decide +kernel) (by decide +kernel)
  have a2 := a2 (by decide +kernel) (by decide +kernel)
  have a3 := a3 (by decide +kernel) (by decide +kernel)
  have a4 := a4 (by decide +kernel) (by decide +kernel)
  have b1 := b1 (by decide +kernel) (by decide +kernel)
  have b2 := b2 (by decide +kernel) (by decide +kernel)
  have b3 := b3 (by decide +kernel) (by decide +kernel)
  refine ⟨?_, ?_, ?_, ?_, ?_, ?_, ?_, ?_, ?_, ?_, ?_, ?_, ?_, ?_, ?_⟩
  · exact ran_of_completes (a1.1 (by decide +kernel))
  · exact ran_of_completes (a2.2.1 (by decide +kernel))
  · exact ran_of_becomes (a1.2.2.1 (by decide +kernel))
  · exact ran_of_completes ((a3.2.2.2 (by decide +kernel) (granted_of (by decide +kernel)) rfl rfl).1 (by decide +kernel) fun q => absurd q (by decide +kernel))
  · exact ran_of_completes ((a2.2.2.2 (by decide +kernel) (granted_of (by decide +kernel)) rfl rfl).2.1 (by decide +kernel) (by decide +kernel))
  · exact ran_of_completes ((a4.2.2.2 (by decide +kernel) (granted_of (by decide +kernel)) rfl rfl).2.2 (by decide +kernel) (by decide +kernel) (by decide +kernel))
  · exact ran_of_completes (b1.1 (by decide +kernel))
  · exact ran_of_completes (b2.2.1 (by decide +kernel))
  · exact ran_of_becomes (b1.2.2.1 (by decide +kernel))
  · exact ran_of_completes ((b3.2.2.2 (by decide +kernel) (granted_of (by decide +kernel)) rfl rfl).1 (by decide +kernel))
  · exact ran_of_completes ((b2.2.2.2 (by decide +kernel) (granted_of (by decide +kernel)) rfl rfl).2 (by decide +kernel) (by decide +kernel))
  · exact ran_of_completes ((q 1).1 (by decide +kernel))
  · exact ran_of_becomes ((q 15).2.1 (by decide +kernel))
  · exact ran_of_completes ((q 3).2.2.1 (by decide +kernel))
  · exact ran_of_becomes ((q 15).2.2.2 (by decide +kernel))

def ccArgs (limit : Nat) : List Byte := argBlock 8 [(0, 0x50000), (1, 0x50040), (2, 0x50800), (3, limit), (4, 0x50080), (5, 0x50C00)]
/-- One symbol in one chunk. -/
def encE (limit : Nat) : Entry := { ent 0x2021 (1 + 2 ^ 38) 0 (ccArgs limit) .running Run.start with captured := [⟨true, 0, 0⟩] }
def decE (u : Nat) : Entry := { ent 0x2022 2 0 (ccArgs 0) .running { Run.start with units := u } with captured := [⟨true, 0, 0⟩] }
def oneClass (c : Cluster) : Cluster := { c with ct := [(0, { CtSlot.atWake with bank0 := ⟨true, 1, 1, 0, 0, 0, 0, [32768, 32768]⟩ })] }
/-- CHUNK_SYMS of the record. -/
def recMem : List Upd := [.mem (storeBase + 0x10800 + 28) [1]]

theorem witness_CoderChunks (h : Obligations.CoderChunks) :
    ran (.ransEnc 0 0 false) (tensor (encE 4096) id) ∧ ran (.ransEnc 0 0 false) (tensor (encE 64) oneClass) ∧ ran (.ransEnc 0 0 false) (tensor (encE 4096) oneClass)
      ∧ ran (.ransDec 0 0 false) (tensor (decE 0) oneClass) ∧ ran (.ransDec 0 0 false) (tensorM (decE 1) id recMem) ∧ ran (.ransDec 0 0 false) (tensorM (decE 1) oneClass recMem) := by
  obtain ⟨a, -⟩ := h (tensor (encE 4096) id) 0 0 (encE 4096) (by unfold Dev.errorless; decide +kernel) (by decide +kernel)
  obtain ⟨b, -⟩ := h (tensor (encE 64) oneClass) 0 0 (encE 64) (by unfold Dev.errorless; decide +kernel) (by decide +kernel)
  obtain ⟨c, -⟩ := h (tensor (encE 4096) oneClass) 0 0 (encE 4096) (by unfold Dev.errorless; decide +kernel) (by decide +kernel)
  obtain ⟨-, d⟩ := h (tensor (decE 0) oneClass) 0 0 (decE 0) (by unfold Dev.errorless; decide +kernel) (by decide +kernel)
  obtain ⟨-, e⟩ := h (tensorM (decE 1) id recMem) 0 0 (decE 1) (by unfold Dev.errorless; decide +kernel) (by decide +kernel)
  obtain ⟨-, f⟩ := h (tensorM (decE 1) oneClass recMem) 0 0 (decE 1) (by unfold Dev.errorless; decide +kernel) (by decide +kernel)
  exact ⟨ran_of_completes ((a (by decide +kernel) (granted_of (by decide +kernel))).1 (by decide +kernel) (by decide +kernel)),
    ran_of_completes ((b (by decide +kernel) (granted_of (by decide +kernel))).2.1 (by decide +kernel) (by decide +kernel)),
    ran_of_completes ((c (by decide +kernel) (granted_of (by decide +kernel))).2.2 (by decide +kernel) (by decide +kernel)),
    ran_of_completes ((d (by decide +kernel) (granted_of (by decide +kernel))).1 rfl (by decide +kernel)),
    ran_of_completes (((e (by decide +kernel) (granted_of (by decide +kernel))).2 (.inl (by decide)) (granted_of (by decide +kernel))).1 (by decide +kernel) (by decide +kernel)),
    ran_of_completes (((f (by decide +kernel) (granted_of (by decide +kernel))).2 (.inl (by decide)) (granted_of (by decide +kernel))).2 (by decide +kernel))⟩

/-! ### Barges and locks -/

/-- Cluster 0 with a barge, lock 0 in the given state and its registers (a ring of two blocks at 0x50200), and some updates. -/
def barges (b : Barge) (x : Lock) (l : List Upd) : State :=
  machine { cluster0 flock0 with barges := [b], tags := tag5, locks := sset (fun _ => Lock.reset) [] 0 x }
    ([reg .lock 0 0 R.LK_CFG 3, reg .lock 0 0 R.LK_VBASE_LO 0x50200, reg .lock 0 0 R.LK_SIZE 1, reg .lock 0 0 R.LK_LIMITS 2] ++ l)
/-- A STRIDED descriptor of one element of two bytes; a GATHER of one entry. -/
def strideB (hdr src dst : Nat) : List Byte := argBlock 8 [(0, 0x40 + hdr), (1, src), (2, dst), (3, 2 + 2 ^ 32 + 2 ^ 48), (4, 1)]
def gatherB : List Byte := argBlock 8 [(0, 0x41), (1, 0x50800), (2, 0x50100), (3, 1)]
def bargeB (desc : List Byte) (st : BargeSt) : Barge := { Barge.fresh 9 5 (2 ^ 32) 0 desc [] with st := st }
def strided0 : Barge := bargeB (strideB 0 0x50000 0x50100) .active
/-- Its list as staging read it: two bytes from 0x50000, one row. -/
def gather0 : Barge := { bargeB gatherB .active with list := leBytes 6 0x50000 ++ leBytes 2 1 ++ leBytes 4 2 ++ leBytes 4 0 }

theorem strided_one {s : Dev} {i : Nat} {b : Barge} {e : Elem} (hg : b.gather = false) (hc : b.count 1 * b.count 2 * b.count 3 = 1) (h : s.bargeElem b i = some e) : i = 0 := by
  rw [Dev.bargeElem, hg] at h
  simp only [hc, Bool.false_eq_true, if_false] at h
  split at h
  · cases h
  · omega
theorem gather_one {s : Dev} {i : Nat} {b : Barge} {e : Elem} (hg : b.gather = true) (he : b.entries = 1) (hr : entryRows (b.entry 0) = 1) (h : s.bargeElem b i = some e) : i = 0 := by
  rw [Dev.bargeElem, hg, he] at h
  simp only [if_true, Barge.find, hr] at h
  by_cases hi : i < 1
  · omega
  · simp [hi] at h
@[irreducible] def sStrided : State := barges strided0 Lock.reset []
@[irreducible] def sGather : State := barges gather0 Lock.reset []
def elem0 : Elem := ⟨0x50000, 0x50100, 2, 0, 0⟩
theorem elS {i : Nat} {e : Elem} (h : sStrided.m.bargeElem strided0 i = some e) : i = 0 ∧ e = elem0 := by
  obtain rfl := strided_one (by decide) (by decide) h
  exact ⟨rfl, Option.some.inj (h.symm.trans (show sStrided.m.bargeElem strided0 0 = some elem0 by decide +kernel))⟩
theorem elG {i : Nat} {e : Elem} (h : sGather.m.bargeElem gather0 i = some e) : i = 0 ∧ e = elem0 := by
  obtain rfl := gather_one (by decide) (by decide) (by decide +kernel) h
  exact ⟨rfl, Option.some.inj (h.symm.trans (show sGather.m.bargeElem gather0 0 = some elem0 by decide +kernel))⟩
/-- The element's source and destination bytes are apart. -/
def apartB (s : Dev) : Prop :=
  ∀ j, j < 2 → ∀ i, i < 2 → s.dpaOf 0 0 (0x50100 + j) ≠ s.dpaOf 0 0 (0x50000 + i) ∧ (s.dpaOf 0 0 (0x50100 + j) = s.dpaOf 0 0 (0x50100 + i) → j = i)
theorem sStrided_apart : apartB sStrided.m := by unfold apartB; decide +kernel
theorem sGather_apart : apartB sGather.m := by unfold apartB; decide +kernel

theorem witness_BargesMoveElements (h : Obligations.BargesMoveElements) : ran (.strided 0 9) sStrided ∧ ran (.gather 0 9) sGather := by
  constructor
  · refine ran_of_completes (h sStrided 0 9 strided0 (by unfold Dev.errorless; decide +kernel) (by decide +kernel) rfl rfl rfl rfl rfl rfl rfl (by decide) (by decide +kernel)
      (fun i e hi => ?_) (fun i e i' e' j j' hi hi' hj hj' => ?_))
    · obtain ⟨rfl, rfl⟩ := elS hi
      exact ⟨by decide, by decide, granted_of (by decide +kernel)⟩
    · obtain ⟨rfl, rfl⟩ := elS hi
      obtain ⟨rfl, rfl⟩ := elS hi'
      have := sStrided_apart j hj j' hj'
      exact ⟨this.1, fun q => ⟨rfl, this.2 q⟩⟩
  · refine ran_of_completes (h sGather 0 9 gather0 (by unfold Dev.errorless; decide +kernel) (by decide +kernel) rfl rfl rfl rfl rfl rfl rfl (by decide) (by decide +kernel)
      (fun i e hi => ?_) (fun i e i' e' j j' hi hi' hj hj' => ?_))
    · obtain ⟨rfl, rfl⟩ := elG hi
      exact ⟨by decide, by decide, granted_of (by decide +kernel)⟩
    · obtain ⟨rfl, rfl⟩ := elG hi
      obtain ⟨rfl, rfl⟩ := elG hi'
      have := sGather_apart j hj j' hj'
      exact ⟨this.1, fun q => ⟨rfl, this.2 q⟩⟩

def queuedB (src : Nat) : Barge := bargeB (strideB 0 src 0x50100) .queued
/-- A barge that binds a block of lock 0 as its source or its destination. -/
def bindsSrc : Barge := bargeB (strideB 0x800 0 0x50100) .binding
def bindsDst : Barge := bargeB (strideB 0x1000 0x50000 0) .binding
def filledL : Lock := { Lock.reset with blks := [blk 0 true 0], seq := 1, nextIdx := 1 }
def request : BargeReq := ⟨0, 0x50000, storeBase + 0x10000, 0x50100, storeBase + 0x10100, 2⟩
def waitsB (cancel : Option Nat) : Barge := { strided0 with out := [request], cancel := cancel }
def hard : List Upd := [.bad (storeBase + 0x10000) true]
/-- The same as a prefetch (class 2). -/
def specB : Barge := { bargeB (strideB 0x200 0x50000 0x50100) .active with out := [request] }
def drained : Barge := bargeB (strideB 0 0x50000 0x50100) .draining
@[irreducible] def sQ (src : Nat) : State := barges (queuedB src) Lock.reset []
@[irreducible] def sBind : State := barges bindsSrc filledL []
@[irreducible] def sReq (c : Option Nat) (l : List Upd) : State := barges (waitsB c) Lock.reset l

theorem witness_BargeSteps (h : Obligations.BargeSteps) :
    ran (.bargeBind 0 9) (sQ 0x50000) ∧ ran (.bargeBind 0 9) (sQ 0x50101) ∧ ran (.bargeBind 0 9) sBind ∧ ran (.bargeRequestGrant 0) sStrided ∧ ran (.readResponse 0 9 0 .ok) (sReq none [])
      ∧ ran (.readResponse 0 9 0 .retried) (sReq (some 0x20) []) ∧ ran (.readResponse 0 9 0 .ok) (sReq (some 0x30) [])
      ∧ ran (.readResponse 0 9 0 .ok) (sReq none hard) ∧ ran (.readResponse 0 9 0 .ok) (barges specB Lock.reset hard)
      ∧ ran (.bargeComplete 0 9) (barges drained Lock.reset []) ∧ ran (.bargeComplete 0 9) sStrided := by
  have r (x : Option Nat) (l : List Upd) (hm : (sReq x l).m.barge (0 : Fin 2688) 9 = some (waitsB x)) := (h (sReq x l) 0 9 (waitsB x) hm).2.2.2.1 0 request rfl
  refine ⟨?_, ?_, ?_, ?_, ?_, ?_, ?_, ?_, ?_, ?_, ?_⟩
  · exact ran_of_completes (((h (sQ 0x50000) 0 9 (queuedB 0x50000) (by decide +kernel)).1 (by decide +kernel) rfl rfl rfl (by decide +kernel) (by decide) (by decide) (by decide) (by decide)
      (by decide +kernel) (by decide +kernel)).1 (by decide +kernel))
  · exact ran_of_completes (((h (sQ 0x50101) 0 9 (queuedB 0x50101) (by decide +kernel)).1 (by decide +kernel) rfl rfl rfl (by decide +kernel) (by decide) (by decide) (by decide) (by decide)
      (by decide +kernel) (by decide +kernel)).2 (by decide +kernel))
  · exact ran_of_completes ((h sBind 0 9 bindsSrc (by decide +kernel)).2.1 ⟨false, 0, 0⟩ (blk 0 true 0) (by decide +kernel) rfl rfl (by decide) rfl (by decide) (by decide +kernel)
      (by decide +kernel) (by decide +kernel))
  · exact ran_of_completes ((h sStrided 0 9 strided0 (by decide +kernel)).2.2.1 elem0 elem0 (by decide +kernel) (by decide +kernel) (by unfold Dev.untraced; decide +kernel) rfl rfl rfl
      (by decide) (by decide) (by decide +kernel) (by decide) (by decide) (by decide +kernel) (fun q => absurd q (by decide)) (granted_of (by decide +kernel)))
  · exact ran_of_completes ((r none [] (by decide +kernel) (by decide +kernel) (by decide +kernel) (by decide +kernel) (by decide +kernel) rfl).1 (by decide) (by decide) (by decide +kernel)
      (by decide +kernel))
  · exact ran_of_completes ((r (some 0x20) [] (by decide +kernel) (by decide +kernel) (by decide +kernel) (by decide +kernel) (by decide +kernel) rfl).2.1 (by decide) (by decide) (by decide +kernel)
      (by decide +kernel) (by unfold Dev.untraced; decide +kernel))
  · exact ran_of_completes ((r (some 0x30) [] (by decide +kernel) (by decide +kernel) (by decide +kernel) (by decide +kernel) (by decide +kernel) rfl).2.2.1 (.inl rfl) .ok)
  · exact ran_of_completes ((r none hard (by decide +kernel) (by decide +kernel) (by decide +kernel) (by decide +kernel) (by decide +kernel) rfl).2.2.2.1 (.inl rfl) rfl rfl (by decide) (by decide +kernel)
      (by decide +kernel) (by unfold Dev.untraced; decide +kernel) .ok)
  · exact ran_of_completes (((h (barges specB Lock.reset hard) 0 9 specB (by decide +kernel)).2.2.2.1 0 request rfl (by decide +kernel) (by decide +kernel) (by decide +kernel)
      (by decide +kernel) rfl).2.2.2.2 (.inl rfl) rfl rfl (by decide) (by decide +kernel) (by unfold Dev.untraced; decide +kernel) .ok)
  · exact ran_of_completes ((h (barges drained Lock.reset []) 0 9 drained (by decide +kernel)).2.2.2.2.1 rfl rfl rfl rfl rfl rfl)
  · exact ran_of_becomes ((h sStrided 0 9 strided0 (by decide +kernel)).2.2.2.2.2 (.inl (by decide)))

/-- A command of queue 0 of drover 0. -/
def cmd0 (st : CmdSt) : Command :=
  { key := 2 ^ 32, queue := 0, seq := 0, body := [], st := st, ctag := 0, order := 0, runOrder := 0, woke := false, resumed := false, replayed := false, killed := false, failed := false,
    status := 0, preemptReq := .none, preemptAt := 0, parkBy := .none, resumeReq := false, cancelReq := false, tStart := 0, started := false, saved := [], replays := 0, recovering := false,
    waitCtag := 0, wrote := [], epochs := [], captures := [], fast := false, stage := false, slots := false, fails := [], spareOf := 0 }
def waiter : LockWait := ⟨.barge 9, 0, 2 ^ 32, 0, 0, 0, 0⟩
@[irreducible] def lkOff : State := machine (cluster0 flock0) [reg .lock 0 0 R.LK_LIMITS 2, reg .lock 0 0 R.LK_SIZE 1]
@[irreducible] def sProd : State := barges bindsDst { Lock.reset with prodWait := [waiter] } []
@[irreducible] def sCons : State := barges bindsSrc { filledL with consWait := [waiter] } []
/-- The command waits for a block of a full ring that it holds itself. -/
@[irreducible] def sCycle : State := barges bindsDst { filledL with
  blks := [{ blk 0 true 1 with holders := [(0, 2 ^ 32)] }, { blk 1 true 1 with holders := [(0, 2 ^ 32)] }]
  prodWait := [waiter] } [reg .aoc 20 0 R.AOC_WAITDET_CTRL 1, .drover 0 { Drover.reset with cmds := [cmd0 .running] }]
@[irreducible] def sWatch : State := machine (cluster0 flock0) [reg .aoc 20 0 R.AOC_WAITDET_CTRL 1]

@[irreducible] def sUnwatched : State := machine (cluster0 flock0) [reg .aoc 20 0 R.AOC_WAITDET_CTRL 0]

theorem witness_LockRegistersAndGrants (h : Obligations.LockRegistersAndGrants) :
    ran (.lkCfgWrite 0 10752 1) lkOff ∧ ran (.lkCfgWrite 0 0 3) lkOff ∧ ran (.lkCfgWrite 0 64 3) lkOff ∧ ran (.lkCtrlRearm 0 0 255) lkOff ∧ ran (.csPoolCfgWrite 0 0 6) lkOff
      ∧ ran (.lockProducerGrant false 0 0) lkOff ∧ ran (.lockConsumerGrant false 0 0 7) sCons ∧ ran (.lockProducerGrant false 0 0) sProd ∧ ran (.lockConsumerGrant false 0 0 0) sCons
      ∧ ran .waitdetEvaluate sUnwatched ∧ ran .waitdetEvaluate sWatch ∧ ran .waitdetEvaluate sCycle := by
  have p (i : Fin 11776) (v : BitVec 32) := h lkOff 0 i 0 v false 0 0 0 (by decide +kernel)
  obtain ⟨a, -⟩ := p 10752 1 (by decide +kernel)
  obtain ⟨-, b, -⟩ := p 0 3 (by decide +kernel)
  obtain ⟨-, -, c, -⟩ := p 64 3 (by decide +kernel)
  obtain ⟨-, -, -, d, -⟩ := p 0 255 (by decide +kernel)
  obtain ⟨-, -, -, -, e, f, -⟩ := p 0 6 (by decide +kernel)
  obtain ⟨-, -, -, -, -, -, g⟩ := h sUnwatched 0 0 0 0 false 0 0 0 (by decide +kernel) (by decide +kernel)
  obtain ⟨-, -, -, -, -, i, -⟩ := h sCons 0 0 0 0 false 0 0 7 (by decide +kernel) (by decide +kernel)
  obtain ⟨-, -, -, -, -, j, -⟩ := h sCons 0 0 0 0 false 0 0 0 (by decide +kernel) (by decide +kernel)
  obtain ⟨-, -, -, -, -, k, -⟩ := h sProd 0 0 0 0 false 0 0 0 (by decide +kernel) (by decide +kernel)
  obtain ⟨-, -, -, -, -, -, l⟩ := h sWatch 0 0 0 0 false 0 0 0 (by decide +kernel) (by decide +kernel)
  obtain ⟨-, -, -, -, -, -, m⟩ := h sCycle 0 0 0 0 false 0 0 0 (by decide +kernel) (by decide +kernel)
  exact ⟨ran_of_completes (a (by decide +kernel) (by decide +kernel)), ran_of_completes (b (by decide +kernel) (by decide +kernel)), ran_of_becomes (c (by decide +kernel)).1,
    ran_of_completes (d (by decide +kernel)), ran_of_becomes ((e (by decide +kernel)).1 (by decide +kernel)), ran_of_becomes (f.1 (by decide +kernel)),
    ran_of_becomes (i.2.1 (.inl (by decide +kernel))),
    ran_of_completes (k.2.2.1 waiter 9 bindsDst 0 (by decide +kernel) rfl (by decide +kernel) rfl rfl (by decide +kernel) (by decide) (by decide) rfl (by decide +kernel) (by decide +kernel)
      (by decide +kernel) (by decide +kernel) (by decide +kernel) (by decide +kernel) (by decide +kernel)),
    ran_of_completes (j.2.2.2 waiter 9 bindsSrc (blk 0 true 0) (by decide +kernel) rfl (by decide +kernel) rfl rfl (by decide +kernel) (by decide) rfl (by decide) (by decide)
      (by decide +kernel) (by decide +kernel) (by decide +kernel)),
    ran_of_becomes (g.1 (by decide +kernel)), ran_of_becomes (l.2.1 (by decide +kernel) (by decide +kernel)),
    ran_of_completes (m.2.2 (by decide +kernel) (by decide +kernel) (by decide +kernel))⟩

/-! ### Stacks, translation and its fault queue -/

@[irreducible] def stkS (x : Stack) (l : List Upd) : State := machine (cluster0 flock0) (.stack 0 x :: reg .stk 0 0 R.STK_SCRUB_CTRL 0x300 :: l)
def span0 (v : Nat) : Upd := reg .span 20 0 (4 * 45) v
def span47 (v : Nat) : Upd := reg .span 20 0 (4 * 47) v

def spent : Stack := { Stack.reset with sparing := [5], listUsed := 512 }
theorem witness_StackUpkeep (h : Obligations.StackUpkeep) :
    ran (.scrubRead 0 0) (stkS Stack.reset [.oneBit 0 true]) ∧ ran (.scrubRead 31 50331647) (stkS Stack.reset [])
      ∧ ran (.patrolRowSpare 0 5) (stkS { Stack.reset with sparing := [5] } []) ∧ ran (.patrolRowSpare 0 5) (stkS spent []) ∧ ran (.patrolRowSpare 0 5) (stkS Stack.reset []) ∧ ran (.stackTempSample 0 109) (stkS Stack.reset [])
      ∧ ran (.stackTempSample 31 0) (stkS Stack.reset []) ∧ ran (.refreshIntervalChange 0) (stkS { Stack.reset with refreshNext := 2 } []) ∧ ran (.refreshIntervalChange 0) (stkS Stack.reset [])
      ∧ ran (.memSpanModeWrite 45 0) (stkS Stack.reset [span0 0x20]) ∧ ran (.memSpanModeWrite 45 3) (stkS Stack.reset [span0 0x20])
      ∧ ran (.memSpanModeWrite 45 1) (stkS Stack.reset [span0 0x20]) ∧ ran (.memSpanModeWrite 47 0) (stkS Stack.reset [span47 0]) ∧ ran (.memSpanModeWrite 47 1) (stkS Stack.reset [span47 0])
      ∧ ran (.spanDrained 45) (stkS Stack.reset [span0 0x10]) ∧ ran (.spanDrained 45) (stkS Stack.reset [span0 0x20]) := by
  obtain ⟨a, -⟩ := h (stkS Stack.reset [.oneBit 0 true]) 0 0 0 0 0 (by decide +kernel)
  obtain ⟨-, b, -⟩ := h (stkS Stack.reset []) 31 50331647 0 0 0 (by decide +kernel)
  obtain ⟨-, -, c, -⟩ := h (stkS { Stack.reset with sparing := [5] } []) 0 5 0 0 0 (by decide +kernel)
  obtain ⟨-, -, -, c', -⟩ := h (stkS spent []) 0 5 0 0 0 (by decide +kernel)
  obtain ⟨-, -, -, -, d, e, -⟩ := h (stkS Stack.reset []) 0 5 109 0 0 (by decide +kernel)
  obtain ⟨-, -, -, -, -, -, f, -⟩ := h (stkS Stack.reset []) 31 0 0 0 0 (by decide +kernel)
  obtain ⟨-, -, -, -, -, -, -, g, -⟩ := h (stkS { Stack.reset with refreshNext := 2 } []) 0 0 0 0 0 (by decide +kernel)
  obtain ⟨-, -, -, -, -, -, -, -, i, -⟩ := h (stkS Stack.reset []) 0 0 0 0 0 (by decide +kernel)
  obtain ⟨-, -, -, -, -, -, -, -, -, j, -, -, -, -, -, p⟩ := h (stkS Stack.reset [span0 0x20]) 0 0 0 45 0 (by decide +kernel)
  obtain ⟨-, -, -, -, -, -, -, -, -, -, k, -⟩ := h (stkS Stack.reset [span0 0x20]) 0 0 0 45 3 (by decide +kernel)
  obtain ⟨-, -, -, -, -, -, -, -, -, -, -, l, -⟩ := h (stkS Stack.reset [span0 0x20]) 0 0 0 45 1 (by decide +kernel)
  obtain ⟨-, -, -, -, -, -, -, -, -, -, -, -, m, -⟩ := h (stkS Stack.reset [span47 0]) 0 0 0 47 0 (by decide +kernel)
  obtain ⟨-, -, -, -, -, -, -, -, -, -, -, -, -, n, -⟩ := h (stkS Stack.reset [span47 0]) 0 0 0 47 1 (by decide +kernel)
  obtain ⟨-, -, -, -, -, -, -, -, -, -, -, -, -, -, o, -⟩ := h (stkS Stack.reset [span0 0x10]) 0 0 0 45 0 (by decide +kernel)
  exact ⟨ran_of_completes (a (by decide +kernel) (by decide +kernel) (by unfold Dev.untraced; decide +kernel) (by decide +kernel) (by decide +kernel)), ran_of_becomes (b (.inl (by decide +kernel))),
    ran_of_completes (c (by decide +kernel) (by decide +kernel) (by decide +kernel) (by unfold Dev.untraced; decide +kernel)), ran_of_completes (c' (by decide +kernel) (by decide +kernel) (by decide +kernel)), ran_of_becomes (d (.inr (by decide +kernel))),
    ran_of_completes (e (by decide +kernel) (by decide) (by decide +kernel)), ran_of_becomes (f (by decide +kernel)), ran_of_completes (g (by decide +kernel) (by decide +kernel)),
    ran_of_becomes (i (.inr (by decide +kernel))), ran_of_becomes (j (by decide) (by decide +kernel)), ran_of_becomes (k (by decide) (by decide +kernel) (.inr (by decide))),
    ran_of_completes (l (by decide) (by decide +kernel) (by decide +kernel) (by decide)), ran_of_becomes (m (by decide) (by decide +kernel) (by decide +kernel)),
    ran_of_becomes (n (by decide) (.inl (by decide +kernel))), ran_of_becomes (o (by decide +kernel)), ran_of_becomes (p (by decide +kernel))⟩

def mat0 (st : Stage) : Entry := ent 1 (1 + 2 ^ 24 + 65 * 2 ^ 40) (15 * 2 ^ 12) [] st Run.start
@[irreducible] def dieS (m : DieMem) (st : Stage) (l : List Upd) : State := machine { cluster0 flock0 with entries := [mat0 st], tags := tag5 } (.die 0 m :: l)
def walk0 : Walk := ⟨⟨3, 0, 0, 0, 9⟩, 5, 0, 0x60000, 0, true, false⟩
def walking : DieMem := { DieMem.reset with walks := [walk0] }
def faultR (gone : Bool) : FaultRec := ⟨⟨3, 0, 0, 0, 9⟩, 5, 0, 0x60000, 1, 0, 0, gone⟩
def faulty (gone : Bool) : DieMem := { DieMem.reset with fq := [faultR gone] }
def behind : DieMem := { DieMem.reset with backlog := [faultR false] }
def inv (v : Nat) : Upd := reg .dmmu 20 0 R.DMMU_INV_CTRL v

theorem witness_TranslationAndFaultQueue (h : Obligations.TranslationAndFaultQueue) :
    ran (.pageWalk 0 0) (dieS walking .staged (tables ++ (List.range 30).map fun i => on (66 + i))) ∧ ran (.pageWalk 0 0) (dieS walking .staged []) ∧ ran (.pageWalk 0 1) (dieS walking .staged [])
      ∧ ran (.faultBacklogPost 0) (dieS behind .faulted []) ∧ ran (.faultBacklogPost 0) (dieS walking .staged []) ∧ ran (.faultResume 0) (dieS walking .staged [])
      ∧ ran (.faultResume 0) (dieS (faulty true) .faulted []) ∧ ran (.faultKill 0) (dieS (faulty false) .faulted []) ∧ ran (.dmmuRootWrite false 0x1001) (dieS walking .staged [])
      ∧ ran (.dmmuRootWrite false 2) (dieS walking .staged []) ∧ ran (.dmmuRootWrite true 0x3FFF) (dieS walking .staged []) ∧ ran (.dmmuRootWrite true 0xFFFFC000) (dieS walking .staged [])
      ∧ ran .dmmuInvalidate (dieS walking .staged [inv 0x80000000]) ∧ ran .dmmuInvalidate (dieS walking .staged []) ∧ ran .dmmuInvalidateDone (dieS walking .staged [inv 0x80000000])
      ∧ ran .dmmuInvalidateDone (dieS walking .staged []) := by
  have p (n : Nat) (v : BitVec 32) := h (dieS walking .staged []) 0 n v (by decide +kernel)
  obtain ⟨a, -⟩ := h (dieS walking .staged (tables ++ (List.range 30).map fun i => on (66 + i))) 0 0 0 (by decide +kernel)
  obtain ⟨b, -, -, e, f, -⟩ := p 0 0
  obtain ⟨-, c, -⟩ := p 1 0
  obtain ⟨-, -, d, -⟩ := h (dieS behind .faulted []) 0 0 0 (by decide +kernel)
  obtain ⟨-, -, -, -, -, g, -⟩ := h (dieS (faulty true) .faulted []) 0 0 0 (by decide +kernel)
  obtain ⟨-, -, -, -, -, i, -⟩ := h (dieS (faulty false) .faulted []) 0 0 0 (by decide +kernel)
  obtain ⟨-, -, -, -, -, -, ⟨j, -⟩, -⟩ := p 0 0x1001
  obtain ⟨-, -, -, -, -, -, ⟨-, k, -⟩, -⟩ := p 0 2
  obtain ⟨-, -, -, -, -, -, ⟨-, -, l, -⟩, -⟩ := p 0 0x3FFF
  obtain ⟨-, -, -, -, -, -, ⟨-, -, -, m⟩, n, o, q, r⟩ := p 0 0xFFFFC000
  obtain ⟨-, -, -, -, -, -, -, s, -, t, -⟩ := h (dieS walking .staged [inv 0x80000000]) 0 0 0 (by decide +kernel)
  refine ⟨ran_of_completes ((a walk0 (by decide +kernel) (by decide) (by decide) (by unfold Dev.errorless; decide +kernel) (by decide +kernel)).1 ⟨0, 30, 0, true, true, false, 0, false⟩
      (by decide +kernel)),
    ran_of_completes ((b walk0 (by decide +kernel) (by decide) (by decide) (by unfold Dev.errorless; decide +kernel) (by decide +kernel)).2 1 0 (mat0 .staged) (by decide +kernel) (by decide) rfl
      (by decide) (by decide) (by decide +kernel) (by decide) (by unfold Dev.untraced; decide +kernel)),
    ran_of_becomes (c (by decide +kernel)), ran_of_completes (d (faultR false) [] (by decide +kernel) (by decide +kernel)), ran_of_becomes (e (.inl (by decide +kernel))),
    ran_of_becomes (f (.inr (by decide +kernel))).1, ran_of_completes ((g (faultR true) [] (by decide +kernel) (by decide +kernel)).1 rfl).1,
    ran_of_completes ((i (faultR false) [] (by decide +kernel) (by decide +kernel)).2 (mat0 .faulted) rfl (by decide) (by decide) (by decide +kernel) rfl).2,
    ran_of_becomes (j (by decide +kernel)), ran_of_becomes (k (by decide +kernel)), ran_of_becomes (l (by decide +kernel)), ran_of_becomes (m (by decide +kernel)),
    ran_of_completes (s (by decide +kernel)), ran_of_completes (o (by decide +kernel)), ran_of_completes (t (by decide +kernel)), ran_of_becomes (r (by decide +kernel))⟩

/-! ### Video pipelines and sluices -/

/-- Die 0 with its units on and the page in its translation cache. -/
@[irreducible] def dieU (p : Pipe) (x : Sluice) (l : List Upd) : State :=
  after ([reg .dmmu 20 0 R.DMMU_ROOT_LO 1, on 0, on 1, on 3, .die 0 { DieMem.reset with tlb := [page] }, .pipe 0 p, .sluice 0 x] ++ ((List.range 32).map fun i => on (64 + i)) ++ l)
def jobs (l : List BvJob) (xs : List BvStream) : Pipe := { Pipe.reset with jobs := l, streams := xs }
def job (j : SlJob) : Sluice := { Sluice.reset with job := some j }
/-- Rings at 0x10000 and 0x12000 of 16 entries, with these counts produced. -/
def rings (rb : RB) (prod cpl : Nat) : List Upd :=
  [reg rb 0 0 R.BV_RING_CFG (2 ^ 31 + 4), reg rb 0 0 R.BV_RING_BASE_LO 0x10000, reg rb 0 0 R.BV_JOB_PROD prod, reg rb 0 0 R.BV_CRING_CFG 4, reg rb 0 0 R.BV_CRING_BASE_LO 0x12000,
    reg rb 0 0 R.BV_CPL_PROD cpl]
def doneJ : BvJob := { BvJob.new 0 [] with st := .done }
def slJ (bytes : List Byte) (record : Option (List Byte)) : SlJob := ⟨0, bytes, 0, [], 0, 0, false, false, record, [], 0⟩
def doneS : SlJob := slJ [] (some (List.replicate 64 0))

theorem witness_DieUnitRings (h : Obligations.DieUnitRings) :
    ran (.bvJobFetch 0 0) (dieU Pipe.reset Sluice.reset (rings .bv 16 0)) ∧ ran (.bvJobFetch 0 0) (dieU Pipe.reset Sluice.reset (rings .bv 17 0))
      ∧ ran (.slJobFetch 0 0) (dieU Pipe.reset Sluice.reset (rings .sl 16 0)) ∧ ran (.slJobFetch 0 0) (dieU Pipe.reset Sluice.reset (rings .sl 17 0))
      ∧ ran (.bvCompletionWrite 0 0) (dieU (jobs [doneJ] []) Sluice.reset (rings .bv 0 16)) ∧ ran (.bvCompletionWrite 0 0) (dieU (jobs [doneJ] []) Sluice.reset (rings .bv 0 15))
      ∧ ran (.slCompletionWrite 0 0) (dieU Pipe.reset (job doneS) (rings .sl 0 16)) ∧ ran (.slCompletionWrite 0 0) (dieU Pipe.reset (job doneS) (rings .sl 0 15))
      ∧ ran (.bvRingCfgWrite 0 0 0x80000003) (dieU Pipe.reset Sluice.reset []) ∧ ran (.bvRingCfgWrite 0 0 12) (dieU Pipe.reset Sluice.reset [])
      ∧ ran (.bvRingCfgWrite 0 0 0x8000000C) (dieU Pipe.reset Sluice.reset []) ∧ ran (.bvKeyReq 0 0 15) (dieU Pipe.reset Sluice.reset [])
      ∧ ran (.bvGroupCtrlWrite 0 1) (dieU Pipe.reset Sluice.reset (rings .bv 16 0)) ∧ ran (.bvGroupCtrlWrite 0 10) (dieU Pipe.reset Sluice.reset [])
      ∧ ran (.slPreempt 0 0) (dieU Pipe.reset Sluice.reset []) := by
  have z (v : BitVec 32) := h (dieU Pipe.reset Sluice.reset []) 0 0 0 15 v (by decide +kernel)
  have p (x : Pipe) (y : Sluice) (l : List Upd) hs := h (dieU x y l) 0 0 0 0 0 hs
  obtain ⟨a, -⟩ := p Pipe.reset Sluice.reset (rings .bv 16 0) (by decide +kernel)
  obtain ⟨b, -⟩ := p Pipe.reset Sluice.reset (rings .bv 17 0) (by decide +kernel)
  obtain ⟨-, c, -⟩ := p Pipe.reset Sluice.reset (rings .sl 16 0) (by decide +kernel)
  obtain ⟨-, d, -⟩ := p Pipe.reset Sluice.reset (rings .sl 17 0) (by decide +kernel)
  obtain ⟨-, -, e, -⟩ := p (jobs [doneJ] []) Sluice.reset (rings .bv 0 16) (by decide +kernel)
  obtain ⟨-, -, f, -⟩ := p (jobs [doneJ] []) Sluice.reset (rings .bv 0 15) (by decide +kernel)
  obtain ⟨-, -, -, g, -⟩ := p Pipe.reset (job doneS) (rings .sl 0 16) (by decide +kernel)
  obtain ⟨-, -, -, i, -⟩ := p Pipe.reset (job doneS) (rings .sl 0 15) (by decide +kernel)
  have j (v : BitVec 32) := (z v).2.2.2.2.1 (by decide +kernel)
  have k := (h (dieU Pipe.reset Sluice.reset (rings .bv 16 0)) 0 0 0 15 1 (by decide +kernel)).2.2.2.2.2.1 (by decide +kernel)
  have k' := (z 10).2.2.2.2.2.1 (by decide +kernel)
  exact ⟨ran_of_completes ((a (by decide +kernel) (by decide +kernel) (by decide +kernel)).1 (by decide +kernel) (by unfold Dev.errorless; decide +kernel) (dieGranted_of (by decide +kernel))),
    ran_of_completes ((b (by decide +kernel) (by decide +kernel) (by decide +kernel)).2 (by decide +kernel)),
    ran_of_completes ((c (by decide +kernel) (by decide +kernel) (by decide +kernel)).1 (by decide +kernel) (by unfold Dev.errorless; decide +kernel) (dieGranted_of (by decide +kernel))),
    ran_of_completes ((d (by decide +kernel) (by decide +kernel) (by decide +kernel)).2 (by decide +kernel)),
    ran_of_completes ((e doneJ (by decide +kernel) (by decide +kernel)).1 (by decide +kernel)),
    ran_of_completes ((f doneJ (by decide +kernel) (by decide +kernel)).2 (by decide +kernel) (by decide) (by unfold Dev.errorless; decide +kernel) (dieGranted_of (by decide +kernel))),
    ran_of_completes ((g doneS _ (by decide +kernel) rfl (by decide +kernel)).1 (by decide +kernel)),
    ran_of_completes ((i doneS _ (by decide +kernel) rfl (by decide +kernel)).2 (by decide +kernel) (by decide) (by unfold Dev.errorless; decide +kernel) (dieGranted_of (by decide +kernel))),
    ran_of_becomes ((j 0x80000003).1 (by decide) (by decide)), ran_of_becomes ((j 12).2.1 (by decide)), ran_of_completes ((j 0x8000000C).2.2.1 (by decide) (by decide) (by decide)),
    ran_of_completes (j 0).2.2.2.2.2, ran_of_becomes (k.1 (by decide +kernel)), ran_of_becomes (k'.2 (by decide +kernel)),
    ran_of_becomes ((z 0).2.2.2.2.2.2 (by decide +kernel)).1⟩

/-- OPEN_ENC of stream 15: HEVC, 16 × 16, LOW. -/
def encOpen : List Byte := argBlock 16 [(0, 0xF01), (2, 0x100 + 30 * 2 ^ 16 + 16 * 2 ^ 32 + 16 * 2 ^ 48), (3, 1 + 2 ^ 32), (7, 0x10000), (8, 17)]
def decOpen : List Byte := argBlock 16 [(0, 0xF02), (2, 16 * 2 ^ 32 + 16 * 2 ^ 48), (3, 2), (4, 0x10000), (5, 17)]
def encJ (pitch : Nat) (st : BvSt) : BvJob := { BvJob.new 0 (argBlock 16 [(0, 0xF10), (4, 0x10000), (5, 0x11000), (6, 0x12000), (7, pitch + 64 * 2 ^ 32), (8, 0x13000), (9, 4)]) with
  st := st
  bands := 1 }
def decJ (pitch : Nat) (st : BvSt) : BvJob := { BvJob.new 0 (argBlock 16 [(0, 0xF11), (4, 0x10000), (5, 16), (6, 0x11000), (7, 0x12000), (8, 0x13000), (9, pitch + 64 * 2 ^ 32)]) with
  st := st
  bands := 1
  lo := 16
  hi := 16
  level := 8 }
def closeJ (v : Nat) : BvJob := BvJob.new 0 (argBlock 16 [(0, 0xF20), (15, v)])
def openJ (b : List Byte) : BvJob := BvJob.new 0 b
def encX : BvStream := BvStream.start (openJ encOpen)
def decX : BvStream := BvStream.start (openJ decOpen)
/-- Such streams with a context of one page, which holds every band's state. -/
def encY : BvStream := BvStream.start (openJ (encOpen.take 64 ++ leBytes 8 1 ++ encOpen.drop 72))
def decY : BvStream := BvStream.start (openJ (decOpen.take 40 ++ leBytes 8 1 ++ decOpen.drop 48))
def oneJ (j : BvJob) (xs : List BvStream) : State := dieU (jobs [j] xs) Sluice.reset []

theorem encY_ctx (j : BvJob) : encY.ctxAcc j = ⟨0x10000, 65536, accWrite⟩ := by
  unfold BvStream.ctxAcc
  rw [show max 1 (encY.ctxLen / 65536) = 1 by decide, Nat.mod_one]
  decide
theorem decY_ctx (j : BvJob) : decY.ctxAcc j = ⟨0x10000, 65536, accWrite⟩ := by
  unfold BvStream.ctxAcc
  rw [show max 1 (decY.ctxLen / 65536) = 1 by decide, Nat.mod_one]
  decide
@[irreducible] def sEnc : State := oneJ (encJ 64 .coding) [encY]
@[irreducible] def sDec : State := oneJ (decJ 64 .coding) [decY]
theorem sEnc_granted : sEnc.m.dieGranted (0 : Fin 16) (sEnc.m.encAccs (0 : Fin 16) encY (encJ 64 .coding)) := by
  unfold Dev.encAccs
  rw [encY_ctx]
  exact dieGranted_of (by decide +kernel)
theorem sDec_granted : sDec.m.dieGranted (0 : Fin 16) (decAccs decY (decJ 64 .coding)) := by
  unfold decAccs
  rw [decY_ctx]
  exact dieGranted_of (by decide +kernel)
theorem sEnc_wait : sEnc.m.bandWait (0 : Fin 16) (0 : Fin 8) (encJ 64 .coding) = none := by
  unfold Dev.bandWait
  rw [show sEnc.m.bvStream (0 : Fin 16) (0 : Fin 8) (encJ 64 .coding).stream = some encY by decide +kernel]
  dsimp only
  unfold Dev.encAccs
  rw [encY_ctx]
  decide +kernel
theorem sDec_wait : sDec.m.bandWait (0 : Fin 16) (0 : Fin 8) (decJ 64 .coding) = none := by
  unfold Dev.bandWait
  rw [show sDec.m.bvStream (0 : Fin 16) (0 : Fin 8) (decJ 64 .coding).stream = some decY by decide +kernel]
  dsimp only
  unfold decAccs
  rw [decY_ctx]
  decide +kernel
theorem encOut_granted : ∀ n, n ≤ 4 → dieGrantedB sEnc.m (0 : Fin 16) [⟨0x13000, n, accWrite⟩] = true := by decide +kernel

theorem ran_of_zero {a : Nat} {p : Prop} {c : Instr} {s : State} {P Q : Dev → Prop} (h : (a = 0 → p → completes c s P) ∧ (a ≠ 0 → completes c s Q)) (q : p ∨ a ≠ 0) :
    ran c s := (Decidable.em (a = 0)).elim (fun x => ran_of_completes (h.1 x (q.resolve_right fun w => w x))) fun x => ran_of_completes (h.2 x)

/-- What the decoder finds in the access unit is a free value: the last two clauses of DEC_AU divide by it. -/
theorem witness_VideoJobs (h : Obligations.VideoJobs) :
    ran (.openEnc 0 0) (oneJ (openJ encOpen) []) ∧ ran (.openEnc 0 0) (oneJ (openJ encOpen) [encX]) ∧ ran (.openDec 0 0) (oneJ (openJ decOpen) [])
      ∧ ran (.encPic 0 0) (oneJ (encJ 64 .fetched) []) ∧ ran (.encPic 0 0) (oneJ (encJ 1 .fetched) [encX]) ∧ ran (.encPic 0 0) (oneJ (encJ 64 .fetched) [encX])
      ∧ ran (.decAu 0 0) (oneJ (decJ 1 .fetched) [decX])
      ∧ (let st := oneJ (decJ 64 .fetched) [decX]
        let hd := Config.decHead decX.coder decX.av1 (st.m.vaBytes (0 : Fin 16) 168 ((decJ 64 .fetched).u 32 6) ((decJ 64 .fetched).u 40 4))
        hd.shown = true ∨ seqFlags (st.m.bvMembers (0 : Fin 16) (0 : Fin 8)) decX hd ≠ 0 → ran (.decAu 0 0) (oneJ (decJ 64 .fetched) [decX]))
      ∧ ran (.close 0 0) (oneJ (closeJ 1) [encX]) ∧ ran (.close 0 0) (oneJ (closeJ 0) [encX]) ∧ ran (.bvBand 0 0) (oneJ (encJ 64 .placed) [encX]) ∧ ran (.bvBand 0 0) sDec
      ∧ ran (.bvBand 0 0) sEnc ∧ ran (.bvWatchdogExpiry 0 0 3) sDec := by
  have p (j : BvJob) (xs : List BvStream) (x : BvStream) (blk : Nat) hs h1 h2 hj := h (oneJ j xs) 0 0 j x blk hs h1 h2 hj
  obtain ⟨a, -⟩ := p (openJ encOpen) [] encX 0 (by decide +kernel) (by decide +kernel) (by decide +kernel) (by decide +kernel)
  obtain ⟨b, -⟩ := p (openJ encOpen) [encX] encX 0 (by decide +kernel) (by decide +kernel) (by decide +kernel) (by decide +kernel)
  obtain ⟨-, c, -⟩ := p (openJ decOpen) [] decX 0 (by decide +kernel) (by decide +kernel) (by decide +kernel) (by decide +kernel)
  obtain ⟨-, -, d, -⟩ := p (encJ 64 .fetched) [] encX 0 (by decide +kernel) (by decide +kernel) (by decide +kernel) (by decide +kernel)
  obtain ⟨-, -, e, -⟩ := p (encJ 1 .fetched) [encX] encX 0 (by decide +kernel) (by decide +kernel) (by decide +kernel) (by decide +kernel)
  obtain ⟨-, -, f, -⟩ := p (encJ 64 .fetched) [encX] encX 0 (by decide +kernel) (by decide +kernel) (by decide +kernel) (by decide +kernel)
  obtain ⟨-, -, -, g, -⟩ := p (decJ 1 .fetched) [decX] decX 0 (by decide +kernel) (by decide +kernel) (by decide +kernel) (by decide +kernel)
  obtain ⟨-, -, -, i, -⟩ := p (decJ 64 .fetched) [decX] decX 0 (by decide +kernel) (by decide +kernel) (by decide +kernel) (by decide +kernel)
  obtain ⟨-, -, -, -, j, -⟩ := p (closeJ 1) [encX] encX 0 (by decide +kernel) (by decide +kernel) (by decide +kernel) (by decide +kernel)
  obtain ⟨-, -, -, -, k, -⟩ := p (closeJ 0) [encX] encX 0 (by decide +kernel) (by decide +kernel) (by decide +kernel) (by decide +kernel)
  obtain ⟨-, -, -, -, -, o, -⟩ := p (encJ 64 .placed) [encX] encX 0 (by decide +kernel) (by decide +kernel) (by decide +kernel) (by decide +kernel)
  obtain ⟨-, -, -, -, -, -, l, -⟩ := h sDec 0 0 (decJ 64 .coding) decY 3 (by decide +kernel) (by decide +kernel) (by decide +kernel) (by decide +kernel)
  obtain ⟨-, -, -, -, -, -, -, n⟩ := h sDec 0 0 (decJ 64 .coding) decY 3 (by decide +kernel) (by decide +kernel) (by decide +kernel) (by decide +kernel)
  obtain ⟨-, -, -, -, -, -, m, -⟩ := h sEnc 0 0 (encJ 64 .coding) encY 0 (by decide +kernel) (by decide +kernel) (by decide +kernel) (by decide +kernel)
  have i := (i (by decide +kernel)).2 (by decide +kernel) (by decide) (by decide +kernel) rfl (by unfold Dev.errorless; decide +kernel) (dieGranted_of (by decide +kernel))
  have m := (m (by decide +kernel) (by decide +kernel) (by decide +kernel) (by unfold Dev.errorless; decide +kernel) sEnc_wait).2 (by decide) (by decide) (by decide) (by decide) rfl
    sEnc_granted
  refine ⟨ran_of_completes ((a (by decide +kernel)).1 (by decide +kernel)), ran_of_completes ((b (by decide +kernel)).2 (by decide +kernel)),
    ran_of_completes ((c (by decide +kernel)).1 (by decide +kernel)), ran_of_completes ((d (by decide +kernel)).1 (by decide +kernel)),
    ran_of_completes ((e (by decide +kernel)).2.1 (by decide +kernel) (by decide +kernel)),
    ran_of_completes (((f (by decide +kernel)).2.2 (by decide +kernel) (by decide) (by decide +kernel) (by decide +kernel)).1 (by decide)),
    ran_of_completes ((g (by decide +kernel)).1 (by decide +kernel) (.inr (by decide +kernel))), fun q => ?_,
    ran_of_completes ((j (by decide +kernel)).1 (.inr (by decide +kernel))),
    ran_of_completes ((k (by decide +kernel)).2 (by decide +kernel) (by decide +kernel) (by decide) (by decide +kernel)),
    ran_of_completes (o (by decide +kernel) (by decide +kernel) rfl),
    ran_of_completes ((l (by decide +kernel) (by decide +kernel) (by decide +kernel) (by unfold Dev.errorless; decide +kernel) sDec_wait).1 (by decide) sDec_granted), ?_,
    ran_of_completes (n (by decide +kernel) (by decide +kernel) (by decide +kernel))⟩
  · exact ran_of_zero i q
  · exact (Nat.lt_or_ge _ _).elim (fun y => ran_of_completes (m.1 y)) fun y => ran_of_completes (m.2 y (dieGranted_of (encOut_granted _ (Nat.le_trans (by simp) y))))

/-- A sluice job of operation `o`: these words set. -/
def slBytes (l : List (Nat × Nat)) : List Byte := argBlock 8 l
def slC (inLen outLen : Nat) : SlJob := slJ (slBytes [(0, 1 + 6 * 2 ^ 16), (2, 0x10000), (3, inLen + outLen * 2 ^ 32), (4, 0x1F000)]) none
def slD : SlJob := slJ (slBytes [(0, 2), (2, 0x10000), (3, 2 + 100 * 2 ^ 32), (4, 0x11000)]) none
def slBad : SlJob := slJ (slBytes [(0, 3)]) none
def slAt (j : SlJob) (l : List Upd) : State := dieU Pipe.reset (job j) (.mem 0x20000 [3, 0] :: l)

theorem slBlock_pos (dict data : List Byte) (j : SlJob) (hd : data.isEmpty = false) :
    (slBlock dict data j).bytes = j.bytes ∧ (slBlock dict data j).pos ≤ j.pos + j.block := by
  have hb : ((data.drop j.pos).take j.block).length ≤ j.block := by rw [List.length_take]; exact Nat.min_le_left _ _
  have e : slBlock dict data j = if data.isEmpty then { j with outBits := j.outBits ++ [true, true, false] ++ List.replicate 7 false, blocks := j.blocks + 1, pos := 1 }
    else _ := rfl
  rw [hd, if_neg Bool.false_ne_true] at e
  rw [e]
  dsimp only
  split <;> exact ⟨rfl, Nat.add_le_add_left hb _⟩

theorem slBlock_not_coded (dict data : List Byte) (hd : data.length = 16385) : (slBlock dict data (slC 16385 100)).coded = false := by
  obtain ⟨hb, hp⟩ := slBlock_pos dict data (slC 16385 100) (by cases data with
    | nil => cases hd
    | cons => rfl)
  have hl : (slBlock dict data (slC 16385 100)).inLen = 16385 := by unfold SlJob.inLen SlJob.u; rw [hb]; decide +kernel
  have hq : (slC 16385 100).pos + (slC 16385 100).block = 16384 := by decide +kernel
  unfold SlJob.coded
  rw [hl, if_neg (by decide)]
  exact decide_eq_false (by omega)

theorem bytesAt_length (s : Dev) (a n : Nat) : (s.bytesAt a n).length = n := by unfold Dev.bytesAt; simp

theorem witness_SluiceJobs (h : Obligations.SluiceJobs) :
    ran (.compress 0 0) (slAt slBad []) ∧ ran (.decompress 0 0) (slAt slBad []) ∧ ran (.compress 0 0) (slAt (slC 0 100) []) ∧ ran (.compress 0 0) (slAt (slC 0 1) [])
      ∧ ran (.decompress 0 0) (slAt slD []) ∧ ran (.slCheckpointStop 0 0) (slAt (slC 16385 100) [reg .sl 0 0 R.SL_CTRL 1]) ∧ ran (.slCancel 0 0) (slAt slD []) := by
  have p (j : SlJob) (l : List Upd) hs h1 hj h2 h3 h4 h5 := h (slAt j l) 0 0 j hs h1 hj h2 h3 h4 h5
  obtain ⟨a, -⟩ := p slBad [] (by decide +kernel) (by decide +kernel) (by decide +kernel) (by decide +kernel) (by decide +kernel) rfl rfl
  obtain ⟨-, b, -⟩ := p (slC 0 100) [] (by decide +kernel) (by decide +kernel) (by decide +kernel) (by decide +kernel) (by decide +kernel) rfl rfl
  obtain ⟨-, c, -⟩ := p (slC 0 1) [] (by decide +kernel) (by decide +kernel) (by decide +kernel) (by decide +kernel) (by decide +kernel) rfl rfl
  obtain ⟨-, -, d, -, e⟩ := p slD [] (by decide +kernel) (by decide +kernel) (by decide +kernel) (by decide +kernel) (by decide +kernel) rfl rfl
  obtain ⟨-, -, -, f, -⟩ := p (slC 16385 100) [reg .sl 0 0 R.SL_CTRL 1] (by decide +kernel) (by decide +kernel) (by decide +kernel) (by decide +kernel) (by decide +kernel) rfl rfl
  have a := a (by decide +kernel) (by decide +kernel)
  have b := b (by decide +kernel) (by decide +kernel) (by decide) (by unfold Dev.errorless; decide +kernel) (dieGranted_of (by decide +kernel)) (by decide +kernel)
  have c := c (by decide +kernel) (by decide +kernel) (by decide) (by unfold Dev.errorless; decide +kernel) (dieGranted_of (by decide +kernel)) (by decide +kernel)
  have d := d (by decide +kernel) (by decide +kernel) (by decide) (by unfold Dev.errorless; decide +kernel) (dieGranted_of (by decide +kernel))
  have f := f (by decide +kernel) (by decide +kernel) (by decide +kernel) (by decide) (by unfold Dev.errorless; decide +kernel) (dieGranted_of (by decide +kernel)) (by decide +kernel)
  have hl : ((slAt (slC 16385 100) [reg .sl 0 0 R.SL_CTRL 1]).m.vaBytes (0 : Fin 16) 168 (slC 16385 100).inVa (slC 16385 100).inLen).length = 16385 := by
    unfold Dev.vaBytes
    rw [show pagePieces (slC 16385 100).inVa (slC 16385 100).inLen = [(0x10000, 16385)] from by decide +kernel]
    simp only [List.flatMap_cons, List.flatMap_nil, List.append_nil, bytesAt_length]
  exact ⟨ran_of_completes a.1, ran_of_completes a.2, ran_of_completes (b.1 (by decide +kernel) (dieGranted_of (by decide +kernel))), ran_of_completes (c.2 (by decide +kernel)),
    ran_of_completes (d ⟨0, 0, 2, 0, 0, 1, 0, 0⟩ (by decide +kernel) (by decide +kernel) (dieGranted_of (by decide +kernel))), ran_of_completes (f (slBlock_not_coded _ _ hl)), ran_of_completes e⟩

/-! ### Links -/

/-- Link die 16's first ports on, sub-port 0 of port 0 up, with these links; lock 0 of cluster 0 a ring of two blocks of 256 bytes; of one open block. -/
@[irreducible] def linkL (bs : List LockBlk) (x : Links) (l : List Upd) : State :=
  machine { cluster0 flock0 with locks := [(0, { Lock.reset with blks := bs, seq := bs.length, nextIdx := bs.length % 2 })] }
    ([on 96, reg .lnk 16 0 R.LNK_PORT_STATUS 1, .links x, reg .lock 0 0 R.LK_CFG 3, reg .lock 0 0 R.LK_VBASE_LO 0x50200, reg .lock 0 0 R.LK_SIZE 4, reg .lock 0 0 R.LK_LIMITS 2] ++ l)
def linkS (x : Links) (l : List Upd) : State := linkL [blk 0 false 0] x l
def withCls (c : Classifier) : Links := { Links.reset with cls := c }
def zeros (n : Nat) : List Byte := List.replicate n 0
/-- An IPv4 datagram of this protocol; a UDP datagram to this port. -/
def ipF (proto : Nat) (b : List Byte) : List Byte := zeros 12 ++ [8, 0, 0x45] ++ zeros 8 ++ leBytes 1 proto ++ zeros 10 ++ b
def udpF (port : Nat) (b : List Byte) : List Byte := ipF 17 (zeros 2 ++ beBytes 2 port ++ beBytes 2 (8 + b.length) ++ zeros 2 ++ b)
def rxf (b : List Byte) (macsec : Nat) (icrc excess : Bool) : RxFrame := ⟨b, macsec, icrc, excess, 0⟩
/-- Flow 0 by its destination port 5004: everything (KIND 4). -/
def entry4 : List Byte := argBlock 8 [(0, 4 + 2 ^ 48), (3, 5004)]
def entry1 : List Byte := argBlock 8 [(0, 1 + 2 ^ 48), (4, 16 * 2 ^ 16 + 16 * 2 ^ 32), (5, 64 * 2 ^ 32)]
def entry2 : List Byte := argBlock 8 [(0, 2 + 2 ^ 48), (4, 2 * 2 ^ 32)]
def clsA : Classifier := { Classifier.reset with bank0 := [(0, entry4)] }
def heldL (f : HeldFrame) : Links := { Links.reset with ports := [(0, { Port.reset with held := [(0, f)] })] }
def tx0 : TxPkt := ⟨0, 0, 0x1000, 0, 0, 0, 0, 0, [], 0, 0⟩
def chan0 : Links := { Links.reset with ports := [(0, { Port.reset with sas := [(1, ⟨0, 1, 0, false⟩)] })] }
def openB (e : List Byte) : OpenBlk := ⟨⟨false, 0, 0⟩, 0, storeBase + 0x10200, false, e, 0, 0, 0, 0, 0, 0, 0, 0, 16, [], 0, 0, 0⟩
def flow1 (e : List Byte) : Flow := { Flow.reset with started := true, high := 2 ^ 32 + 100, seen := [2 ^ 32 + 100], cur := some (openB e), audio := some (2 ^ 32 + 101) }
/-- A packet of flow 7 of this number; one flow is open. -/
def packet (e : List Byte) (seq : Nat) (b : List Byte) : Packet := ⟨7, 0, e, 0, [0x80, 0] ++ beBytes 2 seq ++ zeros 8 ++ b, 0⟩
def flowing (e : List Byte) (seq : Nat) (b : List Byte) : Links := withCls { Classifier.reset with flight := [packet e seq b], flows := [(7, flow1 e)] }
/-- One segment of 4 bytes at row 0, column 0. -/
def seg0 : List Byte := [0, 0, 0, 4, 0, 0, 0, 0, 1, 2, 3, 4]

theorem witness_FramesReceived (h : Obligations.IngressFramesAndFlows) :
    let rx (uncorr : Nat) (fcs ov : Bool) (f : RxFrame) (s : State) : Prop := ran (.frameReceive 0 0 1 uncorr fcs ov f) s
    let s0 := linkS (withCls clsA) []
    let z := zeros 50
    rx 0 true false (rxf z 0 true false) thr ∧ rx 0 true false (rxf (zeros 9213) 0 true false) s0 ∧ rx 0 true false (rxf (zeros 59) 0 true false) s0
      ∧ rx 0 true true (rxf (zeros 60) 0 true false) s0 ∧ rx 0 false false (rxf (zeros 60) 0 true false) s0 ∧ rx 1 true false (rxf (zeros 9212) 0 true false) s0
      ∧ rx 0 true false (rxf (zeros 60) 1 true false) (linkS Links.reset [reg .lnk 16 0 R.LNK_PORT_CTRL 2]) ∧ rx 0 true false (rxf (zeros 60) 1 true false) s0
      ∧ rx 0 true false (rxf (udpF 4791 z) 0 true false) s0 ∧ rx 0 true false (rxf (udpF 4791 z) 0 false false) s0
      ∧ rx 0 true false (rxf (udpF 319 z) 0 true false) s0 ∧ rx 0 true false (rxf (udpF 320 z) 0 true false) (linkS Links.reset [reg .ld0 16 0 R.PTP_CTRL 256, reg .ld0 16 0 R.PTP_PORTS 128])
      ∧ rx 0 true false (rxf (ipF 1 z) 0 true true) s0 ∧ rx 0 true false (rxf (ipF 2 z) 0 true false) s0
      ∧ rx 0 true false (rxf (udpF 5003 z) 0 true false) s0 ∧ rx 0 true false (rxf (udpF 5004 z) 0 true false) s0
      ∧ rx 0 true false (rxf (udpF 5003 z) 1 true false) (linkS chan0 [reg .lnk 16 0 R.LNK_PORT_CTRL 2]) ∧ rx 0 true false (rxf (ipF 6 z) 0 true false) s0 := by
  have q (s : State) (u : Nat) (fcs ov : Bool) (f : RxFrame) hs hc := h s 0 0 1 u fcs ov f 0 0 0 0 hs hc
  have ok : (linkS (withCls clsA) []).sound = true := by decide +kernel
  have oc : canonical (fun _ => Flow.reset) (linkS (withCls clsA) []).m.links.cls.flows = true := by decide +kernel
  have up : (linkS (withCls clsA) []).m.subUp (0 : Fin 24) (0 : Fin 4) = true := by decide +kernel
  have r (u : Nat) (fcs ov : Bool) (f : RxFrame) := (q (linkS (withCls clsA) []) u fcs ov f ok oc).2.1 up
  have fr : bitAt ((linkS (withCls clsA) []).m.preg (0 : Fin 24) (fiReg 1 0)) 0 = false ∧ ((linkS (withCls clsA) []).m.port (0 : Fin 24)).held.any (fun x => x.1 == 1) = false := by decide +kernel
  have v (f : RxFrame) (ha : 64 ≤ f.bytes.length + 4) (hb : f.bytes.length + 4 ≤ 9216) := (r 0 true false f).2.2.2 ha hb rfl fr
  have w (f : RxFrame) (ha : 64 ≤ f.bytes.length + 4) (hb : f.bytes.length + 4 ≤ 9216) (hm : f.macsec = 0) := ((v f ha hb).2 rfl rfl).2.2 (.inl ⟨by decide +kernel, hm⟩)
  obtain ⟨d, -⟩ := q thr 0 true false (rxf (zeros 50) 0 true false) (by decide +kernel) (by decide +kernel)
  obtain ⟨-, e, -⟩ := q (linkS Links.reset [reg .lnk 16 0 R.LNK_PORT_CTRL 2]) 0 true false (rxf (zeros 60) 1 true false) (by decide +kernel) (by decide +kernel)
  obtain ⟨-, f, -⟩ := q (linkS Links.reset [reg .ld0 16 0 R.PTP_CTRL 256, reg .ld0 16 0 R.PTP_PORTS 128]) 0 true false (rxf (udpF 320 (zeros 50)) 0 true false) (by decide +kernel)
    (by decide +kernel)
  obtain ⟨-, g, -⟩ := q (linkS chan0 [reg .lnk 16 0 R.LNK_PORT_CTRL 2]) 0 true false (rxf (udpF 5003 (zeros 50)) 1 true false) (by decide +kernel) (by decide +kernel)
  refine ⟨ran_of_becomes (d (by decide +kernel)), ran_of_completes ((r 0 true false _).1 (by decide +kernel)), ran_of_completes ((r 0 true false _).2.1 (by decide +kernel)),
    ran_of_completes ((r 0 true true _).2.2.1 (by decide) (by decide) rfl), ran_of_completes (((r 0 false false _).2.2.2 (by decide) (by decide) rfl fr).1 (.inl rfl)),
    ran_of_completes (((r 1 true false _).2.2.2 (by decide +kernel) (by decide +kernel) rfl fr).1 (.inr (by decide))), ?_,
    ran_of_completes (((v _ (by decide) (by decide)).2 rfl rfl).2.1 (by decide +kernel) (by decide)), ?_, ?_, ?_, ?_, ?_, ?_, ?_, ?_, ?_, ?_⟩
  · exact ran_of_completes ((((e (by decide +kernel)).2.2.2 (by decide) (by decide) rfl (by decide +kernel)).2 rfl rfl).1 (.inr (by decide +kernel)))
  · exact ran_of_completes ((w _ (by decide) (by decide) rfl).1 (by decide +kernel) rfl (by decide +kernel))
  · exact ran_of_completes ((w _ (by decide) (by decide) rfl).2.1 (by decide +kernel) (.inl rfl))
  · exact ran_of_completes (((w _ (by decide) (by decide) rfl).2.2.1 (by decide +kernel)).1 (by decide +kernel))
  · exact ran_of_completes ((((((f (by decide +kernel)).2.2.2 (by decide) (by decide) rfl (by decide +kernel)).2 rfl rfl).2.2 (.inl (by decide +kernel))).2.2.1 (by decide +kernel)).2 0 (by decide +kernel))
  · exact ran_of_completes (((w _ (by decide) (by decide) rfl).2.2.2.1 (by decide +kernel)).1 rfl)
  · exact ran_of_completes (((w _ (by decide) (by decide) rfl).2.2.2.1 (by decide +kernel)).2 rfl)
  · exact ran_of_completes (((w _ (by decide) (by decide) rfl).2.2.2.2.1 (by decide +kernel) (by decide +kernel) (by decide +kernel) (by decide +kernel)).1 (by decide +kernel))
  · exact ran_of_completes (((w _ (by decide) (by decide) rfl).2.2.2.2.1 (by decide +kernel) (by decide +kernel) (by decide +kernel) (by decide +kernel)).2 (0, entry4, 0) (by decide +kernel))
  · exact ran_of_completes ((((((g (by decide +kernel)).2.2.2 (by decide) (by decide) rfl (by decide +kernel)).2 rfl rfl).2.2 (.inr (.inr (by decide +kernel)))).2.2.2.2.1 (by decide +kernel)
      (by decide +kernel) (by decide +kernel) (by decide +kernel)).1 (by decide +kernel))
  · exact ran_of_completes ((w _ (by decide) (by decide) rfl).2.2.2.2.2 (by decide +kernel) (by decide +kernel))

theorem witness_PacketsPlaced (h : Obligations.IngressFramesAndFlows) :
    let place (e : List Byte) (seq : Nat) (b : List Byte) : Prop := ran (.packetPlace 0) (linkS (flowing e seq b) [])
    place entry4 (2 ^ 16 - 3996) seg0 ∧ place entry1 100 seg0 ∧ place entry1 101 [] ∧ place entry1 101 seg0 ∧ place entry2 101 (zeros 96) ∧ place entry4 101 (zeros 5)
      ∧ ran (.fiReorderRelease 0 0) (linkS Links.reset []) ∧ ran (.fiReorderRelease 0 0) (linkS (heldL ⟨none, some tx0, 0, 0, 0⟩) [])
      ∧ ran (.flowTimeout 7) (linkS (flowing entry1 0 []) []) ∧ ran (.flowTimeout 7) (linkS Links.reset []) := by
  have q (x : Links) (e : Fin 65536) hs hc := h (linkS x []) 0 0 0 0 true true (rxf [] 0 true true) 0 0 e 0 hs hc
  have f (e : List Byte) (seq : Nat) (b : List Byte) hs hc (hf : (linkS (flowing e seq b) []).m.links.cls.flight[0]? = some (packet e seq b)) := (q (flowing e seq b) 7 hs hc).2.2.2.1 _ hf
  have a1 := f entry4 (2 ^ 16 - 3996) seg0 (by decide +kernel) (by decide +kernel) (by decide +kernel) (by decide +kernel)
  have a2 := f entry1 100 seg0 (by decide +kernel) (by decide +kernel) (by decide +kernel) (by decide +kernel)
  have a3 := f entry1 101 [] (by decide +kernel) (by decide +kernel) (by decide +kernel) (by decide +kernel)
  have a4 := f entry1 101 seg0 (by decide +kernel) (by decide +kernel) (by decide +kernel) (by decide +kernel)
  have a5 := f entry2 101 (zeros 96) (by decide +kernel) (by decide +kernel) (by decide +kernel) (by decide +kernel)
  have a6 := f entry4 101 (zeros 5) (by decide +kernel) (by decide +kernel) (by decide +kernel) (by decide +kernel)
  obtain ⟨-, -, b, -, c, -⟩ := q Links.reset 7 (by decide +kernel) (by decide +kernel)
  obtain ⟨-, -, d, -⟩ := q (heldL ⟨none, some tx0, 0, 0, 0⟩) 7 (by decide +kernel) (by decide +kernel)
  obtain ⟨-, -, -, -, e, -⟩ := q (flowing entry1 0 []) 7 (by decide +kernel) (by decide +kernel)
  refine ⟨ran_of_completes (a1.1 (by decide +kernel)), ran_of_completes (a2.2.1 (by decide +kernel) (by decide +kernel)),
    ran_of_completes (a3.2.2.1 (by decide +kernel) (by decide +kernel) (by decide +kernel)), ?_, ?_, ?_, ran_of_becomes (b.1 (by decide +kernel)),
    ran_of_completes (d.2 (0, ⟨none, some tx0, 0, 0, 0⟩) (by decide +kernel)), ran_of_completes (e.2 (openB entry1) (by decide +kernel)), ran_of_becomes (c.1 (by decide +kernel))⟩
  · exact ran_of_completes ((a4.2.2.2 (by decide +kernel) (by decide +kernel) (by decide +kernel) (openB entry1) (by decide +kernel) rfl).1 (by decide +kernel) (by decide +kernel)
      (by decide +kernel) (by decide +kernel) (by decide +kernel) (by decide +kernel) ⟨by unfold Dev.errorless; decide +kernel, by decide +kernel⟩)
  · exact ran_of_completes ((a5.2.2.2 (by decide +kernel) (by decide +kernel) (by decide +kernel) (openB entry2) (by decide +kernel) rfl).2.1 (by decide +kernel) (2 ^ 32 + 101)
      (by decide +kernel) (by decide +kernel) (by decide +kernel) (by decide +kernel) ⟨by unfold Dev.errorless; decide +kernel, by decide +kernel⟩)
  · exact ran_of_completes ((a6.2.2.2 (by decide +kernel) (by decide +kernel) (by decide +kernel) (openB entry4) (by decide +kernel) rfl).2.2 (by decide +kernel) (by decide +kernel)
      (by decide +kernel) ⟨by unfold Dev.errorless; decide +kernel, by decide +kernel⟩)

def runC (op count : Nat) : Links := withCls { Classifier.reset with running := some ⟨op, 0, count, 0⟩ }
def adopting (l : List Nat) : Links := withCls { Classifier.reset with epoch := 1, adopted := l, flows := [(7, flow1 entry1)] }

theorem witness_ClassifierReload (h : Obligations.IngressFramesAndFlows) :
    ran .clsCopy (linkS (runC 1 0) []) ∧ ran .clsLoad (linkS (runC 1 0) []) ∧ ran .clsCopy (linkS Links.reset []) ∧ ran .clsLoad (linkS Links.reset [])
      ∧ ran .clsLoad (linkS Links.reset [reg .ld0 16 0 R.CLS_LOAD_FIRST 65535, reg .ld0 16 0 R.CLS_LOAD_COUNT 2])
      ∧ ran .clsLoad (linkS Links.reset [reg .ld0 16 0 R.CLS_LOAD_FIRST 65535, reg .ld0 16 0 R.CLS_LOAD_COUNT 1]) ∧ ran .clsFlip (linkS (runC 1 0) []) ∧ ran .clsFlip (linkS Links.reset [])
      ∧ ran .clsOpDone (linkS Links.reset []) ∧ ran .clsOpDone (linkS (runC 1 0) []) ∧ ran .clsOpDone (linkS (runC 2 1) []) ∧ ran (.clsFlipAdopt 7) (linkS Links.reset [])
      ∧ ran (.clsFlipAdopt 7) (linkS (adopting [0, 1, 1, 1, 1, 1, 1, 0]) []) ∧ ran (.clsFlipAdopt 7) (linkS (adopting [1, 1, 1, 1, 1, 1, 1, 0]) []) := by
  have q (x : Links) (l : List Upd) hs hc := (h (linkS x l) 0 0 0 0 true true (rxf [] 0 true true) 0 0 0 7 hs hc).2.2.2.2.2
  obtain ⟨a, -, b, -, -, c, -⟩ := q (runC 1 0) [] (by decide +kernel) (by decide +kernel)
  obtain ⟨-, d, -, e, f, -, -, g, -⟩ := q Links.reset [] (by decide +kernel) (by decide +kernel)
  obtain ⟨-, i, -⟩ := q Links.reset [reg .ld0 16 0 R.CLS_LOAD_FIRST 65535, reg .ld0 16 0 R.CLS_LOAD_COUNT 2] (by decide +kernel) (by decide +kernel)
  obtain ⟨-, j, -⟩ := q Links.reset [reg .ld0 16 0 R.CLS_LOAD_FIRST 65535, reg .ld0 16 0 R.CLS_LOAD_COUNT 1] (by decide +kernel) (by decide +kernel)
  obtain ⟨-, -, -, -, -, -, k, -⟩ := q (runC 2 1) [] (by decide +kernel) (by decide +kernel)
  obtain ⟨-, -, -, -, -, -, -, -, l⟩ := q (adopting [0, 1, 1, 1, 1, 1, 1, 0]) [] (by decide +kernel) (by decide +kernel)
  obtain ⟨-, -, -, -, -, -, -, -, m⟩ := q (adopting [1, 1, 1, 1, 1, 1, 1, 0]) [] (by decide +kernel) (by decide +kernel)
  have a := a (.inl (.inl (by decide +kernel)))
  have d := d (by decide +kernel) (by decide +kernel)
  have i := i (by decide +kernel) (by decide +kernel)
  have j := j (by decide +kernel) (by decide +kernel)
  refine ⟨ran_of_becomes a.1, ran_of_becomes a.2, ran_of_becomes d.1, ran_of_becomes (d.2.1 (by decide +kernel)), ran_of_becomes (i.2.1 (by decide +kernel)),
    ran_of_becomes (j.2.2 (by decide +kernel) (by decide +kernel)), ran_of_becomes (b (by decide +kernel)), ran_of_becomes (e (by decide +kernel)), ran_of_becomes (f (by decide +kernel)),
    ran_of_becomes (c ⟨1, 0, 0, 0⟩ (by decide +kernel) rfl),
    ran_of_completes (k ⟨2, 0, 1, 0⟩ (by decide +kernel) rfl (by unfold Dev.errorless; decide +kernel) (by decide +kernel)), ran_of_becomes (g (by decide +kernel)),
    ran_of_becomes ((l (by decide +kernel)).1 (by decide +kernel)), ran_of_completes ((m (by decide +kernel)).2 (by decide +kernel))⟩

/-! ### RoCE -/

/-- A queue pair's entry: its state, its flags, lock 0 of cluster 0 for both directions, retry and RNR limits. -/
def qpe (st flags tmo rnr : Nat) : List Byte := argBlock 8 [(0, st + flags * 256), (3, 0x8000 + 0x8000 * 2 ^ 32), (6, tmo * 2 ^ 48 + rnr * 2 ^ 56)]
def qp0 : Qp := { Qp.reset with entry := qpe 1 0x30 0x72 1, rcvPsn := 100, msgs := [⟨0, 50, 60⟩] }
def roceL (q : Qp) (b : List Byte) : Links := { Links.reset with
  qps := [(7, q)]
  roce := [⟨0, 0, 0, b, false⟩]
  windows := [(0, leBytes 8 (storeBase + 0x12000) ++ leBytes 4 1 ++ leBytes 4 (2 ^ 21 + 2 ^ 20 + 2 ^ 19))] }
/-- A WRITE or READ request of 4 bytes: its operation, PSN and key, then data. -/
def reth (op psn key len : Nat) (b : List Byte) : List Byte := bth op 0 7 psn true ++ zeros 8 ++ beBytes 4 key ++ beBytes 4 len ++ b
def aeth (syn : Nat) : List Byte := bth 0x11 0 7 60 false ++ beBytes 1 syn ++ zeros 3
def sendP (psn n : Nat) : List Byte := bth 4 0 7 psn true ++ zeros n
def stacksOn : List Upd := (List.range 30).map fun i => on (66 + i)
def roceS (b : List Byte) : State := linkL [blk 0 false 0] (roceL qp0 b) (tables ++ stacksOn)
def fullB : List LockBlk := [blk 0 false 0, blk 1 false 0]

theorem witness_RoceReceives (h : Obligations.RoceConnections) :
    ran (.roceInboundSend 0) (linkS Links.reset []) ∧ ran (.roceCnp 0) (linkS (roceL Qp.reset (bth 0x81 0 7 0 false)) []) ∧ ran (.roceInboundSend 0) (roceS (sendP 101 4))
      ∧ ran (.roceInboundRead 0) (roceS (reth 0x0C 101 0 4 [])) ∧ ran (.roceInboundWrite 0) (roceS (reth 0x0A 99 0 4 (zeros 4)))
      ∧ ran (.roceInboundSend 0) (linkL fullB (roceL qp0 (sendP 100 4)) []) ∧ ran (.roceInboundSend 0) (roceS (sendP 100 260)) ∧ ran (.roceInboundSend 0) (roceS (sendP 100 256))
      ∧ ran (.roceInboundWrite 0) (roceS (reth 0x0A 100 1 4 (zeros 4))) ∧ ran (.roceInboundWrite 0) (roceS (reth 0x0A 100 0 8 (zeros 4)))
      ∧ ran (.roceInboundWrite 0) (roceS (reth 0x0A 100 0 64 (zeros 64))) ∧ ran (.roceInboundRead 0) (roceS (reth 0x0C 100 1 4 [])) ∧ ran (.roceInboundRead 0) (roceS (reth 0x0C 100 0 64 []))
      ∧ ran (.roceInboundRead 0) (roceS (reth 0x0C 99 0 3 [])) ∧ ran (.roceInboundAtomic 0) (roceS (bth 0x13 0 7 100 true)) ∧ ran (.roceAck 0) (roceS (aeth 0x1F))
      ∧ ran (.roceNak 0) (roceS (aeth 0x20)) ∧ ran (.roceNak 0) (linkS (roceL { qp0 with rnr := 1 } (aeth 0x20)) []) ∧ ran (.roceNak 0) (roceS (aeth 0x60))
      ∧ ran (.roceNak 0) (roceS (aeth 0x61)) ∧ ran (.roceCnp 0) (roceS (bth 0x81 0 7 0 false)) := by
  have p (s : State) i x hs := h s 0 7 0 [] 0 0 i x hs
  have u (b : List Byte) hs hf hc := (p (roceS b) 0 ⟨0, 0, 0, b, false⟩ hs).2.1 hf hc
  obtain ⟨a, -⟩ := p (linkS Links.reset []) 0 ⟨0, 0, 0, [], false⟩ (by unfold Dev.untraced; decide +kernel)
  obtain ⟨b, -⟩ := p (linkS (roceL Qp.reset (bth 0x81 0 7 0 false)) []) 0 ⟨0, 0, 0, bth 0x81 0 7 0 false, false⟩ (by unfold Dev.untraced; decide +kernel)
  obtain ⟨c, -⟩ := u (sendP 101 4) (by unfold Dev.untraced; decide +kernel) (by decide +kernel) (by unfold Dev.clearTx; decide +kernel)
  obtain ⟨d, -⟩ := u (reth 0x0C 101 0 4 []) (by unfold Dev.untraced; decide +kernel) (by decide +kernel) (by unfold Dev.clearTx; decide +kernel)
  obtain ⟨-, e, -⟩ := u (reth 0x0A 99 0 4 (zeros 4)) (by unfold Dev.untraced; decide +kernel) (by decide +kernel) (by unfold Dev.clearTx; decide +kernel)
  obtain ⟨-, -, f, -⟩ := (p (linkL fullB (roceL qp0 (sendP 100 4)) []) 0 ⟨0, 0, 0, sendP 100 4, false⟩ (by unfold Dev.untraced; decide +kernel)).2.1 (by decide +kernel)
    (by unfold Dev.clearTx; decide +kernel)
  obtain ⟨-, -, g, -⟩ := u (sendP 100 260) (by unfold Dev.untraced; decide +kernel) (by decide +kernel) (by unfold Dev.clearTx; decide +kernel)
  obtain ⟨-, -, i, -⟩ := u (sendP 100 256) (by unfold Dev.untraced; decide +kernel) (by decide +kernel) (by unfold Dev.clearTx; decide +kernel)
  obtain ⟨-, -, -, j, -⟩ := u (reth 0x0A 100 1 4 (zeros 4)) (by unfold Dev.untraced; decide +kernel) (by decide +kernel) (by unfold Dev.clearTx; decide +kernel)
  obtain ⟨-, -, -, k, -⟩ := u (reth 0x0A 100 0 8 (zeros 4)) (by unfold Dev.untraced; decide +kernel) (by decide +kernel) (by unfold Dev.clearTx; decide +kernel)
  obtain ⟨-, -, -, l, -⟩ := u (reth 0x0A 100 0 64 (zeros 64)) (by unfold Dev.untraced; decide +kernel) (by decide +kernel) (by unfold Dev.clearTx; decide +kernel)
  obtain ⟨-, -, -, -, m, -⟩ := u (reth 0x0C 100 1 4 []) (by unfold Dev.untraced; decide +kernel) (by decide +kernel) (by unfold Dev.clearTx; decide +kernel)
  obtain ⟨-, -, -, -, n, -⟩ := u (reth 0x0C 100 0 64 []) (by unfold Dev.untraced; decide +kernel) (by decide +kernel) (by unfold Dev.clearTx; decide +kernel)
  obtain ⟨-, -, -, -, o, -⟩ := u (reth 0x0C 99 0 3 []) (by unfold Dev.untraced; decide +kernel) (by decide +kernel) (by unfold Dev.clearTx; decide +kernel)
  obtain ⟨-, -, -, -, -, r, -⟩ := u (bth 0x13 0 7 100 true) (by unfold Dev.untraced; decide +kernel) (by decide +kernel) (by unfold Dev.clearTx; decide +kernel)
  obtain ⟨-, -, -, -, -, -, t, -⟩ := u (aeth 0x1F) (by unfold Dev.untraced; decide +kernel) (by decide +kernel) (by unfold Dev.clearTx; decide +kernel)
  obtain ⟨-, -, -, -, -, -, -, v, -⟩ := u (aeth 0x20) (by unfold Dev.untraced; decide +kernel) (by decide +kernel) (by unfold Dev.clearTx; decide +kernel)
  obtain ⟨-, -, -, -, -, -, -, w, -⟩ := (p (linkS (roceL { qp0 with rnr := 1 } (aeth 0x20)) []) 0 ⟨0, 0, 0, aeth 0x20, false⟩ (by unfold Dev.untraced; decide +kernel)).2.1 (by decide +kernel)
    (by unfold Dev.clearTx; decide +kernel)
  obtain ⟨-, -, -, -, -, -, -, x, -⟩ := u (aeth 0x60) (by unfold Dev.untraced; decide +kernel) (by decide +kernel) (by unfold Dev.clearTx; decide +kernel)
  obtain ⟨-, -, -, -, -, -, -, y, -⟩ := u (aeth 0x61) (by unfold Dev.untraced; decide +kernel) (by decide +kernel) (by unfold Dev.clearTx; decide +kernel)
  obtain ⟨-, -, -, -, -, -, -, -, z⟩ := u (bth 0x81 0 7 0 false) (by unfold Dev.untraced; decide +kernel) (by decide +kernel) (by unfold Dev.clearTx; decide +kernel)
  have i := ((i (by decide +kernel) (by decide +kernel) (by decide +kernel) (by decide +kernel) (by decide +kernel) ⟨false, 0, 0⟩ (by decide +kernel) (by decide +kernel)).2 1
    (by decide +kernel) (by decide +kernel)).2 (by decide +kernel) (by decide +kernel) 0x50300 (by decide +kernel) ⟨by unfold Dev.errorless; decide +kernel, by decide +kernel⟩ (by decide +kernel)
  have g := ((g (by decide +kernel) (by decide +kernel) (by decide +kernel) (by decide +kernel) (by decide +kernel) ⟨false, 0, 0⟩ (by decide +kernel) (by decide +kernel)).2 1
    (by decide +kernel) (by decide +kernel)).1 (by decide +kernel) (by decide +kernel)
  have f := (f (by decide +kernel) (by decide +kernel) (by decide +kernel) (by decide +kernel) (by decide +kernel) ⟨false, 0, 0⟩ (by decide +kernel) (by decide +kernel)).1 (by decide +kernel)
    (by decide +kernel)
  exact ⟨ran_of_becomes ((a (.roceInboundSend 0, _) (.head _)).1 (by decide +kernel)),
    ran_of_becomes ((b (.roceCnp 0, _) (.tail _ (.tail _ (.tail _ (.tail _ (.tail _ (.tail _ (.head _)))))))).2 (by decide +kernel) (by decide +kernel)),
    ran_of_completes (c (.roceInboundSend 0, _) (.head _) (by decide +kernel) (by decide +kernel)),
    ran_of_completes (d (.roceInboundRead 0, _) (.tail _ (.tail _ (.head _))) (by decide +kernel) (by decide +kernel)),
    ran_of_completes (e (.roceInboundWrite 0, _) (.tail _ (.head _)) (by decide +kernel) (by decide +kernel)),
    ran_of_completes f, ran_of_completes g, ran_of_completes i,
    ran_of_completes ((j (by decide +kernel) (by decide +kernel)).1 (by decide +kernel) (by decide +kernel)),
    ran_of_completes (((k (by decide +kernel) (by decide +kernel)).2 (storeBase + 0x12000) (by decide +kernel)).1 (by decide +kernel) (by decide +kernel)),
    ran_of_completes (((l (by decide +kernel) (by decide +kernel)).2 (storeBase + 0x12000) (by decide +kernel)).2 (by decide +kernel) ⟨by unfold Dev.errorless; decide +kernel, by decide +kernel⟩
      (by decide +kernel)),
    ran_of_completes ((m (by decide +kernel)).1 (by decide +kernel) (by decide +kernel)),
    ran_of_completes ((n (by decide +kernel)).2 (storeBase + 0x12000) (by decide +kernel) (by decide +kernel) (by unfold Dev.errorless; decide +kernel) (by decide +kernel) (by decide +kernel)),
    ran_of_completes ((o (by decide +kernel)).2 (storeBase + 0x12000) (by decide +kernel) (by decide +kernel) (by unfold Dev.errorless; decide +kernel) (by decide +kernel) (by decide +kernel)),
    ran_of_completes (r (by decide +kernel)), ran_of_completes (t (by decide +kernel)),
    ran_of_completes ((v ⟨0, 50, 60⟩ (by decide +kernel) (by decide +kernel)).1 (by decide +kernel) (by decide +kernel) (by decide +kernel)),
    ran_of_completes ((w ⟨0, 50, 60⟩ (by decide +kernel) (by decide +kernel)).2.1 (by decide +kernel) (by decide +kernel) (by decide +kernel) (by decide +kernel)),
    ran_of_completes ((x ⟨0, 50, 60⟩ (by decide +kernel) (by decide +kernel)).2.2.1 (by decide +kernel) (by decide +kernel) (by decide +kernel)),
    ran_of_completes ((y ⟨0, 50, 60⟩ (by decide +kernel) (by decide +kernel)).2.2.2 (by decide +kernel) (by decide +kernel) (by decide +kernel)),
    ran_of_completes (z (by decide +kernel))⟩

def filledB : List LockBlk := [blk 0 true 0]
def sendQ : Qp := { Qp.reset with entry := qpe 1 0x10 0x72 1 }
def pairL (g : Nat) (q : Qp) : Links := { Links.reset with qps := [(g, q)] }
/-- Queue pair 7 sends from the ring; the block there holds a message of `n` bytes. -/
def sending (bs : List LockBlk) (n : Nat) : State := linkL bs (pairL 7 sendQ) (tables ++ stacksOn ++ [.mem (0x50200 + 48) (leBytes 4 n)])
def msg (n : Nat) : List Byte := zeros 48 ++ leBytes 4 n ++ zeros 204
def pairS (g : Nat) (q : Qp) : State := linkS (pairL g q) [on 102]

theorem witness_RoceSends (h : Obligations.RoceConnections) :
    ran (.roceRateRecovery 7) (pairS 7 { Qp.reset with rate := 1 }) ∧ ran (.roceRateRecovery 7) (pairS 7 qp0) ∧ ran (.roceSendMessage 7) (sending [blk 0 false 0] 0)
      ∧ ran (.roceSendMessage 7) (sending filledB 193) ∧ ran (.roceSendMessage 7) (sending filledB 192) ∧ ran (.roceSendMessage 7) (sending filledB 0)
      ∧ ran (.roceAckTimeout 7) (pairS 7 { qp0 with retries := 1 }) ∧ ran (.roceAckTimeout 7) (pairS 7 { qp0 with retries := 2 }) ∧ ran (.roceAckTimeout 7) (pairS 7 sendQ)
      ∧ ran (.qpToRts 16368) (pairS 7 qp0) ∧ ran (.qpToError 16383) (pairS 7 qp0) ∧ ran (.qpToReset 4096) (pairS 7 qp0) ∧ ran (.qpEntryWrite 16368 63 [1]) (pairS 7 qp0)
      ∧ ran (.qpToRts 7) (pairS 7 qp0) ∧ ran (.qpToRts 7) (pairS 7 { qp0 with entry := qpe 0 0x30 0x72 1 }) ∧ ran (.qpToRts 7) (pairS 7 Qp.reset) ∧ ran (.qpToError 7) (pairS 7 Qp.reset)
      ∧ ran (.qpToError 7) (pairS 7 qp0) ∧ ran (.qpToReset 7) (pairS 7 Qp.reset) ∧ ran (.qpToReset 7) (pairS 7 qp0) ∧ ran (.qpEntryWrite 7 63 [1]) (pairS 7 Qp.reset)
      ∧ ran (.qpEntryWrite 7 63 [1]) (pairS 7 qp0) ∧ ran (.qpEntryWrite 7 0 [1]) (pairS 7 { qp0 with entry := qpe 0 0x30 0x72 1 })
      ∧ ran (.memoryWindowWrite 8191 0 []) thr ∧ ran (.memoryWindowWrite 8191 14 [0x20]) (pairS 7 qp0) ∧ ran (.memoryWindowWrite 0 8 [1, 0, 0, 0, 0, 0, 0x20, 0]) (pairS 7 qp0) := by
  have p (s : State) (g : Fin 16384) (off : Fin 64) (b : List Byte) hs := (h s 0 g off b 0 0 0 ⟨0, 0, 0, [], false⟩ hs).2.2.1
  have w (s : State) (n : Fin 8192) (off : Fin 16) (b : List Byte) hs := (h s 0 0 0 b n off 0 ⟨0, 0, 0, [], false⟩ hs).2.2.2
  have u (q : Qp) (off : Fin 64) (b : List Byte) hs := p (pairS 7 q) 7 off b hs
  obtain ⟨a, -⟩ := u { Qp.reset with rate := 1 } 0 [] (by unfold Dev.untraced; decide +kernel)
  obtain ⟨b, -, -, -, c⟩ := u qp0 63 [1] (by unfold Dev.untraced; decide +kernel)
  obtain ⟨-, d, -⟩ := p (sending [blk 0 false 0] 0) 7 0 [] (by unfold Dev.untraced; decide +kernel)
  obtain ⟨-, e, -⟩ := p (sending filledB 193) 7 0 [] (by unfold Dev.untraced; decide +kernel)
  obtain ⟨-, f, -⟩ := p (sending filledB 192) 7 0 [] (by unfold Dev.untraced; decide +kernel)
  obtain ⟨-, g, -⟩ := p (sending filledB 0) 7 0 [] (by unfold Dev.untraced; decide +kernel)
  obtain ⟨-, -, i, -⟩ := u { qp0 with retries := 1 } 0 [] (by unfold Dev.untraced; decide +kernel)
  obtain ⟨-, -, j, -⟩ := u { qp0 with retries := 2 } 0 [] (by unfold Dev.untraced; decide +kernel)
  obtain ⟨-, -, -, k, -⟩ := u sendQ 0 [] (by unfold Dev.untraced; decide +kernel)
  obtain ⟨-, -, -, -, l⟩ := p (pairS 7 qp0) 16368 63 [1] (by unfold Dev.untraced; decide +kernel)
  obtain ⟨-, -, -, -, m⟩ := p (pairS 7 qp0) 16383 63 [1] (by unfold Dev.untraced; decide +kernel)
  obtain ⟨-, -, -, -, n⟩ := p (pairS 7 qp0) 4096 63 [1] (by unfold Dev.untraced; decide +kernel)
  obtain ⟨-, -, -, -, o⟩ := u { qp0 with entry := qpe 0 0x30 0x72 1 } 0 [1] (by unfold Dev.untraced; decide +kernel)
  obtain ⟨-, -, -, -, r⟩ := u Qp.reset 63 [1] (by unfold Dev.untraced; decide +kernel)
  have l := l.1 (by decide +kernel) (by decide)
  have m := m.1 (by decide +kernel) (by decide)
  have n := n.2.1 (by decide +kernel)
  have c := c.2.2 (by decide +kernel) (by decide)
  have o := o.2.2 (by decide +kernel) (by decide)
  have r := r.2.2 (by decide +kernel) (by decide)
  have e := (e ⟨false, 0, 0⟩ (by decide +kernel) (by decide +kernel) (by decide +kernel) (by decide +kernel) (by unfold Dev.clearTx; decide +kernel)).2 (blk 0 true 0)
  have f := (f ⟨false, 0, 0⟩ (by decide +kernel) (by decide +kernel) (by decide +kernel) (by decide +kernel) (by unfold Dev.clearTx; decide +kernel)).2 (blk 0 true 0)
  have g := (g ⟨false, 0, 0⟩ (by decide +kernel) (by decide +kernel) (by decide +kernel) (by decide +kernel) (by unfold Dev.clearTx; decide +kernel)).2 (blk 0 true 0)
  have e := (e (msg 193) (by decide +kernel) (by decide +kernel)).2.1 (by decide +kernel)
  obtain ⟨pf, hf⟩ := Option.isSome_iff_exists.mp (show ((sending filledB 192).m.blockMsg (7 : Fin 16384) (msg 192) 0).isSome = true by decide +kernel)
  obtain ⟨pg, hg⟩ := Option.isSome_iff_exists.mp (show ((sending filledB 0).m.blockMsg (7 : Fin 16384) (msg 0) 0).isSome = true by decide +kernel)
  have sf : ((sending filledB 192).m.qp (7 : Fin 16384)).sndPsn = 0 := by decide +kernel
  have sg : ((sending filledB 0).m.qp (7 : Fin 16384)).sndPsn = 0 := by decide +kernel
  have f := (f (msg 192) (by decide +kernel) (by decide +kernel)).2.2.1 pf (by rw [sf]; exact hf)
  have g := (g (msg 0) (by decide +kernel) (by decide +kernel)).2.2.1 pg (by rw [sg]; exact hg)
  have x := (w thr 8191 0 [] (by unfold Dev.untraced; decide +kernel)).1 (by decide +kernel)
  have y := (w (pairS 7 qp0) 8191 14 [0x20] (by unfold Dev.untraced; decide +kernel)).2.1 (by decide +kernel) (by decide +kernel)
  have z := (w (pairS 7 qp0) 0 8 [1, 0, 0, 0, 0, 0, 0x20, 0] (by unfold Dev.untraced; decide +kernel)).2.2 (by decide +kernel) (by decide +kernel)
  exact ⟨ran_of_completes (a.2 (by decide +kernel)), ran_of_becomes (b.1 (by decide +kernel)),
    ran_of_becomes ((d ⟨false, 0, 0⟩ (by decide +kernel) (by decide +kernel) (by decide +kernel) (by decide +kernel) (by unfold Dev.clearTx; decide +kernel)).1 (by decide +kernel)),
    ran_of_completes e, ran_of_completes f, ran_of_completes g, ran_of_completes ((i ⟨0, 50, 60⟩ [] (by decide +kernel) (by decide +kernel)).1 (by decide +kernel)),
    ran_of_completes ((j ⟨0, 50, 60⟩ [] (by decide +kernel) (by decide +kernel)).2 (by decide +kernel)), ran_of_becomes (k (by decide +kernel)), ran_of_completes l.1, ran_of_completes m.2.1,
    ran_of_becomes n.2.2.1, ran_of_completes l.2.2.2, ran_of_becomes (c.1 (by decide +kernel)), ran_of_completes (o.2.1 (by decide +kernel) (by decide +kernel)),
    ran_of_completes (r.2.2.1 (by decide +kernel) (by decide +kernel)), ran_of_becomes (r.2.2.2.1 (by decide +kernel)), ran_of_completes (c.2.2.2.2.1 (by decide +kernel)),
    ran_of_becomes (r.2.2.2.2.2.1 (by decide +kernel)), ran_of_completes (c.2.2.2.2.2.2.1 (by decide +kernel)), ran_of_completes (r.2.2.2.2.2.2.2.1 (by decide) (by decide +kernel)),
    ran_of_completes (c.2.2.2.2.2.2.2.2.1 (by decide) (by decide +kernel) (by decide +kernel)),
    ran_of_completes (o.2.2.2.2.2.2.2.2.2 1 (by decide) rfl (by decide) (by decide +kernel) (by decide +kernel)),
    ran_of_becomes x, ran_of_completes y, ran_of_completes z⟩

/-- An egress entry that sends the lock's blocks as they stand on leg A. -/
def ege (kind : Nat) : List Byte := argBlock 8 [(0, kind), (4, 0x8000 * 2 ^ 32)]
def eg0 (hist : List (Nat × Nat)) : Egress := { Egress.reset with entry := ege 3, started := true, hist := hist }
def egS (bs : List LockBlk) (hist : List (Nat × Nat)) : State := linkL bs { Links.reset with egress := [(5, eg0 hist)] } (tables ++ stacksOn)

theorem witness_EgressSends (h : Obligations.EgressPortsAndTime) :
    ran (.egressEntryWrite 0 5 0 []) thr ∧ ran (.egressEntryWrite 0 5 0 [1]) (linkS Links.reset []) ∧ ran (.egressEntryWrite 0 5 63 []) (egS filledB [])
      ∧ ran (.egressEntryWrite 0 5 0 [0]) (egS filledB []) ∧ ran (.egressEntryWrite 0 5 63 [1]) (egS filledB []) ∧ ran (.egressSend 3 1023) thr ∧ ran (.egressSend 0 5) (egS [blk 0 false 0] [])
      ∧ ran (.egressSend 0 5) (egS filledB []) ∧ ran (.egressSend 0 5) (egS filledB [(0, 9)]) ∧ ran (.egressSend 0 5) (egS filledB [(1, 9)]) := by
  have p (s : State) (ld : Fin 4) (i : Fin 1024) (off : Fin 64) (b : List Byte) hs := (h s ld i off b 0 0 0 0 [] true true 0 0 0 hs).1
  obtain ⟨a, -, -, -, -, -⟩ := p thr 0 5 0 [] (by unfold Dev.untraced; decide +kernel)
  obtain ⟨-, -, -, -, -, b, -⟩ := p thr 3 1023 0 [] (by unfold Dev.untraced; decide +kernel)
  obtain ⟨-, c, -⟩ := p (linkS Links.reset []) 0 5 0 [1] (by unfold Dev.untraced; decide +kernel)
  obtain ⟨-, -, d, -⟩ := p (egS filledB []) 0 5 63 [] (by unfold Dev.untraced; decide +kernel)
  obtain ⟨-, -, -, e, -, -, -, i⟩ := p (egS filledB []) 0 5 0 [0] (by unfold Dev.untraced; decide +kernel)
  obtain ⟨-, -, -, -, f, -⟩ := p (egS filledB []) 0 5 63 [1] (by unfold Dev.untraced; decide +kernel)
  obtain ⟨-, -, -, -, -, -, g, -⟩ := p (egS [blk 0 false 0] []) 0 5 0 [] (by unfold Dev.untraced; decide +kernel)
  obtain ⟨-, -, -, -, -, -, -, j⟩ := p (egS filledB [(0, 9)]) 0 5 0 [] (by unfold Dev.untraced; decide +kernel)
  obtain ⟨-, -, -, -, -, -, -, k⟩ := p (egS filledB [(1, 9)]) 0 5 0 [] (by unfold Dev.untraced; decide +kernel)
  have i := i ⟨false, 0, 0⟩ (blk 0 true 0) (zeros 256) (by decide +kernel) (by decide +kernel) (by unfold Dev.clearTx; decide +kernel) (by decide +kernel) (by decide +kernel) (by decide +kernel)
    (by decide +kernel) (by decide +kernel)
  have j := j ⟨false, 0, 0⟩ (blk 0 true 0) (zeros 256) (by decide +kernel) (by decide +kernel) (by unfold Dev.clearTx; decide +kernel) (by decide +kernel) (by decide +kernel) (by decide +kernel)
    (by decide +kernel) (by decide +kernel)
  have k := k ⟨false, 0, 0⟩ (blk 0 true 0) (zeros 256) (by decide +kernel) (by decide +kernel) (by unfold Dev.clearTx; decide +kernel) (by decide +kernel) (by decide +kernel) (by decide +kernel)
    (by decide +kernel) (by decide +kernel)
  exact ⟨ran_of_becomes (a (by decide +kernel)), ran_of_completes (c (by decide +kernel) (by decide +kernel)), ran_of_becomes (d (by decide +kernel) (by decide +kernel) (by decide +kernel)),
    ran_of_completes (e (by decide +kernel) (by decide +kernel) (by decide +kernel) (by decide +kernel)),
    ran_of_becomes (f (by decide +kernel) (by decide +kernel) (by decide +kernel) (by decide +kernel)), ran_of_becomes (b (.inl (by decide +kernel))),
    ran_of_becomes (g ⟨false, 0, 0⟩ (by decide +kernel) (by decide +kernel)), ran_of_completes (i.1 (by decide +kernel)), ran_of_completes (j.2.1 (0, 9) (by decide +kernel)),
    ran_of_completes (k.2.2 ⟨(1, 9), by decide +kernel, by decide +kernel⟩ (by decide +kernel))⟩

def portS (ctl st : Nat) : State := linkS Links.reset [reg .lnk 16 0 R.LNK_PORT_CTRL ctl, reg .lnk 16 0 R.LNK_PORT_STATUS st]

theorem witness_Ports (h : Obligations.EgressPortsAndTime) :
    ran (.saKeyWrite 23 3 0 3 [] true 0 0 true) thr ∧ ran (.lnkPortCtrlWrite 23 0) thr ∧ ran (.saKeyWrite 0 0 0 0 (zeros 32) true 1 0 true) (portS 0 0)
      ∧ ran (.saKeyWrite 0 3 9 3 (zeros 16) false (2 ^ 32) 0 false) (portS 0 0) ∧ ran (.saKeyWrite 0 3 8 3 (zeros 16) false (2 ^ 32) 0 false) (portS 0 0)
      ∧ ran (.lnkPortCtrlWrite 0 0x10) (portS 0x100 0) ∧ ran (.lnkPortCtrlWrite 0 0x110) (portS 0x100 0)
      ∧ ran (.lnkPortCtrlWrite 0 0x176) (portS 0 0x11) ∧ ran (.linkUp 0 3) (portS 0 0) ∧ ran (.linkUp 0 0) (portS 0x110 0) ∧ ran (.linkDown 0 3) (portS 0 1) ∧ ran (.linkDown 0 0) (portS 0 1) := by
  have p (s : State) (q : Fin 24) (sub : Fin 4) (chan : Fin 16) (an : Fin 4) (key : List Byte) (xpn use : Bool) (pn : Nat) (v : BitVec 32) hs :=
    (h s 0 0 0 [] q sub chan an key xpn use pn 0 v hs).2.1
  obtain ⟨a, a', -⟩ := p thr 23 3 0 3 [] true true 0 0 (by unfold Dev.untraced; decide +kernel)
  obtain ⟨-, -, b, -⟩ := p (portS 0 0) 0 0 0 0 (zeros 32) true true 1 0x110 (by unfold Dev.untraced; decide +kernel)
  obtain ⟨c, -⟩ := p (portS 0 0) 0 3 9 3 (zeros 16) false false (2 ^ 32) 0 (by unfold Dev.untraced; decide +kernel)
  obtain ⟨-, -, g, -, -, u, -⟩ := p (portS 0 0) 0 3 8 3 (zeros 16) false false (2 ^ 32) 0 (by unfold Dev.untraced; decide +kernel)
  obtain ⟨-, -, -, d, -⟩ := p (portS 0x100 0) 0 0 0 0 [] true true 0 0x10 (by unfold Dev.untraced; decide +kernel)
  obtain ⟨-, -, -, x, -⟩ := p (portS 0x100 0) 0 0 0 0 [] true true 0 0x110 (by unfold Dev.untraced; decide +kernel)
  obtain ⟨-, -, -, -, e, -⟩ := p (portS 0 0x11) 0 0 0 0 [] true true 0 0x176 (by unfold Dev.untraced; decide +kernel)
  obtain ⟨-, -, -, -, -, -, v, -⟩ := p (portS 0x110 0) 0 0 0 0 [] true true 0 0 (by unfold Dev.untraced; decide +kernel)
  obtain ⟨-, -, -, -, -, -, -, w, -⟩ := p (portS 0 1) 0 3 0 0 [] true true 0 0 (by unfold Dev.untraced; decide +kernel)
  obtain ⟨-, -, -, -, -, -, -, -, y⟩ := p (portS 0 1) 0 0 0 0 [] true true 0 0 (by unfold Dev.untraced; decide +kernel)
  exact ⟨ran_of_becomes (a (.inl (by decide +kernel))), ran_of_becomes (a' (by decide +kernel)), ran_of_completes (b (by decide +kernel) (by decide)), ran_of_becomes (c (.inr (by decide))), ran_of_completes (g (by decide +kernel) (by decide)),
    ran_of_becomes (d (by decide +kernel) (by decide +kernel) (by decide +kernel)), ran_of_becomes (x (by decide +kernel) (by decide +kernel) (by decide +kernel)), ran_of_completes (e (by decide +kernel) (.inr (by decide +kernel))), ran_of_becomes (u (by decide +kernel)), ran_of_completes (v (by decide +kernel)),
    ran_of_becomes (w (by decide +kernel)), ran_of_completes (y (by decide +kernel))⟩

/-- A PTP message of this type and two-step flag in domain 0: sent by clock 7, sequence 5. -/
def ptpMsg (type flags : Nat) (b : List Byte) : List Byte := leBytes 1 type ++ zeros 5 ++ leBytes 1 flags ++ zeros 13 ++ List.replicate 10 7 ++ [0, 5] ++ zeros 12 ++ b
def src7 : List Byte := List.replicate 10 7
def ptpL (p : Ptp) (m : List Byte) : Links := { Links.reset with
  ptpIn := [(0, 1000, m)]
  ptp := p }
def slave (st : Nat) : Ptp := { Ptp.reset with
  st := st
  master := some src7
  syncRx := some (5, 1000, 0)
  delayTx := some (5, 900)
  last := some (0, 0) }
def ptpS (x : Links) : State := linkS x [reg .ld0 16 0 R.PTP_CTRL 256]

theorem links_ptpS (x : Links) : (ptpS x).m.links = x := by unfold ptpS linkS linkL machine after; rfl

theorem witness_PtpMessages (h : Obligations.EgressPortsAndTime) :
    ran .ptpSync (linkS Links.reset []) ∧ ran .ptpAnnounce (linkS (ptpL Ptp.reset (ptpMsg 11 0 [])) []) ∧ ran .ptpSync (ptpS (ptpL Ptp.reset (ptpMsg 0 0 [])))
      ∧ ran .ptpSync (ptpS (ptpL (slave 1) (ptpMsg 0 2 []))) ∧ ran .ptpSync (ptpS (ptpL (slave 1) (ptpMsg 0 0 []))) ∧ ran .ptpFollowUp (ptpS (ptpL Ptp.reset (ptpMsg 8 0 [])))
      ∧ ran .ptpFollowUp (ptpS (ptpL { slave 2 with syncRx := some (4, 0, 0) } (ptpMsg 8 0 []))) ∧ ran .ptpFollowUp (ptpS (ptpL (slave 2) (ptpMsg 8 0 [])))
      ∧ ran .ptpDelayResp (ptpS (ptpL (slave 1) (ptpMsg 9 0 (ptpSelf 0)))) ∧ ran .ptpAnnounce (ptpS (ptpL Ptp.reset (ptpMsg 11 0 (zeros 20)))) := by
  have p (s : State) hs := (h s 0 0 0 [] 0 0 0 0 [] true true 0 0 0 hs).2.2
  have q (x : Ptp) (m : List Byte) hs := p (ptpS (ptpL x m)) hs
  obtain ⟨a, -⟩ := p (linkS Links.reset []) (by unfold Dev.untraced; decide +kernel)
  obtain ⟨b, -⟩ := p (linkS (ptpL Ptp.reset (ptpMsg 11 0 [])) []) (by unfold Dev.untraced; decide +kernel)
  obtain ⟨-, c, -⟩ := q Ptp.reset (ptpMsg 0 0 []) (by unfold Dev.untraced; decide +kernel)
  obtain ⟨-, d, -⟩ := q (slave 1) (ptpMsg 0 2 []) (by unfold Dev.untraced; decide +kernel)
  obtain ⟨-, e, -⟩ := q (slave 1) (ptpMsg 0 0 []) (by unfold Dev.untraced; decide +kernel)
  obtain ⟨-, -, f, -⟩ := q Ptp.reset (ptpMsg 8 0 []) (by unfold Dev.untraced; decide +kernel)
  obtain ⟨-, -, g, -⟩ := q { slave 2 with syncRx := some (4, 0, 0) } (ptpMsg 8 0 []) (by unfold Dev.untraced; decide +kernel)
  obtain ⟨-, -, i, -⟩ := q (slave 2) (ptpMsg 8 0 []) (by unfold Dev.untraced; decide +kernel)
  obtain ⟨-, -, -, j, -⟩ := q (slave 1) (ptpMsg 9 0 (ptpSelf 0)) (by unfold Dev.untraced; decide +kernel)
  obtain ⟨-, -, -, -, k, -⟩ := q Ptp.reset (ptpMsg 11 0 (zeros 20)) (by unfold Dev.untraced; decide +kernel)
  have j := j 0 1000 (ptpMsg 9 0 (ptpSelf 0)) 0 (by rw [links_ptpS]; rfl) (by decide +kernel) (by decide +kernel) 5 900 0 0 (by decide +kernel) (by decide +kernel) (by decide +kernel)
    (by decide +kernel) (by rw [show (ptpS (ptpL (slave 1) (ptpMsg 9 0 (ptpSelf 0)))).m.ptpPort 0 = 0 from by decide +kernel]; rfl)
  exact ⟨ran_of_becomes ((a (0, .ptpSync) (.head _)).1 (by decide +kernel)),
    ran_of_becomes ((b (11, .ptpAnnounce) (.tail _ (.tail _ (.tail _ (.head _))))).2 ((0, 1000, ptpMsg 11 0 []), 0) (by decide +kernel) (by decide +kernel)),
    ran_of_becomes ((c 0 1000 (ptpMsg 0 0 []) 0 (by decide +kernel) (by decide +kernel) (by decide +kernel)).1 (by decide +kernel)),
    ran_of_completes ((d 0 1000 (ptpMsg 0 2 []) 0 (by decide +kernel) (by decide +kernel) (by decide +kernel)).2.1 (by decide +kernel) (by decide +kernel)),
    ran_of_completes ((e 0 1000 (ptpMsg 0 0 []) 0 (by decide +kernel) (by decide +kernel) (by decide +kernel)).2.2 (by decide +kernel) (by decide +kernel)),
    ran_of_becomes ((f 0 1000 (ptpMsg 8 0 []) 0 (by decide +kernel) (by decide +kernel) (by decide +kernel)).1 (by decide +kernel)),
    ran_of_becomes (((g 0 1000 (ptpMsg 8 0 []) 0 (by decide +kernel) (by decide +kernel) (by decide +kernel)).2 4 0 0 (by decide +kernel)).1 (by decide +kernel)),
    ran_of_completes (((i 0 1000 (ptpMsg 8 0 []) 0 (by decide +kernel) (by decide +kernel) (by decide +kernel)).2 5 1000 0 (by decide +kernel)).2 (by decide +kernel) (by decide +kernel)),
    ran_of_completes j, ran_of_completes (k 0 1000 (ptpMsg 11 0 (zeros 20)) 0 (by decide +kernel) (by decide +kernel) (by decide +kernel))⟩

theorem witness_PtpTimers (h : Obligations.EgressPortsAndTime) :
    ran .ptpAnnounceTimeout (ptpS Links.reset) ∧ ran .ptpAnnounceTimeout (ptpS (ptpL (slave 1) [])) ∧ ran .ptpHoldoverExpiry (ptpS (ptpL (slave 2) []))
      ∧ ran .ptpHoldoverExpiry (ptpS (ptpL (slave 3) [])) ∧ ran .ptpDelayReq (ptpS Links.reset) ∧ ran .ptpDelayReq (ptpS (ptpL (slave 2) [])) := by
  have p (s : State) hs := (h s 0 0 0 [] 0 0 0 0 [] true true 0 0 0 hs).2.2
  obtain ⟨-, -, -, -, -, a, -, -, -, e, -⟩ := p (ptpS Links.reset) (by unfold Dev.untraced; decide +kernel)
  obtain ⟨-, -, -, -, -, -, b, -⟩ := p (ptpS (ptpL (slave 1) [])) (by unfold Dev.untraced; decide +kernel)
  obtain ⟨-, -, -, -, -, -, -, c, -, -, f⟩ := p (ptpS (ptpL (slave 2) [])) (by unfold Dev.untraced; decide +kernel)
  obtain ⟨-, -, -, -, -, -, -, -, d, -⟩ := p (ptpS (ptpL (slave 3) [])) (by unfold Dev.untraced; decide +kernel)
  exact ⟨ran_of_becomes (a (by decide +kernel)), ran_of_completes (b src7 (by decide +kernel)), ran_of_becomes (c (by decide +kernel)), ran_of_becomes (d (by decide +kernel)),
    ran_of_becomes (e (.inr (by decide +kernel))), ran_of_completes (f (by decide +kernel) (by decide +kernel) (by unfold Dev.clearTx; decide +kernel))⟩

/-! ### Bentin -/

def frame (type op dev ses : Nat) (p : List Byte) : List Byte := bentinFrame type op dev 0 ses 5 0 0 p
/-- A request of session 3 from the management port's source 7. -/
def reqF (op : Nat) (p : List Byte) : BFrom := .udp 7 (frame 0 op 0 3 p)
def reqQ (op : Nat) (p : List Byte) : Request := ⟨65543, 3, 5, op, (frame 0 op 0 3 p).drop 32⟩

/-- What `Dev.asked` asks, to be evaluated. -/
def askedB (s : Dev) (f : BFrom) (q : Request) : Bool :=
  match s.bentinIn f with
  | some (n, b) => n == q.src && frameOk b && s.ownRequest q.src b && q == ⟨q.src, fSession b, fReqId b, fOpcode b, b.drop 32⟩
    && ((s.ses q.ses).reqs.find? (fun e => e.1 == q.id)).isNone && s.opcodeOpen q
  | none => false
theorem asked_of {s : Dev} {f : BFrom} {q : Request} (h : askedB s f q = true) : s.asked f q := by
  unfold askedB at h
  split at h
  · rename_i n b hb
    simp only [Bool.and_eq_true, beq_iff_eq, Option.isNone_iff_eq_none] at h
    exact ⟨b, h.1.1.1.1.1 ▸ hb, h.1.1.1.1.2, h.1.1.1.2, h.1.1.2, h.1.2, h.2⟩
  · cases h

def opened : Session := ⟨true, 65543, 2, []⟩
@[irreducible] def bentinS (x : Session) (l : List Upd) : State := machine (cluster0 flock0) (.session 3 x :: l)
def boot (v : Nat) : Upd := reg .boot 20 0 R.BOOT_STATUS v
def b64 (a : Nat) : List Byte := leBytes 8 a
def qr (off v : Nat) : Upd := reg .q 0 5 off v
/-- Queue 5 with a ring of 16 entries at DPA 0x20000, with these counts. -/
def ring5 (prod cons : Nat) : List Upd := [qr R.Q_RING_SIZE 0x44, qr R.Q_RING_LO 0x20000, qr R.Q_PROD prod, qr R.Q_CONS cons]
def submit (q n k : Nat) : List Byte := leBytes 2 q ++ leBytes 2 n ++ zeros (64 * k)

def cmdA : Command := ⟨6 * 2 ^ 32, 5, 0, zeros 64, .running, 9, 0, 0, false, false, false, false, false, 0, .none, 0, .none, false, false, 0, true, [], 0, false, 0, [], [], [], false, false, true, [],
  0⟩
def withCmds (l : List Command) : Upd := .drover 0 { Drover.reset with cmds := l }

theorem witness_BentinRequests (h : Obligations.BentinRequests) :
    let r (c : BFrom → Instr) (op : Nat) (p : List Byte) (l : List Upd) : Prop := ran (c (reqF op p)) (bentinS opened l)
    ran (.bentinRelay (.qp 0)) (bentinS opened []) ∧ ran (.identify (.udp 7 [])) (bentinS opened []) ∧ ran (.identify (reqF 1 [])) (bentinS ⟨true, 0, 0, [(5, none)]⟩ [])
      ∧ ran (.identify (reqF 1 [])) (bentinS ⟨true, 0, 0, [(5, some [])]⟩ []) ∧ r .identify 1 [] [] ∧ r .identify 1 [] [] ∧ r .sessionOpen 2 [] [] ∧ ran (.sessionOpen (reqF 2 [])) (bentinS Session.reset [])
      ∧ r .regRead 0x10 (zeros 12) [] ∧ r .regRead 0x10 (b64 0x20000 ++ b64 storeBase) [] ∧ r .regRead 0x10 (b64 aocBase) [] ∧ r .regRead 0x10 (b64 stackEnd) []
      ∧ r .regWrite 0x11 (zeros 8) [] ∧ r .regWrite 0x11 (b64 storeBase ++ b64 1) [] ∧ r .regWrite 0x11 (b64 stackEnd ++ b64 1) []
      ∧ r .queueSubmit 0x20 (submit 5 65 1) [] ∧ r .queueSubmit 0x20 (submit 4095 1 1) [] ∧ r .queueSubmit 0x20 (submit 5 1 1) (ring5 16 0) ∧ r .queueSubmit 0x20 (submit 5 1 1) (ring5 15 0)
      ∧ r .mailboxSend 0x30 (zeros 16) [] ∧ r .mailboxSend 0x30 (64 :: zeros 19) [] ∧ r .mailboxSend 0x30 (63 :: zeros 19) []
      ∧ r .mailboxSend 0x30 (63 :: zeros 19) [reg .mb 20 63 R.MB_CFG 1] ∧ r .envelopeSet 0x40 (zeros 8) [] ∧ r .envelopeSet 0x40 [4, 0, 0, 0] []
      ∧ r .envelopeSet 0x40 [4, 0, 0, 0] [boot (2 ^ 31)] ∧ r .envelopeSet 0x40 [5, 0, 0, 0] [boot (2 ^ 31)] ∧ r .logRead 0x50 (zeros 8) [] ∧ r .logRead 0x50 [0, 0, 0, 0, 0xD0, 7, 0, 0] []
      ∧ r .dumpRead 0x51 [] [] ∧ r .dumpRead 0x51 (zeros 8) [] ∧ r .dumpRead 0x51 [0, 0, 0, 0, 4, 0, 0, 0] [boot (2 ^ 30), reg .rcv 20 0 R.DUMP_STATUS (2 ^ 31)]
      ∧ r .attest 0x61 [] [] ∧ r .attest 0x61 (zeros 32) [] ∧ r .attest 0x61 (zeros 32) [.aoc { Aoc.reset with derived := true }]
      ∧ r .bentinOtherOpcode 0x99 [] [] ∧ r .bentinOtherOpcode 0x60 [5, 0, 0, 0] [] := by
  have ok : (bentinS opened []).sound = true := by decide +kernel
  have ou : (bentinS opened []).m.untraced := by unfold Dev.untraced; decide +kernel
  have z (op : Nat) (b : List Byte) (l : List Upd) hs hu := h (bentinS opened l) (reqF op b) (reqQ op b) [] 0 hs hu (.inl (by decide : (65543 : Nat) ≠ 16368))
  have z0 (op : Nat) (b : List Byte) := z op b [] ok ou
  obtain ⟨a1, -⟩ := h (bentinS opened []) (.qp 0) (reqQ 1 []) [] 0 ok ou (.inl (by decide))
  obtain ⟨-, a2, -⟩ := h (bentinS opened []) (.udp 7 []) (reqQ 1 []) [] 65543 ok ou (.inl (by decide))
  obtain ⟨-, -, a3, -⟩ := h (bentinS ⟨true, 0, 0, [(5, none)]⟩ []) (reqF 1 []) (reqQ 1 []) (frame 0 1 0 3 []) 0 (by decide +kernel) (by unfold Dev.untraced; decide +kernel) (.inl (by decide))
  obtain ⟨-, -, a4, -⟩ := h (bentinS ⟨true, 0, 0, [(5, some [])]⟩ []) (reqF 1 []) (reqQ 1 []) (frame 0 1 0 3 []) 0 (by decide +kernel) (by unfold Dev.untraced; decide +kernel) (.inl (by decide))
  obtain ⟨-, -, -, -, -, a5, -⟩ := h (bentinS Session.reset []) (reqF 2 []) (reqQ 2 []) [] 0 (by decide +kernel) (by unfold Dev.untraced; decide +kernel) (.inl (by decide))
  exact ⟨ran_of_becomes (a1 (by decide +kernel) (.bentinRelay (.qp 0)) (by decide +kernel)),
    ran_of_completes (a2 (by decide +kernel) (by decide +kernel) (.identify (.udp 7 [])) (.head _)),
    ran_of_becomes ((a3 (by decide +kernel) (by decide +kernel) (by decide +kernel) (.identify (reqF 1 []), _) (.head _) (by decide +kernel) (5, none) (by decide +kernel)).1 rfl),
    ran_of_becomes ((a4 (by decide +kernel) (by decide +kernel) (by decide +kernel) (.identify (reqF 1 []), _) (.head _) (by decide +kernel) (5, some []) (by decide +kernel)).2 [] rfl),
    ran_of_completes (((z0 (1) ([])).2.2.2.1 ⟨asked_of (by decide +kernel), by decide⟩)),
    ran_of_completes ((z0 1 []).2.2.2.2.1 7 _ rfl ⟨asked_of (by decide +kernel), by decide⟩),
    ran_of_completes (((z0 (2) ([])).2.2.2.2.2.1 ⟨asked_of (by decide +kernel), by decide⟩)),
    ran_of_completes (a5 ⟨asked_of (by decide +kernel), by decide⟩),
    ran_of_completes (((z0 0x10 (zeros 12)).2.2.2.2.2.2.1 ⟨asked_of (by decide +kernel), by decide⟩ (by unfold Dev.errorless; decide +kernel)).1 (by decide +kernel)),
    ran_of_completes (((z0 0x10 (b64 0x20000 ++ b64 storeBase)).2.2.2.2.2.2.1 ⟨asked_of (by decide +kernel), by decide⟩ (by unfold Dev.errorless; decide +kernel)).2.1 (by decide +kernel) (by decide +kernel)),
    ran_of_completes (((z0 0x10 (b64 aocBase)).2.2.2.2.2.2.1 ⟨asked_of (by decide +kernel), by decide⟩ (by unfold Dev.errorless; decide +kernel)).2.2.1 aocBase .aoc 20 0 0 (by decide +kernel) (by decide +kernel) (by decide +kernel) (by decide +kernel)),
    ran_of_completes (((z0 0x10 (b64 stackEnd)).2.2.2.2.2.2.1 ⟨asked_of (by decide +kernel), by decide⟩ (by unfold Dev.errorless; decide +kernel)).2.2.2 stackEnd [] (by decide +kernel) (by decide +kernel) (by decide +kernel) (by decide +kernel)),
    ran_of_completes (((z0 (0x11) (zeros 8)).2.2.2.2.2.2.2.1 ⟨asked_of (by decide +kernel), by decide⟩).1 (by decide +kernel)),
    ran_of_completes ((((z0 (0x11) (b64 storeBase ++ b64 1)).2.2.2.2.2.2.2.1 ⟨asked_of (by decide +kernel), by decide⟩).2 (by decide +kernel)).1 ⟨by unfold Dev.errorless; decide +kernel, by decide +kernel⟩ (by decide +kernel)),
    ran_of_completes ((((z0 (0x11) (b64 stackEnd ++ b64 1)).2.2.2.2.2.2.2.1 ⟨asked_of (by decide +kernel), by decide⟩).2 (by decide +kernel)).2 (stackEnd, b64 1) [] (by decide +kernel) (by decide +kernel) (by decide +kernel)),
    ran_of_completes (((z0 (0x20) (submit 5 65 1)).2.2.2.2.2.2.2.2.1 ⟨asked_of (by decide +kernel), by decide⟩).1 (by decide +kernel)),
    ran_of_completes (((z0 (0x20) (submit 4095 1 1)).2.2.2.2.2.2.2.2.1 ⟨asked_of (by decide +kernel), by decide⟩).2.1 (by decide +kernel) (by decide +kernel)),
    ran_of_completes (((z (0x20) (submit 5 1 1) (ring5 16 0) (by decide +kernel) (by unfold Dev.untraced; decide +kernel)).2.2.2.2.2.2.2.2.1 ⟨asked_of (by decide +kernel), by decide⟩).2.2.1 (by decide +kernel) (by decide +kernel) (by decide +kernel)),
    ran_of_completes (((z (0x20) (submit 5 1 1) (ring5 15 0) (by decide +kernel) (by unfold Dev.untraced; decide +kernel)).2.2.2.2.2.2.2.2.1 ⟨asked_of (by decide +kernel), by decide⟩).2.2.2 (by decide +kernel) (by decide +kernel) (by decide +kernel) ⟨by unfold Dev.errorless; decide +kernel, by decide +kernel⟩),
    ran_of_completes (((z0 (0x30) (zeros 16)).2.2.2.2.2.2.2.2.2.1 ⟨asked_of (by decide +kernel), by decide⟩).1 (by decide +kernel)),
    ran_of_completes (((z0 (0x30) (64 :: zeros 19)).2.2.2.2.2.2.2.2.2.1 ⟨asked_of (by decide +kernel), by decide⟩).2.1 (by decide +kernel) (by decide +kernel)),
    ran_of_completes (((z0 (0x30) (63 :: zeros 19)).2.2.2.2.2.2.2.2.2.1 ⟨asked_of (by decide +kernel), by decide⟩).2.2.1 (by decide +kernel) (by decide +kernel) (by decide +kernel)),
    ran_of_completes (((z (0x30) (63 :: zeros 19) ([reg .mb 20 63 R.MB_CFG 1]) (by decide +kernel) (by unfold Dev.untraced; decide +kernel)).2.2.2.2.2.2.2.2.2.1 ⟨asked_of (by decide +kernel), by decide⟩).2.2.2 (by decide +kernel) (by decide +kernel) (by decide +kernel)),
    ran_of_completes (((z0 (0x40) (zeros 8)).2.2.2.2.2.2.2.2.2.2.1 ⟨asked_of (by decide +kernel), by decide⟩).1 (by decide +kernel)),
    ran_of_completes (((z0 (0x40) ([4, 0, 0, 0])).2.2.2.2.2.2.2.2.2.2.1 ⟨asked_of (by decide +kernel), by decide⟩).2.1 (by decide +kernel) (by decide +kernel)),
    ran_of_completes (((z (0x40) ([4, 0, 0, 0]) ([boot (2 ^ 31)]) (by decide +kernel) (by unfold Dev.untraced; decide +kernel)).2.2.2.2.2.2.2.2.2.2.1 ⟨asked_of (by decide +kernel), by decide⟩).2.2.1 (by decide +kernel) (by decide +kernel) (by decide +kernel) (by decide +kernel)),
    ran_of_completes (((z (0x40) ([5, 0, 0, 0]) ([boot (2 ^ 31)]) (by decide +kernel) (by unfold Dev.untraced; decide +kernel)).2.2.2.2.2.2.2.2.2.2.1 ⟨asked_of (by decide +kernel), by decide⟩).2.2.2.2 (by decide +kernel) (by decide +kernel) (by decide +kernel)),
    ran_of_completes (((z0 (0x50) (zeros 8)).2.2.2.2.2.2.2.2.2.2.2.1 ⟨asked_of (by decide +kernel), by decide⟩).1 (.inr (.inl (by decide +kernel)))),
    ran_of_completes (((z0 (0x50) ([0, 0, 0, 0, 0xD0, 7, 0, 0])).2.2.2.2.2.2.2.2.2.2.2.1 ⟨asked_of (by decide +kernel), by decide⟩).2 (by decide +kernel) (by decide +kernel) (by decide +kernel)),
    ran_of_completes (((z0 (0x51) ([])).2.2.2.2.2.2.2.2.2.2.2.2.1 ⟨asked_of (by decide +kernel), by decide⟩).1 (by decide +kernel)),
    ran_of_completes (((z0 (0x51) (zeros 8)).2.2.2.2.2.2.2.2.2.2.2.2.1 ⟨asked_of (by decide +kernel), by decide⟩).2.1 (by decide +kernel) (by decide +kernel)),
    ran_of_completes (((z (0x51) ([0, 0, 0, 0, 4, 0, 0, 0]) ([boot (2 ^ 30), reg .rcv 20 0 R.DUMP_STATUS (2 ^ 31)]) (by decide +kernel) (by unfold Dev.untraced; decide +kernel)).2.2.2.2.2.2.2.2.2.2.2.2.1 ⟨asked_of (by decide +kernel), by decide⟩).2.2 (by decide +kernel) (by decide +kernel)),
    ran_of_completes (((z0 (0x61) ([])).2.2.2.2.2.2.2.2.2.2.2.2.2.1 ⟨asked_of (by decide +kernel), by decide⟩).1 (by decide +kernel)),
    ran_of_completes (((z0 (0x61) (zeros 32)).2.2.2.2.2.2.2.2.2.2.2.2.2.1 ⟨asked_of (by decide +kernel), by decide⟩).2.1 (by decide +kernel) (.inr (by decide +kernel))),
    ran_of_completes (((z (0x61) (zeros 32) ([.aoc { Aoc.reset with derived := true }]) (by decide +kernel) (by unfold Dev.untraced; decide +kernel)).2.2.2.2.2.2.2.2.2.2.2.2.2.1 ⟨asked_of (by decide +kernel), by decide⟩).2.2 (by decide +kernel) (by decide +kernel) (by decide +kernel)),
    ran_of_completes ((z0 0x99 []).2.2.2.2.2.2.2.2.2.2.2.2.2.2.1 (asked_of (by decide +kernel)) (.inl (by decide +kernel))),
    ran_of_completes ((z0 0x60 [5, 0, 0, 0]).2.2.2.2.2.2.2.2.2.2.2.2.2.2.1 (asked_of (by decide +kernel)) (.inr (by decide +kernel)))⟩

/-- This role in the group, queue pairs `g` and 16368 + 3 up, and a frame received on queue pair `g`. -/
def roleS (r g : Nat) (b : List Byte) : State := bentinS opened [.role r, on 96, reg .lnk 16 0 R.LNK_PORT_STATUS 1,
  .links { Links.reset with
    qps := [(16371, { Qp.reset with entry := qpe 1 0 0 0 })]
    bentin := [(g, b)] }]
def to3 (type : Nat) : List Byte := frame type 1 3 3 []

theorem witness_BentinRelay (h : Obligations.BentinRequests) :
    ran (.bentinRelay (.qp 16368)) (roleS 2 16368 (to3 0)) ∧ ran (.bentinRelay (.qp 7)) (roleS 1 7 (to3 0)) ∧ ran (.bentinRelay (.qp 7)) (roleS 0 7 (to3 0))
      ∧ ran (.bentinRelay (.qp 16383)) (roleS 1 16383 (to3 1)) ∧ ran (.bentinRelay (.qp 16368)) (roleS 1 16368 (to3 1)) := by
  have p (r g : Nat) (f : BFrom) (b : List Byte) hs hu hr := (h (roleS r g b) f (reqQ 1 []) b g hs hu (.inl hr)).2.2.2.2.2.2.2.2.2.2.2.2.2.2.2
  obtain ⟨a, -⟩ := p 2 16368 (.qp 16368) (to3 0) (by decide +kernel) (by unfold Dev.untraced; decide +kernel) (by decide) (by decide +kernel) (by decide +kernel) (by decide +kernel)
  obtain ⟨-, b, -⟩ := p 1 7 (.qp 7) (to3 0) (by decide +kernel) (by unfold Dev.untraced; decide +kernel) (by decide) (by decide +kernel) (by decide +kernel) (by decide +kernel)
  obtain ⟨-, -, c, -⟩ := p 0 7 (.qp 7) (to3 0) (by decide +kernel) (by unfold Dev.untraced; decide +kernel) (by decide) (by decide +kernel) (by decide +kernel) (by decide +kernel)
  obtain ⟨-, -, -, d, -⟩ := p 1 16383 (.qp 16383) (to3 1) (by decide +kernel) (by unfold Dev.untraced; decide +kernel) (by decide) (by decide +kernel) (by decide +kernel) (by decide +kernel)
  obtain ⟨-, -, -, -, e⟩ := p 1 16368 (.qp 16368) (to3 1) (by decide +kernel) (by unfold Dev.untraced; decide +kernel) (by decide) (by decide +kernel) (by decide +kernel) (by decide +kernel)
  exact ⟨ran_of_becomes (a (by decide +kernel)), ran_of_becomes (b (by decide +kernel) (by decide +kernel) (by decide +kernel) (by decide +kernel) (by decide +kernel)),
    ran_of_completes (c (by decide +kernel) (by decide +kernel) (by decide +kernel) (.inl (by decide +kernel))),
    ran_of_becomes (d (by decide +kernel) (by decide +kernel) (by decide) (by decide) (by decide +kernel)),
    ran_of_becomes (e (by decide +kernel) (by decide +kernel) (.inr (.inl (by decide))))⟩

/-- An open update of a session: KIND, slot, length. -/
def updating (ses kind slot len : Nat) : Upd := .aoc { Aoc.reset with update := some ⟨ses, kind, slot, len, []⟩ }
/-- A BEGIN of this KIND, SLOT and LENGTH. -/
def begin_ (kind sel len : Nat) : List Byte := [1] ++ leBytes 1 kind ++ leBytes 1 sel ++ leBytes 4 len ++ [0]
def inForceB : Upd := .aoc { Aoc.reset with inForce := [(2, 1)] }

theorem ran_of_bool {b : Bool} {c : Instr} {s : State} {P Q : Dev → Prop} (h : (b = true → completes c s P) ∧ (b = false → completes c s Q)) : ran c s := by
  cases b
  · exact ran_of_completes (h.2 rfl)
  · exact ran_of_completes (h.1 rfl)
theorem no_update {o : Option FwUpdate} {n : Nat} (h : o = none) : ¬∃ u, o = some u ∧ u.session ≠ n := fun ⟨u, hu, _⟩ => by rw [h] at hu; cases hu
theorem own_update {o : Option FwUpdate} {n : Nat} (v : FwUpdate) (h : o = some v) (hv : v.session = n) : ¬∃ u, o = some u ∧ u.session ≠ n := fun ⟨u, hu, hn⟩ => by
  rw [h] at hu; cases hu; exact hn hv

/-- Whether an object is valid depends on free values of Config: a COMMIT ends in both cases. -/
theorem witness_BentinUpdatesAndQueues (h : Obligations.BentinUpdatesAndQueues) :
    ran (.fwUpdateBegin (reqF 0x60 ([1, 0, 0, 0])) false) (bentinS opened ([]))
      ∧ ran (.fwUpdateBegin (reqF 0x60 (begin_ 5 1 12800)) false) (bentinS opened ([]))
      ∧ ran (.fwUpdateBegin (reqF 0x60 (begin_ 5 0 12800)) false) (bentinS opened ([updating 4 1 0 0]))
      ∧ ran (.fwUpdateBegin (reqF 0x60 (begin_ 5 0 12800)) false) (bentinS opened ([]))
      ∧ ran (.fwUpdateBegin (reqF 0x60 (begin_ 6 0 0)) false) (bentinS opened ([]))
      ∧ ran (.fwUpdateBegin (reqF 0x60 (begin_ 1 0 0x800001)) false) (bentinS opened ([]))
      ∧ ran (.fwUpdateBegin (reqF 0x60 (begin_ 2 1 0x4000000)) false) (bentinS opened ([inForceB]))
      ∧ ran (.fwUpdateBegin (reqF 0x60 (begin_ 1 0 0)) true) (bentinS opened ([]))
      ∧ ran (.fwUpdateBegin (reqF 0x60 (begin_ 1 0 0x800000)) false) (bentinS opened ([]))
      ∧ ran (.fwUpdateBegin (reqF 0x60 (begin_ 2 2 0x4000000)) false) (bentinS opened ([inForceB]))
      ∧ ran (.fwUpdateData (reqF 0x60 ([2, 0, 0, 0])) false) (bentinS opened [])
      ∧ ran (.fwUpdateCommit (reqF 0x60 ([3, 0, 0, 0])) false) (bentinS opened [])
      ∧ ran (.fwUpdateAbort (reqF 0x60 ([4, 0, 0, 0])) false) (bentinS opened [])
      ∧ ran (.fwUpdateData (reqF 0x60 ([2, 0, 0, 0])) false) (bentinS opened [updating 3 1 0 100])
      ∧ ran (.fwUpdateData (reqF 0x60 ([2, 0, 0, 0, 0] ++ zeros 7)) false) (bentinS opened [updating 3 1 0 3])
      ∧ ran (.fwUpdateData (reqF 0x60 ([2, 0, 0, 0, 0] ++ zeros 7)) true) (bentinS opened [updating 3 1 0 4])
      ∧ ran (.fwUpdateData (reqF 0x60 ([2, 0, 0, 0, 0] ++ zeros 7)) false) (bentinS opened [updating 3 1 0 4])
      ∧ ran (.fwUpdateData (reqF 0x60 ([2, 0, 0, 0, 0] ++ zeros 7)) false) (bentinS opened [updating 3 5 0 12800])
      ∧ ran (.fwUpdateAbort (reqF 0x60 ([4, 0, 0, 0])) false) (bentinS opened [updating 3 1 0 100])
      ∧ ran (.fwUpdateCommit (reqF 0x60 ([3, 0, 0, 0])) false) (bentinS opened [updating 3 1 0 100])
      ∧ ran (.fwUpdateCommit (reqF 0x60 ([3, 0, 0, 0])) false) (bentinS opened [updating 3 5 0 100])
      ∧ ran (.queueCancel (reqF 0x21 ([]))) (bentinS opened ([]))
      ∧ ran (.queuePreempt (reqF 0x22 ([0xFF, 0xF, 0, 0]))) (bentinS opened ([]))
      ∧ ran (.queueCancel (reqF 0x21 ([5, 0, 0xFF, 0xFF]))) (bentinS opened ([withCmds [cmdA]]))
      ∧ ran (.queuePreempt (reqF 0x22 ([5, 0, 0, 0]))) (bentinS opened ([withCmds [cmdA]]))
      ∧ ran (.queueResume (reqF 0x23 ([5, 0, 0, 0]))) (bentinS opened ([withCmds [cmdA]]))
      ∧ ran (.queueCancel (reqF 0x21 ([5, 0, 8, 0]))) (bentinS opened ([withCmds [cmdA]]))
      ∧ ran (.queueCancel (reqF 0x21 ([5, 0, 9, 0]))) (bentinS opened ([withCmds [cmdA]])) := by
  have p (op : Nat) (b : List Byte) (wp : Bool) (l : List Upd) hs := h (bentinS opened l) (reqF op b) (reqQ op b) wp hs (.inl (by decide : (65543 : Nat) ≠ 16368))
  exact ⟨ran_of_completes (((p 0x60 ([1, 0, 0, 0]) false ([]) (by decide +kernel)).1 ⟨⟨asked_of (by decide +kernel), by decide⟩, by decide⟩).1 (by decide +kernel)),
    ran_of_completes (((((p 0x60 (begin_ 5 1 12800) false ([]) (by decide +kernel)).1 ⟨⟨asked_of (by decide +kernel), by decide⟩, by decide⟩).2 (by decide +kernel)).1 (by decide +kernel)).1 (.inl (by decide +kernel))),
    ran_of_completes (((((p 0x60 (begin_ 5 0 12800) false ([updating 4 1 0 0]) (by decide +kernel)).1 ⟨⟨asked_of (by decide +kernel), by decide⟩, by decide⟩).2 (by decide +kernel)).1 (by decide +kernel)).2.1 (by decide +kernel) (by decide +kernel) ⟨⟨4, 1, 0, 0, []⟩, by decide +kernel, by decide⟩),
    ran_of_completes (((((p 0x60 (begin_ 5 0 12800) false ([]) (by decide +kernel)).1 ⟨⟨asked_of (by decide +kernel), by decide⟩, by decide⟩).2 (by decide +kernel)).1 (by decide +kernel)).2.2 (by decide +kernel) (by decide +kernel) (no_update (by decide +kernel))),
    ran_of_completes ((((p 0x60 (begin_ 6 0 0) false ([]) (by decide +kernel)).1 ⟨⟨asked_of (by decide +kernel), by decide⟩, by decide⟩).2 (by decide +kernel)).2.1 (.inr (.inl (by decide +kernel)))),
    ran_of_completes (((((p 0x60 (begin_ 1 0 0x800001) false ([]) (by decide +kernel)).1 ⟨⟨asked_of (by decide +kernel), by decide⟩, by decide⟩).2 (by decide +kernel)).2.2 (by decide +kernel) (by decide +kernel) (by decide +kernel)).1 (by decide +kernel)),
    ran_of_completes (((((p 0x60 (begin_ 2 1 0x4000000) false ([inForceB]) (by decide +kernel)).1 ⟨⟨asked_of (by decide +kernel), by decide⟩, by decide⟩).2 (by decide +kernel)).2.2 (by decide +kernel) (by decide +kernel) (by decide +kernel)).2.1 (by decide +kernel) (.inl (by decide +kernel))),
    ran_of_completes (((((p 0x60 (begin_ 1 0 0) true ([]) (by decide +kernel)).1 ⟨⟨asked_of (by decide +kernel), by decide⟩, by decide⟩).2 (by decide +kernel)).2.2 (by decide +kernel) (by decide +kernel) (by decide +kernel)).2.1 (by decide +kernel) (.inr (.inr ⟨rfl, .inl (by decide +kernel)⟩))),
    ran_of_completes (((((p 0x60 (begin_ 1 0 0x800000) false ([]) (by decide +kernel)).1 ⟨⟨asked_of (by decide +kernel), by decide⟩, by decide⟩).2 (by decide +kernel)).2.2 (by decide +kernel) (by decide +kernel) (by decide +kernel)).2.2 (by decide +kernel) (by decide +kernel) (no_update (by decide +kernel)) (fun w => Bool.noConfusion w.1)),
    ran_of_completes (((((p 0x60 (begin_ 2 2 0x4000000) false ([inForceB]) (by decide +kernel)).1 ⟨⟨asked_of (by decide +kernel), by decide⟩, by decide⟩).2 (by decide +kernel)).2.2 (by decide +kernel) (by decide +kernel) (by decide +kernel)).2.2 (by decide +kernel) (by decide +kernel) (no_update (by decide +kernel)) (fun w => Bool.noConfusion w.1)),
    ran_of_completes ((p 0x60 ([2, 0, 0, 0]) false ([]) (by decide +kernel)).2.1 2 (.fwUpdateData (reqF 0x60 ([2, 0, 0, 0])) false) (.head _) ⟨⟨asked_of (by decide +kernel), by decide⟩, by decide⟩ (.inl (by decide +kernel))),
    ran_of_completes ((p 0x60 ([3, 0, 0, 0]) false ([]) (by decide +kernel)).2.1 3 (.fwUpdateCommit (reqF 0x60 ([3, 0, 0, 0])) false) (.tail _ (.head _)) ⟨⟨asked_of (by decide +kernel), by decide⟩, by decide⟩ (.inl (by decide +kernel))),
    ran_of_completes ((p 0x60 ([4, 0, 0, 0]) false ([]) (by decide +kernel)).2.1 4 (.fwUpdateAbort (reqF 0x60 ([4, 0, 0, 0])) false) (.tail _ (.tail _ (.head _))) ⟨⟨asked_of (by decide +kernel), by decide⟩, by decide⟩ (.inl (by decide +kernel))),
    ran_of_completes ((((p 0x60 ([2, 0, 0, 0]) false ([updating 3 1 0 100]) (by decide +kernel)).2.2.1 ⟨3, 1, 0, 100, []⟩ (by decide +kernel) (by decide +kernel)).1 ⟨⟨asked_of (by decide +kernel), by decide⟩, by decide⟩).1 (.inl (by decide +kernel))),
    ran_of_completes ((((p 0x60 ([2, 0, 0, 0, 0] ++ zeros 7) false ([updating 3 1 0 3]) (by decide +kernel)).2.2.1 ⟨3, 1, 0, 3, []⟩ (by decide +kernel) (by decide +kernel)).1 ⟨⟨asked_of (by decide +kernel), by decide⟩, by decide⟩).2.1 (by decide +kernel) (by decide +kernel) (.inl (by decide +kernel))),
    ran_of_completes ((((p 0x60 ([2, 0, 0, 0, 0] ++ zeros 7) true ([updating 3 1 0 4]) (by decide +kernel)).2.2.1 ⟨3, 1, 0, 4, []⟩ (by decide +kernel) (by decide +kernel)).1 ⟨⟨asked_of (by decide +kernel), by decide⟩, by decide⟩).2.2.1 (by decide +kernel) (by decide +kernel) (by decide +kernel) (by decide +kernel) ⟨rfl, .inl rfl⟩),
    ran_of_completes (((((p 0x60 ([2, 0, 0, 0, 0] ++ zeros 7) false ([updating 3 1 0 4]) (by decide +kernel)).2.2.1 ⟨3, 1, 0, 4, []⟩ (by decide +kernel) (by decide +kernel)).1 ⟨⟨asked_of (by decide +kernel), by decide⟩, by decide⟩).2.2.2 (by decide +kernel) (by decide +kernel) (by decide +kernel) (by decide +kernel) (fun w => Bool.noConfusion w.1)).1 (0, 0x800000) (by decide +kernel)),
    ran_of_completes (((((p 0x60 ([2, 0, 0, 0, 0] ++ zeros 7) false ([updating 3 5 0 12800]) (by decide +kernel)).2.2.1 ⟨3, 5, 0, 12800, []⟩ (by decide +kernel) (by decide +kernel)).1 ⟨⟨asked_of (by decide +kernel), by decide⟩, by decide⟩).2.2.2 (by decide +kernel) (by decide +kernel) (by decide +kernel) (by decide +kernel) (fun w => Bool.noConfusion w.1)).2 (by decide +kernel)),
    ran_of_completes (((p 0x60 ([4, 0, 0, 0]) false ([updating 3 1 0 100]) (by decide +kernel)).2.2.1 ⟨3, 1, 0, 100, []⟩ (by decide +kernel) (by decide +kernel)).2.1 ⟨⟨asked_of (by decide +kernel), by decide⟩, by decide⟩),
    ran_of_bool ((((p 0x60 ([3, 0, 0, 0]) false ([updating 3 1 0 100]) (by decide +kernel)).2.2.1 ⟨3, 1, 0, 100, []⟩ (by decide +kernel) (by decide +kernel)).2.2.1 ⟨⟨asked_of (by decide +kernel), by decide⟩, by decide⟩) (by decide +kernel)),
    ran_of_bool ((((p 0x60 ([3, 0, 0, 0]) false ([updating 3 5 0 100]) (by decide +kernel)).2.2.1 ⟨3, 5, 0, 100, []⟩ (by decide +kernel) (by decide +kernel)).2.2.2 ⟨⟨asked_of (by decide +kernel), by decide⟩, by decide⟩) (by decide +kernel)),
    ran_of_completes (((p 0x21 ([]) false ([]) (by decide +kernel)).2.2.2.1 (0x21, .queueCancel (reqF 0x21 [])) (.head _) ⟨asked_of (by decide +kernel), by decide⟩).1 (by decide +kernel)),
    ran_of_completes (((p 0x22 ([0xFF, 0xF, 0, 0]) false ([]) (by decide +kernel)).2.2.2.1 (0x22, .queuePreempt (reqF 0x22 [0xFF, 0xF, 0, 0])) (.tail _ (.head _)) ⟨asked_of (by decide +kernel), by decide⟩).2 (by decide +kernel) (by decide +kernel)),
    ran_of_completes (((p 0x21 ([5, 0, 0xFF, 0xFF]) false ([withCmds [cmdA]]) (by decide +kernel)).2.2.2.2 (by decide +kernel) (by decide +kernel) (by decide +kernel)).1 ⟨asked_of (by decide +kernel), by decide⟩ (by decide +kernel)),
    ran_of_completes (((p 0x22 ([5, 0, 0, 0]) false ([withCmds [cmdA]]) (by decide +kernel)).2.2.2.2 (by decide +kernel) (by decide +kernel) (by decide +kernel)).2.1 ⟨asked_of (by decide +kernel), by decide⟩ ),
    ran_of_completes (((p 0x23 ([5, 0, 0, 0]) false ([withCmds [cmdA]]) (by decide +kernel)).2.2.2.2 (by decide +kernel) (by decide +kernel) (by decide +kernel)).2.2.1 ⟨asked_of (by decide +kernel), by decide⟩ ),
    ran_of_completes (((p 0x21 ([5, 0, 8, 0]) false ([withCmds [cmdA]]) (by decide +kernel)).2.2.2.2 (by decide +kernel) (by decide +kernel) (by decide +kernel)).2.2.2.1 ⟨asked_of (by decide +kernel), by decide⟩ (by decide +kernel) (by decide +kernel)),
    ran_of_completes (((p 0x21 ([5, 0, 9, 0]) false ([withCmds [cmdA]]) (by decide +kernel)).2.2.2.2 (by decide +kernel) (by decide +kernel) (by decide +kernel)).2.2.2.2 ⟨asked_of (by decide +kernel), by decide⟩ (by decide +kernel) cmdA 9 (by decide +kernel) (by decide +kernel) (by decide +kernel) (by decide +kernel))⟩

/-! ### Queues and drovers -/

@[irreducible] def cmdS (l : List Command) (u : List Upd) : State := machine (cluster0 flock0) (withCmds l :: u)
def bodyOf (op ver flocks mask save : Nat) : List Byte := argBlock 8 [(0, op + ver * 2 ^ 24), (1, 0x10000), (3, 255 * 2 ^ 16 + flocks * 2 ^ 32), (4, mask), (7, save)]
/-- RUN of `flocks` flocks on logical cluster 0. -/
def cmdR (st : CmdSt) (flocks : Nat) : Command := { cmdA with
  body := bodyOf 1 1 flocks 1 0x20000
  st := st
  slots := false
  started := false }
def cmdM (st : CmdSt) : Command := { cmdA with body := bodyOf 2 0 0 0 0, st := st, ctag := 0xFFFF }
/-- Queue 5 enabled. -/
def en5 (prod cons : Nat) : List Upd := qr R.Q_CFG 1 :: ring5 prod cons
def other (i : Nat) : Command := { cmdA with key := 7 * 2 ^ 32 + i, queue := 6, ctag := i }
def awake0 : Upd := .dom 1000 ⟨.on, 1, none⟩
def dieOff : Upd := .dom 1000 ⟨.off, 0, none⟩

theorem witness_QueuesFetchArmAndStart (h : Obligations.QueuesFetchArmAndStart) :
    ran (.queueFetch 4095) (cmdS ([]) ([]))
      ∧ ran (.queueFetch 5) (cmdS ([]) (en5 17 0))
      ∧ ran (.queueFetch 5) (cmdS ([]) (en5 16 0))
      ∧ ran (.queueFetch 5) (cmdS ([{ cmdR .armed 1 with key := 6 * 2 ^ 32 + 1 }]) (en5 16 0))
      ∧ ran (.commandArm 5) (cmdS ([]) ([]))
      ∧ ran (.commandArm 5) (cmdS ([cmdR .queued 1, { cmdR .armed 1 with key := 6 * 2 ^ 32 + 1 }]) ([]))
      ∧ ran (.commandArm 5) (cmdS (cmdR .queued 1 :: (List.range 256).map other) ([]))
      ∧ ran (.commandArm 5) (cmdS ([cmdM .queued]) ([]))
      ∧ ran (.commandArm 5) (cmdS ([cmdR .queued 1]) ([]))
      ∧ ran (.commandArm 5) (cmdS ([cmdR .queued 0]) ([]))
      ∧ ran (.marker 5) (cmdS ([{ cmdM .armed with seq := 1 }, cmdR .running 1]) ([]))
      ∧ ran (.marker 5) (cmdS ([cmdM .armed]) ([]))
      ∧ ran (.drvDispatch 0) (cmdS ([]) ([]))
      ∧ ran (.drvDispatch 0) (cmdS ([{ cmdR .parked 1 with parkBy := .drover }]) ([]))
      ∧ ran (.drvDispatch 0) (cmdS ([cmdR .armed 224]) ([]))
      ∧ ran (.drvDispatch 0) (cmdS ([cmdR .armed 1, { cmdR .running 224 with slots := true, key := 6 * 2 ^ 32 + 1 }]) ([]))
      ∧ ran (.commandStart 9) (cmdS ([]) ([]))
      ∧ ran (.commandStart 9) (cmdS ([cmdR .running 1]) ([]))
      ∧ ran (.commandStart 9) (cmdS ([cmdR .waking 1]) ([dieOff]))
      ∧ ran (.commandStart 9) (cmdS ([cmdR .waking 2]) ([]))
      ∧ ran (.run 5) (cmdS ([]) ([]))
      ∧ ran (.run 5) (cmdS ([cmdM .armed]) ([]))
      ∧ ran (.run 5) (cmdS ([cmdR .armed 224]) ([])) := by
  have p (l : List Command) (u : List Upd) (q : Fin 4096) (d : Fin 16) (tag : Fin 4096) (c : Command) hs hu := h (cmdS l u) q d tag c hs hu
  exact ⟨ran_of_becomes ((p [] [] 4095 0 0 cmdA (by decide +kernel) (by unfold Dev.untraced; decide +kernel)).1 (.inl (by decide +kernel))),
    ran_of_completes ((p ([]) (en5 17 0) 5 0 9 (cmdA) (by decide +kernel) (by unfold Dev.untraced; decide +kernel)).2.1 (fun w => absurd w (by decide +kernel)) (by decide +kernel)),
    ran_of_completes ((p ([]) (en5 16 0) 5 0 9 (cmdA) (by decide +kernel) (by unfold Dev.untraced; decide +kernel)).2.2.2.1 (fun w => absurd w (by decide +kernel)) (by decide +kernel) (by decide +kernel) (by unfold Dev.errorless; decide +kernel) (by decide +kernel) (by decide +kernel)),
    ran_of_becomes ((p ([{ cmdR .armed 1 with key := 6 * 2 ^ 32 + 1 }]) (en5 16 0) 5 0 9 (cmdA) (by decide +kernel) (by unfold Dev.untraced; decide +kernel)).2.2.1 (fun w => absurd w (by decide +kernel)) (by decide +kernel) (by decide +kernel) (by unfold Dev.errorless; decide +kernel) (.inl (by decide +kernel))),
    ran_of_becomes ((p ([]) ([]) 5 0 9 (cmdA) (by decide +kernel) (by unfold Dev.untraced; decide +kernel)).2.2.2.2.1 (by decide +kernel)),
    ran_of_becomes (((p ([cmdR .queued 1, { cmdR .armed 1 with key := 6 * 2 ^ 32 + 1 }]) ([]) 5 0 9 (cmdR .queued 1) (by decide +kernel) (by unfold Dev.untraced; decide +kernel)).2.2.2.2.2.1 (by decide +kernel) (by decide +kernel)).1 (.inl (by decide +kernel))),
    ran_of_completes ((((p (cmdR .queued 1 :: (List.range 256).map other) ([]) 5 0 9 (cmdR .queued 1) (by decide +kernel) (by unfold Dev.untraced; decide +kernel)).2.2.2.2.2.1 (by decide +kernel) (by decide +kernel)).2 (by decide +kernel) (fun w => absurd w (by decide +kernel))).1 (by decide +kernel) (by decide +kernel) (by decide +kernel)),
    ran_of_completes ((((p ([cmdM .queued]) ([]) 5 0 9 (cmdM .queued) (by decide +kernel) (by unfold Dev.untraced; decide +kernel)).2.2.2.2.2.1 (by decide +kernel) (by decide +kernel)).2 (by decide +kernel) (fun w => absurd w (by decide +kernel))).2.1 (.inl (by decide +kernel)) (by decide +kernel)),
    ran_of_completes ((((p ([cmdR .queued 1]) ([]) 5 0 9 (cmdR .queued 1) (by decide +kernel) (by unfold Dev.untraced; decide +kernel)).2.2.2.2.2.1 (by decide +kernel) (by decide +kernel)).2 (by decide +kernel) (fun w => absurd w (by decide +kernel))).2.1 (.inr (by decide +kernel)) (by decide +kernel)),
    ran_of_completes ((((p ([cmdR .queued 0]) ([]) 5 0 9 (cmdR .queued 0) (by decide +kernel) (by unfold Dev.untraced; decide +kernel)).2.2.2.2.2.1 (by decide +kernel) (by decide +kernel)).2 (by decide +kernel) (fun w => absurd w (by decide +kernel))).2.2 (.inr (by decide +kernel)) (by decide +kernel)),
    ran_of_becomes (((p ([{ cmdM .armed with seq := 1 }, cmdR .running 1]) ([]) 5 0 9 ({ cmdM .armed with seq := 1 }) (by decide +kernel) (by unfold Dev.untraced; decide +kernel)).2.2.2.2.2.2.1 (by decide +kernel) (by decide +kernel) (by decide +kernel) (by decide +kernel)).1 ⟨cmdR .running 1, (by decide +kernel), (by decide +kernel), (by decide +kernel)⟩),
    ran_of_completes (((p ([cmdM .armed]) ([]) 5 0 9 (cmdM .armed) (by decide +kernel) (by unfold Dev.untraced; decide +kernel)).2.2.2.2.2.2.1 (by decide +kernel) (by decide +kernel) (by decide +kernel) (by decide +kernel)).2 (by decide +kernel)),
    ran_of_becomes ((p ([]) ([]) 5 0 9 (cmdA) (by decide +kernel) (by unfold Dev.untraced; decide +kernel)).2.2.2.2.2.2.2.1 (.inr (by decide +kernel))),
    ran_of_becomes (((p ([{ cmdR .parked 1 with parkBy := .drover }]) ([]) 5 0 9 ({ cmdR .parked 1 with parkBy := .drover }) (by decide +kernel) (by unfold Dev.untraced; decide +kernel)).2.2.2.2.2.2.2.2.1 (by decide +kernel) (by decide +kernel) (by unfold Dev.cmdsSound; decide +kernel)).1 rfl (by decide +kernel)),
    ran_of_completes (((p ([cmdR .armed 224]) ([]) 5 0 9 (cmdR .armed 224) (by decide +kernel) (by unfold Dev.untraced; decide +kernel)).2.2.2.2.2.2.2.2.1 (by decide +kernel) (by decide +kernel) (by unfold Dev.cmdsSound; decide +kernel)).2.1 rfl (by decide +kernel)),
    ran_of_completes (((p ([cmdR .armed 1, { cmdR .running 224 with slots := true, key := 6 * 2 ^ 32 + 1 }]) ([]) 5 0 9 (cmdR .armed 1) (by decide +kernel) (by unfold Dev.untraced; decide +kernel)).2.2.2.2.2.2.2.2.1 (by decide +kernel) (by decide +kernel) (by unfold Dev.cmdsSound; decide +kernel)).2.2 rfl (by decide +kernel)),
    ran_of_becomes ((p ([]) ([]) 5 0 9 (cmdA) (by decide +kernel) (by unfold Dev.untraced; decide +kernel)).2.2.2.2.2.2.2.2.2.1 (by decide +kernel)),
    ran_of_becomes (((p ([cmdR .running 1]) ([]) 5 0 9 (cmdR .running 1) (by decide +kernel) (by unfold Dev.untraced; decide +kernel)).2.2.2.2.2.2.2.2.2.2.1 (by decide +kernel)).1 (by decide)),
    ran_of_completes (((p ([cmdR .waking 1]) ([dieOff]) 5 0 9 (cmdR .waking 1) (by decide +kernel) (by unfold Dev.untraced; decide +kernel)).2.2.2.2.2.2.2.2.2.2.1 (by decide +kernel)).2.1 rfl (by decide +kernel)),
    ran_of_completes (((p ([cmdR .waking 2]) ([]) 5 0 9 (cmdR .waking 2) (by decide +kernel) (by unfold Dev.untraced; decide +kernel)).2.2.2.2.2.2.2.2.2.2.1 (by decide +kernel)).2.2 rfl (by decide +kernel) (by unfold Dev.cmdsSound; decide +kernel) rfl (by decide +kernel) (by decide +kernel)),
    ran_of_becomes ((p ([]) ([]) 5 0 9 (cmdA) (by decide +kernel) (by unfold Dev.untraced; decide +kernel)).2.2.2.2.2.2.2.2.2.2.2.1 (by decide +kernel)),
    ran_of_becomes ((p ([cmdM .armed]) ([]) 5 0 9 (cmdM .armed) (by decide +kernel) (by unfold Dev.untraced; decide +kernel)).2.2.2.2.2.2.2.2.2.2.2.2.1 (by decide +kernel) (by decide +kernel)),
    ran_of_completes ((p ([cmdR .armed 224]) ([]) 5 0 9 (cmdR .armed 224) (by decide +kernel) (by unfold Dev.untraced; decide +kernel)).2.2.2.2.2.2.2.2.2.2.2.2.2 (by decide +kernel) (by decide +kernel) (by decide +kernel) (by decide +kernel) rfl (by decide +kernel) rfl (by decide +kernel) (by decide +kernel) (by decide +kernel) rfl (by decide +kernel))⟩

/-- Cluster 0 with this flock on core 0, and these commands. -/
@[irreducible] def parkS (f : Flock) (l : List Command) (u : List Upd) : State := machine (cluster0 f) (withCmds l :: stacksOn ++ u)
def cmdP (st : CmdSt) (by_ : ParkBy) : Command := { cmdR st 1 with parkBy := by_, slots := true }
def cplRing (prod cons : Nat) : List Upd := [qr R.Q_RING_SIZE 0x44, qr R.Q_CRING_LO 0x20000, qr R.Q_CPL_PROD prod, qr R.Q_CPL_CONS cons]
/-- A flock of `cmdA` whose context is being saved. -/
def saving : Flock := { flock0 with st := .saving, cmd := 6 * 2 ^ 32 }

theorem no_some {α : Type} {o : Option α} {P : α → Prop} (h : o = none) : ¬∃ y, o = some y ∧ P y := fun ⟨y, hy, _⟩ => by rw [h] at hy; cases hy

theorem witness_CommandsCompleteParkAndResume (h : Obligations.CommandsCompleteParkAndResume) :
    ran (.commandComplete 9) (parkS (flock0) ([]) ([]))
      ∧ ran (.commandPark 9) (parkS (flock0) ([]) ([]))
      ∧ ran (.commandResume 9) (parkS (flock0) ([]) ([]))
      ∧ ran (.commandComplete 9) (parkS (flock0) ([{ cmdA with st := .complete }]) ([]))
      ∧ ran (.commandComplete 9) (parkS (flock0) ([cmdR .armed 1]) ([]))
      ∧ ran (.commandComplete 9) (parkS (flock0) ([cmdA]) (cplRing 15 0))
      ∧ ran (.commandPark 9) (parkS (flock0) ([cmdR .running 1]) ([]))
      ∧ ran (.commandPark 9) (parkS (saving) ([cmdP .preempting .drover]) (cplRing 16 0))
      ∧ ran (.commandResume 9) (parkS (flock0) ([cmdR .running 1]) ([]))
      ∧ ran (.commandResume 9) (parkS (flock0) ([cmdP .parked .drover]) ([dieOff]))
      ∧ ran (.commandResume 9) (parkS (flock0) ([{ cmdP .parked .drover with saved := [⟨0, [], [0]⟩] }]) ([]))
      ∧ ran (.clusterIdleSleep 15 159) (parkS (flock0) ([]) ([]))
      ∧ ran (.clusterIdleSleep 0 0) (parkS (flock0) ([cmdR .queued 1]) ([reg .drv 0 0 R.DRV_CTRL 0x10001]))
      ∧ ran (.qCtrlCancel 4095) (parkS (flock0) ([]) ([]))
      ∧ ran (.qCtrlPreempt 4095) (parkS (flock0) ([]) ([]))
      ∧ ran (.qCtrlResume 4095) (parkS (flock0) ([]) ([]))
      ∧ ran (.qCfgWrite 4095 0) (parkS (flock0) ([]) ([]))
      ∧ ran (.qTrigWrite 4095 0) (parkS (flock0) ([]) ([]))
      ∧ ran (.qCtrlCancel 5) (parkS (flock0) ([cmdA]) ([]))
      ∧ ran (.qCtrlResume 5) (parkS (flock0) ([cmdP .parked .request]) ([]))
      ∧ ran (.qCtrlPreempt 5) (parkS (flock0) ([cmdA]) ([]))
      ∧ ran (.drvCancel 0 4095) (parkS (flock0) ([cmdA]) ([]))
      ∧ ran (.drvCancel 0 9) (parkS (flock0) ([{ cmdA with st := .complete }]) ([]))
      ∧ ran (.drvCancel 0 9) (parkS (flock0) ([cmdA]) ([]))
      ∧ ran (.qCfgWrite 5 0) (parkS (flock0) ([]) ([qr R.Q_CFG 5]))
      ∧ ran (.qCfgWrite 5 0xFFFFFFFE) (parkS (flock0) ([]) ([]))
      ∧ ran (.qCfgWrite 5 1) (parkS (flock0) ([]) (cplRing 0 0))
      ∧ ran (.qTrigWrite 5 0x1C000) (parkS (flock0) ([]) ([]))
      ∧ ran (.qTrigWrite 5 0x18000) (parkS (flock0) ([]) ([])) := by
  have p (f : Flock) (l : List Command) (u : List Upd) (q : Fin 4096) (d : Fin 16) (cl : Fin 160) (tag : Fin 4096) (c : Command) (v : BitVec 32) hs hu :=
    h (parkS f l u) q d cl tag c v hs hu
  exact ⟨ran_of_becomes (((p (flock0) ([]) ([]) 5 0 0 9 (cmdA) 0 (by decide +kernel) (by unfold Dev.untraced; decide +kernel)).1 (by decide +kernel)).1),
    ran_of_becomes (((p (flock0) ([]) ([]) 5 0 0 9 (cmdA) 0 (by decide +kernel) (by unfold Dev.untraced; decide +kernel)).1 (by decide +kernel)).2.1),
    ran_of_becomes (((p (flock0) ([]) ([]) 5 0 0 9 (cmdA) 0 (by decide +kernel) (by unfold Dev.untraced; decide +kernel)).1 (by decide +kernel)).2.2),
    ran_of_becomes (((p (flock0) ([{ cmdA with st := .complete }]) ([]) 5 0 0 9 ({ cmdA with st := .complete }) 0 (by decide +kernel) (by unfold Dev.untraced; decide +kernel)).2.1 (by decide +kernel) (by unfold Dev.cmdsSound; decide +kernel)).1 rfl (by decide +kernel)),
    ran_of_becomes (((p (flock0) ([cmdR .armed 1]) ([]) 5 0 0 9 (cmdR .armed 1) 0 (by decide +kernel) (by unfold Dev.untraced; decide +kernel)).2.1 (by decide +kernel) (by unfold Dev.cmdsSound; decide +kernel)).2.1 (by decide) (fun w => absurd w (by decide +kernel))),
    ran_of_completes (((p (flock0) ([cmdA]) (cplRing 15 0) 5 0 0 9 (cmdA) 0 (by decide +kernel) (by unfold Dev.untraced; decide +kernel)).2.1 (by decide +kernel) (by unfold Dev.cmdsSound; decide +kernel)).2.2.1 (by decide) (by decide +kernel) rfl (by decide +kernel) (by decide +kernel) (by decide +kernel) ⟨by unfold Dev.errorless; decide +kernel, by decide +kernel⟩),
    ran_of_becomes (((p (flock0) ([cmdR .running 1]) ([]) 5 0 0 9 (cmdR .running 1) 0 (by decide +kernel) (by unfold Dev.untraced; decide +kernel)).2.1 (by decide +kernel) (by unfold Dev.cmdsSound; decide +kernel)).2.2.2.1.1 (fun w => absurd w (by decide +kernel))),
    ran_of_completes (((p (saving) ([cmdP .preempting .drover]) (cplRing 16 0) 5 0 0 9 (cmdP .preempting .drover) 0 (by decide +kernel) (by unfold Dev.untraced; decide +kernel)).2.1 (by decide +kernel) (by unfold Dev.cmdsSound; decide +kernel)).2.2.2.1.2 (by decide +kernel) rfl rfl (by decide +kernel) 0 (by decide +kernel) (by decide +kernel) (by decide +kernel) (by unfold Dev.errorless; decide +kernel)),
    ran_of_becomes (((p (flock0) ([cmdR .running 1]) ([]) 5 0 0 9 (cmdR .running 1) 0 (by decide +kernel) (by unfold Dev.untraced; decide +kernel)).2.1 (by decide +kernel) (by unfold Dev.cmdsSound; decide +kernel)).2.2.2.2.1 (fun w => absurd w (by decide +kernel))),
    ran_of_completes (((p (flock0) ([cmdP .parked .drover]) ([dieOff]) 5 0 0 9 (cmdP .parked .drover) 0 (by decide +kernel) (by unfold Dev.untraced; decide +kernel)).2.1 (by decide +kernel) (by unfold Dev.cmdsSound; decide +kernel)).2.2.2.2.2.1 (by decide +kernel) (by decide +kernel) (by decide +kernel)),
    ran_of_completes (((p (flock0) ([{ cmdP .parked .drover with saved := [⟨0, [], [0]⟩] }]) ([]) 5 0 0 9 ({ cmdP .parked .drover with saved := [⟨0, [], [0]⟩] }) 0 (by decide +kernel) (by unfold Dev.untraced; decide +kernel)).2.1 (by decide +kernel) (by unfold Dev.cmdsSound; decide +kernel)).2.2.2.2.2.2 (by decide +kernel) (by decide +kernel) (by unfold Dev.errorless; decide +kernel) (by decide +kernel)),
    ran_of_becomes ((p (flock0) ([]) ([]) 5 15 159 9 (cmdA) 0 (by decide +kernel) (by unfold Dev.untraced; decide +kernel)).2.2.1.1 (fun w => absurd w (by decide +kernel))),
    ran_of_completes ((p (flock0) ([cmdR .queued 1]) ([reg .drv 0 0 R.DRV_CTRL 0x10001]) 5 0 0 9 (cmdA) 0 (by decide +kernel) (by unfold Dev.untraced; decide +kernel)).2.2.1.2 (by decide +kernel)),
    ran_of_becomes (((p (flock0) ([]) ([]) 4095 0 0 9 (cmdA) 0 (by decide +kernel) (by unfold Dev.untraced; decide +kernel)).2.2.2.1 (by decide +kernel)).1),
    ran_of_becomes (((p (flock0) ([]) ([]) 4095 0 0 9 (cmdA) 0 (by decide +kernel) (by unfold Dev.untraced; decide +kernel)).2.2.2.1 (by decide +kernel)).2.1),
    ran_of_becomes (((p (flock0) ([]) ([]) 4095 0 0 9 (cmdA) 0 (by decide +kernel) (by unfold Dev.untraced; decide +kernel)).2.2.2.1 (by decide +kernel)).2.2.1),
    ran_of_becomes (((p (flock0) ([]) ([]) 4095 0 0 9 (cmdA) 0 (by decide +kernel) (by unfold Dev.untraced; decide +kernel)).2.2.2.1 (by decide +kernel)).2.2.2.1),
    ran_of_becomes (((p (flock0) ([]) ([]) 4095 0 0 9 (cmdA) 0 (by decide +kernel) (by unfold Dev.untraced; decide +kernel)).2.2.2.1 (by decide +kernel)).2.2.2.2),
    ran_of_completes (((p (flock0) ([cmdA]) ([]) 5 0 0 9 (cmdA) 0 (by decide +kernel) (by unfold Dev.untraced; decide +kernel)).2.2.2.2.1 (by decide +kernel) (by unfold Dev.cmdsSound; decide +kernel)).1),
    ran_of_completes (((p (flock0) ([cmdP .parked .request]) ([]) 5 0 0 9 (cmdA) 0 (by decide +kernel) (by unfold Dev.untraced; decide +kernel)).2.2.2.2.1 (by decide +kernel) (by unfold Dev.cmdsSound; decide +kernel)).2.1),
    ran_of_completes (((p (flock0) ([cmdA]) ([]) 5 0 0 9 (cmdA) 0 (by decide +kernel) (by unfold Dev.untraced; decide +kernel)).2.2.2.2.1 (by decide +kernel) (by unfold Dev.cmdsSound; decide +kernel)).2.2),
    ran_of_becomes ((p (flock0) ([cmdA]) ([]) 5 0 0 4095 (cmdA) 0 (by decide +kernel) (by unfold Dev.untraced; decide +kernel)).2.2.2.2.2.1 (.inr (.inl (by decide +kernel)))),
    ran_of_becomes (((p (flock0) ([{ cmdA with st := .complete }]) ([]) 5 0 0 9 ({ cmdA with st := .complete }) 0 (by decide +kernel) (by unfold Dev.untraced; decide +kernel)).2.2.2.2.2.2.1 (by decide +kernel) (by decide +kernel) (by decide +kernel) (by unfold Dev.cmdsSound; decide +kernel)).1 rfl),
    ran_of_completes (((p (flock0) ([cmdA]) ([]) 5 0 0 9 (cmdA) 0 (by decide +kernel) (by unfold Dev.untraced; decide +kernel)).2.2.2.2.2.2.1 (by decide +kernel) (by decide +kernel) (by decide +kernel) (by unfold Dev.cmdsSound; decide +kernel)).2),
    ran_of_becomes (((p (flock0) ([]) ([qr R.Q_CFG 5]) 5 0 0 9 (cmdA) 0 (by decide +kernel) (by unfold Dev.untraced; decide +kernel)).2.2.2.2.2.2.2.1 (by decide +kernel)).1 (by decide +kernel)),
    ran_of_becomes (((p (flock0) ([]) ([]) 5 0 0 9 (cmdA) 0xFFFFFFFE (by decide +kernel) (by unfold Dev.untraced; decide +kernel)).2.2.2.2.2.2.2.1 (by decide +kernel)).2.1 (fun w => absurd w (by decide +kernel)) (by decide +kernel)),
    ran_of_completes (((p (flock0) ([]) (cplRing 0 0) 5 0 0 9 (cmdA) 1 (by decide +kernel) (by unfold Dev.untraced; decide +kernel)).2.2.2.2.2.2.2.1 (by decide +kernel)).2.2 (fun w => absurd w (by decide +kernel)) (by decide +kernel)),
    ran_of_becomes (((p (flock0) ([]) ([]) 5 0 0 9 (cmdA) 0x1C000 (by decide +kernel) (by unfold Dev.untraced; decide +kernel)).2.2.2.2.2.2.2.2 (by decide +kernel)).1 (by decide +kernel) (fun w => no_some (by decide +kernel) w.2)),
    ran_of_becomes (((p (flock0) ([]) ([]) 5 0 0 9 (cmdA) 0x18000 (by decide +kernel) (by unfold Dev.untraced; decide +kernel)).2.2.2.2.2.2.2.2 (by decide +kernel)).2 (.inr ⟨(by decide +kernel), ⟨false, 0, 0⟩, (by decide +kernel), (by decide +kernel)⟩))⟩

@[irreducible] def mailS (x : Mailbox) (l : List Upd) : State := bentinS opened (.mbox 63 x :: l)
def mbCfg (v unit : Nat) : List Upd := [reg .mb 20 63 R.MB_CFG v, reg .mb 20 63 R.MB_TARGET unit]
def fullM : Mailbox := { Mailbox.reset with full := true, waiting := true, reply := some ⟨3, 5, 65543⟩ }
def claim (r w : Nat) : List Upd := [reg .res 20 0 (R.RES_CLAIM + 4 * r) w]

theorem witness_MailboxesAndClaims (h : Obligations.MailboxesAndClaims) :
    ran (.mbSendWin 63 7 (zeros 16)) (mailS Mailbox.reset []) ∧ ran (.mbSendWin 63 7 (zeros 16)) (mailS fullM (mbCfg 1 0)) ∧ ran (.mbSendWin 63 0 (zeros 16)) (mailS Mailbox.reset (mbCfg 2 3))
      ∧ ran (.mbSendWin 63 0 (zeros 16)) (mailS Mailbox.reset (mbCfg 3 0)) ∧ ran (.mbAck 63) (mailS Mailbox.reset []) ∧ ran (.mbAck 63) (mailS fullM []) ∧ ran (.mbTimeout 63) (mailS Mailbox.reset [])
      ∧ ran (.mbTimeout 63) (mailS fullM [reg .mb 20 63 R.MB_CFG 0x3000]) ∧ ran (.resClaim 4 8) (mailS Mailbox.reset []) ∧ ran (.resClaim 4 6) (mailS Mailbox.reset (claim 4 6))
      ∧ ran (.resClaim 4 6) (mailS Mailbox.reset []) ∧ ran (.resClaim 4 6) (mailS Mailbox.reset (claim 4 7)) ∧ ran (.resRelease 2 5) (mailS Mailbox.reset (claim 2 3))
      ∧ ran (.resRelease 2 5) (mailS Mailbox.reset (claim 2 5)) ∧ ran (.resRelease 0 1) (mailS Mailbox.reset (claim 0 1)) := by
  have p (x : Mailbox) (l : List Upd) (core : Fin 8) (r : Fin 5) (f : Fin 256) hs := h (mailS x l) 63 core (zeros 16) r f hs
  obtain ⟨a, e, -, g, -⟩ := p Mailbox.reset [] 7 0 0 (by decide +kernel)
  obtain ⟨b, -⟩ := p fullM (mbCfg 1 0) 7 0 0 (by decide +kernel)
  obtain ⟨c, -⟩ := p Mailbox.reset (mbCfg 2 3) 0 0 0 (by decide +kernel)
  obtain ⟨d, -⟩ := p Mailbox.reset (mbCfg 3 0) 0 0 0 (by decide +kernel)
  obtain ⟨-, -, f, -⟩ := p fullM [] 0 0 0 (by decide +kernel)
  obtain ⟨-, -, -, -, i, -⟩ := p fullM [reg .mb 20 63 R.MB_CFG 0x3000] 0 0 0 (by decide +kernel)
  obtain ⟨-, -, -, -, -, j, -⟩ := p Mailbox.reset [] 0 4 8 (by decide +kernel)
  obtain ⟨-, -, -, -, -, k, -⟩ := p Mailbox.reset (claim 4 6) 0 4 6 (by decide +kernel)
  obtain ⟨-, -, -, -, -, -, l, -⟩ := p Mailbox.reset [] 0 4 6 (by decide +kernel)
  obtain ⟨-, -, -, -, -, -, -, m, -⟩ := p Mailbox.reset (claim 4 7) 0 4 6 (by decide +kernel)
  obtain ⟨-, -, -, -, -, -, -, -, n, -⟩ := p Mailbox.reset (claim 2 3) 0 2 5 (by decide +kernel)
  obtain ⟨-, -, -, -, -, -, -, -, -, o⟩ := p Mailbox.reset (claim 2 5) 0 2 5 (by decide +kernel)
  obtain ⟨-, -, -, -, -, -, -, -, -, q⟩ := p Mailbox.reset (claim 0 1) 0 0 1 (by decide +kernel)
  exact ⟨ran_of_becomes ((a rfl).1 (by decide +kernel)), ran_of_completes ((b rfl).2 (by decide +kernel) (by unfold Dev.errorless; decide +kernel)),
    ran_of_completes ((c rfl).2 (by decide +kernel) (by unfold Dev.errorless; decide +kernel)), ran_of_completes ((d rfl).2 (by decide +kernel) (by unfold Dev.errorless; decide +kernel)),
    ran_of_becomes (e (by decide +kernel)), ran_of_completes (f (by decide +kernel)), ran_of_becomes (g (by decide +kernel)), ran_of_completes (i (by decide +kernel)),
    ran_of_becomes (j (.inl (by decide))), ran_of_becomes (k (.inr (by decide +kernel))), ran_of_becomes (l (by decide) (by decide +kernel)),
    ran_of_becomes (m (by decide) (by decide +kernel) (by decide +kernel)), ran_of_becomes (n (.inl (by decide +kernel))), ran_of_becomes (o (by decide +kernel) (by decide)),
    ran_of_becomes (q (by decide +kernel) (by decide))⟩

/-! ### Start-up and power -/

/-- The machine right after reset, after these updates. -/
@[irreducible] def bootS (l : List Upd) : State := after l
def pow (f : Power → Power) : Upd := .power (f Power.reset)
def aoc (f : Aoc → Aoc) : Upd := .aoc (f { Aoc.reset with step := 2 })
def noInput (mv : Nat) : Upd := pow fun x => { x with inputOk := false, vin := mv }
def held : Upd := aoc fun x => { x with resetLow := true }

theorem witness_StartUpsBegin (h : Obligations.StartUpsBegin) :
    ran .inputOkSet (bootS []) ∧ ran .inputOkSet (bootS [noInput 4000]) ∧ ran .resetAssert (bootS [held]) ∧ ran .resetAssert thr ∧ ran .resetRelease thr
      ∧ ran .resetRelease (bootS [held, noInput 0]) ∧ ran .resetRelease (bootS [held]) ∧ ran (.bootCtrlWrite 0xB007C0DF) thr ∧ ran (.bootCtrlWrite 0xB007C0DE) thr
      ∧ ran (.startupStepTimeout 7) (bootS [held]) ∧ ran (.startupStepTimeout 2) (bootS []) ∧ ran (.startupStepTimeout 2) (bootS [aoc fun x => { x with dead := 1 }])
      ∧ ran (.startupStepTimeout 7) (bootS []) := by
  have p (l : List Upd) (v : BitVec 32) (n : Fin 8) hs := h (bootS l) v n hs
  have q (v : BitVec 32) := h thr v 0 (by decide +kernel)
  obtain ⟨a, -⟩ := p [] 0 2 (by decide +kernel)
  obtain ⟨-, -, -, -, -, -, -, -, -, x⟩ := p [] 0 2 (by decide +kernel)
  obtain ⟨-, -, -, -, -, -, -, -, -, y⟩ := p [] 0 7 (by decide +kernel)
  obtain ⟨-, -, -, -, -, -, -, -, -, z⟩ := p [aoc fun x => { x with dead := 1 }] 0 2 (by decide +kernel)
  obtain ⟨-, b, -⟩ := p [noInput 4000] 0 0 (by decide +kernel)
  obtain ⟨-, -, c, -, -, -, g, -, -, j, -⟩ := p [held] 0 7 (by decide +kernel)
  obtain ⟨-, -, -, d, e, -⟩ := q 0
  obtain ⟨-, -, -, -, -, f, -⟩ := p [held, noInput 0] 0 0 (by decide +kernel)
  obtain ⟨-, -, -, -, -, -, -, i, -⟩ := q 0xB007C0DF
  obtain ⟨-, -, -, -, -, -, -, -, l, -⟩ := q 0xB007C0DE
  exact ⟨ran_of_becomes (a (.inl (by decide +kernel))), ran_of_completes (b (by decide +kernel) (by decide +kernel)), ran_of_becomes (c (by decide +kernel)),
    ran_of_completes (d (by decide +kernel)), ran_of_becomes (e (by decide +kernel)), ran_of_becomes (f (by decide +kernel) (by decide +kernel)),
    ran_of_completes (g (by decide +kernel) (by decide +kernel)), ran_of_becomes (i (.inl (by decide))), ran_of_completes (l rfl (by decide +kernel) (by decide +kernel)),
    ran_of_becomes (j (by decide +kernel)), ran_of_becomes (x.2.1 (by decide +kernel) rfl (by decide +kernel)), ran_of_becomes (z.2.2.1 (by decide +kernel) rfl (by decide +kernel)),
    ran_of_completes (y.2.2.2 (by decide +kernel) (by decide))⟩

def env0 : BootEnv := ⟨true, true, 0, true, [], [], [], 5⟩
/-- A device all of whose flash is erased. -/
def blankF : Upd := aoc fun x => { x with erased := [(0, 0xA000000)] }
def fault (kind die unit : Nat) (hk : kind < 16) (hd : die < 16) (hu : unit < 256) : BootFault := ⟨⟨kind, hk⟩, ⟨die, hd⟩, ⟨unit, hu⟩, 0x80⟩
def bad7 : BootFault := fault 7 0 0 (by decide) (by decide) (by decide)
def bad4 : BootFault := fault 4 15 0 (by decide) (by decide) (by decide)
def bad1 : BootFault := fault 1 15 159 (by decide) (by decide) (by decide)
def spareUsed : Upd := .mem (mramAddr 15 + 0x100) (mapBytes ((List.range 160).map fun l => BitVec.ofNat 8 l) (List.replicate 8 1) 1)
def noRef : State := bootS [pow fun x => { x with ref156 := false }]
/-- What is in force as flash stands. -/
def stage1 (s : State) : Option Nat := s.m.bestSlot 1 s.m.owner fun _ => true
def mainOf (s : State) : Option Nat := s.m.bestSlot 2 s.m.owner fun _ => true
def manOf (s : State) : Option Nat := if s.m.owner.isSome then s.m.bestSlot 3 s.m.owner (manifestOk env0.straps.val) else none

/-- Whether flash holds objects whose signatures hold depends on free values of Config: these start-ups are for either outcome. -/
theorem witness_StartUpRuns (h : Obligations.StartUpRuns) :
    let s := bootS []
    ran (.startUp env0) (bootS [on 0]) ∧ ran (.startUp { env0 with aocOk := false, standbyOk := false }) s ∧ ran (.startUp env0) (bootS [reg .boot 20 0 (R.CNT + 20) 1])
      ∧ ran (.startUp env0) (bootS [blankF])
      ∧ ((stage1 s).isSome = true → ran (.startUp { env0 with straps := 3 }) s ∧ ran (.startUp { env0 with mramOk := false }) s ∧ ran (.startUp { env0 with faults := [bad7] }) s
        ∧ (mainOf s = none → ran (.startUp env0) s)
        ∧ ((mainOf s).isSome = true → (s.m.owner.isSome = true → manOf s = none → ran (.startUp env0) s)
          ∧ (s.m.owner = none ∨ (manOf s).isSome = true → ran (.startUp env0) s ∧ ran (.startUp { env0 with faults := [bad4] }) s ∧ ran (.startUp { env0 with faults := [bad1] }) s)))
 := by
  have p (l : List Upd) (e : BootEnv) hs hu hf := h (bootS l) e hs hu hf
  have q (e : BootEnv) := p [] e (by decide +kernel) (by unfold Dev.untraced; decide +kernel) (by decide +kernel)
  have r (e : BootEnv) (he : e.aocOk = true) := (q e).2.2.2 (by decide +kernel) (.inl ⟨he, by decide +kernel⟩)
  have r (e : BootEnv) (he : e.aocOk = true) := (r e he).2 (by decide +kernel)
  refine ⟨ran_of_becomes ((p [on 0] env0 (by decide +kernel) (by unfold Dev.untraced; decide +kernel) (by decide +kernel)).2.1 (by decide +kernel)),
    ran_of_completes ((q { env0 with aocOk := false, standbyOk := false }).2.2.1 (by decide +kernel) (by decide +kernel) (by decide +kernel)),
    ran_of_completes (((p [reg .boot 20 0 (R.CNT + 20) 1] env0 (by decide +kernel) (by unfold Dev.untraced; decide +kernel) (by decide +kernel)).2.2.2 (by decide +kernel)
      (.inl (by decide +kernel))).1 (by decide +kernel)),
    ran_of_completes ((((p [blankF] env0 (by decide +kernel) (by unfold Dev.untraced; decide +kernel) (by decide +kernel)).2.2.2 (by decide +kernel)
      (.inl (by decide +kernel))).2 (by decide +kernel)).1 (by decide +kernel)), ?_⟩
  · intro a
    have w (e : BootEnv) (he : e.aocOk = true) (hn : e.straps.val ≠ 3) := (r e he).2.2 a hn
    have x (e : BootEnv) (he : e.aocOk = true) (hn : e.straps.val ≠ 3) (hm : e.mramOk = true) := (w e he hn).2 hm
    refine ⟨ran_of_completes ((r { env0 with straps := 3 } rfl).2.1 a rfl), ran_of_completes ((w { env0 with mramOk := false } rfl (by decide)).1 rfl),
      ran_of_completes ((x { env0 with faults := [bad7] } rfl (by decide) rfl).1 bad7 [] (by decide +kernel)), fun b => ?_, fun b => ⟨fun c d => ?_, fun c => ⟨?_, ?_, ?_⟩⟩⟩
    · exact ran_of_completes (((x env0 rfl (by decide) rfl).2 (by decide +kernel)).1 b)
    · exact ran_of_completes (((x env0 rfl (by decide) rfl).2 (by decide +kernel)).2.1 b c d)
    · exact ran_of_completes ((((x env0 rfl (by decide) rfl).2 (by decide +kernel)).2.2 b c).2.1 rfl rfl (by decide +kernel) (by decide +kernel))
    · exact ran_of_completes ((((x { env0 with faults := [bad4] } rfl (by decide) rfl).2 (by decide +kernel)).2.2 b c).2.2.1 bad4 rfl (by decide +kernel))
    · exact ran_of_completes (((((x { env0 with faults := [bad1] } rfl (by decide) rfl).2 (by decide +kernel)).2.2 b c).2.2.2 bad1 160 rfl rfl (by decide +kernel) (by decide +kernel)
        (by decide +kernel) (by decide +kernel) (by decide +kernel) (by decide +kernel)).1 (by decide +kernel))

theorem witness_StartUpRuns_noReference (h : Obligations.StartUpRuns) :
    (stage1 noRef).isSome = true → (mainOf noRef).isSome = true → noRef.m.owner = none ∨ (manOf noRef).isSome = true → ran (.startUp env0) noRef := by
  intro a b c
  have y := (((((h noRef env0 (by decide +kernel) (by unfold Dev.untraced; decide +kernel) (by decide +kernel)).2.2.2 (by decide +kernel)
    (.inl (by decide +kernel))).2 (by decide +kernel)).2.2 a (by decide)).2 rfl).2 (by decide +kernel)
  exact ran_of_completes ((y.2.2 b c).1 rfl rfl (by decide +kernel))

/-- The device with every spare of die 15 in use. -/
def usedS : State := bootS [spareUsed]
/-- What start-up reads of its maps. -/
theorem used_loaded : let x := loadMaps.run usedS.m; x.spareState 15 159 = 0 ∧ x.logicalOf 15 159 < 160 ∧ x.firstSpare 15 = none := by decide +kernel
theorem used_sound : usedS.sound = true ∧ (usedS.m.aoc.inForce == []) = true ∧ usedS.m.cnt 5 ≤ usedS.m.cnt 6 := by decide +kernel
theorem used_untraced : usedS.m.untraced := by unfold Dev.untraced; decide +kernel
theorem witness_StartUpRuns_noSpare (h : Obligations.StartUpRuns) :
    (stage1 usedS).isSome = true → (mainOf usedS).isSome = true → usedS.m.owner = none ∨ (manOf usedS).isSome = true → ran (.startUp { env0 with faults := [bad1] }) usedS := by
  intro a b c
  have y := (((((h usedS { env0 with faults := [bad1] } used_sound.1 used_untraced (by simpa using used_sound.2.1)).2.2.2 (by decide +kernel)
    (.inl (by decide +kernel))).2 used_sound.2.2).2.2 a (by decide)).2 rfl).2 (by decide +kernel)
  exact ran_of_completes (((y.2.2 b c).2.2.2 bad1 0 rfl rfl (by decide +kernel) (by decide +kernel) used_loaded.1 used_loaded.2.1 (by decide +kernel) (by decide +kernel)).2
    used_loaded.2.2)

def dead (n : Nat) : Upd := aoc fun x => { x with dead := n }
/-- The class of every tamper input. -/
def tamper (v : Nat) : Upd := reg .boot 20 0 R.TAMPER_CLASS v

theorem witness_TamperStandbyAndFatal (h : Obligations.TamperStandbyAndFatal) :
    ran (.tamperAlarm 0 31) thr ∧ ran (.tamperAlarm 31 31) (bootS [dead 3]) ∧ ran (.tamperAlarm 16 16) (bootS [tamper 0]) ∧ ran (.tamperAlarm 1 1) (bootS [tamper 1])
      ∧ ran (.tamperAlarm 17 17) (bootS [tamper 0x201]) ∧ ran .aocTakeover (bootS [dead 1]) ∧ ran .aocTakeover thr ∧ ran .aocTakeover (bootS [dead 2]) ∧ ran .standbyAocFailure (bootS [dead 2])
      ∧ ran .standbyAocFailure thr ∧ ran .standbyAocFailure (bootS [dead 1]) ∧ ran (.fatalError 255 true) (bootS [boot (2 ^ 30)]) ∧ ran (.fatalError 255 false) thr
      ∧ ran (.fatalError 0 true) thr := by
  have p (l : List Upd) (a r : Fin 32) hs := h (bootS l) a r 0 true hs
  have q (a r : Fin 32) (c : Fin 256) (v : Bool) := h thr a r c v (by decide +kernel)
  obtain ⟨a, -, ⟨-, g, -, -, j, -⟩, -⟩ := q 0 31 0 true
  obtain ⟨b, -⟩ := p [dead 3] 31 31 (by decide +kernel)
  obtain ⟨-, c, -⟩ := p [tamper 0] 16 16 (by decide +kernel)
  obtain ⟨-, d, -⟩ := p [tamper 1] 1 1 (by decide +kernel)
  obtain ⟨-, e, -⟩ := p [tamper 0x201] 17 17 (by decide +kernel)
  obtain ⟨-, -, ⟨f, -, -, -, -, k⟩, -⟩ := p [dead 1] 0 0 (by decide +kernel)
  obtain ⟨-, -, ⟨-, -, i, l, -⟩, -⟩ := p [dead 2] 0 0 (by decide +kernel)
  obtain ⟨-, -, -, m, -⟩ := h (bootS [boot (2 ^ 30)]) 0 0 255 true (by decide +kernel)
  obtain ⟨-, -, -, -, n, -⟩ := q 0 0 255 false
  obtain ⟨-, -, -, -, -, o⟩ := q 0 0 0 true
  exact ⟨ran_of_becomes (a (.inl rfl)), ran_of_becomes (b (.inr (by decide +kernel))), ran_of_completes ((c (by decide) (by decide +kernel)).1 (by decide +kernel)),
    ran_of_completes ((d (by decide) (by decide +kernel)).2.1 (by decide +kernel) (by decide +kernel) (by decide +kernel)),
    ran_of_completes ((e (by decide) (by decide +kernel)).2.2 (by decide +kernel) (by decide +kernel)), ran_of_becomes (f (by decide +kernel)),
    ran_of_becomes (g (by decide +kernel) (by decide +kernel)), ran_of_completes (i (by decide +kernel) (by decide +kernel)), ran_of_becomes (l (by decide +kernel)),
    ran_of_becomes (j (by decide +kernel) (by decide +kernel)), ran_of_completes (k (by decide +kernel) (by decide +kernel)), ran_of_becomes (m (by decide +kernel)),
    ran_of_completes (n (by decide +kernel) rfl), ran_of_completes (o (by decide +kernel) rfl)⟩

/-- Commands in drover 0, the faults recovery has been told of, and the number of replays allowed. -/
def recS (l : List Command) (f : List RFault) (u : List Upd) : State := cmdS l ([.rfaults f, reg .rcv 20 0 R.RCV_CFG 1] ++ u)
/-- A fault of `cmdA` on cluster 0, with this row's address. -/
def rf (data : Nat) (written : Bool) : RFault := ⟨6 * 2 ^ 32, 0, 0x22, data, written⟩
def hungS (e : List Entry) (b : List Barge) (u : List Upd) : State := machine { cluster0 flock0 with entries := e, barges := b, tags := tag5 } u
def hungE : Entry := { ent 1 0 0 [] .running Run.start with issued := true }
def hungF : Entry := { hungE with uid := 1 }
def waitsE : Entry := { hungE with issued := false }
def hungB : Barge := { Barge.fresh 9 5 (2 ^ 32) 0 [] [] with st := .active }
def noSpares : Upd := aoc fun x => { x with fenced := (List.range 8).map fun i => (160 + i, 1) }
/-- `cmdA` waits for the spare of logical cluster 0. -/
def waits : Command := { cmdR .recover 1 with spareOf := 1 }
def jobD (j : SpareJob) (l : List Command) : Upd := .drover 0 { Drover.reset with
  cmds := l
  jobs := [j] }
def job0 (copied : Bool) (left : List Nat) (cur failed : Nat) : SpareJob := ⟨0, 0, 160, [(0, 1)], [(0, SfSlot.atWake 0)], [], copied, left, cur, failed⟩
def tally (v size : Nat) : List Upd := [reg .rcv 20 0 R.TALLY_CTRL v, reg .rcv 20 0 R.TALLY_RING_LO 0x20000, reg .rcv 20 0 R.TALLY_RING_SIZE size]

/-- Row 0 of stack 0 can be spared while no row has been, whichever its bank (a free value of Config). -/
theorem can_spare (s : Dev) (n row : Nat) (h : s.stk n = Stack.reset) (hl : (s.listSlot n).isSome = true) : s.canSpare n row = true := by
  unfold Dev.canSpare; rw [h, hl]; rfl

theorem witness_RecoverySparingAndExport (h : Obligations.RecoverySparingAndExport) :
    ran (.hangWatchdogExpiry 2687 4095) (thr)
      ∧ ran (.hangWatchdogExpiry 0 5) (hungS [hungE] [] [])
      ∧ ran (.hangWatchdogExpiry 0 5) (hungS [waitsE, hungF] [] [])
      ∧ ran (.hangWatchdogExpiry 0 5) (hungS [] [hungB] [])
      ∧ ran (.commandRecovery) (thr)
      ∧ ran (.commandRecovery) (recS [] [rf 0 true] [])
      ∧ ran (.commandRecovery) (recS [{ cmdA with st := .complete }] [rf 0 true] ([]))
      ∧ ran (.commandRecovery) (recS [{ cmdA with stage := true }] [rf 0 true] ([]))
      ∧ ran (.commandRecovery) (recS [cmdA] [rf 0 false] ([]))
      ∧ ran (.commandRecovery) (recS [{ cmdA with replays := 1 }] [rf 0 true] ([]))
      ∧ ran (.commandRecovery) (recS [cmdA] [rf 0 true] ([]))
      ∧ ran (.commandRecovery) (recS [{ cmdA with fails := [2 ^ 40] }] [rf 64 true] ([]))
      ∧ ran (.commandRecovery) (recS [{ cmdA with fails := [2 ^ 40] }] [rf 64 true] ([.stack 0 { Stack.reset with listUsed := 512 }]))
      ∧ ran (.commandRecovery) (recS [{ cmdA with fails := [0] }] [rf 0 true] ([noSpares]))
      ∧ ran (.commandRecovery) (recS [{ cmdA with fails := [0] }] [rf 0 true] ([]))
      ∧ ran (.clusterSpare 15 159) (thr)
      ∧ ran (.clusterSpare 0 0) (cmdS [waits] [noSpares])
      ∧ ran (.clusterSpare 0 0) (cmdS [waits] [])
      ∧ ran (.clusterSpare 0 0) (cmdS [] (jobD (job0 false [] 0 0) ([]) :: []))
      ∧ ran (.clusterSpare 0 0) (cmdS [] (jobD (job0 false [] 0 0) ([]) :: [.dom 1160 ⟨.on, 1, none⟩]))
      ∧ ran (.clusterSpare 0 0) (cmdS [] (jobD (job0 true [5] 7 0) ([]) :: []))
      ∧ ran (.clusterSpare 0 0) (cmdS [] (jobD (job0 true [5] 0 0x20) ([waits]) :: []))
      ∧ ran (.clusterSpare 0 0) (cmdS [] (jobD (job0 true [] 0 0) ([waits]) :: []))
      ∧ ran (.clusterSpare 0 0) (cmdS [] (jobD (job0 true [5] 0 0) ((List.range 256).map other) :: []))
      ∧ ran (.clusterSpare 0 0) (cmdS [] (jobD (job0 true [5] 0 0) ([]) :: []))
      ∧ ran (.tallyExport) (thr)
      ∧ ran (.tallyExport) (cmdS [] (tally 0x10001 63))
      ∧ ran (.tallyExport) (cmdS [] (tally 0x10001 4160)) := by
  exact ⟨ran_of_becomes ((h (thr) 2687 4095 0 0 (by decide +kernel)).1.1 (.inl (by decide +kernel))),
    ran_of_completes (((h (hungS [hungE] [] []) 0 5 0 0 (by decide +kernel)).1.2 (by decide +kernel)).2.1 hungE (by decide +kernel) (by decide +kernel) (by decide +kernel)),
    ran_of_becomes (((h (hungS [waitsE, hungF] [] []) 0 5 0 0 (by decide +kernel)).1.2 (by decide +kernel)).1 hungF (by decide +kernel) (by decide +kernel) (by decide +kernel)),
    ran_of_completes (((h (hungS [] [hungB] []) 0 5 0 0 (by decide +kernel)).1.2 (by decide +kernel)).2.2 hungB (by decide +kernel) (by decide +kernel) (by decide +kernel)),
    ran_of_becomes ((h (thr) 0 5 0 0 (by decide +kernel)).2.1 (by decide +kernel)),
    ran_of_becomes (((h (recS [] [rf 0 true] []) 0 5 0 0 (by decide +kernel)).2.2.1 (rf 0 true) [] (by decide +kernel)).1 (by decide +kernel)),
    ran_of_becomes ((((h (recS [{ cmdA with st := .complete }] [rf 0 true] ([])) 0 5 0 0 (by decide +kernel)).2.2.1 (rf 0 true) [] (by decide +kernel)).2 ({ cmdA with st := .complete }) (by decide +kernel) (by unfold Dev.cmdsSound; decide +kernel)).1 (.inl rfl)),
    ran_of_completes (((((h (recS [{ cmdA with stage := true }] [rf 0 true] ([])) 0 5 0 0 (by decide +kernel)).2.2.1 (rf 0 true) [] (by decide +kernel)).2 ({ cmdA with stage := true }) (by decide +kernel) (by unfold Dev.cmdsSound; decide +kernel)).2 (by decide) rfl).1 rfl),
    ran_of_completes (((((h (recS [cmdA] [rf 0 false] ([])) 0 5 0 0 (by decide +kernel)).2.2.1 (rf 0 false) [] (by decide +kernel)).2 (cmdA) (by decide +kernel) (by unfold Dev.cmdsSound; decide +kernel)).2 (by decide) rfl).2.1 rfl rfl),
    ran_of_completes (((((h (recS [{ cmdA with replays := 1 }] [rf 0 true] ([])) 0 5 0 0 (by decide +kernel)).2.2.1 (rf 0 true) [] (by decide +kernel)).2 ({ cmdA with replays := 1 }) (by decide +kernel) (by unfold Dev.cmdsSound; decide +kernel)).2 (by decide) rfl).2.2.1 rfl rfl (by decide +kernel)),
    ran_of_completes (((((h (recS [cmdA] [rf 0 true] ([])) 0 5 0 0 (by decide +kernel)).2.2.1 (rf 0 true) [] (by decide +kernel)).2 (cmdA) (by decide +kernel) (by unfold Dev.cmdsSound; decide +kernel)).2 (by decide) rfl).2.2.2.1 (by decide +kernel) (by decide +kernel) rfl),
    ran_of_completes (((((h (recS [{ cmdA with fails := [2 ^ 40] }] [rf 64 true] ([])) 0 5 0 0 (by decide +kernel)).2.2.1 (rf 64 true) [] (by decide +kernel)).2 ({ cmdA with fails := [2 ^ 40] }) (by decide +kernel) (by unfold Dev.cmdsSound; decide +kernel)).2 (by decide) rfl).2.2.2.2.1 (by decide +kernel) (by decide +kernel) (by decide +kernel) (can_spare _ _ _ (by decide +kernel) (by decide +kernel)) rfl),
    ran_of_completes (((((h (recS [{ cmdA with fails := [2 ^ 40] }] [rf 64 true] ([.stack 0 { Stack.reset with listUsed := 512 }])) 0 5 0 0 (by decide +kernel)).2.2.1 (rf 64 true) [] (by decide +kernel)).2 ({ cmdA with fails := [2 ^ 40] }) (by decide +kernel) (by unfold Dev.cmdsSound; decide +kernel)).2 (by decide) rfl).2.2.2.2.2.1 (by decide +kernel) (by decide +kernel) (by decide +kernel) (by decide +kernel)),
    ran_of_completes (((((h (recS [{ cmdA with fails := [0] }] [rf 0 true] ([noSpares])) 0 5 0 0 (by decide +kernel)).2.2.1 (rf 0 true) [] (by decide +kernel)).2 ({ cmdA with fails := [0] }) (by decide +kernel) (by unfold Dev.cmdsSound; decide +kernel)).2 (by decide) rfl).2.2.2.2.2.2.1 (by decide +kernel) (by decide +kernel) (by decide +kernel) (by decide +kernel)),
    ran_of_completes (((((h (recS [{ cmdA with fails := [0] }] [rf 0 true] ([])) 0 5 0 0 (by decide +kernel)).2.2.1 (rf 0 true) [] (by decide +kernel)).2 ({ cmdA with fails := [0] }) (by decide +kernel) (by unfold Dev.cmdsSound; decide +kernel)).2 (by decide) rfl).2.2.2.2.2.2.2 (by decide +kernel) (by decide +kernel) (by decide +kernel) (by decide +kernel)),
    ran_of_becomes ((((h (thr) 0 5 15 159 (by decide +kernel)).2.2.2.1 (by unfold Dev.cmdsSound; decide +kernel)).1 (by decide +kernel)).1 (by decide +kernel)),
    ran_of_completes ((((h (cmdS [waits] [noSpares]) 0 5 0 0 (by decide +kernel)).2.2.2.1 (by unfold Dev.cmdsSound; decide +kernel)).1 (by decide +kernel)).2.1 (by decide +kernel) (by decide +kernel)),
    ran_of_completes ((((h (cmdS [waits] []) 0 5 0 0 (by decide +kernel)).2.2.2.1 (by unfold Dev.cmdsSound; decide +kernel)).1 (by decide +kernel)).2.2 160 (by decide +kernel) (by decide +kernel)),
    ran_of_becomes ((((h (cmdS [] (jobD (job0 false [] 0 0) ([]) :: [])) 0 5 0 0 (by decide +kernel)).2.2.2.1 (by unfold Dev.cmdsSound; decide +kernel)).2 (job0 false [] 0 0) (by decide +kernel)).1 rfl (by decide +kernel)),
    ran_of_completes ((((h (cmdS [] (jobD (job0 false [] 0 0) ([]) :: [.dom 1160 ⟨.on, 1, none⟩])) 0 5 0 0 (by decide +kernel)).2.2.2.1 (by unfold Dev.cmdsSound; decide +kernel)).2 (job0 false [] 0 0) (by decide +kernel)).2.1 rfl (by decide +kernel) (by unfold Dev.errorless; decide +kernel)),
    ran_of_becomes ((((h (cmdS [] (jobD (job0 true [5] 7 0) ([]) :: [])) 0 5 0 0 (by decide +kernel)).2.2.2.1 (by unfold Dev.cmdsSound; decide +kernel)).2 (job0 true [5] 7 0) (by decide +kernel)).2.2.1 rfl (by decide +kernel)),
    ran_of_completes ((((h (cmdS [] (jobD (job0 true [5] 0 0x20) ([waits]) :: [])) 0 5 0 0 (by decide +kernel)).2.2.2.1 (by unfold Dev.cmdsSound; decide +kernel)).2 (job0 true [5] 0 0x20) (by decide +kernel)).2.2.2.1 rfl (by decide +kernel) (by decide +kernel)),
    ran_of_completes ((((h (cmdS [] (jobD (job0 true [] 0 0) ([waits]) :: [])) 0 5 0 0 (by decide +kernel)).2.2.2.1 (by unfold Dev.cmdsSound; decide +kernel)).2 (job0 true [] 0 0) (by decide +kernel)).2.2.2.2.1 rfl (by decide +kernel) (by decide +kernel) (by decide +kernel)),
    ran_of_becomes ((((h (cmdS [] (jobD (job0 true [5] 0 0) ((List.range 256).map other) :: [])) 0 5 0 0 (by decide +kernel)).2.2.2.1 (by unfold Dev.cmdsSound; decide +kernel)).2 (job0 true [5] 0 0) (by decide +kernel)).2.2.2.2.2.1 rfl (by decide +kernel) (by decide +kernel) (by decide +kernel) (by decide +kernel)),
    ran_of_completes ((((h (cmdS [] (jobD (job0 true [5] 0 0) ([]) :: [])) 0 5 0 0 (by decide +kernel)).2.2.2.1 (by unfold Dev.cmdsSound; decide +kernel)).2 (job0 true [5] 0 0) (by decide +kernel)).2.2.2.2.2.2 5 [] rfl (by decide +kernel) (by decide +kernel) (by decide +kernel) (by decide +kernel)),
    ran_of_becomes ((h (thr) 0 5 0 0 (by decide +kernel)).2.2.2.2.1 (by decide +kernel)),
    ran_of_completes ((h (cmdS [] (tally 0x10001 63)) 0 5 0 0 (by decide +kernel)).2.2.2.2.2.1 (by decide +kernel) (by decide +kernel)),
    ran_of_completes ((h (cmdS [] (tally 0x10001 4160)) 0 5 0 0 (by decide +kernel)).2.2.2.2.2.2 (by decide +kernel) (by decide +kernel) (by decide +kernel) (by decide +kernel) (by unfold Dev.errorless; decide +kernel))⟩

/-! ### Pins, JTAG and register writes -/

def claims (r v : Nat) : Upd := reg .res 20 0 (R.RES_CLAIM + 4 * r) v
@[irreducible] def pinS (l : List Upd) : State := machine (cluster0 flock0) l
def debugOn : Upd := reg .boot 20 0 R.SEC_STATUS 1
def ptr (n : Nat) : Upd := .aoc { Aoc.reset with smbPtr := n }
/-- Timer 0 armed for time 0, with this period. -/
def timer (period : Nat) : List Upd := [claims 2 5, reg .tmr 20 0 R.TMR_CTRL 1, reg .tmr 20 0 R.TMR_PERIOD period]
/-- DPAs: the first beyond the stacks, one of a stack that is retained, BOOT_FAILS, and a word of its block that is no register. -/
def stackEndF : Fin 70368744177664 := ⟨stackEnd, by decide⟩
def asleepF : Fin 70368744177664 := ⟨0x3000, by decide⟩
def bootF : Fin 70368744177664 := ⟨0x3F0000006004, by decide⟩
/-- TH_FAULT_STATUS of thread core 0 of cluster 0 of die 0. -/
def thF : Fin 70368744177664 := ⟨regAddr .th 0 0 R.TH_FAULT_STATUS, by decide⟩
def mramF : Fin 70368744177664 := ⟨mramAddr 0 + 0x100, by decide⟩
def holeF : Fin 70368744177664 := ⟨0x3F0000006020, by decide⟩

theorem ran_of_row {α : Type} {o : Option α} {c : Instr} {s : State} {f : Nat → Dev} {Q : α → Nat → Prop} (hs : o.isSome = true)
    (h : ∀ r, o = some r → ∃ y, becomes c s (f y) ∧ Q r y) : ran c s := by
  obtain ⟨r, hr⟩ := Option.isSome_iff_exists.mp hs
  obtain ⟨_, hy, _⟩ := h r hr
  exact ran_of_becomes hy

theorem witness_ServicePinsAndRegisterWrites (h : Obligations.ServicePinsAndRegisterWrites) :
    ran (.wakePin) (bootS [noInput 0])
      ∧ ran (.ppsInEdge) (bootS [noInput 0])
      ∧ ran (.syncInEdge) (bootS [noInput 0])
      ∧ ran (.gpioEdge 0 true) (bootS [noInput 0])
      ∧ ran (.ppsOutEdge) (bootS [noInput 0])
      ∧ ran (.timerFire 0) (bootS [noInput 0])
      ∧ ran (.smbusWriteWord 0 true) (bootS [noInput 0])
      ∧ ran (.smbusBlockRead) (bootS [noInput 0])
      ∧ ran (.bypass) (bootS [noInput 0])
      ∧ ran (.idcode) (bootS [noInput 0])
      ∧ ran (.samplePreload 0) (bootS [noInput 0])
      ∧ ran (.extest 0) (bootS [noInput 0])
      ∧ ran (.dpaRead 0) (bootS [noInput 0])
      ∧ ran (.dpaWrite 0 0) (bootS [noInput 0])
      ∧ ran (.wakePin) (pinS [])
      ∧ ran (.ppsInEdge) (pinS [])
      ∧ ran (.syncInEdge) (pinS [])
      ∧ ran (.ppsOutEdge) (pinS [])
      ∧ ran (.ppsInEdge) (pinS [claims 0 2])
      ∧ ran (.syncInEdge) (pinS [claims 1 4])
      ∧ ran (.gpioEdge 7 true) (pinS [])
      ∧ ran (.ppsOutEdge) (pinS [claims 0 1])
      ∧ ran (.timerFire 1) (pinS [])
      ∧ ran (.timerFire 0) (pinS (timer 0))
      ∧ ran (.timerFire 0) (pinS (timer 1))
      ∧ ran (.smbusWriteWord 0xFFFC true) (pinS [])
      ∧ ran (.smbusWriteWord 0xFFFD true) (pinS [])
      ∧ ran (.smbusBlockRead) (pinS [ptr 0])
      ∧ ran (.bypass) (pinS [])
      ∧ ran (.idcode) (pinS [])
      ∧ ran (.samplePreload 0) (pinS [])
      ∧ ran (.extest 0) (pinS [])
      ∧ ran (.dpaRead 0) (pinS [])
      ∧ ran (.dpaWrite 0 0) (pinS [])
      ∧ ran (.extest 0) (pinS [debugOn, .dom 67 ⟨.retain, 2, none⟩])
      ∧ ran (.dpaRead stackEndF) (pinS [debugOn, .dom 67 ⟨.retain, 2, none⟩])
      ∧ ran (.dpaWrite stackEndF 0xFFFFFFFF) (pinS [debugOn, .dom 67 ⟨.retain, 2, none⟩])
      ∧ ran (.dpaWrite mramF 0xFFFFFFFF) (pinS [debugOn, .dom 67 ⟨.retain, 2, none⟩])
      ∧ ran (.dpaRead asleepF) (pinS [debugOn, .dom 67 ⟨.retain, 2, none⟩])
      ∧ ran (.dpaWrite asleepF 0xFFFFFFFF) (pinS [debugOn, .dom 67 ⟨.retain, 2, none⟩])
      ∧ ran (.dpaRead 0) (pinS [debugOn, .dom 67 ⟨.retain, 2, none⟩])
      ∧ ran (.dpaWrite 0 0xFFFFFFFF) (pinS [debugOn, .dom 67 ⟨.retain, 2, none⟩])
      ∧ ran (.registerWrite 0 0) (pinS [])
      ∧ ran (.registerWrite holeF 0xFFFFFFFF) (pinS [])
      ∧ ran (.registerWrite bootF 0xFFFFFFFF) (pinS [])
      ∧ ran (.registerWrite thF 0x80000000) (pinS []) := by
  have p (s : State) (i : Fin 8) (n : Fin 2) (b : Bool) (q : Fin 65536) (a : Fin 70368744177664) (v : BitVec 32) hs := h s i n b q 0 a v hs
  exact ⟨ran_of_becomes (((p (bootS [noInput 0]) 0 0 true 0 (0) 0 (by decide +kernel)).1 (by decide +kernel)).1),
    ran_of_becomes (((p (bootS [noInput 0]) 0 0 true 0 (0) 0 (by decide +kernel)).1 (by decide +kernel)).2.1),
    ran_of_becomes (((p (bootS [noInput 0]) 0 0 true 0 (0) 0 (by decide +kernel)).1 (by decide +kernel)).2.2.1),
    ran_of_becomes (((p (bootS [noInput 0]) 0 0 true 0 (0) 0 (by decide +kernel)).1 (by decide +kernel)).2.2.2.1),
    ran_of_becomes (((p (bootS [noInput 0]) 0 0 true 0 (0) 0 (by decide +kernel)).1 (by decide +kernel)).2.2.2.2.1),
    ran_of_becomes (((p (bootS [noInput 0]) 0 0 true 0 (0) 0 (by decide +kernel)).1 (by decide +kernel)).2.2.2.2.2.1),
    ran_of_becomes (((p (bootS [noInput 0]) 0 0 true 0 (0) 0 (by decide +kernel)).1 (by decide +kernel)).2.2.2.2.2.2.1),
    ran_of_becomes (((p (bootS [noInput 0]) 0 0 true 0 (0) 0 (by decide +kernel)).1 (by decide +kernel)).2.2.2.2.2.2.2.1),
    ran_of_becomes (((p (bootS [noInput 0]) 0 0 true 0 (0) 0 (by decide +kernel)).1 (by decide +kernel)).2.2.2.2.2.2.2.2.1),
    ran_of_becomes (((p (bootS [noInput 0]) 0 0 true 0 (0) 0 (by decide +kernel)).1 (by decide +kernel)).2.2.2.2.2.2.2.2.2.1),
    ran_of_becomes (((p (bootS [noInput 0]) 0 0 true 0 (0) 0 (by decide +kernel)).1 (by decide +kernel)).2.2.2.2.2.2.2.2.2.2.1),
    ran_of_becomes (((p (bootS [noInput 0]) 0 0 true 0 (0) 0 (by decide +kernel)).1 (by decide +kernel)).2.2.2.2.2.2.2.2.2.2.2.1),
    ran_of_becomes (((p (bootS [noInput 0]) 0 0 true 0 (0) 0 (by decide +kernel)).1 (by decide +kernel)).2.2.2.2.2.2.2.2.2.2.2.2.1),
    ran_of_becomes (((p (bootS [noInput 0]) 0 0 true 0 (0) 0 (by decide +kernel)).1 (by decide +kernel)).2.2.2.2.2.2.2.2.2.2.2.2.2),
    ran_of_becomes ((p (pinS []) 0 0 true 0 (0) 0 (by decide +kernel)).2.1 (by decide +kernel)),
    ran_of_becomes ((p (pinS []) 0 0 true 0 (0) 0 (by decide +kernel)).2.2.1 (by decide +kernel)),
    ran_of_becomes ((p (pinS []) 0 0 true 0 (0) 0 (by decide +kernel)).2.2.2.1 (by decide +kernel)),
    ran_of_becomes ((p (pinS []) 0 0 true 0 (0) 0 (by decide +kernel)).2.2.2.2.1 (by decide +kernel)),
    ran_of_completes ((p (pinS [claims 0 2]) 0 0 true 0 (0) 0 (by decide +kernel)).2.2.2.2.2.1.1 (by decide +kernel) (by decide +kernel)),
    ran_of_completes ((p (pinS [claims 1 4]) 0 0 true 0 (0) 0 (by decide +kernel)).2.2.2.2.2.1.2 (by decide +kernel) (by decide +kernel)),
    ran_of_completes ((p (pinS []) 7 0 true 0 (0) 0 (by decide +kernel)).2.2.2.2.2.2.1 (by decide +kernel)),
    ran_of_completes ((p (pinS [claims 0 1]) 0 0 true 0 (0) 0 (by decide +kernel)).2.2.2.2.2.2.2.1 (by decide +kernel) (by decide +kernel)),
    ran_of_becomes ((p (pinS []) 0 1 true 0 (0) 0 (by decide +kernel)).2.2.2.2.2.2.2.2.1.1 (by decide +kernel)),
    ran_of_completes ((p (pinS (timer 0)) 0 0 true 0 (0) 0 (by decide +kernel)).2.2.2.2.2.2.2.2.1.2 (by decide +kernel) (by decide +kernel)),
    ran_of_completes ((p (pinS (timer 1)) 0 0 true 0 (0) 0 (by decide +kernel)).2.2.2.2.2.2.2.2.1.2 (by decide +kernel) (by decide +kernel)),
    ran_of_becomes (((p (pinS []) 0 0 true 0xFFFC (0) 0 (by decide +kernel)).2.2.2.2.2.2.2.2.2.1 (by decide +kernel)).1 rfl (by decide +kernel)),
    ran_of_becomes (((p (pinS []) 0 0 true 0xFFFD (0) 0 (by decide +kernel)).2.2.2.2.2.2.2.2.2.1 (by decide +kernel)).2 (.inr (by decide +kernel))),
    ran_of_completes ((p (pinS [ptr 0]) 0 0 true 0 (0) 0 (by decide +kernel)).2.2.2.2.2.2.2.2.2.2.1.2 .aoc 20 0 0 (by decide +kernel) (by decide +kernel) (by decide +kernel) (by decide +kernel)),
    ran_of_becomes (((p (pinS []) 0 0 true 0 (0) 0 (by decide +kernel)).2.2.2.2.2.2.2.2.2.2.2.1 (by decide +kernel)).1),
    ran_of_becomes (((p (pinS []) 0 0 true 0 (0) 0 (by decide +kernel)).2.2.2.2.2.2.2.2.2.2.2.1 (by decide +kernel)).2.1),
    ran_of_completes (((p (pinS []) 0 0 true 0 (0) 0 (by decide +kernel)).2.2.2.2.2.2.2.2.2.2.2.1 (by decide +kernel)).2.2.1),
    ran_of_becomes ((((p (pinS []) 0 0 true 0 (0) 0 (by decide +kernel)).2.2.2.2.2.2.2.2.2.2.2.1 (by decide +kernel)).2.2.2.1 (by decide +kernel)).1),
    ran_of_becomes ((((p (pinS []) 0 0 true 0 (0) 0 (by decide +kernel)).2.2.2.2.2.2.2.2.2.2.2.1 (by decide +kernel)).2.2.2.1 (by decide +kernel)).2.1),
    ran_of_becomes ((((p (pinS []) 0 0 true 0 (0) 0 (by decide +kernel)).2.2.2.2.2.2.2.2.2.2.2.1 (by decide +kernel)).2.2.2.1 (by decide +kernel)).2.2),
    ran_of_completes ((((p (pinS [debugOn, .dom 67 ⟨.retain, 2, none⟩]) 0 0 true 0 (0) 0xFFFFFFFF (by decide +kernel)).2.2.2.2.2.2.2.2.2.2.2.1 (by decide +kernel)).2.2.2.2 (by decide +kernel)).1),
    ran_of_becomes (((((p (pinS [debugOn, .dom 67 ⟨.retain, 2, none⟩]) 0 0 true 0 (stackEndF) 0xFFFFFFFF (by decide +kernel)).2.2.2.2.2.2.2.2.2.2.2.1 (by decide +kernel)).2.2.2.2 (by decide +kernel)).2.1 (by decide +kernel)).1),
    ran_of_becomes (((((p (pinS [debugOn, .dom 67 ⟨.retain, 2, none⟩]) 0 0 true 0 (stackEndF) 0xFFFFFFFF (by decide +kernel)).2.2.2.2.2.2.2.2.2.2.2.1 (by decide +kernel)).2.2.2.2 (by decide +kernel)).2.1 (by decide +kernel)).2),
    ran_of_becomes (((((p (pinS [debugOn, .dom 67 ⟨.retain, 2, none⟩]) 0 0 true 0 (mramF) 0xFFFFFFFF (by decide +kernel)).2.2.2.2.2.2.2.2.2.2.2.1 (by decide +kernel)).2.2.2.2 (by decide +kernel)).2.2.1 0 0x100 (by decide +kernel))),
    ran_of_completes (((((p (pinS [debugOn, .dom 67 ⟨.retain, 2, none⟩]) 0 0 true 0 (asleepF) 0xFFFFFFFF (by decide +kernel)).2.2.2.2.2.2.2.2.2.2.2.1 (by decide +kernel)).2.2.2.2 (by decide +kernel)).2.2.2.1 (by decide +kernel)).1),
    ran_of_completes (((((p (pinS [debugOn, .dom 67 ⟨.retain, 2, none⟩]) 0 0 true 0 (asleepF) 0xFFFFFFFF (by decide +kernel)).2.2.2.2.2.2.2.2.2.2.2.1 (by decide +kernel)).2.2.2.2 (by decide +kernel)).2.2.2.1 (by decide +kernel)).2),
    ran_of_completes (((((p (pinS [debugOn, .dom 67 ⟨.retain, 2, none⟩]) 0 0 true 0 (0) 0xFFFFFFFF (by decide +kernel)).2.2.2.2.2.2.2.2.2.2.2.1 (by decide +kernel)).2.2.2.2 (by decide +kernel)).2.2.2.2 (by decide +kernel) (by decide +kernel) (by unfold Dev.errorless; decide +kernel)).1),
    ran_of_completes (((((p (pinS [debugOn, .dom 67 ⟨.retain, 2, none⟩]) 0 0 true 0 (0) 0xFFFFFFFF (by decide +kernel)).2.2.2.2.2.2.2.2.2.2.2.1 (by decide +kernel)).2.2.2.2 (by decide +kernel)).2.2.2.2 (by decide +kernel) (by decide +kernel) (by unfold Dev.errorless; decide +kernel)).2),
    ran_of_becomes ((p (pinS []) 0 0 true 0 (0) 0 (by decide +kernel)).2.2.2.2.2.2.2.2.2.2.2.2.1 (.inl (by decide +kernel))),
    ran_of_becomes (((p (pinS []) 0 0 true 0 (holeF) 0xFFFFFFFF (by decide +kernel)).2.2.2.2.2.2.2.2.2.2.2.2.2.2 .boot 20 0 0x20 (by decide +kernel) (by decide +kernel) (by decide +kernel) (.inr (.inr (.inr (.inr (by decide +kernel)))))).1 (by decide +kernel)),
    ran_of_row (by decide +kernel) ((p (pinS []) 0 0 true 0 (bootF) 0xFFFFFFFF (by decide +kernel)).2.2.2.2.2.2.2.2.2.2.2.2.2.2 .boot 20 0 R.BOOT_FAILS (by decide +kernel) (by decide +kernel) (by decide +kernel) (.inr (.inr (.inr (.inr (by decide +kernel)))))).2,
    ran_of_completes ((p (pinS []) 0 0 true 0 (thF) 0x80000000 (by decide +kernel)).2.2.2.2.2.2.2.2.2.2.2.2.2.1 .th 0 0 4 [0x08, 0x0C, 0x10, 0x14, 0x18] (by decide +kernel) (by decide +kernel) (by decide +kernel) (by decide +kernel) (by decide +kernel))⟩

/-! ### Steps -/

theorem witness_StepRunsTheFrontCommand (h : Obligations.StepRunsTheFrontCommand) :
    step ⟨[.bypass, .idcode], Dev.reset⟩ = exec .bypass ⟨[.idcode], Dev.reset⟩ ∧ ∃ t, step State.reset = .next t :=
  ⟨(h .bypass ⟨[.bypass, .idcode], Dev.reset⟩ [.idcode]).1 rfl, ((h .bypass State.reset []).2 rfl).imp fun _ t => t.1⟩

theorem witness_EveryStepKeepsTheMachineSound (h : Obligations.EveryStepKeepsTheMachineSound) : ∃ t, step thr = .next t :=
  (h thr (by decide +kernel)).imp fun _ t => t.1

/-! ### The spec's worked examples -/

/-- The device after a command. -/
def nextOf (c : Instr) (s : State) : Dev := match exec c s with
  | .next t => t.m
  | _ => s.m

/-- Chapter 2, R3: rnd_div. -/
theorem test_rnd_div : rndDiv 5 2 = 3 ∧ rndDiv (-5) 2 = -3 ∧ rndDiv 7 3 = 2 := by decide +kernel
/-- Chapter 2: s24_from_ratio(1, 3) is the field 0xFE_AAAB, and s24_from_ratio(255, 255) is 1. -/
theorem test_s24_from_ratio : (s24FromRatio 1 3).toSlot = 0xFEAAAB ∧ s24FromRatio 255 255 = S24.one := by decide +kernel
/-- Chapter 2: the group terms of the worked example. -/
theorem test_group_terms : mulS24 5472 (S24.ofSlot 0x05C87B) 0 = 274257 ∧ mulS24 (-20576) (S24.ofSlot 0x059A5F) 0 = -794085 := by decide +kernel
/-- Chapter 1: the store of 7.p113; chapter 4, R137: its tensor-core registers. -/
theorem test_addresses : storeAddr 7 113 = 0x200771000000 ∧ regAddr .tc 7 113 0 = 0x300071712000 := by decide +kernel
/-- Chapter 7: GAUSS_CDF at −1.125 is 4,270. -/
theorem test_gauss_cdf : (sfEval gaussCdfProg (-18874368) 24).1 = 4270 := by decide +kernel
/-- Chapter 20, R577: IDCODE. -/
theorem test_idcode : (nextOf .idcode thr).aoc.jtagData = 0x1D9A0A27 := by decide +kernel
/-- Chapter 18: 9.p57 fails test 0x21. -/
theorem test_boot_fail : ((bootFail 1 9 0x39 0x39 0x21).run Dev.reset).reg .boot 20 0 R.BOOT_FAIL = 0x19393921 := by decide +kernel

/-- Chapter 8: the two-lane chunk, coded and decoded. -/
def exampleBank : CtBank := ⟨true, 1, 3, 1, 0, 0, 0, [8192, 40960, 12288, 4096]⟩
def exampleChunk : List Byte := leBytes 4 1 ++ leBytes 4 5 ++ [1, 1, 0, 0] ++ leBytes 4 0 ++ leBytes 4 0x0A3B4000 ++ leBytes 4 0x02AFE200 ++ zeros 8
theorem test_rans_encode : (encChunk exampleBank 1 0 true [(0, 0), (1, 0), (-1, 0), (3, 0), (0, 0)]).1 = exampleChunk := by decide +kernel
theorem test_rans_decode : (decChunk exampleBank false exampleChunk 0 65536 5 1 [0, 0, 0, 0, 0]).map (·.1) = some [0, 1, -1, 3, 0] := by decide +kernel

/-- Chapter 9, the absolute value with divergence: g5 is −2 in every thread. -/
def absS : State := machine (cluster0 { flock0 with threads := (List.range 8).map fun i => (i, thread0.setG 5 (2 ^ 64 - 2)) }) []
/-- The device after an instruction of its word. -/
def nextAt (s : State) (c : ThOp → Instr) (w : BitVec 24) : Dev := nextOf (c (op w)) (codeAt s c w)
theorem test_cmplti : (((nextAt absS .cmplti 0x004500).flockOf (op 0)).thr 7).pr 1 = true := by decide +kernel
theorem test_addi : (((nextAt absS .addi 0x018501).flockOf (op 0)).thr 0).gr 6 = 2 ^ 64 - 1 := by decide +kernel
theorem test_sub : (((nextAt absS .sub 0x018014).flockOf (op 0)).thr 0).gr 6 = 2 := by decide +kernel
/-- BRA with OFF20 = 3 goes 12 bytes on, JPUSH with 7 records the address 28 bytes on. -/
theorem test_bra : ((nextAt absS .bra 0x000003).flockOf (op 0)).pc = 0x1000C := by decide +kernel
theorem test_jpush : (((nextAt absS .jpush 0x000007).flockOf (op 0)).stack.map (·.pc)) = [0x1001C] := by decide +kernel

end Sys2Proof.Tests
end

section
/-! SUPPORT. Bits of register words, and the bytes of a word. -/

namespace Sys2Proof.Machine

theorem bitAt_eq_testBit (v i : Nat) : bitAt v i = v.testBit i := Nat.testBit_eq_decide_div_mod_eq.symm

theorem testBit_bits (v hi lo j : Nat) : (bits v hi lo).testBit j = (decide (j < hi + 1 - lo) && v.testBit (lo + j)) := by
  rw [bits, Nat.testBit_mod_two_pow, Nat.testBit_div_two_pow, Nat.add_comm lo j]

/-- A word with bits [hi:lo] replaced, as its three pieces. -/
theorem setBits_pieces (v hi lo x : Nat) : setBits v hi lo x
    = 2 ^ lo * (2 ^ (hi + 1 - lo) * (v / 2 ^ lo / 2 ^ (hi + 1 - lo)) + x % 2 ^ (hi + 1 - lo)) + v % 2 ^ lo := by
  have hv : v = 2 ^ lo * (2 ^ (hi + 1 - lo) * (v / 2 ^ lo / 2 ^ (hi + 1 - lo))) + bits v hi lo * 2 ^ lo + v % 2 ^ lo := by
    conv_lhs => rw [← Nat.div_add_mod v (2 ^ lo), ← Nat.div_add_mod (v / 2 ^ lo) (2 ^ (hi + 1 - lo))]
    rw [Nat.mul_add, bits, Nat.mul_comm (_ % _)]
  rw [setBits, Nat.mul_add, Nat.mul_comm (2 ^ lo) (x % _)]
  omega

/-- Replacing bits [hi:lo] sets those bits and leaves the others. -/
theorem bitAt_setBits (v hi lo x j : Nat) : bitAt (setBits v hi lo x) j = if lo ≤ j ∧ j ≤ hi then bitAt x (j - lo) else bitAt v j := by
  simp only [bitAt_eq_testBit, setBits_pieces]
  rw [Nat.testBit_two_pow_mul_add _ (Nat.mod_lt _ (by positivity))]
  by_cases hlo : j < lo
  · rw [if_pos hlo, if_neg (by omega), Nat.testBit_mod_two_pow]; simp [hlo]
  · rw [if_neg hlo, Nat.testBit_two_pow_mul_add _ (Nat.mod_lt _ (by positivity))]
    by_cases hhi : j ≤ hi
    · rw [if_pos (by omega), if_pos (by omega), Nat.testBit_mod_two_pow]; simp only [Bool.and_eq_right_iff_imp, decide_eq_true_eq]; omega
    · rw [if_neg (by omega), if_neg (by omega), Nat.testBit_div_two_pow, Nat.testBit_div_two_pow]
      congr 1; omega

theorem bitAt_of_lt {v n j : Nat} (h : v < 2 ^ n) (hj : n ≤ j) : bitAt v j = false := by
  rw [bitAt_eq_testBit]; exact Nat.testBit_eq_false_of_lt (lt_of_lt_of_le h (Nat.pow_le_pow_right (by omega) hj))

/-- A field inside a word of 32 bits stays inside it. -/
theorem setBits_lt {v hi lo : Nat} (x : Nat) (h : v < 2 ^ 32) (hh : hi < 32) : setBits v hi lo x < 2 ^ 32 := by
  refine Nat.lt_pow_two_of_testBit _ fun j hj => ?_
  rw [← bitAt_eq_testBit, bitAt_setBits, if_neg (by omega), bitAt_of_lt h hj]

theorem setBits_mod (s : Dev) (A hi lo x : Nat) (hh : hi < 32) : setBits (s.regAt A) hi lo x % 2 ^ 32 = setBits (s.regAt A) hi lo x :=
  Nat.mod_eq_of_lt (setBits_lt x (regAt_lt s A) hh)

theorem bitAt_b2n (b : Bool) (j : Nat) : bitAt (b2n b) j = (decide (j = 0) && b) := by
  rw [bitAt_eq_testBit]
  cases b <;> cases j <;> simp [b2n, Nat.testBit_succ]

/-- One bit taken out and put back where it was. -/
theorem bits_one (v j : Nat) : bits v j j = b2n (bitAt v j) := by
  simp only [bits, bitAt, b2n, Nat.add_sub_cancel_left, pow_one, decide_eq_true_eq]
  split <;> omega

theorem leNat_leBytes (n v : Nat) : leNat (leBytes n v) = v % 256 ^ n := by
  induction n generalizing v with
  | zero => simp [leBytes, leNat, Nat.mod_one]
  | succ n ih => rw [leBytes, leNat, ih, BitVec.toNat_ofNat, Nat.pow_succ' (m := 256), Nat.mod_mul (a := 256)]

@[simp] theorem length_leBytes (n v : Nat) : (leBytes n v).length = n := by
  induction n generalizing v with
  | zero => rfl
  | succ n ih => rw [leBytes, List.length_cons, ih]

theorem leNat_lt (l : List Byte) : leNat l < 256 ^ l.length := by
  induction l with
  | nil => simp [leNat]
  | cons b r ih =>
    have hb := b.isLt
    rw [leNat, List.length_cons, Nat.pow_succ']
    omega

end Sys2Proof.Machine
end

section
/-! SUPPORT. Frames of programs: which parts of the device and which registers a program can change, read off its updates. -/

namespace Sys2Proof.Machine

/-! ### Programs whose updates are of one kind -/

/-- Every update that a program can make is one of `P`. -/
def Prog.Within (P : Upd → Prop) : Prog → Prop
  | .skip => True
  | .upd u => P u
  | .seq a b => a.Within P ∧ b.Within P
  | .look f => ∀ s, (f s).Within P

section
variable {P : Upd → Prop}

@[simp] theorem within_skip : Prog.skip.Within P ↔ True := Iff.rfl
@[simp] theorem within_upd (u : Upd) : (Prog.upd u).Within P ↔ P u := Iff.rfl
@[simp] theorem within_seq (a b : Prog) : (Prog.seq a b).Within P ↔ a.Within P ∧ b.Within P := Iff.rfl
@[simp] theorem within_look (f : Dev → Prog) : (Prog.look f).Within P ↔ ∀ s, (f s).Within P := Iff.rfl
@[simp] theorem within_progs_nil : (progs []).Within P ↔ True := Iff.rfl
@[simp] theorem within_progs_cons (p : Prog) (r : List Prog) : (progs (p :: r)).Within P ↔ p.Within P ∧ (progs r).Within P := Iff.rfl
@[simp] theorem within_ite (c : Prop) [Decidable c] (p q : Prog) : (if c then p else q).Within P ↔ if c then p.Within P else q.Within P := by
  split <;> rfl
@[simp] theorem within_only (c : Bool) (p : Prog) : (only c p).Within P ↔ (c = true → p.Within P) := by cases c <;> simp [only]
@[simp] theorem within_forAll {α : Type} (l : List α) (f : α → Prog) : (forAll l f).Within P ↔ ∀ a ∈ l, (f a).Within P := by
  induction l with
  | nil => simp [forAll]
  | cons a r ih => rw [List.forall_mem_cons, ← ih]; rfl

theorem Prog.Within.mono {Q : Upd → Prop} {p : Prog} (hp : p.Within P) (h : ∀ u, P u → Q u) : p.Within Q := by
  induction p with
  | skip => trivial
  | upd u => exact h u hp
  | seq a b ha hb => exact ⟨ha hp.1, hb hp.2⟩
  | look f hf => exact fun s => hf s (hp s)

/-- What updates of one kind relate to the state before them, a program of such updates does. -/
theorem Prog.Within.relates {R : Dev → Dev → Prop} (refl : ∀ s, R s s) (trans : ∀ {a b c}, R a b → R b c → R a c)
    (h : ∀ s u, P u → R s (s.apply u))
    {p : Prog} (hp : p.Within P) (s : Dev) : R s (p.run s) := by
  induction p generalizing s with
  | skip => exact refl s
  | upd u => exact h s u hp
  | seq a b ha hb => exact trans (ha hp.1 s) (hb hp.2 _)
  | look f hf => exact hf s (hp s) s
end

/-! ### Parts of the device -/

/-- The parts of the device that an update may change. -/
def Upd.parts : Upd → List Part
  | .time _ => [.clock]
  | .fresh => [.free]
  | .reg .. | .regDrop .. => [.regs]
  | .mem .. => [.mem, .undef]
  | .zero .. | .stackLost _ => [.mem, .undef, .bad, .oneBit]
  | .undef .. => [.mem, .undef, .free]
  | .bad .. => [.bad]
  | .oneBit .. => [.oneBit]
  | .cl .. => [.clusters]
  | .die .. => [.dies]
  | .stack .. => [.stackTab]
  | .drover .. => [.drovers]
  | .pipe .. => [.pipes]
  | .sluice .. => [.sluices]
  | .mbox .. => [.mailboxes]
  | .dom .. => [.doms]
  | .power _ => [.power]
  | .therm .. => [.therm]
  | .repair .. | .maps _ => [.repair]
  | .log _ | .logClear => [.log, .logNext]
  | .rfaults _ => [.rfaults]
  | .session .. => [.sessions]
  | .send .. => [.sent]
  | .aoc _ => [.aoc]
  | .links _ => [.links]
  | .timeOff _ => [.timeOff]
  | .role _ => [.role]
  | .group _ => [.groupIndex]
  | .unitWrites _ => [.unitWrites]

theorem sameBut_refl (s : Dev) (l : List Part) : s.sameBut s l := rfl
theorem sameBut_trans {s t u : Dev} {l : List Part} (h : s.sameBut t l) (g : t.sameBut u l) : s.sameBut u l := g.trans h

theorem wipe_wipe (s : Dev) (p : Part) : (s.wipe p).wipe p = s.wipe p := by cases p <;> rfl
theorem wipe_comm (s : Dev) (p q : Part) : (s.wipe p).wipe q = (s.wipe q).wipe p := by cases p <;> cases q <;> rfl

/-- Wiping a part that is wiped anyway makes no difference. -/
theorem wipes_absorb {p : Part} {l : List Part} (h : p ∈ l) (s : Dev) : l.foldl Dev.wipe (s.wipe p) = l.foldl Dev.wipe s := by
  induction l generalizing s with
  | nil => cases h
  | cons q l ih =>
    simp only [List.foldl_cons]
    rcases List.mem_cons.mp h with rfl | h
    · rw [wipe_wipe]
    · rw [wipe_comm, ih h]

theorem wipes_absorb_all {k l : List Part} (h : k ⊆ l) (s : Dev) : l.foldl Dev.wipe (k.foldl Dev.wipe s) = l.foldl Dev.wipe s := by
  induction k generalizing s with
  | nil => rfl
  | cons p k ih =>
    obtain ⟨hp, hk⟩ := List.cons_subset.mp h
    rw [List.foldl_cons, ih hk, wipes_absorb hp]

/-- A frame that lists more parts says less. -/
theorem Dev.sameBut.mono {s t : Dev} {k l : List Part} (h : s.sameBut t k) (hl : k ⊆ l) : s.sameBut t l := by
  rw [Dev.sameBut, ← wipes_absorb_all hl t, show k.foldl Dev.wipe t = _ from h, wipes_absorb_all hl]

/-- What no wiping of another part changes, a frame without that part keeps. -/
theorem Dev.sameBut.field {α : Type} {s t : Dev} {l : List Part} (h : s.sameBut t l) (f : Dev → α) (p : Part)
    (hf : ∀ (s : Dev) q, q ≠ p → f (s.wipe q) = f s) (hp : p ∉ l) : f t = f s := by
  have hw (s : Dev) : f (l.foldl Dev.wipe s) = f s := by
    clear h
    induction l generalizing s with
    | nil => rfl
    | cons q l ih =>
      obtain ⟨hq, hl⟩ := not_or.mp (mt List.mem_cons.mpr hp)
      rw [List.foldl_cons, ih hl, hf s q (Ne.symm hq)]
  rw [← hw t, ← hw s, show l.foldl Dev.wipe t = _ from h]

section
variable {s t : Dev} {l : List Part} (h : s.sameBut t l)
include h
theorem Dev.sameBut.clock (hp : Part.clock ∉ l) : t.clock = s.clock :=
  h.field Dev.clock .clock (fun _ q hq => by cases q with | clock => exact absurd rfl hq | _ => rfl) hp
theorem Dev.sameBut.regs (hp : Part.regs ∉ l) : t.regs = s.regs :=
  h.field Dev.regs .regs (fun _ q hq => by cases q with | regs => exact absurd rfl hq | _ => rfl) hp
theorem Dev.sameBut.mem (hp : Part.mem ∉ l) : t.mem = s.mem :=
  h.field Dev.mem .mem (fun _ q hq => by cases q with | mem => exact absurd rfl hq | _ => rfl) hp
theorem Dev.sameBut.undef (hp : Part.undef ∉ l) : t.undef = s.undef :=
  h.field Dev.undef .undef (fun _ q hq => by cases q with | undef => exact absurd rfl hq | _ => rfl) hp
theorem Dev.sameBut.sent (hp : Part.sent ∉ l) : t.sent = s.sent :=
  h.field Dev.sent .sent (fun _ q hq => by cases q with | sent => exact absurd rfl hq | _ => rfl) hp
theorem Dev.sameBut.aoc (hp : Part.aoc ∉ l) : t.aoc = s.aoc :=
  h.field Dev.aoc .aoc (fun _ q hq => by cases q with | aoc => exact absurd rfl hq | _ => rfl) hp
theorem Dev.sameBut.log (hp : Part.log ∉ l) : t.log = s.log :=
  h.field Dev.log .log (fun _ q hq => by cases q with | log => exact absurd rfl hq | _ => rfl) hp
theorem Dev.sameBut.timeOff (hp : Part.timeOff ∉ l) : t.timeOff = s.timeOff :=
  h.field Dev.timeOff .timeOff (fun _ q hq => by cases q with | timeOff => exact absurd rfl hq | _ => rfl) hp
theorem Dev.sameBut.regAt (hp : Part.regs ∉ l) (A : Nat) : t.regAt A = s.regAt A := by rw [Dev.regAt, h.regs hp, ← Dev.regAt]
theorem Dev.sameBut.time (hc : Part.clock ∉ l) (ho : Part.timeOff ∉ l) : t.time = s.time := by rw [Dev.time, h.clock hc, h.timeOff ho, ← Dev.time]
end

theorem sameBut_apply (s : Dev) (u : Upd) : s.sameBut (s.apply u) u.parts := by cases u <;> rfl

/-- A program changes no parts but those of its updates. -/
theorem Prog.Within.sameBut {l : List Part} {p : Prog} (h : p.Within fun u => u.parts ⊆ l) (s : Dev) : s.sameBut (p.run s) l :=
  h.relates (R := fun s t => s.sameBut t l) (fun s => sameBut_refl s l) sameBut_trans (fun s u hu => (sameBut_apply s u).mono hu) s

/-! ### Registers -/

/-- An update may change the register word at a DPA. -/
def Upd.sets (u : Upd) (A : Nat) : Prop :=
  match u with
  | .reg B _ => A = B
  | .regDrop lo hi => lo ≤ A ∧ A < hi
  | _ => False

theorem sget_filter {α : Type} (d : Nat → α) (l : List (Nat × α)) (f : Nat → Bool) {k : Nat} (h : f k = true) :
    sget d (l.filter fun r => f r.1) k = sget d l k := by
  induction l with
  | nil => rfl
  | cons r l ih =>
    by_cases hr : f r.1 = true
    · simp only [List.filter_cons, hr, if_true, sget, ih]
    · rw [List.filter_cons, if_neg hr, ih, sget, if_neg (by rintro rfl; exact hr h)]

theorem regAt_apply_of_not_sets {s : Dev} {u : Upd} {A : Nat} (h : ¬u.sets A) : (s.apply u).regAt A = s.regAt A := by
  cases u with
  | reg B v => rw [regAt_apply]; exact if_neg h
  | regDrop lo hi =>
    have hf : (!(decide (lo ≤ A) && decide (A < hi))) = true := by
      simp only [Upd.sets] at h; simp; omega
    exact congrArg BitVec.toNat (sget_filter regReset s.regs (fun k => !(decide (lo ≤ k) && decide (k < hi))) hf)
  | _ => rfl

/-- A program changes no registers but those of its updates. -/
theorem Prog.Within.regAt {A : Nat} {p : Prog} (h : p.Within fun u => ¬u.sets A) (s : Dev) : (p.run s).regAt A = s.regAt A :=
  h.relates (R := fun s t => t.regAt A = s.regAt A) (fun _ => rfl) (fun h g => g.trans h) (fun _ _ hu => regAt_apply_of_not_sets hu) s

theorem regAddr_inj {rb : RB} {d i x y : Nat} (h : regAddr rb d i x = regAddr rb d i y) : x = y := Nat.add_left_cancel h

theorem within_setReg {P : Upd → Prop} (rb : RB) (d i off v : Nat) : (setReg rb d i off v).Within P ↔ P (.reg (regAddr rb d i off) v) := Iff.rfl
theorem within_tally {P : Upd → Prop} {rb : RB} {d i off : Nat} (n : Nat) (h : ∀ v, P (.reg (regAddr rb d i off) v)) : (tally rb d i off n).Within P := by
  rw [tally]; split
  · trivial
  · exact fun _ => h _

theorem reg_setReg (s : Dev) (rb : RB) (d i off v A : Nat) :
    ((setReg rb d i off v).run s).regAt A = if A = regAddr rb d i off then v % 2 ^ 32 else s.regAt A := regAt_apply ..

/-- The counters cleared read 0, every other register stands. -/
theorem regAt_clearTallies (rb : RB) (d i : Nat) (l : List Nat) (s : Dev) (A : Nat) :
    ((clearTallies rb d i l).run s).regAt A = if A ∈ l.map (regAddr rb d i) then 0 else s.regAt A := by
  induction l generalizing s with
  | nil => rfl
  | cons o l ih =>
    rw [clearTallies, run_forAll_cons, ← clearTallies, ih, reg_setReg, List.map_cons]
    by_cases hl : A ∈ l.map (regAddr rb d i)
    · rw [if_pos hl, if_pos (List.mem_cons_of_mem _ hl)]
    · rw [if_neg hl]
      by_cases ho : A = regAddr rb d i o
      · rw [if_pos ho, if_pos (ho ▸ List.mem_cons_self)]; rfl
      · rw [if_neg ho, if_neg (by simp [ho, hl])]

theorem sameBut_clearTallies (rb : RB) (d i : Nat) (l : List Nat) (s : Dev) : s.sameBut ((clearTallies rb d i l).run s) [.regs] :=
  Prog.Within.sameBut (by simp [clearTallies, within_setReg, Upd.parts]) s

/-- The registers become what a list says: each register listed holds its word, every other stands. -/
theorem regsBecome_of {s t : Dev} {l : List (Nat × Nat)} (hl : ∀ e, e ∈ l → t.regAt e.1 = e.2)
    (hr : ∀ A, A ∉ l.map (·.1) → t.regAt A = s.regAt A) :
    s.regsBecome t l := by
  intro A
  split
  next e he =>
    have hA : e.1 = A := by simpa using List.find?_some he
    rw [← hA, hl e (List.mem_of_find?_eq_some he)]
  next he =>
    refine hr A fun hm => ?_
    obtain ⟨e, hel, rfl⟩ := List.mem_map.mp hm
    simpa using List.find?_eq_none.mp he e hel

/-! ### Commands -/

theorem becomes_of {c : Instr} {s : State} {p : Prog} {t : Dev} (h : exec c s = s.perform p) (hr : p.run s.m = t) : becomes c s t := by
  rw [becomes, h, perform_next, hr]

theorem completes_of {c : Instr} {s : State} {p : Prog} {P : Dev → Prop} (h : exec c s = s.perform p) (hr : P (p.run s.m)) : completes c s P :=
  ⟨_, h, rfl, hr⟩

end Sys2Proof.Machine
end

section
/-! SUPPORT. Register words under the access codes of R10, and accesses to one register word over the bus (R9, R10, R28). -/

namespace Sys2Proof.Machine

/-! ### Access codes -/

/-- Bit `j` of a field after a write of `w` over `v` (R10). -/
def Fld.wrote (f : Fld) (v w j : Nat) : Bool :=
  match f.acc with
  | .rw => bitAt w j
  | .w1c => bitAt v j && !bitAt w j
  | .w1s => bitAt v j || bitAt w j
  | _ => bitAt v j

/-- What a write of `w` over `v` does for one field to the word `a` that the fields before it have made. -/
def Fld.step (v w a : Nat) (f : Fld) : Nat :=
  match f.acc with
  | .rw => setBits a f.hi f.lo (bits w f.hi f.lo)
  | .w1c => setBits a f.hi f.lo (bits v f.hi f.lo &&& (2 ^ (f.hi + 1 - f.lo) - 1 - bits w f.hi f.lo))
  | .w1s => setBits a f.hi f.lo (bits v f.hi f.lo ||| bits w f.hi f.lo)
  | _ => a

theorem afterWrite_eq_foldl (r : RegRow) (v w : Nat) : r.afterWrite v w = r.flds.foldl (Fld.step v w) v := by
  rw [RegRow.afterWrite]; congr 1

theorem step_outside {f : Fld} {v w a j : Nat} (h : j < f.lo ∨ f.hi < j) : bitAt (f.step v w a) j = bitAt a j := by
  have hset (x : Nat) : bitAt (setBits a f.hi f.lo x) j = bitAt a j := by rw [bitAt_setBits, if_neg (by omega)]
  unfold Fld.step
  split
  · exact hset _
  · exact hset _
  · exact hset _
  · rfl

theorem step_inside {f : Fld} {v w a j : Nat} (hlo : f.lo ≤ j) (hhi : j ≤ f.hi) (ha : bitAt a j = bitAt v j) :
    bitAt (f.step v w a) j = f.wrote v w j := by
  have hb (x : Nat) : (bits x f.hi f.lo).testBit (j - f.lo) = bitAt x j := by
    rw [testBit_bits, decide_eq_true (by omega), Bool.true_and, bitAt_eq_testBit, Nat.add_sub_cancel' hlo]
  have hset (x : Nat) : bitAt (setBits a f.hi f.lo x) j = x.testBit (j - f.lo) := by
    rw [bitAt_setBits, if_pos ⟨hlo, hhi⟩, bitAt_eq_testBit]
  have hlt : bits w f.hi f.lo < 2 ^ (f.hi + 1 - f.lo) := Nat.mod_lt _ (by positivity)
  unfold Fld.step Fld.wrote
  split
  · rw [hset, hb]
  · rw [hset, Nat.testBit_and, hb, Nat.sub_sub, Nat.add_comm 1, Nat.testBit_two_pow_sub_succ hlt, hb, decide_eq_true (by omega), Bool.true_and]
  · rw [hset, Nat.testBit_or, hb, hb]
  · exact ha

theorem steps_outside {l : List Fld} {v w a j : Nat} (h : ∀ f, f ∈ l → j < f.lo ∨ f.hi < j) : bitAt (l.foldl (Fld.step v w) a) j = bitAt a j := by
  induction l generalizing a with
  | nil => rfl
  | cons f l ih =>
    obtain ⟨hf, hl⟩ := List.forall_mem_cons.mp h
    rw [List.foldl_cons, ih hl, step_outside hf]

/-- Two fields share no bit. -/
def Fld.apart (f g : Fld) : Bool := decide (f.hi < g.lo) || decide (g.hi < f.lo)

theorem steps_inside {l : List Fld} {f : Fld} {v w a j : Nat} (hl : l.Pairwise fun f g => f.apart g = true) (hf : f ∈ l) (hlo : f.lo ≤ j) (hhi : j ≤ f.hi)
    (ha : bitAt a j = bitAt v j) : bitAt (l.foldl (Fld.step v w) a) j = f.wrote v w j := by
  induction l generalizing a with
  | nil => cases hf
  | cons g l ih =>
    obtain ⟨hg, hl⟩ := List.pairwise_cons.mp hl
    rw [List.foldl_cons]
    rcases List.mem_cons.mp hf with rfl | hf
    · rw [steps_outside fun k hk => ?_, step_inside hlo hhi ha]
      have := hg k hk
      simp only [Fld.apart, Bool.or_eq_true, decide_eq_true_eq] at this; omega
    · have := hg f hf
      simp only [Fld.apart, Bool.or_eq_true, decide_eq_true_eq] at this
      rw [ih hl hf (by rw [step_outside (by omega), ha])]

/-- The fields of a register share no bits, and none is W1S. -/
def RegRow.sound (r : RegRow) : Bool := decide (r.flds.Pairwise fun f g => f.apart g = true) && r.flds.all fun f => f.acc != .w1s

theorem rows_sound (rb : RB) : rb.rows.all RegRow.sound = true := by cases rb <;> decide +kernel

theorem rowAt_mem {l : List RegRow} {off : Nat} {r : RegRow} (h : rowAt l off = some r) : r ∈ l := by
  induction l with
  | nil => cases h
  | cons x l ih =>
    rw [rowAt] at h
    split at h
    · cases h; exact List.mem_cons_self
    · exact List.mem_cons_of_mem _ (ih h)

/-- A write changes each field by its access code; no register has a W1S field (R10). -/
theorem bitAt_afterWrite {rb : RB} {off : Nat} {r : RegRow} (hr : rowAt rb.rows off = some r) {f : Fld} (hf : f ∈ r.flds) {j : Nat} (hlo : f.lo ≤ j)
    (hhi : j ≤ f.hi) (v w : Nat) : bitAt (r.afterWrite v w) j = match f.acc with
      | .rw => bitAt w j
      | .w1c => bitAt v j && !bitAt w j
      | _ => bitAt v j := by
  have hs := List.all_eq_true.mp (rows_sound rb) r (rowAt_mem hr)
  simp only [RegRow.sound, Bool.and_eq_true, decide_eq_true_eq] at hs
  obtain ⟨hd, hw⟩ := hs
  have hw := List.all_eq_true.mp hw f hf
  rw [afterWrite_eq_foldl, steps_inside hd hf hlo hhi rfl, Fld.wrote]
  cases hacc : f.acc <;> simp [hacc] at hw ⊢

/-- A write leaves reserved bits. -/
theorem bitAt_afterWrite_reserved {r : RegRow} {j : Nat} (h : ∀ f, f ∈ r.flds → j < f.lo ∨ f.hi < j) (v w : Nat) :
    bitAt (r.afterWrite v w) j = bitAt v j := by
  rw [afterWrite_eq_foldl, steps_outside h]

/-! ### What stands in the register windows (R27, R31) -/

/-- What can stand in a register window: no memory of stacks or stores, and a block of the AOC's own only as the AOC's. -/
def Place.outer : Place → Bool
  | .reg rb d _ _ => !(rb == .aoc || rb == .rcv || rb == .boot) || d == 20
  | .stack | .store .. => false
  | _ => true

section
variable (d p o : Nat)
@[simp] theorem outer_ite (c : Prop) [Decidable c] (x y : Place) : (if c then x else y).outer = if c then x.outer else y.outer := apply_ite ..
@[simp] theorem outer_reg (rb : RB) : (Place.reg rb d p o).outer = (!(rb == .aoc || rb == .rcv || rb == .boot) || d == 20) := rfl
@[simp] theorem outer_mram : (Place.mram d o).outer = true := rfl
@[simp] theorem outer_win (w : LdWin) : (Place.win w d o).outer = true := rfl
@[simp] theorem outer_none : Place.none.outer = true := rfl

@[simp] theorem placeCluster_outer : (placeCluster d p o).outer = true := by
  unfold placeCluster
  split <;> simp
@[simp] theorem placeDie_outer : (placeDie d o).outer = true := by simp [placeDie]
@[simp] theorem placeLd_outer : (placeLd d o).outer = true := by simp [placeLd]
@[simp] theorem placeAoc_outer : (placeAoc o).outer = true := by simp [placeAoc]
end

/-- Beyond the stacks and stores there is no memory of theirs. -/
theorem place_outer {a : Nat} (h : storeBase + 0x1000000000 ≤ a) : (place a).outer = true := by
  have h1 : ¬a < stackEnd := by simp only [stackEnd, storeBase] at *; omega
  have h2 : ¬a < storeBase := by omega
  simp [place, h1, h2, Nat.not_lt.mpr h]

/-- Below the register windows there are no registers and no tables. -/
theorem unitPlace_low {a : Nat} (h : a < regBase) : unitPlace a = false := by
  unfold unitPlace place
  dsimp only
  split_ifs <;> rfl

theorem isReg_of_place {a d i off : Nat} {rb : RB} (h : place a = .reg rb d i off) : isReg a = true := by simp [isReg, h]

theorem isReg_of_unitPlace {a : Nat} (h : unitPlace a = false) : isReg a = false := by
  unfold isReg unitPlace at *; cases hp : place a <;> simp_all

/-- Registers stand in the register windows. -/
theorem regBase_le_of_reg {a d i off : Nat} {rb : RB} (h : place a = .reg rb d i off) : regBase ≤ a := by
  by_contra hn
  have := unitPlace_low (Nat.lt_of_not_le hn)
  simp [unitPlace, h] at this

/-- The AOC's registers, those of recovery and those of boot stand on no die. -/
theorem place_aoc_die {a d i off : Nat} {rb : RB} (h : place a = .reg rb d i off) (hrb : rb = .aoc ∨ rb = .rcv ∨ rb = .boot) : d = 20 := by
  have ha := regBase_le_of_reg h
  have ho := place_outer (a := a) (by simp only [regBase, storeBase] at *; omega)
  rw [h] at ho
  rcases hrb with rfl | rfl | rfl <;> simpa using ho

theorem memPlace_lt {a : Nat} (h : memPlace a = true) : a < storeBase + 0x1000000000 := by
  by_contra hn
  have ho := place_outer (Nat.le_of_not_lt hn)
  unfold memPlace at h
  cases hp : place a <;> simp_all [Place.outer]

/-- What lies within 4 KiB of memory is no register and no table. -/
theorem unitPlace_near {a i : Nat} (h : memPlace a = true) (hi : i < 4096) : unitPlace (a + i) = false :=
  unitPlace_low (by have := memPlace_lt h; simp only [regBase, storeBase] at *; omega)

/-! ### One word over the bus -/

theorem wordsOf_word {a : Nat} (h : a % 4 = 0) : wordsOf a 4 = [a] := by
  have e : (a + 4 - 1) / 4 - a / 4 + 1 = 1 := by omega
  have g : 4 * (a / 4 + 0) = a := by omega
  simp only [wordsOf, e, List.range_one, List.map_cons, List.map_nil, g]
  rfl

theorem word_start {a : Nat} (h : a % 4 = 0) : a / 4 * 4 = a := Nat.div_mul_cancel (Nat.dvd_of_mod_eq_zero h)

/-- A write of a whole word leaves nothing of the old one. -/
theorem mergeWord_word (s : Dev) (a v : Nat) : s.mergeWord a a (leBytes 4 v) = v % 2 ^ 32 := by
  have e : ∀ old : Nat → Byte, ((List.range 4).map fun i => if decide (a ≤ a + i) && decide (a + i < a + (leBytes 4 v).length)
      then (leBytes 4 v).getD (a + i - a) 0 else old i) = leBytes 4 v := by
    intro old
    simp [List.range_succ, leBytes]
  rw [Dev.mergeWord, e, leNat_leBytes]
  rfl

/-- A write of a register word over the bus is the register's own write. -/
theorem busWrite_word {a d i off : Nat} {rb : RB} (ha : a % 4 = 0) (h : place a = .reg rb d i off) (v : Nat) (s : Dev) :
    (busWrite a (leBytes 4 v)).run s = (regWrite rb d i off (v % 2 ^ 32)).run s := by
  simp only [busWrite, h, length_leBytes, wordsOf_word ha, run_forAll_cons, run_forAll_nil, run_look, mergeWord_word]

/-- A read of a register word over the bus returns the register's value, and has its side effects. -/
theorem busRead_word {a d i off : Nat} {rb : RB} (ha : a % 4 = 0) (h : place a = .reg rb d i off) (got : List Byte → Prog) (s : Dev) :
    (busRead a 4 got).run s = (got (leBytes 4 (s.regValue rb d i off))).run ((regReadFx rb d i off).run s) := by
  simp only [busRead, run_look, isReg_of_place h, if_true, wordsOf_word ha, readWords, h, run_seq, ha, List.drop_zero, List.nil_append]
  rw [List.take_of_length_le (by simp)]

theorem registerWrite_elsewhere {a v : Nat} {s : Dev} (h : isReg a = false ∨ s.reachAt (a / 4 * 4) ≠ .ok) : (registerWriteProg a v).run s = s := by
  rw [registerWriteProg, run_look, run_only, if_neg (by rw [Bool.and_eq_true, beq_iff_eq]; rintro ⟨h1, h2⟩; rcases h with h | h <;> simp_all)]

theorem registerWrite_word {a d i off v : Nat} {rb : RB} {s : Dev} (ha : a % 4 = 0) (h : place a = .reg rb d i off) (hr : s.reachAt a = .ok)
    (hv : v < 2 ^ 32) : (registerWriteProg a v).run s = (regWrite rb d i off v).run s := by
  rw [registerWriteProg, run_look, word_start ha, isReg_of_place h, hr, show (true && Reach.ok == .ok) = true from rfl, run_only_true,
    busWrite_word ha h, Nat.mod_eq_of_lt hv]

/-! ### Writes of single registers -/

theorem plainWrite_none {rb : RB} {off : Nat} (h : rowAt rb.rows off = none) (d i v : Nat) (s : Dev) : (plainWrite rb d i off v).run s = s := by
  rw [plainWrite, run_look, h]; rfl

theorem plainWrite_some {rb : RB} {off : Nat} {r : RegRow} (h : rowAt rb.rows off = some r) (d i v : Nat) (s : Dev) :
    (plainWrite rb d i off v).run s = s.put rb d i off (r.afterWrite (s.reg rb d i off) v) := by
  rw [plainWrite, run_look, h]; rfl

/-- Blocks whose registers obey their access codes alone, but for those named (R10). -/
theorem regWrite_plain {rb : RB} {d i off v : Nat} (hd : rb = .aoc ∨ rb = .rcv ∨ rb = .boot → d = 20)
    (h : (rb = .th ∧ off ≠ R.TH_TALLY_CLEAR ∧ (off ≠ R.TH_FAULT_STATUS ∨ bitAt v 31 = false)) ∨ (rb = .rcv ∧ off ≠ R.TALLY_CTRL)
      ∨ (rb = .drv ∧ off ≠ R.DRV_CANCEL ∧ off ≠ R.DRV_TALLY_CLEAR) ∨ (rb = .aoc ∧ off ≠ R.AOC_WAITDET_CTRL) ∨ (rb = .boot ∧ off ≠ R.BOOT_CTRL)) :
    regWrite rb d i off v = plainWrite rb d i off v := by
  have hnone (hf : (if bitAt v 31 then faultRegs rb off else none) = none) : regWrite rb d i off v = plainWrite rb d i off v := by
    unfold regWrite
    rw [hf]
    rcases h with ⟨rfl, ht, -⟩ | ⟨rfl, ht⟩ | ⟨rfl, hc, ht⟩ | ⟨rfl, ht⟩ | ⟨rfl, ht⟩
    · exact if_neg ht
    · cases hd (by simp); exact if_neg ht
    · exact (if_neg hc).trans (if_neg ht)
    · cases hd (by simp); exact if_neg ht
    · cases hd (by simp); exact if_neg ht
  refine hnone ?_
  rcases h with ⟨rfl, -, ho | hv⟩ | ⟨rfl, -⟩ | ⟨rfl, -⟩ | ⟨rfl, -⟩ | ⟨rfl, -⟩
  · simp [faultRegs, ho]
  · rw [hv]; rfl
  all_goals simp [faultRegs]

/-- Writing 1 to VALID of a status register clears the record beside it. -/
theorem regWrite_record {rb : RB} {off v : Nat} {l : List Nat} (hf : faultRegs rb off = some l) (hv : bitAt v 31 = true) (d i : Nat) :
    regWrite rb d i off v = recordClear rb d i off v l := by
  unfold regWrite
  rw [if_pos hv, hf]

/-- The record cleared reads 0; of the status register OVERFLOW alone may stand. -/
theorem recordClear_run {rb : RB} {off v : Nat} {l : List Nat} (hl : off ∉ l) (d i : Nat) (s : Dev) :
    s.sameBut ((recordClear rb d i off v l).run s) [.regs] ∧ (∀ o, o ∈ l → ((recordClear rb d i off v l).run s).reg rb d i o = 0)
      ∧ ((recordClear rb d i off v l).run s).reg rb d i off = b2n (bitAt (s.reg rb d i off) 30 && !bitAt v 30) * 2 ^ 30 := by
  have e : (recordClear rb d i off v l).run s = (clearTallies rb d i l).run
      ((setReg rb d i off (if bitAt v 30 then 0 else bits (s.reg rb d i off) 30 30 * 2 ^ 30)).run s) := rfl
  refine ⟨e ▸ sameBut_trans (sameBut_apply s (.reg _ _)) (sameBut_clearTallies ..), fun o ho => ?_, ?_⟩
  · rw [Dev.reg, e, regAt_clearTallies, if_pos (List.mem_map_of_mem ho)]
  · have hm : regAddr rb d i off ∉ l.map (regAddr rb d i) := fun hm => by
      obtain ⟨o, ho, heq⟩ := List.mem_map.mp hm
      exact hl (regAddr_inj heq ▸ ho)
    rw [Dev.reg, e, regAt_clearTallies, if_neg hm, reg_setReg, if_pos rfl, bits_one]
    cases bitAt v 30 <;> cases bitAt (s.reg rb d i off) 30 <;> rfl

end Sys2Proof.Machine
end

section
/-! SUPPORT. The event log (R554): what an entry changes beside the log. -/

namespace Sys2Proof.Machine

/-- The parts that a trace entry and the frames of an event may change. -/
def eventParts : List Part := [.free, .regs, .mem, .undef, .sessions, .sent, .aoc, .links]

/-- An update that a trace entry or the frames of an event can make: of the registers only BENTIN_EVENT_DROP counts there. -/
def Upd.ofEvent (u : Upd) : Prop := u.parts ⊆ eventParts ∧ ∀ A, u.sets A → A = regAddr .ld0 16 0 R.BENTIN_EVENT_DROP

theorem within_traceEntry (b : Option (List Byte)) : (traceEntry b).Within Upd.ofEvent := by
  cases b <;> simp [traceEntry, onAoc, Upd.ofEvent, Upd.parts, Upd.sets, eventParts]

theorem within_deliver (src type : Nat) (b : List Byte) : (deliver src type b).Within Upd.ofEvent := by
  have ht : (tally .ld0 16 0 R.BENTIN_EVENT_DROP 1).Within Upd.ofEvent :=
    within_tally 1 fun v => ⟨by simp [Upd.parts, eventParts], fun A hA => hA⟩
  simp [deliver, ht, Upd.ofEvent, Upd.parts, Upd.sets, eventParts]

theorem within_sendToSession (n type opcode reqId status : Nat) (b : List Byte) : (sendToSession n type opcode reqId status b).Within Upd.ofEvent := by
  have hs (x : Session) : Upd.ofEvent (.session n x) := by simp [Upd.ofEvent, Upd.parts, Upd.sets, eventParts]
  simp [sendToSession, within_deliver, hs]

/-- What follows an entry's place in the log: its trace entry and its frames. -/
def logTail (e : LogEntry) (n : Nat) (s : Dev) : Prog := progs [
  traceEntry (some (e.bytes n)),
  only (decide (s.fld .rcv 20 0 R.RCV_CFG 18 16 ≤ e.cls)) (forAll s.sessions fun x => sendToSession x.1 3 0x8000 0 0 (e.bytes n))]

theorem within_logTail (e : LogEntry) (n : Nat) (s : Dev) : (logTail e n s).Within Upd.ofEvent := by
  simp [logTail, within_traceEntry, within_sendToSession]

/-- An entry counts in LOG_LOST if the log is full, takes its place in the log, and is told of. -/
theorem logE_run (e : LogEntry) (s : Dev) : (logE e).run s = (logTail { e with time := s.time } s.logNext s).run
    (((only (decide (logCap ≤ s.log.length)) (tally .rcv 20 0 R.LOG_LOST 1)).run s).apply (.log { e with time := s.time })) := rfl

/-- The parts that an entry may change. -/
def logParts : List Part := .log :: .logNext :: eventParts

theorem sameBut_lost (s : Dev) : s.sameBut ((only (decide (logCap ≤ s.log.length)) (tally .rcv 20 0 R.LOG_LOST 1)).run s) [.regs] :=
  Prog.Within.sameBut (by rw [within_only]; exact fun _ => within_tally 1 fun v => List.Subset.refl _) s

theorem sameBut_logTail (e : LogEntry) (n : Nat) (s t : Dev) : t.sameBut ((logTail e n s).run t) eventParts :=
  ((within_logTail e n s).mono fun _ hu => hu.1).sameBut t

theorem sameBut_logE (e : LogEntry) (s : Dev) : s.sameBut ((logE e).run s) logParts := by
  rw [logE_run]
  exact sameBut_trans ((sameBut_lost s).mono (by simp [logParts, eventParts]))
    (sameBut_trans ((sameBut_apply _ _).mono (by simp [Upd.parts, logParts]))
      ((sameBut_logTail _ _ _ _).mono fun _ h => List.mem_cons_of_mem _ (List.mem_cons_of_mem _ h)))

/-- An entry comes to stand at the end of the log. -/
theorem log_logE (e : LogEntry) (s : Dev) : ((logE e).run s).log = logPush s.log { e with time := s.time } := by
  rw [logE_run, (sameBut_logTail _ _ _ _).log (by decide), apply_log, (sameBut_lost s).log (by decide)]

/-- Of the registers an entry changes only the two that count lost entries and dropped frames. -/
theorem regAt_logE (e : LogEntry) (s : Dev) {A : Nat} (hl : A ≠ regAddr .rcv 20 0 R.LOG_LOST) (hd : A ≠ regAddr .ld0 16 0 R.BENTIN_EVENT_DROP) :
    ((logE e).run s).regAt A = s.regAt A := by
  have ht : ∀ t, ((logTail { e with time := s.time } s.logNext s).run t).regAt A = t.regAt A :=
    ((within_logTail _ _ _).mono fun _ hu hs => hd (hu.2 _ hs)).regAt
  have hc : ((only (decide (logCap ≤ s.log.length)) (tally .rcv 20 0 R.LOG_LOST 1)).run s).regAt A = s.regAt A :=
    Prog.Within.regAt (by rw [within_only]; exact fun _ => within_tally 1 fun v => hl) s
  rw [logE_run, ht]
  exact hc

end Sys2Proof.Machine
end

section
/-! SUPPORT. Accesses over the bus to stacks and stores without errors (R28, R332, R335, R342, R498). -/

namespace Sys2Proof.Machine

/-! ### Bytes -/

theorem unitPlace_of_memPlace {a : Nat} (h : memPlace a = true) : unitPlace a = false := unitPlace_near (i := 0) h (by omega)

theorem byteAt_of_not_reg {a : Nat} (h : isReg a = false) (s : Dev) : s.byteAt a = match undefAt s.undef a with
    | some i => Config.freeByte i a
    | none => if mramOpen a then Config.freeByte 0 a else sget memInit s.mem a := by
  revert h
  unfold isReg Dev.byteAt
  cases place a with
  | reg => exact fun h => by cases h
  | _ => exact fun _ => rfl

theorem mramOpen_of_memPlace {a : Nat} (h : memPlace a = true) : mramOpen a = false := by
  unfold memPlace at h
  unfold mramOpen
  cases hp : place a <;> simp_all

/-- A byte outside the registers depends on the memory alone. -/
theorem Dev.sameBut.byteAt {s t : Dev} {l : List Part} (h : s.sameBut t l) (hm : Part.mem ∉ l) (hu : Part.undef ∉ l) {a : Nat} (ha : isReg a = false) :
    t.byteAt a = s.byteAt a := by
  rw [byteAt_of_not_reg ha, byteAt_of_not_reg ha, h.mem hm, h.undef hu]

theorem busByte_of_not_unit {a : Nat} (h : unitPlace a = false) (s : Dev) : s.busByte a = s.byteAt a := by
  unfold unitPlace at h
  unfold Dev.busByte
  cases hp : place a <;> simp_all

theorem undefAt_cons (lo hi i : Nat) (l : List (Nat × Nat × Nat)) (x : Nat) :
    undefAt ((lo, hi, i) :: l) x = if lo ≤ x ∧ x < hi then some i else undefAt l x := by
  simp only [undefAt, Bool.and_eq_true, decide_eq_true_eq]

theorem undefAt_append (k l : List (Nat × Nat × Nat)) (x : Nat) : undefAt (k ++ l) x = (undefAt k x).or (undefAt l x) := by
  induction k with
  | nil => rfl
  | cons u k ih => rw [List.cons_append, undefAt_cons, undefAt_cons, ih]; split <;> rfl

/-- The piece of a range that dropping leaves, if `c` says that there is one. -/
theorem undefAt_piece (c : Prop) [Decidable c] (lo hi i x : Nat) :
    undefAt (if c then [(lo, hi, i)] else []) x = if c ∧ lo ≤ x ∧ x < hi then some i else none := by
  by_cases hc : c <;> simp [hc, undefAt]

/-- Dropping a range leaves what is undefined outside it. -/
theorem undefAt_undefDrop (l : List (Nat × Nat × Nat)) (a n x : Nat) :
    undefAt (undefDrop l a n) x = if a ≤ x ∧ x < a + n then none else undefAt l x := by
  induction l with
  | nil => simp [undefDrop, undefAt]
  | cons u l ih =>
    obtain ⟨lo, hi, i⟩ := u
    simp only [undefDrop, Bool.or_eq_true, decide_eq_true_eq, undefAt_cons lo hi i l]
    by_cases hd : a + n ≤ lo ∨ hi ≤ a
    · rw [if_pos hd, undefAt_cons, ih]
      by_cases hx : a ≤ x ∧ x < a + n
      · rw [if_neg (by omega), if_pos hx, if_pos hx]
      · rw [if_neg hx, if_neg hx]
    · rw [if_neg hd, undefAt_append, undefAt_append, undefAt_piece, undefAt_piece, ih]
      by_cases hx : a ≤ x ∧ x < a + n
      · rw [if_neg (by omega), if_neg (by omega), if_pos hx, if_pos hx]; rfl
      · rw [if_neg hx, if_neg hx]
        by_cases hr : lo ≤ x ∧ x < hi
        · rw [if_pos hr]
          by_cases hl : x < a
          · rw [if_pos (by omega)]; rfl
          · rw [if_neg (by omega), if_pos (by omega)]; rfl
        · rw [if_neg (by omega), if_neg (by omega), if_neg hr]; rfl

/-- The memory after a store: the bytes stored, and every other byte as it was. -/
theorem byteAt_apply_mem (s : Dev) (a : Nat) (bs : List Byte) : s.wroteDpa (s.apply (.mem a bs)) [(a, bs)] := by
  intro x hx
  have hr := isReg_of_unitPlace (unitPlace_of_memPlace hx)
  have hp : dpaPuts [(a, bs)] x = if a ≤ x ∧ x < a + bs.length then some (bs.getD (x - a) 0) else none := by
    simp only [dpaPuts, List.reverse_singleton, List.findSome?_cons, List.findSome?_nil]
    split <;> simp_all
  rw [hp, byteAt_of_not_reg hr, byteAt_of_not_reg hr, mramOpen_of_memPlace hx, apply_undef, apply_mem, undefAt_undefDrop]
  by_cases h : a ≤ x ∧ x < a + bs.length
  · have hs := sget_cellsPut (m := s.mem) (a := a) (i := x - a) (bs := bs) (by omega)
    rw [Nat.add_sub_cancel' h.1] at hs
    rw [if_pos h, if_pos h, Option.getD_some, List.getD_eq_getElem _ _ (by omega)]
    exact hs
  · rw [if_neg h, if_neg h, Option.getD_none, if_neg (by decide), if_neg (by decide), sget_cellsPut_other (by omega)]

/-! ### Accesses without errors -/

theorem within_zcRead (a n : Nat) : (zcRead a n).Within fun u => u.parts ⊆ [.regs] := by
  have ht (k : Nat) (z : Nat) : (tally .stk (k / 2) (k % 2) R.STK_ZC_SAVED z).Within fun u => u.parts ⊆ [.regs] :=
    within_tally z fun v => List.Subset.refl _
  simp only [zcRead, within_look, within_only, within_forAll]
  intro s _ b _
  split
  · exact ht _ _
  · trivial

theorem touched_nil (a n : Nat) : touched [] a n = [] := rfl

/-- A read without errors changes counters alone. -/
theorem sameBut_memTouch {s : Dev} (h : s.errorless) (a n : Nat) : s.sameBut ((memTouch a n).run s) [.regs] := by
  obtain ⟨ho, hb⟩ := h
  have e : (memTouch a n).run s = (zcRead a n).run s := by
    simp only [memTouch, readChecks, run_progs_cons, run_progs_nil, run_look, ho, hb, touched_nil, run_forAll_nil]
  rw [e]
  exact (within_zcRead a n).sameBut s

/-- A read of memory without errors returns its bytes and changes counters alone. -/
theorem busRead_mem {s : Dev} {a n : Nat} (hm : memPlace a = true) (he : s.errorless) (hn : n ≤ 4096) (got : List Byte → Prog) :
    ∃ t, s.sameBut t [.regs] ∧ (busRead a n got).run s = (got (s.bytesAt a n)).run t := by
  have hr := isReg_of_unitPlace (unitPlace_of_memPlace hm)
  refine ⟨(memTouch a n).run s, sameBut_memTouch he a n, ?_⟩
  have hb : (List.range n).map (fun i => s.busByte (a + i)) = s.bytesAt a n :=
    List.map_congr_left fun i hi => busByte_of_not_unit (unitPlace_near hm (by have := List.mem_range.mp hi; omega)) s
  rw [busRead, run_look, hr, if_neg (by decide), run_seq, hb]

theorem within_zcWrite_raw (b : Nat) : (zcWrite b none).Within fun u => u.parts ⊆ [.stackTab] := by
  simp [zcWrite, onStack, Upd.parts]

/-- A write of memory without errors stores its bytes; beside the memory it changes counters and the form of stack blocks alone. -/
theorem busWrite_mem {s : Dev} {a : Nat} (hm : memPlace a = true) (he : s.errorless) (bs : List Byte) :
    s.sameBut ((busWrite a bs).run s) [.mem, .undef, .stackTab, .regs] ∧ s.wroteDpa ((busWrite a bs).run s) [(a, bs)] := by
  obtain ⟨ho, hb⟩ := he
  have e : (busWrite a bs).run s = (memWrite a bs false).run s := by
    have hp := hm
    unfold memPlace at hp
    unfold busWrite
    cases h : place a <;> simp_all
  obtain ⟨p, q, hp, hq, hrun⟩ : ∃ p q : Prog, (p.Within fun u => u.parts ⊆ [.regs]) ∧ (q.Within fun u => u.parts ⊆ [.stackTab])
      ∧ (memWrite a bs false).run s = q.run ((p.run s).apply (.mem a bs)) := by
    refine ⟨forAll (s.zcMerged a bs.length) fun b => zcRead (b * 256) 256,
      only (decide (a < stackEnd)) (forAll (zcBlocks a bs.length) fun b => zcWrite b none), ?_, ?_, ?_⟩
    · simp only [within_forAll]; exact fun b _ => within_zcRead _ _
    · simp only [within_only, within_forAll]; exact fun _ b _ => within_zcWrite_raw b
    · simp [memWrite, ho, hb, hm]
  have hs1 := hp.sameBut s
  have hs2 := sameBut_apply (p.run s) (.mem a bs)
  have hs3 := hq.sameBut ((p.run s).apply (.mem a bs))
  rw [e, hrun]
  refine ⟨sameBut_trans (hs1.mono (by simp)) (sameBut_trans (hs2.mono (by simp [Upd.parts])) (hs3.mono (by simp))), fun x hx => ?_⟩
  have hr := isReg_of_unitPlace (unitPlace_of_memPlace hx)
  rw [hs3.byteAt (by decide) (by decide) hr, byteAt_apply_mem _ _ _ x hx, hs1.byteAt (by decide) (by decide) hr]

/-! ### Reaching memory -/

theorem within_wantStacks (a n : Nat) : (wantStacks a n).Within fun u => u.parts ⊆ [.doms] := by
  simp only [wantStacks, within_forAll, within_look]
  intro x _ s
  split
  · simp [onDom, Upd.parts]
  · trivial

theorem blockStarts_ge {a n x : Nat} (h : x ∈ blockStarts a n) : a ≤ x := by
  unfold blockStarts at h
  split at h
  · cases h
  · rcases List.mem_cons.mp h with rfl | h
    · exact Nat.le_refl _
    · obtain ⟨i, -, rfl⟩ := List.mem_map.mp h
      omega

/-- An access waits only where it meets a stack. -/
theorem stack_of_wait {s : Dev} {a : Nat} (h : s.reachAt a = .wait) : place a = .stack := by
  unfold Dev.reachAt at h
  cases hp : place a with
  | stack => rfl
  | _ => simp [hp, ite_eq_iff] at h

theorem exists_wait {s : Dev} {a n : Nat} : s.reachRange a n = Reach.wait → ∃ x, x ∈ blockStarts a n ∧ s.reachAt x = .wait := by
  unfold Dev.reachRange
  refine List.foldlRecOn (motive := fun r => r = Reach.wait → ∃ x, x ∈ blockStarts a n ∧ s.reachAt x = .wait) _ _
    (fun h => by cases h) fun r ih x hx h => ?_
  cases r with
  | ok => exact ⟨x, hx, h⟩
  | bounds => cases h
  | wait => exact ih rfl

theorem lt_of_stack {a : Nat} (h : place a = .stack) : a < stackEnd := by
  by_contra hn
  by_cases hs : a < storeBase + 0x1000000000
  · simp [place, hn, hs, ite_eq_iff] at h
  · have ho := place_outer (Nat.le_of_not_lt hs)
    rw [h] at ho; cases ho

/-- A range that waits starts in a stack. -/
theorem place_of_wait {s : Dev} {a n : Nat} (h : s.reachRange a n = .wait) : place a = .stack := by
  obtain ⟨x, hx, hw⟩ := exists_wait h
  exact if_pos (Nat.lt_of_le_of_lt (blockStarts_ge hx) (lt_of_stack (stack_of_wait hw)))

end Sys2Proof.Machine
end

section
/-! SUPPORT. What the programs of the service connector come to (R570 to R579). -/

namespace Sys2Proof.Machine

/-! ### Input and AOCs -/

/-- The connector answers while the input is up and an AOC lives (R536, R570). -/
theorem pinsOn_iff (s : Dev) : s.pinsOn = true ↔ s.power.inputOk = true ∧ s.aoc.dead % 4 ≠ 3 := by
  simp [Dev.pinsOn, Dev.aocDead]

theorem owns_eq (s : Dev) (r : Nat) : s.owns r = s.reg .res 20 0 (R.RES_CLAIM + 4 * r) % 256 := by
  simp [Dev.owns, Dev.fld, bits]

theorem run_setFld (s : Dev) (rb : RB) (d i off hi lo v : Nat) :
    (setFld rb d i off hi lo v).run s = s.put rb d i off (setBits (s.reg rb d i off) hi lo v) := rfl

theorem run_setReg (s : Dev) (rb : RB) (d i off v : Nat) : (setReg rb d i off v).run s = s.put rb d i off v := rfl

theorem regAt_put (s : Dev) (rb : RB) (d i off v A : Nat) : (s.put rb d i off v).regAt A = if A = regAddr rb d i off then v % 2 ^ 32 else s.regAt A :=
  regAt_apply ..

theorem sameBut_put (s : Dev) (rb : RB) (d i off v : Nat) : s.sameBut (s.put rb d i off v) [.regs] := sameBut_apply ..

/-! ### Pins -/

theorem wakePin_run {s : Dev} (h : s.pinsOn = true) : wakePinProg.run s
    = ({ s.put .svc 20 0 R.SVC_EVENT (setBits (s.reg .svc 20 0 R.SVC_EVENT) 8 8 1) with clock := s.clock + 1000 } : Dev).logged
      (LogEntry.plain 0 0x0B 0 0) := by
  rw [wakePinProg, run_look, h]; rfl

/-- A rising edge of a claimed pin: the two words of the time and the event. -/
theorem latchEdge_run {s : Dev} {feature r off ev : Nat} (h : s.pinsOn = true) (hr : s.owns r = feature) (ho : off ≠ R.SVC_EVENT)
    (ho' : off + 4 ≠ R.SVC_EVENT) (hev : ev < 32) :
    s.regsBecome ((latchEdge feature r off ev).run s) [(regAddr .svc 20 0 off, s.time % 2 ^ 32), (regAddr .svc 20 0 (off + 4), s.time / 2 ^ 32 % 2 ^ 32),
        (regAddr .svc 20 0 R.SVC_EVENT, setBits (s.reg .svc 20 0 R.SVC_EVENT) ev ev 1)]
      ∧ s.sameBut ((latchEdge feature r off ev).run s) [.regs] := by
  have n1 : regAddr .svc 20 0 R.SVC_EVENT ≠ regAddr .svc 20 0 off := fun e => ho (regAddr_inj e).symm
  have n2 : regAddr .svc 20 0 R.SVC_EVENT ≠ regAddr .svc 20 0 (off + 4) := fun e => ho' (regAddr_inj e).symm
  have n3 : regAddr .svc 20 0 off ≠ regAddr .svc 20 0 (off + 4) := fun e => by have := regAddr_inj e; omega
  have hE : setBits (s.reg .svc 20 0 R.SVC_EVENT) ev ev 1 % 2 ^ 32 = _ := setBits_mod s (regAddr .svc 20 0 R.SVC_EVENT) ev ev 1 hev
  have hrun : (latchEdge feature r off ev).run s = ((s.put .svc 20 0 off (s.time % 2 ^ 32)).put .svc 20 0 (off + 4) (s.time / 2 ^ 32 % 2 ^ 32)).put
      .svc 20 0 R.SVC_EVENT (setBits (s.reg .svc 20 0 R.SVC_EVENT) ev ev 1) := by
    simp only [latchEdge, run_look, h, hr, svcEvent, run_progs_cons, run_progs_nil, run_setReg, run_setFld, Bool.true_and, decide_true, run_only_true]
    rw [Dev.reg, regAt_put, if_neg n2, regAt_put, if_neg n1, ← Dev.reg]
  rw [hrun]
  refine ⟨regsBecome_of (fun e he => ?_) fun A hA => ?_, sameBut_trans (sameBut_put ..) (sameBut_trans (sameBut_put ..) (sameBut_put ..))⟩
  · simp only [List.mem_cons, List.not_mem_nil, or_false] at he
    rcases he with rfl | rfl | rfl
    · rw [regAt_put, if_neg n1.symm, regAt_put, if_neg n3, regAt_put, if_pos rfl, Nat.mod_mod]
    · rw [regAt_put, if_neg n2.symm, regAt_put, if_pos rfl, Nat.mod_mod]
    · rw [regAt_put, if_pos rfl, hE]; rfl
  · simp only [List.map_cons, List.map_nil, List.mem_cons, List.not_mem_nil, or_false, not_or] at hA
    obtain ⟨h1, h2, h3⟩ := hA
    rw [regAt_put, if_neg h3, regAt_put, if_neg h2, regAt_put, if_neg h1]

theorem latchEdge_unclaimed {s : Dev} {feature r off ev : Nat} (h : s.owns r ≠ feature) : (latchEdge feature r off ev).run s = s := by
  simp [latchEdge, h]

/-- A contact takes a level; where that is a change, its bit of SVC_EVENT is set (R579). -/
theorem gpioEdge_run {s : Dev} (h : s.pinsOn = true) (i : Nat) (hi : i < 8) (b : Bool) :
    s.sameBut ((gpioEdgeProg i b).run s) [.aoc, .regs]
      ∧ ((gpioEdgeProg i b).run s).aoc = { s.aoc with gpio := ((gpioEdgeProg i b).run s).aoc.gpio }
      ∧ (∀ j, j < 8 → bitAt ((gpioEdgeProg i b).run s).aoc.gpio j = if j = i then b else bitAt s.aoc.gpio j)
      ∧ (∀ A, A ≠ regAddr .svc 20 0 R.SVC_EVENT → ((gpioEdgeProg i b).run s).regAt A = s.regAt A)
      ∧ ∀ j, bitAt (((gpioEdgeProg i b).run s).reg .svc 20 0 R.SVC_EVENT) j
          = (bitAt (s.reg .svc 20 0 R.SVC_EVENT) j || (decide (j = i) && (bitAt s.aoc.gpio i != b))) := by
  have hrun : (gpioEdgeProg i b).run s = ({ s with aoc := { s.aoc with gpio := setBits s.aoc.gpio i i (b2n b) % 256 } } : Dev).put .svc 20 0 R.SVC_EVENT
      (setBits (s.reg .svc 20 0 R.SVC_EVENT) 7 0
        (s.fld .svc 20 0 R.SVC_EVENT 7 0 ||| Nat.xor (s.aoc.gpio % 256) (setBits s.aoc.gpio i i (b2n b) % 256))) := by
    rw [gpioEdgeProg, run_look, h, Nat.mod_eq_of_lt hi]; rfl
  have hbit (j : Nat) (hj : j < 8) : bitAt (setBits s.aoc.gpio i i (b2n b) % 256) j = if j = i then b else bitAt s.aoc.gpio j := by
    rw [show (256 : Nat) = 2 ^ 8 from rfl, bitAt_eq_testBit, Nat.testBit_mod_two_pow, ← bitAt_eq_testBit, bitAt_setBits, decide_eq_true hj, Bool.true_and]
    by_cases hji : j = i
    · subst hji; rw [if_pos ⟨le_refl j, le_refl j⟩, if_pos rfl, Nat.sub_self, bitAt_b2n]; rfl
    · rw [if_neg (by omega), if_neg hji]
  rw [hrun]
  refine ⟨?_, rfl, fun j hj => hbit j hj, fun A hA => ?_, fun j => ?_⟩
  · rfl
  · rw [regAt_put, if_neg hA]; rfl
  · rw [Dev.reg, regAt_put, if_pos rfl, Dev.reg, setBits_mod _ _ _ _ _ (by omega), bitAt_setBits]
    by_cases hj : j ≤ 7
    · have hf : (s.fld .svc 20 0 R.SVC_EVENT 7 0).testBit j = bitAt (s.reg .svc 20 0 R.SVC_EVENT) j := by
        rw [Dev.fld, testBit_bits, decide_eq_true (by omega), Bool.true_and, Nat.zero_add, bitAt_eq_testBit]
      have hg : (s.aoc.gpio % 256).testBit j = bitAt s.aoc.gpio j := by
        rw [show (256 : Nat) = 2 ^ 8 from rfl, Nat.testBit_mod_two_pow, decide_eq_true (by omega), Bool.true_and, bitAt_eq_testBit]
      rw [if_pos ⟨Nat.zero_le j, hj⟩, Nat.sub_zero, bitAt_eq_testBit, Nat.testBit_or, hf]
      congr 1
      refine (Nat.testBit_xor _ _ j).trans ?_
      rw [hg, ← bitAt_eq_testBit, hbit j (by omega)]
      by_cases hji : j = i
      · subst hji; cases b <;> cases bitAt s.aoc.gpio j <;> simp
      · simp [hji]
    · rw [if_neg (by omega), show decide (j = i) = false from decide_eq_false (by omega), Bool.false_and, Bool.or_false]

/-! ### Timers -/

theorem out_pin (s : Dev) {via : Nat} (h : 131072 ≤ via) (b : List Byte) : s.out via b = ⟨via, b, []⟩ := by
  simp [Dev.out, Nat.not_lt.mpr h]

theorem pulse_run (pin ns : Nat) (s : Dev) : (pulse pin ns).run s
    = { s with sent := s.sent ++ [⟨196610, leBytes 1 pin ++ leBytes 8 s.time ++ leBytes 4 ns, []⟩] } := by
  rw [pulse, run_look, run_upd, Dev.apply, out_pin s (by omega)]

/-- At the next whole second of device time the claimed PPS pin pulses for 1 ms (R421). -/
theorem ppsOutEdge_run {s : Dev} (h : s.pinsOn = true) (ho : s.owns 0 = 1) :
    s.sameBut (ppsOutEdgeProg.run s) [.clock, .sent] ∧ (ppsOutEdgeProg.run s).clock = s.clock + (1000000000 - s.time % 1000000000)
      ∧ (ppsOutEdgeProg.run s).sent = s.sent ++ [⟨196610, leBytes 1 0 ++ leBytes 8 (ppsOutEdgeProg.run s).time ++ leBytes 4 1000000, []⟩] := by
  have hrun : ppsOutEdgeProg.run s = (pulse 0 1000000).run { s with clock := s.clock + (1000000000 - s.time % 1000000000) } := by
    simp only [ppsOutEdgeProg, run_look, h, ho]; rfl
  rw [hrun, pulse_run]
  exact ⟨rfl, rfl, rfl⟩

theorem ppsOutEdge_unclaimed {s : Dev} (h : s.owns 0 ≠ 1) : ppsOutEdgeProg.run s = s := by
  simp [ppsOutEdgeProg, h]

/-- A timer acts while it is armed and a feature holds it (R575). -/
theorem timerFire_idle {s : Dev} {n : Nat} (h : ¬(bitAt (s.reg .tmr 20 n R.TMR_CTRL) 0 = true ∧ s.owns (2 + n) ≠ 0)) : (timerFireProg n).run s = s := by
  rw [timerFireProg, run_look, run_only, if_neg]
  simp only [Bool.and_eq_true, decide_eq_true_eq]
  exact fun hc => h ⟨hc.1.2, hc.2⟩

/-- What a firing timer does beside its registers: the pulse of a SYNC holder, the event of an event holder. -/
def timerTells (n owner : Nat) (s : Dev) : Prog := progs [
  only (owner = 3 && s.owns 1 = 3) (pulse 1 (100 * max 1 (s.fld .tmr 20 n R.TMR_CTRL 15 8))),
  only (owner = 5) (progs [svcEvent (11 + n), aocLog 0 0 0 n 0])]

/-- A firing timer's advance past the present, or its end. -/
def timerNext (n cmp : Nat) : Prog := look fun s =>
  let period := s.reg .tmr 20 n R.TMR_PERIOD
  if period = 0 then setFld .tmr 20 n R.TMR_CTRL 0 0 0
  else
    let next := cmp + ((s.time - cmp) / period + 1) * period
    progs [setReg .tmr 20 n R.TMR_CMP_LO (next % 2 ^ 32), setReg .tmr 20 n R.TMR_CMP_HI (next / 2 ^ 32 % 2 ^ 32)]

/-- A firing timer waits for CMP, tells of it, and goes on. -/
theorem timerFire_run {s : Dev} {n : Nat} (h : s.pinsOn = true) (he : bitAt (s.reg .tmr 20 n R.TMR_CTRL) 0 = true) (ho : s.owns (2 + n) ≠ 0) :
    (timerFireProg n).run s = (timerNext n (s.timerCmp n)).run
      ((timerTells n (s.owns (2 + n)) s).run (s.apply (.time (s.timerCmp n - s.time)))) := by
  rw [timerFireProg, run_look, run_only, if_pos (by simp [h, he, ho])]; rfl

theorem sameBut_pulse (pin ns : Nat) (s : Dev) : s.sameBut ((pulse pin ns).run s) [.sent] := by rw [pulse_run]; rfl

/-- The event of timer `n` comes with an entry of the log. -/
theorem timerEvent_run (n : Nat) (u : Dev) : (progs [svcEvent (11 + n), aocLog 0 0 0 n 0]).run u
    = (logE { LogEntry.plain 0 0x0B 0 0 with index := n }).run
      (u.put .svc 20 0 R.SVC_EVENT (setBits (u.reg .svc 20 0 R.SVC_EVENT) (11 + n) (11 + n) 1)) := rfl

theorem sameBut_timerTells (n owner : Nat) (s u : Dev) : u.sameBut ((timerTells n owner s).run u) logParts := by
  have h1 : u.sameBut ((only (owner = 3 && s.owns 1 = 3) (pulse 1 (100 * max 1 (s.fld .tmr 20 n R.TMR_CTRL 15 8)))).run u) logParts := by
    rw [run_only]; split
    · exact (sameBut_pulse ..).mono (by decide)
    · exact sameBut_refl ..
  refine sameBut_trans h1 ?_
  rw [timerTells, run_progs_cons, run_progs_cons, run_progs_nil, run_only (decide (owner = 5))]; split
  · rw [timerEvent_run]
    exact sameBut_trans ((sameBut_put ..).mono (by decide)) (sameBut_logE ..)
  · exact sameBut_refl ..

/-- A timer's registers are none of those that telling of it changes. -/
theorem reg_timerTells (n owner : Nat) (s u : Dev) (off : Nat) : ((timerTells n owner s).run u).reg .tmr 20 n off = u.reg .tmr 20 n off := by
  have n1 : regAddr .tmr 20 n off ≠ regAddr .svc 20 0 R.SVC_EVENT := by simp only [regAddr, blockBase, R.SVC_EVENT]; omega
  have n2 : regAddr .tmr 20 n off ≠ regAddr .rcv 20 0 R.LOG_LOST := by simp only [regAddr, blockBase, R.LOG_LOST]; omega
  have n3 : regAddr .tmr 20 n off ≠ regAddr .ld0 16 0 R.BENTIN_EVENT_DROP := by
    simp only [regAddr, blockBase, R.BENTIN_EVENT_DROP, regBase, aocBase]; omega
  simp only [Dev.reg, timerTells, run_progs_cons, run_progs_nil]
  have h1 : ((only (owner = 3 && s.owns 1 = 3) (pulse 1 (100 * max 1 (s.fld .tmr 20 n R.TMR_CTRL 15 8)))).run u).regAt (regAddr .tmr 20 n off)
      = u.regAt (regAddr .tmr 20 n off) := by
    rw [run_only]; split
    · exact (sameBut_pulse ..).regAt (by decide) _
    · rfl
  rw [← h1, run_only (decide (owner = 5))]; split
  · rw [timerEvent_run, regAt_logE _ _ n2 n3, regAt_put, if_neg n1]
  · rfl

/-- A timer of a SYNC holder pulses the pin. -/
theorem timerTells_pulse (n : Nat) {s : Dev} (h : s.owns 1 = 3) (u : Dev) : (timerTells n 3 s).run u
    = (pulse 1 (100 * max 1 (s.fld .tmr 20 n R.TMR_CTRL 15 8))).run u := by
  simp [timerTells, h]

/-- A timer of an event holder sets its event. -/
theorem timerTells_event (n : Nat) (s u : Dev) : (timerTells n 5 s).run u = (progs [svcEvent (11 + n), aocLog 0 0 0 n 0]).run u := rfl

theorem sameBut_timerNext (n cmp : Nat) (w : Dev) : w.sameBut ((timerNext n cmp).run w) [.regs] := by
  refine Prog.Within.sameBut ?_ w
  simp [timerNext, setFld, within_setReg, Upd.parts]

/-- A timer that goes on changes none but its own registers. -/
theorem regAt_timerNext (n cmp : Nat) (w : Dev) {A : Nat} (h : ∀ off, A ≠ regAddr .tmr 20 n off) : ((timerNext n cmp).run w).regAt A = w.regAt A := by
  refine Prog.Within.regAt ?_ w
  simp [timerNext, setFld, within_setReg, Upd.sets, h]

/-- A timer of no period is disarmed. -/
theorem timerNext_once {n cmp : Nat} {w : Dev} (h : w.reg .tmr 20 n R.TMR_PERIOD = 0) :
    bitAt (((timerNext n cmp).run w).reg .tmr 20 n R.TMR_CTRL) 0 = false := by
  have hrun : (timerNext n cmp).run w = w.put .tmr 20 n R.TMR_CTRL (setBits (w.reg .tmr 20 n R.TMR_CTRL) 0 0 0) := by
    rw [timerNext, run_look]; simp only [h, if_true]; rfl
  rw [hrun, Dev.reg, regAt_put, if_pos rfl, Dev.reg, setBits_mod _ _ _ _ _ (by omega), bitAt_setBits, if_pos (by omega)]; rfl

/-- A timer of a period goes on to the first time of its grid that is ahead. -/
theorem timerNext_again {n cmp : Nat} {w : Dev} (h : w.reg .tmr 20 n R.TMR_PERIOD ≠ 0) :
    let t := (timerNext n cmp).run w
    let next := cmp + ((w.time - cmp) / w.reg .tmr 20 n R.TMR_PERIOD + 1) * w.reg .tmr 20 n R.TMR_PERIOD
    t.reg .tmr 20 n R.TMR_CTRL = w.reg .tmr 20 n R.TMR_CTRL ∧ t.reg .tmr 20 n R.TMR_CMP_LO = next % 2 ^ 32
      ∧ t.reg .tmr 20 n R.TMR_CMP_HI = next / 2 ^ 32 % 2 ^ 32 := by
  intro t next
  have hrun : t = (w.put .tmr 20 n R.TMR_CMP_LO (next % 2 ^ 32)).put .tmr 20 n R.TMR_CMP_HI (next / 2 ^ 32 % 2 ^ 32) := by
    show (timerNext n cmp).run w = _
    rw [timerNext, run_look]; simp only [h, if_false]; rfl
  have hne {x y : Nat} (hxy : x ≠ y) : regAddr .tmr 20 n x ≠ regAddr .tmr 20 n y := fun e => hxy (regAddr_inj e)
  rw [hrun]
  simp only [Dev.reg, regAt_put, Nat.mod_mod]
  rw [if_neg (hne (by decide)), if_neg (hne (by decide)), if_neg (hne (by decide))]
  exact ⟨rfl, if_pos trivial, if_pos trivial⟩

/-- A held timer fires (R575). -/
theorem timerFire_fires {s : Dev} {n : Nat} (h : s.pinsOn = true) (he : bitAt (s.reg .tmr 20 n R.TMR_CTRL) 0 = true) (ho : s.owns (2 + n) ≠ 0)
    (hn : n < 2) :
    let t := (timerFireProg n).run s
    let period := s.reg .tmr 20 n R.TMR_PERIOD
    t.clock = s.clock + (s.timerCmp n - s.time)
      ∧ (period = 0 → bitAt (t.reg .tmr 20 n R.TMR_CTRL) 0 = false)
      ∧ (period ≠ 0 → t.reg .tmr 20 n R.TMR_CTRL = s.reg .tmr 20 n R.TMR_CTRL
        ∧ let next := s.timerCmp n + ((t.time - s.timerCmp n) / period + 1) * period
          t.reg .tmr 20 n R.TMR_CMP_LO = next % 2 ^ 32 ∧ t.reg .tmr 20 n R.TMR_CMP_HI = next / 2 ^ 32 % 2 ^ 32)
      ∧ (s.owns (2 + n) = 3 → s.owns 1 = 3 → t.log = s.log ∧ t.sent = s.sent
          ++ [⟨196610, leBytes 1 1 ++ leBytes 8 t.time ++ leBytes 4 (100 * max 1 (s.reg .tmr 20 n R.TMR_CTRL / 256 % 256)), []⟩])
      ∧ (s.owns (2 + n) = 5 → bitAt (t.reg .svc 20 0 R.SVC_EVENT) (11 + n) = true
          ∧ t.log = logPush s.log { LogEntry.plain 0 0x0B 0 0 with index := n, time := t.time }) := by
  intro t period
  obtain ⟨u, hu⟩ : ∃ u : Dev, u = s.apply (.time (s.timerCmp n - s.time)) := ⟨_, rfl⟩
  obtain ⟨w, hw⟩ : ∃ w, w = (timerTells n (s.owns (2 + n)) s).run u := ⟨_, rfl⟩
  have ht : t = (timerNext n (s.timerCmp n)).run w := by rw [hw, hu]; exact timerFire_run h he ho
  have huf : s.sameBut u [.clock] := hu ▸ sameBut_apply s (.time _)
  have hwf : u.sameBut w logParts := hw ▸ sameBut_timerTells ..
  have htf : w.sameBut t [.regs] := ht ▸ sameBut_timerNext ..
  have hreg (off : Nat) : w.reg .tmr 20 n off = s.reg .tmr 20 n off := by
    rw [hw, reg_timerTells, Dev.reg, huf.regAt (by decide), ← Dev.reg]
  have htime : t.time = w.time := htf.time (by decide) (by decide)
  have hwtime : w.time = u.time := hwf.time (by decide) (by decide)
  refine ⟨?_, fun hp => ?_, fun hp => ?_, fun h3 h1 => ?_, fun h5 => ?_⟩
  · rw [htf.clock (by decide), hwf.clock (by decide), hu, apply_clock]
  · rw [ht]; exact timerNext_once ((hreg _).trans hp)
  · have ha := timerNext_again (cmp := s.timerCmp n) (fun e => hp ((hreg R.TMR_PERIOD).symm.trans e))
    rw [htime, ht]
    simpa only [hreg] using ha
  · have hwp : w = (pulse 1 (100 * max 1 (s.fld .tmr 20 n R.TMR_CTRL 15 8))).run u := by rw [hw, h3, timerTells_pulse n h1]
    have hwidth : s.fld .tmr 20 n R.TMR_CTRL 15 8 = s.reg .tmr 20 n R.TMR_CTRL / 256 % 256 := rfl
    rw [htf.log (by decide), htf.sent (by decide), htime, hwtime, hwp, pulse_run, hwidth]
    exact ⟨huf.log (by decide), congrArg (· ++ _) (huf.sent (by decide))⟩
  · have hwe : w = (logE { LogEntry.plain 0 0x0B 0 0 with index := n }).run
        (u.put .svc 20 0 R.SVC_EVENT (setBits (u.reg .svc 20 0 R.SVC_EVENT) (11 + n) (11 + n) 1)) := by rw [hw, h5, timerTells_event, timerEvent_run]
    refine ⟨?_, ?_⟩
    · have hset : w.reg .svc 20 0 R.SVC_EVENT = setBits (u.reg .svc 20 0 R.SVC_EVENT) (11 + n) (11 + n) 1 := by
        rw [hwe, Dev.reg, regAt_logE _ _ (by decide) (by decide), regAt_put, if_pos rfl, Dev.reg, setBits_mod _ _ _ _ _ (by omega)]
      rw [ht, Dev.reg, regAt_timerNext _ _ _ (by intro off; simp only [regAddr, blockBase, R.SVC_EVENT]; omega), ← Dev.reg, hset, bitAt_setBits,
        if_pos ⟨le_refl _, le_refl _⟩, Nat.sub_self]
      rfl
    · rw [htf.log (by decide), htime, hwtime, hwe, log_logE, (sameBut_put ..).log (by decide),
        (sameBut_put ..).time (by decide) (by decide), huf.log (by decide)]

/-! ### SMBus -/

/-- The pointer takes a multiple of 4 (R576). -/
theorem smbusWriteWord_run {s : Dev} {p : Nat} (h : s.pinsOn = true) (hp : p < 65536) (ha : p % 4 = 0) :
    (smbusWriteWordProg p true).run s = { s with aoc := { s.aoc with smbPtr := p } } := by
  have hle : p ≤ 0xFFFC := by omega
  rw [smbusWriteWordProg, run_look, run_only, if_pos (by simp [h, ha, hle])]; rfl

theorem smbusWriteWord_refused {s : Dev} {p : Nat} {b : Bool} (h : b = false ∨ p % 4 ≠ 0) : (smbusWriteWordProg p b).run s = s := by
  rw [smbusWriteWordProg, run_look, run_only, if_neg (by rcases h with h | h <;> simp [h])]

theorem send_run (s : Dev) {via : Nat} (h : 131072 ≤ via) (b : List Byte) : s.apply (.send via b) = { s with sent := s.sent ++ [⟨via, b, []⟩] } := by
  rw [Dev.apply, out_pin s h]

/-- A read where nothing answers returns 0. -/
theorem smbusBlockRead_off {s : Dev} (h : s.pinsOn = true) (hr : s.reachAt (aocBase + s.aoc.smbPtr) ≠ .ok) : smbusBlockReadProg.run s
    = { s with sent := s.sent ++ [⟨196608, [0, 0, 0, 0], []⟩], aoc := { s.aoc with smbPtr := (s.aoc.smbPtr + 4) % 0x10000 } } := by
  have hr' : (s.reachAt (aocBase + s.aoc.smbPtr) == .ok) = false := by simpa using hr
  simp only [smbusBlockReadProg, run_look, h, run_only_true, hr', run_progs_cons, run_upd, send_run s (show 131072 ≤ 196608 by omega),
    Bool.false_eq_true, if_false]
  rfl

/-- A device after side effects of a register read: registers and latched halves alone have changed. -/
def Dev.readFx (s t : Dev) : Prop := s.sameBut t [.regs, .aoc] ∧ { t.aoc with latches := [] } = { s.aoc with latches := [] }

theorem readFx_refl (s : Dev) : s.readFx s := ⟨rfl, rfl⟩
theorem readFx_trans {s t u : Dev} (h : s.readFx t) (g : t.readFx u) : s.readFx u := ⟨sameBut_trans h.1 g.1, g.2.trans h.2⟩
theorem readFx_latch (s : Dev) (l : List (Nat × Nat)) : s.readFx (s.apply (.aoc { s.aoc with latches := l })) := ⟨rfl, rfl⟩
theorem readFx_only {s : Dev} {p : Prog} (c : Bool) (h : s.readFx (p.run s)) : s.readFx ((only c p).run s) := by
  cases c
  · exact readFx_refl s
  · exact h

theorem readFx_regReadFx (rb : RB) (d i off : Nat) (s : Dev) : s.readFx ((regReadFx rb d i off).run s) := by
  unfold regReadFx
  simp only [run_look]
  split
  · exact readFx_only _ (readFx_latch ..)
  · rw [run_progs_cons, run_progs_cons, run_progs_nil]
    exact readFx_trans (readFx_only _ (readFx_latch ..)) (readFx_only _ (readFx_latch ..))
  · split
    · exact readFx_only _ ⟨(sameBut_put ..).mono (by decide), rfl⟩
    · exact readFx_refl s

/-- A block read returns the register at the pointer, and the pointer goes on (R576). -/
theorem smbusBlockRead_run {s : Dev} {rb : RB} {d x off : Nat} (h : s.pinsOn = true) (ha : s.aoc.smbPtr % 4 = 0)
    (hr : s.reachAt (aocBase + s.aoc.smbPtr) = .ok) (hp : place (aocBase + s.aoc.smbPtr) = .reg rb d x off) :
    (smbusBlockReadProg.run s).sent = s.sent ++ [⟨196608, leBytes 4 (s.regValue rb d x off), []⟩]
      ∧ (smbusBlockReadProg.run s).aoc.smbPtr = (s.aoc.smbPtr + 4) % 0x10000 ∧ s.sameBut (smbusBlockReadProg.run s) [.regs, .aoc, .sent] := by
  obtain ⟨t, ht⟩ : ∃ t, t = (regReadFx rb d x off).run s := ⟨_, rfl⟩
  have hfx : s.readFx t := ht ▸ readFx_regReadFx ..
  have hptr : t.aoc.smbPtr = s.aoc.smbPtr := by simpa using congrArg Aoc.smbPtr hfx.2
  have ha' : (aocBase + s.aoc.smbPtr) % 4 = 0 := by simp only [aocBase]; omega
  have hrun : smbusBlockReadProg.run s = { t with
      sent := t.sent ++ [⟨196608, leBytes 4 (s.regValue rb d x off), []⟩], aoc := { t.aoc with smbPtr := (t.aoc.smbPtr + 4) % 0x10000 } } := by
    simp only [smbusBlockReadProg, run_look, h, run_only_true, hr, beq_self_eq_true, if_true, run_progs_cons, busRead_word ha' hp, ← ht, run_upd,
      send_run t (show 131072 ≤ 196608 by omega)]
    rfl
  rw [hrun]
  refine ⟨by rw [hfx.1.sent (by decide)], by rw [hptr], sameBut_trans (hfx.1.mono (by decide)) rfl⟩

/-! ### JTAG -/

/-- The JTAG registers with an instruction and its data. -/
def Dev.jtag (s : Dev) (ir x boundary : Nat) : Dev := { s with aoc := { s.aoc with jtagIr := ir, jtagData := x, jtagBoundary := boundary } }

theorem bypass_run {s : Dev} (h : s.pinsOn = true) : bypassProg.run s = s.jtag 0xFF 0 s.aoc.jtagBoundary := by
  rw [bypassProg, run_look, h]; rfl

theorem idcode_run {s : Dev} (h : s.pinsOn = true) : idcodeProg.run s = s.jtag 0x01 0x1D9A0A27 s.aoc.jtagBoundary := by
  rw [idcodeProg, run_look, h]; rfl

theorem samplePreload_run {s : Dev} (h : s.pinsOn = true) (data : Nat) :
    (samplePreloadProg data).run s = { s.jtag 0x02 (Config.freeNat s.free) data with free := s.free + 1 } := by
  rw [samplePreloadProg, run_look, h]; rfl

theorem extest_run {s : Dev} (h : s.pinsOn = true) (data : Nat) : (extestProg data).run s
    = if s.debug then { s.jtag 0x00 (Config.freeNat s.free) data with free := s.free + 1 } else s.jtag 0xFF 0 s.aoc.jtagBoundary := by
  rw [extestProg, run_look, h]; cases s.debug <;> rfl

theorem dpaRead_closed {s : Dev} (h : s.pinsOn = true) (hd : s.debug = false) (a : Nat) :
    (dpaReadProg a).run s = s.jtag 0xFF 0 s.aoc.jtagBoundary := by
  rw [dpaReadProg, run_look, h, hd]; rfl

theorem dpaWrite_closed {s : Dev} (h : s.pinsOn = true) (hd : s.debug = false) (a v : Nat) :
    (dpaWriteProg a v).run s = s.jtag 0xFF 0 s.aoc.jtagBoundary := by
  rw [dpaWriteProg, run_look, h, hd]; rfl

theorem jtagWord_eq {st a v : Nat} (ha : a < 2 ^ 46) (hv : v < 2 ^ 32) : jtagWord st a v = st * 2 ^ 78 + a * 2 ^ 32 + v := by
  rw [jtagWord, Nat.mod_eq_of_lt ha, Nat.mod_eq_of_lt hv]

/-- An access over the bus, then its outcome in the data register. -/
theorem jtag_after {s t : Dev} {l : List Part} (hf : s.sameBut t l) (ha : Part.aoc ∉ l) (ir x : Nat) :
    s.sameBut (t.jtag ir x t.aoc.jtagBoundary) (.aoc :: l) ∧ (t.jtag ir x t.aoc.jtagBoundary).aoc = (s.jtag ir x s.aoc.jtagBoundary).aoc := by
  have hj : t.sameBut (t.jtag ir x t.aoc.jtagBoundary) [.aoc] := rfl
  refine ⟨sameBut_trans (hf.mono (List.subset_cons_self ..)) (hj.mono (by simp)), ?_⟩
  rw [Dev.jtag, Dev.jtag, hf.aoc ha]

/-- A write finds what a read finds, but for the MRAM, which is read only (R343). -/
theorem reachFor_write (s : Dev) (a n : Nat) (h : ∀ d o, place a ≠ .mram d o) : s.reachFor a n accWrite = s.reachRange a n := by
  unfold Dev.reachFor
  cases hp : place a with
  | mram d o => exact absurd hp (h d o)
  | _ => simp

theorem reachFor_mram (s : Dev) {a d o : Nat} (n : Nat) (h : place a = .mram d o) : s.reachFor a n accWrite = .bounds := by
  simp [Dev.reachFor, h, accWrite]

theorem reachFor_bounds {s : Dev} {a n : Nat} (h : s.reachRange a n = .bounds) : s.reachFor a n accWrite = .bounds := by
  by_cases hm : ∃ d o, place a = .mram d o
  · obtain ⟨d, o, hp⟩ := hm
    exact reachFor_mram s n hp
  · rw [reachFor_write s a n (fun d o hp => hm ⟨d, o, hp⟩), h]

section
variable {s : Dev} (h : s.pinsOn = true) (hd : s.debug = true) {a : Nat}
include h hd

theorem dpaRead_bounds (hr : s.reachRange a 4 = .bounds) : (dpaReadProg a).run s = s.jtag 0x40 (jtagWord 1 a 0) s.aoc.jtagBoundary := by
  rw [dpaReadProg, run_look, h, hd, hr]; rfl

theorem dpaWrite_bounds (v : Nat) (hr : s.reachFor a 4 accWrite = .bounds) :
    (dpaWriteProg a v).run s = s.jtag 0x41 (jtagWord 1 a v) s.aoc.jtagBoundary := by
  rw [dpaWriteProg, run_look, h, hd, hr]; rfl

/-- An access that waits for a stack asks for it, and ends BUSY. -/
theorem dpaRead_wait (hr : s.reachRange a 4 = .wait) : s.sameBut ((dpaReadProg a).run s) [.aoc, .doms]
    ∧ ((dpaReadProg a).run s).aoc = (s.jtag 0x40 (jtagWord 2 a 0) s.aoc.jtagBoundary).aoc := by
  obtain ⟨t, ht⟩ : ∃ t, t = (wantStacks a 4).run s := ⟨_, rfl⟩
  have hf : s.sameBut t [.doms] := ht ▸ (within_wantStacks a 4).sameBut s
  have hrun : (dpaReadProg a).run s = t.jtag 0x40 (jtagWord 2 a 0) t.aoc.jtagBoundary := by rw [ht, dpaReadProg, run_look, h, hd, hr]; rfl
  rw [hrun]
  exact jtag_after hf (by decide) _ _

theorem dpaWrite_wait (v : Nat) (hr : s.reachRange a 4 = .wait) : s.sameBut ((dpaWriteProg a v).run s) [.aoc, .doms]
    ∧ ((dpaWriteProg a v).run s).aoc = (s.jtag 0x41 (jtagWord 2 a v) s.aoc.jtagBoundary).aoc := by
  obtain ⟨t, ht⟩ : ∃ t, t = (wantStacks a 4).run s := ⟨_, rfl⟩
  have hf : s.sameBut t [.doms] := ht ▸ (within_wantStacks a 4).sameBut s
  have hw : s.reachFor a 4 accWrite = .wait := by rw [reachFor_write _ _ _ (by rw [place_of_wait hr]; intro d o; simp), hr]
  have hrun : (dpaWriteProg a v).run s = t.jtag 0x41 (jtagWord 2 a v) t.aoc.jtagBoundary := by rw [ht, dpaWriteProg, run_look, h, hd, hw]; rfl
  rw [hrun]
  exact jtag_after hf (by decide) _ _

/-- Memory without errors is read and written. -/
theorem dpaRead_mem (hm : memPlace a = true) (he : s.errorless) (hr : s.reachRange a 4 = .ok) :
    s.sameBut ((dpaReadProg a).run s) [.aoc, .regs]
      ∧ ((dpaReadProg a).run s).aoc = (s.jtag 0x40 (jtagWord 0 a (s.natAt a 4)) s.aoc.jtagBoundary).aoc := by
  obtain ⟨t, hf, ht⟩ := busRead_mem hm he (show 4 ≤ 4096 by omega) fun b => jtagSelect 0x40 (jtagWord 0 a (leNat b))
  have hrun : (dpaReadProg a).run s = t.jtag 0x40 (jtagWord 0 a (s.natAt a 4)) t.aoc.jtagBoundary := by
    rw [dpaReadProg, run_look, h, hd, hr]
    exact ht
  rw [hrun]
  exact jtag_after hf (by decide) _ _

theorem dpaWrite_mem (v : Nat) (hm : memPlace a = true) (he : s.errorless) (hr : s.reachRange a 4 = .ok) :
    s.sameBut ((dpaWriteProg a v).run s) [.aoc, .mem, .undef, .stackTab, .regs]
      ∧ ((dpaWriteProg a v).run s).aoc = (s.jtag 0x41 (jtagWord 0 a v) s.aoc.jtagBoundary).aoc
      ∧ s.wroteDpa ((dpaWriteProg a v).run s) [(a, leBytes 4 v)] := by
  obtain ⟨hf, hw⟩ := busWrite_mem hm he (leBytes 4 v)
  have hreach : s.reachFor a 4 accWrite = .ok := by
    rw [reachFor_write _ _ _ (fun d o hp => by simp [memPlace, hp] at hm), hr]
  have hrun : (dpaWriteProg a v).run s
      = ((busWrite a (leBytes 4 v)).run s).jtag 0x41 (jtagWord 0 a v) ((busWrite a (leBytes 4 v)).run s).aoc.jtagBoundary := by
    rw [dpaWriteProg, run_look, h, hd, hreach]; rfl
  rw [hrun]
  obtain ⟨hsame, haoc⟩ := jtag_after hf (by decide) 0x41 (jtagWord 0 a v)
  exact ⟨hsame, haoc, hw⟩
end

theorem natAt_lt (s : Dev) (a n : Nat) : s.natAt a n < 256 ^ n := by
  simpa [Dev.natAt, Dev.bytesAt] using leNat_lt (s.bytesAt a n)

end Sys2Proof.Machine
end

section
/-! CERTIFICATE. The service connector and register writes. -/

namespace Sys2Proof.Machine

/-- Without input or AOC nothing on the connector answers (R536, R570). -/
theorem pins_dead {s : State} (h : s.m.pinsOn = false) (i : Fin 8) (n : Fin 2) (b : Bool) (p : Fin 65536) (data : Nat) (a : Fin 70368744177664)
    (v : BitVec 32) :
    becomes .wakePin s s.m ∧ becomes .ppsInEdge s s.m ∧ becomes .syncInEdge s s.m ∧ becomes (.gpioEdge i b) s s.m ∧ becomes .ppsOutEdge s s.m
      ∧ becomes (.timerFire n) s s.m ∧ becomes (.smbusWriteWord p b) s s.m ∧ becomes .smbusBlockRead s s.m ∧ becomes .bypass s s.m ∧ becomes .idcode s s.m
      ∧ becomes (.samplePreload data) s s.m ∧ becomes (.extest data) s s.m ∧ becomes (.dpaRead a) s s.m ∧ becomes (.dpaWrite a v) s s.m :=
  ⟨becomes_of (p := wakePinProg) rfl (by simp [wakePinProg, h]), becomes_of (p := ppsInEdgeProg) rfl (by simp [ppsInEdgeProg, latchEdge, h]),
    becomes_of (p := syncInEdgeProg) rfl (by simp [syncInEdgeProg, latchEdge, h]), becomes_of (p := gpioEdgeProg i b) rfl (by simp [gpioEdgeProg, h]),
    becomes_of (p := ppsOutEdgeProg) rfl (by simp [ppsOutEdgeProg, h]), becomes_of (p := timerFireProg n) rfl (by simp [timerFireProg, h]),
    becomes_of (p := smbusWriteWordProg p b) rfl (by simp [smbusWriteWordProg, h]),
    becomes_of (p := smbusBlockReadProg) rfl (by simp [smbusBlockReadProg, h]), becomes_of (p := bypassProg) rfl (by simp [bypassProg, h]),
    becomes_of (p := idcodeProg) rfl (by simp [idcodeProg, h]), becomes_of (p := samplePreloadProg data) rfl (by simp [samplePreloadProg, h]),
    becomes_of (p := extestProg data) rfl (by simp [extestProg, h]), becomes_of (p := dpaReadProg a) rfl (by simp [dpaReadProg, h]),
    becomes_of (p := dpaWriteProg a v.toNat) rfl (by simp [dpaWriteProg, h])⟩

/-- The Heluri accesses of JTAG under DEBUG (R577). -/
theorem dpa_debug {s : State} (hp : s.m.pinsOn = true) (hd : s.m.debug = true) (a : Fin 70368744177664) (v : BitVec 32) :
    (s.m.reachRange a 4 = .bounds → becomes (.dpaRead a) s (s.m.jtag 0x40 (jtagWord 1 a 0) s.m.aoc.jtagBoundary)
        ∧ becomes (.dpaWrite a v) s (s.m.jtag 0x41 (jtagWord 1 a v.toNat) s.m.aoc.jtagBoundary))
      ∧ (∀ x o, place a = .mram x o → becomes (.dpaWrite a v) s (s.m.jtag 0x41 (jtagWord 1 a v.toNat) s.m.aoc.jtagBoundary))
      ∧ (s.m.reachRange a 4 = .wait →
        (completes (.dpaRead a) s fun t => s.m.sameBut t [.aoc, .doms] ∧ t.aoc = (s.m.jtag 0x40 (jtagWord 2 a 0) s.m.aoc.jtagBoundary).aoc)
        ∧ completes (.dpaWrite a v) s fun t => s.m.sameBut t [.aoc, .doms] ∧ t.aoc = (s.m.jtag 0x41 (jtagWord 2 a v.toNat) s.m.aoc.jtagBoundary).aoc)
      ∧ (s.m.reachRange a 4 = .ok → memPlace a = true → s.m.errorless →
        (completes (.dpaRead a) s fun t => s.m.sameBut t [.aoc, .regs]
          ∧ t.aoc = (s.m.jtag 0x40 (jtagWord 0 a (s.m.natAt a 4)) s.m.aoc.jtagBoundary).aoc)
        ∧ completes (.dpaWrite a v) s fun t => s.m.sameBut t [.aoc, .mem, .undef, .stackTab, .regs]
          ∧ t.aoc = (s.m.jtag 0x41 (jtagWord 0 a v.toNat) s.m.aoc.jtagBoundary).aoc ∧ s.m.wroteDpa t [(a.val, leBytes 4 v.toNat)]) :=
  have read {P : Dev → Prop} (h : P ((dpaReadProg a).run s.m)) : completes (.dpaRead a) s P := completes_of (p := dpaReadProg a) rfl h
  have write {P : Dev → Prop} (h : P ((dpaWriteProg a v.toNat).run s.m)) : completes (.dpaWrite a v) s P :=
    completes_of (p := dpaWriteProg a v.toNat) rfl h
  ⟨fun hr => ⟨becomes_of (p := dpaReadProg a) rfl (dpaRead_bounds hp hd hr),
      becomes_of (p := dpaWriteProg a v.toNat) rfl (dpaWrite_bounds hp hd _ (reachFor_bounds hr))⟩,
    fun _ _ hx => becomes_of (p := dpaWriteProg a v.toNat) rfl (dpaWrite_bounds hp hd _ (reachFor_mram s.m 4 hx)),
    fun hr => ⟨read (dpaRead_wait hp hd hr), write (dpaWrite_wait hp hd _ hr)⟩,
    fun hr hm he => ⟨read (dpaRead_mem hp hd hm he hr), write (dpaWrite_mem hp hd _ hm he hr)⟩⟩

/-- A word written to a status register with VALID clears the record there. -/
theorem registerWrite_record {s : State} {a : Fin 70368744177664} {v : BitVec 32} {rb : RB} {d x off : Nat} {l : List Nat} (ha : a.val % 4 = 0)
    (hp : place a = .reg rb d x off) (hr : s.m.reachAt a = .ok) (hv : bitAt v.toNat 31 = true) (hf : faultRegs rb off = some l) (hl : off ∉ l) :
    completes (.registerWrite a v) s fun t => s.m.sameBut t [.regs] ∧ (∀ o, o ∈ l → t.reg rb d x o = 0)
      ∧ t.reg rb d x off = b2n (bitAt (s.m.reg rb d x off) 30 && !bitAt v.toNat 30) * 2 ^ 30 := by
  refine completes_of (p := registerWriteProg a v.toNat) rfl ?_
  rw [registerWrite_word ha hp hr v.isLt, regWrite_record hf hv]
  exact recordClear_run hl d x s.m

/-- A write of a register that obeys its access codes alone (R10, R11). -/
theorem registerWrite_plain {s : State} {a : Fin 70368744177664} {v : BitVec 32} {rb : RB} {d x off : Nat} (ha : a.val % 4 = 0)
    (hp : place a = .reg rb d x off) (hr : s.m.reachAt a = .ok) (hw : regWrite rb d x off v.toNat = plainWrite rb d x off v.toNat) :
    (rowAt rb.rows off = none → becomes (.registerWrite a v) s s.m)
      ∧ ∀ r, rowAt rb.rows off = some r → becomes (.registerWrite a v) s (s.m.put rb d x off (r.afterWrite (s.m.reg rb d x off) v.toNat)) := by
  have hrun : (registerWriteProg a v.toNat).run s.m = (plainWrite rb d x off v.toNat).run s.m := by rw [registerWrite_word ha hp hr v.isLt, hw]
  exact ⟨fun h => becomes_of (p := registerWriteProg a v.toNat) rfl (hrun.trans (plainWrite_none h d x _ _)),
    fun r h => becomes_of (p := registerWriteProg a v.toNat) rfl (hrun.trans (plainWrite_some h d x _ _))⟩

/-- Settles O57: each clause is one of the lemmas above about the program of its command; a register write splits into the record of a fault and the access
codes. -/
theorem servicePinsAndRegisterWrites : Obligations.ServicePinsAndRegisterWrites := by
  unfold Obligations.ServicePinsAndRegisterWrites
  intro s i n b p data a v put on event held time jtag kept debug _
  have hown (r : Nat) : s.m.owns r = held r := owns_eq s.m r
  have hon : s.m.pinsOn = true ↔ on := pinsOn_iff s.m
  have hbv : v.toNat < 2 ^ 32 := v.isLt
  have hba : a.val < 2 ^ 46 := a.isLt
  refine ⟨fun h => pins_dead (Bool.eq_false_iff.mpr (mt hon.mp h)) i n b p data a v, fun h => becomes_of (p := wakePinProg) rfl (wakePin_run (hon.mpr h)),
    fun h => becomes_of (p := ppsInEdgeProg) rfl (latchEdge_unclaimed fun e => h ((hown 0).symm.trans e)),
    fun h => becomes_of (p := syncInEdgeProg) rfl (latchEdge_unclaimed fun e => h ((hown 1).symm.trans e)),
    fun h => becomes_of (p := ppsOutEdgeProg) rfl (ppsOutEdge_unclaimed fun e => h ((hown 0).symm.trans e)),
    ⟨fun h hc => completes_of (p := ppsInEdgeProg) rfl
        (latchEdge_run (hon.mpr h) ((hown 0).trans hc) (by decide) (by decide) (by decide)),
      fun h hc => completes_of (p := syncInEdgeProg) rfl
        (latchEdge_run (hon.mpr h) ((hown 1).trans hc) (by decide) (by decide) (by decide))⟩,
    fun h => completes_of (p := gpioEdgeProg i b) rfl (gpioEdge_run (hon.mpr h) i i.isLt b),
    fun h hc => completes_of (p := ppsOutEdgeProg) rfl (ppsOutEdge_run (hon.mpr h) ((hown 0).trans hc)), ?timer, ?smbusWrite, ?smbusRead, ?jtag,
    fun h => becomes_of (p := registerWriteProg a v.toNat) rfl (registerWrite_elsewhere h), ?record, ?plain⟩
  case timer =>
    refine ⟨fun h => becomes_of (p := timerFireProg n) rfl (timerFire_idle fun hc => h ⟨hc.1, fun e => hc.2 ((hown _).trans e)⟩), fun h hc => ?_⟩
    obtain ⟨he, ho⟩ := hc
    have ho' : s.m.owns (2 + n) ≠ 0 := fun e => ho ((hown _).symm.trans e)
    obtain ⟨h1, h2, h3, h4, h5⟩ := timerFire_fires (hon.mpr h) he ho' n.isLt
    exact completes_of (p := timerFireProg n) rfl
      ⟨h1, h2, h3, fun e e' => h4 ((hown _).trans e) ((hown _).trans e'), fun e => h5 ((hown _).trans e)⟩
  case smbusWrite =>
    intro h
    refine ⟨fun hb hp => ?_, fun hc => becomes_of (p := smbusWriteWordProg p b) rfl (smbusWriteWord_refused hc)⟩
    subst hb
    exact becomes_of (p := smbusWriteWordProg p true) rfl (smbusWriteWord_run (hon.mpr h) p.isLt hp)
  case smbusRead =>
    exact ⟨fun h hr => becomes_of (p := smbusBlockReadProg) rfl (smbusBlockRead_off (hon.mpr h) hr),
      fun rb d x off h ha hr hp => completes_of (p := smbusBlockReadProg) rfl (smbusBlockRead_run (hon.mpr h) ha hr hp)⟩
  case jtag =>
    intro h
    have hp := hon.mpr h
    refine ⟨becomes_of (p := bypassProg) rfl (bypass_run hp), becomes_of (p := idcodeProg) rfl (idcode_run hp),
      completes_of (p := samplePreloadProg data) rfl ⟨_, samplePreload_run hp data⟩, fun hd => ⟨?_, ?_, ?_⟩, fun hd => ?_⟩
    · exact becomes_of (p := extestProg data) rfl ((extest_run hp data).trans (if_neg (Bool.eq_false_iff.mp hd)))
    · exact becomes_of (p := dpaReadProg a) rfl (dpaRead_closed hp hd a)
    · exact becomes_of (p := dpaWriteProg a v.toNat) rfl (dpaWrite_closed hp hd a _)
    · intro word
      have hword (st : Nat) {x : Nat} (hx : x < 2 ^ 32) : word st x = jtagWord st a x := (jtagWord_eq hba hx).symm
      rw [hword 1 (by omega), hword 1 hbv, hword 2 (by omega), hword 2 hbv, hword 0 (natAt_lt s.m a 4), hword 0 hbv]
      exact ⟨completes_of (p := extestProg data) rfl ⟨_, (extest_run hp data).trans (if_pos hd)⟩, dpa_debug hp hd a v⟩
  case record =>
    intro rb d x off l ha hp hr hv hl
    simp only [List.mem_cons, Prod.mk.injEq, List.not_mem_nil, or_false] at hl
    rcases hl with ⟨rfl, rfl, rfl⟩ | ⟨rfl, rfl, rfl⟩ | ⟨rfl, rfl, rfl⟩ | ⟨rfl, rfl, rfl⟩ <;> exact registerWrite_record ha hp hr hv rfl (by decide)
  case plain =>
    intro rb d x off ha hp hr hc
    obtain ⟨hnone, hsome⟩ := registerWrite_plain ha hp hr (regWrite_plain (place_aoc_die hp) hc)
    exact ⟨hnone, fun r hrow => ⟨_, hsome r hrow, fun f hf j hlo hhi => bitAt_afterWrite hrow hf hlo hhi _ _,
      fun j hj => bitAt_afterWrite_reserved hj _ _⟩⟩

end Sys2Proof.Machine
end

section
/-! SUPPORT. Tables in their canonical form: what their entries say of their units, and what a change of one unit leaves; parts of a frame,
counters, and lists of programs. -/

namespace Sys2Proof.Machine

section
variable {α : Type} {d : Nat → α} {l : List (Nat × α)} {lo : Nat}

theorem le_of_mem_rising (h : risingFrom lo l = true) {e : Nat × α} (he : e ∈ l) : lo ≤ e.1 := by
  induction l generalizing lo with
  | nil => cases he
  | cons a r ih =>
    simp only [risingFrom, Bool.and_eq_true, decide_eq_true_eq] at h
    rcases List.mem_cons.mp he with rfl | he
    · exact h.1
    · have := ih h.2 he
      omega

/-- A listed entry is what its key reads as. -/
theorem sget_of_mem (h : risingFrom lo l = true) {e : Nat × α} (he : e ∈ l) : sget d l e.1 = e.2 := by
  induction l generalizing lo with
  | nil => cases he
  | cons a r ih =>
    simp only [risingFrom, Bool.and_eq_true, decide_eq_true_eq] at h
    rw [sget]
    rcases List.mem_cons.mp he with rfl | he
    · rw [if_pos rfl]
    · have := le_of_mem_rising h.2 he
      rw [if_neg (by omega), ih h.2 he]

/-- A key that reads as something of its own is listed. -/
theorem mem_of_sget_ne {k : Nat} (h : sget d l k ≠ d k) : (k, sget d l k) ∈ l := by
  induction l with
  | nil => exact absurd rfl h
  | cons a r ih =>
    rw [sget] at h ⊢
    split at h
    next hk => subst hk; rw [if_pos rfl]; exact List.mem_cons_self
    next hk => rw [if_neg hk]; exact List.mem_cons_of_mem _ (ih h)

theorem nodup_keys_of_rising (h : risingFrom lo l = true) : (l.map (·.1)).Nodup := by
  induction l generalizing lo with
  | nil => exact List.nodup_nil
  | cons a r ih =>
    simp only [risingFrom, Bool.and_eq_true, decide_eq_true_eq] at h
    refine List.nodup_cons.mpr ⟨fun hm => ?_, ih h.2⟩
    obtain ⟨e, he, hk⟩ := List.mem_map.mp hm
    exact absurd (le_of_mem_rising h.2 he) (Nat.not_le.mpr (hk ▸ Nat.lt_succ_self _))

theorem any_sdel {k : Nat} {p : Nat × α → Bool} (hp : ∀ v, p (k, v) = false) : (sdel l k).any p = l.any p := by
  induction l with
  | nil => rfl
  | cons a r ih =>
    obtain ⟨j, w⟩ := a
    rw [sdel]
    split
    next hj => subst hj; rw [List.any_cons, hp, Bool.false_or, ih]
    next => rw [List.any_cons, List.any_cons, ih]

theorem any_sput {k : Nat} {p : Nat × α → Bool} (hp : ∀ v, p (k, v) = false) (v : α) : (sput l k v).any p = l.any p := by
  induction l with
  | nil => simp [sput, hp]
  | cons a r ih =>
    obtain ⟨j, w⟩ := a
    rw [sput]
    split
    next hj => subst hj; simp [hp]
    next =>
      split
      · simp [hp]
      · simp [ih]

/-- A search that finds nothing at a key does not see what is written there. -/
theorem any_sset [DecidableEq α] {k : Nat} {p : Nat × α → Bool} (hp : ∀ v, p (k, v) = false) (v : α) : (sset d l k v).any p = l.any p := by
  rw [sset]
  split
  · exact any_sdel hp
  · exact any_sput hp v
end

theorem canonical_rising {α : Type} [DecidableEq α] {d : Nat → α} {l : List (Nat × α)} (h : canonical d l = true) : risingFrom 0 l = true :=
  (Bool.and_eq_true_iff.mp h).1

/-- The table of the domains of a sound machine is in its canonical form. -/
theorem canonical_doms {s : State} (h : s.sound = true) : canonical domDef s.m.doms = true := by
  simp only [State.sound, Dev.sound, Dev.tables, Bool.and_eq_true] at h
  obtain ⟨⟨-, ⟨⟨⟨-, hd⟩, -⟩, -⟩, -⟩, -⟩ := h
  exact hd

theorem dom_of_mem {s : Dev} (h : canonical domDef s.doms = true) {e : Nat × Dom} (he : e ∈ s.doms) : s.dom e.1 = e.2 :=
  sget_of_mem (canonical_rising h) he

section
variable {s t : Dev} {l : List Part} (h : s.sameBut t l)
include h
theorem Dev.sameBut.die (hp : Part.dies ∉ l) : t.die = s.die :=
  h.field Dev.die .dies (fun _ q hq => by cases q with | dies => exact absurd rfl hq | _ => rfl) hp
theorem Dev.sameBut.cl (hp : Part.clusters ∉ l) : t.cl = s.cl :=
  h.field Dev.cl .clusters (fun _ q hq => by cases q with | clusters => exact absurd rfl hq | _ => rfl) hp
theorem Dev.sameBut.doms (hp : Part.doms ∉ l) : t.doms = s.doms :=
  h.field Dev.doms .doms (fun _ q hq => by cases q with | doms => exact absurd rfl hq | _ => rfl) hp
theorem Dev.sameBut.dom (hp : Part.doms ∉ l) (k : Nat) : t.dom k = s.dom k := by rw [Dev.dom, h.doms hp, ← Dev.dom]
theorem Dev.sameBut.power (hp : Part.power ∉ l) : t.power = s.power :=
  h.field Dev.power .power (fun _ q hq => by cases q with | power => exact absurd rfl hq | _ => rfl) hp
end

theorem satAdd_mod (a n : Nat) : satAdd a n % 2 ^ 32 = satAdd a n :=
  Nat.mod_eq_of_lt (lt_of_le_of_lt (Nat.min_le_right _ _) (by norm_num))

/-- A counter takes what is added, up to its limit. -/
theorem run_tally (s : Dev) (rb : RB) (d i off : Nat) {n : Nat} (h : n ≠ 0) :
    (tally rb d i off n).run s = s.put rb d i off (satAdd (s.reg rb d i off) n) := by
  rw [tally, if_neg h, run_look, run_setReg]

/-- What holds through every program of a list holds after them all. -/
theorem run_forAll_keeps {α : Type} {P : Dev → Prop} {f : α → Prog} {l : List α} (h : ∀ a, a ∈ l → ∀ s, P s → P ((f a).run s)) {s : Dev}
    (hs : P s) : P ((forAll l f).run s) := by
  induction l generalizing s with
  | nil => exact hs
  | cons a r ih =>
    rw [run_forAll_cons]
    exact ih (fun b hb => h b (List.mem_cons_of_mem _ hb)) (h a List.mem_cons_self s hs)

end Sys2Proof.Machine
end

section
/-! CERTIFICATE. One step of the machine (R35, R355). -/

namespace Sys2Proof.Machine

/-- The counter of a die's walk cycles. -/
def walkCounter (d : Nat) : Nat := regAddr .fq d 0 R.DMMU_WALK_CYCLES

theorem walkCounter_inj {d e : Nat} (h : walkCounter d = walkCounter e) : d = e := by
  simp only [walkCounter, regAddr, blockBase] at h
  omega

theorem walkCycles_run (d : Nat) (s : Dev) :
    (walkCycles d).run s = if (s.die d).walks.isEmpty then s else s.apply (.reg (walkCounter d) (satAdd (s.regAt (walkCounter d)) 384)) := by
  rw [walkCycles, run_look]
  cases (s.die d).walks.isEmpty
  · rw [if_neg (by decide), Bool.not_false, run_only_true, run_tally (n := 384) _ _ _ _ _ (by decide), Dev.put, Dev.reg, walkCounter]
  · rw [if_pos rfl, Bool.not_true, run_only_false]

theorem sameBut_walkCycles (l : List Nat) (s : Dev) : s.sameBut ((forAll l walkCycles).run s) [.regs] :=
  Prog.Within.sameBut (by
    simp only [walkCycles, within_forAll, within_look, within_only]
    exact fun d _ s _ => within_tally 384 fun v => List.Subset.refl _) s

/-- Each die with a walk in flight counts its cycles once; every other register stands. -/
theorem regAt_walkCycles {l : List Nat} (hn : l.Nodup) (s : Dev) (A : Nat) : ((forAll l walkCycles).run s).regAt A
    = if ∃ d, d ∈ l ∧ (s.die d).walks.isEmpty = false ∧ A = walkCounter d then satAdd (s.regAt A) 384 else s.regAt A := by
  induction l generalizing s with
  | nil => simp
  | cons d l ih =>
    obtain ⟨hd, hn⟩ := List.nodup_cons.mp hn
    rw [run_forAll_cons, ih hn]
    have hdie : ((walkCycles d).run s).die = s.die := (sameBut_walkCycles [d] s).die (by decide)
    have hreg : ((walkCycles d).run s).regAt A
        = if (s.die d).walks.isEmpty = false ∧ A = walkCounter d then satAdd (s.regAt A) 384 else s.regAt A := by
      rw [walkCycles_run]
      by_cases hw : (s.die d).walks.isEmpty = true
      · simp [hw]
      · rw [if_neg hw, regAt_apply, satAdd_mod]
        by_cases hA : A = walkCounter d <;> simp_all
    rw [hdie, hreg]
    by_cases hA : (s.die d).walks.isEmpty = false ∧ A = walkCounter d
    · have hl : ¬∃ e, e ∈ l ∧ (s.die e).walks.isEmpty = false ∧ A = walkCounter e := by
        rintro ⟨e, he, -, hc⟩
        exact hd (walkCounter_inj (hA.2.symm.trans hc) ▸ he)
      rw [if_neg hl, if_pos hA, if_pos ⟨d, List.mem_cons_self, hA⟩]
    · rw [if_neg hA]
      refine if_congr ⟨fun ⟨e, he, h⟩ => ⟨e, List.mem_cons_of_mem _ he, h⟩, fun ⟨e, he, h⟩ => ?_⟩ rfl rfl
      rcases List.mem_cons.mp he with rfl | he
      · exact absurd h hA
      · exact ⟨e, he, h⟩

/-- An idle cycle: 320 ns pass, and each die with a walk in flight counts 384 fabric cycles (R355, log 4). -/
theorem idleProg_run (s : Dev) : (idleProg.run s).clock = s.clock + 320 ∧ s.sameBut (idleProg.run s) [.clock, .regs]
    ∧ s.regsBecome (idleProg.run s) (((List.range 16).filter fun d => !(s.die d).walks.isEmpty).map fun d =>
        (regAddr .fq d 0 R.DMMU_WALK_CYCLES, satAdd (s.reg .fq d 0 R.DMMU_WALK_CYCLES) 384)) := by
  have hrun : idleProg.run s = (forAll (List.range 16) walkCycles).run (s.apply (.time 320)) := by
    rw [idleProg, run_progs_cons, run_progs_cons, run_progs_nil, run_upd]
  have hf := sameBut_walkCycles (List.range 16) (s.apply (.time 320))
  have hr := regAt_walkCycles (List.nodup_range (n := 16)) (s.apply (.time 320))
  have hdie : (s.apply (.time 320)).die = s.die := (sameBut_apply s (.time 320)).die (by simp [Upd.parts])
  rw [hdie] at hr
  rw [hrun]
  refine ⟨hf.clock (by decide), sameBut_trans ((sameBut_apply s (.time 320)).mono (by simp [Upd.parts])) (hf.mono (by simp)),
    regsBecome_of (fun e he => ?_) fun A hA => ?_⟩
  · obtain ⟨d, hd, rfl⟩ := List.mem_map.mp he
    obtain ⟨hd, hw⟩ := List.mem_filter.mp hd
    exact (hr _).trans (if_pos ⟨d, hd, by simpa using hw, rfl⟩)
  · refine (hr A).trans (if_neg ?_)
    rintro ⟨d, hd, hw, rfl⟩
    exact hA (List.mem_map.mpr ⟨_, List.mem_map_of_mem (List.mem_filter.mpr ⟨hd, by simpa using hw⟩), rfl⟩)

theorem step_command {s : State} {c : Instr} {rest : List Instr} (h : s.pending = c :: rest) : step s = exec c { s with pending := rest } := by
  obtain ⟨p, m⟩ := s
  cases h
  rw [step]

theorem step_idle {s : State} (h : s.pending = []) : step s = .next { s with m := idleProg.run s.m } := by
  obtain ⟨p, m⟩ := s
  cases h
  rw [step, perform_next]

/-- Settles O58: with a command waiting a step is that command by definition; without one it is `idleProg`, an idle cycle being the model's choice
(log 4). -/
theorem stepRunsTheFrontCommand : Obligations.StepRunsTheFrontCommand := by
  unfold Obligations.StepRunsTheFrontCommand
  intro c s rest
  refine ⟨step_command, fun h => ⟨_, step_idle h, h, ?_⟩⟩
  dsimp only
  exact idleProg_run s.m

end Sys2Proof.Machine
end

section
/-! SUPPORT. Power domains: what requests, rising and falling steps and the loss of a domain change (R496 to R498, R506, R515). -/

namespace Sys2Proof.Machine

/-! ### Programs on the domains and the weir -/

@[simp] theorem run_onPower (f : Power → Power) (s : Dev) : (onPower f).run s = s.apply (.power (f s.power)) := rfl
@[simp] theorem run_onDom (k : Nat) (f : Dom → Dom) (s : Dev) : (onDom k f).run s = s.apply (.dom k (f (s.dom k))) := rfl
@[simp] theorem dom_apply_power (s : Dev) (w : Power) (k : Nat) : (s.apply (.power w)).dom k = s.dom k := rfl

/-- An update of the weir, or of a domain among those given. -/
def Upd.onDoms (p : Nat → Prop) : Upd → Prop
  | .dom j _ => p j
  | .power _ => True
  | _ => False

/-- Beside the weir, a device has changed in the domains given alone. -/
def Dev.sameButDoms (s t : Dev) (p : Nat → Prop) : Prop := s.sameBut t [.doms, .power] ∧ ∀ j, ¬p j → t.dom j = s.dom j

theorem sameButDoms_trans {s t u : Dev} {p : Nat → Prop} (h : s.sameButDoms t p) (g : t.sameButDoms u p) : s.sameButDoms u p :=
  ⟨sameBut_trans h.1 g.1, fun j hj => (g.2 j hj).trans (h.2 j hj)⟩

theorem sameButDoms_apply {p : Nat → Prop} (s : Dev) {u : Upd} (h : u.onDoms p) : s.sameButDoms (s.apply u) p := by
  cases u with
  | dom k x => exact ⟨(sameBut_apply s _).mono (by simp [Upd.parts]), fun j hj => by
      rw [dom_apply, if_neg]
      rintro rfl
      exact hj h⟩
  | power w => exact ⟨(sameBut_apply s _).mono (by simp [Upd.parts]), fun j _ => rfl⟩
  | _ => exact h.elim

theorem Prog.Within.sameButDoms {p : Nat → Prop} {q : Prog} (h : q.Within (Upd.onDoms p)) (s : Dev) : s.sameButDoms (q.run s) p :=
  h.relates (R := fun s t => s.sameButDoms t p) (fun s => ⟨sameBut_refl s _, fun _ _ => rfl⟩) sameButDoms_trans
    (fun s _ hu => sameButDoms_apply s hu) s

theorem within_riseReq (dom sub mw : Nat) (p : Nat → Prop) : (riseReq dom sub mw).Within (Upd.onDoms p) := fun _ => trivial
theorem within_fallReq (dom sub mw units : Nat) (p : Nat → Prop) : (fallReq dom sub mw units).Within (Upd.onDoms p) := fun _ => trivial

theorem within_riseDom {p : Nat → Prop} {k : Nat} (hk : p k) : (riseDom k).Within (Upd.onDoms p) := by
  simp [riseDom, onDom, within_riseReq, Upd.onDoms, hk]

theorem within_sleepDom (k : Nat) (dest : DomSt) : (sleepDom k dest).Within (Upd.onDoms (· = k)) := by
  simp [sleepDom, onDom, onPower, within_fallReq, Upd.onDoms]

/-! ### Steps of the weir -/

theorem mem_stepInsert {x y : WeirStep} {l : List WeirStep} : y ∈ stepInsert x l ↔ y = x ∨ y ∈ l := by
  induction l with
  | nil => simp [stepInsert]
  | cons z r ih =>
    rw [stepInsert]
    split
    · simp only [List.mem_cons, ih]; tauto
    · simp

theorem any_step_iff {l : List WeirStep} {dom sub : Nat} :
    (l.any fun x => x.dom == dom && x.sub == sub) = true ↔ ∃ y, y ∈ l ∧ y.dom = dom ∧ y.sub = sub := by simp

/-- A step that does not wait yet joins the rising ones. -/
theorem riseReq_run {s : Dev} {dom sub : Nat} (h : ∀ y, y ∈ s.power.rise → ¬(y.dom = dom ∧ y.sub = sub)) (mw : Nat) :
    (riseReq dom sub mw).run s
      = s.apply (.power { s.power with rise := stepInsert ⟨dom, sub, domPos dom, mw, 0, s.power.slots⟩ s.power.rise }) := by
  rw [riseReq, run_onPower, if_neg fun ha => ?_]
  obtain ⟨y, hy, hd⟩ := any_step_iff.mp ha
  exact h y hy hd

/-- Once asked for, a rising step waits. -/
theorem exists_rise_riseReq (s : Dev) (dom sub mw : Nat) : ∃ y, y ∈ ((riseReq dom sub mw).run s).power.rise ∧ y.dom = dom ∧ y.sub = sub := by
  by_cases h : ∃ y, y ∈ s.power.rise ∧ y.dom = dom ∧ y.sub = sub
  · rw [riseReq, run_onPower, if_pos (any_step_iff.mpr h)]
    exact h
  · rw [riseReq_run fun y hy hd => h ⟨y, hy, hd⟩]
    exact ⟨_, mem_stepInsert.mpr (.inl rfl), rfl, rfl⟩

theorem fallReq_run {s : Dev} {dom sub : Nat} (h : ∀ y, y ∈ s.power.fall → ¬(y.dom = dom ∧ y.sub = sub)) (mw units : Nat) :
    (fallReq dom sub mw units).run s
      = s.apply (.power { s.power with fall := stepInsert ⟨dom, sub, domPos dom, mw, units, s.power.slots⟩ s.power.fall }) := by
  rw [fallReq, run_onPower, if_neg fun ha => ?_]
  obtain ⟨y, hy, hd⟩ := any_step_iff.mp ha
  exact h y hy hd

/-- The device with other falling steps waiting. -/
def Dev.withFall (s : Dev) (l : List WeirStep) : Dev := s.apply (.power { s.power with fall := l })

@[simp] theorem dom_withFall (s : Dev) (l : List WeirStep) (k : Nat) : (s.withFall l).dom k = s.dom k := rfl

/-- A falling step asked for changes the falling ones alone, among which no other is new. -/
theorem fallReq_withFall (s : Dev) (dom sub mw units : Nat) :
    ∃ l, (fallReq dom sub mw units).run s = s.withFall l ∧ ∀ y, y ∈ l → y ∈ s.power.fall ∨ y.dom = dom ∧ y.sub = sub := by
  by_cases h : ∃ y, y ∈ s.power.fall ∧ y.dom = dom ∧ y.sub = sub
  · rw [fallReq, run_onPower, if_pos (any_step_iff.mpr h)]
    exact ⟨s.power.fall, rfl, fun y hy => .inl hy⟩
  · rw [fallReq_run fun y hy hd => h ⟨y, hy, hd⟩]
    refine ⟨_, rfl, fun y hy => ?_⟩
    rcases mem_stepInsert.mp hy with rfl | hy
    · exact .inr ⟨rfl, rfl⟩
    · exact .inl hy

/-- So do the steps of a domain's clocks. -/
theorem forAll_fallReq {l : List (Nat × Nat)} {sub : Nat → Nat} (h : ∀ e, e ∈ l → sub e.1 ≠ 0) (dom : Nat) (s : Dev) :
    ∃ f, (forAll l fun e => fallReq dom (sub e.1) (subMw (sub e.1)) e.2).run s = s.withFall f
      ∧ ∀ y, y ∈ f → y ∈ s.power.fall ∨ y.dom = dom ∧ y.sub ≠ 0 := by
  induction l generalizing s with
  | nil => exact ⟨s.power.fall, rfl, fun y hy => .inl hy⟩
  | cons e r ih =>
    obtain ⟨he, hr⟩ := List.forall_mem_cons.mp h
    obtain ⟨g, hg, hgm⟩ := fallReq_withFall s dom (sub e.1) (subMw (sub e.1)) e.2
    obtain ⟨f, hf, hfm⟩ := ih hr (s.withFall g)
    refine ⟨f, by rw [run_forAll_cons, hg, hf]; rfl, fun y hy => ?_⟩
    rcases hfm y hy with hy | hy
    · rcases hgm y hy with hy | ⟨hd, hs⟩
      · exact .inl hy
      · exact .inr ⟨hd, hs ▸ he⟩
    · exact .inr hy

/-! ### A domain rises or falls -/

/-- The rising step of a domain that is OFF or in RETAIN is requested (R496). -/
theorem riseDom_run {s : Dev} {k : Nat} (h : (s.dom k).st = .off ∨ (s.dom k).st = .retain) : (riseDom k).run s
    = (riseReq k 0 (domMw k)).run (s.apply (.dom k ⟨.transition, (s.dom k).req, some ⟨true, false, 0, .on, (s.dom k).st == .off⟩⟩)) := by
  rw [riseDom, run_look, run_only, if_pos (by rcases h with h | h <;> rw [h] <;> rfl)]
  rfl

/-- The device with a domain on its way down, and its waiting steps withdrawn. -/
def Dev.goingDown (s : Dev) (k : Nat) (dest : DomSt) : Dev :=
  (s.apply (.dom k ⟨.transition, (s.dom k).req, some ⟨false, false, 0, dest, false⟩⟩)).apply (.power { s.power with
    rise := s.power.rise.filter fun x => x.dom ≠ k
    fall := s.power.fall.filter fun x => x.dom ≠ k })

theorem dom_goingDown (s : Dev) (k : Nat) (dest : DomSt) :
    (s.goingDown k dest).dom k = ⟨.transition, (s.dom k).req, some ⟨false, false, 0, dest, false⟩⟩ := by
  rw [Dev.goingDown, dom_apply_power, dom_apply, if_pos rfl]

/-- A domain that starts to fall: its falling step waits, returning the units charged; of the rising steps its own are withdrawn (R491, R496). -/
theorem sleepDom_run {s : Dev} {k : Nat} (h : (s.dom k).st = .on) (dest : DomSt) :
    ((sleepDom k dest).run s).dom k = ⟨.transition, (s.dom k).req, some ⟨false, false, 0, dest, false⟩⟩
      ∧ (∃ y, y ∈ ((sleepDom k dest).run s).power.fall ∧ y.dom = k ∧ y.sub = 0 ∧ y.mw = domMw k ∧ y.units = s.power.chargedFor k 0)
      ∧ ((sleepDom k dest).run s).power.charged = s.power.charged
      ∧ ((sleepDom k dest).run s).power.rise = s.power.rise.filter fun x => x.dom ≠ k := by
  have hrun : (sleepDom k dest).run s = (fallReq k 0 (domMw k) (s.power.chargedFor k 0)).run
      ((forAll (s.power.charged.filter fun e => e.1 / 4096 = k && e.1 % 4096 ≠ 0 && e.1 % 4096 < 1000) fun e =>
          fallReq k (e.1 % 4096) (subMw (e.1 % 4096)) e.2).run (s.goingDown k dest)) := by
    rw [sleepDom, run_look, run_only, if_pos (by rw [h]; rfl)]
    rfl
  obtain ⟨f, hf, hfm⟩ := forAll_fallReq (sub := (· % 4096))
    (l := s.power.charged.filter fun e => e.1 / 4096 = k && e.1 % 4096 ≠ 0 && e.1 % 4096 < 1000)
    (fun e he => by
      have := (List.mem_filter.mp he).2
      simp only [Bool.and_eq_true, decide_eq_true_eq] at this
      exact this.1.2) k (s.goingDown k dest)
  have hnew (y : WeirStep) (hy : y ∈ f) : ¬(y.dom = k ∧ y.sub = 0) := fun hk => by
    rcases hfm y hy with hy | hy
    · exact (by simpa using (List.mem_filter.mp hy).2 : y.dom ≠ k) hk.1
    · exact hy.2 hk.2
  rw [hrun, hf, fallReq_run hnew, dom_apply_power, dom_withFall, dom_goingDown]
  exact ⟨rfl, ⟨_, mem_stepInsert.mpr (.inl rfl), rfl, rfl, rfl, rfl⟩, rfl, rfl⟩

/-! ### The request in force -/

section
variable {s : Dev} {k : Nat}

theorem settle_on_off (h : (s.dom k).st = .on) (hr : (s.dom k).req = 0) :
    (settle k).run s = if k < 64 ∧ k % 4 = 0 ∧ s.dieBusy (k / 4) = true then s else (sleepDom k .off).run s := by
  simp only [settle, run_look, h, hr, if_true, run_only]
  by_cases hb : k < 64 ∧ k % 4 = 0 ∧ s.dieBusy (k / 4) = true
  · rw [if_pos hb, if_neg (by simp [hb])]
  · rw [if_neg hb, if_pos (by simpa [imp_iff_not_or, or_assoc] using hb)]

theorem settle_on_retain (h : (s.dom k).st = .on) (hr : (s.dom k).req = 2) (hk : 64 ≤ k) (hk' : k < 96) : (settle k).run s = (sleepDom k .retain).run s := by
  simp [settle, h, hr, hk, hk']

/-- A domain that is ON as asked, or asked into RETAIN that knows none, stays. -/
theorem settle_on_stays (h : (s.dom k).st = .on) (hr : (s.dom k).req ≠ 0) (hk : ¬((s.dom k).req = 2 ∧ 64 ≤ k ∧ k < 96)) : (settle k).run s = s := by
  simp only [settle, run_look, h]
  rw [if_neg hr, if_neg (by simpa [and_assoc] using hk), run_skip]

theorem settle_off_on (h : (s.dom k).st = .off) (hr : (s.dom k).req = 1) : (settle k).run s = (wakeDom k).run s := by simp [settle, h, hr]

theorem settle_retain_on (h : (s.dom k).st = .retain) (hr : (s.dom k).req = 1) : (settle k).run s = (riseDom k).run s := by simp [settle, h, hr]

theorem settle_transition (h : (s.dom k).st = .transition) : (settle k).run s = s := by simp [settle, h]

/-- What is not on stays unless it is asked ON. -/
theorem settle_stays (h : (s.dom k).st ≠ .on) (hr : (s.dom k).req ≠ 1) : (settle k).run s = s := by
  cases hs : (s.dom k).st with
  | on => exact absurd hs h
  | off => simp [settle, hs, hr]
  | retain => simp [settle, hs, hr]
  | transition => exact settle_transition hs

/-- A domain that is not asked ON settles alone. -/
theorem sameButDoms_settle (hr : (s.dom k).req ≠ 1) : s.sameButDoms ((settle k).run s) (· = k) := by
  have hsame : s.sameButDoms s (· = k) := ⟨sameBut_refl s _, fun _ _ => rfl⟩
  by_cases hon : (s.dom k).st = .on
  · by_cases h0 : (s.dom k).req = 0
    · rw [settle_on_off hon h0]
      split
      · exact hsame
      · exact (within_sleepDom k .off).sameButDoms s
    · by_cases h2 : (s.dom k).req = 2 ∧ 64 ≤ k ∧ k < 96
      · rw [settle_on_retain hon h2.1 h2.2.1 h2.2.2]
        exact (within_sleepDom k .retain).sameButDoms s
      · rw [settle_on_stays hon h0 h2]
        exact hsame
  · rw [settle_stays hon hr]
    exact hsame
end

/-! ### UNC0 of a die (R38) -/

/-- A domain does not depend on itself, nor UNC0 on any other. -/
theorem unc0Of_ne {k d : Nat} (hk : k < 3688) (h : unc0Of k = some d) : 4 * d ≠ k ∧ unc0Of (4 * d) = none := by
  have hd : 4 * d ≠ k ∧ d < 16 := by
    unfold unc0Of at h
    split_ifs at h with h1 h2
    · cases h; omega
    · cases h
      simp only [Bool.and_eq_true, decide_eq_true_eq] at h2
      omega
  refine ⟨hd.1, ?_⟩
  rw [unc0Of, if_neg (by omega), if_neg (by simp)]

theorem within_wakeDom {k : Nat} (h : unc0Of k = none) : (wakeDom k).Within (Upd.onDoms (· = k)) := by
  simp only [wakeDom, within_look, within_progs_cons, within_progs_nil, onDom, within_upd, h]
  exact fun _ => ⟨fun _ => rfl, within_riseDom rfl, trivial⟩

/-- UNC0 settles alone. -/
theorem sameButDoms_settle_unc0 {k : Nat} (h : unc0Of k = none) (s : Dev) : s.sameButDoms ((settle k).run s) (· = k) := by
  by_cases hr : (s.dom k).req = 1
  · have hsame : s.sameButDoms s (· = k) := ⟨sameBut_refl s _, fun _ _ => rfl⟩
    cases hs : (s.dom k).st with
    | on => rw [settle_on_stays hs (by omega) (by omega)]; exact hsame
    | off => rw [settle_off_on hs hr]; exact (within_wakeDom h).sameButDoms s
    | retain => rw [settle_retain_on hs hr]; exact (within_riseDom (p := (· = k)) rfl).sameButDoms s
    | transition => rw [settle_transition hs]; exact hsame
  · exact sameButDoms_settle hr

/-! ### What a domain holds is lost -/

/-- The parts of a device that go with a domain. -/
def lostParts : List Part := [.regs, .mem, .undef, .bad, .oneBit, .clusters, .dies, .drovers, .pipes, .sluices, .therm, .stackTab, .links]

/-- An update that the loss of a domain can make: no register of the AOC but DUMP_STATUS. -/
def Upd.ofLoss (u : Upd) : Prop := u.parts ⊆ lostParts ∧ ∀ A, u.sets A → A < aocBase ∨ A = regAddr .rcv 20 0 R.DUMP_STATUS

/-- The registers of the domains lie below the AOC's. -/
theorem domRegs_le {k : Nat} {r : Nat × Nat} (h : r ∈ domRegs k) : r.2 ≤ aocBase := by
  unfold domRegs at h
  dsimp only at h
  split_ifs at h with h1 h2 h3 h4 h5
  · cases h
  · simp only [List.mem_singleton] at h
    subst h
    simp only [clRegBase, regBase, aocBase]
    omega
  · split at h <;> simp only [List.mem_cons, List.not_mem_nil, or_false] at h <;> rcases h with rfl | rfl | rfl | rfl <;>
      simp only [regBase, aocBase] <;> omega
  · simp only [List.mem_singleton] at h
    subst h
    simp only [regBase, aocBase]
    omega
  · simp only [List.mem_singleton] at h
    subst h
    simp only [regBase, aocBase]
    omega
  · cases h

theorem within_domLost (k : Nat) : (domLost k).Within Upd.ofLoss := by
  have hdrop (r : Nat × Nat) (hr : r ∈ domRegs k) : (Upd.regDrop r.1 r.2).ofLoss :=
    ⟨by simp [Upd.parts, lostParts], fun A hA => .inl (lt_of_lt_of_le hA.2 (domRegs_le hr))⟩
  have hother {u : Upd} (hp : u.parts ⊆ lostParts) (hs : ∀ A, ¬u.sets A) : u.ofLoss := ⟨hp, fun A hA => absurd hA (hs A)⟩
  have hdump : (setReg .rcv 20 0 R.DUMP_STATUS 0).Within Upd.ofLoss := ⟨by simp [Upd.parts, lostParts], fun A hA => .inr hA⟩
  simp only [domLost, within_look, within_progs_cons, within_progs_nil, within_forAll, within_upd, and_true, within_ite]
  intro s
  refine ⟨hdrop, ?_⟩
  split_ifs
  · exact ⟨hother (by simp [Upd.parts, lostParts]) (fun _ h => h), hother (by simp [Upd.parts, lostParts]) (fun _ h => h)⟩
  · split <;> simp [onTherm, Upd.ofLoss, Upd.parts, Upd.sets, lostParts]
  · exact ⟨hother (by simp [Upd.parts, lostParts]) (fun _ h => h), fun _ => hother (by simp [Upd.parts, lostParts]) (fun _ h => h),
      (within_only _ _).mpr fun _ => hdump⟩
  · exact fun _ => hother (by simp [Upd.parts, lostParts]) (fun _ h => h)
  · trivial

theorem sameBut_domLost (k : Nat) (s : Dev) : s.sameBut ((domLost k).run s) lostParts := ((within_domLost k).mono fun _ hu => hu.1).sameBut s

/-- A register of the AOC other than DUMP_STATUS outlasts every domain. -/
theorem regAt_domLost (k : Nat) (s : Dev) {A : Nat} (hA : aocBase ≤ A) (hd : A ≠ regAddr .rcv 20 0 R.DUMP_STATUS) :
    ((domLost k).run s).regAt A = s.regAt A :=
  ((within_domLost k).mono fun _ hu hs => by rcases hu.2 A hs with h | h <;> omega).regAt s

end Sys2Proof.Machine
end

section
/-! CERTIFICATE. Requests of PWR_DOM and the orderly pen state (R38, R496 to R498, R513, R535). -/

namespace Sys2Proof.Machine

/-! ### Which requests are refused (R497) -/

/-- What keeps a domain from being asked OFF. -/
theorem domRefused_off (s : Dev) {k : Nat} (h : k < 105) : s.domRefused k 0 = true ↔
    if k = 104 then True
    else if 96 ≤ k then ∃ i, i < 3 ∧ s.fld .lnk (16 + (k - 96) / 2) ((k - 96) % 2 * 3 + i) R.LNK_PORT_CTRL 11 8 ≠ 0
    else if 64 ≤ k then k ≤ 65
    else if k % 4 = 0 then s.dieBusy (k / 4) = true
    else if k % 4 = 3 then ∃ i, i < 2 ∧ (s.fld .sl (k / 4) i R.SL_RING_CFG 31 31 = 1 ∨ (s.slu (sn (k / 4) i)).job ≠ none)
    else ∃ i, i < 4 ∧ s.bvInUse (k / 4) (4 * (k % 4 - 1) + i) = true := by
  unfold Dev.domRefused
  rw [if_neg (by decide), if_neg (by decide), if_neg (by decide)]
  by_cases h64 : k < 64
  · rw [if_pos h64, if_neg (by omega : ¬k = 104), if_neg (by omega : ¬96 ≤ k), if_neg (by omega : ¬64 ≤ k)]
    have hm : k % 4 < 4 := Nat.mod_lt _ (by decide)
    generalize k % 4 = m at hm ⊢
    match m, hm with
    | 0, _ => simp
    | 1, _ => simp
    | 2, _ => simp
    | 3, _ => simp [Option.isSome_iff_ne_none]
  · rw [if_neg h64]
    by_cases h96 : k < 96
    · rw [if_pos h96, if_neg (by omega : ¬k = 104), if_neg (by omega : ¬96 ≤ k), if_pos (by omega : 64 ≤ k)]
      simp only [Bool.or_eq_true, decide_eq_true_eq]
      omega
    · rw [if_neg h96]
      by_cases h104 : k < 104
      · rw [if_pos h104, if_neg (by omega : ¬k = 104), if_pos (by omega : 96 ≤ k)]
        simp
      · rw [if_neg h104, if_pos (by omega : k = 104)]
        simp

theorem domRefused_unc0 (s : Dev) {k : Nat} (h : k < 64) (hm : k % 4 = 0) : s.domRefused k 0 = s.dieBusy (k / 4) := by
  simp [Dev.domRefused, h, hm]

theorem domRefused_retain (s : Dev) (k : Nat) : s.domRefused k 2 = !(decide (64 ≤ k) && decide (k < 96)) := by simp [Dev.domRefused]

theorem domRefused_on (s : Dev) (k : Nat) : s.domRefused k 1 = false := rfl

/-! ### Requests for one domain (R496, R514) -/

/-- The device with another request in force. -/
def Dev.asking (s : Dev) (k v : Nat) : Dev := s.apply (.dom k { s.dom k with req := v })

theorem dom_asking (s : Dev) (k v j : Nat) : (s.asking k v).dom j = if j = k then { s.dom k with req := v } else s.dom j := dom_apply ..

theorem sameBut_asking (s : Dev) (k v : Nat) : s.sameBut (s.asking k v) [.doms] := sameBut_apply ..

section
variable {s : Dev} {k v : Nat}

theorem bitAt_request (hv : v < 4) : bitAt v 8 = false := bitAt_of_lt (n := 2) hv (by decide)

theorem pwrDomWrite_refused (hv : v < 4) (h : s.domRefused k v = true) : (pwrDomWrite k v).run s
    = (s.put .pwr 20 0 (R.PWR_DOM + 4 * k) (setBits (s.reg .pwr 20 0 (R.PWR_DOM + 4 * k)) 8 8 1)).logged
        { LogEntry.plain 0 0x0C 0x71 0 with data := k * 4 + v } := by
  rw [pwrDomWrite, run_look, run_progs_cons, run_progs_cons, run_progs_nil, bitAt_request hv, run_only_false, Nat.mod_eq_of_lt hv, h, if_pos rfl,
    run_progs_cons, run_progs_cons, run_progs_nil, run_setFld]
  rfl

/-- A request that is not refused is stored, and the domain settles; OFF for a stack in RETAIN is not spoken of here. -/
theorem pwrDomWrite_stored (hv : v < 4) (h : s.domRefused k v = false) (hx : (s.dom k).st = .retain → v ≠ 0) :
    (pwrDomWrite k v).run s = (settle k).run (s.asking k v) := by
  have hk : ((s.dom k).st == .retain && decide (v = 0)) = false := by
    cases hs : (s.dom k).st with
    | retain => simp [hx hs]
    | _ => rfl
  rw [pwrDomWrite, run_look, run_progs_cons, run_progs_cons, run_progs_nil, bitAt_request hv, run_only_false, Nat.mod_eq_of_lt hv, h, if_neg (by decide),
    run_progs_cons, run_progs_cons, run_progs_cons, run_progs_nil, hk, run_only_false, run_onDom]
  rfl

/-- UNC0 is in use by other domains of its die, whatever its own request is (R38). -/
theorem dieBusy_asking (h : k < 64) (hm : k % 4 = 0) : (s.asking k v).dieBusy (k / 4) = s.dieBusy (k / 4) := by
  have hothers : (s.asking k v).doms.any (fun e => 1000 ≤ e.1 && (e.1 - 1000) / 168 = k / 4 && e.2.st != .off)
      = s.doms.any (fun e => 1000 ≤ e.1 && (e.1 - 1000) / 168 = k / 4 && e.2.st != .off) :=
    any_sset (fun x => by
      rw [decide_eq_false (by omega : ¬1000 ≤ k)]
      rfl) _
  have huncore (u : Nat) : (s.asking k v).dom (4 * (k / 4) + 1 + u) = s.dom (4 * (k / 4) + 1 + u) := by rw [dom_asking, if_neg (by omega)]
  rw [Dev.dieBusy, Dev.dieBusy, hothers]
  simp only [huncore]

/-- A domain that is ON and asked away goes to TRANSITION, with its falling step. -/
theorem falls_of_sleepDom (h : (s.dom k).st = .on) (dest : DomSt) :
    s.sameBut ((sleepDom k dest).run (s.asking k v)) [.doms, .power]
      ∧ s.domBecomes ((sleepDom k dest).run (s.asking k v)) k ⟨.transition, v, some ⟨false, false, 0, dest, false⟩⟩
      ∧ (∃ y, y ∈ ((sleepDom k dest).run (s.asking k v)).power.fall ∧ y.dom = k ∧ y.sub = 0 ∧ y.mw = domMw k ∧ y.units = s.power.chargedFor k 0)
      ∧ ((sleepDom k dest).run (s.asking k v)).power.charged = s.power.charged
      ∧ ∀ y, y ∈ ((sleepDom k dest).run (s.asking k v)).power.rise ↔ y ∈ s.power.rise ∧ y.dom ≠ k := by
  have hask : (s.asking k v).dom k = { s.dom k with req := v } := (dom_asking ..).trans (if_pos rfl)
  obtain ⟨hframe, hothers⟩ := (within_sleepDom k dest).sameButDoms (s.asking k v)
  obtain ⟨hdom, hfall, hcharged, hrise⟩ := sleepDom_run (s := s.asking k v) (k := k) (by rw [hask]; exact h) dest
  refine ⟨sameBut_trans ((sameBut_asking s k v).mono (by simp)) hframe, fun j => ?_, hfall, hcharged, fun y => ?_⟩
  · by_cases hj : j = k
    · rw [if_pos hj, hj, hdom, hask]
    · rw [if_neg hj, hothers j hj, dom_asking, if_neg hj]
  · rw [hrise, List.mem_filter, decide_eq_true_eq]
    rfl


/-- What the rising step of a domain comes to, once it is asked ON. -/
theorem rises_of_riseDom {u : Dev} (hu : s.sameBut u [.doms]) (hd : ∀ j, u.dom j = if j = k then { s.dom k with req := 1 } else s.dom j)
    (h : (s.dom k).st = .off ∨ (s.dom k).st = .retain) (hn : ∀ y, y ∈ s.power.rise → ¬(y.dom = k ∧ y.sub = 0)) :
    s.sameBut ((riseDom k).run u) [.doms, .power]
      ∧ s.domBecomes ((riseDom k).run u) k ⟨.transition, 1, some ⟨true, false, 0, .on, (s.dom k).st == .off⟩⟩
      ∧ ((riseDom k).run u).power = { s.power with rise := stepInsert ⟨k, 0, domPos k, domMw k, 0, s.power.slots⟩ s.power.rise } := by
  have hk : u.dom k = { s.dom k with req := 1 } := (hd k).trans (if_pos rfl)
  have hp : u.power = s.power := hu.power (by decide)
  obtain ⟨hframe, hothers⟩ := (within_riseDom (p := (· = k)) rfl).sameButDoms u
  have hrun := riseDom_run (s := u) (k := k) (by rw [hk]; exact h)
  rw [riseReq_run (by rw [apply_power]; exact hp ▸ hn)] at hrun
  refine ⟨sameBut_trans (hu.mono (by simp)) hframe, fun j => ?_, by rw [hrun, ← hp]; rfl⟩
  by_cases hj : j = k
  · rw [if_pos hj, hj, hrun, dom_apply_power, dom_apply, if_pos rfl, hk]
  · rw [if_neg hj, hothers j hj, hd, if_neg hj]

/-- A domain is asked ON where UNC0 of its die does not hinder it. -/
theorem wakeDom_rises (hu : ∀ d, unc0Of k = some d → s.domOn (4 * d) = true) : (wakeDom k).run s = (riseDom k).run (s.asking k 1) := by
  rw [wakeDom, run_look, run_progs_cons, run_progs_cons, run_progs_nil, run_onDom]
  cases hc : unc0Of k with
  | none => rfl
  | some d =>
    dsimp only
    rw [if_pos (hu d hc)]
    rfl

/-- UNC0 of its die is asked ON first (R38). -/
theorem wakeDom_unc0 {d : Nat} (hc : unc0Of k = some d) (hu : s.domOn (4 * d) = false) :
    (wakeDom k).run s = (riseDom (4 * d)).run ((s.asking k 1).asking (4 * d) 1) := by
  rw [wakeDom, run_look, run_progs_cons, run_progs_cons, run_progs_nil, run_onDom, hc]
  dsimp only
  rw [hu, if_neg (by decide), run_progs_cons, run_progs_cons, run_progs_nil, run_onDom]
  rfl

/-- A domain that is OFF or in RETAIN, with UNC0 of its die on, is asked ON. -/
theorem settle_rises (hk : k < 105) (h : (s.dom k).st = .off ∨ (s.dom k).st = .retain)
    (hu : ∀ d, unc0Of k = some d → (s.dom k).st = .off → s.domOn (4 * d) = true)
    (hn : ∀ y, y ∈ s.power.rise → ¬(y.dom = k ∧ y.sub = 0)) :
    s.sameBut ((settle k).run (s.asking k 1)) [.doms, .power]
      ∧ s.domBecomes ((settle k).run (s.asking k 1)) k ⟨.transition, 1, some ⟨true, false, 0, .on, (s.dom k).st == .off⟩⟩
      ∧ ((settle k).run (s.asking k 1)).power = { s.power with rise := stepInsert ⟨k, 0, domPos k, domMw k, 0, s.power.slots⟩ s.power.rise } := by
  have hask : (s.asking k 1).dom k = { s.dom k with req := 1 } := (dom_asking ..).trans (if_pos rfl)
  rcases h with h | h
  · rw [settle_off_on (by rw [hask]; exact h) (by rw [hask]), wakeDom_rises fun d hd => by
      rw [Dev.domOn, dom_asking, if_neg (unc0Of_ne (by omega) hd).1]
      exact hu d hd h]
    refine rises_of_riseDom (sameBut_trans (sameBut_asking ..) (sameBut_asking ..)) (fun j => ?_) (.inl h) hn
    rw [dom_asking, hask, dom_asking]
    split <;> rfl
  · rw [settle_retain_on (by rw [hask]; exact h) (by rw [hask])]
    exact rises_of_riseDom (sameBut_asking ..) (fun j => dom_asking ..) (.inr h) hn

/-- A domain that is OFF is asked ON while UNC0 of its die is OFF: UNC0 rises first, the request stands (R38). -/
theorem settle_waits {d : Nat} (hk : k < 105) (hc : unc0Of k = some d) (h : (s.dom k).st = .off) (hu : (s.dom (4 * d)).st = .off) :
    s.sameBut ((settle k).run (s.asking k 1)) [.doms, .power]
      ∧ (((settle k).run (s.asking k 1)).dom k).st = .off ∧ (((settle k).run (s.asking k 1)).dom k).req = 1
      ∧ (((settle k).run (s.asking k 1)).dom (4 * d)).st = .transition ∧ (((settle k).run (s.asking k 1)).dom (4 * d)).req = 1
      ∧ ∃ y, y ∈ ((settle k).run (s.asking k 1)).power.rise ∧ y.dom = 4 * d ∧ y.sub = 0 := by
  have hask : (s.asking k 1).dom k = { s.dom k with req := 1 } := (dom_asking ..).trans (if_pos rfl)
  have hne := (unc0Of_ne (by omega) hc).1
  have hoff : (s.asking k 1).domOn (4 * d) = false := by rw [Dev.domOn, dom_asking, if_neg hne, hu]; rfl
  rw [settle_off_on (by rw [hask]; exact h) (by rw [hask]), wakeDom_unc0 hc hoff]
  generalize hw : ((s.asking k 1).asking k 1).asking (4 * d) 1 = w
  have hframe : s.sameBut w [.doms] := hw ▸ sameBut_trans (sameBut_trans (sameBut_asking ..) (sameBut_asking ..)) (sameBut_asking ..)
  have hself : w.dom k = { s.dom k with req := 1 } := by
    rw [← hw, dom_asking, if_neg (Ne.symm hne), dom_asking, if_pos rfl, hask]
  have hunc0 : w.dom (4 * d) = { s.dom (4 * d) with req := 1 } := by
    rw [← hw, dom_asking, if_pos rfl, dom_asking, if_neg hne, dom_asking, if_neg hne]
  obtain ⟨hsame, hothers⟩ := (within_riseDom (p := (· = 4 * d)) rfl).sameButDoms w
  rw [hothers k (Ne.symm hne), hself, riseDom_run (by rw [hunc0]; exact .inl hu)]
  obtain ⟨hreqFrame, hreqDom⟩ := (within_riseReq (4 * d) 0 (domMw (4 * d)) (fun _ => False)).sameButDoms
    (w.apply (.dom (4 * d) ⟨.transition, (w.dom (4 * d)).req, some ⟨true, false, 0, .on, (w.dom (4 * d)).st == .off⟩⟩))
  rw [hreqDom _ id, dom_apply, if_pos rfl, hunc0]
  exact ⟨sameBut_trans (hframe.mono (by simp)) (sameBut_trans ((sameBut_apply w _).mono (by simp [Upd.parts])) (hunc0 ▸ hreqFrame)), h, rfl, rfl, rfl,
    exists_rise_riseReq _ _ _ _⟩
end

/-! ### The orderly pen state (R513, R535) -/

/-- What PEN asks of one domain. -/
def penStep (keep : Bool) (e : Nat × Dom) : Prog :=
  let hold := keep && (e.1 = 64 || e.1 = 65)
  progs [
    onDom e.1 fun m => { m with req := if hold then 2 else 0 },
    only (e.2.st == .retain && !hold) (progs [domLost e.1, onDom e.1 fun m => { m with st := .off }]),
    settle e.1]

theorem orderlyOff_run (keep : Bool) (s : Dev) :
    (orderlyOff keep).run s = (forAll (s.doms.filter fun e => e.1 ≠ mgmtDom) (penStep keep)).run s := rfl

/-- The request that PEN makes of a domain. -/
def penRequest (k : Nat) : Nat := if k = 64 ∨ k = 65 then 2 else 0

theorem penRequest_ne_one (k : Nat) : penRequest k ≠ 1 := by rw [penRequest]; split <;> decide

theorem penStep_run (e : Nat × Dom) (s : Dev) : (penStep true e).run s
    = (settle e.1).run ((only (e.2.st == .retain && decide (penRequest e.1 = 0)) (progs [domLost e.1, onDom e.1 fun m => { m with st := .off }])).run
        (s.asking e.1 (penRequest e.1))) := by
  by_cases h : e.1 = 64 ∨ e.1 = 65
  · rcases h with h | h <;> simp [penStep, penRequest, h, Dev.asking]
  · obtain ⟨h1, h2⟩ := not_or.mp h
    simp [penStep, penRequest, h1, h2, Dev.asking]

/-- PEN turns to one domain: no other domain changes, and BOOT_STATUS stands. -/
theorem penStep_frame (e : Nat × Dom) (s : Dev) : (∀ j, j ≠ e.1 → ((penStep true e).run s).dom j = s.dom j)
    ∧ ((penStep true e).run s).regAt (regAddr .boot 20 0 R.BOOT_STATUS) = s.regAt (regAddr .boot 20 0 R.BOOT_STATUS) := by
  rw [penStep_run]
  generalize hw : Prog.run (only _ _) _ = w
  obtain ⟨hreq, hdom, hreg⟩ : (w.dom e.1).req = penRequest e.1 ∧ (∀ j, j ≠ e.1 → w.dom j = s.dom j)
      ∧ w.regAt (regAddr .boot 20 0 R.BOOT_STATUS) = s.regAt (regAddr .boot 20 0 R.BOOT_STATUS) := by
    have hask (j : Nat) := dom_asking s e.1 (penRequest e.1) j
    rw [← hw, run_only]
    split
    · have hl := sameBut_domLost e.1 (s.asking e.1 (penRequest e.1))
      rw [run_progs_cons, run_progs_cons, run_progs_nil, run_onDom]
      refine ⟨?_, fun j hj => ?_, ?_⟩
      · rw [dom_apply, if_pos rfl, hl.dom (by decide), hask, if_pos rfl]
      · rw [dom_apply, if_neg hj, hl.dom (by decide), hask, if_neg hj]
      · exact regAt_domLost e.1 _ (by decide) (by decide)
    · exact ⟨by rw [hask, if_pos rfl], fun j hj => by rw [hask, if_neg hj], rfl⟩
  obtain ⟨hframe, hothers⟩ := sameButDoms_settle (s := w) (k := e.1) (hreq ▸ penRequest_ne_one e.1)
  exact ⟨fun j hj => (hothers j hj).trans (hdom j hj), (hframe.regAt (by decide) _).trans hreg⟩

/-- A domain that is ON gets its request, and goes to TRANSITION unless it is UNC0 of a die. -/
theorem penStep_on {e : Nat × Dom} {s : Dev} (hs : s.dom e.1 = e.2) (h : e.2.st = .on) : (((penStep true e).run s).dom e.1).req = penRequest e.1
    ∧ ((∀ d, e.1 = 4 * d → 16 ≤ d) → (((penStep true e).run s).dom e.1).st = .transition) := by
  have hask : (s.asking e.1 (penRequest e.1)).dom e.1 = { e.2 with req := penRequest e.1 } := by rw [dom_asking, if_pos rfl, hs]
  have hrun : (penStep true e).run s = (settle e.1).run (s.asking e.1 (penRequest e.1)) := by rw [penStep_run, h]; rfl
  have hon : ((s.asking e.1 (penRequest e.1)).dom e.1).st = .on := by rw [hask]; exact h
  rw [hrun]
  by_cases hk : e.1 = 64 ∨ e.1 = 65
  · rw [settle_on_retain hon (by rw [hask]; exact if_pos hk) (by omega) (by omega), (sleepDom_run hon _).1, hask]
    exact ⟨rfl, fun _ => rfl⟩
  · rw [settle_on_off hon (by rw [hask]; exact if_neg hk)]
    split
    next hb => exact ⟨by rw [hask], fun hd => absurd (hd (e.1 / 4) (by omega)) (by omega)⟩
    next =>
      rw [(sleepDom_run hon _).1, hask]
      exact ⟨rfl, fun _ => rfl⟩

/-- Programs that each turn to one domain of their own: after them all, each domain stands as its own program left it. -/
theorem forAll_ownDom {l : List (Nat × Dom)} {f : Nat × Dom → Prog} (hn : (l.map (·.1)).Nodup)
    (hf : ∀ e, e ∈ l → ∀ s j, j ≠ e.1 → ((f e).run s).dom j = s.dom j) {R : Dom → Dom → Prop} {e : Nat × Dom} (he : e ∈ l)
    (hR : ∀ s, R (s.dom e.1) (((f e).run s).dom e.1)) (s : Dev) : R (s.dom e.1) (((forAll l f).run s).dom e.1) := by
  induction l generalizing s with
  | nil => cases he
  | cons a r ih =>
    obtain ⟨ha, hn⟩ := List.nodup_cons.mp hn
    have hfr := fun e he => hf e (List.mem_cons_of_mem _ he)
    rw [run_forAll_cons]
    rcases List.mem_cons.mp he with rfl | he
    · have hrest (t : Dev) : ((forAll r f).run t).dom e.1 = t.dom e.1 :=
        run_forAll_keeps (P := fun u => u.dom e.1 = t.dom e.1) (fun b hb u hu => (hfr b hb u _ fun hk => ha (List.mem_map.mpr ⟨b, hb, hk.symm⟩)).trans hu) rfl
      rw [hrest]
      exact hR s
    · have hk : e.1 ≠ a.1 := fun hk => ha (List.mem_map.mpr ⟨e, he, hk⟩)
      have := ih hn hfr he ((f a).run s)
      rwa [hf a List.mem_cons_self s _ hk] at this

section
variable {s : Dev}

theorem enterPen_run (reason : Nat) (hr : 2 ^ 30 + reason * 256 + 9 < 2 ^ 32) : ((enterPen reason).run s).power.pen = true
    ∧ (∀ j, ((enterPen reason).run s).dom j = s.dom j)
    ∧ ((enterPen reason).run s).reg .boot 20 0 R.BOOT_STATUS
      = if bitAt (s.reg .boot 20 0 R.BOOT_STATUS) 30 then s.reg .boot 20 0 R.BOOT_STATUS else 2 ^ 30 + reason * 256 + 9 := by
  have hfld : decide (s.fld .boot 20 0 R.BOOT_STATUS 30 30 = 0) = !bitAt (s.reg .boot 20 0 R.BOOT_STATUS) 30 := by
    rw [Dev.fld, bits_one]
    cases bitAt (s.reg .boot 20 0 R.BOOT_STATUS) 30 <;> rfl
  rw [enterPen, run_look, run_progs_cons, run_progs_cons, run_progs_nil, run_onPower, hfld]
  refine ⟨rfl, fun j => ?_, ?_⟩
  · rw [dom_apply_power, run_only]
    split
    · exact (sameBut_put s .boot 20 0 R.BOOT_STATUS _).dom (by decide) j
    · rfl
  · cases hb : bitAt (s.reg .boot 20 0 R.BOOT_STATUS) 30
    · exact (reg_setReg ..).trans ((if_pos rfl).trans (Nat.mod_eq_of_lt hr))
    · rfl

/-- PEN leaves the management complex and BOOT_STATUS to the pen state that follows. -/
theorem orderlyOff_frame (s : Dev) : ((orderlyOff true).run s).dom mgmtDom = s.dom mgmtDom
    ∧ ((orderlyOff true).run s).reg .boot 20 0 R.BOOT_STATUS = s.reg .boot 20 0 R.BOOT_STATUS := by
  rw [orderlyOff_run]
  refine run_forAll_keeps (P := fun t => t.dom mgmtDom = s.dom mgmtDom ∧ t.reg .boot 20 0 R.BOOT_STATUS = s.reg .boot 20 0 R.BOOT_STATUS)
    (fun e he t ht => ?_) ⟨rfl, rfl⟩
  have hk : e.1 ≠ mgmtDom := by simpa using (List.mem_filter.mp he).2
  obtain ⟨hdom, hreg⟩ := penStep_frame e t
  exact ⟨(hdom _ (Ne.symm hk)).trans ht.1, hreg.trans ht.2⟩

/-- PEN asks every domain that is ON away, S0 and S1 into RETAIN. -/
theorem orderlyOff_on (hc : canonical domDef s.doms = true) {j : Nat} (hj : j ≠ mgmtDom) (h : (s.dom j).st = .on) :
    (((orderlyOff true).run s).dom j).req = penRequest j
      ∧ ((∀ d, j = 4 * d → 16 ≤ d) → (((orderlyOff true).run s).dom j).st = .transition) := by
  have hne : s.dom j ≠ domDef j := fun he => by rw [he] at h; cases h
  have hmem : (j, s.dom j) ∈ s.doms.filter fun e => e.1 ≠ mgmtDom :=
    List.mem_filter.mpr ⟨mem_of_sget_ne hne, by simpa using hj⟩
  have hnodup : ((s.doms.filter fun e => e.1 ≠ mgmtDom).map (·.1)).Nodup :=
    nodup_keys_of_rising (risingFrom_filter _ (canonical_rising hc))
  rw [orderlyOff_run]
  exact forAll_ownDom hnodup (fun e _ t i => (penStep_frame e t).1 i)
    (R := fun x y => x = s.dom j → y.req = penRequest j ∧ ((∀ d, j = 4 * d → 16 ≤ d) → y.st = .transition)) hmem
    (fun t ht => penStep_on (e := (j, s.dom j)) ht h) s rfl
end

/-! ### The statement -/

/-- Settles O32: a request is refused or stored and settled; the cases of `settle` give each clause, and PEN is such a request to every domain listed.
Class and DATA of a refusal's log entry are the model's choice (log 16). -/
theorem domainRequests : Obligations.DomainRequests := by
  unfold Obligations.DomainRequests
  intro s k x w refused used falls hsound
  have hoff : s.m.domRefused k 0 = true ↔ used := domRefused_off s.m k.isLt
  have hstack : ¬(64 ≤ k.val ∧ k.val < 96) ↔ s.m.domRefused k 2 = true := by
    rw [domRefused_retain, Bool.not_eq_true', ← Bool.not_eq_true, Bool.and_eq_true, decide_eq_true_eq, decide_eq_true_eq]
  have hask (v : Nat) : (s.m.asking k v).dom k = { x with req := v } := (dom_asking ..).trans (if_pos rfl)
  have hstored {v : Nat} (hv : v < 4) (hr : ¬s.m.domRefused k v = true) (hx : x.st = .retain → v ≠ 0) :
      (pwrDomWrite k v).run s.m = (settle k).run (s.m.asking k v) := pwrDomWrite_stored hv (Bool.eq_false_iff.mpr hr) hx
  refine ⟨fun h => becomes_of (p := pwrDomOffProg k) rfl (pwrDomWrite_refused (by decide) (hoff.mpr h)),
    fun h => becomes_of (p := pwrDomRetainProg k) rfl (pwrDomWrite_refused (by decide) (hstack.mp h)),
    fun h hx => completes_of (p := pwrDomOffProg k) rfl ?off, fun h hx => completes_of (p := pwrDomOffProg k) rfl ?offStored,
    fun h hx => completes_of (p := pwrDomRetainProg k) rfl ?retain, fun h hu hn => completes_of (p := pwrDomOnProg k) rfl ?on,
    fun d hd h hu => completes_of (p := pwrDomOnProg k) rfl ?unc0First, completes_of (p := pwrCtrlPenProg) rfl ?pen⟩
  case off =>
    rw [pwrDomOffProg, hstored (by decide) (mt hoff.mp h) (fun he => by rw [hx] at he; cases he),
      settle_on_off (by rw [hask]; exact hx) (by rw [hask]), if_neg]
    · exact falls_of_sleepDom hx .off
    · rintro ⟨hk, hm, hb⟩
      rw [dieBusy_asking hk hm] at hb
      exact h (hoff.mp ((domRefused_unc0 s.m hk hm).trans hb))
  case offStored =>
    rw [pwrDomOffProg, hstored (by decide) (mt hoff.mp h) (fun he => by rw [he] at hx; simp at hx),
      settle_stays (by rw [hask]; rcases hx with hx | hx <;> simp [hx]) (by rw [hask]; exact Nat.zero_ne_one)]
    exact ⟨sameBut_asking .., fun j => dom_asking ..⟩
  case retain =>
    rw [pwrDomRetainProg, hstored (by decide) (mt hstack.mpr (not_not.mpr h)) (fun _ => two_ne_zero),
      settle_on_retain (by rw [hask]; exact hx) (by rw [hask]) h.1 h.2]
    exact falls_of_sleepDom hx .retain
  case on =>
    rw [pwrDomOnProg, hstored (by decide) (by simp [domRefused_on]) (fun _ => one_ne_zero)]
    exact settle_rises k.isLt h hu hn
  case unc0First =>
    rw [pwrDomOnProg, hstored (by decide) (by simp [domRefused_on]) (fun _ => one_ne_zero)]
    exact settle_waits k.isLt hd h hu
  case pen =>
    obtain ⟨hmgmt, hboot⟩ := orderlyOff_frame s.m
    obtain ⟨hpen, hdom, hstatus⟩ := enterPen_run (s := (orderlyOff true).run s.m) 0x0B (by decide)
    rw [show pwrCtrlPenProg.run s.m = (enterPen 0x0B).run ((orderlyOff true).run s.m) from rfl]
    rw [hboot] at hstatus
    refine ⟨hpen, (hdom _).trans hmgmt, fun h => by rw [hstatus, h]; rfl, fun h => by rw [hstatus, h]; rfl, fun j hj hon => ?_⟩
    rw [hdom]
    exact orderlyOff_on (canonical_doms hsound) hj hon

end Sys2Proof.Machine
end

section
/-! SUPPORT. The grants of the weir governor in one slot (R490 to R493). -/

namespace Sys2Proof.Machine

/-! ### What one direction's grants come to (R492) -/

/-- With `left` units left of a slot's `b`, and with `first` while no step was granted, the first `n` of the waiting steps leave the queue: in order, those that
are void at no cost, the others within what is left, or one step above `b` alone, which sets the hold given. Where nothing else stops them (`held`), they stop
for want of steps or of units only. -/
inductive Grants (void : WeirStep → Bool) (cost : WeirStep → Nat) (b : Nat) (held : Prop) : Nat → Bool → List WeirStep → Nat → Option Nat → Prop
  | stop {left : Nat} {first : Bool} {l : List WeirStep} (h : held ∨ first = false ∨ left < b ∨ l = []) : Grants void cost b held left first l 0 none
  | skip {left : Nat} {first : Bool} {x : WeirStep} {l : List WeirStep} {n : Nat} {hold : Option Nat} (hx : void x = true)
      (h : Grants void cost b held left first l n hold) : Grants void cost b held left first (x :: l) (n + 1) hold
  | large {left : Nat} {x : WeirStep} {l : List WeirStep} (hx : void x = false) (hb : b < cost x) :
      Grants void cost b held left true (x :: l) 1 (some (ceilDiv (cost x) b - 1))
  | small {left : Nat} {first : Bool} {x : WeirStep} {l : List WeirStep} {n : Nat} {hold : Option Nat} (hx : void x = false) (hb : cost x ≤ b)
      (hl : cost x ≤ left) (h : Grants void cost b held (left - cost x) false l n hold) : Grants void cost b held left first (x :: l) (n + 1) hold

/-- The steps among those given that are not void. -/
def liveSteps (void : WeirStep → Bool) (l : List WeirStep) : List WeirStep := l.filter fun y => void y = false

theorem sumNat_cons (a : Nat) (l : List Nat) : sumNat (a :: l) = a + sumNat l := by
  rw [sumNat, sumNat, ← List.sum_eq_foldl, ← List.sum_eq_foldl, List.sum_cons]

section
variable {void : WeirStep → Bool} {cost : WeirStep → Nat} {b left n : Nat} {held : Prop} {first : Bool} {l : List WeirStep} {hold : Option Nat}

theorem liveSteps_cons_void {x : WeirStep} (h : void x = true) : liveSteps void (x :: l) = liveSteps void l := by simp [liveSteps, h]
theorem liveSteps_cons_live {x : WeirStep} (h : void x = false) : liveSteps void (x :: l) = x :: liveSteps void l := by simp [liveSteps, h]

/-- After the first grant of a slot everything granted fits in what is left. -/
theorem Grants.sum_le (h : Grants void cost b held left first l n hold) (hf : first = false) : sumNat ((liveSteps void (l.take n)).map cost) ≤ left := by
  induction h with
  | stop => exact Nat.zero_le _
  | skip hx h ih => rw [List.take_succ_cons, liveSteps_cons_void hx]; exact ih hf
  | large => cases hf
  | small hx hb hl h ih =>
    rw [List.take_succ_cons, liveSteps_cons_live hx, List.map_cons, sumNat_cons]
    have := ih rfl
    omega

/-- All the steps granted in a slot fit in its budget, or there is only one. -/
theorem Grants.within_budget (h : Grants void cost b held left first l n hold) :
    (liveSteps void (l.take n)).length ≤ 1 ∨ sumNat ((liveSteps void (l.take n)).map cost) ≤ left := by
  induction h with
  | stop => exact .inr (Nat.zero_le _)
  | skip hx h ih => rw [List.take_succ_cons, liveSteps_cons_void hx]; exact ih
  | large hx hb => exact .inl (by rw [List.take_succ_cons, liveSteps_cons_live hx]; exact le_refl 1)
  | small hx hb hl h ih =>
    rw [List.take_succ_cons, liveSteps_cons_live hx, List.map_cons, sumNat_cons]
    have := h.sum_le rfl
    exact .inr (by omega)

theorem Grants.le_length (h : Grants void cost b held left first l n hold) : n ≤ l.length := by
  induction h with
  | stop => exact Nat.zero_le _
  | skip hx h ih => exact Nat.succ_le_succ ih
  | large => exact Nat.succ_le_succ (Nat.zero_le _)
  | small hx hb hl h ih => exact Nat.succ_le_succ ih

/-- A step above the budget at the head of the queue is granted alone, and sets the hold. -/
theorem Grants.large_alone (h : Grants void cost b held left first l n hold) {y : WeirStep} (hy : l.head? = some y) (hv : void y = false)
    (hb : b < cost y) (hn : 1 ≤ n) : n = 1 ∧ hold = some (ceilDiv (cost y) b - 1) := by
  cases h with
  | stop => omega
  | skip hx => cases hy; rw [hv] at hx; cases hx
  | large => cases hy; exact ⟨rfl, rfl⟩
  | small hx hb' => cases hy; omega

/-- A fresh slot lets a step go where one waits and nothing else stops it. -/
theorem Grants.progress (h : Grants void cost b held b true l n hold) (hh : ¬held) (hl : l ≠ []) : 1 ≤ n := by
  cases h with
  | stop hs =>
    rcases hs with hs | hs | hs | hs
    · exact absurd hs hh
    · cases hs
    · omega
    · exact absurd hs hl
  | _ => omega
end

/-! ### What grants leave alone -/

/-- The weir without its queues, its holds and its charges. -/
def Power.unqueued (w : Power) : Power := { w with rise := [], fall := [], riseHold := 0, fallHold := 0, charged := [] }

/-- What the grants of a slot leave: the time, the budget, which domains are on, the last use of every vector engine, and of the weir all but its queues,
holds and charges. -/
structure Dev.slotKept (s t : Dev) : Prop where
  clock : t.clock = s.clock
  budget : t.reg .pwr 20 0 R.WEIR_CFG = s.reg .pwr 20 0 R.WEIR_CFG
  st : ∀ j, (t.dom j).st = (s.dom j).st
  idle : ∀ k n, ((t.cl k).core n).vecIdle = ((s.cl k).core n).vecIdle
  power : t.power.unqueued = s.power.unqueued

section
variable {s t u : Dev}

theorem slotKept_refl (s : Dev) : s.slotKept s := ⟨rfl, rfl, fun _ => rfl, fun _ _ => rfl, rfl⟩

theorem slotKept_trans (h : s.slotKept t) (g : t.slotKept u) : s.slotKept u :=
  ⟨g.clock.trans h.clock, g.budget.trans h.budget, fun j => (g.st j).trans (h.st j), fun k n => (g.idle k n).trans (h.idle k n), g.power.trans h.power⟩

theorem slotKept_power {w : Power} (h : w.unqueued = s.power.unqueued) : s.slotKept (s.apply (.power w)) := ⟨rfl, rfl, fun _ => rfl, fun _ _ => rfl, h⟩

theorem slotKept_dom {k : Nat} {x : Dom} (h : x.st = (s.dom k).st) : s.slotKept (s.apply (.dom k x)) :=
  ⟨rfl, rfl, fun j => by
    rw [dom_apply]
    split
    next hj => rw [hj, h]
    next => rfl, fun _ _ => rfl, rfl⟩

theorem slotKept_cl {k : Nat} {c : Cluster} (h : ∀ n, (c.core n).vecIdle = ((s.cl k).core n).vecIdle) : s.slotKept (s.apply (.cl k c)) :=
  ⟨rfl, rfl, fun _ => rfl, fun j n => by
    rw [cl_apply]
    split
    next hj => rw [hj, h]
    next => rfl, rfl⟩

theorem slotKept_put {off v : Nat} (h : off ≠ R.WEIR_CFG) : s.slotKept (s.put .pwr 20 0 off v) :=
  ⟨rfl, by rw [Dev.reg, regAt_put, if_neg fun e => h (regAddr_inj e).symm, ← Dev.reg], fun _ => rfl, fun _ _ => rfl, rfl⟩

/-- What the slot's grants keep they keep beside the queues. -/
theorem Dev.slotKept.field {α : Type} (h : s.slotKept t) (f : Power → α) (hf : ∀ w, f w.unqueued = f w) : f t.power = f s.power := by
  rw [← hf, h.power, hf]

/-- The units of a step depend on the input alone, which stands. -/
theorem Dev.slotKept.weirUnits (h : s.slotKept t) : t.weirUnits = s.weirUnits := by
  have hv : t.power.vin = s.power.vin := h.field Power.vin fun _ => rfl
  funext mw
  rw [Dev.weirUnits, hv, ← Dev.weirUnits]

theorem Dev.slotKept.fld (h : s.slotKept t) : t.fld .pwr 20 0 R.WEIR_CFG 5 0 = s.fld .pwr 20 0 R.WEIR_CFG 5 0 := by rw [Dev.fld, h.budget, ← Dev.fld]

theorem Dev.slotKept.fallVoid (h : s.slotKept t) : t.fallVoid = s.fallVoid := by
  funext x
  simp only [Dev.fallVoid, Dev.domOn, h.st, h.idle, h.clock]
end

/-! ### One grant -/

/-- The device after the weir's part of a grant: its new queues and charges, and the count of grants. -/
def Dev.weirGranted (s : Dev) (w : Power) : Dev := (tally .pwr 20 0 R.WEIR_GRANTS 1).run (s.apply (.power w))

theorem sameBut_weirGranted (s : Dev) (w : Power) : (s.apply (.power w)).sameBut (s.weirGranted w) [.regs] :=
  Prog.Within.sameBut (within_tally 1 fun _ => List.Subset.refl _) _

section
variable (s : Dev) (w : Power)
@[simp] theorem power_weirGranted : (s.weirGranted w).power = w := (sameBut_weirGranted s w).power (by decide)
@[simp] theorem dom_weirGranted (k : Nat) : (s.weirGranted w).dom k = s.dom k := (sameBut_weirGranted s w).dom (by decide) k
end

theorem slotKept_weirGranted {s : Dev} {w : Power} (h : w.unqueued = s.power.unqueued) : s.slotKept (s.weirGranted w) := by
  rw [Dev.weirGranted, run_tally _ _ _ _ _ one_ne_zero]
  exact slotKept_trans (slotKept_power h) (slotKept_put (by decide))

/-- The charges after a rising step of `units`: a throttle level takes its own away (R491, R500). -/
def chargedRise (w : Power) (x : WeirStep) (units : Nat) : List (Nat × Nat) :=
  if 1000 ≤ x.sub then sdel w.charged (stepKey x.dom x.sub) else sput w.charged (stepKey x.dom x.sub) units

/-- A granted step of a domain itself becomes ready after its time (R490). -/
def readyFrom (clock dom : Nat) (t : Trans) : Trans := if t.up then { t with granted := true, readyAt := clock + domReady dom t.fromOff } else t

theorem grantRise_run (x : WeirStep) (units : Nat) (s : Dev) : (grantRise x units).run s
    = (only (x.sub = 0) (onDom x.dom fun m => { m with tr := m.tr.map (readyFrom s.clock x.dom) })).run
      (s.weirGranted { s.power with rise := s.power.rise.drop 1, charged := chargedRise s.power x units }) := by
  rw [grantRise, run_look, run_progs_cons, run_progs_cons, run_progs_cons, run_progs_cons, run_progs_nil, chargedRise]
  by_cases h : 1000 ≤ x.sub
  · rw [if_pos h, if_pos h]; rfl
  · rw [if_neg h, if_neg h]; rfl

theorem grantRise_kept (x : WeirStep) (units : Nat) (s : Dev) : s.slotKept ((grantRise x units).run s)
    ∧ ((grantRise x units).run s).power = { s.power with rise := s.power.rise.drop 1, charged := chargedRise s.power x units } := by
  have hk := slotKept_weirGranted (s := s) (w := { s.power with rise := s.power.rise.drop 1, charged := chargedRise s.power x units }) rfl
  rw [grantRise_run, run_only]
  split
  · exact ⟨slotKept_trans hk (slotKept_dom rfl), power_weirGranted s _⟩
  · exact ⟨hk, power_weirGranted s _⟩

/-- The charges after a falling step. -/
def chargedFall (w : Power) (x : WeirStep) : List (Nat × Nat) :=
  if 1000 ≤ x.sub then sput w.charged (stepKey x.dom x.sub) x.units else sdel w.charged (stepKey x.dom x.sub)

theorem grantFall_kept (x : WeirStep) (s : Dev) : s.slotKept ((grantFall x).run s)
    ∧ ((grantFall x).run s).power = { s.power with fall := s.power.fall.drop 1, charged := chargedFall s.power x } := by
  have hk := slotKept_weirGranted (s := s) (w := { s.power with fall := s.power.fall.drop 1, charged := chargedFall s.power x }) rfl
  rw [show (grantFall x).run s = Prog.run (if x.sub = 0 then _ else _)
    (s.weirGranted { s.power with fall := s.power.fall.drop 1, charged := chargedFall s.power x }) from rfl]
  split_ifs
  · exact ⟨slotKept_trans hk (slotKept_dom rfl), power_weirGranted s _⟩
  · exact ⟨hk, power_weirGranted s _⟩
  · exact ⟨slotKept_trans hk (slotKept_cl fun _ => rfl), power_weirGranted s _⟩
  · exact ⟨slotKept_trans hk (slotKept_cl fun _ => rfl), power_weirGranted s _⟩
  · refine ⟨slotKept_trans hk (slotKept_cl fun n => ?_), power_weirGranted s _⟩
    rw [core_set]
    split
    next hn => rw [hn]
    next => rfl

/-! ### The grants of a slot -/

/-- The rising steps that a slot has granted. -/
def Dev.rose (s t : Dev) (n : Nat) (hold : Option Nat) : Prop := s.slotKept t ∧ t.power.fall = s.power.fall ∧ t.power.fallHold = s.power.fallHold
  ∧ t.power.rise = s.power.rise.drop n ∧ t.power.riseHold = hold.getD s.power.riseHold

/-- The falling steps that a slot has granted. -/
def Dev.fell (s t : Dev) (n : Nat) (hold : Option Nat) : Prop := s.slotKept t ∧ t.power.rise = s.power.rise ∧ t.power.riseHold = s.power.riseHold
  ∧ t.power.fall = s.power.fall.drop n ∧ t.power.fallHold = hold.getD s.power.fallHold

/-- The budget of a slot in units of 0.1 mA (R492). -/
def Dev.slotBudget (s : Dev) : Nat := s.fld .pwr 20 0 R.WEIR_CFG 5 0 * 320

theorem grantRises_nil {s : Dev} (h : s.power.rise = []) (n left : Nat) (first : Bool) : (grantRises n left first).run s = s := by
  cases n with
  | zero => rfl
  | succ n => rw [grantRises, run_look, h]; rfl

theorem grantRises_cons {s : Dev} {x : WeirStep} {l : List WeirStep} (h : s.power.rise = x :: l) (n left : Nat) (first : Bool) :
    (grantRises (n + 1) left first).run s = Prog.run (if !s.mayRise (s.weirUnits x.mw) then .skip
      else if s.slotBudget < s.weirUnits x.mw then only first (progs [grantRise x (s.weirUnits x.mw), onPower fun w =>
        { w with riseHold := ceilDiv (s.weirUnits x.mw) s.slotBudget - 1 }])
      else only (s.weirUnits x.mw ≤ left) (progs [grantRise x (s.weirUnits x.mw), grantRises n (left - s.weirUnits x.mw) false])) s := by
  rw [grantRises, run_look, h]; rfl

theorem grantRises_rose (n left : Nat) (first : Bool) (s : Dev) : ∃ m hold, s.rose ((grantRises n left first).run s) m hold
    ∧ Grants (fun _ => false) (fun y => s.weirUnits y.mw) s.slotBudget True left first s.power.rise m hold := by
  have hstop : s.rose s 0 none := ⟨slotKept_refl s, rfl, rfl, rfl, rfl⟩
  induction n generalizing s left first with
  | zero => exact ⟨0, none, hstop, .stop (.inl trivial)⟩
  | succ n ih =>
    cases hr : s.power.rise with
    | nil => exact ⟨0, none, by rw [grantRises_nil hr]; exact hstop, .stop (.inl trivial)⟩
    | cons x l =>
      obtain ⟨hk, hp⟩ := grantRise_kept x (s.weirUnits x.mw) s
      rw [grantRises_cons hr]
      split_ifs with hm hb
      · exact ⟨0, none, hstop, .stop (.inl trivial)⟩
      · cases first with
        | false => exact ⟨0, none, hstop, .stop (.inl trivial)⟩
        | true =>
          rw [run_only_true, run_progs_cons, run_progs_cons, run_progs_nil, run_onPower, hp]
          exact ⟨1, _, ⟨slotKept_trans hk (slotKept_power (by rw [hp]; rfl)), rfl, rfl, rfl, rfl⟩, .large rfl hb⟩
      · rw [run_only]
        split
        next hl =>
          rw [run_progs_cons, run_progs_cons, run_progs_nil]
          generalize hu : (grantRise x (s.weirUnits x.mw)).run s = u at hk hp
          obtain ⟨m, hold, ⟨hk', hf, hfh, hrise, hh⟩, hg⟩ := ih (left - s.weirUnits x.mw) false u ⟨slotKept_refl u, rfl, rfl, rfl, rfl⟩
          rw [hk.weirUnits, Dev.slotBudget, hk.fld, ← Dev.slotBudget, hp, hr] at hg
          rw [hp] at hf hfh hrise hh
          refine ⟨m + 1, hold, ⟨slotKept_trans hk hk', hf, hfh, ?_, hh⟩, .small rfl (by omega) (by simpa using hl) hg⟩
          rw [hrise, hr]; rfl
        next => exact ⟨0, none, hstop, .stop (.inl trivial)⟩

/-- Where R493 forbids it no step rises. -/
theorem grantRises_blocked {s : Dev} (h : ¬(s.power.inputOk = true ∧ s.power.uvWarn = false ∧ s.power.emergency = false)) (n left : Nat) (first : Bool) :
    (grantRises n left first).run s = s := by
  cases n with
  | zero => rfl
  | succ n =>
    cases hr : s.power.rise with
    | nil => exact grantRises_nil hr _ _ _
    | cons x l =>
      have hm : s.mayRise (s.weirUnits x.mw) = false := by
        rw [Dev.mayRise, Bool.and_eq_false_iff]
        refine .inl (Bool.eq_false_iff.mpr fun hc => h ?_)
        simpa [and_assoc] using hc
      rw [grantRises_cons hr, hm]
      rfl

theorem grantFalls_nil {s : Dev} (h : s.power.fall = []) (n left : Nat) (first : Bool) : (grantFalls n left first).run s = s := by
  cases n with
  | zero => rfl
  | succ n => rw [grantFalls, run_look, h]; rfl

theorem grantFalls_cons {s : Dev} {x : WeirStep} {l : List WeirStep} (h : s.power.fall = x :: l) (n left : Nat) (first : Bool) :
    (grantFalls (n + 1) left first).run s = Prog.run (if s.fallVoid x then progs [onPower fun w => { w with fall := w.fall.drop 1 }, grantFalls n left first]
      else if s.slotBudget < x.units then only first (progs [grantFall x, onPower fun w => { w with fallHold := ceilDiv x.units s.slotBudget - 1 }])
      else only (x.units ≤ left) (progs [grantFall x, grantFalls n (left - x.units) false])) s := by
  rw [grantFalls, run_look, h]; rfl

theorem grantFalls_fell {n : Nat} (left : Nat) (first : Bool) {s : Dev} (hn : s.power.fall.length ≤ n) :
    ∃ m hold, s.fell ((grantFalls n left first).run s) m hold ∧ Grants s.fallVoid (·.units) s.slotBudget False left first s.power.fall m hold := by
  have hstop : s.fell s 0 none := ⟨slotKept_refl s, rfl, rfl, rfl, rfl⟩
  induction n generalizing s left first with
  | zero => exact ⟨0, none, hstop, .stop (.inr (.inr (.inr (List.length_eq_zero_iff.mp (Nat.le_zero.mp hn)))))⟩
  | succ n ih =>
    cases hf : s.power.fall with
    | nil => exact ⟨0, none, by rw [grantFalls_nil hf]; exact hstop, .stop (.inr (.inr (.inr rfl)))⟩
    | cons x l =>
      have hlen : l.length ≤ n := by rw [hf] at hn; simpa using hn
      obtain ⟨hk, hp⟩ := grantFall_kept x s
      rw [grantFalls_cons hf]
      split_ifs with hv hb
      · rw [run_progs_cons, run_progs_cons, run_progs_nil, run_onPower]
        generalize hu : s.apply (.power { s.power with fall := s.power.fall.drop 1 }) = u
        have hku : s.slotKept u := hu ▸ slotKept_power rfl
        have hpu : u.power = { s.power with fall := l } := by rw [← hu, apply_power, hf]; rfl
        obtain ⟨m, hold, ⟨hk', hr, hrh, hfall, hh⟩, hg⟩ := ih left first (by rw [hpu]; exact hlen) ⟨slotKept_refl u, rfl, rfl, rfl, rfl⟩
        rw [hku.fallVoid, Dev.slotBudget, hku.fld, ← Dev.slotBudget, hpu] at hg
        rw [hpu] at hr hrh hfall hh
        exact ⟨m + 1, hold, ⟨slotKept_trans hku hk', hr, hrh, by rw [hfall, hf]; rfl, hh⟩, .skip hv hg⟩
      · cases first with
        | false => exact ⟨0, none, hstop, .stop (.inr (.inl rfl))⟩
        | true =>
          rw [run_only_true, run_progs_cons, run_progs_cons, run_progs_nil, run_onPower, hp]
          exact ⟨1, _, ⟨slotKept_trans hk (slotKept_power (by rw [hp]; rfl)), rfl, rfl, rfl, rfl⟩, .large (Bool.eq_false_iff.mpr hv) hb⟩
      · rw [run_only]
        split
        next hl =>
          rw [run_progs_cons, run_progs_cons, run_progs_nil]
          generalize hu : (grantFall x).run s = u at hk hp
          obtain ⟨m, hold, ⟨hk', hr, hrh, hfall, hh⟩, hg⟩ := ih (left - x.units) false (s := u) (by rw [hp, hf]; exact hlen) ⟨slotKept_refl u, rfl, rfl, rfl, rfl⟩
          rw [hk.fallVoid, Dev.slotBudget, hk.fld, ← Dev.slotBudget, hp, hf] at hg
          rw [hp] at hr hrh hfall hh
          exact ⟨m + 1, hold, ⟨slotKept_trans hk hk', hr, hrh, by rw [hfall, hf]; rfl, hh⟩,
            .small (Bool.eq_false_iff.mpr hv) (by omega) (by simpa using hl) hg⟩
        next hl => exact ⟨0, none, hstop, .stop (.inr (.inr (.inl (by simp at hl; omega))))⟩

/-! ### One slot -/

/-- What a slot does to the rising steps, and to the falling ones. -/
def riseSlot (s : Dev) : Prog :=
  if s.power.riseHold ≠ 0 then onPower fun w => { w with riseHold := w.riseHold - 1 } else grantRises s.power.rise.length s.slotBudget true
def fallSlot (s : Dev) : Prog :=
  if s.power.fallHold ≠ 0 then onPower fun w => { w with fallHold := w.fallHold - 1 } else grantFalls s.power.fall.length s.slotBudget true

/-- What a slot leaves of the rising steps and of their hold: it grants a first part of them within its budget, or one larger step alone, and none while a
hold runs or R493 forbids it (R492). -/
def Dev.slotRise (s : Dev) (rise : List WeirStep) (hold : Nat) : Prop := ∃ n, rise = s.power.rise.drop n
  ∧ (s.power.riseHold ≠ 0 → n = 0 ∧ hold = s.power.riseHold - 1)
  ∧ (n ≤ 1 ∨ sumNat ((s.power.rise.take n).map fun y => s.weirUnits y.mw) ≤ s.slotBudget)
  ∧ (∀ y, s.power.rise.head? = some y → 1 ≤ n → s.slotBudget < s.weirUnits y.mw → n = 1 ∧ hold = ceilDiv (s.weirUnits y.mw) s.slotBudget - 1)
  ∧ (¬(s.power.inputOk = true ∧ s.power.uvWarn = false ∧ s.power.emergency = false) → n = 0)

/-- What it leaves of the falling steps: the void ones cost nothing, and without a hold one step goes at least. -/
def Dev.slotFall (s : Dev) (void : WeirStep → Bool) (fall : List WeirStep) (hold : Nat) : Prop := ∃ n, fall = s.power.fall.drop n
  ∧ (s.power.fallHold ≠ 0 → n = 0 ∧ hold = s.power.fallHold - 1)
  ∧ ((liveSteps void (s.power.fall.take n)).length ≤ 1 ∨ sumNat ((liveSteps void (s.power.fall.take n)).map (·.units)) ≤ s.slotBudget)
  ∧ (s.power.fallHold = 0 → s.power.fall ≠ [] → 1 ≤ n)

theorem riseSlot_run (s : Dev) : s.slotKept ((riseSlot s).run s) ∧ ((riseSlot s).run s).power.fall = s.power.fall
    ∧ ((riseSlot s).run s).power.fallHold = s.power.fallHold
    ∧ s.slotRise ((riseSlot s).run s).power.rise ((riseSlot s).run s).power.riseHold := by
  by_cases hh : s.power.riseHold ≠ 0
  · rw [riseSlot, if_pos hh]
    exact ⟨slotKept_power rfl, rfl, rfl, 0, rfl, fun _ => ⟨rfl, rfl⟩, .inl (Nat.zero_le 1), fun _ _ h => absurd h (by decide), fun _ => rfl⟩
  · rw [riseSlot, if_neg hh]
    by_cases hm : s.power.inputOk = true ∧ s.power.uvWarn = false ∧ s.power.emergency = false
    · obtain ⟨n, hold, ⟨hk, hf, hfh, hr, hrh⟩, hg⟩ := grantRises_rose s.power.rise.length s.slotBudget true s
      refine ⟨hk, hf, hfh, n, hr, fun h => absurd h hh, ?_, fun y hy h1 hb => ?_, fun h => absurd hm h⟩
      · have hb := hg.within_budget
        have hlive : liveSteps (fun _ => false) (s.power.rise.take n) = s.power.rise.take n := by simp [liveSteps]
        rw [hlive, List.length_take, Nat.min_eq_left hg.le_length] at hb
        exact hb
      · obtain ⟨rfl, rfl⟩ := hg.large_alone hy rfl hb h1
        exact ⟨rfl, hrh⟩
    · rw [grantRises_blocked hm]
      exact ⟨slotKept_refl s, rfl, rfl, 0, rfl, fun h => absurd h hh, .inl (Nat.zero_le 1), fun _ _ h => absurd h (by decide), fun _ => rfl⟩

theorem fallSlot_run (s : Dev) : s.slotKept ((fallSlot s).run s) ∧ ((fallSlot s).run s).power.rise = s.power.rise
    ∧ ((fallSlot s).run s).power.riseHold = s.power.riseHold
    ∧ s.slotFall s.fallVoid ((fallSlot s).run s).power.fall ((fallSlot s).run s).power.fallHold := by
  by_cases hh : s.power.fallHold ≠ 0
  · rw [fallSlot, if_pos hh]
    exact ⟨slotKept_power rfl, rfl, rfl, 0, rfl, fun _ => ⟨rfl, rfl⟩, .inl (Nat.zero_le 1), fun h => absurd h hh⟩
  · rw [fallSlot, if_neg hh]
    obtain ⟨n, hold, ⟨hk, hr, hrh, hf, -⟩, hg⟩ := grantFalls_fell s.slotBudget true (le_refl s.power.fall.length)
    exact ⟨hk, hr, hrh, n, hf, fun h => absurd h hh, hg.within_budget, fun _ hne => hg.progress id hne⟩

/-- A lone step that fits and may rise is granted. -/
theorem riseSlot_lone {s : Dev} {y : WeirStep} (h : s.power.rise = [y]) (hh : s.power.riseHold = 0) (hb : s.weirUnits y.mw ≤ s.slotBudget)
    (hm : s.mayRise (s.weirUnits y.mw) = true) : (riseSlot s).run s = (grantRise y (s.weirUnits y.mw)).run s := by
  rw [riseSlot, if_neg (not_not.mpr hh), show s.power.rise.length = 0 + 1 by rw [h]; rfl, grantRises_cons h, hm, if_neg (by decide),
    if_neg (Nat.not_lt.mpr hb), run_only, if_pos (by simpa using hb)]
  rfl

/-- Without falling steps the slot changes the hold of their direction alone. -/
theorem fallSlot_empty {s : Dev} (h : s.power.fall = []) :
    ((fallSlot s).run s).dom = s.dom ∧ ((fallSlot s).run s).power.charged = s.power.charged ∧ ((fallSlot s).run s).power.rise = s.power.rise := by
  rw [fallSlot]
  split
  · exact ⟨rfl, rfl, rfl⟩
  · rw [grantFalls_nil h]
    exact ⟨rfl, rfl, rfl⟩

/-- The device as the grants of a slot find it. -/
def Dev.slotStart (s : Dev) : Dev := (s.apply (.time 320)).apply (.power { s.power with slots := s.power.slots + 1 })

/-- The slot counts as held while rising steps wait. -/
def countHeld : Prog := look fun s => tally .pwr 20 0 R.WEIR_HELD_SLOTS (b2n (!s.power.rise.isEmpty))

theorem sameBut_countHeld (s : Dev) : s.sameBut (countHeld.run s) [.regs] :=
  Prog.Within.sameBut ((within_look _).mpr fun _ => within_tally _ fun _ => List.Subset.refl _) s

/-- A slot in which no stack waits in RETAIN to be woken: the rising steps, then the falling ones, then the count of held slots. -/
theorem weirSlot_run {s : Dev} (hc : canonical domDef s.doms = true)
    (h : ∀ j, 64 ≤ j → j < 96 → ¬((s.dom j).st = .retain ∧ (s.dom j).req = 1)) : weirSlotProg.run s
      = countHeld.run ((fallSlot ((riseSlot s.slotStart).run s.slotStart)).run ((riseSlot s.slotStart).run s.slotStart)) := by
  have hnone : (s.doms.filter fun e => 64 ≤ e.1 && e.1 < 96 && e.2.st == .retain && e.2.req = 1) = [] := by
    refine List.filter_eq_nil_iff.mpr fun e he hw => ?_
    simp only [Bool.and_eq_true, decide_eq_true_eq, beq_iff_eq] at hw
    obtain ⟨⟨⟨h1, h2⟩, h3⟩, h4⟩ := hw
    have hd := dom_of_mem hc he
    exact h e.1 h1 h2 ⟨by rw [hd, h3], by rw [hd, h4]⟩
  obtain ⟨hk, hf, hfh, -⟩ := riseSlot_run s.slotStart
  have hfall : fallSlot ((riseSlot s.slotStart).run s.slotStart) = fallSlot s.slotStart := by
    rw [fallSlot, fallSlot, hf, hfh, Dev.slotBudget, hk.fld, ← Dev.slotBudget]
  rw [hfall, weirSlotProg, run_progs_cons, run_progs_cons, run_look, run_upd, show (s.apply (.time 320)).doms = s.doms from rfl, hnone, run_forAll_nil]
  rfl

theorem slotBudget_eq (s : Dev) : s.slotBudget = s.reg .pwr 20 0 R.WEIR_CFG % 64 * 320 := by simp [Dev.slotBudget, Dev.fld, bits]

end Sys2Proof.Machine
end

section
/-! SUPPORT. A stack's contents lost, a domain that comes ON or goes, and the clocks of engines (R25, R119, R236, R490, R496, R498). -/

namespace Sys2Proof.Machine

/-! ### A stack that reads 0 again (R498) -/

/-- Under every span mode a page of 4 KiB lies in one stack (R336). -/
theorem stackOf_page (mode : Nat) {a b : Nat} (h : a / 4096 = b / 4096) : (stackOf mode a).1 = (stackOf mode b).1 := by
  unfold stackOf bits
  split_ifs <;> dsimp only <;> omega

theorem onStackNo_page (regs : List (Nat × W32)) (n : Nat) {a b : Nat} (h : a / 4096 = b / 4096) : onStackNo regs n a = onStackNo regs n b := by
  have hs : decide (a < stackEnd) = decide (b < stackEnd) := decide_eq_decide.mpr (by simp only [stackEnd]; omega)
  have hg : a / 2 ^ 35 = b / 2 ^ 35 := by omega
  rw [onStackNo, onStackNo, hs, hg, stackOf_page _ h]

theorem onStackNo_stackNo {s : Dev} {a : Nat} (ha : a < stackEnd) : onStackNo s.regs (s.stackNo a) a = true := by
  rw [onStackNo, decide_eq_true ha, Bool.true_and, beq_iff_eq, Dev.stackNo, Dev.spanMode, Dev.fld, Dev.reg, Dev.regAt, regAddr]
  simp [bits]

theorem undefAt_eq_none {l : List (Nat × Nat × Nat)} {x : Nat} (h : ∀ u, u ∈ l → ¬(u.1 ≤ x ∧ x < u.2.1)) : undefAt l x = none := by
  induction l with
  | nil => rfl
  | cons u l ih =>
    obtain ⟨hu, hl⟩ := List.forall_mem_cons.mp h
    rw [undefAt_cons, if_neg hu, ih hl]

/-- Nothing of an undefined range is left on the stack. -/
theorem undefOff_off {regs : List (Nat × W32)} {n : Nat} {u v : Nat × Nat × Nat} (hv : v ∈ undefOff regs n u) {a : Nat} (ha : onStackNo regs n a = true) :
    ¬(v.1 ≤ a ∧ a < v.2.1) := by
  rintro ⟨h1, h2⟩
  obtain ⟨hv, hoff⟩ := List.mem_filter.mp hv
  obtain ⟨i, -, rfl⟩ := List.mem_map.mp hv
  dsimp only at h1 h2 hoff
  rw [onStackNo_page regs n (show max u.1 ((u.1 / 4096 + i) * 4096) / 4096 = a / 4096 by omega), ha] at hoff
  simp at hoff

/-- A key that a filter drops reads as an unlisted one. -/
theorem sget_filter_dropped {α : Type} (d : Nat → α) (l : List (Nat × α)) {f : Nat → Bool} {k : Nat} (h : f k = false) :
    sget d (l.filter fun r => f r.1) k = d k := by
  induction l with
  | nil => rfl
  | cons r l ih =>
    by_cases hr : f r.1 = true
    · rw [List.filter_cons, if_pos hr, sget, if_neg (by rintro rfl; rw [h] at hr; cases hr), ih]
    · rw [List.filter_cons, if_neg hr, ih]

theorem byteAt_stackLost {s : Dev} {a n : Nat} (ha : a < stackEnd) (hn : s.stackNo a = n) : (s.apply (.stackLost n)).byteAt a = 0 := by
  have hp : place a = .stack := if_pos ha
  have hon : onStackNo s.regs n a = true := hn ▸ onStackNo_stackNo ha
  have hu : undefAt (s.undef.flatMap (undefOff s.regs n)) a = none := undefAt_eq_none fun v hv => by
    obtain ⟨u, -, hv⟩ := List.mem_flatMap.mp hv
    exact undefOff_off hv hon
  have hm : sget memInit (s.mem.filter fun c => !onStackNo s.regs n c.1) a = 0 := by
    rw [sget_filter_dropped memInit s.mem (f := fun x => !onStackNo s.regs n x) (by rw [hon]; rfl), memInit, hp]
  rw [byteAt_of_not_reg (by rw [isReg, hp]), apply_undef, apply_mem]
  dsimp only
  rw [hu, hm, mramOpen, hp]
  rfl

/-! ### A domain comes ON (R490, R496) -/

/-- An update that touches neither a given domain nor the clock. -/
def Upd.besideDom (k : Nat) : Upd → Prop
  | .dom j _ => j ≠ k
  | .time _ => False
  | _ => True

theorem Prog.Within.besideDom {k : Nat} {p : Prog} (h : p.Within (Upd.besideDom k)) (s : Dev) : (p.run s).dom k = s.dom k ∧ (p.run s).clock = s.clock :=
  h.relates (R := fun s t => t.dom k = s.dom k ∧ t.clock = s.clock) (fun _ => ⟨rfl, rfl⟩) (fun h g => ⟨g.1.trans h.1, g.2.trans h.2⟩) (fun s u hu => by
    cases u with
    | dom j x => exact ⟨by rw [dom_apply, if_neg (Ne.symm hu)], rfl⟩
    | time => exact hu.elim
    | _ => exact ⟨rfl, rfl⟩) s

/-- What a domain that has come ON holds: a cluster in its reset state, a die that runs again, a stack without contents. -/
def unitUp (k : Nat) (fromOff : Bool) (s : Dev) : Prog :=
  if 1000 ≤ k then .upd (.cl (k - 1000) { Cluster.reset with wakeAt := s.clock, idleSince := s.clock })
  else if k < 64 && k % 4 = 0 then progs [
    onTherm (k / 4) fun x => { x with pll := true },
    onDie (k / 4) fun m => { m with wakeAt := s.clock },
    forAll (s.doms.filter fun e => unc0Of e.1 = some (k / 4) && e.2.req = 1 && e.2.st == .off) fun e => riseDom e.1]
  else if 64 ≤ k && k < 96 && fromOff then progs [.upd (.stackLost (k - 64)), onStack (k - 64) Stack.anew]
  else .skip

theorem within_riseDom_beside {j k : Nat} (h : j ≠ k) : (riseDom j).Within (Upd.besideDom k) := by
  simp [riseDom, riseReq, onDom, onPower, Upd.besideDom, h]

theorem within_unitUp (k : Nat) (fromOff : Bool) (s : Dev) : (unitUp k fromOff s).Within (Upd.besideDom k) := by
  unfold unitUp
  split_ifs with h1 h2 h3
  · trivial
  · simp only [within_progs_cons, within_progs_nil, within_forAll, onTherm, onDie, within_look, within_upd, and_true]
    refine ⟨fun _ => trivial, fun _ => trivial, fun e he => within_riseDom_beside fun hk => ?_⟩
    simp only [Bool.and_eq_true, decide_eq_true_eq] at h2
    have hu := (List.mem_filter.mp he).2
    rw [hk, unc0Of, if_neg h1, if_neg (by simp [h2])] at hu
    cases hu
  · exact ⟨trivial, fun _ => trivial, trivial⟩
  · trivial

section
variable {s : Dev} {k : Nat} {q : Trans}

/-- The ready time of a domain asked ON comes: it is ON, and what it holds is there. -/
theorem domainReady_run (hq : (s.dom k).tr = some q) (hu : q.up = true) (hg : q.granted = true) (hr : (s.dom k).req = 1) : (domainReadyProg k).run s
    = (unitUp k q.fromOff (s.apply (.time (q.readyAt - s.clock)))).run ((s.apply (.time (q.readyAt - s.clock))).apply (.dom k ⟨.on, 1, none⟩)) := by
  have hrun : (domainReadyProg k).run s = (settle k).run ((unitUp k q.fromOff (s.apply (.time (q.readyAt - s.clock)))).run
      ((s.apply (.time (q.readyAt - s.clock))).apply (.dom k ⟨.on, (s.dom k).req, none⟩))) := by
    rw [domainReadyProg, run_look, hq]
    dsimp only
    rw [hu, hg]
    rfl
  have hdom := ((within_unitUp k q.fromOff (s.apply (.time (q.readyAt - s.clock)))).besideDom
    ((s.apply (.time (q.readyAt - s.clock))).apply (.dom k ⟨.on, 1, none⟩))).1
  rw [dom_apply, if_pos rfl] at hdom
  rw [hrun, hr, settle_on_stays (by rw [hdom]) (by rw [hdom]; exact one_ne_zero) (by rw [hdom]; exact fun h => absurd h.1 (by decide))]

theorem domainReady_idle (h : ∀ q, (s.dom k).tr = some q → ¬(q.up = true ∧ q.granted = true)) : (domainReadyProg k).run s = s := by
  rw [domainReadyProg, run_look]
  cases hq : (s.dom k).tr with
  | none => rfl
  | some q =>
    dsimp only
    rw [run_only, if_neg (by rw [Bool.and_eq_true]; exact h q hq)]

/-! ### A domain goes (R25, R498) -/

theorem sameBut_stackRetain (n : Nat) (s : Dev) : s.sameBut ((stackRetain n).run s) [.regs, .stackTab] :=
  Prog.Within.sameBut (by simp [stackRetain, onStack, Upd.parts]) s

/-- A cluster that goes is in its reset state. -/
theorem cl_domLost (h : 1000 ≤ k) (s : Dev) : ((domLost k).run s).cl (k - 1000) = Cluster.reset := by
  rw [domLost, run_look, run_progs_cons, run_progs_cons, run_progs_nil, if_pos h, run_progs_cons, run_progs_cons, run_progs_nil, run_upd, run_upd]
  rw [(sameBut_apply _ (.zero _ _)).cl (by simp [Upd.parts]), cl_apply, if_pos rfl]

/-- What goes with a domain as its switch opens. -/
def unitDown (k : Nat) (q : Trans) : Prog := if q.dest == .retain then stackRetain (k - 64) else domLost k

theorem sameBut_unitDown (k : Nat) (q : Trans) (s : Dev) : s.sameBut ((unitDown k q).run s) lostParts := by
  rw [unitDown]
  split
  · exact (sameBut_stackRetain _ s).mono (by simp [lostParts])
  · exact sameBut_domLost k s

/-- UNC0 of the die, which may have waited for a domain, settles (R38). -/
def unc0Settles (k : Nat) : Prog := match unc0Of k with
  | some d => settle (4 * d)
  | none => .skip

theorem unc0Settles_frame (hk : k < 3688) (s : Dev) : s.sameBut ((unc0Settles k).run s) [.doms, .power] ∧ ((unc0Settles k).run s).dom k = s.dom k := by
  unfold unc0Settles
  cases hd : unc0Of k with
  | none => exact ⟨sameBut_refl s _, rfl⟩
  | some d =>
    obtain ⟨hne, hu⟩ := unc0Of_ne hk hd
    obtain ⟨hframe, hothers⟩ := sameButDoms_settle_unc0 hu s
    exact ⟨hframe, hothers k (Ne.symm hne)⟩

/-- A granted falling transition is carried out within 8 always-on cycles, unless the domain is asked ON meanwhile. -/
theorem towpath_run (hq : (s.dom k).tr = some q) (hu : q.up = false) (hg : q.granted = true) (hd : q.dest = .off ∨ q.dest = .retain)
    (hr : (s.dom k).req ≠ 1) : ∃ dt, 0 < dt ∧ dt ≤ 2560 ∧ (towpathCommandProg k).run s
      = (unc0Settles k).run ((unitDown k q).run (((s.apply .fresh).apply (.time dt)).apply (.dom k ⟨q.dest, (s.dom k).req, none⟩))) := by
  refine ⟨(Config.freeNat s.free % 8 + 1) * 320, by omega, by omega, ?_⟩
  generalize hw : (unitDown k q).run _ = w
  have hdom : w.dom k = ⟨q.dest, (s.dom k).req, none⟩ := by
    rw [← hw, (sameBut_unitDown k q _).dom (by decide), dom_apply, if_pos rfl]
  have hrun : (towpathCommandProg k).run s = (unc0Settles k).run ((settle k).run w) := by
    rw [towpathCommandProg, run_look, hq]
    dsimp only
    rw [hu, hg, ← hw]
    rfl
  rw [hrun, settle_stays (by rw [hdom]; rcases hd with h | h <;> simp [h]) (by rw [hdom]; exact hr)]
end

/-! ### Clocks of engines (R119, R236) -/

theorem bitAt_clear (v b j : Nat) : bitAt (v - if bitAt v b then 2 ^ b else 0) j = (bitAt v j && decide (j ≠ b)) := by
  have hv : (v - if bitAt v b then 2 ^ b else 0) = setBits v b b 0 := by
    rw [setBits, bits_one, Nat.zero_mod, Nat.zero_mul, Nat.add_zero]
    cases bitAt v b <;> simp [b2n]
  rw [hv, bitAt_setBits]
  by_cases hj : j = b
  · subst hj
    rw [if_pos ⟨le_refl j, le_refl j⟩]
    simp [bitAt]
  · rw [if_neg (by omega)]
    simp [hj]

end Sys2Proof.Machine
end

section
/-! CERTIFICATE. The weir's slots, domains that come and go, and the clocks of engines (R25, R119, R236, R490 to R493, R496, R498). -/

namespace Sys2Proof.Machine

/-! ### WEIR_SLOT -/

/-- A slot's grants in both directions; which falling steps are void is told by the time after the slot. -/
theorem weirSlot_grants {s : Dev} (hc : canonical domDef s.doms = true)
    (h : ∀ j, 64 ≤ j → j < 96 → ¬((s.dom j).st = .retain ∧ (s.dom j).req = 1)) :
    (weirSlotProg.run s).clock = s.clock + 320 ∧ (weirSlotProg.run s).power.slots = s.power.slots + 1
      ∧ s.slotRise (weirSlotProg.run s).power.rise (weirSlotProg.run s).power.riseHold
      ∧ s.slotFall (Dev.fallVoid { s with clock := s.clock + 320 }) (weirSlotProg.run s).power.fall (weirSlotProg.run s).power.fallHold := by
  obtain ⟨hk, hf, hfh, hrise⟩ := riseSlot_run s.slotStart
  generalize hu : (riseSlot s.slotStart).run s.slotStart = u at hk hf hfh hrise
  obtain ⟨hk', hr, hrh, hfall⟩ := fallSlot_run u
  generalize hv : (fallSlot u).run u = v at hk' hr hrh hfall
  have hframe := sameBut_countHeld v
  have hkept := slotKept_trans hk hk'
  rw [Dev.slotFall, hk.fallVoid, Dev.slotBudget, hk.fld, hf, hfh] at hfall
  rw [weirSlot_run hc h, hu, hv, hframe.clock (by decide), hframe.power (by decide), hr, hrh]
  exact ⟨hkept.clock, hkept.field Power.slots fun _ => rfl, hrise, hfall⟩

/-- A lone rising step of a domain that fits and that R493 lets rise: it is charged, and its domain will be ready after its time (R490, R491). -/
theorem weirSlot_lone {s : Dev} (hc : canonical domDef s.doms = true)
    (h : ∀ j, 64 ≤ j → j < 96 → ¬((s.dom j).st = .retain ∧ (s.dom j).req = 1)) {y : WeirStep} (hr : s.power.rise = [y]) (hf : s.power.fall = [])
    (hh : s.power.riseHold = 0) (hb : s.weirUnits y.mw ≤ s.slotBudget) (hs : y.sub = 0) (hm : s.slotStart.mayRise (s.weirUnits y.mw) = true) :
    (weirSlotProg.run s).power.rise = [] ∧ (weirSlotProg.run s).power.chargedFor y.dom 0 = s.weirUnits y.mw
      ∧ (weirSlotProg.run s).dom y.dom = { s.dom y.dom with tr := (s.dom y.dom).tr.map (readyFrom (s.clock + 320) y.dom) } := by
  have hrun := riseSlot_lone (s := s.slotStart) hr hh hb hm
  obtain ⟨hk, hp⟩ := grantRise_kept y (s.weirUnits y.mw) s.slotStart
  have hdom : ((grantRise y (s.weirUnits y.mw)).run s.slotStart).dom y.dom
      = { s.dom y.dom with tr := (s.dom y.dom).tr.map (readyFrom (s.clock + 320) y.dom) } := by
    rw [grantRise_run, run_only, if_pos (by rw [hs]; rfl), run_onDom, dom_apply, if_pos rfl, dom_weirGranted]
    rfl
  rw [weirSlot_run hc h, hrun]
  generalize hu : (grantRise y _).run s.slotStart = u
  rw [show (grantRise y (s.weirUnits y.mw)).run s.slotStart = u from hu] at hp hdom
  obtain ⟨hd, hch, hri⟩ := fallSlot_empty (s := u) (by rw [hp]; exact hf)
  have hframe := sameBut_countHeld ((fallSlot u).run u)
  rw [hframe.power (by decide), hframe.dom (by decide), Power.chargedFor, hch, hri, hd, hp]
  refine ⟨congrArg (List.drop 1) hr, ?_, hdom⟩
  rw [chargedRise, if_neg (by omega), hs]
  exact sget_sput_same ..

/-! ### DOMAIN_READY and TOWPATH_COMMAND -/

section
variable {s : Dev} {k : Nat} {q : Trans}

/-- A domain comes ON at its ready time. -/
theorem domainReady_up (hq : (s.dom k).tr = some q) (hu : q.up = true) (hg : q.granted = true) (hr : (s.dom k).req = 1) :
    ((domainReadyProg k).run s).clock = max s.clock q.readyAt ∧ ((domainReadyProg k).run s).dom k = ⟨.on, 1, none⟩ := by
  have hc : s.clock + (q.readyAt - s.clock) = max s.clock q.readyAt := by omega
  obtain ⟨hdom, hclock⟩ := (within_unitUp k q.fromOff (s.apply (.time (q.readyAt - s.clock)))).besideDom
    ((s.apply (.time (q.readyAt - s.clock))).apply (.dom k ⟨.on, 1, none⟩))
  rw [domainReady_run hq hu hg hr, hdom, hclock]
  exact ⟨hc, (dom_apply ..).trans (if_pos rfl)⟩

/-- A cluster comes ON in its reset state (R333). -/
theorem domainReady_cluster (hq : (s.dom k).tr = some q) (hu : q.up = true) (hg : q.granted = true) (hr : (s.dom k).req = 1) (hk : 1000 ≤ k) :
    s.sameBut ((domainReadyProg k).run s) [.clock, .doms, .clusters]
      ∧ ∀ j, ((domainReadyProg k).run s).cl j = if j = k - 1000
        then { Cluster.reset with wakeAt := max s.clock q.readyAt, idleSince := max s.clock q.readyAt } else s.cl j := by
  have hc : s.clock + (q.readyAt - s.clock) = max s.clock q.readyAt := by omega
  rw [domainReady_run hq hu hg hr, unitUp, if_pos hk, run_upd, ← hc]
  exact ⟨rfl, fun j => cl_apply ..⟩

/-- A stack that comes ON from OFF reads 0 (R498). -/
theorem domainReady_stack (hq : (s.dom k).tr = some q) (hu : q.up = true) (hg : q.granted = true) (hr : (s.dom k).req = 1) (hk : 64 ≤ k) (hk' : k < 96)
    (hoff : q.fromOff = true) {a : Nat} (ha : a < stackEnd) (hn : s.stackNo a = k - 64) : ((domainReadyProg k).run s).byteAt a = 0 := by
  rw [domainReady_run hq hu hg hr, unitUp, if_neg (by omega), if_neg (by simp; omega), if_pos (by simp [hk, hk', hoff]), run_progs_cons, run_progs_cons,
    run_progs_nil, run_upd]
  refine Eq.trans (Dev.sameBut.byteAt (l := [.stackTab]) rfl (by decide) (by decide) (by rw [isReg, show place a = .stack from if_pos ha])) ?_
  exact byteAt_stackLost ha hn

/-- A granted falling transition ends within 8 always-on cycles (R25, R498). -/
theorem towpath_down (hk : k < 3688) (hq : (s.dom k).tr = some q) (hu : q.up = false) (hg : q.granted = true) (hd : q.dest = .off ∨ q.dest = .retain)
    (hr : (s.dom k).req ≠ 1) :
    ((towpathCommandProg k).run s).clock > s.clock ∧ ((towpathCommandProg k).run s).clock ≤ s.clock + 2560
      ∧ (((towpathCommandProg k).run s).dom k).st = q.dest ∧ (((towpathCommandProg k).run s).dom k).tr = none
      ∧ (q.dest = .off → 1000 ≤ k → ((towpathCommandProg k).run s).cl (k - 1000) = Cluster.reset)
      ∧ (q.dest = .retain → s.sameMemory ((towpathCommandProg k).run s)) := by
  obtain ⟨dt, h0, h1, hrun⟩ := towpath_run hq hu hg hd hr
  generalize hv : ((s.apply .fresh).apply (.time dt)).apply (.dom k ⟨q.dest, (s.dom k).req, none⟩) = v at hrun
  have hdown := sameBut_unitDown k q v
  obtain ⟨hframe, hdom⟩ := unc0Settles_frame hk ((unitDown k q).run v)
  have hclock : ((towpathCommandProg k).run s).clock = s.clock + dt := by
    rw [hrun, hframe.clock (by decide), hdown.clock (by decide), ← hv]
    rfl
  have hk : ((towpathCommandProg k).run s).dom k = ⟨q.dest, (s.dom k).req, none⟩ := by
    rw [hrun, hdom, hdown.dom (by decide), ← hv, dom_apply, if_pos rfl]
  refine ⟨by omega, by omega, by rw [hk], by rw [hk], fun hoff hcl => ?_, fun hret => ?_⟩
  · rw [hrun, hframe.cl (by decide), unitDown, if_neg (by rw [hoff]; decide), cl_domLost hcl]
  · have hmem : v.sameBut ((unitDown k q).run v) [.regs, .stackTab] := by
      rw [unitDown, if_pos (by rw [hret]; rfl)]
      exact sameBut_stackRetain _ v
    rw [Dev.sameMemory, hrun, hframe.mem (by decide), hframe.undef (by decide), hmem.mem (by decide), hmem.undef (by decide), ← hv]
    exact ⟨rfl, rfl⟩
end

/-! ### Clocks of engines -/

section
variable {s : Dev} {k : Nat}

/-- An idle engine asks for its falling step (R119). -/
theorem engineClockGate_run {e : Nat} (hon : s.clusterOn (k / 168) (k % 168) = true) (hi : s.clockIdle k e = true)
    (hc : 6 ≤ e ∨ s.power.chargedFor (clDom k) (clockSub e) ≠ 0) (hn : ∀ z, z ∈ s.power.fall → ¬(z.dom = clDom k ∧ z.sub = clockSub e)) :
    (engineClockGateProg k e).run s = { s with
      clock := max s.clock (sget (fun _ => 0) (s.cl k).engIdle e + 5120)
      power := { s.power with
        fall := stepInsert ⟨clDom k, clockSub e, domPos (clDom k), subMw (clockSub e), s.power.chargedFor (clDom k) (clockSub e), s.power.slots⟩ s.power.fall } } := by
  have ht : s.clock + (sget (fun _ => 0) (s.cl k).engIdle e + 5120 - s.clock) = max s.clock (sget (fun _ => 0) (s.cl k).engIdle e + 5120) := by omega
  rw [engineClockGateProg, run_look, run_only, if_pos (by rw [hon, hi]; simpa using hc), run_progs_cons, run_progs_cons, run_progs_nil, run_upd,
    fallReq_run (by exact hn), ← ht]
  rfl

/-- An idle vector engine asks for its falling step (R236). -/
theorem vectorClockGate_run {core : Nat} (hon : s.clusterOn (k / 168) (k % 168) = true) (hg : ((s.cl k).core core).vecGated = false)
    (hc : s.power.chargedFor (clDom k) (7 + core) ≠ 0) (hn : ∀ z, z ∈ s.power.fall → ¬(z.dom = clDom k ∧ z.sub = 7 + core)) :
    (vectorClockGateProg k core).run s = { s with
      clock := max s.clock (((s.cl k).core core).vecIdle + 2560)
      power := { s.power with
        fall := stepInsert ⟨clDom k, 7 + core, domPos (clDom k), 5, s.power.chargedFor (clDom k) (7 + core), s.power.slots⟩ s.power.fall } } := by
  have ht : s.clock + (((s.cl k).core core).vecIdle + 2560 - s.clock) = max s.clock (((s.cl k).core core).vecIdle + 2560) := by omega
  rw [vectorClockGateProg, run_look, run_only, if_pos (by rw [hon, hg]; simpa using hc), run_progs_cons, run_progs_cons, run_progs_nil, run_upd,
    fallReq_run (by exact hn), ← ht]
  rfl

theorem subMw_clockSub (e : Nat) (h : e < 12) : subMw (clockSub e) = if e < 4 then 800 else if e < 6 then 150 else 0 := by
  interval_cases e <;> rfl

/-- A granted clock of an engine runs 20 ns after its grant. -/
theorem engineClockReady_engine {e i : Nat} (hon : s.clusterOn (k / 168) (k % 168) = true) (hh : s.power.holdsStep (clDom k) (i + 1) = true)
    (hi : (i = e ∧ e < 6) ∨ (i = e + 112 ∧ 6 ≤ e)) (hr : bitAt (s.cl k).gateReq e = true) : (engineClockReadyProg k i).run s
      = (s.apply (.time 20)).apply (.cl k { s.cl k with
        gated := (s.cl k).gated - (if bitAt (s.cl k).gated e then 2 ^ e else 0)
        gateReq := (s.cl k).gateReq - 2 ^ e
        engIdle := sput (s.cl k).engIdle e (s.clock + 20) }) := by
  have he : (if i < 6 then i else i - 112) = e := by split <;> omega
  rw [engineClockReadyProg, run_look, run_only, if_pos (by rw [hon, hh]; rfl)]
  dsimp only
  rw [he, if_pos (by simp; omega), run_only, if_pos hr]
  rfl

/-- So does that of a vector engine. -/
theorem engineClockReady_vector {core : Nat} (hc : core < 112) (hon : s.clusterOn (k / 168) (k % 168) = true)
    (hh : s.power.holdsStep (clDom k) (6 + core + 1) = true) (hr : ((s.cl k).core core).vecReq = true) : (engineClockReadyProg k (6 + core)).run s
      = (onCore k core fun x => { x with vecGated := false, vecReq := false, vecIdle := s.clock + 20 }).run (s.apply (.time 20)) := by
  rw [engineClockReadyProg, run_look, run_only, if_pos (by rw [hon, hh]; rfl)]
  rw [if_neg (by simp; omega), Nat.add_sub_cancel_left, run_only, if_pos hr]
  rfl
end

/-! ### The statement -/

/-- Settles O33: a slot's grants are `Grants` in each direction, and every other clause is the program of its command run once. That the clocks of SF and coder
cores fall by a step of 0 mW is the model's choice (log 43). -/
theorem weirGrants : Obligations.WeirGrants := by
  unfold Obligations.WeirGrants
  intro s k c e h w b x cd hsound
  have hdoms := canonical_doms hsound
  have hb : s.m.slotBudget = b := slotBudget_eq s.m
  refine ⟨fun hnone => completes_of (p := weirSlotProg) rfl ?slot, fun q hq hu hg hr => completes_of (p := domainReadyProg k) rfl ?ready,
    fun hn => becomes_of (p := domainReadyProg k) rfl (domainReady_idle hn), fun q hq hu hg hd hr => completes_of (p := towpathCommandProg k) rfl ?towpath,
    fun hon hgated hreq hidle hch hn => becomes_of (p := engineClockGateProg c e) rfl ?engine,
    fun hon hgated hch hn => becomes_of (p := vectorClockGateProg c h) rfl (vectorClockGate_run hon hgated hch hn),
    fun i hon hheld => ⟨fun hi hreq => completes_of (p := engineClockReadyProg c i) rfl ?restart,
      fun hi hreq => completes_of (p := engineClockReadyProg c i) rfl ?restartVector⟩⟩
  case slot =>
    obtain ⟨hclock, hslots, hrise, hfall⟩ := weirSlot_grants hdoms hnone
    rw [Dev.slotRise, hb] at hrise
    rw [Dev.slotFall, hb] at hfall
    refine ⟨hclock, hslots, hrise, hfall, fun y hr hf hh hfit hs hm => ?_⟩
    rw [hclock] at hm ⊢
    have hmay : s.m.slotStart.mayRise (s.m.weirUnits y.mw) = true := by
      obtain ⟨h1, h2, h3, h4⟩ := hm
      simp only [Dev.mayRise, Bool.and_eq_true, Bool.not_eq_true', decide_eq_true_eq]
      exact ⟨⟨⟨h1, h2⟩, h3⟩, h4⟩
    obtain ⟨hempty, hcharged, hdom⟩ := weirSlot_lone hdoms hnone hr hf hh (hb ▸ hfit) hs hmay
    refine ⟨hempty, hcharged, fun q hq hu => ?_⟩
    rw [hdom, hq, Option.map_some, readyFrom, if_pos hu]
  case ready =>
    obtain ⟨hclock, hdom⟩ := domainReady_up hq hu hg hr
    refine ⟨hclock, hdom, fun hk => ?_, fun hk hk' hoff a ha hn => domainReady_stack hq hu hg hr hk hk' hoff ha hn⟩
    obtain ⟨hframe, hcl⟩ := domainReady_cluster hq hu hg hr hk
    refine ⟨fun j hj => (hcl j).trans (if_neg hj), hframe, ?_⟩
    rw [hcl, if_pos rfl, hclock]
  case towpath =>
    obtain ⟨h1, h2, hst, htr, hcl, hmem⟩ := towpath_down k.isLt hq hu hg hd hr
    exact ⟨h1, h2, hst, htr, hcl, fun hret _ _ => hmem hret⟩
  case engine =>
    have hc : 6 ≤ e.val ∨ w.chargedFor cd (clockSub e) ≠ 0 := by
      rcases hch with hch | hch
      · exact .inl hch
      · by_cases he : e.val < 6
        · exact .inr (by rw [clockSub, if_pos he]; exact hch)
        · exact .inl (by omega)
    have hi : s.m.clockIdle c e = true := by
      rw [Dev.clockIdle, hgated, hreq]
      simp only [Bool.not_false, Bool.true_and, Bool.not_eq_true', List.any_eq_false, Bool.and_eq_true, Bool.or_eq_true, beq_iff_eq, List.contains_iff_mem]
      rintro y hy ⟨hs, hm⟩
      obtain ⟨h1, h2⟩ := hidle y hy hm
      exact hs.elim h1 h2
    rw [engineClockGate_run hon hi hc hn, subMw_clockSub e e.isLt]
    rfl
  case restart =>
    rw [engineClockReady_engine hon hheld hi hreq]
    refine ⟨rfl, fun j hj => (cl_apply ..).trans (if_neg hj), rfl, fun j _ => ?_⟩
    rw [cl_apply, if_pos rfl]
    have hclear := bitAt_clear (s.m.cl c).gateReq e j
    rw [if_pos hreq] at hclear
    exact ⟨bitAt_clear .., hclear⟩
  case restartVector =>
    rw [hi] at hheld ⊢
    rw [engineClockReady_vector h.isLt hon hheld hreq]
    refine ⟨rfl, fun j hj => (cl_apply ..).trans (if_neg hj), rfl, ?_⟩
    exact (congrArg (fun y : Cluster => y.core h) ((cl_apply ..).trans (if_pos rfl))).trans ((core_set ..).trans (if_pos rfl))

end Sys2Proof.Machine
end

section
/-! SUPPORT. What a statement about a command that may post writes says of its program; accesses that meet nothing; concrete machines with a running
instruction. -/

namespace Sys2Proof.Machine

/-- What a statement says of a command that may post writes, it says of the device that the command's program leaves. -/
theorem of_completes {c : Instr} {s : State} {p : Prog} {P : Dev → Prop} (h : exec c s = s.performPosting p) (hc : completes c s P) :
    P ((arrive s.m.unitWrites.length).run (p.run s.m)) := by
  obtain ⟨t, ht, -, hP⟩ := hc
  cases h.symm.trans ht
  exact hP

/-- Accesses that come to one piece, cached by one page and allowed, in a stack or store that can be reached, meet nothing. -/
theorem granted_piece {s : Dev} {k dpa : Nat} {l : List VAcc} {a : VAcc}
    (h : vaPieces l = [a] ∧ s.xlate (k / 168) (k % 168) a.va a.access = .hit dpa ∧ memPlace dpa = true ∧ s.reachFor dpa a.len a.access = .ok
      ∧ (s.die (k / 168)).once = [] ∧ tlbApart (s.cl k).tlb = true ∧ tlbPages (s.cl k).tlb = true) : s.granted k l false := by
  obtain ⟨hpieces, hhit, hmem, hreach, honce, hapart, hpages⟩ := h
  refine ⟨fun b hb => ?_, ?_, fun hown => absurd hown (by decide), honce, hapart, hpages⟩
  · rw [hpieces, List.mem_singleton] at hb
    exact ⟨dpa, hb ▸ hhit, hmem⟩
  · simp only [Dev.meets, hpieces, Dev.meetsPieces, hhit, hreach]

/-- The machine whose device is the reset device after some updates, with no command waiting. -/
@[irreducible] def State.built (l : List Upd) : State := ⟨[], l.foldl Dev.apply Dev.reset⟩

/-- Stacks S0 and S1, which hold the trace ring, are on, and TRACE holds its claim (R483, R560). -/
def tracing : List Upd := [.dom 64 ⟨.on, 1, none⟩, .dom 65 ⟨.on, 1, none⟩, .reg (regAddr .res 20 0 (R.RES_CLAIM + 16)) 6]

/-- The first entry of the trace ring (R556). -/
def firstTraced : Nat := dumpAddr 0

/-- A page of 64 KiB that may be read and written. -/
def rwPage (va dpa : Nat) : Tlb := ⟨va, 16, dpa, true, true, false, 0, false⟩

/-- A running MATMUL on array 0, of one row, one column and one reduction index, as instruction 9 under tag 5: W3 is `w3`, its argument block of 256 bytes
at 0x10000 holds the given words and zeros, and its member stands before its first pass. -/
def runningMatmul (w3 : Nat) (words : List Nat) : Entry where
  uid := 9
  tag := 5
  w0 := 1
  w1 := BitVec.ofNat 64 (0x10000 + 4 * 2 ^ 48)
  w2 := BitVec.ofNat 64 (1 + 2 ^ 24 + 2 ^ 40)
  w3 := BitVec.ofNat 64 w3
  cmd := 0
  prio := 0
  fast := false
  deps := []
  depsDone := true
  stage := .running
  args := (words ++ List.replicate (32 - words.length) 0).flatMap (leBytes 8)
  captured := []
  issued := true
  run := { Run.start with members := [⟨0, 0, 0, [], [], false⟩] }
  waits := []
  resumed := false
  depFailed := false
  pinned := []
  holds := []
  tIssue := 0

/-- Its input lies at 0x20000, its output at 0x30000, its weights at 0x40000; no function is applied. -/
def plainMatmul : Entry := runningMatmul (15 * 2 ^ 12) [0x20000, 64, 0, 0, 0x30000, 64, 0, 0, 0x40000 + 72 * 2 ^ 48]

end Sys2Proof.Machine
end

section
/-! CERTIFICATE. Passes of the tensor core (R127, R278, R560): a re-run reads the argument block after its parity fault has been traced. -/

namespace Sys2Proof.Machine

/-- Its member, before the one pass of its one output tile. -/
def rerunMember : Member := ⟨0, 0, 0, [], [], false⟩

/-- The page of the instruction's argument block is that of the trace ring, and commands are traced; array 0 holds the tile of the pass. -/
def rerunTraced : State := .built (tracing ++ [.reg (regAddr .dmmu 20 0 R.DMMU_ROOT_LO) 1, .mem firstTraced plainMatmul.args,
  .cl 0 { Cluster.reset with
    entries := [plainMatmul]
    tlb := [rwPage 0x10000 firstTraced]
    engines := [(0, ⟨⟨9, posCode 0 0, 72, [], []⟩, WTile.none, true⟩)] }])

/-- The argument block can be read. -/
theorem rerunTraced_granted : rerunTraced.m.granted 0 (readsOf [(plainMatmul.d.args, 64 * plainMatmul.d.argLen)]) false :=
  granted_piece (a := ⟨0x10000, 256, accRead⟩) (dpa := firstTraced) (by decide +kernel)

/-- Byte 12 of the argument block is 0; that of the block read again is the class of the log entry, 3. -/
theorem rerunTraced_args : (rerunTraced.m.vaBytes 0 0 plainMatmul.d.args (64 * plainMatmul.d.argLen)).getD 12 0 = 0
    ∧ (((arrive rerunTraced.m.unitWrites.length).run ((passProg 1 0 0 true).run rerunTraced.m)).entryNo 0 9).map (·.args.getD 12 0) = some 3 := by
  decide +kernel

/-- Refutes O26: after a parity error the argument block is said to become the bytes that its address held before the command, but the fault record of the
error is an entry of the event log, which a held trace claim writes to the trace ring (R560) before the block is read again; here the block lies in the ring:
the statement does not ask that it lie in the own store, as staging does (R278). -/
theorem not_tensorPasses : ¬ Obligations.TensorPasses := by
  unfold Obligations.TensorPasses
  intro h
  obtain ⟨hpass, -⟩ := h rerunTraced 0 plainMatmul rerunMember (by unfold Dev.errorless; decide +kernel) (by decide +kernel) (by decide +kernel)
  obtain ⟨-, hrun⟩ := hpass 0 (by decide +kernel) (by decide +kernel) (by decide +kernel) (by decide +kernel) (by decide +kernel) (by decide +kernel)
  obtain ⟨-, hparity⟩ := hrun 0 0 (by decide +kernel)
  have hc := (hparity (by decide) (by decide +kernel) (by decide) rfl rerunTraced_granted).1 (by decide)
  obtain ⟨y, hy, -, hargs, -⟩ := of_completes (p := passProg 1 0 0 true) rfl hc
  obtain ⟨hbefore, hafter⟩ := rerunTraced_args
  have hsame : some (y.args.getD 12 0) = some 3 := (congrArg (Option.map fun z : Entry => z.args.getD 12 0) hy).symm.trans hafter
  rw [hargs, Option.some_inj] at hsame
  exact absurd (hbefore.symm.trans hsame) (by decide)

end Sys2Proof.Machine
end

section
/-! CERTIFICATE. Output tiles (R76, R132, R342): a row record that lies in a register changes while the tile's operands are read. -/

namespace Sys2Proof.Machine

/-- Its output lies at 0x10400, its bias at 0x10000, its row records at 0x20118; the output multiplier is 2^24, so that a code is the row's value v. -/
def recordMatmul : Entry :=
  runningMatmul (15 * 2 ^ 12 + 2 * 2 ^ 7 + 2 ^ 11) [0, 64, 0, 0, 0x10400, 64, 0, 0, 0x40000 + 72 * 2 ^ 48, 0x10000, 1 + 39 * 2 ^ 16, 0, 0x20118]

/-- Its finished tile: one accumulator, 1. -/
def recordTile : DoneTile := ⟨9, 0, 0, [1]⟩

/-- The row records are in the registers of stack 0, the first in STK_ZC_SAVED: a scale whose significand is the counter's low half, 5. Bias and output are in
stack 0, the bias in a block stored in the ZERO form. -/
def recordInRegister : State := .built [.dom 64 ⟨.on, 1, none⟩, .reg (regAddr .dmmu 20 0 R.DMMU_ROOT_LO) 1,
  .stack 0 { Stack.reset with zc := [(0x20000 / 256, 0)] }, .reg (regAddr .stk 0 0 R.STK_ZC_SAVED) (5 + 15 * 2 ^ 16),
  .cl 0 { Cluster.reset with
    entries := [recordMatmul]
    tlb := [rwPage 0x10000 0x20000, rwPage 0x20000 (blockBase .stk 0 0)]
    doneTiles := [recordTile] }]

/-- The tile's reads, its bias alone, meet nothing. -/
theorem recordInRegister_reads : recordInRegister.m.granted 0 (readsOf ((recordInRegister.m.ctx 0 recordMatmul).epeReads [0] 0 1)) false :=
  granted_piece (a := ⟨0x10000, 4, accRead⟩) (dpa := 0x20000) (by decide +kernel)

/-- The read of the bias saves the eight bursts of its block, which STK_ZC_SAVED counts: the scale's significand, and so the code written, is 13. -/
theorem recordInRegister_after :
    ((arrive recordInRegister.m.unitWrites.length).run ((epeProg 0 false).run recordInRegister.m)).byteAt 0x20400 = 13 := by decide +kernel

/-- Refutes O27: the codes of a tile are said to be those that its row records give before the command. The ranges whose access is asked for leave the records
of IMODE 2 out (`TCtx.epeReads`), so that they may lie in a register; here they lie in STK_ZC_SAVED, and the read of the bias from a compressed block (R342)
counts it up before the records are read: the code is 13, not 5. The statement does not ask that every operand lie in the own store, as staging does (R278). -/
theorem not_outputTilesAndCommit : ¬ Obligations.OutputTilesAndCommit := by
  unfold Obligations.OutputTilesAndCommit
  intro h
  obtain ⟨htile, -⟩ := h recordInRegister 0 recordMatmul (by unfold Dev.errorless; decide +kernel) (by decide +kernel)
  have hstatic := (htile recordTile [] (by decide +kernel) rfl (by decide +kernel) recordInRegister_reads).1 (by decide)
  have hc := hstatic (granted_piece (a := ⟨0x10400, 1, accWrite⟩) (dpa := 0x20400) (by decide +kernel))
  obtain ⟨⟨hwrote, -⟩, -⟩ := of_completes (p := epeProg 0 false) rfl hc
  have hclaimed : _ = (5 : Byte) := (hwrote 0x20400 (by decide)).trans (by decide +kernel)
  exact absurd (recordInRegister_after.symm.trans hclaimed) (by decide)

end Sys2Proof.Machine
end

section
/-! CERTIFICATE. Stops of tensor work (R128, R560): the fault record of a stopped instruction is traced. -/

namespace Sys2Proof.Machine

/-- Translation is off, so that every access of the instruction faults, and commands are traced. -/
def strayedTraced : State := .built (tracing ++ [.cl 0 { Cluster.reset with entries := [plainMatmul] }])

/-- The first operand of the instruction faults: translation is off. -/
theorem strayedTraced_faults : vaPieces (opAccs (strayedTraced.m.stageOps 0 plainMatmul)) = [] ++ ⟨0x20000, 1, 0⟩ :: [⟨0x30000, 1, 1⟩, ⟨0x40000, 4608, 0⟩]
    ∧ strayedTraced.m.xlate 0 0 0x20000 0 = .fault 1 0 := by decide +kernel

/-- The fault record goes to the event log, and the log entry to the trace ring: byte 12 of it, its class, is 3. -/
theorem strayedTraced_after : strayedTraced.m.mem = []
    ∧ sget memInit ((arrive strayedTraced.m.unitWrites.length).run ((feederFaultProg 0 0).run strayedTraced.m)).mem (firstTraced + 12) = 3 := by
  decide +kernel

/-- Refutes O28: FEEDER_TRANSLATION_FAULT is said to leave the memory alone, but its fault record is an entry of the event log, and while TRACE holds
resource 4 and S0 and S1 are on the entry is written to the trace ring in memory (R560); the statement lacks `Dev.untraced`. -/
theorem not_tensorStops : ¬ Obligations.TensorStops := by
  unfold Obligations.TensorStops
  rintro ⟨hfault, -⟩
  have hc := (hfault strayedTraced 0 0 plainMatmul _ _ _ 1 0 (by decide +kernel) (by decide +kernel) strayedTraced_faults.1
    (fun _ hb => absurd hb List.not_mem_nil) (.inl strayedTraced_faults.2) (by decide)).1 (by decide)
  obtain ⟨⟨hmem, -⟩, -⟩ := of_completes (p := feederFaultProg 0 0) rfl hc
  obtain ⟨hbefore, hafter⟩ := strayedTraced_after
  rw [hmem.trans hbefore] at hafter
  exact absurd hafter (by decide +kernel)

end Sys2Proof.Machine
end

section
/-! CERTIFICATE. SF_EVAL (R62, R76, R284, R292, R342): a row record that lies in a register changes while the input is read. -/

namespace Sys2Proof.Machine

/-- A running SF_EVAL on core 0, of one row and one column of accumulators, with IMODE 3 and no function. Its input lies at 0x10000, its output at 0x10400; the
output multiplier is 2^24, so that a code is the row's value v. -/
def reservedModeEval : Entry :=
  { runningMatmul (15 * 2 ^ 12 + 3 * 2 ^ 7) [0x10000, 64, 0, 0, 0x10400, 64, 0, 0, 0, 0, 1 + 39 * 2 ^ 16, 0, 0x20118] with
    w0 := 0x1810
    w2 := BitVec.ofNat 64 (1 + 2 ^ 24 + 2 ^ 61)
    run := Run.start }

/-- The row records are in the registers of stack 0, the first in STK_ZC_SAVED: a scale whose significand is the counter's low half, 5. Input and output are in
stack 0; the input is one accumulator, 1, in a block stored in the SPARSE form with one non-zero word. -/
def scaleInRegister : State := .built [.dom 64 ⟨.on, 1, none⟩, .reg (regAddr .dmmu 20 0 R.DMMU_ROOT_LO) 1, .mem 0x20000 [1],
  .stack 0 { Stack.reset with zc := [(0x20000 / 256, 1)] }, .reg (regAddr .stk 0 0 R.STK_ZC_SAVED) (5 + 15 * 2 ^ 16),
  .cl 0 { Cluster.reset with
    entries := [reservedModeEval]
    tlb := [rwPage 0x10000 0x20000, rwPage 0x20000 (blockBase .stk 0 0)] }]

/-- The read of the input saves seven bursts of its block, which STK_ZC_SAVED counts: the scale's significand, and so the code written, is 12. -/
theorem scaleInRegister_after :
    ((arrive scaleInRegister.m.unitWrites.length).run ((sfEvalProg 0 0 false).run scaleInRegister.m)).byteAt 0x20400 = 12 := by decide +kernel

/-- Refutes O34: SF_EVAL is said to write the codes that the operands give before the command. With IMODE 3, which is reserved and refused at a push
(R284, R292) but which the statement does not exclude, an accumulator's row scale comes from a row record that is not among the ranges whose access is asked
for; here the record lies in STK_ZC_SAVED, which the read of the input from a compressed block (R342) counts up before the record is read: the code is 12,
not 5. -/
theorem not_functionUnits : ¬ Obligations.FunctionUnits := by
  unfold Obligations.FunctionUnits
  intro h
  obtain ⟨heval, -⟩ := h scaleInRegister 0 0 reservedModeEval (by unfold Dev.errorless; decide +kernel) (by decide +kernel)
  have hc := heval (by decide +kernel) (by decide +kernel) (by decide +kernel)
    ⟨granted_piece (a := ⟨0x10000, 8, accRead⟩) (dpa := 0x20000) (by decide +kernel),
      granted_piece (a := ⟨0x10400, 1, accWrite⟩) (dpa := 0x20400) (by decide +kernel)⟩
  obtain ⟨⟨hwrote, -⟩, -⟩ := of_completes (p := sfEvalProg 0 0 false) rfl hc
  have hclaimed : _ = (5 : Byte) := (hwrote 0x20400 (by decide)).trans (by decide +kernel)
  exact absurd (scaleInRegister_after.symm.trans hclaimed) (by decide)

end Sys2Proof.Machine
end

section
/-! SUPPORT. Commands that post no write; accesses of an instruction that meet nothing (R24, R116, R332, R347, R353). -/

namespace Sys2Proof.Machine

/-! ### Commands that post no write (R24) -/

theorem arrive_nothing {s : Dev} {n : Nat} (h : s.unitWrites.length ≤ n) : (arrive n).run s = s := by
  rw [arrive, run_look, List.drop_eq_nil_of_le h]; rfl

/-- The writes on their way lie in a part of their own. -/
theorem Dev.sameBut.unitWrites {s t : Dev} {l : List Part} (h : s.sameBut t l) (hp : Part.unitWrites ∉ l) : t.unitWrites = s.unitWrites :=
  h.field Dev.unitWrites .unitWrites (fun _ q hq => by cases q with | unitWrites => exact absurd rfl hq | _ => rfl) hp

theorem Dev.sameBut.oneBit {s t : Dev} {l : List Part} (h : s.sameBut t l) (hp : Part.oneBit ∉ l) : t.oneBit = s.oneBit :=
  h.field Dev.oneBit .oneBit (fun _ q hq => by cases q with | oneBit => exact absurd rfl hq | _ => rfl) hp

theorem Dev.sameBut.bad {s t : Dev} {l : List Part} (h : s.sameBut t l) (hp : Part.bad ∉ l) : t.bad = s.bad :=
  h.field Dev.bad .bad (fun _ q hq => by cases q with | bad => exact absurd rfl hq | _ => rfl) hp

section
variable {c : Instr} {s : State} {p : Prog}

theorem performPosting_next (h : (p.run s.m).unitWrites = s.m.unitWrites) : s.performPosting p = .next { s with m := p.run s.m } := by
  rw [State.performPosting, perform_next, run_seq, arrive_nothing (by rw [h])]

theorem completes_of_posting {P : Dev → Prop} (h : exec c s = s.performPosting p) (hw : (p.run s.m).unitWrites = s.m.unitWrites) (hP : P (p.run s.m)) :
    completes c s P :=
  ⟨_, h.trans (performPosting_next hw), rfl, hP⟩

/-- A command whose program does nothing leaves the machine as it was. -/
theorem becomes_same (h : exec c s = s.performPosting p) (hr : p.run s.m = s.m) : becomes c s s.m := by
  rw [becomes, h, performPosting_next (by rw [hr]), hr]
end

/-! ### Translation caches whose entries lie apart (R347) -/

/-- Two pages have no address in common. -/
def Tlb.apart (e f : Tlb) : Prop := f.va + 2 ^ f.lg ≤ e.va ∨ e.va + 2 ^ e.lg ≤ f.va

theorem tlbApart_iff (l : List Tlb) : tlbApart l = true ↔ l.Pairwise Tlb.apart := by
  induction l with
  | nil => simp [tlbApart]
  | cons e r ih => simp [tlbApart, ih, Tlb.apart]

/-- In a cache whose entries lie apart, the entry found for an address is the one that covers it. -/
theorem tlbFind_eq_some_iff {l : List Tlb} (h : l.Pairwise Tlb.apart) {va : Nat} {e : Tlb} :
    tlbFind l va = some e ↔ e ∈ l ∧ e.va ≤ va ∧ va < e.va + 2 ^ e.lg := by
  induction l with
  | nil => simp [tlbFind]
  | cons f r ih =>
    obtain ⟨hf, hr⟩ := List.pairwise_cons.mp h
    rw [tlbFind, List.find?_cons, ← tlbFind]
    by_cases hc : f.va ≤ va ∧ va < f.va + 2 ^ f.lg
    · rw [show (decide (f.va ≤ va) && decide (va < f.va + 2 ^ f.lg)) = true by simpa using hc]
      refine ⟨fun he => by cases he; exact ⟨List.mem_cons_self, hc⟩, fun ⟨he, hlo, hhi⟩ => ?_⟩
      rcases List.mem_cons.mp he with rfl | he
      · rfl
      · rcases hf e he with ha | ha <;> omega
    · rw [show (decide (f.va ≤ va) && decide (va < f.va + 2 ^ f.lg)) = false by simpa using hc]
      rw [ih hr, List.mem_cons]
      refine ⟨fun ⟨he, hv⟩ => ⟨.inr he, hv⟩, fun ⟨he, hv⟩ => ⟨he.resolve_left ?_, hv⟩⟩
      rintro rfl
      exact hc hv

theorem tlbFind_perm {l m : List Tlb} (h : l.Pairwise Tlb.apart) (hp : l.Perm m) (va : Nat) : tlbFind m va = tlbFind l va := by
  have hm : m.Pairwise Tlb.apart := hp.pairwise h fun hxy => hxy.symm
  refine Option.ext fun e => ?_
  rw [tlbFind_eq_some_iff h, tlbFind_eq_some_iff hm, hp.mem_iff]

theorem tlbTouch_perm (l : List Tlb) (va : Nat) : l.Perm (tlbTouch l va) := by
  rw [tlbTouch]
  split
  next e he => exact List.perm_cons_erase (List.mem_of_find?_eq_some he)
  next => exact List.Perm.refl l

theorem tlbTouches_perm (l : List Tlb) (vs : List VAcc) : l.Perm (vs.foldl (fun t a => tlbTouch t a.va) l) := by
  induction vs generalizing l with
  | nil => exact List.Perm.refl l
  | cons a r ih => exact (tlbTouch_perm l a.va).trans (ih _)

/-! ### Accesses that meet nothing -/

theorem lendOnce_none {s : Dev} {d : Nat} (h : (s.die d).once = []) (p : Nat) (mine : UnitRef → Bool) : (lendOnce d p mine).run s = s := by
  rw [lendOnce, run_look, h]; rfl

theorem returnOnce_none {s : Dev} {d : Nat} (h : (s.die d).once = []) (p : Nat) (mine : UnitRef → Bool) (l : List VAcc) :
    (returnOnce d p mine l).run s = s := by
  rw [returnOnce, run_look, h]; rfl

/-- Pages that the cluster's cache holds are not fetched from the die's. -/
theorem fillFromDie_hit {s : Dev} {d p : Nat} {l : List VAcc} (h : ∀ a, a ∈ vaPieces l → ∃ dpa, s.xlate d p a.va a.access = .hit dpa) :
    (fillFromDie d p l).run s = s := by
  refine run_forAll_keeps (P := fun t => t = s) (fun a ha t ht => ?_) rfl
  obtain ⟨dpa, hx⟩ := h a ha
  rw [ht, run_look, hx]; rfl

/-- The device after accesses of a unit of cluster `k` that meet nothing: their pages are the most recently used ones, and the ranges read are read. -/
def Dev.accessed (s : Dev) (k : Nat) (reads writes : List VAcc) : Dev :=
  (forAll reads fun a => vaTouch (k / 168) (k % 168) a.va a.len).run ((touchPages (k / 168) (k % 168) (reads ++ writes)).run s)

theorem touchPages_run (s : Dev) (k : Nat) (l : List VAcc) : (touchPages (k / 168) (k % 168) l).run s
    = s.apply (.cl k { s.cl k with tlb := (vaPieces l).foldl (fun t a => tlbTouch t a.va) (s.cl k).tlb }) := by
  rw [touchPages, if_pos (Nat.mod_lt _ (by decide)), ck_div_mod]; rfl

/-- Without errors the reads of virtual ranges change counters alone. -/
theorem sameBut_vaTouch {s : Dev} (h : s.errorless) (d p va n : Nat) : s.sameBut ((vaTouch d p va n).run s) [.regs] := by
  rw [vaTouch, run_look]
  refine run_forAll_keeps (P := fun t => s.sameBut t [.regs]) (fun q _ t ht => sameBut_trans ht (sameBut_memTouch ?_ _ _)) (sameBut_refl s _)
  exact ⟨(ht.oneBit (by decide)).trans h.1, (ht.bad (by decide)).trans h.2⟩

section
variable {s : Dev} {k : Nat} {reads writes : List VAcc} (h : s.errorless)
include h

theorem sameBut_accessed_touched :
    ((touchPages (k / 168) (k % 168) (reads ++ writes)).run s).sameBut (s.accessed k reads writes) [.regs] := by
  refine run_forAll_keeps (P := fun t => Dev.sameBut _ t [.regs]) (fun a _ t ht => sameBut_trans ht (sameBut_vaTouch ?_ _ _ _ _)) (sameBut_refl _ _)
  rw [touchPages_run] at ht
  exact ⟨(ht.oneBit (by decide)).trans h.1, (ht.bad (by decide)).trans h.2⟩

/-- Accesses that meet nothing change counters and one cluster's cache alone. -/
theorem sameBut_accessed : s.sameBut (s.accessed k reads writes) [.clusters, .regs] := by
  have ht := sameBut_accessed_touched (k := k) (reads := reads) (writes := writes) h
  rw [touchPages_run] at ht
  exact sameBut_trans ((sameBut_apply s _).mono (by simp [Upd.parts])) (ht.mono (by simp))

theorem cl_accessed (j : Nat) : (s.accessed k reads writes).cl j
    = if j = k then { s.cl k with tlb := (vaPieces (reads ++ writes)).foldl (fun t a => tlbTouch t a.va) (s.cl k).tlb } else s.cl j := by
  rw [(sameBut_accessed_touched (k := k) (reads := reads) (writes := writes) h).cl (by decide), touchPages_run, cl_apply]

theorem vaBad_errorless (d p va n : Nat) : s.vaBad d p va n = false := by
  simp [Dev.vaBad, Dev.readBad, h.2, touched]
end

/-- Accesses of an entry that meet nothing: what follows them runs on the device after them. -/
theorem unitAccess_granted {s : Dev} {k uid : Nat} {reads writes : List (Nat × Nat)} {e : Entry} {f : Prog} (w : FaultAt)
    (he : s.entryNo k uid = some e) (hs : s.errorless) (hg : s.granted k (readsOf reads ++ writesOf writes) false)
    (hf : ((f.run (s.accessed k (readsOf reads) (writesOf writes))).die (k / 168)).once = []) :
    (unitAccess k uid w reads writes f).run s = f.run (s.accessed k (readsOf reads) (writesOf writes)) := by
  obtain ⟨hhit, hmeets, -, honce, -⟩ := hg
  rw [Dev.entryNo] at he
  have hfill := fillFromDie_hit fun a ha => (hhit a ha).imp fun _ hd => hd.1
  have hout : s.outside k [] = false := rfl
  have hbad : (readsOf reads).find? (fun a => ((touchPages (k / 168) (k % 168) (readsOf reads ++ writesOf writes)).run s).vaBad
      (k / 168) (k % 168) a.va a.len) = none :=
    List.find?_eq_none.mpr fun a _ => by
      rw [vaBad_errorless (by rw [touchPages_run]; exact hs)]; decide
  change (entryAccess k uid w (readsOf reads ++ writesOf writes) [] (look fun s => .seq (forAll (readsOf reads) fun a => vaTouch _ _ a.va a.len)
    (match (readsOf reads).find? fun a => s.vaBad (k / 168) (k % 168) a.va a.len with | none => f | some a => dataLost k uid w a.va))).run s = _
  rw [entryAccess, run_seq, hfill, run_look, he]
  dsimp only
  rw [hout, if_neg (by decide), useOnce, run_seq, lendOnce_none honce, run_look, hmeets]
  dsimp only
  rw [run_progs_cons, run_progs_cons, run_progs_cons, run_progs_nil, run_look, hbad, run_seq]
  exact returnOnce_none hf _ _ _

/-! ### What a read of a running unit returns -/

theorem pagePieces_length_le {va n : Nat} {q : Nat × Nat} (h : q ∈ pagePieces va n) : q.2 ≤ 65536 := by
  unfold pagePieces at h
  split at h
  · cases h
  · obtain ⟨i, hi, rfl⟩ := List.mem_map.mp h
    have := List.mem_range.mp hi
    dsimp only
    split_ifs <;> omega

/-- What lies within 64 KiB of memory is no register. -/
theorem isReg_near {a i : Nat} (h : memPlace a = true) (hi : i < 65536) : isReg (a + i) = false :=
  isReg_of_unitPlace (unitPlace_low (by have := memPlace_lt h; simp only [regBase, storeBase] at *; omega))

theorem mem_vaPieces_readsOf {reads : List (Nat × Nat)} {r q : Nat × Nat} (hr : r ∈ reads) (hq : q ∈ pagePieces r.1 r.2) :
    ⟨q.1, q.2, accRead⟩ ∈ vaPieces (readsOf reads) := by
  have hn : r.2 ≠ 0 := by rintro h0; simp [pagePieces, h0] at hq
  exact List.mem_flatMap.mpr ⟨⟨r.1, r.2, accRead⟩, List.mem_map.mpr ⟨r, List.mem_filter.mpr ⟨hr, by simpa using hn⟩, rfl⟩,
    List.mem_map.mpr ⟨q, hq, rfl⟩⟩

/-- A range whose read meets nothing reads after the accesses as it did before them. -/
theorem vaBytes_accessed {s : Dev} {k : Nat} {reads writes : List (Nat × Nat)} {r : Nat × Nat} (hs : s.errorless)
    (hg : s.granted k (readsOf reads ++ writesOf writes) false) (hr : r ∈ reads) :
    (s.accessed k (readsOf reads) (writesOf writes)).vaBytes (k / 168) (k % 168) r.1 r.2 = s.vaBytes (k / 168) (k % 168) r.1 r.2 := by
  obtain ⟨hhit, -, -, -, hapart, -⟩ := hg
  have hp : k % 168 < 168 := Nat.mod_lt _ (by decide)
  refine List.flatMap_congr fun q hq => ?_
  have hmem : ⟨q.1, q.2, accRead⟩ ∈ vaPieces (readsOf reads ++ writesOf writes) := by
    rw [vaPieces, List.flatMap_append]
    exact List.mem_append_left _ (mem_vaPieces_readsOf hr hq)
  obtain ⟨dpa, hx, hplace⟩ := hhit _ hmem
  obtain ⟨t, hfind, htarget, -⟩ := xlate_hit_find hx hp
  have hdpa : s.dpaOf (k / 168) (k % 168) q.1 = dpa := (dpaOf_of_find hp hfind).trans htarget
  have hdpa' : (s.accessed k (readsOf reads) (writesOf writes)).dpaOf (k / 168) (k % 168) q.1 = dpa := by
    refine (dpaOf_of_find hp ?_).trans htarget
    rw [ck_div_mod] at hfind ⊢
    rw [cl_accessed hs, if_pos rfl, tlbFind_perm ((tlbApart_iff _).mp hapart) (tlbTouches_perm _ _)]
    exact hfind
  rw [hdpa, hdpa']
  refine List.map_congr_left fun i hi => ?_
  exact (sameBut_accessed hs).byteAt (by decide) (by decide)
    (isReg_near hplace (lt_of_lt_of_le (List.mem_range.mp hi) (pagePieces_length_le hq)))

end Sys2Proof.Machine
end

section
/-! SUPPORT. The end of an instruction (R128, R183, R288, R289, R291, R312): what giving back its holds leaves alone, and what a fault record leaves alone. -/

namespace Sys2Proof.Machine

/-! ### What keeps the instructions, tags and slots of the clusters -/

/-- The instructions, tags and table slots of a cluster stand. -/
structure Cluster.sameWork (c c' : Cluster) : Prop where
  entries : c'.entries = c.entries
  tags : c'.tags = c.tags
  sfSlot : c'.sfSlot = c.sfSlot
  ctSlot : c'.ctSlot = c.ctSlot

theorem Cluster.sameWork.trans {a b c : Cluster} (h : a.sameWork b) (g : b.sameWork c) : a.sameWork c :=
  ⟨g.entries.trans h.entries, g.tags.trans h.tags, g.sfSlot.trans h.sfSlot, g.ctSlot.trans h.ctSlot⟩

/-- The instructions, tags and slots of every cluster stand, and where nothing is to be used once only, nothing becomes so. -/
structure Dev.workKept (s t : Dev) : Prop where
  cl : ∀ k, (s.cl k).sameWork (t.cl k)
  once : ∀ d, (s.die d).once = [] → (t.die d).once = []

theorem workKept_refl (s : Dev) : s.workKept s := ⟨fun _ => ⟨rfl, rfl, rfl, rfl⟩, fun _ h => h⟩

theorem Dev.workKept.trans {s t u : Dev} (h : s.workKept t) (g : t.workKept u) : s.workKept u :=
  ⟨fun k => (h.cl k).trans (g.cl k), fun d hd => g.once d (h.once d hd)⟩

theorem workKept_of_sameBut {s t : Dev} {l : List Part} (h : s.sameBut t l) (hc : Part.clusters ∉ l) (hd : Part.dies ∉ l) : s.workKept t :=
  ⟨fun k => by rw [h.cl hc]; exact ⟨rfl, rfl, rfl, rfl⟩, fun d ho => by rw [h.die hd]; exact ho⟩

theorem workKept_apply_cl {s : Dev} {k : Nat} {c : Cluster} (h : (s.cl k).sameWork c) : s.workKept (s.apply (.cl k c)) := by
  refine ⟨fun j => ?_, fun _ h => h⟩
  rw [cl_apply]
  split
  next hj => rw [hj]; exact h
  next => exact ⟨rfl, rfl, rfl, rfl⟩

theorem workKept_apply_die {s : Dev} {d : Nat} {x : DieMem} (h : (s.die d).once = [] → x.once = []) : s.workKept (s.apply (.die d x)) := by
  refine ⟨fun _ => ⟨rfl, rfl, rfl, rfl⟩, fun j hj => ?_⟩
  rw [die_apply]
  split
  next he => exact h (he ▸ hj)
  next => exact hj

theorem workKept_forAll {α : Type} {l : List α} {f : α → Prog} (h : ∀ a s, Dev.workKept s ((f a).run s)) (s : Dev) : s.workKept ((forAll l f).run s) :=
  run_forAll_keeps (P := fun t => s.workKept t) (fun a _ t ht => ht.trans (h a t)) (workKept_refl s)

theorem workKept_only {p : Prog} {s : Dev} (c : Bool) (h : s.workKept (p.run s)) : s.workKept ((only c p).run s) := by
  rw [run_only]; split
  · exact h
  · exact workKept_refl s

theorem workKept_progs {ps : List Prog} (h : ∀ p ∈ ps, ∀ t : Dev, t.workKept (p.run t)) (s : Dev) : s.workKept ((progs ps).run s) := by
  induction ps generalizing s with
  | nil => exact workKept_refl s
  | cons p r ih =>
    obtain ⟨hp, hr⟩ := List.forall_mem_cons.mp h
    exact (hp s).trans (ih hr _)

/-! ### Giving back what an instruction holds -/

theorem workKept_onLock (l : LockId) (f : Lock → Lock) (s : Dev) : s.workKept ((onLock l f).run s) := by
  rw [onLock, run_look]
  split
  · exact workKept_apply_die fun h => h
  · exact workKept_apply_cl ⟨rfl, rfl, rfl, rfl⟩

theorem workKept_freeDone (l : LockId) (s : Dev) : s.workKept ((freeDone l).run s) := workKept_only _ (workKept_onLock l _ s)

theorem workKept_dropHolds (e : Entry) (s : Dev) : s.workKept ((dropHolds e).run s) :=
  workKept_forAll (fun h t => (workKept_onLock h.1 (fun x => { x with blks := x.blks.map fun b =>
    if b.seq == h.2 then { b with holds := b.holds - 1 } else b }) t).trans (workKept_freeDone h.1 _)) s

theorem workKept_unpin (k : Nat) (e : Entry) (s : Dev) : s.workKept ((unpin k e).run s) :=
  workKept_only _ (workKept_apply_cl ⟨rfl, rfl, rfl, rfl⟩)

theorem workKept_unwaitAll (who : Waiter) (cl : Nat) (s : Dev) : s.workKept ((unwaitAll who cl).run s) :=
  workKept_forAll (fun l t => workKept_onLock l _ t) s

theorem workKept_withdraw (d : Nat) (f : FaultRec → Bool) (s : Dev) : s.workKept ((withdraw d f).run s) := workKept_apply_die fun h => h

theorem workKept_dropWalks (d : Nat) (f : UnitRef → Bool) (s : Dev) : s.workKept ((dropWalks d f).run s) :=
  workKept_apply_die fun h => by dsimp only; rw [h]; rfl

/-- An instruction that has captured no slot gives back what it holds: no instruction, tag or slot changes. -/
theorem workKept_dropHeld {e : Entry} (h : e.captured = []) (k : Nat) (s : Dev) : s.workKept ((dropHeld k e).run s) := by
  have hcl (f : Cluster → Cluster) (hf : ∀ c : Cluster, c.sameWork (f c)) (t : Dev) : t.workKept ((onCl k f).run t) := workKept_apply_cl (hf _)
  refine workKept_progs (fun p hp t => ?_) s
  simp only [h, List.mem_cons, List.not_mem_nil, or_false] at hp
  obtain rfl | rfl | rfl | rfl | rfl | rfl | rfl := hp
  · exact workKept_dropHolds e t
  · exact workKept_unpin k e t
  · exact workKept_refl t
  · exact workKept_withdraw _ _ t
  · exact workKept_dropWalks _ _ t
  · exact workKept_unwaitAll _ _ t
  · refine hcl _ ?_ t
    exact fun _ => ⟨rfl, rfl, rfl, rfl⟩

/-- The slot of a load is neither marked as loading nor as waiting. -/
def Cluster.loadIdle (c : Cluster) (e : Entry) : Prop :=
  (e.op = 0x16 → (c.sfSlot (bits e.d.w2 3 0)).loading = false ∧ (c.sfSlot (bits e.d.w2 3 0)).waiting = false)
    ∧ (e.op = 0x20 → (c.ctSlot (bits e.d.w2 1 0)).loading = false ∧ (c.ctSlot (bits e.d.w2 1 0)).waiting = false)

theorem sfSlot_set (c : Cluster) (n j : Nat) (x : SfSlot) :
    ({ c with sf := sset SfSlot.atWake c.sf n x } : Cluster).sfSlot j = if j = n then x else c.sfSlot j := by
  simp only [Cluster.sfSlot]
  split
  next h => subst h; exact sget_sset_same ..
  next h => exact sget_sset_other _ _ _ h

theorem ctSlot_set (c : Cluster) (n j : Nat) (x : CtSlot) :
    ({ c with ct := sset (fun _ => CtSlot.atWake) c.ct n x } : Cluster).ctSlot j = if j = n then x else c.ctSlot j := by
  simp only [Cluster.ctSlot]
  split
  next h => subst h; exact sget_sset_same ..
  next h => exact sget_sset_other _ _ _ h

/-- The end of a load whose slot is idle leaves the slot as it is (R185). -/
theorem workKept_dropLoad {s : Dev} {k : Nat} {e : Entry} (h : (s.cl k).loadIdle e) : s.workKept ((dropLoad k e).run s) := by
  obtain ⟨hsf, hct⟩ := h
  rw [dropLoad, run_look]
  split_ifs with h16 h20
  · obtain ⟨hl, hw⟩ := hsf h16
    refine workKept_only _ (workKept_apply_cl ⟨rfl, rfl, funext fun j => ?_, rfl⟩)
    rw [sfSlot_set]
    split
    next hj =>
      subst hj
      simp only [Cluster.sfSlot] at hl hw ⊢
      simp only [hl, Bool.not_false, if_true]
      generalize sget SfSlot.atWake _ _ = x at hl hw ⊢
      cases x; simp_all
    next => rfl
  · obtain ⟨hl, hw⟩ := hct h20
    refine workKept_only _ (workKept_apply_cl ⟨rfl, rfl, rfl, funext fun j => ?_⟩)
    rw [ctSlot_set]
    split
    next hj =>
      subst hj
      simp only [Cluster.ctSlot] at hl hw ⊢
      simp only [hl, Bool.not_false, if_true]
      generalize sget (fun _ => CtSlot.atWake) _ _ = x at hl hw ⊢
      cases x; simp_all
    next => rfl
  · exact workKept_refl s

theorem within_undefOuts (k : Nat) (e : Entry) : (undefOuts k e).Within fun u => u.parts ⊆ [.mem, .undef, .free] := by
  simp [undefOuts, Upd.parts]

/-! ### Fault records -/

theorem sameBut_progs {l : List Part} {ps : List Prog} (h : ∀ p ∈ ps, ∀ t : Dev, t.sameBut (p.run t) l) (s : Dev) : s.sameBut ((progs ps).run s) l := by
  induction ps generalizing s with
  | nil => exact sameBut_refl _ _
  | cons p r ih =>
    obtain ⟨hp, hr⟩ := List.forall_mem_cons.mp h
    exact sameBut_trans (hp s) (ih hr _)

/-- A fault record changes no more than entries of the event log do. -/
theorem sameBut_faultRecord (k : Nat) (e : Entry) (code cause : Nat) (w : FaultAt) (check : Nat) (info : Option Nat) (reg : Bool) (s : Dev) :
    s.sameBut ((faultRecord k e code cause w check info reg).run s) logParts := by
  have hregs : ∀ c (p : Prog), (p.Within fun u => u.parts ⊆ [.regs]) → ∀ t : Dev, t.sameBut ((only c p).run t) logParts := fun c p hp t =>
    (Prog.Within.sameBut (l := [.regs]) (by rw [within_only]; exact fun _ => hp) t).mono (by simp [logParts, eventParts])
  rw [faultRecord, run_look]
  dsimp only
  refine sameBut_progs (fun p hp t => ?_) s
  simp only [List.mem_cons, List.not_mem_nil, or_false] at hp
  obtain rfl | rfl | rfl := hp
  · exact sameBut_logE _ t
  · cases info with
    | none => exact sameBut_refl _ _
    | some v => exact sameBut_logE _ _
  · refine hregs _ _ ?_ _
    split <;> simp [setFld, holdRecord, within_setReg, Upd.parts]

theorem sameBut_tcTally (k off n : Nat) (s : Dev) : s.sameBut ((tcTally k off n).run s) [.regs] :=
  Prog.Within.sameBut (within_tally n fun _ => List.Subset.refl _) s

/-! ### Entries -/

theorem cl_onEntry (k uid : Nat) (f : Entry → Entry) (s : Dev) (j : Nat) : ((onEntry k uid f).run s).cl j
    = if j = k then { s.cl k with entries := (s.cl k).entries.map fun e => if e.uid == uid then f e else e } else s.cl j := cl_apply ..

theorem entryNo_uid {s : Dev} {k uid : Nat} {e : Entry} (h : s.entryNo k uid = some e) : e.uid = uid := by
  simpa using List.find?_some (show (s.cl k).entries.find? _ = some e from h)

/-- A changed entry that keeps its number is found under it. -/
theorem entryNo_onEntry {s : Dev} {k uid : Nat} {e : Entry} {f : Entry → Entry} (h : s.entryNo k uid = some e) (hf : ∀ y, (f y).uid = y.uid) :
    ((onEntry k uid f).run s).entryNo k uid = some (f e) := by
  have hp : ((fun y : Entry => y.uid == uid) ∘ fun y => if y.uid == uid then f y else y) = fun y => y.uid == uid := by
    funext y
    rw [Function.comp_apply]
    split
    · rw [hf]
    · rfl
  have hu : (e.uid == uid) = true := by simpa using entryNo_uid h
  rw [Dev.entryNo, cl_onEntry, if_pos rfl, List.find?_map, hp]
  rw [Dev.entryNo] at h
  rw [h, Option.map_some, if_pos hu]

/-- Whether an entry stands first in its queues depends on numbers and targets alone. -/
theorem first_map {c : Cluster} {g : Entry → Entry} (hu : ∀ y, (g y).uid = y.uid) (ht : ∀ y, (g y).target = y.target) {e y : Entry}
    (hyu : y.uid = e.uid) (hyt : y.target = e.target) : ({ c with entries := c.entries.map g } : Cluster).first y = c.first e := by
  have hq (q : Nat) : ({ c with entries := c.entries.map g } : Cluster).inQueue q = (c.inQueue q).map g := by
    simp only [Cluster.inQueue, List.filter_map]
    congr 2
    funext x
    rw [Function.comp_apply, ht]
  simp only [Cluster.first, hyt, hq]
  congr 1
  funext q
  cases c.inQueue q with
  | nil => rfl
  | cons x r => simp only [List.map_cons, hu, hyu]

/-! ### The end of an instruction -/

/-- An instruction has ended with a status; no table slot has changed, nothing is to be used once only, and no write is on its way that was not. -/
structure Dev.retired (s t : Dev) (k uid status : Nat) : Prop where
  ended : s.ended t k uid status
  sfSlot : (t.cl k).sfSlot = (s.cl k).sfSlot
  ctSlot : (t.cl k).ctSlot = (s.cl k).ctSlot
  once : ∀ d, (s.die d).once = [] → (t.die d).once = []
  unitWrites : t.unitWrites = s.unitWrites

/-- The tags and slots of cluster `k` stand, nothing is to be used once only that was not, and no write is on its way that was not. -/
structure Dev.tablesKept (s t : Dev) (k : Nat) : Prop where
  tags : (t.cl k).tags = (s.cl k).tags
  sfSlot : (t.cl k).sfSlot = (s.cl k).sfSlot
  ctSlot : (t.cl k).ctSlot = (s.cl k).ctSlot
  once : ∀ d, (s.die d).once = [] → (t.die d).once = []
  unitWrites : t.unitWrites = s.unitWrites

theorem Dev.tablesKept.trans {s t u : Dev} {k : Nat} (h : s.tablesKept t k) (g : t.tablesKept u k) : s.tablesKept u k :=
  ⟨g.tags.trans h.tags, g.sfSlot.trans h.sfSlot, g.ctSlot.trans h.ctSlot, fun d hd => g.once d (h.once d hd), g.unitWrites.trans h.unitWrites⟩

theorem tablesKept_of_sameBut {s t : Dev} {l : List Part} {k : Nat} (h : s.sameBut t l) (hc : Part.clusters ∉ l) (hd : Part.dies ∉ l)
    (hu : Part.unitWrites ∉ l) : s.tablesKept t k := by
  refine ⟨?_, ?_, ?_, fun d ho => by rw [h.die hd]; exact ho, h.unitWrites hu⟩ <;> rw [h.cl hc]

theorem tablesKept_onEntry (k uid : Nat) (g : Entry → Entry) (s : Dev) : s.tablesKept ((onEntry k uid g).run s) k := by
  refine ⟨?_, ?_, ?_, fun _ h => h, rfl⟩ <;> rw [cl_onEntry, if_pos rfl] <;> rfl

/-- The end of an instruction, seen from an earlier device with the same tags and slots. -/
theorem Dev.retired.after {s t u : Dev} {k uid status : Nat} (h : t.retired u k uid status) (g : s.tablesKept t k) : s.retired u k uid status := by
  obtain ⟨⟨hgone, htags, hdone⟩, hsf, hct, honce, hwr⟩ := h
  exact ⟨⟨hgone, g.tags ▸ htags, g.tags ▸ hdone⟩, hsf.trans g.sfSlot, hct.trans g.ctSlot, fun d hd => honce d (g.once d hd), hwr.trans g.unitWrites⟩

theorem leAt_leBytes_append {v : Nat} (h : v < 256) (r : List Byte) : leAt (leBytes 1 v ++ r) 0 1 = v := by
  simp [leAt, sliceBytes, leBytes, leNat, Nat.mod_eq_of_lt h]

theorem record_eq_status_append (s : Dev) (k : Nat) (e : Entry) (status cause und : Nat) (flag : Bool) :
    ∃ r, s.record k e status cause und flag = leBytes 1 status ++ r := by
  unfold Dev.record
  simp only [List.append_assoc]
  exact ⟨_, rfl⟩

/-- The first byte of a completion record is its status (R289). -/
theorem leAt_record (s : Dev) (k : Nat) (e : Entry) {status : Nat} (h : status < 256) (cause und : Nat) (flag : Bool) :
    leAt (s.record k e status cause und flag) 0 1 = status := by
  obtain ⟨r, hr⟩ := record_eq_status_append s k e status cause und flag
  rw [hr, leAt_leBytes_append h]

theorem cl_completeTag (k uid : Nat) (r : List Byte) (s : Dev) : ((completeTag k uid r).run s).cl k = { s.cl k with
    tags := (s.cl k).tags.map fun x => if x.2.uid == uid then (x.1, { x.2 with done := true, record := r }) else x
    entries := (s.cl k).entries.map fun e => { e with deps := setDeps uid (leAt r 0 1) e.deps }
    barges := (s.cl k).barges.map fun b => { b with deps := setDeps uid (leAt r 0 1) b.deps } } := by
  rw [completeTag, run_look, run_progs_cons, run_progs_cons, run_progs_nil, run_only]
  split <;> exact (cl_apply ..).trans (if_pos rfl)

/-- A tag that completes with a record is done, and no other tag changes. -/
theorem tagDone_completeTag (k uid : Nat) (r : List Byte) (s : Dev) : s.tagDone ((completeTag k uid r).run s) k uid (leAt r 0 1) := by
  rw [Dev.tagDone, cl_completeTag]
  refine ⟨?_, fun x hx => ?_⟩
  · rw [List.map_map]
    refine List.map_congr_left fun x _ => ?_
    rw [Function.comp_apply]
    split <;> rfl
  · obtain ⟨y, hy, rfl⟩ := List.mem_map.mp hx
    by_cases hu : y.2.uid = uid
    · simp [hu]
    · simp [hu, hy]

section
variable {l : List Part}

theorem within_onCl {k : Nat} {f : Cluster → Cluster} (h : Part.clusters ∈ l) : (onCl k f).Within fun u => u.parts ⊆ l :=
  fun _ _ hp => List.mem_singleton.mp hp ▸ h
theorem within_onDie {d : Nat} {f : DieMem → DieMem} (h : Part.dies ∈ l) : (onDie d f).Within fun u => u.parts ⊆ l :=
  fun _ _ hp => List.mem_singleton.mp hp ▸ h
theorem within_onDrv {d : Nat} {f : Drover → Drover} (h : Part.drovers ∈ l) : (onDrv d f).Within fun u => u.parts ⊆ l :=
  fun _ _ hp => List.mem_singleton.mp hp ▸ h

theorem within_users {k : Nat} (h : Part.clusters ∈ l) (c : Capture) (up : Bool) : (users k c up).Within fun u => u.parts ⊆ l := by
  unfold users
  exact within_onCl h

theorem within_completeTag (k uid : Nat) (r : List Byte) (hc : Part.clusters ∈ l) (hd : Part.drovers ∈ l) :
    (completeTag k uid r).Within fun u => u.parts ⊆ l := by
  intro s
  simp only [within_progs_cons, within_progs_nil, within_only, and_true]
  exact ⟨within_onCl hc, fun _ => within_onDrv hd⟩

variable (hc : Part.clusters ∈ l) (hd : Part.dies ∈ l)
include hc hd
theorem within_onLock (i : LockId) (f : Lock → Lock) : (onLock i f).Within fun u => u.parts ⊆ l := by
  intro s
  rw [within_ite]
  split
  · exact within_onDie hd
  · exact within_onCl hc

theorem within_dropHolds (e : Entry) : (dropHolds e).Within fun u => u.parts ⊆ l := by
  simp only [dropHolds, within_forAll, within_progs_cons, within_progs_nil, and_true]
  exact fun h _ => ⟨within_onLock hc hd _ _, fun s => (within_only _ _).mpr fun _ => within_onLock hc hd _ _⟩

theorem within_dropHeld (k : Nat) (e : Entry) : (dropHeld k e).Within fun u => u.parts ⊆ l := by
  simp only [dropHeld, within_progs_cons, within_progs_nil, within_forAll, and_true]
  exact ⟨within_dropHolds hc hd e, (within_only _ _).mpr fun _ => within_onCl hc, fun c _ => within_users hc c false, within_onDie hd, within_onDie hd,
    fun _ => (within_forAll _ _).mpr fun i _ => within_onLock hc hd i _, within_onCl hc⟩
end

theorem within_dropLoad (k : Nat) (e : Entry) {l : List Part} (hc : Part.clusters ∈ l) : (dropLoad k e).Within fun u => u.parts ⊆ l := by
  intro s
  dsimp only
  split
  · exact (within_only _ _).mpr fun _ => within_onCl hc
  · split
    · exact (within_only _ _).mpr fun _ => within_onCl hc
    · trivial

/-- What an instruction's end changes: beside the clusters, dies and drovers only its outputs, if it ends badly. -/
theorem within_endEntry (k uid status cause und : Nat) (flag : Bool) {l : List Part} (hc : Part.clusters ∈ l) (hd : Part.dies ∈ l)
    (hv : Part.drovers ∈ l) (hbad : statusGood status = false → [.mem, .undef, .free] ⊆ l) :
    (endEntry k uid status cause und flag).Within fun u => u.parts ⊆ l := by
  intro s
  dsimp only
  split
  · trivial
  next e _ =>
    simp only [within_progs_cons, within_progs_nil, and_true]
    exact ⟨(within_only _ _).mpr fun hg => (within_undefOuts k e).mono fun u hu => List.Subset.trans hu (hbad (by simpa using hg)),
      (within_only _ _).mpr fun _ => within_dropLoad k e hc, within_dropHeld hc hd k e, within_onCl hc, fun _ => within_completeTag k uid _ hc hv⟩

section
variable {s : Dev} {k uid : Nat} {e : Entry} (he : s.entryNo k uid = some e)
include he

/-- The end of an instruction: what it holds is given back, then it leaves its queues, then its tag completes. -/
theorem endEntry_run (status cause und : Nat) (flag : Bool) :
    ∃ v w, v = (dropHeld k e).run ((only (!statusGood status) (dropLoad k e)).run ((only (!statusGood status) (undefOuts k e)).run s))
      ∧ w = (onCl k fun c => { c with entries := c.entries.filter fun x => !(x.uid == uid) }).run v
      ∧ (endEntry k uid status cause und flag).run s = (completeTag k uid (w.record k e status cause und flag)).run w := by
  refine ⟨_, _, rfl, rfl, ?_⟩
  rw [Dev.entryNo] at he
  rw [endEntry, run_look, he]
  dsimp only
  rw [run_progs_cons, run_progs_cons, run_progs_cons, run_progs_cons, run_progs_cons, run_progs_nil, run_look]

omit he in
/-- What an instruction does at its end before it leaves its queues leaves the instructions, tags and slots as they are. -/
theorem workKept_ending (hc : e.captured = []) {status : Nat} (hl : statusGood status = true ∨ (s.cl k).loadIdle e) :
    s.workKept ((dropHeld k e).run ((only (!statusGood status) (dropLoad k e)).run ((only (!statusGood status) (undefOuts k e)).run s))) := by
  have hundef : s.sameBut ((only (!statusGood status) (undefOuts k e)).run s) [.mem, .undef, .free] :=
    Prog.Within.sameBut (by rw [within_only]; exact fun _ => within_undefOuts k e) s
  refine (workKept_of_sameBut hundef (by decide) (by decide)).trans (Dev.workKept.trans ?_ (workKept_dropHeld hc k _))
  rcases hl with hl | hl
  · rw [hl]; exact workKept_refl _
  · refine workKept_only _ (workKept_dropLoad ?_)
    rw [hundef.cl (by decide)]
    exact hl

variable (hc : e.captured = [])
include hc

/-- An instruction that has captured no slot ends; a load that ends badly has left its slot before. -/
theorem endEntry_retired {status : Nat} (hs : status < 256) (hl : statusGood status = true ∨ (s.cl k).loadIdle e) (cause und : Nat) (flag : Bool) :
    s.retired ((endEntry k uid status cause und flag).run s) k uid status := by
  have hunit := ((within_endEntry k uid status cause und flag (l := [.clusters, .dies, .drovers, .mem, .undef, .free])
    (by decide) (by decide) (by decide) fun _ => by decide).sameBut s).unitWrites (by decide)
  obtain ⟨v, w, hv, hw, hrun⟩ := endEntry_run he status cause und flag
  obtain ⟨hvk, honce⟩ := hv ▸ workKept_ending hc hl
  replace hvk := hvk k
  have hclw : w.cl k = { v.cl k with entries := (v.cl k).entries.filter fun x => !(x.uid == uid) } := by
    rw [hw]; exact (cl_apply ..).trans (if_pos rfl)
  have htag := tagDone_completeTag k uid (w.record k e status cause und flag) w
  rw [leAt_record _ _ _ hs, ← hrun] at htag
  have hcl := cl_completeTag k uid (w.record k e status cause und flag) w
  rw [← hrun, hclw] at hcl
  refine ⟨⟨fun y hy => ?_, ?_⟩, ?_, ?_, fun d hd => ?_, hunit⟩
  · rw [hcl] at hy
    obtain ⟨x, hx, rfl⟩ := List.mem_map.mp hy
    simpa using (List.mem_filter.mp hx).2
  · have htags : (w.cl k).tags = (s.cl k).tags := by rw [hclw]; exact hvk.tags
    rw [Dev.tagDone, htags] at htag
    exact htag
  · rw [hcl]; exact hvk.sfSlot
  · rw [hcl]; exact hvk.ctSlot
  · rw [hrun, ((within_completeTag (l := [.clusters, .drovers]) k uid _ (by decide) (by decide)).sameBut w).die (by decide), hw]
    exact honce d hd

/-- A condition found in the data of an instruction that stands first in its queues ends it (R287, R291). -/
theorem dataCondition_retired (hfirst : (s.cl k).first e = true) (hhalf : isHalf e.target = false) (hl : (s.cl k).loadIdle e)
    (cause check : Nat) (w : FaultAt) (info : Option Nat) : s.retired ((dataConditionAt k uid cause check w info).run s) k uid 0x71 := by
  obtain ⟨v, hv, hrun⟩ : ∃ v, v = (faultRecord k e 0x71 cause w check info true).run ((tcTally k R.TC_DESC_REFUSED 1).run s)
      ∧ (dataConditionAt k uid cause check w info).run s = (endEntry k uid 0x71 cause 0 false).run v := by
    refine ⟨_, rfl, ?_⟩
    rw [Dev.entryNo] at he
    rw [dataConditionAt, whenFirst, run_look, he]
    dsimp only
    rw [hfirst, Bool.or_true, run_only_true, hhalf, run_progs_cons, run_progs_cons, run_progs_cons, run_progs_nil, if_neg (by decide)]
  have hframe : s.sameBut v logParts :=
    hv ▸ sameBut_trans ((sameBut_tcTally k _ 1 s).mono (by decide)) (sameBut_faultRecord ..)
  have hcl := hframe.cl (by decide)
  rw [hrun]
  refine (endEntry_retired (e := e) ?_ hc (by decide) (.inr (hcl ▸ hl)) cause 0 false).after
    (tablesKept_of_sameBut hframe (by decide) (by decide) (by decide))
  rw [Dev.entryNo, hcl, ← Dev.entryNo]
  exact he
end

end Sys2Proof.Machine
end

section
/-! CERTIFICATE. Table loads (R181 to R186, R198, R199, R215 to R217): TLOAD, CT_LOAD, their flips and SLOT_PARITY_REWRITE. -/

namespace Sys2Proof.Machine

/-! ### Tables of slots -/

/-- A cluster's view of one of its tables of slots: it depends on the function slots and rANS slots alone. -/
def isSlotTable {α : Type} (slotAt : Cluster → Nat → α) : Prop :=
  ∀ c c' : Cluster, c'.sfSlot = c.sfSlot → c'.ctSlot = c.ctSlot → slotAt c' = slotAt c

theorem isSlotTable_sf : isSlotTable Cluster.sfSlot := fun _ _ h _ => h
theorem isSlotTable_ct : isSlotTable Cluster.ctSlot := fun _ _ _ h => h

/-- A program changes one slot of a table of a cluster by `f`, and nothing else but the cluster's other tables. -/
structure Prog.setsSlot {α : Type} (p : Prog) (slotAt : Cluster → Nat → α) (k i : Nat) (f : α → α) : Prop where
  frame : ∀ s : Dev, s.sameBut (p.run s) [.clusters]
  other : ∀ (s : Dev) j, j ≠ k → (p.run s).cl j = s.cl j
  entries : ∀ s : Dev, ((p.run s).cl k).entries = (s.cl k).entries
  tags : ∀ s : Dev, ((p.run s).cl k).tags = (s.cl k).tags
  slot : ∀ (s : Dev) j, slotAt ((p.run s).cl k) j = if j = i then f (slotAt (s.cl k) i) else slotAt (s.cl k) j

theorem cl_onSfSlot (k i : Nat) (f : SfSlot → SfSlot) (s : Dev) (j : Nat) : ((onSfSlot k i f).run s).cl j
    = if j = k then { s.cl k with sf := sset SfSlot.atWake (s.cl k).sf i (f ((s.cl k).sfSlot i)) } else s.cl j := cl_apply ..

theorem cl_onCtSlot (k i : Nat) (f : CtSlot → CtSlot) (s : Dev) (j : Nat) : ((onCtSlot k i f).run s).cl j
    = if j = k then { s.cl k with ct := sset (fun _ => CtSlot.atWake) (s.cl k).ct i (f ((s.cl k).ctSlot i)) } else s.cl j := cl_apply ..

theorem setsSlot_onSfSlot (k i : Nat) (f : SfSlot → SfSlot) : (onSfSlot k i f).setsSlot Cluster.sfSlot k i f where
  frame := (within_onCl (List.mem_singleton_self _)).sameBut
  other s j hj := by rw [cl_onSfSlot, if_neg hj]
  entries s := by rw [cl_onSfSlot, if_pos rfl]
  tags s := by rw [cl_onSfSlot, if_pos rfl]
  slot s j := by rw [cl_onSfSlot, if_pos rfl, sfSlot_set]

theorem setsSlot_onCtSlot (k i : Nat) (f : CtSlot → CtSlot) : (onCtSlot k i f).setsSlot Cluster.ctSlot k i f where
  frame := (within_onCl (List.mem_singleton_self _)).sameBut
  other s j hj := by rw [cl_onCtSlot, if_neg hj]
  entries s := by rw [cl_onCtSlot, if_pos rfl]
  tags s := by rw [cl_onCtSlot, if_pos rfl]
  slot s j := by rw [cl_onCtSlot, if_pos rfl, ctSlot_set]

/-! ### A load that waits for users, or starts (R184, R185) -/

section
variable {α : Type} {slotAt : Cluster → Nat → α} {p : Prog} {k i : Nat} {f : α → α} (hp : p.setsSlot slotAt k i f) (s : Dev)
include hp

theorem Prog.setsSlot.onlyCluster : s.onlyCluster (p.run s) k := ⟨(hp.frame s).mono (l := [.clusters, .regs]) (by decide), hp.other s⟩

theorem Prog.setsSlot.slot_same : slotAt ((p.run s).cl k) i = f (slotAt (s.cl k) i) := (hp.slot s i).trans (if_pos rfl)

theorem Prog.setsSlot.entryNo (uid : Nat) : (p.run s).entryNo k uid = s.entryNo k uid := by rw [Dev.entryNo, hp.entries s, ← Dev.entryNo]

theorem Prog.setsSlot.first (e : Entry) : ((p.run s).cl k).first e = (s.cl k).first e := by
  simp only [Cluster.first, Cluster.inQueue, hp.entries s]
end

theorem onlyCluster_trans {s t u : Dev} {k : Nat} (h : s.onlyCluster t k) (g : t.onlyCluster u k) : s.onlyCluster u k :=
  ⟨sameBut_trans (l := [.clusters, .regs]) h.1 g.1, fun j hj => (g.2 j hj).trans (h.2 j hj)⟩

theorem sameBut_tally (rb : RB) (d i off n : Nat) (s : Dev) : s.sameBut ((tally rb d i off n).run s) [.regs] :=
  (within_tally n fun _ => List.Subset.refl _).sameBut s

theorem onlyCluster_tally (rb : RB) (d i off n k : Nat) (s : Dev) : s.onlyCluster ((tally rb d i off n).run s) k :=
  ⟨(sameBut_tally rb d i off n s).mono (l := [.clusters, .regs]) (by decide), fun j _ => cl_tally s j rb d i off n⟩

theorem sameBut_onEntry (k uid : Nat) (g : Entry → Entry) (s : Dev) : s.sameBut ((onEntry k uid g).run s) [.clusters] := by
  unfold onEntry
  exact (within_onCl (List.mem_singleton_self _)).sameBut s

theorem onlyCluster_onEntry (k uid : Nat) (g : Entry → Entry) (s : Dev) : s.onlyCluster ((onEntry k uid g).run s) k :=
  ⟨(sameBut_onEntry k uid g s).mono (l := [.clusters, .regs]) (by decide), fun j hj => by rw [cl_onEntry, if_neg hj]⟩

theorem Dev.sameBut.reg {s t : Dev} {l : List Part} (h : s.sameBut t l) (hr : Part.regs ∉ l) (rb : RB) (d i off : Nat) :
    t.reg rb d i off = s.reg rb d i off := h.regAt hr _

theorem reg_tally_same (rb : RB) (d i off : Nat) {n : Nat} (h : n ≠ 0) (s : Dev) :
    ((tally rb d i off n).run s).reg rb d i off = satAdd (s.reg rb d i off) n := by
  rw [Dev.reg, tally_run, if_pos ⟨rfl, h⟩, Dev.reg]

theorem reg_tally_other (rb : RB) (d i off n : Nat) {off' : Nat} (h : off' ≠ off) (s : Dev) :
    ((tally rb d i off n).run s).reg rb d i off' = s.reg rb d i off' := by
  rw [Dev.reg, tally_run, if_neg fun ha => h (regAddr_inj ha.1), Dev.reg]

/-- A load waits: its slot is marked, and the wait is counted by the target's tally and by the loads' (R118, R184). -/
theorem load_waits {α : Type} {slotAt : Cluster → Nat → α} (ht : isSlotTable slotAt) {p : Prog} {k i : Nat} {f : α → α} (hp : p.setsSlot slotAt k i f)
    {rb : RB} {o off : Nat} (ho : off ≠ o) (uid : Nat) (g : Entry → Entry) (s : Dev) :
    let t := (progs [p, tally rb (k / 168) (k % 168) o 1, onEntry k uid g, tally rb (k / 168) (k % 168) off 1]).run s
    s.onlyCluster t k ∧ slotAt (t.cl k) i = f (slotAt (s.cl k) i)
      ∧ t.reg rb (k / 168) (k % 168) off = satAdd (s.reg rb (k / 168) (k % 168) off) 1 ∧ t.unitWrites = s.unitWrites := by
  simp only [run_progs_cons, run_progs_nil]
  have h1 := onlyCluster_trans (hp.onlyCluster s) (onlyCluster_tally rb (k / 168) (k % 168) o 1 k _)
  have h2 := onlyCluster_trans h1 (onlyCluster_onEntry k uid g _)
  have h3 := onlyCluster_trans h2 (onlyCluster_tally rb (k / 168) (k % 168) off 1 k _)
  refine ⟨h3, ?_, ?_, Dev.sameBut.unitWrites (l := [.clusters, .regs]) h3.1 (by decide)⟩
  · have hkept := tablesKept_onEntry k uid g ((tally rb (k / 168) (k % 168) o 1).run (p.run s))
    rw [cl_tally, ht _ _ hkept.sfSlot hkept.ctSlot, cl_tally, hp.slot_same]
  · rw [reg_tally_same _ _ _ _ (by decide), (sameBut_onEntry ..).reg (by decide), reg_tally_other _ _ _ _ _ ho, (hp.frame s).reg (by decide)]

/-! ### The ways a load ends (R128, R184, R291) -/

section
variable {s : Dev} {k uid : Nat} {e : Entry} (he : s.entryNo k uid = some e) (hc : e.captured = [])
include he hc

/-- A load that has filled its bank ends well. -/
theorem load_done (l : List Nat) (g : Run → Run) :
    s.retired ((progs [busyNow k l, onRun k uid g, endEntry k uid 0 0 0 false]).run s) k uid 0
      ∧ s.sameBut ((progs [busyNow k l, onRun k uid g, endEntry k uid 0 0 0 false]).run s) [.clusters, .dies, .drovers] := by
  simp only [run_progs_cons, run_progs_nil, onRun]
  have hbusy : s.workKept ((busyNow k l).run s) := workKept_apply_cl ⟨rfl, rfl, rfl, rfl⟩
  have hbusyFrame : s.sameBut ((busyNow k l).run s) [.clusters] := sameBut_apply s (.cl k _)
  generalize (busyNow k l).run s = t at hbusy hbusyFrame
  have het : t.entryNo k uid = some e := by rw [Dev.entryNo, (hbusy.cl k).entries]; exact he
  have hst : s.tablesKept t k :=
    ⟨(hbusy.cl k).tags, (hbusy.cl k).sfSlot, (hbusy.cl k).ctSlot, hbusy.once, hbusyFrame.unitWrites (by decide)⟩
  have hend := within_endEntry (l := [.clusters, .dies, .drovers]) k uid 0 0 0 false (by decide) (by decide) (by decide) (by decide)
  have hrun := tablesKept_onEntry k uid (fun e => { e with run := g e.run }) t
  have hret := endEntry_retired (entryNo_onEntry (f := fun e => { e with run := g e.run }) het fun _ => rfl) hc (status := 0) (by decide) (.inl rfl) 0 0 false
  exact ⟨hret.after (hst.trans hrun),
    sameBut_trans (hbusyFrame.mono (by decide)) (sameBut_trans ((sameBut_onEntry ..).mono (by decide)) (hend.sameBut _))⟩

/-- A load whose image differs from the ROM ends with its slot idle. -/
theorem load_mismatched (hl : (s.cl k).loadIdle e) (w : FaultAt) :
    s.retired ((progs [faultRecord k e 0x42 0 w 0 none false, onEntry k uid fun e => { e with stage := .finished },
      endEntry k uid 0x42 0 0 false]).run s) k uid 0x42 := by
  simp only [run_progs_cons, run_progs_nil]
  have hframe := sameBut_faultRecord k e 0x42 0 w 0 none false s
  generalize (faultRecord k e 0x42 0 w 0 none false).run s = t at hframe
  have hcl := hframe.cl (by decide)
  have het : t.entryNo k uid = some e := by rw [Dev.entryNo, hcl]; exact he
  have hkept : s.tablesKept t k := tablesKept_of_sameBut hframe (by decide) (by decide) (by decide)
  have hfin := tablesKept_onEntry k uid (fun e => { e with stage := .finished }) t
  have hent := entryNo_onEntry (f := fun e => { e with stage := .finished }) het fun _ => rfl
  refine Dev.retired.after (endEntry_retired hent hc (by decide) (.inr ?_) 0 0 false) (hkept.trans hfin)
  rw [Cluster.loadIdle, (hkept.trans hfin).sfSlot, (hkept.trans hfin).ctSlot]
  exact hl

/-- A load whose image is not valid ends with its slot idle, when it stands first in its queue. -/
theorem load_refused (hfirst : (s.cl k).first e = true) (hhalf : isHalf e.target = false) (hl : (s.cl k).loadIdle e) (check : Nat) (w : FaultAt) :
    s.retired ((progs [onEntry k uid fun e => { e with stage := .finished }, dataConditionAt k uid 4 check w none]).run s) k uid 0x71 := by
  simp only [run_progs_cons, run_progs_nil]
  have hfin := tablesKept_onEntry k uid (fun e => { e with stage := .finished }) s
  have hent := entryNo_onEntry (f := fun e => { e with stage := .finished }) he fun _ => rfl
  refine Dev.retired.after (dataCondition_retired hent hc ?_ hhalf ?_ 4 check w none) hfin
  · rw [cl_onEntry, if_pos rfl]
    exact (first_map (fun y => by split <;> rfl) (fun y => by split <;> rfl) rfl rfl).trans hfirst
  · rw [Cluster.loadIdle, hfin.sfSlot, hfin.ctSlot]
    exact hl
end

/-! ### Flips -/

/-- A load of cluster `k` has ended with a status, and left a slot of its table as `y` and every other as it was. -/
structure Dev.slotLoaded {α : Type} (s t : Dev) (slotAt : Cluster → Nat → α) (k uid status i : Nat) (y : α) : Prop where
  ended : s.ended t k uid status
  slot : ∀ j, slotAt (t.cl k) j = if j = i then y else slotAt (s.cl k) j
  once : ∀ d, (s.die d).once = [] → (t.die d).once = []
  unitWrites : t.unitWrites = s.unitWrites

/-- An instruction that has set a slot and then ended has loaded it. -/
theorem Dev.retired.slotLoaded {α : Type} {slotAt : Cluster → Nat → α} (ht : isSlotTable slotAt) {p : Prog} {k i : Nat} {f : α → α}
    (hp : p.setsSlot slotAt k i f) {s t : Dev} {uid status : Nat} (h : (p.run s).retired t k uid status) :
    s.slotLoaded t slotAt k uid status i (f (slotAt (s.cl k) i)) := by
  obtain ⟨⟨hgone, htags, hdone⟩, hsf, hct, honce, hwr⟩ := h
  refine ⟨⟨hgone, hp.tags s ▸ htags, hp.tags s ▸ hdone⟩, fun j => ?_, fun d hd => honce d ?_, hwr.trans ((hp.frame s).unitWrites (by decide))⟩
  · rw [ht _ _ hsf hct, hp.slot]
  · rw [(hp.frame s).die (by decide)]; exact hd

theorem tablesKept_accessed {s : Dev} (h : s.errorless) (k : Nat) (reads writes : List VAcc) : s.tablesKept (s.accessed k reads writes) k := by
  have hframe := sameBut_accessed (k := k) (reads := reads) (writes := writes) h
  refine ⟨?_, ?_, ?_, fun d hd => by rw [hframe.die (by decide)]; exact hd, hframe.unitWrites (by decide)⟩ <;> rw [cl_accessed h, if_pos rfl] <;> rfl

theorem Dev.slotLoaded.after {α : Type} {slotAt : Cluster → Nat → α} (ht : isSlotTable slotAt) {s t u : Dev} {k uid status i : Nat} {y : α}
    (h : t.slotLoaded u slotAt k uid status i y) (g : s.tablesKept t k) : s.slotLoaded u slotAt k uid status i y := by
  obtain ⟨⟨hgone, htags, hdone⟩, hslot, honce, hwr⟩ := h
  exact ⟨⟨hgone, g.tags ▸ htags, g.tags ▸ hdone⟩, fun j => by rw [hslot, ht _ _ g.sfSlot g.ctSlot], fun d hd => honce d (g.once d hd),
    hwr.trans g.unitWrites⟩

section
variable {s : Dev} {k : Nat} {e : Entry} {r : Nat × Nat} (hs : s.errorless)
include hs

theorem ctx_accessed (hg : s.granted k (readsOf [r]) false) :
    ((s.accessed k (readsOf [r]) []).ctx k e).rd r.1 r.2 = (s.ctx k e).rd r.1 r.2 :=
  vaBytes_accessed (writes := []) hs (by rw [show writesOf [] = [] from rfl, List.append_nil]; exact hg) (List.mem_singleton_self _)

theorem entries_accessed : ((s.accessed k (readsOf [r]) []).cl k).entries = (s.cl k).entries := by rw [cl_accessed hs, if_pos rfl]

/-- After the reads of a load and the change of its slot, its entry is what it was. -/
theorem entryNo_slotSet {α : Type} {slotAt : Cluster → Nat → α} {p : Prog} {i : Nat} {f : α → α} (hp : p.setsSlot slotAt k i f)
    (he : s.entryNo k e.uid = some e) : (p.run (s.accessed k (readsOf [r]) [])).entryNo k e.uid = some e := by
  rw [hp.entryNo, Dev.entryNo, entries_accessed hs]; exact he

theorem first_slotSet {α : Type} {slotAt : Cluster → Nat → α} {p : Prog} {i : Nat} {f : α → α} (hp : p.setsSlot slotAt k i f)
    (hfirst : (s.cl k).first e = true) : ((p.run (s.accessed k (readsOf [r]) [])).cl k).first e = true := by
  rw [hp.first, ← hfirst]
  simp only [Cluster.first, Cluster.inQueue, entries_accessed hs]
end

/-- A flip whose reads are granted reads its image, sets the slot and ends. -/
theorem flip_loaded {α : Type} {slotAt : Cluster → Nat → α} (ht : isSlotTable slotAt) {p : Prog} {k i : Nat} {f : α → α}
    (hp : p.setsSlot slotAt k i f)
    {s : Dev} {e : Entry} (he : s.entryNo k e.uid = some e) (hs : s.errorless) {r : Nat × Nat} (hg : s.granted k (readsOf [r]) false)
    {image : List Byte → Prog} {tail : Prog} (hend : image ((s.ctx k e).rd r.1 r.2) = .seq p tail) {v : Dev}
    (hv : p.run (s.accessed k (readsOf [r]) []) = v) {status : Nat} (hret : v.retired (tail.run v) k e.uid status) :
    (unitAccess k e.uid e.atStart [r] [] (look fun t => image ((t.ctx k e).rd r.1 r.2))).run s = tail.run v
      ∧ s.slotLoaded (tail.run v) slotAt k e.uid status i (f (slotAt (s.cl k) i)) := by
  subst hv
  have hkept := tablesKept_accessed hs k (readsOf [r]) []
  have hload := (hret.slotLoaded ht hp).after ht hkept
  rw [ht _ _ hkept.sfSlot hkept.ctSlot] at hload
  have hrun : (look fun t => image ((t.ctx k e).rd r.1 r.2)).run (s.accessed k (readsOf [r]) (writesOf []))
      = tail.run (p.run (s.accessed k (readsOf [r]) [])) := by
    rw [show writesOf [] = [] from rfl, run_look, ctx_accessed hs hg, hend, run_seq]
  refine ⟨?_, hload⟩
  rw [← hrun]
  obtain ⟨-, -, -, honce, -⟩ := id hg
  exact unitAccess_granted _ he hs (by rw [show writesOf [] = [] from rfl, List.append_nil]; exact hg) (by rw [hrun]; exact hload.once _ honce)

theorem loadOn_eq {c : Cluster} {op target : Nat} {e : Entry} (h : c.loadOn op target = some e) : e.op = op ∧ e.target = target := by
  have := List.find?_some h
  simp only [Bool.and_eq_true, decide_eq_true_eq] at this
  exact ⟨this.1.2, this.2⟩

theorem isHalf_eq_false {t : Nat} (h : 0x0C ≤ t) : isHalf t = false := by
  simp [isHalf, h]

/-! ### TLOAD_FLIP (R181, R184, R199) -/

/-- The bytes of the image that a TLOAD reads (R199): its length stands in its header. -/
def Dev.sfImage (s : Dev) (k : Nat) (e : Entry) : Nat × Nat :=
  (argVa e.args 0, sfExtent (leNat ((s.ctx k e).rd (argVa e.args 0 + 8) 2)) (leNat ((s.ctx k e).rd (argVa e.args 0 + 5) 1)))

/-- An image is valid, and its identifier, if it is a published one, is one of the ROM's (R184). -/
def sfImageOk (b : List Byte) : Bool :=
  sfHeaderOk b && sfStepsOk (sfParse b).steps && (decide (0x100 ≤ (sfParse b).progId) || (romProg (sfParse b).progId).isSome)

/-- A slot whose load has ended without effect. -/
def SfSlot.idled (x : SfSlot) : SfSlot := { x with waiting := false, loading := false }

/-- A slot whose inactive bank has been written with a program: its epoch has advanced. -/
def SfSlot.flipped (p : SfProg) (src : Nat) (x : SfSlot) : SfSlot :=
  let y := if x.epoch % 2 = 0 then { x with bank1 := p, valid1 := true } else { x with bank0 := p, valid0 := true }
  { y with epoch := (x.epoch + 1) % 65536, waiting := false, loading := false, source := src }

theorem sf_flipped_eq (p : SfProg) (src : Nat) (x : SfSlot) : x.flipped p src = if x.epoch % 2 = 0
    then { x with bank1 := p, valid1 := true, epoch := (x.epoch + 1) % 65536, waiting := false, loading := false, source := src }
    else { x with bank0 := p, valid0 := true, epoch := (x.epoch + 1) % 65536, waiting := false, loading := false, source := src } := by
  rw [SfSlot.flipped]; split <;> rfl

/-- What a TLOAD_FLIP does with the image it has read. -/
def tloadEnd (k : Nat) (e : Entry) (b : List Byte) : Prog :=
  if !sfHeaderOk b || !sfStepsOk (sfParse b).steps || ((sfParse b).progId < 0x100 && (romProg (sfParse b).progId).isNone) then
    .seq (onSfSlot k (bits e.d.w2 3 0) SfSlot.idled)
      (progs [onEntry k e.uid fun e => { e with stage := .finished }, dataConditionAt k e.uid 4 15 e.atStart none])
  else if (sfParse b).progId < 0x100 && romProg (sfParse b).progId ≠ some (sfParse b) then
    .seq (onSfSlot k (bits e.d.w2 3 0) SfSlot.idled) (progs [faultRecord k e 0x42 0 e.atStart 0 none false,
      onEntry k e.uid fun e => { e with stage := .finished }, endEntry k e.uid 0x42 0 0 false])
  else .seq (onSfSlot k (bits e.d.w2 3 0) (SfSlot.flipped (sfParse b) (argVa e.args 0)))
    (progs [busyNow k (gateBits e.target), onRun k e.uid fun r => { r with units := 1 }, endEntry k e.uid 0 0 0 false])

theorem tloadFlipProg_run {s : Dev} {k n : Nat} {e : Entry} (hload : (s.cl k).loadOn 0x16 (0x18 + n) = some e)
    (hidle : ((s.cl k).sfSlot (bits e.d.w2 3 0)).idleUsers = 0) : (tloadFlipProg k n).run s
      = (unitAccess k e.uid e.atStart [s.sfImage k e] [] (look fun t => tloadEnd k e ((t.ctx k e).rd (s.sfImage k e).1 (s.sfImage k e).2))).run s := by
  rw [tloadFlipProg, run_look, hload]
  dsimp only
  rw [if_neg (by rw [hidle]; decide)]
  rfl

theorem sfRefused_eq (b : List Byte) : (!sfHeaderOk b || !sfStepsOk (sfParse b).steps || (decide ((sfParse b).progId < 0x100)
    && (romProg (sfParse b).progId).isNone)) = !sfImageOk b := by
  have hlt : decide ((sfParse b).progId < 0x100) = !decide (0x100 ≤ (sfParse b).progId) := by
    rw [← decide_not]; exact decide_eq_decide.mpr Nat.not_le.symm
  rw [sfImageOk, hlt, Bool.not_and, Bool.not_and, Bool.not_or, Option.not_isSome]

section
variable (k : Nat) (e : Entry) {b : List Byte}

theorem tloadEnd_refused (h : sfImageOk b = false) : tloadEnd k e b = .seq (onSfSlot k (bits e.d.w2 3 0) SfSlot.idled)
    (progs [onEntry k e.uid fun e => { e with stage := .finished }, dataConditionAt k e.uid 4 15 e.atStart none]) := by
  rw [tloadEnd, sfRefused_eq, h, if_pos (by decide)]

theorem tloadEnd_mismatched (h : sfImageOk b = true) (hid : (sfParse b).progId < 0x100) (hrom : romProg (sfParse b).progId ≠ some (sfParse b)) :
    tloadEnd k e b = .seq (onSfSlot k (bits e.d.w2 3 0) SfSlot.idled) (progs [faultRecord k e 0x42 0 e.atStart 0 none false,
      onEntry k e.uid fun e => { e with stage := .finished }, endEntry k e.uid 0x42 0 0 false]) := by
  rw [tloadEnd, sfRefused_eq, h, if_neg (by decide), if_pos (by simp [hid, hrom])]

theorem tloadEnd_valid (h : sfImageOk b = true) (hrom : (sfParse b).progId < 0x100 → romProg (sfParse b).progId = some (sfParse b)) :
    tloadEnd k e b = .seq (onSfSlot k (bits e.d.w2 3 0) (SfSlot.flipped (sfParse b) (argVa e.args 0)))
      (progs [busyNow k (gateBits e.target), onRun k e.uid fun r => { r with units := 1 }, endEntry k e.uid 0 0 0 false]) := by
  rw [tloadEnd, sfRefused_eq, h, if_neg (by decide), if_neg (by simpa using hrom)]
end

/-- A TLOAD whose slot is neither marked as loading nor as waiting leaves its tables idle. -/
theorem loadIdle_idled (k : Nat) {e : Entry} (h : e.op = 0x16) (s : Dev) :
    (((onSfSlot k (bits e.d.w2 3 0) SfSlot.idled).run s).cl k).loadIdle e := by
  refine ⟨fun _ => ?_, fun ho => absurd (h.symm.trans ho) (by decide)⟩
  rw [(setsSlot_onSfSlot k _ SfSlot.idled).slot_same]
  exact ⟨rfl, rfl⟩

section
variable {s : Dev} {k n : Nat} {e : Entry} (hload : (s.cl k).loadOn 0x16 (0x18 + n) = some e) (he : s.entryNo k e.uid = some e) (hs : s.errorless)
  (hidle : ((s.cl k).sfSlot (bits e.d.w2 3 0)).idleUsers = 0) (hg : s.granted k (readsOf [s.sfImage k e]) false) (hc : e.captured = [])
include hload he hs hidle hg

/-- A TLOAD_FLIP reads its image, sets the slot and ends. -/
theorem tloadFlip_loaded {f : SfSlot → SfSlot} {tail : Prog} {status : Nat}
    (hend : tloadEnd k e ((s.ctx k e).rd (s.sfImage k e).1 (s.sfImage k e).2) = .seq (onSfSlot k (bits e.d.w2 3 0) f) tail)
    {v : Dev} (hv : (onSfSlot k (bits e.d.w2 3 0) f).run (s.accessed k (readsOf [s.sfImage k e]) []) = v) (hret : v.retired (tail.run v) k e.uid status) :
    (tloadFlipProg k n).run s = tail.run v
      ∧ s.slotLoaded (tail.run v) Cluster.sfSlot k e.uid status (bits e.d.w2 3 0) (f ((s.cl k).sfSlot (bits e.d.w2 3 0))) := by
  rw [tloadFlipProg_run hload hidle]
  exact flip_loaded isSlotTable_sf (setsSlot_onSfSlot k _ f) he hs hg hend hv hret

include hc

theorem tloadFlip_valid (h : sfImageOk ((s.ctx k e).rd (s.sfImage k e).1 (s.sfImage k e).2) = true) {p : SfProg}
    (hp : sfParse ((s.ctx k e).rd (s.sfImage k e).1 (s.sfImage k e).2) = p) (hrom : p.progId < 0x100 → romProg p.progId = some p) :
    s.sameMemory ((tloadFlipProg k n).run s) ∧ s.slotLoaded ((tloadFlipProg k n).run s) Cluster.sfSlot k e.uid 0 (bits e.d.w2 3 0)
      (((s.cl k).sfSlot (bits e.d.w2 3 0)).flipped p (argVa e.args 0)) := by
  subst hp
  have hset := setsSlot_onSfSlot k (bits e.d.w2 3 0) (SfSlot.flipped (sfParse ((s.ctx k e).rd (s.sfImage k e).1 (s.sfImage k e).2)) (argVa e.args 0))
  obtain ⟨hret, hframe⟩ := load_done (entryNo_slotSet (r := s.sfImage k e) hs hset he) hc (gateBits e.target) fun r => { r with units := 1 }
  obtain ⟨hrun, hl⟩ := tloadFlip_loaded hload he hs hidle hg (tloadEnd_valid k e h hrom) rfl hret
  have hall := sameBut_trans ((sameBut_accessed hs).mono (l := [.clusters, .regs, .dies, .drovers]) (by decide))
    (sameBut_trans ((hset.frame _).mono (by decide)) (hframe.mono (by decide)))
  rw [hrun]
  exact ⟨⟨hall.mem (by decide), hall.undef (by decide)⟩, hl⟩

theorem tloadFlip_refused (h : sfImageOk ((s.ctx k e).rd (s.sfImage k e).1 (s.sfImage k e).2) = false) (hfirst : (s.cl k).first e = true) :
    s.slotLoaded ((tloadFlipProg k n).run s) Cluster.sfSlot k e.uid 0x71 (bits e.d.w2 3 0) ((s.cl k).sfSlot (bits e.d.w2 3 0)).idled := by
  obtain ⟨hop, htarget⟩ := loadOn_eq hload
  have hset := setsSlot_onSfSlot k (bits e.d.w2 3 0) SfSlot.idled
  have hret := load_refused (entryNo_slotSet (r := s.sfImage k e) hs hset he) hc (first_slotSet hs hset hfirst) (isHalf_eq_false (by omega))
    (loadIdle_idled k hop _) 15 e.atStart
  obtain ⟨hrun, hl⟩ := tloadFlip_loaded hload he hs hidle hg (tloadEnd_refused k e h) rfl hret
  rw [hrun]
  exact hl

theorem tloadFlip_mismatched (h : sfImageOk ((s.ctx k e).rd (s.sfImage k e).1 (s.sfImage k e).2) = true) {p : SfProg}
    (hp : sfParse ((s.ctx k e).rd (s.sfImage k e).1 (s.sfImage k e).2) = p) (hid : p.progId < 0x100) (hrom : romProg p.progId ≠ some p) :
    s.slotLoaded ((tloadFlipProg k n).run s) Cluster.sfSlot k e.uid 0x42 (bits e.d.w2 3 0) ((s.cl k).sfSlot (bits e.d.w2 3 0)).idled := by
  subst hp
  obtain ⟨hop, -⟩ := loadOn_eq hload
  have hset := setsSlot_onSfSlot k (bits e.d.w2 3 0) SfSlot.idled
  have hret := load_mismatched (entryNo_slotSet (r := s.sfImage k e) hs hset he) hc (loadIdle_idled k hop _) e.atStart
  obtain ⟨hrun, hl⟩ := tloadFlip_loaded hload he hs hidle hg (tloadEnd_mismatched k e h hid hrom) rfl hret
  rw [hrun]
  exact hl
end

/-! ### CT_LOAD_FLIP (R215, R216) -/

/-- The bytes of the frequencies that a CT_LOAD reads (R216): its classes, each a row of the alphabet. -/
def Entry.ctImage (e : Entry) : Nat × Nat := (argVa e.args 0, bits e.d.w2 8 2 * roundUp (2 * (bits e.d.w2 20 9 + 1)) 64)

/-- A slot whose load has ended without effect. -/
def CtSlot.idled (x : CtSlot) : CtSlot := { x with waiting := false, loading := false }

/-- A slot whose inactive bank has been written with a table set: its epoch has advanced. -/
def CtSlot.flipped (b : CtBank) (src : Nat) (x : CtSlot) : CtSlot :=
  let y := if x.epoch % 2 = 0 then { x with bank1 := b } else { x with bank0 := b }
  { y with epoch := (x.epoch + 1) % 65536, waiting := false, loading := false, source := src }

theorem ct_flipped_eq (b : CtBank) (src : Nat) (x : CtSlot) : x.flipped b src = if x.epoch % 2 = 0
    then { x with bank1 := b, epoch := (x.epoch + 1) % 65536, waiting := false, loading := false, source := src }
    else { x with bank0 := b, epoch := (x.epoch + 1) % 65536, waiting := false, loading := false, source := src } := by
  rw [CtSlot.flipped]; split <;> rfl

/-- What a CT_LOAD_FLIP does with the frequencies it has read. -/
def ctLoadEnd (k : Nat) (e : Entry) (b : List Byte) : Prog :=
  if !ctBankOk (ctBankOf e b) then .seq (onCtSlot k (bits e.d.w2 1 0) CtSlot.idled)
    (progs [onEntry k e.uid fun e => { e with stage := .finished }, dataConditionAt k e.uid 4 26 e.atStart none])
  else .seq (onCtSlot k (bits e.d.w2 1 0) (CtSlot.flipped (ctBankOf e b) (argVa e.args 0)))
    (progs [busyNow k (gateBits e.target), onRun k e.uid fun r => { r with units := 1 }, endEntry k e.uid 0 0 0 false])

theorem ctLoadFlipProg_run {s : Dev} {k n : Nat} {e : Entry} (hload : (s.cl k).loadOn 0x20 (0x20 + n) = some e)
    (hidle : ((s.cl k).ctSlot (bits e.d.w2 1 0)).idleUsers = 0) : (ctLoadFlipProg k n).run s
      = (unitAccess k e.uid e.atStart [e.ctImage] [] (look fun t => ctLoadEnd k e ((t.ctx k e).rd e.ctImage.1 e.ctImage.2))).run s := by
  rw [ctLoadFlipProg, run_look, hload]
  dsimp only
  rw [if_neg (by rw [hidle]; decide)]
  rfl

section
variable (k : Nat) (e : Entry) {b : List Byte}

theorem ctLoadEnd_refused (h : ctBankOk (ctBankOf e b) = false) : ctLoadEnd k e b = .seq (onCtSlot k (bits e.d.w2 1 0) CtSlot.idled)
    (progs [onEntry k e.uid fun e => { e with stage := .finished }, dataConditionAt k e.uid 4 26 e.atStart none]) := by
  rw [ctLoadEnd, h, if_pos (by decide)]

theorem ctLoadEnd_valid (h : ctBankOk (ctBankOf e b) = true) :
    ctLoadEnd k e b = .seq (onCtSlot k (bits e.d.w2 1 0) (CtSlot.flipped (ctBankOf e b) (argVa e.args 0)))
      (progs [busyNow k (gateBits e.target), onRun k e.uid fun r => { r with units := 1 }, endEntry k e.uid 0 0 0 false]) := by
  rw [ctLoadEnd, h, if_neg (by decide)]
end

/-- A CT_LOAD whose slot is neither marked as loading nor as waiting leaves its tables idle. -/
theorem ct_loadIdle_idled (k : Nat) {e : Entry} (h : e.op = 0x20) (s : Dev) :
    (((onCtSlot k (bits e.d.w2 1 0) CtSlot.idled).run s).cl k).loadIdle e := by
  refine ⟨fun ho => absurd (h.symm.trans ho) (by decide), fun _ => ?_⟩
  rw [(setsSlot_onCtSlot k _ CtSlot.idled).slot_same]
  exact ⟨rfl, rfl⟩

section
variable {s : Dev} {k n : Nat} {e : Entry} (hload : (s.cl k).loadOn 0x20 (0x20 + n) = some e) (he : s.entryNo k e.uid = some e) (hs : s.errorless)
  (hidle : ((s.cl k).ctSlot (bits e.d.w2 1 0)).idleUsers = 0) (hg : s.granted k (readsOf [e.ctImage]) false) (hc : e.captured = [])
include hload he hs hidle hg hc

theorem ctLoadFlip_valid {b : CtBank} (hb : ctBankOf e ((s.ctx k e).rd e.ctImage.1 e.ctImage.2) = b) (h : ctBankOk b = true) :
    s.sameMemory ((ctLoadFlipProg k n).run s) ∧ s.slotLoaded ((ctLoadFlipProg k n).run s) Cluster.ctSlot k e.uid 0 (bits e.d.w2 1 0)
      (((s.cl k).ctSlot (bits e.d.w2 1 0)).flipped b (argVa e.args 0)) := by
  subst hb
  have hset := setsSlot_onCtSlot k (bits e.d.w2 1 0) (CtSlot.flipped (ctBankOf e ((s.ctx k e).rd e.ctImage.1 e.ctImage.2)) (argVa e.args 0))
  obtain ⟨hret, hframe⟩ := load_done (entryNo_slotSet (r := e.ctImage) hs hset he) hc (gateBits e.target) fun r => { r with units := 1 }
  obtain ⟨hrun, hl⟩ := flip_loaded isSlotTable_ct hset he hs hg (ctLoadEnd_valid k e h) rfl hret
  have hall := sameBut_trans ((sameBut_accessed hs).mono (l := [.clusters, .regs, .dies, .drovers]) (by decide))
    (sameBut_trans ((hset.frame _).mono (by decide)) (hframe.mono (by decide)))
  rw [ctLoadFlipProg_run hload hidle, hrun]
  exact ⟨⟨hall.mem (by decide), hall.undef (by decide)⟩, hl⟩

theorem ctLoadFlip_refused (h : ctBankOk (ctBankOf e ((s.ctx k e).rd e.ctImage.1 e.ctImage.2)) = false) (hfirst : (s.cl k).first e = true) :
    s.slotLoaded ((ctLoadFlipProg k n).run s) Cluster.ctSlot k e.uid 0x71 (bits e.d.w2 1 0) ((s.cl k).ctSlot (bits e.d.w2 1 0)).idled := by
  obtain ⟨hop, htarget⟩ := loadOn_eq hload
  have hset := setsSlot_onCtSlot k (bits e.d.w2 1 0) CtSlot.idled
  have hret := load_refused (entryNo_slotSet (r := e.ctImage) hs hset he) hc (first_slotSet hs hset hfirst) (isHalf_eq_false (by omega))
    (ct_loadIdle_idled k hop _) 26 e.atStart
  obtain ⟨hrun, hl⟩ := flip_loaded isSlotTable_ct hset he hs hg (ctLoadEnd_refused k e h) rfl hret
  rw [ctLoadFlipProg_run hload hidle, hrun]
  exact hl
end

/-! ### TLOAD and CT_LOAD before their flips -/

theorem waitTally_sf (k n : Nat) {t : Nat} (h : t = 0x18 ∨ t = 0x19) :
    waitTally k t n = tally .sf (k / 168) (k % 168) (R.SF_WAIT_PREEMPT + 4 * (n - 1)) 1 := by
  obtain rfl | rfl := h <;> rfl

theorem waitTally_cc (k n : Nat) {t : Nat} (h : 0x20 ≤ t) : waitTally k t n = tally .cc (k / 168) (k % 168) (R.CC_WAIT_PREEMPT + 4 * (n - 1)) 1 := by
  have htc : isTcTarget t = false := by simp [isTcTarget]; omega
  have hkind : kindOf t = 4 := by
    rw [kindOf, htc, if_neg (by decide), if_neg (by simp; omega)]
  rw [waitTally, htc, hkind, if_neg (by decide), if_neg (by decide)]

section
variable {s : Dev} {k n : Nat} {e : Entry}

theorem tload_waits (hn : n < 2) (hload : (s.cl k).loadOn 0x16 (0x18 + n) = some e) (h : ((s.cl k).sfSlot (bits e.d.w2 3 0)).idleUsers ≠ 0) :
    let t := (tloadProg k n).run s
    s.onlyCluster t k ∧ (t.cl k).sfSlot (bits e.d.w2 3 0) = { (s.cl k).sfSlot (bits e.d.w2 3 0) with waiting := true }
      ∧ t.reg .sf (k / 168) (k % 168) R.SF_LOAD_WAIT = satAdd (s.reg .sf (k / 168) (k % 168) R.SF_LOAD_WAIT) 1 ∧ t.unitWrites = s.unitWrites := by
  obtain ⟨-, htarget⟩ := loadOn_eq hload
  dsimp only
  rw [tloadProg, run_look, hload]
  dsimp only
  rw [if_pos h, waitTally_sf k 3 (by omega)]
  exact load_waits isSlotTable_sf (setsSlot_onSfSlot k _ _) (by decide) e.uid _ s

theorem tload_starts (hload : (s.cl k).loadOn 0x16 (0x18 + n) = some e) (h : ((s.cl k).sfSlot (bits e.d.w2 3 0)).idleUsers = 0) :
    (tloadProg k n).run s = (onSfSlot k (bits e.d.w2 3 0) fun x => { x with waiting := false, loading := true }).run s := by
  rw [tloadProg, run_look, hload]
  dsimp only
  rw [if_neg (not_not.mpr h)]

theorem tloadFlip_busy (hload : (s.cl k).loadOn 0x16 (0x18 + n) = some e) (h : ((s.cl k).sfSlot (bits e.d.w2 3 0)).idleUsers ≠ 0) :
    (tloadFlipProg k n).run s = s := by
  rw [tloadFlipProg, run_look, hload]
  dsimp only
  rw [if_pos h, run_skip]

theorem ctLoad_waits (hload : (s.cl k).loadOn 0x20 (0x20 + n) = some e) (h : ((s.cl k).ctSlot (bits e.d.w2 1 0)).idleUsers ≠ 0) :
    let t := (ctLoadProg k n).run s
    s.onlyCluster t k ∧ (t.cl k).ctSlot (bits e.d.w2 1 0) = { (s.cl k).ctSlot (bits e.d.w2 1 0) with waiting := true }
      ∧ t.reg .cc (k / 168) (k % 168) R.CC_LOAD_WAIT = satAdd (s.reg .cc (k / 168) (k % 168) R.CC_LOAD_WAIT) 1 ∧ t.unitWrites = s.unitWrites := by
  obtain ⟨-, htarget⟩ := loadOn_eq hload
  dsimp only
  rw [ctLoadProg, run_look, hload]
  dsimp only
  rw [if_pos h, waitTally_cc k 3 (by omega)]
  exact load_waits isSlotTable_ct (setsSlot_onCtSlot k _ _) (by decide) e.uid _ s

theorem ctLoad_starts (hload : (s.cl k).loadOn 0x20 (0x20 + n) = some e) (h : ((s.cl k).ctSlot (bits e.d.w2 1 0)).idleUsers = 0) :
    (ctLoadProg k n).run s = (onCtSlot k (bits e.d.w2 1 0) fun x => { x with waiting := false, loading := true }).run s := by
  rw [ctLoadProg, run_look, hload]
  dsimp only
  rw [if_neg (not_not.mpr h)]

theorem ctLoadFlip_busy (hload : (s.cl k).loadOn 0x20 (0x20 + n) = some e) (h : ((s.cl k).ctSlot (bits e.d.w2 1 0)).idleUsers ≠ 0) :
    (ctLoadFlipProg k n).run s = s := by
  rw [ctLoadFlipProg, run_look, hload]
  dsimp only
  rw [if_pos h, run_skip]
end

/-! ### SLOT_PARITY_REWRITE (R185, R217) -/

/-- A slot whose active bank has been rewritten: it is no longer bad. -/
def SfSlot.rewritten (new : SfProg) (y : SfSlot) : SfSlot :=
  if y.epoch % 2 = 0 then { y with bad := false, bank0 := new } else { y with bad := false, bank1 := new }
def CtSlot.rewritten (new : CtBank) (y : CtSlot) : CtSlot :=
  if y.epoch % 2 = 0 then { y with bad := false, bank0 := new } else { y with bad := false, bank1 := new }

theorem sf_rewritten_bad (new : SfProg) (y : SfSlot) : (y.rewritten new).bad = false := by rw [SfSlot.rewritten]; split <;> rfl
theorem sf_rewritten_epoch (new : SfProg) (y : SfSlot) : (y.rewritten new).epoch = y.epoch := by rw [SfSlot.rewritten]; split <;> rfl
theorem sf_rewritten_bank (new : SfProg) (y : SfSlot) :
    (if (y.rewritten new).epoch % 2 = 0 then (y.rewritten new).bank0 else (y.rewritten new).bank1) = new := by
  rw [sf_rewritten_epoch, SfSlot.rewritten]
  split <;> rfl
theorem ct_rewritten_bad (new : CtBank) (y : CtSlot) : (y.rewritten new).bad = false := by rw [CtSlot.rewritten]; split <;> rfl
theorem ct_rewritten_epoch (new : CtBank) (y : CtSlot) : (y.rewritten new).epoch = y.epoch := by rw [CtSlot.rewritten]; split <;> rfl

/-- A bad function slot is rewritten, slots 0 and 1 from ROM. -/
theorem slotRewrite_sf (k r : Nat) (s : Dev) : ∃ new, (r = 0 → new = tanhProg) ∧ (r = 1 → new = logisticProg)
    ∧ (slotRewriteProg k false r).run s = (only ((s.cl k).sfSlot r).bad (onSfSlot k r (SfSlot.rewritten new))).run s := by
  rw [slotRewriteProg, run_look]
  dsimp only
  rw [if_neg (by decide)]
  exact ⟨_, fun h => if_pos h, fun h => (if_neg (by omega)).trans (if_pos h), rfl⟩

/-- A bad rANS slot is rewritten. -/
theorem slotRewrite_ct (k r : Nat) (s : Dev) : ∃ new,
    (slotRewriteProg k true r).run s = (only ((s.cl k).ctSlot r).bad (onCtSlot k r (CtSlot.rewritten new))).run s := by
  rw [slotRewriteProg, run_look]
  dsimp only
  rw [if_pos rfl]
  exact ⟨_, rfl⟩

/-! ### The obligation -/

/-- What changes clusters alone changes no register. -/
theorem Prog.setsSlot.regsBecome_nil {α : Type} {slotAt : Cluster → Nat → α} {p : Prog} {k i : Nat} {f : α → α}
    (hp : p.setsSlot slotAt k i f) (s : Dev) : s.regsBecome (p.run s) [] := fun A => (hp.frame s).regAt (by decide) A

section
variable {α : Type} {slotAt : Cluster → Nat → α} {c : Instr} {s : State} {q : Prog} (h : exec c s = s.performPosting q) {k i : Nat}
include h

/-- A command that sets a slot completes. -/
theorem completes_of_setsSlot {p : Prog} {f : α → α} (hp : p.setsSlot slotAt k i f) (hq : q.run s.m = p.run s.m) {P : Dev → Prop}
    (hP : P (p.run s.m)) : completes c s P :=
  completes_of_posting h (by rw [hq]; exact (hp.frame s.m).unitWrites (by decide)) (hq ▸ hP)

/-- A load that has ended has completed, with its slot as it left it. -/
theorem completes_of_slotLoaded {uid status : Nat} {y : α} (hl : s.m.slotLoaded (q.run s.m) slotAt k uid status i y) :
    completes c s fun t => s.m.ended t k uid status ∧ slotAt (t.cl k) i = y :=
  completes_of_posting h hl.unitWrites ⟨hl.ended, (hl.slot i).trans (if_pos rfl)⟩

/-- A load that has ended well has completed, with its slot as it left it and every other slot and the memory as they were. -/
theorem completes_of_slotFilled {uid : Nat} {y z : α} (hyz : y = z)
    (hl : s.m.sameMemory (q.run s.m) ∧ s.m.slotLoaded (q.run s.m) slotAt k uid 0 i y) :
    completes c s fun t => s.m.ended t k uid 0 ∧ s.m.sameMemory t ∧ slotAt (t.cl k) i = z ∧ ∀ j, j ≠ i → slotAt (t.cl k) j = slotAt (s.m.cl k) j :=
  completes_of_posting h hl.2.unitWrites
    ⟨hl.2.ended, hl.1, (hl.2.slot i).trans ((if_pos rfl).trans hyz), fun j hj => (hl.2.slot j).trans (if_neg hj)⟩
end

/-- Settles O35: TLOAD and CT_LOAD wait or start, their flips load or refuse, and SLOT_PARITY_REWRITE rewrites a bad slot alone. -/
theorem tableLoads : Obligations.TableLoads := by
  intro s k n m e
  dsimp only
  intro _ _ hs
  rw [show e.d.w2 % 16 = bits e.d.w2 3 0 by simp [bits], show e.d.w2 % 4 = bits e.d.w2 1 0 by simp [bits],
    show e.d.w2 / 4 % 128 = bits e.d.w2 8 2 by simp [bits], show e.d.w2 / 512 % 4096 = bits e.d.w2 20 9 by simp [bits]]
  refine ⟨fun he hload => ⟨fun hbusy => ?_, fun hidle => ?_, fun hbusy => ?_, fun hidle hg _ hc => ⟨fun hok hrom => ?_, fun hok hfirst => ?_,
      fun hok hid hrom => ?_⟩⟩,
    fun he hload => ⟨fun hbusy => ?_, fun hidle => ?_, fun hbusy => ?_, fun hidle hg _ hc => ⟨fun hok => ?_, fun hok hfirst => ?_⟩⟩,
    fun r => ⟨fun hbad => ?_, fun hbad => ?_, fun hbad => ?_, fun hbad => ?_⟩⟩
  · obtain ⟨honly, hslot, hreg, hw⟩ := tload_waits n.isLt hload hbusy
    exact completes_of_posting (p := tloadProg k n) rfl hw ⟨honly, hslot, hreg⟩
  · have hset := setsSlot_onSfSlot k (bits e.d.w2 3 0) fun x => { x with waiting := false, loading := true }
    exact completes_of_setsSlot (q := tloadProg k n) rfl hset (tload_starts hload hidle)
      ⟨hset.onlyCluster s.m, hset.regsBecome_nil s.m, hset.slot_same s.m⟩
  · exact becomes_same (p := tloadFlipProg k n) rfl (tloadFlip_busy hload hbusy)
  · exact completes_of_slotFilled (q := tloadFlipProg k n) rfl (sf_flipped_eq ..) (tloadFlip_valid hload he hs hidle hg hc hok rfl hrom)
  · exact completes_of_slotLoaded (q := tloadFlipProg k n) rfl (tloadFlip_refused hload he hs hidle hg hc hok hfirst)
  · exact completes_of_slotLoaded (q := tloadFlipProg k n) rfl (tloadFlip_mismatched hload he hs hidle hg hc hok rfl hid hrom)
  · obtain ⟨honly, hslot, hreg, hw⟩ := ctLoad_waits hload hbusy
    exact completes_of_posting (p := ctLoadProg k m) rfl hw ⟨honly, hslot, hreg⟩
  · have hset := setsSlot_onCtSlot k (bits e.d.w2 1 0) fun x => { x with waiting := false, loading := true }
    exact completes_of_setsSlot (q := ctLoadProg k m) rfl hset (ctLoad_starts hload hidle)
      ⟨hset.onlyCluster s.m, hset.regsBecome_nil s.m, hset.slot_same s.m⟩
  · exact becomes_same (p := ctLoadFlipProg k m) rfl (ctLoadFlip_busy hload hbusy)
  · exact completes_of_slotFilled (q := ctLoadFlipProg k m) rfl (ct_flipped_eq ..) (ctLoadFlip_valid hload he hs hidle hg hc rfl hok)
  · exact completes_of_slotLoaded (q := ctLoadFlipProg k m) rfl (ctLoadFlip_refused hload he hs hidle hg hc hok hfirst)
  · obtain ⟨new, htanh, hlog, hrun⟩ := slotRewrite_sf k r s.m
    rw [hbad, run_only_true] at hrun
    have hset := setsSlot_onSfSlot k r (SfSlot.rewritten new)
    refine completes_of_setsSlot (q := slotRewriteProg k false r) rfl hset hrun ⟨hset.onlyCluster s.m, (hset.frame s.m).regs (by decide), ?_,
      fun j hj => (hset.slot s.m j).trans (if_neg hj), ?_⟩
    · rw [cl_onSfSlot, if_pos rfl]
    · rw [hset.slot_same]
      exact ⟨sf_rewritten_bad .., sf_rewritten_epoch .., fun h => (sf_rewritten_bank ..).trans (htanh h), fun h => (sf_rewritten_bank ..).trans (hlog h)⟩
  · obtain ⟨new, -, -, hrun⟩ := slotRewrite_sf k r s.m
    exact becomes_same (p := slotRewriteProg k false r) rfl (by rw [hrun, hbad, run_only_false])
  · obtain ⟨new, hrun⟩ := slotRewrite_ct k r s.m
    rw [hbad, run_only_true] at hrun
    have hset := setsSlot_onCtSlot k r (CtSlot.rewritten new)
    refine completes_of_setsSlot (q := slotRewriteProg k true r) rfl hset hrun ⟨hset.onlyCluster s.m, (hset.frame s.m).regs (by decide), ?_,
      fun j hj => (hset.slot s.m j).trans (if_neg hj), ?_⟩
    · rw [cl_onCtSlot, if_pos rfl]
    · rw [hset.slot_same]
      exact ⟨ct_rewritten_bad .., ct_rewritten_epoch ..⟩
  · obtain ⟨new, hrun⟩ := slotRewrite_ct k r s.m
    exact becomes_same (p := slotRewriteProg k true r) rfl (by rw [hrun, hbad, run_only_false])

end Sys2Proof.Machine
end

section
/-! SUPPORT. Virtual ranges that lie in memory (R34, R345 to R349): what they read after accesses, and what writes of them leave (R95, R332, R549). -/

namespace Sys2Proof.Machine

/-! ### The pieces of a range -/

/-- Where piece `i` of a range starts, and piece `i - 1` ends. -/
def pieceBound (va n i : Nat) : Nat := max va (min (va + n) ((va / 65536 + i) * 65536))

theorem pagePieces_eq {va n : Nat} (h : n ≠ 0) : pagePieces va n = (List.range ((va + n - 1) / 65536 - va / 65536 + 1)).map fun i =>
    (pieceBound va n i, pieceBound va n (i + 1) - pieceBound va n i) := by
  rw [pagePieces, if_neg h]
  refine List.map_congr_left fun i hi => ?_
  have := List.mem_range.mp hi
  have hlo : (if i = 0 then va else (va / 65536 + i) * 65536) = pieceBound va n i := by
    unfold pieceBound; split <;> omega
  have hhi : (if i = (va + n - 1) / 65536 - va / 65536 then va + n else (va / 65536 + i + 1) * 65536) = pieceBound va n (i + 1) := by
    unfold pieceBound; split <;> omega
  dsimp only
  rw [hlo, hhi]

/-- A piece lies in its range. -/
theorem pagePieces_within {va n : Nat} {q : Nat × Nat} (h : q ∈ pagePieces va n) : va ≤ q.1 ∧ q.1 + q.2 ≤ va + n ∧ 0 < q.2 := by
  have hn : n ≠ 0 := by rintro rfl; simp [pagePieces] at h
  rw [pagePieces_eq hn] at h
  obtain ⟨i, hi, rfl⟩ := List.mem_map.mp h
  have := List.mem_range.mp hi
  dsimp only [pieceBound]
  omega

/-- Every address of a range lies in a piece, on the page of the piece's start. -/
theorem exists_pagePiece {va n v : Nat} (hlo : va ≤ v) (hhi : v < va + n) : ∃ q, q ∈ pagePieces va n ∧ q.1 ≤ v ∧ q.1 / 65536 = v / 65536 := by
  rw [pagePieces_eq (by omega)]
  refine ⟨_, List.mem_map.mpr ⟨v / 65536 - va / 65536, List.mem_range.mpr (by omega), rfl⟩, ?_⟩
  dsimp only [pieceBound]
  omega

/-- The pieces of a range are as long as the range. -/
theorem pagePieces_sum (va n : Nat) : ((pagePieces va n).map (·.2)).sum = n := by
  by_cases hn : n = 0
  · simp [pagePieces, hn]
  have hsum (m : Nat) : ((List.range m).map fun i => pieceBound va n (i + 1) - pieceBound va n i).sum = pieceBound va n m - va := by
    induction m with
    | zero => simp only [pieceBound, List.range_zero, List.map_nil, List.sum_nil]; omega
    | succ m ih =>
      have hle : va ≤ pieceBound va n m ∧ pieceBound va n m ≤ pieceBound va n (m + 1) := by unfold pieceBound; omega
      rw [List.range_succ, List.map_append, List.sum_append, ih, List.map_singleton, List.sum_singleton]
      omega
  rw [pagePieces_eq hn, List.map_map]
  refine (hsum _).trans ?_
  unfold pieceBound
  omega

theorem vaBytes_length (s : Dev) (d p va n : Nat) : (s.vaBytes d p va n).length = n := by
  rw [Dev.vaBytes, List.length_flatMap]
  conv_rhs => rw [← pagePieces_sum va n]
  exact congrArg List.sum (List.map_congr_left fun q _ => by simp [Dev.bytesAt])

/-! ### Ranges that lie in memory -/

/-- Where the stacks and the stores stand (R27, R30). -/
theorem memPlace_iff (a : Nat) : memPlace a = true ↔ a < stackEnd
    ∨ (storeBase ≤ a ∧ a < storeBase + 0x1000000000 ∧ (a - storeBase) % 0x100000000 / 0x1000000 < 168 ∧ (a - storeBase) % 0x1000000 < 0x800000) := by
  by_cases hhi : a < storeBase + 0x1000000000
  · unfold memPlace place
    dsimp only
    split_ifs with hs hlo hc
    · exact iff_of_true rfl (.inl hs)
    · exact iff_of_false id (by omega)
    · simp only [Bool.and_eq_true, decide_eq_true_eq] at hc
      exact iff_of_true rfl (.inr ⟨Nat.not_lt.mp hlo, hhi, hc⟩)
    · simp only [Bool.and_eq_true, decide_eq_true_eq] at hc
      exact iff_of_false id fun h => h.elim hs fun ⟨_, _, hin⟩ => hc hin
  · exact iff_of_false (fun h => hhi (memPlace_lt h)) (by simp only [stackEnd, storeBase] at *; omega)

/-- Whether memory stands at a DPA is the same throughout its 64 KiB. -/
theorem memPlace_page {a b : Nat} (h : a / 65536 = b / 65536) : memPlace a = memPlace b := by
  rw [Bool.eq_iff_iff, memPlace_iff, memPlace_iff]
  simp only [stackEnd, storeBase]
  omega

/-- Every address of a range of cluster `k` lies on a page of its cache, in a stack or a store. -/
def Dev.inMemory (s : Dev) (k va n : Nat) : Prop :=
  ∀ v, va ≤ v → v < va + n → ∃ t, tlbFind (s.cl k).tlb v = some t ∧ memPlace (t.target v) = true

theorem Dev.inMemory.sub {s : Dev} {k va n va' n' : Nat} (h : s.inMemory k va n) (hlo : va ≤ va') (hhi : va' + n' ≤ va + n) : s.inMemory k va' n' :=
  fun v h1 h2 => h v (by omega) (by omega)

/-- Every address of a cached page is found in it, where the page's own 64 KiB of memory stand. -/
theorem tlbFind_page {l : List Tlb} (hapart : tlbApart l = true) (hpages : tlbPages l = true) {u v : Nat} {t : Tlb} (h : tlbFind l u = some t)
    (huv : u / 65536 = v / 65536) : tlbFind l v = some t ∧ t.target u / 65536 = t.target v / 65536 := by
  have hpw := (tlbApart_iff l).mp hapart
  obtain ⟨ht, hlo, hhi⟩ := (tlbFind_eq_some_iff hpw).mp h
  have hal := List.all_eq_true.mp hpages t ht
  simp only [Bool.and_eq_true, decide_eq_true_eq] at hal
  obtain ⟨⟨hlg, hva⟩, hdpa⟩ := hal
  obtain ⟨m, hm⟩ : 65536 ∣ 2 ^ t.lg := pow_dvd_pow 2 hlg
  rw [hm] at hhi
  refine ⟨(tlbFind_eq_some_iff hpw).mpr ⟨ht, by omega, by rw [hm]; omega⟩, ?_⟩
  unfold Tlb.target
  omega

theorem mem_vaPieces {l : List VAcc} {a : VAcc} (ha : a ∈ l) {q : Nat × Nat} (hq : q ∈ pagePieces a.va a.len) : ⟨q.1, q.2, a.access⟩ ∈ vaPieces l :=
  List.mem_flatMap.mpr ⟨a, ha, List.mem_map.mpr ⟨q, hq, rfl⟩⟩

/-- A range whose access meets nothing lies in memory. -/
theorem inMemory_of_granted {s : Dev} {k : Nat} {l : List VAcc} {own : Bool} (h : s.granted k l own) {a : VAcc} (ha : a ∈ l) : s.inMemory k a.va a.len := by
  obtain ⟨hhit, -, -, -, hapart, hpages⟩ := h
  intro v hlo hhi
  obtain ⟨q, hq, -, hpage⟩ := exists_pagePiece hlo hhi
  obtain ⟨dpa, hx, hmem⟩ := hhit _ (mem_vaPieces ha hq)
  obtain ⟨t, hfind, rfl, -⟩ := xlate_hit_find hx (Nat.mod_lt _ (by decide))
  rw [ck_div_mod] at hfind
  obtain ⟨hv, hplace⟩ := tlbFind_page hapart hpages hfind hpage
  exact ⟨t, hv, memPlace_page hplace ▸ hmem⟩

section
variable {s : Dev} {k : Nat} {reads writes : List (Nat × Nat)} {r : Nat × Nat} (h : s.granted k (readsOf reads ++ writesOf writes) false)
include h

theorem inMemory_read (hr : r ∈ reads) : s.inMemory k r.1 r.2 := by
  intro v h1 h2
  exact inMemory_of_granted h (List.mem_append_left _ (List.mem_map.mpr ⟨r, List.mem_filter.mpr ⟨hr, by simp; omega⟩, rfl⟩)) v h1 h2

theorem inMemory_write (hr : r ∈ writes) : s.inMemory k r.1 r.2 := by
  intro v h1 h2
  exact inMemory_of_granted h (List.mem_append_right _ (List.mem_map.mpr ⟨r, List.mem_filter.mpr ⟨hr, by simp; omega⟩, rfl⟩)) v h1 h2
end

/-! ### Clusters that find the same pages -/

/-- Cluster `k` finds the same page for every address. -/
def Dev.samePages (s t : Dev) (k : Nat) : Prop := ∀ va, tlbFind (t.cl k).tlb va = tlbFind (s.cl k).tlb va

theorem samePages_refl (s : Dev) (k : Nat) : s.samePages s k := fun _ => rfl
theorem Dev.samePages.trans {s t u : Dev} {k : Nat} (h : s.samePages t k) (g : t.samePages u k) : s.samePages u k := fun va => (g va).trans (h va)

theorem Dev.inMemory.congr {s t : Dev} {k va n : Nat} (h : s.inMemory k va n) (hp : s.samePages t k) : t.inMemory k va n :=
  fun v h1 h2 => by rw [hp]; exact h v h1 h2

theorem dpaOf_inMemory {s : Dev} {k va n v : Nat} (h : s.inMemory k va n) (hlo : va ≤ v) (hhi : v < va + n) :
    memPlace (s.dpaOf (k / 168) (k % 168) v) = true := by
  obtain ⟨t, hfind, hmem⟩ := h v hlo hhi
  rw [dpaOf_of_find (Nat.mod_lt _ (by decide)) (by rw [ck_div_mod]; exact hfind)]
  exact hmem

theorem dpaOf_samePages {s t : Dev} {k va n v : Nat} (h : s.inMemory k va n) (hp : s.samePages t k) (hlo : va ≤ v) (hhi : v < va + n) :
    t.dpaOf (k / 168) (k % 168) v = s.dpaOf (k / 168) (k % 168) v := by
  obtain ⟨e, hfind, -⟩ := h v hlo hhi
  have hk : k % 168 < 168 := Nat.mod_lt _ (by decide)
  rw [dpaOf_of_find hk (by rw [ck_div_mod, hp]; exact hfind), dpaOf_of_find hk (by rw [ck_div_mod]; exact hfind)]

/-- A range in memory reads the same where its pages and the memory are the same. -/
theorem vaBytes_samePages {s t : Dev} {k va n : Nat} (h : s.inMemory k va n) (hp : s.samePages t k) {l : List Part} (hs : s.sameBut t l)
    (hm : Part.mem ∉ l) (hu : Part.undef ∉ l) : t.vaBytes (k / 168) (k % 168) va n = s.vaBytes (k / 168) (k % 168) va n := by
  refine List.flatMap_congr fun q hq => ?_
  obtain ⟨hlo, hhi, hpos⟩ := pagePieces_within hq
  rw [dpaOf_samePages h hp hlo (by omega)]
  refine List.map_congr_left fun i hi => hs.byteAt hm hu ?_
  exact isReg_near (dpaOf_inMemory h hlo (by omega)) (lt_of_lt_of_le (List.mem_range.mp hi) (pagePieces_length_le hq))

/-! ### Writes -/

theorem findSome_congr {α β : Type} {l : List α} {f g : α → Option β} (h : ∀ a, a ∈ l → f a = g a) : l.findSome? f = l.findSome? g := by
  induction l with
  | nil => rfl
  | cons a r ih =>
    obtain ⟨ha, hr⟩ := List.forall_mem_cons.mp h
    rw [List.findSome?_cons, List.findSome?_cons, ha, ih hr]

theorem dpaPuts_append (ws ws' : List (Nat × List Byte)) (x : Nat) : dpaPuts (ws ++ ws') x = (dpaPuts ws' x).or (dpaPuts ws x) := by
  rw [dpaPuts, List.reverse_append, List.findSome?_append]; rfl

theorem wroteDpa_append {s t u : Dev} {ws ws' : List (Nat × List Byte)} (h : s.wroteDpa t ws) (g : t.wroteDpa u ws') : s.wroteDpa u (ws ++ ws') := by
  intro x hx
  rw [g x hx, h x hx, dpaPuts_append]
  cases dpaPuts ws' x <;> rfl

theorem wroteDpa_nil {s t : Dev} {l : List Part} (h : s.sameBut t l) (hm : Part.mem ∉ l) (hu : Part.undef ∉ l) : s.wroteDpa t [] :=
  fun _ hx => h.byteAt hm hu (isReg_of_unitPlace (unitPlace_of_memPlace hx))

/-- The parts that writes of memory without errors may change. -/
def writeParts : List Part := [.mem, .undef, .stackTab, .regs]

theorem errorless_of_sameBut {s t : Dev} {l : List Part} (h : s.sameBut t l) (ho : Part.oneBit ∉ l) (hb : Part.bad ∉ l) (hs : s.errorless) : t.errorless :=
  ⟨(h.oneBit ho).trans hs.1, (h.bad hb).trans hs.2⟩

theorem memWrite_mem {s : Dev} {a : Nat} (hm : memPlace a = true) (he : s.errorless) (bs : List Byte) :
    s.sameBut ((memWrite a bs false).run s) writeParts ∧ s.wroteDpa ((memWrite a bs false).run s) [(a, bs)] := by
  have e : busWrite a bs = memWrite a bs false := by
    unfold memPlace at hm
    unfold busWrite
    cases h : place a <;> simp_all
  exact e ▸ busWrite_mem hm he bs

/-- The pieces of a write at a virtual address, each with the DPA where it goes. -/
def Dev.writePieces (s : Dev) (d p : Nat) (w : Nat × List Byte) : List (Nat × List Byte) :=
  (pagePieces w.1 w.2.length).map fun q => (s.dpaOf d p q.1, (w.2.drop (q.1 - w.1)).take q.2)

/-- Writes of memory without errors, one after the other. -/
theorem memWrites_mem {s : Dev} (he : s.errorless) {ws : List (Nat × List Byte)} (h : ∀ w, w ∈ ws → memPlace w.1 = true) :
    s.sameBut ((forAll ws fun w => memWrite w.1 w.2 false).run s) writeParts ∧ s.wroteDpa ((forAll ws fun w => memWrite w.1 w.2 false).run s) ws := by
  induction ws generalizing s with
  | nil => exact ⟨sameBut_refl _ _, wroteDpa_nil (sameBut_refl s []) (by decide) (by decide)⟩
  | cons w ws ih =>
    obtain ⟨hw, hws⟩ := List.forall_mem_cons.mp h
    obtain ⟨hframe, hput⟩ := memWrite_mem hw he w.2
    obtain ⟨hframe', hput'⟩ := ih (errorless_of_sameBut hframe (by decide) (by decide) he) hws
    exact ⟨sameBut_trans hframe hframe', wroteDpa_append (ws := [w]) hput hput'⟩

theorem vaWrite_run (s : Dev) (d p : Nat) (w : Nat × List Byte) :
    (vaWrite d p w.1 w.2 false).run s = (forAll (s.writePieces d p w) fun w => memWrite w.1 w.2 false).run s := by
  rw [vaWrite, run_look, forAll, forAll, Dev.writePieces, List.map_map]; rfl

theorem dpaPuts_writePieces (s : Dev) (d p : Nat) (w : Nat × List Byte) (x : Nat) : dpaPuts (s.writePieces d p w) x = s.vaPuts d p w x := by
  rw [dpaPuts, Dev.writePieces, ← List.map_reverse, List.findSome?_map, Dev.vaPuts]
  refine findSome_congr fun q hq => ?_
  obtain ⟨hlo, hhi, -⟩ := pagePieces_within (List.mem_reverse.mp hq)
  have hlen : ((w.2.drop (q.1 - w.1)).take q.2).length = q.2 := by rw [List.length_take, List.length_drop]; omega
  simp only [Function.comp_apply, hlen]
  split
  next hx =>
    rw [List.getD_eq_getElem _ _ (by omega), List.getD_eq_getElem _ _ (by omega), List.getElem_take, List.getElem_drop]
  next => rfl

/-- A write of a range in memory stores its bytes; beside the memory it changes counters and the form of stack blocks alone. -/
theorem vaWrite_mem {s : Dev} {k : Nat} (he : s.errorless) {w : Nat × List Byte} (h : s.inMemory k w.1 w.2.length) :
    s.sameBut ((vaWrite (k / 168) (k % 168) w.1 w.2 false).run s) writeParts
      ∧ s.wroteVa ((vaWrite (k / 168) (k % 168) w.1 w.2 false).run s) (k / 168) (k % 168) [w] := by
  rw [vaWrite_run]
  obtain ⟨hframe, hput⟩ := memWrites_mem he (ws := s.writePieces (k / 168) (k % 168) w) fun v hv => by
    obtain ⟨q, hq, rfl⟩ := List.mem_map.mp hv
    obtain ⟨hlo, hhi, hpos⟩ := pagePieces_within hq
    exact dpaOf_inMemory h hlo (by omega)
  refine ⟨hframe, fun x hx => (hput x hx).trans ?_⟩
  rw [dpaPuts_writePieces, List.reverse_singleton, List.findSome?_singleton]

theorem vaPuts_samePages {s t : Dev} {k : Nat} {w : Nat × List Byte} (h : s.inMemory k w.1 w.2.length) (hp : s.samePages t k) (x : Nat) :
    t.vaPuts (k / 168) (k % 168) w x = s.vaPuts (k / 168) (k % 168) w x := by
  refine findSome_congr fun q hq => ?_
  obtain ⟨hlo, hhi, hpos⟩ := pagePieces_within (List.mem_reverse.mp hq)
  rw [dpaOf_samePages h hp hlo (by omega)]

/-- Writes after writes, whose pages the former leave as they were. -/
theorem wroteVa_append {s t u : Dev} {k : Nat} {ws ws' : List (Nat × List Byte)} (h : s.wroteVa t (k / 168) (k % 168) ws)
    (g : t.wroteVa u (k / 168) (k % 168) ws') (hp : s.samePages t k) (hm : ∀ w, w ∈ ws' → s.inMemory k w.1 w.2.length) :
    s.wroteVa u (k / 168) (k % 168) (ws ++ ws') := by
  intro x hx
  have hputs : (ws'.reverse.findSome? fun w => t.vaPuts (k / 168) (k % 168) w x) = ws'.reverse.findSome? fun w => s.vaPuts (k / 168) (k % 168) w x :=
    findSome_congr fun w hw => vaPuts_samePages (hm w (List.mem_reverse.mp hw)) hp x
  rw [g x hx, h x hx, hputs, List.reverse_append, List.findSome?_append]
  cases ws'.reverse.findSome? fun w => s.vaPuts (k / 168) (k % 168) w x <;> rfl

theorem within_noteWrite (cmd a n : Nat) : (noteWrite cmd a n).Within fun u => u.parts ⊆ [.drovers] := by
  intro s
  rw [within_only]
  intro _
  unfold onCmd
  rw [within_ite]
  split
  · trivial
  · exact within_onDrv (List.mem_singleton_self _)

end Sys2Proof.Machine
end

section
/-! SUPPORT. One unit of a running instruction (R116, R287 to R289, R349): what its accesses leave as it was, how its steps move it on, and how it ends. -/

namespace Sys2Proof.Machine

/-! ### Registers that accesses leave alone -/

/-- A stack is one of 32. -/
theorem stackOf_lt (mode a : Nat) : (stackOf mode a).1 < 32 := by
  unfold stackOf bits
  split_ifs <;> dsimp only <;> omega

/-- A DPA at which no stack counts the bursts that its compressed blocks save (R342). -/
def notZcSaved (A : Nat) : Prop := ∀ n, n < 32 → A ≠ regAddr .stk (n / 2) (n % 2) R.STK_ZC_SAVED

theorem notZcSaved_aoc {A : Nat} (h : aocBase ≤ A) : notZcSaved A := by
  intro n hn
  simp only [regAddr, blockBase, regBase, aocBase, R.STK_ZC_SAVED] at *
  omega

theorem notZcSaved_cc (k : Nat) {off : Nat} (h : off < 0x1000) : notZcSaved (regAddr .cc (k / 168) (k % 168) off) := by
  intro n hn
  simp only [regAddr, blockBase, clRegBase, regBase, R.STK_ZC_SAVED]
  omega

theorem regAt_zcRead {A : Nat} (h : notZcSaved A) (a n : Nat) (s : Dev) : ((zcRead a n).run s).regAt A = s.regAt A := by
  refine Prog.Within.regAt ?_ s
  simp only [zcRead, within_look, within_only, within_forAll]
  intro s _ b _
  split
  · exact within_tally _ fun v => h _ (stackOf_lt ..)
  · trivial

theorem memTouch_errorless {s : Dev} (h : s.errorless) (a n : Nat) : (memTouch a n).run s = (zcRead a n).run s := by
  obtain ⟨ho, hb⟩ := h
  simp only [memTouch, readChecks, run_progs_cons, run_progs_nil, run_look, ho, hb, touched_nil, run_forAll_nil]

section
variable {s : Dev} {k : Nat} {reads writes : List VAcc} (hs : s.errorless)
include hs

theorem regAt_accessed {A : Nat} (h : notZcSaved A) : (s.accessed k reads writes).regAt A = s.regAt A := by
  have hva {t : Dev} (ht : t.errorless) (a : VAcc) : ((vaTouch (k / 168) (k % 168) a.va a.len).run t).regAt A = t.regAt A := by
    rw [vaTouch, run_look]
    refine (run_forAll_keeps (P := fun u => t.sameBut u [.regs] ∧ u.regAt A = t.regAt A) (fun q _ u hu => ?_) ⟨sameBut_refl _ _, rfl⟩).2
    have hue := errorless_of_sameBut hu.1 (by decide) (by decide) ht
    exact ⟨sameBut_trans hu.1 (sameBut_memTouch hue _ _), by rw [memTouch_errorless hue, regAt_zcRead h, hu.2]⟩
  unfold Dev.accessed
  rw [touchPages_run]
  refine (run_forAll_keeps (P := fun u => s.sameBut u [.clusters, .regs] ∧ u.regAt A = s.regAt A) (fun a _ u hu => ?_)
    ⟨(sameBut_apply s _).mono (by simp [Upd.parts]), rfl⟩).2
  have hue := errorless_of_sameBut hu.1 (by decide) (by decide) hs
  exact ⟨sameBut_trans hu.1 ((sameBut_vaTouch hue _ _ _ _).mono (by decide)), by rw [hva hue, hu.2]⟩

theorem errorless_accessed : (s.accessed k reads writes).errorless :=
  errorless_of_sameBut (sameBut_accessed hs) (by decide) (by decide) hs

theorem entryNo_accessed (uid : Nat) : (s.accessed k reads writes).entryNo k uid = s.entryNo k uid := by
  rw [Dev.entryNo, cl_accessed hs, if_pos rfl, ← Dev.entryNo]

theorem first_accessed (e : Entry) : ((s.accessed k reads writes).cl k).first e = (s.cl k).first e := by
  rw [cl_accessed hs, if_pos rfl]; rfl

theorem ctBank_accessed (e : Entry) : (s.accessed k reads writes).ctBank k e = s.ctBank k e := by
  rw [Dev.ctBank, cl_accessed hs, if_pos rfl, ← Dev.ctBank]

theorem samePages_accessed (h : tlbApart (s.cl k).tlb = true) : s.samePages (s.accessed k reads writes) k := by
  intro va
  rw [cl_accessed hs, if_pos rfl]
  exact tlbFind_perm ((tlbApart_iff _).mp h) (tlbTouches_perm _ _) va

/-- A range in memory reads after accesses as it did before them. -/
theorem vaBytes_accessed_inMemory {va n : Nat} (ha : tlbApart (s.cl k).tlb = true) (h : s.inMemory k va n) :
    (s.accessed k reads writes).vaBytes (k / 168) (k % 168) va n = s.vaBytes (k / 168) (k % 168) va n :=
  vaBytes_samePages h (samePages_accessed hs ha) (sameBut_accessed hs) (by decide) (by decide)
end

/-! ### Accesses after accesses -/

/-- What an access meets at a DPA depends on the domains, the stacks and the span modes (R28, R338, R339, R498). -/
theorem reachAt_congr {s t : Dev} (hd : t.doms = s.doms) (hst : t.stackTab = s.stackTab)
    (hspan : ∀ g, t.reg .span 20 0 (4 * g) = s.reg .span 20 0 (4 * g)) (a : Nat) : t.reachAt a = s.reachAt a := by
  have hdom (j : Nat) : t.dom j = s.dom j := by rw [Dev.dom, hd, ← Dev.dom]
  have hno : t.stackNo a = s.stackNo a := by simp only [Dev.stackNo, Dev.spanMode, Dev.fld, hspan]
  have hrow : t.rowSparing a = s.rowSparing a := by simp only [Dev.rowSparing, Dev.spanMode, Dev.fld, hspan, Dev.stk, hst]
  have hon (j : Nat) : t.domOn j = s.domOn j := by rw [Dev.domOn, Dev.domOn, hdom]
  have hcl (d p : Nat) : t.clusterOn d p = s.clusterOn d p := by rw [Dev.clusterOn, Dev.clusterOn, hdom]
  have hblock (rb : RB) (d i : Nat) : t.blockOn rb d i = s.blockOn rb d i := by cases rb <;> simp only [Dev.blockOn, hcl, hon]
  have hclosed : t.fld .span 20 0 (4 * (a / 2 ^ 35)) 4 4 = s.fld .span 20 0 (4 * (a / 2 ^ 35)) 4 4 := by rw [Dev.fld, Dev.fld, hspan]
  unfold Dev.reachAt
  cases place a with
  | stack => rw [hclosed, hno, hdom, hrow]
  | store d p => dsimp only; rw [hcl]
  | reg rb d i => dsimp only; rw [hblock]
  | mram d => dsimp only; rw [hon]
  | _ => rfl

theorem reachFor_congr {s t : Dev} (h : ∀ a, t.reachAt a = s.reachAt a) (a n access : Nat) : t.reachFor a n access = s.reachFor a n access := by
  simp only [Dev.reachFor, Dev.reachRange, h]

theorem meetsPieces_congr {s t : Dev} {d p : Nat} (hx : ∀ va acc, t.xlate d p va acc = s.xlate d p va acc) (hr : ∀ a, t.reachAt a = s.reachAt a)
    (l : List VAcc) : t.meetsPieces d p l = s.meetsPieces d p l := by
  induction l with
  | nil => rfl
  | cons a l ih => simp only [Dev.meetsPieces, hx, reachFor_congr hr, ih]

section
variable {s : Dev} {k : Nat} {reads writes : List VAcc} (hs : s.errorless)
include hs

theorem xlate_accessed (h : tlbApart (s.cl k).tlb = true) (va acc : Nat) :
    (s.accessed k reads writes).xlate (k / 168) (k % 168) va acc = s.xlate (k / 168) (k % 168) va acc := by
  have hroot := regAt_accessed (k := k) (reads := reads) (writes := writes) hs (A := regAddr .dmmu 20 0 R.DMMU_ROOT_LO)
    (notZcSaved_aoc (by simp only [regAddr, blockBase]; omega))
  have hon : (s.accessed k reads writes).dmmuOn = s.dmmuOn := by rw [Dev.dmmuOn, Dev.dmmuOn, Dev.fld, Dev.fld, Dev.reg, Dev.reg, hroot]
  have hfind := samePages_accessed (reads := reads) (writes := writes) hs h va
  simp only [Dev.xlate, hon, ck_div_mod, hfind, (sameBut_accessed hs).die (by decide), if_pos (show k % 168 < 168 from Nat.mod_lt _ (by decide))]

theorem reachAt_accessed (a : Nat) : (s.accessed k reads writes).reachAt a = s.reachAt a := by
  refine reachAt_congr ((sameBut_accessed hs).doms (by decide)) ((sameBut_accessed hs).field Dev.stackTab .stackTab
    (fun _ q hq => by cases q with | stackTab => exact absurd rfl hq | _ => rfl) (by decide)) (fun g => ?_) a
  exact regAt_accessed hs (notZcSaved_aoc (by simp only [regAddr, blockBase]; omega))

/-- Accesses that meet nothing still meet nothing after others. -/
theorem granted_accessed {l : List VAcc} (h : s.granted k l false) : (s.accessed k reads writes).granted k l false := by
  obtain ⟨hhit, hmeets, -, honce, hapart, hpages⟩ := h
  have hperm := tlbTouches_perm (s.cl k).tlb (vaPieces (reads ++ writes))
  refine ⟨fun a ha => ?_, ?_, fun h => absurd h (by decide), ?_, ?_, ?_⟩
  · rw [xlate_accessed hs hapart]; exact hhit a ha
  · rw [Dev.meets, meetsPieces_congr (xlate_accessed hs hapart) (reachAt_accessed hs)]; exact hmeets
  · rw [(sameBut_accessed hs).die (by decide)]; exact honce
  · rw [cl_accessed hs, if_pos rfl, tlbApart_iff]
    exact hperm.pairwise ((tlbApart_iff _).mp hapart) fun hxy => hxy.symm
  · rw [cl_accessed hs, if_pos rfl]
    exact (hperm.all_eq (f := fun e : Tlb => decide (16 ≤ e.lg) && decide (e.va % 65536 = 0) && decide (e.dpa % 65536 = 0))).symm.trans hpages
end

/-! ### A unit moves on -/

/-- An instruction of cluster `k` has written `ws`, and its entry has become what `g` gives; beside what such a unit may change, the pages that the
cluster finds stand too. -/
structure Dev.advanced (s t : Dev) (k uid : Nat) (ws : List (Nat × List Byte)) (g : Entry → Entry) : Prop where
  wrote : s.wroteVa t (k / 168) (k % 168) ws
  frame : s.sameBut t [.clusters, .regs, .mem, .undef, .drovers, .stackTab]
  others : ∀ j, j ≠ k → t.cl j = s.cl j
  pages : s.samePages t k
  entry : ∀ e, s.entryNo k uid = some e → t.entryNo k uid = some (g e)

theorem Dev.advanced.wroteAs {s t : Dev} {k uid : Nat} {ws : List (Nat × List Byte)} {g : Entry → Entry} (h : s.advanced t k uid ws g) :
    s.wroteAs t k ws := ⟨h.wrote, h.frame, h.others⟩

theorem wroteVa_nil {s t : Dev} {l : List Part} (h : s.sameBut t l) (hm : Part.mem ∉ l) (hu : Part.undef ∉ l) (d p : Nat) : s.wroteVa t d p [] :=
  wroteDpa_nil h hm hu

/-- What writes nothing and leaves the entry alone. -/
theorem Dev.advanced.quiet {s t u : Dev} {k uid : Nat} {ws : List (Nat × List Byte)} {g : Entry → Entry} (h : s.advanced t k uid ws g)
    (hf : t.sameBut u [.clusters, .regs]) (ho : ∀ j, j ≠ k → u.cl j = t.cl j) (hp : t.samePages u k) {f : Entry → Entry}
    (he : ∀ e, t.entryNo k uid = some e → u.entryNo k uid = some (f e)) : s.advanced u k uid ws (f ∘ g) where
  wrote := List.append_nil ws ▸ wroteVa_append h.wrote (wroteVa_nil hf (by decide) (by decide) _ _) h.pages fun _ hw => absurd hw List.not_mem_nil
  frame := sameBut_trans h.frame (hf.mono (by decide))
  others j hj := (ho j hj).trans (h.others j hj)
  pages := h.pages.trans hp
  entry e hx := he _ (h.entry e hx)

theorem advanced_refl (s : Dev) (k uid : Nat) : s.advanced s k uid [] id where
  wrote := wroteVa_nil (sameBut_refl s []) (by decide) (by decide) _ _
  frame := sameBut_refl _ _
  others _ _ := rfl
  pages := samePages_refl s k
  entry _ he := he

/-- An entry whose run `f` has changed. -/
def Entry.mapRun (f : Run → Run) (y : Entry) : Entry := { y with run := f y.run }

/-- An entry `y` of the instruction `e` once one of its `total` units is done. -/
def Entry.afterUnit (e : Entry) (total : Nat) (y : Entry) : Entry :=
  let z : Entry := { y with run := { y.run with units := y.run.units + 1 } }
  if total ≤ e.run.units + 1 then { z with stage := z.endStage } else z

theorem afterUnit_run (e : Entry) (total : Nat) (y : Entry) : (e.afterUnit total y).run = { y.run with units := y.run.units + 1 } := by
  unfold Entry.afterUnit
  dsimp only
  split <;> rfl

theorem afterUnit_stage {e y : Entry} {total : Nat} (h : y.stage = .running) : (e.afterUnit total y).stage = .running ↔ e.run.units + 1 < total := by
  unfold Entry.afterUnit
  dsimp only
  split
  next hl =>
    refine iff_of_false ?_ (by omega)
    dsimp only [Entry.endStage]
    split <;> decide
  next hl => exact iff_of_true h (by omega)

section
variable {s t u : Dev} {k uid : Nat} {ws : List (Nat × List Byte)} {g : Entry → Entry} (h : s.advanced t k uid ws g)
include h

theorem Dev.advanced.accessed (ht : t.errorless) (ha : tlbApart (t.cl k).tlb = true) (reads writes : List VAcc) :
    s.advanced (t.accessed k reads writes) k uid ws g :=
  h.quiet (f := id) (sameBut_accessed ht) (fun j hj => by rw [cl_accessed ht, if_neg hj]) (samePages_accessed ht ha) fun e he => by
    rw [entryNo_accessed ht]; exact he

theorem Dev.advanced.tally (rb : RB) (d i off n : Nat) : s.advanced ((tally rb d i off n).run t) k uid ws g :=
  h.quiet (f := id) ((sameBut_tally ..).mono (by decide)) (fun j _ => cl_tally ..) (fun va => by rw [cl_tally]) fun e he => by
    rw [Dev.entryNo, cl_tally]; exact he

theorem Dev.advanced.onEntry (f : Entry → Entry) (hf : ∀ y, (f y).uid = y.uid) : s.advanced ((onEntry k uid f).run t) k uid ws (f ∘ g) :=
  h.quiet ((sameBut_onEntry ..).mono (by decide)) (fun j hj => by rw [cl_onEntry, if_neg hj]) (fun va => by rw [cl_onEntry, if_pos rfl]) fun _ he =>
    entryNo_onEntry he hf

theorem Dev.advanced.onRun (f : Run → Run) : s.advanced ((onRun k uid f).run t) k uid ws (Entry.mapRun f ∘ g) :=
  h.onEntry (Entry.mapRun f) fun _ => rfl

theorem Dev.advanced.busyNow (l : List Nat) : s.advanced ((busyNow k l).run t) k uid ws g := by
  have hcl (j : Nat) : ((Machine.busyNow k l).run t).cl j
      = if j = k then { t.cl k with engIdle := l.foldl (fun m b => sput m b t.clock) (t.cl k).engIdle } else t.cl j := cl_apply ..
  refine h.quiet (u := (Machine.busyNow k l).run t) (f := id) ((sameBut_apply t (.cl k _)).mono (by simp [Upd.parts]))
    (fun j hj => by rw [hcl, if_neg hj]) (fun va => by rw [hcl, if_pos rfl]) fun e he => ?_
  rw [Dev.entryNo, hcl, if_pos rfl]; exact he

/-- One unit is done: the cursor moves on, and after the last one the run has ended. -/
theorem Dev.advanced.unitDone (e : Entry) (huid : e.uid = uid) (total : Nat) :
    s.advanced ((unitDone k e total).run t) k uid ws (e.afterUnit total ∘ g) := by
  subst huid
  have hcursor := (h.busyNow (gateBits e.target)).onEntry (fun y => { y with run := { y.run with units := y.run.units + 1 } }) fun _ => rfl
  rw [Machine.unitDone, run_progs_cons, run_progs_cons, run_progs_cons, run_progs_nil]
  by_cases hl : total ≤ e.run.units + 1
  · have hg : e.afterUnit total ∘ g
        = (fun y => { y with stage := y.endStage }) ∘ (fun y => { y with run := { y.run with units := y.run.units + 1 } }) ∘ g :=
      funext fun _ => if_pos hl
    rw [decide_eq_true hl, run_only_true, hg]
    exact hcursor.onEntry _ fun _ => rfl
  · have hg : e.afterUnit total ∘ g = (fun y => { y with run := { y.run with units := y.run.units + 1 } }) ∘ g := funext fun _ => if_neg hl
    rw [decide_eq_false hl, run_only_false, hg]
    exact hcursor

/-- Writes of ranges that lay in memory at the unit's start. -/
theorem Dev.advanced.cmdWrites (hs : s.errorless) (cmd : Nat) {ws' : List (Nat × List Byte)} (hm : ∀ w, w ∈ ws' → s.inMemory k w.1 w.2.length) :
    s.advanced ((cmdWrites k cmd ws').run t) k uid (ws ++ ws') g := by
  induction ws' generalizing t ws with
  | nil => rw [List.append_nil]; exact h
  | cons w ws' ih =>
    obtain ⟨hw, hws⟩ := List.forall_mem_cons.mp hm
    obtain ⟨hframe, hput⟩ := vaWrite_mem (errorless_of_sameBut h.frame (by decide) (by decide) hs) (hw.congr h.pages)
    generalize hv : (vaWrite (k / 168) (k % 168) w.1 w.2 false).run t = v at hframe hput
    obtain ⟨a, n, hrun⟩ : ∃ a n, (Machine.cmdWrites k cmd (w :: ws')).run t = (Machine.cmdWrites k cmd ws').run ((noteWrite cmd a n).run v) :=
      ⟨_, _, by rw [← hv, Machine.cmdWrites, run_forAll_cons]; rfl⟩
    have hnote := (within_noteWrite cmd a n).sameBut v
    have hcl : ((noteWrite cmd a n).run v).cl = t.cl := (hnote.cl (by decide)).trans (hframe.cl (by decide))
    rw [hrun, show ws ++ w :: ws' = ws ++ [w] ++ ws' by simp]
    refine ih ⟨?_, ?_, fun j hj => ?_, fun va => ?_, fun e he => ?_⟩ hws
    · have hall : t.wroteVa ((noteWrite cmd a n).run v) (k / 168) (k % 168) [w] := fun x hx =>
        (hnote.byteAt (by decide) (by decide) (isReg_of_unitPlace (unitPlace_of_memPlace hx))).trans (hput x hx)
      exact wroteVa_append h.wrote hall h.pages fun v hv => List.mem_singleton.mp hv ▸ hw
    · exact sameBut_trans h.frame (sameBut_trans (hframe.mono (by decide)) (hnote.mono (by decide)))
    · rw [hcl]; exact h.others j hj
    · rw [hcl]; exact h.pages va
    · rw [Dev.entryNo, hcl]; exact h.entry e he
end

/-- What the cursor and the stage of an advanced entry say of its unit. -/
theorem Dev.advanced.unitRan {s t : Dev} {k total : Nat} {ws : List (Nat × List Byte)} {e : Entry} {f : Entry → Entry}
    (h : s.advanced t k e.uid ws (e.afterUnit total ∘ f))
    (he : s.entryNo k e.uid = some e) (hst : (f e).stage = .running) (hu : (f e).run.units = e.run.units) : t.unitRan k e total :=
  ⟨_, h.entry e he, by rw [Function.comp_apply, afterUnit_run, hu], by rw [Function.comp_apply, afterUnit_stage hst]⟩

/-! ### A unit ends its instruction -/

/-- The instructions and tags of every cluster stand, and where nothing is to be used once only, nothing becomes so. -/
structure Dev.queuesKept (s t : Dev) : Prop where
  entries : ∀ k, (t.cl k).entries = (s.cl k).entries
  tags : ∀ k, (t.cl k).tags = (s.cl k).tags
  once : ∀ d, (s.die d).once = [] → (t.die d).once = []

theorem Dev.queuesKept.trans {s t u : Dev} (h : s.queuesKept t) (g : t.queuesKept u) : s.queuesKept u :=
  ⟨fun k => (g.entries k).trans (h.entries k), fun k => (g.tags k).trans (h.tags k), fun d hd => g.once d (h.once d hd)⟩

theorem Dev.workKept.queuesKept {s t : Dev} (h : s.workKept t) : s.queuesKept t := ⟨fun k => (h.cl k).entries, fun k => (h.cl k).tags, h.once⟩

theorem queuesKept_users (k : Nat) (c : Capture) (up : Bool) (s : Dev) : s.queuesKept ((users k c up).run s) := by
  have hcl (x : Cluster) (h : x.entries = (s.cl k).entries ∧ x.tags = (s.cl k).tags) : s.queuesKept (s.apply (.cl k x)) := by
    refine ⟨fun j => ?_, fun j => ?_, fun _ h => h⟩ <;> rw [cl_apply] <;> split
    · subst_vars; exact h.1
    · rfl
    · subst_vars; exact h.2
    · rfl
  refine hcl _ ?_
  dsimp only
  split <;> exact ⟨rfl, rfl⟩

theorem queuesKept_progs {ps : List Prog} (h : ∀ p ∈ ps, ∀ t : Dev, t.queuesKept (p.run t)) (s : Dev) : s.queuesKept ((progs ps).run s) := by
  induction ps generalizing s with
  | nil => exact (workKept_refl s).queuesKept
  | cons p r ih =>
    obtain ⟨hp, hr⟩ := List.forall_mem_cons.mp h
    exact (hp s).trans (ih hr _)

/-- An instruction that gives back what it holds, the use of its slots among it, leaves instructions and tags as they are. -/
theorem queuesKept_dropHeld (k : Nat) (e : Entry) (s : Dev) : s.queuesKept ((dropHeld k e).run s) := by
  have hcl (f : Cluster → Cluster) (hf : ∀ c : Cluster, c.sameWork (f c)) (t : Dev) : t.queuesKept ((onCl k f).run t) :=
    (workKept_apply_cl (hf _)).queuesKept
  refine queuesKept_progs (fun p hp t => ?_) s
  simp only [List.mem_cons, List.not_mem_nil, or_false] at hp
  obtain rfl | rfl | rfl | rfl | rfl | rfl | rfl := hp
  · exact (workKept_dropHolds e t).queuesKept
  · exact (workKept_unpin k e t).queuesKept
  · exact run_forAll_keeps (P := fun u => t.queuesKept u) (fun c _ u hu => hu.trans (queuesKept_users k c false u)) (workKept_refl t).queuesKept
  · exact (workKept_withdraw _ _ t).queuesKept
  · exact (workKept_dropWalks _ _ t).queuesKept
  · exact (workKept_unwaitAll _ _ t).queuesKept
  · refine hcl _ ?_ t
    exact fun _ => ⟨rfl, rfl, rfl, rfl⟩

/-- An instruction has ended with a status; nothing is to be used once only that was not, and no write is on its way that was not. -/
structure Dev.left (s t : Dev) (k uid status : Nat) : Prop where
  ended : s.ended t k uid status
  once : ∀ d, (s.die d).once = [] → (t.die d).once = []
  unitWrites : t.unitWrites = s.unitWrites

theorem Dev.left.after {s t u : Dev} {k uid status : Nat} (h : t.left u k uid status) (g : s.tablesKept t k) : s.left u k uid status := by
  obtain ⟨⟨hgone, htags, hdone⟩, honce, hwr⟩ := h
  exact ⟨⟨hgone, g.tags ▸ htags, g.tags ▸ hdone⟩, fun d hd => honce d (g.once d hd), hwr.trans g.unitWrites⟩

section
variable {s : Dev} {k uid : Nat} {e : Entry} (he : s.entryNo k uid = some e) (hop : e.op ≠ 0x16 ∧ e.op ≠ 0x20)
include he hop

/-- An instruction that loads no slot ends. -/
theorem endEntry_left {status : Nat} (hst : status < 256) (cause und : Nat) (flag : Bool) :
    s.left ((endEntry k uid status cause und flag).run s) k uid status := by
  have hunit := ((within_endEntry k uid status cause und flag (l := [.clusters, .dies, .drovers, .mem, .undef, .free])
    (by decide) (by decide) (by decide) fun _ => by decide).sameBut s).unitWrites (by decide)
  obtain ⟨v, w, hv, hw, hrun⟩ := endEntry_run he status cause und flag
  have hundef : s.sameBut ((only (!statusGood status) (undefOuts k e)).run s) [.mem, .undef, .free] :=
    Prog.Within.sameBut (by rw [within_only]; exact fun _ => within_undefOuts k e) s
  have hload {t : Dev} : t.workKept ((only (!statusGood status) (dropLoad k e)).run t) :=
    workKept_only _ (workKept_dropLoad ⟨fun h => absurd h hop.1, fun h => absurd h hop.2⟩)
  have hkept : s.queuesKept v :=
    hv ▸ (workKept_of_sameBut hundef (by decide) (by decide)).queuesKept.trans (hload.queuesKept.trans (queuesKept_dropHeld k e _))
  have hclw : w.cl k = { v.cl k with entries := (v.cl k).entries.filter fun x => !(x.uid == uid) } := by
    rw [hw]; exact (cl_apply ..).trans (if_pos rfl)
  have htag := tagDone_completeTag k uid (w.record k e status cause und flag) w
  rw [leAt_record _ _ _ hst, ← hrun, Dev.tagDone, show (w.cl k).tags = (s.cl k).tags by rw [hclw]; exact hkept.tags k] at htag
  refine ⟨⟨fun y hy => ?_, htag⟩, fun d hd => ?_, hunit⟩
  · rw [hrun, cl_completeTag, hclw] at hy
    obtain ⟨x, hx, rfl⟩ := List.mem_map.mp hy
    simpa using (List.mem_filter.mp hx).2
  · rw [hrun, ((within_completeTag (l := [.clusters, .drovers]) k uid _ (by decide) (by decide)).sameBut w).die (by decide), hw]
    exact hkept.once d hd

/-- It ends after entries of the event log. -/
theorem endEntry_left_logged {v : Dev} (hv : s.sameBut v logParts) {status : Nat} (hst : status < 256) (cause und : Nat) (flag : Bool) :
    s.left ((endEntry k uid status cause und flag).run v) k uid status := by
  refine (endEntry_left (e := e) ?_ hop hst cause und flag).after (tablesKept_of_sameBut hv (by decide) (by decide) (by decide))
  rw [Dev.entryNo, hv.cl (by decide)]
  exact he

/-- A condition found in its data ends it, when it stands first in its queues (R287, R291). -/
theorem dataCondition_left (hfirst : (s.cl k).first e = true) (hhalf : isHalf e.target = false) (cause check : Nat) (w : FaultAt) (info : Option Nat) :
    s.left ((dataConditionAt k uid cause check w info).run s) k uid 0x71 := by
  have hrun : (dataConditionAt k uid cause check w info).run s = (endEntry k uid 0x71 cause 0 false).run
      ((faultRecord k e 0x71 cause w check info true).run ((tcTally k R.TC_DESC_REFUSED 1).run s)) := by
    rw [dataConditionAt, whenFirst, run_look, show (s.cl k).entries.find? _ = some e from he]
    dsimp only
    rw [hfirst, Bool.or_true, run_only_true, hhalf, run_progs_cons, run_progs_cons, run_progs_cons, run_progs_nil, if_neg (by decide)]
  rw [hrun]
  exact endEntry_left_logged he hop (sameBut_trans ((sameBut_tcTally k _ 1 s).mono (by decide)) (sameBut_faultRecord ..)) (by decide) cause 0 false
end

end Sys2Proof.Machine
end

section
/-! CERTIFICATE. RANS_ENC and RANS_DEC (R206, R212, R218 to R224): one chunk of a record. -/

namespace Sys2Proof.Machine

/-! ### What the coders read -/

theorem ccOn_eq {c : Cluster} {op n : Nat} {e : Entry} (h : c.ccOn op n = some e) : e.stage = .running ∧ e.op = op ∧ 0x20 ≤ e.target := by
  have := List.find?_some h
  simp only [Bool.and_eq_true, beq_iff_eq, decide_eq_true_eq, ccTarget] at this
  obtain ⟨⟨⟨hst, hop⟩, ht⟩, -⟩ := this
  have ht := of_decide_eq_true ht
  exact ⟨hst, hop, by omega⟩

theorem symSize_eq (x : TCtx) : x.symSize = 1 ∨ x.symSize = 2 := by unfold TCtx.symSize; split <;> simp

section
variable {s t : Dev} {k first n : Nat} {e : Entry}

theorem classes_length (s : Dev) (k first n : Nat) (e : Entry) : ((s.ctx k e).classes first n).length = n := by
  unfold TCtx.classes
  split
  · simp
  · rw [List.length_map]; exact vaBytes_length ..

/-- The classes of a range of symbols depend on their class bytes alone. -/
theorem classes_congr (h : ∀ r, r ∈ (s.ctx k e).classRange first n → t.vaBytes (k / 168) (k % 168) r.1 r.2 = s.vaBytes (k / 168) (k % 168) r.1 r.2) :
    (t.ctx k e).classes first n = (s.ctx k e).classes first n := by
  change (if e.d.cycleMode then _ else (t.vaBytes _ _ _ _).map _) = if e.d.cycleMode then _ else (s.vaBytes _ _ _ _).map _
  by_cases hc : e.d.cycleMode = true
  · rw [if_pos hc, if_pos hc]; rfl
  · have hr : (argVa e.args 8 + first, n) ∈ (s.ctx k e).classRange first n := by
      rw [show (s.ctx k e).classRange first n = [(argVa e.args 8 + first, n)] from if_neg hc]
      exact List.mem_singleton_self _
    rw [if_neg hc, if_neg hc]
    exact congrArg (List.map _) (h _ hr)

/-- The symbols of a range that lies in memory are the same where its pages and the memory are. -/
theorem symbols_congr (h : ∀ va len, argVa e.args 0 + first * (s.ctx k e).symSize ≤ va →
      va + len ≤ argVa e.args 0 + first * (s.ctx k e).symSize + n * (s.ctx k e).symSize →
      t.vaBytes (k / 168) (k % 168) va len = s.vaBytes (k / 168) (k % 168) va len) :
    (t.ctx k e).symbols first n = (s.ctx k e).symbols first n := by
  refine List.map_congr_left fun i hi => ?_
  have hi := List.mem_range.mp hi
  have hrd : t.vaBytes (k / 168) (k % 168) (argVa e.args 0 + (first + i) * (s.ctx k e).symSize) (s.ctx k e).symSize
      = s.vaBytes (k / 168) (k % 168) (argVa e.args 0 + (first + i) * (s.ctx k e).symSize) (s.ctx k e).symSize := by
    refine h _ _ ?_ ?_ <;> rcases symSize_eq (s.ctx k e) with hz | hz <;> rw [hz] <;> omega
  exact congrArg (fun b => if e.d.symFmt = 1 then sext 16 (leNat b) else sext 8 (leNat b)) hrd
end

theorem any_le_eq_false {l : List Nat} {m : Nat} (h : ∀ v, v ∈ l → v < m) : l.any (fun v => m ≤ v) = false := by
  simpa using h

theorem any_le_eq_true {l : List Nat} {m : Nat} (h : ∃ v, v ∈ l ∧ m ≤ v) : l.any (fun v => m ≤ v) = true := by
  simpa using h

/-! ### The next chunk of RANS_ENC -/

namespace Entry
/-- The first symbol of a RANS_ENC's next chunk, its symbols, the chunks of its record, and whether it is the last (R212). -/
def encFirst (e : Entry) : Nat := e.run.units * e.d.chunkSyms
def encCount (e : Entry) : Nat := min e.d.chunkSyms (e.d.count32 - e.encFirst)
def encTotal (e : Entry) : Nat := ceilDiv e.d.count32 e.d.chunkSyms
def encLast (e : Entry) : Bool := decide (e.run.units + 1 = e.encTotal)
/-- The longest that its record may become (R222). -/
def encLimit (e : Entry) : Nat := argQ e.args 0x18 % 2 ^ 32
/-- Where the next chunk lies in the record (R220). -/
def encOffset (e : Entry) : Nat := recHead e.encTotal + sumNat (e.run.chunks.map (·.length))
/-- What completes the record `whole`: its directory, then its header. -/
def encHead (e : Entry) (whole : List Byte) : List (Nat × List Byte) :=
  [(argVa e.args 0x10 + 64, (whole.take (recHead e.encTotal)).drop 64), (argVa e.args 0x10, whole.take 64)]
/-- What its next chunk writes: the chunk, and with the last one directory and header. -/
def encWrites (e : Entry) (chunk whole : List Byte) : List (Nat × List Byte) :=
  [(argVa e.args 0x10 + e.encOffset, chunk)] ++ (if e.encLast then e.encHead whole else [])
end Entry

namespace Dev
/-- What a RANS_ENC reads for its next chunk: symbols, classes, and with the last chunk the tag of the record. -/
def encReads (s : Dev) (k : Nat) (e : Entry) : List (Nat × Nat) :=
  [(argVa e.args 0 + e.encFirst * (s.ctx k e).symSize, e.encCount * (s.ctx k e).symSize)] ++ (s.ctx k e).classRange e.encFirst e.encCount
    ++ (if e.encLast then [(argVa e.args 0x20, 16)] else [])
/-- The classes of its symbols, the chunk as it is coded, with its escapes, and the record with this chunk. -/
def encClasses (s : Dev) (k : Nat) (e : Entry) : List Nat := (s.ctx k e).classes e.encFirst e.encCount
def nextChunk (s : Dev) (k : Nat) (e : Entry) : List Byte × Nat :=
  Machine.encChunk (s.ctBank k e) e.d.lanesLog2 e.encFirst e.encLast (((s.ctx k e).symbols e.encFirst e.encCount).zip (s.encClasses k e))
def nextRecord (s : Dev) (k : Nat) (e : Entry) : List Byte :=
  recordOf (s.ctx k e) (s.ctBank k e) e.epoch ((s.ctx k e).rd (argVa e.args 0x20) 16) (e.run.chunks ++ [(s.nextChunk k e).1])
end Dev

/-- What RANS_ENC does after its last chunk. -/
def encFinish (k : Nat) (e : Entry) (whole : List Byte) : Prog := progs [
  cmdWrites k e.cmd (e.encHead whole),
  ccTally k R.CC_BYTES_OUT whole.length,
  onRun k e.uid fun q => { q with aux1 := whole.length }]

/-- What RANS_ENC does with a chunk of which it has read the classes `cs`, which it has coded as `r`, and whose record is `whole`; `m` is the number
of classes in the tables. -/
def encStep (k : Nat) (e : Entry) (m : Nat) (cs : List Nat) (r : List Byte × Nat) (whole : List Byte) : Prog :=
  if cs.any (fun v => m ≤ v) then dataConditionAt k e.uid 4 24 e.atStart none
  else if e.encLimit < e.encOffset + r.1.length then endEntry k e.uid 0x40 0 0 false
  else progs [
    cmdWrites k e.cmd [(argVa e.args 0x10 + e.encOffset, r.1)],
    ccTally k R.CC_SYMS_ENC e.encCount, ccTally k R.CC_ESCAPES r.2,
    onRun k e.uid fun q => { q with chunks := e.run.chunks ++ [r.1], aux0 := q.aux0 + r.2 },
    only e.encLast (encFinish k e whole),
    unitDone k e e.encTotal]

/-- The record matters for the last chunk alone. -/
theorem encStep_congr (k : Nat) (e : Entry) (m : Nat) (cs : List Nat) (r : List Byte × Nat) {v w : List Byte} (h : e.encLast = true → v = w) :
    encStep k e m cs r v = encStep k e m cs r w := by
  cases hl : e.encLast with
  | true => rw [h hl]
  | false => simp only [encStep, hl, only, Bool.false_eq_true, if_false]

theorem encStep_bad (k : Nat) (e : Entry) {m : Nat} {cs : List Nat} (h : ∃ v, v ∈ cs ∧ m ≤ v) (r : List Byte × Nat) (whole : List Byte) :
    encStep k e m cs r whole = dataConditionAt k e.uid 4 24 e.atStart none := by
  rw [encStep, any_le_eq_true h, if_pos rfl]

theorem encStep_full (k : Nat) {e : Entry} {m : Nat} {cs : List Nat} (h : ∀ v, v ∈ cs → v < m) {r : List Byte × Nat}
    (hr : e.encLimit < e.encOffset + r.1.length) (whole : List Byte) : encStep k e m cs r whole = endEntry k e.uid 0x40 0 0 false := by
  rw [encStep, any_le_eq_false h, if_neg (by decide), if_pos hr]

theorem ransEncProg_run {s : Dev} {k n : Nat} {e : Entry} (h : (s.cl k).ccOn 0x21 n = some e) : (ransEncProg k n false).run s
    = (unitAccess k e.uid e.atStart (s.encReads k e) [(argVa e.args 0x10, e.encLimit)] (look fun t =>
        encStep k e (t.ctBank k e).k (t.encClasses k e) (t.nextChunk k e) (t.nextRecord k e))).run s := by
  rw [ransEncProg, run_look, h]
  simp only [show ∀ v, bits v 31 0 = v % 2 ^ 32 by simp [bits]]
  rfl

section
variable {s : Dev} {k n : Nat} {e : Entry} (hon : (s.cl k).ccOn 0x21 n = some e) (he : s.entryNo k e.uid = some e) (hs : s.errorless)
  (hg : s.granted k (readsOf (s.encReads k e) ++ writesOf [(argVa e.args 0x10, e.encLimit)]) false)
include hs hg

/-- What RANS_ENC reads is what stood there before its accesses. -/
theorem encStep_accessed {t : Dev} (ht : t = s.accessed k (readsOf (s.encReads k e)) (writesOf [(argVa e.args 0x10, e.encLimit)])) :
    encStep k e (t.ctBank k e).k (t.encClasses k e) (t.nextChunk k e) (t.nextRecord k e)
      = encStep k e (s.ctBank k e).k (s.encClasses k e) (s.nextChunk k e) (s.nextRecord k e) := by
  obtain ⟨-, -, -, -, hapart, -⟩ := id hg
  have hrd {r : Nat × Nat} (hr : r ∈ s.encReads k e) {va len : Nat} (hlo : r.1 ≤ va) (hhi : va + len ≤ r.1 + r.2) :
      t.vaBytes (k / 168) (k % 168) va len = s.vaBytes (k / 168) (k % 168) va len :=
    ht ▸ vaBytes_accessed_inMemory hs hapart ((inMemory_read hg hr).sub hlo hhi)
  have hbank : t.ctBank k e = s.ctBank k e := ht ▸ ctBank_accessed hs e
  have hclasses : t.encClasses k e = s.encClasses k e :=
    classes_congr fun r hr => hrd (List.mem_append_left _ (List.mem_append_right _ hr)) (Nat.le_refl _) (Nat.le_refl _)
  have hsymbols := symbols_congr fun va len => hrd (List.mem_append_left _ (List.mem_append_left _ (List.mem_singleton_self _)))
  have hchunk : t.nextChunk k e = s.nextChunk k e := by rw [Dev.nextChunk, hbank, hclasses, hsymbols, ← Dev.nextChunk]
  rw [hbank, hclasses, hchunk]
  refine encStep_congr k e _ _ _ fun hl => ?_
  have htag : (t.ctx k e).rd (argVa e.args 0x20) 16 = (s.ctx k e).rd (argVa e.args 0x20) 16 :=
    hrd (r := (argVa e.args 0x20, 16)) (List.mem_append_right _ (by rw [if_pos hl]; exact List.mem_singleton_self _)) (Nat.le_refl _) (Nat.le_refl _)
  rw [Dev.nextRecord, hbank, hchunk, htag]
  rfl

include hon he

/-- RANS_ENC whose accesses are granted does its step on the device after them. -/
theorem ransEnc_run {p : Prog} (hp : encStep k e (s.ctBank k e).k (s.encClasses k e) (s.nextChunk k e) (s.nextRecord k e) = p) {v : Dev}
    (hv : p.run (s.accessed k (readsOf (s.encReads k e)) (writesOf [(argVa e.args 0x10, e.encLimit)])) = v)
    (honce : (v.die (k / 168)).once = []) : (ransEncProg k n false).run s = v := by
  have hstep := encStep_accessed hs hg rfl
  rw [hp] at hstep
  rw [ransEncProg_run hon, unitAccess_granted _ he hs hg (by rw [run_look, hstep, hv]; exact honce), run_look, hstep, hv]

/-- A RANS_ENC whose step ends it has ended. -/
theorem ransEnc_left {p : Prog} (hp : encStep k e (s.ctBank k e).k (s.encClasses k e) (s.nextChunk k e) (s.nextRecord k e) = p) {status : Nat}
    (h : (s.accessed k (readsOf (s.encReads k e)) (writesOf [(argVa e.args 0x10, e.encLimit)])).left
      (p.run (s.accessed k (readsOf (s.encReads k e)) (writesOf [(argVa e.args 0x10, e.encLimit)]))) k e.uid status) :
    s.left ((ransEncProg k n false).run s) k e.uid status := by
  obtain ⟨-, -, -, honce, -⟩ := id hg
  have hleft := h.after (tablesKept_accessed hs k _ _)
  rw [ransEnc_run hon he hs hg hp rfl (hleft.once _ honce)]
  exact hleft

theorem ransEnc_badClass (hbad : ∃ v, v ∈ s.encClasses k e ∧ (s.ctBank k e).k ≤ v) (hfirst : (s.cl k).first e = true) :
    s.left ((ransEncProg k n false).run s) k e.uid 0x71 := by
  obtain ⟨-, hop, htarget⟩ := ccOn_eq hon
  refine ransEnc_left hon he hs hg (encStep_bad k e hbad _ _) (dataCondition_left (e := e) ?_ ⟨by omega, by omega⟩ ?_ (isHalf_eq_false (by omega)) _ _ _ _)
  · rw [entryNo_accessed hs]; exact he
  · rw [first_accessed hs]; exact hfirst

variable (hcs : ∀ v, v ∈ s.encClasses k e → v < (s.ctBank k e).k)
include hcs

theorem ransEnc_full (hfull : e.encLimit < e.encOffset + (s.nextChunk k e).1.length) :
    s.left ((ransEncProg k n false).run s) k e.uid 0x40 := by
  obtain ⟨-, hop, -⟩ := ccOn_eq hon
  refine ransEnc_left hon he hs hg (encStep_full k hcs hfull _) (endEntry_left (e := e) ?_ ⟨by omega, by omega⟩ (by decide) _ _ _)
  rw [entryNo_accessed hs]; exact he

end

/-- What the next chunk writes lies in the room for its record. -/
theorem inMemory_encWrites {s : Dev} {k : Nat} {e : Entry} (h : s.inMemory k (argVa e.args 0x10) e.encLimit) {chunk : List Byte} (whole : List Byte)
    (hfits : e.encOffset + chunk.length ≤ e.encLimit) {w : Nat × List Byte} (hw : w ∈ e.encWrites chunk whole) : s.inMemory k w.1 w.2.length := by
  have hhead : 64 ≤ recHead e.encTotal ∧ recHead e.encTotal ≤ e.encOffset := ⟨Nat.le_add_right _ _, Nat.le_add_right _ _⟩
  suffices hsub : argVa e.args 0x10 ≤ w.1 ∧ w.1 + w.2.length ≤ argVa e.args 0x10 + e.encLimit from h.sub hsub.1 hsub.2
  have hparts : w = (argVa e.args 0x10 + e.encOffset, chunk) ∨ w = (argVa e.args 0x10 + 64, (whole.take (recHead e.encTotal)).drop 64)
      ∨ w = (argVa e.args 0x10, whole.take 64) := by
    rcases List.mem_append.mp hw with hw | hw
    · exact .inl (List.mem_singleton.mp hw)
    · split at hw
      · exact .inr (by simpa [Entry.encHead] using hw)
      · exact absurd hw List.not_mem_nil
  obtain rfl | rfl | rfl := hparts
  · dsimp only; omega
  · simp only [List.length_drop, List.length_take]; omega
  · simp only [List.length_take]; omega

theorem Dev.advanced.encFinish {s t : Dev} {k : Nat} {e : Entry} {ws : List (Nat × List Byte)} {g : Entry → Entry} (h : s.advanced t k e.uid ws g)
    (hs : s.errorless) {whole : List Byte} (hm : ∀ w, w ∈ e.encHead whole → s.inMemory k w.1 w.2.length) :
    s.advanced ((encFinish k e whole).run t) k e.uid (ws ++ e.encHead whole) (Entry.mapRun (fun q => { q with aux1 := whole.length }) ∘ g) := by
  have hput := (h.cmdWrites hs e.cmd hm).tally .cc (k / 168) (k % 168) R.CC_BYTES_OUT whole.length
  exact hput.onRun (fun q => { q with aux1 := whole.length })

/-- A chunk whose classes the tables have and that fits in the record is written, and after the last one directory and header; the entry takes it. -/
theorem encStep_coded {s t : Dev} {k : Nat} {e : Entry} (h : s.advanced t k e.uid [] id) (hs : s.errorless) {m : Nat} {cs : List Nat}
    (hcs : ∀ v, v ∈ cs → v < m) {r : List Byte × Nat} (hfits : e.encOffset + r.1.length ≤ e.encLimit) (whole : List Byte)
    (hroom : s.inMemory k (argVa e.args 0x10) e.encLimit) :
    ∃ f : Entry → Entry, s.advanced ((encStep k e m cs r whole).run t) k e.uid (e.encWrites r.1 whole) (e.afterUnit e.encTotal ∘ f)
      ∧ (f e).stage = e.stage ∧ (f e).run.units = e.run.units ∧ (f e).run.chunks = e.run.chunks ++ [r.1] ∧ (f e).run.aux0 = e.run.aux0 + r.2 := by
  have hmem := fun w => inMemory_encWrites (w := w) hroom whole hfits
  rw [encStep, any_le_eq_false hcs, if_neg (by decide), if_neg (Nat.not_lt.mpr hfits)]
  simp only [run_progs_cons, run_progs_nil, ccTally]
  have hput := h.cmdWrites hs e.cmd (ws' := [(argVa e.args 0x10 + e.encOffset, r.1)]) fun w hw => hmem w (List.mem_append_left _ hw)
  rw [List.nil_append] at hput
  have hchunk := ((hput.tally .cc (k / 168) (k % 168) R.CC_SYMS_ENC e.encCount).tally .cc (k / 168) (k % 168) R.CC_ESCAPES r.2).onRun
    (fun q => { q with chunks := e.run.chunks ++ [r.1], aux0 := q.aux0 + r.2 })
  generalize (onRun k e.uid _).run _ = u at hchunk ⊢
  unfold Entry.encWrites at hmem ⊢
  cases hl : e.encLast with
  | false =>
    rw [run_only_false, if_neg (by decide), List.append_nil]
    exact ⟨_, hchunk.unitDone e rfl e.encTotal, rfl, rfl, rfl, rfl⟩
  | true =>
    rw [hl, if_pos rfl] at hmem
    rw [run_only_true, if_pos rfl]
    exact ⟨_, (hchunk.encFinish hs fun w hw => hmem w (List.mem_append_right _ hw)).unitDone e rfl e.encTotal, rfl, rfl, rfl, rfl⟩

theorem ransEnc_coded {s : Dev} {k n : Nat} {e : Entry} (hon : (s.cl k).ccOn 0x21 n = some e) (he : s.entryNo k e.uid = some e) (hs : s.errorless)
    (hg : s.granted k (readsOf (s.encReads k e) ++ writesOf [(argVa e.args 0x10, e.encLimit)]) false)
    (hcs : ∀ v, v ∈ s.encClasses k e → v < (s.ctBank k e).k) (hfits : e.encOffset + (s.nextChunk k e).1.length ≤ e.encLimit) :
    ∃ f : Entry → Entry, s.advanced ((ransEncProg k n false).run s) k e.uid (e.encWrites (s.nextChunk k e).1 (s.nextRecord k e)) (e.afterUnit e.encTotal ∘ f)
      ∧ (f e).stage = e.stage ∧ (f e).run.units = e.run.units ∧ (f e).run.chunks = e.run.chunks ++ [(s.nextChunk k e).1]
      ∧ (f e).run.aux0 = e.run.aux0 + (s.nextChunk k e).2 := by
  obtain ⟨-, -, -, honce, hapart, -⟩ := id hg
  have hread := (advanced_refl s k e.uid).accessed hs hapart (readsOf (s.encReads k e)) (writesOf [(argVa e.args 0x10, e.encLimit)])
  obtain ⟨f, hput, hf⟩ := encStep_coded hread hs hcs hfits (s.nextRecord k e) (inMemory_write hg (List.mem_singleton_self _))
  rw [ransEnc_run hon he hs hg rfl rfl (by rw [hput.frame.die (by decide)]; exact honce)]
  exact ⟨f, hput, hf⟩

/-! ### The next chunk of RANS_DEC -/

/-- The chunks of a record, and the symbols of its chunks (R220). -/
def recCount (r : List Byte) : Nat := leAt r 24 2
def recChunk (r : List Byte) : Nat := leAt r 28 4

namespace Entry
/-- Bytes of its symbols, and the class bytes of a range of them (R206, R214). -/
def symSize (e : Entry) : Nat := if e.d.symFmt = 1 then 2 else 1
def classRange (e : Entry) (first n : Nat) : List (Nat × Nat) := if e.d.cycleMode then [] else [(argVa e.args 8 + first, n)]
/-- Of the next chunk of a RANS_DEC in its record `r`: its first symbol, its symbols, whether it is the last, its bytes, and where its symbols go. -/
def decFirst (e : Entry) (r : List Byte) : Nat := e.run.units * recChunk r
def decCount (e : Entry) (r : List Byte) : Nat := min (recChunk r) (e.d.count32 - e.decFirst r)
def decLast (e : Entry) (r : List Byte) : Bool := decide (e.run.units + 1 = recCount r)
def decSlice (e : Entry) (r : List Byte) : List Byte :=
  let o := leAt r (64 + 4 * e.run.units) 4
  sliceBytes r o (16 + 4 * 2 ^ min 8 (leAt r (o + 8) 1) + leAt r o 4)
def decOut (e : Entry) (r : List Byte) : Nat := argVa e.args 0 + e.decFirst r * e.symSize
/-- The class bytes that it reads, and the room for what it writes. -/
def decReads (e : Entry) (r : List Byte) : List (Nat × Nat) := e.classRange (e.decFirst r) (e.decCount r)
def decRoom (e : Entry) (r : List Byte) : List (Nat × Nat) :=
  [(e.decOut r, e.decCount r * e.symSize)] ++ (if e.decLast r then [(argVa e.args 0x28, ceilDiv (recCount r) 8)] else [])
/-- The chunk decoded; the symbols and escapes that this gives, zeros for a damaged chunk, and the marks of its chunks with this one (R224). -/
def decoded (e : Entry) (b : CtBank) (r : List Byte) (cls : List Nat) : Option (List Int × Nat) :=
  decChunk b (e.d.symFmt = 1) (e.decSlice r) e.run.units (recChunk r) e.d.count32 (recCount r) cls
def decValues (e : Entry) (r : List Byte) (d : Option (List Int × Nat)) : List Int :=
  match d with | some q => q.1 | none => List.replicate (e.decCount r) 0
def decEscapes (d : Option (List Int × Nat)) : Nat := match d with | some q => q.2 | none => 0
def decMarks (e : Entry) (d : Option (List Int × Nat)) : List (List Byte) := e.run.chunks ++ [[if d.isNone then 1 else 0]]
end Entry

/-- The symbols `l` in `size` bytes each, and the status bitmap of a record's chunks with marks `marks` (R224). -/
def symbolBytes (size : Nat) (l : List Int) : List Byte := l.flatMap fun v => leBytes size (wrapN (8 * size) v)
def statusBitmap (r : List Byte) (marks : List (List Byte)) : List Byte :=
  (List.range (ceilDiv (recCount r) 8)).map fun j => BitVec.ofNat 8
    (sumNat ((List.range 8).map fun i => if marks.getD (8 * j + i) [] == [1] then 2 ^ i else 0))

/-- What completes a decoded tensor, and what the next chunk, decoded to `d`, writes. -/
def Entry.decTail (e : Entry) (r : List Byte) (d : Option (List Int × Nat)) : List (Nat × List Byte) :=
  [(argVa e.args 0x28, statusBitmap r (e.decMarks d))]
def Entry.decWrites (e : Entry) (r : List Byte) (d : Option (List Int × Nat)) : List (Nat × List Byte) :=
  [(e.decOut r, symbolBytes e.symSize (e.decValues r d))] ++ (if e.decLast r then e.decTail r d else [])
/-- The run of a job that has taken the chunk decoded to `d`. -/
def Entry.decRun (e : Entry) (d : Option (List Int × Nat)) (q : Run) : Run :=
  { q with
    chunks := e.decMarks d
    aux0 := q.aux0 + Entry.decEscapes d
    aux1 := q.aux1 + b2n d.isNone
    status := if d.isNone then statusJoin q.status 0x50 else q.status }

/-- What RANS_DEC does with a record that fails its checks (R223). -/
def decRefuse (k : Nat) (e : Entry) : Prog :=
  progs [ccTally k R.CC_CHECK_FAIL 1, faultRecord k e 0x42 0 e.atStart 0 none false, endEntry k e.uid 0x42 0 0 false]

/-- What it does with a chunk that it has decoded to `d`; `len` is the length of its record. -/
def decPut (k : Nat) (e : Entry) (len : Nat) (r : List Byte) (d : Option (List Int × Nat)) : Prog := progs [
  cmdWrites k e.cmd [(e.decOut r, symbolBytes e.symSize (e.decValues r d))],
  ccTally k R.CC_SYMS_DEC (if d.isNone then 0 else e.decCount r), ccTally k R.CC_ESCAPES (Entry.decEscapes d), ccTally k R.CC_CHUNKS_DAMAGED (b2n d.isNone),
  onRun k e.uid (e.decRun d),
  only (e.decLast r) (progs [cmdWrites k e.cmd (e.decTail r d), ccTally k R.CC_BYTES_IN len]),
  unitDone k e (recCount r)]

/-- What it does with the classes `cls` of its next chunk. -/
def decChunkStep (k : Nat) (e : Entry) (b : CtBank) (len : Nat) (r : List Byte) (cls : List Nat) : Prog :=
  if cls.any (fun v => b.k ≤ v) then dataConditionAt k e.uid 4 24 e.atStart none else decPut k e len r (e.decoded b r cls)

/-- What it does with its record `r` of which `ok` says that it meets its checks. -/
def decRecord (k : Nat) (e : Entry) (ok : Bool) (b : CtBank) (len : Nat) (r : List Byte) : Prog :=
  if e.run.units = 0 && !ok then decRefuse k e
  else unitAccess k e.uid e.atStart (e.decReads r) (e.decRoom r) (look fun s =>
    decChunkStep k e b len r ((s.ctx k e).classes (e.decFirst r) (e.decCount r)))

namespace Dev
/-- The bytes of its record that a RANS_DEC stages (R223), and the classes of its next chunk. -/
def stagedLen (s : Dev) (k : Nat) (e : Entry) : Nat := if s.recFits k (s.ctx k e) then (s.ctx k e).recLen else 64
def stagedRecord (s : Dev) (k : Nat) (e : Entry) (len : Nat) : List Byte := (s.ctx k e).rd (argVa e.args 0x10) len
def recordGood (s : Dev) (k : Nat) (e : Entry) (fits : Bool) (len : Nat) : Bool :=
  fits && recordOk (s.ctx k e) (s.ctBank k e) e.epoch (s.stagedRecord k e len)
end Dev

theorem ransDecProg_run {s : Dev} {k n : Nat} {e : Entry} (h : (s.cl k).ccOn 0x22 n = some e) : (ransDecProg k n false).run s
    = (unitAccess k e.uid e.atStart [(argVa e.args 0x10, s.stagedLen k e)] [] (look fun t =>
        decRecord k e (t.recordGood k e (s.recFits k (s.ctx k e)) (s.stagedLen k e)) (t.ctBank k e) (s.stagedLen k e)
          (t.stagedRecord k e (s.stagedLen k e)))).run s := by
  rw [ransDecProg, run_look, h]
  refine congrArg (fun f => Prog.run (unitAccess k e.uid e.atStart [(argVa e.args 0x10, s.stagedLen k e)] [] (look f)) s) (funext fun t => ?_)
  refine if_congr Iff.rfl rfl ?_
  generalize hr : t.stagedRecord k e (s.stagedLen k e) = r
  rw [Dev.stagedRecord, Dev.stagedLen] at hr
  rw [hr]
  refine congrArg (fun f => unitAccess k e.uid e.atStart (e.decReads r) (e.decRoom r) (look f)) (funext fun u => ?_)
  refine if_congr Iff.rfl rfl ?_
  -- the decoded chunk as a variable: the two bodies then agree as they stand
  generalize hd : e.decoded (t.ctBank k e) r ((u.ctx k e).classes (e.decFirst r) (e.decCount r)) = d
  extract_lets v
  have hv : v = d := hd
  clear_value v
  subst hv
  rfl

/-- The checks of a record look at the job's descriptor alone. -/
theorem recordOk_ctx (s t : Dev) (k : Nat) (e : Entry) (b : CtBank) (epoch : Nat) (r : List Byte) :
    recordOk (t.ctx k e) b epoch r = recordOk (s.ctx k e) b epoch r := by
  unfold recordOk
  rfl

/-! ### What a decoded chunk comes to -/

theorem length_enumFrom {α : Type} (i : Nat) (l : List α) : (enumFrom i l).length = l.length := by
  induction l generalizing i with
  | nil => rfl
  | cons a l ih => rw [enumFrom, List.length_cons, ih, List.length_cons]

/-- A run of symbols that does not fail has them all. -/
theorem length_decSymbols {b : CtBank} {wide : Bool} {lanes : Nat} {l : List (Nat × Nat)} {d : DecSt} {esc : Nat}
    (h : (decSymbols b wide lanes l d esc).2.1.ok = true) : (decSymbols b wide lanes l d esc).1.length = l.length := by
  induction l generalizing d esc with
  | nil => rfl
  | cons a l ih =>
    rw [decSymbols] at h ⊢
    cases hd : d.ok with
    | true =>
      rw [hd, if_pos rfl] at h
      rw [if_pos rfl, List.length_cons, List.length_cons, ih h]
    | false =>
      rw [hd, if_neg (by decide)] at h
      exact absurd (hd.symm.trans h) (by decide)

theorem length_decChunk {b : CtBank} {wide : Bool} {ch : List Byte} {c0 chunkSyms tensor chunkCount : Nat} {cls : List Nat} {q : List Int × Nat}
    (h : decChunk b wide ch c0 chunkSyms tensor chunkCount cls = some q) : q.1.length = cls.length := by
  simp only [decChunk, Option.ite_none_left_eq_some, Option.ite_none_right_eq_some, Bool.and_eq_true, Option.some.injEq] at h
  obtain ⟨-, -, -, -, ⟨⟨hok, -⟩, -⟩, rfl⟩ := h
  exact (length_decSymbols hok).trans (length_enumFrom 0 cls)

theorem length_decValues {e : Entry} {b : CtBank} {r : List Byte} {cls : List Nat} (h : cls.length = e.decCount r) :
    (e.decValues r (e.decoded b r cls)).length = e.decCount r := by
  cases hd : e.decoded b r cls with
  | none => exact List.length_replicate
  | some q => exact (length_decChunk hd).trans h

theorem length_symbolBytes (size : Nat) (l : List Int) : (symbolBytes size l).length = l.length * size := by
  rw [symbolBytes, List.length_flatMap, List.map_congr_left fun v _ => length_leBytes .., List.map_const', List.sum_replicate, smul_eq_mul]

theorem length_statusBitmap (r : List Byte) (marks : List (List Byte)) : (statusBitmap r marks).length = ceilDiv (recCount r) 8 := by
  rw [statusBitmap, List.length_map, List.length_range]

/-- A chunk that gives all its symbols is written with, after the last one, the bitmap; the entry takes it. -/
theorem decPut_taken {s t : Dev} {k : Nat} {e : Entry} (h : s.advanced t k e.uid [] id) (hs : s.errorless) (len : Nat) {r : List Byte}
    {d : Option (List Int × Nat)} (hd : (e.decValues r d).length = e.decCount r) (hroom : ∀ w, w ∈ e.decRoom r → s.inMemory k w.1 w.2) :
    s.advanced ((decPut k e len r d).run t) k e.uid (e.decWrites r d) (e.afterUnit (recCount r) ∘ Entry.mapRun (e.decRun d)) := by
  have hvalues : s.inMemory k (e.decOut r) (symbolBytes e.symSize (e.decValues r d)).length := by
    rw [length_symbolBytes, hd]
    exact hroom _ (List.mem_append_left _ (List.mem_singleton_self _))
  have hput := h.cmdWrites hs e.cmd (ws' := [(e.decOut r, symbolBytes e.symSize (e.decValues r d))]) fun w hw => List.mem_singleton.mp hw ▸ hvalues
  rw [List.nil_append] at hput
  have hrun := (((hput.tally .cc (k / 168) (k % 168) R.CC_SYMS_DEC (if d.isNone then 0 else e.decCount r)).tally .cc (k / 168) (k % 168)
    R.CC_ESCAPES (Entry.decEscapes d)).tally .cc (k / 168) (k % 168) R.CC_CHUNKS_DAMAGED (b2n d.isNone)).onRun (e.decRun d)
  rw [decPut]
  simp only [run_progs_cons, run_progs_nil, ccTally]
  generalize (onRun k e.uid _).run _ = u at hrun ⊢
  unfold Entry.decWrites
  cases hl : e.decLast r with
  | false =>
    rw [run_only_false, if_neg (by decide), List.append_nil]
    exact hrun.unitDone e rfl (recCount r)
  | true =>
    have htail : ∀ w, w ∈ e.decTail r d → s.inMemory k w.1 w.2.length := fun w hw => by
      rw [List.mem_singleton.mp hw]
      dsimp only
      rw [length_statusBitmap]
      exact hroom (argVa e.args 0x28, ceilDiv (recCount r) 8) (List.mem_append_right _ (by rw [hl]; exact List.mem_singleton_self _))
    rw [run_only_true, if_pos rfl, run_progs_cons, run_progs_cons, run_progs_nil]
    exact ((hrun.cmdWrites hs e.cmd htail).tally .cc (k / 168) (k % 168) R.CC_BYTES_IN len).unitDone e rfl (recCount r)

/-! ### RANS_DEC on its record -/

namespace Dev
/-- The record as RANS_DEC stages it, and whether it meets its checks (R223). -/
def staged (s : Dev) (k : Nat) (e : Entry) : List Byte := s.stagedRecord k e (s.stagedLen k e)
def stagedGood (s : Dev) (k : Nat) (e : Entry) : Bool := s.recordGood k e (s.recFits k (s.ctx k e)) (s.stagedLen k e)
/-- The device after the accesses to the record. -/
def recordRead (s : Dev) (k : Nat) (e : Entry) : Dev := s.accessed k (readsOf [(argVa e.args 0x10, s.stagedLen k e)]) (writesOf [])
/-- The classes of the next chunk, that chunk decoded, and the device after the accesses to classes and room. -/
def decClasses (s : Dev) (k : Nat) (e : Entry) : List Nat := (s.ctx k e).classes (e.decFirst (s.staged k e)) (e.decCount (s.staged k e))
def decodedNext (s : Dev) (k : Nat) (e : Entry) : Option (List Int × Nat) := e.decoded (s.ctBank k e) (s.staged k e) (s.decClasses k e)
def chunkRead (s : Dev) (k : Nat) (e : Entry) : Dev :=
  (s.recordRead k e).accessed k (readsOf (e.decReads (s.staged k e))) (writesOf (e.decRoom (s.staged k e)))
end Dev

theorem granted_readsOf {s : Dev} {k : Nat} {l : List (Nat × Nat)} (h : s.granted k (readsOf l) false) :
    s.granted k (readsOf l ++ writesOf []) false := by
  rwa [show writesOf [] = [] from rfl, List.append_nil]

theorem regAt_faultRecord {A : Nat} (hl : A ≠ regAddr .rcv 20 0 R.LOG_LOST) (hd : A ≠ regAddr .ld0 16 0 R.BENTIN_EVENT_DROP) (k : Nat) (e : Entry)
    (code cause : Nat) (w : FaultAt) (check : Nat) (s : Dev) : ((faultRecord k e code cause w check none false).run s).regAt A = s.regAt A := by
  rw [faultRecord, run_look, run_progs_cons, run_progs_cons, run_progs_cons, run_progs_nil, Bool.false_and, run_only_false, run_skip]
  exact regAt_logE _ s hl hd

section
variable {s : Dev} {k n : Nat} {e : Entry}

theorem decRefuse_left (he : s.entryNo k e.uid = some e) (hop : e.op ≠ 0x16 ∧ e.op ≠ 0x20) : s.left ((decRefuse k e).run s) k e.uid 0x42 := by
  rw [decRefuse, run_progs_cons, run_progs_cons, run_progs_cons, run_progs_nil]
  exact endEntry_left_logged he hop (sameBut_trans ((sameBut_tally ..).mono (by decide)) (sameBut_faultRecord ..)) (by decide) 0 0 false

theorem decRefuse_reg : ((decRefuse k e).run s).reg .cc (k / 168) (k % 168) R.CC_CHECK_FAIL
    = satAdd (s.reg .cc (k / 168) (k % 168) R.CC_CHECK_FAIL) 1 := by
  rw [decRefuse, run_progs_cons, run_progs_cons, run_progs_cons, run_progs_nil]
  have hend := within_endEntry (l := [.clusters, .dies, .drovers, .mem, .undef, .free]) k e.uid 0x42 0 0 false (by decide) (by decide) (by decide) fun _ => by decide
  rw [(hend.sameBut _).reg (by decide), Dev.reg, regAt_faultRecord, ccTally, ← Dev.reg, reg_tally_same _ _ _ _ (by decide)]
  · simp only [regAddr, blockBase, clRegBase, regBase, R.CC_CHECK_FAIL, R.LOG_LOST, aocBase]; omega
  · simp only [regAddr, blockBase, clRegBase, regBase, R.CC_CHECK_FAIL, R.BENTIN_EVENT_DROP]; omega

section
variable (hs : s.errorless)
include hs

theorem errorless_recordRead : (s.recordRead k e).errorless := errorless_accessed hs
theorem entryNo_recordRead (uid : Nat) : (s.recordRead k e).entryNo k uid = s.entryNo k uid := entryNo_accessed hs uid
theorem granted_recordRead {l : List VAcc} (h : s.granted k l false) : (s.recordRead k e).granted k l false := granted_accessed hs h
end

variable (hon : (s.cl k).ccOn 0x22 n = some e) (he : s.entryNo k e.uid = some e) (hs : s.errorless)
  (hg : s.granted k (readsOf [(argVa e.args 0x10, s.stagedLen k e)]) false)
include hs hg

/-- The record is what stood there before the accesses. -/
theorem decRecord_recordRead {t : Dev} (ht : t = s.recordRead k e) :
    decRecord k e (t.recordGood k e (s.recFits k (s.ctx k e)) (s.stagedLen k e)) (t.ctBank k e) (s.stagedLen k e) (t.stagedRecord k e (s.stagedLen k e))
      = decRecord k e (s.stagedGood k e) (s.ctBank k e) (s.stagedLen k e) (s.staged k e) := by
  obtain ⟨-, -, -, -, hapart, -⟩ := id hg
  have hrecord : t.stagedRecord k e (s.stagedLen k e) = s.staged k e :=
    ht ▸ vaBytes_accessed_inMemory hs hapart (inMemory_read (granted_readsOf hg) (List.mem_singleton_self _))
  have hbank : t.ctBank k e = s.ctBank k e := ht ▸ ctBank_accessed hs e
  have hgood : t.recordGood k e (s.recFits k (s.ctx k e)) (s.stagedLen k e) = s.stagedGood k e := by
    rw [Dev.stagedGood, Dev.recordGood, Dev.recordGood, ← Dev.staged, hrecord, hbank, recordOk_ctx s t]
  rw [hgood, hrecord, hbank]

include hon he

/-- RANS_DEC whose record may be read goes on with it. -/
theorem ransDec_run {p : Prog} (hp : decRecord k e (s.stagedGood k e) (s.ctBank k e) (s.stagedLen k e) (s.staged k e) = p) {v : Dev}
    (hv : p.run (s.recordRead k e) = v) (honce : (v.die (k / 168)).once = []) : (ransDecProg k n false).run s = v := by
  have hstep := decRecord_recordRead hs hg rfl
  rw [hp] at hstep
  rw [ransDecProg_run hon, unitAccess_granted _ he hs (granted_readsOf hg)] <;> rw [← Dev.recordRead, run_look, hstep, hv]
  exact honce

theorem ransDec_refused (hu : e.run.units = 0) (hbad : s.stagedGood k e = false) : s.left ((ransDecProg k n false).run s) k e.uid 0x42
    ∧ ((ransDecProg k n false).run s).reg .cc (k / 168) (k % 168) R.CC_CHECK_FAIL = satAdd (s.reg .cc (k / 168) (k % 168) R.CC_CHECK_FAIL) 1 := by
  obtain ⟨-, hop, -⟩ := ccOn_eq hon
  obtain ⟨-, -, -, honce, -⟩ := id hg
  have hleft := (decRefuse_left (s := s.recordRead k e) (k := k) (e := e) (by rw [entryNo_recordRead hs]; exact he) ⟨by omega, by omega⟩).after
    (tablesKept_accessed hs k _ _)
  have hrefuse : decRecord k e (s.stagedGood k e) (s.ctBank k e) (s.stagedLen k e) (s.staged k e) = decRefuse k e := by
    rw [decRecord, hu, hbad]; rfl
  rw [ransDec_run hon he hs hg hrefuse rfl (hleft.once _ honce)]
  refine ⟨hleft, ?_⟩
  rw [decRefuse_reg, Dev.reg, Dev.recordRead, regAt_accessed hs (notZcSaved_cc k (by decide)), ← Dev.reg]

variable (hgood : e.run.units ≠ 0 ∨ s.stagedGood k e = true)
  (hc : s.granted k (readsOf (e.decReads (s.staged k e)) ++ writesOf (e.decRoom (s.staged k e))) false)
include hgood hc

omit hon he hg hgood in
theorem decClasses_chunkRead : ((s.chunkRead k e).ctx k e).classes (e.decFirst (s.staged k e)) (e.decCount (s.staged k e)) = s.decClasses k e := by
  obtain ⟨-, -, -, -, hapart, -⟩ := id hc
  have hnext := granted_recordRead (e := e) hs hc
  obtain ⟨-, -, -, -, hapart', -⟩ := id hnext
  exact classes_congr fun r hr => (vaBytes_accessed_inMemory (errorless_recordRead hs) hapart' (inMemory_read hnext hr)).trans
    (vaBytes_accessed_inMemory hs hapart (inMemory_read hc hr))

/-- RANS_DEC whose record is good and whose chunk may be read and written does its step on the device after its accesses. -/
theorem ransDec_step {p : Prog} (hp : decChunkStep k e (s.ctBank k e) (s.stagedLen k e) (s.staged k e) (s.decClasses k e) = p) {v : Dev}
    (hv : p.run (s.chunkRead k e) = v) (honce : (v.die (k / 168)).once = []) : (ransDecProg k n false).run s = v := by
  have htake : ¬(decide (e.run.units = 0) && !s.stagedGood k e) = true := by
    rcases hgood with h | h <;> simp [h]
  refine ransDec_run hon he hs hg (by rw [decRecord, if_neg htake]) ?_ honce
  rw [unitAccess_granted _ ((entryNo_recordRead hs _).trans he) (errorless_recordRead hs) (granted_recordRead hs hc)]
    <;> rw [← Dev.chunkRead, run_look, decClasses_chunkRead hs hc, hp, hv]
  exact honce

theorem ransDec_badClass (hbad : ∃ v, v ∈ s.decClasses k e ∧ (s.ctBank k e).k ≤ v) (hfirst : (s.cl k).first e = true) :
    s.left ((ransDecProg k n false).run s) k e.uid 0x71 := by
  obtain ⟨-, hop, htarget⟩ := ccOn_eq hon
  obtain ⟨-, -, -, honce, -⟩ := id hc
  have hs' := errorless_recordRead (k := k) (e := e) hs
  have hleft := dataCondition_left (s := s.chunkRead k e) (k := k) (e := e)
    (by rw [Dev.chunkRead, entryNo_accessed hs', entryNo_recordRead hs]; exact he) ⟨by omega, by omega⟩
    (by rw [Dev.chunkRead, first_accessed hs', Dev.recordRead, first_accessed hs]; exact hfirst) (isHalf_eq_false (by omega)) 4 24 e.atStart none
  have hall := hleft.after ((tablesKept_accessed hs k _ _).trans (tablesKept_accessed hs' k _ _))
  rw [ransDec_step hon he hs hg hgood hc (by rw [decChunkStep, any_le_eq_true hbad, if_pos rfl]) rfl (hall.once _ honce)]
  exact hall

theorem ransDec_decoded (hcs : ∀ v, v ∈ s.decClasses k e → v < (s.ctBank k e).k) :
    s.advanced ((ransDecProg k n false).run s) k e.uid (e.decWrites (s.staged k e) (s.decodedNext k e))
      (e.afterUnit (recCount (s.staged k e)) ∘ Entry.mapRun (e.decRun (s.decodedNext k e))) := by
  obtain ⟨-, -, -, honce, hapart, -⟩ := id hc
  obtain ⟨-, -, -, -, hapart', -⟩ := granted_recordRead (e := e) hs hc
  have hread : s.advanced (s.chunkRead k e) k e.uid [] id :=
    ((advanced_refl s k e.uid).accessed hs hapart _ _).accessed (errorless_recordRead hs) hapart' _ _
  have hput := decPut_taken hread hs (s.stagedLen k e) (d := s.decodedNext k e) (length_decValues (classes_length ..)) fun w hw => inMemory_write hc hw
  have hstep : decChunkStep k e (s.ctBank k e) (s.stagedLen k e) (s.staged k e) (s.decClasses k e)
      = decPut k e (s.stagedLen k e) (s.staged k e) (s.decodedNext k e) := by
    rw [decChunkStep, any_le_eq_false hcs, if_neg (by decide), Dev.decodedNext]
  rw [ransDec_step hon he hs hg hgood hc hstep rfl (by rw [hput.frame.die (by decide)]; exact honce)]
  exact hput
end

/-- Settles O36: each coder runs one step on the device that its granted accesses leave; the step ends the instruction, or writes and moves its entry on. -/
theorem coderChunks : Obligations.CoderChunks := by
  intro s k n e c x b u a r0 hs he
  refine ⟨fun hon => ?_, fun hon => ?_⟩
  · intro total first m limit last cs r off whole ws hg
    refine ⟨fun hbad hfirst => ?_, fun hcs hfull => ?_, fun hcs hfits => ?_⟩
    · have hleft := ransEnc_badClass hon he hs hg hbad hfirst
      exact completes_of_posting rfl hleft.unitWrites hleft.ended
    · have hleft := ransEnc_full hon he hs hg hcs hfull
      exact completes_of_posting rfl hleft.unitWrites hleft.ended
    · obtain ⟨f, h, hstage, hunits, hchunks, haux⟩ := ransEnc_coded hon he hs hg hcs hfits
      refine completes_of_posting rfl (h.frame.unitWrites (by decide)) ⟨h.wroteAs, h.unitRan he (hstage.trans (ccOn_eq hon).1) hunits, _, h.entry e he, ?_⟩
      rw [Function.comp_apply, afterUnit_run]
      exact ⟨hchunks, haux⟩
  · intro fits len r cc cs first m o ch last cls d syms marks bitmap out ws hg
    refine ⟨fun hu hbad => ?_, fun hgood hc => ⟨fun hbad hfirst => ?_, fun hcs => ?_⟩⟩
    · obtain ⟨hleft, hreg⟩ := ransDec_refused hon he hs hg hu hbad
      exact completes_of_posting rfl hleft.unitWrites ⟨hleft.ended, hreg⟩
    · have hleft := ransDec_badClass hon he hs hg hgood hc hbad hfirst
      exact completes_of_posting rfl hleft.unitWrites hleft.ended
    · have h := ransDec_decoded hon he hs hg hgood hc hcs
      have hr : s.m.staged k e = r := rfl
      have hd : s.m.decodedNext k e = d := rfl
      rw [hr, hd] at h
      clear_value d r
      refine completes_of_posting rfl (h.frame.unitWrites (by decide)) ⟨h.wroteAs, h.unitRan he (ccOn_eq hon).1 rfl, _, h.entry e he, ?_⟩
      rw [Function.comp_apply, afterUnit_run]
      exact ⟨rfl, rfl, rfl⟩

end Sys2Proof.Machine
end

section
/-! SUPPORT. The words of a thread as bit vectors (R13, R237, R240): signed readings, wrapped codes, and the register rules of the statements. -/

namespace Sys2Proof.Machine

/-! ### Signed readings and wrapped codes -/

/-- A word read as signed is its two's-complement value. -/
theorem sext_toNat {n : Nat} (x : BitVec n) (h : 0 < n) : sext n x.toNat = x.toInt := by
  have hp : 2 ^ n = 2 * 2 ^ (n - 1) := by
    rw [← Nat.pow_succ', Nat.succ_eq_add_one, Nat.sub_add_cancel h]
  simp only [sext, Nat.mod_eq_of_lt x.isLt, BitVec.toInt_eq_toNat_cond]
  by_cases hx : 2 * x.toNat < 2 ^ n
  · rw [if_pos (by omega), if_pos hx]
  · rw [if_neg (by omega), if_neg hx]; simp

theorem sext_mod (n v : Nat) : sext n (v % 2 ^ n) = sext n v := by simp [sext]

/-- A field read as signed is the field's word read as signed. -/
theorem sext_eq_toInt {n : Nat} (v : Nat) (h : 0 < n) : sext n v = (BitVec.ofNat n v).toInt := by
  rw [← sext_toNat _ h, BitVec.toNat_ofNat, sext_mod]

theorem wrapN_eq_toNat (n : Nat) (z : Int) : wrapN n z = (BitVec.ofInt n z).toNat := by
  rw [wrapN, modInt, Int.fmod_eq_emod_of_nonneg _ (by positivity), BitVec.toNat_ofInt]
  norm_cast

@[simp] theorem ofNat_wrapN (n : Nat) (z : Int) : BitVec.ofNat n (wrapN n z) = BitVec.ofInt n z := by
  rw [wrapN_eq_toNat, BitVec.ofNat_toNat, BitVec.setWidth_eq]

@[simp] theorem s64_toNat (x : W64) : s64 x.toNat = x.toInt := sext_toNat x (by decide)

theorem u64_eq (z : Int) : u64 z = (BitVec.ofInt 64 z).toNat := wrapN_eq_toNat 64 z

theorem setWidth_eq_ofNat {n : Nat} (w : Nat) (x : BitVec n) : x.setWidth w = BitVec.ofNat w x.toNat :=
  BitVec.eq_of_toNat_eq (by rw [BitVec.toNat_setWidth, BitVec.toNat_ofNat])

theorem shrInt_eq (z : Int) (n : Nat) : shrInt z n = z / 2 ^ n := by
  rw [shrInt, Int.fdiv_eq_ediv_of_nonneg _ (by positivity)]

theorem ofInt_shrInt_toInt {n : Nat} (x : BitVec n) (k : Nat) : BitVec.ofInt n (shrInt x.toInt k) = x.sshiftRight k := by
  rw [shrInt_eq, ← BitVec.ofInt_toInt (x := x.sshiftRight k), BitVec.toInt_sshiftRight, Int.shiftRight_eq_div_pow]
  norm_cast

theorem ofInt_min_toInt {n : Nat} (x y : BitVec n) : BitVec.ofInt n (min x.toInt y.toInt) = if x.sle y then x else y := by
  rw [BitVec.sle_eq_decide, min_def]
  by_cases h : x.toInt ≤ y.toInt <;> simp [h]

theorem ofInt_max_toInt {n : Nat} (x y : BitVec n) : BitVec.ofInt n (max x.toInt y.toInt) = if x.sle y then y else x := by
  rw [BitVec.sle_eq_decide, max_def]
  by_cases h : x.toInt ≤ y.toInt <;> simp [h]

/-! ### Registers (R237) -/

theorem gr_eq (t : Thread) (n : Nat) : t.gr n = (t.x n).toNat := by
  unfold Thread.gr Thread.x; split <;> rfl

theorem setG_eq (t : Thread) (n v : Nat) : t.setG n v = t.putX n (BitVec.ofNat 64 v) := rfl

theorem getLsbD_ofNat_setBits (v : BitVec 8) (n : Nat) (b : Bool) (j : Nat) :
    (BitVec.ofNat 8 (setBits v.toNat n n (b2n b))).getLsbD j = (decide (j < 8) && if j = n then b else v.getLsbD j) := by
  rw [BitVec.getLsbD_ofNat, ← bitAt_eq_testBit, bitAt_setBits]
  by_cases h : j = n
  · subst h; simp [bitAt_b2n]
  · rw [if_neg (by omega), if_neg h, bitAt_eq_testBit]; rfl

theorem setP_eq (t : Thread) (n : Nat) (b : Bool) : t.setP n b = t.putP n b := by
  unfold Thread.setP Thread.putP
  by_cases hn : n = 0
  · simp [hn]
  · simp only [hn, if_false]
    congr 1
    refine BitVec.eq_of_getLsbD_eq fun j hj => ?_
    rw [getLsbD_ofNat_setBits]
    have hone : (1#8 <<< n).getLsbD j = decide (j = n) := by
      simp only [BitVec.getLsbD_shiftLeft, hj, decide_true, Bool.true_and, BitVec.getLsbD_one]
      by_cases h : j = n <;> simp [h] <;> omega
    cases b
    · simp only [Bool.false_eq_true, if_false, BitVec.getLsbD_and, BitVec.getLsbD_not, hone, hj, decide_true, Bool.true_and]
      by_cases h : j = n <;> simp [h]
    · simp only [if_true, BitVec.getLsbD_or, hone, hj, decide_true, Bool.true_and]
      by_cases h : j = n <;> simp [h]

end Sys2Proof.Machine
end

section
/-! SUPPORT. The values of the scalar integer and predicate instructions on words (R244 to R246). -/

namespace Sys2Proof.Machine

/-! ### Integer values -/

@[simp] theorem ofNat_u64 (z : Int) : BitVec.ofNat 64 (u64 z) = BitVec.ofInt 64 z := ofNat_wrapN 64 z

theorem ofInt_sub_toNat {n : Nat} (x y : BitVec n) : BitVec.ofInt n ((x.toNat : Int) - y.toNat) = x - y := by
  rw [Int.sub_eq_add_neg, BitVec.ofInt_add, BitVec.ofInt_neg, BitVec.ofInt_natCast, BitVec.ofInt_natCast, BitVec.ofNat_toNat, BitVec.ofNat_toNat,
    BitVec.setWidth_eq, BitVec.setWidth_eq, BitVec.sub_eq_add_neg]

theorem ofNat_mul_two_pow {w : Nat} (x : BitVec w) (n : Nat) : BitVec.ofNat w (x.toNat * 2 ^ n) = x <<< n := by
  apply BitVec.eq_of_toNat_eq
  simp [Nat.shiftLeft_eq]

theorem ofNat_div_two_pow {w : Nat} (x : BitVec w) (n : Nat) : BitVec.ofNat w (x.toNat / 2 ^ n) = x >>> n := by
  apply BitVec.eq_of_toNat_eq
  rw [BitVec.toNat_ofNat, BitVec.toNat_ushiftRight, Nat.shiftRight_eq_div_pow]
  exact Nat.mod_eq_of_lt (Nat.lt_of_le_of_lt (Nat.div_le_self ..) x.isLt)

theorem ofNat_shiftAppend (x : W64) (v n : Nat) (h : v < 2 ^ n) : BitVec.ofNat 64 (x.toNat * 2 ^ n + v) = x <<< n ||| BitVec.ofNat 64 v := by
  rw [← ofNat_mul_two_pow, ← Nat.shiftLeft_eq, Nat.shiftLeft_add_eq_or_of_lt h, BitVec.ofNat_or]

/-- The high half of an unsigned product. -/
theorem ofNat_mulHigh (x y : W64) : BitVec.ofNat 64 (x.toNat * y.toNat / 2 ^ 64) = ((x.setWidth 128 * y.setWidth 128) >>> 64).setWidth 64 := by
  apply BitVec.eq_of_toNat_eq
  have hx := x.isLt
  have hy := y.isLt
  have h : x.toNat * y.toNat < 2 ^ 128 := by nlinarith
  rw [BitVec.toNat_ofNat, BitVec.toNat_setWidth, BitVec.toNat_ushiftRight, Nat.shiftRight_eq_div_pow, BitVec.toNat_mul, BitVec.toNat_setWidth,
    BitVec.toNat_setWidth, Nat.mod_eq_of_lt (by omega : x.toNat < 2 ^ 128), Nat.mod_eq_of_lt (by omega : y.toNat < 2 ^ 128), Nat.mod_eq_of_lt h]

/-- The high half of a signed product. -/
theorem ofInt_mulHigh (x y : W64) :
    BitVec.ofInt 64 (shrInt (x.toInt * y.toInt) 64) = ((x.signExtend 128 * y.signExtend 128) >>> 64).setWidth 64 := by
  apply BitVec.eq_of_toNat_eq
  have hp : x.signExtend 128 * y.signExtend 128 = BitVec.ofInt 128 (x.toInt * y.toInt) := by
    rw [BitVec.ofInt_mul, BitVec.signExtend, BitVec.signExtend]
  rw [hp, BitVec.toNat_setWidth, BitVec.toNat_ushiftRight, Nat.shiftRight_eq_div_pow, BitVec.toNat_ofInt, BitVec.toNat_ofInt, shrInt_eq]
  generalize x.toInt * y.toInt = z
  omega

theorem ofNat_min_toNat {n : Nat} (x y : BitVec n) : BitVec.ofNat n (min x.toNat y.toNat) = if x ≤ y then x else y := by
  by_cases h : x ≤ y
  · rw [if_pos h, Nat.min_eq_left (BitVec.le_def.mp h), BitVec.ofNat_toNat, BitVec.setWidth_eq]
  · rw [if_neg h, Nat.min_eq_right (Nat.le_of_not_le fun e => h (BitVec.le_def.mpr e)), BitVec.ofNat_toNat, BitVec.setWidth_eq]

theorem ofNat_max_toNat {n : Nat} (x y : BitVec n) : BitVec.ofNat n (max x.toNat y.toNat) = if x ≤ y then y else x := by
  by_cases h : x ≤ y
  · rw [if_pos h, Nat.max_eq_right (BitVec.le_def.mp h), BitVec.ofNat_toNat, BitVec.setWidth_eq]
  · rw [if_neg h, Nat.max_eq_left (Nat.le_of_not_le fun e => h (BitVec.le_def.mpr e)), BitVec.ofNat_toNat, BitVec.setWidth_eq]

theorem ofInt_quot (signed : Bool) (x y : W64) :
    BitVec.ofInt 64 (quot signed x.toNat y.toNat) = if y = 0 then 0 else if signed then x.sdiv y else x.udiv y := by
  unfold quot
  by_cases hy : y = 0
  · simp [hy]
  have h : y.toNat ≠ 0 := fun h => hy (BitVec.eq_of_toNat_eq h)
  rw [if_neg hy, if_neg h]
  cases signed with
  | true =>
    rw [if_pos rfl, if_pos rfl, s64_toNat, s64_toNat, ← BitVec.ofInt_toInt (x := x.sdiv y), BitVec.toInt_sdiv]
    exact BitVec.eq_of_toInt_eq (by simp)
  | false =>
    rw [if_neg (by decide), if_neg (by decide), BitVec.ofInt_natCast, ← BitVec.toNat_udiv, BitVec.ofNat_toNat, BitVec.setWidth_eq]
    rfl

theorem ofInt_rem_signed (x y : W64) :
    BitVec.ofInt 64 (s64 x.toNat - quot true x.toNat y.toNat * s64 y.toNat) = if y = 0 then x else x.srem y := by
  by_cases hy : y = 0
  · simp [hy, quot]
  have h : y.toNat ≠ 0 := fun h => hy (BitVec.eq_of_toNat_eq h)
  rw [if_neg hy, quot, if_neg h, if_pos rfl, s64_toNat, s64_toNat, ← BitVec.ofInt_toInt (x := x.srem y), BitVec.toInt_srem, Int.tmod_def, Int.mul_comm]

theorem ofInt_rem_unsigned (x y : W64) :
    BitVec.ofInt 64 ((x.toNat : Int) - quot false x.toNat y.toNat * y.toNat) = if y = 0 then x else x.umod y := by
  by_cases hy : y = 0
  · simp [hy, quot]
  have h : y.toNat ≠ 0 := fun h => hy (BitVec.eq_of_toNat_eq h)
  have e : (x.toNat : Int) - ((x.toNat / y.toNat : Nat) : Int) * y.toNat = ((x.toNat % y.toNat : Nat) : Int) := by
    rw [Int.natCast_mod, Int.emod_def, Int.natCast_ediv, Int.mul_comm]
  rw [if_neg hy, quot, if_neg h, if_neg (by decide), e, BitVec.ofInt_natCast, ← BitVec.toNat_umod, BitVec.ofNat_toNat, BitVec.setWidth_eq]
  rfl

/-! ### Counts of bits -/

theorem bitAt_toNat {n : Nat} (x : BitVec n) (i : Nat) : bitAt x.toNat i = x.getLsbD i := bitAt_eq_testBit ..

theorem length_takeWhile_range {p : Nat → Bool} {n k : Nat} (hk : k ≤ n) (hp : ∀ i, i < k → p i = true) (hn : k < n → p k = false) :
    ((List.range n).takeWhile p).length = k := by
  obtain ⟨m, rfl⟩ := Nat.exists_eq_add_of_le hk
  rw [List.range_add, List.takeWhile_append_of_pos (by simpa using hp)]
  cases m with
  | zero => simp
  | succ m => simp [List.range_succ_eq_map, hn (by omega)]

/-- The leading zeros of a word, counted from the top. -/
theorem takeWhile_clz (x : W64) : ((List.range 64).takeWhile fun i => !x.getLsbD (63 - i)).length = 64 - bitlen x.toNat := by
  by_cases hx : x.toNat = 0
  · exact length_takeWhile_range (Nat.sub_le ..) (fun i _ => by simp [BitVec.getLsbD, hx]) (fun h => by simp [bitlen, hx] at h)
  have hlog : x.toNat.log2 < 64 := (Nat.log2_lt hx).mpr x.isLt
  rw [bitlen, if_neg hx]
  refine length_takeWhile_range (Nat.sub_le ..) (fun i hi => ?_) (fun _ => ?_)
  · have hlt : x.toNat < 2 ^ (63 - i) := (Nat.log2_lt hx).mp (by omega)
    simp [BitVec.getLsbD, Nat.testBit_lt_two_pow hlt]
  · rw [show 63 - (64 - (x.toNat.log2 + 1)) = x.toNat.log2 by omega, BitVec.getLsbD, Nat.testBit_log2 hx]; rfl

theorem decide_toNat_eq {n : Nat} (x y : BitVec n) : decide (x.toNat = y.toNat) = (x == y) := by
  rw [Bool.eq_iff_iff, decide_eq_true_iff, beq_iff_eq, BitVec.toNat_inj]

theorem bits_lt (w hi lo : Nat) : bits w hi lo < 2 ^ (hi + 1 - lo) := Nat.mod_lt _ (Nat.two_pow_pos _)

/-! ### Masks of threads -/

theorem threadMask_range_succ (q : Nat → Bool) (n : Nat) :
    threadMask ((List.range (n + 1)).filter q) = (if q n then 2 ^ n else 0) + threadMask ((List.range n).filter q) := by
  rw [List.range_succ, List.filter_append]
  cases hq : q n <;> simp [threadMask, hq, Nat.add_comm]

theorem threadMask_range_lt (q : Nat → Bool) (n : Nat) : threadMask ((List.range n).filter q) < 2 ^ n := by
  induction n with
  | zero => simp [threadMask]
  | succ n ih =>
    rw [threadMask_range_succ, Nat.pow_succ]
    split <;> omega

/-- The mask of some of the first threads has exactly their bits. -/
theorem testBit_threadMask_range (q : Nat → Bool) (n j : Nat) : (threadMask ((List.range n).filter q)).testBit j = (decide (j < n) && q j) := by
  induction n with
  | zero => simp [threadMask]
  | succ n ih =>
    have hlt := threadMask_range_lt q n
    rw [threadMask_range_succ]
    by_cases hj : j = n
    · subst hj
      cases hq : q j
      · simp [Nat.testBit_lt_two_pow hlt]
      · simp [Nat.testBit_two_pow_add_eq, Nat.testBit_lt_two_pow hlt]
    · have hd : decide (j < n + 1) = decide (j < n) := by simp only [decide_eq_decide]; omega
      rw [hd, ← ih]
      cases hq : q n
      · simp
      · rw [if_pos rfl, ← Nat.mul_one (2 ^ n), Nat.two_pow_add_eq_or_of_lt hlt, Nat.testBit_or, Nat.mul_one, Nat.testBit_two_pow]
        simp [Ne.symm hj]

theorem getLsbD_foldl_or (q : Nat → Bool) (n j : Nat) :
    ((List.range n).foldl (fun m i => if q i then m ||| (1#64 <<< i) else m) 0#64).getLsbD j = (decide (j < 64) && decide (j < n) && q j) := by
  induction n with
  | zero => simp
  | succ n ih =>
    rw [List.range_succ, List.foldl_append, List.foldl_cons, List.foldl_nil]
    by_cases hj : j = n
    · subst hj
      cases hq : q j <;> simp [hq, ih]
    · have hd : decide (j < n + 1) = decide (j < n) := by simp only [decide_eq_decide]; omega
      have h1 : (1#64 <<< n).getLsbD j = false := by
        rw [BitVec.getLsbD_shiftLeft, BitVec.getLsbD_one]; simp; omega
      rw [hd]
      cases hq : q n <;> simp [ih, h1]

theorem ofNat_threadMask_range (q : Nat → Bool) (n : Nat) : BitVec.ofNat 64 (threadMask ((List.range n).filter q))
    = (List.range n).foldl (fun m i => if q i then m ||| (1#64 <<< i) else m) 0#64 := by
  refine BitVec.eq_of_getLsbD_eq fun j hj => ?_
  rw [getLsbD_foldl_or, BitVec.getLsbD_ofNat, testBit_threadMask_range, Bool.and_assoc]

theorem exec_eq_range (x : Flock) (w : Nat) :
    x.exec w = (List.range 8).filter fun i => bitAt x.active i && ((x.thr i).pr (fPred w) != fNeg w) := by
  rw [Flock.exec, maskThreads, List.filter_filter]
  simp only [Bool.and_comm]

theorem filter_exec_eq_range (x : Flock) (w : Nat) (p : Nat → Bool) :
    (x.exec w).filter p = (List.range 8).filter fun i => (x.exec w).contains i && p i := by
  rw [exec_eq_range, List.filter_filter]
  refine List.filter_congr fun i hi => ?_
  rw [Bool.eq_iff_iff]
  simp only [Bool.and_eq_true, List.contains_iff_mem, List.mem_filter, hi, true_and]
  tauto

/-! ### The immediate (R240) -/

theorem fImm8_eq (a : ThOp) : fImm8 a.w = (BitVec.ofNat 8 (bits a.w 7 0)).toInt := sext_eq_toInt _ (by decide)

theorem imm8_eq (a : ThOp) : imm8 a = BitVec.ofInt 64 (fImm8 a.w) := by rw [fImm8_eq]; rfl

@[simp] theorem u64_fImm8 (a : ThOp) : u64 (fImm8 a.w) = (imm8 a).toNat := by rw [u64_eq, imm8_eq]

theorem imm8_toInt (a : ThOp) : (imm8 a).toInt = fImm8 a.w := by
  rw [fImm8_eq, imm8, BitVec.toInt_signExtend_of_le (by decide)]

/-- The shift count of an immediate is taken modulo 64, which IMM8's sign does not change. -/
theorem shiftImm_eq (a : ThOp) : (modInt (fImm8 a.w) 64).toNat = (imm8 a).toNat % 64 := by
  rw [imm8_eq, BitVec.toNat_ofInt, modInt, Int.fmod_eq_emod_of_nonneg _ (by decide)]
  omega

end Sys2Proof.Machine
end

section
/-! SUPPORT. Instructions that change registers only, by their shape (R240, R243 to R250). -/

namespace Sys2Proof.Machine

/-! ### Register instructions by their shape -/

/-- What an instruction makes of its executing threads is what it makes of them as they stand. -/
theorem Dev.wrote.congr {s t : Dev} {a : ThOp} {f g : Nat → Thread → Thread} (h : s.wrote t a f)
    (hfg : ∀ i, f i ((s.flockOf a).thr i) = g i ((s.flockOf a).thr i)) : s.wrote t a g := by
  obtain ⟨hsame, ⟨hthr, hrest⟩, hregs⟩ := h
  exact ⟨hsame, ⟨fun i => by rw [hthr, hfg], hrest⟩, hregs⟩

/-- An instruction that changes registers only gives what its function gives each executing thread. -/
theorem gives_of_thEach {c : Instr} {ok : Bool} {s : State} {a : ThOp} {op : Nat} {f : Flock → Nat → Thread → Thread} {g : Nat → Thread → Thread}
    (h : s.m.stands a) (he : exec c s = s.perform (thEach a op ok f)) (ho : c.opcode = op) (hd : opDefined op = true)
    (hg : ∀ i, f (s.m.flockOf a) i ((s.m.flockOf a).thr i) = g i ((s.m.flockOf a).thr i)) : gives c ok s a g := by
  rintro rfl hw
  subst ho
  exact completes_of he ((thEach_stands h hw hd).congr hg)

theorem gives_of_thRegs {c : Instr} {ok : Bool} {s : State} {a : ThOp} {op : Nat} {f : Flock → Thread → Thread} {g : Nat → Thread → Thread}
    (h : s.m.stands a) (he : exec c s = s.perform (thRegs a op ok f)) (ho : c.opcode = op) (hd : opDefined op = true)
    (hg : ∀ i t, f (s.m.flockOf a) t = g i t) : gives c ok s a g := by
  unfold thRegs at he
  exact gives_of_thEach h he ho hd fun i => hg i _

theorem gives_alu3 {c : Instr} {s : State} {a : ThOp} {op : Nat} {ms : List Nat} {f : Nat → Nat → Nat} {g : Thread → W64}
    (h : s.m.stands a) (he : exec c s = s.perform (alu3 a op ms f)) (ho : c.opcode = op) (hd : opDefined op = true)
    (hg : ∀ t : Thread, BitVec.ofNat 64 (f (t.x (fA a.w)).toNat (t.x (fB a.w)).toNat) = g t) :
    gives c (regOk .g .g .g ms a.w) s a fun _ t => t.putX (fD a.w) (g t) := by
  unfold alu3 at he
  exact gives_of_thRegs h he ho hd fun _ t => by rw [setG_eq, gr_eq, gr_eq, hg]

theorem gives_alu2 {c : Instr} {s : State} {a : ThOp} {op : Nat} {f : Nat → Nat} {g : Thread → W64}
    (h : s.m.stands a) (he : exec c s = s.perform (alu2 a op f)) (ho : c.opcode = op) (hd : opDefined op = true)
    (hg : ∀ t : Thread, BitVec.ofNat 64 (f (t.x (fA a.w)).toNat) = g t) :
    gives c (regOk .g .g .no [0] a.w) s a fun _ t => t.putX (fD a.w) (g t) := by
  unfold alu2 at he
  exact gives_of_thRegs h he ho hd fun _ t => by rw [setG_eq, gr_eq, hg]

theorem gives_aluImm {c : Instr} {s : State} {a : ThOp} {op : Nat} {f : Nat → Int → Nat} {g : Thread → W64}
    (h : s.m.stands a) (he : exec c s = s.perform (aluImm a op f)) (ho : c.opcode = op) (hd : opDefined op = true)
    (hg : ∀ t : Thread, BitVec.ofNat 64 (f (t.x (fA a.w)).toNat (fImm8 a.w)) = g t) :
    gives c (immOk .g .g a.w) s a fun _ t => t.putX (fD a.w) (g t) := by
  unfold aluImm at he
  exact gives_of_thRegs h he ho hd fun _ t => by rw [setG_eq, gr_eq, hg]

theorem gives_cmp3 {c : Instr} {s : State} {a : ThOp} {op : Nat} {ms : List Nat} {f : Nat → Nat → Bool} {g : Thread → Bool}
    (h : s.m.stands a) (he : exec c s = s.perform (cmp3 a op ms f)) (ho : c.opcode = op) (hd : opDefined op = true)
    (hg : ∀ t : Thread, f (t.x (fA a.w)).toNat (t.x (fB a.w)).toNat = g t) :
    gives c (regOk .p .g .g ms a.w) s a fun _ t => t.putP (fD a.w) (g t) := by
  unfold cmp3 at he
  exact gives_of_thRegs h he ho hd fun _ t => by rw [setP_eq, gr_eq, gr_eq, hg]

end Sys2Proof.Machine
end

section
/-! CERTIFICATE. Scalar integer and predicate instructions (R244 to R246). -/

namespace Sys2Proof.Machine

/-! ### What the commands run -/

theorem exec_add (a : ThOp) (s : State) : exec (.add a) s = s.perform (addProg a) := rfl
theorem exec_sub (a : ThOp) (s : State) : exec (.sub a) s = s.perform (subProg a) := rfl
theorem exec_mul (a : ThOp) (s : State) : exec (.mul a) s = s.perform (mulProg a) := rfl
theorem exec_mulh (a : ThOp) (s : State) : exec (.mulh a) s = s.perform (mulhProg a) := rfl
theorem exec_and (a : ThOp) (s : State) : exec (.and a) s = s.perform (andProg a) := rfl
theorem exec_or (a : ThOp) (s : State) : exec (.or a) s = s.perform (orProg a) := rfl
theorem exec_xor (a : ThOp) (s : State) : exec (.xor a) s = s.perform (xorProg a) := rfl
theorem exec_shl (a : ThOp) (s : State) : exec (.shl a) s = s.perform (shlProg a) := rfl
theorem exec_shr (a : ThOp) (s : State) : exec (.shr a) s = s.perform (shrProg a) := rfl
theorem exec_min (a : ThOp) (s : State) : exec (.min a) s = s.perform (minProg a) := rfl
theorem exec_max (a : ThOp) (s : State) : exec (.max a) s = s.perform (maxProg a) := rfl
theorem exec_div (a : ThOp) (s : State) : exec (.div a) s = s.perform (divProg a) := rfl
theorem exec_rem (a : ThOp) (s : State) : exec (.rem a) s = s.perform (remProg a) := rfl
theorem exec_clz (a : ThOp) (s : State) : exec (.clz a) s = s.perform (clzProg a) := rfl
theorem exec_popc (a : ThOp) (s : State) : exec (.popc a) s = s.perform (popcProg a) := rfl
theorem exec_shfl (a : ThOp) (s : State) : exec (.shfl a) s = s.perform (shflProg a) := rfl
theorem exec_addi (a : ThOp) (s : State) : exec (.addi a) s = s.perform (addiProg a) := rfl
theorem exec_andi (a : ThOp) (s : State) : exec (.andi a) s = s.perform (andiProg a) := rfl
theorem exec_ori (a : ThOp) (s : State) : exec (.ori a) s = s.perform (oriProg a) := rfl
theorem exec_xori (a : ThOp) (s : State) : exec (.xori a) s = s.perform (xoriProg a) := rfl
theorem exec_shli (a : ThOp) (s : State) : exec (.shli a) s = s.perform (shliProg a) := rfl
theorem exec_shri (a : ThOp) (s : State) : exec (.shri a) s = s.perform (shriProg a) := rfl
theorem exec_sari (a : ThOp) (s : State) : exec (.sari a) s = s.perform (sariProg a) := rfl
theorem exec_movi (a : ThOp) (s : State) : exec (.movi a) s = s.perform (moviProg a) := rfl
theorem exec_movh (a : ThOp) (s : State) : exec (.movh a) s = s.perform (movhProg a) := rfl
theorem exec_cmpeq (a : ThOp) (s : State) : exec (.cmpeq a) s = s.perform (cmpeqProg a) := rfl
theorem exec_cmpne (a : ThOp) (s : State) : exec (.cmpne a) s = s.perform (cmpneProg a) := rfl
theorem exec_cmplt (a : ThOp) (s : State) : exec (.cmplt a) s = s.perform (cmpltProg a) := rfl
theorem exec_cmple (a : ThOp) (s : State) : exec (.cmple a) s = s.perform (cmpleProg a) := rfl
theorem exec_cmpeqi (a : ThOp) (s : State) : exec (.cmpeqi a) s = s.perform (cmpeqiProg a) := rfl
theorem exec_cmplti (a : ThOp) (s : State) : exec (.cmplti a) s = s.perform (cmpltiProg a) := rfl
theorem exec_plog (a : ThOp) (s : State) : exec (.plog a) s = s.perform (plogProg a) := rfl
theorem exec_vote (a : ThOp) (s : State) : exec (.vote a) s = s.perform (voteProg a) := rfl
theorem exec_ballot (a : ThOp) (s : State) : exec (.ballot a) s = s.perform (ballotProg a) := rfl

/-- Settles O1: each value is the BitVec operation on the words of the registers. -/
theorem integerResults : Obligations.IntegerResults := by
  intro s a h
  refine ⟨gives_alu3 h (exec_add a s) rfl (by decide) fun t => ?_,
    gives_alu3 h (exec_sub a s) rfl (by decide) fun t => ?_,
    gives_alu3 h (exec_mul a s) rfl (by decide) fun t => ?_,
    gives_alu3 h (exec_mulh a s) rfl (by decide) fun t => ?_,
    gives_alu3 h (exec_and a s) rfl (by decide) fun t => ?_,
    gives_alu3 h (exec_or a s) rfl (by decide) fun t => ?_,
    gives_alu3 h (exec_xor a s) rfl (by decide) fun t => ?_,
    gives_alu3 h (exec_shl a s) rfl (by decide) fun t => ?_,
    gives_alu3 h (exec_shr a s) rfl (by decide) fun t => ?_,
    gives_alu3 h (exec_min a s) rfl (by decide) fun t => ?_,
    gives_alu3 h (exec_max a s) rfl (by decide) fun t => ?_,
    gives_alu3 h (exec_div a s) rfl (by decide) fun t => ?_,
    gives_alu3 h (exec_rem a s) rfl (by decide) fun t => ?_⟩
  · simp [BitVec.ofNat_add]
  · rw [ofNat_u64, ofInt_sub_toNat]
  · simp [BitVec.ofNat_mul]
  · by_cases hm : fM a.w = 0 <;> simp only [hm, if_pos, if_neg, ofNat_u64, s64_toNat, ofInt_mulHigh, ofNat_mulHigh, not_false_eq_true, beq_iff_eq]
  · simp [← BitVec.toNat_and]
  · simp [← BitVec.toNat_or]
  · simp [← BitVec.toNat_xor]
  · exact ofNat_mul_two_pow ..
  · by_cases hm : fM a.w = 0 <;> simp [hm, ofNat_div_two_pow, ofInt_shrInt_toInt]
  · by_cases hm : fM a.w = 0 <;> simp [hm, ofInt_min_toInt, ofNat_min_toNat]
  · by_cases hm : fM a.w = 0 <;> simp [hm, ofInt_max_toInt, ofNat_max_toNat]
  · by_cases hm : fM a.w = 0 <;> simp [hm, ofInt_quot]
  · by_cases hm : fM a.w = 0 <;> simp only [hm, if_pos, if_neg, ofNat_u64, ofInt_rem_signed, ofInt_rem_unsigned, not_false_eq_true, beq_iff_eq]

/-- Settles O2: the immediates are sign-extended words, the counts are counts of bits. -/
theorem integerImmediateResults : Obligations.IntegerImmediateResults := by
  intro s a h
  refine ⟨gives_alu2 h (exec_clz a s) rfl (by decide) fun t => ?_, gives_alu2 h (exec_popc a s) rfl (by decide) fun t => ?_,
    gives_of_thRegs h (exec_shfl a s) rfl (by decide) fun _ t => ?_, gives_aluImm h (exec_addi a s) rfl (by decide) fun t => ?_,
    gives_aluImm h (exec_andi a s) rfl (by decide) fun t => ?_, gives_aluImm h (exec_ori a s) rfl (by decide) fun t => ?_,
    gives_aluImm h (exec_xori a s) rfl (by decide) fun t => ?_, gives_aluImm h (exec_shli a s) rfl (by decide) fun t => ?_,
    gives_aluImm h (exec_shri a s) rfl (by decide) fun t => ?_, gives_aluImm h (exec_sari a s) rfl (by decide) fun t => ?_,
    gives_of_thRegs h (exec_movi a s) rfl (by decide) fun _ t => ?_, gives_of_thRegs h (exec_movh a s) rfl (by decide) fun _ t => ?_⟩
  · exact congrArg _ (takeWhile_clz _).symm
  · simp only [List.countP_eq_length_filter, funext (bitAt_toNat (t.x (fA a.w)))]
  · rw [setG_eq, gr_eq, gr_eq]; congr 1; split <;> simp
  · rw [ofNat_u64, BitVec.ofInt_add, ← imm8_eq]; simp
  · simp [← BitVec.toNat_and]
  · simp [← BitVec.toNat_or]
  · simp [← BitVec.toNat_xor]
  · rw [shiftImm_eq, ofNat_mul_two_pow]
  · rw [shiftImm_eq, ofNat_div_two_pow]
  · rw [shiftImm_eq, ofNat_u64, s64_toNat, ofInt_shrInt_toInt]
  · rw [setG_eq, ofNat_u64, sext_eq_toInt _ (by decide)]; rfl
  · rw [setG_eq, gr_eq, ofNat_shiftAppend _ (fImm14 a.w) 14 (bits_lt a.w 13 0)]

/-- Settles O3: comparisons of words, and masks of the executing threads. -/
theorem predicateResults : Obligations.PredicateResults := by
  intro s a h
  refine ⟨gives_cmp3 h (exec_cmpeq a s) rfl (by decide) fun t => ?_, gives_cmp3 h (exec_cmpne a s) rfl (by decide) fun t => ?_,
    gives_cmp3 h (exec_cmplt a s) rfl (by decide) fun t => ?_, gives_cmp3 h (exec_cmple a s) rfl (by decide) fun t => ?_,
    gives_of_thRegs h (exec_cmpeqi a s) rfl (by decide) fun _ t => ?_, gives_of_thRegs h (exec_cmplti a s) rfl (by decide) fun _ t => ?_,
    gives_of_thRegs h (exec_plog a s) rfl (by decide) fun _ t => ?_, gives_of_thRegs h (exec_vote a s) rfl (by decide) fun _ t => ?_,
    gives_of_thRegs h (exec_ballot a s) rfl (by decide) fun _ t => ?_⟩
  · exact decide_toNat_eq ..
  · exact decide_not.trans (congrArg not (decide_toNat_eq ..))
  · by_cases hm : fM a.w = 0 <;> simp [hm, BitVec.slt, BitVec.ult]
  · by_cases hm : fM a.w = 0 <;> simp [hm, BitVec.sle, BitVec.ule]
  · rw [setP_eq, gr_eq, u64_fImm8, decide_toNat_eq]
  · rw [setP_eq, gr_eq, s64_toNat, ← imm8_toInt]; rfl
  · rw [setP_eq]
    generalize fM a.w = m
    rcases m with _ | _ | _ | m
    · rfl
    · rfl
    · simp [plog]
    · rfl
  · rw [setP_eq]; simp
  · rw [setG_eq, filter_exec_eq_range, ofNat_threadMask_range]

end Sys2Proof.Machine
end

section
/-! SUPPORT. Vectors as lists of elements (R237, R249), and what one thread's registers read after a write (R237). -/

namespace Sys2Proof.Machine

/-! ### Elements -/

theorem elPack_lt (w : Nat) (l : List Nat) : elPack w l < 2 ^ (w * l.length) := by
  induction l with
  | nil => simp [elPack]
  | cons x r ih =>
    have hx : x % 2 ^ w < 2 ^ w := Nat.mod_lt _ (Nat.two_pow_pos w)
    rw [elPack, List.length_cons, Nat.mul_succ, Nat.add_comm (w * r.length), Nat.pow_add]
    calc x % 2 ^ w + 2 ^ w * elPack w r < 2 ^ w * (elPack w r + 1) := by rw [Nat.mul_succ]; omega
      _ ≤ 2 ^ w * 2 ^ (w * r.length) := Nat.mul_le_mul_left _ ih

theorem elGet_elPack (w : Nat) (l : List Nat) (i : Nat) : elGet w (elPack w l) i = l.getD i 0 % 2 ^ w := by
  induction l generalizing i with
  | nil => simp [elPack, elGet]
  | cons x r ih =>
    have hx : x % 2 ^ w < 2 ^ w := Nat.mod_lt _ (Nat.two_pow_pos w)
    cases i with
    | zero => simp [elPack, elGet]
    | succ i =>
      rw [List.getD_cons_succ, ← ih, elGet, elGet, elPack, Nat.mul_succ, Nat.add_comm (w * i), Nat.pow_add, ← Nat.div_div_eq_div_mul,
        Nat.add_mul_div_left _ _ (Nat.two_pow_pos w), Nat.div_eq_of_lt hx, Nat.zero_add]

theorem elGet_elMap {w i : Nat} (f : Nat → Nat) (hi : i < elCount w) : elGet w (elMap w f) i = f i % 2 ^ w := by
  rw [elMap, elGet_elPack, List.getD_eq_getElem?_getD]
  simp [hi]

theorem elMap_lt (w : Nat) (f : Nat → Nat) : elMap w f < 2 ^ (w * elCount w) := by
  simpa [elMap] using elPack_lt w ((List.range (elCount w)).map f)

/-- Elements are taken modulo 2^w. -/
theorem elPack_congr {w : Nat} {l m : List Nat} (h : l.map (· % 2 ^ w) = m.map (· % 2 ^ w)) : elPack w l = elPack w m := by
  induction l generalizing m with
  | nil => obtain rfl : m = [] := by simpa using h.symm
           rfl
  | cons x r ih =>
    cases m with
    | nil => simp at h
    | cons y q =>
      obtain ⟨hx, hr⟩ := List.cons_eq_cons.mp h
      rw [elPack, elPack, ih hr, show x % 2 ^ w = y % 2 ^ w from hx]

theorem elMap_congr {w : Nat} {f g : Nat → Nat} (h : ∀ i, i < elCount w → f i % 2 ^ w = g i % 2 ^ w) : elMap w f = elMap w g := by
  refine elPack_congr ?_
  rw [List.map_map, List.map_map]
  exact List.map_congr_left fun i hi => h i (List.mem_range.mp hi)

/-- The vector of elements given by words. -/
theorem elMap_toNat {w : Nat} {f : Nat → Nat} {g : Nat → BitVec w} (h : ∀ i, BitVec.ofNat w (f i) = g i) :
    elMap w f = elMap w fun i => (g i).toNat :=
  elMap_congr fun i _ => by rw [← h, BitVec.toNat_ofNat, Nat.mod_mod]

/-- Elements of 0 at the end do not count. -/
theorem elPack_append_zeros (w : Nat) (l : List Nat) (n : Nat) : elPack w (l ++ List.replicate n 0) = elPack w l := by
  induction l with
  | nil =>
    induction n with
    | zero => rfl
    | succ n ih =>
      rw [List.nil_append] at ih ⊢
      rw [elPack] at ih
      rw [List.replicate_succ, elPack, elPack, ih, Nat.zero_mod, Nat.mul_zero]
  | cons x r ih => rw [List.cons_append, elPack, ih, elPack]

theorem lane_toNat (t : Thread) (w n i : Nat) : (t.lane w n i).toNat = elGet w (t.vr n) i := by
  rw [Thread.lane, BitVec.toNat_ofNat, elGet, Nat.mod_mod]

theorem testBit_elGet {w i j : Nat} (v : Nat) (hj : j < w) : (elGet w v i).testBit j = v.testBit (w * i + j) := by
  rw [elGet, Nat.testBit_mod_two_pow, Nat.testBit_div_two_pow, Nat.add_comm]
  simp [hj]

/-! ### Reads after writes (R237) -/

theorem vr_setV_same (t : Thread) (n v : Nat) : (t.setV n v).vr n = v % 2 ^ 512 := by
  rw [Thread.vr, Thread.setV, sget_sset_same]
  exact BitVec.toNat_ofNat v 512

theorem vr_setV_other (t : Thread) {n m : Nat} (v : Nat) (h : m ≠ n) : (t.setV n v).vr m = t.vr m := by
  simp only [Thread.vr, Thread.setV, sget_sset_other _ _ _ h]

theorem x_putX_same (t : Thread) {n : Nat} (v : W64) (h : n ≠ 0) : (t.putX n v).x n = v := by
  rw [Thread.putX, if_neg h, Thread.x, if_neg h, sget_sset_same]

theorem x_putX_other (t : Thread) {n m : Nat} (v : W64) (h : m ≠ n) : (t.putX n v).x m = t.x m := by
  unfold Thread.putX
  split
  · rfl
  · simp only [Thread.x, sget_sset_other _ _ _ h]

theorem pr_setP_same (t : Thread) {n : Nat} (b : Bool) (h0 : 0 < n) (h8 : n < 8) : (t.setP n b).pr n = b := by
  have hn : n ≠ 0 := Nat.pos_iff_ne_zero.mp h0
  simp only [Thread.setP, Thread.pr, hn, if_false, getLsbD_ofNat_setBits, h8, if_true, decide_false, decide_true, Bool.false_or, Bool.true_and]

theorem pr_setP_other (t : Thread) {n m : Nat} (b : Bool) (h : m ≠ n) : (t.setP n b).pr m = t.pr m := by
  unfold Thread.setP
  split
  · rfl
  · by_cases hm : m < 8
    · simp only [Thread.pr, getLsbD_ofNat_setBits, h, hm, if_false, decide_true, Bool.true_and]
    · rw [Thread.pr, Thread.pr, BitVec.getLsbD_of_ge _ m (Nat.le_of_not_lt hm), BitVec.getLsbD_of_ge _ m (Nat.le_of_not_lt hm)]

end Sys2Proof.Machine
end

section
/-! CERTIFICATE. The registers of a thread (R237). -/

namespace Sys2Proof.Machine

/-- Settles O8: a vector is the sum of its elements at their places. -/
theorem vectorElements : Obligations.VectorElements := by
  intro t n m
  refine ⟨fun w hw f i hi => ⟨?_, fun j hj => testBit_elGet _ hj⟩, fun h v => vr_setV_other t v h, by rw [gr_eq]; rfl, fun _ => rfl, rfl, fun _ => rfl,
    fun hn v hv => ⟨?_, fun h => ?_⟩, fun h0 h8 b => ⟨pr_setP_same t b h0 h8, fun h => pr_setP_other t b h⟩⟩
  · have hlt : elMap w f < 2 ^ 512 := by
      have h512 : w * elCount w = 512 := by rcases hw with rfl | rfl | rfl | rfl <;> rfl
      exact h512 ▸ elMap_lt w f
    rw [vr_setV_same, Nat.mod_eq_of_lt hlt, elGet_elMap f hi]
  · rw [gr_eq, setG_eq, x_putX_same t _ hn, BitVec.toNat_ofNat, Nat.mod_eq_of_lt hv]
  · rw [gr_eq, gr_eq, setG_eq, x_putX_other t _ h]

end Sys2Proof.Machine
end

section
/-! SUPPORT. Float and vector instructions, by their shape (R247 to R250). -/

namespace Sys2Proof.Machine

/-- The low word of a register, as the float instructions read it. -/
theorem gr_mod_eq (t : Thread) (n : Nat) : t.gr n % 2 ^ 32 = ((t.x n).setWidth 32).toNat := by rw [gr_eq, BitVec.toNat_setWidth]

/-- The word of a legal REG word's M field is one its opcode defines. -/
theorem fM_mem_of_regOk {d a b : FKind} {ms : List Nat} {w : Nat} (h : regOk d a b ms w = true) : fM w ∈ ms := by
  simp only [regOk, Bool.and_eq_true, List.contains_iff_mem] at h
  exact h.2

theorem gives_fp3 {c : Instr} {s : State} {a : ThOp} {op : Nat} {f : Nat → Nat → Nat × Nat} {g : Thread → Nat × Nat}
    (h : s.m.stands a) (he : exec c s = s.perform (fp3 a op f)) (ho : c.opcode = op) (hd : opDefined op = true)
    (hg : ∀ t : Thread, f ((t.x (fA a.w)).setWidth 32).toNat ((t.x (fB a.w)).setWidth 32).toNat = g t) :
    gives c (regOk .g .g .g [0] a.w) s a fun _ t => (t.putX (fD a.w) (BitVec.ofNat 64 (g t).1)).raise (g t).2 := by
  unfold fp3 at he
  exact gives_of_thRegs h he ho hd fun _ t => by simp only [setG_eq, gr_mod_eq, hg]

theorem gives_fcmp {c : Instr} {s : State} {a : ThOp} {op : Nat} {f : Nat → Nat → Bool × Nat} {g : Thread → Bool × Nat}
    (h : s.m.stands a) (he : exec c s = s.perform (fcmp a op f)) (ho : c.opcode = op) (hd : opDefined op = true)
    (hg : ∀ t : Thread, f ((t.x (fA a.w)).setWidth 32).toNat ((t.x (fB a.w)).setWidth 32).toNat = g t) :
    gives c (regOk .p .g .g [0] a.w) s a fun _ t => (t.putP (fD a.w) (g t).1).raise (g t).2 := by
  unfold fcmp at he
  exact gives_of_thRegs h he ho hd fun _ t => by simp only [setP_eq, gr_mod_eq, hg]

/-- A vector instruction that changes registers only gives what its function gives each executing thread, its word being legal. -/
theorem givesVec_of_thVec {c : Instr} {ok : Bool} {s : State} {a : ThOp} {op : Nat} {f : Flock → Thread → Thread} {g : Nat → Thread → Thread}
    (h : s.m.stands a) (hv : ((s.m.cl a.k).core a.core).vecGated = false) (he : exec c s = s.perform (thVec a op ok f)) (ho : c.opcode = op)
    (hd : opDefined op = true) (hg : ok = true → ∀ i t, f (s.m.flockOf a) t = g i t) : givesVec c ok s a g := by
  rintro rfl hw
  subst ho
  rw [← show (fun _ t => f (s.m.flockOf a) t) = g from funext fun i => funext fun t => hg rfl i t]
  exact completes_of he (thVec_stands h hw hd hv)

theorem givesVec_vec3 {c : Instr} {s : State} {a : ThOp} {op w : Nat} {f : Nat → Nat → Nat → Nat} {g : Thread → Nat → BitVec w}
    (h : s.m.stands a) (hv : ((s.m.cl a.k).core a.core).vecGated = false) (he : exec c s = s.perform (vec3 a op f)) (ho : c.opcode = op)
    (hd : opDefined op = true) (hw : elWidth (fM a.w) = w)
    (hg : ∀ t i, BitVec.ofNat w (f w (t.lane w (fA a.w) i).toNat (t.lane w (fB a.w) i).toNat) = g t i) :
    givesVec c (regOk .v .v .v [0, 1, 2, 3] a.w) s a fun _ t => t.setV (fD a.w) (elMap w fun i => (g t i).toNat) := by
  unfold vec3 at he
  refine givesVec_of_thVec h hv he ho hd fun _ _ t => ?_
  simp only [hw, ← lane_toNat]
  exact congrArg (t.setV (fD a.w)) (elMap_toNat (hg t))

theorem givesVec_vecSh {c : Instr} {s : State} {a : ThOp} {op w : Nat} {f : Nat → Nat → Nat → Nat} {g : Thread → Nat → BitVec w}
    (h : s.m.stands a) (hv : ((s.m.cl a.k).core a.core).vecGated = false) (he : exec c s = s.perform (vecSh a op f)) (ho : c.opcode = op)
    (hd : opDefined op = true) (hw : elWidth (fM a.w) = w)
    (hg : ∀ t i, BitVec.ofNat w (f w (t.lane w (fA a.w) i).toNat ((t.x (fB a.w)).toNat % w)) = g t i) :
    givesVec c (regOk .v .v .g [0, 1, 2, 3] a.w) s a fun _ t => t.setV (fD a.w) (elMap w fun i => (g t i).toNat) := by
  unfold vecSh at he
  refine givesVec_of_thVec h hv he ho hd fun _ _ t => ?_
  simp only [hw, gr_eq, ← lane_toNat]
  exact congrArg (t.setV (fD a.w)) (elMap_toNat (hg t))

/-- The lanes of a float vector, each with its flags. -/
theorem fpLanes_eq (w : Nat) (f : Nat → Nat × Nat) :
    fpLanes w f = (elMap w fun i => (f i).1, ((List.range (elCount w)).map fun i => (f i).2).foldl (fun x y => x ||| y) 0) := by
  simp only [fpLanes, elMap, List.map_map]; rfl

theorem givesVec_vfp3 {c : Instr} {s : State} {a : ThOp} {op : Nat} {f : Nat → Nat → Nat × Nat} {g : Thread → Nat → Nat × Nat}
    (h : s.m.stands a) (hv : ((s.m.cl a.k).core a.core).vecGated = false) (he : exec c s = s.perform (vfp3 a op f)) (ho : c.opcode = op)
    (hd : opDefined op = true) {w : Nat} (hw : fM a.w ∈ [0, 1] → elWidth (fM a.w) = w)
    (hg : fM a.w ∈ [0, 1] → ∀ t i, (fun q => (q.1, q.2 ||| sig16 (fM a.w) [(t.lane w (fA a.w) i).toNat, (t.lane w (fB a.w) i).toNat]))
      (fpLane (fM a.w) f (t.lane w (fA a.w) i).toNat (t.lane w (fB a.w) i).toNat) = g t i) :
    givesVec c (regOk .v .v .v [0, 1] a.w) s a fun _ t =>
      (t.setV (fD a.w) (elMap w fun i => (g t i).1)).raise (((List.range (512 / w)).map fun i => (g t i).2).foldl (fun x y => x ||| y) 0) := by
  unfold vfp3 at he
  refine givesVec_of_thVec h hv he ho hd fun hok _ t => ?_
  have hm := fM_mem_of_regOk hok
  simp only [hw hm, ← lane_toNat, fpLanes_eq, elCount]
  simp only [← hg hm]

end Sys2Proof.Machine
end

section
/-! SUPPORT. The float operations at their corners: what is read of a NaN, sums and products of exchanged operands, the range of a conversion to i32, and integers of at most 24 bits through FP32 and back (R247, R248). -/

namespace Sys2Proof.Machine.Fp

/-! ### NaN operands -/

/-- A float that is not a number. -/
def Val.isNan : Val → Bool
  | .nan _ => true
  | _ => false

theorem read_isNan (b : Nat) : (f32.read b).isNan = true ↔ bits b 30 23 = 255 ∧ b % 2 ^ 23 ≠ 0 := by
  have hr : f32.read b = if bits b 30 23 = 255 then (if b % 2 ^ 23 = 0 then .inf (bitAt b 31) else .nan (!bitAt b 22))
      else if bits b 30 23 = 0 then .fin (bitAt b 31) (b % 2 ^ 23) (-149)
      else .fin (bitAt b 31) (b % 2 ^ 23 + 2 ^ 23) (-149 + bits b 30 23 - 1) := rfl
  rw [hr]
  by_cases h1 : bits b 30 23 = 255
  · by_cases h2 : b % 2 ^ 23 = 0
    · rw [if_pos h1, if_pos h2]; exact ⟨fun h => absurd h Bool.false_ne_true, fun h => absurd h2 h.2⟩
    · rw [if_pos h1, if_neg h2]; exact ⟨fun _ => ⟨h1, h2⟩, fun _ => rfl⟩
  · rw [if_neg h1]; split_ifs <;> exact ⟨fun h => absurd h Bool.false_ne_true, fun h => absurd h.1 h1⟩

theorem anyNan_pair (x y : Val) : anyNan [x, y] = (x.isNan || y.isNan) := by cases x <;> cases y <;> rfl
theorem anyNan_triple (x y z : Val) : anyNan [x, y, z] = (x.isNan || y.isNan || z.isNan) := by cases x <;> cases y <;> cases z <;> rfl

/-- FSUB's flipped sign leaves a NaN a NaN. -/
theorem read_neg_isNan {b : Nat} (h : (f32.read b).isNan = true) : (f32.read (neg b)).isNan = true := by
  rw [read_isNan] at h ⊢
  obtain ⟨hx, hm⟩ := h
  unfold bits at hx ⊢
  unfold neg
  cases hb : bitAt b 31
  · rw [if_neg (by decide)]; omega
  · have : 2 ^ 31 ≤ b := by
      simp only [bitAt, decide_eq_true_eq] at hb
      omega
    rw [if_pos rfl]; omega

/-- An operation with a NaN operand gives the one NaN result; a comparison is false. -/
theorem of_nan {a b : Nat} (h : (f32.read a).isNan = true ∨ (f32.read b).isNan = true) :
    (add a b).1 = f32.nan ∧ (mul a b).1 = f32.nan ∧ (div a b).1 = f32.nan ∧ (lt a b).1 = false ∧ (eq a b).1 = false := by
  have hany : anyNan [f32.read a, f32.read b] = true := by rw [anyNan_pair, Bool.or_eq_true]; exact h
  simp only [add, mul, div, lt, eq, if_pos hany, and_self]

theorem fma_of_nan {a b c : Nat} (h : (f32.read a).isNan = true ∨ (f32.read b).isNan = true ∨ (f32.read c).isNan = true) :
    (fma a b c).1 = f32.nan := by
  have hany : anyNan [f32.read a, f32.read b, f32.read c] = true := by rw [anyNan_triple, Bool.or_eq_true, Bool.or_eq_true, or_assoc]; exact h
  simp only [fma, if_pos hany]

/-- FMIN and FMAX of one NaN give the other operand. -/
theorem pick_of_nan (lower : Bool) {a b : Nat} (ha : (f32.read a).isNan = true) (hb : ¬ (f32.read b).isNan = true) :
    (pick lower a b).1 = b ∧ (pick lower b a).1 = b := by
  unfold pick
  generalize f32.read a = x at ha ⊢
  generalize f32.read b = y at hb ⊢
  rcases x with q | s | ⟨s, m, e⟩
  · rcases y with r | t | ⟨t, n, g⟩
    · exact absurd rfl hb
    · exact ⟨rfl, rfl⟩
    · exact ⟨rfl, rfl⟩
  · exact absurd ha Bool.false_ne_true
  · exact absurd ha Bool.false_ne_true

/-- The finite sum does not depend on the order. -/
theorem addFin_comm (s : Bool) (m : Nat) (e : Int) (t : Bool) (n : Nat) (g : Int) : addFin s m e t n g = addFin t n g s m e := by
  unfold addFin
  simp only [min_comm g e, add_comm (if t = true then _ else _), Bool.and_comm t s]

theorem add_fst_comm (a b : Nat) : (add a b).1 = (add b a).1 := by
  unfold add
  generalize f32.read a = x
  generalize f32.read b = y
  rcases x with q | s | ⟨s, m, e⟩
  · cases y <;> rfl
  · rcases y with r | t | ⟨t, n, g⟩
    · rfl
    · by_cases h : s = t
      · subst h; rfl
      · simp [anyNan, h, Ne.symm h]
    · rfl
  · rcases y with r | t | ⟨t, n, g⟩
    · rfl
    · rfl
    · simp only [anyNan, addFin_comm s m e t n g]; rfl

theorem mul_fst_comm (a b : Nat) : (mul a b).1 = (mul b a).1 := by
  unfold mul
  generalize f32.read a = x
  generalize f32.read b = y
  have hx (s t : Bool) : (s != t) = (t != s) := bne_comm
  rcases x with q | s | ⟨s, m, e⟩
  · cases y <;> rfl
  · rcases y with r | t | ⟨t, n, g⟩
    · rfl
    · simp [anyNan, hx s t]
    · simp [anyNan, hx s t]
  · rcases y with r | t | ⟨t, n, g⟩
    · rfl
    · simp [anyNan, hx s t]
    · show (f32.round (s != t) (m * n) (e + g)).1 = (f32.round (t != s) (n * m) (g + e)).1
      rw [hx, Nat.mul_comm, Int.add_comm]

/-! ### Conversions to and from i32 -/

theorem toI32_of_nan {a : Nat} (h : (f32.read a).isNan = true) : (toI32 a).1 = 0 := by
  unfold toI32
  generalize f32.read a = x at h ⊢
  rcases x with q | s | ⟨s, m, e⟩
  · rfl
  · exact absurd h Bool.false_ne_true
  · exact absurd h Bool.false_ne_true

/-- A conversion to i32 saturates. -/
theorem toI32_mem (a : Nat) : -2 ^ 31 ≤ (toI32 a).1 ∧ (toI32 a).1 ≤ 2 ^ 31 - 1 := by
  unfold toI32
  cases f32.read a with
  | nan q => exact (by decide : (-2 : Int) ^ 31 ≤ 0 ∧ (0 : Int) ≤ 2 ^ 31 - 1)
  | inf s => cases s <;> decide
  | fin s m e =>
    dsimp only
    generalize (if 0 ≤ e then _ else _ : Int) = r
    by_cases h1 : r < -2 ^ 31
    · rw [if_pos h1]; decide
    by_cases h2 : 2 ^ 31 - 1 < r
    · rw [if_neg h1, if_pos h2]; decide
    · rw [if_neg h1, if_neg h2]; exact ⟨Int.not_lt.mp h1, Int.not_lt.mp h2⟩

/-- Reads a normal number. -/
theorem read_normal (s : Bool) {x r : Nat} (h0 : 0 < x) (h1 : x < 255) (hr : r < 2 ^ 23) :
    f32.read (b2n s * 2 ^ 31 + x * 2 ^ 23 + r) = .fin s (r + 2 ^ 23) (-149 + x - 1) := by
  have hs : b2n s ≤ 1 := by cases s <;> decide
  generalize hb : b2n s * 2 ^ 31 + x * 2 ^ 23 + r = b
  have hx : bits b 30 23 = x := by unfold bits; omega
  have hm : b % 2 ^ 23 = r := by omega
  have hsign : bitAt b 31 = s := by
    unfold bitAt
    cases s <;> simp only [b2n, Bool.false_eq_true, if_false, if_true] at hb <;> simp <;> omega
  have hr : f32.read b = if bits b 30 23 = 255 then (if b % 2 ^ 23 = 0 then .inf (bitAt b 31) else .nan (!bitAt b 22))
      else if bits b 30 23 = 0 then .fin (bitAt b 31) (b % 2 ^ 23) (-149)
      else .fin (bitAt b 31) (b % 2 ^ 23 + 2 ^ 23) (-149 + bits b 30 23 - 1) := rfl
  rw [hr, hx, hm, hsign, if_neg (by omega), if_neg (by omega)]

/-- A value whose last place is no finer than the format's rounds to itself. -/
theorem round_exact (f : Fmt) (s : Bool) {m M : Nat} {e q : Int} (h0 : m ≠ 0) (hq : max (e + bitlen m - f.p) f.emin = q) (hqe : q ≤ e)
    (hM : m * 2 ^ (e - q).toNat = M) (hlo : 2 ^ (f.p - 1) ≤ M) (hhi : M < 2 ^ f.p) (hb : q - f.emin + 1 < 255) :
    f.round s m e = (b2n s * 2 ^ (f.p + 7) + (q - f.emin + 1).toNat * 2 ^ (f.p - 1) + (M - 2 ^ (f.p - 1)), 0) := by
  have hne : q - f.emin + 1 ≠ 0 := by omega
  have hlost : (decide (e < q) && decide (m % 2 ^ (q - e).toNat ≠ 0)) = false := by rw [decide_eq_false (Int.not_lt.mpr hqe)]; rfl
  simp only [Fmt.round, if_neg h0, hq, if_pos hqe, hM, if_neg hhi.ne, if_neg (Nat.not_lt.mpr hlo), if_neg (Int.not_le.mpr hb), if_neg hne, hlost,
    Bool.false_and, Bool.false_eq_true, if_false]

/-- A whole number of at most 24 bits, shifted so that its top bit is bit 23. -/
theorem shifted_mem {m : Nat} (h0 : m ≠ 0) (h : m < 2 ^ 24) : 2 ^ 23 ≤ m * 2 ^ (23 - m.log2) ∧ m * 2 ^ (23 - m.log2) < 2 ^ 24 := by
  have hlog : m.log2 < 24 := (Nat.log2_lt h0).mpr h
  have h23 : 2 ^ m.log2 * 2 ^ (23 - m.log2) = 2 ^ 23 := by rw [← Nat.pow_add]; congr 1; omega
  refine ⟨h23 ▸ Nat.mul_le_mul_right _ (Nat.log2_self_le h0), ?_⟩
  have hhi := Nat.mul_lt_mul_of_pos_right (Nat.lt_log2_self (n := m)) (Nat.two_pow_pos (23 - m.log2))
  rwa [Nat.pow_succ, Nat.mul_right_comm, h23] at hhi

/-- A whole number of at most 24 bits is exact in FP32. -/
theorem round_whole (s : Bool) {m : Nat} (h0 : m ≠ 0) (h : m < 2 ^ 24) :
    f32.round s m 0 = (b2n s * 2 ^ 31 + (m.log2 + 127) * 2 ^ 23 + (m * 2 ^ (23 - m.log2) - 2 ^ 23), 0) := by
  have hlog : m.log2 < 24 := (Nat.log2_lt h0).mpr h
  obtain ⟨hlo, hhi⟩ := shifted_mem h0 h
  have hbit : bitlen m = m.log2 + 1 := by rw [bitlen, if_neg h0]
  have hround := round_exact f32 s (M := m * 2 ^ (23 - m.log2)) (e := 0) (q := (m.log2 : Int) - 23) h0
    (by rw [hbit]; show max (_ - (24 : Int)) (-149) = _; omega) (by omega) (by congr 2; omega) hlo hhi (by show _ - (-149 : Int) + 1 < 255; omega)
  have hx : ((m.log2 : Int) - 23 - f32.emin + 1).toNat = m.log2 + 127 := by show (_ - (-149 : Int) + 1).toNat = _; omega
  rw [hround, hx]; rfl

/-- It is read back with its top bit at bit 23. -/
theorem read_round_whole (s : Bool) {m : Nat} (h0 : m ≠ 0) (h : m < 2 ^ 24) :
    f32.read (f32.round s m 0).1 = .fin s (m * 2 ^ (23 - m.log2)) (-((23 - m.log2 : Nat) : Int)) := by
  have hlog : m.log2 < 24 := (Nat.log2_lt h0).mpr h
  obtain ⟨hlo, hhi⟩ := shifted_mem h0 h
  rw [round_whole s h0 h, read_normal s (by omega) (by omega) (by omega), Nat.sub_add_cancel hlo,
    show (-149 : Int) + ((m.log2 + 127 : Nat) : Int) - 1 = -((23 - m.log2 : Nat) : Int) by omega]

theorem rndAway_mul_two_pow (z : Int) (n : Nat) : rndAway (z * 2 ^ n) n = z := by
  have hround (y : Int) (k : Nat) : shrInt (y * 2 ^ (k + 1) + 2 ^ k) (k + 1) = y := by
    rw [shrInt_eq, Int.add_comm, Int.add_mul_ediv_right _ _ (by positivity), Int.ediv_eq_zero_of_lt (by positivity), Int.zero_add]
    exact pow_lt_pow_right₀ (by decide) (Nat.lt_succ_self k)
  unfold rndAway
  cases n with
  | zero => simp
  | succ k =>
    rw [if_neg (Nat.succ_ne_zero k), Nat.add_sub_cancel]
    split
    · exact hround z k
    · rw [← Int.neg_mul, hround, Int.neg_neg]

theorem toI32_fin {b : Nat} {s : Bool} {m n : Nat} (hr : f32.read b = .fin s (m * 2 ^ n) (-(n : Int))) (hm : m ≤ 2 ^ 24) :
    toI32 b = (if s then -(m : Int) else m, 0) := by
  have hv : (if s then -((m * 2 ^ n : Nat) : Int) else ((m * 2 ^ n : Nat) : Int)) = (if s then -(m : Int) else m) * 2 ^ n := by
    cases s <;> simp
  have hint : (if 0 ≤ -(n : Int) then (if s then -(m : Int) else m) * 2 ^ n * 2 ^ (-(n : Int)).toNat
      else rndAway ((if s then -(m : Int) else m) * 2 ^ n) (- -(n : Int)).toNat) = if s then -(m : Int) else m := by
    rw [Int.neg_neg, Int.toNat_natCast, rndAway_mul_two_pow]
    split
    · obtain rfl : n = 0 := by omega
      simp
    · rfl
  have hlo : ¬ (if s then -(m : Int) else m) < -2 ^ 31 := by split <;> omega
  have hhi : ¬ 2 ^ 31 - 1 < (if s then -(m : Int) else m) := by split <;> omega
  have hexact : (decide (-(n : Int) < 0) && decide (m * 2 ^ n % 2 ^ (- -(n : Int)).toNat ≠ 0)) = false := by
    rw [Int.neg_neg, Int.toNat_natCast, Nat.mul_mod_left]; simp
  simp only [toI32, hr, hv, hint, if_neg hlo, if_neg hhi, hexact, Bool.false_eq_true, if_false]

/-- Integers of at most 24 bits go to FP32 and back unchanged. -/
theorem toI32_ofI32 {v : Int} (h0 : -2 ^ 24 ≤ v) (h1 : v ≤ 2 ^ 24) : toI32 (ofI32 (BitVec.ofInt 32 v).toNat).1 = (v, 0) := by
  have hsext : sext 32 (BitVec.ofInt 32 v).toNat = v := by
    rw [sext_toNat _ (by decide), BitVec.toInt_ofInt, Int.bmod_eq_of_le (by omega) (by omega)]
  unfold ofI32
  simp only [hsext]
  by_cases hz : v = 0
  · subst hz; rfl
  by_cases hb : v.natAbs = 2 ^ 24
  · obtain rfl | rfl : v = 2 ^ 24 ∨ v = -2 ^ 24 := by omega
    · decide
    · decide
  · have hm0 : v.natAbs ≠ 0 := by omega
    have hv : (if decide (v < 0) = true then -(v.natAbs : Int) else v.natAbs) = v := by
      by_cases h : v < 0
      · rw [if_pos (decide_eq_true h)]; omega
      · rw [if_neg (by simpa using h)]; omega
    rw [toI32_fin (read_round_whole _ hm0 (by omega)) (by omega), hv]

end Sys2Proof.Machine.Fp
end

section
/-! CERTIFICATE. Scalar float instructions (R247, R248). -/

namespace Sys2Proof.Machine

theorem exec_fadd (a : ThOp) (s : State) : exec (.fadd a) s = s.perform (faddProg a) := rfl
theorem exec_fsub (a : ThOp) (s : State) : exec (.fsub a) s = s.perform (fsubProg a) := rfl
theorem exec_fmul (a : ThOp) (s : State) : exec (.fmul a) s = s.perform (fmulProg a) := rfl
theorem exec_ffma (a : ThOp) (s : State) : exec (.ffma a) s = s.perform (ffmaProg a) := rfl
theorem exec_fmin (a : ThOp) (s : State) : exec (.fmin a) s = s.perform (fminProg a) := rfl
theorem exec_fmax (a : ThOp) (s : State) : exec (.fmax a) s = s.perform (fmaxProg a) := rfl
theorem exec_fdiv (a : ThOp) (s : State) : exec (.fdiv a) s = s.perform (fdivProg a) := rfl
theorem exec_fsqrt (a : ThOp) (s : State) : exec (.fsqrt a) s = s.perform (fsqrtProg a) := rfl
theorem exec_fcvt (a : ThOp) (s : State) : exec (.fcvt a) s = s.perform (fcvtProg a) := rfl
theorem exec_fcmplt (a : ThOp) (s : State) : exec (.fcmplt a) s = s.perform (fcmpltProg a) := rfl
theorem exec_fcmpeq (a : ThOp) (s : State) : exec (.fcmpeq a) s = s.perform (fcmpeqProg a) := rfl

theorem fcvt_zero (x : Nat) : fcvt 0 x = Fp.ofI32 (x % 2 ^ 32) := rfl
theorem fcvt_one (x : Nat) : fcvt (0 + 1) x = (u64 (Fp.toI32 (x % 2 ^ 32)).1, (Fp.toI32 (x % 2 ^ 32)).2) := rfl
theorem fcvt_two (x : Nat) : fcvt (0 + 1 + 1) x = Fp.toBf16 (x % 2 ^ 32) := rfl
theorem fcvt_bf16 (m x : Nat) : fcvt (m + 1 + 1 + 1) x = Fp.ofBf16 (x % 2 ^ 32 % 2 ^ 16) := by
  rw [Nat.mod_mod_of_dvd _ (by decide)]; rfl

/-- An i32 sign-extended is the 64-bit word of its value. -/
theorem signExtend_ofInt32 {z : Int} (h : -2 ^ 31 ≤ z ∧ z ≤ 2 ^ 31 - 1) : (BitVec.ofInt 32 z).signExtend 64 = BitVec.ofInt 64 z := by
  rw [BitVec.signExtend, BitVec.toInt_ofInt, Int.bmod_eq_of_le (by omega) (by omega)]

/-- Settles O4: the low words go through the operations of Fp, the flags into FSTAT. -/
theorem scalarFloatResults : Obligations.ScalarFloatResults := by
  intro s a h
  refine ⟨gives_fp3 h (exec_fadd a s) rfl (by decide) fun _ => rfl, gives_fp3 h (exec_fsub a s) rfl (by decide) fun _ => rfl,
    gives_fp3 h (exec_fmul a s) rfl (by decide) fun _ => rfl, gives_fp3 h (exec_fmin a s) rfl (by decide) fun _ => rfl,
    gives_fp3 h (exec_fmax a s) rfl (by decide) fun _ => rfl, gives_fp3 h (exec_fdiv a s) rfl (by decide) fun _ => rfl,
    gives_of_thRegs h (exec_ffma a s) rfl (by decide) fun _ t => ?_, gives_of_thRegs h (exec_fsqrt a s) rfl (by decide) fun _ t => ?_,
    gives_of_thRegs h (exec_fcvt a s) rfl (by decide) fun _ t => ?_, gives_fcmp h (exec_fcmplt a s) rfl (by decide) fun _ => rfl,
    gives_fcmp h (exec_fcmpeq a s) rfl (by decide) fun _ => rfl⟩
  · simp only [setG_eq, gr_mod_eq]; rfl
  · simp only [setG_eq, gr_mod_eq]; rfl
  · have hgr : t.gr (fA a.w) % 2 ^ 32 = _ := gr_mod_eq t (fA a.w)
    generalize fM a.w = m
    rcases m with _ | _ | _ | m
    · simp only [setG_eq, fcvt_zero, hgr]; rfl
    · simp only [setG_eq, fcvt_one, hgr]
      rw [ofNat_u64, ← signExtend_ofInt32 (Fp.toI32_mem _)]; rfl
    · simp only [setG_eq, fcvt_two, hgr]; rfl
    · simp only [setG_eq, fcvt_bf16, hgr]; rfl

end Sys2Proof.Machine
end

section
/-! CERTIFICATE. Vector integer instructions (R249). -/

namespace Sys2Proof.Machine

theorem exec_vadd (a : ThOp) (s : State) : exec (.vadd a) s = s.perform (vaddProg a) := rfl
theorem exec_vsub (a : ThOp) (s : State) : exec (.vsub a) s = s.perform (vsubProg a) := rfl
theorem exec_vmul (a : ThOp) (s : State) : exec (.vmul a) s = s.perform (vmulProg a) := rfl
theorem exec_vmin (a : ThOp) (s : State) : exec (.vmin a) s = s.perform (vminProg a) := rfl
theorem exec_vmax (a : ThOp) (s : State) : exec (.vmax a) s = s.perform (vmaxProg a) := rfl
theorem exec_vand (a : ThOp) (s : State) : exec (.vand a) s = s.perform (vandProg a) := rfl
theorem exec_vor (a : ThOp) (s : State) : exec (.vor a) s = s.perform (vorProg a) := rfl
theorem exec_vxor (a : ThOp) (s : State) : exec (.vxor a) s = s.perform (vxorProg a) := rfl
theorem exec_vshl (a : ThOp) (s : State) : exec (.vshl a) s = s.perform (vshlProg a) := rfl
theorem exec_vsar (a : ThOp) (s : State) : exec (.vsar a) s = s.perform (vsarProg a) := rfl
theorem exec_vsplat (a : ThOp) (s : State) : exec (.vsplat a) s = s.perform (vsplatProg a) := rfl
theorem exec_vext (a : ThOp) (s : State) : exec (.vext a) s = s.perform (vextProg a) := rfl
theorem exec_vins (a : ThOp) (s : State) : exec (.vins a) s = s.perform (vinsProg a) := rfl
theorem exec_vred (a : ThOp) (s : State) : exec (.vred a) s = s.perform (vredProg a) := rfl
theorem exec_vperm (a : ThOp) (s : State) : exec (.vperm a) s = s.perform (vpermProg a) := rfl

theorem elWidth_pos (m : Nat) : 0 < elWidth m := by
  unfold elWidth
  split_ifs <;> decide

/-- A sum of signed elements, in 64 bits. -/
theorem ofInt_sumInt (l : List Int) : BitVec.ofInt 64 (sumInt l) = l.foldl (fun n z => n + BitVec.ofInt 64 z) 0 := by
  have hstep (z : Int) : BitVec.ofInt 64 (l.foldl (· + ·) z) = l.foldl (fun n z => n + BitVec.ofInt 64 z) (BitVec.ofInt 64 z) := by
    induction l generalizing z with
    | nil => rfl
    | cons y l ih => rw [List.foldl_cons, List.foldl_cons, ih, BitVec.ofInt_add]
  exact hstep 0

/-- Settles O7: element by element, each element a word of the width M selects. -/
theorem vectorIntegerResults : Obligations.VectorIntegerResults := by
  intro s a h hv w put v3 vs pick
  have hw : elWidth (fM a.w) = w := by
    subst w
    rcases fM a.w with _ | _ | _ | m <;> rfl
  have hpos : 0 < w := hw ▸ elWidth_pos _
  clear_value w
  refine ⟨givesVec_vec3 h hv (exec_vadd a s) rfl (by decide) hw fun t i => ?_, givesVec_vec3 h hv (exec_vsub a s) rfl (by decide) hw fun t i => ?_,
    givesVec_vec3 h hv (exec_vmul a s) rfl (by decide) hw fun t i => ?_, givesVec_vec3 h hv (exec_vmin a s) rfl (by decide) hw fun t i => ?_,
    givesVec_vec3 h hv (exec_vmax a s) rfl (by decide) hw fun t i => ?_, givesVec_vec3 h hv (exec_vand a s) rfl (by decide) hw fun t i => ?_,
    givesVec_vec3 h hv (exec_vor a s) rfl (by decide) hw fun t i => ?_, givesVec_vec3 h hv (exec_vxor a s) rfl (by decide) hw fun t i => ?_,
    givesVec_vecSh h hv (exec_vshl a s) rfl (by decide) hw fun t i => ?_, givesVec_vecSh h hv (exec_vsar a s) rfl (by decide) hw fun t i => ?_,
    givesVec_of_thVec h hv (exec_vsplat a s) rfl (by decide) fun _ _ t => ?_, givesVec_of_thVec h hv (exec_vext a s) rfl (by decide) fun _ _ t => ?_,
    givesVec_of_thVec h hv (exec_vins a s) rfl (by decide) fun _ _ t => ?_, givesVec_of_thVec h hv (exec_vred a s) rfl (by decide) fun _ _ t => ?_,
    givesVec_of_thVec h hv (exec_vperm a s) rfl (by decide) fun _ _ t => ?_⟩
  · simp [BitVec.ofNat_add]
  · rw [ofNat_wrapN, ofInt_sub_toNat]
  · simp [BitVec.ofNat_mul]
  · rw [ofNat_wrapN, sext_toNat _ hpos, sext_toNat _ hpos, ofInt_min_toInt]
  · rw [ofNat_wrapN, sext_toNat _ hpos, sext_toNat _ hpos, ofInt_max_toInt]
  · simp [← BitVec.toNat_and]
  · simp [← BitVec.toNat_or]
  · simp [← BitVec.toNat_xor]
  · exact ofNat_mul_two_pow ..
  · rw [ofNat_wrapN, sext_toNat _ hpos, ofInt_shrInt_toInt]
  · simp only [hw, gr_eq]
    exact congrArg (t.setV (fD a.w)) (elMap_toNat fun _ => (setWidth_eq_ofNat ..).symm)
  · simp only [hw, gr_eq, ← lane_toNat, setG_eq, ofNat_u64, sext_toNat _ hpos]; rfl
  · simp only [hw, ← lane_toNat]
    refine congrArg (t.setV (fD a.w)) (elMap_toNat fun i => ?_)
    by_cases hi : i = pick t
    · rw [if_pos hi, if_pos (show i = t.gr _ % elCount w from gr_eq .. ▸ hi), setWidth_eq_ofNat, gr_eq]
    · rw [if_neg hi, if_neg (show ¬ i = t.gr _ % elCount w from gr_eq t _ ▸ hi), BitVec.ofNat_toNat, BitVec.setWidth_eq]
  · simp only [hw, ← lane_toNat, setG_eq, ofNat_u64, sext_toNat _ hpos, ofInt_sumInt, List.foldl_map]; rfl
  · simp only [← lane_toNat]

end Sys2Proof.Machine
end

section
/-! CERTIFICATE. Vector float instructions (R250). -/

namespace Sys2Proof.Machine

theorem exec_vfadd (a : ThOp) (s : State) : exec (.vfadd a) s = s.perform (vfaddProg a) := rfl
theorem exec_vfsub (a : ThOp) (s : State) : exec (.vfsub a) s = s.perform (vfsubProg a) := rfl
theorem exec_vfmul (a : ThOp) (s : State) : exec (.vfmul a) s = s.perform (vfmulProg a) := rfl
theorem exec_vffma (a : ThOp) (s : State) : exec (.vffma a) s = s.perform (vffmaProg a) := rfl
theorem exec_vfmin (a : ThOp) (s : State) : exec (.vfmin a) s = s.perform (vfminProg a) := rfl
theorem exec_vfmax (a : ThOp) (s : State) : exec (.vfmax a) s = s.perform (vfmaxProg a) := rfl
theorem exec_vfcvt (a : ThOp) (s : State) : exec (.vfcvt a) s = s.perform (vfcvtProg a) := rfl
theorem exec_vfred (a : ThOp) (s : State) : exec (.vfred a) s = s.perform (vfredProg a) := rfl

theorem elWidth_float {m : Nat} (hm : m ∈ [0, 1]) : elWidth m = if m == 1 then 16 else 32 := by
  rcases List.mem_pair.mp hm with rfl | rfl <;> rfl

/-- A lane of a float operation with its flags: in FP32, or in BF16 through FP32. -/
theorem lane_eq {m : Nat} (hm : m ∈ [0, 1]) (q r : Nat × Nat) (l : List Nat) :
    (fun q => (q.1, q.2 ||| sig16 m l)) (if m = 0 then q else Fp.lane16 r)
      = if m == 1 then ((Fp.toBf16 r.1).1, r.2 ||| (Fp.toBf16 r.1).2 ||| Fp.sigFlag (l.map Fp.bf16.read)) else q := by
  rcases List.mem_pair.mp hm with rfl | rfl
  · simp [sig16]
  · rfl

/-- VFCVT to BF16 leaves 0 in the upper 16 elements. -/
theorem vfcvt_two (v : Nat) : vfcvt (0 + 1 + 1) v = (elMap 16 fun i => if i < 16 then (Fp.toBf16 (elGet 32 v i)).1 else 0,
    ((List.range 16).map fun i => (Fp.toBf16 (elGet 32 v i)).2).foldl (fun x y => x ||| y) 0) := by
  have hlist : ((List.range (elCount 16)).map fun i => if i < 16 then (Fp.toBf16 (elGet 32 v i)).1 else 0)
      = ((List.range 16).map fun i => (Fp.toBf16 (elGet 32 v i)).1) ++ List.replicate 16 0 := by
    rw [show elCount 16 = 16 + 16 from rfl, List.range_add, List.map_append, List.map_map]
    refine congrArg₂ _ (List.map_congr_left fun i hi => if_pos (List.mem_range.mp hi)) (List.eq_replicate_iff.mpr ⟨by simp, ?_⟩)
    simp
  rw [elMap, hlist, elPack_append_zeros, vfcvt, if_pos rfl]
  simp only [List.map_map, Function.comp_def]

theorem fpLanes_word (f : Nat → Nat × Nat) :
    fpLanes 32 f = (elMap 32 fun i => if i < 16 then (f i).1 else 0, ((List.range 16).map fun i => (f i).2).foldl (fun x y => x ||| y) 0) := by
  have hlanes : elMap 32 (fun i => (f i).1) = elMap 32 fun i => if i < 16 then (f i).1 else 0 :=
    elMap_congr fun i hi => by rw [if_pos (show i < 16 from hi)]
  rw [fpLanes_eq, hlanes, show elCount 32 = 16 from rfl]

theorem vfcvt_zero (v : Nat) : vfcvt 0 v = fpLanes 32 fun i => Fp.ofI32 (elGet 32 v i) := by simp [vfcvt]
theorem vfcvt_one (v : Nat) : vfcvt (0 + 1) v = fpLanes 32 fun i => (wrapN 32 (Fp.toI32 (elGet 32 v i)).1, (Fp.toI32 (elGet 32 v i)).2) := by
  simp [vfcvt]
theorem vfcvt_bf16 (m v : Nat) : vfcvt (m + 1 + 1 + 1) v = fpLanes 32 fun i => Fp.ofBf16 (elGet 16 v i) := by simp [vfcvt]

/-- One level of VFRED's tree over elements given by a function, `add` being the addition. -/
def redPair (add : Nat → Nat → Nat × Nat) (f : Nat → Nat × Nat) (i : Nat) : Nat × Nat :=
  ((add (f (2 * i)).1 (f (2 * i + 1)).1).1, (add (f (2 * i)).1 (f (2 * i + 1)).1).2 ||| (f (2 * i)).2 ||| (f (2 * i + 1)).2)

theorem redLevel_map_range (f : Nat → Nat × Nat) (n : Nat) : redLevel ((List.range (2 * n)).map f) = (List.range n).map (redPair Fp.add f) := by
  induction n generalizing f with
  | zero => rfl
  | succ n ih =>
    have hshift : (fun i => redPair Fp.add f (i + 1)) = redPair Fp.add fun i => f (i + 2) := rfl
    rw [Nat.mul_succ, List.range_succ_eq_map, List.range_succ_eq_map, List.range_succ_eq_map]
    simp only [List.map_cons, List.map_map, redLevel]
    exact congrArg₂ _ rfl ((ih fun i => f (i + 2)).trans (congrArg (List.map · _) hshift.symm))

/-- The flags of a tree of sixteen leaves are the flags of its fifteen sums. -/
theorem or_tree (a b c : Nat → Nat) (d : Nat) :
    d ||| (c 0 ||| (b 0 ||| a 0 ||| a 1) ||| (b 1 ||| a 2 ||| a 3)) ||| (c 1 ||| (b 2 ||| a 4 ||| a 5) ||| (b 3 ||| a 6 ||| a 7))
      = ((List.range 8).map a ++ (List.range 4).map b ++ [c 0, c 1, d]).foldl (fun x y => x ||| y) 0 := by
  simp only [List.range_succ, List.range_zero, List.nil_append, List.cons_append, List.map_cons, List.map_nil, List.foldl_cons, List.foldl_nil,
    Nat.zero_or]
  ac_rfl

/-- The whole tree: the sums level by level, and the flags of all of them. -/
theorem redPair_tree (add : Nat → Nat → Nat × Nat) (x : Nat → Nat) :
    let l1 (i : Nat) : Nat × Nat := add (x (2 * i)) (x (2 * i + 1))
    let l2 (i : Nat) : Nat × Nat := add (l1 (2 * i)).1 (l1 (2 * i + 1)).1
    let l3 (i : Nat) : Nat × Nat := add (l2 (2 * i)).1 (l2 (2 * i + 1)).1
    let l4 : Nat × Nat := add (l3 0).1 (l3 1).1
    redPair add (redPair add (redPair add (redPair add fun i => (x i, 0)))) 0
      = (l4.1, ((List.range 8).map (fun i => (l1 i).2) ++ (List.range 4).map (fun i => (l2 i).2) ++ [(l3 0).2, (l3 1).2, l4.2]).foldl
          (fun x y => x ||| y) 0) := by
  intro l1 l2 l3 l4
  have hleaves : redPair add (fun i => (x i, 0)) = l1 := funext fun i => by simp [redPair, l1]
  rw [hleaves, ← or_tree (fun i => (l1 i).2) (fun i => (l2 i).2) (fun i => (l3 i).2) l4.2]
  rfl

/-- Settles O9: lane by lane, VFRED through its tree of sums. -/
theorem vectorFloatResults : Obligations.VectorFloatResults := by
  intro s a h hv bf w
  have hw (hm : fM a.w ∈ [0, 1]) : elWidth (fM a.w) = w := elWidth_float hm
  refine ⟨givesVec_vfp3 h hv (exec_vfadd a s) rfl (by decide) hw fun hm _ _ => lane_eq hm ..,
    givesVec_vfp3 h hv (exec_vfsub a s) rfl (by decide) hw fun hm _ _ => lane_eq hm ..,
    givesVec_vfp3 h hv (exec_vfmul a s) rfl (by decide) hw fun hm _ _ => lane_eq hm ..,
    givesVec_vfp3 h hv (exec_vfmin a s) rfl (by decide) hw fun hm _ _ => lane_eq hm ..,
    givesVec_vfp3 h hv (exec_vfmax a s) rfl (by decide) hw fun hm _ _ => lane_eq hm ..,
    givesVec_of_thVec h hv (exec_vffma a s) rfl (by decide) fun hok _ t => ?_,
    givesVec_of_thVec h hv (exec_vfcvt a s) rfl (by decide) fun _ _ t => ?_,
    givesVec_of_thVec h hv (exec_vfred a s) rfl (by decide) fun _ _ t => ?_⟩
  · have hm := fM_mem_of_regOk hok
    simp only [hw hm, ← lane_toNat, fpLanes_eq, elCount]
    have hl (x y z : Nat) := lane_eq hm (Fp.fma x y z) (Fp.fma (Fp.ofBf16 x).1 (Fp.ofBf16 y).1 (Fp.ofBf16 z).1) [x, y, z]
    simp only at hl
    have h1 (x y z : Nat) := congrArg Prod.fst (hl x y z)
    have h2 (x y z : Nat) := congrArg Prod.snd (hl x y z)
    simp only at h1 h2
    simp only [h1, h2]
    rfl
  · generalize fM a.w = m
    rcases m with _ | _ | _ | m
    · simp only [vfcvt_zero, fpLanes_word, ← lane_toNat]; rfl
    · simp only [vfcvt_one, fpLanes_word, ← lane_toNat, wrapN_eq_toNat]; rfl
    · simp only [vfcvt_two, ← lane_toNat]; rfl
    · simp only [vfcvt_bf16, fpLanes_word, ← lane_toNat]; rfl
  · have hred (f : Nat → Nat × Nat) :
        (redLevel (redLevel (redLevel (redLevel ((List.range 16).map f))))).headD (0, 0) = redPair Fp.add (redPair Fp.add (redPair Fp.add (redPair Fp.add f))) 0 := by
      rw [redLevel_map_range f 8, redLevel_map_range _ 4, redLevel_map_range _ 2, redLevel_map_range _ 1]; rfl
    simp only [hred, redPair_tree, ← lane_toNat, setG_eq]; rfl

end Sys2Proof.Machine
end

section
/-! CERTIFICATE. The corners of the float operations (R247, R248). -/

namespace Sys2Proof.Machine

open Fp in
/-- Settles O5: what is read of the operands decides each corner; whole numbers of 24 bits are exact. -/
theorem floatCorners : Obligations.FloatCorners := by
  unfold Obligations.FloatCorners
  intro isNan
  have hnan (b : Nat) : isNan b ↔ (f32.read b).isNan = true := (read_isNan b).symm
  refine ⟨fun x y z _ _ _ => ⟨fun h => ?_, fun h => ?_, fun hx hy => ?_, add_fst_comm x y, mul_fst_comm x y, fun h => toI32_of_nan ((hnan x).mp h),
    toI32_mem x⟩, by decide, by decide, by decide, by decide, fun v => toI32_ofI32⟩
  · rw [hnan, hnan] at h
    obtain ⟨hadd, hmul, hdiv, hlt, heq⟩ := of_nan h
    obtain ⟨hsub, -⟩ := of_nan (h.imp_right read_neg_isNan)
    exact ⟨hadd, hsub, hmul, hdiv, hlt, heq⟩
  · rw [hnan, hnan, hnan] at h
    exact fma_of_nan h
  · rw [hnan] at hx hy
    obtain ⟨hmin, hmin'⟩ := pick_of_nan true hx hy
    obtain ⟨hmax, hmax'⟩ := pick_of_nan false hx hy
    exact ⟨hmin, hmax, hmin', hmax'⟩

end Sys2Proof.Machine
end

section
/-! CERTIFICATE. The tally clears of the register blocks (R31, R138, R272, R355 to R357, R513). -/

namespace Sys2Proof.Machine

theorem mem_offsets {lo hi o : Nat} (h : lo ≤ hi) (hlo : lo % 4 = 0) (hhi : hi % 4 = 0) : o ∈ offsets lo hi ↔ lo ≤ o ∧ o ≤ hi ∧ o % 4 = 0 := by
  simp only [offsets, List.mem_map, List.mem_range]
  refine ⟨?_, fun ⟨h1, h2, h3⟩ => ⟨(o - lo) / 4, by omega, by omega⟩⟩
  rintro ⟨i, hi, rfl⟩
  omega

/-- The counters at the offsets from `lo` to `hi` of a block at `base` read 0, and nothing else has changed. -/
def Dev.cleared (s t : Dev) (base lo hi : Nat) : Prop :=
  (∀ o, lo ≤ o → o ≤ hi → o % 4 = 0 → t.regAt (base + o) = 0)
    ∧ (∀ A, (∀ o, lo ≤ o → o ≤ hi → o % 4 = 0 → A ≠ base + o) → t.regAt A = s.regAt A) ∧ { t with regs := [] } = { s with regs := [] }

theorem cleared_clearTallies {rb : RB} {d i lo hi : Nat} {offs : List Nat} (ho : ∀ o, o ∈ offs ↔ lo ≤ o ∧ o ≤ hi ∧ o % 4 = 0) (s : Dev) :
    s.cleared ((clearTallies rb d i offs).run s) (blockBase rb d i) lo hi := by
  refine ⟨fun o h1 h2 h3 => ?_, fun A hA => ?_, sameBut_clearTallies rb d i offs s⟩
  · rw [← regAddr, regAt_clearTallies, if_pos (List.mem_map_of_mem ((ho o).mpr ⟨h1, h2, h3⟩))]
  · rw [regAt_clearTallies, if_neg]
    rintro hm
    obtain ⟨o, hoff, rfl⟩ := List.mem_map.mp hm
    obtain ⟨h1, h2, h3⟩ := (ho o).mp hoff
    exact hA o h1 h2 h3 rfl

/-- A tally clear of a block clears it while its domain is on, and does nothing while it is off. -/
theorem clears_of_guarded {c : Instr} {s : State} {g on : Bool} {rb : RB} {d i base lo hi : Nat} {offs : List Nat}
    (hc : ∀ P : Dev → Prop, P ((only g (clearTallies rb d i offs)).run s.m) → completes c s P) (hg : g = on) (hb : blockBase rb d i = base)
    (ho : ∀ o, o ∈ offs ↔ lo ≤ o ∧ o ≤ hi ∧ o % 4 = 0) :
    (on = true → completes c s fun t => s.m.cleared t base lo hi) ∧ (on = false → completes c s fun t => t = s.m) := by
  subst hg
  refine ⟨fun h => hc _ ?_, fun h => hc _ ?_⟩
  · subst hb h; exact cleared_clearTallies ho s.m
  · subst h; rfl

/-- A register command runs a guarded clear. -/
theorem completes_of_guarded {c : Instr} {s : State} {on : Dev → Bool} {rb : RB} {d i : Nat} {offs : List Nat}
    (he : exec c s = s.perform (look fun s => only (on s) (clearTallies rb d i offs))) (P : Dev → Prop)
    (hP : P ((only (on s.m) (clearTallies rb d i offs)).run s.m)) : completes c s P := completes_of he hP

/-- The same for a command after which frames may arrive: none does. -/
theorem completes_of_guarded_posting {c : Instr} {s : State} {on : Dev → Bool} {rb : RB} {d i : Nat} {offs : List Nat}
    (he : exec c s = s.performPosting (look fun s => only (on s) (clearTallies rb d i offs))) (P : Dev → Prop)
    (hP : P ((only (on s.m) (clearTallies rb d i offs)).run s.m)) : completes c s P := by
  refine completes_of_posting he ?_ hP
  rw [run_look]
  cases on s.m
  · rfl
  · exact (sameBut_clearTallies rb d i offs s.m).unitWrites (by decide)

theorem exec_tcTallyClear (k : Fin 2688) (s : State) : exec (.tcTallyClear k) s
    = s.performPosting (onCluster k.val (clearProg .tc (k.val / 168) (k.val % 168) R.TC_WAIT_PREEMPT R.TC_PARITY_RETRIES)) := rfl
theorem exec_tcQtallyClear (k : Fin 2688) (s : State) : exec (.tcQtallyClear k) s
    = s.performPosting (onCluster k.val (clearProg .tc (k.val / 168) (k.val % 168) R.TC_SAT_ELEMS R.TC_OUTLIER_TERMS)) := rfl
theorem exec_tcSwClear (k : Fin 2688) (s : State) : exec (.tcSwClear k) s
    = s.performPosting (onCluster k.val (clearProg .tc (k.val / 168) (k.val % 168) R.TC_TAP_SKIP R.TC_CROP_INVALID)) := rfl
theorem exec_tcIssueClear (k : Fin 2688) (s : State) : exec (.tcIssueClear k) s
    = s.performPosting (onCluster k.val (clearProg .tc (k.val / 168) (k.val % 168) 0x644 0x648)) := rfl
theorem exec_sfTallyClear (k : Fin 2688) (s : State) : exec (.sfTallyClear k) s
    = s.performPosting (onCluster k.val (clearProg .sf (k.val / 168) (k.val % 168) R.SF_SEAM_CLAMP R.SF_LOAD_WAIT)) := rfl
theorem exec_sfWaitClear (k : Fin 2688) (s : State) : exec (.sfWaitClear k) s
    = s.performPosting (onCluster k.val (clearProg .sf (k.val / 168) (k.val % 168) R.SF_WAIT_PREEMPT R.SF_WAIT_LOCK_SPACE)) := rfl
theorem exec_ccTallyClear (k : Fin 2688) (s : State) : exec (.ccTallyClear k) s
    = s.performPosting (onCluster k.val (clearProg .cc (k.val / 168) (k.val % 168) R.CC_SYMS_ENC R.CC_LOAD_WAIT)) := rfl
theorem exec_ccWaitClear (k : Fin 2688) (s : State) : exec (.ccWaitClear k) s
    = s.performPosting (onCluster k.val (clearProg .cc (k.val / 168) (k.val % 168) R.CC_WAIT_PREEMPT R.CC_WAIT_LOCK_SPACE)) := rfl
theorem exec_beTallyClear (d : Fin 16) (p : Fin 168) (s : State) : exec (.beTallyClear d p) s = s.perform (beTallyClearProg d.val p.val) := rfl
theorem exec_csTallyClear (d : Fin 16) (p : Fin 168) (s : State) : exec (.csTallyClear d p) s = s.perform (csTallyClearProg d.val p.val) := rfl
theorem exec_thTallyClear (k : Fin 2688) (core : Fin 112) (s : State) : exec (.thTallyClear k core) s
    = s.perform (onCluster k.val (thTallyClearProg k.val core.val)) := rfl
theorem exec_stkTallyClear (n : Fin 32) (s : State) : exec (.stkTallyClear n) s = s.perform (stkTallyClearProg n.val) := rfl
theorem exec_dmmuTallyClear (d : Fin 16) (s : State) : exec (.dmmuTallyClear d) s = s.perform (dmmuTallyClearProg d.val) := rfl
theorem exec_bvTallyClear (d : Fin 16) (v : Fin 8) (s : State) : exec (.bvTallyClear d v) s = s.performPosting (bvTallyClearProg d.val v.val) := rfl
theorem exec_slTallyClear (d : Fin 16) (e : Fin 2) (s : State) : exec (.slTallyClear d e) s = s.performPosting (slTallyClearProg d.val e.val) := rfl
theorem exec_lnkTallyClear (l : Fin 24) (s : State) : exec (.lnkTallyClear l) s = s.performPosting (lnkTallyClearProg l.val) := rfl
theorem exec_drvTallyClear (d : Fin 16) (s : State) : exec (.drvTallyClear d) s = s.perform (drvTallyClearProg d.val) := rfl
theorem exec_weirTallyClear (s : State) : exec .weirTallyClear s = s.perform weirTallyClearProg := rfl

/-- Settles O23: each command is a clear of its block's counters under its domain's guard, and the blocks lie where the device map says. -/
theorem tallyClears : Obligations.TallyClears := by
  intro s k core d p n v e l
  have hon (d p : Nat) : s.m.clusterOn d p = ((s.m.dom (1000 + 168 * d + p)).st == .on) := by
    rw [Dev.clusterOn, ck, Nat.mul_comm d, Nat.add_assoc]
  have hoff {lo hi : Nat} (h : lo ≤ hi) (hlo : lo % 4 = 0) (hhi : hi % 4 = 0) (o : Nat) := mem_offsets (o := o) h hlo hhi
  refine ⟨clears_of_guarded (completes_of_guarded_posting (exec_tcTallyClear k s)) (hon ..) rfl (hoff (by decide) rfl rfl),
    clears_of_guarded (completes_of_guarded_posting (exec_tcQtallyClear k s)) (hon ..) rfl (hoff (by decide) rfl rfl),
    clears_of_guarded (completes_of_guarded_posting (exec_tcSwClear k s)) (hon ..) rfl (hoff (by decide) rfl rfl),
    clears_of_guarded (completes_of_guarded_posting (exec_tcIssueClear k s)) (hon ..) rfl (hoff (by decide) rfl rfl),
    clears_of_guarded (completes_of_guarded_posting (exec_sfTallyClear k s)) (hon ..) rfl (hoff (by decide) rfl rfl),
    clears_of_guarded (completes_of_guarded_posting (exec_sfWaitClear k s)) (hon ..) rfl (hoff (by decide) rfl rfl),
    clears_of_guarded (completes_of_guarded_posting (exec_ccTallyClear k s)) (hon ..) rfl (hoff (by decide) rfl rfl),
    clears_of_guarded (completes_of_guarded_posting (exec_ccWaitClear k s)) (hon ..) rfl (hoff (by decide) rfl rfl),
    clears_of_guarded (completes_of_guarded (exec_beTallyClear d p s)) (hon ..) rfl (hoff (by decide) rfl rfl),
    clears_of_guarded (completes_of_guarded (exec_csTallyClear d p s)) (hon ..) rfl (fun o => ?_),
    clears_of_guarded (completes_of_guarded (exec_thTallyClear k core s)) (hon ..) ?_ (hoff (by decide) rfl rfl),
    clears_of_guarded (completes_of_guarded (exec_stkTallyClear n s)) rfl rfl (hoff (by decide) rfl rfl),
    clears_of_guarded (completes_of_guarded (exec_dmmuTallyClear d s)) rfl rfl (hoff (by decide) rfl rfl),
    clears_of_guarded (completes_of_guarded_posting (exec_bvTallyClear d v s)) rfl rfl (hoff (by decide) rfl rfl),
    clears_of_guarded (completes_of_guarded_posting (exec_slTallyClear d e s)) rfl rfl (hoff (by decide) rfl rfl),
    clears_of_guarded (completes_of_guarded_posting (exec_lnkTallyClear l s)) rfl rfl (hoff (by decide) rfl rfl),
    clears_of_guarded (completes_of_guarded (exec_drvTallyClear d s)) rfl rfl (hoff (by decide) rfl rfl),
    clears_of_guarded (g := true) (fun P hP => completes_of (exec_weirTallyClear s) hP) rfl rfl fun o => ?_⟩
  · simp only [List.mem_cons, List.not_mem_nil, or_false, R.CS_ECC_CE, R.CS_ECC_UE]; omega
  · have h1 : (k.val % 168 * 112 + core.val) / 112 = k.val % 168 := by omega
    have h2 : (k.val % 168 * 112 + core.val) % 112 = core.val := by omega
    simp only [blockBase, clRegBase, regBase, h1, h2, Nat.mul_comm 0x100]
  · simp only [List.mem_cons, List.not_mem_nil, or_false, R.WEIR_GRANTS, R.WEIR_HELD_SLOTS]; omega

end Sys2Proof.Machine
end

section
/-! SUPPORT. What ends a command's work (R474, R475): it leaves every flock alone but those of the command, which become idle, and makes no translation one to be used once only. -/

namespace Sys2Proof.Machine

/-! ### What keeps the cores of the clusters -/

/-- The cores of every cluster stand, and where nothing is to be used once only, nothing becomes so. -/
structure Dev.coresKept (s t : Dev) : Prop where
  cores : ∀ k, (t.cl k).cores = (s.cl k).cores
  once : ∀ d, (s.die d).once = [] → (t.die d).once = []

theorem coresKept_refl (s : Dev) : s.coresKept s := ⟨fun _ => rfl, fun _ h => h⟩

theorem Dev.coresKept.trans {s t u : Dev} (h : s.coresKept t) (g : t.coresKept u) : s.coresKept u :=
  ⟨fun k => (g.cores k).trans (h.cores k), fun d hd => g.once d (h.once d hd)⟩

theorem Dev.coresKept.flock {s t : Dev} (h : s.coresKept t) (k core f : Nat) : t.flock k core f = s.flock k core f := by
  simp only [Dev.flock, Cluster.core, h.cores]

/-- A program that keeps the cores, on whatever device it runs. -/
structure Prog.KeepsCores (p : Prog) : Prop where
  kept : ∀ s : Dev, s.coresKept (p.run s)

theorem keepsCores_skip : Prog.skip.KeepsCores := ⟨coresKept_refl⟩

theorem keepsCores_look {f : Dev → Prog} (h : ∀ s, (f s).KeepsCores) : (look f).KeepsCores := ⟨fun s => (h s).kept s⟩

theorem keepsCores_seq {p q : Prog} (hp : p.KeepsCores) (hq : q.KeepsCores) : (Prog.seq p q).KeepsCores :=
  ⟨fun s => (hp.kept s).trans (hq.kept _)⟩

theorem keepsCores_progs {l : List Prog} (h : ∀ p ∈ l, p.KeepsCores) : (progs l).KeepsCores := by
  induction l with
  | nil => exact keepsCores_skip
  | cons p r ih =>
    obtain ⟨hp, hr⟩ := List.forall_mem_cons.mp h
    exact keepsCores_seq hp (ih hr)

theorem keepsCores_only (c : Bool) {p : Prog} (h : p.KeepsCores) : (only c p).KeepsCores := by
  cases c
  · exact keepsCores_skip
  · exact h

theorem keepsCores_ite (c : Prop) [Decidable c] {p q : Prog} (hp : p.KeepsCores) (hq : q.KeepsCores) : (if c then p else q).KeepsCores := by
  split
  · exact hp
  · exact hq

theorem keepsCores_forAll {α : Type} {l : List α} {f : α → Prog} (h : ∀ a, (f a).KeepsCores) : (forAll l f).KeepsCores :=
  keepsCores_progs fun p hp => by
    obtain ⟨a, -, rfl⟩ := List.mem_map.mp hp
    exact h a

/-- What touches neither clusters nor dies keeps the cores. -/
theorem keepsCores_of_within {p : Prog} {l : List Part} (h : p.Within fun u => u.parts ⊆ l) (hc : Part.clusters ∉ l) (hd : Part.dies ∉ l) :
    p.KeepsCores := by
  refine ⟨fun s => ?_⟩
  have hs : s.sameBut (p.run s) l := h.sameBut s
  exact ⟨fun k => by rw [hs.cl hc], fun d ho => by rw [hs.die hd]; exact ho⟩

theorem keepsCores_onCl (k : Nat) {f : Cluster → Cluster} (h : ∀ c, (f c).cores = c.cores) : (onCl k f).KeepsCores := by
  refine ⟨fun s => ⟨fun j => ?_, fun _ ho => ho⟩⟩
  simp only [onCl, run_look, run_upd, cl_apply]
  split
  next hj => rw [h, hj]
  next => rfl

theorem keepsCores_onDie (d : Nat) {f : DieMem → DieMem} (h : ∀ m, m.once = [] → (f m).once = []) : (onDie d f).KeepsCores := by
  refine ⟨fun s => ⟨fun _ => rfl, fun j ho => ?_⟩⟩
  simp only [onDie, run_look, run_upd, die_apply]
  split
  next hj => exact h _ (hj ▸ ho)
  next => exact ho

theorem keepsCores_onDrv (d : Nat) (f : Drover → Drover) : (onDrv d f).KeepsCores :=
  keepsCores_of_within (l := [.drovers]) (by simp [onDrv, Upd.parts]) (by decide) (by decide)

theorem keepsCores_tally (rb : RB) (d i off n : Nat) : (tally rb d i off n).KeepsCores :=
  keepsCores_of_within (l := [.regs]) (within_tally n fun _ => List.Subset.refl _) (by decide) (by decide)

/-! ### Locks, walks and fault records -/

theorem keepsCores_onLock (l : LockId) (f : Lock → Lock) : (onLock l f).KeepsCores := by
  refine keepsCores_look fun s => ?_
  split
  · exact keepsCores_onDie _ fun _ h => h
  · exact keepsCores_onCl _ fun _ => rfl

theorem keepsCores_onBlk (l : LockId) (seq : Nat) (f : LockBlk → LockBlk) : (onBlk l seq f).KeepsCores := keepsCores_onLock ..

theorem keepsCores_freeDone (l : LockId) : (freeDone l).KeepsCores := keepsCores_look fun _ => keepsCores_only _ (keepsCores_onLock ..)

theorem keepsCores_drainSlots (l : LockId) : (drainSlots l).KeepsCores :=
  keepsCores_look fun _ => keepsCores_only _ (keepsCores_seq (keepsCores_onLock ..) (keepsCores_seq (keepsCores_freeDone l) keepsCores_skip))

theorem keepsCores_raiseTriggers (l : LockId) : (raiseTriggers l).KeepsCores := by
  refine keepsCores_look fun _ => keepsCores_forAll fun q => keepsCores_look fun _ => ?_
  dsimp only
  split
  · exact keepsCores_onDrv ..
  · exact keepsCores_tally ..

theorem keepsCores_commitBlk (l : LockId) (seq : Nat) : (commitBlk l seq).KeepsCores := by
  refine keepsCores_look fun s => ?_
  split
  · exact keepsCores_skip
  · exact keepsCores_ite _ (keepsCores_onBlk ..) (keepsCores_seq (keepsCores_onBlk ..)
      (keepsCores_seq (keepsCores_drainSlots l) (keepsCores_seq (keepsCores_raiseTriggers l) keepsCores_skip)))

theorem keepsCores_releaseBlk (l : LockId) (seq slot : Nat) : (releaseBlk l seq slot).KeepsCores :=
  keepsCores_seq (keepsCores_onBlk ..) (keepsCores_seq (keepsCores_freeDone l) keepsCores_skip)

theorem keepsCores_unTake (l : LockId) (seq slot : Nat) : (unTake l seq slot).KeepsCores :=
  keepsCores_look fun _ => keepsCores_ite _ (keepsCores_releaseBlk ..) (keepsCores_onBlk ..)

theorem keepsCores_unwaitAll (who : Waiter) (cl : Nat) : (unwaitAll who cl).KeepsCores :=
  keepsCores_look fun _ => keepsCores_forAll fun l => keepsCores_onLock l _

theorem keepsCores_withdraw (d : Nat) (f : FaultRec → Bool) : (withdraw d f).KeepsCores := keepsCores_onDie _ fun _ h => h

theorem keepsCores_dropWalks (d : Nat) (f : UnitRef → Bool) : (dropWalks d f).KeepsCores := keepsCores_onDie _ fun m h => by simp [h]

/-! ### Instructions and barges -/

theorem keepsCores_completeTag (k uid : Nat) (record : List Byte) : (completeTag k uid record).KeepsCores :=
  keepsCores_look fun _ => keepsCores_seq (keepsCores_onCl _ fun _ => rfl) (keepsCores_seq (keepsCores_only _ (keepsCores_onDrv ..)) keepsCores_skip)

theorem keepsCores_users (k : Nat) (cap : Capture) (up : Bool) : (users k cap up).KeepsCores := by
  unfold users
  exact keepsCores_onCl _ fun c => by dsimp only; split <;> rfl

theorem keepsCores_dropHeld (k : Nat) (e : Entry) : (dropHeld k e).KeepsCores := by
  refine keepsCores_progs fun p hp => ?_
  simp only [List.mem_cons, List.not_mem_nil, or_false] at hp
  obtain rfl | rfl | rfl | rfl | rfl | rfl | rfl := hp
  · exact keepsCores_forAll fun h => keepsCores_seq (keepsCores_onBlk ..) (keepsCores_seq (keepsCores_freeDone _) keepsCores_skip)
  · exact keepsCores_only _ (keepsCores_onCl _ fun _ => rfl)
  · exact keepsCores_forAll fun c => keepsCores_users ..
  · exact keepsCores_withdraw ..
  · exact keepsCores_dropWalks ..
  · exact keepsCores_unwaitAll ..
  · exact keepsCores_onCl _ fun _ => rfl

theorem keepsCores_dropLoad (k : Nat) (e : Entry) : (dropLoad k e).KeepsCores :=
  keepsCores_look fun _ => keepsCores_ite _ (keepsCores_only _ (keepsCores_onCl _ fun _ => rfl))
    (keepsCores_ite _ (keepsCores_only _ (keepsCores_onCl _ fun _ => rfl)) keepsCores_skip)

theorem keepsCores_endEntry (k uid status cause und : Nat) (flag : Bool) : (endEntry k uid status cause und flag).KeepsCores := by
  refine keepsCores_look fun s => ?_
  split
  · exact keepsCores_skip
  next e _ =>
    refine keepsCores_seq (keepsCores_only _ (keepsCores_of_within (within_undefOuts k e) (by decide) (by decide))) (keepsCores_seq
      (keepsCores_only _ (keepsCores_dropLoad k e)) (keepsCores_seq (keepsCores_dropHeld k e) (keepsCores_seq (keepsCores_onCl _ fun _ => rfl)
      (keepsCores_seq (keepsCores_look fun _ => keepsCores_completeTag ..) keepsCores_skip))))

theorem keepsCores_withBarge (k uid : Nat) {f : Barge → Prog} (h : ∀ b, (f b).KeepsCores) : (withBarge k uid f).KeepsCores := by
  refine keepsCores_look fun s => ?_
  split
  · exact h _
  · exact keepsCores_skip

theorem keepsCores_onBarge (k uid : Nat) (f : Barge → Barge) : (onBarge k uid f).KeepsCores := keepsCores_onCl _ fun _ => rfl

theorem keepsCores_finishBarge (k uid status : Nat) : (finishBarge k uid status).KeepsCores := by
  refine keepsCores_withBarge k uid fun b => keepsCores_progs fun p hp => ?_
  simp only [List.mem_cons, List.not_mem_nil, or_false] at hp
  obtain rfl | rfl | rfl | rfl | rfl | rfl | rfl := hp
  · exact keepsCores_look fun _ => keepsCores_completeTag ..
  · split
    · exact keepsCores_ite _ (keepsCores_only _ (keepsCores_commitBlk ..))
        (keepsCores_seq (keepsCores_onLock ..) (keepsCores_seq (keepsCores_onBlk ..) keepsCores_skip))
    · exact keepsCores_skip
  · split
    · exact keepsCores_look fun _ => keepsCores_ite _ (keepsCores_releaseBlk ..)
        (keepsCores_ite _ (keepsCores_only _ (keepsCores_releaseBlk ..)) (keepsCores_unTake ..))
    · exact keepsCores_skip
  · exact keepsCores_withdraw ..
  · exact keepsCores_dropWalks ..
  · exact keepsCores_unwaitAll ..
  · exact keepsCores_onCl _ fun _ => rfl

theorem keepsCores_cancelBarge (k uid status : Nat) : (cancelBarge k uid status).KeepsCores :=
  keepsCores_withBarge k uid fun _ => keepsCores_seq (keepsCores_withdraw ..) (keepsCores_seq (keepsCores_dropWalks ..)
    (keepsCores_seq (keepsCores_onBarge ..) (keepsCores_seq (keepsCores_ite _ (keepsCores_finishBarge ..) (keepsCores_onBarge ..)) keepsCores_skip)))

/-! ### Commands -/

theorem keepsCores_onCmd (cmd : Nat) (f : Command → Command) : (onCmd cmd f).KeepsCores := keepsCores_ite _ keepsCores_skip (keepsCores_onDrv ..)

theorem keepsCores_unsave (cmd : Nat) : (unsave cmd).KeepsCores := by
  refine keepsCores_look fun s => ?_
  split
  · exact keepsCores_skip
  · exact keepsCores_seq (keepsCores_forAll fun _ => keepsCores_onCl _ fun _ => rfl) (keepsCores_seq (keepsCores_onCmd ..) keepsCores_skip)

theorem keepsCores_cancelTags (cmd : Nat) (keep : List (Nat × Nat)) : (cancelTags cmd keep).KeepsCores :=
  keepsCores_seq (keepsCores_unsave cmd) (keepsCores_seq (keepsCores_look fun _ => keepsCores_forAll fun _ => keepsCores_look fun _ =>
    keepsCores_seq (keepsCores_forAll fun _ => keepsCores_endEntry ..)
      (keepsCores_seq (keepsCores_forAll fun _ => keepsCores_cancelBarge ..) keepsCores_skip)) keepsCores_skip)

theorem keepsCores_endKeeps (cmd : Nat) : (endKeeps cmd).KeepsCores :=
  keepsCores_look fun _ => keepsCores_forAll fun l => keepsCores_seq (keepsCores_onLock ..) (keepsCores_seq (keepsCores_freeDone l) keepsCores_skip)

theorem keepsCores_dropFlockWaits (k core f : Nat) : (dropFlockWaits k core f).KeepsCores :=
  keepsCores_seq (keepsCores_look fun _ => keepsCores_only _ (keepsCores_onCl _ fun _ => rfl)) (keepsCores_seq
    (keepsCores_forAll fun _ => keepsCores_unwaitAll ..) (keepsCores_seq (keepsCores_withdraw ..) (keepsCores_seq (keepsCores_dropWalks ..) keepsCores_skip)))

/-! ### Flocks that stand still -/

/-- A flock that does not run still does not, and where nothing is to be used once only, nothing becomes so. -/
structure Dev.still (s t : Dev) : Prop where
  flock : ∀ k core f, (s.flock k core f).st ≠ .run → (t.flock k core f).st ≠ .run
  once : ∀ d, (s.die d).once = [] → (t.die d).once = []

theorem still_refl (s : Dev) : s.still s := ⟨fun _ _ _ h => h, fun _ h => h⟩

theorem Dev.still.trans {s t u : Dev} (h : s.still t) (g : t.still u) : s.still u :=
  ⟨fun k core f hf => g.flock k core f (h.flock k core f hf), fun d hd => g.once d (h.once d hd)⟩

theorem Dev.coresKept.still {s t : Dev} (h : s.coresKept t) : s.still t := ⟨fun k core f hf => by rw [h.flock]; exact hf, h.once⟩

/-- What one flock becomes when one flock of its core changes. -/
theorem flock_onFlock_cases (s : Dev) (k core f : Nat) (g : Flock → Flock) (j n m : Nat) :
    ((onFlock k core f g).run s).flock j n m = g (s.flock k core f) ∨ ((onFlock k core f g).run s).flock j n m = s.flock j n m := by
  simp only [Dev.flock, onFlock]
  rw [core_onCore]
  split
  next h =>
    obtain ⟨rfl, rfl⟩ := h
    simp only [ThCore.setFlock, ThCore.flock]
    split_ifs <;> simp
  next => exact .inr rfl

theorem still_onFlock_idle (k core f : Nat) (s : Dev) : s.still ((onFlock k core f fun _ => Flock.idle).run s) :=
  ⟨fun j n m h => by
    rcases flock_onFlock_cases s k core f (fun _ => Flock.idle) j n m with he | he
    · rw [he]; decide
    · rw [he]; exact h, fun _ h => h⟩

theorem still_killFlocks (cmd : Nat) (s : Dev) : s.still ((killFlocks cmd).run s) := by
  rw [killFlocks, run_look]
  refine run_forAll_keeps (P := fun t => s.still t) (fun k _ t ht => ?_) (still_refl s)
  rw [run_look]
  refine run_forAll_keeps (P := fun u => s.still u) (fun x _ u hu => ?_) ht
  exact (hu.trans ((keepsCores_dropFlockWaits k x.1 x.2).kept u).still).trans (still_onFlock_idle ..)

/-- A kill stops flocks, and starts none. -/
theorem still_killCommand (cmd status : Nat) (s : Dev) : s.still ((killCommand cmd status).run s) := by
  have hrest : (progs [cancelTags cmd [], endKeeps cmd, onCmd cmd fun c => { c with
      status := statusJoin c.status status, killed := c.killed || true, failed := true, preemptReq := .none, resumeReq := false }]).KeepsCores :=
    keepsCores_seq (keepsCores_cancelTags ..) (keepsCores_seq (keepsCores_endKeeps cmd) (keepsCores_seq (keepsCores_onCmd ..) keepsCores_skip))
  exact (still_killFlocks cmd s).trans (hrest.kept _).still

end Sys2Proof.Machine
end

section
/-! SUPPORT. Exceptions that kill (R265, R272, R475): the record, the faulted flock, and the step of a word that R242 or R243 makes illegal. -/

namespace Sys2Proof.Machine

/-! ### The counters of a thread core -/

theorem counterOf_eq_iff {a : ThOp} {x y : Nat} : counterOf a x = counterOf a y ↔ x = y := ⟨counterOf_inj, fun h => h ▸ rfl⟩

theorem core_lt (a : ThOp) : a.core < 112 := a.at_.core.isLt

theorem die_lt (a : ThOp) : a.k / 168 < 16 := by
  have hd := a.at_.die.isLt
  have hc := a.at_.cluster.isLt
  simp only [ThOp.k, FlockAt.k, ck]
  omega

theorem f_lt (a : ThOp) : a.f < 2 := a.at_.flock.isLt

/-- The counters of a thread core are not the two registers that the event log counts in. -/
theorem counterOf_ne_lost (a : ThOp) {off : Nat} (h : off < 0x100) : counterOf a off ≠ regAddr .rcv 20 0 R.LOG_LOST := by
  have hd := die_lt a
  have hc := core_lt a
  simp only [counterOf, regAddr, blockBase, clRegBase, regBase, aocBase, R.LOG_LOST]
  omega

theorem counterOf_ne_eventDrop (a : ThOp) {off : Nat} (h : off < 0x100) : counterOf a off ≠ regAddr .ld0 16 0 R.BENTIN_EVENT_DROP := by
  have hd := die_lt a
  have hc := core_lt a
  simp only [counterOf, regAddr, blockBase, clRegBase, regBase, R.BENTIN_EVENT_DROP]
  omega

/-- An entry to the event log leaves the counters of a thread core. -/
theorem counter_logE (a : ThOp) {off : Nat} (h : off < 0x100) (e : LogEntry) (s : Dev) :
    ((logE e).run s).regAt (counterOf a off) = s.regAt (counterOf a off) :=
  regAt_logE e s (counterOf_ne_lost a h) (counterOf_ne_eventDrop a h)

/-! ### The record of an exception (R272) -/

/-- The parts a record may change. -/
theorem sameBut_thRecord (k core f cause va thread : Nat) (fetch : Bool) (s : Dev) :
    s.sameBut ((thRecord k core f cause va thread fetch).run s) logParts := by
  rw [thRecord, run_look]
  refine sameBut_trans (sameBut_logE _ s) (Prog.Within.sameBut ?_ _)
  split <;> simp [setFld, holdRecord, within_setReg, Upd.parts, logParts, eventParts]

theorem setBits_overflow (s : Dev) (A : Nat) : setBits (s.regAt A) 30 30 1 % 2 ^ 32 = s.regAt A ||| 2 ^ 30 := by
  rw [setBits_mod _ _ _ _ _ (by decide)]
  refine Nat.eq_of_testBit_eq fun j => ?_
  rw [← bitAt_eq_testBit, bitAt_setBits, Nat.testBit_or, Nat.testBit_two_pow]
  by_cases h : j = 30
  · subst h; simp [bitAt]
  · rw [if_neg (by omega), bitAt_eq_testBit]; simp [Ne.symm h]

theorem top_bit_eq_one {v : Nat} (h : v < 2 ^ 32) : bits v 31 31 = 1 ↔ v / 2 ^ 31 = 1 := by
  unfold bits; omega

theorem thStatus_lt (cause : Nat) : thStatus cause < 2 ^ 8 := by
  unfold thStatus; split_ifs <;> decide

/-- Setting a counter register of a thread core. -/
theorem counter_setReg (a : ThOp) (off o v : Nat) (u : Dev) : ((setReg .th (a.k / 168) (a.k % 168 * 112 + a.core) o v).run u).regAt (counterOf a off)
    = if off = o then v % 2 ^ 32 else u.regAt (counterOf a off) := by
  rw [reg_setReg, show regAddr .th (a.k / 168) (a.k % 168 * 112 + a.core) o = counterOf a o from rfl]
  simp only [counterOf_eq_iff]

theorem counter_holdRecord (a : ThOp) (off o v : Nat) (u : Dev) :
    ((holdRecord .th (a.k / 168) (a.k % 168 * 112 + a.core) o v).run u).regAt (counterOf a off)
      = if off = o then (v + bits (u.regAt (counterOf a o)) 30 30 * 2 ^ 30) % 2 ^ 32 else u.regAt (counterOf a off) := by
  rw [holdRecord, run_look, counter_setReg]; rfl

/-- The writes of a record that the fault registers take (R272). -/
def holdFault (a : ThOp) (status pc va mask : Nat) : Prog := progs [
  holdRecord .th (a.k / 168) (a.k % 168 * 112 + a.core) R.TH_FAULT_STATUS status,
  setReg .th (a.k / 168) (a.k % 168 * 112 + a.core) R.TH_FAULT_PC_LO (pc % 2 ^ 32),
  setReg .th (a.k / 168) (a.k % 168 * 112 + a.core) R.TH_FAULT_PC_HI (pc / 2 ^ 32 % 2 ^ 16),
  setReg .th (a.k / 168) (a.k % 168 * 112 + a.core) R.TH_FAULT_VADDR_LO (va % 2 ^ 32),
  setReg .th (a.k / 168) (a.k % 168 * 112 + a.core) R.TH_FAULT_VADDR_HI (va / 2 ^ 32 % 2 ^ 16),
  setReg .th (a.k / 168) (a.k % 168 * 112 + a.core) R.TH_FAULT_MASK mask]

theorem counter_holdFault (a : ThOp) (status pc va mask off : Nat) (u : Dev) : ((holdFault a status pc va mask).run u).regAt (counterOf a off)
    = if off = R.TH_FAULT_MASK then mask % 2 ^ 32 else if off = R.TH_FAULT_VADDR_HI then va / 2 ^ 32 % 2 ^ 16 % 2 ^ 32
      else if off = R.TH_FAULT_VADDR_LO then va % 2 ^ 32 % 2 ^ 32 else if off = R.TH_FAULT_PC_HI then pc / 2 ^ 32 % 2 ^ 16 % 2 ^ 32
      else if off = R.TH_FAULT_PC_LO then pc % 2 ^ 32 % 2 ^ 32
      else if off = R.TH_FAULT_STATUS then (status + bits (u.regAt (counterOf a R.TH_FAULT_STATUS)) 30 30 * 2 ^ 30) % 2 ^ 32
      else u.regAt (counterOf a off) := by
  rw [holdFault, run_progs_cons, run_progs_cons, run_progs_cons, run_progs_cons, run_progs_cons, run_progs_cons, run_progs_nil, counter_setReg,
    counter_setReg, counter_setReg, counter_setReg, counter_setReg, counter_holdRecord]

/-- The fault registers of the core hold the record, or its OVERFLOW is set. -/
theorem recorded_thRecord {s t : Dev} {a : ThOp} {cause va thread : Nat} {fetch : Bool} (hf : t.flockOf a = s.flockOf a)
    (hr : ∀ off, off < 0x20 → t.regAt (counterOf a off) = s.regAt (counterOf a off)) (hc : cause < 2 ^ 8) :
    s.recorded ((thRecord a.k a.core a.f cause va thread fetch).run t) a cause (thStatus cause) va thread fetch := by
  have hlog (e : LogEntry) : ((logE e).run t).regAt (counterOf a R.TH_FAULT_STATUS) = s.regAt (counterOf a R.TH_FAULT_STATUS) :=
    (counter_logE a (by decide) e t).trans (hr _ (by decide))
  have hst : t.fld .th (a.k / 168) (a.k % 168 * 112 + a.core) R.TH_FAULT_STATUS 31 31 = bits (s.regAt (counterOf a R.TH_FAULT_STATUS)) 31 31 :=
    congrArg (bits · 31 31) (hr R.TH_FAULT_STATUS (by decide))
  have hflock : t.flock a.k a.core a.f = s.flockOf a := hf
  have hbit := top_bit_eq_one (regAt_lt s (counterOf a R.TH_FAULT_STATUS))
  rw [thRecord, run_look]
  dsimp only
  rw [hst, hflock, run_progs_cons, run_progs_cons, run_progs_nil]
  generalize t.clusterEntry 3 1 (thStatus cause) cause _ _ _ _ _ _ = e
  unfold Dev.recorded
  by_cases h : s.regAt (counterOf a R.TH_FAULT_STATUS) / 2 ^ 31 = 1
  · rw [if_pos h, if_pos (hbit.mpr h), setFld, run_look, counter_setReg, if_pos rfl, ← hlog e]
    exact setBits_overflow ..
  · have hs := thStatus_lt cause
    have hff := f_lt a
    have hb : b2n fetch ≤ 1 := by cases fetch <;> decide
    have ho : bits (s.regAt (counterOf a R.TH_FAULT_STATUS)) 30 30 ≤ 1 := by rw [bits_one]; cases bitAt _ 30 <;> decide
    rw [if_neg h, if_neg (fun e => h (hbit.mp e))]
    have hcounter (off : Nat) := counter_holdFault a (2 ^ 31 + a.f * 2 ^ 24 + thStatus cause * 2 ^ 16 + b2n fetch * 2 ^ 8 + cause) (s.flockOf a).pc va
      ((s.flockOf a).done * 2 ^ 8 + 2 ^ thread % 256) off ((logE e).run t)
    rw [hlog] at hcounter
    refine ⟨(hcounter _).trans ?_, (hcounter _).trans ?_, (hcounter _).trans ?_, (hcounter _).trans ?_, (hcounter _).trans ?_, (hcounter _).trans ?_⟩
    · rw [if_neg (by decide), if_neg (by decide), if_neg (by decide), if_neg (by decide), if_neg (by decide), if_pos rfl]; omega
    · rw [if_neg (by decide), if_neg (by decide), if_neg (by decide), if_neg (by decide), if_pos rfl, Nat.mod_mod]
    · rw [if_neg (by decide), if_neg (by decide), if_neg (by decide), if_pos rfl]; omega
    · rw [if_neg (by decide), if_neg (by decide), if_pos rfl, Nat.mod_mod]
    · rw [if_neg (by decide), if_pos rfl]; omega
    · rw [if_pos rfl]

/-- An exception that kills: the record, the faulted flock, then the kill of its command. -/
theorem thDie_run (a : ThOp) {cause : Nat} (va thread : Nat) (fetch : Bool) (data : Nat) (hc : cause ≠ 0x20) (s : Dev) :
    (thDie a.k a.core a.f cause va thread fetch data).run s = (killCommand (s.flockOf a).cmd (thStatus cause)).run
      ((onFlock a.k a.core a.f fun x => { x with st := .faulted }).run ((thRecord a.k a.core a.f cause va thread fetch).run s)) := by
  rw [thDie, run_look]
  dsimp only
  rw [decide_eq_false hc]
  rfl

theorem raised_thDie {s t : Dev} {a : ThOp} {cause va thread : Nat} {fetch : Bool} (data : Nat) (hf : t.flockOf a = s.flockOf a)
    (hr : ∀ off, off < 0x20 → t.regAt (counterOf a off) = s.regAt (counterOf a off)) (hc : cause < 2 ^ 8) (hc' : cause ≠ 0x20) :
    s.raised ((thDie a.k a.core a.f cause va thread fetch data).run t) a cause (thStatus cause) va thread fetch := by
  rw [thDie_run a va thread fetch data hc', hf]
  refine ⟨_, rfl, ?_, recorded_thRecord hf hr hc⟩
  rw [flockOf_onFlock, ← hf, Dev.flockOf, Dev.flock, (sameBut_thRecord ..).cl (by decide)]
  rfl

/-- After such an exception the flock does not run. -/
theorem thDie_still (a : ThOp) {cause : Nat} (va thread : Nat) (fetch : Bool) (data : Nat) (hc : cause ≠ 0x20) (s : Dev) :
    (((thDie a.k a.core a.f cause va thread fetch data).run s).flockOf a).st ≠ .run
      ∧ ∀ d, (s.die d).once = [] → (((thDie a.k a.core a.f cause va thread fetch data).run s).die d).once = [] := by
  rw [thDie_run a va thread fetch data hc]
  have hstill := still_killCommand (s.flockOf a).cmd (thStatus cause)
    ((onFlock a.k a.core a.f fun x => { x with st := .faulted }).run ((thRecord a.k a.core a.f cause va thread fetch).run s))
  refine ⟨hstill.flock _ _ _ ?_, fun d hd => hstill.once d ?_⟩
  · rw [flock_onFlock]; exact (by decide : FlockSt.faulted ≠ .run)
  · rw [die_onFlock, (sameBut_thRecord ..).die (by decide)]; exact hd

/-! ### The step of an illegal word (R242, R243) -/

/-- What an instruction does behind its fetch matters only by how it runs. -/
theorem thFetch_congr {c d : Prog} (h : ∀ s : Dev, c.run s = d.run s) (k core f op w : Nat) (s : Dev) :
    (thFetch k core f op w c).run s = (thFetch k core f op w d).run s := by
  have hword (a : Nat) (l : List Byte) (t : Dev) : (thWord k core f op w a l c).run t = (thWord k core f op w a l d).run t := by
    simp only [thWord, run_look]
    split
    · rfl
    · rw [run_only, run_only, h]
  simp only [thFetch, run_look]
  split
  · rfl
  simp only [thAccess, run_seq, useOnce, run_look]
  split
  · simp only [run_progs_cons, run_progs_nil, run_look]
    congr 1
    split
    · exact hword ..
    · simp only [run_seq]
      split
      · rfl
      · rw [run_seq, run_seq, hword]
  · rfl


/-- A step whose word is illegal runs as one of a legal word whose body raises ILLEGAL_INSTRUCTION. -/
theorem thStep_illegal_run {a : ThOp} (hup : a.upset = false) (op pipe : Nat) (body : Prog) (s : Dev) : (thStep a op pipe false body).run s
    = (thStep a op pipeOwn true (look fun s => thDie a.k a.core a.f 1 0 (s.flockOf a).first false 0)).run s := by
  simp only [thStep, run_look]
  split
  · rfl
  split
  · rfl
  split
  · simp [thPipe, hup]
  · exact thFetch_congr (fun t => by simp [thPipe, hup]) ..

/-- A flock that stands before an instruction whose body raises an exception that kills. -/
theorem raised_thStep {s : Dev} {a : ThOp} {op pipe cause va thread : Nat} {fetch : Bool} {body : Prog} (h : s.stands a)
    (hw : s.codeWord a.k a.core (s.dpaOf (a.k / 168) (a.k % 168) (s.flockOf a).pc) = op * 2 ^ 24 + a.w) (hop : opDefined op = true)
    (hb : body.run (s.touchCode a.k a.core (s.flockOf a).pc)
      = (thDie a.k a.core a.f cause va thread fetch 0).run (s.touchCode a.k a.core (s.flockOf a).pc)) (hc : cause < 2 ^ 8) (hc' : cause ≠ 0x20) :
    s.raised ((thStep a op pipe true body).run s) a cause (thStatus cause) va thread fetch := by
  have honce : (s.die (a.k / 168)).once = [] := h.2.2.2.1.2.2
  rw [thStep_stands h hw hop, hb]
  · exact raised_thDie 0 (flockOf_touchCode ..) (fun _ _ => regAt_touchCode ..) hc hc'
  · rw [hb]
    exact (thDie_still a va thread fetch 0 hc' _).2 _ (by rw [die_touchCode]; exact honce)

/-- An illegal word raises ILLEGAL_INSTRUCTION with cause 1, whatever its opcode. -/
theorem raised_illegal {s : Dev} {a : ThOp} {op pipe : Nat} {body : Prog} (h : s.stands a)
    (hw : s.codeWord a.k a.core (s.dpaOf (a.k / 168) (a.k % 168) (s.flockOf a).pc) = op * 2 ^ 24 + a.w) (hop : opDefined op = true) :
    s.raised ((thStep a op pipe false body).run s) a 1 0x70 0 (s.flockOf a).first false := by
  obtain ⟨-, -, -, -, hup, -⟩ := id h
  rw [thStep_illegal_run hup]
  exact raised_thStep h hw hop (by rw [run_look, flockOf_touchCode]) (by decide) (by decide)

/-- An instruction whose word is illegal. -/
theorem issues_illegal {c : Instr} {s : State} {a : ThOp} {op pipe : Nat} {ok : Bool} {body : Prog} (h : s.m.stands a)
    (he : exec c s = s.perform (thStep a op pipe ok body)) (ho : c.opcode = op) (hd : opDefined op = true) (hok : ok = false) :
    issues c s a fun t => s.m.raised t a 1 0x70 0 (s.m.flockOf a).first false := by
  intro hw
  subst ho hok
  exact completes_of he (raised_illegal h hw hd)

end Sys2Proof.Machine
end

section
/-! CERTIFICATE. NOP and the special registers (R239, R243). -/

namespace Sys2Proof.Machine

theorem exec_nop (a : ThOp) (s : State) : exec (.nop a) s = s.perform (nopProg a) := rfl
theorem exec_mfs (a : ThOp) (s : State) : exec (.mfs a) s
    = s.perform (thEach a 0x08 (immOk .g .no a.w && decide (bits a.w 7 0 ≤ 10)) fun x i t => t.setG (fD a.w) ((s.m.special a x i (bits a.w 7 0)).getD 0)) := rfl
theorem exec_mts (a : ThOp) (s : State) : exec (.mts a) s = s.perform (mtsProg a) := rfl

theorem k_div (a : ThOp) : a.k / 168 = a.at_.die.val := by
  have hc := a.at_.cluster.isLt
  simp only [ThOp.k, FlockAt.k, ck]; omega

theorem k_mod (a : ThOp) : a.k % 168 = a.at_.cluster.val := by
  have hc := a.at_.cluster.isLt
  simp only [ThOp.k, FlockAt.k, ck]; omega

/-- Settles O10: the values of R239 as they stood before the instruction; an index that R239 reserves makes the word illegal. -/
theorem specialRegisters : Obligations.SpecialRegisters := by
  intro s a h x idx
  refine ⟨gives_of_thRegs h (exec_nop a s) rfl (by decide) fun _ _ => rfl, fun hi hok => ?_, fun hi => ?_, fun hi hok => ?_, fun hi => ?_⟩
  · refine gives_of_thEach h (exec_mfs a s) rfl (by decide) (fun i => ?_) (by rw [hok, decide_eq_true hi]; rfl)
    show Thread.setG _ _ ((s.m.special a x i idx).getD 0) = _
    rw [setG_eq]
    refine congrArg (fun v => Thread.putX _ (fD a.w) (BitVec.ofNat 64 v)) ?_
    clear_value idx
    rw [← k_div, ← k_mod]
    interval_cases idx <;> rfl
  · exact issues_illegal h (exec_mfs a s) rfl (by decide) (by rw [decide_eq_false (Nat.not_le.mpr hi), Bool.and_false])
  · refine gives_of_thRegs h (exec_mts a s) rfl (by decide) (fun _ t => ?_) (by rw [hok, decide_eq_true hi]; rfl)
    rw [gr_eq, setWidth_eq_ofNat]
  · exact issues_illegal h (exec_mts a s) rfl (by decide) (by rw [decide_eq_false hi, Bool.and_false])

end Sys2Proof.Machine
end

section
/-! SUPPORT. Instructions behind their fetch (R240, R257): what the fetch leaves, and how a flock goes on, waits, or raises an exception (R265, R271). -/

namespace Sys2Proof.Machine

/-- A choice that the spec leaves open changes nothing but the count of them. -/
theorem withFree_run (f : Nat → Prog) (s : Dev) : (withFree f).run s = (f (Config.freeNat s.free)).run (s.apply .fresh) := rfl

theorem Dev.sameBut.drovers {s t : Dev} {l : List Part} (h : s.sameBut t l) (hp : Part.drovers ∉ l) : t.drovers = s.drovers :=
  h.field Dev.drovers .drovers (fun _ q hq => by cases q with | drovers => exact absurd rfl hq | _ => rfl) hp

theorem sameBut_apply_cl (s : Dev) (k : Nat) (c : Cluster) : s.sameBut (s.apply (.cl k c)) [.clusters] := sameBut_apply s (.cl k c)

theorem sameBut_onCl (s : Dev) (k : Nat) (f : Cluster → Cluster) : s.sameBut ((onCl k f).run s) [.clusters] := sameBut_apply_cl s k (f (s.cl k))

theorem sameBut_onCore (s : Dev) (k core : Nat) (g : ThCore → ThCore) : s.sameBut ((onCore k core g).run s) [.clusters] := sameBut_onCl ..

/-- What the fetch of an instruction leaves: the flock, the registers and everything else but the caches of code and translations. -/
structure Dev.fetched (s t : Dev) (a : ThOp) : Prop where
  same : s.sameButFlock t a
  parts : s.sameBut t [.clusters]
  flock : t.flockOf a = s.flockOf a
  regs : ∀ A, t.regAt A = s.regAt A
  tlb : (t.cl a.k).tlb = tlbTouch (s.cl a.k).tlb (s.flockOf a).pc
  once : (t.die (a.k / 168)).once = []

theorem fetched_touchCode {s : Dev} {a : ThOp} (h : s.stands a) : s.fetched (s.touchCode a.k a.core (s.flockOf a).pc) a where
  same := sameButFlock_touchCode ..
  parts := by
    simp only [Dev.touchCode]
    split
    · exact sameBut_apply_cl ..
    · exact sameBut_trans (sameBut_apply_cl ..) (sameBut_onCore ..)
  flock := flockOf_touchCode ..
  regs := fun _ => regAt_touchCode ..
  tlb := by
    simp only [Dev.touchCode]
    split
    · simp only [cl_apply, if_true]
    · rw [tlb_onCore]; simp only [cl_apply, if_true]
  once := by
    obtain ⟨-, -, -, ⟨-, -, honce⟩, -, -⟩ := h
    rw [die_touchCode]; exact honce

/-- An instruction with a legal word runs its body on what its fetch leaves. -/
theorem issues_of_body {c : Instr} {s : State} {a : ThOp} {op pipe : Nat} {ok : Bool} {body : Prog} {P : Dev → Prop} (h : s.m.stands a)
    (he : exec c s = s.perform (thStep a op pipe ok body)) (ho : c.opcode = op) (hd : opDefined op = true) (hok : ok = true)
    (hb : ∀ t, s.m.fetched t a → ((body.run t).die (a.k / 168)).once = [] ∧ P (body.run t)) : issues c s a P := by
  intro hw
  subst ho hok
  obtain ⟨honce, hP⟩ := hb _ (fetched_touchCode h)
  exact completes_of he (by rw [thStep_stands h hw hd honce]; exact hP)

/-- The same, the device that the body leaves being given by an equation. -/
theorem issues_of_runs {c : Instr} {s : State} {a : ThOp} {op pipe : Nat} {ok : Bool} {body : Prog} {P : Dev → Prop} (h : s.m.stands a)
    (he : exec c s = s.perform (thStep a op pipe ok body)) (ho : c.opcode = op) (hd : opDefined op = true) (hok : ok = true)
    (hb : ∀ t, s.m.fetched t a → ∃ u, body.run t = u ∧ (u.die (a.k / 168)).once = [] ∧ P u) : issues c s a P :=
  issues_of_body h he ho hd hok fun t ht => by
    obtain ⟨u, rfl, hu⟩ := hb t ht
    exact hu

/-- An instruction with a legal word whose body raises an exception that kills. -/
theorem issues_raised_of_body {c : Instr} {s : State} {a : ThOp} {op pipe cause va thread : Nat} {fetch : Bool} {ok : Bool} {body : Prog} (h : s.m.stands a)
    (he : exec c s = s.perform (thStep a op pipe ok body)) (ho : c.opcode = op) (hd : opDefined op = true) (hok : ok = true)
    (hc : cause < 2 ^ 8) (hc' : cause ≠ 0x20)
    (hb : ∀ t, s.m.fetched t a → body.run t = (thDie a.k a.core a.f cause va thread fetch 0).run t) :
    issues c s a fun t => s.m.raised t a cause (thStatus cause) va thread fetch := by
  refine issues_of_body h he ho hd hok fun t ht => ?_
  rw [hb t ht]
  exact ⟨(thDie_still a va thread fetch 0 hc' t).2 _ ht.once, raised_thDie 0 ht.flock (fun _ _ => ht.regs _) hc hc'⟩

/-- An exception of the flock's own names the first thread that executes. -/
theorem thBad_run {s t : Dev} {a : ThOp} (h : t.flockOf a = s.flockOf a) (cause va : Nat) :
    (thBad a cause va).run t = (thDie a.k a.core a.f cause va ((s.flockOf a).firstExec a.w) false 0).run t := by rw [thBad, run_look, h]

/-! ### Changes of the flock alone -/

/-- Only the flock has changed, and it is `x`. -/
structure Dev.flockIs (s t : Dev) (a : ThOp) (x : Flock) : Prop where
  same : s.sameButFlock t a
  flock : t.flockOf a = x
  regs : ∀ A, t.regAt A = s.regAt A
  once : (t.die (a.k / 168)).once = []

theorem Dev.fetched.flockIs {s t : Dev} {a : ThOp} (h : s.fetched t a) : s.flockIs t a (s.flockOf a) := ⟨h.same, h.flock, h.regs, h.once⟩

theorem Dev.flockIs.onFlock {s t : Dev} {a : ThOp} {x : Flock} (h : s.flockIs t a x) (g : Flock → Flock) :
    s.flockIs ((Machine.onFlock a.k a.core a.f g).run t) a (g x) where
  same := sameButFlock_trans h.same (sameButFlock_onFlock ..)
  flock := by rw [flockOf_onFlock, h.flock]
  regs := fun A => (regAt_onFlock ..).trans (h.regs A)
  once := by rw [die_onFlock]; exact h.once

/-- The next instruction follows, and TH_ISSUED counts this one. -/
theorem Dev.flockIs.next {s t : Dev} {a : ThOp} {x : Flock} (h : s.flockIs t a x) (pc : Nat) :
    s.flockBecame ((thNext a.k a.core a.f pc).run t) a (x.doneAt pc) (s.issuedOne a) := by
  refine ⟨?_, ?_, regsBecome_next a pc h.regs⟩
  · rw [thNext_run]
    exact sameButFlock_trans h.same (sameButFlock_trans (sameButFlock_onFlock ..) (sameButFlock_reg ..))
  · rw [thNext_run, flockOf_reg, flockOf_onFlock, h.flock]; rfl

theorem Dev.flockIs.next_once {s t : Dev} {a : ThOp} {x : Flock} (h : s.flockIs t a x) (pc : Nat) :
    (((thNext a.k a.core a.f pc).run t).die (a.k / 168)).once = [] := by
  rw [thNext_run, die_reg, die_onFlock]; exact h.once

/-- What one more in a counter, and going on, leave of the registers. -/
theorem regsBecome_tally_next {s t : Dev} {a : ThOp} {off : Nat} (hr : ∀ A, t.regAt A = s.regAt A) (hoff : off ≠ R.TH_ISSUED) (pc : Nat) :
    s.regsBecome ((thNext a.k a.core a.f pc).run ((thTally a.k a.core off 1).run t))
      (s.issuedOne a ++ [(counterOf a off, satAdd (s.regAt (counterOf a off)) 1)]) := by
  have hne : counterOf a R.TH_ISSUED ≠ counterOf a off := fun e => hoff (counterOf_inj e).symm
  refine regsBecome_two hne fun A => ?_
  have htally (A : Nat) : ((thTally a.k a.core off 1).run t).regAt A = if A = counterOf a off then satAdd (s.regAt A) 1 else s.regAt A := by
    rw [thTally, tally_run, hr]; exact if_congr (and_iff_left one_ne_zero) rfl rfl
  rw [regAt_next (s := (thTally a.k a.core off 1).run t) a pc (fun _ => rfl), htally, htally, if_neg hne]
  split
  · rfl
  · split
    next h => rw [h]
    next => rfl

/-- A counter more, and the next instruction. -/
theorem Dev.flockIs.tally_next {s t : Dev} {a : ThOp} {x : Flock} (h : s.flockIs t a x) {off : Nat} (hoff : off ≠ R.TH_ISSUED) (pc : Nat) :
    s.flockBecame ((thNext a.k a.core a.f pc).run ((thTally a.k a.core off 1).run t)) a (x.doneAt pc)
      (s.issuedOne a ++ [(counterOf a off, satAdd (s.regAt (counterOf a off)) 1)]) := by
  refine ⟨?_, ?_, regsBecome_tally_next h.regs hoff pc⟩
  · rw [thNext_run]
    exact sameButFlock_trans (sameButFlock_trans h.same (sameButFlock_tally ..)) (sameButFlock_trans (sameButFlock_onFlock ..) (sameButFlock_reg ..))
  · rw [thNext_run, flockOf_reg, flockOf_onFlock, thTally, flockOf_tally, h.flock]; rfl

theorem once_tally_next {t : Dev} {a : ThOp} (off pc : Nat) (h : (t.die (a.k / 168)).once = []) :
    (((thNext a.k a.core a.f pc).run ((thTally a.k a.core off 1).run t)).die (a.k / 168)).once = [] := by
  rw [thNext_run, die_reg, die_onFlock, thTally, die_tally]; exact h

/-! ### Masks of the executing threads -/

theorem threadMask_exec_eq_zero (x : Flock) (w : Nat) : threadMask (x.exec w) = 0 ↔ x.exec w = [] := by
  refine ⟨fun h => ?_, fun h => by rw [h]; rfl⟩
  rw [exec_eq_range] at h ⊢
  rw [List.filter_eq_nil_iff]
  intro i hi hq
  have hbit := testBit_threadMask_range (fun i => bitAt x.active i && ((x.thr i).pr (fPred w) != fNeg w)) 8 i
  rw [h, hq, Nat.zero_testBit, decide_eq_true (List.mem_range.mp hi)] at hbit
  exact Bool.false_ne_true hbit

/-- The target of a BRN word (R241). -/
theorem brnTarget_eq (pc : Nat) (w : Nat) :
    brnTarget pc w = (BitVec.ofNat 64 pc + (BitVec.ofNat 20 (bits w 19 0)).signExtend 64 * 4).toNat := by
  rw [brnTarget, wrapN_eq_toNat, BitVec.ofInt_add, BitVec.ofInt_natCast, BitVec.ofInt_mul, fOff20, sext_eq_toInt _ (by decide), BitVec.mul_comm]
  rfl

end Sys2Proof.Machine
end

section
/-! CERTIFICATE. Branches and the join stack (R243, R253 to R255). -/

namespace Sys2Proof.Machine

theorem exec_bra (a : ThOp) (s : State) : exec (.bra a) s = s.perform (braProg a) := rfl
theorem exec_call (a : ThOp) (s : State) : exec (.call a) s = s.perform (callProg a) := rfl
theorem exec_jr (a : ThOp) (s : State) : exec (.jr a) s = s.perform (jrProg a) := rfl
theorem exec_jpush (a : ThOp) (s : State) : exec (.jpush a) s = s.perform (jpushProg a) := rfl
theorem exec_join (a : ThOp) (s : State) : exec (.join a) s = s.perform (joinProg a) := rfl
theorem exec_exit (a : ThOp) (s : State) : exec (.exit a) s = s.perform (exitProg a) := rfl

/-! ### Branches (R254) -/

/-- The flock of a branch, its link register set in the executing threads if it links. -/
def Flock.linked (x : Flock) (w : Nat) (link : Bool) : Flock :=
  if link then (x.exec w).foldl (fun y i => y.setThr i ((y.thr i).putX 63 (BitVec.ofNat 64 ((x.pc + 4) % 2 ^ 64)))) x else x

theorem stack_foldl_setThr (g : Flock → Nat → Thread) (l : List Nat) (y : Flock) : (l.foldl (fun y t => y.setThr t (g y t)) y).stack = y.stack := by
  induction l generalizing y with
  | nil => rfl
  | cons t r ih => rw [List.foldl_cons, ih]; rfl

theorem Flock.linked_stack (x : Flock) (w : Nat) (link : Bool) : (x.linked w link).stack = x.stack := by
  cases link
  · rfl
  · exact stack_foldl_setThr ..

/-- Nothing else than the link registers change. -/
theorem flockIs_linked {s t : Dev} {a : ThOp} (h : s.flockIs t a (s.flockOf a)) (link : Bool) :
    s.flockIs ((only link (onFlock a.k a.core a.f fun y => ((s.flockOf a).exec a.w).foldl
      (fun y i => y.setThr i ((y.thr i).setG 63 (((s.flockOf a).pc + 4) % 2 ^ 64))) y)).run t) a ((s.flockOf a).linked a.w link) := by
  cases link
  · exact h
  · exact h.onFlock fun y => ((s.flockOf a).exec a.w).foldl (fun y i => y.setThr i ((y.thr i).setG 63 (((s.flockOf a).pc + 4) % 2 ^ 64))) y

/-- What a branch of the executing threads to a target does (R254). -/
theorem thBranch_none {s t : Dev} {a : ThOp} (h : s.flockIs t a (s.flockOf a)) (target : Nat) (link : Bool) (hex : (s.flockOf a).exec a.w = []) :
    (thBranch a target link).run t = (thNext a.k a.core a.f (((s.flockOf a).pc + 4) % 2 ^ 64)).run t := by
  rw [thBranch, run_look, h.flock]
  dsimp only
  rw [if_pos ((threadMask_exec_eq_zero ..).mpr hex)]

theorem thBranch_all {s t : Dev} {a : ThOp} (h : s.flockIs t a (s.flockOf a)) (target : Nat) (link : Bool) (hex : (s.flockOf a).exec a.w ≠ [])
    (hall : threadMask ((s.flockOf a).exec a.w) = (s.flockOf a).active) :
    s.flockBecame ((thBranch a target link).run t) a (((s.flockOf a).linked a.w link).doneAt target) (s.issuedOne a)
      ∧ (((thBranch a target link).run t).die (a.k / 168)).once = [] := by
  have hl := flockIs_linked h link
  rw [thBranch, run_look, h.flock]
  dsimp only
  rw [if_neg (fun e => hex ((threadMask_exec_eq_zero ..).mp e)), if_pos hall]
  exact ⟨hl.next target, hl.next_once target⟩

theorem thBranch_part {s t : Dev} {a : ThOp} (h : s.flockIs t a (s.flockOf a)) (target : Nat) (link : Bool) (hex : (s.flockOf a).exec a.w ≠ [])
    (hpart : threadMask ((s.flockOf a).exec a.w) ≠ (s.flockOf a).active) (hroom : (s.flockOf a).stack.length < 16) :
    s.flockBecame ((thBranch a target link).run t) a
      ({ (s.flockOf a).linked a.w link with
        stack := ⟨((s.flockOf a).pc + 4) % 2 ^ 64, (s.flockOf a).active - threadMask ((s.flockOf a).exec a.w), false⟩ :: (s.flockOf a).stack,
        active := threadMask ((s.flockOf a).exec a.w) }.doneAt target)
      (s.issuedOne a ++ [(counterOf a R.TH_DIVERGE, satAdd (s.regAt (counterOf a R.TH_DIVERGE)) 1)])
      ∧ (((thBranch a target link).run t).die (a.k / 168)).once = [] := by
  have hl := (flockIs_linked h link).onFlock fun y =>
    { y with stack := ⟨((s.flockOf a).pc + 4) % 2 ^ 64, (s.flockOf a).active - threadMask ((s.flockOf a).exec a.w), false⟩ :: y.stack,
             active := threadMask ((s.flockOf a).exec a.w) }
  rw [Flock.linked_stack] at hl
  rw [thBranch, run_look, h.flock]
  dsimp only
  rw [if_neg (fun e => hex ((threadMask_exec_eq_zero ..).mp e)), if_neg hpart, if_neg (show ¬ joinDepth ≤ _ from Nat.not_le.mpr hroom)]
  exact ⟨hl.tally_next (by decide) target, once_tally_next _ _ hl.once⟩

theorem thBranch_full {s t : Dev} {a : ThOp} (h : s.flockIs t a (s.flockOf a)) (target : Nat) (link : Bool) (hex : (s.flockOf a).exec a.w ≠ [])
    (hpart : threadMask ((s.flockOf a).exec a.w) ≠ (s.flockOf a).active) (hfull : 16 ≤ (s.flockOf a).stack.length) :
    (thBranch a target link).run t = (thDie a.k a.core a.f 2 0 ((s.flockOf a).firstExec a.w) false 0).run t := by
  rw [thBranch, run_look, h.flock]
  dsimp only
  rw [if_neg (fun e => hex ((threadMask_exec_eq_zero ..).mp e)), if_neg hpart, if_pos (show joinDepth ≤ _ from hfull), thBad_run h.flock]

/-- An instruction whose body is a branch: it falls through, continues, divides the flock, or overflows the join stack. -/
theorem issues_branch {c : Instr} {s : State} {a : ThOp} {op pipe target : Nat} {ok link : Bool} {body : Prog} (h : s.m.stands a)
    (he : exec c s = s.perform (thStep a op pipe ok body)) (ho : c.opcode = op) (hd : opDefined op = true) (hok : ok = true)
    (hb : ∀ t, s.m.fetched t a → (s.m.flockOf a).exec a.w ≠ [] → body.run t = (thBranch a target link).run t)
    (hb' : ∀ t, s.m.fetched t a → (s.m.flockOf a).exec a.w = [] → ∃ target', body.run t = (thBranch a target' link).run t) :
    let x := s.m.flockOf a
    let ex := x.exec a.w
    let em := threadMask ex
    let next := (x.pc + 4) % 2 ^ 64
    (ex = [] → issues c s a fun t => s.m.flockBecame t a (x.doneAt next) (s.m.issuedOne a))
      ∧ (ex ≠ [] → em = x.active → issues c s a fun t => s.m.flockBecame t a ((x.linked a.w link).doneAt target) (s.m.issuedOne a))
      ∧ (ex ≠ [] → em ≠ x.active → x.stack.length < 16 → issues c s a fun t =>
          s.m.flockBecame t a ({ x.linked a.w link with stack := ⟨next, x.active - em, false⟩ :: x.stack, active := em }.doneAt target)
            (s.m.issuedOne a ++ [(counterOf a R.TH_DIVERGE, satAdd (s.m.regAt (counterOf a R.TH_DIVERGE)) 1)]))
      ∧ (ex ≠ [] → em ≠ x.active → 16 ≤ x.stack.length → issues c s a fun t => s.m.raised t a 2 0x70 0 (x.firstExec a.w) false) := by
  intro x ex em next
  refine ⟨fun hex => ?_, fun hex hall => ?_, fun hex hpart hroom => ?_, fun hex hpart hfull => ?_⟩
  · refine issues_of_body h he ho hd hok fun t ht => ?_
    obtain ⟨target', hrun⟩ := hb' t ht hex
    rw [hrun, thBranch_none ht.flockIs target' link hex]
    exact ⟨ht.flockIs.next_once _, ht.flockIs.next _⟩
  · refine issues_of_body h he ho hd hok fun t ht => ?_
    rw [hb t ht hex]
    exact (thBranch_all ht.flockIs target link hex hall).symm
  · refine issues_of_body h he ho hd hok fun t ht => ?_
    rw [hb t ht hex]
    exact (thBranch_part ht.flockIs target link hex hpart hroom).symm
  · refine issues_raised_of_body h he ho hd hok (by decide) (by decide) fun t ht => ?_
    rw [hb t ht hex, thBranch_full ht.flockIs target link hex hpart hfull]

/-- What JR does, from the flock as it finds it. -/
def jrBody (a : ThOp) (x : Flock) : Prog :=
  let ts := (x.exec a.w).map fun t => (x.thr t).gr (fA a.w)
  if ts.all (fun v => v == ts.headD 0) then thBranch a (ts.headD 0) false else thBad a 3 0

/-- The targets that the executing threads of a JR name. -/
theorem jr_all_iff (x : Flock) (w : Nat) :
    (((x.exec w).map fun t => (x.thr t).gr (fA w)).all fun v => v == ((x.exec w).map fun t => (x.thr t).gr (fA w)).headD 0) = true
      ↔ ∀ i j, i ∈ x.exec w → j ∈ x.exec w → (x.thr i).x (fA w) = (x.thr j).x (fA w) := by
  simp only [gr_eq, List.all_eq_true, List.mem_map, beq_iff_eq, forall_exists_index, and_imp, forall_apply_eq_imp_iff₂]
  cases hx : x.exec w with
  | nil => simp
  | cons n r =>
    rw [List.map_cons, List.headD_cons]
    exact ⟨fun h i j hi hj => BitVec.eq_of_toNat_eq ((h i hi).trans (h j hj).symm), fun h i hi => congrArg _ (h i n hi List.mem_cons_self)⟩

/-- Settles O11: a branch goes by which active threads execute it; JR needs one target. -/
theorem branchesDivide : Obligations.BranchesDivide := by
  intro s a h x ex em next branch brn jrOk
  refine ⟨fun hok => ?_, fun hok => ?_, fun hok target htarget => ?_, fun hok hdiff => ?_⟩
  · have hb (t : Dev) (ht : s.m.fetched t a) : (look fun s => thBranch a (brnTarget (s.flockOf a).pc a.w) false).run t = (thBranch a brn false).run t := by
      rw [run_look, ht.flock, brnTarget_eq]
    exact issues_branch h (exec_bra a s) rfl (by decide) hok (fun t ht _ => hb t ht) fun t ht _ => ⟨_, hb t ht⟩
  · have hb (t : Dev) (ht : s.m.fetched t a) : (look fun s => thBranch a (brnTarget (s.flockOf a).pc a.w) true).run t = (thBranch a brn true).run t := by
      rw [run_look, ht.flock, brnTarget_eq]
    exact issues_branch h (exec_call a s) rfl (by decide) hok (fun t ht _ => hb t ht) fun t ht _ => ⟨_, hb t ht⟩
  · have hall := (jr_all_iff x a.w).mpr fun i j hi hj => BitVec.eq_of_toNat_eq ((htarget i hi).trans (htarget j hj).symm)
    have hrun (t : Dev) (ht : s.m.fetched t a) : (look fun s => jrBody a (s.flockOf a)).run t
        = (thBranch a (((x.exec a.w).map fun t => (x.thr t).gr (fA a.w)).headD 0) false).run t := by
      rw [run_look, ht.flock, jrBody, if_pos hall]
    refine issues_branch h (exec_jr a s) rfl (by decide) hok (fun t ht hex => ?_) fun t ht _ => ⟨_, hrun t ht⟩
    obtain ⟨n, r, hn⟩ := List.exists_cons_of_ne_nil hex
    have hhead : ((x.exec a.w).map fun t => (x.thr t).gr (fA a.w)).headD 0 = target := by
      rw [show x.exec a.w = n :: r from hn, List.map_cons, List.headD_cons, gr_eq]
      exact htarget n (show n ∈ x.exec a.w from hn ▸ List.mem_cons_self)
    rw [← hhead]
    exact hrun t ht
  · obtain ⟨i, j, hi, hj, hne⟩ := hdiff
    refine issues_raised_of_body h (exec_jr a s) rfl (by decide) hok (by decide) (by decide) fun t ht => ?_
    have hrun : (look fun s => jrBody a (s.flockOf a)).run t = (thBad a 3 0).run t := by
      rw [run_look, ht.flock, jrBody, if_neg fun hall => hne ((jr_all_iff x a.w).mp hall i j hi hj)]
    exact hrun.trans (thBad_run ht.flock 3 0)

/-! ### The join stack (R253, R255) -/

theorem popJoin_of_cons {live : Nat} {l r : List Join} {j : Join} (h : (l.dropWhile fun j => j.mask &&& live == 0) = j :: r) :
    popJoin live l = some (j.pc, j.mask &&& live, r) := by
  induction l with
  | nil => cases h
  | cons i l ih =>
    rw [List.dropWhile_cons] at h
    by_cases hm : i.mask &&& live = 0
    · rw [if_pos (by simpa using hm)] at h
      rw [popJoin, if_neg (not_not.mpr hm), ih h]
    · rw [if_neg (by simpa using hm)] at h
      obtain ⟨rfl, rfl⟩ := List.cons_eq_cons.mp h
      rw [popJoin, if_pos hm]

theorem popJoin_of_nil {live : Nat} {l : List Join} (h : (l.dropWhile fun j => j.mask &&& live == 0) = []) : popJoin live l = none := by
  induction l with
  | nil => rfl
  | cons i l ih =>
    rw [List.dropWhile_cons] at h
    by_cases hm : i.mask &&& live = 0
    · rw [if_pos (by simpa using hm)] at h
      rw [popJoin, if_neg (not_not.mpr hm), ih h]
    · rw [if_neg (by simpa using hm)] at h
      cases h

/-- An instruction that changes its flock alone, and goes on. -/
theorem issues_onFlock_next {c : Instr} {s : State} {a : ThOp} {op pipe pc : Nat} {ok : Bool} {body : Prog} {g : Flock → Flock} (h : s.m.stands a)
    (he : exec c s = s.perform (thStep a op pipe ok body)) (ho : c.opcode = op) (hd : opDefined op = true) (hok : ok = true)
    (hb : ∀ t, s.m.fetched t a → body.run t = (progs [onFlock a.k a.core a.f g, thNext a.k a.core a.f pc]).run t) :
    issues c s a fun t => s.m.flockBecame t a ((g (s.m.flockOf a)).doneAt pc) (s.m.issuedOne a) := by
  refine issues_of_body h he ho hd hok fun t ht => ?_
  rw [hb t ht]
  have hf := ht.flockIs.onFlock g
  exact ⟨hf.next_once pc, hf.next pc⟩

/-- An instruction that pops the join stack as JOIN does, its live threads being known. -/
theorem issues_pop {c : Instr} {s : State} {a : ThOp} {op pipe live : Nat} {ok : Bool} {body : Prog} (g : Flock → Nat → List Join → Flock) (h : s.m.stands a)
    (he : exec c s = s.perform (thStep a op pipe ok body)) (ho : c.opcode = op) (hd : opDefined op = true) (hok : ok = true)
    (hb : ∀ t, s.m.fetched t a → body.run t = (match popJoin live (s.m.flockOf a).stack with
      | some r => progs [onFlock a.k a.core a.f fun y => g y r.2.1 r.2.2, thNext a.k a.core a.f r.1]
      | none => thBad a 2 0).run t) :
    match (s.m.flockOf a).stack.dropWhile fun j => j.mask &&& live == 0 with
    | j :: r => issues c s a fun t => s.m.flockBecame t a ((g (s.m.flockOf a) (j.mask &&& live) r).doneAt j.pc) (s.m.issuedOne a)
    | [] => issues c s a fun t => s.m.raised t a 2 0x70 0 ((s.m.flockOf a).firstExec a.w) false := by
  split
  next j r hj =>
    exact issues_onFlock_next h he ho hd hok fun t ht => by rw [hb t ht, popJoin_of_cons hj]
  next hn =>
    exact issues_raised_of_body h he ho hd hok (by decide) (by decide) fun t ht => by rw [hb t ht, popJoin_of_nil hn, thBad_run ht.flock]

/-- EXIT's body, from the flock as it finds it. -/
def exitBody (a : ThOp) (x : Flock) : Prog :=
  let em := threadMask (x.exec a.w)
  let live := x.live - (x.live &&& em)
  let act := x.active - em
  if live = 0 then progs [thTally a.k a.core R.TH_ISSUED 1, onFlock a.k a.core a.f fun _ => Flock.idle]
  else if act ≠ 0 then progs [onFlock a.k a.core a.f fun y => { y with live := live, active := act }, thNext a.k a.core a.f (x.pc + 4)]
  else match popJoin live x.stack with
    | some r => progs [onFlock a.k a.core a.f fun y => { y with live := live, active := r.2.1, stack := r.2.2 }, thNext a.k a.core a.f r.1]
    | none => thBad a 2 0

/-- The last EXIT ends the flock. -/
theorem flockBecame_end {s t : Dev} {a : ThOp} {x : Flock} (h : s.flockIs t a x) :
    s.flockBecame ((progs [thTally a.k a.core R.TH_ISSUED 1, onFlock a.k a.core a.f fun _ => Flock.idle]).run t) a Flock.idle (s.issuedOne a) := by
  rw [run_progs_cons, run_progs_cons, run_progs_nil]
  refine ⟨sameButFlock_trans (sameButFlock_trans h.same (sameButFlock_tally ..)) (sameButFlock_onFlock ..), flockOf_onFlock .., ?_⟩
  refine regsBecome_one _ _ fun A => ?_
  rw [regAt_onFlock, thTally, tally_run, h.regs]
  by_cases hA : A = counterOf a R.TH_ISSUED
  · rw [if_pos ⟨hA, one_ne_zero⟩, if_pos hA, hA]
  · rw [if_neg (fun e => hA e.1), if_neg hA]

/-- Settles O12: JOIN and the last EXIT of a path pop to the topmost entry with live threads. -/
theorem joinStack : Obligations.JoinStack := by
  intro s a h x em live act becomes bad pops target
  have hexit (t : Dev) (ht : s.m.fetched t a) : (look fun s => exitBody a (s.flockOf a)).run t = (exitBody a x).run t := by rw [run_look, ht.flock]
  refine ⟨fun hp hroom => ?_, fun hp hfull => ?_, fun hw => ?_, fun hok hl => ?_, fun hok hl hact => ?_, fun hok hl hact => ?_⟩
  · refine issues_onFlock_next (g := fun y => { y with stack := ⟨target, x.active, true⟩ :: y.stack }) h (exec_jpush a s) rfl (by decide)
      (decide_eq_true hp) fun t ht => ?_
    rw [run_look, ht.flock]
    dsimp only
    rw [if_neg (show ¬ joinDepth ≤ _ from Nat.not_le.mpr hroom), brnTarget_eq]
  · refine issues_raised_of_body h (exec_jpush a s) rfl (by decide) (decide_eq_true hp) (by decide) (by decide) fun t ht => ?_
    rw [run_look, ht.flock]
    dsimp only
    rw [if_pos (show joinDepth ≤ _ from hfull), thBad_run ht.flock]
  · exact issues_pop (fun y m r => { y with active := m, stack := r }) h (exec_join a s) rfl (by decide) (by rw [hw]; decide) fun t ht => by
      rw [run_look, ht.flock] <;> rfl
  · refine issues_of_runs h (exec_exit a s) rfl (by decide) hok fun t ht => ⟨_, (hexit t ht).trans ?_, ?_, flockBecame_end ht.flockIs⟩
    · rw [exitBody, if_pos hl]
    · rw [run_progs_cons, run_progs_cons, run_progs_nil, die_onFlock, thTally, die_tally]; exact ht.once
  · refine issues_onFlock_next (g := fun y => { y with live := live, active := act }) h (exec_exit a s) rfl (by decide) hok fun t ht => ?_
    refine (hexit t ht).trans ?_
    rw [exitBody, if_neg hl, if_pos hact]
  · refine issues_pop (fun y m r => { y with live := live, active := m, stack := r }) h (exec_exit a s) rfl (by decide) hok fun t ht => ?_
    refine (hexit t ht).trans ?_
    rw [exitBody, if_neg hl, if_neg (not_not.mpr hact)]

end Sys2Proof.Machine
end

section
/-! CERTIFICATE. The exceptions of an illegal word and of TRAP (R242, R243, R265, R272, R475). -/

namespace Sys2Proof.Machine

/-- An instruction that takes the step of a word which is illegal where `ok` is false. -/
def StepsIf (a : ThOp) (c : Instr) (ok : Bool) : Prop := ∀ s : State, ∃ (pipe : Nat) (legal : Bool) (body : Prog),
  exec c s = s.perform (thStep a c.opcode pipe legal body) ∧ opDefined c.opcode = true ∧ (ok = false → legal = false)

theorem issues_of_stepsIf {c : Instr} {a : ThOp} {ok : Bool} {s : State} (hc : StepsIf a c ok) (h : s.m.stands a) (hok : ok = false) :
    issues c s a fun t => s.m.raised t a 1 0x70 0 (s.m.flockOf a).first false := by
  obtain ⟨pipe, legal, body, he, hd, hl⟩ := hc s
  exact issues_illegal h he rfl hd (hl hok)

/-- An IMM word of two g registers is illegal by its PRED alone. -/
theorem immOk_g_g (w : Nat) : immOk .g .g w = predOk w := by simp [immOk, FKind.ok]

/-- A MEM word of g registers has every SZ. -/
theorem memOk_g_g (w : Nat) : memOk .g .g [0, 1, 2, 3] w = predOk w := by
  have hsz : ([0, 1, 2, 3] : List Nat).contains (fSz w) = true := by
    have h : fSz w < 2 ^ 2 := bits_lt ..
    generalize fSz w = z at h
    interval_cases z <;> rfl
  rw [memOk, hsz]
  simp [FKind.ok]

/-- JOIN has one word. -/
theorem join_word {a : ThOp} (h : (predZero a.w && regOk .no .no .no [0] a.w) = true) : a.w = 0 := by
  have hw : a.w < 2 ^ 24 := a.word.isLt
  simp only [predZero, regOk, Bool.and_eq_true, List.contains_cons, List.contains_nil, Bool.or_false, beq_iff_eq] at h
  obtain ⟨hp, ⟨⟨⟨-, hd⟩, ha⟩, hb⟩, hm⟩ := h
  have hp := of_decide_eq_true hp
  have hd := of_decide_eq_true hd
  have ha := of_decide_eq_true ha
  have hb := of_decide_eq_true hb
  simp only [fD, fA, fB, fM, bits] at hp hd ha hb hm
  omega

section
variable (a : ThOp)

/-- The instructions of a REG word with three g registers. -/
theorem stepsIf_r3 : ∀ e ∈ ([(.add a, [0]), (.sub a, [0]), (.mul a, [0]), (.mulh a, [0, 1]), (.and a, [0]), (.or a, [0]), (.xor a, [0]),
    (.shl a, [0]), (.shr a, [0, 1]), (.min a, [0, 1]), (.max a, [0, 1]), (.div a, [0, 1]), (.rem a, [0, 1]), (.shfl a, [0]), (.fadd a, [0]),
    (.fsub a, [0]), (.fmul a, [0]), (.ffma a, [0]), (.fmin a, [0]), (.fmax a, [0]), (.fdiv a, [0]), (.aadd a, [2, 3]), (.amin a, [2, 3]),
    (.amax a, [2, 3]), (.aand a, [2, 3]), (.aor a, [2, 3]), (.axchg a, [2, 3]), (.acas a, [2, 3]), (.afadd a, [2])] : List (Instr × List Nat)),
    StepsIf a e.1 (regOk .g .g .g e.2 a.w) := by
  simp only [List.forall_mem_cons, List.not_mem_nil, false_imp_iff, implies_true, and_true]
  and_intros
  all_goals exact fun s => ⟨_, _, _, rfl, rfl, id⟩

/-- The instructions of a REG word with three v registers. -/
theorem stepsIf_v3 : ∀ e ∈ ([(.vadd a, [0, 1, 2, 3]), (.vsub a, [0, 1, 2, 3]), (.vmul a, [0, 1, 2, 3]), (.vmin a, [0, 1, 2, 3]),
    (.vmax a, [0, 1, 2, 3]), (.vand a, [0, 1, 2, 3]), (.vor a, [0, 1, 2, 3]), (.vxor a, [0, 1, 2, 3]), (.vperm a, [2]), (.vfadd a, [0, 1]),
    (.vfsub a, [0, 1]), (.vfmul a, [0, 1]), (.vffma a, [0, 1]), (.vfmin a, [0, 1]), (.vfmax a, [0, 1])] : List (Instr × List Nat)),
    StepsIf a e.1 (regOk .v .v .v e.2 a.w) := by
  simp only [List.forall_mem_cons, List.not_mem_nil, false_imp_iff, implies_true, and_true]
  and_intros
  all_goals exact fun s => ⟨_, _, _, rfl, rfl, id⟩

/-- Every other instruction. -/
theorem stepsIf_others : ∀ e ∈ ([(.nop a, regOk .no .no .no [0] a.w), (.exit a, regOk .no .no .no [0] a.w), (.bra a, predOk a.w), (.call a, predOk a.w),
    (.jr a, regOk .no .g .no [0] a.w), (.jpush a, bits a.w 23 20 == 0), (.join a, a.w == 0), (.mfs a, immOk .g .no a.w), (.mts a, immOk .no .g a.w),
    (.waitv a, regOk .no .g .g [0, 1, 2] a.w), (.clz a, regOk .g .g .no [0] a.w), (.popc a, regOk .g .g .no [0] a.w),
    (.addi a, predOk a.w), (.andi a, predOk a.w), (.ori a, predOk a.w), (.xori a, predOk a.w), (.shli a, predOk a.w), (.shri a, predOk a.w),
    (.sari a, predOk a.w), (.bar a, bits a.w 23 20 == 0 && regOk .no .g .g [0, 1] a.w), (.trap a, immOk .no .no a.w), (.lkget a, regOk .g .g .no [0, 1] a.w),
    (.movi a, predOk a.w), (.movh a, predOk a.w), (.cmpeqi a, immOk .p .g a.w), (.cmplti a, immOk .p .g a.w),
    (.cmpeq a, regOk .p .g .g [0] a.w), (.cmpne a, regOk .p .g .g [0] a.w), (.cmplt a, regOk .p .g .g [0, 1] a.w), (.cmple a, regOk .p .g .g [0, 1] a.w),
    (.plog a, regOk .p .p .p [0, 1, 2, 3] a.w), (.vote a, regOk .p .p .no [0, 1] a.w), (.ballot a, regOk .g .p .no [0] a.w),
    (.fsqrt a, regOk .g .g .no [0] a.w), (.fcvt a, regOk .g .g .no [0, 1, 2, 3] a.w), (.fcmplt a, regOk .p .g .g [0] a.w), (.fcmpeq a, regOk .p .g .g [0] a.w),
    (.vshl a, regOk .v .v .g [0, 1, 2, 3] a.w), (.vsar a, regOk .v .v .g [0, 1, 2, 3] a.w), (.vsplat a, regOk .v .g .no [0, 1, 2, 3] a.w),
    (.vext a, regOk .g .v .g [0, 1, 2, 3] a.w), (.vins a, regOk .v .g .g [0, 1, 2, 3] a.w), (.vred a, regOk .g .v .no [0, 1, 2, 3] a.w),
    (.vfcvt a, regOk .v .v .no [0, 1, 2, 3] a.w), (.vfred a, regOk .g .v .no [0] a.w), (.ld a, predOk a.w), (.lds a, predOk a.w), (.st a, predOk a.w),
    (.vld a, memOk .v .g [0] a.w), (.vst a, memOk .v .g [0] a.w), (.vldg a, regOk .v .g .v [2, 3] a.w), (.vsts a, regOk .v .g .v [2, 3] a.w),
    (.pref a, memOk .no .g [0, 1, 2, 3] a.w), (.lkput a, regOk .no .g .g [0, 1] a.w), (.fence a, regOk .o .no .no [0, 1, 2] a.w),
    (.tissue a, regOk .g .v .no [0, 1] a.w), (.bissue a, regOk .g .v .no [0, 1] a.w), (.twait a, regOk .g .g .no [0] a.w), (.tpoll a, regOk .g .g .no [0] a.w),
    (.tcrec a, regOk .v .g .no [0] a.w), (.tfree a, regOk .no .g .no [0] a.w), (.tcancel a, regOk .no .g .no [0] a.w)] : List (Instr × Bool)),
    StepsIf a e.1 e.2 := by
  have himm {c : Instr} (h : StepsIf a c (immOk .g .g a.w)) : StepsIf a c (predOk a.w) := immOk_g_g a.w ▸ h
  have hmem {c : Instr} (h : StepsIf a c (memOk .g .g [0, 1, 2, 3] a.w)) : StepsIf a c (predOk a.w) := memOk_g_g a.w ▸ h
  have hjoin : StepsIf a (.join a) (a.w == 0) := fun s => ⟨_, _, _, rfl, rfl, fun hw => Bool.eq_false_iff.mpr fun hl => by
    rw [join_word hl] at hw; cases hw⟩
  have hmfs : StepsIf a (.mfs a) (immOk .g .no a.w) := fun s => ⟨_, _, _, rfl, rfl, fun hw => by rw [hw]; rfl⟩
  have hmts : StepsIf a (.mts a) (immOk .no .g a.w) := fun s => ⟨_, _, _, rfl, rfl, fun hw => by rw [hw]; rfl⟩
  simp only [List.forall_mem_cons, List.not_mem_nil, false_imp_iff, implies_true, and_true]
  refine ⟨?_, ?_, ?_, ?_, ?_, ?_, hjoin, hmfs, hmts, ?_, ?_, ?_, himm ?_, himm ?_, himm ?_, himm ?_, himm ?_, himm ?_, himm ?_, ?_, ?_, ?_, ?_, ?_, ?_, ?_, ?_, ?_, ?_, ?_, ?_, ?_, ?_, ?_, ?_, ?_, ?_, ?_, ?_, ?_, ?_, ?_, ?_, ?_, ?_, hmem ?_, hmem ?_, hmem ?_, ?_, ?_, ?_, ?_, ?_, ?_, ?_, ?_, ?_, ?_, ?_, ?_, ?_, ?_⟩
  all_goals exact fun s => ⟨_, _, _, rfl, rfl, id⟩

end

/-! ### TRAP (R265) -/

theorem exec_trap (a : ThOp) (s : State) : exec (.trap a) s = s.perform (trapProg a) := rfl

/-- A debugger's claim: the record is made and the flock stands, its command going on. -/
def trapClaimed (a : ThOp) (thread : Nat) : Prog := progs [
  thRecord a.k a.core a.f 6 (bits a.w 7 0) thread false,
  onFlock a.k a.core a.f fun x => { x with st := .faulted }]

/-- TRAP's body, from the flock as it finds it. -/
def trapBody (a : ThOp) (x : Flock) (debug : Bool) : Prog :=
  if (x.exec a.w).isEmpty then thNext a.k a.core a.f (x.pc + 4)
  else if debug then withFree fun v => if v % 2 = 1 then trapClaimed a (x.firstExec a.w) else thBad a 6 (bits a.w 7 0)
  else thBad a 6 (bits a.w 7 0)

/-- The commands are the drovers'. -/
theorem cmdOf_congr {s t : Dev} (h : t.drovers = s.drovers) (q : Nat) : t.cmdOf q = s.cmdOf q := by
  rw [Dev.cmdOf, Dev.drv, h]; rfl

theorem Dev.fetched.cmdOf {s t : Dev} {a : ThOp} (h : s.fetched t a) (q : Nat) : t.cmdOf q = s.cmdOf q := by
  obtain ⟨hother, -⟩ := h.same
  exact cmdOf_congr (congrArg (fun u : Dev => u.drovers) hother : _) q

/-- What a claim leaves: the record, the flock where it stood, and every command. -/
theorem trapClaimed_run {s t : Dev} {a : ThOp} (hf : t.flockOf a = s.flockOf a) (hr : ∀ A, t.regAt A = s.regAt A) (thread : Nat) :
    s.recorded ((trapClaimed a thread).run t) a 6 0x70 (bits a.w 7 0) thread false
      ∧ ((trapClaimed a thread).run t).flockOf a = { s.flockOf a with st := .faulted }
      ∧ (∀ q, ((trapClaimed a thread).run t).cmdOf q = t.cmdOf q)
      ∧ (((trapClaimed a thread).run t).die (a.k / 168)).once = (t.die (a.k / 168)).once := by
  have hrec := sameBut_thRecord a.k a.core a.f 6 (bits a.w 7 0) thread false t
  rw [trapClaimed, run_progs_cons, run_progs_cons, run_progs_nil]
  refine ⟨recorded_thRecord hf (fun _ _ => hr _) (by decide), ?_, fun q => ?_, ?_⟩
  · rw [flockOf_onFlock, Dev.flockOf, Dev.flock, hrec.cl (by decide)]
    exact congrArg (fun x : Flock => { x with st := .faulted }) hf
  · exact cmdOf_congr (hrec.drovers (by decide)) q
  · rw [die_onFlock, hrec.die (by decide)]

/-- Settles O14: whatever makes its word illegal, the step is one whose body raises cause 1; TRAP raises cause 6 where some thread executes it. -/
theorem threadExceptions : Obligations.ThreadExceptions := by
  intro s a h x r3 v3 others illegal
  have hillegal : ∀ e ∈ illegal, StepsIf a e.1 e.2 := by
    simp only [illegal, List.forall_mem_append, List.forall_mem_map]
    exact ⟨⟨stepsIf_r3 a, stepsIf_v3 a⟩, stepsIf_others a⟩
  refine ⟨fun e he => issues_of_stepsIf (hillegal e he) h, fun hp hd ha => ?_⟩
  have hok : immOk .no .no a.w = true := by rw [immOk, hp, hd, ha]; rfl
  have hrun (t : Dev) (ht : s.m.fetched t a) : (look fun s => trapBody a (s.flockOf a) s.debug).run t = (trapBody a x s.m.debug).run t := by
    rw [run_look, ht.flock, Dev.debug, Dev.reg, ht.regs]; rfl
  refine ⟨fun hex hdebug => ?_, fun hex hdebug => ?_, fun hex => ?_⟩
  · refine issues_raised_of_body h (exec_trap a s) rfl (by decide) hok (by decide) (by decide) fun t ht => ?_
    refine (hrun t ht).trans ?_
    rw [trapBody, if_neg (by simpa using hex), hdebug, if_neg Bool.false_ne_true, thBad_run ht.flock]
  · refine issues_of_runs h (exec_trap a s) rfl (by decide) hok fun t ht => ?_
    have hfresh : (t.apply .fresh).flockOf a = x := ht.flock
    refine ⟨(if Config.freeNat t.free % 2 = 1 then trapClaimed a (x.firstExec a.w)
      else thDie a.k a.core a.f 6 (bits a.w 7 0) (x.firstExec a.w) false 0).run (t.apply .fresh), (hrun t ht).trans ?_, ?_⟩
    · rw [trapBody, if_neg (by simpa using hex), hdebug, if_pos rfl, withFree_run]
      split
      · rfl
      · rw [thBad_run hfresh]
    · split
      · obtain ⟨hrec, hflock, hcmd, honce⟩ := trapClaimed_run (s := s.m) (t := t.apply .fresh) hfresh ht.regs (x.firstExec a.w)
        exact ⟨honce.trans ht.once, .inr ⟨hrec, hflock, fun q => (hcmd q).trans (ht.cmdOf q)⟩⟩
      · exact ⟨(thDie_still a _ _ _ _ (by decide) _).2 _ ht.once, .inl (raised_thDie 0 hfresh (fun _ _ => ht.regs _) (by decide) (by decide))⟩
  · refine issues_of_runs h (exec_trap a s) rfl (by decide) hok fun t ht => ⟨(thNext a.k a.core a.f (x.pc + 4)).run t, (hrun t ht).trans ?_, ?_⟩
    · rw [trapBody, if_pos (by rw [hex]; rfl)]
    · exact ⟨ht.flockIs.next_once _, ht.flockIs.next _⟩

end Sys2Proof.Machine
end

section
/-! SUPPORT. Flocks that wait on their instruction (R243, R262, R264, R271). -/

namespace Sys2Proof.Machine

/-- What the flock's own cluster holds beside its cores and its translations stands. -/
theorem Dev.sameButFlock.field {α : Type} {s t : Dev} {a : ThOp} (h : s.sameButFlock t a) (f : Cluster → α)
    (hf : ∀ c : Cluster, f { c with cores := [], tlb := [] } = f c) : f (t.cl a.k) = f (s.cl a.k) := by
  obtain ⟨-, -, hcl, -⟩ := h
  rw [← hf (t.cl a.k), hcl, hf]

/-- One more in a counter of the core. -/
theorem regAt_thTally (a : ThOp) (off : Nat) (t : Dev) (A : Nat) :
    ((thTally a.k a.core off 1).run t).regAt A = if A = counterOf a off then satAdd (t.regAt A) 1 else t.regAt A := by
  rw [thTally, tally_run]; exact if_congr (and_iff_left one_ne_zero) rfl rfl

/-- What a flock waits for, by its opcode, thread and address; a wait that lasts keeps its beginning. -/
def Flock.waiting (x : Flock) (op w thread va off clock : Nat) : Flock :=
  { x with st := .wait, wait := some ⟨op, BitVec.ofNat 24 w, thread, va, off, match x.wait with | some v => v.since | none => clock⟩ }

theorem thWait_run (a : ThOp) (op thread va off : Nat) (t : Dev) : (thWait a.k a.core a.f op a.w thread va off).run t
    = (thTally a.k a.core off 1).run ((onFlock a.k a.core a.f fun x => x.waiting op a.w thread va off t.clock).run t) := by
  rw [thWait, run_look, run_progs_cons, run_progs_cons, run_progs_nil]; rfl

/-- What the flock of an instruction becomes when it waits. -/
theorem Dev.flockIs.wait {s t : Dev} {a : ThOp} {x : Flock} (h : s.flockIs t a x) (op thread va off : Nat) :
    s.flockBecame ((thWait a.k a.core a.f op a.w thread va off).run t) a (x.waiting op a.w thread va off t.clock)
      [(counterOf a off, satAdd (s.regAt (counterOf a off)) 1)] := by
  rw [thWait_run]
  have hf := h.onFlock fun x => x.waiting op a.w thread va off t.clock
  refine ⟨sameButFlock_trans hf.same (sameButFlock_tally ..), ?_, regsBecome_one _ _ fun A => ?_⟩
  · rw [thTally, flockOf_tally, hf.flock]
  · rw [regAt_thTally, hf.regs]
    split
    next hA => rw [hA]
    next => rfl

theorem once_thWait (a : ThOp) (op thread va off d : Nat) (t : Dev) : (((thWait a.k a.core a.f op a.w thread va off).run t).die d).once = (t.die d).once := by
  rw [thWait_run, thTally, die_tally, die_onFlock]

theorem word_of_w (a : ThOp) : BitVec.ofNat 24 a.w = a.word := BitVec.ofNat_toNat ..

/-- A flock that waits on its instruction, one more in a tally. -/
theorem waitsOn_thWait {s t : Dev} {a : ThOp} {off : Nat} (hf : t.flockOf a = s.flockOf a) (hr : t.regAt (counterOf a off) = s.regAt (counterOf a off))
    (op thread va : Nat) : s.waitsOn ((thWait a.k a.core a.f op a.w thread va off).run t) a op off := by
  have hflock : ((thWait a.k a.core a.f op a.w thread va off).run t).flockOf a = (s.flockOf a).waiting op a.w thread va off t.clock := by
    rw [thWait_run, thTally, flockOf_tally, flockOf_onFlock, hf]
  refine ⟨⟨_, rfl, word_of_w a, hflock⟩, ?_⟩
  rw [thWait_run, regAt_thTally, if_pos rfl, regAt_onFlock, hr]

theorem waitsOn_of {s t : Dev} {a : ThOp} {op thread va off clock : Nat}
    (h : s.flockBecame t a ((s.flockOf a).waiting op a.w thread va off clock) [(counterOf a off, satAdd (s.regAt (counterOf a off)) 1)]) :
    s.waitsOn t a op off := by
  obtain ⟨-, hflock, hregs⟩ := h
  refine ⟨⟨_, rfl, word_of_w a, hflock⟩, ?_⟩
  rw [hregs]; simp

end Sys2Proof.Machine
end

section
/-! CERTIFICATE. Barriers (R243, R269). -/

namespace Sys2Proof.Machine

theorem exec_barrierComplete (k : Fin 2688) (core : Fin 112) (ofCore : Bool) (n : Fin 32) (s : State) :
    exec (.barrierComplete k core ofCore n) s = s.perform (barrierCompleteProg k core ofCore n) := rfl

/-- A barrier of a cluster. -/
def Cluster.barrier (c : Cluster) (n : Nat) : Barrier := sget (fun _ => (⟨0, []⟩ : Barrier)) c.barriers n

/-- BAR's body: the flock's wait at its core's barrier, or its arrival at a cluster barrier. -/
def barBody (a : ThOp) (x : Flock) : Prog :=
  let waiting := thWait a.k a.core a.f 0x07 a.w x.first 0 R.TH_WAIT_SYNC
  if fM a.w = 0 then waiting
  else
    let vals := (x.exec a.w).map fun t => (((x.thr t).gr (fA a.w)) % 32, (x.thr t).gr (fB a.w))
    let v := vals.headD (0, 0)
    let me := 2 * a.core + a.f
    if !vals.all (fun y => y == v) || v.2 < 1 || 224 < v.2 then thBad a 3 0
    else .seq (barrierDone a.k v.1) (look fun s =>
      let b := (s.cl a.k).barrier v.1
      if x.st == .wait && (s.flockOf a).st == .run then .skip
      else if b.arrived.contains me then waiting
      else if !b.arrived.isEmpty && b.count ≠ v.2 then thBad a 3 0
      else progs [
        onCl a.k fun c => { c with barriers := sput c.barriers v.1 ⟨v.2, b.arrived ++ [me]⟩ },
        waiting])

theorem bar_run {s t : Dev} {a : ThOp} (h : s.fetched t a) : (look fun s => barBody a (s.flockOf a)).run t = (barBody a (s.flockOf a)).run t := by
  rw [run_look, h.flock]

theorem exec_bar (a : ThOp) (s : State) : exec (.bar a) s
    = s.perform (thStep a 0x07 pipeOwn (predZero a.w && regOk .no .g .g [0, 1] a.w) (look fun s => barBody a (s.flockOf a))) := rfl

/-- The cluster barriers stand over a fetch. -/
theorem Dev.fetched.barrier {s t : Dev} {a : ThOp} (h : s.fetched t a) (n : Nat) : (t.cl a.k).barrier n = (s.cl a.k).barrier n :=
  h.same.field (fun c => c.barrier n) fun _ => rfl

/-! ### The arrival of a flock -/

/-- A list all of whose members are one value. -/
theorem all_eq_headD {α β : Type} [BEq β] [LawfulBEq β] {l : List α} {f : α → β} {v : β} (d : β) (hl : l ≠ []) (h : ∀ i ∈ l, f i = v) :
    (l.map f).headD d = v ∧ (l.map f).all (fun y => y == v) = true := by
  obtain ⟨i, r, rfl⟩ := List.exists_cons_of_ne_nil hl
  refine ⟨h i List.mem_cons_self, ?_⟩
  rw [List.all_eq_true]
  intro y hy
  obtain ⟨j, hj, rfl⟩ := List.mem_map.mp hy
  exact beq_iff_eq.mpr (h j hj)

/-- A barrier whose round is not complete stands. -/
theorem barrierDone_run_of_not {k n : Nat} {t : Dev} (h : ¬(0 < ((t.cl k).barrier n).count ∧ ((t.cl k).barrier n).count ≤ ((t.cl k).barrier n).arrived.length)) :
    (barrierDone k n).run t = t := by
  rw [barrierDone, run_look, run_only, if_neg]
  rwa [Bool.and_eq_true, decide_eq_true_iff, decide_eq_true_iff]

/-- What BAR does at its core's barrier. -/
theorem barBody_core {a : ThOp} {x : Flock} (hm : fM a.w = 0) : barBody a x = thWait a.k a.core a.f 0x07 a.w x.first 0 R.TH_WAIT_SYNC := by
  rw [barBody, if_pos hm]

/-- BAR raises an exception where its threads differ, or name a count out of range. -/
theorem barBody_bad {a : ThOp} {x : Flock} (hm : fM a.w = 1)
    (h : ∀ v : Nat × Nat, (∀ i ∈ x.exec a.w, (((x.thr i).x (fA a.w)).toNat % 32, ((x.thr i).x (fB a.w)).toNat) = v) → v.2 < 1 ∨ 224 < v.2) :
    barBody a x = thBad a 3 0 := by
  simp only [barBody, gr_eq]
  rw [if_neg (by rw [hm]; decide), if_pos]
  rw [Bool.or_eq_true, Bool.or_eq_true, Bool.not_eq_true', decide_eq_true_iff, decide_eq_true_iff, or_assoc]
  by_cases hall : ((x.exec a.w).map fun t => (((x.thr t).x (fA a.w)).toNat % 32, ((x.thr t).x (fB a.w)).toNat)).all (fun y => y ==
    ((x.exec a.w).map fun t => (((x.thr t).x (fA a.w)).toNat % 32, ((x.thr t).x (fB a.w)).toNat)).headD (0, 0)) = true
  · refine .inr (h _ fun i hi => ?_)
    exact beq_iff_eq.mp (List.all_eq_true.mp hall _ (List.mem_map_of_mem hi))
  · exact .inl (Bool.eq_false_iff.mpr hall)

/-- What a BAR of one barrier and one count does, its round being open. -/
theorem barBody_arrive {t : Dev} {a : ThOp} {x : Flock} {n c : Nat} (hx : t.flockOf a = x) (hm : fM a.w = 1) (hex : x.exec a.w ≠ [])
    (hv : ∀ i, i ∈ x.exec a.w → ((x.thr i).x (fA a.w)).toNat % 32 = n ∧ ((x.thr i).x (fB a.w)).toNat = c) (hc : 1 ≤ c) (hc' : c ≤ 224)
    (hopen : ¬(0 < ((t.cl a.k).barrier n).count ∧ ((t.cl a.k).barrier n).count ≤ ((t.cl a.k).barrier n).arrived.length))
    (hme : 2 * a.core + a.f ∉ ((t.cl a.k).barrier n).arrived) : (barBody a x).run t =
      (if !((t.cl a.k).barrier n).arrived.isEmpty && ((t.cl a.k).barrier n).count ≠ c then thBad a 3 0
      else progs [
        onCl a.k fun y => { y with barriers := sput y.barriers n ⟨c, ((t.cl a.k).barrier n).arrived ++ [2 * a.core + a.f]⟩ },
        thWait a.k a.core a.f 0x07 a.w x.first 0 R.TH_WAIT_SYNC]).run t := by
  obtain ⟨hhead, hall⟩ := all_eq_headD (f := fun t => (((x.thr t).x (fA a.w)).toNat % 32, ((x.thr t).x (fB a.w)).toNat)) (0, 0) hex
    fun i hi => show _ = (n, c) from Prod.ext (hv i hi).1 (hv i hi).2
  have hst : (x.st == .wait && (t.flockOf a).st == .run) = false := by rw [hx]; cases x.st <;> rfl
  simp only [barBody, gr_eq]
  rw [if_neg (by rw [hm]; decide), hhead, hall, if_neg (by simp; omega), run_seq, barrierDone_run_of_not hopen, run_look, hst, if_neg Bool.false_ne_true,
    if_neg (by simpa using hme)]

/-- The arrival of a flock at a cluster barrier. -/
theorem arrived_run {s t : Dev} {a : ThOp} (h : s.fetched t a) (n : Nat) (b : Barrier) (thread : Nat) :
    let u := (progs [onCl a.k fun y => { y with barriers := sput y.barriers n b }, thWait a.k a.core a.f 0x07 a.w thread 0 R.TH_WAIT_SYNC]).run t
    u.flockOf a = (s.flockOf a).waiting 7 a.w thread 0 R.TH_WAIT_SYNC t.clock
      ∧ s.regsBecome u [(counterOf a R.TH_WAIT_SYNC, satAdd (s.regAt (counterOf a R.TH_WAIT_SYNC)) 1)]
      ∧ (∀ m, (u.cl a.k).barrier m = if m = n then b else (s.cl a.k).barrier m)
      ∧ s.onlyCluster u a.k ∧ (u.die (a.k / 168)).once = [] := by
  intro u
  obtain ⟨hother, hcls, -⟩ := id h.same
  have hbars : (t.cl a.k).barriers = (s.cl a.k).barriers := h.same.field _ fun _ => rfl
  obtain ⟨v, hv⟩ : ∃ v, v = (onCl a.k fun y => { y with barriers := sput y.barriers n b }).run t := ⟨_, rfl⟩
  have hvcl (j : Nat) : v.cl j = if j = a.k then { t.cl a.k with barriers := sput (t.cl a.k).barriers n b } else t.cl j := by
    rw [hv, onCl, run_look, run_upd, cl_apply]
  have hvk : v.cl a.k = { t.cl a.k with barriers := sput (t.cl a.k).barriers n b } := by rw [hvcl, if_pos rfl]
  have hflock : v.flockOf a = s.flockOf a := by rw [← h.flock, Dev.flockOf, Dev.flock, hvk]; rfl
  have hregs (A : Nat) : v.regAt A = s.regAt A := by rw [hv]; exact h.regs A
  have honce : (v.die (a.k / 168)).once = [] := by rw [hv]; exact h.once
  have hvother : { v with clusters := [], regs := [] } = { t with clusters := [], regs := [] } := by rw [hv]; rfl
  have hself : v.flockIs v a (s.flockOf a) := ⟨sameButFlock_refl .., hflock, fun _ => rfl, honce⟩
  have hwait := hself.wait 7 thread 0 R.TH_WAIT_SYNC
  have hu : u = (thWait a.k a.core a.f 0x07 a.w thread 0 R.TH_WAIT_SYNC).run v := by rw [hv]; rfl
  rw [← hu] at hwait
  obtain ⟨hsame, huflock, huregs⟩ := hwait
  have hubars : (u.cl a.k).barriers = (v.cl a.k).barriers := hsame.field _ fun _ => rfl
  obtain ⟨huother, hucls, -⟩ := hsame
  refine ⟨?_, fun A => ?_, fun m => ?_, ⟨(huother.trans hvother).trans hother, fun j hj => ?_⟩, ?_⟩
  · rw [huflock, hv]; rfl
  · rw [huregs, hregs, hregs]
  · rw [Cluster.barrier, hubars, hvk, Cluster.barrier, ← hbars]
    split
    next hm => rw [hm]; exact sget_sput_same ..
    next hm => exact sget_sput_other _ _ _ hm
  · rw [hucls j hj, hvcl, if_neg hj, hcls j hj]
  · rw [hu, once_thWait]; exact honce

/-! ### The end of a round (R269) -/

/-- Whether a flock waits at a barrier. -/
def Flock.atBar (x : Flock) : Bool := x.st == .wait && (match x.wait with | some v => v.op = 0x07 | none => false)

/-- What a flock becomes that a complete round releases. -/
def Flock.released (x : Flock) : Flock := if x.atBar then x.doneAt (x.pc + 4) else x

theorem Flock.released_released (x : Flock) : x.released.released = x.released := by
  by_cases h : x.atBar = true
  · rw [Flock.released, Flock.released, if_pos h]; rfl
  · rw [Flock.released, Flock.released, if_neg h, if_neg h]

theorem barGo_run (k core f : Nat) (s : Dev) :
    (barGo k core f).run s = (only (s.flock k core f).atBar (thNext k core f ((s.flock k core f).pc + 4))).run s := by rw [barGo, run_look]; rfl

/-- The cluster's cores and the registers alone may have changed. -/
def Dev.onlyCores (s t : Dev) (k : Nat) : Prop := s.onlyCluster t k ∧ { t.cl k with cores := [] } = { s.cl k with cores := [] }

theorem onlyCores_refl (s : Dev) (k : Nat) : s.onlyCores s k := ⟨⟨rfl, fun _ _ => rfl⟩, rfl⟩

theorem onlyCores_trans {s t u : Dev} {k : Nat} (h : s.onlyCores t k) (g : t.onlyCores u k) : s.onlyCores u k := by
  obtain ⟨⟨ho, hc⟩, hk⟩ := h
  obtain ⟨⟨go, gc⟩, gk⟩ := g
  exact ⟨⟨go.trans ho, fun j hj => (gc j hj).trans (hc j hj)⟩, gk.trans hk⟩

theorem onlyCores_onFlock (k core f : Nat) (g : Flock → Flock) (s : Dev) : s.onlyCores ((onFlock k core f g).run s) k := by
  refine ⟨⟨rfl, fun j hj => ?_⟩, ?_⟩
  · simp only [onFlock, onCore, onCl, run_look, run_upd, cl_apply, if_neg hj]
  · simp only [onFlock, onCore, onCl, run_look, run_upd, cl_apply, if_true]

theorem onlyCores_reg (k A v : Nat) (s : Dev) : s.onlyCores (s.apply (.reg A v)) k := ⟨⟨rfl, fun _ _ => rfl⟩, rfl⟩

theorem flock_reg (s : Dev) (A v k c m : Nat) : (s.apply (.reg A v)).flock k c m = s.flock k c m := rfl

/-- Changing one flock of a core leaves the others. -/
theorem flock_onFlock_other (s : Dev) {k core f c m : Nat} (g : Flock → Flock) (hf : f < 2) (hm : m < 2) (h : 2 * c + m ≠ 2 * core + f) :
    ((onFlock k core f g).run s).flock k c m = s.flock k c m := by
  simp only [Dev.flock, onFlock]
  rw [core_onCore]
  split
  next hc =>
    obtain ⟨-, rfl⟩ := hc
    obtain ⟨rfl, rfl⟩ | ⟨rfl, rfl⟩ : (m = 0 ∧ f = 1) ∨ (m = 1 ∧ f = 0) := by omega
    · rfl
    · rfl
  next => rfl

/-- What a flock becomes at its next instruction. -/
theorem flock_thNext (k core f pc c m : Nat) (s : Dev) :
    ((thNext k core f pc).run s).flock k c m = ((onFlock k core f fun x => x.doneAt pc).run s).flock k c m := by
  rw [thNext_run, flock_reg]; rfl

/-- A flock that a round releases goes on if it waits at a barrier; nothing else changes. -/
theorem barGo_flock (k core f : Nat) (s : Dev) (hf : f < 2) : s.onlyCores ((barGo k core f).run s) k
    ∧ ∀ c m, m < 2 → ((barGo k core f).run s).flock k c m = if 2 * c + m = 2 * core + f then (s.flock k c m).released else s.flock k c m := by
  rw [barGo_run, run_only]
  by_cases h : (s.flock k core f).atBar = true
  · rw [if_pos h]
    refine ⟨by rw [thNext_run]; exact onlyCores_trans (onlyCores_onFlock ..) (onlyCores_reg ..), fun c m hm => ?_⟩
    rw [flock_thNext]
    split
    next he =>
      obtain ⟨rfl, rfl⟩ : c = core ∧ m = f := by omega
      rw [Flock.released, if_pos h, flock_onFlock]
    next he => exact flock_onFlock_other _ _ hf hm he
  · rw [if_neg h]
    refine ⟨onlyCores_refl .., fun c m hm => ?_⟩
    split
    next he =>
      obtain ⟨rfl, rfl⟩ : c = core ∧ m = f := by omega
      rw [Flock.released, if_neg h]
    next => rfl

/-- The flocks of a list are released, each once. -/
theorem release_all (k : Nat) (l : List Nat) (s : Dev) : s.onlyCores ((forAll l fun x => barGo k (x / 2) (x % 2)).run s) k
    ∧ ∀ c m, m < 2 → ((forAll l fun x => barGo k (x / 2) (x % 2)).run s).flock k c m
        = if 2 * c + m ∈ l then (s.flock k c m).released else s.flock k c m := by
  induction l generalizing s with
  | nil => exact ⟨onlyCores_refl .., fun _ _ _ => rfl⟩
  | cons x r ih =>
    rw [run_forAll_cons]
    obtain ⟨hsame, hflock⟩ := barGo_flock k (x / 2) (x % 2) s (Nat.mod_lt _ (by decide))
    obtain ⟨isame, iflock⟩ := ih ((barGo k (x / 2) (x % 2)).run s)
    refine ⟨onlyCores_trans hsame isame, fun c m hm => ?_⟩
    rw [iflock c m hm, hflock c m hm, Nat.div_add_mod]
    by_cases hx : 2 * c + m = x <;> by_cases hr : 2 * c + m ∈ r <;> simp [hx, hr, Flock.released_released]

/-- The end of a complete round of a cluster barrier. -/
theorem barrierDone_run {k n : Nat} {s : Dev} (h : 0 < ((s.cl k).barrier n).count) (h' : ((s.cl k).barrier n).count ≤ ((s.cl k).barrier n).arrived.length) :
    (barrierDone k n).run s = (forAll ((s.cl k).barrier n).arrived fun x => barGo k (x / 2) (x % 2)).run
      ((onCl k fun c => { c with barriers := sdel c.barriers n }).run s) := by
  rw [barrierDone, run_look, run_only, if_pos]
  · rfl
  · exact Bool.and_eq_true_iff.mpr ⟨decide_eq_true h, decide_eq_true h'⟩

/-- A complete round of a cluster barrier ends, and its flocks go on. -/
theorem barrierDone_ends {k n : Nat} {s : Dev} (h : 0 < ((s.cl k).barrier n).count) (h' : ((s.cl k).barrier n).count ≤ ((s.cl k).barrier n).arrived.length) :
    s.onlyCluster ((barrierDone k n).run s) k ∧ (((barrierDone k n).run s).cl k).barrier n = ⟨0, []⟩
      ∧ ∀ c f, f < 2 → ((barrierDone k n).run s).flock k c f
          = if 2 * c + f ∈ ((s.cl k).barrier n).arrived then (s.flock k c f).released else s.flock k c f := by
  rw [barrierDone_run h h']
  obtain ⟨u, hu⟩ : ∃ u, u = (onCl k fun c => { c with barriers := sdel c.barriers n }).run s := ⟨_, rfl⟩
  have hucl (j : Nat) : u.cl j = if j = k then { s.cl k with barriers := sdel (s.cl k).barriers n } else s.cl j := by
    rw [hu, onCl, run_look, run_upd, cl_apply]
  have huk : u.cl k = { s.cl k with barriers := sdel (s.cl k).barriers n } := by rw [hucl, if_pos rfl]
  have huother : { u with clusters := [], regs := [] } = { s with clusters := [], regs := [] } := by rw [hu]; rfl
  rw [← hu]
  obtain ⟨⟨⟨hother, hcls⟩, hk⟩, hflock⟩ := release_all k ((s.cl k).barrier n).arrived u
  refine ⟨⟨hother.trans huother, fun j hj => (hcls j hj).trans (by rw [hucl, if_neg hj])⟩, ?_, fun c f hf => ?_⟩
  · refine (congrArg (fun c : Cluster => c.barrier n) hk : _).trans ?_
    show (u.cl k).barrier n = _
    rw [Cluster.barrier, huk]; exact sget_sdel_same ..
  · rw [hflock c f hf]
    simp only [Dev.flock, huk]; rfl

/-- Both flocks of a core that wait at its barrier go on. -/
theorem coreBarDone_ends {k core : Nat} {s : Dev} (h : ∀ f, f < 2 → (s.flock k core f).atCoreBar = true) :
    s.onlyCluster ((coreBarDone k core).run s) k
      ∧ ∀ c f, f < 2 → ((coreBarDone k core).run s).flock k c f
          = if c = core then (s.flock k c f).released else s.flock k c f := by
  have hrun : (coreBarDone k core).run s = (forAll [2 * core, 2 * core + 1] fun x => barGo k (x / 2) (x % 2)).run s := by
    rw [coreBarDone, run_look, run_only, if_pos (by rw [h 0 (by decide), h 1 (by decide)]; rfl), run_forAll_cons, run_forAll_cons, run_forAll_nil,
      show 2 * core / 2 = core by omega, show 2 * core % 2 = 0 by omega, show (2 * core + 1) / 2 = core by omega, show (2 * core + 1) % 2 = 1 by omega]
    rfl
  obtain ⟨⟨hsame, -⟩, hflock⟩ := release_all k [2 * core, 2 * core + 1] s
  rw [hrun]
  refine ⟨hsame, fun c f hf => ?_⟩
  rw [hflock c f hf]
  exact if_congr (by simp only [List.mem_cons, List.not_mem_nil, or_false]; omega) rfl rfl

/-- A core has two flocks. -/
theorem flock_of_ne_zero (s : Dev) {k c f : Nat} (h : f ≠ 0) : s.flock k c f = s.flock k c 1 := by
  rw [Dev.flock, ThCore.flock, if_neg h]; rfl

theorem atBar_iff (x : Flock) : x.atBar = true ↔ x.st = .wait ∧ ∃ v, x.wait = some v ∧ v.op = 7 := by
  cases hw : x.wait <;> simp [Flock.atBar, hw]

theorem atCoreBar_of {x : Flock} (h : x.st = .wait ∧ ∃ v, x.wait = some v ∧ v.op = 7 ∧ fM v.w.toNat = 0) : x.atCoreBar = true := by
  obtain ⟨hst, v, hw, hop, hm⟩ := h
  simp [Flock.atCoreBar, hst, hw, hop, hm]

/-- Settles O13: BAR waits or arrives, and a complete round lets its flocks go on. -/
theorem barriers : Obligations.Barriers := by
  refine ⟨fun s a h hp hok => ?_, fun s k core n => ?_⟩
  · have hlegal : (predZero a.w && regOk .no .g .g [0, 1] a.w) = true := by rw [hok, predZero, decide_eq_true hp]; rfl
    have hbad (t : Dev) (ht : s.m.fetched t a) (hb : barBody a (s.m.flockOf a) = thBad a 3 0) :
        (look fun s => barBody a (s.flockOf a)).run t = (thDie a.k a.core a.f 3 0 ((s.m.flockOf a).firstExec a.w) false 0).run t := by
      rw [bar_run ht, hb, thBad_run ht.flock]
    refine ⟨fun hm => ?_, fun hm n c hex hv => ⟨fun hc hc' hopen hme hcount => ?_, fun hc => ?_, fun hc hc' hopen hme hne hcount => ?_⟩, fun hm hdiff => ?_⟩
    · refine issues_of_runs h (exec_bar a s) rfl (by decide) hlegal fun t ht => ⟨_, bar_run ht, ?_⟩
      rw [barBody_core hm]
      obtain ⟨hsame, hflock, hregs⟩ := ht.flockIs.wait 7 (s.m.flockOf a).first 0 R.TH_WAIT_SYNC
      exact ⟨(once_thWait ..).trans ht.once, hsame, ⟨_, rfl, word_of_w a, hflock⟩, hregs⟩
    · have hcount : ((s.m.cl a.k).barrier n).arrived ≠ [] → ((s.m.cl a.k).barrier n).count = c := hcount
      refine issues_of_runs h (exec_bar a s) rfl (by decide) hlegal fun t ht => ⟨_, bar_run ht, ?_⟩
      rw [barBody_arrive ht.flock hm hex hv hc hc' (ht.barrier n ▸ hopen) (ht.barrier n ▸ hme), ht.barrier, if_neg (by simpa using hcount)]
      obtain ⟨hflock, hregs, hbars, ⟨hother, hcls⟩, honce⟩ := arrived_run ht n ⟨c, ((s.m.cl a.k).barrier n).arrived ++ [2 * a.core + a.f]⟩ (s.m.flockOf a).first
      exact ⟨honce, ⟨⟨_, rfl, word_of_w a, hflock⟩, hregs⟩, (hbars n).trans (if_pos rfl), fun n' hn' => (hbars n').trans (if_neg hn'), hother, hcls⟩
    · refine issues_raised_of_body h (exec_bar a s) rfl (by decide) hlegal (by decide) (by decide) fun t ht => hbad t ht (barBody_bad hm fun v hall => ?_)
      obtain ⟨i, r, hi⟩ := List.exists_cons_of_ne_nil hex
      have hmem : i ∈ (s.m.flockOf a).exec a.w := hi ▸ List.mem_cons_self
      have hvc : v.2 = c := by rw [← hall i hmem]; exact (hv i hmem).2
      omega
    · have hne : ((s.m.cl a.k).barrier n).arrived ≠ [] := hne
      have hcount : ((s.m.cl a.k).barrier n).count ≠ c := hcount
      refine issues_raised_of_body h (exec_bar a s) rfl (by decide) hlegal (by decide) (by decide) fun t ht => ?_
      refine (bar_run ht).trans ?_
      rw [barBody_arrive ht.flock hm hex hv hc hc' (ht.barrier n ▸ hopen) (ht.barrier n ▸ hme), ht.barrier,
        if_pos (by simpa using And.intro hne hcount), thBad_run ht.flock]
    · refine issues_raised_of_body h (exec_bar a s) rfl (by decide) hlegal (by decide) (by decide) fun t ht => hbad t ht (barBody_bad hm fun v hall => ?_)
      obtain ⟨i, j, hi, hj, hne⟩ := hdiff
      obtain ⟨hA, hB⟩ := Prod.ext_iff.mp ((hall i hi).trans (hall j hj).symm)
      exact absurd hne (not_or.mpr ⟨not_not.mpr hA, not_not.mpr (BitVec.eq_of_toNat_eq hB)⟩)
  · refine ⟨fun hpos hfull => ?_, fun hboth => ?_⟩
    · refine completes_of (exec_barrierComplete k core false n s) ?_
      obtain ⟨hsame, hbar, hflock⟩ := barrierDone_ends hpos hfull
      refine ⟨hsame, hbar, fun c f hf => ⟨fun hat hin => ?_, fun hout => ?_⟩⟩
      · exact (hflock c f hf).trans ((if_pos hin).trans (if_pos ((atBar_iff _).mpr hat)))
      · exact (hflock c f hf).trans (if_neg hout)
    · refine completes_of (exec_barrierComplete k core true n s) ?_
      obtain ⟨hsame, hflock⟩ := coreBarDone_ends (s := s.m) fun f hf => atCoreBar_of (hboth f hf)
      refine ⟨hsame, fun f hf => ?_, fun c f hc => ?_⟩
      · obtain ⟨hst, v, hw, hop, -⟩ := hboth f hf
        exact ((hflock core f hf).trans (if_pos rfl)).trans (if_pos ((atBar_iff _).mpr ⟨hst, v, hw, hop⟩))
      · have hother (m : Nat) (hm : m < 2) := (hflock c m hm).trans (if_neg hc)
        by_cases hf : f = 0
        · rw [hf]; exact hother 0 (by decide)
        · exact (flock_of_ne_zero _ hf).trans ((hother 1 (by decide)).trans (flock_of_ne_zero _ hf).symm)

end Sys2Proof.Machine
end

section
/-! SUPPORT. Instructions that take effect thread by thread (R259, R266): what a thread finds, and how the last one ends the instruction. -/

namespace Sys2Proof.Machine

/-! ### What a thread finds -/

/-- What one thread of an instruction finds: the caches of code and the order of the translations alone have changed. -/
structure Dev.begun (s t : Dev) (a : ThOp) : Prop where
  same : s.sameButFlock t a
  parts : s.sameBut t [.clusters]
  flock : t.flockOf a = s.flockOf a
  tlb : (s.cl a.k).tlb.Perm (t.cl a.k).tlb

/-- What does not depend on the clusters stands. -/
theorem Dev.begun.outside {α : Type} {s t : Dev} {a : ThOp} (h : s.begun t a) (f : Dev → α) (hf : ∀ u : Dev, f { u with clusters := [] } = f u) : f t = f s := by
  have hp : { t with clusters := [] } = { s with clusters := [] } := h.parts
  rw [← hf t, hp, hf]

theorem Dev.begun.regAt {s t : Dev} {a : ThOp} (h : s.begun t a) (A : Nat) : t.regAt A = s.regAt A := h.outside (fun u => u.regAt A) fun _ => rfl

theorem Dev.begun.die {s t : Dev} {a : ThOp} (h : s.begun t a) (d : Nat) : t.die d = s.die d := h.outside (fun u => u.die d) fun _ => rfl

theorem Dev.begun.flockIs {s t : Dev} {a : ThOp} (h : s.begun t a) (ho : (s.die (a.k / 168)).once = []) : s.flockIs t a (s.flockOf a) :=
  ⟨h.same, h.flock, h.regAt, by rw [h.die]; exact ho⟩

/-- The data cache of the flock's core stands. -/
theorem dcacheOf_of_sameButFlock {s t : Dev} {a : ThOp} (h : s.sameButFlock t a) : t.dcacheOf a = s.dcacheOf a := by
  obtain ⟨-, -, -, -, hcore, -⟩ := h
  exact (congrArg (fun c : ThCore => c.dcache) hcore : _)

theorem begun_refl (s : Dev) (a : ThOp) : s.begun s a := ⟨⟨rfl, fun _ _ => rfl, rfl, fun _ _ => rfl, rfl, rfl⟩, sameBut_refl _ _, rfl, List.Perm.refl _⟩

theorem Dev.begun.trans {s t u : Dev} {a : ThOp} (h : s.begun t a) (g : t.begun u a) : s.begun u a :=
  ⟨sameButFlock_trans h.same g.same, sameBut_trans h.parts g.parts, g.flock.trans h.flock, h.tlb.trans g.tlb⟩

theorem Dev.fetched.begun {s t : Dev} {a : ThOp} (h : s.fetched t a) : s.begun t a :=
  ⟨h.same, h.parts, h.flock, by rw [h.tlb]; exact tlbTouch_perm ..⟩

/-- Setting a flock's state to what it is. -/
theorem begun_onFlock (s : Dev) (a : ThOp) {g : Flock → Flock} (hg : g (s.flockOf a) = s.flockOf a) : s.begun ((onFlock a.k a.core a.f g).run s) a where
  same := sameButFlock_onFlock ..
  parts := sameBut_onCore ..
  flock := by rw [flockOf_onFlock, hg]
  tlb := by rw [tlb_onFlock]

/-- The most recently used translations change their order alone. -/
theorem begun_touchPages (s : Dev) (a : ThOp) (l : List VAcc) : s.begun ((touchPages (a.k / 168) (a.k % 168) l).run s) a := by
  rw [touchPages_run]
  refine ⟨sameButFlock_tlb .., sameBut_apply_cl .., ?_, ?_⟩
  · simp only [Dev.flockOf, Dev.flock, cl_apply, if_true]; rfl
  · rw [cl_apply, if_pos rfl]; exact tlbTouches_perm ..

/-! ### Translation and reach, as a thread finds them -/

theorem Dev.begun.tlbFind {s t : Dev} {a : ThOp} (h : s.begun t a) (hapart : tlbApart (s.cl a.k).tlb = true) (va : Nat) :
    Machine.tlbFind (t.cl a.k).tlb va = Machine.tlbFind (s.cl a.k).tlb va := tlbFind_perm ((tlbApart_iff _).mp hapart) h.tlb va

theorem Dev.begun.xlate {s t : Dev} {a : ThOp} (h : s.begun t a) (hapart : tlbApart (s.cl a.k).tlb = true) (va access : Nat) :
    t.xlate (a.k / 168) (a.k % 168) va access = s.xlate (a.k / 168) (a.k % 168) va access := by
  have hon : t.dmmuOn = s.dmmuOn := h.outside (fun u => u.dmmuOn) fun _ => rfl
  simp only [Dev.xlate, if_pos (show a.k % 168 < 168 from Nat.mod_lt _ (by decide)), ck_div_mod, h.tlbFind hapart, hon, h.die]

theorem Dev.begun.reachFor {s t : Dev} {a : ThOp} (h : s.begun t a) (dpa n access : Nat) : t.reachFor dpa n access = s.reachFor dpa n access :=
  h.outside (fun u => u.reachFor dpa n access) fun _ => rfl

/-! ### The last thread -/

/-- The parts that an access to memory changes, the flock standing where it is. -/
structure Dev.midway (s t : Dev) (a : ThOp) : Prop where
  core : s.sameButCore t a
  flock : t.flockOf a = s.flockOf a
  once : (t.die (a.k / 168)).once = []

theorem sameButCore_of_sameButFlock {s t : Dev} {a : ThOp} (h : s.sameButFlock t a) : s.sameButCore t a := by
  obtain ⟨hother, hcls, hcl, hcores, hcore, hflock⟩ := h
  exact ⟨(congrArg (fun u : Dev => { u with mem := [], undef := [], drovers := [], free := 0 }) hother : _), hcls, hcl, hcores,
    (congrArg (fun c : ThCore => { c with dcache := [] }) hcore : _), hflock⟩

theorem sameButCore_trans {s t u : Dev} {a : ThOp} (h : s.sameButCore t a) (g : t.sameButCore u a) : s.sameButCore u a := by
  obtain ⟨hother, hcls, hcl, hcores, hcore, hflock⟩ := h
  obtain ⟨gother, gcls, gcl, gcores, gcore, gflock⟩ := g
  exact ⟨gother.trans hother, fun k hk => (gcls k hk).trans (hcls k hk), gcl.trans hcl, fun n hn => (gcores n hn).trans (hcores n hn),
    gcore.trans hcore, gflock.trans hflock⟩

theorem Dev.begun.midway {s t : Dev} {a : ThOp} (h : s.begun t a) (ho : (s.die (a.k / 168)).once = []) : s.midway t a :=
  ⟨sameButCore_of_sameButFlock h.same, h.flock, by rw [h.die]; exact ho⟩

/-- What the last thread makes of what `w` left: the instruction is complete, and TH_ISSUED counts it. -/
structure Dev.passed (s w t : Dev) (a : ThOp) (i : Nat) (g : Thread → Thread) : Prop where
  finished : s.finished t a i g
  same : w.sameButFlock t a
  regs : ∀ A, t.regAt A = if A = counterOf a R.TH_ISSUED then satAdd (w.regAt A) 1 else w.regAt A

/-- Where the last thread ends the instruction. -/
structure Dev.ends (s w t : Dev) (a : ThOp) (i : Nat) (g : Thread → Thread) : Prop extends s.passed w t a i g where
  core : s.sameButCore t a

theorem thDone_state (x : Flock) (i : Nat) (g : Thread → Thread) : ({ x.setThr i (g (x.thr i)) with done := x.done ||| 2 ^ i } : Flock).st = x.st := rfl

theorem passed_of_thDone {s w : Dev} {a : ThOp} (h : w.flockOf a = { s.flockOf a with st := .run }) (i : Nat) (g : Thread → Thread) :
    s.passed w ((thNext a.k a.core a.f ((s.flockOf a).pc + 4)).run ((thDone a i g).run w)) a i g := by
  refine ⟨?_, ?_, fun A => ?_⟩
  · rw [thNext_run]
    unfold Dev.finished
    rw [flockOf_reg, flockOf_onFlock, thDone, flockOf_onFlock, h]
    exact ⟨fun j => thr_setThr .., rfl⟩
  · rw [thNext_run]
    exact sameButFlock_trans (sameButFlock_onFlock ..) (sameButFlock_trans (sameButFlock_onFlock ..) (sameButFlock_reg ..))
  · rw [regAt_next (s := (thDone a i g).run w) a _ fun _ => rfl]
    split
    next hA => rw [hA]; rfl
    next => rfl

/-! ### Threads in turn (R266) -/

/-- What thread `i` does if the flock still runs. -/
def thTurn (a : ThOp) (each : Nat → Prog) (i : Nat) : Prog := look fun s => only ((s.flockOf a).st == .run) (each i)

/-- After the last thread the flock goes on, if it still runs. -/
def thLast (a : ThOp) (pc : Nat) : Prog := look fun s => only ((s.flockOf a).st == .run) (thNext a.k a.core a.f (pc + 4))

theorem thTurn_run {a : ThOp} {each : Nat → Prog} {i : Nat} {s : Dev} (h : (s.flockOf a).st = .run) : (thTurn a each i).run s = (each i).run s := by
  rw [thTurn, run_look, run_only, if_pos (by rw [h]; rfl)]

theorem thTurn_run_stopped {a : ThOp} {each : Nat → Prog} {i : Nat} {s : Dev} (h : (s.flockOf a).st ≠ .run) : (thTurn a each i).run s = s := by
  rw [thTurn, run_look, run_only, if_neg (by simpa using h)]

theorem thLast_run {a : ThOp} {pc : Nat} {s : Dev} (h : (s.flockOf a).st = .run) : (thLast a pc).run s = (thNext a.k a.core a.f (pc + 4)).run s := by
  rw [thLast, run_look, run_only, if_pos (by rw [h]; rfl)]

theorem thLast_run_stopped {a : ThOp} {pc : Nat} {s : Dev} (h : (s.flockOf a).st ≠ .run) : (thLast a pc).run s = s := by
  rw [thLast, run_look, run_only, if_neg (by simpa using h)]

theorem thTurns_run_stopped {a : ThOp} {each : Nat → Prog} {l : List Nat} {s : Dev} (h : (s.flockOf a).st ≠ .run) : (forAll l (thTurn a each)).run s = s := by
  induction l with
  | nil => rfl
  | cons i r ih => rw [run_forAll_cons, thTurn_run_stopped h, ih]

/-- The one thread left takes effect, and the flock goes on, also where it waited. -/
theorem thSeq_passed {s t w : Dev} {a : ThOp} {each : Nat → Prog} {i : Nat} {g : Thread → Thread} (hf : t.flockOf a = s.flockOf a) (htodo : s.todo a = [i])
    (hrun : (each i).run ((onFlock a.k a.core a.f fun y => { y with st := .run }).run t) = (thDone a i g).run w)
    (hw : w.flockOf a = { s.flockOf a with st := .run }) :
    s.passed w ((thSeq a each).run t) a i g ∧ ∀ d, ((thSeq a each).run t).die d = w.die d := by
  have hseq : (thSeq a each).run t
      = (thLast a (s.flockOf a).pc).run ((forAll (s.todo a) (thTurn a each)).run ((onFlock a.k a.core a.f fun y => { y with st := .run }).run t)) := by
    rw [thSeq, run_look, hf]; rfl
  have hrunning : (((thDone a i g).run w).flockOf a).st = .run := by rw [thDone, flockOf_onFlock, thDone_state, hw]
  rw [hseq, htodo, run_forAll_cons, run_forAll_nil, thTurn_run (by rw [flockOf_onFlock]), hrun, thLast_run hrunning]
  exact ⟨passed_of_thDone hw i g, fun d => by rw [thNext_run, die_reg, die_onFlock, thDone, die_onFlock]⟩

/-- The one thread left stops the flock, also where it waited. -/
theorem thSeq_stop {s t : Dev} {a : ThOp} {each : Nat → Prog} {i : Nat} (hf : t.flockOf a = s.flockOf a) (htodo : s.todo a = [i])
    (hstop : (((each i).run ((onFlock a.k a.core a.f fun y => { y with st := .run }).run t)).flockOf a).st ≠ .run) :
    (thSeq a each).run t = (each i).run ((onFlock a.k a.core a.f fun y => { y with st := .run }).run t) := by
  have hseq : (thSeq a each).run t
      = (thLast a (s.flockOf a).pc).run ((forAll (s.todo a) (thTurn a each)).run ((onFlock a.k a.core a.f fun y => { y with st := .run }).run t)) := by
    rw [thSeq, run_look, hf]; rfl
  rw [hseq, htodo, run_forAll_cons, run_forAll_nil, thTurn_run (by rw [flockOf_onFlock]), thLast_run_stopped hstop]

/-- The threads of an instruction begin on a flock that runs. -/
theorem thSeq_run {s t : Dev} {a : ThOp} (ht : s.fetched t a) (hst : (s.flockOf a).st = .run) (each : Nat → Prog) :
    ∃ u, s.begun u a ∧ (thSeq a each).run t = (thLast a (s.flockOf a).pc).run ((forAll (s.todo a) (thTurn a each)).run u) := by
  refine ⟨(onFlock a.k a.core a.f fun y => { y with st := .run }).run t, ht.begun.trans (begun_onFlock t a ?_), ?_⟩
  · rw [ht.flock, ← hst]
  · rw [thSeq, run_look, ht.flock]; rfl

section
variable {c : Instr} {s : State} {a : ThOp} {op pipe i : Nat} {ok : Bool} {each : Nat → Prog} {P : Dev → Prop}

/-- An instruction whose last thread takes effect, whatever it changes. -/
theorem issues_of_passed (h : s.m.stands a) (he : exec c s = s.perform (thStep a op pipe ok (thSeq a each))) (ho : c.opcode = op) (hd : opDefined op = true)
    (hok : ok = true) (htodo : s.m.todo a = [i]) (g : Thread → Thread)
    (hb : ∀ u, s.m.begun u a → ∃ w, (each i).run u = (thDone a i g).run w ∧ w.flockOf a = s.m.flockOf a ∧ (w.die (a.k / 168)).once = []
      ∧ ∀ t, s.m.passed w t a i g → P t) : issues c s a P := by
  obtain ⟨-, hst, -⟩ := id h
  have hrun : { s.m.flockOf a with st := .run } = s.m.flockOf a := by rw [← hst]
  refine issues_of_body h he ho hd hok fun t ht => ?_
  obtain ⟨w, hw, hflock, honce, hP⟩ := hb _ (ht.begun.trans (begun_onFlock t a (g := fun y => { y with st := .run }) (by rw [ht.flock]; exact hrun)))
  obtain ⟨hpassed, hdie⟩ := thSeq_passed ht.flock htodo hw (by rw [hflock, hrun])
  exact ⟨by rw [hdie]; exact honce, hP _ hpassed⟩

/-- An instruction whose last thread takes effect. -/
theorem issues_of_last (h : s.m.stands a) (he : exec c s = s.perform (thStep a op pipe ok (thSeq a each))) (ho : c.opcode = op) (hd : opDefined op = true)
    (hok : ok = true) (htodo : s.m.todo a = [i]) (g : Thread → Thread)
    (hb : ∀ u, s.m.begun u a → ∃ w, (each i).run u = (thDone a i g).run w ∧ s.m.midway w a ∧ ∀ t, s.m.ends w t a i g → P t) : issues c s a P := by
  refine issues_of_passed h he ho hd hok htodo g fun u hu => ?_
  obtain ⟨w, hw, hmid, hP⟩ := hb u hu
  exact ⟨w, hw, hmid.flock, hmid.once, fun t ht => hP t ⟨ht, sameButCore_trans hmid.core (sameButCore_of_sameButFlock ht.same)⟩⟩

/-- An instruction whose first thread to take effect stops the flock. -/
theorem issues_of_stop (h : s.m.stands a) (he : exec c s = s.perform (thStep a op pipe ok (thSeq a each))) (ho : c.opcode = op) (hd : opDefined op = true)
    (hok : ok = true) (htodo : (s.m.todo a).head? = some i)
    (hb : ∀ u, s.m.begun u a → ∃ w, (each i).run u = w ∧ (w.flockOf a).st ≠ .run ∧ (w.die (a.k / 168)).once = [] ∧ P w) : issues c s a P := by
  obtain ⟨-, hst, -⟩ := id h
  refine issues_of_body h he ho hd hok fun t ht => ?_
  obtain ⟨u, hu, hrun⟩ := thSeq_run ht hst each
  obtain ⟨w, hw, hstop, honce, hP⟩ := hb u hu
  obtain ⟨r, hr⟩ : ∃ r, s.m.todo a = i :: r := by
    cases hl : s.m.todo a with
    | nil => rw [hl] at htodo; cases htodo
    | cons j r => rw [hl] at htodo; cases htodo; exact ⟨r, rfl⟩
  rw [hrun, hr, run_forAll_cons, thTurn_run (by rw [hu.flock, hst]), hw, thTurns_run_stopped hstop, thLast_run_stopped hstop]
  exact ⟨honce, hP⟩

/-- An instruction whose first thread to take effect raises an exception that kills. -/
theorem issues_raised_of_thread {cause va thread : Nat} {fetch : Bool} (h : s.m.stands a) (he : exec c s = s.perform (thStep a op pipe ok (thSeq a each)))
    (ho : c.opcode = op) (hd : opDefined op = true) (hok : ok = true) (htodo : (s.m.todo a).head? = some i) (hc : cause < 2 ^ 8) (hc' : cause ≠ 0x20)
    (hb : ∀ u, s.m.begun u a → ∃ v, s.m.begun v a ∧ (each i).run u = (thDie a.k a.core a.f cause va thread fetch 0).run v) :
    issues c s a fun t => s.m.raised t a cause (thStatus cause) va thread fetch := by
  have honce : (s.m.die (a.k / 168)).once = [] := h.2.2.2.1.2.2
  refine issues_of_stop h he ho hd hok htodo fun u hu => ?_
  obtain ⟨v, hv, hrun⟩ := hb u hu
  obtain ⟨hstop, hkept⟩ := thDie_still a va thread fetch 0 hc' v
  exact ⟨_, hrun, hstop, hkept _ (by rw [hv.die]; exact honce), raised_thDie 0 hv.flock (fun _ _ => hv.regAt _) hc hc'⟩

/-- An instruction whose first thread to take effect waits. -/
theorem issues_of_wait {off thread va : Nat} (h : s.m.stands a) (he : exec c s = s.perform (thStep a op pipe ok (thSeq a each)))
    (ho : c.opcode = op) (hd : opDefined op = true) (hok : ok = true) (htodo : (s.m.todo a).head? = some i) (op' : Nat)
    (hb : ∀ u, s.m.begun u a → ∃ v, s.m.begun v a ∧ (each i).run u = (thWait a.k a.core a.f op' a.w thread va off).run v) :
    issues c s a fun t => s.m.waitsOn t a op' off ∧ s.m.sameButFlock t a := by
  have honce : (s.m.die (a.k / 168)).once = [] := h.2.2.2.1.2.2
  refine issues_of_stop h he ho hd hok htodo fun u hu => ?_
  obtain ⟨v, hv, hrun⟩ := hb u hu
  have hwait := (hv.flockIs honce).wait op' thread va off
  refine ⟨_, hrun, ?_, ?_, waitsOn_of hwait, hwait.1⟩
  · rw [hwait.2.1]; exact (by decide : FlockSt.wait ≠ .run)
  · rw [once_thWait, hv.die]; exact honce
end

end Sys2Proof.Machine
end

section
/-! SUPPORT. Aligned accesses of a thread that meet nothing (R257, R266), and memory without errors and compressed blocks (R332, R335, R342). -/

namespace Sys2Proof.Machine

/-! ### Aligned accesses -/

/-- An aligned range lies in one of the aligned ranges of a multiple of its length. -/
theorem mod_add_le_of_aligned {x n m : Nat} (h : x % n = 0) (hd : n ∣ m) (hm : 0 < m) : x % m + n ≤ m := by
  have hr : n ∣ x % m := (Nat.dvd_mod_iff hd).mpr (Nat.dvd_of_mod_eq_zero h)
  have hlt : x % m < m := Nat.mod_lt _ hm
  obtain ⟨j, hj⟩ := hr
  obtain ⟨q, rfl⟩ := hd
  have hjq : j < q := Nat.lt_of_mul_lt_mul_left (a := n) (by rw [← hj]; exact hlt)
  calc x % (n * q) + n = n * (j + 1) := by rw [hj, Nat.mul_succ]
    _ ≤ n * q := Nat.mul_le_mul_left n hjq

/-- An aligned range lies in one page. -/
theorem pagePieces_aligned {va n : Nat} (h : va % n = 0) (hn : 0 < n) (hp : n ∣ 65536) : pagePieces va n = [(va, n)] := by
  have hend := mod_add_le_of_aligned h hp (by decide)
  have hpages : (va + n - 1) / 65536 - va / 65536 = 0 := by omega
  rw [pagePieces, if_neg (by omega), hpages]
  simp

theorem vaPieces_aligned {l : List VAcc} (h : ∀ x ∈ l, x.va % x.len = 0 ∧ 0 < x.len ∧ x.len ∣ 65536) : vaPieces l = l := by
  rw [vaPieces, List.flatMap_congr (g := fun x => [x]) fun x hx => ?_]
  · exact List.flatMap_singleton' l
  · obtain ⟨hal, hpos, hdvd⟩ := h x hx
    rw [pagePieces_aligned hal hpos hdvd]; rfl

/-- An aligned access whose page is cached and allows it, where everything can be reached. -/
def Dev.accOk (s : Dev) (a : ThOp) (x : VAcc) : Prop :=
  (x.va % x.len = 0 ∧ 0 < x.len ∧ x.len ∣ 65536)
    ∧ ∃ dpa, s.xlate (a.k / 168) (a.k % 168) x.va x.access = .hit dpa ∧ s.reachFor dpa x.len x.access = .ok

theorem Dev.begun.accOk {s t : Dev} {a : ThOp} {x : VAcc} (h : s.begun t a) (hapart : tlbApart (s.cl a.k).tlb = true) (hx : s.accOk a x) : t.accOk a x := by
  obtain ⟨hal, dpa, hhit, hreach⟩ := hx
  exact ⟨hal, dpa, by rw [h.xlate hapart, hhit], by rw [h.reachFor, hreach]⟩

theorem meets_of_accOk {s : Dev} {a : ThOp} {l : List VAcc} (h : ∀ x ∈ l, s.accOk a x) : s.meets (a.k / 168) (a.k % 168) l = .ok := by
  rw [Dev.meets, vaPieces_aligned fun x hx => (h x hx).1]
  induction l with
  | nil => rfl
  | cons x r ih =>
    obtain ⟨⟨-, dpa, hhit, hreach⟩, hr⟩ := List.forall_mem_cons.mp h
    rw [Dev.meetsPieces, hhit]
    dsimp only
    rw [hreach]
    exact ih hr

/-- What an access's continuation finds. -/
theorem thAccess_run {s : Dev} {a : ThOp} {l : List VAcc} (ho : (s.die (a.k / 168)).once = []) (h : ∀ x ∈ l, s.accOk a x) (op thread : Nat) :
    ∃ u, s.begun u a ∧ ∀ cont : Prog, ((cont.run u).die (a.k / 168)).once = [] → (thAccess a.k a.core a.f op a.w thread l cont).run s = cont.run u := by
  refine ⟨_, begun_touchPages s a l, fun cont hcont => ?_⟩
  have hfill : (fillFromDie (a.k / 168) (a.k % 168) l).run s = s := fillFromDie_hit fun x hx => by
    rw [vaPieces_aligned fun y hy => (h y hy).1] at hx
    obtain ⟨-, dpa, hhit, -⟩ := h x hx
    exact ⟨dpa, hhit⟩
  simp only [thAccess]
  rw [run_seq, hfill, useOnce, run_seq, lendOnce_none ho, run_look, meets_of_accOk h]
  dsimp only
  rw [run_progs_cons, run_progs_cons, run_progs_cons, run_progs_nil]
  exact returnOnce_none hcont _ _ _

theorem thAligned_run {s : Dev} {a : ThOp} {l : List VAcc} (ho : (s.die (a.k / 168)).once = []) (h : ∀ x ∈ l, s.accOk a x) (op thread : Nat) :
    ∃ u, s.begun u a ∧ ∀ cont : Prog, ((cont.run u).die (a.k / 168)).once = [] → (thAligned a op thread l cont).run s = cont.run u := by
  obtain ⟨u, hu, hrun⟩ := thAccess_run ho h op thread
  refine ⟨u, hu, fun cont hcont => ?_⟩
  have hall : l.takeWhile (fun x => decide (2 ^ 48 ≤ x.va) || x.va % x.len = 0) = l :=
    List.takeWhile_eq_self_iff.mpr fun x hx => by simp [(h x hx).1.1]
  simp only [thAligned]
  rw [hall, if_pos rfl]
  exact hrun cont hcont

/-! ### Memory without errors -/

/-- A range of a line that holds no error, its block stored uncompressed. -/
structure Dev.cleanAt (s : Dev) (dpa n : Nat) : Prop where
  place : memPlace dpa = true
  line : dpa + n ≤ dpa / 64 * 64 + 64
  pos : 0 < n
  oneBit : touched s.oneBit (dpa / 64 * 64) 64 = []
  bad : touched s.bad (dpa / 64 * 64) 64 = []
  zc : dpa < stackEnd → (s.stk (s.stackNo (dpa / 256 * 256))).zc = []

section
variable {s t : Dev} {dpa n : Nat}

theorem Dev.cleanAt.congr (h : s.cleanAt dpa n) (ho : t.oneBit = s.oneBit) (hb : t.bad = s.bad) (hk : t.stackTab = s.stackTab)
    (hn : dpa < stackEnd → t.stackNo (dpa / 256 * 256) = s.stackNo (dpa / 256 * 256)) : t.cleanAt dpa n :=
  ⟨h.place, h.line, h.pos, by rw [ho]; exact h.oneBit, by rw [hb]; exact h.bad, fun hs => by rw [Dev.stk, hk, hn hs]; exact h.zc hs⟩

/-- Whether a range is clean hangs on the errors, the stacks and the registers alone. -/
theorem Dev.cleanAt.of_sameBut {l : List Part} (h : s.cleanAt dpa n) (hs : s.sameBut t l) (ho : Part.oneBit ∉ l) (hb : Part.bad ∉ l)
    (hk : Part.stackTab ∉ l) (hr : Part.regs ∉ l) : t.cleanAt dpa n := by
  refine h.congr (hs.oneBit ho) (hs.bad hb) ?_ fun _ => ?_
  · exact hs.field Dev.stackTab .stackTab (fun _ q hq => by cases q with | stackTab => exact absurd rfl hq | _ => rfl) hk
  · rw [Dev.stackNo, Dev.stackNo, Dev.spanMode, Dev.spanMode, Dev.fld, Dev.fld, Dev.reg, Dev.reg, hs.regAt hr]

/-- What touches no unit of a line touches none of a range in it. -/
theorem touched_in_line {l : List Nat} (h : touched l (dpa / 64 * 64) 64 = []) (hn : dpa + n ≤ dpa / 64 * 64 + 64) : touched l dpa n = [] := by
  rw [touched, List.filter_eq_nil_iff] at h ⊢
  intro u hu hin
  refine h u hu ?_
  rw [Bool.and_eq_true, decide_eq_true_iff, decide_eq_true_iff] at hin ⊢
  omega

theorem Dev.cleanAt.readBad (h : s.cleanAt dpa n) : s.readBad dpa n = false := by
  rw [Dev.readBad, touched_in_line h.bad h.line]; rfl

/-- A range in a line lies in one block. -/
theorem zcBlocks_in_line (hpos : 0 < n) (hn : dpa + n ≤ dpa / 64 * 64 + 64) : zcBlocks dpa n = [dpa / 256] := by
  have h : (dpa + n - 1) / 256 - dpa / 256 = 0 := by omega
  rw [zcBlocks, blockStarts, if_neg (Nat.pos_iff_ne_zero.mp hpos), h]
  rfl

/-- A read of a clean range changes nothing. -/
theorem Dev.cleanAt.memTouch (h : s.cleanAt dpa n) : (memTouch dpa n).run s = s := by
  rw [Machine.memTouch, readChecks, run_progs_cons, run_progs_cons, run_progs_nil, run_look, touched_in_line h.oneBit h.line, touched_in_line h.bad h.line]
  rw [run_progs_cons, run_progs_cons, run_progs_nil, run_forAll_nil, run_forAll_nil, zcRead, run_look, run_only, zcBlocks_in_line h.pos h.line]
  split
  next hs =>
    rw [run_forAll_cons, run_forAll_nil]
    dsimp only
    rw [h.zc (of_decide_eq_true hs)]; rfl
  next => rfl

/-- A clean range of a line reads as the whole line does: nothing changes. -/
theorem Dev.cleanAt.wholeLine (h : s.cleanAt dpa n) (hp : memPlace (dpa / 64 * 64) = true) : s.cleanAt (dpa / 64 * 64) 64 := by
  have hline : dpa / 64 * 64 / 64 * 64 = dpa / 64 * 64 := by omega
  have hblock : dpa / 64 * 64 / 256 * 256 = dpa / 256 * 256 := by omega
  refine ⟨hp, by rw [hline], by decide, by rw [hline]; exact h.oneBit, by rw [hline]; exact h.bad, fun hs => ?_⟩
  rw [hblock]
  exact h.zc (by simp only [stackEnd] at *; omega)

/-- The bytes of a range of a stack or a store over the bus. -/
theorem Dev.cleanAt.busRead (h : s.cleanAt dpa n) (got : List Byte → Prog) : (busRead dpa n got).run s = (got (s.bytesAt dpa n)).run s := by
  have hline := h.line
  have hbytes : ((List.range n).map fun i => s.busByte (dpa + i)) = s.bytesAt dpa n :=
    List.map_congr_left fun i hi => busByte_of_not_unit (unitPlace_near h.place (by have := List.mem_range.mp hi; omega)) s
  rw [Machine.busRead, run_look, if_neg (by rw [isReg_of_unitPlace (unitPlace_of_memPlace h.place)]; decide), run_seq, h.memTouch, hbytes]

/-- A write to a clean range changes the memory alone. -/
theorem Dev.cleanAt.busWrite (h : s.cleanAt dpa n) {bs : List Byte} (hbs : bs.length = n) : (busWrite dpa bs).run s = s.apply (.mem dpa bs) := by
  have hwrite : (memWrite dpa bs false).run s = s.apply (.mem dpa bs) := by
    have hmerged : s.zcMerged dpa n = [] := by
      rw [Dev.zcMerged]
      split
      next hs => rw [zcBlocks_in_line h.pos h.line, List.filter_cons, h.zc hs]; simp
      next => rfl
    have hhit (l : List Nat) (hl : touched l (dpa / 64 * 64) 64 = []) : (l.filter fun u => (decide (u < dpa + n) && decide (dpa < u + unitLen u))
        || ([] : List Nat).contains (u / 256)) = [] := by
      simp only [List.contains_nil, Bool.or_false]
      exact touched_in_line hl h.line
    simp only [memWrite]
    rw [run_look, hbs, hmerged, hhit _ h.oneBit, hhit _ h.bad, if_pos h.place]
    rw [run_progs_cons, run_progs_cons, run_progs_cons, run_progs_cons, run_progs_cons, run_progs_nil, run_forAll_nil, run_forAll_nil, run_forAll_nil, run_upd,
      run_only, zcBlocks_in_line h.pos h.line]
    split
    next hs =>
      rw [run_forAll_cons, run_forAll_nil, Bool.false_and, if_neg Bool.false_ne_true, zcWrite, run_look]
      have hnone : ((s.apply (.mem dpa bs)).stk ((s.apply (.mem dpa bs)).stackNo (dpa / 256 * 256))).zc = [] := h.zc (of_decide_eq_true hs)
      dsimp only
      rw [hnone]; rfl
    next => rfl
  have hp := h.place
  rw [memPlace] at hp
  rw [Machine.busWrite]
  split
  case h_1 => exact hwrite
  case h_2 => exact hwrite
  all_goals simp_all

end

end Sys2Proof.Machine
end

section
/-! SUPPORT. Loads and stores of one thread (R251, R258): through the data cache, for a clean range. -/

namespace Sys2Proof.Machine

/-- An access of a thread that meets nothing, as the instruction's thread finds the device. -/
theorem Dev.begun.thAligned_run {s u : Dev} {a : ThOp} {l : List VAcc} (hu : s.begun u a) (ho : (s.die (a.k / 168)).once = [])
    (hapart : tlbApart (s.cl a.k).tlb = true) (h : ∀ x ∈ l, s.accOk a x) (op thread : Nat) :
    ∃ v, s.begun v a ∧ ∀ cont : Prog, ((cont.run v).die (a.k / 168)).once = [] → (thAligned a op thread l cont).run u = cont.run v := by
  obtain ⟨v, hv, hrun⟩ := Machine.thAligned_run (l := l) (by rw [hu.die]; exact ho) (fun x hx => hu.accOk hapart (h x hx)) op thread
  exact ⟨v, hu.trans hv, hrun⟩

theorem once_thDone {w : Dev} {a : ThOp} (h : (w.die (a.k / 168)).once = []) (i : Nat) (g : Thread → Thread) :
    (((thDone a i g).run w).die (a.k / 168)).once = [] := by rw [thDone, die_onFlock]; exact h

theorem stands_once {s : Dev} {a : ThOp} (h : s.stands a) : (s.die (a.k / 168)).once = [] := by
  obtain ⟨-, -, -, ⟨-, -, honce⟩, -⟩ := h
  exact honce

section
variable {s u : Dev} {a : ThOp} {va n acc dpa : Nat}

/-! ### Accesses as the claims state them -/

theorem Dev.dataAt.cleanAt (h : s.dataAt a va n acc dpa) (hd : n ∣ 64) : s.cleanAt dpa n := by
  obtain ⟨-, -, -, hal, hplace, -, hone, hbad, hzc⟩ := h
  have hpos : 0 < n := Nat.pos_of_dvd_of_pos hd (by decide)
  have hend := mod_add_le_of_aligned hal hd (by decide)
  exact ⟨hplace, by omega, hpos, hone, hbad, hzc⟩

theorem Dev.dataAt.apart (h : s.dataAt a va n acc dpa) : tlbApart (s.cl a.k).tlb = true := h.1

/-- What lies in memory is not the MRAM. -/
theorem reachFor_of_memPlace (hp : memPlace dpa = true) (s : Dev) (n acc : Nat) : s.reachFor dpa n acc = s.reachRange dpa n := by
  unfold memPlace at hp
  unfold Dev.reachFor
  cases hpl : place dpa <;> simp_all

theorem Dev.dataAt.accOk (h : s.dataAt a va n acc dpa) (hd : n ∣ 64) : s.accOk a ⟨va, n, acc⟩ := by
  obtain ⟨-, hva, hx, -, hplace, hreach, -⟩ := h
  exact ⟨⟨hva, Nat.pos_of_dvd_of_pos hd (by decide), hd.trans (by decide)⟩, dpa, hx, by rw [reachFor_of_memPlace hplace, hreach]⟩

/-- A cached page gives the DPA. -/
theorem Dev.begun.thDpa (hu : s.begun u a) (h : s.dataAt a va n acc dpa) : u.thDpa a va = dpa := by
  have hk : a.k % 168 < 168 := Nat.mod_lt _ (by decide)
  obtain ⟨e, hf, he, -⟩ := xlate_hit_find ((hu.xlate h.apart va acc).trans h.2.2.1) hk
  rw [Dev.thDpa, dpaOf_of_find hk hf, he]

theorem Dev.begun.cleanAt (hu : s.begun u a) (h : s.cleanAt dpa n) : u.cleanAt dpa n :=
  h.of_sameBut hu.parts (by decide) (by decide) (by decide) (by decide)

theorem Dev.begun.bytesAt (hu : s.begun u a) (x m : Nat) : u.bytesAt x m = s.bytesAt x m := hu.outside (fun v => v.bytesAt x m) fun _ => rfl

theorem Dev.begun.dcacheOf (hu : s.begun u a) : u.dcacheOf a = s.dcacheOf a := dcacheOf_of_sameButFlock hu.same

theorem Dev.begun.sameMemory (hu : s.begun u a) : s.sameMemory u := ⟨hu.outside (fun v => v.mem) fun _ => rfl, hu.outside (fun v => v.undef) fun _ => rfl⟩

theorem Dev.begun.drovers (hu : s.begun u a) : u.drovers = s.drovers := hu.outside (fun v => v.drovers) fun _ => rfl

/-! ### The data cache -/

theorem sameButCore_dcache (s : Dev) (a : ThOp) (g : ThCore → List (Nat × List Byte)) :
    s.sameButCore ((onCore a.k a.core fun x => { x with dcache := g x }).run s) a := by
  refine ⟨rfl, fun k hk => ?_, ?_, fun n hn => ?_, ?_, ?_⟩
  · simp only [onCore, onCl, run_look, run_upd, cl_apply, if_neg hk]
  · simp only [onCore, onCl, run_look, run_upd, cl_apply, if_true]
  · rw [core_onCore, if_neg (fun h => hn h.2)]
  · rw [core_onCore, if_pos ⟨rfl, rfl⟩]
  · simp only [Dev.flock]; rw [core_onCore, if_pos ⟨rfl, rfl⟩]; rfl

theorem flockOf_onDcache (s : Dev) (a : ThOp) (g : ThCore → List (Nat × List Byte)) :
    ((onCore a.k a.core fun x => { x with dcache := g x }).run s).flockOf a = s.flockOf a := by
  simp only [Dev.flockOf, Dev.flock]; rw [core_onCore, if_pos ⟨rfl, rfl⟩]; rfl

theorem dcacheOf_onDcache (s : Dev) (a : ThOp) (g : ThCore → List (Nat × List Byte)) :
    ((onCore a.k a.core fun x => { x with dcache := g x }).run s).dcacheOf a = g ((s.cl a.k).core a.core) := by
  rw [Dev.dcacheOf, core_onCore, if_pos ⟨rfl, rfl⟩]

theorem sameButCore_fresh (s : Dev) (a : ThOp) : s.sameButCore (s.apply .fresh) a := ⟨rfl, fun _ _ => rfl, rfl, fun _ _ => rfl, rfl, rfl⟩

theorem flockOf_fresh (s : Dev) (a : ThOp) : (s.apply .fresh).flockOf a = s.flockOf a := rfl

/-- A filled line stands first; the cache grows by one line at most. -/
theorem dcachePut_head (v : Nat) (l : List (Nat × List Byte)) (line : Nat) (b : List Byte) :
    (dcachePut v l line b).head? = some (line, b) ∧ (dcachePut v l line b).length ≤ l.length + 1 := by
  refine ⟨rfl, ?_⟩
  simp only [dcachePut, List.length_cons]
  split
  · exact Nat.succ_le_succ (List.length_eraseIdx_le ..)
  · exact Nat.succ_le_succ (List.length_eraseIdx_le ..)

/-! ### Loads -/

/-- What a load leaves before its thread takes the bytes: a miss is counted and fills the line. -/
structure Dev.loadsFrom (s w : Dev) (a : ThOp) (dpa : Nat) : Prop where
  midway : s.midway w a
  memory : s.sameMemory w
  drovers : w.drovers = s.drovers
  regs : ∀ A, w.regAt A = if A = counterOf a R.TH_DCACHE_MISS then satAdd (s.regAt A) (b2n (s.loadMisses a dpa)) else s.regAt A
  dcache : if s.loadMisses a dpa then (w.dcacheOf a).head? = some (dpa / 64 * 64, s.bytesAt (dpa / 64 * 64) 64) ∧ (w.dcacheOf a).length ≤ (s.dcacheOf a).length + 1
    else w.dcacheOf a = s.dcacheOf a

theorem satAdd_zero (s : Dev) (A : Nat) : satAdd (s.regAt A) 0 = s.regAt A := by
  have := regAt_lt s A
  simp only [satAdd]; omega

/-- A load that finds its bytes changes nothing. -/
theorem Dev.begun.loadsFrom (hu : s.begun u a) (ho : (s.die (a.k / 168)).once = []) (hm : s.loadMisses a dpa = false) : s.loadsFrom u a dpa where
  midway := hu.midway ho
  memory := hu.sameMemory
  drovers := hu.drovers
  regs := fun A => by rw [hm, show b2n false = 0 from rfl, satAdd_zero, ite_self, hu.regAt]
  dcache := by rw [hm]; exact hu.dcacheOf

/-- The registers of the spans are not those of a thread core. -/
theorem span_ne_counterOf (a : ThOp) {off x : Nat} (hoff : off < 0x100) (hx : x < 0x1000) : regAddr .span 20 0 x ≠ counterOf a off := by
  have hd := die_lt a
  have hc := core_lt a
  simp only [counterOf, regAddr, blockBase, clRegBase, regBase, aocBase]
  omega

/-- The stack of an address does not hang on the counters of a thread core. -/
theorem stackNo_thTally (hs : dpa < stackEnd) (a : ThOp) {off : Nat} (hoff : off < 0x100) (u : Dev) :
    ((thTally a.k a.core off 1).run u).stackNo (dpa / 256 * 256) = u.stackNo (dpa / 256 * 256) := by
  have hx : 4 * (dpa / 256 * 256 / 2 ^ 35) < 0x1000 := by simp only [stackEnd] at hs; omega
  have hne := span_ne_counterOf a hoff hx
  rw [Dev.stackNo, Dev.stackNo, Dev.spanMode, Dev.spanMode, Dev.fld, Dev.fld, Dev.reg, Dev.reg, regAt_thTally, if_neg hne]

theorem thTally_run (a : ThOp) (off : Nat) (t : Dev) :
    (thTally a.k a.core off 1).run t = t.apply (.reg (counterOf a off) (satAdd (t.regAt (counterOf a off)) 1)) := rfl

theorem stackNo_fresh (v : Dev) (x : Nat) : (v.apply .fresh).stackNo x = v.stackNo x := rfl

theorem bytesAt_fresh (v : Dev) (x m : Nat) : (v.apply .fresh).bytesAt x m = v.bytesAt x m := rfl

/-- Filling a clean line changes the data cache and the count of free choices alone. -/
theorem fillLine_run {v : Dev} {line : Nat} (hc : v.cleanAt line n) (hline : n = 64) (k core : Nat) : (fillLine k core line).run v
    = (onCore k core fun x => { x with dcache := dcachePut (Config.freeNat v.free) x.dcache line (v.bytesAt line 64) }).run (v.apply .fresh) := by
  have hclean : (v.apply .fresh).cleanAt line 64 := hline ▸ hc.congr rfl rfl rfl fun _ => stackNo_fresh ..
  rw [fillLine, withFree_run, run_look, run_seq, hclean.memTouch, bytesAt_fresh]

/-- What filling a line leaves beside the data cache. -/
theorem midway_filled {v : Dev} (g : ThCore → List (Nat × List Byte)) (hv : s.midway v a) :
    s.midway ((onCore a.k a.core fun x => { x with dcache := g x }).run (v.apply .fresh)) a where
  core := sameButCore_trans hv.core (sameButCore_trans (sameButCore_fresh v a) (sameButCore_dcache ..))
  flock := by rw [flockOf_onDcache, flockOf_fresh, hv.flock]
  once := hv.once

/-- A load that misses counts the miss and fills the line. -/
theorem loadsFrom_miss (hu : s.begun u a) (ho : (s.die (a.k / 168)).once = []) (hm : s.loadMisses a dpa = true) (hc : s.cleanAt dpa n) :
    ∃ w, s.loadsFrom w a dpa ∧ (fillLine a.k a.core (dpa / 64 * 64)).run ((thTally a.k a.core R.TH_DCACHE_MISS 1).run u) = w := by
  obtain ⟨hstack, -⟩ := Bool.and_eq_true_iff.mp hm
  have hs : dpa < stackEnd := of_decide_eq_true hstack
  have hline : dpa / 64 * 64 < stackEnd := lt_of_le_of_lt (Nat.div_mul_le_self ..) hs
  obtain ⟨v, hv⟩ : ∃ v, v = (thTally a.k a.core R.TH_DCACHE_MISS 1).run u := ⟨_, rfl⟩
  have hvu : u.sameBut v [.regs] := by rw [hv, thTally_run]; exact sameBut_apply ..
  have hvf : u.sameButFlock v a := by rw [hv]; exact sameButFlock_tally ..
  have hvregs (A : Nat) : v.regAt A = if A = counterOf a R.TH_DCACHE_MISS then satAdd (s.regAt A) 1 else s.regAt A := by rw [hv, regAt_thTally, hu.regAt]
  have hvclean : v.cleanAt dpa n := by
    refine (hu.cleanAt hc).congr (hvu.oneBit (by decide)) (hvu.bad (by decide)) ?_ fun _ => ?_
    · exact hvu.field Dev.stackTab .stackTab (fun _ q hq => by cases q with | stackTab => exact absurd rfl hq | _ => rfl) (by decide)
    · rw [hv]; exact stackNo_thTally hs a (by decide) u
  have hlclean := hvclean.wholeLine ((memPlace_iff _).mpr (.inl hline))
  have hbytes : v.bytesAt (dpa / 64 * 64) 64 = s.bytesAt (dpa / 64 * 64) 64 := by
    rw [← hu.bytesAt]
    refine List.map_congr_left fun i hi => ?_
    exact hvu.byteAt (by decide) (by decide) (isReg_of_unitPlace (unitPlace_near hlclean.place (by have := List.mem_range.mp hi; omega)))
  have hvmid : s.midway v a := by
    refine ⟨sameButCore_of_sameButFlock (sameButFlock_trans hu.same hvf), ?_, ?_⟩
    · rw [hv, thTally, flockOf_tally, hu.flock]
    · rw [hvu.die (by decide), hu.die]; exact ho
  obtain ⟨w, hw⟩ : ∃ w, w = (onCore a.k a.core fun x => { x with
      dcache := dcachePut (Config.freeNat v.free) x.dcache (dpa / 64 * 64) (s.bytesAt (dpa / 64 * 64) 64) }).run (v.apply .fresh) := ⟨_, rfl⟩
  refine ⟨w, ⟨?_, ?_, ?_, fun A => ?_, ?_⟩, ?_⟩
  · rw [hw]; exact midway_filled (fun x => dcachePut (Config.freeNat v.free) x.dcache (dpa / 64 * 64) (s.bytesAt (dpa / 64 * 64) 64)) hvmid
  · rw [hw]
    exact ⟨(hvu.mem (by decide)).trans hu.sameMemory.1, (hvu.undef (by decide)).trans hu.sameMemory.2⟩
  · rw [hw]
    exact (hvu.drovers (by decide)).trans hu.drovers
  · rw [hw, hm]
    exact hvregs A
  · have hdc : (((v.apply .fresh).cl a.k).core a.core).dcache = s.dcacheOf a := (dcacheOf_of_sameButFlock hvf).trans hu.dcacheOf
    rw [hw, dcacheOf_onDcache _ a fun x => dcachePut (Config.freeNat v.free) x.dcache (dpa / 64 * 64) (s.bytesAt (dpa / 64 * 64) 64), hm, if_pos rfl, hdc]
    exact dcachePut_head ..
  · rw [← hv, fillLine_run hlclean rfl, hbytes, hw]

/-- A load of a clean range gives its bytes: those of a present line of the data cache for a stack, else the memory's. -/
theorem thLoad_run (hu : s.begun u a) (ho : (s.die (a.k / 168)).once = []) (hc : s.cleanAt dpa n) (thread va' : Nat) (got : List Byte → Prog) :
    ∃ w, s.loadsFrom w a dpa ∧ (thLoad a thread va' dpa n got).run u = (got (s.loadBytes a dpa n)).run w := by
  have huc := hu.cleanAt hc
  have hlines : u.lineOf a dpa = s.lineOf a dpa := by rw [Dev.lineOf, hu.dcacheOf, ← Dev.lineOf]
  have hfind : ((u.cl a.k).core a.core).dcache.find? (fun e => e.1 == dpa / 64 * 64) = s.lineOf a dpa := hlines
  rw [thLoad, run_look]
  dsimp only
  rw [hfind]
  by_cases hs : dpa < stackEnd
  · rw [if_pos hs]
    cases hl : s.lineOf a dpa with
    | some e =>
      refine ⟨u, hu.loadsFrom ho (by rw [Dev.loadMisses, hl]; simp), ?_⟩
      rw [Dev.loadBytes, hl]
      dsimp only
      rw [if_pos hs, show dpa - dpa / 64 * 64 = dpa % 64 by omega]
    | none =>
      obtain ⟨w, hw, hrun⟩ := loadsFrom_miss hu ho (by rw [Dev.loadMisses, hl, decide_eq_true hs]; rfl) hc
      refine ⟨w, hw, ?_⟩
      have hbad : u.readBad (dpa / 64 * 64) 64 = false := by rw [Dev.readBad, huc.bad]; rfl
      dsimp only
      rw [run_seq, hbad, if_neg Bool.false_ne_true, run_seq, hrun, hu.bytesAt, Dev.loadBytes, hl]
  · refine ⟨u, hu.loadsFrom ho (by rw [Dev.loadMisses, decide_eq_false hs]; rfl), ?_⟩
    rw [if_neg hs, huc.readBad, if_neg Bool.false_ne_true, huc.busRead, hu.bytesAt, Dev.loadBytes]
    cases s.lineOf a dpa with
    | some e => dsimp only; rw [if_neg hs]
    | none => rfl

/-- What the last thread of an access leaves beside the flock and the registers. -/
theorem Dev.ends.outside {w t : Dev} {i : Nat} {g : Thread → Thread} (ht : s.ends w t a i g) {α : Type} (f : Dev → α)
    (hf : ∀ v : Dev, f { v with clusters := [], regs := [] } = f v) : f t = f w := by
  obtain ⟨hother, -⟩ := ht.same
  rw [← hf t, hother, hf]

theorem Dev.ends.sameMemory {w t : Dev} {i : Nat} {g : Thread → Thread} (ht : s.ends w t a i g) (hw : s.sameMemory w) : s.sameMemory t :=
  ⟨(ht.outside (fun v => v.mem) fun _ => rfl).trans hw.1, (ht.outside (fun v => v.undef) fun _ => rfl).trans hw.2⟩

theorem Dev.ends.drovers {w t : Dev} {i : Nat} {g : Thread → Thread} (ht : s.ends w t a i g) : t.drovers = w.drovers :=
  ht.outside (fun v => v.drovers) fun _ => rfl

theorem Dev.ends.dcacheOf {w t : Dev} {i : Nat} {g : Thread → Thread} (ht : s.ends w t a i g) : t.dcacheOf a = w.dcacheOf a :=
  dcacheOf_of_sameButFlock ht.same

/-- Where nothing was counted, TH_ISSUED alone counts. -/
theorem Dev.ends.regsBecome {w t : Dev} {i : Nat} {g : Thread → Thread} (ht : s.ends w t a i g) (hr : ∀ A, w.regAt A = s.regAt A) :
    s.regsBecome t (s.issuedOne a) := by
  refine regsBecome_one _ _ fun A => ?_
  rw [ht.regs, hr]
  split
  next hA => rw [hA]
  next => rfl

/-- A load that ends. -/
theorem Dev.loadsFrom.loaded {w t : Dev} {i : Nat} {g : Thread → Thread} (hw : s.loadsFrom w a dpa) (ht : s.ends w t a i g) : s.loaded t a i dpa g := by
  have hne : counterOf a R.TH_ISSUED ≠ counterOf a R.TH_DCACHE_MISS := fun e => absurd (counterOf_inj e) (by decide)
  refine ⟨ht.core, ht.finished, ht.sameMemory hw.memory, ht.drovers.trans hw.drovers, regsBecome_two hne fun A => ?_, ?_⟩
  · rw [ht.regs, hw.regs]
    by_cases hA : A = counterOf a R.TH_ISSUED
    · rw [if_pos hA, if_pos hA, if_neg (by rw [hA]; exact hne), hA]
    · rw [if_neg hA, if_neg hA]
      split
      next hB => rw [hB]
      next => rfl
  · rw [ht.dcacheOf]
    exact hw.dcache

end

end Sys2Proof.Machine
end

section
/-! SUPPORT. The addresses of memory instructions and the bytes of vector registers (R237, R241, R251). -/

namespace Sys2Proof.Machine

/-! ### Bytes of a number -/

theorem drop_leBytes (n v o : Nat) : (leBytes n v).drop o = leBytes (n - o) (v / 256 ^ o) := by
  induction o generalizing n v with
  | zero => simp
  | succ o ih =>
    cases n with
    | zero => simp [leBytes]
    | succ n => rw [leBytes, List.drop_succ_cons, ih, Nat.add_sub_add_right, Nat.div_div_eq_div_mul, Nat.pow_succ']

theorem take_leBytes {n m : Nat} (v : Nat) (h : m ≤ n) : (leBytes n v).take m = leBytes m v := by
  induction m generalizing n v with
  | zero => simp [leBytes]
  | succ m ih =>
    obtain ⟨n, rfl⟩ : ∃ k, n = k + 1 := ⟨n - 1, by omega⟩
    rw [leBytes, leBytes, List.take_succ_cons, ih _ (by omega)]

theorem getD_leBytes {n i : Nat} (v : Nat) (h : i < n) : (leBytes n v).getD i 0 = BitVec.ofNat 8 (v / 256 ^ i) := by
  induction n generalizing v i with
  | zero => omega
  | succ n ih =>
    cases i with
    | zero => simp [leBytes]
    | succ i => rw [leBytes, List.getD_cons_succ, ih _ (by omega), Nat.div_div_eq_div_mul, Nat.pow_succ']

/-- A piece of the bytes of a number. -/
theorem sliceBytes_leBytes {n o m : Nat} (v : Nat) (h : o + m ≤ n) : sliceBytes (leBytes n v) o m = leBytes m (v / 256 ^ o) := by
  have hpiece : ((leBytes n v).drop o).take m = leBytes m (v / 256 ^ o) := by rw [drop_leBytes, take_leBytes _ (by omega)]
  simp [sliceBytes, hpiece]

theorem leBytes_mod (n v : Nat) : leBytes n (v % 256 ^ n) = leBytes n v := by
  induction n generalizing v with
  | zero => rfl
  | succ n ih =>
    have hlow : BitVec.ofNat 8 (v % 256 ^ (n + 1)) = BitVec.ofNat 8 v :=
      BitVec.eq_of_toNat_eq (Nat.mod_mod_of_dvd v (Dvd.intro_left (256 ^ n) rfl))
    rw [leBytes, leBytes, hlow, Nat.pow_succ', Nat.mod_mul_right_div_self, ih]

/-- The bytes of a lane, as VSTS cuts them. -/
theorem sliceBytes_vBytes (r : Thread) {n m j : Nat} (h : (j + 1) * m ≤ 64) :
    sliceBytes (r.vBytes n) (j * m) m = leBytes m (r.lane (8 * m) n j).toNat := by
  have hend : j * m + m ≤ 64 := by rw [← Nat.succ_mul]; exact h
  have hpow (k : Nat) : 256 ^ k = 2 ^ (8 * k) := by rw [Nat.pow_mul]
  rw [Thread.vBytes, sliceBytes_leBytes _ hend, ← leBytes_mod, lane_toNat, elGet, hpow, hpow, Nat.mul_left_comm, Nat.mul_comm j]

/-- The element of a vector register that its bytes hold. -/
theorem leAt_vBytes (r : Thread) {n m j : Nat} (h : (j + 1) * m ≤ 64) : leAt (r.vBytes n) (j * m) m = (r.lane (8 * m) n j).toNat := by
  have hpow : 256 ^ m = 2 ^ (8 * m) := by rw [Nat.pow_mul]
  rw [leAt, sliceBytes_vBytes r h, leNat_leBytes, hpow, Nat.mod_eq_of_lt (BitVec.isLt _)]

/-! ### Addresses -/

/-- The address of a MEM word (R241). -/
theorem memVa_eq (a : ThOp) (r : Thread) (n : Nat) : memVa r a.w n = memAddr a r n := by
  rw [memVa, gr_eq, wrapN_eq_toNat, BitVec.ofInt_add, BitVec.ofInt_natCast, BitVec.ofInt_mul, BitVec.ofInt_natCast, fOff6, sext_eq_toInt _ (by decide), memAddr,
    BitVec.ofNat_toNat, BitVec.setWidth_eq]
  rfl

/-- The length that SZ gives a MEM word's access. -/
theorem fSz_dvd (w : Nat) : 2 ^ fSz w ∣ 64 := by
  have hlt : fSz w < 2 ^ 2 := bits_lt ..
  exact (Nat.pow_dvd_pow 2 (show fSz w ≤ 6 by omega)).trans (by decide)

/-- The address of lane `j` of a VLDG or VSTS (R251). -/
def laneAddr (a : ThOp) (r : Thread) (m j : Nat) : Nat := (r.x (fA a.w) + (r.lane (8 * m) (fB a.w) j).signExtend 64).toNat

theorem laneLen_cases (w : Nat) : laneLen w = 4 ∨ laneLen w = 8 := by
  unfold laneLen; split
  · exact .inl rfl
  · exact .inr rfl

theorem laneLen_dvd (w : Nat) : laneLen w ∣ 64 := by rcases laneLen_cases w with h | h <;> rw [h] <;> decide

/-- A lane lies in the register. -/
theorem lane_end {w j : Nat} (h : j ∈ List.range (64 / laneLen w)) : (j + 1) * laneLen w ≤ 64 := calc
  (j + 1) * laneLen w ≤ 64 / laneLen w * laneLen w := Nat.mul_le_mul_right _ (List.mem_range.mp h)
  _ ≤ 64 := Nat.div_mul_le_self ..

theorem laneVas_eq (a : ThOp) (r : Thread) : laneVas r a.w = (List.range (64 / laneLen a.w)).map (laneAddr a r (laneLen a.w)) := by
  refine List.map_congr_left fun j hj => ?_
  have hpos : 0 < 8 * laneLen a.w := by rcases laneLen_cases a.w with h | h <;> rw [h] <;> decide
  rw [gr_eq, leAt_vBytes r (lane_end hj), wrapN_eq_toNat, BitVec.ofInt_add, BitVec.ofInt_natCast, sext_toNat _ hpos, laneAddr, BitVec.ofNat_toNat, BitVec.setWidth_eq]
  rfl

end Sys2Proof.Machine
end

section
/-! CERTIFICATE. Loads (R241, R251, R257, R258). -/

namespace Sys2Proof.Machine

theorem exec_ld (a : ThOp) (s : State) : exec (.ld a) s = s.perform (loadProg a 0x70 false) := rfl
theorem exec_lds (a : ThOp) (s : State) : exec (.lds a) s = s.perform (loadProg a 0x71 true) := rfl
theorem exec_vld (a : ThOp) (s : State) : exec (.vld a) s = s.perform (vldProg a) := rfl
theorem exec_vldg (a : ThOp) (s : State) : exec (.vldg a) s = s.perform (vldgProg a) := rfl

/-- One thread's load. -/
theorem load_run {s u : Dev} {a : ThOp} {va n dpa : Nat} (hu : s.begun u a) (ho : (s.die (a.k / 168)).once = []) (hd : s.dataAt a va n accRead dpa)
    (hn : n ∣ 64) (op i : Nat) (g : List Byte → Thread → Thread) :
    ∃ w, (thAligned a op i [⟨va, n, accRead⟩] (look fun s => thLoad a i va (s.thDpa a va) n fun b => thDone a i (g b))).run u
      = (thDone a i (g (s.loadBytes a dpa n))).run w ∧ s.loadsFrom w a dpa := by
  obtain ⟨v, hv, hrun⟩ := hu.thAligned_run ho hd.apart (l := [⟨va, n, accRead⟩]) (by simpa using hd.accOk hn) op i
  obtain ⟨w, hw, hload⟩ := thLoad_run hv ho (hd.cleanAt hn) i va fun b => thDone a i (g b)
  have hcont : (look fun s => thLoad a i va (s.thDpa a va) n fun b => thDone a i (g b)).run v = (thDone a i (g (s.loadBytes a dpa n))).run w := by
    rw [run_look, hv.thDpa hd, hload]
  exact ⟨w, (hrun _ (by rw [hcont]; exact once_thDone hw.midway.once ..)).trans hcont, hw⟩

/-- What LD and LDS make of their bytes. -/
def loadValue (signed : Bool) (n : Nat) (b : List Byte) : Nat := if signed then wrapN 64 (sext (8 * n) (leNat b)) else leNat b

/-- LD and LDS. -/
theorem issues_load {c : Instr} {s : State} {a : ThOp} {i dpa op n : Nat} {signed : Bool} (h : s.m.stands a) (htodo : s.m.todo a = [i])
    (he : exec c s = s.perform (loadProg a op signed)) (ho : c.opcode = op) (hd : opDefined op = true) (hok : memOk .g .g [0, 1, 2, 3] a.w = true)
    (hn : n = 2 ^ fSz a.w) (hdata : s.m.dataAt a (memAddr a ((s.m.flockOf a).thr i) n) n accRead dpa) :
    issues c s a fun t => s.m.loaded t a i dpa fun r => r.setG (fD a.w) (loadValue signed n (s.m.loadBytes a dpa n)) := by
  have hsz : n ∣ 64 := hn ▸ fSz_dvd a.w
  refine issues_of_last h he ho hd hok htodo (fun r => r.setG (fD a.w) (loadValue signed n (s.m.loadBytes a dpa n))) fun u hu => ?_
  obtain ⟨w, hrun, hw⟩ := load_run hu (stands_once h) hdata hsz op i fun b r => r.setG (fD a.w) (loadValue signed n b)
  refine ⟨w, ?_, hw.midway, fun t ht => hw.loaded ht⟩
  rw [run_look, hu.flock]
  simp only [memVa_eq, ← hn]
  exact hrun

/-! ### VLDG -/

/-- What the lanes of a VLDG read that lie in stores. -/
theorem gatherLanes_run {s u : Dev} {a : ThOp} {n : Nat} (hu : s.begun u a) (hn : n ∣ 64) (i : Nat)
    {d : Nat → Nat} {va : Nat → Nat} {l : List Nat} (hd : ∀ j ∈ l, s.dataAt a (va j) n accRead (d j) ∧ stackEnd ≤ d j) (b : List Byte) :
    (gatherLanes a i n (l.map va) b).run u
      = (thDone a i fun r => r.setV (fD a.w) (leNat (b ++ l.flatMap fun j => s.bytesAt (d j) n))).run u := by
  induction l generalizing b with
  | nil => rw [List.map_nil, List.flatMap_nil, List.append_nil]; rfl
  | cons j l ih =>
    obtain ⟨⟨hj, hout⟩, hl⟩ := List.forall_mem_cons.mp hd
    have hclean := hu.cleanAt (hj.cleanAt hn)
    rw [List.map_cons, gatherLanes, run_look, hu.thDpa hj, thLoad, run_look]
    dsimp only
    rw [if_neg (Nat.not_lt.mpr hout), hclean.readBad, if_neg Bool.false_ne_true, hclean.busRead, ih hl, hu.bytesAt, List.append_assoc, List.flatMap_cons]

/-- Settles O15: each load reads the present line of a stack, else the memory, and a miss fills its line. -/
theorem loadsReadMemory : Obligations.LoadsReadMemory := by
  intro s a i h htodo r n m laneVa
  have ho := stands_once h
  have hn : n = 2 ^ fSz a.w := rfl
  have hm : m = laneLen a.w := rfl
  have hpos : 0 < 64 / m := by rw [hm]; rcases laneLen_cases a.w with h | h <;> rw [h] <;> decide
  refine ⟨fun dpa hok hd => ⟨?_, ?_⟩, fun dpa hok hd => ?_, fun d hok hd => ?_⟩
  · exact issues_load h htodo (exec_ld a s) rfl (by decide) hok hn hd
  · have hlds := issues_load h htodo (exec_lds a s) rfl (by decide) hok hn hd
    have hval : (fun r : Thread => r.setG (fD a.w) (loadValue true n (s.m.loadBytes a dpa n)))
        = fun r => r.putX (fD a.w) ((BitVec.ofNat (8 * n) (leNat (s.m.loadBytes a dpa n))).signExtend 64) := by
      funext r
      have hpos : 0 < 8 * n := Nat.mul_pos (by decide) (Nat.two_pow_pos _)
      rw [setG_eq, loadValue, if_pos rfl, ofNat_wrapN, sext_eq_toInt _ hpos]; rfl
    rwa [hval] at hlds
  · refine issues_of_last h (exec_vld a s) rfl (by decide) hok htodo (fun r => r.setV (fD a.w) (leNat (s.m.loadBytes a dpa 64))) fun u hu => ?_
    obtain ⟨w, hrun, hw⟩ := load_run hu ho hd (dvd_refl 64) 0x73 i fun b r => r.setV (fD a.w) (leNat b)
    refine ⟨w, ?_, hw.midway, fun t ht => hw.loaded ht⟩
    rw [run_look, hu.flock]
    simp only [memVa_eq]
    exact hrun
  · have hmiss : s.m.loadMisses a (d 0) = false := by
      rw [Dev.loadMisses, decide_eq_false (Nat.not_lt.mpr (hd 0 hpos).2)]; rfl
    refine issues_of_last h (exec_vldg a s) rfl (by decide) hok htodo (fun r => r.setV (fD a.w)
      (leNat ((List.range (64 / m)).flatMap fun j => s.m.bytesAt (d j) m))) fun u hu => ?_
    have hlanes (j : Nat) (hj : j ∈ List.range (64 / m)) := hd j (List.mem_range.mp hj)
    have hacc : ∀ x ∈ ((List.range (64 / m)).map laneVa).map fun va => (⟨va, m, accRead⟩ : VAcc), s.m.accOk a x := by
      simp only [List.forall_mem_map]
      exact fun j hj => (hlanes j hj).1.accOk (hm ▸ laneLen_dvd a.w)
    obtain ⟨v, hv, hrun⟩ := hu.thAligned_run ho (hlanes 0 (List.mem_range.mpr hpos)).1.apart hacc 0x75 i
    have hgather := gatherLanes_run hv (hm ▸ laneLen_dvd a.w) i hlanes []
    have hdone : (((gatherLanes a i m ((List.range (64 / m)).map laneVa) []).run v).die (a.k / 168)).once = [] := by
      rw [hgather]; exact once_thDone (hv.midway ho).once ..
    refine ⟨v, ?_, hv.midway ho, fun t ht => (hv.loadsFrom ho hmiss).loaded ht⟩
    rw [run_look, hu.flock]
    simp only [laneVas_eq]
    exact (hrun _ hdone).trans hgather

end Sys2Proof.Machine
end

section
/-! SUPPORT. Stores of one thread (R251, R258, R259, R549): the memory and the present lines of the data cache take their bytes. -/

namespace Sys2Proof.Machine

/-! ### Present lines -/

/-- Lines that take the bytes `f` gives for their addresses. -/
def takeLines (f : Nat → Option Byte) (l : List (Nat × List Byte)) : List (Nat × List Byte) :=
  l.map fun e => (e.1, (List.range 64).map fun j => (f (e.1 + j)).getD (e.2.getD j 0))

theorem dpaPuts_singleton (a : Nat) (bs : List Byte) (x : Nat) :
    dpaPuts [(a, bs)] x = if a ≤ x ∧ x < a + bs.length then some (bs.getD (x - a) 0) else none := by
  simp only [dpaPuts, List.reverse_singleton, List.findSome?_cons, List.findSome?_nil]
  split <;> simp_all

/-- A store writes the bytes that it puts into present lines, and nothing else. -/
theorem takeLines_dcacheStore (f : Nat → Option Byte) (a : Nat) (bs : List Byte) (l : List (Nat × List Byte)) :
    takeLines f (dcacheStore a bs l) = takeLines (fun x => (f x).or (dpaPuts [(a, bs)] x)) l := by
  rw [takeLines, takeLines, dcacheStore, List.map_map]
  refine List.map_congr_left fun e _ => ?_
  simp only [Function.comp_apply, dpaPuts_singleton]
  by_cases ho : a < e.1 + 64 ∧ e.1 < a + bs.length
  · rw [if_pos (by simpa using ho)]
    refine congrArg (Prod.mk e.1) (List.map_congr_left fun j hj => ?_)
    dsimp only
    rw [List.getD_eq_getElem _ _ (by simpa using hj), List.getElem_map, List.getElem_range]
    by_cases hin : a ≤ e.1 + j ∧ e.1 + j < a + bs.length
    · rw [if_pos (by simpa using hin), if_pos hin]; cases f (e.1 + j) <;> rfl
    · rw [if_neg (by simpa using hin), if_neg hin]; cases f (e.1 + j) <;> rfl
  · rw [if_neg (by simpa using ho)]
    refine congrArg (Prod.mk e.1) (List.map_congr_left fun j hj => ?_)
    have hj := List.mem_range.mp hj
    rw [if_neg (by omega)]; cases f (e.1 + j) <;> rfl

/-! ### A store -/

/-- The bytes of a number at an address. -/
theorem dpaPuts_leBytes (dpa n v x : Nat) : dpaPuts [(dpa, leBytes n v)] x = putsAt dpa n v x := by
  rw [dpaPuts_singleton, length_leBytes, putsAt]
  by_cases h : dpa ≤ x ∧ x < dpa + n
  · have hpow : 256 ^ (x - dpa) = 2 ^ (8 * (x - dpa)) := by rw [Nat.pow_mul]
    rw [if_pos h, if_pos h, getD_leBytes _ (by omega), hpow]
  · rw [if_neg h, if_neg h]

theorem dpaPuts_nil (x : Nat) : dpaPuts [] x = none := rfl

/-- What stores leave before their thread goes on: the memory and the present lines of the data cache hold the bytes. -/
structure Dev.storesTo (s w : Dev) (a : ThOp) (ws : List (Nat × List Byte)) : Prop where
  midway : s.midway w a
  parts : s.sameBut w [.clusters, .mem, .undef, .drovers]
  tlb : (s.cl a.k).tlb.Perm (w.cl a.k).tlb
  bytes : s.wroteDpa w ws
  drovers : s.replayable (s.flockOf a).cmd = false → w.drovers = s.drovers
  lines : ∀ f, takeLines f (w.dcacheOf a) = takeLines (fun x => (f x).or (dpaPuts ws x)) (s.dcacheOf a)

section
variable {s u w : Dev} {a : ThOp} {ws : List (Nat × List Byte)} {va n acc dpa : Nat}

theorem Dev.begun.storesTo (hu : s.begun u a) (ho : (s.die (a.k / 168)).once = []) : s.storesTo u a [] where
  midway := hu.midway ho
  parts := hu.parts.mono (by decide)
  tlb := hu.tlb
  bytes := fun x _ => hu.outside (fun v => v.byteAt x) fun _ => rfl
  drovers := fun _ => hu.drovers
  lines := fun f => by rw [hu.dcacheOf]; simp only [dpaPuts_nil, Option.or_none]

theorem Dev.storesTo.regAt (hw : s.storesTo w a ws) (A : Nat) : w.regAt A = s.regAt A := hw.parts.regAt (by decide) A

/-- Translation does not hang on what was stored. -/
theorem Dev.storesTo.thDpa (hw : s.storesTo w a ws) (h : s.dataAt a va n acc dpa) : w.thDpa a va = dpa := by
  have hk : a.k % 168 < 168 := Nat.mod_lt _ (by decide)
  obtain ⟨e, hf, he, -⟩ := xlate_hit_find h.2.2.1 hk
  have hfw : tlbFind (w.cl (ck (a.k / 168) (a.k % 168))).tlb va = some e := by
    rw [ck_div_mod] at hf ⊢
    rw [tlbFind_perm ((tlbApart_iff _).mp h.apart) hw.tlb, hf]
  rw [Dev.thDpa, dpaOf_of_find hk hfw, he]

theorem Dev.storesTo.cleanAt (hw : s.storesTo w a ws) (h : s.cleanAt dpa n) : w.cleanAt dpa n :=
  h.of_sameBut hw.parts (by decide) (by decide) (by decide) (by decide)

/-- The note of a write is the drover's alone, and is made for a command that may be replayed. -/
theorem sameBut_noteWrite (cmd x m : Nat) (v : Dev) : v.sameBut ((noteWrite cmd x m).run v) [.drovers] := (within_noteWrite cmd x m).sameBut v

theorem drovers_noteWrite {cmd : Nat} (x m : Nat) {v : Dev} (h : v.replayable cmd = false) : (noteWrite cmd x m).run v = v := by
  rw [noteWrite, run_look, h]; rfl

/-- What a note and a write to a clean range leave. -/
theorem noteWrite_busWrite {v : Dev} (hc : v.cleanAt dpa n) {bs : List Byte} (hbs : bs.length = n) (cmd m : Nat) :
    v.sameBut ((busWrite dpa bs).run ((noteWrite cmd dpa m).run v)) [.mem, .undef, .drovers]
      ∧ v.wroteDpa ((busWrite dpa bs).run ((noteWrite cmd dpa m).run v)) [(dpa, bs)]
      ∧ (v.replayable cmd = false → ((busWrite dpa bs).run ((noteWrite cmd dpa m).run v)).drovers = v.drovers) := by
  obtain ⟨u, hu⟩ : ∃ u, u = (noteWrite cmd dpa m).run v := ⟨_, rfl⟩
  have hnote : v.sameBut u [.drovers] := by rw [hu]; exact sameBut_noteWrite ..
  have huc : u.cleanAt dpa n := hc.of_sameBut hnote (by decide) (by decide) (by decide) (by decide)
  rw [← hu, huc.busWrite hbs]
  refine ⟨sameBut_trans (hnote.mono (by decide)) ((sameBut_apply u (.mem dpa bs)).mono (show [Part.mem, Part.undef] ⊆ _ by decide)), fun x hx => ?_, fun hr => ?_⟩
  · rw [byteAt_apply_mem u dpa bs x hx, hnote.byteAt (by decide) (by decide) (isReg_of_unitPlace (unitPlace_of_memPlace hx))]
  · have hdr : (u.apply (.mem dpa bs)).drovers = u.drovers := rfl
    rw [hdr, hu, drovers_noteWrite _ _ hr]

theorem sameButCore_of_sameBut {v : Dev} (h : w.sameBut v [.mem, .undef, .drovers]) (a : ThOp) : w.sameButCore v a := by
  have hwiped : { v with mem := [], undef := [], drovers := [] } = { w with mem := [], undef := [], drovers := [] } := h
  have hcl := h.cl (by decide)
  exact ⟨(congrArg (fun u : Dev => { u with clusters := [], regs := [], free := 0 }) hwiped : _), fun k _ => by rw [hcl], by rw [hcl], fun n _ => by rw [hcl],
    by rw [hcl], by rw [Dev.flock, hcl]; rfl⟩

/-- A store: the present lines and the memory take its bytes. -/
theorem Dev.storesTo.thStore (hw : s.storesTo w a ws) (hc : s.cleanAt dpa n) {bs : List Byte} (hbs : bs.length = n) :
    s.storesTo ((thStore a dpa bs).run w) a (ws ++ [(dpa, bs)]) := by
  obtain ⟨v, hv⟩ : ∃ v, v = (onCore a.k a.core fun x => { x with dcache := dcacheStore dpa bs x.dcache }).run w := ⟨_, rfl⟩
  have hcore : w.sameButCore v a := by rw [hv]; exact sameButCore_dcache w a fun x => dcacheStore dpa bs x.dcache
  have hflock : v.flockOf a = s.flockOf a := by rw [hv, flockOf_onDcache w a fun x => dcacheStore dpa bs x.dcache, hw.midway.flock]
  have hparts : w.sameBut v [.clusters] := by rw [hv]; exact sameBut_onCore ..
  have htlb : (v.cl a.k).tlb = (w.cl a.k).tlb := by rw [hv, tlb_onCore]
  have hdcache : v.dcacheOf a = dcacheStore dpa bs (w.dcacheOf a) := by rw [hv, dcacheOf_onDcache w a fun x => dcacheStore dpa bs x.dcache]; rfl
  have hvc : v.cleanAt dpa n := (hw.cleanAt hc).of_sameBut hparts (by decide) (by decide) (by decide) (by decide)
  obtain ⟨hsame, hwrote, hdrovers⟩ := noteWrite_busWrite hvc hbs (s.flockOf a).cmd bs.length
  have hrun : (Machine.thStore a dpa bs).run w = (busWrite dpa bs).run ((noteWrite (s.flockOf a).cmd dpa bs.length).run v) := by
    rw [Machine.thStore, run_look, hw.midway.flock, hv]; rfl
  have hvbytes : s.wroteDpa v ws := fun x hx => by
    rw [hparts.byteAt (by decide) (by decide) (isReg_of_unitPlace (unitPlace_of_memPlace hx)), hw.bytes x hx]
  have hcl := hsame.cl (by decide)
  rw [hrun]
  refine ⟨⟨sameButCore_trans hw.midway.core (sameButCore_trans hcore (sameButCore_of_sameBut hsame a)), ?_, ?_⟩, ?_, ?_, wroteDpa_append hvbytes hwrote, fun hr => ?_, fun f => ?_⟩
  · rw [Dev.flockOf, Dev.flock, hcl]; exact hflock
  · rw [hsame.die (by decide), hparts.die (by decide)]; exact hw.midway.once
  · exact sameBut_trans hw.parts (sameBut_trans (hparts.mono (by decide)) (hsame.mono (by decide)))
  · rw [hcl, htlb]; exact hw.tlb
  · have hvr : v.replayable (s.flockOf a).cmd = false := by
      rw [← hr, Dev.replayable, Dev.replayable, Dev.fld, Dev.fld, Dev.reg, Dev.reg, hparts.regAt (by decide), hw.regAt]
    rw [hdrovers hvr, hparts.drovers (by decide), hw.drovers hr]
  · have hdc : ((busWrite dpa bs).run ((noteWrite (s.flockOf a).cmd dpa bs.length).run v)).dcacheOf a = v.dcacheOf a := by rw [Dev.dcacheOf, hcl]; rfl
    rw [hdc, hdcache, takeLines_dcacheStore, hw.lines]
    simp only [dpaPuts_append, Option.or_assoc]

/-- A write that ends. -/
theorem Dev.ends.stored {t : Dev} {i : Nat} {g : Thread → Thread} {f : Nat → Option Byte} (ht : s.ends w t a i g) (hr : ∀ A, w.regAt A = s.regAt A)
    (hb : ∀ x, memPlace x = true → w.byteAt x = (f x).getD (s.byteAt x)) (hd : s.replayable (s.flockOf a).cmd = false → w.drovers = s.drovers) :
    s.stored t a i f g := by
  refine ⟨ht.core, ht.finished, ht.regsBecome hr, fun x hx => ?_, fun hq => ht.drovers.trans (hd hq)⟩
  have hreg := isReg_of_unitPlace (unitPlace_of_memPlace hx)
  have hmem : t.mem = w.mem := ht.outside (fun v => v.mem) fun _ => rfl
  have hundef : t.undef = w.undef := ht.outside (fun v => v.undef) fun _ => rfl
  rw [← hb x hx, byteAt_of_not_reg hreg, byteAt_of_not_reg hreg, hmem, hundef]

/-- Stores that end: the memory and the lines as the claims state them. -/
theorem Dev.storesTo.stored {t : Dev} {i : Nat} {g : Thread → Thread} (hw : s.storesTo w a ws) (ht : s.ends w t a i g) {f : Nat → Option Byte}
    (hf : ∀ x, dpaPuts ws x = f x) : s.stored t a i f g ∧ s.linesTook t a f := by
  refine ⟨ht.stored hw.regAt (fun x hx => by rw [← hf]; exact hw.bytes x hx) hw.drovers, ?_⟩
  have hlines := hw.lines fun _ => none
  simp only [Option.none_or, hf] at hlines
  rw [Dev.linesTook, ht.dcacheOf]
  exact hlines

/-! ### An atomic's write -/

/-- What an atomic leaves before its thread goes on: the value it stores, if any. -/
structure Dev.swapsTo (s w : Dev) (a : ThOp) (dpa n : Nat) (new : Option Nat) : Prop where
  midway : s.midway w a
  regs : ∀ A, w.regAt A = s.regAt A
  bytes : ∀ x, memPlace x = true → w.byteAt x = (new.bind fun v => putsAt dpa n v x).getD (s.byteAt x)
  drovers : s.replayable (s.flockOf a).cmd = false → w.drovers = s.drovers
  dcache : w.dcacheOf a = s.dcacheOf a

theorem Dev.begun.swapsTo_none (hu : s.begun u a) (ho : (s.die (a.k / 168)).once = []) : s.swapsTo u a dpa n none where
  midway := hu.midway ho
  regs := hu.regAt
  bytes := fun x _ => hu.outside (fun v => v.byteAt x) fun _ => rfl
  drovers := fun _ => hu.drovers
  dcache := hu.dcacheOf

theorem Dev.begun.swapsTo_some (hu : s.begun u a) (ho : (s.die (a.k / 168)).once = []) (hc : s.cleanAt dpa n) (v : Nat) :
    s.swapsTo ((busWrite dpa (leBytes n v)).run ((noteWrite (s.flockOf a).cmd dpa n).run u)) a dpa n (some v) := by
  obtain ⟨hsame, hwrote, hdrovers⟩ := noteWrite_busWrite (hu.cleanAt hc) (length_leBytes n v) (s.flockOf a).cmd n
  have hcl := hsame.cl (by decide)
  refine ⟨⟨sameButCore_trans (sameButCore_of_sameButFlock hu.same) (sameButCore_of_sameBut hsame a), ?_, ?_⟩, fun A => ?_, fun x hx => ?_, fun hr => ?_, ?_⟩
  · rw [Dev.flockOf, Dev.flock, hcl]; exact hu.flock
  · rw [hsame.die (by decide), hu.die]; exact ho
  · rw [hsame.regAt (by decide), hu.regAt]
  · have hbyte : u.byteAt x = s.byteAt x := hu.outside (fun v => v.byteAt x) fun _ => rfl
    rw [hwrote x hx, dpaPuts_leBytes, hbyte, Option.bind_some]
  · have hur : u.replayable (s.flockOf a).cmd = false := (hu.outside (fun v => v.replayable (s.flockOf a).cmd) fun _ => rfl).trans hr
    rw [hdrovers hur, hu.drovers]
  · rw [Dev.dcacheOf, hcl]; exact hu.dcacheOf

theorem Dev.swapsTo.stored {t : Dev} {i : Nat} {g : Thread → Thread} {new : Option Nat} (hw : s.swapsTo w a dpa n new) (ht : s.ends w t a i g) :
    s.stored t a i (fun x => new.bind fun v => putsAt dpa n v x) g ∧ t.dcacheOf a = s.dcacheOf a :=
  ⟨ht.stored hw.regs hw.bytes hw.drovers, ht.dcacheOf.trans hw.dcache⟩

end

end Sys2Proof.Machine
end

section
/-! CERTIFICATE. Stores (R241, R251, R257 to R259). -/

namespace Sys2Proof.Machine

theorem exec_st (a : ThOp) (s : State) : exec (.st a) s = s.perform (stProg a) := rfl
theorem exec_vst (a : ThOp) (s : State) : exec (.vst a) s = s.perform (vstProg a) := rfl
theorem exec_vsts (a : ThOp) (s : State) : exec (.vsts a) s = s.perform (vstsProg a) := rfl

/-- One thread's store of one piece. -/
theorem store_run {s u : Dev} {a : ThOp} {va n dpa : Nat} (hu : s.begun u a) (ho : (s.die (a.k / 168)).once = []) (hd : s.dataAt a va n accWrite dpa)
    (hn : n ∣ 64) (op i v : Nat) :
    ∃ w, (thAligned a op i [⟨va, n, accWrite⟩] (look fun s => progs [thStore a (s.thDpa a va) (leBytes n v), thDone a i id])).run u
      = (thDone a i id).run w ∧ s.storesTo w a [(dpa, leBytes n v)] := by
  obtain ⟨y, hy, hrun⟩ := hu.thAligned_run ho hd.apart (l := [⟨va, n, accWrite⟩]) (by simpa using hd.accOk hn) op i
  have hstore := (hy.storesTo ho).thStore (hd.cleanAt hn) (length_leBytes n v)
  have hcont : (look fun s => progs [thStore a (s.thDpa a va) (leBytes n v), thDone a i id]).run y
      = (thDone a i id).run ((thStore a dpa (leBytes n v)).run y) := by
    rw [run_look, hy.thDpa hd, run_progs_cons, run_progs_cons, run_progs_nil]
  exact ⟨_, (hrun _ (by rw [hcont]; exact once_thDone hstore.midway.once ..)).trans hcont, hstore⟩

/-- Memory is no mailbox's send window. -/
theorem mailboxAt_of_memPlace {dpa : Nat} (h : memPlace dpa = true) : mailboxAt dpa = none := by
  unfold memPlace at h
  unfold mailboxAt
  cases hp : place dpa <;> simp_all

/-- VST's thread, its address an aligned one of memory, is a store like any other. -/
theorem vst_run {s u : Dev} {a : ThOp} {va dpa : Nat} (hu : s.begun u a) (ho : (s.die (a.k / 168)).once = []) (hd : s.dataAt a va 64 accWrite dpa)
    (plain : Prog) (send : Dev → Nat → Prog) :
    (if 2 ^ 48 ≤ va || va % 64 ≠ 0 then plain
      else .seq (fillFromDie (a.k / 168) (a.k % 168) [⟨va, 64, accWrite⟩]) (look fun s =>
        match (s.lent (a.k / 168) (a.k % 168) fun u => u == flockUnit a.k a.core a.f).xlate (a.k / 168) (a.k % 168) va accWrite with
        | .hit dpa => match mailboxAt dpa with
          | some m => send s m
          | none => plain
        | _ => plain)).run u = plain.run u := by
  obtain ⟨hapart, hva, hx, -, hplace, -⟩ := id hd
  obtain ⟨-, -, -, -, hlt⟩ := xlate_hit_find hx (Nat.mod_lt _ (by decide))
  have hux : u.xlate (a.k / 168) (a.k % 168) va accWrite = .hit dpa := (hu.xlate hapart ..).trans hx
  have hfill : (fillFromDie (a.k / 168) (a.k % 168) [⟨va, 64, accWrite⟩]).run u = u := fillFromDie_hit fun x hx => by
    rw [vaPieces_aligned (by simp [hva])] at hx
    rw [List.mem_singleton.mp hx]
    exact ⟨dpa, hux⟩
  rw [if_neg (by rw [decide_eq_false (Nat.not_le.mpr hlt), hva]; decide), run_seq, hfill, run_look, Dev.lent, lendOnce_none (by rw [hu.die]; exact ho), hux]
  dsimp only
  rw [mailboxAt_of_memPlace hplace]

/-! ### VSTS -/

/-- The lanes of a VSTS store one after the other. -/
theorem lanes_run {s u : Dev} {a : ThOp} {m : Nat} (hu : s.begun u a) (ho : (s.die (a.k / 168)).once = []) (hm : m ∣ 64)
    {d va : Nat → Nat} {b : Nat → List Byte} {l : List Nat} (hd : ∀ j ∈ l, s.dataAt a (va j) m accWrite (d j)) (hb : ∀ j ∈ l, (b j).length = m) :
    s.storesTo ((forAll l fun j => look fun s => thStore a (s.thDpa a (va j)) (b j)).run u) a (l.map fun j => (d j, b j)) := by
  suffices hgen : ∀ w ws, s.storesTo w a ws →
      s.storesTo ((forAll l fun j => look fun s => thStore a (s.thDpa a (va j)) (b j)).run w) a (ws ++ l.map fun j => (d j, b j)) from
    hgen u [] (hu.storesTo ho)
  induction l with
  | nil => intro w ws hw; rw [List.map_nil, List.append_nil]; exact hw
  | cons j l ih =>
    intro w ws hw
    obtain ⟨hj, hl⟩ := List.forall_mem_cons.mp hd
    obtain ⟨hbj, hbl⟩ := List.forall_mem_cons.mp hb
    rw [run_forAll_cons, run_look, hw.thDpa hj, List.map_cons, List.append_cons]
    exact ih hl hbl _ _ (hw.thStore (hj.cleanAt hm) hbj)

/-- What the pieces of the lanes put at an address: the later lane wins. -/
theorem dpaPuts_lanes (n m : Nat) (d v : Nat → Nat) (x : Nat) : dpaPuts ((List.range n).map fun j => (d j, leBytes m (v j))) x
    = (List.range n).reverse.findSome? fun j => putsAt (d j) m (v j) x := by
  rw [dpaPuts, ← List.map_reverse, List.findSome?_map]
  refine congrArg (fun f => (List.range n).reverse.findSome? f) (funext fun j => ?_)
  rw [← dpaPuts_leBytes, dpaPuts_singleton]; rfl

/-- Settles O16: each store writes its bytes to the memory and to the present lines of the data cache. -/
theorem storesWriteMemory : Obligations.StoresWriteMemory := by
  intro s a i h htodo r n m laneVa stores
  have ho := stands_once h
  have hn : n = 2 ^ fSz a.w := rfl
  have hm : m = laneLen a.w := rfl
  refine ⟨fun dpa hok hd => ?_, fun dpa hok hd => ?_, fun d hok hd => ?_⟩
  · refine issues_of_last h (exec_st a s) rfl (by decide) hok htodo id fun u hu => ?_
    obtain ⟨w, hrun, hw⟩ := store_run hu ho hd (fSz_dvd a.w) 0x72 i (r.x (fD a.w)).toNat
    refine ⟨w, ?_, hw.midway, fun t ht => hw.stored ht fun x => dpaPuts_leBytes ..⟩
    rw [run_look, hu.flock]
    simp only [memVa_eq, gr_eq]
    exact hrun
  · refine issues_of_last h (exec_vst a s) rfl (by decide) hok htodo id fun u hu => ?_
    obtain ⟨w, hrun, hw⟩ := store_run hu ho hd (dvd_refl 64) 0x74 i (r.vr (fD a.w))
    refine ⟨w, ?_, hw.midway, fun t ht => hw.stored ht fun x => dpaPuts_leBytes ..⟩
    rw [run_look, hu.flock]
    simp only [memVa_eq]
    exact (vst_run hu ho hd _ _).trans hrun
  · refine issues_of_last h (exec_vsts a s) rfl (by decide) hok htodo id fun u hu => ?_
    have hpos : 0 < 64 / m := by rw [hm]; rcases laneLen_cases a.w with h | h <;> rw [h] <;> decide
    have hlanes (j : Nat) (hj : j ∈ List.range (64 / m)) := hd j (List.mem_range.mp hj)
    have hdvd : m ∣ 64 := hm ▸ laneLen_dvd a.w
    have hacc : ∀ x ∈ ((List.range (64 / m)).map laneVa).map fun va => (⟨va, m, accWrite⟩ : VAcc), s.m.accOk a x := by
      simp only [List.forall_mem_map]
      exact fun j hj => (hlanes j hj).accOk hdvd
    obtain ⟨v, hv, hrun⟩ := hu.thAligned_run ho (hlanes 0 (List.mem_range.mpr hpos)).apart hacc 0x76 i
    have hstores := lanes_run hv ho hdvd (b := fun j => leBytes m (r.lane (8 * m) (fD a.w) j).toNat) hlanes fun j _ => length_leBytes ..
    refine ⟨_, ?_, hstores.midway, fun t ht => hstores.stored ht fun x => dpaPuts_lanes ..⟩
    rw [run_look, hu.flock]
    simp only [laneVas_eq]
    have hcut : (progs [forAll (List.range (((List.range (64 / m)).map laneVa).length)) fun j => look fun s =>
          thStore a (s.thDpa a (((List.range (64 / m)).map laneVa).getD j 0)) (sliceBytes (r.vBytes (fD a.w)) (j * m) m), thDone a i id]).run v
        = (thDone a i id).run ((forAll (List.range (64 / m)) fun j => look fun s =>
          thStore a (s.thDpa a (laneVa j)) (leBytes m (r.lane (8 * m) (fD a.w) j).toNat)).run v) := by
      rw [run_progs_cons, run_progs_cons, run_progs_nil, List.length_map, List.length_range]
      refine congrArg (fun p : Prog => (thDone a i id).run (p.run v)) (congrArg progs (List.map_congr_left fun j hj => ?_))
      have hget : ((List.range (64 / m)).map laneVa).getD j 0 = laneVa j := by
        rw [List.getD_eq_getElem _ _ (by simpa using hj), List.getElem_map, List.getElem_range]
      rw [hget, sliceBytes_vBytes r (show (j + 1) * m ≤ 64 from lane_end hj)]
    have hdone := once_thDone hstores.midway.once i id
    rw [← hcut] at hdone
    exact (hrun _ hdone).trans hcut

end Sys2Proof.Machine
end

section
/-! CERTIFICATE. Atomics (R251, R258, R259, R261). -/

namespace Sys2Proof.Machine

theorem exec_aadd (a : ThOp) (s : State) : exec (.aadd a) s = s.perform (aaddProg a) := rfl
theorem exec_amin (a : ThOp) (s : State) : exec (.amin a) s = s.perform (aminProg a) := rfl
theorem exec_amax (a : ThOp) (s : State) : exec (.amax a) s = s.perform (amaxProg a) := rfl
theorem exec_aand (a : ThOp) (s : State) : exec (.aand a) s = s.perform (aandProg a) := rfl
theorem exec_aor (a : ThOp) (s : State) : exec (.aor a) s = s.perform (aorProg a) := rfl
theorem exec_axchg (a : ThOp) (s : State) : exec (.axchg a) s = s.perform (axchgProg a) := rfl
theorem exec_acas (a : ThOp) (s : State) : exec (.acas a) s = s.perform (acasProg a) := rfl
theorem exec_afadd (a : ThOp) (s : State) : exec (.afadd a) s = s.perform (afaddProg a) := rfl

/-- The write of an atomic: its value, if it stores one. -/
def swapProg (cmd dpa n : Nat) (new : Option Nat) : Prog :=
  match new with
  | some v => progs [noteWrite cmd dpa n, busWrite dpa (leBytes n v)]
  | none => .skip

/-- What an atomic does at its home. -/
def atomicAt (a : ThOp) (n t : Nat) (r : Thread) (f : Thread → Nat → Option Nat × Nat) : Prog := look fun s =>
  let va := (r.x (fA a.w)).toNat
  let dpa := s.thDpa a va
  if s.readBad dpa n then .seq (memTouch dpa n) (thDie a.k a.core a.f 0x20 va t false dpa)
  else busRead dpa n fun b => progs [
    swapProg (s.flockOf a).cmd dpa n (f r (leNat b)).1,
    thDone a t fun q => (q.setG (fD a.w) (leNat b)).raise (f r (leNat b)).2]

theorem atomicThread_run (a : ThOp) (op n t : Nat) (f : Thread → Nat → Option Nat × Nat) (u : Dev) : (atomicThread a op n t f).run u
    = (thAligned a op t [⟨(((u.flockOf a).thr t).x (fA a.w)).toNat, n, accAtomic⟩] (atomicAt a n t ((u.flockOf a).thr t) f)).run u := by
  rw [atomicThread, run_look]
  simp only [gr_eq]
  rfl

/-- One thread's atomic: the value that `f` gives for the old one, if any, is stored. -/
theorem atomic_run {s u : Dev} {a : ThOp} {n dpa i : Nat} (hu : s.begun u a) (ho : (s.die (a.k / 168)).once = [])
    (hd : s.dataAt a (((s.flockOf a).thr i).x (fA a.w)).toNat n accAtomic dpa) (hn : n ∣ 64) (op : Nat) (f : Thread → Nat → Option Nat × Nat) :
    ∃ w, (atomicThread a op n i f).run u
        = (thDone a i fun r => (r.setG (fD a.w) (s.natAt dpa n)).raise (f ((s.flockOf a).thr i) (s.natAt dpa n)).2).run w
      ∧ s.swapsTo w a dpa n (f ((s.flockOf a).thr i) (s.natAt dpa n)).1 := by
  obtain ⟨v, hv, hrun⟩ := hu.thAligned_run ho hd.apart (l := [⟨(((s.flockOf a).thr i).x (fA a.w)).toNat, n, accAtomic⟩]) (by simpa using hd.accOk hn) op i
  have hclean := hd.cleanAt hn
  have hold : leNat (v.bytesAt dpa n) = s.natAt dpa n := by rw [hv.bytesAt]; rfl
  have hw : s.swapsTo ((swapProg (s.flockOf a).cmd dpa n (f ((s.flockOf a).thr i) (s.natAt dpa n)).1).run v) a dpa n
      (f ((s.flockOf a).thr i) (s.natAt dpa n)).1 := by
    cases (f ((s.flockOf a).thr i) (s.natAt dpa n)).1 with
    | none => exact hv.swapsTo_none ho
    | some x => rw [swapProg, run_progs_cons, run_progs_cons, run_progs_nil]; exact hv.swapsTo_some ho hclean x
  have hcont : (atomicAt a n i ((s.flockOf a).thr i) f).run v
      = (thDone a i fun r => (r.setG (fD a.w) (s.natAt dpa n)).raise (f ((s.flockOf a).thr i) (s.natAt dpa n)).2).run
        ((swapProg (s.flockOf a).cmd dpa n (f ((s.flockOf a).thr i) (s.natAt dpa n)).1).run v) := by
    rw [atomicAt, run_look]
    dsimp only
    rw [hv.thDpa hd, (hv.cleanAt hclean).readBad, if_neg Bool.false_ne_true, (hv.cleanAt hclean).busRead, hold, hv.flock, run_progs_cons, run_progs_cons,
      run_progs_nil]
  refine ⟨_, ?_, hw⟩
  rw [atomicThread_run, hu.flock]
  exact (hrun _ (by rw [hcont]; exact once_thDone hw.midway.once ..)).trans hcont

section
variable {c : Instr} {s : State} {a : ThOp} {i dpa op : Nat}

/-- An atomic of the length that M gives. -/
theorem issues_atomic {f : Thread → Nat → Option Nat × Nat} {each : Nat → Prog} {n : Nat} {ok : Bool} (h : s.m.stands a) (htodo : s.m.todo a = [i])
    (he : exec c s = s.perform (thStep a op pipeMemory ok (thSeq a each))) (ho : c.opcode = op) (hd : opDefined op = true)
    (heach : ∀ u, s.m.begun u a → (each i).run u = (atomicThread a op n i f).run u) (hok : ok = true) (hn : n ∣ 64) (hdata : s.m.dataAt a (((s.m.flockOf a).thr i).x (fA a.w)).toNat n accAtomic dpa) {new : Option Nat} {fl : Nat}
    (hf : f ((s.m.flockOf a).thr i) (s.m.natAt dpa n) = (new, fl)) : issues c s a fun t =>
      s.m.stored t a i (fun x => new.bind fun v => putsAt dpa n v x) (fun r => (r.setG (fD a.w) (s.m.natAt dpa n)).raise fl)
        ∧ t.dcacheOf a = s.m.dcacheOf a := by
  refine issues_of_last h he ho hd hok htodo (fun r => (r.setG (fD a.w) (s.m.natAt dpa n)).raise fl) fun u hu => ?_
  obtain ⟨w, hrun, hw⟩ := atomic_run hu (stands_once h) hdata hn op f
  rw [hf] at hrun hw
  exact ⟨w, (heach u hu).trans hrun, hw.midway, fun t ht => hw.stored ht⟩

end

/-! ### Values -/

theorem signedMin_eq {n : Nat} (hn : 0 < n) (x y : BitVec (8 * n)) : signedMin n x.toNat y.toNat = (if x.sle y then x else y).toNat := by
  have hpos : 0 < 8 * n := by omega
  rw [signedMin, sext_toNat _ hpos, sext_toNat _ hpos, apply_ite BitVec.toNat]
  exact if_congr (by rw [BitVec.sle, decide_eq_true_iff]) rfl rfl

theorem signedMax_eq {n : Nat} (hn : 0 < n) (x y : BitVec (8 * n)) : signedMax n x.toNat y.toNat = (if x.sle y then y else x).toNat := by
  have hpos : 0 < 8 * n := by omega
  rw [signedMax, sext_toNat _ hpos, sext_toNat _ hpos, apply_ite BitVec.toNat]
  exact if_congr (by rw [BitVec.sle, decide_eq_true_iff]) rfl rfl

theorem natAt_lt_two_pow (s : Dev) (x n : Nat) : s.natAt x n < 2 ^ (8 * n) := lt_of_lt_of_eq (natAt_lt s x n) (by rw [Nat.pow_mul])

/-- The old value as the register takes it, and the flags. -/
theorem setG_natAt_raise (s : Dev) (x n d fl : Nat) (r : Thread) : (r.setG d (s.natAt x n)).raise fl
    = { r.putX d ((BitVec.ofNat (8 * n) (s.natAt x n)).setWidth 64) with
        fstat := (r.putX d ((BitVec.ofNat (8 * n) (s.natAt x n)).setWidth 64)).fstat ||| BitVec.ofNat 5 fl } := by
  have hold : (BitVec.ofNat (8 * n) (s.natAt x n)).setWidth 64 = BitVec.ofNat 64 (s.natAt x n) := by
    rw [setWidth_eq_ofNat, BitVec.toNat_ofNat, Nat.mod_eq_of_lt (natAt_lt_two_pow ..)]
  rw [hold]; rfl

/-- A word whose M can be 2 alone. -/
theorem fM_two {w : Nat} (h : regOk .g .g .g [2] w = true) : fM w = 2 := by
  rw [regOk, Bool.and_eq_true] at h
  simpa using h.2

/-- Settles O17: the old value is returned and the result stored at its home; AFADD on a STRICT queue raises cause 4. -/
theorem atomicsReturnOld : Obligations.AtomicsReturnOld := by
  intro s a i dpa h htodo r m old y atomic
  have hm : m = laneLen a.w := rfl
  have hdvd : m ∣ 64 := hm ▸ laneLen_dvd a.w
  have hpos : 0 < m := Nat.pos_of_dvd_of_pos hdvd (by decide)
  have hold : old.toNat = s.m.natAt dpa m := by rw [BitVec.toNat_ofNat, Nat.mod_eq_of_lt (natAt_lt_two_pow ..)]
  have hy : r.gr (fB a.w) % 2 ^ (8 * m) = y.toNat := by rw [gr_eq]; exact (BitVec.toNat_setWidth ..).symm
  refine ⟨fun hd => ⟨fun hok => ?_, fun hok hfast => ?_⟩, fun hok hslow => ?_⟩
  · have hplain {c : Instr} {op : Nat} {f : Nat → Nat → Nat → Nat} {new : Nat} (he : exec c s = s.perform (atomicProg a op f)) (ho : c.opcode = op)
        (hdef : opDefined op = true) (hf : f m old.toNat y.toNat = new) : atomic c (some new) 0 := by
      have hnew : (some (f m (s.m.natAt dpa m) (r.gr (fB a.w) % 2 ^ (8 * m))), 0) = (some new, 0) := by rw [hy, ← hold, hf]
      have hswap := issues_atomic h htodo he ho hdef (fun _ _ => rfl) hok hdvd hd hnew
      simp only [setG_natAt_raise] at hswap
      exact hswap
    refine ⟨?_, ?_, ?_, ?_, ?_, ?_, ?_⟩
    · exact hplain (exec_aadd a s) rfl (by decide) (BitVec.toNat_add ..).symm
    · exact hplain (exec_amin a s) rfl (by decide) (signedMin_eq hpos ..)
    · exact hplain (exec_amax a s) rfl (by decide) (signedMax_eq hpos ..)
    · exact hplain (exec_aand a s) rfl (by decide) (BitVec.toNat_and ..).symm
    · exact hplain (exec_aor a s) rfl (by decide) (BitVec.toNat_or ..).symm
    · exact hplain (exec_axchg a s) rfl (by decide) rfl
    · have hnew : (if s.m.natAt dpa m = r.gr (fD a.w) % 2 ^ (8 * m) then some (r.gr (fB a.w) % 2 ^ (8 * m)) else none, 0)
          = (if old = (r.x (fD a.w)).setWidth (8 * m) then some y.toNat else none, 0) := by
        rw [hy, ← hold, gr_eq, ← BitVec.toNat_setWidth]
        exact congrArg (·, 0) (if_congr BitVec.toNat_inj rfl rfl)
      have hswap := issues_atomic h htodo (exec_acas a s) rfl (by decide) (fun _ _ => rfl) hok hdvd hd hnew
      simp only [setG_natAt_raise] at hswap
      exact hswap
  · have hlen : m = 4 := if_pos (fM_two hok)
    have hnew : (some (Fp.add (s.m.natAt dpa m) (r.gr (fB a.w) % 2 ^ 32)).1, (Fp.add (s.m.natAt dpa m) (r.gr (fB a.w) % 2 ^ 32)).2)
        = (some (Fp.add old.toNat y.toNat).1, (Fp.add old.toNat y.toNat).2) := by rw [hold, ← hy, hlen]
    have hswap := issues_atomic h htodo (exec_afadd a s) rfl (by decide) (fun u hu => ?_) hok hdvd hd (f := fun q old =>
      (some (Fp.add old (q.gr (fB a.w) % 2 ^ 32)).1, (Fp.add old (q.gr (fB a.w) % 2 ^ 32)).2)) hnew
    · simp only [setG_natAt_raise] at hswap
      exact hswap
    · rw [run_look, hu.flock, hfast, hlen]; rfl
  · refine issues_raised_of_thread h (exec_afadd a s) rfl (by decide) hok (by rw [htodo]; rfl) (by decide) (by decide) fun u hu => ⟨u, hu, ?_⟩
    rw [run_look, hu.flock, hslow]; rfl

end Sys2Proof.Machine
end

section
/-! SUPPORT. Accesses of a thread that stop its flock (R257, R265, R266, R347, R350). -/

namespace Sys2Proof.Machine

/-- What a thread does about what its accesses met. -/
def thMet (a : ThOp) (op thread : Nat) (m : Meets) : Prog := look fun s =>
  match m with
  | .ok => .skip
  | .walk x => progs [
      startWalk (a.k / 168) (flockUnit a.k a.core a.f) 0 (s.flock a.k a.core a.f).queue x true,
      thWait a.k a.core a.f op a.w thread x.va R.TH_WAIT_TRANSLATION]
  | .wake x => progs [
      wantStacks (s.dpaOf (a.k / 168) (a.k % 168) x.va) x.len,
      thWait a.k a.core a.f op a.w thread x.va (if s.wakeCause (s.dpaOf (a.k / 168) (a.k % 168) x.va) = 2 then R.TH_WAIT_WEIR else R.TH_WAIT_MEMORY)]
  | .fault x c lv => thStop a.k a.core a.f x.va thread x.access c lv
  | .bounds x => thDie a.k a.core a.f 0x12 x.va thread (x.access = 2) 0

section
variable {s u : Dev} {a : ThOp} {va n acc : Nat}

/-- Accesses that meet something: the flock does what it calls for, on the device as it is. -/
theorem thAccess_met {l : List VAcc} {m : Meets} (ho : (s.die (a.k / 168)).once = []) (hfill : (fillFromDie (a.k / 168) (a.k % 168) l).run s = s)
    (hm : s.meets (a.k / 168) (a.k % 168) l = m) (hok : m ≠ .ok) (op thread : Nat) (cont : Prog) :
    (thAccess a.k a.core a.f op a.w thread l cont).run s = (thMet a op thread m).run s := by
  simp only [thAccess]
  rw [run_seq, hfill, useOnce, run_seq, lendOnce_none ho, run_look, hm]
  cases m with
  | ok => exact absurd rfl hok
  | walk x => dsimp only; rw [run_seq, returnOnce_none ho]; rfl
  | wake x => dsimp only; rw [run_seq, returnOnce_none ho]; rfl
  | fault x c lv => dsimp only; rw [run_seq, returnOnce_none ho]; rfl
  | bounds x => dsimp only; rw [run_seq, returnOnce_none ho]; rfl

/-- Nothing is fetched from the die's cache where it is not what translates. -/
theorem fillFromDie_none {d p : Nat} {l : List VAcc} (h : ∀ x ∈ vaPieces l, ∀ e, s.xlate d p x.va x.access ≠ .die e) : (fillFromDie d p l).run s = s := by
  refine run_forAll_keeps (P := fun t => t = s) (fun x hx t ht => ?_) rfl
  rw [ht, run_look]
  cases hxl : s.xlate d p x.va x.access with
  | die e => exact absurd hxl (h x hx e)
  | _ => rfl

/-! ### Misaligned and out of range -/

/-- A misaligned access below 2^48 raises cause 0x13, whatever its page. -/
theorem thAligned_misaligned (ho : (s.die (a.k / 168)).once = []) (hva : va < 2 ^ 48) (hn : va % n ≠ 0) (op thread : Nat) (cont : Prog) :
    ∃ u, s.begun u a ∧ (thAligned a op thread [⟨va, n, acc⟩] cont).run s = (thDie a.k a.core a.f 0x13 va thread false 0).run u := by
  obtain ⟨u, hu, hrun⟩ := thAccess_run (l := []) ho (fun x hx => absurd hx List.not_mem_nil) op thread
  refine ⟨u, hu, ?_⟩
  have hfirst : ([⟨va, n, acc⟩] : List VAcc).takeWhile (fun x => decide (2 ^ 48 ≤ x.va) || x.va % x.len = 0) = [] := by
    rw [List.takeWhile_cons, decide_eq_false (Nat.not_le.mpr hva), decide_eq_false hn]; rfl
  simp only [thAligned]
  rw [hfirst, if_neg (by simp)]
  exact hrun _ ((thDie_still a va thread false 0 (by decide) u).2 _ (by rw [hu.die]; exact ho))

theorem thAligned_aligned (h : 2 ^ 48 ≤ va ∨ va % n = 0) (op thread : Nat) (cont : Prog) :
    thAligned a op thread [⟨va, n, acc⟩] cont = thAccess a.k a.core a.f op a.w thread [⟨va, n, acc⟩] cont := by
  have hfirst : ([⟨va, n, acc⟩] : List VAcc).takeWhile (fun x => decide (2 ^ 48 ≤ x.va) || x.va % x.len = 0) = [⟨va, n, acc⟩] := by
    rw [List.takeWhile_cons, if_pos (by simpa using h)]; rfl
  simp only [thAligned]
  rw [hfirst, if_pos rfl]

/-- An address of 2^48 or more is out of range. -/
theorem xlate_bounds (h : 2 ^ 48 ≤ va) (d p : Nat) : s.xlate d p va acc = .bounds := by rw [Dev.xlate, if_pos h]

theorem thAligned_bounds (ho : (s.die (a.k / 168)).once = []) (hva : 2 ^ 48 ≤ va) (hn : 0 < n) (hacc : acc ≠ 2) (op thread : Nat) (cont : Prog) :
    (thAligned a op thread [⟨va, n, acc⟩] cont).run s = (thDie a.k a.core a.f 0x12 va thread false 0).run s := by
  have hpieces : vaPieces [⟨va, n, acc⟩] = (pagePieces va n).map fun q => ⟨q.1, q.2, acc⟩ := by simp [vaPieces]
  obtain ⟨len, r, hr⟩ : ∃ len r, pagePieces va n = (va, len) :: r := by
    rw [pagePieces, if_neg (by omega)]
    dsimp only
    rw [List.range_succ_eq_map]
    exact ⟨_, _, rfl⟩
  have hfill : (fillFromDie (a.k / 168) (a.k % 168) [⟨va, n, acc⟩]).run s = s := fillFromDie_none fun x hx e hxl => by
    rw [hpieces] at hx
    obtain ⟨q, hq, rfl⟩ := List.mem_map.mp hx
    rw [xlate_bounds (hva.trans (pagePieces_within hq).1)] at hxl
    cases hxl
  have hmeets : s.meets (a.k / 168) (a.k % 168) [⟨va, n, acc⟩] = .bounds ⟨va, len, acc⟩ := by
    rw [Dev.meets, hpieces, hr, List.map_cons, Dev.meetsPieces, xlate_bounds hva]
  rw [thAligned_aligned (.inl hva), thAccess_met ho hfill hmeets Meets.noConfusion, thMet, run_look]
  dsimp only
  rw [decide_eq_false hacc]

/-! ### Faults and walks -/

/-- An aligned access whose page gives `m`. -/
theorem thAligned_met (ho : (s.die (a.k / 168)).once = []) (hva : va % n = 0) (hn : 0 < n) (hd : n ∣ 65536) {m : Meets} (hok : m ≠ .ok)
    (hdie : ∀ e, s.xlate (a.k / 168) (a.k % 168) va acc ≠ .die e) (hm : s.meetsPieces (a.k / 168) (a.k % 168) [⟨va, n, acc⟩] = m) (op thread : Nat)
    (cont : Prog) : (thAligned a op thread [⟨va, n, acc⟩] cont).run s = (thMet a op thread m).run s := by
  have hpieces : vaPieces [⟨va, n, acc⟩] = [⟨va, n, acc⟩] := vaPieces_aligned (by simpa using ⟨hva, hn, hd⟩)
  have hfill : (fillFromDie (a.k / 168) (a.k % 168) [⟨va, n, acc⟩]).run s = s := fillFromDie_none fun x hx => by
    rw [hpieces] at hx
    rw [List.mem_singleton.mp hx]
    exact hdie
  rw [thAligned_aligned (.inr hva), thAccess_met ho hfill (by rw [Dev.meets, hpieces, hm]) hok]

/-- The causes that a cached page or translation being off can give (R346). -/
theorem xlate_fault_cause {d p cause level : Nat} (h : s.xlate d p va acc = .fault cause level) : cause = 1 ∨ cause = 3 := by
  rw [Dev.xlate] at h
  split at h
  · cases h
  split at h
  · cases h; exact .inl rfl
  dsimp only at h
  split at h
  · split at h
    · cases h
    · cases h; exact .inr rfl
  · split at h
    · split at h <;> cases h
    · cases h

/-- The counters of a thread core are none of the fault queue's. -/
theorem counterOf_ne_dmmuFaults (a : ThOp) {off : Nat} (h : off < 0x100) : counterOf a off ≠ regAddr .fq (a.k / 168) 0 R.DMMU_FAULTS := by
  have hd := die_lt a
  have hc := core_lt a
  simp only [counterOf, regAddr, blockBase, clRegBase, regBase, R.DMMU_FAULTS]
  omega

theorem counterOf_ne_dmmuWalks (a : ThOp) {off : Nat} (h : off < 0x100) : counterOf a off ≠ regAddr .fq (a.k / 168) 0 R.DMMU_WALKS := by
  have hd := die_lt a
  have hc := core_lt a
  simp only [counterOf, regAddr, blockBase, clRegBase, regBase, R.DMMU_WALKS]
  omega

theorem counter_postFault (a : ThOp) {off : Nat} (h : off < 0x100) (r : FaultRec) (t : Dev) :
    ((postFault (a.k / 168) r).run t).regAt (counterOf a off) = t.regAt (counterOf a off) := by
  rw [postFault, run_look]
  split
  · rw [run_progs_cons, run_progs_cons, run_progs_nil, tally_run, if_neg (fun e => counterOf_ne_dmmuFaults a h e.1)]; rfl
  · rfl

theorem cl_postFault (d k : Nat) (r : FaultRec) (t : Dev) : ((postFault d r).run t).cl k = t.cl k := by
  rw [postFault, run_look]
  split
  · rw [run_progs_cons, run_progs_cons, run_progs_nil, cl_tally]; rfl
  · rfl

/-- A fault queue that has room takes the record. -/
theorem die_postFault (d : Nat) (r : FaultRec) (t : Dev) : ((postFault d r).run t).die d
    = if (t.die d).fq.length < 64 && (t.die d).backlog.isEmpty then { t.die d with fq := (t.die d).fq ++ [r] }
      else { t.die d with backlog := (t.die d).backlog ++ [r] } := by
  rw [postFault, run_look]
  split
  · rw [run_progs_cons, run_progs_cons, run_progs_nil, die_tally, onDie, run_look, run_upd, die_apply, if_pos rfl]
  · rw [onDie, run_look, run_upd, die_apply, if_pos rfl]

theorem recorded_congr {s v w : Dev} {a : ThOp} {cause status va thread : Nat} {fetch : Bool} (h : s.recorded v a cause status va thread fetch)
    (hr : ∀ off, off < 0x100 → w.regAt (counterOf a off) = v.regAt (counterOf a off)) : s.recorded w a cause status va thread fetch := by
  unfold Dev.recorded at h ⊢
  rw [hr _ (by decide), hr _ (by decide), hr _ (by decide), hr _ (by decide), hr _ (by decide), hr _ (by decide)]
  exact h

/-- What a fault leaves: the record, the flock where it stood, and its record in the fault queue if there is room. -/
theorem thStop_run {t : Dev} (hf : t.flockOf a = s.flockOf a) (hr : ∀ A, t.regAt A = s.regAt A) {cause : Nat} (hcause : cause = 1 ∨ cause = 3) (hacc : acc ≠ 2)
    (thread level : Nat) :
    let w := (thStop a.k a.core a.f va thread acc cause level).run t
    s.recorded w a (if cause = 3 then 0x11 else 0x10) (if cause = 3 then 0x11 else 0x10) va thread false
      ∧ w.flockOf a = { s.flockOf a with st := .faulted, wait := some ⟨0, 0, thread, va, 0, t.clock⟩ }
      ∧ ((t.die (a.k / 168)).fq.length < 64 → (t.die (a.k / 168)).backlog = [] → (w.die (a.k / 168)).fq = (t.die (a.k / 168)).fq
          ++ [⟨flockUnit a.k a.core a.f, 0, (s.flockOf a).queue, va, cause, level, acc, false⟩])
      ∧ ((t.die (a.k / 168)).once = [] → (w.die (a.k / 168)).once = []) := by
  intro w
  obtain ⟨c, hc⟩ : ∃ c, c = if cause = 3 then 0x11 else 0x10 := ⟨_, rfl⟩
  have hcval : c = 0x11 ∨ c = 0x10 := by rw [hc]; split <;> simp
  have hstatus : thStatus c = c := by rcases hcval with h | h <;> rw [h] <;> decide
  obtain ⟨v, hv⟩ : ∃ v, v = (thRecord a.k a.core a.f c va thread false).run t := ⟨_, rfl⟩
  have hparts : t.sameBut v logParts := by rw [hv]; exact sameBut_thRecord ..
  have hrec : s.recorded v a c c va thread false := by
    have h := recorded_thRecord (cause := c) (va := va) (thread := thread) (fetch := false) hf (fun _ _ => hr _) (by rcases hcval with h | h <;> rw [h] <;> decide)
    rw [hstatus, ← hv] at h
    exact h
  obtain ⟨y, hy⟩ : ∃ y, y = (onFlock a.k a.core a.f fun x => { x with st := .faulted, wait := some ⟨0, 0, thread, va, 0, t.clock⟩ }).run v := ⟨_, rfl⟩
  have hqueue : (t.flock a.k a.core a.f).queue = (s.flockOf a).queue := by rw [← hf]; rfl
  have hw : w = (postFault (a.k / 168) ⟨flockUnit a.k a.core a.f, 0, (s.flockOf a).queue, va, cause, level, acc, false⟩).run y := by
    have hne : cause ≠ 4 := by omega
    show (thStop a.k a.core a.f va thread acc cause level).run t = _
    rw [thStop, run_look]
    dsimp only
    rw [if_neg hne, decide_eq_false hacc, ← hc, run_progs_cons, run_progs_cons, run_progs_cons, run_progs_nil, ← hv, hqueue, ← hy]
  have hydie : y.die (a.k / 168) = t.die (a.k / 168) := by rw [hy, die_onFlock, hparts.die (by decide)]
  rw [hw, ← hc]
  refine ⟨recorded_congr hrec fun off hoff => ?_, ?_, fun hroom hback => ?_, fun honce => ?_⟩
  · rw [counter_postFault a hoff, hy, regAt_onFlock]
  · rw [Dev.flockOf, Dev.flock, cl_postFault, ← Dev.flock, ← Dev.flockOf, hy, flockOf_onFlock, Dev.flockOf, Dev.flock, hparts.cl (by decide)]
    exact congrArg (fun x : Flock => { x with st := .faulted, wait := some ⟨0, 0, thread, va, 0, t.clock⟩ }) hf
  · rw [die_postFault, hydie, if_pos (by rw [decide_eq_true hroom, hback]; rfl)]
  · rw [die_postFault, hydie]
    split
    · exact honce
    · exact honce

/-- What starting a walk leaves: a walk for the page, if the die has room for one or has one already. -/
theorem startWalk_run (x : VAcc) (queue : Nat) (t : Dev) :
    let y := (startWalk (a.k / 168) (flockUnit a.k a.core a.f) 0 queue x true).run t
    y.flockOf a = t.flockOf a ∧ (∀ off, off < 0x100 → y.regAt (counterOf a off) = t.regAt (counterOf a off))
      ∧ (y.die (a.k / 168)).once = (t.die (a.k / 168)).once
      ∧ ((t.die (a.k / 168)).walks.length < 16 → ∃ w, w ∈ (y.die (a.k / 168)).walks ∧ w.unit = flockUnit a.k a.core a.f ∧ w.va / 65536 = x.va / 65536) := by
  intro y
  have hy : y = (startWalk (a.k / 168) (flockUnit a.k a.core a.f) 0 queue x true).run t := rfl
  rw [startWalk, run_look] at hy
  dsimp only at hy
  by_cases hany : (t.die (a.k / 168)).walks.any (fun w => w.unit == flockUnit a.k a.core a.f && w.va / 65536 == x.va / 65536) = true
  · rw [if_pos hany, run_skip] at hy
    rw [hy]
    refine ⟨rfl, fun _ _ => rfl, rfl, fun _ => ?_⟩
    obtain ⟨w, hw, hmatch⟩ := List.any_eq_true.mp hany
    obtain ⟨hunit, hpage⟩ := Bool.and_eq_true_iff.mp hmatch
    exact ⟨w, hw, beq_iff_eq.mp hunit, beq_iff_eq.mp hpage⟩
  · rw [if_neg hany] at hy
    by_cases hroom : (t.die (a.k / 168)).walks.length < 16
    · rw [if_pos hroom, run_progs_cons, run_progs_cons, run_progs_nil] at hy
      have hdie : y.die (a.k / 168) = { t.die (a.k / 168) with
          walks := (t.die (a.k / 168)).walks ++ [⟨flockUnit a.k a.core a.f, 0, queue, x.va, x.access, true, false⟩] } := by
        rw [hy, die_tally, onDie, run_look, run_upd, die_apply, if_pos rfl]
      refine ⟨?_, fun off hoff => ?_, by rw [hdie], fun _ => ?_⟩
      · rw [hy, flockOf_tally]; rfl
      · rw [hy, tally_run, if_neg fun e => counterOf_ne_dmmuWalks a hoff e.1]; rfl
      · rw [hdie]
        exact ⟨_, List.mem_append_right _ List.mem_cons_self, rfl, rfl⟩
    · rw [if_neg hroom, run_skip] at hy
      rw [hy]
      exact ⟨rfl, fun _ _ => rfl, rfl, fun h => absurd h hroom⟩

end

end Sys2Proof.Machine
end

section
/-! CERTIFICATE. What a data access meets (R257, R265, R266, R350). -/

namespace Sys2Proof.Machine

/-- The thread's address goes to memory at once: it is misaligned or out of range, or its page is in no cache or forbids it. -/
def Dev.meetsBar (s : Dev) (a : ThOp) (va n access : Nat) : Prop :=
  2 ^ 48 ≤ va ∨ va % n ≠ 0
    ∨ (∀ dpa, s.xlate (a.k / 168) (a.k % 168) va access ≠ .hit dpa) ∧ ∀ e, s.xlate (a.k / 168) (a.k % 168) va access ≠ .die e

/-- An instruction that accesses `n` bytes at `va` in its thread `i`. -/
def AccessesAt (s : State) (a : ThOp) (i : Nat) (c : Instr) (op va n access : Nat) (ok : Bool) : Prop :=
  (n ∣ 64 ∧ access ≠ 2 ∧ c.opcode = op ∧ opDefined op = true) ∧ ∃ (pipe : Nat) (each : Nat → Prog),
    exec c s = s.perform (thStep a op pipe ok (thSeq a each)) ∧ (s.m.meetsBar a va n access → ∀ u, s.m.begun u a → ∃ cont,
      (each i).run u = (thAligned a op i [⟨va, n, access⟩] cont).run u)

section
variable {s : State} {a : ThOp} {i : Nat} {c : Instr} {op va n access : Nat}

theorem issues_misaligned (hc : AccessesAt s a i c op va n access true) (h : s.m.stands a) (htodo : (s.m.todo a).head? = some i)
    (hva : va < 2 ^ 48) (hn : va % n ≠ 0) : issues c s a fun t => s.m.raised t a 0x13 0x12 va i false := by
  obtain ⟨⟨-, -, ho, hd⟩, pipe, each, he, hacc⟩ := hc
  refine issues_raised_of_thread h he ho hd rfl htodo (by decide) (by decide) fun u hu => ?_
  obtain ⟨cont, hrun⟩ := hacc (.inr (.inl hn)) u hu
  obtain ⟨v, hv, hdie⟩ := thAligned_misaligned (s := u) (by rw [hu.die]; exact stands_once h) hva hn op i cont
  exact ⟨v, hu.trans hv, hrun.trans hdie⟩

theorem issues_bounds (hc : AccessesAt s a i c op va n access true) (h : s.m.stands a) (htodo : (s.m.todo a).head? = some i)
    (hva : 2 ^ 48 ≤ va) : issues c s a fun t => s.m.raised t a 0x12 0x12 va i false := by
  obtain ⟨⟨hn, haccess, ho, hd⟩, pipe, each, he, hacc⟩ := hc
  refine issues_raised_of_thread h he ho hd rfl htodo (by decide) (by decide) fun u hu => ?_
  obtain ⟨cont, hrun⟩ := hacc (.inl hva) u hu
  exact ⟨u, hu, hrun.trans (thAligned_bounds (by rw [hu.die]; exact stands_once h) hva (Nat.pos_of_dvd_of_pos hn (by decide)) haccess op i cont)⟩

theorem issues_fault (hc : AccessesAt s a i c op va n access true) (h : s.m.stands a) (htodo : (s.m.todo a).head? = some i)
    (hapart : tlbApart (s.m.cl a.k).tlb = true) (hva : va % n = 0) {cause level : Nat} (hx : s.m.xlate (a.k / 168) (a.k % 168) va access = .fault cause level) :
    issues c s a fun t => s.m.recorded t a (if cause = 3 then 0x11 else 0x10) (if cause = 3 then 0x11 else 0x10) va i false
      ∧ t.flockOf a = { s.m.flockOf a with st := .faulted, wait := some ⟨0, 0, i, va, 0, s.m.clock⟩ }
      ∧ ((s.m.die (a.k / 168)).fq.length < 64 → (s.m.die (a.k / 168)).backlog = [] → (t.die (a.k / 168)).fq = (s.m.die (a.k / 168)).fq
          ++ [⟨flockUnit a.k a.core a.f, 0, (s.m.flockOf a).queue, va, cause, level, access, false⟩]) := by
  obtain ⟨⟨hn, haccess, ho, hd⟩, pipe, each, he, hacc⟩ := hc
  refine issues_of_stop h he ho hd rfl htodo fun u hu => ?_
  have hux := (hu.xlate hapart va access).trans hx
  have honce : (u.die (a.k / 168)).once = [] := by rw [hu.die]; exact stands_once h
  obtain ⟨cont, hrun⟩ := hacc (.inr (.inr ⟨fun _ => by rw [hx]; exact Xl.noConfusion, fun _ => by rw [hx]; exact Xl.noConfusion⟩)) u hu
  have hmet := thAligned_met (s := u) (a := a) honce hva (Nat.pos_of_dvd_of_pos hn (by decide)) (hn.trans (by decide)) Meets.noConfusion
    (fun e => by rw [hux]; exact Xl.noConfusion) (by rw [Dev.meetsPieces, hux]) op i cont
  rw [thMet, run_look] at hmet
  obtain ⟨hrec, hflock, hfq, hw⟩ := thStop_run (va := va) (acc := access) hu.flock hu.regAt (xlate_fault_cause hx) haccess i level
  have hclock : u.clock = s.m.clock := hu.outside (fun v => v.clock) fun _ => rfl
  rw [hclock] at hflock
  rw [hu.die] at hfq
  exact ⟨_, hrun.trans hmet, by rw [hflock]; exact (by decide : FlockSt.faulted ≠ .run), hw honce, hrec, hflock, hfq⟩

theorem issues_miss (hc : AccessesAt s a i c op va n access true) (h : s.m.stands a) (htodo : (s.m.todo a).head? = some i)
    (hapart : tlbApart (s.m.cl a.k).tlb = true) (hva : va % n = 0) (hx : s.m.xlate (a.k / 168) (a.k % 168) va access = .miss) :
    issues c s a fun t => s.m.waitsOn t a op R.TH_WAIT_TRANSLATION
      ∧ ((s.m.die (a.k / 168)).walks.length < 16 → ∃ w, w ∈ (t.die (a.k / 168)).walks ∧ w.unit = flockUnit a.k a.core a.f ∧ w.va / 65536 = va / 65536) := by
  obtain ⟨⟨hn, haccess, ho, hd⟩, pipe, each, he, hacc⟩ := hc
  refine issues_of_stop h he ho hd rfl htodo fun u hu => ?_
  have hux := (hu.xlate hapart va access).trans hx
  have honce : (u.die (a.k / 168)).once = [] := by rw [hu.die]; exact stands_once h
  obtain ⟨cont, hrun⟩ := hacc (.inr (.inr ⟨fun _ => by rw [hx]; exact Xl.noConfusion, fun _ => by rw [hx]; exact Xl.noConfusion⟩)) u hu
  have hmet := thAligned_met (s := u) (a := a) honce hva (Nat.pos_of_dvd_of_pos hn (by decide)) (hn.trans (by decide)) Meets.noConfusion
    (fun e => by rw [hux]; exact Xl.noConfusion) (by rw [Dev.meetsPieces, hux]) op i cont
  rw [thMet, run_look] at hmet
  dsimp only at hmet
  rw [run_progs_cons, run_progs_cons, run_progs_nil] at hmet
  obtain ⟨hflock, hregs, hyonce, hwalks⟩ := startWalk_run (a := a) ⟨va, n, access⟩ (u.flock a.k a.core a.f).queue u
  have hwaits : s.m.waitsOn _ a op R.TH_WAIT_TRANSLATION := waitsOn_thWait (hflock.trans hu.flock)
    ((hregs R.TH_WAIT_TRANSLATION (by decide)).trans (hu.regAt _)) op i va
  refine ⟨_, hrun.trans hmet, ?_, ?_, hwaits, fun hroom => ?_⟩
  · obtain ⟨⟨v, -, -, hwaiting⟩, -⟩ := hwaits
    rw [hwaiting]; exact (by decide : FlockSt.wait ≠ .run)
  · rw [once_thWait]; exact hyonce.trans honce
  · rw [thWait_run, thTally, die_tally, die_onFlock]
    exact hwalks (by rw [hu.die]; exact hroom)

end

/-! ### The instructions -/

section
variable (s : State) (a : ThOp) (i : Nat)

theorem accessesAt_load {c : Instr} {op : Nat} {signed : Bool} (he : exec c s = s.perform (loadProg a op signed)) (ho : c.opcode = op) (hd : opDefined op = true) :
    AccessesAt s a i c op (memAddr a ((s.m.flockOf a).thr i) (2 ^ fSz a.w)) (2 ^ fSz a.w) accRead (memOk .g .g [0, 1, 2, 3] a.w) := by
  refine ⟨⟨fSz_dvd a.w, by decide, ho, hd⟩, _, _, he, fun _ u hu => ?_⟩
  constructor
  rw [run_look, hu.flock, ← memVa_eq]

theorem accessesAt_st : AccessesAt s a i (.st a) 0x72 (memAddr a ((s.m.flockOf a).thr i) (2 ^ fSz a.w)) (2 ^ fSz a.w) accWrite (memOk .g .g [0, 1, 2, 3] a.w) := by
  refine ⟨⟨fSz_dvd a.w, by decide, rfl, by decide⟩, _, _, (rfl : exec (.st a) s = s.perform (stProg a)), fun _ u hu => ?_⟩
  constructor
  rw [run_look, hu.flock, ← memVa_eq]

theorem accessesAt_vld : AccessesAt s a i (.vld a) 0x73 (memAddr a ((s.m.flockOf a).thr i) 64) 64 accRead (memOk .v .g [0] a.w) := by
  refine ⟨⟨dvd_refl 64, by decide, rfl, by decide⟩, _, _, (rfl : exec (.vld a) s = s.perform (vldProg a)), fun _ u hu => ?_⟩
  constructor
  rw [run_look, hu.flock, ← memVa_eq]

/-- VST's thread goes on as a plain store where its address goes to memory at once. -/
theorem vst_bar_run {s u : Dev} {a : ThOp} {va : Nat} (hu : s.begun u a) (ho : (s.die (a.k / 168)).once = []) (hapart : tlbApart (s.cl a.k).tlb = true)
    (hbar : s.meetsBar a va 64 accWrite) (plain : Prog) (send : Dev → Nat → Prog) :
    (if 2 ^ 48 ≤ va || va % 64 ≠ 0 then plain
      else .seq (fillFromDie (a.k / 168) (a.k % 168) [⟨va, 64, accWrite⟩]) (look fun s =>
        match (s.lent (a.k / 168) (a.k % 168) fun u => u == flockUnit a.k a.core a.f).xlate (a.k / 168) (a.k % 168) va accWrite with
        | .hit dpa => match mailboxAt dpa with
          | some m => send s m
          | none => plain
        | _ => plain)).run u = plain.run u := by
  split
  next => rfl
  next hin =>
    rw [Bool.or_eq_true, decide_eq_true_iff, decide_eq_true_iff, not_or, not_not] at hin
    obtain ⟨hlow, hva⟩ := hin
    have hx := (hbar.resolve_left hlow).resolve_left (not_not.mpr hva)
    have hfill : (fillFromDie (a.k / 168) (a.k % 168) [⟨va, 64, accWrite⟩]).run u = u := fillFromDie_none fun x hmem e => by
      rw [vaPieces_aligned (by simp [hva])] at hmem
      rw [List.mem_singleton.mp hmem, hu.xlate hapart]
      exact hx.2 e
    rw [run_seq, hfill, run_look, Dev.lent, lendOnce_none (by rw [hu.die]; exact ho), hu.xlate hapart]
    split
    next dpa hhit => exact absurd hhit (hx.1 dpa)
    next => rfl

theorem accessesAt_vst (h : s.m.stands a) (hapart : tlbApart (s.m.cl a.k).tlb = true) :
    AccessesAt s a i (.vst a) 0x74 (memAddr a ((s.m.flockOf a).thr i) 64) 64 accWrite (memOk .v .g [0] a.w) := by
  refine ⟨⟨dvd_refl 64, by decide, rfl, by decide⟩, _, _, (rfl : exec (.vst a) s = s.perform (vstProg a)), fun hbar u hu => ?_⟩
  constructor
  rw [run_look, hu.flock]
  simp only [memVa_eq]
  exact vst_bar_run hu (stands_once h) hapart hbar _ _

theorem accessesAt_atomic {c : Instr} {op : Nat} {f : Thread → Nat → Option Nat × Nat} {ok : Bool}
    (he : exec c s = s.perform (thStep a op pipeMemory ok (thSeq a fun t => atomicThread a op (laneLen a.w) t f))) (ho : c.opcode = op) (hd : opDefined op = true) :
    AccessesAt s a i c op (((s.m.flockOf a).thr i).x (fA a.w)).toNat (laneLen a.w) accAtomic ok := by
  refine ⟨⟨laneLen_dvd a.w, by decide, ho, hd⟩, _, _, he, fun _ u hu => ?_⟩
  constructor
  rw [atomicThread_run, hu.flock]

end

/-- Settles O19: each access is misaligned, out of range, forbidden, or without a translation in any cache. -/
theorem dataAccessExceptions : Obligations.DataAccessExceptions := by
  intro s a i h hapart htodo x r n m mem va ok atomics
  have hall : ∀ e ∈ mem ++ atomics, AccessesAt s a i e.1 e.2.1 e.2.2.1 e.2.2.2.1 e.2.2.2.2.1 e.2.2.2.2.2 := by
    simp only [mem, atomics, List.forall_mem_append, List.forall_mem_cons, List.not_mem_nil, false_imp_iff, implies_true, and_true]
    refine ⟨⟨?_, ?_, ?_, ?_, ?_⟩, ?_, ?_, ?_, ?_, ?_, ?_, ?_⟩
    · exact accessesAt_load s a i (exec_ld a s) rfl (by decide)
    · exact accessesAt_load s a i (exec_lds a s) rfl (by decide)
    · exact accessesAt_st s a i
    · exact accessesAt_vld s a i
    · exact accessesAt_vst s a i h hapart
    · exact accessesAt_atomic s a i (exec_aadd a s) rfl (by decide)
    · exact accessesAt_atomic s a i (exec_amin a s) rfl (by decide)
    · exact accessesAt_atomic s a i (exec_amax a s) rfl (by decide)
    · exact accessesAt_atomic s a i (exec_aand a s) rfl (by decide)
    · exact accessesAt_atomic s a i (exec_aor a s) rfl (by decide)
    · exact accessesAt_atomic s a i (exec_axchg a s) rfl (by decide)
    · exact accessesAt_atomic s a i (exec_acas a s) rfl (by decide)
  intro c op va n access legal hmem hlegal
  have hc := hall _ hmem
  rw [hlegal] at hc
  exact ⟨issues_misaligned hc h htodo, issues_bounds hc h htodo, fun hva _ _ hx => issues_fault hc h htodo hapart hva hx,
    issues_miss hc h htodo hapart⟩

end Sys2Proof.Machine
end

section
/-! SUPPORT. Flocks that wait and try their instruction again (R243, R262): from where their threads go on. -/

namespace Sys2Proof.Machine

/-- The flock runs, for the first time or again, and its threads find what stood before but for the code and the translations cached. -/
structure Dev.ready (s u : Dev) (a : ThOp) : Prop where
  same : s.sameButFlock u a
  parts : s.sameBut u [.clusters]
  flock : u.flockOf a = { s.flockOf a with st := .run }

/-- The flock runs again; all else stands. -/
structure Dev.resumed (s u : Dev) (a : ThOp) : Prop extends s.ready u a where
  tlb : (u.cl a.k).tlb = (s.cl a.k).tlb

theorem resumed_onFlock (s : Dev) (a : ThOp) : s.resumed ((onFlock a.k a.core a.f fun y => { y with st := .run }).run s) a :=
  ⟨⟨sameButFlock_onFlock .., sameBut_onCore .., flockOf_onFlock ..⟩, tlb_onFlock ..⟩

section
variable {s u : Dev} {a : ThOp}

theorem Dev.begun.ready (h : s.begun u a) (hst : (s.flockOf a).st = .run) : s.ready u a := ⟨h.same, h.parts, by rw [h.flock, ← hst]⟩

/-- What does not depend on the clusters stands. -/
theorem Dev.ready.outside {α : Type} (h : s.ready u a) (f : Dev → α) (hf : ∀ v : Dev, f { v with clusters := [] } = f v) : f u = f s := by
  have hp : { u with clusters := [] } = { s with clusters := [] } := h.parts
  rw [← hf u, hp, hf]

theorem Dev.ready.die (h : s.ready u a) (d : Nat) : u.die d = s.die d := h.outside (fun v => v.die d) fun _ => rfl

theorem Dev.ready.regAt (h : s.ready u a) (A : Nat) : u.regAt A = s.regAt A := h.outside (fun v => v.regAt A) fun _ => rfl

theorem Dev.resumed.xlate (h : s.resumed u a) (va access : Nat) : u.xlate (a.k / 168) (a.k % 168) va access = s.xlate (a.k / 168) (a.k % 168) va access := by
  have hon : u.dmmuOn = s.dmmuOn := h.outside (fun v => v.dmmuOn) fun _ => rfl
  simp only [Dev.xlate, ck_div_mod, h.tlb, hon, h.die]

theorem Dev.resumed.dataAt {va n acc dpa : Nat} (h : s.resumed u a) (hd : s.dataAt a va n acc dpa) : u.dataAt a va n acc dpa := by
  obtain ⟨hapart, hva, hx, hal, hplace, hreach, hone, hbad, hzc⟩ := hd
  refine ⟨by rw [h.tlb]; exact hapart, hva, (h.xlate va acc).trans hx, hal, hplace, (h.outside (fun v => v.reachRange dpa n) fun _ => rfl).trans hreach,
    (h.outside (fun v => touched v.oneBit (dpa / 64 * 64) 64) fun _ => rfl).trans hone, (h.outside (fun v => touched v.bad (dpa / 64 * 64) 64) fun _ => rfl).trans hbad,
    fun hs => (h.outside (fun v => (v.stk (v.stackNo (dpa / 256 * 256))).zc) fun _ => rfl).trans (hzc hs)⟩

/-- A flock that tried again and waits still. -/
theorem Dev.ready.waitsOn {t : Dev} {op off : Nat} (h : s.ready u a) (ht : u.waitsOn t a op off) : s.waitsOn t a op off := by
  obtain ⟨⟨v, hop, hword, hflock⟩, hreg⟩ := ht
  rw [h.flock] at hflock
  rw [h.regAt] at hreg
  exact ⟨⟨v, hop, hword, hflock⟩, hreg⟩

end

end Sys2Proof.Machine
end

section
/-! CERTIFICATE. Fences, prefetches and waits on words of memory (R243, R251, R257 to R259). -/

namespace Sys2Proof.Machine

/-- A thread that becomes what it was. -/
theorem thr_kept (x : Flock) (i j : Nat) : (if j = i then id (x.thr i) else x.thr j) = x.thr j := by
  split
  next h => rw [h]; rfl
  next => rfl

/-- The last thread's instruction leaves its thread, the memory and what the drovers hold as they were. -/
theorem Dev.passed.plain {s w t : Dev} {a : ThOp} {i : Nat} (ht : s.passed w t a i id) (hcore : s.sameButCore w a) (hmem : s.sameMemory w)
    (hdrv : w.drovers = s.drovers) (hregs : ∀ A, w.regAt A = s.regAt A) :
    s.sameButCore t a ∧ s.finished t a 0 id ∧ s.sameMemory t ∧ t.drovers = s.drovers ∧ s.regsBecome t (s.issuedOne a) := by
  have hends : s.ends w t a i id := ⟨ht, sameButCore_trans hcore (sameButCore_of_sameButFlock ht.same)⟩
  obtain ⟨hthr, hflock⟩ := ht.finished
  refine ⟨hends.core, ⟨fun j => ?_, hflock⟩, hends.sameMemory hmem, hends.drovers.trans hdrv, hends.regsBecome hregs⟩
  rw [hthr, thr_kept, thr_kept]

/-! ### FENCE -/

/-- Some threads have passed a fence: the flock stands but for its DONE, and the data cache is empty if `hit`. -/
structure Dev.fenced (s w : Dev) (a : ThOp) (hit : Bool) : Prop where
  core : s.sameButCore w a
  thr : ∀ j, (w.flockOf a).thr j = (s.flockOf a).thr j
  flock : { w.flockOf a with threads := [], done := 0 } = { s.flockOf a with threads := [], done := 0 }
  once : (w.die (a.k / 168)).once = []
  memory : s.sameMemory w
  drovers : w.drovers = s.drovers
  regs : ∀ A, w.regAt A = s.regAt A
  dcache : w.dcacheOf a = if hit then [] else s.dcacheOf a

/-- What a fence does in one thread. -/
def fenceThread (a : ThOp) (c : Bool) (i : Nat) : Prog := progs [only c (acquire a), thDone a i id]

section
variable {s u w : Dev} {a : ThOp} {hit : Bool}

theorem Dev.begun.fenced (hu : s.begun u a) (ho : (s.die (a.k / 168)).once = []) : s.fenced u a false where
  core := (hu.midway ho).core
  thr := fun j => by rw [hu.flock]
  flock := by rw [hu.flock]
  once := (hu.midway ho).once
  memory := hu.sameMemory
  drovers := hu.drovers
  regs := hu.regAt
  dcache := hu.dcacheOf

theorem Dev.fenced.acquire (h : s.fenced w a hit) (c : Bool) : s.fenced ((only c (Machine.acquire a)).run w) a (hit || c) := by
  cases c with
  | false => rw [Bool.or_false]; exact h
  | true =>
    exact ⟨sameButCore_trans h.core (sameButCore_dcache w a fun _ => []), fun j => by rw [run_only_true, Machine.acquire, flockOf_onDcache, h.thr],
      by rw [run_only_true, Machine.acquire, flockOf_onDcache, h.flock], h.once, h.memory, h.drovers, h.regs,
      by rw [run_only_true, Machine.acquire, dcacheOf_onDcache w a fun _ => [], Bool.or_true, if_pos rfl]⟩

theorem Dev.fenced.done (h : s.fenced w a hit) (i : Nat) : s.fenced ((thDone a i id).run w) a hit := by
  have hsame : w.sameButFlock ((thDone a i id).run w) a := sameButFlock_onFlock ..
  refine ⟨sameButCore_trans h.core (sameButCore_of_sameButFlock hsame), fun j => ?_, ?_, h.once, h.memory, h.drovers, h.regs,
    (dcacheOf_of_sameButFlock hsame).trans h.dcache⟩
  · rw [thDone, flockOf_onFlock, ← h.thr]
    exact (thr_setThr ..).trans (thr_kept ..)
  · rw [thDone, flockOf_onFlock]; exact h.flock

theorem Dev.fenced.turns {c : Bool} {l : List Nat} (h : s.fenced w a hit) (hst : (s.flockOf a).st = .run) :
    s.fenced ((forAll l (thTurn a (fenceThread a c))).run w) a (hit || (c && !l.isEmpty)) := by
  induction l generalizing w hit with
  | nil => rw [run_forAll_nil, List.isEmpty_nil, Bool.not_true, Bool.and_false, Bool.or_false]; exact h
  | cons i r ih =>
    have hrunning : (w.flockOf a).st = .run := (congrArg (fun x : Flock => x.st) h.flock).trans hst
    have hi := ih ((h.acquire c).done i)
    rw [run_forAll_cons, thTurn_run hrunning, fenceThread, run_progs_cons, run_progs_cons, run_progs_nil]
    have hbool : (hit || c || (c && !r.isEmpty)) = (hit || (c && !(i :: r).isEmpty)) := by cases hit <;> cases c <;> cases r <;> rfl
    rwa [hbool] at hi

/-- The flock goes on behind a fence. -/
theorem Dev.fenced.finished (h : s.fenced w a hit) : s.finished ((thNext a.k a.core a.f ((s.flockOf a).pc + 4)).run w) a 0 id := by
  unfold Dev.finished
  rw [thNext_run, flockOf_reg, flockOf_onFlock]
  exact ⟨fun j => (h.thr j).trans (thr_kept ..).symm,
    congrArg (fun x : Flock => { x with pc := ((s.flockOf a).pc + 4) % 2 ^ 64, st := .run, done := 0, wait := none }) h.flock⟩

end

theorem exec_fence (a : ThOp) (s : State) : exec (.fence a) s
    = s.perform (thStep a 0x90 pipeMemory (regOk .o .no .no [0, 1, 2] a.w) (thSeq a (fenceThread a (fM a.w ≠ 0 && fD a.w % 2 = 1)))) := rfl

theorem issues_fence {s : State} {a : ThOp} (h : s.m.stands a) (hok : regOk .o .no .no [0, 1, 2] a.w = true) :
    issues (.fence a) s a fun t => (s.m.sameButCore t a ∧ s.m.finished t a 0 id ∧ s.m.sameMemory t ∧ t.drovers = s.m.drovers ∧ s.m.regsBecome t (s.m.issuedOne a))
      ∧ t.dcacheOf a = if s.m.todo a ≠ [] ∧ fM a.w ≠ 0 ∧ fD a.w % 2 = 1 then [] else s.m.dcacheOf a := by
  obtain ⟨-, hst, -⟩ := id h
  refine issues_of_runs h (exec_fence a s) rfl (by decide) hok fun t ht => ?_
  obtain ⟨u, hu, hrun⟩ := thSeq_run ht hst (fenceThread a (fM a.w ≠ 0 && fD a.w % 2 = 1))
  have hw := (hu.fenced (stands_once h)).turns (c := fM a.w ≠ 0 && fD a.w % 2 = 1) (l := s.m.todo a) hst
  obtain ⟨w, hweq⟩ : ∃ w, w = (forAll (s.m.todo a) (thTurn a (fenceThread a (fM a.w ≠ 0 && fD a.w % 2 = 1)))).run u := ⟨_, rfl⟩
  rw [← hweq] at hw hrun
  have hrunning : (w.flockOf a).st = .run := (congrArg (fun x : Flock => x.st) hw.flock).trans hst
  have hsame : w.sameButFlock ((thNext a.k a.core a.f ((s.m.flockOf a).pc + 4)).run w) a := by
    rw [thNext_run]; exact sameButFlock_trans (sameButFlock_onFlock ..) (sameButFlock_reg ..)
  have honce : (((thNext a.k a.core a.f ((s.m.flockOf a).pc + 4)).run w).die (a.k / 168)).once = [] := by
    rw [thNext_run, die_reg, die_onFlock]; exact hw.once
  have hregs := regsBecome_next a ((s.m.flockOf a).pc + 4) hw.regs
  have hfin := hw.finished
  have hlast := hrun.trans (thLast_run hrunning)
  obtain ⟨y, hy⟩ : ∃ y, y = (thNext a.k a.core a.f ((s.m.flockOf a).pc + 4)).run w := ⟨_, rfl⟩
  rw [← hy] at hsame honce hregs hfin hlast
  refine ⟨y, hlast, honce, ⟨sameButCore_trans hw.core (sameButCore_of_sameButFlock hsame), hfin, ⟨?_, ?_⟩, ?_, hregs⟩, ?_⟩
  · exact (congrArg (fun v : Dev => v.mem) hsame.1).trans hw.memory.1
  · exact (congrArg (fun v : Dev => v.undef) hsame.1).trans hw.memory.2
  · exact (congrArg (fun v : Dev => v.drovers) hsame.1).trans hw.drovers
  · rw [dcacheOf_of_sameButFlock hsame, hw.dcache]
    refine if_congr ?_ rfl rfl
    simp only [Bool.false_or, Bool.and_eq_true, decide_eq_true_iff, Bool.not_eq_true', List.isEmpty_eq_false_iff]
    exact and_comm

/-! ### PREF -/

section
variable {s u : Dev} {a : ThOp} {dpa : Nat}

/-- A prefetch of a clean line fills it. -/
theorem Dev.begun.fillLine (hu : s.begun u a) (ho : (s.die (a.k / 168)).once = []) (hc : s.cleanAt dpa 1) (hs : dpa < stackEnd) :
    ∃ w, (Machine.fillLine a.k a.core (dpa / 64 * 64)).run u = w ∧ s.midway w a ∧ s.sameMemory w ∧ w.drovers = s.drovers ∧ (∀ A, w.regAt A = s.regAt A)
      ∧ (w.dcacheOf a).head? = some (dpa / 64 * 64, s.bytesAt (dpa / 64 * 64) 64) := by
  have hline := (hu.cleanAt hc).wholeLine ((memPlace_iff _).mpr (.inl (lt_of_le_of_lt (Nat.div_mul_le_self ..) hs)))
  refine ⟨_, fillLine_run hline rfl a.k a.core, midway_filled _ (hu.midway ho), hu.sameMemory, hu.drovers, hu.regAt, ?_⟩
  rw [dcacheOf_onDcache _ a fun x => dcachePut (Config.freeNat u.free) x.dcache (dpa / 64 * 64) (u.bytesAt (dpa / 64 * 64) 64), hu.bytesAt]
  exact (dcachePut_head ..).1

/-- No line that is to be filled is held. -/
theorem Dev.begun.notHeld (hu : s.begun u a) (h : s.lineOf a dpa = none) :
    (((u.cl a.k).core a.core).dcache.any fun e => e.1 == dpa / 64 * 64) = false := by
  rw [show ((u.cl a.k).core a.core).dcache = s.dcacheOf a from hu.dcacheOf, List.any_eq_false]
  intro e he
  exact List.find?_eq_none.mp h e he

end

/-- What PREF does in one thread. -/
def prefThread (a : ThOp) (t : Nat) : Prog := look fun s =>
  .seq (fillFromDie (a.k / 168) (a.k % 168) [⟨memVa ((s.flockOf a).thr t) a.w (2 ^ fSz a.w), 1, accRead⟩]) (look fun v => progs [
    match v.xlate (a.k / 168) (a.k % 168) (memVa ((s.flockOf a).thr t) a.w (2 ^ fSz a.w)) accRead with
    | .hit dpa => only (dpa < stackEnd && v.reachAt dpa == .ok && !(((v.cl a.k).core a.core).dcache.any fun (e : Nat × List Byte) => e.1 == dpa / 64 * 64)
        && !v.readBad (dpa / 64 * 64) 64) (fillLine a.k a.core (dpa / 64 * 64))
    | _ => .skip, thDone a t id])

theorem exec_pref (a : ThOp) (s : State) : exec (.pref a) s = s.perform (thStep a 0x77 pipeMemory (memOk .no .g [0, 1, 2, 3] a.w) (thSeq a (prefThread a))) := rfl

/-- A prefetch fetches nothing from the die's cache where it is not what translates. -/
theorem fillFromDie_byte {s : Dev} {d p va : Nat} (h : ∀ e, s.xlate d p va accRead ≠ .die e) : (fillFromDie d p [⟨va, 1, accRead⟩]).run s = s :=
  fillFromDie_none fun x hx => by
    rw [vaPieces_aligned (by simp [Nat.mod_one])] at hx
    rw [List.mem_singleton.mp hx]
    exact h

/-! ### WAITV -/

/-- What WAITV does in one thread. -/
def waitvThread (a : ThOp) (t : Nat) : Prog := look fun s =>
  let r := (s.flockOf a).thr t
  let va := r.gr (fA a.w)
  thAligned a 0x0B t [⟨va, 4, accRead⟩] (look fun s =>
    let dpa := s.thDpa a va
    if s.readBad dpa 4 then .seq (memTouch dpa 4) (thDie a.k a.core a.f 0x20 va t false dpa)
    else busRead dpa 4 fun b =>
      if waitvHolds (fM a.w) (leNat b) (r.gr (fB a.w) % 2 ^ 32) then thDone a t id
      else thWait a.k a.core a.f waitvPoll a.w t va R.TH_WAIT_SYNC)

theorem exec_waitv (a : ThOp) (s : State) :
    exec (.waitv a) s = s.perform (thStep a 0x0B pipeMemory (regOk .no .g .g [0, 1, 2] a.w) (thSeq a (waitvThread a))) := rfl

theorem exec_waitvPoll (l : FlockAt) (s : State) : exec (.waitvPoll l) s = s.perform (waitvPollProg l) := rfl

/-- A thread of WAITV that meets nothing reads its word, and passes or waits. -/
theorem waitvThread_run {s u : Dev} {a : ThOp} {i dpa : Nat} (hu : s.begun u a) (ho : (s.die (a.k / 168)).once = [])
    (hd : s.dataAt a (((s.flockOf a).thr i).x (fA a.w)).toNat 4 accRead dpa) :
    ∃ v, s.begun v a ∧ (waitvThread a i).run u
      = (if waitvHolds (fM a.w) (s.natAt dpa 4) ((((s.flockOf a).thr i).x (fB a.w)).toNat % 2 ^ 32) then thDone a i id
        else thWait a.k a.core a.f waitvPoll a.w i (((s.flockOf a).thr i).x (fA a.w)).toNat R.TH_WAIT_SYNC).run v := by
  obtain ⟨v, hv, hrun⟩ := hu.thAligned_run ho hd.apart (l := [⟨_, 4, accRead⟩]) (by simpa using hd.accOk (by decide)) 0x0B i
  have hclean := hv.cleanAt (hd.cleanAt (by decide))
  refine ⟨v, hv, ?_⟩
  rw [waitvThread, run_look, hu.flock]
  simp only [gr_eq]
  refine (hrun _ ?_).trans ?_
  all_goals rw [run_look, hv.thDpa hd, hclean.readBad, if_neg Bool.false_ne_true, hclean.busRead, hv.bytesAt, ← Dev.natAt]
  split
  · exact once_thDone (hv.midway ho).once ..
  · rw [once_thWait]; exact (hv.midway ho).once

/-- Whether the word compares, as the claim states it. -/
theorem waitvHolds_iff (m x y : Nat) : waitvHolds m x y = true ↔ if m = 0 then x = y else if m = 1 then x ≠ y else y ≤ x := by
  unfold waitvHolds
  split
  · exact decide_eq_true_iff
  · split <;> exact decide_eq_true_iff

/-- The prefetch of a clean line that no cache line holds. -/
theorem prefThread_hit {s u : Dev} {a : ThOp} {i dpa : Nat} (hu : s.begun u a) (ho : (s.die (a.k / 168)).once = []) (hapart : tlbApart (s.cl a.k).tlb = true)
    (hx : s.xlate (a.k / 168) (a.k % 168) (memAddr a ((s.flockOf a).thr i) (2 ^ fSz a.w)) accRead = .hit dpa) (hs : dpa < stackEnd)
    (hreach : s.reachAt dpa = .ok) (hc : s.cleanAt dpa 1) (hline : s.lineOf a dpa = none) :
    ∃ w, (prefThread a i).run u = (thDone a i id).run w ∧ s.midway w a ∧ s.sameMemory w ∧ w.drovers = s.drovers ∧ (∀ A, w.regAt A = s.regAt A)
      ∧ (w.dcacheOf a).head? = some (dpa / 64 * 64, s.bytesAt (dpa / 64 * 64) 64) := by
  have hux := (hu.xlate hapart _ _).trans hx
  have hureach : u.reachAt dpa = .ok := (hu.outside (fun v => v.reachAt dpa) fun _ => rfl).trans hreach
  have hbad : u.readBad (dpa / 64 * 64) 64 = false := by rw [Dev.readBad, (hu.cleanAt hc).bad]; rfl
  obtain ⟨w, hfill, hw⟩ := hu.fillLine ho hc hs
  refine ⟨w, ?_, hw⟩
  rw [prefThread, run_look, hu.flock]
  simp only [memVa_eq]
  rw [run_seq, fillFromDie_byte (fun e => by rw [hux]; exact Xl.noConfusion), run_look, hux]
  dsimp only
  rw [hureach, hu.notHeld hline, hbad, decide_eq_true hs, run_progs_cons, run_progs_cons, run_progs_nil]
  exact congrArg (thDone a i id).run hfill

/-- A prefetch without a translation fills nothing. -/
theorem prefThread_skip {s u : Dev} {a : ThOp} {i : Nat} (hu : s.begun u a) (hapart : tlbApart (s.cl a.k).tlb = true)
    (hx : ∀ dpa, s.xlate (a.k / 168) (a.k % 168) (memAddr a ((s.flockOf a).thr i) (2 ^ fSz a.w)) accRead ≠ .hit dpa)
    (hdie : ∀ e, s.xlate (a.k / 168) (a.k % 168) (memAddr a ((s.flockOf a).thr i) (2 ^ fSz a.w)) accRead ≠ .die e) :
    (prefThread a i).run u = (thDone a i id).run u := by
  rw [prefThread, run_look, hu.flock]
  simp only [memVa_eq]
  rw [run_seq, fillFromDie_byte (fun e => by rw [hu.xlate hapart]; exact hdie e), run_look, run_progs_cons, run_progs_cons, run_progs_nil]
  split
  next dpa hhit => rw [hu.xlate hapart] at hhit; exact absurd hhit (hx dpa)
  next => rfl

/-- Where a flock waits for its next poll, WAITV_POLL reads the word again, 40 ns later. -/
theorem waitvPoll_run {s : Dev} {l : FlockAt} {v : FlockWait} (hst : (s.flockOf ⟨l, v.w, false, false⟩).st = .wait)
    (hwait : (s.flockOf ⟨l, v.w, false, false⟩).wait = some v) (hop : v.op = waitvPoll) (hpre : (s.flockOf ⟨l, v.w, false, false⟩).preempt = false)
    (hon : s.clusterOn l.die.val l.cluster.val = true) :
    (waitvPollProg l).run s = (thSeq ⟨l, v.w, false, false⟩ (waitvThread ⟨l, v.w, false, false⟩)).run { s with clock := s.clock + 40 } := by
  have hf : s.flock l.k l.core.val l.flock.val = s.flockOf ⟨l, v.w, false, false⟩ := rfl
  rw [waitvPollProg, run_look, hf]
  dsimp only
  rw [hwait]
  dsimp only
  rw [hst, hpre, hon, hop]
  rfl

section
variable {s : Dev} {a : ThOp} {i dpa : Nat}

/-- A flock that waits reads its word again. -/
theorem waitvAgain_run (ho : (s.die (a.k / 168)).once = []) (hd : s.dataAt a (((s.flockOf a).thr i).x (fA a.w)).toNat 4 accRead dpa) :
    ∃ u v, s.resumed u a ∧ u.begun v a ∧ (waitvThread a i).run ((onFlock a.k a.core a.f fun y => { y with st := .run }).run s)
      = (if waitvHolds (fM a.w) (s.natAt dpa 4) ((((s.flockOf a).thr i).x (fB a.w)).toNat % 2 ^ 32) then thDone a i id
        else thWait a.k a.core a.f waitvPoll a.w i (((s.flockOf a).thr i).x (fA a.w)).toNat R.TH_WAIT_SYNC).run v := by
  obtain ⟨u, hu⟩ : ∃ u, u = (onFlock a.k a.core a.f fun y => { y with st := .run }).run s := ⟨_, rfl⟩
  have hres : s.resumed u a := hu ▸ resumed_onFlock s a
  have hthr : (u.flockOf a).thr i = (s.flockOf a).thr i := by rw [hres.flock]; rfl
  have hnat : u.natAt dpa 4 = s.natAt dpa 4 := hres.outside (fun v => v.natAt dpa 4) fun _ => rfl
  obtain ⟨v, hv, hrun⟩ := waitvThread_run (begun_refl u a) (by rw [hres.die]; exact ho) (by rw [hthr]; exact hres.dataAt hd)
  rw [hthr, hnat] at hrun
  exact ⟨u, v, hres, hv, hu ▸ hrun⟩

theorem waitvAgain_passes (ho : (s.die (a.k / 168)).once = []) (hd : s.dataAt a (((s.flockOf a).thr i).x (fA a.w)).toNat 4 accRead dpa)
    (htodo : s.todo a = [i]) (hholds : waitvHolds (fM a.w) (s.natAt dpa 4) ((((s.flockOf a).thr i).x (fB a.w)).toNat % 2 ^ 32) = true) :
    let t := (thSeq a (waitvThread a)).run s
    s.sameButCore t a ∧ s.finished t a 0 id ∧ s.sameMemory t ∧ t.drovers = s.drovers ∧ s.regsBecome t (s.issuedOne a) := by
  obtain ⟨u, w, hu, hw, hrun⟩ := waitvAgain_run ho hd
  rw [if_pos hholds] at hrun
  obtain ⟨hpassed, -⟩ := thSeq_passed (s := s) rfl htodo hrun (hw.flock.trans hu.flock)
  exact hpassed.plain (sameButCore_of_sameButFlock (sameButFlock_trans hu.same hw.same))
    ⟨hw.sameMemory.1.trans (hu.outside (fun v => v.mem) fun _ => rfl), hw.sameMemory.2.trans (hu.outside (fun v => v.undef) fun _ => rfl)⟩
    (hw.drovers.trans (hu.outside (fun v => v.drovers) fun _ => rfl)) fun A => (hw.regAt A).trans (hu.regAt A)

theorem waitvAgain_waits (ho : (s.die (a.k / 168)).once = []) (hd : s.dataAt a (((s.flockOf a).thr i).x (fA a.w)).toNat 4 accRead dpa)
    (htodo : s.todo a = [i]) (hholds : ¬ waitvHolds (fM a.w) (s.natAt dpa 4) ((((s.flockOf a).thr i).x (fB a.w)).toNat % 2 ^ 32) = true) :
    let t := (thSeq a (waitvThread a)).run s
    s.waitsOn t a waitvPoll R.TH_WAIT_SYNC ∧ s.sameButFlock t a := by
  obtain ⟨u, w, hu, hw, hrun⟩ := waitvAgain_run ho hd
  rw [if_neg hholds] at hrun
  have hwaits := (hw.flockIs (by rw [hu.die]; exact ho)).wait waitvPoll i (((s.flockOf a).thr i).x (fA a.w)).toNat R.TH_WAIT_SYNC
  have hstop := thSeq_stop (s := s) (each := waitvThread a) (i := i) rfl htodo (by rw [hrun, hwaits.2.1]; exact (by decide : FlockSt.wait ≠ .run))
  intro t
  have ht : t = _ := hstop.trans hrun
  rw [ht]
  exact ⟨hu.waitsOn (waitsOn_of hwaits), sameButFlock_trans hu.same hwaits.1⟩

end

/-- Settles O18: a fence is passed by every thread, a prefetch fills its line or nothing, a WAITV and its poll pass or wait. -/
theorem fencePrefWaitv : Obligations.FencePrefWaitv := by
  unfold Obligations.FencePrefWaitv
  intro compares plain
  refine ⟨fun s a h => ⟨issues_fence h, ?_, ?_⟩, ?_⟩
  · intro i htodo hok hapart va
    refine ⟨fun dpa hx hs hreach hone hbad hzc hline => ?_, fun hx hdie => ?_⟩
    · have hclean : s.m.cleanAt dpa 1 := ⟨(memPlace_iff _).mpr (.inl hs), by omega, by decide, hone, hbad, fun _ => hzc⟩
      refine issues_of_last h (exec_pref a s) rfl (by decide) hok htodo id fun u hu => ?_
      obtain ⟨w, hrun, hmid, hmem, hdrv, hregs, hhead⟩ := prefThread_hit hu (stands_once h) hapart hx hs hreach hclean hline
      exact ⟨w, hrun, hmid, fun t ht => ⟨ht.plain hmid.core hmem hdrv hregs, by rw [ht.dcacheOf]; exact hhead⟩⟩
    · refine issues_of_last h (exec_pref a s) rfl (by decide) hok htodo id fun u hu => ?_
      have hmid := hu.midway (stands_once h)
      exact ⟨u, prefThread_skip hu hapart hx hdie, hmid, fun t ht => ⟨ht.plain hmid.core hu.sameMemory hu.drovers hu.regAt,
        by rw [ht.dcacheOf]; exact hu.dcacheOf⟩⟩
  · intro i dpa htodo hok r holds hd
    refine ⟨fun hholds => ?_, fun hholds => ?_⟩
    · refine issues_of_last h (exec_waitv a s) rfl (by decide) hok htodo id fun u hu => ?_
      obtain ⟨w, hw, hrun⟩ := waitvThread_run hu (stands_once h) hd
      have hmid := hw.midway (stands_once h)
      rw [if_pos ((waitvHolds_iff ..).mpr hholds)] at hrun
      exact ⟨w, hrun, hmid, fun t ht => ⟨ht.plain hmid.core hw.sameMemory hw.drovers hw.regAt, by rw [ht.dcacheOf]; exact hw.dcacheOf⟩⟩
    · refine issues_of_wait (thread := i) (va := (r.x (fA a.w)).toNat) h (exec_waitv a s) rfl (by decide) hok (by rw [htodo]; rfl) waitvPoll fun u hu => ?_
      obtain ⟨w, hw, hrun⟩ := waitvThread_run hu (stands_once h) hd
      rw [if_neg (fun hh => hholds ((waitvHolds_iff ..).mp hh))] at hrun
      exact ⟨w, hw, hrun⟩
  · intro s l v i dpa a x r s' hst hwait hop hpre hon htodo honce hd _
    have ho : (s'.die (a.k / 168)).once = [] := honce
    have hd' : s'.dataAt a (((s'.flockOf a).thr i).x (fA a.w)).toNat 4 accRead dpa := hd
    have htodo' : s'.todo a = [i] := htodo
    refine ⟨fun hholds => completes_of (exec_waitvPoll l s) ?_, fun hholds => completes_of (exec_waitvPoll l s) ?_⟩
    · rw [waitvPoll_run hst hwait hop hpre hon]
      exact waitvAgain_passes ho hd' htodo' ((waitvHolds_iff ..).mpr hholds)
    · rw [waitvPoll_run hst hwait hop hpre hon]
      exact waitvAgain_waits ho hd' htodo' fun hh => hholds ((waitvHolds_iff ..).mp hh)

end Sys2Proof.Machine
end

section
/-! SUPPORT. Tags of a cluster (R262 to R264): which one an allocation takes, and how it is found again. -/

namespace Sys2Proof.Machine

/-! ### Which tag is free -/

theorem nthFree_le (l : List Nat) (n : Nat) : nthFree l n ≤ n + l.length := by
  induction l generalizing n with
  | nil => exact le_rfl
  | cons t r ih =>
    have h := ih (if t ≤ n then n + 1 else n)
    rw [nthFree, List.foldl_cons, ← nthFree, List.length_cons]
    split at h <;> split <;> omega

theorem le_nthFree (l : List Nat) (n : Nat) : n ≤ nthFree l n := by
  induction l generalizing n with
  | nil => exact le_rfl
  | cons t r ih =>
    have h := ih (if t ≤ n then n + 1 else n)
    rw [nthFree, List.foldl_cons, ← nthFree]
    split at h <;> split <;> omega

/-- Keys above a number do not move it. -/
theorem nthFree_eq_self {l : List Nat} {n : Nat} (h : ∀ t ∈ l, n < t) : nthFree l n = n := by
  induction l with
  | nil => rfl
  | cons t r ih =>
    obtain ⟨ht, hr⟩ := List.forall_mem_cons.mp h
    rw [nthFree, List.foldl_cons, if_neg (Nat.not_le.mpr ht)]
    exact ih hr

/-- What is chosen as free is not in use. -/
theorem nthFree_not_mem {α : Type} {l : List (Nat × α)} {lo : Nat} (h : risingFrom lo l = true) (n : Nat) : ∀ e ∈ l, e.1 ≠ nthFree (l.map (·.1)) n := by
  induction l generalizing lo n with
  | nil => exact fun e he => absurd he List.not_mem_nil
  | cons p r ih =>
    simp only [risingFrom, Bool.and_eq_true, decide_eq_true_eq] at h
    obtain ⟨-, hr⟩ := h
    rw [List.map_cons, nthFree, List.foldl_cons, ← nthFree, List.forall_mem_cons]
    refine ⟨?_, ih hr _⟩
    split
    next hle =>
      have := le_nthFree (r.map (·.1)) (n + 1)
      omega
    next hlt =>
      rw [nthFree_eq_self fun t ht => ?_]
      · omega
      · obtain ⟨e, he, rfl⟩ := List.mem_map.mp ht
        have := le_of_mem_rising hr he
        omega

/-- What is written under a key is found under it. -/
theorem find?_sput {α : Type} (l : List (Nat × α)) (k : Nat) (v : α) : (sput l k v).find? (fun e => e.1 == k) = some (k, v) := by
  induction l with
  | nil => simp [sput]
  | cons p r ih =>
    rw [sput]
    split
    next => simp
    next hne =>
      split
      next => simp
      next => rw [List.find?_cons, beq_false_of_ne hne]; exact ih

/-- The tag that the next allocation of a cluster takes. -/
def Dev.newTag (s : Dev) (k : Nat) : Nat := nthFree ((s.cl k).tags.map (·.1)) (Config.freeNat s.free % max 1 (4096 - (s.cl k).tags.length))

theorem newTag_lt {s : Dev} {k : Nat} (h : (s.cl k).tags.length < 4096) : s.newTag k < 4096 := by
  have hle := nthFree_le ((s.cl k).tags.map (·.1)) (Config.freeNat s.free % max 1 (4096 - (s.cl k).tags.length))
  have hlt : Config.freeNat s.free % max 1 (4096 - (s.cl k).tags.length) < max 1 (4096 - (s.cl k).tags.length) := Nat.mod_lt _ (by omega)
  rw [List.length_map] at hle
  rw [Dev.newTag]
  omega

theorem newTag_free {s : Dev} {k : Nat} (h : risingFrom 0 (s.cl k).tags = true) : ∀ e ∈ (s.cl k).tags, e.1 ≠ s.newTag k := nthFree_not_mem h _

/-! ### Allocation -/

theorem cl_onCl (k : Nat) (f : Cluster → Cluster) (s : Dev) (j : Nat) : ((onCl k f).run s).cl j = if j = k then f (s.cl k) else s.cl j := cl_apply ..

/-- What an allocation leaves. -/
def Dev.allocated (s : Dev) (k cmd : Nat) : Dev :=
  (onCl k fun c => { c with tags := sput c.tags (s.newTag k) ⟨(s.cl k).lastUid + 1, cmd, false, []⟩, lastUid := (s.cl k).lastUid + 1 }).run (s.apply .fresh)

theorem allocTag_run (k cmd : Nat) (f : Nat → Nat → Prog) (s : Dev) :
    (allocTag k cmd f).run s = (f (s.newTag k) ((s.cl k).lastUid + 1)).run (s.allocated k cmd) := rfl

theorem cl_allocated (s : Dev) (k cmd : Nat) : (s.allocated k cmd).cl k
    = { s.cl k with tags := sput (s.cl k).tags (s.newTag k) ⟨(s.cl k).lastUid + 1, cmd, false, []⟩, lastUid := (s.cl k).lastUid + 1 } := by
  rw [Dev.allocated, cl_onCl, if_pos rfl]; rfl

theorem coresKept_allocated (s : Dev) (k cmd : Nat) : s.coresKept (s.allocated k cmd) := by
  have hfresh : s.coresKept (s.apply .fresh) := ⟨fun _ => rfl, fun _ h => h⟩
  exact hfresh.trans ((keepsCores_onCl k (f := fun c => { c with
    tags := sput c.tags (s.newTag k) ⟨(s.cl k).lastUid + 1, cmd, false, []⟩, lastUid := (s.cl k).lastUid + 1 }) fun _ => rfl).kept (s.apply .fresh))

theorem coresKept_of_sameBut {s t : Dev} {l : List Part} (h : s.sameBut t l) (hc : Part.clusters ∉ l) (hd : Part.dies ∉ l) : s.coresKept t :=
  ⟨fun k => by rw [h.cl hc], fun d ho => by rw [h.die hd]; exact ho⟩

/-- A tag as an allocation for a command leaves it: complete with ILLEGAL_DESCRIPTOR unless the descriptor is valid. -/
structure Tag.pushedBy (x : Tag) (uid cmd : Nat) (ok : Bool) : Prop where
  uid : x.uid = uid
  cmd : x.cmd = cmd
  done : x.done = !ok
  record : ok = false → leAt x.record 0 1 = 0x71

/-- What a push leaves: its tag, found under its number. -/
structure Dev.pushes (s w : Dev) (k cmd : Nat) (ok : Bool) : Prop where
  kept : s.coresKept w
  found : ∃ x : Tag, ((w.cl k).tags.find? fun e => e.1 == s.newTag k) = some (s.newTag k, x) ∧ x.pushedBy ((s.cl k).lastUid + 1) cmd ok

theorem pushes_of_tags {s w : Dev} {k cmd : Nat} (hk : (s.allocated k cmd).coresKept w) (ht : (w.cl k).tags = ((s.allocated k cmd).cl k).tags) :
    s.pushes w k cmd true := by
  refine ⟨(coresKept_allocated ..).trans hk, ⟨(s.cl k).lastUid + 1, cmd, false, []⟩, ?_, rfl, rfl, rfl, Bool.noConfusion⟩
  rw [ht, cl_allocated]
  exact find?_sput ..

/-- A refused descriptor's tag completes with ILLEGAL_DESCRIPTOR. -/
theorem pushes_completeTag {s v : Dev} {k cmd : Nat} {l : List Part} (hs : (s.allocated k cmd).sameBut v l) (hc : Part.clusters ∉ l) (hd : Part.dies ∉ l)
    {r : List Byte} (hr : leAt r 0 1 = 0x71) : s.pushes ((completeTag k ((s.cl k).lastUid + 1) r).run v) k cmd false := by
  refine ⟨((coresKept_allocated s k cmd).trans (coresKept_of_sameBut hs hc hd)).trans ((keepsCores_completeTag ..).kept v),
    ⟨(s.cl k).lastUid + 1, cmd, true, r⟩, ?_, rfl, rfl, rfl, fun _ => hr⟩
  rw [cl_completeTag, hs.cl hc, cl_allocated]
  dsimp only
  rw [List.find?_map, show ((fun e : Nat × Tag => e.1 == s.newTag k) ∘ fun x : Nat × Tag =>
    if x.2.uid == (s.cl k).lastUid + 1 then (x.1, { x.2 with done := true, record := r }) else x) = fun e => e.1 == s.newTag k from
      funext fun x => by rw [Function.comp_apply]; split <;> rfl, find?_sput]
  simp

end Sys2Proof.Machine
end

section
/-! CERTIFICATE. Pushes of descriptors, and flocks that wait on theirs (R262, R263, R276, R291, R300). -/

namespace Sys2Proof.Machine

/-! ### What a push does to the cluster -/

/-- The first byte of a barge's completion record is its status (R323). -/
theorem leAt_bargeRecord (s : Dev) (k : Nat) (b : Barge) {status : Nat} (h : status < 256) : leAt (s.bargeRecord k b status) 0 1 = status := by
  have hrec : ∃ r, s.bargeRecord k b status = leBytes 1 status ++ r := by
    unfold Dev.bargeRecord
    simp only [List.append_assoc]
    exact ⟨_, rfl⟩
  obtain ⟨r, hr⟩ := hrec
  rw [hr, leAt_leBytes_append h]

/-- A pushed descriptor takes a place in its queues, or its tag completes ILLEGAL_DESCRIPTOR. -/
theorem pushTensor_run (u : Dev) (k cmd prio : Nat) (fast : Bool) (b : List Byte) :
    ∃ w, (∀ f, (pushTensor k cmd prio fast b f).run u = (f (u.newTag k)).run w) ∧ u.pushes w k cmd (pushOk (Desc.ofBytes b))
      ∧ (pushOk (Desc.ofBytes b) = true → (w.cl k).entries = (u.cl k).entries
        ++ [Entry.fresh ((u.cl k).lastUid + 1) (u.newTag k) cmd prio fast b ((u.cl k).bindDeps (Desc.ofBytes b).depTags)]) := by
  obtain ⟨e, he⟩ : ∃ e, e = Entry.fresh ((u.cl k).lastUid + 1) (u.newTag k) cmd prio fast b ((u.cl k).bindDeps (Desc.ofBytes b).depTags) := ⟨_, rfl⟩
  obtain ⟨y, hy⟩ : ∃ y, y = u.allocated k cmd := ⟨_, rfl⟩
  have hrun (f : Nat → Prog) : (pushTensor k cmd prio fast b f).run u = (f (u.newTag k)).run ((if pushOk (Desc.ofBytes b) then onCl k fun c => { c with entries := c.entries ++ [e] }
      else progs [tcTally k R.TC_DESC_REFUSED 1, faultRecord k e 0x71 4 e.atStart (pushCheck (Desc.ofBytes b)) none false,
        look fun s => completeTag k ((u.cl k).lastUid + 1) (s.record k e 0x71 0 0 false)]).run y) := by
    rw [pushTensor, run_look, allocTag_run, ← hy, ← he, run_progs_cons, run_progs_cons, run_progs_nil]
  cases hok : pushOk (Desc.ofBytes b) with
  | true =>
    refine ⟨_, fun f => (hrun f).trans (by rw [hok, if_pos rfl, hy]), pushes_of_tags (hy ▸ (keepsCores_onCl k (f := fun c => { c with entries := c.entries ++ [e] })
      fun _ => rfl).kept y) ?_, fun _ => ?_⟩
    · rw [cl_onCl, if_pos rfl]
    · rw [cl_onCl, if_pos rfl, cl_allocated, he]
  | false =>
    obtain ⟨x, hx⟩ : ∃ x, x = (tcTally k R.TC_DESC_REFUSED 1).run y := ⟨_, rfl⟩
    obtain ⟨v, hv⟩ : ∃ v, v = (faultRecord k e 0x71 4 e.atStart (pushCheck (Desc.ofBytes b)) none false).run x := ⟨_, rfl⟩
    have htally : y.sameBut x logParts := by rw [hx]; exact (sameBut_tcTally ..).mono (by simp [logParts, eventParts])
    have hsame : y.sameBut v logParts := by rw [hv]; exact sameBut_trans htally (sameBut_faultRecord ..)
    refine ⟨_, fun f => (hrun f).trans ?_, pushes_completeTag (hy ▸ hsame) (by decide) (by decide) (leAt_record v k e (by decide) 0 0 false), Bool.noConfusion⟩
    rw [hok, if_neg Bool.false_ne_true, run_progs_cons, run_progs_cons, run_progs_cons, run_progs_nil, run_look, ← hx, ← hv]

/-- What BISSUE does once it has its tag. -/
def pushBarge (k cmd prio : Nat) (desc : List Byte) (f : Nat → Prog) : Prog := look fun s =>
  allocTag k cmd fun tag uid => progs [
    if bargePushCheck desc = 0 then onCl k fun c => { c with barges := c.barges ++ [Barge.fresh uid tag cmd prio desc ((s.cl k).bindDeps (bargeDepTags desc))] }
    else progs [
      beTally k R.BE_DESC_REFUSED 1,
      logE (s.clusterEntry 3 5 0x71 0 (k / 168) (k % 168) 0 tag (queueOf cmd) (bargePushCheck desc)),
      look fun t => completeTag k uid (t.bargeRecord k (Barge.fresh uid tag cmd prio desc ((s.cl k).bindDeps (bargeDepTags desc))) 0x71)],
    f tag]

/-- A pushed barge takes a place in the queue of its class, or its tag completes ILLEGAL_DESCRIPTOR. -/
theorem pushBarge_run (u : Dev) (k cmd prio : Nat) (desc : List Byte) :
    ∃ w, (∀ f, (pushBarge k cmd prio desc f).run u = (f (u.newTag k)).run w) ∧ u.pushes w k cmd (bargePushOk desc)
      ∧ (bargePushOk desc = true → (w.cl k).barges = (u.cl k).barges
        ++ [Barge.fresh ((u.cl k).lastUid + 1) (u.newTag k) cmd prio desc ((u.cl k).bindDeps (bargeDepTags desc))]) := by
  obtain ⟨b, hb⟩ : ∃ b, b = Barge.fresh ((u.cl k).lastUid + 1) (u.newTag k) cmd prio desc ((u.cl k).bindDeps (bargeDepTags desc)) := ⟨_, rfl⟩
  obtain ⟨e, he⟩ : ∃ e, e = u.clusterEntry 3 5 0x71 0 (k / 168) (k % 168) 0 (u.newTag k) (queueOf cmd) (bargePushCheck desc) := ⟨_, rfl⟩
  obtain ⟨y, hy⟩ : ∃ y, y = u.allocated k cmd := ⟨_, rfl⟩
  have hrun (f : Nat → Prog) : (pushBarge k cmd prio desc f).run u = (f (u.newTag k)).run ((if bargePushCheck desc = 0 then onCl k fun c => { c with barges := c.barges ++ [b] }
      else progs [beTally k R.BE_DESC_REFUSED 1, logE e, look fun s => completeTag k ((u.cl k).lastUid + 1) (s.bargeRecord k b 0x71)]).run y) := by
    rw [pushBarge, run_look, allocTag_run, ← hy, ← hb, ← he, run_progs_cons, run_progs_cons, run_progs_nil]
  by_cases hok : bargePushCheck desc = 0
  · rw [bargePushOk, decide_eq_true hok]
    refine ⟨_, fun f => (hrun f).trans (by rw [if_pos hok, hy]), pushes_of_tags (hy ▸ (keepsCores_onCl k (f := fun c => { c with barges := c.barges ++ [b] })
      fun _ => rfl).kept y) ?_, fun _ => ?_⟩
    · rw [cl_onCl, if_pos rfl]
    · rw [cl_onCl, if_pos rfl, cl_allocated, hb]
  · rw [bargePushOk, decide_eq_false hok]
    obtain ⟨x, hx⟩ : ∃ x, x = (beTally k R.BE_DESC_REFUSED 1).run y := ⟨_, rfl⟩
    obtain ⟨v, hv⟩ : ∃ v, v = (logE e).run x := ⟨_, rfl⟩
    have htally : y.sameBut x [.regs] := by rw [hx]; exact Prog.Within.sameBut (within_tally 1 fun _ => List.Subset.refl _) _
    have hsame : y.sameBut v logParts := by rw [hv]; exact sameBut_trans (htally.mono (by simp [logParts, eventParts])) (sameBut_logE ..)
    refine ⟨_, fun f => (hrun f).trans ?_, pushes_completeTag (hy ▸ hsame) (by decide) (by decide) (leAt_bargeRecord v k b (by decide)), Bool.noConfusion⟩
    rw [if_neg hok, run_progs_cons, run_progs_cons, run_progs_cons, run_progs_nil, run_look, ← hx, ← hv]

/-! ### What the thread that pushes gets -/

/-- A thread has its tag, as the claim states it: `what` says what became of the descriptor. -/
def Dev.pushed (s t : Dev) (a : ThOp) (i : Nat) (ok : Bool) (what : Nat → Nat → Dev → Prop) : Prop :=
  ∃ tag uid, uid = (s.cl a.k).lastUid + 1 ∧ s.finished t a i (fun r => r.putX (fD a.w) (BitVec.ofNat 64 tag))
    ∧ tag < 4096 ∧ (risingFrom 0 (s.cl a.k).tags = true → ∀ e, e ∈ (s.cl a.k).tags → e.1 ≠ tag)
    ∧ (∃ x, ((t.cl a.k).tags.find? fun e => e.1 == tag) = some (tag, x) ∧ x.uid = uid ∧ x.cmd = (s.flockOf a).cmd
        ∧ x.done = !ok ∧ (ok = false → leAt x.record 0 1 = 0x71))
    ∧ what tag uid t

/-- The descriptors that the threads of TISSUE and BISSUE push. -/
def Dev.tissueDesc (s : Dev) (a : ThOp) (i : Nat) : List Byte := (leBytes 64 (((s.flockOf a).thr i).vr (fA a.w))).take 32
def Dev.bissueDesc (s : Dev) (a : ThOp) (i : Nat) : List Byte := leBytes 64 (((s.flockOf a).thr i).vr (fA a.w))

/-- TISSUE has pushed. -/
def Dev.tissued (s : Dev) (a : ThOp) (i : Nat) (t : Dev) : Prop :=
  s.pushed t a i (pushOk (Desc.ofBytes (s.tissueDesc a i))) fun tag uid t => pushOk (Desc.ofBytes (s.tissueDesc a i)) = true → (t.cl a.k).entries = (s.cl a.k).entries
    ++ [Entry.fresh uid tag (s.flockOf a).cmd (s.prioOf (s.flockOf a)) (s.flockOf a).fast (s.tissueDesc a i)
      ((s.cl a.k).bindDeps (Desc.ofBytes (s.tissueDesc a i)).depTags)]

/-- BISSUE has pushed. -/
def Dev.bissued (s : Dev) (a : ThOp) (i : Nat) (t : Dev) : Prop :=
  s.pushed t a i (bargePushOk (s.bissueDesc a i)) fun tag uid t => bargePushOk (s.bissueDesc a i) = true → (t.cl a.k).barges = (s.cl a.k).barges
    ++ [Barge.fresh uid tag (s.flockOf a).cmd (s.prioOf (s.flockOf a)) (s.bissueDesc a i) ((s.cl a.k).bindDeps (bargeDepTags (s.bissueDesc a i)))]

/-- A barge finds a tag, and a place in the queue of its class. -/
def Dev.bargeRoom (s : Dev) (a : ThOp) (i : Nat) : Prop :=
  (s.cl a.k).tags.length < 4096 ∧ (bargePushOk (s.bissueDesc a i) = true → (s.cl a.k).classDepth (bits (leAt (s.bissueDesc a i) 0 8) 9 8) < 32)

section
variable {s u w t : Dev} {a : ThOp} {i : Nat}

theorem Dev.ready.newTag (h : s.ready u a) : u.newTag a.k = s.newTag a.k := by
  have htags : (u.cl a.k).tags = (s.cl a.k).tags := h.same.field (fun c => c.tags) fun _ => rfl
  have hfree : u.free = s.free := h.outside (fun v => v.free) fun _ => rfl
  rw [Dev.newTag, htags, hfree, ← Dev.newTag]

theorem Dev.ready.prioOf (h : s.ready u a) : u.prioOf { s.flockOf a with st := .run } = s.prioOf (s.flockOf a) :=
  h.outside (fun v => v.prioOf (s.flockOf a)) fun _ => rfl

theorem Dev.ready.lastUid (h : s.ready u a) : (u.cl a.k).lastUid = (s.cl a.k).lastUid := h.same.field (fun c => c.lastUid) fun _ => rfl

/-- The tag that a push allocated, as the flock finds it. -/
theorem pushed_of {ok : Bool} {what : Nat → Nat → Dev → Prop} (h : s.ready u a) (hw : u.pushes w a.k (s.flockOf a).cmd ok) (hlen : (s.cl a.k).tags.length < 4096)
    (ht : s.passed w t a i fun r => r.putX (fD a.w) (BitVec.ofNat 64 (s.newTag a.k))) (hwhat : what (s.newTag a.k) ((s.cl a.k).lastUid + 1) t) :
    s.pushed t a i ok what := by
  obtain ⟨x, hx, hpushed⟩ := hw.found
  rw [h.newTag] at hx
  rw [h.lastUid] at hpushed
  have htags : (t.cl a.k).tags = (w.cl a.k).tags := ht.same.field (fun c => c.tags) fun _ => rfl
  exact ⟨_, _, rfl, ht.finished, newTag_lt hlen, newTag_free, ⟨x, by rw [htags, hx], hpushed.uid, hpushed.cmd, hpushed.done, hpushed.record⟩, hwhat⟩

/-- Without room a push waits, or gives all ones. -/
theorem tissueThread_eq (h : s.ready u a) : (tissueThread a i).run u = (if s.canPush a.k (s.tissueDesc a i)
    then pushTensor a.k (s.flockOf a).cmd (s.prioOf (s.flockOf a)) (s.flockOf a).fast (s.tissueDesc a i) fun tag => thDone a i fun r => r.setG (fD a.w) tag
    else pushBlocked a 0xA0 i).run u := by
  have hcan : u.canPush a.k (s.tissueDesc a i) = s.canPush a.k (s.tissueDesc a i) := h.same.field (fun c => c.hasTag
    && (!pushOk (Desc.ofBytes (s.tissueDesc a i)) || (targetQueues (Desc.ofBytes (s.tissueDesc a i)).target).all fun q => (c.inQueue q).length < 16)) fun _ => rfl
  rw [tissueThread, run_look, h.flock, ← hcan, ← h.prioOf]
  rfl

theorem tissueThread_run (h : s.ready u a) (hroom : s.canPush a.k (s.tissueDesc a i) = true) :
    ∃ w, (tissueThread a i).run u = (thDone a i fun r => r.putX (fD a.w) (BitVec.ofNat 64 (s.newTag a.k))).run w ∧ u.coresKept w
      ∧ ∀ t, (s.passed w t a i fun r => r.putX (fD a.w) (BitVec.ofNat 64 (s.newTag a.k))) → s.tissued a i t := by
  obtain ⟨w, hrun, hw, hentries⟩ := pushTensor_run u a.k (s.flockOf a).cmd (s.prioOf (s.flockOf a)) (s.flockOf a).fast (s.tissueDesc a i)
  obtain ⟨hlen, -⟩ := Bool.and_eq_true_iff.mp hroom
  have hents : (u.cl a.k).entries = (s.cl a.k).entries := h.same.field (fun c => c.entries) fun _ => rfl
  have hdeps : (u.cl a.k).bindDeps (Desc.ofBytes (s.tissueDesc a i)).depTags = (s.cl a.k).bindDeps (Desc.ofBytes (s.tissueDesc a i)).depTags :=
    h.same.field (fun c => c.bindDeps (Desc.ofBytes (s.tissueDesc a i)).depTags) fun _ => rfl
  rw [h.newTag] at hrun
  rw [h.newTag, h.lastUid, hents, hdeps] at hentries
  refine ⟨w, ?_, hw.kept, fun t ht => pushed_of h hw (of_decide_eq_true hlen) ht fun hok => ?_⟩
  · rw [tissueThread_eq h, if_pos hroom, hrun]; rfl
  · exact (ht.same.field (fun c => c.entries) fun _ => rfl).trans (hentries hok)

theorem run_ite_congr {c : Bool} {p q r : Prog} {v : Dev} (h : p.run v = q.run v) : (if c then p else r).run v = (if c then q else r).run v := by
  cases c
  · rfl
  · exact h

theorem bissueThread_eq (h : s.ready u a) : (bissueThread a i).run u
    = (if (s.cl a.k).hasTag && (!bargePushOk (s.bissueDesc a i) || (s.cl a.k).classDepth (bits (leAt (s.bissueDesc a i) 0 8) 9 8) < 32)
      then pushBarge a.k (s.flockOf a).cmd (s.prioOf (s.flockOf a)) (s.bissueDesc a i) fun tag => thDone a i fun r => r.setG (fD a.w) tag
      else pushBlocked a 0xA1 i).run u := by
  have hcan : ((u.cl a.k).hasTag && (!bargePushOk (s.bissueDesc a i) || (u.cl a.k).classDepth (bits (leAt (s.bissueDesc a i) 0 8) 9 8) < 32))
      = ((s.cl a.k).hasTag && (!bargePushOk (s.bissueDesc a i) || (s.cl a.k).classDepth (bits (leAt (s.bissueDesc a i) 0 8) 9 8) < 32)) :=
    h.same.field (fun c => c.hasTag && (!bargePushOk (s.bissueDesc a i) || c.classDepth (bits (leAt (s.bissueDesc a i) 0 8) 9 8) < 32)) fun _ => rfl
  rw [bissueThread, run_look, h.flock, ← hcan, ← h.prioOf]
  exact run_ite_congr rfl

theorem bargeRoom_iff : s.bargeRoom a i
    ↔ ((s.cl a.k).hasTag && (!bargePushOk (s.bissueDesc a i) || (s.cl a.k).classDepth (bits (leAt (s.bissueDesc a i) 0 8) 9 8) < 32)) = true := by
  rw [Dev.bargeRoom, Cluster.hasTag, Bool.and_eq_true, Bool.or_eq_true, Bool.not_eq_true', decide_eq_true_iff, decide_eq_true_iff, ← Bool.not_eq_true]
  exact and_congr_right fun _ => imp_iff_not_or

theorem bissueThread_run (h : s.ready u a) (hroom : s.bargeRoom a i) :
    ∃ w, (bissueThread a i).run u = (thDone a i fun r => r.putX (fD a.w) (BitVec.ofNat 64 (s.newTag a.k))).run w ∧ u.coresKept w
      ∧ ∀ t, (s.passed w t a i fun r => r.putX (fD a.w) (BitVec.ofNat 64 (s.newTag a.k))) → s.bissued a i t := by
  obtain ⟨w, hrun, hw, hbarges⟩ := pushBarge_run u a.k (s.flockOf a).cmd (s.prioOf (s.flockOf a)) (s.bissueDesc a i)
  have hents : (u.cl a.k).barges = (s.cl a.k).barges := h.same.field (fun c => c.barges) fun _ => rfl
  have hdeps : (u.cl a.k).bindDeps (bargeDepTags (s.bissueDesc a i)) = (s.cl a.k).bindDeps (bargeDepTags (s.bissueDesc a i)) :=
    h.same.field (fun c => c.bindDeps (bargeDepTags (s.bissueDesc a i))) fun _ => rfl
  rw [h.newTag] at hrun
  rw [h.newTag, h.lastUid, hents, hdeps] at hbarges
  refine ⟨w, ?_, hw.kept, fun t ht => pushed_of h hw hroom.1 ht fun hok => ?_⟩
  · rw [bissueThread_eq h, if_pos (bargeRoom_iff.mp hroom), hrun]; rfl
  · exact (ht.same.field (fun c => c.barges) fun _ => rfl).trans (hbarges hok)

end

/-! ### The instructions -/

theorem exec_tissue (a : ThOp) (s : State) : exec (.tissue a) s
    = s.perform (thStep a 0xA0 pipeIssue (regOk .g .v .no [0, 1] a.w) (thSeq a (tissueThread a))) := rfl
theorem exec_bissue (a : ThOp) (s : State) : exec (.bissue a) s
    = s.perform (thStep a 0xA1 pipeIssue (regOk .g .v .no [0, 1] a.w) (thSeq a (bissueThread a))) := rfl

section
variable {c : Instr} {s : State} {a : ThOp} {op pipe i : Nat} {ok : Bool} {each : Nat → Prog} {P : Dev → Prop} {g : Thread → Thread}

/-- An instruction whose last thread pushes. -/
theorem issues_push (h : s.m.stands a) (he : exec c s = s.perform (thStep a op pipe ok (thSeq a each))) (ho : c.opcode = op) (hd : opDefined op = true)
    (hok : ok = true) (htodo : s.m.todo a = [i])
    (hb : ∀ u, s.m.ready u a → ∃ w, (each i).run u = (thDone a i g).run w ∧ u.coresKept w ∧ ∀ t, s.m.passed w t a i g → P t) : issues c s a P := by
  obtain ⟨-, hst, -⟩ := id h
  refine issues_of_passed h he ho hd hok htodo g fun u hu => ?_
  obtain ⟨w, hrun, hkept, hP⟩ := hb u (hu.ready hst)
  exact ⟨w, hrun, (hkept.flock ..).trans hu.flock, hkept.once _ (by rw [hu.die]; exact stands_once h), hP⟩

/-- An instruction whose last thread is blocked (R262). -/
theorem issues_blocked (h : s.m.stands a) (he : exec c s = s.perform (thStep a op pipe ok (thSeq a each))) (ho : c.opcode = op) (hd : opDefined op = true)
    (hok : ok = true) (htodo : s.m.todo a = [i]) (hb : ∀ u, s.m.ready u a → (each i).run u = (pushBlocked a op i).run u) :
    (fM a.w = 0 → issues c s a fun t => s.m.waitsOn t a op R.TH_WAIT_SYNC ∧ s.m.sameButFlock t a)
      ∧ (fM a.w = 1 → issues c s a fun t => s.m.finished t a i (fun r => r.putX (fD a.w) (BitVec.allOnes 64)) ∧ s.m.sameButFlock t a) := by
  obtain ⟨-, hst, -⟩ := id h
  refine ⟨fun hM => ?_, fun hM => ?_⟩
  · refine issues_of_wait (thread := i) (va := 0) h he ho hd hok (by rw [htodo]; rfl) op fun u hu => ⟨u, hu, ?_⟩
    rw [hb u (hu.ready hst), pushBlocked, if_neg (by rw [hM]; decide)]
  · refine issues_of_last h he ho hd hok htodo (fun r => r.putX (fD a.w) (BitVec.allOnes 64)) fun u hu => ⟨u, ?_, hu.midway (stands_once h), fun t ht =>
      ⟨ht.finished, sameButFlock_trans hu.same ht.same⟩⟩
    rw [hb u (hu.ready hst), pushBlocked, if_pos hM]; rfl

end

/-- PUSH_UNBLOCK: the flock that waits goes on with its push. -/
theorem completes_unblocked {s : State} {l : FlockAt} {v : FlockWait} {i : Nat} {each : Nat → Prog} {P : Dev → Prop} {g : Thread → Thread}
    (htodo : s.m.todo ⟨l, v.w, false, false⟩ = [i]) (hbody : (pushUnblockProg l).run s.m = (thSeq ⟨l, v.w, false, false⟩ each).run s.m)
    (hb : ∀ u, s.m.ready u ⟨l, v.w, false, false⟩ → ∃ w, (each i).run u = (thDone ⟨l, v.w, false, false⟩ i g).run w ∧ u.coresKept w
      ∧ ∀ t, s.m.passed w t ⟨l, v.w, false, false⟩ i g → P t) : completes (.pushUnblock l) s P := by
  have hready := (resumed_onFlock s.m ⟨l, v.w, false, false⟩).toready
  obtain ⟨w, hrun, hkept, hP⟩ := hb _ hready
  obtain ⟨hpassed, -⟩ := thSeq_passed rfl htodo hrun ((hkept.flock ..).trans hready.flock)
  refine completes_of (rfl : exec (.pushUnblock l) s = s.perform (pushUnblockProg l)) ?_
  rw [hbody]
  exact hP _ hpassed

/-- What a flock does that waits on a push. -/
theorem pushUnblock_run {s : Dev} {l : FlockAt} {v : FlockWait} (hst : (s.flockOf ⟨l, v.w, false, false⟩).st = .wait)
    (hwait : (s.flockOf ⟨l, v.w, false, false⟩).wait = some v) (hpre : (s.flockOf ⟨l, v.w, false, false⟩).preempt = false)
    (hon : s.clusterOn l.die.val l.cluster.val = true) : (pushUnblockProg l).run s
      = (if v.op = 0xA0 then thSeq ⟨l, v.w, false, false⟩ (tissueThread ⟨l, v.w, false, false⟩)
        else if v.op = 0xA1 then thSeq ⟨l, v.w, false, false⟩ (bissueThread ⟨l, v.w, false, false⟩) else .skip).run s := by
  have hf : s.flock l.k l.core.val l.flock.val = s.flockOf ⟨l, v.w, false, false⟩ := rfl
  rw [pushUnblockProg, run_look, hf]
  dsimp only
  rw [hwait]
  dsimp only
  rw [hst, hpre, hon]
  rfl

/-- Settles O20: a push takes a tag and a place, or its flock waits, or gets all ones; a flock that waited pushes once there is room. -/
theorem pushesTakeTags : Obligations.PushesTakeTags := by
  unfold Obligations.PushesTakeTags
  intro pushed tissued bissued tRoom bRoom
  refine ⟨fun s a i h htodo hok => ?_, fun s l v i => ?_⟩
  · have htfull : ¬ tRoom s.m a i → ∀ u, s.m.ready u a → (tissueThread a i).run u = (pushBlocked a 0xA0 i).run u := fun hfull u hu => by
      rw [tissueThread_eq hu, if_neg (show ¬ s.m.canPush a.k (s.m.tissueDesc a i) = true from hfull)]
    have hbfull : ¬ bRoom s.m a i → ∀ u, s.m.ready u a → (bissueThread a i).run u = (pushBlocked a 0xA1 i).run u := fun hfull u hu => by
      rw [bissueThread_eq hu, if_neg fun hroom => hfull (bargeRoom_iff.mpr hroom)]
    have htissue := fun hfull => issues_blocked h (exec_tissue a s) rfl (by decide) hok htodo (htfull hfull)
    have hbissue := fun hfull => issues_blocked h (exec_bissue a s) rfl (by decide) hok htodo (hbfull hfull)
    exact ⟨fun hroom => issues_push h (exec_tissue a s) rfl (by decide) hok htodo fun u hu => tissueThread_run hu hroom,
      fun hroom => issues_push h (exec_bissue a s) rfl (by decide) hok htodo fun u hu => bissueThread_run hu hroom,
      fun hM hfull => (htissue hfull).1 hM, fun hM hfull => (hbissue hfull).1 hM, fun hM hfull => (htissue hfull).2 hM, fun hM hfull => (hbissue hfull).2 hM⟩
  · intro a x hst hwait hpre hon htodo
    have hrun := pushUnblock_run hst hwait hpre hon
    refine ⟨fun hop hroom => ?_, fun hop hroom => ?_⟩
    · rw [if_pos hop] at hrun
      exact completes_unblocked htodo hrun fun u hu => tissueThread_run hu hroom
    · rw [if_neg (by rw [hop]; decide), if_pos hop] at hrun
      exact completes_unblocked htodo hrun fun u hu => bissueThread_run hu hroom

end Sys2Proof.Machine
end

section
/-! CERTIFICATE. Operations on tags (R252, R260, R264, R293). -/

namespace Sys2Proof.Machine

/-! ### The tag that a thread names -/

/-- The tag that a register of a thread names, if it is allocated. -/
def Dev.tagNamed (s : Dev) (a : ThOp) (i : Nat) : Option Tag :=
  ((s.cl a.k).tags.find? fun e => e.1 == (((s.flockOf a).thr i).x (fA a.w)).toNat).map (·.2)

section
variable {s u : Dev} {a : ThOp} {i : Nat}

theorem Dev.begun.tags (h : s.begun u a) : (u.cl a.k).tags = (s.cl a.k).tags := h.same.field (fun c => c.tags) fun _ => rfl

theorem withTag_run (h : s.begun u a) {x : Tag} (hx : s.tagNamed a i = some x) (f : Tag → Prog) : (withTag a i f).run u = (f x).run u := by
  obtain ⟨e, he, rfl⟩ := Option.map_eq_some_iff.mp hx
  rw [withTag, run_look, h.flock, gr_eq]
  dsimp only
  rw [h.tags, he]

theorem withTag_run_none (h : s.begun u a) (hx : s.tagNamed a i = none) (f : Tag → Prog) :
    (withTag a i f).run u = (thDie a.k a.core a.f 5 0 i false 0).run u := by
  rw [withTag, run_look, h.flock, gr_eq]
  dsimp only
  rw [h.tags, Option.map_eq_none_iff.mp hx]

/-! ### Acquires -/

/-- An acquire empties the data cache and nothing else. -/
theorem Dev.begun.acquire (h : s.begun u a) (ho : (s.die (a.k / 168)).once = []) :
    ∃ w, (Machine.acquire a).run u = w ∧ s.midway w a ∧ s.sameMemory w ∧ (∀ A, w.regAt A = s.regAt A) ∧ w.dcacheOf a = [] :=
  ⟨_, rfl, ⟨sameButCore_trans (h.midway ho).core (sameButCore_dcache u a fun _ => []), by rw [Machine.acquire, flockOf_onDcache, h.flock], (h.midway ho).once⟩,
    h.sameMemory, h.regAt, dcacheOf_onDcache u a fun _ => []⟩

/-! ### Cancelled instructions -/

theorem dropLoad_run_queued {k : Nat} {e : Entry} (h : e.issued = false) (t : Dev) : (dropLoad k e).run t = t := by
  rw [dropLoad, run_look, h]
  dsimp only
  split
  · rfl
  · split <;> rfl

/-- An instruction that has not issued ends with its cancellation (R293). -/
theorem endEntry_left_queued {k uid status : Nat} {e : Entry} (he : s.entryNo k uid = some e) (hq : e.issued = false) (hst : status < 256)
    (cause und : Nat) (flag : Bool) : s.left ((endEntry k uid status cause und flag).run s) k uid status := by
  have hunit := ((within_endEntry k uid status cause und flag (l := [.clusters, .dies, .drovers, .mem, .undef, .free])
    (by decide) (by decide) (by decide) fun _ => by decide).sameBut s).unitWrites (by decide)
  obtain ⟨v, w, hv, hw, hrun⟩ := endEntry_run he status cause und flag
  have hundef : s.sameBut ((only (!statusGood status) (undefOuts k e)).run s) [.mem, .undef, .free] :=
    Prog.Within.sameBut (by rw [within_only]; exact fun _ => within_undefOuts k e) s
  have hkept : s.queuesKept v := by
    rw [run_only, dropLoad_run_queued hq, ite_self] at hv
    exact hv ▸ (workKept_of_sameBut hundef (by decide) (by decide)).queuesKept.trans (queuesKept_dropHeld k e _)
  have hclw : w.cl k = { v.cl k with entries := (v.cl k).entries.filter fun x => !(x.uid == uid) } := by rw [hw, cl_onCl, if_pos rfl]
  have htag := tagDone_completeTag k uid (w.record k e status cause und flag) w
  rw [leAt_record _ _ _ hst, ← hrun, Dev.tagDone, show (w.cl k).tags = (s.cl k).tags by rw [hclw]; exact hkept.tags k] at htag
  refine ⟨⟨fun y hy => ?_, htag⟩, fun d hd => ?_, hunit⟩
  · rw [hrun, cl_completeTag, hclw] at hy
    obtain ⟨x, hx, rfl⟩ := List.mem_map.mp hy
    simpa using (List.mem_filter.mp hx).2
  · rw [hrun, ((within_completeTag (l := [.clusters, .drovers]) k uid _ (by decide) (by decide)).sameBut w).die (by decide), hw]
    exact hkept.once d hd

/-- A tag that is done with a status is found under its number as before. -/
theorem find?_of_tagDone {t : Dev} {k status v : Nat} {x : Tag} (h : s.tagDone t k x.uid status)
    (hx : ((s.cl k).tags.find? fun e => e.1 == v).map (·.2) = some x) :
    ∃ y, ((t.cl k).tags.find? fun e => e.1 == v).map (·.2) = some y ∧ y.uid = x.uid ∧ y.done = true ∧ leAt y.record 0 1 = status := by
  obtain ⟨hmap, hdone⟩ := h
  obtain ⟨e, he, rfl⟩ := Option.map_eq_some_iff.mp hx
  have hkeys (l : List (Nat × Tag)) : (l.map fun x => (x.1, x.2.uid, x.2.cmd)).find? (fun e => e.1 == v) = (l.find? fun e => e.1 == v).map fun x => (x.1, x.2.uid, x.2.cmd) :=
    List.find?_map ..
  have hfound := (hkeys (t.cl k).tags).symm.trans ((congrArg (List.find? fun e => e.1 == v) hmap).trans (hkeys (s.cl k).tags))
  rw [he] at hfound
  obtain ⟨y, hy, hyx⟩ := Option.map_eq_some_iff.mp hfound
  have huid : y.2.uid = e.2.uid := congrArg (fun z => z.2.1) hyx
  have hyd := hdone y (List.mem_of_find?_eq_some hy)
  rw [if_pos huid] at hyd
  exact ⟨y.2, by rw [hy]; rfl, huid, hyd⟩

end

/-! ### The instructions -/

/-- What each operation does in a thread with the tag it names. -/
def twaitWith (a : ThOp) (i : Nat) (x : Tag) : Prog :=
  if x.done then progs [acquire a, thDone a i fun r => r.setG (fD a.w) (leAt x.record 0 1)] else thWait a.k a.core a.f 0xA2 a.w i 0 R.TH_WAIT_SYNC
def tpollWith (a : ThOp) (i : Nat) (x : Tag) : Prog :=
  progs [only x.done (acquire a), thDone a i fun r => r.setG (fD a.w) (if x.done then leAt x.record 0 1 else 0x100)]
def tcrecWith (a : ThOp) (i : Nat) (x : Tag) : Prog :=
  if x.done then progs [acquire a, thDone a i fun r => r.setV (fD a.w) (leNat x.record)] else thWait a.k a.core a.f 0xA4 a.w i 0 R.TH_WAIT_SYNC
def tfreeWith (a : ThOp) (i : Nat) (x : Tag) : Prog :=
  if x.done then progs [onCl a.k fun c => { c with tags := c.tags.filter fun y => !(y.2.uid == x.uid) }, thDone a i id]
  else thDie a.k a.core a.f 5 0 i false 0
def tcancelWith (a : ThOp) (i : Nat) (x : Tag) : Prog := progs [only (!x.done) (cancelUid a.k x.cmd x.uid), thDone a i id]

/-- An instruction that acts on the tag its threads name. -/
def OnTag (s : State) (a : ThOp) (c : Instr) (op : Nat) (ok : Bool) (each : Nat → Tag → Prog) : Prop :=
  (c.opcode = op ∧ opDefined op = true) ∧ exec c s = s.perform (thStep a op pipeIssue ok (thSeq a fun i => withTag a i (each i)))

theorem onTag_twait (s : State) (a : ThOp) : OnTag s a (.twait a) 0xA2 (regOk .g .g .no [0] a.w) (twaitWith a) := ⟨⟨rfl, by decide⟩, rfl⟩
theorem onTag_tpoll (s : State) (a : ThOp) : OnTag s a (.tpoll a) 0xA3 (regOk .g .g .no [0] a.w) (tpollWith a) := ⟨⟨rfl, by decide⟩, rfl⟩
theorem onTag_tcrec (s : State) (a : ThOp) : OnTag s a (.tcrec a) 0xA4 (regOk .v .g .no [0] a.w) (tcrecWith a) := ⟨⟨rfl, by decide⟩, rfl⟩
theorem onTag_tfree (s : State) (a : ThOp) : OnTag s a (.tfree a) 0xA5 (regOk .no .g .no [0] a.w) (tfreeWith a) := ⟨⟨rfl, by decide⟩, rfl⟩
theorem onTag_tcancel (s : State) (a : ThOp) : OnTag s a (.tcancel a) 0xA6 (regOk .no .g .no [0] a.w) (tcancelWith a) := ⟨⟨rfl, by decide⟩, rfl⟩

section
variable {s : State} {a : ThOp} {c : Instr} {op i : Nat} {each : Nat → Tag → Prog} {x : Tag}

/-- Of a free tag, or a value that names none, each raises cause 5. -/
theorem OnTag.raised_none (hc : OnTag s a c op true each) (h : s.m.stands a) (htodo : s.m.todo a = [i]) (hx : s.m.tagNamed a i = none) :
    issues c s a fun t => s.m.raised t a 5 0x70 0 i false := by
  obtain ⟨⟨ho, hd⟩, he⟩ := hc
  exact issues_raised_of_thread h he ho hd rfl (by rw [htodo]; rfl) (by decide) (by decide) fun u hu => ⟨u, hu, withTag_run_none hu hx _⟩

theorem OnTag.raised (hc : OnTag s a c op true each) (h : s.m.stands a) (htodo : s.m.todo a = [i]) (hx : s.m.tagNamed a i = some x)
    (hrun : each i x = thDie a.k a.core a.f 5 0 i false 0) : issues c s a fun t => s.m.raised t a 5 0x70 0 i false := by
  obtain ⟨⟨ho, hd⟩, he⟩ := hc
  exact issues_raised_of_thread h he ho hd rfl (by rw [htodo]; rfl) (by decide) (by decide) fun u hu => ⟨u, hu, by rw [withTag_run hu hx, hrun]⟩

theorem OnTag.waits (hc : OnTag s a c op true each) (h : s.m.stands a) (htodo : s.m.todo a = [i]) (hx : s.m.tagNamed a i = some x)
    (hrun : each i x = thWait a.k a.core a.f op a.w i 0 R.TH_WAIT_SYNC) : issues c s a fun t => s.m.waitsOn t a op R.TH_WAIT_SYNC ∧ s.m.sameButFlock t a := by
  obtain ⟨⟨ho, hd⟩, he⟩ := hc
  exact issues_of_wait h he ho hd rfl (by rw [htodo]; rfl) op fun u hu => ⟨u, hu, by rw [withTag_run hu hx, hrun]⟩

/-- What changes one thread, and perhaps the data cache. -/
theorem OnTag.keeps (hc : OnTag s a c op true each) (h : s.m.stands a) (htodo : s.m.todo a = [i]) (hx : s.m.tagNamed a i = some x) (acq : Bool)
    {g : Thread → Thread} (hrun : each i x = progs [only acq (acquire a), thDone a i g]) :
    issues c s a fun t => (s.m.sameButCore t a ∧ s.m.finished t a i g ∧ s.m.sameMemory t ∧ s.m.regsBecome t (s.m.issuedOne a))
      ∧ t.dcacheOf a = if acq then [] else s.m.dcacheOf a := by
  obtain ⟨⟨ho, hd⟩, he⟩ := hc
  refine issues_of_last h he ho hd rfl htodo g fun u hu => ?_
  have honce := stands_once h
  cases acq with
  | true =>
    obtain ⟨w, hw, hmid, hmem, hregs, hempty⟩ := hu.acquire honce
    refine ⟨w, ?_, hmid, fun t ht => ⟨⟨ht.core, ht.finished, ht.sameMemory hmem, ht.regsBecome hregs⟩, ht.dcacheOf.trans hempty⟩⟩
    rw [withTag_run hu hx, hrun, run_progs_cons, run_progs_cons, run_progs_nil, run_only_true, hw]
  | false =>
    refine ⟨u, ?_, hu.midway honce, fun t ht => ⟨⟨ht.core, ht.finished, ht.sameMemory hu.sameMemory, ht.regsBecome hu.regAt⟩, ht.dcacheOf.trans hu.dcacheOf⟩⟩
    rw [withTag_run hu hx, hrun]; rfl

/-- TFREE of a complete tag. -/
theorem issues_tfree (h : s.m.stands a) (htodo : s.m.todo a = [i]) (hok : regOk .no .g .no [0] a.w = true) (hx : s.m.tagNamed a i = some x) (hdone : x.done = true) :
    issues (.tfree a) s a fun t => s.m.finished t a i id ∧ s.m.sameMemory t ∧ s.m.regsBecome t (s.m.issuedOne a)
      ∧ (t.cl a.k).tags = (s.m.cl a.k).tags.filter fun e => !(e.2.uid == x.uid) := by
  obtain ⟨⟨ho, hd⟩, he⟩ := onTag_tfree s a
  refine issues_of_passed h he ho hd hok htodo id fun u hu => ?_
  obtain ⟨w, hw⟩ : ∃ w, w = (onCl a.k fun c => { c with tags := c.tags.filter fun y => !(y.2.uid == x.uid) }).run u := ⟨_, rfl⟩
  have hkept : u.coresKept w := by rw [hw]; exact (keepsCores_onCl a.k (f := fun c => { c with tags := c.tags.filter fun y => !(y.2.uid == x.uid) }) fun _ => rfl).kept u
  have hparts : u.sameBut w [.clusters] := by rw [hw]; exact sameBut_onCl ..
  have htags : (w.cl a.k).tags = (s.m.cl a.k).tags.filter fun e => !(e.2.uid == x.uid) := by rw [hw, cl_onCl, if_pos rfl, ← hu.tags]
  refine ⟨w, ?_, (hkept.flock ..).trans hu.flock, hkept.once _ (by rw [hu.die]; exact stands_once h), fun t ht => ⟨ht.finished, ⟨?_, ?_⟩, ?_, ?_⟩⟩
  · rw [withTag_run hu hx, tfreeWith, if_pos hdone, run_progs_cons, run_progs_cons, run_progs_nil, hw]
  · exact (congrArg (fun v : Dev => v.mem) ht.same.1).trans ((hparts.mem (by decide)).trans hu.sameMemory.1)
  · exact (congrArg (fun v : Dev => v.undef) ht.same.1).trans ((hparts.undef (by decide)).trans hu.sameMemory.2)
  · refine regsBecome_one _ _ fun A => ?_
    rw [ht.regs, hparts.regAt (by decide), hu.regAt]
    split
    next hA => rw [hA]
    next => rfl
  · exact (ht.same.field (fun c => c.tags) fun _ => rfl).trans htags

/-- A freed tag is found no more. -/
theorem tag_freed {tags : List (Nat × Tag)} {v : Nat} (hrise : risingFrom 0 tags = true) (hx : (tags.find? fun e => e.1 == v).map (·.2) = some x) :
    ((tags.filter fun e => !(e.2.uid == x.uid)).find? fun e => e.1 == v).map (·.2) = none := by
  obtain ⟨e, he, rfl⟩ := Option.map_eq_some_iff.mp hx
  have hkey : e.1 = v := by simpa using List.find?_some he
  rw [Option.map_eq_none_iff, List.find?_eq_none]
  intro y hy hyv
  obtain ⟨hmem, huid⟩ := List.mem_filter.mp hy
  have hsame : y.2 = e.2 := by
    have hye : y.1 = e.1 := (by simpa using hyv : y.1 = v).trans hkey.symm
    rw [← sget_of_mem (d := fun _ => e.2) hrise hmem, hye, sget_of_mem hrise (List.mem_of_find?_eq_some he)]
  rw [hsame] at huid
  simp at huid

/-- TCANCEL of an instruction in its queue. -/
theorem issues_tcancel (h : s.m.stands a) (htodo : s.m.todo a = [i]) (hok : regOk .no .g .no [0] a.w = true) (hx : s.m.tagNamed a i = some x) (hdone : x.done = false)
    {e : Entry} (he : s.m.entryNo a.k x.uid = some e) (hq : e.issued = false) :
    issues (.tcancel a) s a fun t => s.m.finished t a i id ∧ (∀ q, q ∈ (t.cl a.k).entries → q.uid ≠ x.uid)
      ∧ ∃ y, ((t.cl a.k).tags.find? fun e => e.1 == (((s.m.flockOf a).thr i).x (fA a.w)).toNat).map (·.2) = some y
        ∧ y.uid = x.uid ∧ y.done = true ∧ leAt y.record 0 1 = 0x30 := by
  obtain ⟨⟨ho, hd⟩, hexec⟩ := onTag_tcancel s a
  refine issues_of_passed h hexec ho hd hok htodo id fun u hu => ?_
  have hents : (u.cl a.k).entries = (s.m.cl a.k).entries := hu.same.field (fun c => c.entries) fun _ => rfl
  have hue : u.entryNo a.k x.uid = some e := by rw [Dev.entryNo, hents]; exact he
  have hany : ((u.cl a.k).entries.any fun e => e.uid == x.uid) = true := by
    rw [hents, List.any_eq_true]
    exact ⟨e, List.mem_of_find?_eq_some he, beq_iff_eq.mpr (entryNo_uid he)⟩
  have hleft := endEntry_left_queued (status := 0x30) hue hq (by decide) 0 0 false
  have hkept := (keepsCores_endEntry a.k x.uid 0x30 0 0 false).kept u
  refine ⟨_, ?_, (hkept.flock ..).trans hu.flock, hkept.once _ (by rw [hu.die]; exact stands_once h), fun t ht => ⟨ht.finished, fun q hq' => ?_, ?_⟩⟩
  · rw [withTag_run hu hx, tcancelWith, hdone, run_progs_cons, run_progs_cons, run_progs_nil, Bool.not_false, run_only_true, cancelUid, run_look]
    dsimp only
    rw [if_pos hany, cancelEntry]
  · rw [show (t.cl a.k).entries = _ from ht.same.field (fun c => c.entries) fun _ => rfl] at hq'
    exact hleft.ended.1 q hq'
  · rw [show (t.cl a.k).tags = _ from ht.same.field (fun c => c.tags) fun _ => rfl]
    exact find?_of_tagDone hleft.ended.2 (by rw [hu.tags]; exact hx)

end

/-- Settles O21: each operation on a complete, an incomplete and a free tag. -/
theorem tagOperations : Obligations.TagOperations := by
  intro s a i h htodo v gg vg ng status tagOf keeps bad
  refine ⟨fun x hx hdone => ?_, fun x hx hdone => ?_, fun hx => ?_⟩
  · refine ⟨fun hok => ⟨?_, ?_⟩, fun hok => ?_, fun hok => ⟨?_, ?_⟩⟩
    · exact (hok ▸ onTag_twait s a).keeps h htodo hx true (by rw [twaitWith, if_pos hdone]; rfl)
    · exact (hok ▸ onTag_tpoll s a).keeps h htodo hx true (by rw [tpollWith, hdone]; rfl)
    · exact (hok ▸ onTag_tcrec s a).keeps h htodo hx true (by rw [tcrecWith, if_pos hdone]; rfl)
    · refine fun hw => ?_
      obtain ⟨t, ht, hpend, hfin, hmem, hregs, htags⟩ := issues_tfree h htodo hok hx hdone hw
      exact ⟨t, ht, hpend, fun hrise => by rw [show tagOf t.m = _ from congrArg (fun l => (List.find? (fun e => e.1 == v) l).map (·.2)) htags]; exact tag_freed hrise hx,
        hfin, hmem, hregs, htags⟩
    · exact (hok ▸ onTag_tcancel s a).keeps h htodo hx false (by rw [tcancelWith, hdone]; rfl)
  · refine ⟨fun hok => ⟨?_, ?_⟩, fun hok => ?_, fun hok => ?_, fun hok e he hq hstage => ?_⟩
    · exact (hok ▸ onTag_twait s a).waits h htodo hx (by rw [twaitWith, hdone]; rfl)
    · exact (hok ▸ onTag_tpoll s a).keeps h htodo hx false (by rw [tpollWith, hdone]; rfl)
    · exact (hok ▸ onTag_tcrec s a).waits h htodo hx (by rw [tcrecWith, hdone]; rfl)
    · exact (hok ▸ onTag_tfree s a).raised h htodo hx (by rw [tfreeWith, hdone]; rfl)
    · exact issues_tcancel h htodo hok hx hdone he hq
  · exact ⟨fun hok => ⟨(hok ▸ onTag_twait s a).raised_none h htodo hx, (hok ▸ onTag_tpoll s a).raised_none h htodo hx⟩,
      fun hok => (hok ▸ onTag_tcrec s a).raised_none h htodo hx,
      fun hok => ⟨(hok ▸ onTag_tfree s a).raised_none h htodo hx, (hok ▸ onTag_tcancel s a).raised_none h htodo hx⟩⟩

end Sys2Proof.Machine
end

section
/-! SUPPORT. Locks (R309 to R313): what their operations leave of the lock, and that they leave the flocks and the memory. -/

namespace Sys2Proof.Machine

/-! ### What changes locks alone -/

/-- The flocks and the memory stand. -/
structure Dev.aside (s t : Dev) : Prop where
  kept : s.coresKept t
  memory : s.sameMemory t

theorem aside_refl (s : Dev) : s.aside s := ⟨coresKept_refl s, rfl, rfl⟩

theorem Dev.aside.trans {s t u : Dev} (h : s.aside t) (g : t.aside u) : s.aside u :=
  ⟨h.kept.trans g.kept, g.memory.1.trans h.memory.1, g.memory.2.trans h.memory.2⟩

theorem aside_of {p : Prog} {l : List Part} (hk : p.KeepsCores) (hp : p.Within fun u => u.parts ⊆ l) (hm : Part.mem ∉ l) (hu : Part.undef ∉ l) (s : Dev) :
    s.aside (p.run s) := by
  have hs : s.sameBut (p.run s) l := hp.sameBut s
  exact ⟨hk.kept s, hs.mem hm, hs.undef hu⟩

/-- A change of a lock reads back; the registers stand. -/
theorem lock_onLock (l : LockId) (f : Lock → Lock) (s : Dev) : ((onLock l f).run s).lock l = f (s.lock l) := by
  rw [onLock, run_look]
  dsimp only
  split
  next h =>
    rw [onDie, run_look, run_upd, Dev.lock, if_pos h, die_apply, if_pos rfl]
    exact sget_sset_same ..
  next h =>
    rw [onCl, run_look, run_upd, Dev.lock, if_neg h, cl_apply, if_pos rfl]
    exact sget_sset_same ..

theorem within_onLock_parts (l : LockId) (f : Lock → Lock) : (onLock l f).Within fun u => u.parts ⊆ [.clusters, .dies] :=
  within_onLock (by decide) (by decide) l f

theorem sameBut_onLock (l : LockId) (f : Lock → Lock) (s : Dev) : s.sameBut ((onLock l f).run s) [.clusters, .dies] := (within_onLock_parts l f).sameBut s

theorem aside_onLock (l : LockId) (f : Lock → Lock) (s : Dev) : s.aside ((onLock l f).run s) :=
  aside_of (keepsCores_onLock l f) (within_onLock_parts l f) (by decide) (by decide) s

/-- The settings of a lock are in its registers. -/
theorem lockCons_congr {s t : Dev} (h : ∀ A, t.regAt A = s.regAt A) (l : LockId) : t.lockCons l = s.lockCons l := by
  rw [Dev.lockCons, Dev.lockReg, Dev.reg, h]; rfl

/-! ### Operations on blocks -/

/-- What the program of a thread sees of a block. -/
def LockBlk.view (b : LockBlk) : Nat × Nat × Bool × Nat × Nat := (b.seq, b.idx, b.filled, b.taken, b.released)

theorem blks_onBlk (l : LockId) (seq : Nat) (f : LockBlk → LockBlk) (s : Dev) :
    (((onBlk l seq f).run s).lock l).blks = (s.lock l).blks.map fun b => if b.seq == seq then f b else b := by rw [onBlk, lock_onLock]

/-- The blocks that are done are freed. -/
theorem blks_freeDone (l : LockId) (s : Dev) : (((freeDone l).run s).lock l).blks = (s.lock l).blks.filter fun b => !b.done (s.lockCons l) := by
  rw [freeDone, run_look, run_only]
  split
  next => rw [lock_onLock]
  next h =>
    rw [Bool.not_eq_true, List.any_eq_false] at h
    exact (List.filter_eq_self.mpr fun b hb => by simpa using h b hb).symm

theorem aside_freeDone (l : LockId) (s : Dev) : s.aside ((freeDone l).run s) := by
  rw [freeDone, run_look, run_only]
  split
  · exact aside_onLock ..
  · exact aside_refl s

/-- A release, and the blocks that are done with it are freed. -/
theorem releaseBlk_run (l : LockId) (seq slot : Nat) (s : Dev) : s.aside ((releaseBlk l seq slot).run s)
    ∧ (((releaseBlk l seq slot).run s).lock l).blks
      = ((s.lock l).blks.map fun b => if b.seq = seq then { b with released := b.released ||| 2 ^ slot } else b).filter fun b => !b.done (s.lockCons l) := by
  obtain ⟨v, hv⟩ : ∃ v, v = (onBlk l seq fun b => { b with released := b.released ||| 2 ^ slot }).run s := ⟨_, rfl⟩
  have hparts : s.sameBut v [.clusters, .dies] := hv ▸ sameBut_onLock ..
  have hrun : (releaseBlk l seq slot).run s = (freeDone l).run v := by rw [releaseBlk, run_progs_cons, run_progs_cons, run_progs_nil, hv]
  rw [hrun]
  refine ⟨(hv ▸ aside_onLock .. : s.aside v).trans (aside_freeDone l v), ?_⟩
  rw [blks_freeDone, lockCons_congr (hparts.regAt (by decide)), hv, blks_onBlk]
  simp only [beq_iff_eq]

/-- A producer's block, behind the others. -/
theorem takeBlock_run (l : LockId) (idx cmd : Nat) (s : Dev) : s.aside ((takeBlock l idx cmd).run s)
    ∧ (((takeBlock l idx cmd).run s).lock l).blks = (s.lock l).blks ++ [⟨(s.lock l).seq, idx, false, cmd, 0, 0, [], 0, [], 0⟩] := by
  rw [takeBlock, run_look]
  exact ⟨aside_onLock .., by rw [lock_onLock]⟩

/-- A consumer's take marks the block. -/
theorem takeFilled_run (l : LockId) (seq slot cmd : Nat) (s : Dev) : s.aside ((takeFilled l seq slot cmd).run s)
    ∧ (((takeFilled l seq slot cmd).run s).lock l).blks.map LockBlk.view
      = (s.lock l).blks.map fun b => if b.seq = seq then LockBlk.view { b with taken := b.taken ||| 2 ^ slot } else b.view := by
  obtain ⟨v, hv⟩ : ∃ v, v = (onBlk l seq fun b => { b with
      taken := b.taken ||| 2 ^ slot
      holders := b.holders.filter (fun h => h.1 ≠ slot) ++ [(slot, cmd)]
      keep := (if s.replayable cmd then nadd b.keep cmd else b.keep) }).run s := ⟨_, rfl⟩
  obtain ⟨w, hw⟩ : ∃ w, w = (onBlk l seq fun b => if b.producer ≠ cmd && v.mayReplay b.producer
      then { b with keep := nadd b.keep b.producer } else b).run v := ⟨_, rfl⟩
  have hrun : (takeFilled l seq slot cmd).run s = (onLock l fun x => { x with lastTaker := sput x.lastTaker slot cmd }).run w := by
    rw [takeFilled, run_look, run_progs_cons, run_progs_cons, run_progs_cons, run_progs_nil, ← hv, run_look, ← hw]
  rw [hrun]
  refine ⟨((hv ▸ aside_onLock .. : s.aside v).trans (hw ▸ aside_onLock .. : v.aside w)).trans (aside_onLock ..), ?_⟩
  rw [lock_onLock, hw, blks_onBlk, hv, blks_onBlk, List.map_map, List.map_map]
  refine List.map_congr_left fun b _ => ?_
  simp only [Function.comp_apply, beq_iff_eq]
  by_cases hb : b.seq = seq
  · rw [if_pos hb, if_pos hb, if_pos hb, apply_ite LockBlk.view]; exact ite_self _
  · rw [if_neg hb, if_neg hb, if_neg hb]

/-- Triggers change neither locks nor the memory. -/
theorem raiseTriggers_parts (l : LockId) (s : Dev) : s.sameBut ((raiseTriggers l).run s) [.drovers, .regs] := by
  rw [raiseTriggers, run_look]
  refine run_forAll_keeps (P := fun t => s.sameBut t [.drovers, .regs]) (fun q _ t ht => sameBut_trans ht ?_) (sameBut_refl _ _)
  rw [run_look]
  dsimp only
  split
  · exact Prog.Within.sameBut (within_onDrv (by decide)) t
  · exact Prog.Within.sameBut (l := [.regs]) (within_tally 1 fun _ => List.Subset.refl _) t |>.mono (by decide)

theorem lock_of_sameBut {s t : Dev} {p : List Part} (h : s.sameBut t p) (hc : Part.clusters ∉ p) (hd : Part.dies ∉ p) (l : LockId) : t.lock l = s.lock l := by
  rw [Dev.lock, Dev.lock, h.cl hc, h.die hd]

/-- A producer's commit, no slot draining, fills the block. -/
theorem commitBlk_run {l : LockId} {s : Dev} {b : LockBlk} (hb : (s.lock l).blks.find? (fun y => y.seq == b.seq) = some b) (hf : b.filled = false)
    (hdrain : (s.lock l).drain = 0) : s.aside ((commitBlk l b.seq).run s)
      ∧ (((commitBlk l b.seq).run s).lock l).blks = (s.lock l).blks.map fun y => if y.seq = b.seq then { y with filled := true } else y := by
  obtain ⟨v, hv⟩ : ∃ v, v = (onBlk l b.seq fun b => { b with filled := true }).run s := ⟨_, rfl⟩
  have hvd : (v.lock l).drain = 0 := by rw [hv, onBlk, lock_onLock]; exact hdrain
  have hrun : (commitBlk l b.seq).run s = (raiseTriggers l).run v := by
    rw [commitBlk, run_look, hb]
    dsimp only
    rw [hf, if_neg Bool.false_ne_true, run_progs_cons, run_progs_cons, run_progs_cons, run_progs_nil, ← hv, drainSlots, run_look]
    dsimp only
    rw [hvd]
    rfl
  have htrig := raiseTriggers_parts l v
  rw [hrun]
  refine ⟨(hv ▸ aside_onLock .. : s.aside v).trans ⟨coresKept_of_sameBut htrig (by decide) (by decide), htrig.mem (by decide), htrig.undef (by decide)⟩, ?_⟩
  rw [lock_of_sameBut htrig (by decide) (by decide), hv, blks_onBlk]
  simp only [beq_iff_eq]

/-! ### Waiters -/

theorem exists_waiter {l : List LockWait} (w : LockWait) :
    ∃ y ∈ (if l.any (fun y => y.who == w.who && y.cl == w.cl) then l else l ++ [w]), y.who = w.who ∧ y.cl = w.cl := by
  split
  next h =>
    obtain ⟨y, hy, hmatch⟩ := List.any_eq_true.mp h
    obtain ⟨hwho, hcl⟩ := Bool.and_eq_true_iff.mp hmatch
    exact ⟨y, hy, beq_iff_eq.mp hwho, beq_iff_eq.mp hcl⟩
  next => exact ⟨w, List.mem_append_right _ List.mem_cons_self, rfl, rfl⟩

theorem waitConsumer_run (l : LockId) (w : LockWait) (s : Dev) : (((waitConsumer l w).run s).lock l).blks = (s.lock l).blks
    ∧ ∃ y ∈ (((waitConsumer l w).run s).lock l).consWait, y.who = w.who ∧ y.cl = w.cl := by
  rw [waitConsumer, lock_onLock]
  refine ⟨by split <;> rfl, ?_⟩
  rw [apply_ite Lock.consWait]
  exact exists_waiter w

theorem waitProducer_run (l : LockId) (w : LockWait) (s : Dev) : (((waitProducer l w).run s).lock l).blks = (s.lock l).blks
    ∧ ∃ y ∈ (((waitProducer l w).run s).lock l).prodWait, y.who = w.who ∧ y.cl = w.cl := by
  rw [waitProducer, lock_onLock]
  refine ⟨by split <;> rfl, ?_⟩
  rw [apply_ite Lock.prodWait]
  exact exists_waiter w

theorem blks_unwait (l : LockId) (who : Waiter) (cl : Nat) (s : Dev) : (((unwait l who cl).run s).lock l).blks = (s.lock l).blks := by rw [unwait, lock_onLock]

/-! ### Locks as a thread finds them -/

theorem Dev.sameButCore.lock {s t : Dev} {a : ThOp} (h : s.sameButCore t a) (l : LockId) : t.lock l = s.lock l := by
  obtain ⟨hother, hcls, hcl, -⟩ := h
  have hdies : t.die l.at_ = s.die l.at_ := (congrArg (fun v : Dev => v.die l.at_) hother : _)
  have hlocks : (t.cl a.k).locks = (s.cl a.k).locks := (congrArg (fun c : Cluster => c.locks) hcl : _)
  rw [Dev.lock, Dev.lock, hdies]
  by_cases hk : l.at_ = a.k
  · rw [hk, hlocks]
  · rw [hcls _ hk]

theorem Dev.sameButFlock.lock {s t : Dev} {a : ThOp} (h : s.sameButFlock t a) (l : LockId) : t.lock l = s.lock l := (sameButCore_of_sameButFlock h).lock l

theorem Dev.sameButFlock.memory {s t : Dev} {a : ThOp} (h : s.sameButFlock t a) : s.sameMemory t :=
  ⟨(congrArg (fun v : Dev => v.mem) h.1 : _), (congrArg (fun v : Dev => v.undef) h.1 : _)⟩

section
variable {s u : Dev} {a : ThOp}

/-- Which block a producer would be granted hangs on the locks and their registers alone. -/
theorem Dev.begun.canProduce (h : s.begun u a) (l : LockId) : u.canProduce l = s.canProduce l := by
  have hlock := h.same.lock
  have hring : u.lockRing l = s.lockRing l := h.outside (fun v => v.lockRing l) fun _ => rfl
  have hslots : u.lockSlots l = s.lockSlots l := h.outside (fun v => v.lockSlots l) fun _ => rfl
  have hfloors : u.lockFloor = s.lockFloor := h.outside (fun v => v.lockFloor) fun _ => rfl
  have hpool : u.poolLocks = s.poolLocks := h.outside (fun v => v.poolLocks) fun _ => rfl
  have hblocks : u.poolBlocks = s.poolBlocks := h.outside (fun v => v.poolBlocks) fun _ => rfl
  have hreserved : u.poolReserved l.at_ = s.poolReserved l.at_ := h.outside (fun v => v.poolReserved l.at_) fun _ => rfl
  have hlowest : u.poolLowest l.at_ = s.poolLowest l.at_ := by
    have hbase : u.poolBase = s.poolBase := h.outside (fun v => v.poolBase) fun _ => rfl
    have hblock : u.poolBlock = s.poolBlock := h.outside (fun v => v.poolBlock) fun _ => rfl
    simp only [Dev.poolLowest, hlock, hpool, hblocks, hbase, hblock]
  have hfree : u.poolFree l.at_ = s.poolFree l.at_ := by simp only [Dev.poolFree, hreserved, hlock, hfloors, hpool, hblocks]
  rw [Dev.canProduce, Dev.canProduce, hlock, hring, hslots, hfloors, hlowest, hfree]

theorem Dev.begun.mustYield (h : s.begun u a) (l : LockId) (who : Waiter) (cl prio since : Nat) :
    u.mustYield l who cl prio since = s.mustYield l who cl prio since := by
  have hring : u.lockRing l = s.lockRing l := h.outside (fun v => v.lockRing l) fun _ => rfl
  have hfloor : u.lockFloor l = s.lockFloor l := h.outside (fun v => v.lockFloor l) fun _ => rfl
  have hpool : u.poolLocks l.at_ = s.poolLocks l.at_ := h.outside (fun v => v.poolLocks l.at_) fun _ => rfl
  simp only [Dev.mustYield, h.same.lock, hring, hfloor, hpool, h.canProduce]

theorem Dev.begun.threadLock (h : s.begun u a) (k n : Nat) (c : Bool) : u.threadLock k n c = s.threadLock k n c := h.outside (fun v => v.threadLock k n c) fun _ => rfl

theorem Dev.begun.blockVa (h : s.begun u a) (l : LockId) (idx : Nat) : u.blockVa l idx = s.blockVa l idx := h.outside (fun v => v.blockVa l idx) fun _ => rfl

theorem Dev.begun.lockCons (h : s.begun u a) (l : LockId) : u.lockCons l = s.lockCons l := lockCons_congr h.regAt l

end

end Sys2Proof.Machine
end

section
/-! CERTIFICATE. The thread's side of the locks (R251, R260, R265, R309, R311, R313). -/

namespace Sys2Proof.Machine

/-! ### The lock that a handle names -/

/-- A handle names an enabled lock, and a consumer slot that it has. -/
def Dev.handleNames (s : Dev) (a : ThOp) (h : Nat) (l : LockId) : Prop :=
  h < 2 ^ 19 ∧ s.handleLock (a.k / 168) (a.k % 168) (h % 2 ^ 16) = some l ∧ s.lockOn l = true ∧ (fM a.w = 0 → bits h 18 16 < s.lockCons l)

theorem low_bits (h : Nat) : bits h 15 0 = h % 2 ^ 16 := by unfold bits; omega

section
variable {s : Dev} {a : ThOp} {h : Nat} {l : LockId}

theorem threadLock_of_names (hl : s.handleNames a h l) (hM : fM a.w < 2) : s.threadLock a.k h (!decide (fM a.w = 1)) = some (l, bits h 18 16) := by
  obtain ⟨hlow, hlock, hon, hslot⟩ := hl
  have hc : (!(!decide (fM a.w = 1)) || decide (bits h 18 16 < s.lockCons l)) = true := by
    by_cases h1 : fM a.w = 1
    · rw [decide_eq_true h1]; rfl
    · rw [decide_eq_true (hslot (by omega)), Bool.or_true]
  rw [Dev.threadLock, if_neg (Nat.not_le.mpr hlow), low_bits, hlock]
  dsimp only
  rw [hon, hc]; rfl

theorem threadLock_none (hl : ∀ l, ¬ s.handleNames a h l) : s.threadLock a.k h (!decide (fM a.w = 1)) = none := by
  rw [Dev.threadLock, low_bits]
  split
  · rfl
  next hlow =>
    split
    next l hlock =>
      refine if_neg fun hc => hl l ?_
      obtain ⟨hon, hslot⟩ := Bool.and_eq_true_iff.mp hc
      exact ⟨Nat.not_le.mp hlow, hlock, hon, fun h0 => by simpa [h0] using hslot⟩
    · rfl

end

/-! ### How a thread's program ends -/

section
variable {s u v : Dev} {a : ThOp}

/-- A thread that has its block waits no more, invalidates the data cache, and is done. -/
theorem lockDone_run (h : u.aside v) (l : LockId) (who : Waiter) (i : Nat) (g : Thread → Thread) :
    ∃ w, (progs [unwait l who a.k, acquire a, thDone a i g]).run v = (thDone a i g).run w ∧ w.flockOf a = u.flockOf a
      ∧ (∀ d, (u.die d).once = [] → (w.die d).once = []) ∧ u.sameMemory w ∧ w.dcacheOf a = [] ∧ (w.lock l).blks = (v.lock l).blks := by
  obtain ⟨y, hy⟩ : ∃ y, y = (unwait l who a.k).run v := ⟨_, rfl⟩
  obtain ⟨w, hw⟩ : ∃ w, w = (acquire a).run y := ⟨_, rfl⟩
  have hay : u.aside y := h.trans (hy ▸ aside_onLock ..)
  have hcore : y.sameButCore w a := hw ▸ sameButCore_dcache y a fun _ => []
  have hparts : y.sameBut w [.clusters] := hw ▸ sameBut_onCore ..
  refine ⟨w, ?_, ?_, fun d hd => ?_, ⟨?_, ?_⟩, ?_, ?_⟩
  · rw [run_progs_cons, run_progs_cons, run_progs_cons, run_progs_nil, ← hy, ← hw]
  · rw [hw, acquire, flockOf_onDcache]; exact hay.kept.flock ..
  · rw [hparts.die (by decide)]; exact hay.kept.once d hd
  · exact (hparts.mem (by decide)).trans hay.memory.1
  · exact (hparts.undef (by decide)).trans hay.memory.2
  · rw [hw]; exact dcacheOf_onDcache y a fun _ => []
  · rw [hcore.lock, hy, blks_unwait]

theorem sameButFlock_thWait (a : ThOp) (op thread va off : Nat) (t : Dev) : t.sameButFlock ((thWait a.k a.core a.f op a.w thread va off).run t) a := by
  rw [thWait_run]; exact sameButFlock_trans (sameButFlock_onFlock ..) (sameButFlock_tally ..)

/-- A thread that waits for a lock. -/
theorem lockWaits_run (hu : s.begun u a) (h : u.aside v) (hr : ∀ A, v.regAt A = u.regAt A) (i n off : Nat) :
    let t := (thWait a.k a.core a.f 0x78 a.w i n off).run v
    (t.flockOf a).st ≠ .run ∧ (t.die (a.k / 168)).once = (v.die (a.k / 168)).once ∧ s.waitsOn t a 0x78 off ∧ s.sameMemory t ∧ ∀ l, t.lock l = v.lock l := by
  intro t
  have hsame : v.sameButFlock t a := sameButFlock_thWait ..
  have hwaits : s.waitsOn t a 0x78 off := waitsOn_thWait ((h.kept.flock ..).trans hu.flock) ((hr _).trans (hu.regAt _)) 0x78 i n
  refine ⟨?_, once_thWait .., hwaits, ?_, hsame.lock⟩
  · obtain ⟨⟨x, -, -, hflock⟩, -⟩ := hwaits
    rw [hflock]; exact (by decide : FlockSt.wait ≠ .run)
  · exact ⟨hsame.memory.1.trans (h.memory.1.trans hu.sameMemory.1), hsame.memory.2.trans (h.memory.2.trans hu.sameMemory.2)⟩

end

/-! ### LKGET and LKPUT in one thread -/

section
variable {s u : Dev} {a : ThOp} {i slot : Nat} {l : LockId}

/-- The handle in a thread, and the address of the block it names. -/
def Dev.lockHandle (s : Dev) (a : ThOp) (i : Nat) : Nat := (((s.flockOf a).thr i).x (fA a.w)).toNat
def Dev.lockBlockAt (s : Dev) (a : ThOp) (i : Nat) : Nat := (((s.flockOf a).thr i).x (fB a.w)).toNat

/-- The lock a thread names, as its program finds it. -/
def Dev.threadNames (s : Dev) (a : ThOp) (i : Nat) : Option (LockId × Nat) := s.threadLock a.k (s.lockHandle a i) (!decide (fM a.w = 1))

/-- A thread of LKGET as it waits (R313, R316). -/
def Dev.lockWaiter (s : Dev) (a : ThOp) (i slot : Nat) : LockWait :=
  ⟨.flock a.core a.f i, a.k, (s.flockOf a).cmd, s.prioOf (s.flockOf a),
    match (s.flockOf a).wait with | some v => if v.thread = i then v.since else s.clock | none => s.clock, slot, bits (s.lockHandle a i) 15 0⟩

theorem Dev.begun.lockHandle (h : s.begun u a) (i : Nat) : u.lockHandle a i = s.lockHandle a i := by rw [Dev.lockHandle, h.flock, ← Dev.lockHandle]

theorem Dev.begun.threadNames (h : s.begun u a) (i : Nat) : u.threadNames a i = s.threadNames a i := by
  rw [Dev.threadNames, h.lockHandle, h.threadLock, ← Dev.threadNames]

theorem lkgetThread_bad (hu : s.begun u a) (hn : s.threadNames a i = none) :
    (lkgetThread a i).run u = (thDie a.k a.core a.f 7 (s.lockHandle a i) i false 0).run u := by
  rw [lkgetThread, run_look, hu.flock]
  dsimp only
  rw [gr_eq, hu.threadLock, ← Dev.lockHandle, ← Dev.threadNames, hn]

theorem lkgetThread_filled (hu : s.begun u a) (hn : s.threadNames a i = some (l, slot)) (hM : fM a.w = 0) {b : LockBlk} (hb : s.nextFilled l slot = some b) :
    (lkgetThread a i).run u = (progs [unwait l (.flock a.core a.f i) a.k, acquire a, thDone a i fun r => r.setG (fD a.w) (s.blockVa l b.idx)]).run
      ((takeFilled l b.seq slot (s.flockOf a).cmd).run u) := by
  have hnext : u.nextFilled l slot = some b := by rw [Dev.nextFilled, hu.same.lock]; exact hb
  rw [lkgetThread, run_look, hu.flock]
  dsimp only
  rw [gr_eq, hu.threadLock, ← Dev.lockHandle, ← Dev.threadNames, hn]
  dsimp only
  rw [if_neg (by rw [hM]; decide), hnext]
  dsimp only
  rw [hu.blockVa, run_progs_cons, run_progs_cons, run_progs_nil]

theorem lkgetThread_unfilled (hu : s.begun u a) (hn : s.threadNames a i = some (l, slot)) (hM : fM a.w = 0) (hb : s.nextFilled l slot = none) :
    (lkgetThread a i).run u = (thWait a.k a.core a.f 0x78 a.w i (s.lockHandle a i) R.TH_WAIT_ACT).run ((waitConsumer l (u.lockWaiter a i slot)).run u) := by
  have hnext : u.nextFilled l slot = none := by rw [Dev.nextFilled, hu.same.lock]; exact hb
  rw [lkgetThread, run_look, ← hu.lockHandle]
  dsimp only
  rw [gr_eq, ← Dev.lockHandle, ← Dev.threadNames, hu.threadNames, hn]
  dsimp only
  rw [if_neg (by rw [hM]; decide), hnext]
  dsimp only
  rw [run_progs_cons, run_progs_cons, run_progs_nil]
  rfl

theorem lkgetThread_produces (hu : s.begun u a) (hn : s.threadNames a i = some (l, slot)) (hM : fM a.w = 1)
    (hagain : (s.lock l).againBlk (s.flockOf a).cmd = none) {idx : Nat} (hidx : s.canProduce l = some idx)
    (hyield : s.mustYield l (.flock a.core a.f i) a.k (s.prioOf (s.flockOf a)) s.clock = false) (hwait : (s.flockOf a).wait = none) :
    (lkgetThread a i).run u = (progs [unwait l (.flock a.core a.f i) a.k, acquire a, thDone a i fun r => r.setG (fD a.w) (s.blockVa l idx)]).run
      ((takeBlock l idx (s.flockOf a).cmd).run u) := by
  have hgrant : u.producerGrant l (s.flockOf a).cmd = some (s.blockVa l idx, takeBlock l idx (s.flockOf a).cmd) := by
    rw [Dev.producerGrant, hu.same.lock, hagain]
    dsimp only
    rw [hu.canProduce, hidx]
    dsimp only
    rw [hu.blockVa]
  have hprio : u.prioOf (s.flockOf a) = s.prioOf (s.flockOf a) := hu.outside (fun v => v.prioOf (s.flockOf a)) fun _ => rfl
  have hclock : u.clock = s.clock := hu.outside (fun v => v.clock) fun _ => rfl
  rw [lkgetThread, run_look, hu.flock]
  dsimp only
  rw [gr_eq, hu.threadLock, ← Dev.lockHandle, ← Dev.threadNames, hn]
  dsimp only
  rw [if_pos hM, hgrant]
  dsimp only
  rw [hwait]
  dsimp only
  rw [hprio, hclock, hu.mustYield, hyield, if_neg Bool.false_ne_true, run_progs_cons, run_progs_cons, run_progs_nil]

theorem lkgetThread_full (hu : s.begun u a) (hn : s.threadNames a i = some (l, slot)) (hM : fM a.w = 1)
    (hagain : (s.lock l).againBlk (s.flockOf a).cmd = none) (hidx : s.canProduce l = none) :
    (lkgetThread a i).run u = (thWait a.k a.core a.f 0x78 a.w i (s.lockHandle a i) R.TH_WAIT_LOCK_SPACE).run ((waitProducer l (u.lockWaiter a i slot)).run u) := by
  have hgrant : u.producerGrant l (u.flockOf a).cmd = none := by
    rw [Dev.producerGrant, hu.same.lock, hu.flock, hagain]
    dsimp only
    rw [hu.canProduce, hidx]
  rw [lkgetThread, run_look, ← hu.lockHandle]
  dsimp only
  rw [gr_eq, ← Dev.lockHandle, ← Dev.threadNames, hu.threadNames, hn]
  dsimp only
  rw [if_pos hM, hgrant]
  dsimp only
  rw [run_progs_cons, run_progs_cons, run_progs_nil]
  rfl

/-- The block that a thread's address names. -/
def Dev.blockNamed (s : Dev) (a : ThOp) (i : Nat) (l : LockId) : Option LockBlk := (s.lock l).blks.find? fun b => s.blockVa l b.idx == s.lockBlockAt a i

/-- What LKPUT does with the block its address names. -/
def lkputWith (a : ThOp) (i cmd : Nat) (l : LockId) (slot va : Nat) (b : LockBlk) : Prog :=
  if fM a.w = 1 then
    if !b.filled || b.again = cmd + 1 + 2 ^ 60 then progs [commitBlk l b.seq, thDone a i id] else thDie a.k a.core a.f 7 va i false 0
  else if bitAt b.taken slot && !bitAt b.released slot then progs [releaseBlk l b.seq slot, thDone a i id]
  else thDie a.k a.core a.f 7 va i false 0

theorem lkputThread_bad (hu : s.begun u a) (hn : s.threadNames a i = none) :
    (lkputThread a i).run u = (thDie a.k a.core a.f 7 (s.lockBlockAt a i) i false 0).run u := by
  rw [lkputThread, run_look, hu.flock]
  dsimp only
  rw [gr_eq, gr_eq, hu.threadLock, ← Dev.lockHandle, ← Dev.threadNames, hn, ← Dev.lockBlockAt]

theorem lkputThread_run (hu : s.begun u a) (hn : s.threadNames a i = some (l, slot)) : (lkputThread a i).run u
    = (match s.blockNamed a i l with
      | none => thDie a.k a.core a.f 7 (s.lockBlockAt a i) i false 0
      | some b => lkputWith a i (s.flockOf a).cmd l slot (s.lockBlockAt a i) b).run u := by
  have hva : u.blockVa = s.blockVa := hu.outside (fun v => v.blockVa) fun _ => rfl
  rw [lkputThread, run_look, hu.flock]
  dsimp only
  rw [gr_eq, gr_eq, hu.threadLock, ← Dev.lockHandle, ← Dev.threadNames, hn, ← Dev.lockBlockAt]
  dsimp only
  rw [hu.same.lock, hva]
  rfl

end

/-! ### The instructions -/

theorem exec_lkget (a : ThOp) (s : State) : exec (.lkget a) s = s.perform (thStep a 0x78 pipeMemory (regOk .g .g .no [0, 1] a.w) (thSeq a (lkgetThread a))) := rfl
theorem exec_lkput (a : ThOp) (s : State) : exec (.lkput a) s = s.perform (thStep a 0x79 pipeMemory (regOk .no .g .g [0, 1] a.w) (thSeq a (lkputThread a))) := rfl

/-- M of a legal word of a lock is 0 or 1. -/
theorem fM_lt_two {d x y : FKind} {w : Nat} (h : regOk d x y [0, 1] w = true) : fM w < 2 := by
  rw [regOk, Bool.and_eq_true] at h
  have hmem : fM w = 0 ∨ fM w = 1 := by simpa using h.2
  omega

section
variable {s : State} {a : ThOp} {i : Nat} {l : LockId}

/-- LKGET that is given a block. -/
theorem issues_lkget_taken {g : Thread → Thread} {Q : List LockBlk → Prop} (h : s.m.stands a) (htodo : s.m.todo a = [i]) (hok : regOk .g .g .no [0, 1] a.w = true)
    (hb : ∀ u, s.m.begun u a → ∃ v, u.aside v ∧ Q (v.lock l).blks
      ∧ (lkgetThread a i).run u = (progs [unwait l (.flock a.core a.f i) a.k, acquire a, thDone a i g]).run v) :
    issues (.lkget a) s a fun t => s.m.finished t a i g ∧ t.dcacheOf a = [] ∧ s.m.sameMemory t ∧ Q (t.lock l).blks := by
  refine issues_of_passed h (exec_lkget a s) rfl (by decide) hok htodo g fun u hu => ?_
  obtain ⟨v, hv, hQ, hrun⟩ := hb u hu
  obtain ⟨w, hw, hflock, honce, hmem, hempty, hblks⟩ := lockDone_run hv l (.flock a.core a.f i) i g
  refine ⟨w, hrun.trans hw, hflock.trans hu.flock, honce _ (by rw [hu.die]; exact stands_once h), fun t ht => ⟨ht.finished, ?_, ?_, ?_⟩⟩
  · exact (dcacheOf_of_sameButFlock ht.same).trans hempty
  · exact ⟨ht.same.memory.1.trans (hmem.1.trans hu.sameMemory.1), ht.same.memory.2.trans (hmem.2.trans hu.sameMemory.2)⟩
  · rw [ht.same.lock, hblks]; exact hQ

/-- LKGET that waits. -/
theorem issues_lkget_waits {off n : Nat} {Q : Lock → Prop} (h : s.m.stands a) (htodo : s.m.todo a = [i]) (hok : regOk .g .g .no [0, 1] a.w = true)
    (hb : ∀ u, s.m.begun u a → ∃ f, Q (f (s.m.lock l)) ∧ (lkgetThread a i).run u = (thWait a.k a.core a.f 0x78 a.w i n off).run ((onLock l f).run u)) :
    issues (.lkget a) s a fun t => s.m.waitsOn t a 0x78 off ∧ s.m.sameMemory t ∧ Q (t.lock l) := by
  refine issues_of_stop h (exec_lkget a s) rfl (by decide) hok (by rw [htodo]; rfl) fun u hu => ?_
  obtain ⟨f, hQ, hrun⟩ := hb u hu
  have haside := aside_onLock l f u
  obtain ⟨hstop, honce, hwaits, hmem, hlock⟩ := lockWaits_run hu haside (fun A => (sameBut_onLock l f u).regAt (by decide) A) i n off
  refine ⟨_, hrun, hstop, ?_, hwaits, hmem, ?_⟩
  · rw [honce]; exact haside.kept.once _ (by rw [hu.die]; exact stands_once h)
  · rw [hlock, lock_onLock, hu.same.lock]; exact hQ

/-- LKPUT that commits or releases its block. -/
theorem issues_lkput_done {Q : List LockBlk → Prop} (h : s.m.stands a) (htodo : s.m.todo a = [i]) (hok : regOk .no .g .g [0, 1] a.w = true)
    (hb : ∀ u, s.m.begun u a → ∃ v, u.aside v ∧ Q (v.lock l).blks ∧ (lkputThread a i).run u = (thDone a i id).run v) :
    issues (.lkput a) s a fun t => s.m.finished t a i id ∧ s.m.sameMemory t ∧ Q (t.lock l).blks := by
  refine issues_of_passed h (exec_lkput a s) rfl (by decide) hok htodo id fun u hu => ?_
  obtain ⟨v, hv, hQ, hrun⟩ := hb u hu
  refine ⟨v, hrun, (hv.kept.flock ..).trans hu.flock, hv.kept.once _ (by rw [hu.die]; exact stands_once h), fun t ht => ⟨ht.finished, ?_, ?_⟩⟩
  · exact ⟨ht.same.memory.1.trans (hv.memory.1.trans hu.sameMemory.1), ht.same.memory.2.trans (hv.memory.2.trans hu.sameMemory.2)⟩
  · rw [ht.same.lock]; exact hQ

theorem issues_lkput_bad (h : s.m.stands a) (htodo : s.m.todo a = [i]) (hok : regOk .no .g .g [0, 1] a.w = true)
    (hb : ∀ u, s.m.begun u a → (lkputThread a i).run u = (thDie a.k a.core a.f 7 (s.m.lockBlockAt a i) i false 0).run u) :
    issues (.lkput a) s a fun t => s.m.raised t a 7 0x70 (s.m.lockBlockAt a i) i false :=
  issues_raised_of_thread h (exec_lkput a s) rfl (by decide) hok (by rw [htodo]; rfl) (by decide) (by decide) fun u hu => ⟨u, hu, hb u hu⟩

end

section
variable {s : State} {a : ThOp} {i slot : Nat} {l : LockId} (h : s.m.stands a) (htodo : s.m.todo a = [i]) (hn : s.m.threadNames a i = some (l, slot))
include h htodo hn

/-- LKGET of a consumer: the slot's next block, if it is filled. -/
theorem issues_lkget_consumer (hok : regOk .g .g .no [0, 1] a.w = true) (hM : fM a.w = 0) {b : LockBlk}
    (hb : (s.m.lock l).blks.find? (fun b => !bitAt b.taken slot) = some b) :
    (b.filled = true → issues (.lkget a) s a fun t => s.m.finished t a i (fun r => r.putX (fD a.w) (BitVec.ofNat 64 (s.m.blockVa l b.idx)))
      ∧ t.dcacheOf a = [] ∧ s.m.sameMemory t
      ∧ (t.lock l).blks.map LockBlk.view = (s.m.lock l).blks.map fun y => if y.seq = b.seq then LockBlk.view { y with taken := y.taken ||| 2 ^ slot } else y.view)
    ∧ (b.filled = false → issues (.lkget a) s a fun t => s.m.waitsOn t a 0x78 R.TH_WAIT_ACT ∧ s.m.sameMemory t
      ∧ (t.lock l).blks = (s.m.lock l).blks ∧ ∃ w, w ∈ (t.lock l).consWait ∧ w.who = .flock a.core a.f i ∧ w.cl = a.k) := by
  refine ⟨fun hf => ?_, fun hf => ?_⟩
  · have hnext : s.m.nextFilled l slot = some b := by rw [Dev.nextFilled, hb]; exact if_pos hf
    refine issues_lkget_taken (Q := fun bs => bs.map LockBlk.view = (s.m.lock l).blks.map fun y =>
      if y.seq = b.seq then LockBlk.view { y with taken := y.taken ||| 2 ^ slot } else y.view) h htodo hok fun u hu => ?_
    obtain ⟨haside, hblks⟩ := takeFilled_run l b.seq slot (s.m.flockOf a).cmd u
    rw [hu.same.lock] at hblks
    exact ⟨_, haside, hblks, lkgetThread_filled hu hn hM hnext⟩
  · have hnext : s.m.nextFilled l slot = none := by rw [Dev.nextFilled, hb]; exact if_neg (by rw [hf]; decide)
    refine issues_lkget_waits (Q := fun x => x.blks = (s.m.lock l).blks ∧ ∃ w, w ∈ x.consWait ∧ w.who = .flock a.core a.f i ∧ w.cl = a.k) h htodo hok
      fun u hu => ⟨_, ?_, lkgetThread_unfilled hu hn hM hnext⟩
    have hwait := waitConsumer_run l (u.lockWaiter a i slot) u
    rw [waitConsumer, lock_onLock, hu.same.lock] at hwait
    exact hwait

/-- LKGET of a consumer whose slot has taken every block. -/
theorem issues_lkget_empty (hok : regOk .g .g .no [0, 1] a.w = true) (hM : fM a.w = 0)
    (hb : (s.m.lock l).blks.find? (fun b => !bitAt b.taken slot) = none) : issues (.lkget a) s a fun t => s.m.waitsOn t a 0x78 R.TH_WAIT_ACT := by
  have hnext : s.m.nextFilled l slot = none := by rw [Dev.nextFilled, hb]
  intro hw
  obtain ⟨t, ht, hpend, hwaits, -⟩ := issues_lkget_waits (l := l) (Q := fun _ => True) h htodo hok (fun u hu => ⟨_, trivial, lkgetThread_unfilled hu hn hM hnext⟩) hw
  exact ⟨t, ht, hpend, hwaits⟩

/-- LKGET of a producer: the block that the lock can grant, if any. -/
theorem issues_lkget_producer (hok : regOk .g .g .no [0, 1] a.w = true) (hM : fM a.w = 1) (hagain : (s.m.lock l).againBlk (s.m.flockOf a).cmd = none) :
    (∀ idx, s.m.canProduce l = some idx → s.m.mustYield l (.flock a.core a.f i) a.k (s.m.prioOf (s.m.flockOf a)) s.m.clock = false → (s.m.flockOf a).wait = none →
      issues (.lkget a) s a fun t => s.m.finished t a i (fun r => r.putX (fD a.w) (BitVec.ofNat 64 (s.m.blockVa l idx))) ∧ t.dcacheOf a = [] ∧ s.m.sameMemory t
        ∧ (t.lock l).blks = (s.m.lock l).blks ++ [⟨(s.m.lock l).seq, idx, false, (s.m.flockOf a).cmd, 0, 0, [], 0, [], 0⟩])
    ∧ (s.m.canProduce l = none → issues (.lkget a) s a fun t => s.m.waitsOn t a 0x78 R.TH_WAIT_LOCK_SPACE ∧ s.m.sameMemory t
      ∧ (t.lock l).blks = (s.m.lock l).blks ∧ ∃ w, w ∈ (t.lock l).prodWait ∧ w.who = .flock a.core a.f i ∧ w.cl = a.k) := by
  refine ⟨fun idx hidx hyield hwait => ?_, fun hidx => ?_⟩
  · refine issues_lkget_taken (Q := fun bs => bs = (s.m.lock l).blks ++ [⟨(s.m.lock l).seq, idx, false, (s.m.flockOf a).cmd, 0, 0, [], 0, [], 0⟩])
      h htodo hok fun u hu => ?_
    obtain ⟨haside, hblks⟩ := takeBlock_run l idx (s.m.flockOf a).cmd u
    rw [hu.same.lock] at hblks
    exact ⟨_, haside, hblks, lkgetThread_produces hu hn hM hagain hidx hyield hwait⟩
  · refine issues_lkget_waits (Q := fun x => x.blks = (s.m.lock l).blks ∧ ∃ w, w ∈ x.prodWait ∧ w.who = .flock a.core a.f i ∧ w.cl = a.k) h htodo hok
      fun u hu => ⟨_, ?_, lkgetThread_full hu hn hM hagain hidx⟩
    have hwait := waitProducer_run l (u.lockWaiter a i slot) u
    rw [waitProducer, lock_onLock, hu.same.lock] at hwait
    exact hwait

/-- LKPUT of a block that the lock has. -/
theorem issues_lkput (hok : regOk .no .g .g [0, 1] a.w = true) {b : LockBlk} (hb : s.m.blockNamed a i l = some b) :
    (fM a.w = 1 → b.filled = false → (s.m.lock l).drain = 0 → (s.m.lock l).blks.find? (fun y => y.seq == b.seq) = some b →
      issues (.lkput a) s a fun t => s.m.finished t a i id ∧ s.m.sameMemory t
        ∧ (t.lock l).blks = (s.m.lock l).blks.map fun y => if y.seq = b.seq then { y with filled := true } else y)
    ∧ (fM a.w = 0 → bitAt b.taken slot = true → bitAt b.released slot = false → issues (.lkput a) s a fun t => s.m.finished t a i id ∧ s.m.sameMemory t
        ∧ (t.lock l).blks = ((s.m.lock l).blks.map fun y => if y.seq = b.seq then { y with released := y.released ||| 2 ^ slot } else y).filter
          fun y => !y.done (s.m.lockCons l))
    ∧ (fM a.w = 0 → bitAt b.taken slot = false ∨ bitAt b.released slot = true → issues (.lkput a) s a fun t => s.m.raised t a 7 0x70 (s.m.lockBlockAt a i) i false)
    ∧ (fM a.w = 1 → b.filled = true → b.again ≠ (s.m.flockOf a).cmd + 1 + 2 ^ 60 →
        issues (.lkput a) s a fun t => s.m.raised t a 7 0x70 (s.m.lockBlockAt a i) i false) := by
  have hrun {u : Dev} (hu : s.m.begun u a) : (lkputThread a i).run u = (lkputWith a i (s.m.flockOf a).cmd l slot (s.m.lockBlockAt a i) b).run u := by
    rw [lkputThread_run hu hn, hb]
  refine ⟨fun hM hf hdrain hfind => ?_, fun hM htaken hreleased => ?_, fun hM hstate => ?_, fun hM hf hagain => ?_⟩
  · refine issues_lkput_done (Q := fun bs => bs = (s.m.lock l).blks.map fun y => if y.seq = b.seq then { y with filled := true } else y) h htodo hok fun u hu => ?_
    obtain ⟨haside, hblks⟩ := commitBlk_run (s := u) (by rw [hu.same.lock]; exact hfind) hf (by rw [hu.same.lock]; exact hdrain)
    rw [hu.same.lock] at hblks
    refine ⟨_, haside, hblks, ?_⟩
    rw [hrun hu, lkputWith, if_pos hM, if_pos (by rw [hf]; rfl), run_progs_cons, run_progs_cons, run_progs_nil]
  · refine issues_lkput_done (Q := fun bs => bs = ((s.m.lock l).blks.map fun y => if y.seq = b.seq then { y with released := y.released ||| 2 ^ slot } else y).filter
      fun y => !y.done (s.m.lockCons l)) h htodo hok fun u hu => ?_
    obtain ⟨haside, hblks⟩ := releaseBlk_run l b.seq slot u
    rw [hu.same.lock, hu.lockCons] at hblks
    refine ⟨_, haside, hblks, ?_⟩
    rw [hrun hu, lkputWith, if_neg (by rw [hM]; decide), if_pos (by rw [htaken, hreleased]; rfl), run_progs_cons, run_progs_cons, run_progs_nil]
  · refine issues_lkput_bad h htodo hok fun u hu => ?_
    rw [hrun hu, lkputWith, if_neg (by rw [hM]; decide), if_neg (by rcases hstate with hs | hs <;> simp [hs])]
  · refine issues_lkput_bad h htodo hok fun u hu => ?_
    rw [hrun hu, lkputWith, if_pos hM, if_neg (by rw [hf, decide_eq_false hagain]; decide)]

end

/-- Settles O22: a thread's handle names a lock or none, and its operation finds a block, has to wait, or raises cause 7. -/
theorem threadLocks : Obligations.ThreadLocks := by
  intro s a i h htodo x hd va slot getOk putOk named view free bad
  have hnames {l : LockId} (hl : named l) (hM : fM a.w < 2) : s.m.threadNames a i = some (l, slot) := threadLock_of_names hl hM
  refine ⟨fun l hl => ⟨?_, ?_, ?_, ?_, ?_⟩, fun hl => ⟨fun hok => ?_, fun hok => ?_⟩⟩
  · exact fun hok hM b hb => issues_lkget_consumer h htodo (hnames hl (fM_lt_two hok)) hok hM hb
  · exact fun hok hM hb => issues_lkget_empty h htodo (hnames hl (fM_lt_two hok)) hok hM hb
  · exact fun hok hM hagain => issues_lkget_producer h htodo (hnames hl (fM_lt_two hok)) hok hM hagain
  · exact fun hok b hb => issues_lkput h htodo (hnames hl (fM_lt_two hok)) hok hb
  · intro hok hb
    refine issues_lkput_bad h htodo hok fun u hu => ?_
    rw [lkputThread_run hu (hnames hl (fM_lt_two hok)), show s.m.blockNamed a i l = none from hb]
  · exact issues_raised_of_thread h (exec_lkget a s) rfl (by decide) hok (by rw [htodo]; rfl) (by decide) (by decide)
      fun u hu => ⟨u, hu, lkgetThread_bad hu (threadLock_none hl)⟩
  · exact issues_lkput_bad h htodo hok fun u hu => lkputThread_bad hu (threadLock_none hl)

end Sys2Proof.Machine
end
